-- ==== Sys2Proof/Word.lean ====
section
/-! DEFINITION. The words of the W40: bytes, half words, 32-bit and 64-bit words (R9 to R11), and the sparse
tables in which the state keeps numbered things that are mostly at their default. -/
namespace Sys2Proof

/-- One byte of memory. -/
abbrev Byte := BitVec 8
/-- A 32-bit word: a vector register, a tile-store word, an FP32 or INT32 value. -/
abbrev W32 := BitVec 32
/-- A 64-bit word: a scalar register, a module register, a global address. -/
abbrev W64 := BitVec 64

/-- A sparse table: keys strictly rise. Where the state calls it canonical, no entry holds the default value. -/
abbrev Table (α : Type) := List (Nat × α)

end Sys2Proof
end

