-- ==== Sys2Proof/Config.lean ====
section
/-! DEFINITION. What assembly, fusing and test fix (R4 to R7, R21, R383, R468), and the free values: constants
without a body, of which no proof can know anything. -/
namespace Sys2Proof

/-- The three assembly variants of Table 0-2 (R4). -/
inductive Variant where
  | m14i4 | m12i6 | m10i8
  deriving DecidableEq, Repr

namespace Config

/-- Memory stacks of a variant (Table 0-2). -/
def stackNum : Variant → Nat
  | .m14i4 => 14 | .m12i6 => 12 | .m10i8 => 10
/-- I/O dies of a variant (Table 0-2). -/
def ioDies : Variant → Nat
  | .m14i4 => 4 | .m12i6 => 6 | .m10i8 => 8
/-- Link lanes in each torus direction (R25): four for each I/O die. -/
def lanesPerDir (v : Variant) : Nat := 4 * ioDies v
/-- Memory in GiB, 48 GiB for each stack (Table 0-2, Table 1-8). -/
def memGiB (v : Variant) : Nat := 48 * stackNum v
/-- The end of memory, exclusive (R165). -/
def memEnd (v : Variant) : Nat := memGiB v * 2 ^ 30

/-- The sites of the memory stacks, in stack order (Table 1-2). -/
def stackSites : Variant → List Nat
  | .m14i4 => [1, 2, 3, 4, 5, 6, 7, 8, 9, 10, 11, 12, 13, 14]
  | .m12i6 => [1, 2, 3, 4, 5, 6, 9, 10, 11, 12, 13, 14]
  | .m10i8 => [1, 2, 4, 5, 6, 9, 10, 11, 13, 14]
/-- The sites of the I/O dies, in I/O die order (Table 1-2). -/
def ioSites : Variant → List Nat
  | .m14i4 => [16, 17, 0, 15]
  | .m12i6 => [16, 17, 0, 15, 7, 8]
  | .m10i8 => [16, 17, 0, 15, 7, 8, 3, 12]
/-- The compute die to which a site is bridged (Table 1-2 and the text above it). -/
def siteDie (p : Nat) : Nat :=
  if p < 8 then p else if p < 16 then 24 + p else if p = 16 then 16 else 23
/-- The shift of the cap-to-treadle table of a variant, in watts (Table 12-4 and the text under it). -/
def capShift : Variant → Int
  | .m14i4 => -110 | .m12i6 => 0 | .m10i8 => 120

/-- The serial number, 16 bytes, fused (Table 15-15). Free: the manual gives no value. -/
opaque serialLo : W64
/-- See serialLo. -/
opaque serialHi : W64
/-- The silicon stepping, fused (Table 15-15). -/
opaque stepping : BitVec 16
/-- The hash of the root key fused in the management dies (R468). -/
opaque rootKeyHash : List Byte
/-- The voltage table of a die, recorded at test (R383): VMIN of point i in mV. -/
opaque vmin : Nat → Nat → BitVec 16
/-- The k-th fresh 256-bit nonce (R455). -/
opaque nonce : Nat → BitVec 256
/-- The k-th free 64-bit value: stands wherever the manual calls a value undefined. -/
opaque freeWord : Nat → W64
/-- The k-th run of undefined bytes: the j-th of them. -/
opaque freeByte : Nat → Nat → Byte
/-- A coherent choice the manual leaves to the device: the k-th. -/
opaque freeNat : Nat → Nat
/-- What the die's power estimator weighs an activity count with (R394 text, R396): calibrated at test. -/
opaque energy : Nat → Nat → Nat

/-- The idle draw of a die in milliwatts (R392): each die's own estimate; the manual gives no value. -/
opaque idleDraw : Nat → Nat

end Config
end Sys2Proof
end

