-- ==== Sys2Proof/Syntax.lean ====
section
/-! DEFINITION. The commands of the block: one constructor of Instr for each row of the table of commands, with the
operands the spec gives it. A tile instruction names the strand that issues it and carries its format's fields, the
reserved bits among them (Tables 4-3 to 4-9). A ring command names its session and ring: its fields stand in the
command entry taken by COMMAND_FETCH. What reaches the module from outside (host bytes, frames, findings of a
check, sensor readings) is an operand. -/
namespace Sys2Proof

/-- The strand that issues an instruction: global tile (R24) and strand number (R110). -/
structure Issuer where
  tile : Nat
  strand : Nat
  deriving DecidableEq, Repr

/-- Format R (Table 4-5) with the common fields PG and PN (Table 4-3). -/
structure FmtR where
  pg : BitVec 3
  pn : Bool
  rd : BitVec 6
  ra : BitVec 6
  rb : BitVec 6
  rc : BitVec 6
  fmt : BitVec 4
  rnd : BitVec 2
  sat : Bool
  fmt2 : BitVec 4
  rsv : BitVec 15
  deriving DecidableEq, Repr

/-- Format I (Table 4-6). -/
structure FmtI where
  pg : BitVec 3
  pn : Bool
  rd : BitVec 6
  ra : BitVec 6
  rsv : BitVec 6
  imm : BitVec 32
  deriving DecidableEq, Repr

/-- Format B (Table 4-7). -/
structure FmtB where
  pg : BitVec 3
  pn : Bool
  rs : BitVec 5
  rsv : BitVec 21
  off : BitVec 24
  deriving DecidableEq, Repr

/-- Format M (Table 4-8). -/
structure FmtM where
  pg : BitVec 3
  pn : Bool
  rd : BitVec 6
  base : BitVec 5
  vidx : BitVec 6
  fmt : BitVec 4
  rnd : BitVec 2
  sat : Bool
  mode : BitVec 2
  off : BitVec 24
  deriving DecidableEq, Repr

/-- Format D (Table 4-9). -/
structure FmtD where
  pg : BitVec 3
  pn : Bool
  sd : BitVec 5
  sa : BitVec 5
  sb : BitVec 5
  inl : BitVec 35
  deriving DecidableEq, Repr

/-- The function through which a host reaches BAR0: I/O die and function, 0 the PF, 1 to 16 a VF (R449). -/
structure Accessor where
  io : Nat
  fn : Nat
  deriving DecidableEq, Repr

/-- A 64 KiB unit the shuttle stages: of a STAGE operation (R134) or of the weft of a matrix command (R95). -/
inductive StagedUnit where
  | stage (strand : Nat) (tag : BitVec 16)
  | weft (num : Nat)
  deriving DecidableEq, Repr

/-- The kind of a remote operation (Table 4-19). -/
inductive RmtKind where
  | rd | wr | add
  deriving DecidableEq, Repr

/-- A remote request as it arrives at its target module: the fields of Table 4-19, who sent it, and its data. -/
structure RmtRequest where
  kind : RmtKind
  fromX : Nat
  fromY : Nat
  fromZ : Nat
  srcTile : Nat
  srcStrand : Nat
  srcTag : BitVec 16
  jobId : W32
  beyondSplit : Bool
  addr : W64
  len : Nat
  ordered : Bool
  intElem : Bool
  group : Nat
  index : Nat
  count : Nat
  data : List Byte
  deriving DecidableEq, Repr

/-- A dobby command entry as the sequencer reads it (Tables 7-4 and 15-2). -/
structure RunEntry where
  kind : BitVec 8
  stepEnd : Bool
  rsv0 : BitVec 23
  entry : BitVec 15
  rsv1 : BitVec 17
  args : W64
  first : BitVec 16
  count : BitVec 16
  cmdId : W32
  rsv2 : W64
  deriving DecidableEq, Repr

/-- What the snapshot of a rebuild finds beside the failing word (R174, R177). -/
inductive SnapFinding where
  | clean | secondWord | thrumWord
  deriving DecidableEq, Repr

/-- What the scrub finds in a group (R176 to R178). -/
inductive ScrubFinding where
  | clean
  | badWord (word : Nat) (found : SnapFinding)
  | badThrum
  | mismatch
  deriving DecidableEq, Repr

/-- What a stack reports of an access unit (Table 5-7). -/
inductive EccReport where
  | clean | corrected | uncorrected
  deriving DecidableEq, Repr

/-- A fabric flit (06, before R200): header of 4 words and payload of 16 words, one parity bit each, a poison mark
for each payload word, and the hop's sequence number. -/
structure FabFlit where
  seq : BitVec 12
  words : List W32
  parity : List Bool
  poison : BitVec 16
  src : Nat := 0
  dest : Nat := 0
  line : Nat := 0
  deriving DecidableEq, Repr

/-- A weft link flit (Table 8-1). -/
structure WeftFlit where
  seq : BitVec 16
  vc : BitVec 2
  ack : BitVec 16
  fstart : BitVec 5
  hcrc : BitVec 16
  payload : List Byte
  deriving DecidableEq, Repr

/-- A collective frame (Table 8-4). -/
structure Frame where
  jobId : W32
  comm : BitVec 16
  seq : BitVec 16
  kind : BitVec 4
  stage : BitVec 3
  len : BitVec 13
  round : W32
  chunk : BitVec 16
  sender : BitVec 16
  orderTag : W32
  side : W32
  crc : W32
  payload : List Byte
  deriving DecidableEq, Repr

/-- A frame that has come to a member; sound is what the residue unit finds of the additions its use makes (R287). -/
structure InFrame where
  fr : Frame
  sound : Bool
  deriving DecidableEq, Repr

/-- What training found of one lane (R258, R262). -/
structure LaneFinding where
  io : Nat
  lane : Nat
  up : Bool
  inverted : Bool
  reversed : Bool
  deriving DecidableEq, Repr

/-- A module's part in a detour (R275), by link direction: the hop is its own, and these are the directions whose neighbouring line has a working
link between the same two coordinates; or it lies on the way of others, and frames of a job and a stage that come by the
link go on in a direction, or no longer do. -/
inductive DetourPart where
  | hop (dir : Nat) (lines : List Nat)
  | relay (dir : Nat) (job : W32) (stage : Nat) (out : Option Nat)
  deriving DecidableEq, Repr

/-- For each axis x, y, z: the lowest hop k of a ring axis that is DOWN inside the job box, when one is (R272). -/
structure BoxLinks where
  x : Option Nat
  y : Option Nat
  z : Option Nat
  deriving DecidableEq, Repr

/-- What ORDER_CHANGE brings (R276): the lowest number of each COMM that no member elsewhere has started, and whether the
install reaches the members with it. -/
structure OrderStep where
  started : List (Nat × Nat)
  installed : Bool
  deriving DecidableEq, Repr

/-- A map record (Table 6-3). -/
structure MapRec where
  kind : Nat
  loom : Nat
  affIgnored : Bool
  forced : Bool
  obj : Nat
  addr : Nat
  bytes : Nat
  count : Nat
  first : Nat
  extra : Nat
  deriving DecidableEq, Repr

/-- An access to a row of an embedding table as it reaches its row agent (R217). -/
structure RowAccess where
  loom : Nat
  obj : Nat
  row : Nat
  write : Bool
  off : Nat
  data : List Byte
  deriving DecidableEq, Repr

/-- What the power manager measured in the last 1 ms window (R380 to R397): input voltages (10 mV) and currents
(100 mA), power (W), the estimate of the other dies (W), and each die's COLL_WAIT share in tenths of a percent. -/
structure PowerWindow where
  va : Nat
  vb : Nat
  ia : Nat
  ib : Nat
  measured : Nat
  otherDies : Nat
  waits : List (Nat × Nat)
  deriving DecidableEq, Repr

/-- A module's report to the anchor (R394). -/
structure ModuleReport where
  boxIndex : Nat
  lastCount : Nat
  windowCount : Nat
  capInForce : Nat
  configured : Nat
  borrowMax : Nat
  deriving DecidableEq, Repr

/-- Why borrowed or lent budget returns (R395). -/
inductive BorrowCause where
  | anchorSilent | jobStopped | lenderTimeout
  deriving DecidableEq, Repr

/-- A performance counter (R400). -/
inductive CounterId where
  | tile (tile n : Nat)
  | die (block n : Nat)
  deriving DecidableEq, Repr

/-- One manifest entry or shard as a restore presents it (Tables 14-5 and 14-6). -/
structure ShardData where
  header : List Byte
  payload : List Byte
  deriving DecidableEq, Repr

/-- The bytes a CKPT_RESTORE reads from its host buffers. -/
structure RestoreData where
  manifests : List (List Byte)
  shards : List ShardData
  deriving DecidableEq, Repr

/-- A command entry (Table 15-2) with its body, fetched from host memory when INDIRECT. -/
structure CmdEntry where
  opcode : Nat
  session : Nat
  sgen : Nat
  loom : Nat
  indirect : Bool
  rsv : Nat
  tag : W32
  bodyLen : Nat
  body : List Byte
  fetchError : Bool
  deriving DecidableEq, Repr

/-- A console write to a key slot (Table 15-1): fields left out keep their values. -/
structure SlotWrite where
  key : Option (List Byte)
  enabled : Option Bool
  admin : Option Bool
  loomQuota : Option Nat
  bayQuota : Option Nat
  deriving DecidableEq, Repr

/-- A firmware image: its header of 512 B and its body (Table 15-7). -/
structure Image where
  header : List Byte
  body : List Byte
  deriving DecidableEq, Repr

/-- A PLDM monitoring sensor (R466). -/
inductive Sensor where
  | voltage (inputB : Bool)
  | current (inputB : Bool)
  | inputPower (inputB : Bool)
  | modulePower
  | dieTemp (die : Nat)
  | stackTemp (stack : Nat)
  deriving DecidableEq, Repr

/-- What start-up finds (Table 15-8): which management die passes its test, the dies that fail, the stacks that
reach READY, the edges' working modules, the lanes that train, the ports' links, and PPS_SEL. -/
structure StartFinding where
  mg0Pass : Bool
  mg1Pass : Bool
  badDies : List Nat
  badBays : List Nat
  readyStacks : List Nat
  edgeModules : List (Nat × Nat)
  lanes : List LaneFinding
  partners : List (Nat × BitVec 15)
  ports : List (Nat × Nat × Nat)
  ppsDifferential : Bool
  deriving DecidableEq, Repr

/-- A command of the block: one constructor for each row of the table of commands, in its order. -/
inductive Instr where
  /-- ADD (R111) -/
  | add (at_ : Issuer) (f : FmtR)
  /-- SUB (R111) -/
  | sub (at_ : Issuer) (f : FmtR)
  /-- MUL (R111) -/
  | mul (at_ : Issuer) (f : FmtR)
  /-- MULH (R111) -/
  | mulh (at_ : Issuer) (f : FmtR)
  /-- AND (R111) -/
  | and_ (at_ : Issuer) (f : FmtR)
  /-- OR (R111) -/
  | or_ (at_ : Issuer) (f : FmtR)
  /-- XOR (R111) -/
  | xor_ (at_ : Issuer) (f : FmtR)
  /-- SHL (R111) -/
  | shl (at_ : Issuer) (f : FmtR)
  /-- SHR (R111) -/
  | shr (at_ : Issuer) (f : FmtR)
  /-- SRA (R111) -/
  | sra (at_ : Issuer) (f : FmtR)
  /-- MIN (R111) -/
  | min_ (at_ : Issuer) (f : FmtR)
  /-- MAX (R111) -/
  | max_ (at_ : Issuer) (f : FmtR)
  /-- CMPEQ (R111) -/
  | cmpeq (at_ : Issuer) (f : FmtR)
  /-- CMPLT (R111) -/
  | cmplt (at_ : Issuer) (f : FmtR)
  /-- CMPLTU (R111) -/
  | cmpltu (at_ : Issuer) (f : FmtR)
  /-- SEL (R111) -/
  | sel (at_ : Issuer) (f : FmtR)
  /-- SALU_FADD (R66) -/
  | saluFadd (at_ : Issuer) (f : FmtR)
  /-- SALU_FMUL (R66) -/
  | saluFmul (at_ : Issuer) (f : FmtR)
  /-- SALU_FFMA (R66) -/
  | saluFfma (at_ : Issuer) (f : FmtR)
  /-- ADDI (R111) -/
  | addi (at_ : Issuer) (f : FmtI)
  /-- ANDI (R111) -/
  | andi (at_ : Issuer) (f : FmtI)
  /-- ORI (R111) -/
  | ori (at_ : Issuer) (f : FmtI)
  /-- XORI (R111) -/
  | xori (at_ : Issuer) (f : FmtI)
  /-- SHLI (R111) -/
  | shli (at_ : Issuer) (f : FmtI)
  /-- SHRI (R111) -/
  | shri (at_ : Issuer) (f : FmtI)
  /-- LUI (R111) -/
  | lui (at_ : Issuer) (f : FmtI)
  /-- LI (R111) -/
  | li (at_ : Issuer) (f : FmtI)
  /-- VLI (R116) -/
  | vli (at_ : Issuer) (f : FmtI)
  /-- BRA (R123) -/
  | bra (at_ : Issuer) (f : FmtB)
  /-- BZ (R123) -/
  | bz (at_ : Issuer) (f : FmtB)
  /-- BNZ (R123) -/
  | bnz (at_ : Issuer) (f : FmtB)
  /-- BLTZ (R123) -/
  | bltz (at_ : Issuer) (f : FmtB)
  /-- CALL (R119) -/
  | call (at_ : Issuer) (f : FmtB)
  /-- RET (R119) -/
  | ret (at_ : Issuer) (f : FmtB)
  /-- LOOP (R123) -/
  | loop_ (at_ : Issuer) (f : FmtB)
  /-- FADD (R66) -/
  | fadd (at_ : Issuer) (f : FmtR)
  /-- FSUB (R66) -/
  | fsub (at_ : Issuer) (f : FmtR)
  /-- FMUL (R66) -/
  | fmul (at_ : Issuer) (f : FmtR)
  /-- FFMA (R66) -/
  | ffma (at_ : Issuer) (f : FmtR)
  /-- FDIV (R66) -/
  | fdiv (at_ : Issuer) (f : FmtR)
  /-- FSQRT (R66) -/
  | fsqrt (at_ : Issuer) (f : FmtR)
  /-- FRSQ (R66) -/
  | frsq (at_ : Issuer) (f : FmtR)
  /-- FEXP2 (R66) -/
  | fexp2 (at_ : Issuer) (f : FmtR)
  /-- FLOG2 (R66) -/
  | flog2 (at_ : Issuer) (f : FmtR)
  /-- FMIN (R66) -/
  | fmin (at_ : Issuer) (f : FmtR)
  /-- FMAX (R66) -/
  | fmax (at_ : Issuer) (f : FmtR)
  /-- FCMPLT (R116) -/
  | fcmplt (at_ : Issuer) (f : FmtR)
  /-- FCMPEQ (R116) -/
  | fcmpeq (at_ : Issuer) (f : FmtR)
  /-- IADD (R116) -/
  | iadd (at_ : Issuer) (f : FmtR)
  /-- ISUB (R116) -/
  | isub (at_ : Issuer) (f : FmtR)
  /-- IMUL (R116) -/
  | imul (at_ : Issuer) (f : FmtR)
  /-- IAND (R116) -/
  | iand (at_ : Issuer) (f : FmtR)
  /-- IOR (R116) -/
  | ior (at_ : Issuer) (f : FmtR)
  /-- IXOR (R116) -/
  | ixor (at_ : Issuer) (f : FmtR)
  /-- ISHL (R116) -/
  | ishl (at_ : Issuer) (f : FmtR)
  /-- ISHR (R116) -/
  | ishr (at_ : Issuer) (f : FmtR)
  /-- ICMPLT (R116) -/
  | icmplt (at_ : Issuer) (f : FmtR)
  /-- MOV (R116) -/
  | mov (at_ : Issuer) (f : FmtR)
  /-- BCAST (R116) -/
  | bcast (at_ : Issuer) (f : FmtR)
  /-- PAND (R116) -/
  | pand (at_ : Issuer) (f : FmtR)
  /-- POR (R116) -/
  | por (at_ : Issuer) (f : FmtR)
  /-- PNOT (R116) -/
  | pnot (at_ : Issuer) (f : FmtR)
  /-- REDADD (R124) -/
  | redadd (at_ : Issuer) (f : FmtR)
  /-- REDMAX (R124) -/
  | redmax (at_ : Issuer) (f : FmtR)
  /-- SHFL (R116) -/
  | shfl (at_ : Issuer) (f : FmtR)
  /-- CVT (R125) -/
  | cvt (at_ : Issuer) (f : FmtR)
  /-- MXQ (R126) -/
  | mxq (at_ : Issuer) (f : FmtR)
  /-- MXDQ (R125) -/
  | mxdq (at_ : Issuer) (f : FmtR)
  /-- LD_S (R129) -/
  | ldS (at_ : Issuer) (f : FmtM)
  /-- ST_S (R156) -/
  | stS (at_ : Issuer) (f : FmtM)
  /-- LD_V (R130) -/
  | ldV (at_ : Issuer) (f : FmtM)
  /-- ST_V (R130) -/
  | stV (at_ : Issuer) (f : FmtM)
  /-- LD_VC (R129) -/
  | ldVc (at_ : Issuer) (f : FmtM)
  /-- ST_VC (R127) -/
  | stVc (at_ : Issuer) (f : FmtM)
  /-- MMA (R131) -/
  | mma (at_ : Issuer) (f : FmtD)
  /-- FOLD (R104) -/
  | fold (at_ : Issuer) (f : FmtD)
  /-- DRAIN (R86) -/
  | drain (at_ : Issuer) (f : FmtD)
  /-- RETIRE (R103) -/
  | retire_ (at_ : Issuer) (f : FmtD)
  /-- MATRIX_COMMAND_ISSUE (R106) -/
  | matrixCommandIssue (tile : Nat)
  /-- MATRIX_LAST_ROUNDING (R109) -/
  | matrixLastRounding (tile num : Nat)
  /-- SCOREBOARD_WRITE_LANDS (R103) -/
  | scoreboardWriteLands (tile num : Nat)
  /-- STAGE (R134) -/
  | stage (at_ : Issuer) (f : FmtD)
  /-- STAGE_UNIT_LANDED (R95) -/
  | stageUnitLanded (tile : Nat) (u : StagedUnit)
  /-- WCOPY (R301) -/
  | wcopy (at_ : Issuer) (f : FmtD)
  /-- WCOPY_COMPLETE (R301) -/
  | wcopyComplete (at_ : Issuer) (tag : BitVec 16)
  /-- COPY (R136) -/
  | copy_ (at_ : Issuer) (f : FmtD)
  /-- GATHER (R136) -/
  | gather (at_ : Issuer) (f : FmtD)
  /-- SCATTER (R137) -/
  | scatter (at_ : Issuer) (f : FmtD)
  /-- EBAG (R68) -/
  | ebag (at_ : Issuer) (f : FmtD)
  /-- XFER_COMPLETE (R157) -/
  | xferComplete (at_ : Issuer) (tag : BitVec 16)
  /-- RMT_RD (R139) -/
  | rmtRd (at_ : Issuer) (f : FmtD)
  /-- RMT_WR (R160) -/
  | rmtWr (at_ : Issuer) (f : FmtD)
  /-- RMT_ADD (R140) -/
  | rmtAdd (at_ : Issuer) (f : FmtD)
  /-- RMT_REQUESTS (R140) -/
  | rmtRequests (q : RmtRequest)
  /-- RMT_RESPONSES (R139) -/
  | rmtResponses (at_ : Issuer) (tag : BitVec 16) (status : Byte) (data : List Byte)
  /-- RS (R269) -/
  | rs (at_ : Issuer) (f : FmtD)
  /-- AG (R270) -/
  | ag (at_ : Issuer) (f : FmtD)
  /-- AR (R269) -/
  | ar (at_ : Issuer) (f : FmtD)
  /-- SHIFT (R292) -/
  | shift_ (at_ : Issuer) (f : FmtD)
  /-- PERM (R292) -/
  | perm (at_ : Issuer) (f : FmtD)
  /-- X2X (R293) -/
  | x2x (at_ : Issuer) (f : FmtD)
  /-- COLL_COMPLETE (R142) -/
  | collComplete (at_ : Issuer) (tag : BitVec 16)
  /-- WAIT (R145) -/
  | wait_ (at_ : Issuer) (f : FmtD)
  /-- WAITALL (R145) -/
  | waitall (at_ : Issuer) (f : FmtD)
  /-- FENCE (R159) -/
  | fence (at_ : Issuer) (f : FmtD)
  /-- BAR (R158) -/
  | bar (at_ : Issuer) (f : FmtD)
  /-- SEMACQ (R146) -/
  | semacq (at_ : Issuer) (f : FmtD)
  /-- SEMTRY (R146) -/
  | semtry (at_ : Issuer) (f : FmtD)
  /-- SEMREL (R147) -/
  | semrel (at_ : Issuer) (f : FmtD)
  /-- FACT (R149) -/
  | fact (at_ : Issuer) (f : FmtD)
  /-- SOLV (R149) -/
  | solv (at_ : Issuer) (f : FmtD)
  /-- TOPK (R151) -/
  | topk (at_ : Issuer) (f : FmtD)
  /-- NORMACC (R152) -/
  | normacc (at_ : Issuer) (f : FmtD)
  /-- SPEC_COMPLETE (R149) -/
  | specComplete (at_ : Issuer) (tag : BitVec 16)
  /-- RDSR (R153) -/
  | rdsr (at_ : Issuer) (f : FmtI)
  /-- CLRASW (R128) -/
  | clrasw (at_ : Issuer) (f : FmtI)
  /-- NOP (R115) -/
  | nop (at_ : Issuer) (f : FmtI)
  /-- END (R121) -/
  | endStrand (at_ : Issuer) (f : FmtI)
  /-- RUN (R237) -/
  | run (loom : Nat) (e : RunEntry)
  /-- DOBBY_COMMAND_END (R121) -/
  | dobbyCommandEnd (loom : Nat)
  /-- TILE_STORE_REBUILD (R174) -/
  | tileStoreRebuild (tile word : Nat) (found : SnapFinding)
  /-- TS_THRUM_REBUILD (R176) -/
  | tsThrumRebuild (tile group : Nat)
  /-- SCRUB (R178) -/
  | scrub (tile group : Nat) (found : ScrubFinding)
  /-- STACK_ACCESS_RETURN (R185) -/
  | stackAccessReturn (addr : Nat) (report : EccReport) (consumer : Option Nat)
  /-- STK_REPLAY (R187) -/
  | stkReplay (addrs : List Nat) (recovered : Bool)
  /-- STACK_FAILED (R189) -/
  | stackFailed (stack : Nat)
  /-- FLIT_RECEIVE (R200) -/
  | flitReceive (port : Nat) (flit : FabFlit) (line : Nat)
  /-- FABRIC_REPLAY_REQUEST (R200) -/
  | fabricReplayRequest (port : Nat) (seq : BitVec 12)
  /-- FLIT_ACKNOWLEDGE (R200) -/
  | flitAcknowledge (port : Nat) (seq : BitVec 12)
  /-- PLC_INTENT (R204) -/
  | plcIntent (session ring : Nat)
  /-- PLC_MAP_READ (R212) -/
  | plcMapRead (session ring : Nat)
  /-- PLC_FORCE (R222) -/
  | plcForce (loom : Nat) (records : List MapRec)
  /-- ROW_AGENT_ACCESS (R217) -/
  | rowAgentAccess (a : RowAccess)
  /-- MIGRATION_EPOCH_END (R218) -/
  | migrationEpochEnd
  /-- HOME_DATA_LANDS (R219) -/
  | homeDataLands (loom obj slot : Nat) (poisoned : Bool)
  /-- HOME_WRITE_ACCEPTED (R219) -/
  | homeWriteAccepted (loom obj slot : Nat)
  /-- PLC_MIG_CTRL_WRITE (R225) -/
  | plcMigCtrlWrite (who : Accessor) (value : W64)
  /-- LOOM_CREATE (R227) -/
  | loomCreate (session ring : Nat)
  /-- LOOM_CONFIG (R234) -/
  | loomConfig (session ring : Nat)
  /-- PROG_LOAD (R119) -/
  | progLoad (session ring : Nat) (image : List W64)
  /-- LOOM_START (R238) -/
  | loomStart (session ring : Nat)
  /-- LOOM_STOP_BOUNDARY (R251) -/
  | loomStopBoundary (session ring : Nat)
  /-- LOOM_STOP_CUT (R251) -/
  | loomStopCut (session ring : Nat)
  /-- LOOM_PREEMPT (R240) -/
  | loomPreempt (session ring : Nat)
  /-- LOOM_RESUME (R238) -/
  | loomResume (session ring : Nat)
  /-- LOOM_DELETE (R233) -/
  | loomDelete (session ring : Nat)
  /-- SEM_CREATE (R248) -/
  | semCreate (session ring : Nat)
  /-- SEM_DELETE (R233) -/
  | semDelete (session ring : Nat)
  /-- HOLDER_SELECT (R238) -/
  | holderSelect (loom : Nat)
  /-- SOFT_WAIT_EXPIRY (R241) -/
  | softWaitExpiry (loom : Nat)
  /-- PREEMPT_GRACE_EXPIRY (R241) -/
  | preemptGraceExpiry (loom : Nat)
  /-- SAVE_IMAGE_WRITTEN (R243) -/
  | saveImageWritten (loom us : Nat)
  /-- RESTORE_COMPLETE (R164) -/
  | restoreComplete (loom us : Nat)
  /-- LOOM_STOPPED (R235) -/
  | loomStopped (loom : Nat)
  /-- LINK_COORD_CHECK (R259) -/
  | linkCoordCheck (dir : Nat) (partner : BitVec 15)
  /-- LINK_FLIT (R261) -/
  | linkFlit (dir : Nat) (flit : WeftFlit) (fecOk : Bool)
  /-- LINK_REPLAY (R261) -/
  | linkReplay (dir : Nat) (seq : BitVec 16)
  /-- LANE_DROP (R262) -/
  | laneDrop (io lane : Nat)
  /-- LINK_RETRAIN (R262) -/
  | linkRetrain (who : Accessor) (value : W64) (found : List LaneFinding)
  /-- DETOUR (R275) -/
  | detour (part : DetourPart)
  /-- ORDER_CHANGE (R276) -/
  | orderChange (loom : Nat) (down : BoxLinks) (order : OrderStep)
  /-- SPLIT (R277) -/
  | splitTorus (loom : Nat) (inAnchorHalf : Bool)
  /-- COLL_CONFIG (R264) -/
  | collConfig (session ring : Nat)
  /-- PARTIAL (R280) -/
  | partialFrame (tile : Nat) (fr : Frame) (residueOk : Bool)
  /-- FINAL (R69) -/
  | finalFrame (tile : Nat) (fr : Frame)
  /-- CONTRIB (R288) -/
  | contribFrame (tile : Nat) (fr : InFrame)
  /-- MOVE (R292) -/
  | moveFrame (tile : Nat) (fr : Frame)
  /-- COUNTS (R294) -/
  | countsFrame (tile : Nat) (fr : Frame)
  /-- SCALAR (R291) -/
  | scalarFrame (tile : Nat) (fr : InFrame)
  /-- REPLAY_REQ (R281) -/
  | replayReqFrame (tile : Nat) (fr : Frame)
  /-- ACK (R282) -/
  | ackFrame (tile : Nat) (fr : Frame)
  /-- ABORT (R283) -/
  | abortFrame (tile : Nat) (fr : Frame)
  /-- ADDER_SELFTEST (R285) -/
  | adderSelftest (die adder : Nat) (pass : Bool)
  /-- LRN_CONFIG (R305) -/
  | lrnConfig (session ring : Nat)
  /-- LRN_BIND (R298) -/
  | lrnBind (session ring : Nat)
  /-- LRN_UNBIND (R300) -/
  | lrnUnbind (session ring : Nat)
  /-- SRV_CONFIG (R323) -/
  | srvConfig (session ring : Nat)
  /-- SRV_SUBMIT (R325) -/
  | srvSubmit (session ring : Nat) (prompt : List W32)
  /-- SRV_CANCEL (R337) -/
  | srvCancel (session ring : Nat)
  /-- SRV_PREFIX_DROP (R346) -/
  | srvPfxDrop (session ring : Nat)
  /-- BATCH_STEP_FORM (R329) -/
  | batchStepForm (loom : Nat)
  /-- DEADLINE (R338) -/
  | deadline (entry : Nat)
  /-- SRV_REQ_CONS_WRITE (R332) -/
  | srvReqConsWrite (who : Accessor) (entry : Nat) (value : W64)
  /-- SHED_WEAVE (R347) -/
  | shedWeave (session ring : Nat)
  /-- SHED_UNWEAVE (R349) -/
  | shedUnweave (session ring : Nat)
  /-- PICK_WAIT (R355) -/
  | pickWait (weave : Nat)
  /-- SOURCE_BLOCK_COPY (R357) -/
  | sourceBlockCopy (weave block : Nat)
  /-- PICK_COPIED (R355) -/
  | pickCopied (weave : Nat)
  /-- INPUT_GOOD (R374) -/
  | inputGood (inputB : Bool) (v10mv : Nat)
  /-- INPUT_LOST (R377) -/
  | inputLost (inputB : Bool) (v10mv : Nat)
  /-- OVERVOLT (R375) -/
  | inputOvervolt (inputB : Bool) (v10mv : Nat)
  /-- SHORT (R375) -/
  | inputShort (inputB : Bool)
  /-- REVERSED (R375) -/
  | inputReversed (inputB : Bool)
  /-- SENSE_OPEN (R374) -/
  | senseOpen (inputB : Bool)
  /-- SENSE_RESTORE (R374) -/
  | senseRestore (inputB : Bool)
  /-- BACKUP_CONDUCTION (R376) -/
  | backupConduction (va vb : Nat)
  /-- SUPPLY_SWITCH_END (R377) -/
  | supplySwitchEnd
  /-- AUTO_RETURN (R378) -/
  | autoReturn
  /-- MODULE_POWER_LOSS (R379) -/
  | modulePowerLoss
  /-- POWER_CONTROL_TICK (R381) -/
  | powerControlTick (m : PowerWindow)
  /-- DIE_POWER_LOOP (R396) -/
  | diePowerLoop (die : Nat) (counts : List Nat)
  /-- BUDGET_REPORT (R394) -/
  | budgetReport (loom : Nat) (reports : List ModuleReport)
  /-- BORROW_RELEASE (R395) -/
  | borrowRelease (amount : Nat)
  /-- BORROW_REVERT (R395) -/
  | borrowRevert (cause : BorrowCause)
  /-- RAIL_SETPOINT_REACHED (R385) -/
  | railSetpointReached (die : Nat)
  /-- RAIL_FALL_DELAY (R385) -/
  | railFallDelay (die : Nat)
  /-- DROOP (R386) -/
  | droop (die : Nat)
  /-- DROOP_RECOVERY (R386) -/
  | droopRecovery (die : Nat) (paced : Bool)
  /-- THERMAL_LIMIT_TICK (R388) -/
  | thermalLimitTick (die tempC : Nat)
  /-- THERMAL_TRIP (R388) -/
  | thermalTrip (die tempC : Nat)
  /-- THROTTLE_EPISODE_END (R389) -/
  | throttleEpisodeEnd (reason : Nat)
  /-- PWR_LOOM_HOST_WRITE (R387) -/
  | pwrLoomHostWrite (who : Accessor) (loom : Nat) (value : W64)
  /-- REFCLK_LOST (R39) -/
  | refclkLost
  /-- REFCLK_RESTORED (R39) -/
  | refclkRestored
  /-- PLL_LOCK (R398) -/
  | pllLock
  /-- TLM_CONFIG (R413) -/
  | tlmConfig (session ring : Nat)
  /-- TLM_RUN (R402) -/
  | tlmRun (who : Accessor) (value : W64)
  /-- TLM_DIE_CFG_WRITE (R402) -/
  | tlmDieCfgWrite (who : Accessor) (off : Nat) (value : W64)
  /-- CNT_OVF (R405) -/
  | cntOvf (c : CounterId) (v prev : Nat)
  /-- SAMPLE_OVERFLOW (R410) -/
  | sampleOverflow (tile n : Nat) (strand : Option Nat) (v prev : Nat)
  /-- SAMPLE_RECORD (R411) -/
  | sampleRecord (tile strand : Nat) (insn : W64)
  /-- DUMP_SNAPSHOT (R409) -/
  | dumpSnapshot (loom : Option Nat) (busy : Bool)
  /-- PPS_EDGE (R417) -/
  | ppsEdge (errNs : Int) (sinceNs : Nat)
  /-- PPS_LOST (R418) -/
  | ppsLost
  /-- PPS_SHORT (R485) -/
  | ppsShort
  /-- PPS_OPEN (R485) -/
  | ppsOpen
  /-- PPS_FAULT_CLEAR (R418) -/
  | ppsFaultClear (open_ : Bool)
  /-- PPS_INVERT (R419) -/
  | ppsInvert
  /-- SVC_FAILOVER (R424) -/
  | svcFailover
  /-- MANAGEMENT_LOSS (R425) -/
  | managementLoss
  /-- BAY_SELFTEST (R428) -/
  | baySelftest (bays failed : List Nat)
  /-- BAY_TEST_COMPLETE (R427) -/
  | bayTestComplete (bays failed : List Nat)
  /-- ADVISORY_MINUTE_TICK (R430) -/
  | advisoryMinuteTick
  /-- CKPT_SET (R432) -/
  | ckptSet (session ring : Nat)
  /-- CKPT_TRIGGER (R433) -/
  | ckptTrigger (session ring : Nat)
  /-- CKPT_STARTED (R433) -/
  | ckptStarted (loom : Nat) (step : W64) (digest : List Byte)
  /-- CKPT_DONE (R437) -/
  | ckptDone (loom : Nat)
  /-- CKPT_REPORT (R437) -/
  | ckptReport (loom boxIndex : Nat) (status : Byte) (bytes : Nat)
  /-- CKPT_RESTORE (R440) -/
  | ckptRestore (session ring : Nat) (d : RestoreData)
  /-- RESTORE_REPORT (R442) -/
  | restoreReport (loom boxIndex : Nat) (runId step : W64) (digest : List Byte)
  /-- RESTORE_RELEASE (R443) -/
  | restoreRelease (loom : Nat)
  /-- PERST (R481) -/
  | perst (io : Nat)
  /-- FUNCTION_LEVEL_RESET (R450) -/
  | functionLevelReset (io fn : Nat) (vfs : Option Nat)
  /-- PORT_DOWN (R458) -/
  | portDown (io : Nat)
  /-- CHALLENGE (R455) -/
  | challenge (who : Accessor) (slot : Nat)
  /-- RESPOND (R455) -/
  | respond (who : Accessor) (slot : Nat)
  /-- CLOSE (R458) -/
  | sessClose (who : Accessor)
  /-- CHALLENGE_EXPIRY (R455) -/
  | challengeExpiry (who : Accessor)
  /-- AUTH_LOCK_EXPIRY (R456) -/
  | authLockExpiry (slot : Nat)
  /-- CMD_DOORBELL (R460) -/
  | cmdDoorbell (who : Accessor) (ring : Nat) (value : W64)
  /-- COMMAND_FETCH (R461) -/
  | commandFetch (session ring : Nat) (e : CmdEntry)
  /-- CPL_HEAD_WRITE (R461) -/
  | cplHeadWrite (who : Accessor) (ring : Nat) (value : W64)
  /-- EVT_RING_HEAD_WRITE (R464) -/
  | evtRingHeadWrite (who : Accessor) (value : W64)
  /-- MSIX_MODERATION (R463) -/
  | msixModeration (session : Nat) (ring : Option Nat) (byTime : Bool)
  /-- RING_CREATE (R459) -/
  | ringCreate (session ring : Nat)
  /-- RING_DELETE (R462) -/
  | ringDelete (session ring : Nat)
  /-- SESSION_CLOSE (R458) -/
  | sessionClose (session ring : Nat)
  /-- XFER_TO_DEV (R465) -/
  | xferToDev (session ring : Nat) (bytes : List Byte)
  /-- XFER_FROM_DEV (R465) -/
  | xferFromDev (session ring : Nat)
  /-- CONSOLE_SETUP (R454) -/
  | consoleSetup (password salt : List Byte)
  /-- CONSOLE_LOGIN (R453) -/
  | consoleLogin (password : List Byte)
  /-- CONSOLE_LOGOUT (R453) -/
  | consoleLogout
  /-- CONSOLE_LOGIN_TIMEOUT (R453) -/
  | consoleLoginTimeout
  /-- CONSOLE_LOCK_EXPIRY (R453) -/
  | consoleLockExpiry
  /-- KEY_SLOT_WRITE (R452) -/
  | keySlotWrite (slot : Nat) (w : SlotWrite)
  /-- PASSWORD_CHANGE (R453) -/
  | passwordChange (password salt : List Byte)
  /-- CAP_SET (R380) -/
  | capSet (watts : Nat)
  /-- PWR_CTRL_SET (R467) -/
  | pwrCtrlSet (borrowMax : Option Nat) (uniform autoReturn : Option Bool) (mode : Option Nat)
  /-- TELEMETRY_OWNER_SET (R402) -/
  | telemetryOwnerSet (session : Option Nat)
  /-- TIMEBASE_SET (R416) -/
  | timebaseSet (mode : Option Bool) (offsetNs : Option Int) (seconds : Option W64)
  /-- ADVISORY_THRESHOLD_SET (R430) -/
  | advisoryThresholdSet (cause threshold : Nat)
  /-- SELFTEST_PERIOD_SET (R428) -/
  | selftestPeriodSet (hours : Option Nat) (preempt : Option Bool)
  /-- COORDINATE_SET (R467) -/
  | coordinateSet (coord : BitVec 15)
  /-- TEST_MODE (R467) -/
  | testMode (enter : Bool)
  /-- COMMIT_SVN (R469) -/
  | commitSvn
  /-- FIRMWARE_UPDATE (R469) -/
  | firmwareUpdate (image : Image)
  /-- PLDM_MONITOR_READ (R466) -/
  | pldmMonitorRead (sensor : Sensor)
  /-- PLDM_FRU_READ (R466) -/
  | pldmFruRead
  /-- BOOT_FALLBACK (R468) -/
  | bootFallback
  /-- START_UP (R470) -/
  | startUp (f : StartFinding)
  /-- MODULE_RESET (R480) -/
  | moduleReset
  /-- AUX_OVERLOAD (R490) -/
  | auxOverload (io dir : Nat)
  /-- AUX_RETRY (R490) -/
  | auxRetry (io dir : Nat) (ok : Bool)
  /-- LINK_PORT_PRESENCE (R490) -/
  | linkPortPresence (io dir : Nat) (present : Bool)
  /-- CLEAR_STK (R14) -/
  | clearStk (who : Accessor)
  /-- CLEAR_TS (R14) -/
  | clearTs (who : Accessor)
  /-- FAB_CNT_CLEAR (R14) -/
  | fabCntClear (who : Accessor)
  /-- COLL_CNT_CLEAR (R14) -/
  | collCntClear (who : Accessor)
  /-- LINK_CNT_CLEAR (R14) -/
  | linkCntClear (who : Accessor)
  /-- RC_REGISTER_READ (R14) -/
  | rcRegisterRead (who : Accessor) (off width : Nat)
  /-- REGISTER_WRITE (R14) -/
  | registerWrite (who : Accessor) (off width : Nat) (value : W64)
  /-- JUNCTION_LIMIT (R388) -/
  | junctionLimit (die tempC : Nat)
  /-- HOST_LINK_UP (R458) -/
  | hostLinkUp (io width rate : Nat) (flit : Bool)
  /-- SDA_STUCK_LOW (R491) -/
  | sdaStuckLow
  deriving DecidableEq, Repr

end Sys2Proof
end

