-- ==== Sys2Proof/WellFormed.lean ====
section
/-! DEFINITION. Which commands are well-formed: every number names a part that exists (Table 1-3, Table 15-16). The
machine gives an ill-formed command no effect of its own: a number that names nothing finds nothing. -/
namespace Sys2Proof

/-- The issuer is one of the 5,120 tiles and one of its 16 strands (R24). -/
def atOk (a : Issuer) : Bool := a.tile < 5120 && a.strand < 16

/-- A command is well-formed. -/
def Instr.wf : Instr → Bool
  | .add at_ _ => atOk at_
  | .sub at_ _ => atOk at_
  | .mul at_ _ => atOk at_
  | .mulh at_ _ => atOk at_
  | .and_ at_ _ => atOk at_
  | .or_ at_ _ => atOk at_
  | .xor_ at_ _ => atOk at_
  | .shl at_ _ => atOk at_
  | .shr at_ _ => atOk at_
  | .sra at_ _ => atOk at_
  | .min_ at_ _ => atOk at_
  | .max_ at_ _ => atOk at_
  | .cmpeq at_ _ => atOk at_
  | .cmplt at_ _ => atOk at_
  | .cmpltu at_ _ => atOk at_
  | .sel at_ _ => atOk at_
  | .saluFadd at_ _ => atOk at_
  | .saluFmul at_ _ => atOk at_
  | .saluFfma at_ _ => atOk at_
  | .addi at_ _ => atOk at_
  | .andi at_ _ => atOk at_
  | .ori at_ _ => atOk at_
  | .xori at_ _ => atOk at_
  | .shli at_ _ => atOk at_
  | .shri at_ _ => atOk at_
  | .lui at_ _ => atOk at_
  | .li at_ _ => atOk at_
  | .vli at_ _ => atOk at_
  | .bra at_ _ => atOk at_
  | .bz at_ _ => atOk at_
  | .bnz at_ _ => atOk at_
  | .bltz at_ _ => atOk at_
  | .call at_ _ => atOk at_
  | .ret at_ _ => atOk at_
  | .loop_ at_ _ => atOk at_
  | .fadd at_ _ => atOk at_
  | .fsub at_ _ => atOk at_
  | .fmul at_ _ => atOk at_
  | .ffma at_ _ => atOk at_
  | .fdiv at_ _ => atOk at_
  | .fsqrt at_ _ => atOk at_
  | .frsq at_ _ => atOk at_
  | .fexp2 at_ _ => atOk at_
  | .flog2 at_ _ => atOk at_
  | .fmin at_ _ => atOk at_
  | .fmax at_ _ => atOk at_
  | .fcmplt at_ _ => atOk at_
  | .fcmpeq at_ _ => atOk at_
  | .iadd at_ _ => atOk at_
  | .isub at_ _ => atOk at_
  | .imul at_ _ => atOk at_
  | .iand at_ _ => atOk at_
  | .ior at_ _ => atOk at_
  | .ixor at_ _ => atOk at_
  | .ishl at_ _ => atOk at_
  | .ishr at_ _ => atOk at_
  | .icmplt at_ _ => atOk at_
  | .mov at_ _ => atOk at_
  | .bcast at_ _ => atOk at_
  | .pand at_ _ => atOk at_
  | .por at_ _ => atOk at_
  | .pnot at_ _ => atOk at_
  | .redadd at_ _ => atOk at_
  | .redmax at_ _ => atOk at_
  | .shfl at_ _ => atOk at_
  | .cvt at_ _ => atOk at_
  | .mxq at_ _ => atOk at_
  | .mxdq at_ _ => atOk at_
  | .ldS at_ _ => atOk at_
  | .stS at_ _ => atOk at_
  | .ldV at_ _ => atOk at_
  | .stV at_ _ => atOk at_
  | .ldVc at_ _ => atOk at_
  | .stVc at_ _ => atOk at_
  | .mma at_ _ => atOk at_
  | .fold at_ _ => atOk at_
  | .drain at_ _ => atOk at_
  | .retire_ at_ _ => atOk at_
  | .matrixCommandIssue tile => (tile < 5120)
  | .matrixLastRounding tile _ => (tile < 5120)
  | .scoreboardWriteLands tile _ => (tile < 5120)
  | .stage at_ _ => atOk at_
  | .stageUnitLanded tile _ => (tile < 5120)
  | .wcopy at_ _ => atOk at_
  | .wcopyComplete at_ _ => atOk at_
  | .copy_ at_ _ => atOk at_
  | .gather at_ _ => atOk at_
  | .scatter at_ _ => atOk at_
  | .ebag at_ _ => atOk at_
  | .xferComplete at_ _ => atOk at_
  | .rmtRd at_ _ => atOk at_
  | .rmtWr at_ _ => atOk at_
  | .rmtAdd at_ _ => atOk at_
  | .rmtRequests _ => true
  | .rmtResponses at_ _ _ _ => atOk at_
  | .rs at_ _ => atOk at_
  | .ag at_ _ => atOk at_
  | .ar at_ _ => atOk at_
  | .shift_ at_ _ => atOk at_
  | .perm at_ _ => atOk at_
  | .x2x at_ _ => atOk at_
  | .collComplete at_ _ => atOk at_
  | .wait_ at_ _ => atOk at_
  | .waitall at_ _ => atOk at_
  | .fence at_ _ => atOk at_
  | .bar at_ _ => atOk at_
  | .semacq at_ _ => atOk at_
  | .semtry at_ _ => atOk at_
  | .semrel at_ _ => atOk at_
  | .fact at_ _ => atOk at_
  | .solv at_ _ => atOk at_
  | .topk at_ _ => atOk at_
  | .normacc at_ _ => atOk at_
  | .specComplete at_ _ => atOk at_
  | .rdsr at_ _ => atOk at_
  | .clrasw at_ _ => atOk at_
  | .nop at_ _ => atOk at_
  | .endStrand at_ _ => atOk at_
  | .run loom _ => (loom < 32)
  | .dobbyCommandEnd loom => (loom < 32)
  | .tileStoreRebuild tile _ _ => (tile < 5120)
  | .tsThrumRebuild tile _ => (tile < 5120)
  | .scrub tile _ _ => (tile < 5120)
  | .stackAccessReturn _ _ _ => true
  | .stkReplay _ _ => true
  | .stackFailed stack => (stack < 14)
  | .flitReceive _ _ _ => true
  | .fabricReplayRequest _ _ => true
  | .flitAcknowledge _ _ => true
  | .plcIntent session ring => (session < 16) && (ring < 64)
  | .plcMapRead session ring => (session < 16) && (ring < 64)
  | .plcForce loom _ => (loom < 32)
  | .rowAgentAccess _ => true
  | .migrationEpochEnd => true
  | .homeDataLands loom _ _ _ => (loom < 32)
  | .homeWriteAccepted loom _ _ => (loom < 32)
  | .plcMigCtrlWrite who _ => (who.io < 8) && (who.fn < 17)
  | .loomCreate session ring => (session < 16) && (ring < 64)
  | .loomConfig session ring => (session < 16) && (ring < 64)
  | .progLoad session ring _ => (session < 16) && (ring < 64)
  | .loomStart session ring => (session < 16) && (ring < 64)
  | .loomStopBoundary session ring => (session < 16) && (ring < 64)
  | .loomStopCut session ring => (session < 16) && (ring < 64)
  | .loomPreempt session ring => (session < 16) && (ring < 64)
  | .loomResume session ring => (session < 16) && (ring < 64)
  | .loomDelete session ring => (session < 16) && (ring < 64)
  | .semCreate session ring => (session < 16) && (ring < 64)
  | .semDelete session ring => (session < 16) && (ring < 64)
  | .holderSelect loom => (loom < 32)
  | .softWaitExpiry loom => (loom < 32)
  | .preemptGraceExpiry loom => (loom < 32)
  | .saveImageWritten loom _ => (loom < 32)
  | .restoreComplete loom _ => (loom < 32)
  | .loomStopped loom => (loom < 32)
  | .linkCoordCheck dir _ => (dir < 6)
  | .linkFlit dir _ _ => (dir < 6)
  | .linkReplay dir _ => (dir < 6)
  | .laneDrop io lane => (io < 8) && (lane < 24)
  | .linkRetrain who _ _ => (who.io < 8) && (who.fn < 17)
  | .detour part => (match part with | .hop dir lines => dir < 6 && lines.all (· < 6) | .relay dir _ st out => dir < 6 && st < 6 && out.all (· < 6))
  | .orderChange loom _ _ => (loom < 32)
  | .splitTorus loom _ => (loom < 32)
  | .collConfig session ring => (session < 16) && (ring < 64)
  | .partialFrame tile fr _ => (tile < 5120) && (fr.payload.length ≤ 4096)
  | .finalFrame tile fr => (tile < 5120) && (fr.payload.length ≤ 4096)
  | .contribFrame tile fr => (tile < 5120) && (fr.fr.payload.length ≤ 4096)
  | .moveFrame tile fr => (tile < 5120) && (fr.payload.length ≤ 4096)
  | .countsFrame tile fr => (tile < 5120) && (fr.payload.length ≤ 4096)
  | .scalarFrame tile fr => (tile < 5120) && (fr.fr.payload.length ≤ 4096)
  | .replayReqFrame tile fr => (tile < 5120) && (fr.payload.length ≤ 4096)
  | .ackFrame tile fr => (tile < 5120) && (fr.payload.length ≤ 4096)
  | .abortFrame tile fr => (tile < 5120) && (fr.payload.length ≤ 4096)
  | .adderSelftest die adder _ => (die < 40) && (adder < 4)
  | .lrnConfig session ring => (session < 16) && (ring < 64)
  | .lrnBind session ring => (session < 16) && (ring < 64)
  | .lrnUnbind session ring => (session < 16) && (ring < 64)
  | .srvConfig session ring => (session < 16) && (ring < 64)
  | .srvSubmit session ring _ => (session < 16) && (ring < 64)
  | .srvCancel session ring => (session < 16) && (ring < 64)
  | .srvPfxDrop session ring => (session < 16) && (ring < 64)
  | .batchStepForm loom => (loom < 32)
  | .deadline entry => (entry < 16384)
  | .srvReqConsWrite who entry _ => (who.io < 8) && (who.fn < 17) && (entry < 16384)
  | .shedWeave session ring => (session < 16) && (ring < 64)
  | .shedUnweave session ring => (session < 16) && (ring < 64)
  | .pickWait weave => (weave < 8)
  | .sourceBlockCopy weave _ => (weave < 8)
  | .pickCopied weave => (weave < 8)
  | .inputGood _ _ => true
  | .inputLost _ _ => true
  | .inputOvervolt _ _ => true
  | .inputShort _ => true
  | .inputReversed _ => true
  | .senseOpen _ => true
  | .senseRestore _ => true
  | .backupConduction _ _ => true
  | .supplySwitchEnd => true
  | .autoReturn => true
  | .modulePowerLoss => true
  | .powerControlTick _ => true
  | .diePowerLoop die _ => (die < 40)
  | .budgetReport loom _ => (loom < 32)
  | .borrowRelease _ => true
  | .borrowRevert _ => true
  | .railSetpointReached die => (die < 40)
  | .railFallDelay die => (die < 40)
  | .droop die => (die < 40)
  | .droopRecovery die _ => (die < 40)
  | .thermalLimitTick die _ => (die < 40)
  | .thermalTrip die _ => (die < 40)
  | .throttleEpisodeEnd _ => true
  | .pwrLoomHostWrite who loom _ => (who.io < 8) && (who.fn < 17) && (loom < 32)
  | .refclkLost => true
  | .refclkRestored => true
  | .pllLock => true
  | .tlmConfig session ring => (session < 16) && (ring < 64)
  | .tlmRun who _ => (who.io < 8) && (who.fn < 17)
  | .tlmDieCfgWrite who _ _ => (who.io < 8) && (who.fn < 17)
  | .cntOvf _ _ _ => true
  | .sampleOverflow tile _ _ _ _ => (tile < 5120)
  | .sampleRecord tile strand _ => (tile < 5120) && (strand < 16)
  | .dumpSnapshot _ _ => true
  | .ppsEdge _ _ => true
  | .ppsLost => true
  | .ppsShort => true
  | .ppsOpen => true
  | .ppsFaultClear _ => true
  | .ppsInvert => true
  | .svcFailover => true
  | .managementLoss => true
  | .baySelftest _ _ => true
  | .bayTestComplete _ _ => true
  | .advisoryMinuteTick => true
  | .ckptSet session ring => (session < 16) && (ring < 64)
  | .ckptTrigger session ring => (session < 16) && (ring < 64)
  | .ckptStarted loom _ _ => (loom < 32)
  | .ckptDone loom => (loom < 32)
  | .ckptReport loom _ _ _ => (loom < 32)
  | .ckptRestore session ring _ => (session < 16) && (ring < 64)
  | .restoreReport loom _ _ _ _ => (loom < 32)
  | .restoreRelease loom => (loom < 32)
  | .perst io => (io < 8)
  | .functionLevelReset io fn _ => (io < 8) && (fn < 17)
  | .portDown io => (io < 8)
  | .challenge who slot => (who.io < 8) && (who.fn < 17) && (slot < 16)
  | .respond who slot => (who.io < 8) && (who.fn < 17) && (slot < 16)
  | .sessClose who => (who.io < 8) && (who.fn < 17)
  | .challengeExpiry who => (who.io < 8) && (who.fn < 17)
  | .authLockExpiry slot => (slot < 16)
  | .cmdDoorbell who ring _ => (who.io < 8) && (who.fn < 17) && (ring < 64)
  | .commandFetch session ring _ => (session < 16) && (ring < 64)
  | .cplHeadWrite who ring _ => (who.io < 8) && (who.fn < 17) && (ring < 64)
  | .evtRingHeadWrite who _ => (who.io < 8) && (who.fn < 17)
  | .msixModeration session _ _ => (session < 16)
  | .ringCreate session ring => (session < 16) && (ring < 64)
  | .ringDelete session ring => (session < 16) && (ring < 64)
  | .sessionClose session ring => (session < 16) && (ring < 64)
  | .xferToDev session ring _ => (session < 16) && (ring < 64)
  | .xferFromDev session ring => (session < 16) && (ring < 64)
  | .consoleSetup _ _ => true
  | .consoleLogin _ => true
  | .consoleLogout => true
  | .consoleLoginTimeout => true
  | .consoleLockExpiry => true
  | .keySlotWrite slot _ => (slot < 16)
  | .passwordChange _ _ => true
  | .capSet _ => true
  | .pwrCtrlSet _ _ _ _ => true
  | .telemetryOwnerSet _ => true
  | .timebaseSet _ _ _ => true
  | .advisoryThresholdSet _ _ => true
  | .selftestPeriodSet _ _ => true
  | .coordinateSet _ => true
  | .testMode _ => true
  | .commitSvn => true
  | .firmwareUpdate _ => true
  | .pldmMonitorRead _ => true
  | .pldmFruRead => true
  | .bootFallback => true
  | .startUp _ => true
  | .moduleReset => true
  | .auxOverload io dir => (io < 8) && (dir < 6)
  | .auxRetry io dir _ => (io < 8) && (dir < 6)
  | .linkPortPresence io dir _ => (io < 8) && (dir < 6)
  | .clearStk who => (who.io < 8) && (who.fn < 17)
  | .clearTs who => (who.io < 8) && (who.fn < 17)
  | .fabCntClear who => (who.io < 8) && (who.fn < 17)
  | .collCntClear who => (who.io < 8) && (who.fn < 17)
  | .linkCntClear who => (who.io < 8) && (who.fn < 17)
  | .rcRegisterRead who _ _ => (who.io < 8) && (who.fn < 17)
  | .registerWrite who _ _ _ => (who.io < 8) && (who.fn < 17)
  | .junctionLimit die _ => (die < 40)
  | .hostLinkUp io _ _ _ => (io < 8)
  | .sdaStuckLow => true

end Sys2Proof
end

