-- ==== Sys2Proof/Machine/Body.lean ====
section
/-! DEFINITION. The bodies of the ring commands (Tables 15-4 and 15-19) after COMMAND_FETCH has read their field
records (R471 to R473): one constructor for each opcode, with its fields. A field a configuration command does not
carry is none, and keeps its value (R473). -/
namespace Sys2Proof.Machine

/-- An intent record (Table 6-1). -/
structure IntentRec where
  kind : Nat
  pattern : Nat
  fmt : Nat
  obj : Nat
  bytes : Nat
  a : Nat
  b : Nat
  c : Nat
  d : Nat
  reserved : Bool
  deriving DecidableEq, Repr

/-- A binding record (Table 9-1). -/
structure BindRec where
  kind : Nat
  group : Nat
  elems : Nat
  master : Nat
  masterOff : Nat
  acc : Nat
  accOff : Nat
  copy0 : Nat
  copy1 : Nat
  reserved : Bool
  deriving DecidableEq, Repr

/-- A submit descriptor (Table 10-2). -/
structure SubmitDesc where
  loom : Nat
  register : Bool
  logprob : Bool
  promptLen : Nat
  prompt : W64
  ring : W64
  deadline : W64
  pfxHandle : W64
  pfxLen : Nat
  maxNew : Nat
  stop0 : W32
  stop1 : W32
  stop2 : W32
  stream : W32
  reserved : Bool
  deriving DecidableEq, Repr

/-- LOOM_CONFIG (Table 7-2). -/
structure LoomConfigF where
  stepClass : Option Bool
  priority : Option Nat
  seed : Option W64
  credits : Option Nat
  softWait : Option Nat
  grace : Option Nat
  semInit : Option (List (Nat × W32))
  deriving DecidableEq, Repr

/-- LRN_CONFIG (Table 9-3). -/
structure LrnConfigF where
  step : Option W64
  ngroups : Option Nat
  stepComm : Option Nat
  buckets : Option Nat
  clipOn : Option Bool
  clipMax : Option W32
  groupTab : Option Nat
  sched : Option Nat
  values : Option Nat
  watch : Option Nat
  watchDepth : Option Nat
  deriving DecidableEq, Repr

/-- One entry of STEP_LIST (Table 10-1). -/
structure StepEntry where
  entry : Nat
  first : Nat
  count : Nat
  deriving DecidableEq, Repr

/-- SRV_CONFIG (Table 10-1). -/
structure SrvConfigF where
  bound : Option Bool
  quota : Option Nat
  maxRows : Option Nat
  stepTokens : Option Nat
  prefillChunk : Option Nat
  specDepth : Option Nat
  kvPool : Option Nat
  kvPosBytes : Option Nat
  promptPool : Option Nat
  batch : Option Nat
  stepList : Option (List StepEntry)
  pfxSlots : Option Nat
  deriving DecidableEq, Repr

/-- A generator of a weave: its loom and beam tensors (Table 11-1). -/
structure GenEntry where
  loom : Nat
  beam0 : Nat
  beam1 : Nat
  deriving DecidableEq, Repr

/-- A bobbin of a weave: its generator, CREEL offset and records (Table 11-1). -/
structure BobbinEntry where
  loom : Nat
  off : Nat
  nrec : Nat
  deriving DecidableEq, Repr

/-- SHED_WEAVE (Table 11-1). Fields not carried take their default or, for an existing weave, its value. -/
structure WeaveF where
  weave : Option Nat
  shared : Option Bool
  learner : Option Nat
  gens : Option (List GenEntry)
  flipEpisode : Option Bool
  skip : Option Bool
  publishEvery : Option Nat
  initPick : Option Nat
  srcList : Option Nat
  nsrc : Option Nat
  creel : Option Nat
  bobbins : Option (List BobbinEntry)
  staleMax : Option Nat
  genSteps : Option Nat
  learnList : Option Nat
  nlearn : Option Nat
  learnUnits : Option Nat
  deriving DecidableEq, Repr

/-- TLM_CONFIG (Table 13-7). -/
structure TlmConfigF where
  cnt : List (Nat × W64)
  strandMask : Option (BitVec 16)
  dump : Option Nat
  dumpNrec : Option Nat
  dumpPeriod : Option Nat
  sample : Option Nat
  sampleNrec : Option Nat
  sampleWm : Option Nat
  deriving DecidableEq, Repr

/-- One entry of a checkpoint set (R432). -/
structure CkptEntry where
  obj : Nat
  localOff : Nat
  elems : Nat
  logicalId : Nat
  logicalOff : Nat
  deriving DecidableEq, Repr

/-- The kinds of ring (R459, R464). -/
inductive RingKind where
  | control | dobby | completion | event
  deriving DecidableEq, Repr

/-- RING_CREATE (Table 15-19). -/
structure RingCreateF where
  kind : RingKind
  base : W64
  log2 : Nat
  cplRing : Option Nat
  vector : Option Nat
  count : Option Nat
  time : Option Nat
  deriving DecidableEq, Repr

/-- The body of a ring command. -/
inductive HostBody where
  | loomCreate (bays share : Option Nat) (stepClass : Bool) (priority dobbyRing : Nat)
  | loomConfig (f : LoomConfigF)
  | progLoad (addr : W64) (insns : Nat)
  | loomStart
  | loomStop (cut : Bool)
  | loomPreempt (hard : Bool)
  | loomResume
  | loomDelete
  | semCreate (sem : Nat) (count : W32) (mask : Option (BitVec 16))
  | semDelete (sem : Nat)
  | plcIntent (recs : List IntentRec)
  | plcMapRead (buffer : W64) (len : Nat)
  | collConfig (job : W32) (origin extent : Option (Nat × Nat × Nat))
  | srvConfig (f : SrvConfigF)
  | srvSubmit (d : SubmitDesc)
  | srvCancel (entry : Nat) (gen : BitVec 16)
  | srvPfxDrop (handles : List W64)
  | lrnConfig (f : LrnConfigF)
  | lrnBind (recs : List BindRec)
  | lrnUnbind (recs : List BindRec)
  | shedWeave (f : WeaveF)
  | shedUnweave (weave : Nat)
  | tlmConfig (f : TlmConfigF)
  | ckptSet (runId : W64) (auto : Option Bool) (entries : List CkptEntry)
  | ckptTrigger (step : W64) (buffer : W64) (len : Nat)
  | ckptRestore (manifests shards : List (W64 × Nat))
  | xferToDev (host dev : W64) (len : Nat)
  | xferFromDev (host dev : W64) (len : Nat)
  | ringCreate (f : RingCreateF)
  | ringDelete (kind : RingKind) (ring : Nat)
  | sessionClose
  deriving DecidableEq, Repr

/-- A command taken from a ring and not yet completed (R461, R462). -/
structure Taken where
  opcode : Nat
  loom : Nat
  tag : W32
  body : HostBody
  started : Bool
  deriving DecidableEq, Repr

end Sys2Proof.Machine
end

