-- ==== Sys2Proof/Machine/State.lean ====
section
/-! DEFINITION. The state of one W40 module: everything the spec gives the block, as plain data, with the queue of the
commands that wait. A thing a register shows and nothing else holds stands in the register file (regs); a thing with a
structure of its own stands below, and its register is a view of it (Machine/Regs.lean). -/
namespace Sys2Proof.Machine

/-! ## Tiles (R79, R102 to R108, R110 to R164) -/

/-- Where a strand is blocked (R144 to R148, R159). -/
inductive Block where
  | free
  | wait (tag : BitVec 16) (sd : Nat)
  | waitAll (tags : List (BitVec 16)) (sd : Nat)
  | bar (loomScope : Bool) (id : Nat)
  | sem (sem n sd : Nat)
  | fence
  deriving DecidableEq, Repr

/-- The asynchronous operations by what they do (R143). -/
inductive AsyncKind where
  | stage | wcopy | copy | gather | scatter | ebag | rmtRd | rmtWr | rmtAdd | coll | fact | solv | topk | normacc
  deriving DecidableEq, Repr

/-- One issued tag of a strand: its status once complete, and the high word WAIT writes (R142, Table 4-23). -/
structure TagRec where
  tag : BitVec 16
  kind : AsyncKind
  status : Option Byte
  high : W32
  deriving DecidableEq, Repr

/-- The address and values of the latest tapped load (R317). -/
structure Tap where
  addr : Nat
  vals : List W32
  deriving DecidableEq, Repr

/-- The sums of one watched group (R317, R318). -/
structure TapSum where
  weight : W32
  update : W32
  misses : Nat
  deriving DecidableEq, Repr

/-- A strand: its registers (Table 4-2), its tags, and where it stands. v and p are keyed by register × 32 + thread. -/
structure Strand where
  active : Bool := false
  ended : Bool := false
  pc : BitVec 15 := 0
  s : Table W64 := []
  v : Table W32 := []
  p : Table Bool := []
  asw : W64 := 0
  tagNext : BitVec 16 := 0
  tags : List TagRec := []
  blocked : Block := .free
  cycles : W64 := 0
  tap : Option Tap := none
  tapSums : Table TapSum := []
  deriving DecidableEq, Repr

/-- A matrix command as queued: the inline fields (Table 4-15) and the descriptor (Table 4-16). -/
structure MtxCmd where
  num : Nat := 0
  strand : Nat := 0
  op : Nat := 0
  thin : Bool := false
  gang : Nat := 0
  tgtB : Bool := false
  carry : Bool := false
  weftAddr : Nat := 0
  weftT : Bool := false
  warpT : Bool := false
  warpOff : Nat := 0
  sat : Bool := false
  rnd : Nat := 0
  dstFmt : Nat := 0
  weftFmt : Nat := 0
  warpFmt : Nat := 0
  m : Nat := 0
  n : Nat := 0
  k : Nat := 0
  blkOff : Nat := 0
  stream : W32 := 0
  outId : Nat := 0
  segIdx : Nat := 0
  nseg : Nat := 0
  segTab : List Nat := []
  tensorId : W32 := 0
  tensorCols : Nat := 0
  row0 : Nat := 0
  col0 : Nat := 0
  weftSc : Nat := 0
  warpSc : Nat := 0
  dstSc : Nat := 0
  weftScStride : Nat := 0
  warpScStride : Nat := 0
  dstScStride : Nat := 0
  accInt : Bool := false
  deriving DecidableEq, Repr

/-- Elements that stand together in the matrix engine: one cell row of a warp block (R79, R82), one row of the thin path's
row buffer (R97), or one weft column in a stream queue (R94), with the MX scale of each of its K-blocks. -/
structure MtxVec where
  elems : List Nat
  scales : List Nat
  deriving DecidableEq, Repr

/-- A warp block in the cells, or in their shadow (R79, R82); on the thin path the whole row buffer (R97). -/
structure WarpBlk where
  blk : Nat
  rows : List MtxVec
  deriving DecidableEq, Repr

/-- A command in flight: issued, its last rounding still to come. pos is the next weft column or patch to enter (R108),
counted over the warp blocks; warp and shadow are what the cells hold (R79), queue the columns read ahead of entry (R94),
parts the segment partial registers by row and column (R79, R85), staged the weft units that have landed (R95). -/
structure MtxRun where
  cmd : MtxCmd
  claim : Nat
  pos : Nat := 0
  warp : Option WarpBlk := none
  shadow : Option WarpBlk := none
  queue : List (Nat × MtxVec) := []
  parts : Table W32 := []
  staged : List (List Byte) := []
  flags : W64 := 0
  deriving DecidableEq, Repr

/-- The write of a drain that has not landed (R86, R103): the blocks it registered, own-store bytes by offset; half lists bytes of which only the low
four bits are written (R88). -/
structure Landing where
  num : Nat
  strand : Nat
  blocks : List (Nat × Nat)
  bytes : List (Nat × Byte)
  flags : W64
  half : List (Nat × Byte) := []
  deriving DecidableEq, Repr

/-- A binding of an OUT_ID (R500): its claim (0 to 3 a sub-array, 4 and 5 a pair, 6 all four, 7 the thin path), its
engine and gang mode, which accumulators its commands name, and the type of what was last queued to write each. -/
structure Binding where
  outId : Nat
  thin : Bool
  gang : Nat
  claim : Option Nat
  usesA : Bool
  usesB : Bool
  intA : Option Bool
  intB : Option Bool
  deriving DecidableEq, Repr

/-- The states of a scoreboard entry (Table 3-7). -/
inductive SbState where
  | free | pending | ready | reading | held
  deriving DecidableEq, Repr

/-- One reader or writer of a block, in the order it was queued (R499). -/
structure SbUse where
  num : Nat
  writer : Bool
  running : Bool
  deriving DecidableEq, Repr

/-- A scoreboard entry that is not FREE (R102). -/
structure SbEntry where
  off : Nat := 0
  len : Nat := 0
  st : SbState := .free
  writers : Nat := 0
  readers : Nat := 0
  uses : List SbUse := []
  deriving DecidableEq, Repr

/-- The parameters of an asynchronous operation that has begun: the fields its descriptor gives it, read once (R118). -/
structure AsyncOp where
  strand : Nat := 0
  tag : BitVec 16 := 0
  kind : AsyncKind := .stage
  num : Nat := 0
  src : Nat := 0
  dst : Nat := 0
  aux : Nat := 0
  len : Nat := 0
  row : Nat := 0
  rows : Nat := 0
  cols : Nat := 0
  srcFmt : Nat := 0
  dstFmt : Nat := 0
  rnd : Nat := 0
  sat : Bool := false
  flag : Bool := false
  tiled : Bool := false
  stream : W32 := 0
  tensorId : W32 := 0
  tensorCols : Nat := 0
  row0 : Nat := 0
  col0 : Nat := 0
  lam : W32 := 0
  list : List Nat := []
  wgt : Nat := 0
  remote : Nat := 0
  x : Nat := 0
  y : Nat := 0
  z : Nat := 0
  ordered : Bool := false
  intElem : Bool := false
  group : Nat := 0
  index : Nat := 0
  count : Nat := 0
  landed : Nat := 0
  sent : Bool := false
  parked : Option (List Byte) := none
  reads : List (Nat × Nat × Nat) := []
  writes : List (Nat × Nat × Nat) := []
  deriving DecidableEq, Repr

/-- The kinds of collective (Table 4-20). -/
inductive CollKind where
  | rs | ag | ar | shift | perm | x2x
  deriving DecidableEq, Repr

/-- A frame a member sends and keeps until an ACK covers it (R281, R282): the coordinate or member index it goes to, the box
module of that member and the link direction toward it, whether it still waits for a credit, and how often it was sent again. -/
structure SentFrame where
  fr : Frame
  toward : Nat
  box : Nat
  dir : Option Nat
  waiting : Bool
  attempts : Nat
  deriving DecidableEq, Repr

/-- A collective in flight at a member (R264 to R296): the descriptor of Table 8-2, the member's place, and its progress.
stages lists (axis, size, coordinate) of the stages in order, axes 0 to 2 of ranks and 3 to 5 of modules. Chunks are
numbered by their 1,024 elements in the full buffer; region lists those of the current stage (R269). -/
structure CollOp where
  strand : Nat := 0
  tag : BitVec 16 := 0
  kind : CollKind := .rs
  num : Nat := 0
  comm : Nat := 0
  src : Nat := 0
  dst : Nat := 0
  aux : Nat := 0
  elems : Nat := 0
  srcFmt : Nat := 0
  dstFmt : Nat := 0
  rnd : Nat := 0
  sat : Bool := false
  max : Bool := false
  comp : Nat := 0
  norm : Bool := false
  checked : Bool := false
  a0 : Nat := 0
  a1 : Nat := 0
  a2 : Nat := 0
  ksel : Nat := 0
  axis : Nat := 0
  normOff : Nat := 0
  row : Nat := 0
  capacity : Nat := 0
  dist : Int := 0
  active : Nat := 0
  retDir : Bool := false
  repl : Nat := 0
  slice : Nat := 0
  stream : W32 := 0
  tensorId : W32 := 0
  group : Nat := 0
  elem0 : Nat := 0
  rank : Nat := 0
  g : Nat := 0
  members : Nat := 0
  index : Nat := 0
  box : Nat := 0
  stages : List (Nat × Nat × Nat) := []
  orderTag : W32 := 0
  stage : Nat := 0
  relayed : List (Nat × Nat × Nat) := []
  region : List Nat := []
  partials : Table W32 := []
  rounds : List Nat := []
  contribs : List (Nat × Nat × Nat × List W32) := []
  gather : Option Nat := none
  finals : Table (List Byte) := []
  got : List (Nat × Nat) := []
  sq : W32 := 0
  sqStage : Nat := 0
  sqDone : Bool := false
  scalars : List (Nat × Nat × W32) := []
  grads : Table W32 := []
  counts : List (Nat × Nat × Nat × Nat × Nat) := []
  admitted : List (Nat × Nat × Nat) := []
  totals : List (Nat × Nat) := []
  holders : List (Nat × Nat × Nat) := []
  waiting : Bool := false
  moved : List (Nat × Nat × Nat) := []
  bytes : List (Nat × Byte) := []
  received : Nat := 0
  status : Option Byte := none
  flags : W64 := 0
  deriving DecidableEq, Repr

/-- A sample not yet recorded (R411). -/
structure PendingSample where
  counter : Nat
  strand : Option Nat
  deriving DecidableEq, Repr

/-- A tile. acc is keyed by ((OUT_ID × 2 + accumulator) × 128 + row) × 128 + column (R79, R98, R500). -/
structure Tile where
  strands : Table Strand := []
  queue : List MtxCmd := []
  running : List MtxRun := []
  landing : List Landing := []
  binds : List Binding := []
  acc : Table W32 := []
  segNext : Table Nat := []
  board : List SbEntry := []
  ops : List AsyncOp := []
  colls : List CollOp := []
  collNum : Table Nat := []
  aborted : List (Nat × Nat × Byte) := []
  inbox : List InFrame := []
  selfbox : List Frame := []
  sentFrames : List SentFrame := []
  rmtOut : Nat := 0
  cnt : Table Nat := []
  ovf : BitVec 8 := 0
  ovfCnt : Table Nat := []
  sample : Option PendingSample := none
  deriving DecidableEq, Repr

/-! ## Looms and what is bound to them (R226 to R255) -/

/-- The states of Table 7-3, numbered as Table 7-11. -/
inductive LoomState where
  | free | stopped | running | ready | preempting | saving | saved | restoring | stopping | fenced | faulted
  deriving DecidableEq, Repr

/-- The dobby command in progress (R120, R121, Table 7-5); fromRing: the host placed it in the ring. -/
structure DobbyCmd where
  e : RunEntry
  fromRing : Bool
  tiles : List Nat
  tStart : W64
  soft : Nat
  hard : Nat
  endStatus : Option Byte
  deriving DecidableEq, Repr

/-- A HARD save image (R231, R243): the tile-store bytes of the loom's tiles and their tile state. -/
structure SaveImage where
  cells : List Host.Cell
  tiles : Table Tile
  boundary : Bool
  deriving DecidableEq, Repr

/-- A pre-emption request being served (R240, R241). -/
structure Preempt where
  softOver : Bool
  graceOver : Bool := false
  deferred : Bool
  since : W64
  deriving DecidableEq, Repr

/-- An affinity relation of an intent (Table 6-1). -/
structure Affinity where
  a : Nat
  b : Nat
  rel : Nat
  deriving DecidableEq, Repr

/-- A row's slot entry (Table 6-4); the owner is the slot in VALID and MOVING_OUT, else the home (R219). -/
inductive SlotState where
  | invalid | valid | movingIn | movingOut
  deriving DecidableEq, Repr

/-- An index entry, and the row and samples to promote once it is INVALID (R218). -/
structure SlotEntry where
  st : SlotState
  dirty : Bool
  count : Nat
  row : Nat
  next : Option (Nat × Nat)
  deriving DecidableEq, Repr

/-- The hot region of a table (R215 to R218): slots by (reader die slot × 2^q + set) × 4 + way; cands by reader die slot, row
and samples; seen, the accesses by agent tile; handoffs begun in the epoch by reader die slot; todo, the promotions chosen and
not begun: slot, row, samples. -/
structure HotRegion where
  obj : Nat
  q : Nat
  dies : List Nat
  rowBytes : Nat
  off : Nat
  sampleLog2 : Nat
  slots : Table SlotEntry
  cands : List (Nat × Nat × Nat)
  seen : Table Nat
  handoffs : Table Nat
  todo : List (Nat × Nat × Nat)
  deriving DecidableEq, Repr

/-- Whose access a row agent holds (R217): an instruction of a strand, an asynchronous operation, a remote request, a host
transfer, or an access of its own command. -/
inductive RowUser where
  | strand (tile strand : Nat)
  | op (tile strand tag : Nat)
  | rmt (x y z tile strand tag : Nat)
  | host (session ring : Nat)
  | agent (a : RowAccess)
  deriving DecidableEq, Repr

/-- A held access, with the rows it touches: object and row. -/
structure RowWait where
  who : RowUser
  rows : List (Nat × Nat)
  deriving DecidableEq, Repr

/-- The learning state of a loom (Table 9-3, R297 to R319). -/
structure LrnLoom where
  step : W64 := 0
  ngroups : Nat := 0
  stepComm : Nat := 0
  buckets : Nat := 1
  clipOn : Bool := false
  clipMax : W32 := 0x3F800000
  groupTab : Nat := 0
  sched : Nat := 0
  values : Nat := 0
  watch : Nat := 0
  watchDepth : Nat := 16
  stepSum : W32 := 0
  bucket : Nat := 0
  normBlocks : Table (List Byte) := []
  binds : List BindRec := []
  watchSums : Table TapSum := []
  gradSums : Table W32 := []
  prevGrad : Table W32 := []
  prevNonfinite : Bool := false
  watched : List Nat := []
  deriving DecidableEq, Repr

/-- A weave pins and fills the beams of a generator (R350 to R364). -/
inductive BeamState where
  | empty | filling | full
  deriving DecidableEq, Repr

/-- One beam. -/
structure Beam where
  obj : Nat := 0
  st : BeamState := .empty
  pick : Nat := 0
  pins : Nat := 0
  deriving DecidableEq, Repr

/-- The shed state of a generator (Tables 11-20 to 11-22). -/
structure GenLoom where
  woven : Bool := false
  weave : Nat := 0
  front : Bool := false
  beam0 : Beam := {}
  beam1 : Beam := {}
  missed : Nat := 0
  flips : Nat := 0
  deriving DecidableEq, Repr

/-- A pfx entry of a serving loom (R343). -/
structure PfxEntry where
  handle : W64
  len : Nat
  pick : Nat
  tokens : List W32
  buf : Nat
  pages : List Nat
  lastUse : Nat
  deriving DecidableEq, Repr

/-- A row of the formed step: entry, kind (Table 10-5), first position, input tokens, draft positions, and how many tokens
the request may still commit, with its stop tokens. -/
structure StepRow where
  entry : Nat
  gen : BitVec 16
  left : Nat
  stops : List W32
  kind : Nat
  pos : Nat
  nin : Nat
  spec : Nat
  deriving DecidableEq, Repr

/-- A row whose output tokens are being committed (R335): those left of the nout it returned, and how many have committed. -/
structure RowCommit where
  row : StepRow
  toks : List (W32 × Nat)
  nout : Nat
  done : Nat := 0
  deriving DecidableEq, Repr

/-- A batch step formed and not yet committed (R329, R330). While it commits (R335), the rows left, and the computed cycles
of a row. -/
structure FormedStep where
  rows : List StepRow
  pick : Nat
  beam : Option Bool
  table : Nat
  no : Nat := 0
  committing : Bool := false
  commits : List RowCommit := []
  cycles : Nat := 0
  deriving DecidableEq, Repr

/-- The serving state of a loom (Table 10-1, R323 to R346). -/
structure SrvLoom where
  bound : Bool := false
  quota : Nat := 0
  maxRows : Nat := 256
  stepTokens : Nat := 4096
  prefillChunk : Nat := 512
  specDepth : Nat := 0
  kvPool : Nat := 0
  kvPosBytes : Nat := 0
  promptPool : Nat := 0
  batch : Nat := 0
  stepList : List StepEntry := []
  pfxSlots : Nat := 0
  stepNo : Nat := 0
  lastStep : W64 := 0
  half : Bool := false
  owned : Bool := false
  formed : Option FormedStep := none
  pfx : List PfxEntry := []
  hits : Nat := 0
  misses : Nat := 0
  fullCnt : Nat := 0
  deriving DecidableEq, Repr

/-- The telemetry configuration of a loom (Table 13-7) and its rings' counts. -/
structure TlmLoom where
  cfg : Table W64 := []
  strandMask : BitVec 16 := 0xFFFF
  dump : Nat := 0
  dumpNrec : Nat := 0
  dumpPeriod : Nat := 10000
  dumpSeq : Nat := 0
  dumpMissed : Nat := 0
  sample : Nat := 0
  sampleNrec : Nat := 0
  sampleWm : Nat := 64
  sampleSeq : Nat := 0
  sampleLost : Nat := 0
  sinceEvent : Nat := 0
  totals : Table Nat := []
  deriving DecidableEq, Repr

/-- A module's report of a checkpoint or restore to the anchor (R437, R442). -/
structure BoxReport where
  box : Nat
  status : Byte
  bytes : Nat
  runId : W64
  step : W64
  digest : List Byte
  deriving DecidableEq, Repr

/-- A checkpoint that is pending or running (R433 to R438). -/
structure CkptRun where
  step : W64
  digest : List Byte
  manifest : List Byte
  requester : Option (Nat × Nat)
  buffer : W64
  len : Nat
  started : Bool
  closed : Bool
  copying : Bool
  reports : List BoxReport
  deriving DecidableEq, Repr

/-- A restore between its checks and its release (R440 to R443). -/
structure RestoreRun where
  requester : Nat × Nat
  runId : W64
  step : W64
  digest : List Byte
  pick : Nat
  seed : W64
  lrnStep : W64
  offer : W64
  writes : List (Nat × Nat × ShardData)
  reports : List BoxReport
  released : Bool
  deriving DecidableEq, Repr

/-- The checkpoint set of a loom (R432). -/
structure CkptLoom where
  runId : W64 := 0
  auto : Bool := false
  entries : List CkptEntry := []
  before : Nat := 0
  others : Nat := 0
  lastBuffer : Option (W64 × Nat) := none
  run : Option CkptRun := none
  restore : Option RestoreRun := none
  deriving DecidableEq, Repr

/-- The recorded fault of a loom (Table 7-16). -/
structure FaultRec where
  insn : W64 := 0
  valid : Bool := false
  overrun : Bool := false
  status : Byte := 0
  tile : Nat := 0
  strand : Nat := 0
  pc : Nat := 0
  deriving DecidableEq, Repr

/-- An ordered remote add held at the target loom (R140). -/
structure HeldAdd where
  req : RmtRequest
  deriving DecidableEq, Repr

/-- A parking record (R192): tile, strand, tag, status, and the destination offset with its bytes. -/
structure ParkRec where
  tile : Nat
  strand : Nat
  tag : BitVec 16
  status : Byte
  off : Nat
  data : List Byte
  deriving DecidableEq, Repr

/-- The issue of one collective on this module (R321): how many members have issued it and how many of these are still in
flight, and for each bay the timebase at which the last of its members issued. -/
structure CollTime where
  comm : Nat
  num : Nat
  group : Nat
  issued : Nat := 0
  open_ : Nat := 0
  times : Table W64 := []
  deriving DecidableEq, Repr

/-- A loom. -/
structure Loom where
  st : LoomState := .free
  session : Nat := 0
  bays : List Nat := []
  stepClass : Bool := false
  priority : Nat := 0
  seed : W64 := 0
  credits : Nat := 0
  creditsUsed : Nat := 0
  softWait : Nat := 0
  grace : Nat := 0
  sems : Table W32 := []
  semWaiters : List (Nat × Nat × Nat) := []
  program : List W64 := []
  loaded : Bool := false
  dobbyRing : Nat := 0
  heldByHost : Bool := false
  holder : Bool := false
  lastHolder : Bool := false
  preempt : Option Preempt := none
  pendingStop : Bool := false
  stopAtEnd : Bool := false
  cmd : Option DobbyCmd := none
  engineRing : List RunEntry := []
  image : Option SaveImage := none
  collTimes : List CollTime := []
  lastDies : List Nat := []
  revoked : Bool := false
  cut : Bool := false
  stopIssue : Bool := false
  softNext : Nat := 0
  softCnt : Nat := 0
  hardCnt : Nat := 0
  graceUs : Nat := 0
  saveUs : Nat := 0
  restoreUs : Nat := 0
  selAt : Option W64 := none
  fault : FaultRec := {}
  lastStatus : Byte := 0
  lastCmdId : W32 := 0
  doneCnt : W32 := 0
  stepEnded : Bool := false
  configured : Bool := false
  jobId : W32 := 0
  box : BitVec 15 := 0x1240
  modes : W32 := 0
  newModes : Option W32 := none
  install : Table Nat := []
  installHold : Bool := false
  drops : Nat := 0
  fencedJob : Bool := false
  intent : List IntentRec := []
  affs : List Affinity := []
  streamOnly : Bool := false
  scratchMin : Nat := 1024
  map : List MapRec := []
  saveAt : Nat := 0
  gen : Nat := 0
  hot : List HotRegion := []
  rowWaits : List RowWait := []
  hotHits : Nat := 0
  hotMisses : Nat := 0
  handoffs : Nat := 0
  holdsAdd : List HeldAdd := []
  parked : List ParkRec := []
  parkedFrames : List (Nat × InFrame) := []
  keep : Table Tile := []
  waitPreempt : Option Bool := none
  parkFull : Nat := 0
  lrn : LrnLoom := {}
  srv : SrvLoom := {}
  tlm : TlmLoom := {}
  shed : GenLoom := {}
  ckpt : CkptLoom := {}
  deriving DecidableEq, Repr

/-- A shared semaphore (R248, Table 7-18), with the units each loom holds (R147) and its waiters (R148). -/
structure SharedSem where
  owner : Nat := 0
  mask : BitVec 16 := 0
  count : W32 := 0
  units : Table Nat := []
  waiters : List (Nat × Nat × Nat × Nat) := []
  deriving DecidableEq, Repr

/-! ## Shed (R347 to R373) -/

/-- The publication states of Table 11-5. -/
inductive PubState where
  | idle | copying | waiting
  deriving DecidableEq, Repr

/-- The shed states of Table 11-7. -/
inductive ShedState where
  | stopped | gen | learn
  deriving DecidableEq, Repr

/-- A source list entry (Table 11-4). -/
structure SrcEntry where
  obj : Nat
  convert : Bool
  fmt : Nat
  sat : Bool
  srcOff : Nat
  len : Nat
  imgOff : Nat
  deriving DecidableEq, Repr

/-- A weave in force. -/
structure Weave where
  shared : Bool := false
  learner : Nat := 0
  gens : List GenEntry := []
  flipEpisode : Bool := false
  skip : Bool := false
  publishEvery : Nat := 0
  initPick : Nat := 0
  src : List SrcEntry := []
  srcList : Nat := 0
  creel : Nat := 0
  staleMax : Nat := 0
  genSteps : Nat := 0
  learnList : Nat := 0
  nlearn : Nat := 0
  learnUnits : Nat := 0
  pick : Nat := 0
  points : Nat := 0
  pub : PubState := .idle
  pubStep : W64 := 0
  copied : List Nat := []
  taking : List Nat := []
  exhausted : Bool := false
  lastPub : Byte := 0
  skipped : Nat := 0
  abandoned : Nat := 0
  shed : ShedState := .stopped
  shedCount : Nat := 0
  resumeShed : ShedState := .gen
  rearm : Bool := false
  deriving DecidableEq, Repr

/-- A bobbin (R368 to R373). -/
structure Bobbin where
  weave : Nat := 0
  loom : Nat := 0
  addr : Nat := 0
  nrec : Nat := 0
  write : Nat := 0
  read : Nat := 0
  stale : Nat := 0
  waits : Nat := 0
  deriving DecidableEq, Repr

/-- An uncopied source block that a write waits for, with the tile, strand and tag or number of the write: the block is
copied first (R96, R358). -/
structure HeldWrite where
  weave : Nat
  block : Nat
  who : List Nat
  deriving DecidableEq, Repr

/-! ## Serving requests (R324 to R342) -/

/-- The states of Table 10-4, numbered as Table 10-17. -/
inductive ReqState where
  | free | queued | prefill | decode | ringWait | ended
  deriving DecidableEq, Repr

/-- An entry of the request table; loom 32 stands for no loom yet. -/
structure Req where
  st : ReqState := .free
  gen : BitVec 16 := 0
  loom : Nat := 32
  d : Option SubmitDesc := none
  prompt : List W32 := []
  tokens : List W32 := []
  buf : Nat := 0
  bufLen : Nat := 0
  pos : Nat := 0
  pages : List Nat := []
  admitted : Nat := 0
  produced : Nat := 0
  cons : Nat := 0
  endStatus : Byte := 0
  pfxHit : Bool := false
  pfxPick : Option Nat := none
  expired : Bool := false
  boundPick : Option Nat := none
  lastPick : Nat := 0xFFFFFFFF
  kvWait : Bool := false
  deriving DecidableEq, Repr

/-! ## Fabric, stacks, links -/

/-- A fabric port (R200): its replay buffer and attempts as a sender, what it expects as a receiver. -/
structure FabPort where
  replay : List FabFlit := []
  sendSeq : BitVec 12 := 0
  failing : Option (BitVec 12) := none
  attempts : Nat := 0
  expect : BitVec 12 := 0
  discarding : Bool := false
  delivered : List FabFlit := []
  deriving DecidableEq, Repr

/-- A link direction (R260 to R263). Sending: its state (Table 8-20), the number of the next flit, the flits no ACK covers
with the lane that carried each, the lane of the next in the round, the highest number the partner has received in order, a
flit that fails and its attempts. Receiving: the number expected next, the bytes of a collective frame that is not whole yet,
the frames delivered and not yet taken up by a tile, and the flits delivered of the other channels. detour and relays are the
way of this module's frames while the link is DOWN, and of the frames of others that come by it: those of a job and a stage go
on in a direction (R275). -/
structure LinkDir where
  st : Nat := 0
  next : BitVec 16 := 0
  kept : List (WeftFlit × Nat) := []
  lane : Nat := 0
  acked : BitVec 16 := 0xFFFF
  failing : Option (BitVec 16) := none
  attempts : Nat := 0
  expect : BitVec 16 := 0
  discarding : Bool := false
  part : List Byte := []
  frames : List Frame := []
  delivered : List WeftFlit := []
  detour : Option Nat := none
  relays : List (W32 × Nat × Nat) := []
  deriving DecidableEq, Repr

/-! ## Power (R374 to R399) -/

/-- The states of an input (Table 12-10). -/
inductive InputState where
  | good | lost | short | reversed | overvolt
  deriving DecidableEq, Repr

/-- An input (R374 to R378). -/
structure Input where
  st : InputState := .lost
  v10mv : Nat := 0
  i100ma : Nat := 0
  senseLocal : Bool := false
  carrying : Bool := false
  pathOpen : Bool := false
  deriving DecidableEq, Repr

/-- A compute die's power state (R383 to R397). limits holds the limits of Table 12-3 that are below 64. Powers are in
milliwatts: raw and estimate before and after the correction, share the die's part of the pool, budget what it may draw.
rail is the setpoint the core rail has reached; therm times the THERMAL limit's binding in timebase ticks. -/
structure DiePower where
  on : Bool := false
  tempC : Nat := 0
  limits : Table Nat := []
  treadle : Nat := 64
  wanted : Nat := 64
  vset : Nat := 0
  rail : Nat := 0
  raw : Nat := 0
  estimate : Nat := 0
  share : Nat := 0
  budget : Nat := 0
  binding : BitVec 8 := 0
  thermSince : Option W64 := none
  thermTicks : Nat := 0
  deriving DecidableEq, Repr

/-- The power manager: caps and powers in watts, the correction in units of 2^-32, the time each reason has been binding in
timebase ticks, and the throttle log by entry. -/
structure Power where
  a : Input := {}
  b : Input := {}
  cap : Nat := 15000
  inForce : Nat := 15000
  borrowed : Int := 0
  borrowFor : Nat := 0
  singleLimit : Bool := false
  borrowMax : Nat := 1000
  uniform : Bool := true
  autoReturn : Bool := true
  share : Bool := false
  supplySwitch : Bool := false
  measured : Nat := 0
  rawEstimate : Nat := 0
  corr : Nat := 4294967296
  divergeCnt : Nat := 0
  agreeCnt : Nat := 0
  diverged : Bool := false
  dies : Table DiePower := []
  issuing : List Nat := []
  thrTime : Table Nat := []
  thrSince : Table W64 := []
  log0 : Table W64 := []
  log1 : Table W64 := []
  episodes : W32 := 0
  openEpisodes : Table Nat := []
  locked : Bool := false
  holdover : Bool := false
  refPresent : Bool := false
  refLoss : Nat := 0
  hostTreadle : Table Nat := []
  deriving DecidableEq, Repr

/-! ## Telemetry and time (R400 to R419) -/

/-- A die block: counters, overflow and configuration (R400 to R405). -/
structure DieBlock where
  cfg : Table W64 := []
  cnt : Table Nat := []
  ovf : BitVec 32 := 0
  ovfCnt : Table Nat := []
  deriving DecidableEq, Repr

/-- The timebase and its PPS alignment, and module telemetry. -/
structure Telemetry where
  timebase : W64 := 0
  pps : Bool := false
  offsetNs : Int := 0
  seconds : Option W64 := none
  haveEdge : Bool := false
  errNs : Int := 0
  goodEdges : Nat := 0
  aligned : Bool := false
  rejects : Nat := 0
  inverted : Bool := false
  openSeen : Bool := false
  shortSeen : Bool := false
  holdover : Bool := false
  ratePpb : Int := 0
  differential : Bool := false
  ownerValid : Bool := false
  owner : Nat := 0
  run : Bool := false
  period : Nat := 10000
  nrec : Nat := 0
  dumpAddr : W64 := 0
  dumpSeq : Nat := 0
  dumpMissed : Nat := 0
  blocks : Table DieBlock := []
  phase : Table Nat := []
  lastColl : Table W64 := []
  deriving DecidableEq, Repr

/-! ## Host interface and service processor (R420 to R474) -/

/-- A key slot and its challenge state (Table 15-1, R452, R455, R456). -/
structure KeySlot where
  key : List Byte := []
  enabled : Bool := false
  admin : Bool := false
  loomQuota : Nat := 0
  bayQuota : Nat := 0
  fails : Nat := 0
  locked : Bool := false
  deriving DecidableEq, Repr

/-- A live challenge of a function (R455). -/
structure Challenge where
  slot : Nat
  nonce : BitVec 256
  deriving DecidableEq, Repr

/-- The session registers of a function (Table 15-10). -/
structure FnRegs where
  slot : Nat := 0
  challenge : Option Challenge := none
  nonce : BitVec 256 := 0
  mac : BitVec 256 := 0
  ctl : W64 := 0
  cpl : W64 := 0
  lastStatus : Byte := 0
  voided : Bool := false
  session : Option Nat := none
  deriving DecidableEq, Repr

/-- A command ring (R459 to R462). -/
structure CmdRing where
  kind : RingKind := .control
  base : W64 := 0
  log2 : Nat := 0
  cpl : Nat := 0
  tail : BitVec 16 := 0
  head : BitVec 16 := 0
  taken : Option Taken := none
  stopped : Bool := false
  deriving DecidableEq, Repr

/-- A completion or event ring: where it lies, what is written, what the host has returned, its moderation (R463). -/
structure OutRing where
  base : W64 := 0
  log2 : Nat := 0
  vector : Nat := 0
  countMod : Nat := 0
  timeMod : Nat := 0
  written : Nat := 0
  head : BitVec 16 := 0
  reserved : Nat := 0
  since : Nat := 0
  irqs : Nat := 0
  lost : Nat := 0
  lostBefore : Bool := false
  deriving DecidableEq, Repr

/-- A session (R456). -/
structure Session where
  opened : Bool := false
  sgen : BitVec 12 := 0
  io : Nat := 0
  fn : Nat := 0
  slot : Nat := 0
  admin : Bool := false
  loomQuota : Nat := 0
  bayQuota : Nat := 0
  cmd : Table CmdRing := []
  cpl : Table OutRing := []
  evt : Option OutRing := none
  deriving DecidableEq, Repr

/-- A host port (Table 15-12, R481). -/
structure Port where
  up : Bool := false
  width : Nat := 0
  rate : Nat := 0
  flit : Bool := false
  vfs : Nat := 0
  inReset : Bool := false
  deriving DecidableEq, Repr

/-- The console (R453, R454). -/
structure Console where
  salt : List Byte := []
  hash : List Byte := []
  hasPassword : Bool := false
  loggedIn : Bool := false
  fails : Nat := 0
  locked : Bool := false
  deriving DecidableEq, Repr

/-- The states of the service processor (Table 15-15). -/
inductive SvcState where
  | boot | recovery | starting | ready
  deriving DecidableEq, Repr

/-- The service processor (testAsked: when a pre-emption for self-test was last asked for, by bay, R428; testing: the bays of a deleted FAULTED loom, not yet tested, R427): management dies, boot images, self-test, advisories (R424 to R431, R466 to R470). -/
structure Svc where
  st : SvcState := .boot
  mg0 : Bool := true
  mg1 : Bool := true
  active : Bool := false
  failoverSeen : Bool := false
  dark : Bool := false
  imageB : Bool := false
  fallback : Bool := false
  flashA : Option Image := none
  flashB : Option Image := none
  staged : Bool := false
  svnMin : Nat := 0
  testMode : Bool := false
  coord : BitVec 15 := 0x1240
  selftestHours : Nat := 24
  selftestPreempt : Bool := true
  lastPass : Table W64 := []
  testAsked : Table W64 := []
  suspects : List (Nat × W64 × W64) := []
  lostDies : List Nat := []
  lostBays : List Nat := []
  retired : List Nat := []
  testing : List Nat := []
  buckets : Table (List Nat) := []
  thresholds : Table Nat := []
  raised : List (Nat × Nat × Nat) := []
  minute : Nat := 0
  pwrGood : Bool := false
  alert : Bool := false
  resetHeld : Bool := true
  sdaReleased : Bool := false
  aux : List (Nat × Nat) := []
  absent : List (Nat × Nat) := []
  deriving DecidableEq, Repr

/-- Tile-store and stack fault state (R171 to R189). tsFlips and thrumFlips hold the bits that are wrong in stored words: 33 bits
by tile × 2^21 + data word, and by tile × 2^15 + thrum group. Every other word, with its parity bit, stands as it was written. -/
structure MemFaults where
  tsFlips : Table (BitVec 33) := []
  thrumFlips : Table (BitVec 33) := []
  poisonedGroups : List (Nat × Nat) := []
  corrected : List Nat := []
  poisoned : List Nat := []
  replayAttempts : Table Nat := []
  deriving DecidableEq, Repr

/-- The collective adders (R284 to R287). -/
structure Adders where
  lastPass : Table W64 := []
  deriving DecidableEq, Repr

/-- What the module sends to other modules: a remote request to the module at a coordinate, the response to one with the
status and the bytes of a read, a frame or a flit on a link direction, and the coordinate exchange of a link (R139, R259). -/
inductive OutMsg where
  | request (x y z : Nat) (q : RmtRequest)
  | response (q : RmtRequest) (st : Byte) (data : List Byte)
  | frame (dir : Option Nat) (toward : Nat) (f : Frame)
  | flit (dir : Nat) (f : WeftFlit)
  | coord (dir : Nat) (v : W64)
  deriving DecidableEq, Repr

/-- Why a step stops with a fault. No meaning of this model raises one: every effect the spec names, traps and
errors of the device among them, is a next state. -/
inductive Fault where
  /-- Raised by no command. It would say that a command found the state itself malformed; stopping there is safe. -/
  | malformedState
  deriving DecidableEq, Repr

/-- Why a step is refused. -/
inductive Refusal where
  /-- Raised only by an arm of exec that has no meaning yet; safe, since nothing then follows. -/
  | notModelled (mnemonic : String)
  deriving DecidableEq, Repr

/-- The state of the module. Its fields' defaults are their values at reset; see State.reset. -/
structure State where
  /-- Commands that wait, first in, first out. -/
  pending : List Instr := []
  variant : Variant := .m12i6
  /-- All of device memory by global address: stacks and tile stores (R165). An unlisted byte reads 0. -/
  mem : List Host.Cell := []
  /-- Bytes the module has written into host memory, by host bus address (R451). -/
  hostMem : List Host.Cell := []
  /-- The register file by BAR0 offset: each register with a home of its own, where it differs from reset. -/
  regs : Table W64 := []
  tiles : Table Tile := []
  looms : Table Loom := []
  ssems : Table SharedSem := []
  weaves : Table Weave := []
  bobbins : Table Bobbin := []
  heldWrites : List HeldWrite := []
  reqs : Table Req := []
  evseq : W64 := 0
  migNext : Option W64 := none
  faults : MemFaults := {}
  fab : Table FabPort := []
  links : Table LinkDir := []
  adders : Adders := {}
  power : Power := {}
  tlm : Telemetry := {}
  slots : Table KeySlot := []
  fns : Table FnRegs := []
  sessions : Table Session := []
  ports : Table Port := []
  console : Console := {}
  svc : Svc := {}
  /-- The model's own: the number of the next matrix command or asynchronous operation. -/
  nextNum : Nat := 0
  /-- The model's own: how many free values have been drawn. -/
  free : Nat := 0
  /-- The model's own: what the last read returned to the outside. -/
  reply : List W64 := []
  /-- The model's own: what the module has sent on its links, oldest first. -/
  out : List OutMsg := []
  deriving DecidableEq, Repr

/-- The module right after reset: every field at its default above. The manual's values are those of the register
tables; where it gives none, the values are the model's (the assumption log names them). -/
def State.reset : State := {}

end Sys2Proof.Machine
end

