-- ==== Sys2Proof/Machine/Ops.lean ====
section
/-! DEFINITION. The named operations every meaning is written with: tables, memory and addresses (R9, R165, R183),
strands and their registers (Table 4-2), registers of BAR0, events (R194, R464), logs (R195) and completions (R461). -/
namespace Sys2Proof.Machine

/-! ## Tables -/

/-- The value at a key, or the default. -/
def tget {α : Type} (d : α) : Table α → Nat → α
  | [], _ => d
  | (k, v) :: r, i => if k = i then v else tget d r i

/-- The entry at a key. -/
def tfind {α : Type} : Table α → Nat → Option α
  | [], _ => none
  | (k, v) :: r, i => if k = i then some v else tfind r i

/-- Put a value at a key; keys stay in rising order. -/
def tput {α : Type} : Table α → Nat → α → Table α
  | [], i, x => [(i, x)]
  | (k, v) :: r, i, x => if k = i then (i, x) :: r else if i < k then (i, x) :: (k, v) :: r else (k, v) :: tput r i x

/-- Remove a key. -/
def tdel {α : Type} (t : Table α) (i : Nat) : Table α := t.filter fun kv => kv.1 != i

/-- Put a value at a key of a canonical table: the default is not stored. -/
def tset {α : Type} [DecidableEq α] (d : α) (t : Table α) (i : Nat) (x : α) : Table α :=
  if x = d then tdel t i else tput t i x

/-- Apply a function to the value at a key. -/
def tmod {α : Type} (d : α) (t : Table α) (i : Nat) (f : α → α) : Table α := tput t i (f (tget d t i))

/-- Add to a count that saturates at hi. -/
def satAdd (hi a b : Nat) : Nat := min hi (a + b)

/-! ## Bytes (R9) -/

/-- The number a little-endian byte string spells. -/
def leNat : List Byte → Nat
  | [] => 0
  | b :: r => b.toNat + 256 * leNat r

/-- The n low bytes of a number, little-endian. -/
def toLe : Nat → Nat → List Byte
  | 0, _ => []
  | n + 1, v => BitVec.ofNat 8 v :: toLe n (v / 256)

/-- n bytes from offset o of a byte string; beyond its end, zeros. -/
def slice (bs : List Byte) (o n : Nat) : List Byte :=
  let x := (bs.drop o).take n
  x ++ List.replicate (n - x.length) 0

/-- The number in n bytes at offset o. -/
def fieldAt (bs : List Byte) (o n : Nat) : Nat := leNat (slice bs o n)

/-- Bits hi:lo of a number (R10). -/
def bits (v hi lo : Nat) : Nat := (v >>> lo) % 2 ^ (hi - lo + 1)

/-- Round up to 4 KiB. -/
def align4k (n : Nat) : Nat := (n + 4095) / 4096 * 4096

/-! ## Memory: rising addresses, no zero byte listed -/

/-- Read one byte; a byte nothing has written reads 0 (log 4). -/
def memGet (m : List Host.Cell) (a : Nat) : Byte := tget 0 m a
/-- Write one byte, keeping the canonical form. -/
def memSet (m : List Host.Cell) (a : Nat) (b : Byte) : List Host.Cell := tset 0 m a b
/-- Read n bytes upward. -/
def memGetN (m : List Host.Cell) (a : Nat) : Nat → List Byte
  | 0 => []
  | n + 1 => memGet m a :: memGetN m (a + 1) n
/-- Write bytes upward. -/
def memSetN (m : List Host.Cell) (a : Nat) : List Byte → List Host.Cell
  | [] => m
  | b :: r => memSetN (memSet m a b) (a + 1) r

/-- Addresses rise strictly from lo and no byte is 0. -/
def cellsFrom (lo : Nat) : List Host.Cell → Bool
  | [] => true
  | (k, v) :: r => decide (lo ≤ k) && decide (v ≠ 0) && cellsFrom (k + 1) r

/-- The canonical form of memory: equal memories are equal lists. -/
def Memory.wf (m : List Host.Cell) : Bool := cellsFrom 0 m

/-- Read n bytes of device memory as a number. -/
def rd (s : State) (a n : Nat) : Nat := leNat (memGetN s.mem a n)
/-- Read n bytes of device memory. -/
def rdN (s : State) (a n : Nat) : List Byte := memGetN s.mem a n
/-- Write bytes to device memory. -/
def wrN (s : State) (a : Nat) (bs : List Byte) : State := { s with mem := memSetN s.mem a bs }
/-- Write the n low bytes of a number to device memory. -/
def wr (s : State) (a n v : Nat) : State := wrN s a (toLe n v)
/-- Write bytes to host memory (R451). -/
def hostWr (s : State) (a : Nat) (bs : List Byte) : State := { s with hostMem := memSetN s.hostMem a bs }
/-- Remove every listed byte of a range: it reads 0 again. -/
def memClear (m : List Host.Cell) (a n : Nat) : List Host.Cell := m.filter fun c => c.1 < a || a + n ≤ c.1

/-! ## Addresses (R24, R165, R169, R172, R183) -/

/-- 7 MiB, the store of a tile. -/
def tsBytes : Nat := 7340032
/-- Where the tile stores begin. -/
def tsBase : Nat := 0x1000000000000000
/-- Where the registers begin. -/
def regBase : Nat := 0x2000000000000000
/-- The global address of an offset in a tile's store. -/
def tileAddr (tile off : Nat) : Nat := tsBase + tile * 2 ^ 23 + off

/-- What a global address names (Table 5-1). -/
inductive Place where
  | stack (a : Nat)
  | tile (t off : Nat)
  | reg (off : Nat)
  | hole
  deriving DecidableEq, Repr

/-- Decode a global address. An offset past the 7 MiB of its window is still that tile's. -/
def place (v : Variant) (a : Nat) : Place :=
  if a < Config.memEnd v then .stack a
  else if tsBase ≤ a && a < tsBase + 5120 * 2 ^ 23 then .tile ((a - tsBase) / 2 ^ 23) ((a - tsBase) % 2 ^ 23)
  else if regBase ≤ a && a < regBase + 2 ^ 30 then .reg (a - regBase)
  else .hole

/-- The stack of an address (R183). -/
def stackOf (v : Variant) (a : Nat) : Nat := (a / 4096) % Config.stackNum v
/-- The thrum group of a tile-store offset (R172). -/
def groupOf (off : Nat) : Nat := off / 4 / 63
/-- The module bay of a tile (R24). -/
def bayOf (tile : Nat) : Nat := tile / 16
/-- The die of a module bay. -/
def dieOfBay (bay : Nat) : Nat := bay / 8
/-- The tiles of a module bay, ascending. -/
def bayTiles (bay : Nat) : List Nat := (List.range 16).map fun i => bay * 16 + i
/-- The tiles of a loom in rank order (R214). -/
def loomTiles (l : Loom) : List Nat := l.bays.flatMap bayTiles

/-! ## Parts of the state -/

def getLoom (s : State) (l : Nat) : Loom := tget {} s.looms l
def setLoom (s : State) (l : Nat) (x : Loom) : State := { s with looms := tput s.looms l x }
def modLoom (s : State) (l : Nat) (f : Loom → Loom) : State := setLoom s l (f (getLoom s l))
def getTile (s : State) (t : Nat) : Tile := tget {} s.tiles t
def setTile (s : State) (t : Nat) (x : Tile) : State := { s with tiles := tput s.tiles t x }
def modTile (s : State) (t : Nat) (f : Tile → Tile) : State := setTile s t (f (getTile s t))
def getStrand (s : State) (a : Issuer) : Strand := tget {} (getTile s a.tile).strands a.strand
def setStrand (s : State) (a : Issuer) (x : Strand) : State :=
  modTile s a.tile fun t => { t with strands := tput t.strands a.strand x }
def modStrand (s : State) (a : Issuer) (f : Strand → Strand) : State := setStrand s a (f (getStrand s a))
def getSession (s : State) (n : Nat) : Session := tget {} s.sessions n
def setSession (s : State) (n : Nat) (x : Session) : State := { s with sessions := tput s.sessions n x }
def modSession (s : State) (n : Nat) (f : Session → Session) : State := setSession s n (f (getSession s n))
def getReq (s : State) (e : Nat) : Req := tget {} s.reqs e
def setReq (s : State) (e : Nat) (x : Req) : State := { s with reqs := tput s.reqs e x }
def modReq (s : State) (e : Nat) (f : Req → Req) : State := setReq s e (f (getReq s e))
def modPower (s : State) (f : Power → Power) : State := { s with power := f s.power }
def modTlm (s : State) (f : Telemetry → Telemetry) : State := { s with tlm := f s.tlm }
def modSvc (s : State) (f : Svc → Svc) : State := { s with svc := f s.svc }
def getDie (s : State) (d : Nat) : DiePower := tget {} s.power.dies d
def modDie (s : State) (d : Nat) (f : DiePower → DiePower) : State :=
  modPower s fun p => { p with dies := tput p.dies d (f (tget {} p.dies d)) }

/-- What the module does of itself it does no more once its last management die is lost, until reset (R425). -/
def alive (s : State) (f : State → State) : State := if s.svc.dark then s else f s

/-- Draw n free values: the number of the first, and the state past them. -/
def drawFree (s : State) (n : Nat) : Nat × State := (s.free, { s with free := s.free + n })

/-- The loom that holds the bays of a tile (R229). -/
def loomOfTile (s : State) (tile : Nat) : Option Nat :=
  (List.range 32).find? fun l => let x := getLoom s l; x.holder && x.bays.contains (bayOf tile)

/-- The loom that owns a tile: the holder of its bay set, else the last holder, else the lowest loom of the bay set. -/
def ownerOfTile (s : State) (tile : Nat) : Option Nat :=
  let has := fun l => (getLoom s l).bays.contains (bayOf tile)
  match (List.range 32).find? fun l => has l && (getLoom s l).holder with
  | some l => some l
  | none =>
    match (List.range 32).find? fun l => has l && (getLoom s l).lastHolder with
    | some l => some l
    | none => (List.range 32).find? has

/-- A tile of a loom as the loom has it: in its save image while it has one (R243), in its bays while nobody else has entered
them, else in what is kept of a loom that is away. -/
def tileOf (s : State) (l t : Nat) : Tile :=
  let x := getLoom s l
  match x.image with
  | some i => tget {} i.tiles t
  | none => if x.holder || x.lastHolder then getTile s t else tget {} x.keep t

/-- Change a tile of a loom where the loom has it. A loom that left its bays last has it twice. -/
def modTileOf (s : State) (l t : Nat) (f : Tile → Tile) : State :=
  let x := getLoom s l
  match x.image with
  | some i => modLoom s l fun x => { x with image := some { i with tiles := tmod {} i.tiles t f } }
  | none =>
    let s := if x.holder || x.lastHolder then modTile s t f else s
    if x.holder then s else modLoom s l fun x => { x with keep := tmod {} x.keep t f }

/-- The module sends something (R139, R160). -/
def send (s : State) (m : OutMsg) : State := { s with out := s.out ++ [m] }

/-- Looms that are not FREE. -/
def liveLooms (s : State) : List Nat := (List.range 32).filter fun l => (getLoom s l).st != .free

/-! ## Strand registers (Table 4-2) -/

/-- Read a scalar register: s0 reads 0. -/
def Strand.sget (x : Strand) (r : Nat) : W64 := if r = 0 then 0 else tget 0 x.s r
/-- Write a scalar register: a write to s0 is discarded. -/
def Strand.sput (x : Strand) (r : Nat) (v : W64) : Strand := if r = 0 then x else { x with s := tset 0 x.s r v }
/-- Read a vector register of one thread. -/
def Strand.vget (x : Strand) (r t : Nat) : W32 := tget 0 x.v (r * 32 + t)
/-- Write a vector register of one thread. -/
def Strand.vput (x : Strand) (r t : Nat) (v : W32) : Strand := { x with v := tset 0 x.v (r * 32 + t) v }
/-- Read a predicate register of one thread: p0 reads 1. -/
def Strand.pget (x : Strand) (r t : Nat) : Bool := if r = 0 then true else tget false x.p (r * 32 + t)
/-- Write a predicate register of one thread: a write to p0 is discarded. -/
def Strand.pput (x : Strand) (r t : Nat) (v : Bool) : Strand :=
  if r = 0 then x else { x with p := tset false x.p (r * 32 + t) v }
/-- Set ASW bits (Table 4-13). -/
def Strand.flag (x : Strand) (f : W64) : Strand := { x with asw := x.asw ||| f }
/-- The strand goes on at the next instruction. -/
def Strand.next (x : Strand) : Strand := { x with pc := x.pc + 1 }

/-! ## Status codes (Table 0-5) -/
def stOk : Byte := 0x00
def stFull : Byte := 0x01
def stMiss : Byte := 0x02
def stCancelled : Byte := 0x03
def stDeadline : Byte := 0x04
def stAlreadyDone : Byte := 0x05
def stBusy : Byte := 0x06
def stNotStopped : Byte := 0x07
def stSemRevoked : Byte := 0x08
def stFenced : Byte := 0x09
def stMixedStep : Byte := 0x0A
def stPickExhausted : Byte := 0x0B
def stAuthFail : Byte := 0x0C
def stNoSession : Byte := 0x0D
def stTied : Byte := 0x0E
def stStale : Byte := 0x0F
def stUncorr : Byte := 0x10
def stBad : Byte := 0x11
def stPerm : Byte := 0x12
/-- A code that Table 0-5 lists; the others are reserved and are never returned (R19). -/
def stListed (st : Byte) : Bool := st ≤ 0x12

/-! ## The register file -/

/-- Reset values other than 0 of the registers the register file holds (Tables 5-12 to 5-14, 6-7 to 6-12, 7-10, 8-9,
8-17, 9-12, 10-11, 11-13, 12-7, 13-11, 15-11, 15-16). -/
def regReset (off : Nat) : W64 :=
  if off = 0x00A00010 then 0x1ff
  else if off = 0x00A00028 then 0x0000FFFF00000000
  else if off = 0x00A00030 then 0x8000003C
  else if off = 0x00B00008 then 0x1f
  else if off = 0x00B00018 then 0x0000FFFF00000000
  else if 0x00B00100 ≤ off && off < 0x00B00100 + 67 * 16 && off % 16 = 0 then 0xFF00
  else if off = 0x00200018 then 0x7f
  else if off = 0x00300008 then 0x80040064
  else if off = 0x00700010 then 0x1ff
  else if off = 0x00708010 then 0x1f
  else if off = 0x00708000 then 0x1240
  else if off = 0x00708020 then 0xFFFF000000
  else if 0x00700100 ≤ off && off < 0x00700100 + 40 * 8 && off % 8 = 0 then 0xF
  else if off = 0x00600010 then 0x3c
  else if off = 0x00500010 then 0xff
  else if off = 0x00400010 then 0x73c
  else if off = 0x00800010 then 0x1fff
  else if off = 0x00900010 then 0x13f
  else if off = 0x00000030 then 0xff
  else if off = 0x00100108 then 0x3f
  else 0

/-- Read the register file. -/
def getReg (s : State) (off : Nat) : W64 := tget (regReset off) s.regs off
/-- Write the register file; a register at its reset value is not listed. -/
def setReg (s : State) (off : Nat) (v : W64) : State := { s with regs := tset (regReset off) s.regs off v }
/-- Set bits of a register. -/
def orReg (s : State) (off : Nat) (v : W64) : State := setReg s off (getReg s off ||| v)
/-- Count in a 32-bit register that saturates. -/
def countReg (s : State) (off : Nat) (n : Nat := 1) : State :=
  setReg s off (BitVec.ofNat 64 (satAdd 0xFFFFFFFF (getReg s off).toNat n))

/-- Forget every register of the register file in a range: it reads its reset value. -/
def clearRegs (s : State) (base n : Nat) : State := { s with regs := s.regs.filter fun kv => kv.1 < base || base + n ≤ kv.1 }

/-- Add to a 48-bit counter that wraps (R17). -/
def count48 (s : State) (off n : Nat) : State :=
  setReg s off (BitVec.ofNat 64 (((getReg s off).toNat + n) % 2 ^ 48))

/-! ## Output rings, completions and events (R461, R463, R464, Tables 15-3 and 15-5) -/

/-- Entries of a ring. -/
def OutRing.size (r : OutRing) : Nat := 2 ^ r.log2
/-- Entries written and not yet returned by the host. -/
def OutRing.unread (r : OutRing) : Nat := (r.written + 65536 - r.head.toNat) % 65536
/-- The phase bit of the entry to be written next (Table 15-3). -/
def OutRing.phase (r : OutRing) : Nat := (r.written / r.size + 1) % 2
/-- Where the entry to be written next lies. -/
def OutRing.slot (r : OutRing) : Nat := r.base.toNat + r.written % r.size * 32
/-- An entry has been written. -/
def OutRing.push (r : OutRing) : OutRing := { r with written := r.written + 1, since := r.since + 1 }

/-- Where each source of events keeps its status; the enable register follows it (Table 15-5). -/
inductive Src where
  | mem | fab | lmgr | coll | link | lrn | srv | shed | pwr | tlm | svc | hif
  deriving DecidableEq, Repr

def Src.code : Src → Nat
  | .mem => 1 | .fab => 2 | .lmgr => 3 | .coll => 4 | .link => 5 | .lrn => 6 | .srv => 7 | .shed => 8 | .pwr => 9
  | .tlm => 10 | .svc => 11 | .hif => 12

def Src.status : Src → Nat
  | .mem => 0x00A00008 | .fab => 0x00B00000 | .lmgr => 0x00200010 | .coll => 0x00700008 | .link => 0x00708008
  | .lrn => 0x00600008 | .srv => 0x00500008 | .shed => 0x00400008 | .pwr => 0x00800008 | .tlm => 0x00900008
  | .svc => 0x00000028 | .hif => 0x00100100

/-- The words of an event record but its PHASE and LOST_BEFORE. -/
structure EvtRec where
  src : Nat
  bit : Nat
  loom : Option Nat
  unit : Nat
  time : W64
  detail : Nat
  deriving DecidableEq, Repr

/-- The 32 bytes of an event record (Table 15-5). -/
def EvtRec.bytes (e : EvtRec) (phase : Nat) (lost : Bool) : List Byte :=
  let lm := match e.loom with
    | none => 0
    | some l => l * 2 ^ 16 + 2 ^ 21
  toLe 4 (e.src + e.bit * 2 ^ 8 + lm + (if lost then 2 ^ 22 else 0) + phase * 2 ^ 31)
    ++ toLe 4 e.unit ++ toLe 8 e.time.toNat ++ toLe 16 e.detail

/-- Write an event record to the event ring of a session, or count it as lost (R464). -/
def evtToSession (s : State) (n : Nat) (e : EvtRec) : State :=
  let x := getSession s n
  match x.evt with
  | none => s
  | some r =>
    if r.size ≤ r.unread then
      setSession s n { x with evt := some { r with lost := satAdd 0xFFFF r.lost 1, lostBefore := true } }
    else
      let s := hostWr s r.slot (e.bytes r.phase r.lostBefore)
      setSession s n { x with evt := some { r.push with lostBefore := false } }

/-- Send an event record to the session that owns its loom, or to every open session (R464). -/
def sendEvt (s : State) (e : EvtRec) : State :=
  match e.loom with
  | some l => if (getSession s (getLoom s l).session).opened then evtToSession s (getLoom s l).session e else s
  | none => (List.range 16).foldl (fun s n => if (getSession s n).opened then evtToSession s n e else s) s

/-- Raise an event: the status bit is set whatever the enable holds; an enabled bit also sends its record (R194). -/
def raiseEvt (s : State) (src : Src) (bit : Nat) (loom : Option Nat := none) (unit : Nat := 0) (detail : Nat := 0) :
    State :=
  let s := orReg s src.status (BitVec.ofNat 64 (2 ^ bit))
  if (getReg s (src.status + 8)).getLsbD bit then
    sendEvt s { src := src.code, bit, loom, unit, time := s.tlm.timebase, detail }
  else s

/-- Capture in a log (R195): VALID 63 and OVERRUN 62 of the last word; while VALID is 1 only OVERRUN is set. -/
def capture (s : State) (validReg : Nat) (valid : W64) (others : List (Nat × W64)) : State :=
  if (getReg s validReg).getLsbD 63 then orReg s validReg 0x4000000000000000
  else
    let s := others.foldl (fun s kv => setReg s kv.1 kv.2) s
    setReg s validReg (valid ||| 0x8000000000000000 ||| (getReg s validReg &&& 0x4000000000000000))

/-- The completion ring of a command ring. -/
def cplOf (x : Session) (ring : Nat) : Nat := match tfind x.cmd ring with
  | none => 0
  | some r => r.cpl

/-- Write a completion entry (Table 15-3) for a command of a ring; result is at most 24 bytes (R474). -/
def postCpl (s : State) (sess ring : Nat) (status : Byte) (opcode : Nat) (tag : W32) (result : List Byte) : State :=
  let x := getSession s sess
  let c := cplOf x ring
  match tfind x.cpl c with
  | none => s
  | some r =>
    let s := hostWr s r.slot (toLe 4 (status.toNat + opcode * 2 ^ 8 + ring * 2 ^ 16 + r.phase * 2 ^ 31)
      ++ toLe 4 tag.toNat ++ slice result 0 24)
    setSession s sess { x with cpl := tput x.cpl c { r.push with reserved := r.reserved - 1 } }

/-- A ring command taken by COMMAND_FETCH and not yet completed. -/
def takenOf (s : State) (sess ring : Nat) : Option Taken :=
  match tfind (getSession s sess).cmd ring with
  | none => none
  | some r => r.taken

/-- Complete the command a ring has in progress: its completion is written and the ring may go on (R462). -/
def finish (s : State) (sess ring : Nat) (status : Byte) (result : List Byte := []) : State :=
  match takenOf s sess ring with
  | none => s
  | some t =>
    let s := postCpl s sess ring status t.opcode t.tag (if status = stOk then result else [])
    modSession s sess fun x => { x with cmd := tmod {} x.cmd ring fun r => { r with taken := none } }

/-- As finish, with a result that a status other than OK carries too (Table 15-20). -/
def finishWith (s : State) (sess ring : Nat) (status : Byte) (result : List Byte) : State :=
  match takenOf s sess ring with
  | none => s
  | some t =>
    let s := postCpl s sess ring status t.opcode t.tag result
    modSession s sess fun x => { x with cmd := tmod {} x.cmd ring fun r => { r with taken := none } }

/-! ## Coordinates and job boxes (R264, R265) -/

/-- The module's coordinate from LINK_COORD, and the torus extents. -/
def coordOf (s : State) : Nat × Nat × Nat :=
  let v := (getReg s 0x00708000).toNat
  (bits v 1 0, bits v 3 2, bits v 5 4)
def extentOf (s : State) : Nat × Nat × Nat :=
  let v := (getReg s 0x00708000).toNat
  (bits v 8 6, bits v 11 9, bits v 14 12)

/-- The box of a loom: origin and extents. -/
def boxOrigin (x : Loom) : Nat × Nat × Nat := let v := x.box.toNat; (bits v 1 0, bits v 3 2, bits v 5 4)
def boxExtent (x : Loom) : Nat × Nat × Nat := let v := x.box.toNat; (bits v 8 6, bits v 11 9, bits v 14 12)

/-- The box-relative coordinate on an axis; an axis of one module has coordinate 0. -/
def relCoord (c o e : Nat) : Nat := if e = 1 then 0 else c - o

/-- The module's coordinates in the box of a loom. -/
def boxCoord (s : State) (x : Loom) : Nat × Nat × Nat :=
  let c := coordOf s
  let o := boxOrigin x
  let e := boxExtent x
  (relCoord c.1 o.1 e.1, relCoord c.2.1 o.2.1 e.2.1, relCoord c.2.2 o.2.2 e.2.2)

end Sys2Proof.Machine
end

