-- ==== Sys2Proof/Machine/Crypto.lean ====
section
/-! DEFINITION. Check values and cryptography that the manual names: CRC-32C (R279), CRC-16-CCITT (Table 8-1), SHA-256,
HMAC-SHA-256 and PBKDF2 (R453, R455), SHA-384 and ECDSA P-384 verification (R468, R469). -/
namespace Sys2Proof.Machine

/-! ## CRCs -/

/-- One byte of CRC-32C, eight reflected steps. -/
def crc32Bit (c : W32) : W32 := if c.getLsbD 0 then (c >>> 1) ^^^ 0x82F63B78 else c >>> 1
def crc32Byte (c : W32) (b : Byte) : W32 :=
  (List.range 8).foldl (fun x _ => crc32Bit x) (c ^^^ b.setWidth 32)
/-- CRC-32C with initial value and final XOR 0xFFFFFFFF (R279). -/
def crc32c (bs : List Byte) : W32 := ~~~ (bs.foldl crc32Byte 0xFFFFFFFF)

/-- One byte of CRC-16-CCITT, polynomial 0x1021, most significant bit first. -/
def crc16Bit (c : BitVec 16) : BitVec 16 := if c.getMsbD 0 then (c <<< 1) ^^^ 0x1021 else c <<< 1
def crc16Byte (c : BitVec 16) (b : Byte) : BitVec 16 :=
  (List.range 8).foldl (fun x _ => crc16Bit x) (c ^^^ (b.setWidth 16 <<< 8))
/-- CRC-16-CCITT. The manual gives no initial value; 0xFFFF is PRESUMED (log 23). -/
def crc16 (bs : List Byte) : BitVec 16 := bs.foldl crc16Byte 0xFFFF

/-! ## SHA-2 -/

/-- Integer root of degree d, bit by bit from bit n. -/
def rootGo (d x : Nat) : Nat → Nat → Nat
  | 0, r => r
  | n + 1, r => let c := r + 2 ^ n; rootGo d x n (if c ^ d ≤ x then c else r)

/-- The first 80 primes. -/
def shaPrimes : List Nat :=
  (List.range 410).filter fun p => 2 ≤ p && (List.range p).all fun d => d < 2 || p % d ≠ 0

/-- The fractional bits of a root of a prime, w of them: the constants of FIPS 180-4. -/
def rootFrac (d w p : Nat) : Nat := rootGo d (p * 2 ^ (d * w)) (w + 6) 0 % 2 ^ w

/-- The round constants and initial values. -/
def sha256K : List W32 := (shaPrimes.take 64).map fun p => BitVec.ofNat 32 (rootFrac 3 32 p)
def sha256H : List W32 := (shaPrimes.take 8).map fun p => BitVec.ofNat 32 (rootFrac 2 32 p)
def sha384K : List W64 := (shaPrimes.take 80).map fun p => BitVec.ofNat 64 (rootFrac 3 64 p)
def sha384H : List W64 := ((shaPrimes.drop 8).take 8).map fun p => BitVec.ofNat 64 (rootFrac 2 64 p)

/-- The rotation and shift amounts of a SHA-2 word size: Σ0, Σ1, σ0, σ1. -/
structure ShaRot where
  S0 : Nat × Nat × Nat
  S1 : Nat × Nat × Nat
  s0 : Nat × Nat × Nat
  s1 : Nat × Nat × Nat
  deriving DecidableEq, Repr

def rot256 : ShaRot := { S0 := (2, 13, 22), S1 := (6, 11, 25), s0 := (7, 18, 3), s1 := (17, 19, 10) }
def rot512 : ShaRot := { S0 := (28, 34, 39), S1 := (14, 18, 41), s0 := (1, 8, 7), s1 := (19, 61, 6) }

def shaBig {w : Nat} (r : Nat × Nat × Nat) (x : BitVec w) : BitVec w :=
  x.rotateRight r.1 ^^^ x.rotateRight r.2.1 ^^^ x.rotateRight r.2.2
def shaSmall {w : Nat} (r : Nat × Nat × Nat) (x : BitVec w) : BitVec w :=
  x.rotateRight r.1 ^^^ x.rotateRight r.2.1 ^^^ (x >>> r.2.2)

/-- The message schedule, most recent word first. -/
def shaSched {w : Nat} (r : ShaRot) : Nat → List (BitVec w) → List (BitVec w)
  | 0, l => l
  | n + 1, l => shaSched r n ((shaSmall r.s1 (l.getD 1 0) + l.getD 6 0 + shaSmall r.s0 (l.getD 14 0) + l.getD 15 0) :: l)

/-- One round on the eight working words. -/
def shaRound {w : Nat} (r : ShaRot) (v : List (BitVec w)) (kw : BitVec w × BitVec w) : List (BitVec w) :=
  let g := fun i => v.getD i 0
  let t1 := g 7 + shaBig r.S1 (g 4) + ((g 4 &&& g 5) ^^^ (~~~ g 4 &&& g 6)) + kw.1 + kw.2
  let t2 := shaBig r.S0 (g 0) + ((g 0 &&& g 1) ^^^ (g 0 &&& g 2) ^^^ (g 1 &&& g 2))
  [t1 + t2, g 0, g 1, g 2, g 3 + t1, g 4, g 5, g 6]

/-- A big-endian number of bytes. -/
def beNat (bs : List Byte) : Nat := bs.foldl (fun n b => n * 256 + b.toNat) 0
/-- The n bytes of a number, most significant first. -/
def toBe (n v : Nat) : List Byte := (toLe n v).reverse

/-- Fold the blocks of a padded message; fuel is their count. -/
def shaBlocks {w : Nat} (r : ShaRot) (k : List (BitVec w)) : Nat → List Byte → List (BitVec w) → List (BitVec w)
  | 0, _, h => h
  | n + 1, bs, h =>
    let by_ := w / 8
    let ws := ((List.range 16).map fun i => BitVec.ofNat w (beNat ((bs.drop (i * by_)).take by_))).reverse
    let sched := (shaSched r (k.length - 16) ws).reverse
    let v := (k.zip sched).foldl (shaRound r) h
    shaBlocks r k n (bs.drop (16 * by_)) ((h.zip v).map fun p => p.1 + p.2)

/-- Pad a message for words of w bits and fold it. -/
def shaDigest {w : Nat} (r : ShaRot) (k h : List (BitVec w)) (outWords : Nat) (m : List Byte) : List Byte :=
  let blk := 2 * w
  let len := m.length
  let zeros := (blk - (len + 1 + w / 4) % blk) % blk
  let p := m ++ [0x80] ++ List.replicate zeros 0 ++ toBe (w / 4) (len * 8)
  ((shaBlocks r k (p.length / blk) p h).take outWords).flatMap fun x => toBe (w / 8) x.toNat

def sha256 (m : List Byte) : List Byte := shaDigest rot256 sha256K sha256H 8 m
def sha384 (m : List Byte) : List Byte := shaDigest rot512 sha384K sha384H 6 m

/-- HMAC-SHA-256. -/
def hmac256 (key m : List Byte) : List Byte :=
  let k := if 64 < key.length then sha256 key else key
  let k := k ++ List.replicate (64 - k.length) 0
  sha256 (k.map (· ^^^ 0x5c) ++ sha256 (k.map (· ^^^ 0x36) ++ m))

/-- n more iterations of PBKDF2's block from the value u, the running XOR being t. -/
def pbkdf2Go (pw : List Byte) : Nat → List Byte → List Byte → List Byte
  | 0, _, t => t
  | n + 1, u, t => let u' := hmac256 pw u; pbkdf2Go pw n u' ((t.zip u').map fun p => p.1 ^^^ p.2)

/-- PBKDF2-HMAC-SHA-256 with one block of 32 bytes (R453). -/
def pbkdf2 (pw salt : List Byte) (iters : Nat) : List Byte :=
  let u := hmac256 pw (salt ++ [0, 0, 0, 1])
  pbkdf2Go pw (iters - 1) u u

/-! ## ECDSA P-384 (FIPS 186) -/

/-- The field prime, the group order, and the base point. -/
def p384P : Nat := 2 ^ 384 - 2 ^ 128 - 2 ^ 96 + 2 ^ 32 - 1
def p384N : Nat := 0xffffffffffffffffffffffffffffffffffffffffffffffffc7634d81f4372ddf581a0db248b0a77aecec196accc52973
def p384B : Nat := 0xb3312fa7e23ee7e4988e056be3f82d19181d9c6efe8141120314088f5013875ac656398d8a2ed19d2a85c8edd3ec2aef
def p384Gx : Nat := 0xaa87ca22be8b05378eb1c71ef320ad746e1d3b628ba79b9859f741e082542a385502f25dbf55296c3a545e3872760ab7
def p384Gy : Nat := 0x3617de4a96262c6f5d9e98bf9292dc29f8f41dbd289a147ce9da3113b5f0b8c00a60b1ce1d7e819d7a431d7c90ea0e5f

/-- b ^ e mod m over the low k bits of e. -/
def powMod (m : Nat) : Nat → Nat → Nat → Nat
  | 0, _, _ => 1 % m
  | k + 1, b, e => powMod m k (b * b % m) (e / 2) * (if e % 2 = 1 then b else 1) % m

/-- The inverse modulo a prime of 384 bits. -/
def invMod (m a : Nat) : Nat := powMod m 384 a (m - 2)

/-- Add two points; none is the point at infinity. -/
def ecAdd (a b : Option (Nat × Nat)) : Option (Nat × Nat) :=
  match a, b with
  | none, q => q
  | q, none => q
  | some (x1, y1), some (x2, y2) =>
    let m := p384P
    if x1 = x2 && (y1 + y2) % m = 0 then none
    else
      let l := if x1 = x2 then (3 * x1 * x1 + (m - 3)) * invMod m (2 * y1 % m) % m
        else ((y2 + m - y1) % m) * invMod m ((x2 + m - x1) % m) % m
      let x3 := (l * l + 2 * m - x1 - x2) % m
      some (x3, (l * ((x1 + m - x3) % m) + m - y1) % m)

/-- k times a point, over k's low n bits. -/
def ecMul : Nat → Nat → Option (Nat × Nat) → Option (Nat × Nat)
  | 0, _, _ => none
  | n + 1, k, q => ecAdd (if k % 2 = 1 then q else none) (ecMul n (k / 2) (ecAdd q q))

/-- The point lies on the curve. -/
def ecOn (x y : Nat) : Bool := x < p384P && y < p384P && y * y % p384P = (x * x * x + (p384P - 3) * x + p384B) % p384P

/-- ECDSA verification of a digest of 48 bytes under a public key of X then Y, and a signature of r then s. -/
def ecdsaOk (pub sig digest : List Byte) : Bool :=
  let x := beNat (slice pub 0 48)
  let y := beNat (slice pub 48 48)
  let r := beNat (slice sig 0 48)
  let s := beNat (slice sig 48 48)
  let n := p384N
  ecOn x y && 0 < r && r < n && 0 < s && s < n &&
    (let w := invMod n s
     let u1 := beNat digest * w % n
     let u2 := r * w % n
     match ecAdd (ecMul 384 u1 (some (p384Gx, p384Gy))) (ecMul 384 u2 (some (x, y))) with
     | none => false
     | some (px, _) => px % n = r)

end Sys2Proof.Machine
end

