-- ==== Sys2Proof/Machine/Float.lean ====
section
/-! DEFINITION. The number formats of chapter 02 and their arithmetic: every value is an exact dyadic number, an
operation is exact, and one rounding narrows the result (R44, R45, R53, R55, R57, R66). -/
namespace Sys2Proof.Machine

/-- A value of a floating-point format: NaN, a signed infinity, or (-1)^neg × m × 2^e, exactly. -/
inductive FVal where
  | nan
  | inf (neg : Bool)
  | fin (neg : Bool) (m : Nat) (e : Int)
  deriving DecidableEq, Repr

/-- The shape of a floating-point format (Tables 2-1 and 2-2). noInf: no infinity, NaN only at all ones (E4M3);
noNan: neither (E2M1). -/
structure FShape where
  eb : Nat
  fb : Nat
  bias : Int
  noInf : Bool := false
  noNan : Bool := false
  deriving DecidableEq, Repr

/-- FP32 (IEEE 754 binary32). -/
def shF32 : FShape := { eb := 8, fb := 23, bias := 127 }
/-- BF16. -/
def shBf16 : FShape := { eb := 8, fb := 7, bias := 127 }
/-- FP16. -/
def shF16 : FShape := { eb := 5, fb := 10, bias := 15 }
/-- E4M3. -/
def shE4m3 : FShape := { eb := 4, fb := 3, bias := 7, noInf := true }
/-- E5M2. -/
def shE5m2 : FShape := { eb := 5, fb := 2, bias := 15 }
/-- E2M1. -/
def shE2m1 : FShape := { eb := 2, fb := 1, bias := 1, noInf := true, noNan := true }

/-- Element width of a format in bits. -/
def FShape.width (f : FShape) : Nat := 1 + f.eb + f.fb

/-- The exponent of the smallest normal number. -/
def FShape.emin (f : FShape) : Int := 1 - f.bias

/-- The exponent of the unit of the subnormal numbers: every finite value is a multiple of 2 to this power. -/
def FShape.ulpMin (f : FShape) : Int := f.emin - f.fb

/-- All ones in the exponent field. -/
def FShape.eAll (f : FShape) : Nat := 2 ^ f.eb - 1

/-- The significand of the largest finite value, as an integer of fb + 1 bits, and its unit's exponent. -/
def FShape.maxFin (f : FShape) : Nat × Int :=
  if f.noNan then (2 ^ (f.fb + 1) - 1, (f.eAll : Int) - f.bias - f.fb)
  else if f.noInf then (2 ^ (f.fb + 1) - 2, (f.eAll : Int) - f.bias - f.fb)
  else (2 ^ (f.fb + 1) - 1, (f.eAll : Int) - 1 - f.bias - f.fb)

/-- The canonical NaN written (Table 2-2). -/
def FShape.canonNan (f : FShape) : Nat :=
  if f.noInf then 2 ^ (f.eb + f.fb) - 1 else f.eAll * 2 ^ f.fb + 2 ^ (f.fb - 1)

/-- The sign bit in place. -/
def FShape.sign (f : FShape) (neg : Bool) : Nat := if neg then 2 ^ (f.eb + f.fb) else 0

/-- The value of an encoding (R43, R44). -/
def FShape.unpack (f : FShape) (bits : Nat) : FVal :=
  let neg := (bits >>> (f.eb + f.fb)) % 2 = 1
  let ex := (bits >>> f.fb) % 2 ^ f.eb
  let fr := bits % 2 ^ f.fb
  if !f.noInf && ex = f.eAll then (if fr = 0 then .inf neg else .nan)
  else if f.noInf && !f.noNan && ex = f.eAll && fr = 2 ^ f.fb - 1 then .nan
  else if ex = 0 then .fin neg fr f.ulpMin
  else .fin neg (fr + 2 ^ f.fb) ((ex : Int) - f.bias - f.fb)

/-- How a rounding goes: to nearest even, toward zero, or stochastic with the 16 random bits r (Table 2-5, R58). -/
inductive RMode where
  | rne
  | rtz
  | sr (r : Nat)
  deriving DecidableEq, Repr

/-- Round m × 2^-sh to an integer. -/
def roundShift (md : RMode) (m sh : Nat) : Nat :=
  let k := m >>> sh
  let rem := m % 2 ^ sh
  if rem = 0 then k
  else
    match md with
    | .rtz => k
    | .rne => if 2 * rem > 2 ^ sh || (2 * rem = 2 ^ sh && k % 2 = 1) then k + 1 else k
    | .sr r => if rem * 65536 / 2 ^ sh > r then k + 1 else k

/-- The exponent of the unit in which a magnitude m × 2^e (m not 0) is rounded: the format's precision, with no upper
limit of the exponent, and never below the subnormal unit. -/
def FShape.unit (f : FShape) (m : Nat) (e : Int) : Int :=
  max ((Nat.log2 m : Int) + e - f.fb) f.ulpMin

/-- A magnitude rounded to the format's precision: k × 2^q. -/
def FShape.roundMag (f : FShape) (md : RMode) (m : Nat) (e : Int) : Nat × Int :=
  let q := f.unit m e
  if q ≤ e then (m * 2 ^ (e - q).toNat, q) else (roundShift md m (q - e).toNat, q)

/-- Whether k × 2^q is beyond the largest finite value (R53). -/
def FShape.beyond (f : FShape) (k : Nat) (q : Int) : Bool :=
  let (xk, xq) := f.maxFin
  if q ≤ xq then k > xk * 2 ^ (xq - q).toNat else k * 2 ^ (q - xq).toNat > xk

/-- The encoding of a magnitude k × 2^q that is representable and not beyond the range. -/
def FShape.packMag (f : FShape) (k : Nat) (q : Int) : Nat :=
  if k < 2 ^ f.fb then k
  else
    let (k, q) := if k = 2 ^ (f.fb + 1) then (k / 2, q + 1) else (k, q)
    (q + f.fb + f.bias).toNat * 2 ^ f.fb + (k - 2 ^ f.fb)

/-- The encoding of the largest finite magnitude. -/
def FShape.maxBits (f : FShape) : Nat :=
  let (k, q) := f.maxFin
  f.packMag k q

/-- The flags of an operation, in the places of the arithmetic status word (Table 4-13). -/
abbrev AFlags := W64
def fOvf : AFlags := 1
def fInv : AFlags := 2
def fIntSat : AFlags := 4

/-- Convert an exact value to a floating-point format (R52 to R54, Table 2-4). -/
def FShape.narrow (f : FShape) (md : RMode) (sat : Bool) (v : FVal) : Nat × AFlags :=
  match v with
  | .nan => if f.noNan then (0, 0) else (f.canonNan, 0)
  | .inf neg =>
    if f.noInf then
      if sat || f.noNan then (f.sign neg + f.maxBits, fOvf) else (f.canonNan, fInv)
    else (f.sign neg + f.eAll * 2 ^ f.fb, 0)
  | .fin neg m e =>
    if m = 0 then (f.sign neg, 0)
    else
      let (k, q) := f.roundMag md m e
      if f.beyond k q then
        if sat || f.noNan then (f.sign neg + f.maxBits, fOvf)
        else if f.noInf then (f.canonNan, fOvf ||| fInv)
        else (f.sign neg + f.eAll * 2 ^ f.fb, fOvf)
      else (f.sign neg + f.packMag k q, 0)

/-- Convert an exact value to a signed integer of w bits (Table 2-4: always saturating; NaN writes 0). -/
def narrowInt (w : Nat) (md : RMode) (v : FVal) : Int × AFlags :=
  let hi : Int := 2 ^ (w - 1) - 1
  let lo : Int := -(2 ^ (w - 1))
  match v with
  | .nan => (0, fInv)
  | .inf neg => (if neg then lo else hi, fOvf)
  | .fin neg m e =>
    let k : Nat := if 0 ≤ e then m * 2 ^ e.toNat else roundShift md m (-e).toNat
    let x : Int := if neg then -(k : Int) else k
    if x < lo then (lo, fOvf) else if hi < x then (hi, fOvf) else (x, 0)

/-! ## FP32 arithmetic (R45, R55, R57, R66): one RNE rounding of the exact result -/

/-- Round an exact value to FP32 by RNE; an overflow gives the infinity of IEEE 754. -/
def f32Of (v : FVal) : W32 := BitVec.ofNat 32 (shF32.narrow .rne false v).1

/-- The value of an FP32 word. -/
def f32Val (w : W32) : FVal := shF32.unpack w.toNat

/-- A signed integer times 2^e as a value; an exact zero takes the sign given. -/
def ofInt (x : Int) (e : Int) (zneg : Bool) : FVal :=
  if x = 0 then .fin zneg 0 0 else .fin (x < 0) x.natAbs e

/-- The signed integer of a finite value at unit 2^b, for b at most its exponent. -/
def toIntAt (b : Int) (neg : Bool) (m : Nat) (e : Int) : Int :=
  let k : Int := m * 2 ^ (e - b).toNat
  if neg then -k else k

/-- Exact sum (R55); an exact zero of unlike signs is +0. -/
def vAdd (x y : FVal) : FVal :=
  match x, y with
  | .nan, _ | _, .nan => .nan
  | .inf a, .inf b => if a = b then .inf a else .nan
  | .inf a, _ => .inf a
  | _, .inf b => .inf b
  | .fin a m e, .fin b n g =>
    let u := min e g
    ofInt (toIntAt u a m e + toIntAt u b n g) u (m = 0 && n = 0 && a && b)

/-- Exact negation. -/
def vNeg : FVal → FVal
  | .nan => .nan
  | .inf a => .inf !a
  | .fin a m e => .fin (!a) m e

/-- Exact product (R55). -/
def vMul (x y : FVal) : FVal :=
  match x, y with
  | .nan, _ | _, .nan => .nan
  | .inf a, .inf b => .inf (a != b)
  | .inf a, .fin b n _ => if n = 0 then .nan else .inf (a != b)
  | .fin a m _, .inf b => if m = 0 then .nan else .inf (a != b)
  | .fin a m e, .fin b n g => .fin (a != b) (m * n) (e + g)

/-- Quotient to 80 further bits, the last bit standing for the rest. -/
def vDiv (x y : FVal) : FVal :=
  match x, y with
  | .nan, _ | _, .nan => .nan
  | .inf _, .inf _ => .nan
  | .inf a, .fin b _ _ => .inf (a != b)
  | .fin a _ _, .inf b => .fin (a != b) 0 0
  | .fin a m e, .fin b n g =>
    if n = 0 then (if m = 0 then .nan else .inf (a != b))
    else
      let num := m * 2 ^ 80
      .fin (a != b) (2 * (num / n) + (if num % n = 0 then 0 else 1)) (e - g - 81)

/-- The integer square root, bit by bit: b is the number of bits still to try, r what stands so far. -/
def isqrtGo (n : Nat) : Nat → Nat → Nat
  | 0, r => r
  | b + 1, r =>
    let t := r + 2 ^ b
    isqrtGo n b (if t * t ≤ n then t else r)

/-- The integer square root of a number. -/
def isqrt (n : Nat) : Nat := isqrtGo n (Nat.log2 n / 2 + 1) 0

/-- Square root to 40 bits and more, the last bit standing for the rest. −0 gives −0; a negative number NaN. -/
def vSqrt (x : FVal) : FVal :=
  match x with
  | .nan => .nan
  | .inf a => if a then .nan else .inf false
  | .fin a m e =>
    if m = 0 then .fin a 0 0
    else if a then .nan
    else
      let (m, e) := if e % 2 = 0 then (m, e) else (2 * m, e - 1)
      let n := m * 2 ^ 80
      let r := isqrt n
      .fin false (2 * r + (if r * r = n then 0 else 1)) (e / 2 - 41)

/-- Reciprocal square root: 1 / √x. ±0 gives ±infinity, as IEEE 754 rSqrt. -/
def vRsqrt (x : FVal) : FVal :=
  match x with
  | .nan => .nan
  | .inf a => if a then .nan else .fin false 0 0
  | .fin a m e =>
    if m = 0 then .inf a
    else if a then .nan
    else
      let (m, e) := if e % 2 = 0 then (m, e) else (2 * m, e - 1)
      let n := 2 ^ 160 / m
      let r := isqrt n
      .fin false (2 * r + (if r * r * m = 2 ^ 160 then 0 else 1)) (-(e / 2) - 81)

/-- The bits of working precision of exp2 and log2. -/
def tPrec : Nat := 192

/-- ln 2 × 2^192, from the sum of 1 / (k × 2^k), k from n down to 1. -/
def ln2Go : Nat → Nat
  | 0 => 0
  | k + 1 => 2 ^ tPrec / ((k + 1) * 2 ^ (k + 1)) + ln2Go k

/-- ln 2 × 2^192, short of it by less than 2^-180. -/
def ln2 : Nat := ln2Go 200

/-- The Taylor sum of exp(y / 2^192) × 2^192: i counts the terms done, t is the latest. -/
def expGo (y : Nat) : Nat → Nat → Nat → Nat → Nat
  | 0, _, _, acc => acc
  | fuel + 1, i, t, acc =>
    let t := ((t * y) >>> tPrec) / i
    expGo y fuel (i + 1) t (acc + t)

/-- 2^x (R66). The exact result of a dyadic that is no integer is irrational, so the last bit stands for the rest. -/
def vExp2 (x : FVal) : FVal :=
  match x with
  | .nan => .nan
  | .inf a => if a then .fin false 0 0 else .inf false
  | .fin neg m e =>
    if m = 0 then .fin false 1 0
    else if (Nat.log2 m : Int) + e ≥ 9 then (if neg then .fin false 1 (-400) else .fin false 1 400)
    else if 0 ≤ e then
      let n : Int := m * 2 ^ e.toNat
      .fin false 1 (if neg then -n else n)
    else
      let d := (-e).toNat
      let whole : Int := (if neg then -((m : Int)) else m) / 2 ^ d
      let frac : Nat := ((if neg then -((m : Int)) else m) % 2 ^ d).toNat
      if frac = 0 then .fin false 1 whole
      else
        let y := (frac * ln2) >>> d
        .fin false (2 * expGo y 60 1 (2 ^ tPrec) (2 ^ tPrec) + 1) (whole - tPrec - 1)

/-- The sum of z^(2k+1)/(2k+1) × 2^192 for the logarithm: p is the current power of z, z2 its square. -/
def atanhGo (z2 : Nat) : Nat → Nat → Nat → Nat → Nat
  | 0, _, _, acc => acc
  | fuel + 1, i, p, acc => atanhGo z2 fuel (i + 2) ((p * z2) >>> tPrec) (acc + p / i)

/-- log2 x (R66): 0 gives −infinity, a negative number NaN. -/
def vLog2 (x : FVal) : FVal :=
  match x with
  | .nan => .nan
  | .inf a => if a then .nan else .inf false
  | .fin neg m e =>
    if m = 0 then .inf true
    else if neg then .nan
    else
      let l := Nat.log2 m
      let ex : Int := (l : Int) + e
      if m = 2 ^ l then ofInt ex 0 false
      else
        let z := (m - 2 ^ l) * 2 ^ tPrec / (m + 2 ^ l)
        let lnT := 2 * atanhGo ((z * z) >>> tPrec) 80 1 z 0
        let lg := lnT * 2 ^ tPrec / ln2
        ofInt (2 * (ex * 2 ^ tPrec + lg) + 1) (-(tPrec : Int) - 1) false

/-- A total order key of FP32 values that are not NaN: −infinity lowest, −0 just below +0 (R66). -/
def f32Key (w : W32) : Int :=
  let m : Int := (w &&& 0x7fffffff).toNat
  if w.getLsbD 31 then -m - 1 else m

/-- Whether an FP32 word is a NaN. -/
def f32IsNan (w : W32) : Bool := (w &&& 0x7fffffff).toNat > 0x7f800000

/-- Whether an FP32 word is an infinity. -/
def f32IsInf (w : W32) : Bool := (w &&& 0x7fffffff) = 0x7f800000

/-- The canonical NaN of FP32. -/
def f32Nan : W32 := 0x7fc00000

/-- An FP32 word that an operation writes as a result: a NaN is the canonical one (R45). -/
def f32Canon (w : W32) : W32 := if f32IsNan w then f32Nan else w

def f32Add (a b : W32) : W32 := f32Of (vAdd (f32Val a) (f32Val b))
def f32Sub (a b : W32) : W32 := f32Of (vAdd (f32Val a) (vNeg (f32Val b)))
def f32Mul (a b : W32) : W32 := f32Of (vMul (f32Val a) (f32Val b))
/-- Fused multiply-add: the exact product plus c, one rounding. -/
def f32Fma (a b c : W32) : W32 := f32Of (vAdd (vMul (f32Val a) (f32Val b)) (f32Val c))
def f32Div (a b : W32) : W32 := f32Of (vDiv (f32Val a) (f32Val b))
def f32Sqrt (a : W32) : W32 := f32Of (vSqrt (f32Val a))
def f32Rsqrt (a : W32) : W32 := f32Of (vRsqrt (f32Val a))
def f32Exp2 (a : W32) : W32 := f32Of (vExp2 (f32Val a))
def f32Log2 (a : W32) : W32 := f32Of (vLog2 (f32Val a))
/-- Minimum: NaN when either is NaN; −0 below +0 (R66). -/
def f32Min (a b : W32) : W32 :=
  if f32IsNan a || f32IsNan b then f32Nan else if f32Key a ≤ f32Key b then a else b
/-- Maximum: NaN when either is NaN; −0 below +0 (R66). -/
def f32Max (a b : W32) : W32 :=
  if f32IsNan a || f32IsNan b then f32Nan else if f32Key a ≤ f32Key b then b else a
/-- IEEE 754 less-than: false with a NaN; the zeros are equal. -/
def f32Lt (a b : W32) : Bool :=
  match f32Val a, f32Val b with
  | .nan, _ | _, .nan => false
  | .fin _ m _, .fin _ n _ => if m = 0 && n = 0 then false else f32Key a < f32Key b
  | _, _ => f32Key a < f32Key b
/-- IEEE 754 equality. -/
def f32Eq (a b : W32) : Bool :=
  match f32Val a, f32Val b with
  | .nan, _ | _, .nan => false
  | .fin _ m _, .fin _ n _ => if m = 0 && n = 0 then true else a = b
  | _, _ => a = b

/-! ## Random bits (R58, R59) -/

/-- One round of Philox-4x32. -/
def philoxRound (c : W32 × W32 × W32 × W32) (k : W32 × W32) : W32 × W32 × W32 × W32 :=
  let (c0, c1, c2, c3) := c
  let p0 : W64 := (c0.setWidth 64) * 0xD2511F53
  let p1 : W64 := (c2.setWidth 64) * 0xCD9E8D57
  ((p1 >>> 32).setWidth 32 ^^^ c1 ^^^ k.1, p1.setWidth 32, (p0 >>> 32).setWidth 32 ^^^ c3 ^^^ k.2, p0.setWidth 32)

/-- n rounds, the key advanced between rounds. -/
def philoxGo : Nat → W32 × W32 × W32 × W32 → W32 × W32 → W32 × W32 × W32 × W32
  | 0, c, _ => c
  | n + 1, c, k => philoxGo n (philoxRound c k) (k.1 + 0x9E3779B9, k.2 + 0xBB67AE85)

/-- Philox-4x32-10 under the loom seed (R59). -/
def philox (seed : W64) (c0 c1 c2 c3 : W32) : W32 × W32 × W32 × W32 :=
  philoxGo 10 (c0, c1, c2, c3) (seed.setWidth 32, (seed >>> 32).setWidth 32)

/-- The 16 random bits of an element (R58): stream, tensor identifier and 64-bit logical index. -/
def srBits (seed : W64) (stream tensor : W32) (index : W64) : Nat :=
  ((philox seed stream tensor (index.setWidth 32) ((index >>> 32).setWidth 32)).1 &&& 0xffff).toNat

end Sys2Proof.Machine
end

