-- ==== Sys2Proof/Machine/Formats.lean ====
section
/-! DEFINITION. The format codes of Table 2-1: elements, conversions (R52 to R58) and MX blocks (R46 to R49). -/
namespace Sys2Proof.Machine

/-- The element shape of a floating-point format code; the MX codes name their element (Table 2-1). -/
def fmtShape (code : Nat) : Option FShape :=
  match code with
  | 0 => some shF32 | 1 => some shBf16 | 2 => some shF16 | 3 => some shE4m3 | 4 => some shE5m2
  | 5 => some shE4m3 | 6 => some shE5m2 | 7 => some shE2m1 | _ => none

/-- Whether a code is an MX format. -/
def isMx (code : Nat) : Bool := code == 5 || code == 6 || code == 7

/-- Bits of an element (Table 2-1), its scale not counted. -/
def fmtBits (code : Nat) : Nat :=
  match code with
  | 0 => 32 | 1 => 16 | 2 => 16 | 7 => 4 | 9 => 32 | _ => 8

/-- Bytes of an element of a format of whole bytes. -/
def fmtBytes (code : Nat) : Nat := fmtBits code / 8

/-- The value of an element; INT8 and INT32 are two's complement. -/
def elemVal (code bits : Nat) : FVal :=
  match fmtShape code with
  | some f => f.unpack (bits % 2 ^ f.width)
  | none =>
    let w := fmtBits code
    let b := bits % 2 ^ w
    ofInt (if b < 2 ^ (w - 1) then (b : Int) else (b : Int) - 2 ^ w) 0 false

/-- An integer as w bits of two's complement. -/
def intBits (w : Nat) (x : Int) : Nat := (x % 2 ^ w).toNat

/-- Convert a value to a format that is not MX (Table 2-4): its bits and the flags of R54. -/
def encode (code : Nat) (md : RMode) (sat : Bool) (v : FVal) : Nat × AFlags :=
  match fmtShape code with
  | some f => f.narrow md sat v
  | none =>
    let w := fmtBits code
    let (x, fl) := narrowInt w md v
    (intBits w x, fl)

/-- The mode a rounding field names (Table 2-5); r is the element's 16 random bits under SR. -/
def modeOf (rnd : Nat) (r : Nat) : RMode := if rnd = 1 then .sr r else if rnd = 2 then .rtz else .rne

/-- A rounding field is allowed for a conversion from src to dst (R56, R57, Table 2-5). -/
def rndOk (rnd src dst : Nat) : Bool :=
  match rnd with
  | 0 => true
  | 1 => dst == 1 || dst == 2 || dst == 3 || dst == 4 || isMx dst
  | 2 => (dst == 8 || dst == 9) && !(src == 8 || src == 9)
  | _ => false

/-- emax of an MX element format (R49). -/
def mxEmax (code : Nat) : Int :=
  match code with
  | 5 => 8 | 6 => 15 | _ => 2

/-- floor(log2 |v|) of a finite value that is not 0. -/
def log2Floor (m : Nat) (e : Int) : Int := (Nat.log2 m : Int) + e

/-- The larger of two magnitudes, as (m, e). -/
def magMax (a b : Nat × Int) : Nat × Int :=
  let u := min a.2 b.2
  if a.1 * 2 ^ (a.2 - u).toNat < b.1 * 2 ^ (b.2 - u).toNat then b else a

/-- The shared scale of a block (R49): 255 when a value is NaN or infinite, 127 for zeros. -/
def mxScale (code : Nat) (vs : List FVal) : Nat :=
  if vs.any (fun v => match v with | .fin _ _ _ => false | _ => true) then 255
  else
    let (m, e) := vs.foldl (fun a v => match v with | .fin _ m e => magMax a (m, e) | _ => a) (0, 0)
    if m = 0 then 127
    else
      let x := log2Floor m e - mxEmax code
      (max (-127) (min 127 x) + 127).toNat

/-- Divide a value by 2^x. -/
def scaleDown (v : FVal) (x : Int) : FVal :=
  match v with
  | .fin a m e => .fin a m (e - x)
  | v => v

/-- Convert a block to an MX format (R49): its scale, its elements and the flags. md gives the rounding of element i.
A block that becomes NaN from an infinity and no NaN sets INV (R54). -/
def mxBlock (code : Nat) (md : Nat → RMode) (vs : List FVal) : Nat × List Nat × AFlags :=
  let sc := mxScale code vs
  if sc = 255 then
    (255, vs.map fun _ => 0, if vs.any (fun v => v == .nan) then 0 else fInv)
  else
    let r := (vs.zip (List.range vs.length)).map fun (v, i) => encode code (md i) true (scaleDown v ((sc : Int) - 127))
    (sc, r.map (·.1), r.foldl (fun a x => a ||| x.2) 0)

/-- The value of an MX element under its scale (R48): NaN under 0xFF. -/
def mxVal (code bits scale : Nat) : FVal :=
  if scale = 255 then .nan else scaleDown (elemVal code bits) (127 - (scale : Int))

/-! ## Integer accumulation (R65) -/

/-- A sum clamped to 32 bits, and whether it clamped. -/
def satI32 (x : Int) : Int × Bool :=
  if x < -2147483648 then (-2147483648, true) else if 2147483647 < x then (2147483647, true) else (x, false)

/-- INT32 addition with saturation. -/
def i32Add (a b : W32) : W32 × Bool :=
  let (x, c) := satI32 (a.toInt + b.toInt)
  (BitVec.ofInt 32 x, c)

end Sys2Proof.Machine
end

