-- ==== Sys2Proof/Machine/Frames.lean ====
section
/-! DEFINITION. The frame of a collective (Table 8-4, R279) and the way it leaves the module: the lanes and flits of a link
(R256, R260, R261), the direction toward a member, the credits a sender holds (R282), and the copy it keeps (R281). -/
namespace Sys2Proof.Machine

/-! ## Frames -/

/-- The first 28 bytes of a frame's header. -/
def frameHead (f : Frame) : List Byte :=
  toLe 4 f.jobId.toNat ++ toLe 4 (f.comm.toNat + f.seq.toNat * 2 ^ 16)
    ++ toLe 4 (f.kind.toNat + f.stage.toNat * 2 ^ 4 + f.len.toNat * 2 ^ 19) ++ toLe 4 f.round.toNat
    ++ toLe 4 (f.chunk.toNat + f.sender.toNat * 2 ^ 16) ++ toLe 4 f.orderTag.toNat ++ toLe 4 f.side.toNat

/-- The CRC of a frame (R279). -/
def frameCrc (f : Frame) : W32 := crc32c (frameHead f ++ f.payload)

/-- A frame with a fresh CRC. -/
def sealFrame (f : Frame) : Frame := { f with crc := frameCrc f }

/-- The bytes of a frame. -/
def frameBytes (f : Frame) : List Byte := frameHead f ++ toLe 4 f.crc.toNat ++ f.payload

/-- The frame whose header and payload stand in bytes. -/
def frameOf (bs : List Byte) : Frame :=
  let w := fieldAt bs 8 4
  { jobId := BitVec.ofNat 32 (fieldAt bs 0 4)
    comm := BitVec.ofNat 16 (fieldAt bs 4 2)
    seq := BitVec.ofNat 16 (fieldAt bs 6 2)
    kind := BitVec.ofNat 4 (bits w 3 0)
    stage := BitVec.ofNat 3 (bits w 6 4)
    len := BitVec.ofNat 13 (bits w 31 19)
    round := BitVec.ofNat 32 (fieldAt bs 12 4)
    chunk := BitVec.ofNat 16 (fieldAt bs 16 2)
    sender := BitVec.ofNat 16 (fieldAt bs 18 2)
    orderTag := BitVec.ofNat 32 (fieldAt bs 20 4)
    side := BitVec.ofNat 32 (fieldAt bs 24 4)
    crc := BitVec.ofNat 32 (fieldAt bs 28 4)
    payload := slice bs 32 (bits w 31 19) }

/-- The kinds of frame by number (Table 8-4). -/
def fkPartial : Nat := 1
def fkFinal : Nat := 2
def fkContrib : Nat := 3
def fkMove : Nat := 4
def fkCounts : Nat := 5
def fkScalar : Nat := 6
def fkReplayReq : Nat := 7
def fkAck : Nat := 8
def fkAbort : Nat := 9

/-- A frame a member sends, with a fresh CRC. -/
def mkFrame (x : Loom) (o : CollOp) (kind axis round chunk sender : Nat) (side : W32) (payload : List Byte) : Frame :=
  sealFrame {
    jobId := x.jobId
    comm := BitVec.ofNat 16 o.comm
    seq := BitVec.ofNat 16 o.num
    kind := BitVec.ofNat 4 kind
    stage := BitVec.ofNat 3 axis
    len := BitVec.ofNat 13 payload.length
    round := BitVec.ofNat 32 round
    chunk := BitVec.ofNat 16 chunk
    sender := BitVec.ofNat 16 sender
    orderTag := o.orderTag
    side
    crc := 0
    payload }

/-! ## Modes (R271, R272, Table 8-3) -/

/-- The mode of an axis under an order tag: rank axes are rings. -/
def modeOfAxis (tag : W32) (axis : Nat) : Nat := if axis < 3 then 0 else bits tag.toNat (3 * (axis - 3) + 2) (3 * (axis - 3))

/-- Position of a coordinate and back, on an axis of n in mode v. -/
def posOf (v n c : Nat) : Nat := if v = 0 then c else (c + n - (v - 1)) % n
def coordAt (v n k : Nat) : Nat := if v = 0 then k else (k + (v - 1)) % n

/-! ## Lanes and links (R25, R256, R262) -/

/-- The state of a link direction. -/
def getLink (s : State) (d : Nat) : LinkDir := tget {} s.links d
def setLink (s : State) (d : Nat) (x : LinkDir) : State := { s with links := tput s.links d x }

/-- The status register of an I/O die's lanes; its count of uncorrectable codewords is 8 further. -/
def laneReg (io : Nat) : Nat := 0x00708200 + io * 0x10
/-- A lane works. -/
def laneUp (s : State) (io lane : Nat) : Bool := (getReg s (laneReg io)).getLsbD lane
/-- The working lanes of a direction, lanes 4k to 4k + 3 of every I/O die, each as I/O die × 24 + lane. -/
def workingLanes (s : State) (d : Nat) : List Nat :=
  (List.range (Config.ioDies s.variant)).flatMap fun io =>
    ((List.range 4).filter fun i => laneUp s io (4 * d + i)).map fun i => io * 24 + 4 * d + i
def lanesUp (s : State) (d : Nat) : Nat := (workingLanes s d).length
/-- A direction has a link: its axis has an extent above 1. -/
def linkPresent (s : State) (d : Nat) : Bool :=
  let e := extentOf s
  1 < [e.1, e.2.1, e.2.2].getD (d / 2) 1
/-- A link carries traffic. -/
def linkWorks (s : State) (d : Nat) : Bool := (getLink s d).st = 1 || (getLink s d).st = 2

/-! ## Flits (R260, R261) -/

/-- The bytes a flit's HCRC covers (Table 8-1). -/
def flitCrcBytes (f : WeftFlit) : List Byte :=
  toLe 4 (f.seq.toNat + f.vc.toNat * 2 ^ 16) ++ toLe 4 (f.ack.toNat + f.fstart.toNat * 2 ^ 16) ++ f.payload

/-- A number is after another and no more than half the circle ahead. -/
def seqAfter (a b : BitVec 16) : Bool := a ≠ b && (a - b).toNat < 32768

/-- A flit of a direction goes out on the next working lane of the round, and is kept until it is acknowledged; a link that
does not work only keeps it. -/
def putFlit (s : State) (d : Nat) (f : WeftFlit) : State :=
  let x := getLink s d
  let ls := workingLanes s d
  let s := setLink s d { x with kept := x.kept ++ [(f, ls.getD x.lane 0)], lane := (x.lane + 1) % max 1 ls.length }
  if linkWorks s d then send s (.flit d f) else s

/-- Bytes of a virtual channel go out by a link, 256 to a flit, the first at its start; each flit acknowledges what this end
has received. -/
def linkSend (s : State) (d : Nat) (vc : BitVec 2) (bs : List Byte) : State :=
  (List.range ((bs.length + 255) / 256)).foldl (fun s i =>
    let x := getLink s d
    let f : WeftFlit := { seq := x.next, vc, ack := x.expect - 1, fstart := if i = 0 then 0 else 0x1F, hcrc := 0
                          payload := slice bs (256 * i) 256 }
    putFlit (setLink s d { x with next := x.next + 1 }) d { f with hcrc := crc16 (flitCrcBytes f) }) s

/-- Kept flits go out again, on the lanes that work, in their order. -/
def resendFlits (s : State) (d : Nat) (p : WeftFlit × Nat → Bool) : State :=
  let x := getLink s d
  let ls := workingLanes s d
  let r := x.kept.foldl (fun (acc : List (WeftFlit × Nat) × Nat) q =>
    if p q then (acc.1 ++ [(q.1, ls.getD acc.2 0)], (acc.2 + 1) % max 1 ls.length) else (acc.1 ++ [q], acc.2)) ([], x.lane)
  let s := setLink s d { x with kept := r.1, lane := r.2 }
  if linkWorks s d then (x.kept.filter p).foldl (fun s q => send s (.flit d q.1)) s else s

/-- The partner has received every flit up to a number in order: the copies are released. -/
def LinkDir.ack (x : LinkDir) (n : BitVec 16) : LinkDir :=
  if seqAfter n x.acked then
    { x with acked := n, failing := none, attempts := 0, kept := x.kept.filter fun q => seqAfter q.1.seq n }
  else x

/-- The whole frames at the front of a channel's bytes, and what is left: frames stand on 16-byte boundaries, and a unit whose
KIND is reserved holds none. -/
def takeFrames : Nat → List Byte → List Frame × List Byte
  | 0, bs => ([], bs)
  | fuel + 1, bs =>
    if bs.length < 16 then ([], bs)
    else
      let w := fieldAt bs 8 4
      let n := (32 + bits w 31 19 + 15) / 16 * 16
      if bits w 3 0 = 0 || fkAbort < bits w 3 0 then takeFrames fuel (bs.drop 16)
      else if bs.length < n then ([], bs)
      else
        let r := takeFrames fuel (bs.drop n)
        (frameOf bs :: r.1, r.2)

/-! ## The way to a member -/

/-- The box index of this module: x first, then y, then z. -/
def boxIndexOf (s : State) (x : Loom) : Nat :=
  let c := boxCoord s x
  let e := boxExtent x
  c.1 + c.2.1 * e.1 + c.2.2 * e.1 * e.2.1

/-- The coordinates of a module of the box. -/
def boxPlace (x : Loom) (b : Nat) : List Nat :=
  let e := boxExtent x
  [b % e.1, b / e.1 % e.2.1, b / (e.1 * e.2.1)]

/-- The direction of a link on a module axis from coordinate c to t: up a line or down it; the shorter way of a ring, and + when
they are equal; never round an axis on which the box is shorter than the torus. -/
def axisDir (s : State) (x : Loom) (axis v c t : Nat) : Nat :=
  let e := boxExtent x
  let te := extentOf s
  let n := [e.1, e.2.1, e.2.2].getD axis 1
  let up := if v ≠ 0 then posOf v n c < posOf v n t
    else if n < [te.1, te.2.1, te.2.2].getD axis 1 then decide (c < t)
    else decide ((t + n - c) % n ≤ n / 2)
  2 * axis + if up then 0 else 1

/-- The direction of a link toward another module of the box: on the first axis on which the two differ. -/
def boxDir (s : State) (x : Loom) (b : Nat) : Option Nat :=
  let cs := boxPlace x (boxIndexOf s x)
  let ts := boxPlace x b
  ((List.range 3).find? fun k => ts.getD k 0 ≠ cs.getD k 0).map fun k => axisDir s x k 0 (cs.getD k 0) (ts.getD k 0)

/-- A frame names its receiver by member index; every other by its coordinate on the frame's stage. -/
def byIndex (o : CollOp) (kind : Nat) : Bool :=
  kind = fkCounts || kind = fkAbort || (kind = fkMove && o.kind ≠ .shift)

/-- Members of one module in a collective. -/
def CollOp.perBox (o : CollOp) : Nat := o.a0 * o.a1 * o.a2

/-- A member's coordinate on a stage, or its index where frames name it so. -/
def ownPlace (s : State) (x : Loom) (o : CollOp) (f : Frame) : Nat :=
  if byIndex o f.kind.toNat then o.index
  else
    let r := o.rank
    ([r % o.a0, r / o.a0 % o.a1, r / (o.a0 * o.a1) % o.a2] ++ boxPlace x (boxIndexOf s x)).getD f.stage.toNat 0

/-- A frame about to be sent to a member: the box module it goes to, and its link when that is another module. -/
def outFrame (s : State) (x : Loom) (o : CollOp) (toward : Nat) (f : Frame) : SentFrame :=
  let me := boxIndexOf s x
  let q : SentFrame := { fr := f, toward, box := me, dir := none, waiting := true, attempts := 0 }
  if byIndex o f.kind.toNat then { q with box := toward / o.perBox, dir := boxDir s x (toward / o.perBox) }
  else if f.stage.toNat < 3 then q
  else
    let k := f.stage.toNat - 3
    let cs := boxPlace x me
    let e := boxExtent x
    let ts := cs.set k toward
    { q with
      box := ts.getD 0 0 + e.1 * (ts.getD 1 0 + e.2.1 * ts.getD 2 0)
      dir := if toward = cs.getD k 0 then none else some (axisDir s x k (modeOfAxis f.orderTag (k + 3)) (cs.getD k 0) toward) }

/-! ## Sending (R275, R281, R282) -/

/-- Frames of a direction go by its link, or by the detour of a link that is DOWN. -/
def wayOf (s : State) (d : Nat) : Nat := if (getLink s d).st = 3 then (getLink s d).detour.getD d else d

/-- A frame leaves its sender: within the module, or by a link. -/
def sendFrame (s : State) (dir : Option Nat) (toward : Nat) (f : Frame) : State :=
  let s := send s (.frame dir toward f)
  match dir with
  | none => s
  | some d => linkSend s (wayOf s d) 0 (frameBytes f)

/-- Credits a loom has taken of the pool of a box module: its frames toward that module that no ACK covers. ABORT takes none. -/
def creditsOut (s : State) (l b : Nat) : Nat :=
  ((loomTiles (getLoom s l)).map fun t =>
    ((tileOf s l t).sentFrames.filter fun q => q.box = b && !q.waiting && q.fr.kind.toNat ≠ fkAbort).length).sum

/-- The waiting frames of a tile go out in their order, each when a credit is free (R282). -/
def driveTile (l : Nat) (s : State) (tile : Nat) : State :=
  ((tileOf s l tile).sentFrames.filter (·.waiting)).foldl (fun s q =>
    if creditsOut s l q.box < (getLoom s l).credits then
      sendFrame (modTileOf s l tile fun t => { t with
        sentFrames := t.sentFrames.map fun (p : SentFrame) => if p = q then { p with waiting := false } else p }) q.dir q.toward q.fr
    else s) s
def driveFrames (s : State) (l : Nat) : State := (loomTiles (getLoom s l)).foldl (driveTile l) s

end Sys2Proof.Machine
end

