-- ==== Sys2Proof/Machine/Aborts.lean ====
section
/-! DEFINITION. The abort of a collective by one of its members (R283). -/
namespace Sys2Proof.Machine

/-! ## Aborts (R283) -/

/-- End an operation in flight with a status. -/
def endColl (st : Byte) (o : CollOp) : CollOp := if o.status.isSome then o else { o with status := some st }

/-- An ABORT frame of a member; the payload is the status. -/
def abortFrameOf (x : Loom) (o : CollOp) (st : Byte) : Frame := mkFrame x o fkAbort 0 0 0 o.index 0 [st]

/-- ABORT goes to every member on the other modules of the box (R283); the sender keeps its copies (R281). -/
def sendAborts (s : State) (l tile : Nat) (o : CollOp) (st : Byte) : State :=
  let x := getLoom s l
  let f := abortFrameOf x o st
  let qs := ((List.range o.members).filter fun m => m / o.perBox ≠ boxIndexOf s x).map fun m =>
    { outFrame s x o m f with waiting := false }
  qs.foldl (fun s q => sendFrame s q.dir q.toward q.fr)
    (modTileOf s l tile fun t => { t with sentFrames := t.sentFrames ++ qs })

/-- A collective is aborted by a member: every member of this module ends with the status or will when it issues it, and
ABORT frames go to the others. -/
def abortColl (s : State) (l tile : Nat) (o : CollOp) (st : Byte) : State :=
  let x := getLoom s l
  let tiles := match x.cmd with
    | some c => c.tiles
    | none => [tile]
  let s := ((List.range tiles.length).zip tiles).foldl (fun s (r, t) =>
    if r / o.perBox ≠ o.g then s
    else
      modTileOf s l t fun u =>
        if u.colls.any fun q => q.comm = o.comm && q.num = o.num then
          { u with colls := u.colls.map fun q => if q.comm = o.comm && q.num = o.num then endColl st q else q }
        else if o.num < tget 0 u.collNum o.comm then u
        else { u with aborted := u.aborted ++ [(o.comm, o.num, st)] }) s
  raiseEvt (sendAborts s l tile o st) .coll 8 (some l)

/-- Every collective in flight of a loom is aborted, wherever the loom's tiles stand: its loom CUT, FAULTED or FENCED, or the
torus split (R277, Table 8-5). -/
def abortColls (s : State) (l : Nat) (st : Byte) : State :=
  (loomTiles (getLoom s l)).foldl (fun s t =>
    ((tileOf s l t).colls.filter fun o => o.status.isNone).foldl (fun s o => abortColl s l t o st) s) s

end Sys2Proof.Machine
end

