-- ==== Sys2Proof/Machine/Access.lean ====
section
/-! DEFINITION. Access to memory by a loom: what an address is checked for (R129, R166, R190, R231), poison (R177, R185,
R186), the rows of embedding tables (R215 to R218), and the writes a publication holds (R358). -/
namespace Sys2Proof.Machine

/-! ## Poison -/

/-- A word of n bytes at an offset of a tile's store lies in a POISONED thrum group (R177). -/
def tsPoison (s : State) (tile off n : Nat) : Bool :=
  s.faults.poisonedGroups.any fun g => g.1 = tile && groupOf off ≤ g.2 && g.2 ≤ groupOf (off + n - 1)

/-- n bytes at an address of the stacks meet a poisoned 64 B unit (R185). -/
def stkPoison (s : State) (a n : Nat) : Bool :=
  s.faults.poisoned.any fun u => a / 64 ≤ u && u ≤ (a + n - 1) / 64

/-- A read of n bytes meets a POISONED group or a poisoned word. -/
def poisonHit (s : State) (a n : Nat) : Bool :=
  n != 0 && match place s.variant a with
    | .stack x => stkPoison s x n
    | .tile t o => tsPoison s t o n
    | _ => false

/-- A write of n bytes may not be made: a POISONED group, or part of a poisoned unit (R177, R186). -/
def writeBlocked (s : State) (a n : Nat) : Bool :=
  n != 0 && match place s.variant a with
    | .stack x => s.faults.poisoned.any fun u =>
        x / 64 ≤ u && u ≤ (x + n - 1) / 64 && !(decide (x ≤ u * 64) && decide (u * 64 + 64 ≤ x + n))
    | .tile t o => tsPoison s t o n
    | _ => false

/-! ## Reports of memory errors (R185, R194, R195) -/

/-- One detection: its log entry, once, with the highest bit set as TYPE (R195), and an event for each bit. -/
def memError (s : State) (evts : List Nat) (stopped owner : Option Nat) (addr stack tile unit : Nat) (thrum : Bool := false) :
    State :=
  let type := evts.foldl max 0
  let v : Nat := (if thrum then 2 ^ 61 else 0) + type * 2 ^ 48 + stopped.getD 0xFF * 2 ^ 40 + stack * 2 ^ 32 + tile
  let s := capture s 0x00A00028 (BitVec.ofNat 64 v) [(0x00A00018, BitVec.ofNat 64 addr), (0x00A00020, s.tlm.timebase)]
  evts.foldl (fun s b => raiseEvt s .mem b owner unit addr) s

/-- The registers of a stack: status 0, corrected 8, uncorrected 0x10, replays 0x18. -/
def stkReg (n off : Nat) : Nat := 0x00A00100 + n * 0x20 + off

/-- The loom that an error stops: none where it is FREE, STOPPED or FAULTED already (Table 5-13, Table 7-3). -/
def stoppedBy (s : State) (l : Option Nat) : Option Nat :=
  l.filter fun k => let x := getLoom s k; !(x.st = .free || x.st = .stopped || x.st = .faulted)

/-- A stack delivers unit u poisoned to an operation of a loom: it is counted and reported (R185). -/
def reportUncorr (s : State) (consumer : Option Nat) (u : Nat) : State :=
  let n := stackOf s.variant (u * 64)
  memError (countReg s (stkReg n 0x10)) [5] (stoppedBy s consumer) none (u * 64) n 0 n

/-- An operation of a loom reads ranges: each poisoned unit among them is delivered poisoned once more (R185). -/
def meetUnits (s : State) (consumer : Option Nat) (rs : List (Nat × Nat)) : State :=
  (s.faults.poisoned.filter fun u => rs.any fun r => r.2 != 0 && r.1 < tsBase && r.1 / 64 ≤ u && u ≤ (r.1 + r.2 - 1) / 64).foldl
    (fun s u => reportUncorr s consumer u) s

/-- Write bytes: whole access units of the stacks lose their poison and their corrected error (R185, R186). -/
def wrData (s : State) (a : Nat) (bs : List Byte) : State :=
  let s := wrN s a bs
  if a < tsBase && !(s.faults.poisoned.isEmpty && s.faults.corrected.isEmpty) then
    let keep := fun u => !(decide (a ≤ u * 64) && decide (u * 64 + 64 ≤ a + bs.length))
    let part := fun u => !(decide (a / 64 ≤ u) && decide (u ≤ (a + bs.length - 1) / 64))
    { s with faults := { s.faults with
      poisoned := s.faults.poisoned.filter keep
      corrected := s.faults.corrected.filter part } }
  else s

/-! ## Regions (R129, R212, R213) -/

/-- Map record kinds (Table 6-3). -/
def mkRanks : Nat := 1
def mkTs : Nat := 2
def mkStk : Nat := 3
def mkExpert : Nat := 4
def mkHot : Nat := 5
def mkPark : Nat := 6
def mkScratch : Nat := 7

/-- A range of the stacks is covered by regions of the map that a loom's instructions may name: its stack tensors and
its rank table. Parking and save areas are none of them (R190, R231). -/
def covered (recs : List MapRec) : Nat → Nat → Nat → Bool
  | 0, _, n => n == 0
  | fuel + 1, a, n =>
    if n = 0 then true
    else
      match recs.find? fun r => (r.kind = mkStk || r.kind = mkRanks) && r.addr ≤ a && a < r.addr + r.bytes with
      | none => false
      | some r => covered recs fuel (a + min n (r.addr + r.bytes - a)) (n - min n (r.addr + r.bytes - a))

/-- The map of a loom gives it n bytes at an address: tile stores of its own bays, or its stack regions. -/
def mapGives (v : Variant) (x : Loom) (a n : Nat) : Bool :=
  match place v a with
  | .stack b => covered x.map (x.map.length + 1) b n
  | .tile t o => x.bays.contains (bayOf t) && o + n ≤ tsBytes
  | _ => false

/-- The status an access of n bytes aligned to al has by R129 and R166: BAD_COMMAND for no address, a tile-store offset
past 7 MiB or a bad alignment; PERMISSION for a register or a region that is not the loom's. -/
def accStatus (v : Variant) (x : Loom) (a n al : Nat) : Byte :=
  if a % al ≠ 0 then stBad
  else
    match place v a with
    | .hole => stBad
    | .tile _ o => if tsBytes < o + n then stBad else if mapGives v x a n then stOk else stPerm
    | .reg _ => stPerm
    | .stack _ => if Config.memEnd v < a + n then stBad else if mapGives v x a n then stOk else stPerm

/-- The worst status of several, in the order BAD_COMMAND, PERMISSION, UNCORRECTED, OK. -/
def worst (l : List Byte) : Byte :=
  if l.contains stBad then stBad else if l.contains stPerm then stPerm
  else if l.contains stUncorr then stUncorr else stOk

/-! ## Tensors and their bytes (R208, R209) -/

/-- The map record of a tensor or table of a loom. -/
def objRec (x : Loom) (obj : Nat) : Option MapRec :=
  x.map.find? fun r => (r.kind = mkTs || r.kind = mkStk) && r.obj = obj

/-- The global address of byte off of an object: in stacks one range, in tile stores one shard for each rank. -/
def objAddr (x : Loom) (obj off : Nat) : Option Nat :=
  match objRec x obj with
  | none => none
  | some r =>
    if r.kind = mkStk then if off < r.bytes then some (r.addr + off) else none
    else if r.bytes = 0 then none
    else
      match (loomTiles x)[r.first + off / r.bytes]? with
      | none => none
      | some t => if off / r.bytes < r.count then some (tileAddr t (r.addr + off % r.bytes)) else none

/-- The offset in an object of a global address, if it lies there. -/
def objOff (v : Variant) (x : Loom) (obj a : Nat) : Option Nat :=
  match objRec x obj with
  | none => none
  | some r =>
    if r.kind = mkStk then if r.addr ≤ a && a < r.addr + r.bytes then some (a - r.addr) else none
    else
      match place v a with
      | .tile t o =>
        match (loomTiles x).idxOf? t with
        | none => none
        | some k =>
          if r.first ≤ k && k < r.first + r.count && r.addr ≤ o && o < r.addr + r.bytes
          then some ((k - r.first) * r.bytes + (o - r.addr)) else none
      | _ => none

/-- The bytes of an object from an offset. -/
def objBytes (s : State) (x : Loom) (obj off n : Nat) : List Byte :=
  (List.range n).map fun i =>
    match objAddr x obj (off + i) with
    | some a => memGet s.mem a
    | none => 0

/-- Write bytes of an object; a range of the stacks is written as one, so that whole units lose their poison (R186). -/
def objWrite (s : State) (x : Loom) (obj off : Nat) (bs : List Byte) : State :=
  match objRec x obj with
  | none => s
  | some r =>
  if r.kind = mkStk && off + bs.length ≤ r.bytes then wrData s (r.addr + off) bs
  else (bs.zip (List.range bs.length)).foldl (fun s (b, i) =>
    match objAddr x obj (off + i) with
    | some a => wrN s a [b]
    | none => s) s

/-! ## Rows of embedding tables (R215 to R218) -/

/-- A row of a table with a hot region: the region, the row, and the offset in it. -/
structure RowRef where
  hot : HotRegion
  row : Nat
  off : Nat
  deriving DecidableEq, Repr

/-- The row an address lies in, when it lies in the home of a table with a hot region. -/
def rowAt (x : Loom) (a : Nat) : Option RowRef :=
  x.hot.findSome? fun h =>
    match objRec x h.obj with
    | some r =>
      if r.addr ≤ a && a < r.addr + r.bytes && h.rowBytes ≠ 0 then
        some { hot := h, row := (a - r.addr) / h.rowBytes, off := (a - r.addr) % h.rowBytes }
      else none
    | none => none

/-- The reader die slot and the set of a row (R216), as one number: slot × 2^q + set. -/
def rowSet (h : HotRegion) (row : Nat) : Nat :=
  let d := h.dies.length
  (row % d) * 2 ^ h.q + (row / d) % 2 ^ h.q

/-- The slot of a row: the way of its set that names it. -/
def rowSlot (h : HotRegion) (row : Nat) : Option Nat :=
  (List.range 4).findSome? fun w =>
    let k := rowSet h row * 4 + w
    match tfind h.slots k with
    | some e => if e.st ≠ .invalid && e.row = row then some k else none
    | none => none

/-- An INVALID entry. -/
def noSlot : SlotEntry := { st := .invalid, dirty := false, count := 0, row := 0, next := none }

/-- Where a slot lies (R215): set s of a die on its local tile s mod 128, the index of 32 B for each set first. -/
def slotAddr (h : HotRegion) (k : Nat) : Nat :=
  let set := k / 4 % 2 ^ h.q
  let die := h.dies.getD (k / 4 / 2 ^ h.q) 0
  let per := (2 ^ h.q + 127) / 128
  tileAddr (die * 128 + set % 128) (h.off + per * 32 + (set / 128 * 4 + k % 4) * h.rowBytes)

/-- Where a row's byte is read and written now: its slot when VALID, its home when absent; none while a handoff holds
the access (R217). -/
def rowHome (x : Loom) (a : Nat) : Option Nat :=
  match rowAt x a with
  | none => some a
  | some r =>
    match rowSlot r.hot r.row with
    | none => some a
    | some k =>
      match (tget noSlot r.hot.slots k).st with
      | .valid => some (slotAddr r.hot k + r.off)
      | .invalid => some a
      | _ => none

/-- Some byte of a range is held by a handoff. -/
def rowHeld (x : Loom) (a n : Nat) : Bool :=
  !x.hot.isEmpty && (List.range n).any fun i => (rowHome x (a + i)).isNone

/-- Where a byte of a loom is read and written: its row's owner, or its own address. -/
def ownerAt (x : Loom) (a : Nat) : Nat := (rowHome x a).getD a

/-- A read of n bytes as a loom meets poison, each byte of a row at its owner (R177, R185, R217). -/
def poisonVia (s : State) (x : Loom) (a n : Nat) : Bool :=
  if x.hot.isEmpty then poisonHit s a n else (List.range n).any fun i => poisonHit s (ownerAt x (a + i)) 1

/-- A unit of the stacks that a write of n bytes as a loom replaces whole (R186). -/
def wholeUnit (x : Loom) (a n u : Nat) : Bool :=
  decide (a ≤ u * 64) && decide (u * 64 + 64 ≤ a + n) && (x.hot.isEmpty || (List.range 64).all fun i => ownerAt x (u * 64 + i) = u * 64 + i)

/-- A write of n bytes as a loom may not be made: a POISONED group, or part of a poisoned unit, at the owner of a byte. -/
def blockedVia (s : State) (x : Loom) (a n : Nat) : Bool :=
  if x.hot.isEmpty then writeBlocked s a n
  else (List.range n).any fun i =>
    let b := ownerAt x (a + i)
    poisonHit s b 1 && !(decide (b < tsBase) && wholeUnit x a n (b / 64))

/-- The units that a write of n bytes as a loom replaces whole lose their poison and their corrected error (R185, R186). -/
def clearVia (s : State) (x : Loom) (a n : Nat) : State :=
  if a < tsBase && !(s.faults.poisoned.isEmpty && s.faults.corrected.isEmpty) then
    { s with faults := { s.faults with
      poisoned := s.faults.poisoned.filter fun u => !wholeUnit x a n u
      corrected := s.faults.corrected.filter fun u => !(List.range n).any fun i => ownerAt x (a + i) / 64 = u } }
  else s

/-- Replace a hot region of a loom. -/
def setHot (x : Loom) (h : HotRegion) : Loom := { x with hot := x.hot.map fun g => if g.obj = h.obj then h else g }

/-- The tile whose agent serves a row (R216, R217). -/
def agentTile (h : HotRegion) (row : Nat) : Nat :=
  h.dies.getD (row % h.dies.length) 0 * 128 + rowSet h row % 2 ^ h.q % 128

/-- The agent of a row counts an access (R218): every 2^SAMPLE_LOG2-th adds to COUNT of a VALID row or enters the row
in its die's candidate list of 4,096; hits and misses are counted, and a write marks a VALID row DIRTY (R217). -/
def rowTouch (x : Loom) (h : HotRegion) (row : Nat) (write : Bool) : Loom :=
  let n := tget 0 h.seen (agentTile h row) + 1
  let h := { h with seen := tput h.seen (agentTile h row) n }
  let sampled := n % 2 ^ h.sampleLog2 = 0
  match rowSlot h row with
  | some k =>
    let e := tget noSlot h.slots k
    let e := { e with
      count := if sampled && e.st = .valid then min 255 (e.count + 1) else e.count
      dirty := e.dirty || (write && e.st = .valid) }
    { setHot x { h with slots := tput h.slots k e } with hotHits := x.hotHits + 1 }
  | none =>
    let die := row % h.dies.length
    let h :=
      if !sampled then h
      else if h.cands.any fun c => c.1 = die && c.2.1 = row then
        { h with cands := h.cands.map fun c => if c.1 = die && c.2.1 = row then (die, row, c.2.2 + 1) else c }
      else if (h.cands.filter fun c => c.1 = die).length < 4096 then { h with cands := h.cands ++ [(die, row, 1)] }
      else h
    { setHot x h with hotMisses := x.hotMisses + 1 }

/-- An index entry as its 64 bits (Table 6-4). -/
def SlotEntry.word (e : SlotEntry) : Nat :=
  (match e.st with
    | .invalid => 0 | .valid => 1 | .movingIn => 2 | .movingOut => 3) * 2 ^ 62
    + (if e.dirty then 2 ^ 61 else 0) + e.count % 256 * 2 ^ 53 + e.row % 2 ^ 32

/-- The byte of the index of a hot region that an address names: a set's four entries of 8 B (R215). -/
def indexByte (v : Variant) (x : Loom) (a : Nat) : Option Byte :=
  match place v a with
  | .tile t o => x.hot.findSome? fun h =>
    match h.dies.idxOf? (dieOfBay (bayOf t)) with
    | some d =>
      let set := (o - h.off) / 32 * 128 + t % 128
      if h.off ≤ o && set < 2 ^ h.q then
        let e := tget noSlot h.slots ((d * 2 ^ h.q + set) * 4 + (o - h.off) / 8 % 4)
        some (BitVec.ofNat 8 (e.word / 2 ^ (8 * ((o - h.off) % 8))))
      else none
    | none => none
  | _ => none

/-- Read n bytes as a loom: each byte of a row from its owner (R217, R220), those of an index from its entries. -/
def readVia (s : State) (l a n : Nat) : List Byte :=
  let x := getLoom s l
  if x.hot.isEmpty then rdN s a n
  else (List.range n).map fun i => (indexByte s.variant x (a + i)).getD (memGet s.mem (ownerAt x (a + i)))

/-- Write bytes as a loom: each byte of a row to its owner. -/
def writeVia (s : State) (l a : Nat) (bs : List Byte) : State :=
  let x := getLoom s l
  if x.hot.isEmpty then wrData s a bs
  else clearVia ((bs.zip (List.range bs.length)).foldl (fun s (b, i) => wrN s (ownerAt x (a + i)) [b]) s) x a bs.length

/-! ## Writes that a publication holds (R352, R358) -/

/-- The source blocks of an entry: its first block's number is given; 64 KiB each. -/
def entryBlocks (e : SrcEntry) : Nat := (e.len + 65535) / 65536

/-- The source blocks an address lies in: one for each entry that holds it, in list order. -/
def srcBlocksAt (v : Variant) (x : Loom) (a : Nat) : List SrcEntry → Nat → List Nat
  | [], _ => []
  | e :: r, base =>
    (match objOff v x e.obj a with
      | some o => if e.srcOff ≤ o && o < e.srcOff + e.len then [base + (o - e.srcOff) / 65536] else []
      | none => []) ++ srcBlocksAt v x a r (base + entryBlocks e)

/-- The uncopied source block that a write of n bytes would reach, with its weave. -/
def uncopied (s : State) (a n : Nat) : Option (Nat × Nat) :=
  s.weaves.findSome? fun (k, w) =>
    if w.pub = .copying then
      (List.range n).findSome? fun i =>
        (srcBlocksAt s.variant (getLoom s w.learner) (a + i) w.src 0).findSome? fun b =>
          if w.copied.contains b then none else some (k, b)
    else none

/-- The registers of a weave in the shed controller. -/
def shedReg (k off : Nat) : Nat := 0x00400100 + k * 0x40 + off

/-- A write waits for a block: its shuttle takes the block first, COPY_HOLD is raised and the hold is counted once for
each write; the cycles it waits are a free number (R96, R358). -/
def holdCopy (s : State) (who : List Nat) (kb : Nat × Nat) : State :=
  let h : HeldWrite := { weave := kb.1, block := kb.2, who }
  if s.heldWrites.contains h then s
  else
    let (k, s) := drawFree { s with heldWrites := s.heldWrites ++ [h] } 1
    let s := count48 s (shedReg kb.1 0x20) 1
    let s := count48 s (shedReg kb.1 0x28) (Config.freeNat k)
    raiseEvt s .shed 6 (some (tget {} s.weaves kb.1).learner)

/-! ## Descriptors (R118) -/

/-- The bytes of a descriptor at the offset a scalar register names: aligned to 64 B, inside the tile's own store, and
free of poison. -/
def descriptor (s : State) (tile : Nat) (off : W64) (len : Nat) : Except Byte (List Byte) :=
  let o := off.toNat
  if o % 64 ≠ 0 || tsBytes < o + len then .error stBad
  else if tsPoison s tile o len then .error stUncorr
  else .ok (rdN s (tileAddr tile o) len)

/-- A range of the tile's own store lies inside its 7 MiB. -/
def inStore (off len : Nat) : Bool := off + len ≤ tsBytes

end Sys2Proof.Machine
end

