-- ==== Sys2Proof/Machine/ServeOps.lean ====
section
/-! DEFINITION. What the serving engine does wherever it acts: event numbers (R334), output records (R332), experience
records (R369 to R373), the end of a request (R336 to R339), KV pages and the token pool (R326, R330), and the entries of
shared beginnings (R343 to R345). -/
namespace Sys2Proof.Machine

/-! ## Names and numbers -/

/-- Entries of the request table. -/
def reqEntries : Nat := 16384
/-- No token: the pick and the stop values read so. -/
def allOnes32 : Nat := 0xFFFFFFFF
/-- The registers of a loom in the serving engine. -/
def srvReg (l off : Nat) : Nat := 0x00500100 + l * 0x40 + off
def modSrv (s : State) (l : Nat) (f : SrvLoom → SrvLoom) : State := modLoom s l fun x => { x with srv := f x.srv }
/-- Take the next event number (R334). -/
def takeEv (s : State) : W64 × State := (s.evseq, { s with evseq := s.evseq + 1 })
/-- Entries of a loom that are not FREE. -/
def reqsOf (s : State) (l : Nat) : List (Nat × Req) := s.reqs.filter fun kv => kv.2.st ≠ .free && kv.2.loom = l
/-- The weave a loom belongs to. -/
def weaveOf (s : State) (l : Nat) : Option (Nat × Weave) :=
  s.weaves.find? fun kv => kv.2.learner = l || kv.2.gens.any fun g => g.loom = l
/-- The weave a loom generates for. -/
def genWeave (s : State) (l : Nat) : Option (Nat × Weave) := s.weaves.find? fun kv => kv.2.gens.any fun g => g.loom = l
/-- The weave a loom learns for. -/
def learnWeave (s : State) (l : Nat) : Option (Nat × Weave) := s.weaves.find? fun kv => kv.2.learner = l

/-! ## KV pages and the token pool -/

/-- Bytes of a KV page, and pages of the pool. -/
def pageBytes (v : SrvLoom) : Nat := 16 * v.kvPosBytes
def poolPages (x : Loom) : Nat :=
  match objRec x x.srv.kvPool with
  | some r => if x.srv.kvPosBytes = 0 then 0 else r.bytes / pageBytes x.srv
  | none => 0
/-- Pages some request or entry of the loom maps. -/
def usedPages (s : State) (l : Nat) : List Nat :=
  (reqsOf s l).flatMap (fun kv => kv.2.pages) ++ (getLoom s l).srv.pfx.flatMap (·.pages)
/-- Free pages, lowest first. -/
def freePages (s : State) (l : Nat) : List Nat :=
  let used := usedPages s l
  (List.range (poolPages (getLoom s l))).filter fun p => !used.contains p
/-- Pages of n positions. -/
def pagesFor (n : Nat) : Nat := (n + 15) / 16

/-- Ranges of the token pool in use: offset and length. -/
def poolUsed (s : State) (l : Nat) : List (Nat × Nat) :=
  (reqsOf s l).map (fun kv => (kv.2.buf, kv.2.bufLen)) ++
    (getLoom s l).srv.pfx.map fun p => (p.buf, 4 * p.len)
/-- The lowest free place for n bytes in the token pool. -/
def poolPlace (s : State) (l n : Nat) : Option Nat :=
  let x := getLoom s l
  match objRec x x.srv.promptPool with
  | none => none
  | some r =>
    let used := (poolUsed s l).mergeSort fun a b => a.1 ≤ b.1
    let at_ := used.foldl (fun p u => if p + n ≤ u.1 then p else max p (u.1 + u.2)) 0
    let cand := 0 :: used.map fun u => u.1 + u.2
    let ok := fun p => p + n ≤ r.bytes && used.all fun u => p + n ≤ u.1 || u.1 + u.2 ≤ p
    match (cand.mergeSort (· ≤ ·)).find? ok with
    | some p => some p
    | none => if ok at_ then some at_ else none

/-! ## Output records (Table 10-7) -/

/-- Write the next record of a request into its output ring. -/
def putOut (s : State) (e kind token pos pick st logprob : Nat) : State :=
  let r := getReq s e
  let ring := match r.d with
    | some d => d.ring.toNat
    | none => 0
  let n := r.produced
  let phase := (n / 64 + 1) % 2
  let s := hostWr s (ring + n % 64 * 16) (toLe 4 token ++ toLe 4 (pos % 2 ^ 24 + kind * 2 ^ 24) ++ toLe 4 pick
    ++ toLe 4 (st + logprob * 2 ^ 8 + phase * 2 ^ 31))
  modReq s e fun r => { r with produced := r.produced + 1 }

/-- Free slots of a request's output ring (R333). -/
def Req.freeSlots (r : Req) : Nat := 64 - (r.produced + 65536 - r.cons) % 65536

/-! ## Experience records (Tables 11-8 and 11-9) -/

/-- The bobbin a request writes to (R369). -/
def bobbinOf (s : State) (l e : Nat) : Option Nat :=
  match genWeave s l with
  | none => none
  | some (k, _) =>
    let bs := s.bobbins.filter fun kv => kv.2.weave = k && kv.2.loom = l
    (bs[e % bs.length]?).map (·.1)

/-- Free records of a bobbin (R370). -/
def Bobbin.free (b : Bobbin) : Nat := b.nrec - (b.write - b.read)

/-- Write a record into a bobbin, then advance WRITE (R369). -/
def putRecord (s : State) (k : Nat) (bs : List Byte) : State :=
  let b := tget {} s.bobbins k
  let s := wrN s (b.addr + 64 + b.write % b.nrec * 64) bs
  wr { s with bobbins := tput s.bobbins k { b with write := b.write + 1 } } b.addr 8 (b.write + 1)

/-- The words of an experience record that is no PROMPT. -/
def expRecord (kind st : Nat) (r : Req) (e : Nat) (ev : W64) (pick value pos logprob : Nat) (time : W64) (stream : Nat) :
    List Byte :=
  toLe 4 (kind + st * 2 ^ 8 + r.gen.toNat * 2 ^ 16) ++ toLe 4 (e + r.loom * 2 ^ 14) ++ toLe 8 ev.toNat ++ toLe 4 pick
    ++ toLe 4 value ++ toLe 4 pos ++ toLe 4 logprob ++ toLe 8 time.toNat ++ toLe 4 stream ++ List.replicate 20 0

/-- The PROMPT records of a prompt: 14 token ids each (R372). -/
def promptRecords (r : Req) (e : Nat) : List (List Byte) :=
  (List.range ((r.prompt.length + 13) / 14)).map fun i =>
    let ids := (r.prompt.drop (14 * i)).take 14
    toLe 4 (2 + ids.length * 2 ^ 8 + r.gen.toNat * 2 ^ 16) ++ toLe 4 (e + r.loom * 2 ^ 14)
      ++ slice (ids.flatMap fun w => toLe 4 w.toNat) 0 56

/-- The records of a committed token: START and PROMPT before the first, then the TOKEN, STALE past the limit (R372,
R373). -/
def bobbinToken (s : State) (e : Nat) (ev : W64) (pick token pos logprob : Nat) : State :=
  let r := getReq s e
  match bobbinOf s r.loom e, genWeave s r.loom with
  | some k, some (_, w) =>
    let s := if pos = 0 then
        (promptRecords r e).foldl (fun s b => putRecord s k b)
          (putRecord s k (expRecord 1 0 r e ev pick r.prompt.length 0 0 s.tlm.timebase
            ((r.d.map fun d => d.stream.toNat).getD 0)))
      else s
    let stale := w.staleMax ≠ 0 && pick + w.staleMax < w.pick
    let s := putRecord s k
      (expRecord 3 (if stale then stStale.toNat else 0) r e ev pick token pos logprob s.tlm.timebase 0)
    if stale then
      raiseEvt (modLoomBobbinStale s k) .shed 9 (some r.loom)
    else s
  | _, _ => s
where
  /-- Count a stale record of a bobbin. -/
  modLoomBobbinStale (s : State) (k : Nat) : State :=
    let b := tget {} s.bobbins k
    { s with bobbins := tput s.bobbins k { b with stale := satAdd 0xFFFFFFFF b.stale 1 } }

/-! ## Beam pins (R351, R363) -/

/-- Change the pin count of the beam that holds a pick. -/
def pinPick (s : State) (l pick : Nat) (up : Bool) : State :=
  modLoom s l fun x =>
    let f := fun b : Beam => if b.st = .full && b.pick = pick then
        { b with pins := if up then b.pins + 1 else b.pins - 1 } else b
    { x with shed := { x.shed with beam0 := f x.shed.beam0, beam1 := f x.shed.beam1 } }

/-! ## The end of a request -/

/-- End a request: the END event, its record, and in a generator loom the experience END (R336 to R339, R372). -/
def endReq (s : State) (e : Nat) (st : Byte) : State :=
  let r := getReq s e
  if r.st = .free || r.st = .ended then s
  else
    let (ev, s) := takeEv s
    let pick := if r.tokens.isEmpty then allOnes32 else r.lastPick
    let s := putOut s e 2 r.tokens.length 0 pick st.toNat 0
    let s := match bobbinOf s r.loom e with
      | some k => if r.tokens.isEmpty then s
          else putRecord s k (expRecord 4 st.toNat r e ev pick r.tokens.length 0 0 s.tlm.timebase 0)
      | none => s
    let s := match r.boundPick with
      | some p => pinPick s r.loom p false
      | none => s
    modReq s e fun q => { q with st := .ended, endStatus := st, boundPick := none }

/-- Release an ended request whose END record the consumer has passed (Table 10-4). -/
def releaseReq (s : State) (e : Nat) : State :=
  let r := getReq s e
  if r.st = .ended && (r.produced + 65536 - r.cons) % 65536 = 0 then
    setReq s e { gen := r.gen, loom := r.loom, cons := r.cons, st := .free }
  else s

/-- Free an entry without an END record (R328). -/
def dropReq (s : State) (e : Nat) : State :=
  let r := getReq s e
  setReq s e { gen := r.gen, st := .free }

/-- Drafts of a row that are discarded: all but those among its committed tokens (R342). -/
def RowCommit.rejected (c : RowCommit) : Nat := if c.row.kind = 2 then c.row.spec - min c.done (c.nout - 1) else 0

/-- Count discarded drafts of a loom. -/
def rejectDrafts (s : State) (l n : Nat) : State := count48 s (srvReg l 0x28) n

/-- Drafts a step discards where it stands: those of its rows, or of the rows it has not committed yet (R342). -/
def FormedStep.rejected (f : FormedStep) : Nat :=
  if f.committing then (f.commits.map (·.rejected)).sum
  else (f.rows.map fun w => ({ row := w, toks := [], nout := 0 } : RowCommit).rejected).sum

/-- The step a loom has formed is over: its beam is unpinned, its commands are gone from the ring, and the drafts it has not
committed are discarded (R339, R342, R351). -/
def dropStep (s : State) (l : Nat) : State :=
  let x := getLoom s l
  match x.srv.formed with
  | none => s
  | some f =>
    let s := rejectDrafts s l f.rejected
    let s := match f.beam with
      | some b => modLoom s l fun y =>
          let g := fun q : Beam => { q with pins := q.pins - 1 }
          { y with shed := if b then { y.shed with beam1 := g y.shed.beam1 } else { y.shed with beam0 := g y.shed.beam0 } }
      | none => s
    modSrv (modLoom s l fun y => { y with engineRing := [] }) l fun v => { v with formed := none }

/-- A serving loom stops: the step in the ring is discarded, and every request ends with a status (R339). -/
def endAllReqs (s : State) (l : Nat) (st : Byte) : State :=
  let s := dropStep s l
  (reqsOf s l).foldl (fun s kv => endReq s kv.1 st) s

/-! ## Entries of shared beginnings (R343 to R345) -/

/-- Evict the entry with the lowest last use, the lower handle on ties. -/
def evictOne (s : State) (l : Nat) : State :=
  let v := (getLoom s l).srv
  match v.pfx with
  | [] => s
  | p :: r =>
    let q := r.foldl (fun a b => if b.lastUse < a.lastUse || (b.lastUse = a.lastUse && b.handle.toNat < a.handle.toNat)
      then b else a) p
    raiseEvt (modSrv s l fun v => { v with pfx := v.pfx.filter fun t => t.handle ≠ q.handle }) .srv 5 (some l)

/-- Evict entries until at most n are left. -/
def evictDown (s : State) (l n : Nat) : State :=
  (List.range ((getLoom s l).srv.pfx.length - n)).foldl (fun s _ => evictOne s l) s

/-- Evict every entry a test names. -/
def evictIf (s : State) (l : Nat) (f : PfxEntry → Bool) : State :=
  let n := ((getLoom s l).srv.pfx.filter f).length
  let s := modSrv s l fun v => { v with pfx := v.pfx.filter fun p => !f p }
  (List.range n).foldl (fun s _ => raiseEvt s .srv 5 (some l)) s

/-- Evict entries until n pages are free or none is left. -/
def evictFor (s : State) (l n : Nat) : Nat → State
  | 0 => s
  | fuel + 1 =>
    if n ≤ (freePages s l).length || (getLoom s l).srv.pfx.isEmpty then s
    else evictFor (evictOne s l) l n fuel

end Sys2Proof.Machine
end

