-- ==== Sys2Proof/Machine/ShedOps.lean ====
section
/-! DEFINITION. What the shed controller does wherever a weave is touched: beams and their headers (R350, R351), the
publication states (R355, R356, R361), abandoned copies (R360), flips and the pick of a step (R362, R363), and the end
of a weave (R349). With them, how a checkpoint and a restore end (R438, R442). -/
namespace Sys2Proof.Machine

def modWeave (s : State) (k : Nat) (f : Weave → Weave) : State := { s with weaves := tmod {} s.weaves k f }
def getWeave (s : State) (k : Nat) : Weave := tget {} s.weaves k
def modGen (s : State) (l : Nat) (f : GenLoom → GenLoom) : State := modLoom s l fun x => { x with shed := f x.shed }

/-! ## Beams -/

def GenLoom.frontBeam (g : GenLoom) : Beam := if g.front then g.beam1 else g.beam0
def GenLoom.backBeam (g : GenLoom) : Beam := if g.front then g.beam0 else g.beam1
def GenLoom.modBack (g : GenLoom) (f : Beam → Beam) : GenLoom :=
  if g.front then { g with beam0 := f g.beam0 } else { g with beam1 := f g.beam1 }
def GenLoom.modFront (g : GenLoom) (f : Beam → Beam) : GenLoom :=
  if g.front then { g with beam1 := f g.beam1 } else { g with beam0 := f g.beam0 }

/-- Write a beam header with VALID = 1 (Table 11-3). -/
def putHeader (s : State) (l obj pick : Nat) (step : W64) : State :=
  objWrite s (getLoom s l) obj 0
    (toLe 4 pick ++ toLe 4 1 ++ toLe 8 s.tlm.timebase.toNat ++ toLe 8 step.toNat ++ List.replicate 40 0)

/-- Clear VALID of a beam header (R351). -/
def clearValid (s : State) (l obj : Nat) : State := objWrite s (getLoom s l) obj 4 (toLe 4 0)

/-- Write CUR_PICK of every bobbin of a weave (R373). -/
def putCurPick (s : State) (k pick : Nat) : State :=
  s.bobbins.foldl (fun s kv => if kv.2.weave = k then wr s (kv.2.addr + 0x10) 4 pick else s) s

/-! ## Publication in SPLIT (Table 11-5) -/

/-- Some back beam of the weave's generators is pinned. -/
def backPinned (s : State) (w : Weave) : Bool := w.gens.any fun g => (getLoom s g.loom).shed.backBeam.pins != 0

/-- A generator takes no pick in these states (R356, point 3). -/
def LoomState.takesPick : LoomState → Bool
  | .preempting | .saving | .saved | .restoring | .fenced | .faulted => false
  | _ => true

/-- Start pick latest + 1 (R356). -/
def startPick (s : State) (k : Nat) : State :=
  let w := getWeave s k
  let p := w.pick + 1
  let taking := (w.gens.map (·.loom)).filter fun l => (getLoom s l).st.takesPick
  let s := modWeave s k fun w => { w with
    pick := p, pubStep := (getLoom s w.learner).lrn.step, pub := .copying, copied := [], taking, lastPub := stOk }
  let s := taking.foldl (fun s l =>
    let s := clearValid s l (getLoom s l).shed.backBeam.obj
    modGen s l fun g => g.modBack fun b => { b with st := .filling, pick := p }) s
  raiseEvt (putCurPick s k p) .shed 0 (some w.learner)

/-- Refuse a publication past pick 0xFFFF_FFFF (R361). -/
def refusePick (s : State) (k : Nat) : State :=
  raiseEvt (modWeave s k fun w => { w with lastPub := stPickExhausted, exhausted := true }) .shed 5
    (some (getWeave s k).learner)

/-- A publishing publish point arrives in IDLE. -/
def publishIdle (s : State) (k : Nat) : State :=
  let w := getWeave s k
  if w.pick = allOnes32 then refusePick s k
  else if !backPinned s w then startPick s k
  else if w.skip then
    raiseEvt (modWeave s k fun w => { w with skipped := satAdd 0xFFFFFFFF w.skipped 1 }) .shed 3 (some w.learner)
  else raiseEvt (modWeave s k fun w => { w with pub := .waiting }) .shed 4 (some w.learner)

/-- A publish point of the learner (R355): every PUBLISH_EVERY-th publishes; one that meets COPYING waits for IDLE. -/
def publishPoint (s : State) (k : Nat) : State :=
  let s := modWeave s k fun w => { w with points := w.points + 1 }
  let w := getWeave s k
  if w.points % w.publishEvery ≠ 0 then s
  else
    match w.pub with
    | .idle => publishIdle s k
    | .copying => modWeave s k fun w => { w with rearm := true }
    | .waiting => s

/-- Publication is IDLE again: a publish point that waited for it arrives now. -/
def pubIdle (s : State) (k : Nat) : State :=
  let rearm := (getWeave s k).rearm
  let s := { modWeave s k fun w => { w with pub := .idle, rearm := false } with
    heldWrites := s.heldWrites.filter fun h => h.weave ≠ k }
  if rearm then publishIdle s k else s

/-- The copy to one taking generator is abandoned (R360). -/
def abandonTaking (s : State) (k l : Nat) : State :=
  if (getWeave s k).pub = .copying && (getWeave s k).taking.contains l then
    let s := modWeave s k fun w => { w with taking := w.taking.erase l }
    let s := modGen s l fun g => { g.modBack fun b => { b with st := .empty } with missed := satAdd 0xFFFFFFFF g.missed 1 }
    raiseEvt s .shed 2 (some l)
  else s

/-- Some source entry lies in the learner's tile store (R360). -/
def srcInTiles (s : State) (w : Weave) : Bool :=
  w.src.any fun e => match objRec (getLoom s w.learner) e.obj with
    | some r => r.kind = mkTs
    | none => false

/-- The learner is in a state that abandons its source (R360). -/
def abandons (s : State) (w : Weave) : Bool :=
  match (getLoom s w.learner).st with
  | .faulted => true
  | .preempting => srcInTiles s w
  | _ => false

/-- The source is abandoned, and with it the copy to every taking generator. -/
def dropSource (s : State) (k : Nat) : State :=
  let s := (getWeave s k).taking.foldl (fun s l => abandonTaking s k l) s
  pubIdle (modWeave s k fun w => { w with abandoned := satAdd 0xFFFFFFFF w.abandoned 1 }) k

/-- The source is abandoned; a publish point that waited starts its pick, which the same state abandons again. -/
def abandonSource (s : State) (k : Nat) : State :=
  let s := dropSource s k
  if (getWeave s k).pub = .copying && abandons s (getWeave s k) then dropSource s k else s

/-- A loom has entered PREEMPTING, FENCED or FAULTED: what that abandons (R360). -/
def shedEnter (s : State) (l : Nat) : State :=
  let s := match genWeave s l with
    | some (k, w) => if w.shared || (getLoom s l).st.takesPick then s else abandonTaking s k l
    | none => s
  match learnWeave s l with
  | some (k, w) => if !w.shared && w.pub = .copying && abandons s w then abandonSource s k else s
  | none => s

/-- A SHARED weave's loom has stopped: it keeps its shed (Table 11-7). -/
def shedStopped (s : State) (l : Nat) : State :=
  match learnWeave s l with
  | some (k, w) =>
    if w.shared && w.shed ≠ .stopped then modWeave s k fun w => { w with shed := .stopped, resumeShed := w.shed } else s
  | none => s

/-! ## Flips (R362 to R364) -/

/-- Flip at a formation when the back beam is FULL with a pick newer than the front's. -/
def flipBeam (s : State) (l : Nat) : State :=
  let g := (getLoom s l).shed
  if g.backBeam.st = .full && g.frontBeam.pick < g.backBeam.pick then
    modGen s l fun g => { g with front := !g.front, flips := satAdd 0xFFFFFFFF g.flips 1 }
  else s

/-- After a flip the entries of picks older than the front's are evicted (R345, R364); old holds the beams before. -/
def flipEvict (s : State) (l : Nat) (old : GenLoom) : State :=
  let g := (getLoom s l).shed
  if g.front = old.front then s else evictIf s l fun p => p.pick < g.frontBeam.pick

/-! ## The end of a weave (R349) -/

/-- Number bobbins again in the order of their creation: a weave's bobbins stay consecutive. -/
def renumber (t : Table Bobbin) : Table Bobbin := (List.range t.length).zip (t.map (·.2))

/-- Dissolve a weave: its bobbins are freed, its looms are no generators, its registers read their reset values (R457). -/
def dissolve (s : State) (k : Nat) : State :=
  let w := getWeave s k
  let s := clearRegs (w.gens.foldl (fun s g => modGen s g.loom fun _ => {}) s) (shedReg k 0) 0x40
  { s with
    weaves := tdel s.weaves k
    bobbins := renumber (s.bobbins.filter fun kv => kv.2.weave ≠ k)
    heldWrites := s.heldWrites.filter fun h => h.weave ≠ k }

/-! ## The end of a checkpoint or a restore -/

/-- A checkpoint of a loom ends with a status; the command that asked for it completes (R438). -/
def endCkpt (s : State) (l : Nat) (st : Byte) (result : List Byte := []) : State :=
  match (getLoom s l).ckpt.run with
  | none => s
  | some r =>
    let s := modLoom s l fun x => { x with ckpt := { x.ckpt with run := none } }
    match r.requester with
    | some (sess, ring) => finish s sess ring st result
    | none => s

/-- A restore of a loom ends with a status (R442, R443). -/
def endRestore (s : State) (l : Nat) (st : Byte) (result : List Byte := []) : State :=
  match (getLoom s l).ckpt.restore with
  | none => s
  | some r =>
    let s := modLoom s l fun x => { x with ckpt := { x.ckpt with restore := none } }
    finish s r.requester.1 r.requester.2 st result

/-- The learner's next dobby command is held (R355, R434). -/
def learnerHeld (s : State) (l : Nat) : Bool :=
  (match (getLoom s l).ckpt.run with
    | some r => r.copying
    | none => false) ||
  match learnWeave s l with
  | some (_, w) => !w.shared && (w.pub = .waiting || w.rearm)
  | none => false

end Sys2Proof.Machine
end

