-- ==== Sys2Proof/Machine/LoomOps.lean ====
section
/-! DEFINITION. What looms share: co-residence, the fault record (R154, R155), shared units (R147 to R149), and the
stop of a loom with UNCORRECTED (Table 7-3). -/
namespace Sys2Proof.Machine

/-- The looms of the bay set of a loom, itself among them (R227): bay sets are disjoint, so equal bays are one set. -/
def coResident (s : State) (l : Nat) : List Nat :=
  (liveLooms s).filter fun k => (getLoom s k).bays = (getLoom s l).bays

/-- A loom of Table 7-11 numbers its states so. -/
def LoomState.code : LoomState → Nat
  | .free => 0 | .stopped => 1 | .running => 2 | .ready => 3 | .preempting => 4 | .saving => 5 | .saved => 6
  | .restoring => 7 | .stopping => 8 | .fenced => 9 | .faulted => 10

/-- Record a fault of a loom (Table 7-16): a later fault finds VALID set and sets OVERRUN (R195). -/
def recordFault (x : Loom) (insn : W64) (status : Byte) (tile strand pc : Nat) : Loom :=
  if x.fault.valid then { x with fault := { x.fault with overrun := true } }
  else { x with fault := { insn, valid := true, overrun := x.fault.overrun, status, tile, strand, pc } }

/-- Whether a loom holds units of any shared semaphore (R241). -/
def holdsUnits (s : State) (l : Nat) : Bool := s.ssems.any fun kv => tget 0 kv.2.units l != 0

/-- A strand leaves the instruction it is blocked in: SD receives a value and the strand goes on. -/
def Strand.unblock (x : Strand) (sd : Nat) (v : W64) : Strand := ({ x with blocked := .free }.sput sd v).next

/-- The status of a semaphore instruction as SD receives it. -/
def stWord (st : Byte) : W64 := st.setWidth 64

/-- Complete the SEMACQ a strand is blocked in. -/
def semDone (s : State) (a : Issuer) (st : Byte) : State :=
  modStrand s a fun x =>
    match x.blocked with
    | .sem _ _ sd => x.unblock sd (stWord st)
    | _ => x

/-- Serve the waiters of a shared semaphore in the order in which they began to wait (R148): the oldest first, and none
past an older one that needs more units. -/
def serveShared (s : State) (sem : Nat) : Nat → State
  | 0 => s
  | fuel + 1 =>
    match tfind s.ssems sem with
    | none => s
    | some x =>
      match x.waiters with
      | [] => s
      | (l, tile, strand, n) :: r =>
        if n ≤ x.count.toNat then
          let y : SharedSem :=
            { x with count := x.count - BitVec.ofNat 32 n, waiters := r, units := tmod 0 x.units l (· + n) }
          let s := { s with ssems := tput s.ssems sem y }
          serveShared (semDone s { tile, strand } stOk) sem fuel
        else s

/-- Serve every waiter of a shared semaphore that can be served. -/
def serveSem (s : State) (sem : Nat) : State :=
  match tfind s.ssems sem with
  | none => s
  | some x => serveShared s sem x.waiters.length

/-- The waiters of a loom semaphore, in order: the same rule. -/
def serveLoomGo (s : State) (l sem : Nat) : Nat → State
  | 0 => s
  | fuel + 1 =>
    let x := getLoom s l
    match x.semWaiters.find? (fun w => w.1 = sem) with
    | none => s
    | some w =>
      match (getStrand s { tile := w.2.1, strand := w.2.2 }).blocked with
      | .sem _ n _ =>
        if n ≤ (tget 0 x.sems sem).toNat then
          let s := setLoom s l { x with
            sems := tset 0 x.sems sem (tget 0 x.sems sem - BitVec.ofNat 32 n)
            semWaiters := x.semWaiters.erase w }
          serveLoomGo (semDone s { tile := w.2.1, strand := w.2.2 } stOk) l sem fuel
        else s
      | _ => s

/-- Serve every waiter of a loom semaphore that can be served. -/
def serveLoomSem (s : State) (l sem : Nat) : State := serveLoomGo s l sem (getLoom s l).semWaiters.length

/-- Return every shared unit of a loom to its semaphore (R148, R249). When there were any, the loom's next semaphore
instruction completes with SEM_REVOKED. -/
def returnUnits (s : State) (l : Nat) : State :=
  if holdsUnits s l then
    let sems := s.ssems.filterMap fun (k, x) => if tget 0 x.units l = 0 then none else some k
    let s := { s with ssems := s.ssems.map fun (k, x) =>
      (k, { x with count := x.count + BitVec.ofNat 32 (tget 0 x.units l), units := tdel x.units l }) }
    let s := modLoom s l fun x => { x with revoked := true }
    let s := raiseEvt s .lmgr 5 (some l)
    sems.foldl serveSem s
  else s

/-- The strands of a loom leave every semaphore's queue (R243). -/
def leaveQueues (s : State) (l : Nat) : State :=
  let s := modLoom s l fun x => { x with semWaiters := [] }
  let sems := s.ssems.filterMap fun (k, x) => if x.waiters.any fun w => w.1 = l then some k else none
  let s := { s with ssems := s.ssems.map fun (k, x) => (k, { x with waiters := x.waiters.filter fun w => w.1 ≠ l }) }
  sems.foldl serveSem s

/-! ## Tags (R142 to R145) -/

/-- The status and high word of a tag. -/
def Strand.tagRec (x : Strand) (tag : BitVec 16) : Option TagRec := x.tags.find? fun r => r.tag = tag

/-- Tags issued and not complete. -/
def Strand.incomplete (x : Strand) : List TagRec := x.tags.filter fun r => r.status.isNone

/-- What WAIT writes to SD for a completed tag (R142, Table 4-23). -/
def waitWord (st : Byte) (high : W32) : W64 := high ++ st.setWidth 32

/-- What WAITALL writes: the first status other than OK in tag order, or OK; the tags are those incomplete when it
began, in issue order. -/
def waitAllWord (tags : List (BitVec 16)) (x : Strand) : W64 :=
  let bad := (x.tags.filter fun r => tags.contains r.tag).filterMap fun r =>
    match r.status with
    | some st => if st = stOk then none else some st
    | none => none
  stWord (bad.headD stOk)

/-- A strand whose wait is over goes on (R145). -/
def Strand.wake (x : Strand) : Strand :=
  match x.blocked with
  | .wait tag sd =>
    match x.tagRec tag with
    | some { status := some st, high, .. } => x.unblock sd (waitWord st high)
    | _ => x
  | .waitAll tags sd =>
    if x.incomplete.any fun r => tags.contains r.tag then x else x.unblock sd (waitAllWord tags x)
  | .fence =>
    if x.incomplete.any fun r => r.kind = .rmtWr || r.kind = .rmtAdd then x else ({ x with blocked := .free }).next
  | _ => x

/-- A tag completes with a status, the high word of its result, and the ASW bits of its operation (R128, R142). -/
def Strand.complete (x : Strand) (tag : BitVec 16) (st : Byte) (high : W32) (fl : W64) : Strand :=
  let y : Strand := { x with tags := x.tags.map fun r => if r.tag = tag then { r with status := some st, high } else r }
  (y.flag fl).wake

/-- A tag of a strand completes. -/
def completeTag (s : State) (a : Issuer) (tag : BitVec 16) (st : Byte) (high : W32 := 0) (fl : W64 := 0) : State :=
  modStrand s a fun x => x.complete tag st high fl

/-- Take the next tag of a strand: the counter wraps, and the record the value had before is gone (R143, R145). -/
def Strand.takeTag (x : Strand) (kind : AsyncKind) (sd : Nat) : Strand :=
  let tag := x.tagNext
  let y : Strand := { x with
    tagNext := tag + 1
    tags := (x.tags.filter fun r => r.tag != tag) ++ [{ tag, kind, status := none, high := 0 }] }
  y.sput sd (tag.setWidth 64)

/-! ## Stops (R154, Table 7-3) -/

/-- What ends with a loom that enters FAULTED or FENCED: its collectives complete with a status of their own (Table 8-5),
its requests (R339), a copy to its beam or from its tensors (R360), its checkpoint and its restore (R438, R442). -/
def endWith (s : State) (l : Nat) (st collSt : Byte) : State :=
  let s := abortColls s l collSt
  let s := endAllReqs s l st
  let s := shedEnter s l
  endRestore (endCkpt s l st) l st

/-- A loom stops with UNCORRECTED: FAULTED, from any state but FREE and STOPPED. Its strands leave the semaphores' queues before
its units return (R249); one that is FAULTED already records the fault (Table 7-3). -/
def loomUncorr (s : State) (l : Nat) (tile strand pc : Nat := 0) (insn : W64 := 0) : State :=
  let x := getLoom s l
  let y := recordFault x insn stUncorr tile strand pc
  if x.st = .free || x.st = .stopped then s
  else if x.st = .faulted then setLoom s l y
  else
    let s := setLoom s l { y with
      st := .faulted
      stopIssue := true
      preempt := none
      cmd := y.cmd.map fun c => { c with endStatus := some stUncorr } }
    endWith (returnUnits (leaveQueues (raiseEvt s .lmgr 1 (some l)) l) l) l stUncorr stCancelled

/-- An instruction faults (R154): no destination changes, no tag is taken; the loom stops issuing, its dobby command
will end with the status, and the fault is recorded. -/
def insnFault (s : State) (l : Nat) (a : Issuer) (st : Byte) (insn : W64) : State :=
  let pc := (getStrand s a).pc.toNat
  if st = stUncorr then loomUncorr s l a.tile a.strand pc insn
  else
    let y := recordFault (getLoom s l) insn st a.tile a.strand pc
    let s := setLoom s l { y with
      st := if y.st = .running then .stopping else y.st
      stopIssue := true
      cmd := y.cmd.map fun c => { c with endStatus := some (c.endStatus.getD st) } }
    raiseEvt s .lmgr 0 (some l)

end Sys2Proof.Machine
end

