-- ==== Sys2Proof/Machine/Advise.lean ====
section
/-! DEFINITION. Checkpoint advisories (R430, R431) and the checkpoints they trigger (R433, R436, R437): sizes, manifests,
triggers. With them, links going DOWN (R263) and failing adders (R286). -/
namespace Sys2Proof.Machine

/-! ## Checkpoint sizes and manifests -/

/-- The format of an object, from its intent record. -/
def objFmt (x : Loom) (obj : Nat) : Nat := match x.intent.find? fun r => r.obj = obj && 1 ≤ r.kind && r.kind ≤ 3 with
  | some r => r.fmt
  | none => 0

/-- Payload bytes of an entry of a checkpoint set. -/
def shardBytes (x : Loom) (e : CkptEntry) : Nat := (e.elems * fmtBits (objFmt x e.obj) + 7) / 8

/-- The module is the anchor of a loom's job (R264), and the modules of its box. -/
def isAnchor (s : State) (x : Loom) : Bool := boxCoord s x = (0, 0, 0)
def boxModules (x : Loom) : Nat := let e := boxExtent x; e.1 * e.2.1 * e.2.2

/-- Entries of the job's manifest. -/
def jobEntries (x : Loom) : Nat := x.ckpt.entries.length + x.ckpt.others
def manifestBytes (x : Loom) : Nat := 64 + 32 * jobEntries x

/-- The checkpoint size of this module (R437, Table 15-20). -/
def ckptSize (s : State) (x : Loom) : Nat :=
  (x.ckpt.entries.map fun e => align4k (128 + shardBytes x e)).sum + if isAnchor s x then align4k (manifestBytes x) else 0

/-- The entries the other box modules have in the manifest, and how many stand before this module's: what other modules hold
is free (R436). -/
def drawOthers (s : State) (l : Nat) : State :=
  let x := getLoom s l
  if boxModules x < 2 then modLoom s l fun x => { x with ckpt := { x.ckpt with before := 0, others := 0 } }
  else
    let (k, s) := drawFree s 2
    let others := Config.freeNat k
    let before := if isAnchor s x then 0 else Config.freeNat (k + 1) % (others + 1)
    modLoom s l fun x => { x with ckpt := { x.ckpt with before, others } }

/-- A manifest entry of this module (Table 14-6). -/
def manifestEntry (s : State) (x : Loom) (e : CkptEntry) : List Byte :=
  let c := coordOf s
  toLe 4 (c.1 + c.2.1 * 4 + c.2.2 * 16 + objFmt x e.obj * 2 ^ 6) ++ toLe 4 e.obj ++ toLe 4 e.logicalId ++ toLe 4 e.localOff
    ++ toLe 8 e.logicalOff ++ toLe 8 e.elems

/-- The latest pick of the loom's weave as learner. -/
def learnerPick (s : State) (l : Nat) : Nat := match learnWeave s l with
  | some (_, w) => w.pick
  | none => allOnes32

/-- The manifest of a job at step S (R436): this module's entries among those of the other box modules, which hold free
values. -/
def manifestOf (s : State) (l step k : Nat) : List Byte :=
  let x := getLoom s l
  let other := fun i n => (List.range (32 * n)).map fun j => Config.freeByte k (32 * i + j)
  toLe 8 x.ckpt.runId.toNat ++ toLe 8 step ++ toLe 4 (jobEntries x) ++ toLe 4 x.box.toNat ++ toLe 8 x.seed.toNat
    ++ toLe 8 (step + 1) ++ toLe 4 (learnerPick s l) ++ toLe 4 x.bays.length ++ List.replicate 16 0
    ++ other 0 x.ckpt.before ++ x.ckpt.entries.flatMap (manifestEntry s x)
    ++ other x.ckpt.before (x.ckpt.others - x.ckpt.before)

/-- Trigger a checkpoint (R433): the status at once when it is refused. The anchor chooses S, builds the manifest and
starts; another box module waits for the anchor's CKPT_STARTED. -/
def ckptTrigger (s : State) (l step : Nat) (buffer : W64) (len : Nat) (who : Option (Nat × Nat)) : Except Byte State :=
  let x := getLoom s l
  let anchor := isAnchor s x
  let st := if step = 0 && anchor then x.lrn.step.toNat + 2 else step
  if anchor && st < x.lrn.step.toNat then .error stBad
  else if x.ckpt.run.isSome then .error stBusy
  else
    let (k, s) := drawFree s 1
    let m := if anchor then manifestOf s l st k else []
    let r : CkptRun := { step := BitVec.ofNat 64 st, digest := if anchor then sha256 m else [], manifest := m, requester := who
                         buffer, len, started := anchor, closed := false, copying := false, reports := [] }
    .ok (modLoom s l fun x => { x with ckpt := { x.ckpt with run := some r, lastBuffer := some (buffer, len) } })

/-! ## Advisories -/

/-- Default thresholds of Table 14-3. -/
def causeDefault (cause : Nat) : Nat :=
  match cause with
  | 1 => 64 | 2 => 4096 | 3 => 256 | 4 => 10000 | 5 => 1000 | 9 => 60 | _ => 0

/-- The threshold in force. -/
def causeThreshold (s : State) (cause : Nat) : Nat := (tfind s.svc.thresholds cause).getD (causeDefault cause)

/-- The key of a cause and a unit. -/
def causeKey (cause unit : Nat) : Nat := cause * 2 ^ 16 + unit

/-- The count of the sliding hour: 60 one-minute buckets, the newest first. -/
def hourCount (s : State) (cause unit : Nat) : Nat := (tget [] s.svc.buckets (causeKey cause unit)).sum

/-- The looms that use a unit (R431). -/
def unitLooms (s : State) (cause unit : Nat) : List Nat :=
  (liveLooms s).filter fun l => (cause ≠ 1 && cause ≠ 7) || (getLoom s l).bays.contains unit

/-- Send an advisory: the status bit, the log, a record to each session that owns a loom using the unit, and a checkpoint
of each such loom whose set has AUTO = 1 (R431). -/
def advise (s : State) (cause unit : Nat) : State :=
  let n := hourCount s cause unit
  let ls := unitLooms s cause unit
  let s := modSvc s fun v => { v with
    raised := (v.raised.filter fun r => !(r.1 = cause && r.2.1 = unit)) ++ [(cause, unit, v.minute)] }
  let s := orReg s Src.svc.status 1
  let s := capture s 0x00000040 (BitVec.ofNat 64 (cause * 2 ^ 48 + n % 2 ^ 32 * 2 ^ 16 + unit)) [(0x00000038, s.tlm.timebase)]
  let e : EvtRec := { src := Src.svc.code, bit := 0, loom := none, unit, time := s.tlm.timebase, detail := cause + n * 2 ^ 32 }
  let s := if (getReg s 0x00000030).getLsbD 0 then
      ((ls.map fun l => (getLoom s l).session).eraseDups).foldl (fun s q =>
        if (getSession s q).opened then evtToSession s q e else s) s
    else s
  ls.foldl (fun s l =>
    let c := (getLoom s l).ckpt
    match c.auto, c.lastBuffer with
    | true, some (b, n) => match ckptTrigger s l 0 b n none with
      | .ok s' => s'
      | .error _ => s
    | _, _ => s) s

/-- An advisory of a cause and unit is due: at most once per hour. -/
def adviseOnce (s : State) (cause unit : Nat) : State :=
  if s.svc.raised.any fun r => r.1 = cause && r.2.1 = unit && s.svc.minute < r.2.2 + 60 then s else advise s cause unit

/-- Count n events of a cause at a unit; past the threshold the advisory is due (R430). -/
def noteCause (s : State) (cause unit n : Nat) (always : Bool := false) : State :=
  let s := modSvc s fun v => { v with buckets := tmod [] v.buckets (causeKey cause unit) fun b =>
    match b with
    | [] => [n]
    | c :: r => (c + n) :: r }
  if always || causeThreshold s cause < hourCount s cause unit then adviseOnce s cause unit else s

/-! ## Links and adders -/

/-- Capture a link event (Table 8-18). -/
def linkLog (s : State) (type dir io lane : Nat) : State :=
  capture s 0x00708020 (BitVec.ofNat 64 (type * 2 ^ 48 + dir * 2 ^ 40 + io * 2 ^ 32 + lane * 2 ^ 24))
    [(0x00708018, s.tlm.timebase)]

/-- A link goes DOWN (R263): LINK_DOWN is raised once. -/
def linkDown (s : State) (d : Nat) : State :=
  let x := getLink s d
  if x.st = 3 then s
  else raiseEvt (linkLog (setLink s d { x with st := 3 }) 3 d 0xFF 0xFF) .link 3 none d

/-- The register of a die's adders (Table 8-12). -/
def adderReg (die : Nat) : Nat := 0x00700100 + die * 8

/-- Every loom that holds a bay of a die. -/
def loomsOfDie (s : State) (die : Nat) : List Nat :=
  (liveLooms s).filter fun l => (getLoom s l).bays.any fun b => dieOfBay b = die

/-- An adder leaves service (R286): the suspect window from its last passing self-test is captured, ADDER_FAIL and
SUSPECT are raised, and a die without adders stops the looms that hold its bays. -/
def adderFail (s : State) (die adder : Nat) : State :=
  let r := getReg s (adderReg die)
  if !r.getLsbD adder then s
  else
    let bit : W64 := BitVec.ofNat 64 (2 ^ adder)
    let r' := (r &&& ~~~ bit) ||| (bit <<< 4)
    let s := setReg s (adderReg die) r'
    let s := capture s 0x00700030 (BitVec.ofNat 64 (die * 2 ^ 8 + adder))
      [(0x00700020, tget 0 s.adders.lastPass (die * 4 + adder)), (0x00700028, s.tlm.timebase)]
    let s := raiseEvt (raiseEvt s .coll 0 none die) .coll 1 none die
    let s := noteCause s 0x06 die 1
    if r' &&& 0xF = 0 then (loomsOfDie s die).foldl (fun s l => loomUncorr s l) s else s

end Sys2Proof.Machine
end

