-- ==== Sys2Proof/Machine/Board.lean ====
section
/-! DEFINITION. The readiness scoreboard (R102 to R106, R130, R499, Table 3-7). uses holds the readers and writers of a
block in the order in which they were queued; a use leaves when it is over. -/
namespace Sys2Proof.Machine

/-- The entries of a tile's scoreboard (R102). -/
def boardSize : Nat := 512

/-- The entry of a block. An entry is found by the offset and length that a command names, so blocks that overlap without
being the same block have entries of their own that do not wait for each other (log 111). -/
def boardFind (b : List SbEntry) (off len : Nat) : Option SbEntry := b.find? fun e => e.off = off && e.len = len

/-- Change the entry of a block. -/
def boardMod (b : List SbEntry) (off len : Nat) (f : SbEntry → SbEntry) : List SbEntry :=
  b.map fun e => if e.off = off && e.len = len then f e else e

/-- Queue a use of a block: as a reader or as a writer (Table 3-7, FREE, READY, READING and PENDING rows). -/
def boardQueue (b : List SbEntry) (off len num : Nat) (writer : Bool) : List SbEntry :=
  let u : SbUse := { num, writer, running := false }
  match boardFind b off len with
  | none => b ++ [{ off, len, st := if writer then .pending else .ready, writers := if writer then 1 else 0, uses := [u] }]
  | some _ =>
    boardMod b off len fun e =>
      { e with
        st := if writer then .pending else e.st
        writers := if writer then e.writers + 1 else e.writers
        uses := e.uses ++ [u] }

/-- How many further entries the blocks need. -/
def boardNeeds (b : List SbEntry) (blocks : List (Nat × Nat)) : Nat :=
  (blocks.eraseDups.filter fun k => (boardFind b k.1 k.2).isNone).length

/-- A reader may issue: no writer queued before it has its write outstanding (R499). -/
def readReady (e : SbEntry) (num : Nat) : Bool :=
  (e.uses.takeWhile fun u => !(u.num = num && !u.writer)).all fun u => !u.writer

/-- A write may land: every use queued before it is over but reads of its own operation (R499). -/
def writeReady (e : SbEntry) (num : Nat) : Bool :=
  match e.uses.filter fun u => !(u.num = num && !u.writer) with
  | u :: _ => u.num = num && u.writer
  | [] => false

/-- A reader issues: readers + 1. -/
def readerIssues (num : Nat) (e : SbEntry) : SbEntry :=
  { e with
    readers := e.readers + 1
    st := if e.st = .pending then .pending else .reading
    uses := e.uses.map fun u => if u.num = num && !u.writer then { u with running := true } else u }

/-- A reader completes its last read: readers − 1. -/
def readerDone (num : Nat) (e : SbEntry) : SbEntry :=
  let n := e.readers - 1
  { e with
    readers := n
    st := if e.st = .reading && n = 0 then .ready else e.st
    uses := e.uses.filter fun u => !(u.num = num && !u.writer) }

/-- A reader that issues and completes its reads at one moment. -/
def readerPasses (num : Nat) (e : SbEntry) : SbEntry := readerDone num (readerIssues num e)

/-- A write lands: writers − 1, READY when none is left. -/
def writeLands (num : Nat) (e : SbEntry) : SbEntry :=
  let n := e.writers - 1
  { e with
    writers := n
    st := if n = 0 then .ready else .pending
    uses := e.uses.filter fun u => !(u.num = num && u.writer) }

/-- The program retires a READY block (Table 3-7): the entry is released. In any other state nothing changes. -/
def boardRetire (b : List SbEntry) (off len : Nat) : List SbEntry :=
  b.filter fun e => !(e.off = off && (len = 0 || e.len = len) && e.st = .ready && e.uses.isEmpty)

/-- A load or store of n bytes at an offset waits (R130): as the newest reader it waits for every outstanding write of a
block it touches, as the newest writer also for every reader. -/
def boardWaits (b : List SbEntry) (off n : Nat) (store : Bool) : Bool :=
  b.any fun e => off < e.off + e.len && e.off < off + n &&
    e.uses.any fun u => u.writer || (store && (u.running || !u.writer))

end Sys2Proof.Machine
end

