-- ==== Sys2Proof/Machine/Flags.lean ====
section
/-! DEFINITION. The arithmetic status word (Table 4-13, R54, R128): what an FP32 operation adds to it. -/
namespace Sys2Proof.Machine

/-- Division by zero, bit 4. -/
def fDz : AFlags := 16

/-- INV of an operation: it produces a NaN from inputs none of which is a NaN (R54). -/
def invFlag (ins : List W32) (out : W32) : AFlags :=
  if f32IsNan out && !(ins.any f32IsNan) then fInv else 0

/-- DZ of a division: a zero divisor under a finite, non-zero dividend (Table 4-13). -/
def dzFlag (a b : W32) : AFlags :=
  match f32Val a, f32Val b with
  | .fin _ m _, .fin _ n _ => if m ≠ 0 && n = 0 then fDz else 0
  | _, _ => 0

/-- An FP32 operation with its flags. -/
def fp1 (op : W32 → W32) (a : W32) : W32 × AFlags := (op a, invFlag [a] (op a))
def fp2 (op : W32 → W32 → W32) (a b : W32) : W32 × AFlags := (op a b, invFlag [a, b] (op a b))
def fp3 (op : W32 → W32 → W32 → W32) (a b c : W32) : W32 × AFlags := (op a b c, invFlag [a, b, c] (op a b c))

/-- Division with INV and DZ. -/
def fpDiv (a b : W32) : W32 × AFlags := (f32Div a b, invFlag [a, b] (f32Div a b) ||| dzFlag a b)

/-- The pairwise tree of R67 over leaves of which some are absent (R124): an absent operand passes the other. -/
def treeLevel (op : W32 → W32 → W32 × AFlags) : List (Option W32) → List (Option W32) × AFlags
  | a :: b :: r =>
    let (rest, fl) := treeLevel op r
    match a, b with
    | some x, some y => (some (op x y).1 :: rest, (op x y).2 ||| fl)
    | some x, none => (some x :: rest, fl)
    | none, y => (y :: rest, fl)
  | l => (l, 0)

/-- The tree of R67: n levels. -/
def treeFold (op : W32 → W32 → W32 × AFlags) : Nat → List (Option W32) → Option W32 × AFlags
  | 0, l => (l.head?.join, 0)
  | n + 1, l =>
    let (l', fl) := treeLevel op l
    let (r, fl') := treeFold op n l'
    (r, fl ||| fl')

end Sys2Proof.Machine
end

