-- ==== Sys2Proof/Machine/Operands.lean ====
section
/-! DEFINITION. The operand forms: the instruction words of Tables 4-3 to 4-9, which classes and operations exist
(Table 4-4, R117), and the checks of fields that R115 to R117 and R498 make. -/
namespace Sys2Proof.Machine

/-- Format R as a word (Tables 4-3 and 4-5). -/
def wordR (cls op : Nat) (f : FmtR) : W64 :=
  BitVec.ofNat 4 cls ++ BitVec.ofNat 6 op ++ f.pg ++ BitVec.ofBool f.pn ++ f.rd ++ f.ra ++ f.rb ++ f.rc ++ f.fmt ++ f.rnd
    ++ BitVec.ofBool f.sat ++ f.fmt2 ++ f.rsv

/-- Format I as a word (Table 4-6). -/
def wordI (cls op : Nat) (f : FmtI) : W64 :=
  BitVec.ofNat 4 cls ++ BitVec.ofNat 6 op ++ f.pg ++ BitVec.ofBool f.pn ++ f.rd ++ f.ra ++ f.rsv ++ f.imm

/-- Format B as a word (Table 4-7). -/
def wordB (cls op : Nat) (f : FmtB) : W64 :=
  BitVec.ofNat 4 cls ++ BitVec.ofNat 6 op ++ f.pg ++ BitVec.ofBool f.pn ++ f.rs ++ f.rsv ++ f.off

/-- Format M as a word (Table 4-8). -/
def wordM (cls op : Nat) (f : FmtM) : W64 :=
  BitVec.ofNat 4 cls ++ BitVec.ofNat 6 op ++ f.pg ++ BitVec.ofBool f.pn ++ f.rd ++ f.base ++ f.vidx ++ f.fmt ++ f.rnd
    ++ BitVec.ofBool f.sat ++ f.mode ++ f.off

/-- Format D as a word (Table 4-9). -/
def wordD (cls op : Nat) (f : FmtD) : W64 :=
  BitVec.ofNat 4 cls ++ BitVec.ofNat 6 op ++ f.pg ++ BitVec.ofBool f.pn ++ f.sd ++ f.sa ++ f.sb ++ f.inl

/-- The operations a class lists (Tables 4-11, 4-12, 4-14 to 4-22, 4-24). -/
def listedOps (cls : Nat) : List Nat :=
  match cls with
  | 0x0 => [0, 1, 2, 3, 4, 5, 6, 7, 8, 9, 0xA, 0xB, 0x10, 0x11, 0x12, 0x13, 0x20, 0x21, 0x22]
  | 0x1 => [0, 1, 2, 3, 4, 5, 6, 7, 0x10]
  | 0x2 => [0, 1, 2, 3, 4, 5, 6]
  | 0x3 => [0, 1, 2, 3, 4, 5, 6, 7, 8, 9, 0xA, 0xB, 0xC, 0x10, 0x11, 0x12, 0x13, 0x14, 0x15, 0x16, 0x17, 0x18, 0x20,
      0x21, 0x28, 0x29, 0x2A, 0x30, 0x31, 0x32]
  | 0x4 => [0, 1, 2]
  | 0x5 => [0, 1, 2, 3, 4, 5]
  | 0x6 => [0, 1, 2, 3]
  | 0x7 => [0, 1]
  | 0x8 => [0, 1, 2, 3]
  | 0x9 => [0, 1, 2]
  | 0xA => [0, 1, 2, 3, 4, 5]
  | 0xB => [0, 1, 2, 3, 4, 5, 6]
  | 0xC => [0, 1, 2, 3]
  | 0xD => [0, 1, 2, 3]
  | _ => []

/-- The word's class exists and lists its operation (R117). -/
def listed (w : W64) : Bool := (listedOps (bits w.toNat 63 60)).contains (bits w.toNat 59 54)

/-- A scalar register field names s0 to s31 (R117). -/
def isS (r : BitVec 6) : Bool := r.toNat < 32
/-- A predicate field names p0 to p7 (R117). -/
def isP (r : BitVec 6) : Bool := r.toNat < 8
/-- A Format R word whose reserved bits are 0 and whose FMT and FMT2 name no reserved format code (R42, R117; log 28). -/
def fieldsR (f : FmtR) : Bool := f.rsv = 0 && f.fmt.toNat ≤ 0xA && f.fmt2.toNat ≤ 0xA
/-- The reserved bits and the predicate of an instruction that is no vector instruction (R116, R117). -/
def plainR (f : FmtR) : Bool := f.pg = 0 && !f.pn && fieldsR f
def plainI (f : FmtI) : Bool := f.pg = 0 && !f.pn && f.rsv = 0
def plainB (f : FmtB) : Bool := f.pg = 0 && !f.pn && f.rsv = 0
def plainD (f : FmtD) : Bool := f.pg = 0 && !f.pn

/-- Whether a thread executes a vector instruction (R116). -/
def Strand.runs (x : Strand) (pg : BitVec 3) (pn : Bool) (t : Nat) : Bool := x.pget pg.toNat t != pn

/-- The threads of a strand. -/
def threads : List Nat := List.range 32

/-- The 16 random bits of thread t under SR in VCVT and ST.VC (R127). -/
def Strand.drawBits (x : Strand) (seed : W64) (t : Nat) : Nat :=
  let w := x.sget 29
  srBits seed (w.setWidth 32) ((w >>> 32).setWidth 32) (x.sget 30 + BitVec.ofNat 64 t)

end Sys2Proof.Machine
end

