-- ==== Sys2Proof/Machine/Rows.lean ====
section
/-! DEFINITION. Row agents (R217): which accesses to the rows of a table wait, and the order in which they are served. -/
namespace Sys2Proof.Machine

/-- The rows that some ranges touch: object and row. -/
def rowsTouched (x : Loom) (rs : List (Nat × Nat)) : List (Nat × Nat) :=
  if x.hot.isEmpty then []
  else (rs.flatMap fun r => (List.range r.2).filterMap fun i => (rowAt x (r.1 + i)).map fun q => (q.hot.obj, q.row)).eraseDups

/-- A row is in handoff (R217). -/
def rowMoving (x : Loom) (r : Nat × Nat) : Bool :=
  x.hot.any fun h => h.obj = r.1 && match rowSlot h r.2 with
    | some k => (tget noSlot h.slots k).st ≠ .valid
    | none => false

/-- A held access is still to be made: its strand has its command, its operation has not ended, its transfer is in progress. -/
def userWaits (s : State) (x : Loom) : RowUser → Bool
  | .strand _ _ => x.cmd.isSome
  | .op tile strand tag =>
    let has := fun (t : Tile) => t.ops.any fun o => o.strand = strand && o.tag.toNat = tag
    has (getTile s tile) || (x.image.map fun i => has (tget {} i.tiles tile)).getD false
  | .rmt _ _ _ _ _ _ => true
  | .host session ring => (takenOf s session ring).isSome
  | .agent _ => true

/-- Accesses to some rows may not be served now: one of the rows is in handoff, or an access that arrived earlier at its agent
is still held (R217). -/
def rowsHeldUp (s : State) (x : Loom) (before : List RowWait) (rows : List (Nat × Nat)) : Bool :=
  rows.any (rowMoving x) || before.any fun w => userWaits s x w.who && w.rows.any rows.contains

/-- An access of a loom to some ranges waits for its rows. -/
def rowsWait (s : State) (l : Nat) (who : RowUser) (rs : List (Nat × Nat)) : Bool :=
  let x := getLoom s l
  rowsHeldUp s x (x.rowWaits.takeWhile fun w => w.who ≠ who) (rowsTouched x rs)

/-- The agents hold an access: it keeps the place at which it arrived. -/
def holdRows (s : State) (l : Nat) (who : RowUser) (rs : List (Nat × Nat)) : State :=
  let x := getLoom s l
  if x.rowWaits.any fun w => w.who = who then s
  else setLoom s l { x with rowWaits := x.rowWaits ++ [{ who, rows := rowsTouched x rs }] }

/-- Serve an access at an address: a write, or a read whose bytes are the reply. -/
def serveAt (s : State) (a : RowAccess) (at_ : Nat) : State :=
  if a.write then wrData s at_ a.data
  else
    let bs := rdN s at_ a.data.length
    { s with reply := (List.range ((bs.length + 7) / 8)).map fun i => BitVec.ofNat 64 (fieldAt bs (8 * i) 8) }

/-- The home of an access. -/
def homeOf (s : State) (a : RowAccess) (rowBytes : Nat) : Nat :=
  match objRec (getLoom s a.loom) a.obj with
  | some r => r.addr + a.row * rowBytes + a.off
  | none => 0

/-- The hot region of a table of a loom. -/
def hotOf (s : State) (l obj : Nat) : Option HotRegion := (getLoom s l).hot.find? fun h => h.obj = obj

/-- The agents count an access to a range: once for each row it touches (R217, R218). -/
def touchRange (s : State) (l a n : Nat) (write : Bool) : State :=
  (rowsTouched (getLoom s l) [(a, n)]).foldl (fun s r => match hotOf s l r.1 with
    | some h => modLoom s l fun x => rowTouch x h r.2 write
    | none => s) s

/-- Serve an access whose row is not in handoff: from its slot, or at its home (R217). -/
def serveRow (s : State) (a : RowAccess) : State :=
  match hotOf s a.loom a.obj with
  | some h =>
    let home := homeOf s a h.rowBytes
    serveAt (modLoom s a.loom fun x => rowTouch x h a.row a.write) a (ownerAt (getLoom s a.loom) home)
  | none => s

/-- The first held access of its own command that may be served now; before are those that arrived earlier. A write to an
uncopied source block waits for its copy (R358). -/
def heldReady (s : State) (x : Loom) : List RowWait → List RowWait → Option RowAccess
  | _, [] => none
  | before, w :: r =>
    match w.who with
    | .agent a =>
      let home := homeOf s a ((hotOf s a.loom a.obj).map (·.rowBytes) |>.getD 0)
      if rowsHeldUp s x before w.rows || (a.write && (uncopied s home a.data.length).isSome) then heldReady s x (before ++ [w]) r
      else some a
    | _ => heldReady s x (before ++ [w]) r

/-- Serve the held accesses that may be served, in arrival order (R217). -/
def serveHeld (l : Nat) : Nat → State → State
  | 0, s => s
  | fuel + 1, s =>
    match heldReady s (getLoom s l) [] (getLoom s l).rowWaits with
    | none => s
    | some a =>
      serveHeld l fuel (serveRow (modLoom s l fun x => { x with rowWaits := x.rowWaits.eraseP fun w => w.who = .agent a }) a)

/-- Serve what a loom's agents hold, as far as it may be served. -/
def serveAll (s : State) (l : Nat) : State := serveHeld l (getLoom s l).rowWaits.length s

/-- An access of a loom has been served: those that waited behind it may be. -/
def rowsServed (s : State) (l : Nat) (who : RowUser) : State :=
  if (getLoom s l).rowWaits.isEmpty then s
  else serveAll (modLoom s l fun x => { x with rowWaits := x.rowWaits.filter fun w => w.who ≠ who }) l

/-- Replace a hot region of a loom. -/
def putHot (s : State) (l : Nat) (h : HotRegion) : State := modLoom s l fun x => setHot x h

/-- Handoffs of a loom are complete (Table 6-14). -/
def countHandoffs (s : State) (l n : Nat) : State := modLoom s l fun x => { x with handoffs := (x.handoffs + n) % 2 ^ 48 }

/-- The bytes of a slot: in the save image of a loom that has one. -/
def slotBytes (s : State) (x : Loom) (a n : Nat) : List Byte := match x.image with
  | some i => memGetN i.cells a n
  | none => rdN s a n

/-- A loom stops: every handoff completes, every DIRTY row is written back, and every entry is INVALID (R219). -/
def hotStop (s : State) (l : Nat) : State :=
  (getLoom s l).hot.foldl (fun s h0 =>
    match hotOf s l h0.obj, objRec (getLoom s l) h0.obj with
    | some h, some r =>
      let s := h.slots.foldl (fun s kv =>
        if (kv.2.st = .valid && kv.2.dirty) || kv.2.st = .movingOut then
          wrData s (r.addr + kv.2.row * h.rowBytes) (slotBytes s (getLoom s l) (slotAddr h kv.1) h.rowBytes)
        else s) s
      let ended := (h.slots.filter fun kv => kv.2.st = .movingIn || kv.2.st = .movingOut).length
      let s := putHot s l { h with slots := [], cands := [], todo := [], handoffs := [] }
      serveAll (countHandoffs s l ended) l
    | _, _ => s) s

/-- Forget the accesses of a loom's strands: their command is over. -/
def dropStrandRows (s : State) (l : Nat) : State :=
  if (getLoom s l).rowWaits.isEmpty then s
  else serveAll (modLoom s l fun x => { x with rowWaits := x.rowWaits.filter fun w => match w.who with
    | .strand _ _ => false
    | _ => true }) l

end Sys2Proof.Machine
end

