-- ==== Sys2Proof/Machine/Issue.lean ====
section
/-! DEFINITION. Issuing an instruction (R110, R111, R115 to R117, R154): which strand may issue what, and what becomes of
a fault or a stall. -/
namespace Sys2Proof.Machine

/-- What an instruction comes to at issue. -/
inductive IRes where
  /-- It issues: the state after it. -/
  | done (s : State)
  /-- It faults with a status of R154 and changes nothing else. -/
  | fault (st : Byte)
  /-- It faults with UNCORRECTED, since its own reads at issue, of these ranges, met poison (R154, R185). -/
  | poisoned (rs : List (Nat × Nat))
  /-- It stalls: it is not issued, and nothing changes (R130, R133, R144). -/
  | stall

/-- The loom for which a strand may issue: the holder of the tile's bays, whose dobby command in progress has the tile in
its group, has not been stopped, and whose strand has neither ended nor is blocked (R110, R121, R154, R229). Without a
management die none may (R425). -/
def canIssue (s : State) (a : Issuer) : Option Nat :=
  match loomOfTile s a.tile with
  | none => none
  | some l =>
    let x := getLoom s l
    let y := getStrand s a
    let up := x.st = .running || x.st = .preempting || x.st = .stopping
    let mine := match x.cmd with
      | some c => c.tiles.contains a.tile
      | none => false
    if up && mine && !x.stopIssue && !s.svc.dark && y.active && !y.ended && y.blocked = .free then some l else none

/-- A strand may issue for loom l, and its PC names the word w in the loom's program image. -/
def Issues (s : State) (a : Issuer) (l : Nat) (w : W64) : Prop :=
  canIssue s a = some l ∧ (getLoom s l).program[(getStrand s a).pc.toNat]? = some w

/-- Issue the instruction whose word is w: it is the one the strand's PC names in the loom's program image (R119). A PC
past the image, a reserved class or an unlisted operation there faults with BAD_COMMAND (R117; log 14). -/
def issue (s : State) (a : Issuer) (w : W64) (k : Nat → Strand → IRes) : State :=
  match canIssue s a with
  | none => s
  | some l =>
    let y := getStrand s a
    match (getLoom s l).program[y.pc.toNat]? with
    | none => insnFault s l a stBad 0
    | some p =>
      if !listed p then insnFault s l a stBad p
      else if p ≠ w then s
      else
        match k l y with
        | .done s' => s'
        | .fault st => insnFault s l a st w
        | .poisoned rs => insnFault (meetUnits s (some l) rs) l a stUncorr w
        | .stall => s

/-- An instruction that changes only its own strand: the check of its fields, then the strand after it or a fault. -/
def issueReg (s : State) (a : Issuer) (w : W64) (ok : Bool) (k : Nat → Strand → Except Byte Strand) : State :=
  issue s a w fun l y =>
    if !ok then .fault stBad
    else
      match k l y with
      | .ok z => .done (setStrand s a z)
      | .error st => .fault st

end Sys2Proof.Machine
end

