-- ==== Sys2Proof/Machine/Mtx.lean ====
section
/-! DEFINITION. Matrix commands (chapter 03, R131 to R133): what MMA, FOLD, DRAIN and RETIRE check and queue, what the
scoreboard issues, and what a command computes at its last rounding and a drain writes. -/
namespace Sys2Proof.Machine

/-! ## The descriptor (Tables 4-15 and 4-16) -/

/-- A matrix command from its inline fields and its descriptor. -/
def mtxCmd (num strand op : Nat) (inl : Nat) (d : List Byte) : MtxCmd :=
  let w := fieldAt d 0x0C 4
  let id := fieldAt d 0x24 4
  let a := fieldAt d 0x08 4
  { num, strand, op
    thin := bits inl 34 33 = 1
    gang := bits inl 32 31
    tgtB := bits inl 30 30 = 1
    carry := bits inl 29 29 = 1
    weftAddr := fieldAt d 0x00 8
    weftT := bits a 24 24 = 1
    warpT := bits a 23 23 = 1
    warpOff := bits a 22 0
    sat := bits w 14 14 = 1
    rnd := bits w 13 12
    dstFmt := bits w 11 8
    weftFmt := bits w 7 4
    warpFmt := bits w 3 0
    m := fieldAt d 0x10 4
    n := fieldAt d 0x14 4
    k := fieldAt d 0x18 4
    blkOff := bits (fieldAt d 0x1C 4) 22 0
    stream := BitVec.ofNat 32 (fieldAt d 0x20 4)
    outId := bits id 31 16
    segIdx := bits id 15 8
    nseg := bits id 7 0
    segTab := []
    tensorId := BitVec.ofNat 32 (fieldAt d 0x2C 4)
    tensorCols := fieldAt d 0x30 4
    row0 := fieldAt d 0x34 4
    col0 := fieldAt d 0x38 4
    weftSc := fieldAt d 0x40 8
    warpSc := bits (fieldAt d 0x48 4) 22 0
    dstSc := bits (fieldAt d 0x4C 4) 22 0
    weftScStride := fieldAt d 0x50 4
    warpScStride := fieldAt d 0x54 4
    dstScStride := fieldAt d 0x58 4 }

/-- The reserved bits of the descriptor are 0 (R118). -/
def mtxRsv (d : List Byte) (mx : Bool) : Bool :=
  bits (fieldAt d 0x08 4) 31 25 = 0 && bits (fieldAt d 0x0C 4) 31 15 = 0 && bits (fieldAt d 0x1C 4) 31 23 = 0
  && bits (fieldAt d 0x28 4) 31 23 = 0 && fieldAt d 0x3C 4 = 0
  && (!mx || (bits (fieldAt d 0x48 4) 31 23 = 0 && bits (fieldAt d 0x4C 4) 31 23 = 0 && fieldAt d 0x5C 36 = 0))

/-- Bytes of a tile block (R101). -/
def blockBytes (fmt : Nat) : Nat := if fmt = 7 then 1024 else 1024 * fmtBytes fmt
/-- Columns of a tile block. -/
def blockCols (fmt : Nat) : Nat := if fmt = 7 then 64 else 32
/-- Bytes of an operand of r × c elements held as whole tile blocks (R101). -/
def tiledBytes (fmt r c : Nat) : Nat :=
  (r + 31) / 32 * ((c + blockCols fmt - 1) / blockCols fmt) * blockBytes fmt
/-- The byte of element (i, j) of an operand of c columns, and whether the element is the high nibble (R47, R101). -/
def tiledAt (fmt c i j : Nat) : Nat × Bool :=
  let bw := blockCols fmt
  let blk := i / 32 * ((c + bw - 1) / bw) + j / bw
  if fmt = 7 then (blk * 1024 + i % 32 * 32 + j % 64 / 2, j % 2 = 1)
  else (blk * blockBytes fmt + (i % 32 * 32 + j % 32) * fmtBytes fmt, false)

/-- The output block of an engine and gang mode: rows and columns (Table 3-3, R98). -/
def outDims (thin : Bool) (gang : Nat) : Nat × Nat :=
  if thin then (8, 128)
  else
    match gang with
    | 0 => (128, 32) | 1 => (64, 64) | 2 => (64, 32) | _ => (32, 32)

/-- The pairings of Table 2-3. -/
def pairOk (x w : Nat) : Bool :=
  let f8 := fun c => c == 3 || c == 4
  let m8 := fun c => c == 5 || c == 6
  (f8 x && f8 w) || (m8 x && m8 w) || (x == 7 && w == 7) || (x == 7 && m8 w) || (m8 x && w == 7)
  || (x == 1 && w == 1) || (x == 2 && w == 2) || (x == 8 && w == 8)

/-- The longest K of a thin-path command, by its warp format (Table 3-6). -/
def thinK (x : Nat) : Nat := if x = 7 then 32768 else if x = 1 || x = 2 then 8192 else 16384

/-- K-blocks of an extent. -/
def kBlocks (k : Nat) : Nat := (k + 31) / 32

/-- A segment table: the first entry 0, strictly rising, the last below the number of K-blocks (Table 3-5). -/
def segOk (t : List Nat) (kb : Nat) : Bool :=
  t.head? = some 0 && (t.zip (t.drop 1)).all (fun p => p.1 < p.2) && t.all (· < kb)

/-- The offset of an address in a tile's own store. -/
def ownAt (tile a : Nat) : Option Nat :=
  if tileAddr tile 0 ≤ a && a < tileAddr tile 0 + 2 ^ 23 then some (a - tileAddr tile 0) else none

/-- Bytes of a command's warp, of its weft, and of a scale plane of r rows of w scales (R101, R501). -/
def MtxCmd.warpBytes (c : MtxCmd) : Nat := if c.warpT then tiledBytes c.warpFmt c.k c.m else tiledBytes c.warpFmt c.m c.k
def MtxCmd.weftBytes (c : MtxCmd) : Nat := if c.weftT then tiledBytes c.weftFmt c.n c.k else tiledBytes c.weftFmt c.k c.n
def scPlane (r w stride : Nat) : Nat := if r = 0 || w = 0 then 0 else (r - 1) * stride + w
def MtxCmd.warpScBytes (c : MtxCmd) : Nat := scPlane c.m (kBlocks c.k) c.warpScStride
def MtxCmd.weftScBytes (c : MtxCmd) : Nat := scPlane (kBlocks c.k) c.n c.weftScStride
def MtxCmd.dstScBytes (c : MtxCmd) : Nat := scPlane c.m ((c.n + 31) / 32) c.dstScStride

/-- The blocks of the tile's own store a command names: its sources and its destinations, MX scale planes among them
(R102, R501). -/
def mtxSources (tile : Nat) (c : MtxCmd) : List (Nat × Nat) :=
  if c.op = 0 then
    if c.k = 0 then []
    else
      let own := fun a n => (ownAt tile a).toList.map fun o => (o, n)
      ([(c.warpOff, c.warpBytes)] ++ own c.weftAddr c.weftBytes
        ++ (if isMx c.warpFmt then [(c.warpSc, c.warpScBytes)] else [])
        ++ (if isMx c.weftFmt then own c.weftSc c.weftScBytes else [])).eraseDups
  else if c.op = 1 then [(c.blkOff, tiledBytes c.dstFmt c.m c.n)] else []
def mtxDest (c : MtxCmd) : List (Nat × Nat) :=
  if c.op = 2 then
    (c.blkOff, tiledBytes c.dstFmt c.m c.n) :: (if isMx c.dstFmt then [(c.dstSc, c.dstScBytes)] else [])
  else []

/-- The binding of an OUT_ID (R500). -/
def bindOf (t : Tile) (id : Nat) : Option Binding := t.binds.find? fun b => b.outId = id

/-- The type of what was last queued to write an accumulator of an OUT_ID: whether it is INT32. -/
def bindInt (t : Tile) (id : Nat) (b : Bool) : Option Bool := (bindOf t id).bind fun q => if b then q.intB else q.intA

/-- The formats that a drain writes from an accumulator (R86). -/
def drainOk (isInt : Bool) (fmt : Nat) : Bool := fmt < 10 && (!isInt || !isMx fmt)

/-- A drain's rounding field is allowed: SR and RTZ only where a rounding of their kind happens (R57, R86). -/
def drainRnd (isInt : Bool) (rnd fmt : Nat) : Bool := rndOk rnd (if isInt then 9 else 0) fmt

/-- The checks of R92 and Table 3-5 that need the operation's own fields; a field it does not use must be 0 (R118). A
FOLD takes K and SEG_TAB as fields it does not use and NSEG as the count of its segments (log 112). -/
def mtxCheck (s : State) (x : Loom) (tile : Nat) (t : Tile) (c : MtxCmd) (d : List Byte) : Byte :=
  let (om, on) := outDims c.thin c.gang
  let shape := c.m ≠ 0 && c.n ≠ 0 && c.m ≤ om && c.n ≤ on && !(c.thin && c.gang ≠ 0)
  let bound := match bindOf t c.outId with
    | none => true
    | some b => b.thin = c.thin && (c.thin || b.gang = c.gang)
  let noDrain := !c.sat && c.rnd = 0 && c.stream = 0 && c.tensorId = 0 && c.tensorCols = 0 && c.row0 = 0 && c.col0 = 0
  let noWeft := c.weftAddr = 0 && !c.weftT && !c.warpT && c.warpOff = 0 && c.weftFmt = 0 && c.warpFmt = 0 && c.k = 0
  let noMxSrc := c.weftSc = 0 && c.warpSc = 0 && c.weftScStride = 0 && c.warpScStride = 0
  let noMxDst := c.dstSc = 0 && c.dstScStride = 0
  let good : Bool := match c.op with
    | 0 =>
      let wp := c.warpBytes
      let wf := c.weftBytes
      let kb := kBlocks c.k
      let weft := match place s.variant c.weftAddr with
        | .tile q o => q = tile && o % blockBytes c.weftFmt = 0 && inStore o wf
        | .stack b => b + wf ≤ Config.memEnd s.variant
        | _ => false
      let scPlace := !isMx c.weftFmt || (match place s.variant c.weftAddr, place s.variant c.weftSc with
        | .tile q _, .tile r o => q = r && inStore o c.weftScBytes
        | .stack _, .stack b => b + c.weftScBytes ≤ Config.memEnd s.variant
        | _, _ => false)
      shape && bound && pairOk c.warpFmt c.weftFmt && !(isMx c.warpFmt && c.warpT) && !(isMx c.weftFmt && c.weftT)
      && c.warpOff % blockBytes c.warpFmt = 0 && inStore c.warpOff wp && weft && scPlace
      && (!isMx c.warpFmt || inStore c.warpSc c.warpScBytes)
      && (isMx c.warpFmt || (c.warpSc = 0 && c.warpScStride = 0))
      && (isMx c.weftFmt || (c.weftSc = 0 && c.weftScStride = 0)) && noMxDst
      && 1 ≤ c.nseg && c.nseg ≤ 64 && (c.nseg = 1 || (c.k ≠ 0 && segOk c.segTab kb))
      && (!c.thin || c.k ≤ thinK c.warpFmt) && noDrain && c.dstFmt = 0 && c.blkOff = 0 && c.segIdx = 0
    | 1 =>
      let ty := match bindInt t c.outId c.tgtB with
        | none => true
        | some i => i = (c.dstFmt = 9)
      shape && bound && (c.dstFmt = 0 || c.dstFmt = 9) && ty && c.blkOff % blockBytes c.dstFmt = 0
      && inStore c.blkOff (tiledBytes c.dstFmt c.m c.n) && 1 ≤ c.nseg && c.nseg ≤ 64 && c.segIdx < c.nseg
      && noDrain && noWeft && noMxSrc && noMxDst
    | 2 =>
      let i := (bindInt t c.outId c.tgtB).getD false
      shape && bound && drainOk i c.dstFmt && drainRnd i c.rnd c.dstFmt && c.blkOff % blockBytes c.dstFmt = 0
      && inStore c.blkOff (tiledBytes c.dstFmt c.m c.n) && noWeft && noMxSrc && c.nseg = 0 && c.segIdx = 0
      && (if isMx c.dstFmt then inStore c.dstSc c.dstScBytes else noMxDst)
    | _ => !(c.thin && c.gang ≠ 0) && c.m = 0 && c.n = 0 && noDrain && noWeft && noMxSrc && noMxDst && c.dstFmt = 0 && c.outId = 0 && c.segIdx = 0
      && c.nseg = 0 && c.blkOff < tsBytes
  let tabUse := if c.op = 0 then true else bits (fieldAt d 0x28 4) 22 0 = 0
  if !(good && tabUse) then stBad
  else if c.op = 0 && c.k ≠ 0 then
    match place s.variant c.weftAddr with
    | .stack b =>
      if mapGives s.variant x b c.weftBytes
        && (!isMx c.weftFmt || mapGives s.variant x c.weftSc c.weftScBytes) then stOk else stPerm
    | _ => stOk
  else stOk

/-- Bind an OUT_ID or note what a further command of it uses (R500). -/
def bindCmd (t : Tile) (c : MtxCmd) : Tile :=
  let usesA := !c.tgtB
  let usesB := c.tgtB || (c.op < 2 && c.carry)
  let ty : Option Bool := if c.op = 0 then some (c.warpFmt == 8) else if c.op = 1 then some (c.dstFmt == 9) else none
  match bindOf t c.outId with
  | none =>
    let nb : Binding :=
      { outId := c.outId, thin := c.thin, gang := c.gang, claim := none, usesA, usesB
        intA := if c.tgtB then none else ty
        intB := if c.tgtB then ty else none }
    { t with binds := t.binds ++ [nb] }
  | some _ =>
    { t with binds := t.binds.map fun (b : Binding) =>
        if b.outId = c.outId then
          { b with
            usesA := b.usesA || usesA, usesB := b.usesB || usesB
            intA := if c.tgtB then b.intA else ty.orElse fun _ => b.intA
            intB := if c.tgtB then ty.orElse fun _ => b.intB else b.intB }
        else b }

/-! ## Issue from the queue (R87, R91, R93, R99, R104, R106, R500) -/

/-- The sub-arrays of a claim: 0 to 3 one, 4 and 5 a pair, 6 all; 7 is the thin path. -/
def claimArrays (c : Nat) : List Nat :=
  match c with
  | 4 => [0, 1] | 5 => [2, 3] | 6 => [0, 1, 2, 3] | 7 => [] | _ => [c]

/-- Two claims share a sub-array or are both the thin path. -/
def claimsMeet (c d : Nat) : Bool := c = d || (claimArrays c).any fun i => (claimArrays d).contains i

/-- The claims that serve an engine and gang mode (Table 3-3). -/
def claimsFor (thin : Bool) (gang : Nat) : List Nat :=
  if thin then [7] else match gang with
    | 0 | 1 => [6] | 2 => [4, 5] | _ => [0, 1, 2, 3]

/-- Warp blocks hold kPer K-blocks (Table 3-2, R90); one row of the thin path's buffer holds them all (R97). -/
def kPer (c : MtxCmd) : Nat :=
  if c.thin then 1 else (if c.gang = 1 then 2 else 1) * (if c.warpFmt = 7 && c.weftFmt = 7 then 2 else 1)
/-- Columns of a patch of the thin path (Table 3-6). -/
def patchCols (c : MtxCmd) : Nat := if c.weftFmt = 7 then 32 else if c.weftFmt = 1 || c.weftFmt = 2 then 8 else 16
/-- Entries against one warp block: weft columns, or patches of a K-block. -/
def perBlk (c : MtxCmd) : Nat := if c.thin then (c.n + patchCols c - 1) / patchCols c else c.n
/-- Warp blocks of a command. -/
def warpBlks (c : MtxCmd) : Nat := (kBlocks c.k + kPer c - 1) / kPer c
/-- All column or patch entries of a command. -/
def entries (c : MtxCmd) : Nat := if c.op = 0 then perBlk c * warpBlks c else 0

/-- The last column of a command has entered, or the last patch has been read (R91, R99). A FOLD has neither and is over at its
last rounding. -/
def MtxRun.entered (r : MtxRun) : Bool := r.cmd.op = 0 && entries r.cmd ≤ r.pos

/-- A claim is free of commands in flight: the last column of each that meets it has entered (R91). -/
def claimFree (t : Tile) (c : Nat) : Bool := t.running.all fun r => r.entered || !claimsMeet r.claim c

/-- A new binding may take a claim: no other binding meets it, or one on the same claim that uses only the other
accumulator (R500). An OUT_ID that shares a claim and comes to use the other accumulator too leaves neither of the two a
claim it may run on (log 113). -/
def bindable (t : Tile) (b : Binding) (c : Nat) : Bool :=
  let others := t.binds.filter fun o => o.outId != b.outId && (match o.claim with
    | some k => claimsMeet k c
    | none => false)
  others.isEmpty || (others.length = 1 && others.all fun o =>
    o.claim = some c && !(o.usesA && b.usesA) && !(o.usesB && b.usesB))

/-- The claim a queued command runs on, if it can have one now: the bound claim, else the lowest-numbered free claim
that may be bound (log 19). -/
def claimNow (t : Tile) (c : MtxCmd) : Option Nat :=
  match bindOf t c.outId with
  | none => none
  | some b =>
    match b.claim with
    | some k => if claimFree t k && bindable t b k then some k else none
    | none => (claimsFor c.thin c.gang).find? fun k => claimFree t k && bindable t b k

/-- The accumulators a command writes and reads: A is false, B true. -/
def writesAcc (c : MtxCmd) (b : Bool) : Bool := c.op < 2 && c.tgtB = b
def readsAcc (c : MtxCmd) (b : Bool) : Bool := (c.op = 2 && c.tgtB = b) || (c.op < 2 && c.carry && b) || (c.op = 1 && c.tgtB = b)

/-- Two commands of one output block conflict: one writes an accumulator the other uses (R87, R93). -/
def conflict (c d : MtxCmd) : Bool :=
  c.outId = d.outId && [false, true].any fun b =>
    (writesAcc c b && (writesAcc d b || readsAcc d b)) || (readsAcc c b && writesAcc d b)

/-- Two ranges of bytes meet. -/
def rangesMeet (a b : Nat × Nat) : Bool := a.1 < b.1 + b.2 && b.1 < a.1 + a.2

/-- A later command waits for an earlier one: they conflict, or write one destination block (R93). FOLDs of one output
block and of different segments are ordered by their segment index alone (R104; log 20). -/
def orderedAfter (earlier c : MtxCmd) : Bool :=
  (conflict earlier c && !(earlier.op = 1 && c.op = 1 && earlier.segIdx ≠ c.segIdx)) ||
  (mtxDest earlier).any fun a => (mtxDest c).any (rangesMeet a)

/-- A command in flight that a command must wait for: a DRAIN for the last rounding of what writes its accumulator, any
other command for the last column entry (R87, R91). -/
def waitsFor (t : Tile) (c : MtxCmd) : Bool := t.running.any fun r => conflict r.cmd c && (c.op = 2 || !r.entered)

/-- The engine is free: the thin path and the sub-arrays never compute together (R99). -/
def engineFree (t : Tile) (c : MtxCmd) : Bool :=
  c.op ≠ 0 || t.running.all fun r => r.cmd.op ≠ 0 || r.entered || r.cmd.thin = c.thin

/-- A RETIRE may issue: every use of its block that was queued is over (Table 3-7, READY; log 105). -/
def mayRetire (t : Tile) (c : MtxCmd) : Bool :=
  t.board.all fun e => e.off ≠ c.blkOff || (e.st = .ready && e.uses.isEmpty)

/-- A queued command may issue, given those queued before it. -/
def mayIssue (tile : Nat) (t : Tile) (before : List MtxCmd) (c : MtxCmd) : Bool :=
  if c.op = 3 then mayRetire t c
  else before.all (fun e => !orderedAfter e c) && !waitsFor t c && engineFree t c && (claimNow t c).isSome
  && (mtxSources tile c).all (fun k => match boardFind t.board k.1 k.2 with
      | some e => readReady e c.num
      | none => false)
  && (mtxDest c).all (fun k => match boardFind t.board k.1 k.2 with
      | some e => writeReady e c.num
      | none => false)
  && (c.op ≠ 1 || c.segIdx = tget 0 t.segNext c.outId)

/-- The oldest queued command that may issue (R106). -/
def pickCmd (tile : Nat) (t : Tile) : List MtxCmd → List MtxCmd → Option MtxCmd
  | _, [] => none
  | before, c :: r => if mayIssue tile t before c then some c else pickCmd tile t (before ++ [c]) r

/-- The key of an accumulator: output block, A or B, row and column. -/
def accKey (outId : Nat) (b : Bool) (m n : Nat) : Nat := ((outId * 2 + (if b then 1 else 0)) * 128 + m) * 128 + n

/-- READY blocks whose FOLD waits for its turn are HELD until it issues (Table 3-7, R104). -/
def settleHeld (t : Tile) : Tile :=
  { t with board := t.board.map fun e =>
      let waits := t.queue.any fun c => c.op = 1 && c.blkOff = e.off && readReady e c.num
        && tget 0 t.segNext c.outId < c.segIdx
      let named := t.queue.any fun c => c.op = 1 && c.blkOff = e.off
      if e.st = .ready && waits then { e with st := .held }
      else if e.st = .held && !named then { e with st := .ready } else e }

/-! ## Queueing (R92, R102, R105, R131, R133) -/

/-- The uses of an operation that has begun may all go: its reads, and then its writes (R499). -/
def opReady (s : State) (o : AsyncOp) : Bool :=
  (o.reads.all fun b => match boardFind (getTile s b.1).board b.2.1 b.2.2 with
    | some e => readReady e o.num
    | none => true) &&
  (o.writes.all fun b => match boardFind (getTile s b.1).board b.2.1 b.2.2 with
    | some e => writeReady e o.num
    | none => true)

/-- The write of a drain may land in each of its blocks. -/
def landingReady (t : Tile) (w : Landing) : Bool :=
  w.blocks.all fun b => match boardFind t.board b.1 b.2 with
    | some e => writeReady e w.num
    | none => false

/-- No entry of a tile's full scoreboard can become FREE: every READY one is named by a queued command, none of these can
issue, and no write can land (R105). -/
def boardStuck (s : State) (tile : Nat) : Bool :=
  let t := getTile s tile
  t.running.isEmpty && (pickCmd tile t [] t.queue).isNone && !(t.landing.any (landingReady t))
    && (s.tiles.all fun kv => kv.2.ops.all fun o => !((o.reads ++ o.writes).any fun b => b.1 = tile) || !opReady s o)
    && t.board.all fun e => e.st ≠ .ready || !e.uses.isEmpty

/-- Issue of a matrix instruction: its checks, then its entry in the queue (R92, R102, R105, R131, R133). -/
def mtxIssue (op : Nat) (a : Issuer) (f : FmtD) (s : State) : Host.Outcome State Fault Refusal :=
  .next (issue s a (wordD 6 op f) fun l y =>
    let inl := f.inl.toNat
    if !(plainD f && f.sd = 0 && f.sb = 0 && inl % 2 ^ 29 = 0 && bits inl 34 33 < 2) then .fault stBad
    else
      let sa := y.sget f.sa.toNat
      match descriptor s a.tile sa 64 with
      | .error st => .fault st
      | .ok d64 =>
        let w := fieldAt d64 0x0C 4
        let mx := isMx (bits w 3 0) || isMx (bits w 7 4) || isMx (bits w 11 8)
        match if mx then descriptor s a.tile sa 128 else .ok d64 with
        | .error st => .fault st
        | .ok d =>
          let t := getTile s a.tile
          let x := getLoom s l
          let c := mtxCmd s.nextNum a.strand op inl d
          let tabOff := bits (fieldAt d 0x28 4) 22 0
          let many := op = 0 && 1 < c.nseg && c.nseg ≤ 64
          if many && !inStore tabOff (2 * c.nseg) then .fault stBad
          else if many && tsPoison s a.tile tabOff (2 * c.nseg) then .fault stUncorr
          else
            let c := { c with
              segTab := if many then (List.range c.nseg).map fun i => rd s (tileAddr a.tile (tabOff + 2 * i)) 2 else [0]
              accInt := if op = 2 then (bindInt t c.outId c.tgtB).getD false else false }
            let st := if mtxRsv d mx then mtxCheck s x a.tile t c d else stBad
            if st ≠ stOk then .fault st
            else if 32 ≤ t.queue.length then .stall
            else
              let srcs := mtxSources a.tile c
              let dsts := mtxDest c
              if boardSize < t.board.length + boardNeeds t.board (srcs ++ dsts) then
                if boardStuck s a.tile then .fault stFull else .stall
              else
                let b := srcs.foldl (fun b k => boardQueue b k.1 k.2 c.num false) t.board
                let b := dsts.foldl (fun b k => boardQueue b k.1 k.2 c.num true) b
                let t : Tile := { t with board := b, queue := t.queue ++ [c] }
                let t := if op = 3 then t else bindCmd t c
                .done (modStrand (setTile { s with nextNum := s.nextNum + 1 } a.tile (settleHeld t)) a Strand.next))

def execMma (a : Issuer) (f : FmtD) (s : State) := mtxIssue 0 a f s
def execFold (a : Issuer) (f : FmtD) (s : State) := mtxIssue 1 a f s
def execDrain (a : Issuer) (f : FmtD) (s : State) := mtxIssue 2 a f s
def execRetire (a : Issuer) (f : FmtD) (s : State) := mtxIssue 3 a f s

/-! ## Drains (R86, R88) -/

/-- The value drained from an accumulator as bits of a format, under the flags of R54 (R86). -/
def drainElem (isInt : Bool) (c : MtxCmd) (md : RMode) (w : W32) : Nat × AFlags :=
  if isInt then if c.dstFmt = 9 then (w.toNat, 0) else encode c.dstFmt md c.sat (ofInt w.toInt 0 false)
  else if c.dstFmt = 0 then ((f32Canon w).toNat, 0) else encode c.dstFmt md c.sat (f32Val w)

/-- The 16 random bits of output element (m, n) (R59, R132). -/
def mtxDraw (seed : W64) (c : MtxCmd) (m n : Nat) : Nat :=
  srBits seed c.stream c.tensorId (BitVec.ofNat 64 ((c.row0 + m) * c.tensorCols + c.col0 + n))

/-- The bytes of one row of a drain: own-store offsets and bytes, with the flags. The last byte of a row of an odd number
of 4-bit elements is not among them (oddNibble). -/
def drainRow (seed : W64) (t : Tile) (c : MtxCmd) (m : Nat) : List (Nat × Byte) × AFlags :=
  let isInt := c.accInt
  let val := fun n => tget 0 t.acc (accKey c.outId c.tgtB m n)
  let md := fun n => modeOf c.rnd (mtxDraw seed c m n)
  if isMx c.dstFmt then
    (List.range ((c.n + 31) / 32)).foldl (fun acc j =>
      let cnt := min 32 (c.n - 32 * j)
      let (sc, es, fl) := mxBlock c.dstFmt (fun i => md (32 * j + i))
        ((List.range cnt).map fun i => f32Val (val (32 * j + i)))
      let put := if c.dstFmt = 7 then
          (List.range (cnt / 2)).map fun i =>
            (c.blkOff + (tiledAt 7 c.n m (32 * j + 2 * i)).1,
              BitVec.ofNat 8 (es.getD (2 * i) 0 + 16 * es.getD (2 * i + 1) 0))
        else (List.range cnt).map fun i =>
          (c.blkOff + (tiledAt c.dstFmt c.n m (32 * j + i)).1, BitVec.ofNat 8 (es.getD i 0))
      (acc.1 ++ put ++ [(c.dstSc + m * c.dstScStride + j, BitVec.ofNat 8 sc)], acc.2 ||| fl)) ([], 0)
  else
    (List.range c.n).foldl (fun acc n =>
      let (v, fl) := drainElem isInt c (md n) (val n)
      let o := c.blkOff + (tiledAt c.dstFmt c.n m n).1
      let bs := toLe (fmtBytes c.dstFmt) v
      (acc.1 ++ (bs.zip (List.range bs.length)).map (fun (b, i) => (o + i, b)), acc.2 ||| fl)) ([], 0)

/-- The last element of a row of an odd number of 4-bit elements: its byte and its low four bits. The other half of the
byte belongs to a column beyond N, which a drain does not write (R47, R88). -/
def oddNibble (seed : W64) (t : Tile) (c : MtxCmd) (m : Nat) : List (Nat × Byte) :=
  if c.dstFmt = 7 && c.n % 2 = 1 then
    let j := c.n / 32
    let val := fun n => tget 0 t.acc (accKey c.outId c.tgtB m n)
    let (_, es, _) := mxBlock 7 (fun i => modeOf c.rnd (mtxDraw seed c m (32 * j + i)))
      ((List.range (c.n % 32)).map fun i => f32Val (val (32 * j + i)))
    [(c.blkOff + (tiledAt 7 c.n m (c.n - 1)).1, BitVec.ofNat 8 (es.getD (c.n % 32 - 1) 0))]
  else []

/-- The write of a drain, formed when it reads the accumulators (R86, R88). -/
def drainLanding (seed : W64) (t : Tile) (c : MtxCmd) : Landing :=
  let r := (List.range c.m).map (drainRow seed t c)
  { num := c.num, strand := c.strand, blocks := mtxDest c
    bytes := r.flatMap (·.1), half := (List.range c.m).flatMap (oddNibble seed t c), flags := r.foldl (fun f x => f ||| x.2) 0 }

/-- The bytes a drain's write puts into memory: a byte of which it writes the low half keeps its high half. -/
def Landing.stores (w : Landing) (s : State) (tile : Nat) : List (Nat × Byte) :=
  w.bytes.map (fun p => (tileAddr tile p.1, p.2))
    ++ w.half.map fun p => (tileAddr tile p.1, (memGet s.mem (tileAddr tile p.1) &&& 0xF0) ||| p.2)

/-- The write of a drain that met a POISONED group: its bytes are free values (R177). -/
def Landing.freed (w : Landing) (k : Nat) : Landing :=
  { w with
    bytes := (w.bytes.zip (List.range w.bytes.length)).map fun p => (p.1.1, Config.freeByte k p.2)
    half := (w.half.zip (List.range w.half.length)).map fun p =>
      (p.1.1, Config.freeByte k (w.bytes.length + p.2) &&& 0x0F) }

/-- A drain's write goes into memory. Where a byte of it lies in a POISONED group, no byte of that group is written and
the others are free values (R177). -/
def landWrite (s : State) (tile : Nat) (w : Landing) : State :=
  if (w.stores s tile).any fun ob => writeBlocked s ob.1 1 then
    let (k, s) := drawFree s 1
    ((w.freed k).stores s tile).foldl (fun s ob => if writeBlocked s ob.1 1 then s else wrN s ob.1 [ob.2]) s
  else (w.stores s tile).foldl (fun s ob => wrN s ob.1 [ob.2]) s

/-- Staged units of a command: the 64 KiB units of a weft in memory stacks (R95). -/
def weftUnits (v : Variant) (c : MtxCmd) : Nat :=
  if c.op = 0 && c.k ≠ 0 then
    match place v c.weftAddr with
    | .stack _ => (c.weftBytes + 65535) / 65536
    | _ => 0
  else 0

/-- The end of a binding: a drain has read its last row and no other queued command names the OUT_ID (R500). Its
accumulators go with it, so that a later binding of the OUT_ID reads them as 0; the index of its next segment stays
(log 114). -/
def unbind (t : Tile) (id : Nat) : Tile :=
  if (t.queue.any fun c => c.op ≠ 3 && c.outId = id) || (t.running.any fun r => r.cmd.outId = id) then t
  else { t with
    binds := t.binds.filter fun b => b.outId != id
    acc := t.acc.filter fun kv => kv.1 / (2 * 128 * 128) != id }

/-! ## Operands in the cells and the stream queues (R79, R82, R94, R95, R97) -/

/-- The bits of element (i, j) of a stored operand of which byte gives the bytes (R47, R101). -/
def operandFrom (byte : Nat → Byte) (fmt cols i j : Nat) : Nat :=
  let (o, hi) := tiledAt fmt cols i j
  if fmt = 7 then let b := (byte o).toNat; if hi then b / 16 else b % 16
  else leNat ((List.range (fmtBytes fmt)).map fun k => byte (o + k))

/-- The bits of element (i, j) of an operand stored from a global address. -/
def operandBits (s : State) (base fmt cols i j : Nat) : Nat := operandFrom (fun o => memGet s.mem (base + o)) fmt cols i j

/-- The weft lies in the stacks: its bytes are those of the units that have been staged (R95). -/
def weftStaged (v : Variant) (c : MtxCmd) : Bool := match place v c.weftAddr with
  | .stack _ => true
  | _ => false
def weftByte (s : State) (r : MtxRun) (o : Nat) : Byte :=
  if weftStaged s.variant r.cmd then (r.staged.getD (o / 65536) []).getD (o % 65536) 0 else memGet s.mem (r.cmd.weftAddr + o)

/-- Warp element (m, k) and weft element (k, n) as bits, in their orientations, and their MX scales (R501). -/
def warpBits (s : State) (tile : Nat) (c : MtxCmd) (m k : Nat) : Nat :=
  let base := tileAddr tile c.warpOff
  if c.warpT then operandBits s base c.warpFmt c.m k m else operandBits s base c.warpFmt c.k m k
def weftBits (s : State) (r : MtxRun) (k n : Nat) : Nat :=
  let c := r.cmd
  if c.weftT then operandFrom (weftByte s r) c.weftFmt c.k n k else operandFrom (weftByte s r) c.weftFmt c.n k n
def warpScale (s : State) (tile : Nat) (c : MtxCmd) (m b : Nat) : Nat :=
  (memGet s.mem (tileAddr tile (c.warpSc + m * c.warpScStride + b))).toNat
def weftScale (s : State) (c : MtxCmd) (b n : Nat) : Nat := (memGet s.mem (c.weftSc + b * c.weftScStride + n)).toNat

/-- The value of an element of a format under its scale (R48). -/
def scaledVal (fmt bits scale : Nat) : FVal := if isMx fmt then mxVal fmt bits scale else elemVal fmt bits

/-- Indices of K that one warp block, or one row of the row buffer, holds. -/
def warpSpan (c : MtxCmd) : Nat := 32 * if c.thin then kBlocks c.k else kPer c

/-- Load warp block b: rows beyond M as zero (R82, R88). -/
def loadWarp (s : State) (tile : Nat) (c : MtxCmd) (b : Nat) : WarpBlk :=
  let k0 := b * warpSpan c
  let cnt := min (warpSpan c) (c.k - k0)
  let scs := if isMx c.warpFmt then kBlocks cnt else 0
  { blk := b
    rows := (List.range (outDims c.thin c.gang).1).map fun m =>
      if m < c.m then
        { elems := (List.range cnt).map fun i => warpBits s tile c m (k0 + i)
          scales := (List.range scs).map fun j => warpScale s tile c m (k0 / 32 + j) }
      else { elems := List.replicate cnt 0, scales := List.replicate scs 0 } }

/-- Read the weft elements of column n that meet warp block b (R94). -/
def readWeft (s : State) (r : MtxRun) (b n : Nat) : MtxVec :=
  let c := r.cmd
  let k0 := b * (32 * kPer c)
  let cnt := min (32 * kPer c) (c.k - k0)
  { elems := (List.range cnt).map fun i => weftBits s r (k0 + i) n
    scales := if isMx c.weftFmt then (List.range (kBlocks cnt)).map fun j => weftScale s c (k0 / 32 + j) n else [] }

/-- Element i of what stands together, with its scale. -/
def MtxVec.val (v : MtxVec) (fmt i : Nat) : FVal := scaledVal fmt (v.elems.getD i 0) (v.scales.getD (i / 32) 0)

/-- Warp element (m, k) as the cells or the row buffer hold it, or as they will when its block is loaded. -/
def warpAt (s : State) (tile : Nat) (r : MtxRun) (m k : Nat) : FVal :=
  let c := r.cmd
  if c.m ≤ m then .fin false 0 0
  else
    match (r.warp.toList ++ r.shadow.toList).find? fun w => w.blk = k / warpSpan c with
    | some w => (w.rows.getD m { elems := [], scales := [] }).val c.warpFmt (k % warpSpan c)
    | none => scaledVal c.warpFmt (warpBits s tile c m k) (warpScale s tile c m (k / 32))

/-- Weft element (k, n) as its queue holds it, or as it will when it is read. -/
def weftAt (s : State) (r : MtxRun) (k n : Nat) : FVal :=
  let c := r.cmd
  match r.queue.find? fun q => q.1 = k / (32 * kPer c) * perBlk c + n with
  | some q => q.2.val c.weftFmt (k % (32 * kPer c))
  | none => scaledVal c.weftFmt (weftBits s r k n) (weftScale s c (k / 32) n)

/-- The columns of an entry: one weft column, or those of a patch. -/
def colsOf (c : MtxCmd) (pos : Nat) : List Nat :=
  let j := pos % perBlk c
  if c.thin then (List.range (min (patchCols c) (c.n - j * patchCols c))).map (j * patchCols c + ·) else [j]

/-- The units that hold the weft elements of an entry have landed (R95). -/
def entryLanded (v : Variant) (r : MtxRun) (pos : Nat) : Bool :=
  let c := r.cmd
  !weftStaged v c || (colsOf c pos).all fun n =>
    let k0 := pos / perBlk c * (32 * kPer c)
    (List.range (min (32 * kPer c) (c.k - k0))).all fun i =>
      (if c.weftT then tiledAt c.weftFmt c.k n (k0 + i) else tiledAt c.weftFmt c.n (k0 + i) n).1 / 65536 < r.staged.length

/-- The shuttle fills a stream's queue of 64 columns ahead of entry, as far as the weft has landed (R94, R95). It does so in
the step that makes a column ready, so no task of a lower level is ever served before a weft stream (R96). The thin path
reads its patches itself (R97). -/
def fillQueue (s : State) (r : MtxRun) : MtxRun :=
  let c := r.cmd
  if c.op ≠ 0 || c.thin then r
  else
    let from_ := r.pos + r.queue.length
    let more := ((List.range (min (r.pos + 64) (entries c) - from_)).map (from_ + ·)).takeWhile (entryLanded s.variant r)
    { r with queue := r.queue ++ more.map fun p => (p, readWeft s r (p / perBlk c) (p % perBlk c)) }

/-- A command as it issues: its first warp block, or the row buffer, is loaded and its stream begins. -/
def startRun (s : State) (tile : Nat) (c : MtxCmd) (claim : Nat) : MtxRun :=
  fillQueue s { cmd := c, claim, warp := if c.op = 0 && c.k ≠ 0 then some (loadWarp s tile c 0) else none }

/-- The target accumulators of an MMA at their initial values (R84). -/
def initAcc (acc : Table W32) (c : MtxCmd) : Table W32 :=
  if c.op ≠ 0 then acc
  else
    (List.range (outDims c.thin c.gang).1).foldl (fun acc m => (List.range c.n).foldl (fun acc n =>
      tset 0 acc (accKey c.outId c.tgtB m n) (if c.carry then tget 0 acc (accKey c.outId true m n) else 0)) acc) acc

/-- MATRIX_COMMAND_ISSUE: the scoreboard of a tile issues the oldest command that may issue. -/
def execMatrixCommandIssue (tile : Nat) (s : State) : Host.Outcome State Fault Refusal :=
  .next <| alive s fun s =>
    match loomOfTile s tile with
    | none => s
    | some l =>
      let t := getTile s tile
      match pickCmd tile t [] t.queue with
      | none => s
      | some c =>
        if c.op = 3 then
          setTile s tile { t with
            board := boardRetire t.board c.blkOff 0
            queue := t.queue.filter fun q => q.num != c.num }
        else match claimNow t c with
        | none => s
        | some k =>
          let b := (mtxSources tile c).foldl (fun b e => boardMod b e.1 e.2 (readerIssues c.num)) t.board
          let t : Tile := { t with
            board := b
            queue := t.queue.filter fun q => q.num != c.num
            binds := t.binds.map fun (q : Binding) => if q.outId = c.outId then { q with claim := some k } else q }
          let t :=
            if c.op = 2 then
              unbind { t with landing := t.landing ++ [drainLanding (getLoom s l).seed t c] } c.outId
            else
              let nx := if c.op = 1 then tset 0 t.segNext c.outId ((c.segIdx + 1) % c.nseg) else t.segNext
              { t with segNext := nx, acc := initAcc t.acc c, running := t.running ++ [startRun s tile c k] }
          setTile s tile (settleHeld t)

/-! ## The product (R61, R62, R65, R85, R88) -/

/-- The exact sum of K-block b's valid products of warp elements x and weft elements w (R61, R88), and whether a NaN was
among them. A sum that is exactly zero is +0, also where every product is -0: the manual gives it no sign (log 115). -/
def blockSum (k : Nat) (x w : Nat → FVal) (b : Nat) : FVal × Bool :=
  (List.range (min 32 (k - 32 * b))).foldl (fun acc i =>
    let x := x (32 * b + i)
    let w := w (32 * b + i)
    (vAdd acc.1 (vMul x w), acc.2 || x == .nan || w == .nan)) (.fin false 0 0, false)

/-- Add an exact block sum to a partial: one RNE rounding, or the INT32 saturation of R65; the flags of R54. -/
def addBlock (isInt : Bool) (p : W32) (v : FVal) (nanIn : Bool) : W32 × AFlags :=
  if isInt then
    let k : Int := match v with
      | .fin neg m e => toIntAt 0 neg m (max e 0)
      | _ => 0
    let (r, c) := satI32 (p.toInt + k)
    (BitVec.ofInt 32 r, if c then fIntSat else 0)
  else
    let r := f32Of (vAdd (f32Val p) v)
    (r, if f32IsNan r && !f32IsNan p && !nanIn then fInv else 0)

/-- Add a partial to the running value (R85). -/
def addPart (isInt : Bool) (a p : W32) : W32 × AFlags :=
  if isInt then let (r, c) := i32Add a p; (r, if c then fIntSat else 0) else fp2 f32Add a p

/-- K-block b is the last of its K-segment (R62). -/
def segEnds (c : MtxCmd) (b : Nat) : Bool := c.segTab.contains (b + 1) || b + 1 = kBlocks c.k

/-- An output element in progress: its running value, its segment partial, and its flags. -/
abbrev ElemSt := W32 × W32 × AFlags

/-- One K-block joins an output element: its sum is rounded into the segment partial; at the end of a segment the partial is
added to the running value and cleared (R61, R62, R85). -/
def addKBlock (c : MtxCmd) (x w : Nat → FVal) (q : ElemSt) (b : Nat) : ElemSt :=
  let isInt := c.warpFmt = 8
  let (v, nn) := blockSum c.k x w b
  let (p, fl) := addBlock isInt q.2.1 v nn
  if segEnds c b then
    let (r, fl') := addPart isInt q.1 p
    (r, 0, q.2.2 ||| fl ||| fl')
  else (q.1, p, q.2.2 ||| fl)

/-- The first n numbers from a. -/
def rangeFrom (a n : Nat) : List Nat := (List.range n).map (a + ·)

/-- K-blocks lo up to hi of output element (m, n), from where the accumulators and the partials stand. A target of INT32
that a CARRY of FP32 reads, or the reverse, is taken by its bits (log 116). -/
def elemBlocks (s : State) (tile : Nat) (acc : Table W32) (r : MtxRun) (m n lo hi : Nat) : ElemSt :=
  let c := r.cmd
  (rangeFrom lo (hi - lo)).foldl (addKBlock c (warpAt s tile r m) (fun k => weftAt s r k n))
    (tget 0 acc (accKey c.outId c.tgtB m n), tget 0 r.parts (m * 128 + n), 0)

/-- K-blocks of column n that have entered. -/
def blocksIn (r : MtxRun) (n : Nat) : Nat :=
  let c := r.cmd
  let j := if c.thin then n / patchCols c else n
  (if j < r.pos % perBlk c then r.pos / perBlk c + 1 else r.pos / perBlk c) * kPer c

/-- Put output elements into the accumulators and the partials; flags are those of valid rows. -/
def putElems (c : MtxCmd) (t : Tile) (r : MtxRun) (es : List (Nat × Nat × ElemSt)) : Tile × MtxRun :=
  ({ t with acc := es.foldl (fun a (m, n, e) => tset 0 a (accKey c.outId c.tgtB m n) e.1) t.acc },
   { r with
     parts := es.foldl (fun p (m, n, e) => tset 0 p (m * 128 + n) e.2.1) r.parts
     flags := es.foldl (fun f (m, _, e) => if m < c.m then f ||| e.2.2 else f) r.flags })

/-- The output elements of some columns, in every row of the output block: rows beyond M multiply a zero warp (R88). -/
def elemsOf (c : MtxCmd) (cols : List Nat) (f : Nat → Nat → ElemSt) : List (Nat × Nat × ElemSt) :=
  (List.range (outDims c.thin c.gang).1).flatMap fun m => cols.map fun n => (m, n, f m n)

/-- The next column, or patch, of a command enters and runs to its rounding (R80, R98). With the first column of a block the
next block's shadow load begins, and after the last the shadow swaps in (R80, R82). -/
def enterNext (s : State) (tile : Nat) (t : Tile) (r : MtxRun) : Tile × MtxRun :=
  let c := r.cmd
  let b := r.pos / perBlk c
  let es := elemsOf c (colsOf c r.pos) fun m n =>
    elemBlocks s tile t.acc r m n (b * kPer c) (min ((b + 1) * kPer c) (kBlocks c.k))
  let (t, r) := putElems c t r es
  let r := if r.pos % perBlk c = 0 && !c.thin && b + 1 < warpBlks c then { r with shadow := some (loadWarp s tile c (b + 1)) } else r
  let r := { r with pos := r.pos + 1, queue := r.queue.drop 1 }
  let r := if r.pos % perBlk c = 0 && !c.thin then { r with warp := r.shadow, shadow := none } else r
  (t, fillQueue s r)

/-- A tick of a tile's matrix engine: each command in flight whose next column or patch has landed lets it enter. Holding a
column longer changes no bit (R83, R107), so that a tick admits one is the model's choice (log 2). -/
def mtxTick (s : State) (tile : Nat) : State :=
  let t := getTile s tile
  let one := fun (acc : Tile × List MtxRun) (r : MtxRun) =>
    if r.pos < entries r.cmd && entryLanded s.variant r r.pos then
      let (t, r) := enterNext s tile acc.1 r
      (t, acc.2 ++ [r])
    else (acc.1, acc.2 ++ [r])
  let (t', rs) := t.running.foldl one (t, [])
  setTile s tile { t' with running := rs }

/-- Every tile at work for a holder ticks. -/
def mtxTicks (s : State) : State :=
  ((s.tiles.filter fun kv => !kv.2.running.isEmpty).map (·.1)).foldl
    (fun s tile => if (loomOfTile s tile).isSome then mtxTick s tile else s) s

/-- Output element (m, n) of a FOLD: the partial block's element joins the running value (R63, R104). Under INIT ZERO
the first segment starts from 0, and a later one from the target; under CARRY the first starts from acc B (log 21). -/
def foldElem (s : State) (tile : Nat) (t : Tile) (c : MtxCmd) (m n : Nat) : W32 × AFlags :=
  let p := BitVec.ofNat 32 (operandBits s (tileAddr tile c.blkOff) c.dstFmt c.n m n)
  let start :=
    if c.segIdx ≠ 0 then tget 0 t.acc (accKey c.outId c.tgtB m n)
    else if c.carry then tget 0 t.acc (accKey c.outId true m n) else 0
  addPart (c.dstFmt = 9) start p

/-- What a command leaves at its last rounding: a FOLD its sums, an MMA whatever columns had not entered yet. -/
def lastElems (s : State) (tile : Nat) (t : Tile) (r : MtxRun) : List (Nat × Nat × ElemSt) :=
  let c := r.cmd
  if c.op = 1 then
    (List.range c.m).flatMap fun m => (List.range c.n).map fun n => (m, n, (foldElem s tile t c m n).1, 0, (foldElem s tile t c m n).2)
  else elemsOf c (List.range c.n) fun m n => elemBlocks s tile t.acc r m n (blocksIn r n) (kBlocks c.k)

/-- What a command reads of the stacks at its last rounding: the scale plane of a weft there. A unit of weft is read when it
is staged. -/
def mtxStackReads (v : Variant) (c : MtxCmd) : List (Nat × Nat) :=
  if c.op = 0 && c.k ≠ 0 && isMx c.weftFmt && weftStaged v c then [(c.weftSc, c.weftScBytes)] else []

/-- Whether the operands of a command meet poison (R177, R185): its blocks in the tile's own store, MX scale planes among
them, and what it reads of the stacks. -/
def mtxPoison (s : State) (tile : Nat) (c : MtxCmd) : Bool :=
  (mtxSources tile c).any (fun k => tsPoison s tile k.1 k.2) || (mtxStackReads s.variant c).any fun r => poisonHit s r.1 r.2

/-- MATRIX_LAST_ROUNDING: a command in flight whose weft has been staged enters its last block sum: its accumulators
hold their values, its readers are done, its flags reach its strand. A poisoned operand stops the loom. -/
def execMatrixLastRounding (tile num : Nat) (s : State) : Host.Outcome State Fault Refusal :=
  .next <| alive s fun s =>
    let t := getTile s tile
    match t.running.find? fun r => r.cmd.num = num with
    | none => s
    | some r =>
      if r.staged.length < weftUnits s.variant r.cmd then s
      else
        let c := r.cmd
        let (t, r) := putElems c t r (lastElems s tile t r)
        let b := (mtxSources tile c).foldl (fun b k => boardMod b k.1 k.2 (readerDone num)) t.board
        let t' := settleHeld { t with board := b, running := t.running.filter fun q => q.cmd.num != num }
        let s' := modStrand (setTile s tile t') { tile, strand := c.strand } (·.flag r.flags)
        if mtxPoison s tile c then
          match ownerOfTile s tile with
          | some l => loomUncorr (meetUnits s' (some l) (mtxStackReads s.variant c)) l tile c.strand
          | none => s'
        else s'

/-- A unit of a command's weft lands in staging (R95); the columns it completes enter their queue. A poisoned unit stops the
loom (R185). Where in the tile store a unit is staged is not given, so the model holds its bytes with the command (log 117). -/
def weftUnitLands (s : State) (tile num : Nat) : State :=
  let t := getTile s tile
  match t.running.find? fun r => r.cmd.num = num with
  | none => s
  | some r =>
    let u := r.staged.length
    if weftUnits s.variant r.cmd ≤ u then s
    else
      let at_ := r.cmd.weftAddr + u * 65536
      let n := min 65536 (r.cmd.weftBytes - u * 65536)
      let put := fun (q : MtxRun) =>
        if q.cmd.num = num then fillQueue s { q with staged := q.staged ++ [rdN s at_ n] } else q
      let s' := setTile s tile { t with running := t.running.map put }
      if poisonHit s at_ n then
        match ownerOfTile s tile with
        | some l => loomUncorr (meetUnits s' (some l) [(at_, n)]) l tile r.cmd.strand
        | none => s'
      else s'

/-- SCOREBOARD_WRITE_LANDS: the write of a drain lands in its blocks once every earlier use of them is over (R103, R499); the
drain's flags reach its strand (R128). -/
def execScoreboardWriteLands (tile num : Nat) (s : State) : Host.Outcome State Fault Refusal :=
  .next <| alive s fun s =>
    let t := getTile s tile
    match t.landing.find? fun w => w.num = num with
    | none => s
    | some w =>
      if !landingReady t w then s
      else
        match w.blocks.findSome? fun b => uncopied s (tileAddr tile b.1) b.2 with
        | some kb => holdCopy s [tile, num, 0, 0] kb
        | none =>
          let t' := settleHeld { t with
            landing := t.landing.filter fun q => q.num != num
            board := w.blocks.foldl (fun b k => boardMod b k.1 k.2 (writeLands num)) t.board }
          let s' := setTile s tile t'
          let s' := landWrite s' tile w
          let s' := modStrand s' { tile, strand := w.strand } (·.flag w.flags)
          if (w.stores s tile).any fun ob => writeBlocked s ob.1 1 then
            match ownerOfTile s tile with
            | some l => loomUncorr s' l tile w.strand
            | none => s'
          else s'

end Sys2Proof.Machine
end

