-- ==== Sys2Proof/Machine/Async.lean ====
section
/-! DEFINITION. Asynchronous operations (R142 to R145, R157): their issue, with the descriptor read once (R118), the
scoreboard entries of their destinations (R105, R135), and what every completion does with poison (R177, R185), with
writes that a publication holds (R358), and with the tag. -/
namespace Sys2Proof.Machine

/-- The blocks among some ranges that lie in tile stores: tile, offset and bytes (R102, R135). -/
def tileBlocks (v : Variant) (rs : List (Nat × Nat)) : List (Nat × Nat × Nat) :=
  (rs.filterMap fun r => if r.2 = 0 then none else match place v r.1 with
    | .tile t o => some (t, o, r.2)
    | _ => none).eraseDups

/-- The tiles in whose scoreboards blocks are held. -/
def blockTiles (bs : List (Nat × Nat × Nat)) : List Nat := (bs.map (·.1)).eraseDups

/-- The tiles whose scoreboard has no room for the blocks of an operation (R105). -/
def boardFull (s : State) (bs : List (Nat × Nat × Nat)) : List Nat :=
  (blockTiles bs).filter fun t =>
    let b := (getTile s t).board
    boardSize < b.length + boardNeeds b ((bs.filter fun k => k.1 = t).map (·.2))

/-- Register the blocks that an operation reads and writes, each in the scoreboard of its tile (R102, R103): the blocks of a
transfer that ends in another tile's store are held there, where that tile's commands wait for them. -/
def queueBlocks (s : State) (num : Nat) (reads writes : List (Nat × Nat × Nat)) : State :=
  let put := fun (w : Bool) (s : State) (k : Nat × Nat × Nat) =>
    modTile s k.1 fun t => { t with board := boardQueue t.board k.2.1 k.2.2 num w }
  writes.foldl (put true) (reads.foldl (put false) s)

/-- The uses of an operation are over: its reads have been made and its writes have landed. -/
def endBlocks (s : State) (o : AsyncOp) : State :=
  let put := fun (f : SbEntry → SbEntry) (s : State) (k : Nat × Nat × Nat) =>
    modTile s k.1 fun t => settleHeld { t with board := boardMod t.board k.2.1 k.2.2 f }
  o.writes.foldl (put (writeLands o.num)) (o.reads.foldl (put (readerPasses o.num)) s)

/-- Issue an asynchronous instruction: its fields (R498), its descriptor of 64 B, the checks k makes, the limit of 32
incomplete operations (R144), a further stall, and the scoreboard entries of the blocks it reads and writes. Its tag goes to
SD, and the bytes of an RD count as outstanding (R191). lists names what k reads from memory. -/
def asyncIssue (cls op : Nat) (usesB : Bool) (kind : AsyncKind) (a : Issuer) (f : FmtD) (s : State)
    (k : Nat → Strand → List Byte → Except Byte AsyncOp) (waits : AsyncOp → Bool)
    (reads writes : AsyncOp → List (Nat × Nat)) (lists : State → Nat → List Byte → List (Nat × Nat) := fun _ _ _ => []) :
    State :=
  issue s a (wordD cls op f) fun l y =>
    if !(plainD f && f.inl = 0 && (usesB || f.sb = 0)) then .fault stBad
    else
      match descriptor s a.tile (y.sget f.sa.toNat) 64 with
      | .error st => .fault st
      | .ok d =>
        match k l y d with
        | .error st => if st = stUncorr then .poisoned (lists s l d) else .fault st
        | .ok o =>
          if 32 ≤ y.incomplete.length || waits o then .stall
          else
            let rs := tileBlocks s.variant (reads o)
            let ws := tileBlocks s.variant (writes o)
            match boardFull s (rs ++ ws) with
            | t :: _ => if boardStuck s t then .fault stFull else .stall
            | [] =>
              let o : AsyncOp :=
                { o with strand := a.strand, tag := y.tagNext, kind, num := s.nextNum, reads := rs, writes := ws }
              let out := if kind = .rmtRd then o.len else 0
              let s := queueBlocks { s with nextNum := s.nextNum + 1 } o.num rs ws
              let s := modTile s a.tile fun t => { t with ops := t.ops ++ [o], rmtOut := t.rmtOut + out }
              .done (modStrand s a fun y => (y.takeTag kind f.sd.toNat).next)

/-- The operation of a tag. -/
def opOf (t : Tile) (strand : Nat) (tag : BitVec 16) : Option AsyncOp :=
  t.ops.find? fun o => o.strand = strand && o.tag = tag

/-- Some source or destination of a loom's operation meets a POISONED group or a poisoned word (R177, R185, R186). -/
def opPoison (s : State) (x : Loom) (srcs dsts : List (Nat × Nat)) : Bool :=
  (srcs.any fun r => poisonVia s x r.1 r.2) || (dsts.any fun r => blockedVia s x r.1 r.2)

/-- The destination of an operation that met poison: no word of a POISONED group is written, and every other byte holds a
free value (R177). -/
def spoil (s : State) (dsts : List (Nat × Nat)) : State :=
  dsts.foldl (fun s r =>
    let (k, s) := drawFree s 1
    (List.range r.2).foldl (fun s i =>
      if writeBlocked s (r.1 + i) 1 then s else wrN s (r.1 + i) [Config.freeByte k i]) s) s

/-- The operation is over: its blocks land, it leaves the tile, its tag completes. -/
def opEnd (s : State) (tile : Nat) (o : AsyncOp) (st : Byte) (high : W32 := 0) (fl : W64 := 0) : State :=
  let s := modTile (endBlocks s o) tile fun t => { t with ops := t.ops.filter fun q => !(q.strand = o.strand && q.tag = o.tag) }
  completeTag s { tile, strand := o.strand } o.tag st high fl

/-- Complete an operation of a tile that reads srcs and writes dsts: it waits while its rows' agents hold it or an earlier use
of a block is not over; an uncopied block under its destination is copied first; poison ends it with UNCORRECTED and
stops its loom; else `go` moves the data and gives the high word and the flags. -/
def opComplete (s : State) (a : Issuer) (tag : BitVec 16) (kinds : List AsyncKind)
    (srcs dsts : AsyncOp → List (Nat × Nat)) (go : State → Nat → AsyncOp → State × W32 × W64) : State :=
  match opOf (getTile s a.tile) a.strand tag, ownerOfTile s a.tile with
  | some o, some l =>
    if !kinds.contains o.kind then s
    else
      let x := getLoom s l
      if !opReady s o then s
      else if rowsWait s l (.op a.tile a.strand tag.toNat) (srcs o ++ dsts o) then
        holdRows s l (.op a.tile a.strand tag.toNat) (srcs o ++ dsts o)
      else
        match (dsts o).findSome? fun r => uncopied s r.1 r.2 with
        | some kb => holdCopy s [a.tile, a.strand, tag.toNat] kb
        | none =>
          if opPoison s x (srcs o) (dsts o) then
            loomUncorr (opEnd (spoil (meetUnits s (some l) (srcs o)) (dsts o)) a.tile o stUncorr) l a.tile a.strand
          else
            let (s', high, fl) := go s l o
            let s' := opEnd ((dsts o).foldl (fun s r => clearVia s x r.1 r.2) s') a.tile o stOk high fl
            rowsServed s' l (.op a.tile a.strand tag.toNat)
  | _, _ => s

/-- The checks of R129 on ranges an operation names, each with its element size: the first status that is not OK. -/
def rangesOk (s : State) (x : Loom) (rs : List (Nat × Nat × Nat)) : Byte :=
  worst (rs.map fun r => if r.2.1 = 0 then (if r.1 % r.2.2 = 0 then stOk else stBad)
    else accStatus s.variant x r.1 r.2.1 r.2.2)

end Sys2Proof.Machine
end

