-- ==== Sys2Proof/Machine/Copies.lean ====
section
/-! DEFINITION. The source blocks of a pick (R352): where they lie, the copy of one (R351, R354, R357, R185), and the write
that takes the blocks under it first (R358). -/
namespace Sys2Proof.Machine

/-- Where source block b lies: its entry and the offset in the entry (R352). -/
def blockAt : List SrcEntry → Nat → Option (SrcEntry × Nat)
  | [], _ => none
  | e :: r, b => if b < entryBlocks e then some (e, b * 65536) else blockAt r (b - entryBlocks e)

/-- Blocks of a source. -/
def blockCount (w : Weave) : Nat := (w.src.map entryBlocks).sum

/-- Image bytes of source bytes (R354). -/
def imageOf (e : SrcEntry) (d : List Byte) : List Byte :=
  if !e.convert then d
  else (List.range (d.length / 4)).flatMap fun i =>
    toLe (fmtBytes e.fmt) (encode e.fmt .rne e.sat (f32Val (BitVec.ofNat 32 (fieldAt d (4 * i) 4)))).1

/-- Where the bytes of a range of an object lie. -/
def objRanges (x : Loom) (obj off n : Nat) : List (Nat × Nat) :=
  (List.range n).filterMap fun i => (objAddr x obj (off + i)).map (·, 1)

/-- A byte range of an object meets poison. -/
def objPoison (s : State) (x : Loom) (obj off n : Nat) : Bool := (objRanges x obj off n).any fun r => poisonHit s r.1 1

/-- A block is read and converted, and its image bytes go to the back beam of every taking generator. A copy that meets poison
stops the generators it is made for (R185), and is abandoned for each: no beam turns FULL without the block (R351, R359). -/
def takeBlock (s : State) (k b : Nat) : State :=
  let w := getWeave s k
  match blockAt w.src b with
  | none => s
  | some (e, o) =>
    if w.pub ≠ .copying || w.copied.contains b then s
    else
      let x := getLoom s w.learner
      let n := min 65536 (e.len - o)
      let img := imageOf e (objBytes s x e.obj (e.srcOff + o) n)
      let at_ := 0x1000 + e.imgOff + (if e.convert then o / 4 * fmtBytes e.fmt else o)
      let bad := objPoison s x e.obj (e.srcOff + o) n
      let s := modWeave s k fun w => { w with copied := w.copied ++ [b] }
      if bad then
        w.taking.foldl (fun s g => abandonTaking (loomUncorr s g) k g) (meetUnits s w.taking.head? (objRanges x e.obj (e.srcOff + o) n))
      else w.taking.foldl (fun s g => objWrite s (getLoom s g) (getLoom s g).shed.backBeam.obj at_ img) s

/-- A write of n bytes that does not wait on its own takes each uncopied block under it first, at level 1 (R358). -/
def copyFirstGo (who : List Nat) (a n : Nat) : Nat → State → State
  | 0, s => s
  | fuel + 1, s =>
    match uncopied s a n with
    | none => s
    | some kb => copyFirstGo who a n fuel (takeBlock (holdCopy s who kb) kb.1 kb.2)
def copyFirst (s : State) (who : List Nat) (a n : Nat) : State := copyFirstGo who a n (8 * (n / 65536 + 2) + 256) s

end Sys2Proof.Machine
end

