-- ==== Sys2Proof/Machine/CollOps.lean ====
section
/-! DEFINITION. What collectives share: the
stages of a member (R265, R269), orders (R271 to R273), contributions and compression (R288 to R290, R314), and the
scalar of the norm (R291). -/
namespace Sys2Proof.Machine

/-! ## Words and bytes -/

/-- Words to bytes and back. -/
def wordsBytes (l : List W32) : List Byte := l.flatMap fun w => toLe 4 w.toNat
def bytesWords (bs : List Byte) (n : Nat) : List W32 := (List.range n).map fun i => BitVec.ofNat 32 (fieldAt bs (4 * i) 4)

/-! ## The place of a member (R264, R265) -/

/-- Give an operation its member's place: rank factors, stages, member index. -/
def placeMember (s : State) (x : Loom) (rank : Nat) (o : CollOp) : CollOp :=
  let i0 := rank % o.a0
  let i1 := rank / o.a0 % o.a1
  let i2 := rank / (o.a0 * o.a1) % o.a2
  let p := o.a0 * o.a1 * o.a2
  let b := boxCoord s x
  let e := boxExtent x
  let box := b.1 + e.1 * (b.2.1 + e.2.1 * b.2.2)
  { o with
    rank
    g := rank / p
    members := p * (e.1 * e.2.1 * e.2.2)
    index := rank % p + p * box
    box
    stages := [(0, o.a0, i0), (1, o.a1, i1), (2, o.a2, i2), (3, e.1, b.1), (4, e.2.1, b.2.1), (5, e.2.2, b.2.2)].filter
      fun t => t.2.1 ≠ 1 }

/-- The chunks a member owns after a stage (R269). -/
def ownedOf (region : List Nat) (n p : Nat) : List Nat :=
  (List.range (region.length / n)).map fun r => region.getD (r * n + p) 0

/-- The region before stage i. -/
def regionAt (full : Nat) (stages : List (Nat × Nat × Nat)) (i : Nat) : List Nat :=
  (stages.take i).foldl (fun r t => ownedOf r t.2.1 t.2.2) (List.range full)

/-- Chunks of the full buffer of an operation. -/
def fullChunks (o : CollOp) : Nat :=
  if o.kind = .ag then o.elems / 1024 * (o.stages.foldl (fun m t => m * t.2.1) 1) else o.elems / 1024

/-! ## Values -/

/-- An element of SRC widened to FP32, or INT32 bits (R69). -/
def srcElem (s : State) (o : CollOp) (i : Nat) : W32 :=
  let b := rd s (o.src + i * fmtBytes o.srcFmt) (fmtBytes o.srcFmt)
  if o.srcFmt = 9 then BitVec.ofNat 32 b else f32Of (elemVal o.srcFmt b)

/-- What a member contributes for element e of a chunk at its current stage: SRC at the first, else its FP32 sums. -/
def contribElem (s : State) (o : CollOp) (chunk e : Nat) : W32 :=
  if o.stage = 0 then srcElem s o (chunk * 1024 + e) else tget 0 o.partials (chunk * 1024 + e)
def contribVec (s : State) (o : CollOp) (chunk : Nat) : List W32 := (List.range 1024).map (contribElem s o chunk)

/-- One addition or maximum of a collective, with its flags (R65, R69, R70). -/
def collAdd (o : CollOp) (a b : W32) : W32 × AFlags :=
  if o.srcFmt = 9 then
    if o.max then ((if a.slt b then b else a), 0) else let (r, c) := i32Add a b; (r, if c then fIntSat else 0)
  else if o.max then fp2 f32Max a b else fp2 f32Add a b
def collAddVec (o : CollOp) (a b : List W32) : List W32 × AFlags :=
  let r := (a.zip b).map fun p => collAdd o p.1 p.2
  (r.map (·.1), r.foldl (fun f p => f ||| p.2) 0)

/-- Squares by the rule of R152: runs of 32 by the tree of R67, run sums in ascending order from 0.0; absent values are
absent leaves. -/
def sumSquares (vals : List (Option W32)) : W32 :=
  let runs := (List.range ((vals.length + 31) / 32)).map fun r => (vals.drop (32 * r)).take 32
  runs.foldl (fun acc run =>
    let run := run ++ List.replicate (32 - run.length) none
    match (treeFold (fun a b => (f32Add a b, 0)) 5 (run.map fun v => v.map fun w => f32Mul w w)).1 with
    | some t => f32Add acc t
    | none => acc) 0

/-! ## Compression (R288 to R290) -/

/-- Rank of a value for TOPK by magnitude or by value: a NaN below every number, ties to the lower index (R75, R151). -/
def topkBefore (mag : Bool) (a b : Nat × W32) : Bool :=
  let key := fun w : W32 => if w &&& 0x7fffffff = 0 then 0 else f32Key (if mag then w &&& 0x7fffffff else w)
  match f32IsNan a.2, f32IsNan b.2 with
  | true, true => a.1 < b.1
  | true, false => false
  | false, true => true
  | false, false => if key a.2 = key b.2 then a.1 < b.1 else key b.2 < key a.2

/-- The K first of a list of values in rank order, with their indices. -/
def topkSel (mag : Bool) (k : Nat) (vals : List W32) : List (Nat × W32) :=
  (((List.range vals.length).zip vals).mergeSort (topkBefore mag)).take k

/-- Pack numbers of w bits, the first lowest. -/
def packBits (w : Nat) : List Nat → Nat
  | [] => 0
  | x :: r => x + 2 ^ w * packBits w r

/-- A TOPK payload (Table 8-6), with the flags of its conversions to BF16 (R54). -/
def topkPack (k : Nat) (vals : List W32) : List Byte × AFlags :=
  let es := ((topkSel true k vals).mergeSort fun a b => a.1 ≤ b.1).map fun p => (p.1, encode 1 .rne false (f32Val p.2))
  let n := packBits 26 (es.map fun e => e.1 + 2 ^ 10 * e.2.1)
  (toLe 8 k ++ toLe ((26 * k + 63) / 64 * 8) n, es.foldl (fun f e => f ||| e.2.2) 0)

/-- Decompress a TOPK payload. -/
def topkUnpack (bs : List Byte) : List W32 :=
  let k := fieldAt bs 0 8 % 2048
  let n := leNat (bs.drop 8)
  let es := (List.range k).map fun i => let e := (n >>> (26 * i)) % 2 ^ 26; (e % 1024, e / 1024)
  (List.range 1024).map fun i => match es.find? fun e => e.1 = i with
    | some e => f32Of (elemVal 1 e.2)
    | none => 0

/-- Scale b of a SIGN contribution: the sum of 32 magnitudes by the tree of R67, times 2^-5; NaN when one is. With its flags. -/
def signScale (vals : List W32) (b : Nat) : W32 × AFlags :=
  let run := (vals.drop (32 * b)).take 32
  if run.any f32IsNan then (f32Nan, 0)
  else
    let (t, fl) := treeFold (fp2 f32Add) 5 (run.map fun w => some (w &&& 0x7fffffff))
    let (r, fl') := fp2 f32Mul (t.getD 0) 0x3D000000
    (r, fl ||| fl')

/-- A SIGN payload (R290), with the flags of its sums. -/
def signPack (vals : List W32) : List Byte × AFlags :=
  let sc := (List.range 32).map (signScale vals)
  (wordsBytes (sc.map (·.1)) ++
    (List.range 128).map fun j => BitVec.ofNat 8 (packBits 1 ((List.range 8).map fun i =>
      if (vals.getD (8 * j + i) 0).getLsbD 31 then 1 else 0)),
   sc.foldl (fun f p => f ||| p.2) 0)

/-- Decompress a SIGN payload: −scale or +scale. -/
def signUnpack (bs : List Byte) : List W32 :=
  (List.range 1024).map fun i =>
    let sc : W32 := BitVec.ofNat 32 (fieldAt bs (4 * (i / 32)) 4)
    if (bs.getD (128 + i / 8) 0).getLsbD (i % 8) then sc ^^^ 0x80000000 else sc

/-- Compress and decompress as an operation says. -/
def compPack (o : CollOp) (vals : List W32) : List Byte × AFlags := if o.comp = 1 then topkPack o.ksel vals else signPack vals
def compUnpack (o : CollOp) (bs : List Byte) : List W32 := if o.comp = 1 then topkUnpack bs else signUnpack bs
/-- Bytes of a compressed contribution. -/
def compLen (o : CollOp) : Nat := if o.comp = 1 then 8 + (26 * o.ksel + 63) / 64 * 8 else 256

/-! ## Accumulators and residuals (R313, R314, R316) -/

/-- The residual element of the accumulator element at an address. -/
def residualAt (v : Variant) (x : Loom) (a : Nat) : Option Nat :=
  x.lrn.binds.findSome? fun b =>
    if b.kind = 2 then
      match objOff v x b.acc a with
      | some off =>
        if b.accOff ≤ off / 4 && off / 4 < b.accOff + b.elems then objAddr x b.copy0 (4 * (off / 4 - b.accOff)) else none
      | none => none
    else none

/-- The parameter group of the accumulator element at an address. -/
def groupAt (v : Variant) (x : Loom) (a : Nat) : Option Nat :=
  x.lrn.binds.findSome? fun b =>
    if b.kind = 1 then
      match objOff v x b.acc a with
      | some off => if b.accOff ≤ off / 4 && off / 4 < b.accOff + b.elems then some b.group else none
      | none => none
    else none

end Sys2Proof.Machine
end

