-- ==== Sys2Proof/Machine/CollRun.lean ====
section
/-! DEFINITION. A collective as one member runs it: reduction stage by stage on rings and lines (R269 to R273), compressed
stages (R288, R314), gathering (R269, R270), the scalars of the norm (R291), shifts and permutations (R292), and the
expert exchange (R293 to R296). A member's writes are gathered and made when it completes (R157); the sums that R270
keeps at WORK are among them. -/
namespace Sys2Proof.Machine

/-- What a step of a member comes to: the state, the operation, the frames it sends with the coordinate or member index
they go to, and whether it met poison (R177, R185). -/
structure CollOut where
  s : State
  op : CollOp
  sent : List (Nat × Frame) := []
  poison : Bool := false

/-- The bytes of a word list at an address. -/
def putBytes (a : Nat) (bs : List Byte) : List (Nat × Byte) := (List.range bs.length).zip bs |>.map fun p => (a + p.1, p.2)

/-! ## Norm scalars (R291) -/

/-- Where a frame goes first on an axis: the next member of a ring, both neighbours of a line. -/
def firstHops (v n p : Nat) : List Nat :=
  if v = 0 then [(p + 1) % n]
  else
    let k := posOf v n p
    (if k + 1 < n then [coordAt v n (k + 1)] else []) ++ (if 0 < k then [coordAt v n (k - 1)] else [])

/-- Where a frame of coordinate `home` that came from a neighbour goes on to: along the ring until its home is next, or on
along the line. -/
def nextHops (v n p sender home : Nat) : List Nat :=
  if v = 0 then let q := (p + 1) % n; if q = home then [] else [q]
  else
    let k := posOf v n p
    if posOf v n sender < k then (if k + 1 < n then [coordAt v n (k + 1)] else [])
    else (if 0 < k then [coordAt v n (k - 1)] else [])

/-- Begin a stage of the norm: the own scalar is sent; past the last stage the norm stands. -/
def startScalar (x : Loom) (c : CollOut) : CollOut :=
  let o := c.op
  match o.stages[o.sqStage]? with
  | none => { c with op := { o with sqDone := true } }
  | some (ax, n, p) =>
    let v := modeOfAxis o.orderTag ax
    { c with
      op := { o with scalars := [(ax, p, o.sq)] }
      sent := c.sent ++ (firstHops v n p).map fun q => (q, mkFrame x o fkScalar ax 0 p p o.sq []) }

/-- Use a SCALAR frame: its value is kept and passed on; with every coordinate's, they are added from 0.0 in ascending
coordinate and the next stage begins. -/
def useScalar (x : Loom) (c : CollOut) (f : Frame) : Option CollOut :=
  let o := c.op
  match o.stages[o.sqStage]? with
  | none => none
  | some (ax, n, p) =>
    if !o.norm || o.sqDone || o.scalars.isEmpty || f.stage.toNat ≠ ax then none
    else
      let home := f.chunk.toNat
      if o.scalars.any fun t => t.2.1 = home then some c
      else
        let v := modeOfAxis o.orderTag ax
        let o := { o with scalars := o.scalars ++ [(ax, home, f.side)] }
        let c := { c with
          op := o
          sent := c.sent ++ (nextHops v n p f.sender.toNat home).map fun q =>
            (q, mkFrame x o fkScalar ax 0 home p f.side []) }
        if o.scalars.length < n then some c
        else
          let sum := (List.range n).foldl (fun acc k =>
            f32Add acc (match o.scalars.find? fun t => t.2.1 = k with
              | some t => t.2.2
              | none => 0)) 0
          some (startScalar x { c with op := { o with sq := sum, sqStage := o.sqStage + 1, scalars := [] } })

/-! ## Gathering (R69, R269, R270) -/

/-- Bytes of a chunk in DST_FMT. -/
def finalLen (o : CollOp) : Nat := 1024 * fmtBytes o.dstFmt

/-- Begin a gathering stage: every owned chunk of it is sent; after the last one every chunk is at DST. -/
def startGather (x : Loom) (c : CollOut) : CollOut :=
  let o := c.op
  match o.gather with
  | none => c
  | some 0 =>
    { c with op := { o with
      gather := none
      bytes := o.bytes ++ o.finals.flatMap fun kv => putBytes (o.dst + kv.1 * finalLen o) kv.2
      received := 1 } }
  | some (i + 1) =>
    match o.stages[i]? with
    | none => c
    | some (ax, n, p) =>
      let v := modeOfAxis o.orderTag ax
      let region := regionAt (fullChunks o) o.stages i
      let mine := (List.range (region.length / n)).map fun r => (r, tget [] o.finals (region.getD (r * n + p) 0))
      { c with
        op := { o with got := [] }
        sent := c.sent ++ mine.flatMap fun m => (firstHops v n p).map fun q => (q, mkFrame x o fkFinal ax m.1 p p 0 m.2) }

/-- Use a FINAL frame: its chunk is kept unchanged and passed on; with every chunk of the stage, the next begins. -/
def useFinal (x : Loom) (c : CollOut) (f : Frame) : Option CollOut :=
  let o := c.op
  match o.gather with
  | some (i + 1) =>
    match o.stages[i]? with
    | none => none
    | some (ax, n, p) =>
      if f.stage.toNat ≠ ax then none
      else
        let r := f.round.toNat
        let home := f.chunk.toNat
        if home = p || o.got.contains (r, home) then some c
        else
          let region := regionAt (fullChunks o) o.stages i
          let v := modeOfAxis o.orderTag ax
          let o := { o with
            got := o.got ++ [(r, home)]
            finals := tput o.finals (region.getD (r * n + home) 0) f.payload }
          let c := { c with
            op := o
            sent := c.sent ++ (nextHops v n p f.sender.toNat home).map fun q =>
              (q, mkFrame x o fkFinal ax r home p 0 f.payload) }
          if o.got.length < region.length / n * (n - 1) then some c
          else some (startGather x { c with op := { o with gather := some i } })
  | _ => none

/-! ## The end of a reduction -/

/-- Round a sum to DST_FMT (R69, R270): its bits and flags; index is the element's in the full buffer. -/
def finalElem (seed : W64) (o : CollOp) (index : Nat) (w : W32) : Nat × AFlags :=
  if o.srcFmt = 9 then
    if o.dstFmt = 9 then (w.toNat, 0)
    else encode o.dstFmt (modeOf o.rnd (srBits seed o.stream o.tensorId (BitVec.ofNat 64 (o.elem0 + index)))) o.sat
      (ofInt w.toInt 0 false)
  else if o.dstFmt = 0 then ((f32Canon w).toNat, 0)
  else encode o.dstFmt (modeOf o.rnd (srBits seed o.stream o.tensorId (BitVec.ofNat 64 (o.elem0 + index)))) o.sat (f32Val w)

/-- The FP32 value of a sum for the norm. -/
def normVal (o : CollOp) (w : W32) : W32 := if o.srcFmt = 9 then f32Of (ofInt w.toInt 0 false) else w

/-- The owned sums of a watched group, in DST order, with other elements absent (R316). -/
def gradSum (v : Variant) (x : Loom) (o : CollOp) (sums : List (Nat × W32)) (g : Nat) : W32 :=
  sumSquares (sums.map fun p => if groupAt v x (o.src + p.1 * fmtBytes o.srcFmt) = some g then some (normVal o p.2) else none)

/-- After the last stage: the norm's scalar and the watched sums from the unrounded sums, then the one rounding (R69,
R270, R291), and the gathering of an AR. -/
def finishReduce (x : Loom) (c : CollOut) : CollOut :=
  let o := c.op
  let sums := o.region.flatMap fun k => (List.range 1024).map fun e => (k * 1024 + e, contribElem c.s o k e)
  let sq := if o.norm then sumSquares (sums.map fun p => some (normVal o p.2)) else 0
  let grads := if o.norm then x.lrn.watched.map fun g => (g, gradSum c.s.variant x o sums g) else []
  let enc := sums.map fun p => finalElem x.seed o p.1 p.2
  let fl := enc.foldl (fun f p => f ||| p.2) (0 : AFlags)
  let bs := enc.flatMap fun p => toLe (fmtBytes o.dstFmt) p.1
  let o := { o with sq, grads, flags := o.flags ||| fl, sqDone := !o.norm }
  let c :=
    if o.kind = .ar then
      let finals := (List.range o.region.length).foldl (fun t i =>
        tput t (o.region.getD i 0) (slice bs (i * finalLen o) (finalLen o))) ([] : Table (List Byte))
      startGather x { c with op := { o with finals, gather := some o.stages.length } }
    else { c with op := { o with bytes := o.bytes ++ putBytes o.dst bs, received := 1 } }
  if o.norm then startScalar x c else c

/-! ## Reduction stages -/

/-- The residual words of a member's contribution to a chunk, by element. -/
def residualWords (v : Variant) (x : Loom) (o : CollOp) (chunk : Nat) : List (Option Nat) :=
  (List.range 1024).map fun e => residualAt v x (o.src + (chunk * 1024 + e) * fmtBytes o.srcFmt)

/-- Compress a member's contribution to a chunk and keep what it left out in the residual (R288, R314): an uncopied block under
a word is copied first (R358), and no word is written when one meets poison (R177, R185, R186). -/
def compressChunk (x : Loom) (c : CollOut) (chunk : Nat) : CollOut × List Byte :=
  let o := c.op
  let ws := residualWords c.s.variant x o chunk
  let vals := ((List.range 1024).zip ws).map fun (e, w) =>
    let r : W32 := match w with
      | some a => BitVec.ofNat 32 (rd c.s a 4)
      | none => 0
    fp2 f32Add (contribElem c.s o chunk e) r
  let (bs, fl) := compPack o (vals.map (·.1))
  let left := (vals.zip (compUnpack o bs)).map fun p => fp2 f32Sub p.1.1 p.2
  let fl := left.foldl (fun f p => f ||| p.2) (vals.foldl (fun f p => f ||| p.2) fl)
  let c := { c with op := { o with flags := o.flags ||| fl } }
  if ws.any fun w => w.any fun a => poisonVia c.s x a 4 || blockedVia c.s x a 4 then ({ c with poison := true }, bs)
  else
    let s := (ws.zip left).foldl (fun s p => match p.1 with
      | some a => wr (copyFirst s [o.strand, o.tag.toNat] a 4) a 4 p.2.1.toNat
      | none => s) c.s
    ({ c with s }, bs)

/-- Where a contribution to an owner goes from here: on along the ring, or along the line toward the owner. -/
def towardOwner (v n p owner : Nat) : List Nat :=
  if p = owner then []
  else if v = 0 then [(p + 1) % n]
  else
    let k := posOf v n p
    [coordAt v n (if k < posOf v n owner then k + 1 else k - 1)]

/-- Begin a reduction stage: on a plain ring the chunk of the member before is sent, on a line the ends send; on a
compressed stage every contribution is compressed, kept or sent. -/
def startStage (x : Loom) (c : CollOut) : CollOut :=
  let o := c.op
  match o.stages[o.stage]? with
  | none => finishReduce x c
  | some (ax, n, p) =>
    let v := modeOfAxis o.orderTag ax
    let rounds := List.range (o.region.length / n)
    let at_ := fun r k => o.region.getD (r * n + k) 0
    if o.comp ≠ 0 && 3 ≤ ax then
      rounds.foldl (fun c r => (List.range n).foldl (fun c k =>
        let (c, bs) := compressChunk x c (at_ r k)
        if k = p then { c with op := { c.op with contribs := c.op.contribs ++ [(r, k, p, compUnpack c.op bs)] } }
        else { c with sent := c.sent ++ (towardOwner v n p k).map fun q => (q, mkFrame x o fkContrib ax r k p 0 bs) }) c) c
    else
      let own := fun r k => wordsBytes (contribVec c.s o (at_ r k))
      let send := fun r k q => (q, mkFrame x o fkPartial ax r k p 0 (own r k))
      let frames :=
        if v = 0 then rounds.map fun r => send r ((p + n - 1) % n) ((p + 1) % n)
        else
          let i := posOf v n p
          rounds.flatMap fun r =>
            (if i = 0 then (List.range (n - 1)).map fun j => send r (coordAt v n (j + 1)) (coordAt v n 1) else [])
            ++ (if i = n - 1 then (List.range (n - 1)).map fun j => send r (coordAt v n j) (coordAt v n (n - 2)) else [])
      { c with sent := c.sent ++ frames }

/-- The frames a member must pass on in a round of a stage, so that every other owner gets its sum: on a ring all chunks
but its own and the one it begins; on a line those whose owners lie beyond it; compressed, every contribution whose way
from contributor to owner leads past it. -/
def relaysPerRound (comp : Bool) (v n p : Nat) : Nat :=
  let k := posOf v n p
  if comp then if v = 0 then (n - 1) * (n - 2) / 2 else 2 * k * (n - 1 - k)
  else if v = 0 then n - 2
  else (if k = 0 then 0 else n - 1 - k) + (if k = n - 1 then 0 else k)

/-- Go on to the next stage when every round has its sum and every frame of the stage has been passed on; the sums then
stand at WORK (R270). -/
def advanceStage (x : Loom) (c : CollOut) : CollOut :=
  let o := c.op
  match o.stages[o.stage]? with
  | none => c
  | some (ax, n, p) =>
    let rounds := o.region.length / n
    let relays := rounds * relaysPerRound (o.comp ≠ 0 && 3 ≤ ax) (modeOfAxis o.orderTag ax) n p
    if o.rounds.length < rounds || o.relayed.length < relays then c
    else
      let next := ownedOf o.region n p
      let work := if o.stage + 1 < o.stages.length then
          (List.range next.length).flatMap fun i =>
            putBytes (o.aux + i * 4096) (wordsBytes ((List.range 1024).map fun e =>
              tget 0 o.partials (next.getD i 0 * 1024 + e)))
        else []
      startStage x { c with op := { o with
        stage := o.stage + 1, region := next, rounds := [], contribs := [], relayed := [], bytes := o.bytes ++ work } }

/-- The sum of a round's owned chunk stands. -/
def endRound (x : Loom) (c : CollOut) (r n p : Nat) (sum : List W32) : CollOut :=
  let o := c.op
  let chunk := o.region.getD (r * n + p) 0
  let o := { o with
    rounds := o.rounds ++ [r]
    partials := ((List.range 1024).zip sum).foldl (fun t e => tput t (chunk * 1024 + e.1) e.2) o.partials
    contribs := o.contribs.filter fun t => t.1 ≠ r || t.2.1 ≠ p }
  advanceStage x { c with op := o }

/-- A frame is passed on once: a copy of it that comes again is dropped. -/
def relayOnce (x : Loom) (c : CollOut) (key : Nat × Nat × Nat) (send : CollOut → CollOut) : CollOut :=
  if c.op.relayed.contains key then c
  else
    let c := send c
    advanceStage x { c with op := { c.op with relayed := c.op.relayed ++ [key] } }

/-- Add a list of contributions in order, each to the sum so far. -/
def addInOrder (o : CollOp) : List (List W32) → List W32 × AFlags
  | [] => ([], 0)
  | v :: r => r.foldl (fun acc w => let (s, f) := collAddVec o acc.1 w; (s, acc.2 ||| f)) (v, 0)

/-- On a line: left + right, then the owner's own (R273). -/
def lineSum (o : CollOp) (left right : Option (List W32)) (own : List W32) : List W32 × AFlags :=
  match left, right with
  | some l, some r =>
    let (s, f) := collAddVec o l r
    let (t, g) := collAddVec o s own
    (t, f ||| g)
  | some l, none => collAddVec o l own
  | none, some r => collAddVec o r own
  | none, none => (own, 0)

/-- Use a PARTIAL frame of the current stage: the member's own contribution joins it; it travels on, or the owner's sum
is complete. -/
def usePartial (x : Loom) (c : CollOut) (f : Frame) : Option CollOut :=
  let o := c.op
  match o.stages[o.stage]? with
  | none => none
  | some (ax, n, p) =>
    if f.stage.toNat ≠ ax then none
    else
      let v := modeOfAxis o.orderTag ax
      let r := f.round.toNat
      let home := f.chunk.toNat
      let chunk := o.region.getD (r * n + home) 0
      let inc := bytesWords f.payload 1024
      if o.rounds.contains r && home = p then some c
      else if v = 0 then
        let (s, fl) := collAddVec o inc (contribVec c.s o chunk)
        let add := fun c : CollOut => { c with op := { c.op with flags := c.op.flags ||| fl } }
        if home = p then some (endRound x (add c) r n p s)
        else some (relayOnce x c (r, home, 0) fun c => let c := add c; { c with
          sent := c.sent ++ [((p + 1) % n, mkFrame x o fkPartial ax r home p 0 (wordsBytes s))] })
      else
        let k := posOf v n p
        let up := posOf v n f.sender.toNat < k
        if home = p then
          let dir := if up then 0 else 1
          let o := if o.contribs.any (fun t => t.1 = r && t.2.1 = p && t.2.2.1 = dir) then o
            else { o with contribs := o.contribs ++ [(r, p, dir, inc)] }
          let get := fun d => (o.contribs.find? fun t => t.1 = r && t.2.1 = p && t.2.2.1 = d).map (·.2.2.2)
          if ((get 0).isSome || k = 0) && ((get 1).isSome || k = n - 1) then
            let (s, fl) := lineSum o (get 0) (get 1) (contribVec c.s o chunk)
            some (endRound x { c with op := { o with flags := o.flags ||| fl } } r n p s)
          else some { c with op := o }
        else
          let (s, fl) := collAddVec o inc (contribVec c.s o chunk)
          some (relayOnce x c (r, home, if up then 0 else 1) fun c => { c with
            op := { c.op with flags := c.op.flags ||| fl }
            sent := c.sent ++ [(coordAt v n (if up then k + 1 else k - 1), mkFrame x o fkPartial ax r home p 0 (wordsBytes s))] })

/-- Use a CONTRIB frame: relayed unchanged toward its owner; the owner adds every member's in the order of R70 or R273. -/
def useContrib (x : Loom) (c : CollOut) (f : Frame) : Option CollOut :=
  let o := c.op
  match o.stages[o.stage]? with
  | none => none
  | some (ax, n, p) =>
    if f.stage.toNat ≠ ax || o.comp = 0 || ax < 3 then none
    else
      let v := modeOfAxis o.orderTag ax
      let r := f.round.toNat
      let home := f.chunk.toNat
      let by_ := f.sender.toNat
      if home ≠ p then
        some (relayOnce x c (r, home, by_) fun c => { c with
          sent := c.sent ++ (towardOwner v n p home).map fun q => (q, mkFrame x o fkContrib ax r home by_ 0 f.payload) })
      else if o.rounds.contains r || (o.contribs.any fun t => t.1 = r && t.2.1 = p && t.2.2.1 = by_) then some c
      else
        let o := { o with contribs := o.contribs ++ [(r, p, by_, compUnpack o f.payload)] }
        let val := fun k => ((o.contribs.find? fun t => t.1 = r && t.2.1 = p && t.2.2.1 = k).map (·.2.2.2)).getD []
        if (o.contribs.filter fun t => t.1 = r && t.2.1 = p).length < n then some { c with op := o }
        else
          let (s, fl) :=
            if v = 0 then addInOrder o ((List.range n).map fun i => val ((p + 1 + i) % n))
            else
              let q := posOf v n p
              let chain := fun l => let (s, f) := addInOrder o (l.map fun k => val (coordAt v n k)); (if l.isEmpty then none else some s, f)
              let (l, f1) := chain (List.range q)
              let (rt, f2) := chain ((List.range (n - 1 - q)).map fun i => n - 1 - i)
              let (s, f3) := lineSum o l rt (val p)
              (s, f1 ||| f2 ||| f3)
          some (endRound x { c with op := { o with flags := o.flags ||| fl } } r n p s)

end Sys2Proof.Machine
end

