-- ==== Sys2Proof/Machine/LearnOps.lean ====
section
/-! DEFINITION. The learning support unit at a step collective (R305 to R312, R316 to R319): the bucket, the close of a
step with its norm, its clip factor, its values records and its watch records. -/
namespace Sys2Proof.Machine

/-- The registers of a loom in the learning support unit. -/
def lrnReg (l off : Nat) : Nat := 0x00600100 + l * 0x40 + off

/-- A group record's fields (Table 9-5). -/
structure GroupRec where
  npts : Nat
  watch : Bool
  first : Nat
  beta1 : W32
  beta2 : W32
  deriving DecidableEq, Repr

/-- Group record g of a loom. -/
def groupRec (s : State) (x : Loom) (g : Nat) : GroupRec :=
  let d := objBytes s x x.lrn.groupTab (32 * g) 32
  let w := fieldAt d 0 4
  { npts := bits w 10 0, watch := bits w 16 16 = 1, first := fieldAt d 4 4, beta1 := BitVec.ofNat 32 (fieldAt d 8 4)
    beta2 := BitVec.ofNat 32 (fieldAt d 12 4) }

/-- The points of a group: step and FP32 value; none when they fail R311. -/
def groupPoints (s : State) (x : Loom) (r : GroupRec) : Option (List (Nat × W32)) :=
  match objRec x x.lrn.sched with
  | none => none
  | some o =>
    if r.npts = 0 || 1024 < r.npts || o.bytes < (r.first + r.npts) * 16 then none
    else
      let d := objBytes s x x.lrn.sched (r.first * 16) (r.npts * 16)
      let pts := (List.range r.npts).map fun i => (fieldAt d (16 * i) 8, (BitVec.ofNat 32 (fieldAt d (16 * i + 8) 4) : W32))
      if pts.all (fun p => !f32IsNan p.2 && !f32IsInf p.2) && (pts.zip (pts.drop 1)).all (fun p => p.1.1 < p.2.1)
      then some pts else none

/-- The schedule value at a step (R311). -/
def schedAt (pts : List (Nat × W32)) (st : Nat) : W32 :=
  let head := pts.headD (0, 0)
  let last := pts.getLastD (0, 0)
  if st ≤ head.1 then head.2
  else if last.1 ≤ st then last.2
  else
    let before := (pts.filter fun p => p.1 ≤ st).getLastD head
    let after := (pts.filter fun p => st < p.1).headD last
    let cvt := fun n : Nat => f32Of (ofInt n 0 false)
    let t := f32Div (cvt (st - before.1)) (cvt (after.1 - before.1))
    f32Fma (f32Sub after.2 before.2) t before.2

/-- Bits of the fixed point in which powers of a BETA are formed. -/
def betaPrec : Nat := 512

/-- b ^ e in that fixed point, over the low k bits of e. -/
def powFix : Nat → Nat → Nat → Nat
  | 0, _, _ => 2 ^ betaPrec
  | k + 1, b, e =>
    let r := powFix k (b * b / 2 ^ betaPrec) (e / 2)
    if e % 2 = 1 then r * b / 2 ^ betaPrec else r

/-- 1 ÷ (1 − BETA^n), correctly rounded (Table 9-6); none when BETA is not in [0, 1), for which the manual gives no
result. -/
def betaCorr (beta : W32) (n : Nat) : Option W32 :=
  match f32Val beta with
  | .fin neg m e =>
    if (neg && m ≠ 0) || 0 < e || 2 ^ (-e).toNat ≤ m then none
    else
      let b := m * 2 ^ betaPrec / 2 ^ (-e).toNat
      let p := powFix 65 b n
      some (f32Of (vDiv (.fin false (2 ^ betaPrec) (-(betaPrec : Int))) (.fin false (2 ^ betaPrec - p) (-(betaPrec : Int)))))
  | _ => none

/-- The values record of a group at a step (Table 9-6), whether its schedule failed, and the state past its free values. -/
def valuesRec (s : State) (x : Loom) (g st : Nat) : List Byte × Bool × State :=
  let r := groupRec s x g
  let lo := toLe 4 st
  match groupPoints s x r with
  | none => (toLe 4 f32Nan.toNat ++ toLe 4 f32Nan.toNat ++ toLe 4 f32Nan.toNat ++ lo, true, s)
  | some pts =>
    let (k, s) := drawFree s 2
    let c1 := (betaCorr r.beta1 (st + 1)).getD ((Config.freeWord k).setWidth 32)
    let c2 := (betaCorr r.beta2 (st + 1)).getD ((Config.freeWord (k + 1)).setWidth 32)
    (toLe 4 (schedAt pts st).toNat ++ toLe 4 c1.toNat ++ toLe 4 c2.toNat ++ lo, false, s)

/-- Write the values records of every group for a step; SCHED_BAD when one failed (R309, R312). -/
def writeValues (s : State) (l st : Nat) : State :=
  let x := getLoom s l
  let (s, bad) := (List.range x.lrn.ngroups).foldl (fun (acc : State × Bool) g =>
    let (d, b, s) := valuesRec acc.1 x g st
    (objWrite s x x.lrn.values (16 * g) d, acc.2 || b)) (s, false)
  if bad then raiseEvt s .lrn 4 (some l) else s

/-- A watch record (Table 9-7). -/
def watchRec (st g : Nat) (grad : W32) (t : TapSum) (nonfinite : Bool) : List Byte :=
  toLe 8 st ++ toLe 4 (g + (if t.misses ≠ 0 then 2 ^ 16 else 0) + (if nonfinite then 2 ^ 17 else 0))
    ++ toLe 4 grad.toNat ++ toLe 4 t.weight.toNat ++ toLe 4 t.update.toNat ++ toLe 4 t.misses ++ toLe 4 0

/-- Write the watch records of the step before the one that closes (R309, R319). -/
def writeWatch (s : State) (l st : Nat) : State :=
  let x := getLoom s l
  if x.lrn.watch = 0 || st = 0 then s
  else
    ((List.range x.lrn.watched.length).zip x.lrn.watched).foldl (fun s (w, g) =>
      objWrite s x x.lrn.watch ((st - 1) % x.lrn.watchDepth * 2048 + w * 32)
        (watchRec (st - 1) g (tget 0 x.lrn.prevGrad g)
          (tget { weight := 0, update := 0, misses := 0 } x.lrn.watchSums g) x.lrn.prevNonfinite)) s

/-- NORM, CLIP, clipped, nonfinite of a closing step (R308). -/
def normClip (x : LrnLoom) (sq : W32) : W32 × W32 × Bool × Bool :=
  if f32IsNan sq || f32IsInf sq then (f32Nan, 0, false, true)
  else
    let n := f32Sqrt sq
    if x.clipOn && f32Lt x.clipMax n then (n, f32Div x.clipMax n, true, false) else (n, 0x3F800000, false, false)

/-- The norm block (Table 9-4). -/
def normBlock (sq stepSq norm clip : W32) (st : W64) (bucket : Nat) (closed clipped nonfinite : Bool) : List Byte :=
  toLe 4 sq.toNat ++ toLe 4 stepSq.toNat ++ toLe 4 norm.toNat ++ toLe 4 clip.toNat ++ toLe 8 st.toNat
    ++ toLe 4 (bucket + (if closed then 2 ^ 8 else 0) + (if clipped then 2 ^ 9 else 0) + (if nonfinite then 2 ^ 10 else 0))
    ++ toLe 4 0

/-- Count in one half of a register pair that saturates at 32 bits. -/
def countHalf (s : State) (off : Nat) (high : Bool) : State :=
  let v := (getReg s off).toNat
  let lo := v % 2 ^ 32
  let hi := v / 2 ^ 32
  let inc := fun n => min 0xFFFFFFFF (n + 1)
  setReg s off (BitVec.ofNat 64 (if high then inc hi * 2 ^ 32 + lo else hi * 2 ^ 32 + inc lo))

/-- The close of a step (R308, R309): the values records, the watch records of the step before, NORM and CLIP, and STEP. -/
def closeStep (s : State) (l : Nat) (stepSq : W32) : State :=
  let x := (getLoom s l).lrn
  let st := x.step.toNat
  let (norm, clip, clipped, nonfinite) := normClip x stepSq
  let s := writeWatch (writeValues s l st) l st
  let s := setReg s (lrnReg l 0x18) (norm ++ clip)
  let s := if clipped then countHalf s (lrnReg l 0x20) false else s
  let s := if nonfinite then countHalf s (lrnReg l 0x20) true else s
  let s := modLoom s l fun y => { y with lrn := { y.lrn with
    step := x.step + 1, stepSum := 0, bucket := 0
    prevGrad := x.gradSums, gradSums := [], prevNonfinite := nonfinite, watchSums := [] } }
  let s := raiseEvt s .lrn 0 (some l)
  let s := if clipped then raiseEvt s .lrn 1 (some l) else s
  if nonfinite then raiseEvt s .lrn 2 (some l) else s

/-- The watched groups' sums of a step collective, folded over the module's members in ascending member index; each joins the sum of
the buckets before (R316). -/
def foldGrads (s : State) (l comm num g : Nat) : Table W32 :=
  let x := getLoom s l
  let ops := (loomTiles x).flatMap fun t => (getTile s t).colls.filter fun o => o.comm = comm && o.num = num && o.g = g
  let ops := ops.mergeSort fun a b => a.index ≤ b.index
  x.lrn.watched.foldl (fun acc gr =>
    tput acc gr (f32Add (tget 0 acc gr) (ops.foldl (fun v o => f32Add v (tget 0 o.grads gr)) 0))) x.lrn.gradSums

/-- The key under which a step collective's norm block is kept: its number and its group of members. -/
def stepKey (num g : Nat) : Nat := num * 8192 + g

/-- A step collective completes OK: it is the next bucket (R306), and the last closes the step. Its norm block is formed
once, for every member. -/
def takeBucket (s : State) (l comm num g : Nat) (sq : W32) : State × List Byte :=
  let x := (getLoom s l).lrn
  match tfind x.normBlocks (stepKey num g) with
  | some b => (s, b)
  | none =>
    let stepSq := f32Add x.stepSum sq
    let closes := x.bucket + 1 = x.buckets
    let bad := f32IsNan stepSq || f32IsInf stepSq
    let (norm, clip, clipped, _) := normClip x stepSq
    let blk := normBlock sq stepSq (if closes then norm else 0) (if closes then clip else 0) x.step x.bucket closes
      (closes && clipped) bad
    let grads := foldGrads s l comm num g
    let s := modLoom s l fun y => { y with lrn := { y.lrn with
      stepSum := stepSq, bucket := x.bucket + 1, gradSums := grads
      normBlocks := tput x.normBlocks (stepKey num g) blk } }
    (if closes then closeStep s l stepSq else s, blk)

/-- A loom's step collective (R305, R306). -/
def isStepColl (x : Loom) (o : CollOp) : Bool :=
  o.norm && (o.kind = .rs || o.kind = .ar) && x.lrn.ngroups ≠ 0 && o.comm = x.lrn.stepComm

end Sys2Proof.Machine
end

