-- ==== Sys2Proof/Machine/Rmt.lean ====
section
/-! DEFINITION. Class RMT: remote reads, writes and adds at their source (R139, R144, R160, R191), at their target (R140,
R141, R192, R244), and their responses (R163, R185). -/
namespace Sys2Proof.Machine

/-! ## Where an operation stands: in its tile, or in the save image of its loom (R163) -/

/-- The loom in whose save image a strand has an operation of a tag. -/
def imageOp (s : State) (a : Issuer) (tag : BitVec 16) : Option Nat :=
  (liveLooms s).find? fun l => (getLoom s l).image.isSome && (opOf (tileOf s l a.tile) a.strand tag).isSome

/-- An operation in its tile or in an image, with its loom. -/
def findOp (s : State) (a : Issuer) (tag : BitVec 16) : Option (AsyncOp × Nat) :=
  match opOf (getTile s a.tile) a.strand tag, ownerOfTile s a.tile with
  | some o, some l => some (o, l)
  | _, _ =>
    match imageOp s a tag with
    | some l => (opOf (tileOf s l a.tile) a.strand tag).map fun o => (o, l)
    | none => none

/-- Replace an operation of a tile. -/
def Tile.putOp (t : Tile) (o : AsyncOp) : Tile :=
  { t with ops := t.ops.map fun (q : AsyncOp) => if q.strand = o.strand && q.tag = o.tag then o else q }

/-- Replace an operation where its loom has it. -/
def putOp (s : State) (tile l : Nat) (o : AsyncOp) : State := modTileOf s l tile fun t => t.putOp o

/-- The bytes an operation of a loom reads at a local address: from the save image when its tile store is there. -/
def localBytes (s : State) (l a n : Nat) : List Byte :=
  match (getLoom s l).image, place s.variant a with
  | some i, .tile _ _ => memGetN i.cells a n
  | _, _ => readVia s l a n

/-- A remote operation. -/
def AsyncOp.isRmt (o : AsyncOp) : Bool := o.kind = .rmtRd || o.kind = .rmtWr || o.kind = .rmtAdd

/-- A remote operation that changes memory at its target. -/
def AsyncOp.changes (o : AsyncOp) : Bool := o.kind = .rmtWr || o.kind = .rmtAdd

/-- An operation leaves its tile with its outstanding bytes; its tag completes. -/
def rmtEnd (s : State) (a : Issuer) (o : AsyncOp) (st : Byte) : State :=
  let s := modTile s a.tile fun t => { t with rmtOut := t.rmtOut - (if o.kind = .rmtRd then o.len else 0) }
  opEnd s a.tile o st

/-! ## Issue -/

/-- The RMT descriptor (Table 4-19). -/
def rmtDesc (d : List Byte) : AsyncOp :=
  let w := fieldAt d 0x14 4
  { remote := fieldAt d 0x00 8
    src := fieldAt d 0x08 8
    len := fieldAt d 0x10 4
    x := bits w 1 0
    y := bits w 3 2
    z := bits w 5 4
    ordered := bits w 6 6 = 1
    intElem := bits w 7 7 = 1
    group := fieldAt d 0x18 2
    index := fieldAt d 0x1C 2
    count := fieldAt d 0x1E 2 }

/-- The checks at issue: reserved and unused fields (R118), LEN, the torus extents (R139), and LOCAL (R129). An ADD has
elements of 4 B; no element size is given for an RD or a WR, and the model takes 1 B (log 119). -/
def rmtOp (add : Bool) (s : State) (l : Nat) (d : List Byte) : Except Byte AsyncOp :=
  let o := rmtDesc d
  let e := extentOf s
  let plain := !o.ordered && !o.intElem
  let noGroup := o.group = 0 && o.index = 0 && o.count = 0
  let al := if add then 4 else 1
  let ok := bits (fieldAt d 0x14 4) 31 8 = 0 && fieldAt d 0x1A 2 = 0 && fieldAt d 0x20 32 = 0
    && (if add then o.ordered || noGroup else plain && noGroup) && o.len % 4 = 0 && o.len ≤ 65536
    && o.x < e.1 && o.y < e.2.1 && o.z < e.2.2 && o.remote % al = 0
  if !ok then .error stBad
  else
    let st := rangesOk s (getLoom s l) [(o.src, o.len, al)]
    if st ≠ stOk then .error st else .ok o

/-- The request an operation of this module makes. -/
def requestOf (s : State) (a : Issuer) (o : AsyncOp) (l : Nat) : RmtRequest :=
  let c := coordOf s
  { kind := if o.kind = .rmtRd then .rd else if o.kind = .rmtWr then .wr else .add
    fromX := c.1, fromY := c.2.1, fromZ := c.2.2
    srcTile := a.tile, srcStrand := a.strand, srcTag := o.tag
    jobId := (getLoom s l).jobId
    beyondSplit := false
    addr := BitVec.ofNat 64 o.remote
    len := o.len
    ordered := o.ordered
    intElem := o.intElem
    group := o.group
    index := o.index
    count := o.count
    data := if o.kind = .rmtRd then [] else localBytes s l o.src o.len }

/-- Another operation of the strand that must be applied at the target before an operation (R160): an earlier WR or ADD to
the same module. An ordered ADD may be held while one is only held: R140 gives the moment at which it is applied (log 123). -/
def rmtBefore (o q : AsyncOp) : Bool :=
  q.strand = o.strand && q.changes && (q.x, q.y, q.z) = (o.x, o.y, o.z) && q.num < o.num
    && !(o.ordered && q.ordered && q.sent)

/-- WR and ADD of a strand to one target are applied in issue order (R160): at this module, when those before are over; toward
another, when they have been sent, since requests arrive in the order sent. -/
def rmtFirst (self : Bool) (t : Tile) (o : AsyncOp) : Bool :=
  !o.changes || t.ops.all fun q => !(rmtBefore o q && (if self then q.parked.isNone else !q.sent))

/-- Some source byte of an operation is poisoned: it ends with UNCORRECTED and its loom stops (R177, R185). -/
def rmtSpoiled (s : State) (a : Issuer) (l : Nat) (o : AsyncOp) : Option State :=
  if o.changes && (getLoom s l).image.isNone && poisonVia s (getLoom s l) o.src o.len then
    some (loomUncorr (rmtEnd (meetUnits s (some l) [(o.src, o.len)]) a o stUncorr) l a.tile a.strand)
  else none

/-- Send an operation to its target at another module, when it may go: a loom that is FENCED sends nothing (R252), and the
agents of its source rows may hold it (R217). -/
def rmtSend (s : State) (a : Issuer) (l : Nat) (o : AsyncOp) : State :=
  let who := RowUser.op a.tile a.strand o.tag.toNat
  let rs := if o.changes then [(o.src, o.len)] else []
  if o.sent || !o.isRmt || (o.x, o.y, o.z) = coordOf s || (getLoom s l).st = .fenced || !rmtFirst false (tileOf s l a.tile) o
    || (o.changes && !opReady s o) then s
  else if rowsWait s l who rs then holdRows s l who rs
  else
    match rmtSpoiled s a l o with
    | some s' => s'
    | none =>
      rowsServed (putOp (send s (.request o.x o.y o.z (requestOf s a o l))) a.tile l { o with sent := true }) l who

/-- Send what a tile has to send, oldest first. -/
def rmtDrive (s : State) (tile : Nat) : State :=
  match ownerOfTile s tile with
  | some l => (getTile s tile).ops.foldl (fun s o => rmtSend s { tile, strand := o.strand } l o) s
  | none => s

/-- The blocks of this module that an operation names: an RD writes LOCAL, a WR or an ADD reads it (R102). -/
def rmtReads (kind : AsyncKind) (o : AsyncOp) : List (Nat × Nat) := if kind = .rmtRd then [] else [(o.src, o.len)]
def rmtWrites (kind : AsyncKind) (o : AsyncOp) : List (Nat × Nat) := if kind = .rmtRd then [(o.src, o.len)] else []

/-- Issue an RMT instruction; an RD counts its bytes as outstanding (R191). A request to another module is sent. -/
def rmtIssue (op : Nat) (kind : AsyncKind) (a : Issuer) (f : FmtD) (s : State) : State :=
  rmtDrive (asyncIssue 9 op false kind a f s (fun l _ d => rmtOp (kind = .rmtAdd) s l d)
    (fun o => kind = .rmtRd && 262144 < (getTile s a.tile).rmtOut + o.len) (rmtReads kind) (rmtWrites kind)) a.tile

def execRmtRd (a : Issuer) (f : FmtD) (s : State) : Host.Outcome State Fault Refusal :=
  .next (rmtIssue 0 .rmtRd a f s)

def execRmtWr (a : Issuer) (f : FmtD) (s : State) : Host.Outcome State Fault Refusal :=
  .next (rmtIssue 1 .rmtWr a f s)

def execRmtAdd (a : Issuer) (f : FmtD) (s : State) : Host.Outcome State Fault Refusal :=
  .next (rmtIssue 2 .rmtAdd a f s)

/-! ## At the target -/

/-- A request comes from this module (R139). -/
def reqFromSelf (s : State) (q : RmtRequest) : Bool := (q.fromX, q.fromY, q.fromZ) = coordOf s

/-- The issuer of a request. -/
def reqIssuer (q : RmtRequest) : Issuer := { tile := q.srcTile, strand := q.srcStrand }

/-- The loom whose regions a request of a job may reach; a loom that no COLL_CONFIG has configured is a job of its own. -/
def rmtTarget (s : State) (q : RmtRequest) (src : Option Nat) : Option Nat :=
  let own := match src with
    | some l => if (getLoom s l).configured then none else some l
    | none => none
  (liveLooms s).find? fun l =>
    let x := getLoom s l
    (match own with
      | some k => l = k
      | none => x.configured && x.jobId = q.jobId)
      && mapGives s.variant x q.addr.toNat q.len

/-- A response goes back: to the operation itself when the request came from this module, else out of the module. -/
def rmtReply (s : State) (q : RmtRequest) (st : Byte) (data : List Byte) : State :=
  if reqFromSelf s q then
    match findOp s (reqIssuer q) q.srcTag with
    | some (o, l) => putOp s q.srcTile l { o with sent := true, parked := some (st :: data) }
    | none => s
  else send s (.response q st data)

/-- Add element by element, each with one rounding or saturating; no ASW bit is set (R128, R140). -/
def rmtAddBytes (int : Bool) (old new : List Byte) : List Byte :=
  (List.range (new.length / 4)).flatMap fun i =>
    let x : W32 := BitVec.ofNat 32 (fieldAt old (4 * i) 4)
    let y : W32 := BitVec.ofNat 32 (fieldAt new (4 * i) 4)
    toLe 4 (if int then (i32Add x y).1 else f32Add x y).toNat

/-- Apply a WR or an ADD to the regions of a loom. -/
def rmtApply (s : State) (l : Nat) (q : RmtRequest) : State :=
  let a := q.addr.toNat
  let bs := match q.kind with
    | .add => rmtAddBytes q.intElem (readVia s l a q.len) q.data
    | _ => q.data
  touchRange (writeVia s l a bs) l a q.len true

/-- Held bytes of a loom's ordered-add part (R192). -/
def heldBytes (x : Loom) : Nat := x.holdsAdd.foldl (fun n h => n + h.req.len) 0

/-- The contributions of a group. -/
def groupHeld (x : Loom) (g : Nat) : List RmtRequest := (x.holdsAdd.map (·.req)).filter fun q => q.group = g

/-- The loom has its bays with what belongs in them: its image, if it has one, is back (R230, R244). -/
def Loom.present (x : Loom) : Bool := x.holder && x.st ≠ .restoring

/-- Who a request is to the agents of the rows it touches. -/
def reqUser (q : RmtRequest) : RowUser := .rmt q.fromX q.fromY q.fromZ q.srcTile q.srcStrand q.srcTag.toNat

/-- A remote write waits for the readers and writers of the block it lands in, but for its own operation (R103, R499). -/
def reqBoardWaits (s : State) (q : RmtRequest) : Bool :=
  let own := if reqFromSelf s q then (findOp s (reqIssuer q) q.srcTag).map fun r => r.1.num else none
  q.kind ≠ .rd && match place s.variant q.addr.toNat with
    | .tile t o => boardWaits ((getTile s t).board.map fun e => { e with uses := e.uses.filter fun u => some u.num ≠ own }) o q.len true
    | _ => false

/-- A request waits in the memory of a loom: for a block of the scoreboard, or for a row (R217). -/
def reqWaits (s : State) (l : Nat) (q : RmtRequest) : Bool := rowsWait s l (reqUser q) [(q.addr.toNat, q.len)] || reqBoardWaits s q

/-- Apply the contributions of a group in ascending INDEX; every contributor's tag completes OK, or UNCORRECTED where its own
range is poisoned (R140, R177). -/
def applyGroup (s : State) (l g : Nat) : State :=
  let qs := (groupHeld (getLoom s l) g).mergeSort fun a b => a.index ≤ b.index
  let s := modLoom s l fun x => { x with holdsAdd := x.holdsAdd.filter fun h => h.req.group ≠ g }
  qs.foldl (fun s q =>
    if poisonVia s (getLoom s l) q.addr.toNat q.len then rmtReply (meetUnits s none [(q.addr.toNat, q.len)]) q stUncorr []
    else rmtReply (rmtApply s l q) q stOk []) s

/-- A group is complete: COUNT contributions are held. -/
def groupDone (x : Loom) (g : Nat) : Bool :=
  match groupHeld x g with
  | [] => false
  | q :: r => q.count ≤ r.length + 1

/-- The groups of a loom that are complete. -/
def doneGroups (x : Loom) : List Nat := ((x.holdsAdd.map fun h => h.req.group).eraseDups).filter (groupDone x)

/-- Apply the complete groups of a loom that may be applied: an uncopied block under one is copied first (R358). -/
def applyReady (s : State) (l : Nat) : State :=
  if !(getLoom s l).present then s
  else
    (doneGroups (getLoom s l)).foldl (fun s g =>
      let qs := groupHeld (getLoom s l) g
      match qs.findSome? fun q => (uncopied s q.addr.toNat q.len).map fun kb => (q, kb) with
      | some (q, kb) => holdCopy s [q.srcTile, q.srcStrand, q.srcTag.toNat, q.fromX, q.fromY, q.fromZ] kb
      | none =>
        if qs.any (reqWaits s l) then s else applyGroup s l g) s

/-- An ordered contribution (R140, R141, R192): refused, or held until its group is complete. While the loom is away a
complete group waits for its resume (R244). -/
def holdAdd (s : State) (l : Nat) (q : RmtRequest) : State :=
  let x := getLoom s l
  let g := groupHeld x q.group
  let bad := g.any (fun p => p.index = q.index) || (match g with
    | p :: _ => p.len ≠ q.len || p.count ≠ q.count
    | [] => false)
  if bad then rmtReply s q stBad []
  else if x.bays.length * 2 ^ 20 < heldBytes x + q.len then
    let s := setLoom s l { x with parkFull := satAdd 0xFFFFFFFF x.parkFull 1 }
    let a := q.addr.toNat
    let s := match place s.variant a with
      | .tile t _ => memError s [8] none (some l) a 0xFF t t
      | _ => memError s [8] none (some l) a (stackOf s.variant a) 0 (stackOf s.variant a)
    rmtReply s q stFull []
  else applyReady (setLoom s l { x with holdsAdd := x.holdsAdd ++ [{ req := q }] }) l

/-- An earlier ordered ADD of the same strand is still held here: a WR or an unordered ADD of it waits (R160). -/
def heldBefore (x : Loom) (q : RmtRequest) : Bool :=
  x.holdsAdd.any fun h => reqUser { h.req with srcTag := q.srcTag } = reqUser q

/-- Serve a request at its target: FENCED beyond a split, PERMISSION outside the job's regions, BUSY for the tile store of
a loom that is away (R244), UNCORRECTED on poison; else it reads, writes or adds. -/
def rmtServe (s : State) (q : RmtRequest) (src : Option Nat) : State :=
  let a := q.addr.toNat
  if q.beyondSplit then rmtReply s q stFenced []
  else
    match rmtTarget s q src with
    | none => rmtReply s q stPerm []
    | some l =>
      let x := getLoom s l
      let inTile := match place s.variant a with
        | .tile _ _ => true
        | _ => (List.range q.len).any fun i => tsBase ≤ ownerAt x (a + i)
      let blk := if q.kind = .rd then none else uncopied s a q.len
      if inTile && !x.present then rmtReply s q stBusy []
      else if q.kind ≠ .rd && !q.ordered && heldBefore x q then s
      else if reqWaits s l q then
        if rowsWait s l (reqUser q) [(a, q.len)] then holdRows s l (reqUser q) [(a, q.len)] else s
      else
        match blk with
        | some kb => holdCopy s [q.srcTile, q.srcStrand, q.srcTag.toNat, q.fromX, q.fromY, q.fromZ] kb
        | none =>
          let poisoned := (q.kind ≠ .wr && poisonVia s x a q.len) || (q.kind ≠ .rd && blockedVia s x a q.len)
          let s' := if poisoned then rmtReply (if q.kind = .wr then s else meetUnits s none [(a, q.len)]) q stUncorr []
            else
              match q.kind with
              | .rd => rmtReply (touchRange s l a q.len false) q stOk (readVia s l a q.len)
              | .wr => rmtReply (rmtApply s l q) q stOk []
              | .add => if q.ordered then holdAdd s l q else rmtReply (rmtApply s l q) q stOk []
          rowsServed s' l (reqUser q)

/-- A request that reaches its target: one of this module's own operations, or one of another module. An ordered
contribution of this module counts as sent when it is held. -/
def rmtArrive (s : State) (q : RmtRequest) : State :=
  if reqFromSelf s q then
    match findOp s (reqIssuer q) q.srcTag with
    | some (o, l) =>
      if !o.isRmt || o.sent || (o.x, o.y, o.z) ≠ coordOf s || q ≠ requestOf s (reqIssuer q) o l
        || (getLoom s l).st = .fenced || !rmtFirst true (tileOf s l q.srcTile) o
        || (o.changes && !opReady s o) then s
      else
        match rmtSpoiled s (reqIssuer q) l o with
        | some s' => s'
        | none =>
          let s' := rmtServe s q (some l)
          if o.ordered && (liveLooms s').any (fun k => (getLoom s' k).holdsAdd.any fun h => h.req = q)
          then putOp s' q.srcTile l { o with sent := true } else s'
    | none => s
  else rmtServe s q none

def execRmtRequests (q : RmtRequest) (s : State) : Host.Outcome State Fault Refusal := .next (alive s fun s => rmtArrive s q)

/-! ## Responses -/

/-- The states in which a loom's results go to its parking area (R163). -/
def Loom.parks (x : Loom) : Bool := x.st = .saving || x.st = .saved || x.st = .restoring

/-- What arrives for a loom that was CUT, until it starts again, or that is FENCED is discarded (R251, R252); the tiles of a
FENCED loom that reach its anchor die have kept its bays, and what they began ends as ever (R445). -/
def Loom.discards (x : Loom) : Bool := (x.st = .fenced && !x.holder) || x.cut

/-- Where an RD lands. -/
def rmtDst (o : AsyncOp) : List (Nat × Nat) := if o.kind = .rmtRd then [(o.src, o.len)] else []

/-- Land a response at an operation in its tile. -/
def rmtLand (s : State) (l : Nat) (a : Issuer) (o : AsyncOp) (st : Byte) (data : List Byte) : State :=
  let who := RowUser.op a.tile a.strand o.tag.toNat
  if st = stUncorr then loomUncorr (rmtEnd (spoil s (rmtDst o)) a o st) l a.tile a.strand
  else if st = stOk && o.kind = .rmtRd then
    if !opReady s o then s
    else if rowsWait s l who (rmtDst o) then holdRows s l who (rmtDst o)
    else
      match uncopied s o.src o.len with
      | some kb => holdCopy s [a.tile, a.strand, o.tag.toNat] kb
      | none =>
        if blockedVia s (getLoom s l) o.src o.len then loomUncorr (rmtEnd (spoil s (rmtDst o)) a o stUncorr) l a.tile a.strand
        else rowsServed (rmtEnd (touchRange (writeVia s l o.src data) l o.src o.len true) a o st) l who
  else rmtEnd s a o st

/-- Size of the record part of a parking area (Table 5-8). -/
def parkRecPart (x : Loom) : Nat := x.bays.length * (256 * 1024) + 32 * x.credits

/-- The bytes of a parking record (Table 5-9): coll tells a collective chunk from a remote read, dataAt is DATA. -/
def ParkRec.bytes (r : ParkRec) (coll : Bool) (dataAt : Nat) : List Byte :=
  toLe 4 (r.tile % 2 ^ 13 + r.strand % 16 * 2 ^ 13 + (if coll then 2 ^ 17 else 0)) ++ toLe 4 (r.tag.toNat + r.status.toNat * 2 ^ 16)
    ++ toLe 4 (r.off % 2 ^ 23) ++ toLe 4 r.data.length ++ toLe 8 dataAt ++ toLe 8 0

/-- Where in the parking area the data of a record goes: a tile's own 256 KiB of the remote-read part, or the credit's
4 KiB of the collective part, each in the order of arrival (log 53). -/
def parkDataAt (x : Loom) (r : ParkRec) (coll : Bool) : Nat :=
  if coll then x.bays.length * (4 * 2 ^ 20) + 4096 * x.parkedFrames.length
  else ((x.bays.flatMap bayTiles).idxOf? r.tile).getD 0 * (256 * 1024)
    + ((x.parked.filter fun q => q.tile = r.tile).map fun q => q.data.length).sum

/-- Write a record, after those already there, and its data into the parking area (R193; log 53). -/
def parkWrite (s : State) (x : Loom) (r : ParkRec) (coll : Bool) : State :=
  match x.map.find? fun m => m.kind = mkPark with
  | some m =>
    let d := m.addr + parkRecPart x + parkDataAt x r coll
    wrN (wrN s (m.addr + 32 * (x.parked.length + x.parkedFrames.length)) (r.bytes coll d)) d r.data
  | none => s

/-- Park a response of a loom that is away: a record, and the operation no longer awaits one (R163, R193). -/
def rmtPark (s : State) (l : Nat) (a : Issuer) (o : AsyncOp) (st : Byte) (data : List Byte) : State :=
  let r : ParkRec := { tile := a.tile, strand := a.strand, tag := o.tag, status := st, off := o.src, data }
  let s := parkWrite s (getLoom s l) r false
  putOp (modLoom s l fun x => { x with parked := x.parked ++ [r] }) a.tile l { o with parked := some [], sent := true, landed := 1 }

/-- A response returns to its source, with a status of Table 0-5. That of a request this module served itself must be the one
it gave; another module answers only what was sent. -/
def rmtBack (s : State) (a : Issuer) (tag : BitVec 16) (st : Byte) (data : List Byte) : State :=
  match findOp s a tag with
  | some (o, l) =>
    let ok := stListed st && o.isRmt && o.landed = 0 && o.sent
      && (if (o.x, o.y, o.z) = coordOf s then o.parked = some (st :: data)
          else data.length = (if o.kind = .rmtRd && st = stOk then o.len else 0))
    if !ok then s
    else if (getLoom s l).discards then if (getLoom s l).image.isSome then s else rmtEnd s a o st
    else if (getLoom s l).image.isSome || (getLoom s l).parks then rmtPark s l a o st data
    else rmtLand s l a o st data
  | none => s

def execRmtResponses (a : Issuer) (tag : BitVec 16) (st : Byte) (data : List Byte) (s : State) :
    Host.Outcome State Fault Refusal :=
  .next (alive s fun s => rmtBack s a tag st data)

/-- Where a tag stands among those of its strand, in the order of their issue (R193): the counter of tags wraps, the list
does not. -/
def tagPlace (s : State) (tile strand : Nat) (tag : BitVec 16) : Nat :=
  (getStrand s { tile, strand }).tags.findIdx fun r => r.tag = tag

/-- A parked result is copied to its destination, after the uncopied blocks under it (R358), and its tag completes (R164). -/
def unpark (s : State) (l : Nat) (r : ParkRec) : State :=
  let a : Issuer := { tile := r.tile, strand := r.strand }
  match opOf (getTile s r.tile) r.strand r.tag with
  | some o =>
    if r.status = stUncorr then loomUncorr (rmtEnd (spoil s (rmtDst o)) a o r.status) l a.tile a.strand
    else if r.status = stOk && o.kind = .rmtRd then
      if blockedVia s (getLoom s l) o.src o.len then loomUncorr (rmtEnd (spoil s (rmtDst o)) a o stUncorr) l a.tile a.strand
      else rmtEnd (touchRange (writeVia (copyFirst s [r.tile, r.strand, r.tag.toNat] o.src o.len) l o.src r.data) l o.src o.len true) a o r.status
    else rmtEnd s a o r.status
  | none => s

end Sys2Proof.Machine
end

