-- ==== Sys2Proof/Machine/Coll.lean ====
section
/-! DEFINITION. Class COLL: the issue of a collective (Table 8-2, R265 to R268, R292, R295, R307, R313), aborts (R283), the
expert exchange (R293 to R296), the start of an operation, and its completion (R142, R309, R315). -/
namespace Sys2Proof.Machine

/-! ## The descriptor -/

/-- The collective descriptor (Table 8-2). -/
def collDesc (kind : CollKind) (d : List Byte) : CollOp :=
  let w := fieldAt d 0x1C 4
  let g := fieldAt d 0x24 4
  let y := fieldAt d 0x2C 4
  let dist := bits y 7 0
  { kind
    src := fieldAt d 0x00 8
    dst := fieldAt d 0x08 8
    aux := fieldAt d 0x10 8
    elems := fieldAt d 0x18 4
    srcFmt := bits w 3 0
    dstFmt := bits w 7 4
    rnd := bits w 9 8
    sat := bits w 10 10 = 1
    max := bits w 11 11 = 1
    comp := bits w 13 12
    norm := bits w 14 14 = 1
    checked := bits w 15 15 = 1
    comm := bits w 31 16
    a0 := fieldAt d 0x20 2
    a1 := fieldAt d 0x22 2
    a2 := fieldAt d 0x24 2
    ksel := bits g 26 16
    axis := bits g 29 27
    normOff := fieldAt d 0x28 4
    row := fieldAt d 0x28 2
    capacity := fieldAt d 0x2A 2
    dist := if dist < 128 then (dist : Int) else (dist : Int) - 256
    active := bits y 3 0
    retDir := bits y 4 4 = 1
    repl := bits y 15 8
    slice := bits y 31 16
    stream := BitVec.ofNat 32 y
    tensorId := BitVec.ofNat 32 (fieldAt d 0x30 4)
    group := fieldAt d 0x30 4
    elem0 := fieldAt d 0x38 8 }

/-- Reserved fields, and those the operation does not use, are 0 (R118). -/
def collPlain (o : CollOp) (d : List Byte) : Bool :=
  let w := fieldAt d 0x1C 4
  let y := fieldAt d 0x2C 4
  let tail := fieldAt d 0x30 4 = 0 && fieldAt d 0x38 8 = 0
  bits (fieldAt d 0x24 4) 31 30 = 0 && fieldAt d 0x34 4 = 0 &&
    match o.kind with
    | .rs | .ar => (o.ksel = 0 || o.comp = 1) && o.axis = 0 && (o.normOff = 0 || o.norm)
    | .ag => o.aux = 0 && bits w 15 8 = 0 && o.ksel = 0 && o.axis = 0 && o.normOff = 0 && y = 0 && tail
    | .shift => o.aux = 0 && bits w 15 0 = 0 && o.ksel = 0 && o.normOff = 0 && bits y 31 8 = 0 && tail
    | .perm => bits w 15 0 = 0 && o.ksel = 0 && o.axis = 0 && o.normOff = 0 && y = 0 && tail
    | .x2x => bits w 15 0 = 0 && o.ksel = 0 && o.axis = 0 && bits y 7 5 = 0

/-- The formats of a collective. -/
def collFmt (c : Nat) : Bool := c ≤ 4 || c = 9

/-- The product of the sizes of the stages. -/
def stageProd (o : CollOp) : Nat := o.stages.foldl (fun m t => m * t.2.1) 1

/-! ## Experts (R210, R213, R293 to R295) -/

/-- The EXPERT map records of a group. -/
def expertRecs (x : Loom) (group : Nat) : List MapRec := x.map.filter fun r => r.kind = mkExpert && r.obj = group
/-- Experts of a group on one module. -/
def expertCount (x : Loom) (group : Nat) : Nat := (expertRecs x group).length
/-- The first logical rank of an expert of this module. -/
def expertFirst (x : Loom) (group i : Nat) : Option Nat := ((expertRecs x group).find? fun r => r.count = i).map (·.first)
/-- The tiles of each expert: field C of the group's intent record. -/
def expertTiles (x : Loom) (group : Nat) : Nat :=
  match x.intent.find? fun r => r.kind = 2 && r.obj = group with
  | some r => r.c
  | none => 0
/-- The loom rank of a tile. -/
def loomRank (x : Loom) (tile : Nat) : Nat := ((loomTiles x).idxOf? tile).getD 0
/-- Modules of the job box. -/
def boxSize (x : Loom) : Nat := let e := boxExtent x; e.1 * (e.2.1 * e.2.2)

/-- The expert of this module on whose tiles a tile lies, with its place among them. -/
def expertOfTile (x : Loom) (group tile : Nat) : Option (Nat × Nat) :=
  let r := loomRank x tile
  let c := expertTiles x group
  ((expertRecs x group).find? fun e => e.first ≤ r && r < e.first + c).map fun e => (e.count, r - e.first)

/-- The first row of the slice a tile receives, and its rows; none when it receives none. -/
def sliceOf (x : Loom) (o : CollOp) (tile : Nat) : Option (Nat × Nat × Nat × Nat) :=
  match expertOfTile x o.group tile with
  | none => none
  | some (e, k) =>
    let first := k / o.repl * o.slice
    if first < o.capacity then some (e, k % o.repl, first, min o.slice (o.capacity - first)) else none

/-! ## Checks at issue -/

/-- Two ranges overlap. -/
def overlap (a b n : Nat) : Bool := n ≠ 0 && a < b + n && b < a + n

/-- The elements of SRC all lie in accumulator ranges of RESIDUAL bindings (R313). -/
def allResidual (v : Variant) (x : Loom) (o : CollOp) : Bool :=
  let sz := fmtBytes o.srcFmt
  (List.range o.elems).all fun i => (residualAt v x (o.src + i * sz)).isSome

/-- Field ranges of a collective, its group size, and the rules of its kind (R268, R292, R295, R307, R313). -/
def collFields (v : Variant) (x : Loom) (o : CollOp) (ntiles : Nat) : Bool :=
  let axisOk := fun a => 1 ≤ a && a ≤ 4096
  let p := o.a0 * o.a1 * o.a2
  let red := (o.max → o.comp = 0) && o.comp ≤ 2 && (o.comp ≠ 0 → o.srcFmt ≠ 9)
    && (o.comp = 1 → (1 ≤ o.ksel && o.ksel ≤ 1024)) && collFmt o.srcFmt && collFmt o.dstFmt
    && rndOk o.rnd (if o.srcFmt = 9 then 9 else 0) o.dstFmt
    && o.elems % (1024 * stageProd o) = 0
    && (o.norm → (o.normOff < 2 ^ 23 && o.normOff % (if isStepColl x o then 32 else 4) = 0
        && inStore o.normOff (if isStepColl x o then 32 else 4)))
    && (o.comp ≠ 0 → allResidual v x o)
  axisOk o.a0 && axisOk o.a1 && axisOk o.a2 && ntiles % p = 0 &&
    match o.kind with
    | .rs | .ar => red
    | .ag => collFmt o.srcFmt && collFmt o.dstFmt && o.elems % 1024 = 0
    | .shift =>
      let n := (([o.a0, o.a1, o.a2] ++ (let e := boxExtent x; [e.1, e.2.1, e.2.2]))[o.axis]?).getD 0
      o.elems % 4 = 0 && o.elems ≤ 16 * 2 ^ 20 && o.dist ≠ 0 && o.dist.natAbs < n && !overlap o.src o.dst o.elems
    | .perm => o.elems % 4 = 0 && o.elems ≤ 16 * 2 ^ 20 && !overlap o.src o.dst o.elems
    | .x2x =>
      o.row % 4 = 0 && o.row ≤ 16384 && 1 ≤ o.capacity && 1 ≤ o.active && o.active ≤ 8 && 1 ≤ o.repl && 1 ≤ o.slice
        && expertCount x o.group ≠ 0 && (o.capacity + o.slice - 1) / o.slice * o.repl ≤ expertTiles x o.group

/-- The ranges a collective reads and those it writes, each with its length and alignment. -/
def collReads (x : Loom) (tile : Nat) (o : CollOp) : List (Nat × Nat × Nat) :=
  let ss := fmtBytes o.srcFmt
  match o.kind with
  | .rs | .ar | .ag => [(o.src, o.elems * ss, ss)]
  | .shift => [(o.src, o.elems, 1)]
  | .perm => [(o.src, o.elems, 1), (o.aux, 4 * o.members, 4)]
  | .x2x => (o.aux, 4 * (o.elems * o.active), 4) ::
    if o.retDir then
      match sliceOf x o tile with
      | some (_, 0, _, n) => [(o.src, n * o.row, 1), (o.src + o.slice * o.row, 8 * n, 4)]
      | _ => []
    else [(o.src, o.elems * o.row, 1)]

def collWrites (x : Loom) (tile : Nat) (o : CollOp) : List (Nat × Nat × Nat) :=
  let ds := fmtBytes o.dstFmt
  let p := stageProd o
  let work := match o.stages with
    | t :: _ :: _ => [(o.aux, o.elems / t.2.1 * 4, 4)]
    | _ => []
  match o.kind with
  | .rs => (o.dst, o.elems / p * ds, ds) :: work
  | .ar => (o.dst, o.elems * ds, ds) :: work
  | .ag => [(o.dst, o.elems * p * ds, ds)]
  | .shift | .perm => [(o.dst, o.elems, 1)]
  | .x2x =>
    if o.retDir then [(o.dst, o.elems * o.active * o.row, 1)]
    else
      match sliceOf x o tile with
      | some (_, _, _, n) => [(o.dst, n * o.row, 1), (o.dst + o.slice * o.row, 8 * n, 4)]
      | none => []

/-! ## The order in force (R272, R274, R276) -/

/-- The order tag of a collective number: the new modes from the install point on; a collective all of whose stages run as
rings has tag 0. -/
def tagFor (x : Loom) (comm num : Nat) : W32 :=
  match x.newModes with
  | some m => if num < tget 0 x.install comm then x.modes else m
  | none => x.modes

/-- The tag a collective carries: that of its number, but 0 when it has stages and every one runs as a ring (R274); SHIFT,
PERM and X2X carry the current tag (R292). -/
def opTag (x : Loom) (o : CollOp) : W32 :=
  let t := tagFor x o.comm o.num
  match o.kind with
  | .rs | .ag | .ar => if o.stages.all fun a => modeOfAxis t a.1 = 0 then 0 else t
  | _ => t

/-! ## SHIFT and PERM (R292) -/

/-- Pieces of n bytes of at most `by_` each; at least one. -/
def pieces (n by_ : Nat) : Nat := max 1 ((n + by_ - 1) / by_)

/-- The member a SHIFT or PERM sends to and the one it receives from; none when a PERM names none or two. -/
def movePeers (s : State) (l : Nat) (o : CollOp) : Option (Nat × Nat) :=
  match o.kind with
  | .shift =>
    let b := boxCoord s (getLoom s l)
    let e := boxExtent (getLoom s l)
    let r := o.rank
    let i := ([r % o.a0, r / o.a0 % o.a1, r / (o.a0 * o.a1) % o.a2, b.1, b.2.1, b.2.2][o.axis]?).getD 0
    let n := ([o.a0, o.a1, o.a2, e.1, e.2.1, e.2.2][o.axis]?).getD 1
    some ((((i : Int) + o.dist) % n).toNat, (((i : Int) - o.dist) % n).toNat)
  | _ =>
    let t := (List.range o.members).map fun i => leNat (readVia s l (o.aux + 4 * i) 4)
    match (List.range o.members).filter fun i => t.getD i 0 = o.index with
    | [q] => if t.getD o.index 0 < o.members then some (t.getD o.index 0, q) else none
    | _ => none

/-- This member's coordinate or index as SHIFT and PERM frames carry it. -/
def moveSelf (s : State) (l : Nat) (o : CollOp) : Nat :=
  match o.kind with
  | .shift =>
    let b := boxCoord s (getLoom s l)
    ([o.rank % o.a0, o.rank / o.a0 % o.a1, o.rank / (o.a0 * o.a1) % o.a2, b.1, b.2.1, b.2.2][o.axis]?).getD 0
  | _ => o.index

/-! ## Expert exchange -/

/-- Module and number there of an expert of the job. -/
def expertHome (x : Loom) (group e : Nat) : Nat × Nat := (e / expertCount x group, e % expertCount x group)

/-- ROUTE of a member: for each slot in order of token and then slot, its expert. -/
def routeOf (s : State) (l : Nat) (o : CollOp) : List W32 :=
  (List.range (o.elems * o.active)).map fun i => BitVec.ofNat 32 (leNat (readVia s l (o.aux + 4 * i) 4))

/-- An expert outside the job's range stands in ROUTE. -/
def routeBad (x : Loom) (o : CollOp) (route : List W32) : Bool :=
  route.any fun w => w ≠ 0xFFFFFFFF && expertCount x o.group * boxSize x ≤ w.toNat

/-- The payload of a COUNTS frame: five 64-bit numbers. -/
def countsBytes (a b c d e : Nat) : List Byte := toLe 8 a ++ toLe 8 b ++ toLe 8 c ++ toLe 8 d ++ toLe 8 e
def countsOf (bs : List Byte) : Nat × Nat × Nat × Nat × Nat :=
  (fieldAt bs 0 8, fieldAt bs 8 8, fieldAt bs 16 8, fieldAt bs 24 8, fieldAt bs 32 8)

/-- The rank in the tile group of the command of the tile of a logical rank of the loom (R120, R265). -/
def groupRank (x : Loom) (rank : Nat) : Nat := match x.cmd with
  | some c => c.tiles.idxOf ((loomTiles x).getD rank 0)
  | none => rank

/-- The member index of the tile of a logical rank of the loom, on a module of the box (R265). -/
def memberOf (x : Loom) (o : CollOp) (rank box : Nat) : Nat := groupRank x rank % o.perBox + o.perBox * box

/-- The member a COUNTS frame for an expert goes to: the first tile of the expert, on its module. -/
def headMember (x : Loom) (o : CollOp) (e : Nat) : Nat :=
  let (m, i) := expertHome x o.group e
  memberOf x o ((expertFirst x o.group i).getD 0) m

/-- Slots of an expert in a member's ROUTE: token and slot, in order. -/
def slotsOf (o : CollOp) (route : List W32) (e : Nat) : List (Nat × Nat) :=
  (((List.range route.length).zip route).filter fun p => p.2 ≠ 0xFFFFFFFF && p.2.toNat = e).map fun p =>
    (p.1 / o.active, p.1 % o.active)

/-- Row a of an expert in pieces of up to 4,080 bytes: MOVE frames whose payload begins with the expert and the exchange
entry. -/
def rowFrames (x : Loom) (o : CollOp) (dir e a : Nat) (entry : Nat) (row : List Byte) (toward : Nat) : List (Nat × Frame) :=
  (List.range (pieces o.row 4080)).map fun k =>
    (toward, mkFrame x o fkMove dir a k (o.index % 65536) 0 (toLe 8 e ++ toLe 8 entry ++ (row.drop (4080 * k)).take 4080))

/-- The count phase begins: each member sends its slot count of every expert (R294). -/
def x2xStart (s : State) (l : Nat) (c : CollOut) : CollOut :=
  let x := getLoom s l
  let o := c.op
  let route := routeOf s l o
  let n := expertCount x o.group * boxSize x
  { c with sent := c.sent ++ (List.range n).map fun e =>
      (headMember x o e, mkFrame x o fkCounts 0 e 0 (o.index % 65536) 0
        (countsBytes e o.index (slotsOf o route e).length o.elem0 o.elems)) }

/-- A receiving tile of a RETURN learns which tokens a member holds, and sends it the rows that its exchange list names of
them (R296). -/
def returnRows (s : State) (l tile : Nat) (c : CollOut) (member base tokens : Nat) : CollOut :=
  let x := getLoom s l
  let o := c.op
  match sliceOf x o tile with
  | some (e, 0, first, n) =>
    let ge := boxIndexOf s x * expertCount x o.group + e
    { c with sent := c.sent ++ (List.range n).flatMap fun i =>
        let entry := leNat (readVia s l (o.src + o.slice * o.row + 8 * i) 8)
        if entry = 0xFFFFFFFFFFFFFFFF || entry / 256 < base || base + tokens ≤ entry / 256 then []
        else rowFrames x o 1 ge (first + i) entry (readVia s l (o.src + i * o.row) o.row) member }
  | _ => c

/-- Two members' token ranges overlap. -/
def tokenClash (a b : Nat × Nat × Nat × Nat × Nat) : Bool :=
  a.2.2.2.1 < b.2.2.2.1 + b.2.2.2.2 && b.2.2.2.1 < a.2.2.2.1 + a.2.2.2.2 && a.2.2.2.2 ≠ 0 && b.2.2.2.2 ≠ 0

/-- The head of an expert has every member's count: it totals them in ascending TOKEN_BASE, answers each member, and tells
the expert's tiles the total, or for a RETURN which tokens each member holds (R294, R296). The second result says that two
token ranges overlap (R293). -/
def x2xAdmit (s : State) (l : Nat) (c : CollOut) (e : Nat) : CollOut × Bool :=
  let x := getLoom s l
  let o := c.op
  let rows := (o.counts.filter fun t => t.1 = e).mergeSort fun a b => a.2.2.2.1 ≤ b.2.2.2.1
  let clash := (List.range rows.length).any fun i => match rows.drop i with
    | [] => false
    | a :: r => r.any (tokenClash a)
  let (total, replies) := rows.foldl (fun (acc : Nat × List (Nat × Nat × Nat)) t =>
    (acc.1 + t.2.2.1, acc.2 ++ [(t.2.1, min t.2.2.1 (o.capacity - acc.1), acc.1)])) (0, [])
  let kept := min total o.capacity
  let (m, i) := expertHome x o.group e
  let first := (expertFirst x o.group i).getD 0
  let tiles := (o.capacity + o.slice - 1) / o.slice * o.repl
  let frames := replies.map (fun r => (r.1, mkFrame x o fkCounts 1 e 0 (o.index % 65536) 0 (countsBytes e r.1 r.2.1 r.2.2 0)))
    ++ (List.range tiles).flatMap fun k =>
      let frame := fun c bs => (memberOf x o (first + k) m, mkFrame x o fkCounts 2 e c (o.index % 65536) 0 bs)
      if !o.retDir then [frame 0 (countsBytes e kept 0 0 0)]
      else if k % o.repl ≠ 0 then []
      else rows.map fun t => frame (t.2.1 % 65536) (countsBytes e t.2.1 0 t.2.2.2.1 t.2.2.2.2)
  let drops := if o.retDir then 0 else total - kept
  let s' := if drops = 0 then c.s
    else raiseEvt (modLoom c.s l fun y => { y with drops := (y.drops + drops) % 2 ^ 48 }) .coll 7 (some l)
  ({ c with s := s', sent := c.sent ++ frames }, clash)

/-- A member learns how many of its slots of an expert are admitted, and sends those rows (R294, R295). -/
def x2xSendRows (s : State) (l : Nat) (c : CollOut) (e n start : Nat) : CollOut :=
  let x := getLoom s l
  let o := c.op
  let slots := (slotsOf o (routeOf s l o) e).take n
  let (m, i) := expertHome x o.group e
  let first := (expertFirst x o.group i).getD 0
  { c with sent := c.sent ++ ((List.range slots.length).zip slots).flatMap fun (k, t, j) =>
      let a := start + k
      let row := readVia s l (o.src + t * o.row) o.row
      (List.range o.repl).flatMap fun r =>
        rowFrames x o 0 e a ((o.elem0 + t) * 256 + j) row (memberOf x o (first + a / o.slice * o.repl + r) m) }

/-- Slots of this member that were admitted: expert, row, token, slot. -/
def admittedSlots (s : State) (l : Nat) (o : CollOp) : List (Nat × Nat × Nat × Nat) :=
  let route := routeOf s l o
  o.admitted.flatMap fun (e, n, start) =>
    let slots := (slotsOf o route e).take n
    ((List.range slots.length).zip slots).map fun (k, t, j) => (e, start + k, t, j)

/-- An exchange is over at a member: it has every answer, and the rows that come to it (R295, R296). Then padding and
zero rows are formed. -/
def x2xDone (s : State) (l tile : Nat) (c : CollOut) : CollOut :=
  let x := getLoom s l
  let o := c.op
  let n := expertCount x o.group * boxSize x
  let heads := (expertRecs x o.group).filter fun r => r.first = loomRank x tile
  let ge := fun i => boxIndexOf s x * expertCount x o.group + i
  let counted := heads.all fun r => (o.counts.filter fun t => t.1 = ge r.count).length = o.members
  let np := pieces o.row 4080
  let returns := o.retDir && (match sliceOf x o tile with
    | some (_, 0, _, _) => true
    | _ => false)
  if o.received = 1 || !counted || o.admitted.length < n || (returns && o.holders.length < o.members) then c
  else if o.retDir then
    let slots := admittedSlots s l o
    if o.moved.length < slots.length * np then c
    else
      let kept := slots.map fun t => (t.2.2.1, t.2.2.2)
      let zero := (List.range (o.elems * o.active)).filter fun i => !kept.contains (i / o.active, i % o.active)
      { c with op := { o with
        received := 1
        bytes := o.bytes ++ zero.flatMap fun i => putBytes (o.dst + i * o.row) (List.replicate o.row 0) } }
  else
    match sliceOf x o tile with
    | none => { c with op := { o with received := 1 } }
    | some (e, _, first, rows) =>
      match o.totals.find? fun t => t.1 = ge e with
      | none => c
      | some (_, total) =>
        let mine := min rows (total - first)
        if o.moved.length < mine * np then c
        else
          let pad := (List.range rows).drop mine
          { c with op := { o with
            received := 1
            bytes := o.bytes ++ pad.flatMap fun i => putBytes (o.dst + i * o.row) (List.replicate o.row 0)
              ++ putBytes (o.dst + o.slice * o.row + 8 * i) (List.replicate 8 0xFF) } }

/-- Use a COUNTS frame: a count at a head, an answer at a member, a total or a member's tokens at a receiving tile. The second
result says that the collective must abort. -/
def useCounts (s : State) (l tile : Nat) (c : CollOut) (f : Frame) : CollOut × Bool :=
  let o := c.op
  let t := countsOf f.payload
  match f.stage.toNat with
  | 0 =>
    if o.counts.any fun q => q.1 = t.1 && q.2.1 = t.2.1 then (c, false)
    else
      let c := { c with op := { o with counts := o.counts ++ [t] } }
      if (c.op.counts.filter fun q => q.1 = t.1).length = o.members then
        let (c, bad) := x2xAdmit s l c t.1
        (x2xDone s l tile c, bad)
      else (c, false)
  | 1 =>
    if o.admitted.any fun q => q.1 = t.1 then (c, false)
    else
      let c := { c with op := { o with admitted := o.admitted ++ [(t.1, t.2.2.1, t.2.2.2.1)] } }
      let c := if o.retDir then c else x2xSendRows s l c t.1 t.2.2.1 t.2.2.2.1
      (x2xDone s l tile c, false)
  | _ =>
    if o.retDir then
      if o.holders.any fun q => q.1 = t.2.1 then (c, false)
      else
        let c := { c with op := { o with holders := o.holders ++ [(t.2.1, t.2.2.2.1, t.2.2.2.2)] } }
        (x2xDone s l tile (returnRows s l tile c t.2.1 t.2.2.2.1 t.2.2.2.2), false)
    else if o.totals.any fun q => q.1 = t.1 then (c, false)
    else (x2xDone s l tile { c with op := { o with totals := o.totals ++ [(t.1, t.2.1)] } }, false)

/-- Use a MOVE frame of an exchange; none while the answers that place its row are still to come. -/
def useRow (s : State) (l tile : Nat) (c : CollOut) (f : Frame) : Option CollOut :=
  let x := getLoom s l
  let o := c.op
  let e := fieldAt f.payload 0 8
  let entry := fieldAt f.payload 8 8
  let a := f.round.toNat
  let k := f.chunk.toNat
  let key := (a + 2 ^ 32 * e, k, 0)
  let body := f.payload.drop 16
  if o.moved.contains key then some c
  else if o.retDir then
    if !o.admitted.any fun q => q.1 = e then none
    else
      let t := entry / 256 - o.elem0
      let at_ := o.dst + (t * o.active + entry % 256) * o.row
      some (x2xDone s l tile { c with op := { o with
        moved := o.moved ++ [key], bytes := o.bytes ++ putBytes (at_ + 4080 * k) body } })
  else
    match sliceOf x o tile with
    | none => some c
    | some (_, _, first, _) =>
      let i := a - first
      some (x2xDone s l tile { c with op := { o with
        moved := o.moved ++ [key]
        bytes := o.bytes ++ putBytes (o.dst + i * o.row + 4080 * k) body
          ++ putBytes (o.dst + o.slice * o.row + 8 * i) (toLe 8 entry) } })

/-! ## The start of an operation -/

/-- The shard of an AG as chunks in DST_FMT (RNE, R270). -/
def agShard (s : State) (seed : W64) (o : CollOp) : Table (List Byte) × AFlags :=
  let region := regionAt (fullChunks o) o.stages o.stages.length
  ((List.range region.length).foldl (fun (acc : Table (List Byte) × AFlags) i =>
    let r := (List.range 1024).map fun e => finalElem seed o 0 (srcElem s o (i * 1024 + e))
    (tput acc.1 (region.getD i 0) (r.flatMap fun p => toLe (fmtBytes o.dstFmt) p.1), r.foldl (fun f p => f ||| p.2) acc.2))
    ([], 0))

/-- The mode and the size of the axis of a SHIFT; a PERM has none. -/
def moveMode (o : CollOp) : Nat := if o.kind = .shift then modeOfAxis o.orderTag o.axis else 0
def moveSize (x : Loom) (o : CollOp) : Nat :=
  let e := boxExtent x
  if o.kind = .shift then [o.a0, o.a1, o.a2, e.1, e.2.1, e.2.2].getD o.axis 1 else o.members

/-- The next coordinate on the way from p to a destination, and the one before p on the way from a source: on a line each member
relays along it (R292). -/
def moveNext (v n p dest : Nat) : Nat := if v = 0 then dest else (towardOwner v n p dest).headD dest
def movePrev (v n p src : Nat) : Nat := if v = 0 then src else (towardOwner v n p src).headD src

/-- The destinations whose bytes a member relays: on a line, those whose way leads past it. -/
def moveRelays (x : Loom) (o : CollOp) (p : Nat) : List Nat :=
  let v := moveMode o
  let n := moveSize x o
  if v = 0 then []
  else (List.range n).filter fun h =>
    let a := posOf v n ((((h : Int) - o.dist) % n).toNat)
    let b := posOf v n h
    let k := posOf v n p
    (a < k && k < b) || (b < k && k < a)

/-- A SHIFT or PERM is over at a member: every piece it receives and every piece it relays has come. -/
def moveDone (x : Loom) (o : CollOp) (p : Nat) : Bool :=
  let np := pieces o.elems 4096
  o.moved.length = np && o.relayed.length = np * (moveRelays x o p).length

/-- A MOVE frame of a SHIFT or PERM, from this member on toward a destination. -/
def moveFrame (x : Loom) (o : CollOp) (p dest k : Nat) (bs : List Byte) : Nat × Frame :=
  (moveNext (moveMode o) (moveSize x o) p dest,
   mkFrame x o fkMove (if o.kind = .shift then o.axis else 0) k (dest % 65536) (p % 65536) 0 bs)

/-- The MOVE frames of a SHIFT or PERM. -/
def moveFrames (s : State) (l : Nat) (o : CollOp) (dest : Nat) : List (Nat × Frame) :=
  (List.range (if o.elems = 0 then 0 else pieces o.elems 4096)).map fun k =>
    moveFrame (getLoom s l) o (moveSelf s l o) dest k (readVia s l (o.src + 4096 * k) (min 4096 (o.elems - 4096 * k)))

/-- Use a MOVE frame of a SHIFT or PERM: its bytes are for this member, or go on along the line. -/
def useMove (s : State) (l : Nat) (c : CollOut) (f : Frame) : CollOut :=
  let x := getLoom s l
  let o := c.op
  let p := moveSelf s l o
  let k := f.round.toNat
  let home := f.chunk.toNat
  let finish := fun o : CollOp => { o with received := if moveDone x o p then 1 else 0 }
  if home = p % 65536 then
    if o.moved.contains (k, 0, 0) then c
    else { c with op := finish { o with
      moved := o.moved ++ [(k, 0, 0)], bytes := o.bytes ++ putBytes (o.dst + 4096 * k) f.payload } }
  else if o.relayed.contains (k, home, 0) then c
  else { c with op := finish { o with relayed := o.relayed ++ [(k, home, 0)] }
                sent := c.sent ++ [moveFrame x o p home k f.payload] }

/-- Begin an operation at its member; the second result says that it aborts with BAD_COMMAND. -/
def collStart (s : State) (l : Nat) (o : CollOp) : CollOut × Bool :=
  let x := getLoom s l
  let c : CollOut := { s, op := { o with region := List.range (fullChunks o) } }
  match o.kind with
  | .rs | .ar =>
    if o.elems = 0 then
      let c := { c with op := { c.op with received := 1, sqDone := !o.norm } }
      (if o.norm then startScalar x c else c, false)
    else (startStage x c, false)
  | .ag =>
    if o.elems = 0 then ({ c with op := { c.op with received := 1, sqDone := true } }, false)
    else
      let (finals, fl) := agShard s x.seed o
      (startGather x { c with op := { c.op with finals, flags := fl, sqDone := true, gather := some o.stages.length } }, false)
  | .x2x =>
    let c := { c with op := { c.op with sqDone := true } }
    if routeBad x o (routeOf s l o) then (c, true)
    else
      (x2xStart s l c, false)
  | _ =>
    match movePeers s l o with
    | none => (c, true)
    | some (dest, from_) =>
      let o := { c.op with sqDone := true }
      let self := moveSelf s l o
      if o.elems = 0 then ({ c with op := { o with received := 1 } }, false)
      else if dest = self && from_ = self then
        ({ c with op := { o with received := 1, bytes := putBytes o.dst (readVia s l o.src o.elems) } }, false)
      else ({ c with op := o, sent := moveFrames s l o dest }, false)

/-- A frame of an exchange whose receiver is the member itself. -/
def toSelf (o : CollOp) (q : Nat × Frame) : Bool := o.kind = .x2x && q.1 = o.index

/-- Put an operation back, with what it sends: frames to the member itself wait in its own box, the others go out as credits
allow. A member that met poison ends with UNCORRECTED, and its loom with it (R177, R185). -/
def collPut (l tile : Nat) (c : CollOut) : State :=
  let x := getLoom c.s l
  let s := modTile c.s tile fun t => { t with
    colls := t.colls.map fun q => if q.strand = c.op.strand && q.tag = c.op.tag then c.op else q
    selfbox := t.selfbox ++ (c.sent.filter (toSelf c.op)).map (·.2)
    sentFrames := t.sentFrames ++
      (c.sent.filter fun q => !toSelf c.op q).map fun q => outFrame c.s x c.op q.1 q.2 }
  let s := driveTile l s tile
  if !c.poison then s
  else
    let s := modTile s tile fun t => { t with
      colls := t.colls.map fun q => if q.strand = c.op.strand && q.tag = c.op.tag then endColl stUncorr q else q }
    loomUncorr (abortColl s l tile c.op stCancelled) l tile c.op.strand

end Sys2Proof.Machine
end

