-- ==== Sys2Proof/Machine/CollFrames.lean ====
section
/-! DEFINITION. Collectives at work: what a frame is checked for and used for (R266, R278 to R283), the issue of the six COLL
instructions, COLL_COMPLETE, and the nine frames. -/
namespace Sys2Proof.Machine

/-! ## Which frames fit an operation (R266, R278) -/

/-- The index of an axis among the stages of an operation, with its size. -/
def stageIdx (o : CollOp) (ax : Nat) : Option (Nat × Nat) :=
  match o.stages.findIdx? fun t => t.1 = ax with
  | some i => (o.stages[i]?).map fun t => (i, t.2.1)
  | none => none

/-- A frame of a chunk fits: its axis is a stage, its round and chunk exist, its length is right. -/
def chunkFits (o : CollOp) (f : Frame) (len : Nat) : Bool :=
  match stageIdx o f.stage.toNat with
  | none => false
  | some (i, n) =>
    f.round.toNat < (regionAt (fullChunks o) o.stages i).length / n && f.chunk.toNat < n && f.sender.toNat < n
      && f.payload.length = len && f.side = 0

/-- The parameters of a frame agree with the operation. -/
def frameFits (s : State) (l : Nat) (o : CollOp) (f : Frame) : Bool :=
  let reduce := o.kind = .rs || o.kind = .ar
  let packed := o.comp ≠ 0 && 3 ≤ f.stage.toNat
  f.orderTag = o.orderTag &&
    match f.kind.toNat with
    | 1 => reduce && !packed && chunkFits o f 4096
    | 2 => (o.kind = .ag || o.kind = .ar) && chunkFits o f (finalLen o)
    | 3 => reduce && packed && chunkFits o f (compLen o)
    | 4 =>
      match o.kind with
      | .x2x =>
        let k := f.chunk.toNat
        f.side = 0 && f.stage = (if o.retDir then 1 else 0) && k < pieces o.row 4080
          && f.payload.length = 16 + min 4080 (o.row - 4080 * k)
      | .shift | .perm =>
        let x := getLoom s l
        let k := f.round.toNat
        let p := moveSelf s l o
        let home := f.chunk.toNat
        let n := moveSize x o
        let src := if home = p % 65536 then (movePeers s l o).map (·.2)
          else if o.kind = .shift && (moveRelays x o p).contains home then some (((home : Int) - o.dist) % n).toNat
          else none
        f.side = 0 && f.stage.toNat = (if o.kind = .shift then o.axis else 0) && o.elems ≠ 0 && k < pieces o.elems 4096
          && f.payload.length = min 4096 (o.elems - 4096 * k)
          && src.any fun q => f.sender.toNat = movePrev (moveMode o) n p q % 65536
      | _ => false
    | 5 => o.kind = .x2x && f.side = 0 && f.stage.toNat ≤ 2 && f.payload.length = 40
    | 6 => reduce && o.norm && f.payload.isEmpty &&
      match stageIdx o f.stage.toNat with
      | some (_, n) => f.chunk.toNat < n && f.sender.toNat < n
      | none => false
    | _ => false

/-- A frame that fits but whose stage is over: a copy of one already used. -/
def frameStale (o : CollOp) (f : Frame) : Bool :=
  let i := match stageIdx o f.stage.toNat with
    | some (i, _) => i
    | none => 0
  match f.kind.toNat with
  | 1 | 3 => i < o.stage
  | 2 => match o.gather with
    | some g => g < i + 1
    | none => o.received = 1
  | 6 => o.sqDone || i < o.sqStage
  | _ => o.received = 1

/-- Use a frame that fits: none while its turn has not come; the second result says that the collective aborts. -/
def frameUse (s : State) (l tile : Nat) (o : CollOp) (f : Frame) : Option (CollOut × Bool) :=
  let x := getLoom s l
  let c : CollOut := { s, op := o }
  match f.kind.toNat with
  | 1 => (usePartial x c f).map (·, false)
  | 2 => (useFinal x c f).map (·, false)
  | 3 => (useContrib x c f).map (·, false)
  | 4 =>
    if o.kind = .x2x then (useRow s l tile c f).map (·, false) else some (useMove s l c f, false)
  | 5 => some (useCounts s l tile c f)
  | 6 => (useScalar x c f).map (·, false)
  | _ => none

/-- Whether the use of a frame added: a PARTIAL that travelled on or ended a round, the CONTRIB that ended its owner's round, the
SCALAR that ended a stage of the norm. -/
def useAdds (o : CollOp) (f : Frame) (c : CollOp) : Bool :=
  let ended := c.rounds.length ≠ o.rounds.length || c.stage ≠ o.stage
  match f.kind.toNat with
  | 1 => ended || c.relayed.length ≠ o.relayed.length
  | 3 => ended && (o.stages[o.stage]?).any fun t => f.chunk.toNat = t.2.2
  | 6 => c.sqStage ≠ o.sqStage
  | _ => false

/-- A residue check finds a wrong addition of a CHECKED collective: an adder of the die leaves service and the collective
is aborted with UNCORRECTED (R287). Which adder did the addition is free. -/
def residueFail (s : State) (l tile : Nat) (o : CollOp) : State :=
  let die := dieOfBay (bayOf tile)
  let up := (List.range 4).filter fun a => (getReg s (adderReg die)).getLsbD a
  let (k, s) := drawFree s 1
  let s := raiseEvt s .coll 2 (some l) die
  let s := abortColl s l tile o stUncorr
  match up with
  | [] => s
  | _ => adderFail s die (up.getD (Config.freeNat k % up.length) 0)

/-! ## Frames that wait at a tile -/

/-- The collective of a loom's tile that a frame belongs to. -/
def frameOp (s : State) (l tile : Nat) (f : Frame) : Option CollOp :=
  (tileOf s l tile).colls.find? fun o => o.comm = f.comm.toNat && o.num % 65536 = f.seq.toNat

/-- What becomes of a waiting frame: none, it goes on waiting; else the state in which it is used or dropped. -/
def tryFrame (s : State) (l tile : Nat) (m : InFrame) : Option State :=
  let f := m.fr
  match frameOp s l tile f with
  | some o =>
    if o.status.isSome then some s
    else if o.waiting then none
    else if !frameFits s l o f then some (abortColl s l tile o stBad)
    else if frameStale o f then some s
    else
      match frameUse s l tile o f with
      | none => none
      | some (c, bad) =>
        if o.checked && !m.sound && useAdds o f c.op then some (residueFail s l tile o)
        else
          let s' := collPut l tile c
          some (if bad then abortColl s' l tile o stBad else s')
  | none =>
    let next := tget 0 (getTile s tile).collNum f.comm.toNat
    if (f.seq.toNat + 65536 - next % 65536) % 65536 < 32768 then none else some s

/-- The first waiting frame that can be used or dropped: those of the tile itself, then those that came in. -/
def nextFrame (s : State) (l tile : Nat) : Option (Bool × InFrame × State) :=
  let t := getTile s tile
  match t.selfbox.findSome? fun f => (tryFrame s l tile ⟨f, true⟩).map fun s' => (true, ⟨f, true⟩, s') with
  | some r => some r
  | none => t.inbox.findSome? fun m => (tryFrame s l tile m).map fun s' => (false, m, s')

/-- The direction in which the member lies that sent a frame of a module axis: the member before on a ring, the neighbour on its
side of a line. -/
def senderDir (s : State) (x : Loom) (f : Frame) : Nat :=
  let k := f.stage.toNat - 3
  let v := modeOfAxis f.orderTag f.stage.toNat
  if v = 0 && f.kind.toNat ≠ fkMove then 2 * k + 1
  else axisDir s x k v ((boxPlace x (boxIndexOf s x)).getD k 0) f.sender.toNat

/-- A member answers a frame with ACK or REPLAY_REQ (R281, R282): it names the copy by the frame's own fields and itself by FROM, a
CONTRIB's by its contributor. FROM of a collective that is not in flight here is free where it rests on its descriptor. -/
def answerFrame (s : State) (l tile : Nat) (f : Frame) (kind : Nat) : State :=
  let x := getLoom s l
  let axis := 3 ≤ f.stage.toNat && f.kind.toNat ≠ fkCounts && f.kind.toNat ≠ fkAbort
  let op := frameOp s l tile f
  let (sender, s) : BitVec 16 × State :=
    if f.kind.toNat = fkContrib then (f.sender, s)
    else match op with
      | some o => (BitVec.ofNat 16 (ownPlace s x o f), s)
      | none =>
        if axis then (BitVec.ofNat 16 ((boxPlace x (boxIndexOf s x)).getD (f.stage.toNat - 3) 0), s)
        else let (n, s) := drawFree s 1; (BitVec.ofNat 16 (Config.freeNat n), s)
  let dir := match op with
    | some o => if byIndex o f.kind.toNat then boxDir s x (f.sender.toNat / o.perBox)
      else if axis then some (senderDir s x f) else none
    | none => if axis then some (senderDir s x f) else none
  sendFrame s dir f.sender.toNat
    (sealFrame { f with jobId := x.jobId, kind := BitVec.ofNat 4 kind, len := 0, side := 0, sender, payload := [] })

/-- Use waiting frames while one can be used; each returns its credit in an ACK (R282). -/
def settleColls (l tile : Nat) : Nat → State → State
  | 0, s => s
  | fuel + 1, s =>
    match nextFrame s l tile with
    | none => s
    | some (true, m, s') => settleColls l tile fuel (modTile s' tile fun t => { t with selfbox := t.selfbox.erase m.fr })
    | some (false, m, s') =>
      let s' := modTile s' tile fun t => { t with inbox := t.inbox.erase m }
      settleColls l tile fuel (answerFrame (modLoom s' l fun x => { x with creditsUsed := x.creditsUsed - 1 }) l tile m.fr fkAck)

/-- More than the frames that can wait and follow from one another. -/
def settleFuel : Nat := 1000000

/-! ## The end of a collective -/

/-- The destinations of a collective that did not end OK, and the residuals of its SRC, hold free values (R283, R315). -/
def collSpoil (s : State) (l tile : Nat) (o : CollOp) : State :=
  let x := getLoom s l
  let s := spoil s ((collWrites x tile o).map fun r => (r.1, r.2.1))
  if o.comp = 0 then s
  else spoil s ((List.range o.elems).filterMap fun i =>
    (residualAt s.variant x (o.src + i * fmtBytes o.srcFmt)).map fun a => (a, 4))

/-- The die whose bay recorded the latest time; equal times go to the lower die (R321). -/
def latestDie (times : Table W64) : Option Nat :=
  (times.foldl (fun (best : Option (Nat × W64)) kv =>
    let d := dieOfBay kv.1
    match best with
    | none => some (d, kv.2)
    | some (e, t) => if t.ult kv.2 || (t = kv.2 && d < e) then some (d, kv.2) else best) none).map (·.1)

/-- The record of a collective's issue changes; one that none has is made. -/
def modCollTime (x : Loom) (o : CollOp) (f : CollTime → CollTime) : Loom :=
  let mine := fun (c : CollTime) => c.comm = o.comm && c.num = o.num && c.group = o.g
  if x.collTimes.any mine then { x with collTimes := x.collTimes.map fun c => if mine c then f c else c }
  else { x with collTimes := x.collTimes ++ [f { comm := o.comm, num := o.num, group := o.g }] }

/-- A member issues: its bay notes the timebase (R321). -/
def noteCollIssue (now : W64) (bay : Nat) (o : CollOp) (x : Loom) : Loom :=
  modCollTime x o fun c => { c with issued := c.issued + 1, open_ := c.open_ + 1, times := tput c.times bay now }

/-- A member ends: with the last of the members on this module the engine reports the collective's last die (R321). -/
def noteCollEnd (o : CollOp) (x : Loom) : Loom :=
  let x := modCollTime x o fun c => { c with open_ := c.open_ - 1 }
  let all_ := fun (c : CollTime) => c.comm = o.comm && c.num = o.num && c.group = o.g && c.issued = o.perBox && c.open_ = 0
  { x with
    collTimes := x.collTimes.filter fun c => !all_ c
    lastDies := x.lastDies ++ (x.collTimes.filter all_).filterMap fun c => latestDie c.times }

/-- A collective leaves its tile; its tag completes with the status and the order tag (R142). -/
def collEnd (s : State) (a : Issuer) (o : CollOp) (st : Byte) : State :=
  let s := match ownerOfTile s a.tile with
    | some l => modLoom s l (noteCollEnd o)
    | none => s
  let s := modTile s a.tile fun t => { t with colls := t.colls.filter fun q => !(q.strand = o.strand && q.tag = o.tag) }
  completeTag s a o.tag st o.orderTag o.flags

/-- Write the norm of a collective: 4 B, or the norm block of a step collective (R291, R307, R309). -/
def collNorm (s : State) (l tile : Nat) (o : CollOp) : State :=
  if !o.norm then s
  else
    let at_ := tileAddr tile o.normOff
    if isStepColl (getLoom s l) o then
      let (s, b) := takeBucket s l o.comm o.num o.g o.sq
      wrN s at_ b
    else wr s at_ 4 o.sq.toNat

/-- A lower-numbered step collective of the loom is still in flight (R306). -/
def stepWaits (s : State) (x : Loom) (o : CollOp) : Bool :=
  isStepColl x o && (loomTiles x).any fun t => (getTile s t).colls.any fun q => isStepColl x q && q.num < o.num && q.status.isNone

/-- COLL_COMPLETE: with an abort's status, or when everything has been received and used. -/
def collFinish (s : State) (a : Issuer) (tag : BitVec 16) : State :=
  let t := getTile s a.tile
  match t.colls.find? fun o => o.strand = a.strand && o.tag = tag, ownerOfTile s a.tile with
  | some o, some l =>
    let x := getLoom s l
    if x.parks then s
    else
      match o.status with
      | some st => settleColls l a.tile settleFuel (collEnd (collSpoil s l a.tile o) a o st)
      | none =>
        if o.waiting || o.received ≠ 1 || !o.sqDone || stepWaits s x o then s
        else
          let ws := (collWrites x a.tile o).map fun r => (r.1, r.2.1)
          let ws := if o.norm then ws ++ [(tileAddr a.tile o.normOff, if isStepColl x o then 32 else 4)] else ws
          let rs := (collReads x a.tile o).map fun r => (r.1, r.2.1)
          match ws.findSome? fun r => uncopied s r.1 r.2 with
          | some kb => holdCopy s [a.tile, a.strand, tag.toNat] kb
          | none =>
            if opPoison s x rs ws then
              loomUncorr (collEnd (collSpoil (meetUnits s (some l) rs) l a.tile o) a o stUncorr) l a.tile a.strand
            else
              let s := o.bytes.foldl (fun s p => wrN s (ownerAt x p.1) [p.2]) s
              let s := ws.foldl (fun s r => clearVia s x r.1 r.2) (collNorm s l a.tile o)
              settleColls l a.tile settleFuel (collEnd s a o stOk)
  | _, _ => s

def execCollComplete (a : Issuer) (tag : BitVec 16) (s : State) : Host.Outcome State Fault Refusal :=
  .next (alive s fun s => collFinish s a tag)

/-! ## Issue -/

/-- The tag is taken and the operation stands in its tile (R143, R266); the bay notes the timebase (R321). -/
def collTake (s : State) (a : Issuer) (f : FmtD) (o : CollOp) : State :=
  let s := modTile s a.tile fun t => { t with
    colls := t.colls ++ [o]
    collNum := tput t.collNum o.comm (o.num + 1)
    aborted := t.aborted.filter fun q => !(q.1 = o.comm && q.2.1 = o.num) }
  let s := modTlm s fun t => { t with lastColl := tput t.lastColl (bayOf a.tile) t.timebase }
  let s := match ownerOfTile s a.tile with
    | some l => modLoom s l (noteCollIssue s.tlm.timebase (bayOf a.tile) o)
    | none => s
  modStrand s a fun y => (y.takeTag .coll f.sd.toNat).next

/-- A collective begins at its member. -/
def beginColl (s : State) (l tile : Nat) (o : CollOp) : State :=
  let (c, bad) := collStart s l o
  let s' := collPut l tile c
  settleColls l tile settleFuel (if bad then abortColl s' l tile o stBad else s')

/-- A member holds a collective at or beyond the install point while new modes are on their way (R276). -/
def holdsColl (x : Loom) (comm num : Nat) : Bool := x.installHold && tget 0 x.install comm ≤ num

/-- The collectives that members of a loom hold begin, in the order now in force (R276). Those of a loom that is away begin at its
resume. -/
def beginHeld (s : State) (l : Nat) : State :=
  let x := getLoom s l
  if x.installHold || !x.holder || x.parks then s
  else (loomTiles x).foldl (fun s t =>
    ((getTile s t).colls.filter fun o => o.waiting && o.status.isNone).foldl (fun s o =>
      let o' := { o with waiting := false, orderTag := opTag x o }
      beginColl (modTile s t fun u => { u with
        colls := u.colls.map fun q => if q.strand = o.strand && q.tag = o.tag then o' else q }) l t o') s) s

/-- Issue a COLL instruction. One whose number an abort has already ended completes at once with its status (R283). -/
def collIssue (op : Nat) (kind : CollKind) (a : Issuer) (f : FmtD) (s : State) : State :=
  issue s a (wordD 0xA op f) fun l y =>
    if !(plainD f && f.inl = 0 && f.sb = 0) then .fault stBad
    else
      match descriptor s a.tile (y.sget f.sa.toNat) 64 with
      | .error st => .fault st
      | .ok d =>
        let x := getLoom s l
        let t := getTile s a.tile
        let tiles := (x.cmd.map (·.tiles)).getD []
        let o := collDesc kind d
        let o := if o.a0 = 0 || o.a1 = 0 || o.a2 = 0 then o else placeMember s x ((tiles.idxOf? a.tile).getD 0) o
        let o := { o with strand := a.strand, tag := y.tagNext, num := tget 0 t.collNum o.comm }
        let o := { o with orderTag := opTag x o, waiting := holdsColl x o.comm o.num }
        if !(collPlain o d && collFields s.variant x o tiles.length) then .fault stBad
        else
          let st := rangesOk s x (collReads x a.tile o ++ collWrites x a.tile o)
          if st ≠ stOk then .fault st
          else if 32 ≤ y.incomplete.length then .stall
          else
            match t.aborted.find? fun q => q.1 = o.comm && q.2.1 = o.num with
            | some q =>
              .done (settleColls l a.tile settleFuel (collEnd (collSpoil (collTake s a f o) l a.tile o) a o q.2.2))
            | none =>
              .done (if o.waiting then collTake s a f o else beginColl (collTake s a f o) l a.tile o)

def execRs (a : Issuer) (f : FmtD) (s : State) : Host.Outcome State Fault Refusal := .next (collIssue 0 .rs a f s)
def execAg (a : Issuer) (f : FmtD) (s : State) : Host.Outcome State Fault Refusal := .next (collIssue 1 .ag a f s)
def execAr (a : Issuer) (f : FmtD) (s : State) : Host.Outcome State Fault Refusal := .next (collIssue 2 .ar a f s)
def execShift (a : Issuer) (f : FmtD) (s : State) : Host.Outcome State Fault Refusal := .next (collIssue 3 .shift a f s)
def execPerm (a : Issuer) (f : FmtD) (s : State) : Host.Outcome State Fault Refusal := .next (collIssue 4 .perm a f s)
def execX2x (a : Issuer) (f : FmtD) (s : State) : Host.Outcome State Fault Refusal := .next (collIssue 5 .x2x a f s)

/-! ## Frames from outside -/

/-- The loom a frame is for: of its job, on the tile's bay; the holder first. -/
def frameLoom (s : State) (tile : Nat) (f : Frame) : Option Nat :=
  let mine := (liveLooms s).filter fun l => let x := getLoom s l; x.jobId = f.jobId && x.bays.contains (bayOf tile)
  match mine.find? fun l => (getLoom s l).holder with
  | some l => some l
  | none => mine.head?

/-- A frame that a link delivered is taken up by the tile it is for (R260). -/
def takeDelivered (s : State) (f : Frame) : State :=
  match (List.range 6).find? fun d => (getLink s d).frames.contains f with
  | some d => setLink s d { getLink s d with frames := (getLink s d).frames.erase f }
  | none => s

/-- Park a chunk of a loom that is away: its record names the strand, the tag and the destination of the collective it
belongs to; those of a collective that is not yet issued are free values (R163, R193; log 53). -/
def framePark (s : State) (l tile : Nat) (m : InFrame) : State :=
  let (k, s) := drawFree s 3
  let r : ParkRec := match frameOp s l tile m.fr with
    | some o => { tile, strand := o.strand, tag := o.tag, status := stOk, off := o.dst, data := m.fr.payload }
    | none => { tile, strand := Config.freeNat k, tag := BitVec.ofNat 16 (Config.freeNat (k + 1)), status := stOk,
                off := Config.freeNat (k + 2), data := m.fr.payload }
  modLoom (parkWrite s (getLoom s l) r true) l fun y => { y with parkedFrames := y.parkedFrames ++ [(tile, m)] }

/-- At resume a parked frame reaches its member (R164, R193). -/
def unparkFrame (l : Nat) (s : State) (tile : Nat) (m : InFrame) : State :=
  settleColls l tile settleFuel (modTile s tile fun u => { u with inbox := u.inbox ++ [m] })

/-- A data frame arrives at a member: one that fails its check values is asked for again (R281); else it takes a credit of its
loom, and while the loom is away it is parked (R163, R244). -/
def frameIn (kind tile : Nat) (f : Frame) (sound : Bool) (s : State) : State :=
  match frameLoom s tile f with
  | none => s
  | some l =>
    let x := getLoom s l
    if f.kind.toNat ≠ kind || x.credits ≤ x.creditsUsed || x.discards then s
    else
      let s := takeDelivered s f
      if f.crc ≠ frameCrc f || f.len.toNat ≠ f.payload.length then answerFrame s l tile f fkReplayReq
      else
        let s := modLoom s l fun y => { y with creditsUsed := y.creditsUsed + 1 }
        if x.holder && !x.parks then unparkFrame l s tile ⟨f, sound⟩ else framePark s l tile ⟨f, sound⟩

def execPartialFrame (tile : Nat) (f : Frame) (residueOk : Bool) (s : State) : Host.Outcome State Fault Refusal :=
  .next (alive s fun s => frameIn fkPartial tile f residueOk s)
def execFinalFrame (tile : Nat) (f : Frame) (s : State) : Host.Outcome State Fault Refusal :=
  .next (alive s fun s => frameIn fkFinal tile f true s)
def execContribFrame (tile : Nat) (m : InFrame) (s : State) : Host.Outcome State Fault Refusal :=
  .next (alive s fun s => frameIn fkContrib tile m.fr m.sound s)
def execMoveFrame (tile : Nat) (f : Frame) (s : State) : Host.Outcome State Fault Refusal :=
  .next (alive s fun s => frameIn fkMove tile f true s)
def execCountsFrame (tile : Nat) (f : Frame) (s : State) : Host.Outcome State Fault Refusal :=
  .next (alive s fun s => frameIn fkCounts tile f true s)
def execScalarFrame (tile : Nat) (m : InFrame) (s : State) : Host.Outcome State Fault Refusal :=
  .next (alive s fun s => frameIn fkScalar tile m.fr m.sound s)

/-! ## Control frames -/

/-- A sent frame that an ACK or REPLAY_REQ answers: the same collective, stage, round and chunk, and the neighbour it went
to, or for a CONTRIB its contributor. -/
def answers (f : Frame) (q : SentFrame) : Bool :=
  q.fr.comm = f.comm && q.fr.seq = f.seq && q.fr.stage = f.stage && q.fr.round = f.round && q.fr.chunk = f.chunk
    && !q.waiting && (if q.fr.kind.toNat = fkContrib then q.fr.sender = f.sender else q.toward % 65536 = f.sender.toNat)

/-- A control frame of a kind that its loom takes: its check values are right. -/
def controlOk (f : Frame) (kind : Nat) : Bool := f.kind.toNat = kind && f.crc = frameCrc f && f.len.toNat = f.payload.length

/-- REPLAY_REQ: the sender sends its copy again, and counts; when eight attempts have failed, the link goes DOWN and the frame goes
by a detour, or the loom stops when the hop lies in the module (R281). -/
def replayReq (tile : Nat) (f : Frame) (s : State) : State :=
  match frameLoom s tile f with
  | none => s
  | some l =>
    if !controlOk f fkReplayReq then s
    else
      let s := takeDelivered s f
      match (tileOf s l tile).sentFrames.find? (answers f) with
      | none => s
      | some q =>
        let put := fun n => modTileOf s l tile fun t => { t with
          sentFrames := t.sentFrames.map fun (p : SentFrame) => if p = q then { p with attempts := n } else p }
        if q.attempts < 8 then
          sendFrame (countReg (raiseEvt (put (q.attempts + 1)) .coll 3 (some l)) 0x00700038) q.dir q.toward q.fr
        else
          match q.dir with
          | some d => linkDown (put 0) d
          | none => loomUncorr (put 0) l tile

def execReplayReqFrame (tile : Nat) (f : Frame) (s : State) : Host.Outcome State Fault Refusal :=
  .next (alive s fun s => replayReq tile f s)

/-- ACK: the sender's copy is released, and its credit serves a frame that waits (R281, R282). -/
def ackIn (tile : Nat) (f : Frame) (s : State) : State :=
  match frameLoom s tile f with
  | none => s
  | some l =>
    if !controlOk f fkAck then s
    else
      let s := takeDelivered s f
      match (tileOf s l tile).sentFrames.find? (answers f) with
      | none => s
      | some q => driveFrames (modTileOf s l tile fun t => { t with sentFrames := t.sentFrames.erase q }) l

def execAckFrame (tile : Nat) (f : Frame) (s : State) : Host.Outcome State Fault Refusal := .next (alive s fun s => ackIn tile f s)

/-- The member's collective ends with an abort's status, now or when it is issued (R283). -/
def abortTake (s : State) (l tile : Nat) (f : Frame) (st : Byte) : State :=
  match frameOp s l tile f with
  | some o =>
    if o.status.isSome then s
    else raiseEvt (modTileOf s l tile fun t => { t with
      colls := t.colls.map fun q => if q.comm = o.comm && q.num = o.num then endColl st q else q }) .coll 8 (some l)
  | none =>
    let next := tget 0 (tileOf s l tile).collNum f.comm.toNat
    let ahead := (f.seq.toNat + 65536 - next % 65536) % 65536
    if ahead < 32768 then modTileOf s l tile fun t => { t with aborted := t.aborted ++ [(f.comm.toNat, next + ahead, st)] }
    else s

/-- ABORT: one that fails its check values is asked for again; one whose status Table 0-5 does not list is dropped (R19). -/
def abortIn (tile : Nat) (f : Frame) (s : State) : State :=
  match frameLoom s tile f with
  | none => s
  | some l =>
    if f.kind.toNat ≠ fkAbort then s
    else
      let s := takeDelivered s f
      let st := f.payload.headD stCancelled
      if !controlOk f fkAbort then answerFrame s l tile f fkReplayReq
      else if !stListed st then s
      else answerFrame (abortTake s l tile f st) l tile f fkAck

def execAbortFrame (tile : Nat) (f : Frame) (s : State) : Host.Outcome State Fault Refusal := .next (alive s fun s => abortIn tile f s)

end Sys2Proof.Machine
end

