-- ==== Sys2Proof/Machine/Sched.lean ====
section
/-! DEFINITION. Which loom holds its bays (R229, R230, R238, R239), how one leaves them (R240 to R244) and how a loom
comes to STOPPED (R235, R249, R251, R339). -/
namespace Sys2Proof.Machine

/-! ## Bays -/

/-- A loom is tile-resident (after R231). -/
def tileResident (x : Loom) : Bool := x.map.any fun r => r.kind = mkTs || r.kind = mkHot

/-- Clear the tile stores of bays (R179, R230): every byte reads 0, every POISONED group and wrong bit is gone, and nothing of a loom
stands in the tiles. Their counters belong to no loom (R408). -/
def clearBays (s : State) (bays : List Nat) : State :=
  let mine := fun a => match place s.variant a with
    | .tile t _ => bays.contains (bayOf t)
    | _ => false
  { s with
    mem := s.mem.filter fun c => !mine c.1
    faults := { s.faults with
      poisonedGroups := s.faults.poisonedGroups.filter fun g => !bays.contains (bayOf g.1)
      tsFlips := s.faults.tsFlips.filter fun kv => !bays.contains (bayOf (kv.1 / 2 ^ 21))
      thrumFlips := s.faults.thrumFlips.filter fun kv => !bays.contains (bayOf (kv.1 / 2 ^ 15)) }
    tiles := s.tiles.map fun (t, x) => if bays.contains (bayOf t) then (t, { cnt := x.cnt, ovf := x.ovf, ovfCnt := x.ovfCnt })
      else (t, x) }

/-- What a loom's tile holds for it while it is away without an image: the numbers of its collectives, the aborts of later
ones, the frames that wait and the frames sent (R266, R281). -/
def keepTile (t : Tile) : Tile :=
  { collNum := t.collNum, aborted := t.aborted, inbox := t.inbox, selfbox := t.selfbox, sentFrames := t.sentFrames }

/-- A holder leaves its bays: its tile counters are added to its totals (R408). -/
def leaveBays (s : State) (l : Nat) : State :=
  let x := getLoom s l
  if !x.holder then s
  else
    let tiles := loomTiles x
    let keep : Table Tile := if x.image.isSome then [] else tiles.foldl (fun k t => tset {} k t (keepTile (getTile s t))) []
    let totals := tiles.foldl (fun tot t =>
      (getTile s t).cnt.foldl (fun tot c => tmod 0 tot (t * 256 + c.1) fun n => (n + c.2) % 2 ^ 48) tot) x.tlm.totals
    let s := (coResident s l).foldl (fun s k => modLoom s k fun y => { y with lastHolder := false }) s
    let s := tiles.foldl (fun s t => if (getTile s t).cnt.isEmpty then s else modTile s t fun u => { u with cnt := [] }) s
    setLoom s l { x with holder := false, lastHolder := true, keep, tlm := { x.tlm with totals } }

/-- A loom becomes the holder: at a change of holder the bays are cleared, unless a save image will fill them (R230). -/
def enterBays (s : State) (l : Nat) : State :=
  let x := getLoom s l
  let s := if x.image.isSome || x.lastHolder then s
    else x.keep.foldl (fun s kv => setTile s kv.1 kv.2) (clearBays s x.bays)
  let s := (coResident s l).foldl (fun s k => modLoom s k fun y => { y with lastHolder := false }) s
  modLoom s l fun y => { y with holder := true, keep := [] }

/-! ## Selection (R238, R239) -/

/-- The dobby ring of a loom as its session holds it. -/
def dobbyRingOf (s : State) (x : Loom) : Option CmdRing := tfind (getSession s x.session).cmd x.dobbyRing

/-- A command of the host waits in the dobby ring of a loom. -/
def hostReady (s : State) (x : Loom) : Bool :=
  match dobbyRingOf s x with
  | some r => !r.stopped && r.tail ≠ r.head
  | none => false

/-- A loom has a command in its ring: the host's, or one that the serving engine or the shed controller wrote. -/
def ringReady (s : State) (x : Loom) : Bool := hostReady s x || !x.engineRing.isEmpty

/-- Eligible for its bay set (R238). A SAVED loom with a stop to serve stays eligible (Table 7-3). -/
def eligible (s : State) (l : Nat) : Bool :=
  let x := getLoom s l
  (x.st = .running || x.st = .ready || x.st = .saved) && !x.heldByHost
    && (x.cmd.isSome || ringReady s x || (x.st = .saved && x.stopAtEnd))

/-- The loom selected among some: highest PRIORITY, then the first after the outgoing holder, wrapping after 31. -/
def pickNext (s : State) (out : Nat) (ls : List Nat) : Option Nat :=
  let el := ls.filter (eligible s)
  let top := el.foldl (fun m l => max m (getLoom s l).priority) 0
  let best := el.filter fun l => (getLoom s l).priority = top
  (List.range 32).findSome? fun i => best.find? fun l => l = (out + 1 + i) % 32

/-- The holder of a bay set, and the loom that held it last. -/
def holderOf (s : State) (l : Nat) : Option Nat := (coResident s l).find? fun k => (getLoom s k).holder
def lastHolderOf (s : State) (l : Nat) : Option Nat := (coResident s l).find? fun k => (getLoom s k).lastHolder

/-- The loom that takes the bays from a holder, when the holder is to change (R238, R239). -/
def displaces (s : State) (h : Nat) : Option Nat :=
  let x := getLoom s h
  let others := ((coResident s h).filter fun k => k ≠ h).filter (eligible s)
  let higher := others.any fun k => x.priority < (getLoom s k).priority
  let gone := !eligible s h && !others.isEmpty
  let turn := x.stepClass && x.cmd.isNone && x.stepEnded && others.any fun k => (getLoom s k).priority = x.priority
  if higher || gone || turn then pickNext s h others else none

/-- A loom takes its bays: RESTORING when it has an image, else RUNNING (Table 7-3). -/
def selectLoom (s : State) (l : Nat) : State :=
  let img := (getLoom s l).image.isSome
  modLoom (enterBays s l) l fun x => { x with
    st := if img then .restoring else .running, stopIssue := false, stepEnded := false, selAt := some s.tlm.timebase }

/-! ## The end at STOPPED -/

/-- What stays of a tile at the end of a run: its counters and the frames sent. The numbers of its collectives, the frames that
wait and the aborts of later ones are gone (R266), and so is whatever a FENCED loom left in flight. -/
def endRun (t : Tile) : Tile :=
  { cnt := t.cnt, ovf := t.ovf, ovfCnt := t.ovfCnt, sample := t.sample, sentFrames := t.sentFrames }

/-- A loom enters STOPPED: its units return (R249), its requests end (R339), its shed is kept (Table 11-7), and its save
image, parking records and waiting frames are gone (R251). Its bays are free for another holder. -/
def toStopped (s : State) (l : Nat) : State :=
  let s := returnUnits (shedStopped (endAllReqs (leaveQueues s l) l stCancelled) l) l
  let live := (getLoom s l).holder || (getLoom s l).lastHolder
  let s := leaveBays s l
  let s := if live then (loomTiles (getLoom s l)).foldl (fun s t => if (tfind s.tiles t).isSome then modTile s t endRun else s) s
    else s
  modLoom s l fun x => { x with
    keep := x.keep.map fun kv => (kv.1, endRun kv.2)
    st := .stopped, cmd := none, stopIssue := false, pendingStop := false, stopAtEnd := false, preempt := none
    waitPreempt := none, image := none, parked := [], parkedFrames := [], creditsUsed := 0, selAt := none }

/-! ## Pre-emption (R240 to R243) -/

/-- The time since a request in µs: the timebase counts at 100 MHz. -/
def sinceUs (s : State) (p : Preempt) : Nat := min 0xFFFF ((s.tlm.timebase - p.since).toNat / 100)

/-- The SOFT point: READY, the bays are given up; a stop that is pending acts as on READY (Table 7-3). -/
def softPoint (s : State) (l : Nat) (p : Preempt) : State :=
  let s := modLoom (leaveBays s l) l fun x => { x with
    st := .ready, preempt := none, softCnt := satAdd 0xFFFFFFFF x.softCnt 1, softNext := satAdd 255 x.softNext 1
    graceUs := sinceUs s p, saveUs := 0 }
  let s := raiseEvt s .lmgr 2 (some l)
  if (getLoom s l).pendingStop then toStopped s l else s

/-- The HARD point: SAVING. -/
def hardPoint (s : State) (l : Nat) (p : Preempt) : State :=
  modLoom (leaveQueues s l) l fun x => { x with st := .saving, preempt := none, graceUs := sinceUs s p }

/-- Revoke every shared unit of a loom, again for those that its own waiting strands receive (R148, R241). -/
def revokeAll (s : State) (l : Nat) : Nat → State
  | 0 => s
  | fuel + 1 => if holdsUnits s l then revokeAll (returnUnits s l) l fuel else s

/-- Strands of a loom that wait for shared units. -/
def unitWaiters (s : State) (l : Nat) : Nat := (s.ssems.map fun kv => (kv.2.waiters.filter fun w => w.1 = l).length).sum

/-- The rule of R241 at this moment. -/
def preemptEval (s : State) (l : Nat) : State :=
  match (getLoom s l).preempt with
  | none => s
  | some p =>
    if (getLoom s l).st ≠ .preempting then s
    else
      let s := if p.graceOver then revokeAll s l (unitWaiters s l + 1) else s
      let x := getLoom s l
      let holds := holdsUnits s l
      if x.cmd.isNone && !holds then if tileResident x then hardPoint s l p else softPoint s l p
      else if p.softOver && !holds then hardPoint s l p
      else if holds && (p.softOver || (x.cmd.isNone && tileResident x)) && !p.deferred then
        raiseEvt (setLoom s l { x with preempt := some { p with deferred := true } }) .lmgr 4 (some l)
      else s

/-- A checkpoint copy holds the loom (R434). -/
def copying (x : Loom) : Bool := match x.ckpt.run with
  | some r => r.copying
  | none => false

/-- A request for pre-emption (R240): a loom whose checkpoint copy runs waits for its end; a second request changes
nothing but that a HARD one ends the soft wait. -/
def requestPreempt (s : State) (l : Nat) (hard : Bool) : State :=
  let x := getLoom s l
  match x.st with
  | .running =>
    if copying x then setLoom s l { x with waitPreempt := some (hard || x.waitPreempt = some true) }
    else
      let p : Preempt := { softOver := hard || x.softWait = 0, deferred := false, since := s.tlm.timebase }
      preemptEval (shedEnter (setLoom s l { x with st := .preempting, preempt := some p, waitPreempt := none }) l) l
  | .preempting =>
    if hard then preemptEval (modLoom s l fun y => { y with preempt := y.preempt.map fun q => { q with softOver := true } }) l
    else s
  | _ => s

/-- A pre-emption that waited for a checkpoint copy begins. -/
def serveWaiting (s : State) (l : Nat) : State :=
  match (getLoom s l).waitPreempt with
  | some h => if copying (getLoom s l) then s else requestPreempt s l h
  | none => s

/-- Select a loom as R238 and R239 say: at once when no loom holds the bays; else the holder is pre-empted first. A
FAULTED loom keeps its bays out of service (Table 7-3). -/
def trySelect (s : State) (l : Nat) : State :=
  if (coResident s l).any (fun k => (getLoom s k).st = .faulted) || (getLoom s l).bays.any s.svc.testing.contains then s
  else
    match holderOf s l with
    | none => if pickNext s ((lastHolderOf s l).getD 31) (coResident s l) = some l then selectLoom s l else s
    | some h =>
      if (getLoom s h).st = .running && displaces s h = some l then
        let s := requestPreempt s h false
        if (holderOf s l).isNone then selectLoom s l else s
      else s

end Sys2Proof.Machine
end

