-- ==== Sys2Proof/Machine/Fabric.lean ====
section
/-! DEFINITION. The package fabric: flits, parity and replay at its ports (R200, R201), the route of a flit (R198, R199, R202),
die edges that narrow or go down (R202), looms whose dies cannot reach each other (R203, R445), and how a loom is fenced (R252,
Table 7-3). -/
namespace Sys2Proof.Machine

/-! ## Fencing -/

/-- The states from which a loom is fenced (Table 7-3). -/
def fenceStates : List LoomState := [.running, .preempting, .saving, .ready, .saved, .restoring]

/-- A loom enters FENCED: it stops issuing as for CUT, its command will end FENCED, its units return, and what depends on
it ends with FENCED. Bays whose image is not back are cleared, since it will not come (R230). -/
def fenceIn (s : State) (l : Nat) : State :=
  let s := if (getLoom s l).st = .restoring then clearBays s (getLoom s l).bays else s
  let s := modLoom (leaveQueues s l) l fun x => { x with
    st := .fenced, stopIssue := true, preempt := none, waitPreempt := none, pendingStop := false, stopAtEnd := false
    cmd := x.cmd.map fun c => { c with endStatus := some (c.endStatus.getD stFenced) } }
  endWith (returnUnits (raiseEvt s .lmgr 6 (some l)) l) l stFenced stFenced

/-- A split of the torus fences a loom: its dirty rows go home (R219), and it leaves its bays. -/
def fenceLoom (s : State) (l : Nat) : State :=
  if !fenceStates.contains (getLoom s l).st then s
  else fenceIn (leaveBays (hotStop (if (getLoom s l).st = .restoring then clearBays s (getLoom s l).bays else s) l) l) l

/-! ## The mesh of routers (R196, R198) -/

/-- Nodes: router r of die d is 16d + r; the stack or I/O die at site p of the periphery is 640 + p, bridged to router 0 of its
die (log 6). The routers of all dies form one grid of 32 by 20. -/
def nodeRouter (n : Nat) : Nat := if n < 640 then n else Config.siteDie (n - 640) * 16
def nodeX (n : Nat) : Nat := nodeRouter n / 16 % 8 * 4 + nodeRouter n % 4
def nodeY (n : Nat) : Nat := nodeRouter n / 16 / 8 * 4 + nodeRouter n % 16 / 4
def nodeAt (x y : Nat) : Nat := (y / 4 * 8 + x / 4) * 16 + y % 4 * 4 + x % 4

/-- The edge between (x, y) and (x + 1, y), and between (x, y) and (x, y + 1). -/
def horEdge (x y : Nat) : Nat := y * 7 + x
def verEdge (x y : Nat) : Nat := 35 + y * 8 + x

/-- Ports: 2e and 2e + 1 send over die edge e, toward the higher and the lower die number; 134 + 4n + k sends over the in-die link
of router node n in direction k (0 lower x, 1 higher x, 2 lower y, 3 higher y); the bridge of site p sends outward at
2694 + 2p and inward at 2695 + 2p (log 6). -/
def edgePorts : Nat := 134
def siteBase : Nat := 2694
def portCount : Nat := 2730
def getPort (s : State) (p : Nat) : FabPort := tget {} s.fab p
def setPort (s : State) (p : Nat) (x : FabPort) : State := { s with fab := tput s.fab p x }

/-- The neighbour of a node in a direction. -/
def nodeStep (n k : Nat) : Nat :=
  match k with
  | 0 => nodeAt (nodeX n - 1) (nodeY n)
  | 1 => nodeAt (nodeX n + 1) (nodeY n)
  | 2 => nodeAt (nodeX n) (nodeY n - 1)
  | _ => nodeAt (nodeX n) (nodeY n + 1)

/-- The port over which a router sends in a direction: its own link, or the bridge of the die edge on that side. -/
def portToward (n k : Nat) : Nat :=
  let m := nodeStep n k
  if n / 16 = m / 16 then edgePorts + 4 * n + k
  else
    let d := min (n / 16) (m / 16)
    let e := if k < 2 then horEdge (d % 8) (d / 8) else verEdge (d % 8) (d / 8)
    2 * e + if n / 16 < m / 16 then 0 else 1

/-- Which of the four routers along its side of a die a node is, seen in a direction. -/
def lineOf (n k : Nat) : Nat := if k < 2 then nodeY n % 4 else nodeX n % 4

/-- The node that sends over a port a flit on a line, and the node that receives it. -/
def portEnds (p line : Nat) : Option (Nat × Nat) :=
  if p < edgePorts then
    let e := p / 2
    let (a, b) := if e < 35 then
        let x := e % 7 * 4
        let y := e / 7 * 4 + line % 4
        (nodeAt (x + 3) y, nodeAt (x + 4) y)
      else
        let x := (e - 35) % 8 * 4 + line % 4
        let y := (e - 35) / 8 * 4
        (nodeAt x (y + 3), nodeAt x (y + 4))
    some (if p % 2 = 0 then (a, b) else (b, a))
  else if p < siteBase then
    let n := (p - edgePorts) / 4
    let k := (p - edgePorts) % 4
    let inside : Bool := match k with
      | 0 => n % 4 ≠ 0
      | 1 => n % 4 ≠ 3
      | 2 => n % 16 / 4 ≠ 0
      | _ => n % 16 / 4 ≠ 3
    if inside then some (n, nodeStep n k) else none
  else if p < portCount then
    let site := 640 + (p - siteBase) / 2
    some (if p % 2 = 0 then (nodeRouter site, site) else (site, nodeRouter site))
  else none

/-! ## Routes (R199, R202) -/

def edgeStatusReg (e : Nat) : Nat := 0x00B00100 + e * 0x10
def edgeDown (s : State) (e : Nat) : Bool := bits (getReg s (edgeStatusReg e)).toNat 3 0 = 3

/-- The edges along a row or a column. -/
def rowEdges (x x' y : Nat) : List Nat := (List.range (max x x' - min x x')).map fun i => horEdge (min x x' + i) y
def colEdges (y y' x : Nat) : List Nat := (List.range (max y y' - min y y')).map fun i => verEdge x (min y y' + i)

/-- The edges of the x-then-y and of the y-then-x route between two dies. -/
def xyEdges (a b : Nat) : List Nat := rowEdges (a % 8) (b % 8) (a / 8) ++ colEdges (a / 8) (b / 8) (b % 8)
def yxEdges (a b : Nat) : List Nat := colEdges (a / 8) (b / 8) (a % 8) ++ rowEdges (a % 8) (b % 8) (b / 8)

/-- Two dies reach each other by the x-then-y or the y-then-x route (R199, R202, R203). -/
def reach (s : State) (a b : Nat) : Bool :=
  ((xyEdges a b).all fun e => !edgeDown s e) || ((yxEdges a b).all fun e => !edgeDown s e)

/-- Traffic between two nodes goes y-then-x: its x-then-y route crosses a down edge (R202). -/
def detoured (s : State) (src dest : Nat) : Bool := (xyEdges (nodeRouter src / 16) (nodeRouter dest / 16)).any (edgeDown s)

/-- The port over which a node sends a flit onward, by dimension order: the coordinate that is first until it agrees, then the
other; none at the flit's destination. -/
def nextPort (s : State) (n : Nat) (f : FabFlit) : Option Nat :=
  if n = f.dest then none
  else if 640 ≤ n then some (siteBase + 2 * (n - 640) + 1)
  else if n = nodeRouter f.dest then some (siteBase + 2 * (f.dest - 640))
  else
    let x := nodeX f.dest
    let y := nodeY f.dest
    let inX := if nodeX n = x then false else !detoured s f.src f.dest || nodeY n = y
    some (portToward n (if inX then if x < nodeX n then 0 else 1 else if y < nodeY n then 2 else 3))

/-! ## Ports -/

/-- Every word of a flit passes its parity (R171): word and bit together hold an even number of ones. -/
def flitOk (f : FabFlit) : Bool :=
  f.words.length = 20 && f.parity.length = 20 &&
    (f.words.zip f.parity).all fun (w, p) => (((List.range 32).filter fun i => w.getLsbD i).length + if p then 1 else 0) % 2 = 0

/-- A port sends a flit: it takes the hop's next number, and stays in the replay buffer of 256 until acknowledged. node is
where it is sent from. -/
def sendFlit (s : State) (p node : Nat) (f : FabFlit) : State :=
  let x := getPort s p
  let line := if p < edgePorts then lineOf node (if p / 2 < 35 then 0 else 2) else 0
  setPort s p { x with replay := x.replay ++ [{ f with seq := x.sendSeq, line }], sendSeq := x.sendSeq + 1 }

/-- The replay buffer of a port has room. -/
def portRoom (s : State) (p : Nat) : Bool := (getPort s p).replay.length < 256

/-- A flit that enters the fabric at a port is sent there first: the next number, with room in the buffer. -/
def enterFlit (s : State) (p : Nat) (f : FabFlit) : State :=
  let x := getPort s p
  if f.seq = x.sendSeq && portRoom s p then setPort s p { x with replay := x.replay ++ [f], sendSeq := x.sendSeq + 1 } else s

/-- A flit arrives at the receiving end of a port (R200): a word failing parity discards it and every later one until the named
number comes again, and returns a replay request; each number is accepted once, and goes on along its route (R199). reply holds
the number requested. -/
def flitIn (s : State) (p : Nat) (f : FabFlit) : State :=
  match portEnds p f.line with
  | none => s
  | some (_, node) =>
    let s := enterFlit s p f
    let x := getPort s p
    if f.seq ≠ x.expect || !x.replay.any (fun g => g.seq = f.seq) then s
    else if !flitOk f then { setPort s p { x with discarding := true } with reply := [f.seq.setWidth 64] }
    else
      let y : FabPort := { x with expect := x.expect + 1, discarding := false }
      match nextPort s node f with
      | some q => if portRoom s q then sendFlit (setPort s p y) q node f else s
      | none => setPort s p { y with delivered := y.delivered ++ [f] }

/-- FLIT_RECEIVE: line is the one of a die edge's four that the flit comes by. -/
def execFlitReceive (port : Nat) (flit : FabFlit) (line : Nat) (s : State) : Host.Outcome State Fault Refusal :=
  .next (alive s fun s => flitIn s port { flit with line })

/-- A port acknowledges a number: the sender releases every flit up to it. -/
def flitAck (s : State) (p : Nat) (seq : BitVec 12) : State :=
  let x := getPort s p
  match x.replay.findIdx? fun f => f.seq = seq with
  | none => s
  | some i => setPort s p { x with replay := x.replay.drop (i + 1), failing := none, attempts := 0 }

def execFlitAcknowledge (port : Nat) (seq : BitVec 12) (s : State) : Host.Outcome State Fault Refusal :=
  .next (alive s fun s => flitAck s port seq)

/-- Traffic takes its new routes (R202): each port gives up the flits that its receiver has not accepted and that now go another
way; they are sent over the new port in their order, before any later flit, and the flits that stay are numbered anew. -/
def reroute (s : State) : State :=
  (s.fab.map (·.1)).foldl (fun s p =>
    let x := getPort s p
    let held := x.replay.dropWhile fun f => f.seq ≠ x.expect
    let way := fun (f : FabFlit) => match portEnds p f.line with
      | some (node, _) => (nextPort s node f).bind fun q => if q = p then none else some (q, node)
      | none => none
    let stay := (held.filter fun f => (way f).isNone).zip (List.range held.length)
    if stay.length = held.length then s
    else
      let y : FabPort := { x with
        replay := (x.replay.takeWhile fun f => f.seq ≠ x.expect) ++ stay.map fun q => { q.1 with seq := x.expect + BitVec.ofNat 12 q.2 }
        sendSeq := x.expect + BitVec.ofNat 12 stay.length, failing := none, attempts := 0, discarding := false }
      held.foldl (fun s f => match way f with
        | some (q, node) => sendFlit s q node f
        | none => s) (setPort s p y)) s

/-! ## Edges (R196, R201, R202) -/

/-- The dies of a loom. -/
def loomDies (x : Loom) : List Nat := (x.bays.map dieOfBay).eraseDups

/-- A loom whose dies cannot all reach each other. -/
def cutOff (s : State) (l : Nat) : Bool :=
  let ds := loomDies (getLoom s l)
  ds.any fun a => ds.any fun b => !reach s a b

/-- The dies of a loom that cannot reach its anchor die, the lowest of them (R203, R445). -/
def cutDies (s : State) (l : Nat) : List Nat :=
  let ds := loomDies (getLoom s l)
  ds.filter fun d => !reach s (ds.foldl min 40) d

/-- A tile that stops issuing and writes nothing: whatever is in flight in it is dropped. -/
def silence (t : Tile) : Tile := { keepTile t with cnt := t.cnt, ovf := t.ovf, ovfCnt := t.ovfCnt, strands := t.strands }

/-- A loom whose dies cannot reach one another is fenced under the anchor rule (R203, R445): tiles that cannot reach the anchor
die write nothing, the command in progress completes with FENCED, and the tiles that can keep the loom's bays. -/
def fenceCut (s : State) (l : Nat) : State :=
  if !fenceStates.contains (getLoom s l).st then s
  else
    let cut := cutDies s l
    let s := fenceIn s l
    ((loomTiles (getLoom s l)).filter fun t => cut.contains (dieOfBay (bayOf t))).foldl (fun s t => modTileOf s l t silence) s

/-- One detection of the fabric: its log entry, once, and an event for each bit (R195, Table 6-8). -/
def fabError (s : State) (evts : List Nat) (edge die router unit : Nat) : State :=
  let type := evts.foldl max 0
  let s := capture s 0x00B00018 (BitVec.ofNat 64 (type * 2 ^ 48 + edge * 2 ^ 40 + die * 2 ^ 32 + router * 2 ^ 28))
    [(0x00B00010, s.tlm.timebase)]
  evts.foldl (fun s b => raiseEvt s .fab b none unit) s

/-- A UCIe module of an edge is removed (R201): which of those working carried the flit is free. An edge with fewer than
four is down, and looms that it cuts off are fenced. -/
def dropModule (s : State) (e : Nat) : State :=
  let v := (getReg s (edgeStatusReg e)).toNat
  let up := (List.range 8).filter fun m => (v >>> (8 + m)) % 2 = 1
  match up with
  | [] => s
  | _ =>
    let (k, s) := drawFree s 1
    let m := up.getD (Config.freeNat k % up.length) 0
    let down := up.length - 1 < 4
    let s := setReg s (edgeStatusReg e) (BitVec.ofNat 64 ((bits v 15 8 - 2 ^ m) * 2 ^ 8 + if down then 3 else 2))
    let cut := (liveLooms s).filter fun l => cutOff s l && fenceStates.contains (getLoom s l).st
    let evts := [0, 2] ++ (if down then [3] else []) ++ if down && !cut.isEmpty then [4] else []
    let s := noteCause (fabError s evts e 0xFF 0 e) 4 e 1 true
    if down then cut.foldl fenceCut (reroute s) else s

/-- The tiles a router serves (R198), and the loss of a router: every loom holding one stops with UNCORRECTED (R203). -/
def loseRouter (s : State) (die router : Nat) : State :=
  let bay := die * 8 + router / 2
  let s := modSvc s fun v => { v with
    lostDies := (v.lostDies ++ [die]).eraseDups, lostBays := (v.lostBays ++ [bay]).eraseDups }
  ((liveLooms s).filter fun l => (getLoom s l).bays.contains bay).foldl (fun s l => loomUncorr s l) s

/-- A sender resends from the failing number in order (R200), and counts. After 32 failed attempts of one flit a die edge
loses the module that carried it, and an in-die link the tiles it serves (R201). reply holds the numbers resent. -/
def replayFrom (s : State) (p : Nat) (seq : BitVec 12) : State :=
  let x := getPort s p
  match x.replay.findIdx? fun f => f.seq = seq with
  | none => s
  | some i =>
    let again := x.replay.drop i
    let n := if x.failing = some seq then x.attempts + 1 else 1
    let s := { setPort s p { x with failing := some seq, attempts := if n < 32 then n else 0 } with
      reply := again.map fun f => f.seq.setWidth 64 }
    if p < edgePorts then
      let e := p / 2
      let s := countReg s (edgeStatusReg e + 8)
      if n < 32 then noteCause (fabError s [0] e 0xFF 0 e) 4 e 1 else dropModule s e
    else if siteBase ≤ p then s
    else
      let die := (p - edgePorts) / 64
      let r := (p - edgePorts) / 4 % 16
      let s := countReg s (0x10000000 + die * 0x01000000 + 0x008B0000 + r * 8)
      let s := fabError s [1] 0xFF die r die
      if n < 32 then s else loseRouter s die r

def execFabricReplayRequest (port : Nat) (seq : BitVec 12) (s : State) : Host.Outcome State Fault Refusal :=
  .next (alive s fun s => replayFrom s port seq)

end Sys2Proof.Machine
end

