-- ==== Sys2Proof/Machine/HostOps.lean ====
section
/-! DEFINITION. What every command of a ring and every register access begins with: the session of a function (R449, R450,
R457), the ownership of a loom (R232), the state a configuration command needs (R233, R234), and the completion (R462). -/
namespace Sys2Proof.Machine

/-! ## Functions and sessions -/

/-- The key of a function among the session registers. -/
def fnKey (w : Accessor) : Nat := w.io * 32 + w.fn
def getFn (s : State) (w : Accessor) : FnRegs := tget {} s.fns (fnKey w)
def setFn (s : State) (w : Accessor) (x : FnRegs) : State := { s with fns := tput s.fns (fnKey w) x }
/-- The session open on a function; the PF carries none (R450). -/
def sessOf (s : State) (w : Accessor) : Option Nat := if w.fn = 0 then none else (getFn s w).session
/-- A function whose session was opened with an ADMIN slot: it writes module-wide registers (R457). -/
def adminOf (s : State) (w : Accessor) : Bool := match sessOf s w with
  | some n => (getSession s n).admin
  | none => false
/-- A function whose session owns a loom. -/
def ownsLoom (s : State) (w : Accessor) (l : Nat) : Bool :=
  (getLoom s l).st ≠ .free && sessOf s w = some (getLoom s l).session

/-! ## Ring commands -/

/-- Run the command a ring has taken: it is refused with a status, or has its effect and a result; then it completes. -/
def cmdRun (s : State) (sess ring : Nat) (f : Taken → Except Byte (State × List Byte)) : State :=
  match takenOf s sess ring with
  | none => s
  | some t =>
    if t.started then s
    else match f t with
      | .error st => finish s sess ring st
      | .ok (s', r) => finish s' sess ring stOk r

/-- A loom exists and belongs to the session (R232). -/
def loomOwned (s : State) (sess l : Nat) : Bool := (getLoom s l).st ≠ .free && (getLoom s l).session = sess

/-- The refusal of a configuration command (R232, R234): PERMISSION, or NOT_STOPPED. -/
def cfgRefusal (s : State) (sess l : Nat) : Option Byte :=
  if !loomOwned s sess l then some stPerm
  else if (getLoom s l).st ≠ .stopped then some stNotStopped
  else none

/-- As cmdRun, for a configuration command of the envelope's loom. -/
def cfgRun (s : State) (sess ring : Nat) (f : Taken → Except Byte (State × List Byte)) : State :=
  cmdRun s sess ring fun t => match cfgRefusal s sess t.loom with
    | some st => .error st
    | none => f t

end Sys2Proof.Machine
end

