-- ==== Sys2Proof/Machine/Link.lean ====
section
/-! DEFINITION. Torus links: the check of a partner (R259), flits and replay (R260, R261), lanes (R258, R262), retraining
(R263), detours (R275), the order of sums (R272, R276), splits (R277, R444), COLL_CONFIG (R264), and the adders' self-test
(R285, R286). -/
namespace Sys2Proof.Machine

/-! ## Lanes (R25, R256, R262) -/

/-- The replay counter of a direction. -/
def dirReplayReg (d : Nat) : Nat := 0x00708108 + d * 0x10
/-- UP or NARROWED by its lanes; DOWN below a quarter of them (R262, R263). A link that works again sends what no ACK covers. -/
def relane (s : State) (d : Nat) : State :=
  let n := lanesUp s d
  let total := Config.lanesPerDir s.variant
  let before := linkWorks s d
  if n < total / 4 then linkDown s d
  else
    let s := setLink s d { getLink s d with st := if n = total then 1 else 2 }
    if before then s else resendFlits s d fun _ => true

/-! ## Training (R258, R259) -/

/-- After training this end sends its coordinate and the torus extents, from LINK_COORD (R259). -/
def sendCoord (s : State) (d : Nat) : State := send s (.coord d (getReg s 0x00708000))

/-- The neighbour in a direction, with the torus extents, as LINK_COORD gives it. -/
def neighbour (s : State) (d : Nat) : BitVec 15 :=
  let c := coordOf s
  let e := extentOf s
  let cs := [c.1, c.2.1, c.2.2]
  let es := [e.1, e.2.1, e.2.2]
  let go := fun k : Nat =>
    let n := es.getD k 1
    if k ≠ d / 2 then cs.getD k 0 else if d % 2 = 0 then (cs.getD k 0 + 1) % n else (cs.getD k 0 + n - 1) % n
  BitVec.ofNat 15 (go 0 + go 1 * 4 + go 2 * 16 + e.1 * 64 + e.2.1 * 512 + e.2.2 * 4096)

/-- After training a partner sends its coordinate and extents: a neighbour that R256 does not name makes the link FAILED. -/
def coordCheck (s : State) (d : Nat) (partner : BitVec 15) : State :=
  if !linkPresent s d || (getLink s d).st ≠ 0 then s
  else if partner ≠ neighbour s d then
    raiseEvt (linkLog (setLink s d { getLink s d with st := 4 }) 4 d 0xFF 0xFF) .link 4 none d
  else relane s d

def execLinkCoordCheck (dir : Nat) (partner : BitVec 15) (s : State) : Host.Outcome State Fault Refusal :=
  .next (alive s fun s => coordCheck s dir partner)

/-! ## Flits (R260, R261) -/

/-- A good flit is delivered: the whole frames of the collective channel stand for their tiles, or go on when this module lies on
their detour (R275); the packets of the other channels are taken up by their own commands. -/
def deliverFlit (s : State) (d : Nat) (f : WeftFlit) : State :=
  let x := getLink s d
  if f.vc ≠ 0 then setLink s d { x with delivered := x.delivered ++ [f] }
  else
    let (fs, part) := takeFrames 300 (x.part ++ f.payload)
    fs.foldl (fun s q =>
      match x.relays.find? fun r => r.1 = q.jobId && r.2.1 = q.stage.toNat with
      | some r => linkSend s r.2.2 0 (frameBytes q)
      | none => setLink s d { getLink s d with frames := (getLink s d).frames ++ [q] }) (setLink s d { x with part })

/-- A flit arrives: an uncorrectable codeword or a bad HCRC discards it and every later one, and asks for a replay from its
number (reply holds it). Which lane carried the codeword is free. A good one acknowledges what the partner has received. -/
def linkFlitIn (s : State) (d : Nat) (f : WeftFlit) (fecOk : Bool) : State :=
  let x := getLink s d
  if !linkWorks s d || f.payload.length ≠ 256 || f.seq ≠ x.expect then s
  else if !fecOk then
    let (k, s) := drawFree s 2
    let io := Config.freeNat k % Config.ioDies s.variant
    let lane := 4 * d + Config.freeNat (k + 1) % 4
    let s := countReg (setLink s d { x with discarding := true }) (laneReg io + 8)
    { raiseEvt (linkLog s 0 d io lane) .link 0 none d with reply := [f.seq.setWidth 64] }
  else if f.hcrc ≠ crc16 (flitCrcBytes f) then { setLink s d { x with discarding := true } with reply := [f.seq.setWidth 64] }
  else deliverFlit (setLink s d ({ x with expect := x.expect + 1, discarding := false }.ack f.ack)) d f

def execLinkFlit (dir : Nat) (flit : WeftFlit) (fecOk : Bool) (s : State) : Host.Outcome State Fault Refusal :=
  .next (alive s fun s => linkFlitIn s dir flit fecOk)

/-- The partner asks for a replay from a number it has not received: the flits from there go out again and the replay is counted;
when 32 replays of one flit have failed, the link is DOWN (R261, R263). -/
def linkReplayFrom (s : State) (d : Nat) (seq : BitVec 16) : State :=
  let x := getLink s d
  if !linkWorks s d || !seqAfter seq x.acked then s
  else
    let x := x.ack (seq - 1)
    let n := if x.failing = some seq then x.attempts + 1 else 1
    if 32 < n then linkDown (setLink s d { x with failing := none, attempts := 0 }) d
    else
      let s := countReg (setLink s d { x with failing := some seq, attempts := n }) (dirReplayReg d)
      let s := noteCause (raiseEvt (linkLog s 1 d 0xFF 0xFF) .link 1 none d) 5 d 1
      resendFlits s d fun q => !seqAfter seq q.1.seq

def execLinkReplay (dir : Nat) (seq : BitVec 16) (s : State) : Host.Outcome State Fault Refusal :=
  .next (alive s fun s => linkReplayFrom s dir seq)

/-- A lane is dropped (R262): the link narrows and the flits it carried that no ACK covers go out on the other lanes, or the link
goes DOWN. -/
def dropLane (s : State) (io lane : Nat) : State :=
  let d := lane / 4
  if Config.ioDies s.variant ≤ io || 24 ≤ lane || !laneUp s io lane then s
  else
    let s := setReg s (laneReg io) (getReg s (laneReg io) &&& ~~~ (BitVec.ofNat 64 (2 ^ lane)))
    let down := linkWorks s d && lanesUp s d < Config.lanesPerDir s.variant / 4
    let s := raiseEvt (linkLog s (if down then 3 else 2) d io lane) .link 2 none d
    let s := noteCause s 5 d 1 true
    if down then raiseEvt (setLink s d { getLink s d with st := 3 }) .link 3 none d
    else if linkWorks s d then resendFlits (relane s d) d fun q => q.2 = io * 24 + lane
    else s

def execLaneDrop (io lane : Nat) (s : State) : Host.Outcome State Fault Refusal := .next (alive s fun s => dropLane s io lane)

/-- What training found of a lane stands in its I/O die's status; a port without a partner is not driven (R490). -/
def putLane (s : State) (f : LaneFinding) : State :=
  if Config.ioDies s.variant ≤ f.io || 24 ≤ f.lane || s.svc.absent.contains (f.io, f.lane / 4) then s
  else
    let bit := fun (n : Nat) (on : Bool) (v : W64) =>
      if on then v ||| BitVec.ofNat 64 (2 ^ n) else v &&& ~~~ (BitVec.ofNat 64 (2 ^ n))
    setReg s (laneReg f.io)
      (bit (58 + f.lane / 4) f.reversed (bit (34 + f.lane) f.inverted (bit f.lane f.up (getReg s (laneReg f.io)))))

/-- LINK_RETRAIN of a direction: its dropped lanes, or every lane of a DOWN or FAILED link, which then checks its partner
again (R259); working lanes are not disturbed. -/
def retrainDir (found : List LaneFinding) (s : State) (d : Nat) : State :=
  if !linkPresent s d then s
  else
    let dead := (getLink s d).st = 3 || (getLink s d).st = 4
    let mine := found.filter fun f => f.lane / 4 = d && (dead || !laneUp s f.io f.lane)
    let s := mine.foldl putLane s
    if dead then
      if lanesUp s d < Config.lanesPerDir s.variant / 4 then s
      else sendCoord (setLink s d { getLink s d with st := 0, failing := none, attempts := 0, detour := none }) d
    else if linkWorks s d then relane s d else s

/-- A write to LINK_RETRAIN, with what the training found. -/
def execLinkRetrain (who : Accessor) (value : W64) (found : List LaneFinding) (s : State) :
    Host.Outcome State Fault Refusal :=
  .next (alive s fun s => if adminOf s who then ((List.range 6).filter fun d => value.getLsbD d).foldl (retrainDir found) s else s)

/-! ## Detours, modes and splits -/

/-- The direction a detour takes: the first axis and sign, in the order of R275, whose link works and beyond which the neighbouring
line has a working link between the same two coordinates. -/
def detourOf (s : State) (d : Nat) (lines : List Nat) : Option Nat :=
  (List.range 6).find? fun k => k / 2 ≠ d / 2 && linkWorks s k && lines.contains k

/-- The frames of a direction that no ACK covers, of every loom. -/
def unacked (s : State) (d : Nat) : List SentFrame :=
  (liveLooms s).flatMap fun l => (loomTiles (getLoom s l)).flatMap fun t =>
    (tileOf s l t).sentFrames.filter fun q => q.dir = some d && !q.waiting

/-- A hop whose link is DOWN goes by a detour, and with it again every frame that no ACK covers. -/
def takeDetour (s : State) (d : Nat) (lines : List Nat) : State :=
  let x := getLink s d
  if x.st ≠ 3 || x.detour.isSome then s
  else match detourOf s d lines with
    | none => s
    | some k =>
      (unacked s d).foldl (fun s q => sendFrame s q.dir q.toward q.fr)
        (raiseEvt (setLink s d { x with detour := some k }) .coll 4 none d)

/-- A module lies on the detour of others: it relays their frames, without adding and without credits. -/
def relayDetour (s : State) (d : Nat) (job : W32) (stage : Nat) (out : Option Nat) : State :=
  let x := getLink s d
  let rest := x.relays.filter fun r => r.1 ≠ job || r.2.1 ≠ stage
  setLink s d { x with relays := rest ++ (out.map fun k => (job, stage, k)).toList }

def execDetour (part : DetourPart) (s : State) : Host.Outcome State Fault Refusal :=
  .next <| alive s fun s => match part with
    | .hop dir lines => takeDetour s dir lines
    | .relay dir job stage out => relayDetour s dir job stage out

/-- The mode of an axis (R272): of the job's extent, the torus extent, and the lowest hop that is DOWN. -/
def axisMode (job torus : Nat) (down : Option Nat) : Nat :=
  if job = 1 then 0
  else if job < torus then 1
  else match down with
    | none => 0
    | some k => (k + 1) % job + 1

/-- The lowest hop of a box axis that this module sees DOWN: its own on the + side, or the one before it on the − side. -/
def ownDown (s : State) (x : Loom) (axis : Nat) : Option Nat :=
  let e := boxExtent x
  let n := [e.1, e.2.1, e.2.2].getD axis 1
  let c := (boxPlace x (boxIndexOf s x)).getD axis 0
  let hops := (if (getLink s (2 * axis)).st = 3 then [c] else [])
    ++ if (getLink s (2 * axis + 1)).st = 3 then [(c + n - 1) % n] else []
  hops.min?

/-- The lower of two hops. -/
def lowerHop (a b : Option Nat) : Option Nat := (a.toList ++ b.toList).min?

/-- The modes of a loom's box as an order tag (Table 8-3), from the hops that are DOWN elsewhere and here. -/
def boxModes (s : State) (x : Loom) (down : BoxLinks) : W32 :=
  let e := boxExtent x
  let t := extentOf s
  BitVec.ofNat 32 (axisMode e.1 t.1 (lowerHop down.x (ownDown s x 0)) + axisMode e.2.1 t.2.1 (lowerHop down.y (ownDown s x 1)) * 8
    + axisMode e.2.2 t.2.2 (lowerHop down.z (ownDown s x 2)) * 64)

/-- The lowest number of a COMM that no tile of the loom has started. -/
def nextNumber (s : State) (l comm : Nat) : Nat :=
  (loomTiles (getLoom s l)).foldl (fun m t => max m (tget 0 (tileOf s l t).collNum comm)) 0

/-- Every tile has reached the install point of every COMM. -/
def installDone (s : State) (l : Nat) : Bool :=
  let x := getLoom s l
  (loomTiles x).all fun t => (tileOf s l t).collNum.all fun kv => tget 0 x.install kv.1 ≤ kv.2

/-- COMMs some tile of a loom has numbered. -/
def commsOf (s : State) (l : Nat) : List Nat :=
  ((loomTiles (getLoom s l)).flatMap fun t => (tileOf s l t).collNum.map (·.1)).eraseDups

/-- The choice of new modes (R276): they are in force from the lowest number of each COMM that no member has started; what members
elsewhere have started comes with the command. -/
def chooseModes (s : State) (l : Nat) (down : BoxLinks) (started : List (Nat × Nat)) : Option State :=
  let x := getLoom s l
  let ready := x.newModes.isNone || installDone s l
  let now := if ready then x.newModes.getD x.modes else x.modes
  let new := boxModes s x down
  if x.st = .free || !ready || new = now then none
  else
    let comms := (commsOf s l ++ started.map (·.1)).eraseDups
    let at_ := fun c => (started.filter fun p => p.1 = c).foldl (fun m p => max m p.2) (nextNumber s l c)
    some (setLoom s l { x with
      modes := now, newModes := some new, installHold := true, install := comms.foldl (fun t c => tput t c (at_ c)) [] })

/-- The install reaches the members of this module: those that hold a collective begin it (R276). -/
def installModes (s : State) (l : Nat) : State :=
  beginHeld (raiseEvt (modLoom s l fun x => { x with installHold := false }) .coll 5 (some l)) l

/-- ORDER_CHANGE (R276): the anchor's choice of modes reaches the module, alone or together with the install; or the install of
modes chosen before. -/
def orderChange (s : State) (l : Nat) (down : BoxLinks) (started : List (Nat × Nat)) (installed : Bool) : State :=
  if (getLoom s l).installHold then if installed then installModes s l else s
  else match chooseModes s l down started with
    | none => s
    | some s => if installed then installModes s l else s

def execOrderChange (l : Nat) (down : BoxLinks) (order : OrderStep) (s : State) : Host.Outcome State Fault Refusal :=
  .next (alive s fun s => orderChange s l down order.started order.installed)

/-- SPLIT (R277, R444): every collective in flight ends with FENCED, and with it a checkpoint; a loom outside its job's
anchor half is fenced. -/
def splitJob (s : State) (l : Nat) (inAnchorHalf : Bool) : State :=
  if (getLoom s l).st = .free then s
  else
    let s := raiseEvt (endCkpt (abortColls s l stFenced) l stFenced) .coll 6 (some l)
    if inAnchorHalf then s else modLoom (fenceLoom s l) l fun x => { x with fencedJob := true }

def execSplitTorus (l : Nat) (inAnchorHalf : Bool) (s : State) : Host.Outcome State Fault Refusal :=
  .next (alive s fun s => splitJob s l inAnchorHalf)

/-! ## COLL_CONFIG (R264) -/

/-- The job and box of a loom: extents from 1, and no axis past the torus. What is not carried stays (R473). -/
def collConfig (s : State) (l : Nat) (job : W32) (origin extent : Option (Nat × Nat × Nat)) : Except Byte (State × List Byte) :=
  let t := extentOf s
  let (x0, y0, z0) := origin.getD (boxOrigin (getLoom s l))
  let (ex, ey, ez) := extent.getD (boxExtent (getLoom s l))
  let ok := fun (o e t : Nat) => 1 ≤ e && e ≤ 4 && o ≤ 3 && o + e ≤ t
  if !(ok x0 ex t.1 && ok y0 ey t.2.1 && ok z0 ez t.2.2) then .error stBad
  else
    let box := BitVec.ofNat 15 (x0 + y0 * 4 + z0 * 16 + ex * 64 + ey * 512 + ez * 4096)
    let y : Loom := { getLoom s l with configured := true, jobId := job, box, newModes := none, install := [], installHold := false }
    .ok (drawOthers (setLoom s l { y with modes := boxModes s y { x := none, y := none, z := none } }) l, [])

def execCollConfig (session ring : Nat) (s : State) : Host.Outcome State Fault Refusal :=
  .next <| alive s fun s => cfgRun s session ring fun t => match t.body with
    | .collConfig job origin extent => collConfig s t.loom job origin extent
    | _ => .error stBad

/-! ## Adders (R285, R286) -/

/-- An in-service adder ends a self-test: it passes, or leaves service. -/
def adderTest (s : State) (die adder : Nat) (pass : Bool) : State :=
  if 40 ≤ die || 4 ≤ adder || !(getReg s (adderReg die)).getLsbD adder then s
  else if pass then
    { s with adders := { s.adders with lastPass := tput s.adders.lastPass (die * 4 + adder) s.tlm.timebase } }
  else adderFail s die adder

def execAdderSelftest (die adder : Nat) (pass : Bool) (s : State) : Host.Outcome State Fault Refusal :=
  .next (alive s fun s => adderTest s die adder pass)

end Sys2Proof.Machine
end

