-- ==== Sys2Proof/Machine/MemFault.lean ====
section
/-! DEFINITION. Errors of the tile stores and of the memory stacks: parity and thrum words (R171 to R173), rebuilds (R174, R176,
R497), poisoned groups (R177), the scrub (R178), their counters (R180), corrected and uncorrected access units (R185), replays
(R187), failed stacks (R189), and the log they share (R194, R195). -/
namespace Sys2Proof.Machine

/-! ## Stored words (R171 to R173) -/

/-- Words and thrum groups of a tile's store. -/
def tsWords : Nat := 1835008
def tsGroups : Nat := 29128

/-- A stored word fails parity: its 33 bits hold an odd number of ones (R171). -/
def failsParity (w : BitVec 33) : Bool := ((List.range 33).filter fun i => w.getLsbD i).length % 2 = 1

/-- A word with its parity bit, as it is written: the 33 bits hold an even number of ones. -/
def withParity (w : W32) : BitVec 33 := if failsParity (w.setWidth 33) then w.setWidth 33 ||| 0x100000000 else w.setWidth 33

/-- Data word w of a tile as it was written. -/
def dataWord (s : State) (tile w : Nat) : W32 := BitVec.ofNat 32 (rd s (tileAddr tile (4 * w)) 4)

/-- The data words of a thrum group: 63, and 7 of the last one (R172). -/
def groupWords (g : Nat) : List Nat := ((List.range 63).map (63 * g + ·)).filter fun w => w < tsWords

/-- The XOR of some words of a tile. -/
def xorWords (s : State) (tile : Nat) (ws : List Nat) : W32 := ws.foldl (fun x w => x ^^^ dataWord s tile w) 0

/-- The thrum word of a group: the XOR of its data words (R172). A write of a data word changes it by old XOR new (R173), as
the thrum store does in the cycle of the write. -/
def thrumWord (s : State) (tile g : Nat) : W32 := xorWords s tile (groupWords g)

/-- A data word and a thrum word with its parity bit, as the store holds it now. -/
def storedWord (s : State) (tile w : Nat) : BitVec 33 :=
  withParity (dataWord s tile w) ^^^ tget 0 s.faults.tsFlips (tile * 2 ^ 21 + w)
def storedThrum (s : State) (tile g : Nat) : BitVec 33 :=
  withParity (thrumWord s tile g) ^^^ tget 0 s.faults.thrumFlips (tile * 2 ^ 15 + g)

/-- Words of a group that fail parity. -/
def failingWords (s : State) (tile g : Nat) : List Nat := (groupWords g).filter fun w => failsParity (storedWord s tile w)

/-- The word that a snapshot gives for word w: the XOR of the stored thrum word and the other data words (Table 5-4). -/
def corrected (s : State) (tile w : Nat) : W32 :=
  (storedThrum s tile (w / 63)).setWidth 32 ^^^ ((groupWords (w / 63)).filter (· ≠ w)).foldl
    (fun x v => x ^^^ (storedWord s tile v).setWidth 32) 0

/-- Bits go wrong in a data word or in a thrum word. -/
def flipWord (s : State) (tile w : Nat) (e : BitVec 33) : State :=
  { s with faults := { s.faults with tsFlips := tset 0 s.faults.tsFlips (tile * 2 ^ 21 + w) e } }
def flipThrum (s : State) (tile g : Nat) (e : BitVec 33) : State :=
  { s with faults := { s.faults with thrumFlips := tset 0 s.faults.thrumFlips (tile * 2 ^ 15 + g) e } }

/-- The bits that free value k turns: an odd number of them, or an even number that is not 0. -/
def oddBits (k : Nat) : BitVec 33 :=
  let e := BitVec.ofNat 33 (Config.freeNat k)
  if failsParity e then e else e ^^^ 1
def evenBits (k : Nat) : BitVec 33 :=
  let e := oddBits k ^^^ 1
  if e = 0 then 3 else e

/-- The die-level registers of a bay: its rebuilds (0) and its poisoned groups (8). -/
def bayMemReg (bay off : Nat) : Nat :=
  0x10000000 + dieOfBay bay * 0x01000000 + 0x008A0000 + bay % 8 * 0x10 + off

/-- Count at a bay and in the module's total. -/
def countBay (s : State) (tile off : Nat) : State :=
  countReg (countReg s (bayMemReg (bayOf tile) off)) (0x00A00040 + off)

/-- A group of a tile becomes POISONED (R177): the loom that owns the tile stops with UNCORRECTED. -/
def poisonGroup (s : State) (tile group addr : Nat) (evts : List Nat) : State :=
  let owner := ownerOfTile s tile
  let s := { s with faults := { s.faults with poisonedGroups := s.faults.poisonedGroups ++ [(tile, group)] } }
  let s := memError (countBay s tile 8) evts (stoppedBy s owner) owner addr 0xFF tile tile
  match owner with
  | some l => loomUncorr s l tile
  | none => s

/-- A group already POISONED. -/
def isPoisoned (s : State) (tile group : Nat) : Bool := s.faults.poisonedGroups.contains (tile, group)

/-- A rebuild is counted, logged and noted (R180, R194). -/
def rebuilt (s : State) (tile evt addr : Nat) (thrum : Bool) : State :=
  noteCause (memError (countBay s tile 0) [evt] none (ownerOfTile s tile) addr 0xFF tile tile thrum) 1 (bayOf tile) 1

/-- A snapshot of a group in which data word w fails (R174): the only word that fails is written in place as the others give it,
with fresh parity; a second word that fails poisons the group (R177). -/
def rebuildWord (s : State) (tile w : Nat) : State :=
  let addr := tileAddr tile (4 * w)
  if failingWords s tile (w / 63) = [w] && !failsParity (storedThrum s tile (w / 63)) then
    rebuilt (wr (flipWord s tile w 0) addr 4 (corrected s tile w).toNat) tile 0 addr false
  else poisonGroup s tile (w / 63) addr [2]

/-- A failing data word is met (R174): the error, and what else its snapshot finds, is in the stored words; which bits are wrong is
free. -/
def wordFails (s : State) (tile word : Nat) (found : SnapFinding) : State :=
  let group := word / 63
  if 5120 ≤ tile || tsWords ≤ word || isPoisoned s tile group then s
  else
    let (k, s) := drawFree s 2
    let s := flipWord s tile word (oddBits k)
    rebuildWord (match found with
      | .clean => s
      | .secondWord => match (groupWords group).find? fun v => v ≠ word with
        | some v => flipWord s tile v (oddBits (k + 1))
        | none => s
      | .thrumWord => flipThrum s tile group (oddBits (k + 1))) tile word

def execTileStoreRebuild (tile word : Nat) (found : SnapFinding) (s : State) : Host.Outcome State Fault Refusal :=
  .next (alive s fun s => wordFails s tile word found)

/-- A thrum word that fails while every data word passes is rebuilt as the XOR of the data words (R176). -/
def thrumFails (s : State) (tile group : Nat) : State :=
  if 5120 ≤ tile || tsGroups ≤ group || isPoisoned s tile group then s
  else
    let (k, s) := drawFree s 1
    let s := flipThrum s tile group (oddBits k)
    if (failingWords s tile group).isEmpty then rebuilt (flipThrum s tile group 0) tile 1 (tileAddr tile (group * 63 * 4)) true
    else poisonGroup s tile group (tileAddr tile (group * 63 * 4)) [2]

def execTsThrumRebuild (tile group : Nat) (s : State) : Host.Outcome State Fault Refusal := .next (alive s fun s => thrumFails s tile group)

/-- The XOR of the stored data words of a group differs from its stored thrum word. -/
def thrumDiffers (s : State) (tile g : Nat) : Bool :=
  (groupWords g).foldl (fun x w => x ^^^ (storedWord s tile w).setWidth 32) (0 : W32) ≠ (storedThrum s tile g).setWidth 32

/-- The scrub reads a group (R178), while MEM_SCRUB_CTRL enables it. A word with an even number of wrong bits passes parity, and
the thrum word tells (R177). -/
def scrubGroup (s : State) (tile group : Nat) (found : ScrubFinding) : State :=
  if !(getReg s 0x00A00030).getLsbD 31 || 5120 ≤ tile || tsGroups ≤ group || isPoisoned s tile group then s
  else
    match found with
    | .clean => s
    | .badWord w f => if 63 ≤ w then s else wordFails s tile (group * 63 + w) f
    | .badThrum => thrumFails s tile group
    | .mismatch =>
      let (k, s) := drawFree s 1
      let s := flipWord s tile (group * 63) (evenBits k)
      if thrumDiffers s tile group then poisonGroup s tile group (tileAddr tile (group * 63 * 4)) [3, 2] else s

def execScrub (tile group : Nat) (found : ScrubFinding) (s : State) : Host.Outcome State Fault Refusal :=
  .next (alive s fun s => scrubGroup s tile group found)

/-! ## Stacks -/

/-- A stack reports an access unit (R185). A poisoned unit stays uncorrected, whatever it is reported as, until a whole write: each
read of it is counted, and stops the loom that consumes it. -/
def stackReturn (s : State) (addr : Nat) (report : EccReport) (consumer : Option Nat) : State :=
  let u := addr / 64
  let n := stackOf s.variant addr
  if Config.memEnd s.variant ≤ addr then s
  else
    match if s.faults.poisoned.contains u then .uncorrected else report with
    | .clean => { s with faults := { s.faults with corrected := s.faults.corrected.filter fun c => c ≠ u } }
    | .corrected =>
      let s := { s with faults := { s.faults with corrected := (s.faults.corrected ++ [u]).eraseDups } }
      noteCause (memError (countReg s (stkReg n 8)) [4] none none (u * 64) n 0 n) 2 n 1
    | .uncorrected =>
      let s := { s with faults := { s.faults with
        poisoned := (s.faults.poisoned ++ [u]).eraseDups, corrected := s.faults.corrected.filter fun c => c ≠ u } }
      let s := reportUncorr s consumer u
      match consumer with
      | some l => loomUncorr s l
      | none => s

def execStackAccessReturn (addr : Nat) (report : EccReport) (consumer : Option Nat) (s : State) :
    Host.Outcome State Fault Refusal :=
  .next (alive s fun s => stackReturn s addr report consumer)

/-- One access is replayed once (R187): it is accepted, or after 16 failed attempts it completes poisoned. -/
def replayOne (recovered : Bool) (s : State) (addr : Nat) : State :=
  let u := addr / 64
  let n := stackOf s.variant addr
  if Config.memEnd s.variant ≤ addr then s
  else
    let k := tget 0 s.faults.replayAttempts u + 1
    let s := countReg s (stkReg n 0x18)
    let put := fun (s : State) (t : Table Nat) => { s with faults := { s.faults with replayAttempts := t } }
    if recovered then noteCause (memError (put s (tdel s.faults.replayAttempts u)) [6] none none (u * 64) n 0 n) 3 n 1
    else if k < 16 then noteCause (memError (put s (tput s.faults.replayAttempts u k)) [6] none none (u * 64) n 0 n) 3 n 1
    else
      let s := put s (tdel s.faults.replayAttempts u)
      let s := { s with faults := { s.faults with poisoned := (s.faults.poisoned ++ [u]).eraseDups } }
      noteCause (memError s [6, 7] none none (u * 64) n 0 n) 3 n 1

/-- STK_REPLAY: every access of the window is replayed. -/
def execStkReplay (addrs : List Nat) (recovered : Bool) (s : State) : Host.Outcome State Fault Refusal :=
  .next (alive s fun s => addrs.foldl (replayOne recovered) s)

/-- A range of the stacks has a granule in a stack (R183). -/
def inStack (v : Variant) (stack a n : Nat) : Bool :=
  n ≠ 0 && (stack + Config.stackNum v - a / 4096 % Config.stackNum v) % Config.stackNum v ≤ (a + n - 1) / 4096 - a / 4096

/-- The ranges of the stacks a loom holds. -/
def loomRanges (x : Loom) : List (Nat × Nat) :=
  ((x.map.filter fun r => r.kind = mkStk || r.kind = mkRanks || r.kind = mkPark).map fun r => (r.addr, r.bytes))
    ++ [(x.saveAt, x.bays.length * 120 * 2 ^ 20)]

/-- A loom holds a region in a stack. -/
def holdsStack (s : State) (l n : Nat) : Bool := (loomRanges (getLoom s l)).any fun g => inStack s.variant n g.1 g.2

/-- A stack is in state FAILED (Table 5-17). -/
def stackBad (s : State) (n : Nat) : Bool := bits (getReg s (stkReg n 0)).toNat 7 4 = 3

/-- A stack is FAILED (R189): every loom that holds a region in it stops with UNCORRECTED. -/
def stackFails (s : State) (n : Nat) : State :=
  if Config.stackNum s.variant ≤ n then s
  else
    let r := stkReg n 0
    let s := setReg s r ((getReg s r &&& ~~~ (0xF8 : W64)) ||| 0x30)
    ((liveLooms s).filter fun l => holdsStack s l n).foldl
      (fun s l => loomUncorr s l) s

def execStackFailed (stack : Nat) (s : State) : Host.Outcome State Fault Refusal := .next (alive s fun s => stackFails s stack)

end Sys2Proof.Machine
end

