-- ==== Sys2Proof/Machine/Reset.lean ====
section
/-! DEFINITION. What a module reset or a loss of module power leaves (R379, R468, R469, R480): the fuses, the boot flash with
its configuration record, the key slots, the console password, and what stands outside the module (inputs, pins, host
memory). Everything else is as State.reset has it. -/
namespace Sys2Proof.Machine

/-- The state at the start of a reset. -/
def coldReset (s : State) : State :=
  { pending := s.pending, variant := s.variant, hostMem := s.hostMem, free := s.free
    slots := s.slots.map fun kv => (kv.1, { kv.2 with fails := 0, locked := false })
    console := { salt := s.console.salt, hash := s.console.hash, hasPassword := s.console.hasPassword }
    svc := { flashA := s.svc.flashA, flashB := s.svc.flashB, svnMin := s.svc.svnMin, coord := s.svc.coord, absent := s.svc.absent }
    power := { a := s.power.a, b := s.power.b, refPresent := s.power.refPresent }
    ports := (s.ports.filter fun kv => kv.2.inReset).map fun kv => (kv.1, { inReset := true }) }

/-- A console command other than login, logout and setup: it needs a login, and a management die that runs firmware (R425,
R466, R468). -/
def consoleRun (s : State) (f : State → State) : State :=
  if s.console.loggedIn && !s.svc.dark && s.svc.st ≠ .recovery then f s else s

end Sys2Proof.Machine
end

