-- ==== Sys2Proof/Machine/PowerOps.lean ====
section
/-! DEFINITION. The power manager's shared operations: the treadle limits, the rail and the setting in force (R383 to R387),
binding reasons, their times and the throttle log (R389), the cap in force (R35, R380), and the uniform ceiling (R390,
Table 12-4). -/
namespace Sys2Proof.Machine

/-! ## Voltage table (R383, R384) -/

/-- VMIN of a point: the fused value, held between 600 and 850 mV and nondecreasing. -/
def vminOf (die i : Nat) : Nat :=
  (List.range (i + 1)).foldl (fun m j => max m (min 850 (Config.vmin die j).toNat)) 600
/-- The operating point of a treadle setting. -/
def pointOf (t : Nat) : Nat := (t - 1) / 4
/-- The rail setpoint of a treadle setting. -/
def setpoint (die t : Nat) : Nat := vminOf die (pointOf t) + 60

/-! ## Limits (Table 12-3) -/

def DiePower.limit (d : DiePower) (r : Nat) : Nat := tget 64 d.limits r
def DiePower.setLimit (d : DiePower) (r v : Nat) : DiePower := { d with limits := tset 64 d.limits r v }
/-- The reason in the place of PWR_CAP (R397). -/
def capReason (p : Power) : Nat := if p.diverged then 7 else 0
/-- The reason under which limits from the cap are logged: CURRENT_LIMIT while R35 lowers the cap. -/
def capLimitReason (p : Power) : Nat := if p.singleLimit then 2 else capReason p

/-- A loom is issuing: it holds its bays and may issue. -/
def loomIssues (s : State) (l : Nat) : Bool :=
  let x := getLoom s l
  x.holder && (x.st = .running || x.st = .preempting || x.st = .stopping) && !x.stopIssue

/-- The HOST_REQUEST limit of a die: the lowest HOST_TREADLE among the looms holding bays on it. -/
def hostLimit (s : State) (die : Nat) : Nat :=
  ((loomsOfDie s die).filter fun l => (getLoom s l).holder).foldl (fun m l => min m (tget 64 s.power.hostTreadle l)) 64

/-- The lowest of a die's limits, never below 4. -/
def DiePower.lowest (d : DiePower) : Nat := max 4 (d.limits.foldl (fun m kv => min m kv.2) 64)

/-- Bring a die's setting in force to its limits (R385, R387): it falls at once and the rail may follow later; it rises into a
higher point only when the rail has reached that point's setpoint. -/
def settleDie (die : Nat) (d : DiePower) : DiePower :=
  let t := d.lowest
  let v := setpoint die t
  if t ≤ d.treadle || v ≤ d.rail then { d with wanted := t, treadle := t, vset := max d.vset v }
  else { d with wanted := t, vset := max d.vset v }

/-- The reasons that bind on a die (R387). -/
def bindingOf (d : DiePower) : BitVec 8 :=
  if !d.on then 0
  else (List.range 8).foldl (fun b r => if d.limit r < 64 && d.limit r = d.treadle then b ||| BitVec.ofNat 8 (2 ^ r) else b) 0

/-- The dies on which a reason binds. -/
def boundOn (t : Table DiePower) (r : Nat) : List Nat := (t.filter fun kv => kv.2.binding.getLsbD r).map (·.1)

/-- The last word of a throttle log entry (Table 12-13). -/
def logWord (dur first most : Nat) (opened : Bool) (r : Nat) : W64 :=
  BitVec.ofNat 64 (min dur 0xFFFFFFFF * 2 ^ 32 + first * 2 ^ 16 + most * 2 ^ 8 + (if opened then 2 ^ 7 else 0) + r)

/-- A reason binds on some dies from now on: its time runs, and an episode begins unless one is open, with the most dies
bound at once (R389). -/
def noteReason (now : W64) (was is : List Nat) (p : Power) (r : Nat) : Power :=
  let p := match was, is with
    | [], _ :: _ => { p with thrSince := tput p.thrSince r now }
    | _ :: _, [] => { p with thrTime := tmod 0 p.thrTime r (· + (now - tget now p.thrSince r).toNat), thrSince := tdel p.thrSince r }
    | _, _ => p
  match is, tfind p.openEpisodes r with
  | [], _ => p
  | d :: _, none =>
    let n := p.episodes.toNat
    { p with log0 := tput p.log0 (n % 32) now, log1 := tput p.log1 (n % 32) (logWord 0 d is.length true r)
             openEpisodes := tput p.openEpisodes r n, episodes := p.episodes + 1 }
  | _, some n =>
    if p.episodes.toNat - n ≤ 32 then
      let w := (tget 0 p.log1 (n % 32)).toNat
      { p with log1 := tput p.log1 (n % 32) (logWord 0 (bits w 23 16) (max (bits w 15 8) is.length) true r) }
    else p

/-- Whole seconds of THERMAL binding on a die are counted for its advisory (R430, Table 14-3). -/
def noteThermal (s : State) (die : Nat) (bound : Bool) : State :=
  let d := getDie s die
  let now := s.tlm.timebase
  match d.thermSince with
  | none => if bound then modDie s die fun d => { d with thermSince := some now } else s
  | some t =>
    let n := d.thermTicks + (now - t).toNat
    let s := modDie s die fun d => { d with thermTicks := n % 100000000, thermSince := if bound then some now else none }
    if 100000000 ≤ n then noteCause s 0x09 die (n / 100000000) else s

/-- Note which reasons bind where after a change of limits or settings. -/
def rebind (s : State) : State :=
  let old := s.power.dies
  let new := old.map fun kv => (kv.1, { kv.2 with binding := bindingOf kv.2 })
  let s := modPower s fun p =>
    (List.range 8).foldl (fun p r => noteReason s.tlm.timebase (boundOn old r) (boundOn new r) p r) { p with dies := new }
  new.foldl (fun s kv =>
    if kv.2.thermSince.isSome || kv.2.binding.getLsbD 1 then noteThermal s kv.1 (kv.2.binding.getLsbD 1) else s) s

/-- Set a limit on some dies that are on, and bring their settings to it. -/
def limitDies (s : State) (ds : List Nat) (r v : Nat) : State :=
  rebind (ds.foldl (fun s d => if (getDie s d).on then modDie s d fun x => settleDie d (x.setLimit r v) else s) s)

/-- The compute dies that are on. -/
def onDies (s : State) : List Nat := (s.power.dies.filter fun kv => kv.2.on).map (·.1)

/-- Dies that hold a bay of an issuing loom, and are on. -/
def issuingDies (s : State) : List Nat :=
  (onDies s).filter fun d => (loomsOfDie s d).any (loomIssues s)

/-! ## The cap in force (R35, R380) -/

/-- The voltage, in 10 mV, of the one input that carries the module; none when both or neither do. -/
def singleInput (p : Power) : Option Nat :=
  match p.a.carrying, p.b.carrying with
  | true, false => some p.a.v10mv
  | false, true => some p.b.v10mv
  | _, _ => none

/-- The cap in force, and whether R35 lowers it. -/
def capNow (p : Power) : Nat × Bool :=
  let base := min 15000 ((p.cap : Int) + p.borrowed).toNat
  match singleInput p with
  | some v => if v < 5000 then (min base (3 * v), decide (3 * v < base)) else (base, false)
  | none => (base, false)

/-- Limits from the cap change their reason (R35, R397). -/
def moveCapLimit (s : State) (from_ dest : Nat) : State :=
  rebind (modPower s fun p => { p with dies := p.dies.map fun kv =>
    (kv.1, (kv.2.setLimit dest (min (kv.2.limit dest) (kv.2.limit from_))).setLimit from_ 64) })

/-- Put the cap in force, with the limits from it under the reason that now holds; a change raises CAP_CHANGE. -/
def applyCap (s : State) : State :=
  let (w, single) := capNow s.power
  let old := s.power.inForce
  let r := capLimitReason s.power
  let s := modPower s fun p => { p with inForce := w, singleLimit := single }
  let s := if capLimitReason s.power = r then s else moveCapLimit s r (capLimitReason s.power)
  if w = old then s else raiseEvt s .pwr 13

/-! ## The uniform ceiling (R390, Table 12-4) -/

/-- Nominal mean treadle in fortieths of a step between two rows of the table. -/
def nominalBetween (w w0 t0 w1 t1 : Nat) : Nat := (40 * t0) + 40 * (t1 - t0) * (w - w0) / (w1 - w0)

/-- Nominal mean treadle of a cap, in fortieths of a step; below the table's first row the manual gives none, and it is free
up to that row's. -/
def nominal (s : State) : Nat × State :=
  let w := ((s.power.inForce : Int) - Config.capShift s.variant).toNat
  if 14050 ≤ w then (40 * 64, s)
  else if 12000 ≤ w then (nominalBetween w 12000 56 14050 64, s)
  else if 9000 ≤ w then (nominalBetween w 9000 42 12000 56, s)
  else if 6000 ≤ w then (nominalBetween w 6000 27 9000 42, s)
  else if 3000 ≤ w then (nominalBetween w 3000 9 6000 27, s)
  else
    let (k, s) := drawFree s 1
    (160 + Config.freeNat k % 201, s)

/-- The most a die may run at while the mean over the issuing dies stays at or below the nominal mean. -/
def uniformMax (s : State) (t40 die : Nat) : Nat :=
  let ds := issuingDies s
  let others := ((ds.filter fun d => d ≠ die).map fun d => (getDie s d).treadle).sum
  max 4 (min 64 ((t40 * ds.length - 40 * others) / 40))

/-- A free treadle limit between 4 and a highest one. -/
def freeLimit (s : State) (hi : Nat) : Nat × State :=
  let (k, s) := drawFree s 1
  (4 + Config.freeNat k % (hi - 3), s)

end Sys2Proof.Machine
end

