-- ==== Sys2Proof/Machine/Boot.lean ====
section
/-! DEFINITION. Images and their checks (R468, R469), start-up (Table 15-8, R470), module reset (R480), and the link ports' power
and presence (R490). -/
namespace Sys2Proof.Machine

/-! ## Images -/

def imgVer (i : Image) : Nat := fieldAt i.header 8 8
def imgSvn (i : Image) : Nat := fieldAt i.header 0x10 4

/-- An image is valid (R468). -/
def imageValid (svnMin : Nat) (i : Image) : Bool :=
  let h := i.header
  h.length = 512 && sha384 (slice h 0x48 96) = Config.rootKeyHash
    && ecdsaOk (slice h 0x48 96) (slice h 0xA8 96) (sha384 (slice h 0 0xA8))
    && i.body.length = fieldAt h 0x14 4 && sha384 i.body = slice h 0x18 48 && svnMin ≤ imgSvn i

/-- The image of a slot, when it is valid. -/
def validOf (s : State) (b : Bool) : Option Image :=
  match if b then s.svc.flashB else s.svc.flashA with
  | some i => if imageValid s.svc.svnMin i then some i else none
  | none => none

/-- The image the boot ROM starts: the higher VERSION, A on equal versions; none when no image is valid. -/
def bootChoice (s : State) : Option Bool :=
  match validOf s false, validOf s true with
  | some a, some b => some (decide (imgVer a < imgVer b))
  | some _, none => some false
  | none, some _ => some true
  | none, none => none

/-- The image that runs. -/
def runningImage (s : State) : Option Image :=
  if s.svc.st = .starting || s.svc.st = .ready then (if s.svc.imageB then s.svc.flashB else s.svc.flashA) else none

/-- RECOVERY: the alert is asserted (R482). -/
def toRecovery (s : State) : State := modSvc s fun v => { v with st := .recovery, alert := true }

/-- The root PLL is locked to a reference that is present: without it the module does not leave reset (R40). -/
def clockUp (s : State) : Bool := s.power.locked && s.power.refPresent

/-- BOOT_FALLBACK: the started image does not reach READY within 5 s, and the other valid image is started. -/
def bootFallback (s : State) : State :=
  let first := if s.svc.st = .boot then if clockUp s then bootChoice s else none else if s.svc.st = .starting then some s.svc.imageB else none
  match first with
  | none => s
  | some b =>
    if (validOf s (!b)).isSome then
      raiseEvt (modSvc s fun v => { v with st := .starting, imageB := !b, fallback := true }) .svc 2
    else toRecovery s

def execBootFallback (s : State) : Host.Outcome State Fault Refusal := .next (alive s fun s => bootFallback s)

/-- The module answers firmware updates: to a login, and in RECOVERY, where no login can be made, to anyone. -/
def updateAllowed (s : State) : Bool := !s.svc.dark && (s.svc.st = .recovery || s.console.loggedIn)

/-- FIRMWARE_UPDATE: the image that does not run is written; a valid one is staged for the next reset. -/
def firmwareUpdate (s : State) (i : Image) : State :=
  if !updateAllowed s || i.header.length ≠ 512 || 32 * 2 ^ 20 < 512 + i.body.length then s
  else
    let toB := (runningImage s).isSome && !s.svc.imageB
    let s := modSvc s fun v => if toB then { v with flashB := some i } else { v with flashA := some i }
    if imageValid s.svc.svnMin i then raiseEvt (modSvc s fun v => { v with staged := true }) .svc 7
    else modSvc s fun v => { v with staged := false }

def execFirmwareUpdate (image : Image) (s : State) : Host.Outcome State Fault Refusal := .next (firmwareUpdate s image)

/-- COMMIT_SVN: SVN_MIN rises to the running image's SVN, when both images are valid and at least that. -/
def execCommitSvn (s : State) : Host.Outcome State Fault Refusal :=
  .next <| alive s fun s => consoleRun s fun s =>
    match runningImage s, validOf s false, validOf s true with
    | some r, some a, some b =>
      if imgSvn r ≤ imgSvn a && imgSvn r ≤ imgSvn b then modSvc s fun v => { v with svnMin := max v.svnMin (imgSvn r) } else s
    | _, _, _ => s

/-! ## Start-up (Table 15-8) -/

/-- Steps 5 and 8: the compute dies that pass come up; the bays of the others are retired and the alert is asserted. Bays
that fail self-test are retired; the others have passed. -/
def startDies (s : State) (f : StartFinding) : State :=
  let bad := f.badDies.filter fun d => d < 40
  let gone := ((bad.flatMap fun d => (List.range 8).map fun i => d * 8 + i) ++ f.badBays.filter fun b => b < 320).eraseDups
  let up := (List.range 40).filter fun d => !bad.contains d
  let s := up.foldl (fun s d => modDie s d fun x => { x with on := true, treadle := 64, wanted := 64, vset := setpoint d 64, rail := setpoint d 64 }) s
  modSvc s fun v => { v with
    retired := gone, alert := v.alert || !bad.isEmpty
    lastPass := ((List.range 320).filter fun b => !gone.contains b).map fun b => (b, s.tlm.timebase) }

/-- Step 7: a die edge is UP with eight working modules, NARROWED with four to seven, else DOWN; stacks are READY or
FAILED. -/
def startFabric (s : State) (f : StartFinding) : State :=
  let s := (List.range 67).foldl (fun s e =>
    let m := tget 0xFF f.edgeModules e % 256
    let n := ((List.range 8).filter fun i => m.testBit i).length
    setReg s (edgeStatusReg e) (BitVec.ofNat 64 (m * 2 ^ 8 + if n = 8 then 1 else if 4 ≤ n then 2 else 3))) s
  (List.range (Config.stackNum s.variant)).foldl (fun s n =>
    setReg s (stkReg n 0) (if f.readyStacks.contains n then 0x28 else 0x30)) s

/-- Step 9: LINK_COORD is the stored coordinate; lanes train, each link sends it (R259), and partners are checked. -/
def startLinks (s : State) (f : StartFinding) : State :=
  let s := setReg s 0x00708000 (s.svc.coord.setWidth 64)
  let s := (f.lanes.filter fun l => linkPresent s (l.lane / 4)).foldl putLane s
  let s := ((List.range 6).filter (linkPresent s)).foldl sendCoord s
  f.partners.foldl (fun s dp => coordCheck s dp.1 dp.2) s

/-- Step 6: the ports whose PERST is high train. -/
def startPorts (s : State) (f : StartFinding) : State :=
  { s with ports := f.ports.foldl (fun t p =>
      if p.1 < Config.ioDies s.variant && !(tget {} t p.1).inReset then
        tput t p.1 { up := true, width := p.2.1, rate := p.2.2, flit := decide (p.2.2 = 6) }
      else t) s.ports }

/-- START_UP: an input is GOOD, RESET_N is released, and the root PLL is locked to the reference (R40). A management die must
pass its self-test and an image be valid. -/
def startUp (s : State) (f : StartFinding) : State :=
  let p := s.power
  if !(s.svc.st = .boot || s.svc.st = .starting) || !(p.a.st = .good || p.b.st = .good) || !clockUp s || !(f.mg0Pass || f.mg1Pass) then s
  else
    let s := modSvc s fun v => { v with mg0 := f.mg0Pass, mg1 := f.mg1Pass, active := !f.mg0Pass, resetHeld := false }
    let choice := if s.svc.st = .starting then some s.svc.imageB else bootChoice s
    match choice with
    | none => toRecovery s
    | some b =>
      let s := modSvc s fun v => { v with st := .ready, imageB := b, pwrGood := true }
      let s := modTlm s fun t => { t with differential := f.ppsDifferential }
      applyCap (startLinks (startFabric (startPorts (startDies s f) f) f) f)

def execStartUp (f : StartFinding) (s : State) : Host.Outcome State Fault Refusal := .next (startUp s f)

/-- MODULE_RESET. -/
def execModuleReset (s : State) : Host.Outcome State Fault Refusal := .next (coldReset s)

/-! ## Link ports (R490) -/

/-- Drop the four lanes of a port. -/
def dropPort (s : State) (io dir : Nat) : State := (List.range 4).foldl (fun s i => dropLane s io (4 * dir + i)) s

/-- AUX_OVERLOAD: power to the port is off, and its lanes drop. -/
def execAuxOverload (io dir : Nat) (s : State) : Host.Outcome State Fault Refusal :=
  .next <| if Config.ioDies s.variant ≤ io || 6 ≤ dir || s.svc.aux.contains (io, dir) then s
    else dropPort (modSvc s fun v => { v with aux := v.aux ++ [(io, dir)] }) io dir

/-- AUX_RETRY: once a second. -/
def execAuxRetry (io dir : Nat) (ok : Bool) (s : State) : Host.Outcome State Fault Refusal :=
  .next (if ok then modSvc s fun v => { v with aux := v.aux.filter fun p => p ≠ (io, dir) } else s)

/-- LINK_PORT_PRESENCE: a port without PRSNT_N is not driven, and its lanes count as dropped. -/
def execLinkPortPresence (io dir : Nat) (present : Bool) (s : State) : Host.Outcome State Fault Refusal :=
  .next <| if Config.ioDies s.variant ≤ io || 6 ≤ dir then s
    else
      let rest := s.svc.absent.filter fun p => p ≠ (io, dir)
      if present then modSvc s fun v => { v with absent := rest }
      else dropPort (modSvc s fun v => { v with absent := rest ++ [(io, dir)] }) io dir

end Sys2Proof.Machine
end

