-- ==== Sys2Proof/Machine/Branch.lean ====
section
/-! DEFINITION. Class BR: branches of the whole strand (R119, R123, Table 4-11). -/
namespace Sys2Proof.Machine

/-- The target OFFSET names, from the branch's own PC, if it lies inside the image (R119). -/
def target (x : Loom) (y : Strand) (f : FmtB) : Option (BitVec 15) :=
  let t : Int := (y.pc.toNat : Int) + f.off.toInt
  if 0 ≤ t && t < x.program.length then some (BitVec.ofInt 15 t) else none

/-- A branch: z is the strand with the registers the branch writes, taken says whether it is taken. -/
def branch (op : Nat) (taken : Strand → Bool) (z : Strand → Strand) (a : Issuer) (f : FmtB) (s : State) :
    Host.Outcome State Fault Refusal :=
  .next (issueReg s a (wordB 2 op f) (plainB f) fun l y =>
    if taken y then
      match target (getLoom s l) y f with
      | some t => .ok { z y with pc := t }
      | none => .error stBad
    else .ok (z y).next)

def execBra (a : Issuer) (f : FmtB) (s : State) := branch 0x00 (fun _ => true) id a f s
def execBz (a : Issuer) (f : FmtB) (s : State) := branch 0x01 (fun y => y.sget f.rs.toNat == 0) id a f s
def execBnz (a : Issuer) (f : FmtB) (s : State) := branch 0x02 (fun y => y.sget f.rs.toNat != 0) id a f s
def execBltz (a : Issuer) (f : FmtB) (s : State) := branch 0x03 (fun y => (y.sget f.rs.toNat).slt 0) id a f s
/-- CALL: s31 = PC + 1. -/
def execCall (a : Issuer) (f : FmtB) (s : State) :=
  branch 0x04 (fun _ => true) (fun y => y.sput 31 ((y.pc.setWidth 64) + 1)) a f s

/-- LOOP: RS −= 1; branch when RS ≠ 0. RS is read again after the write, so LOOP on s0 never branches (log 16). -/
def execLoop (a : Issuer) (f : FmtB) (s : State) :=
  branch 0x06 (fun y => (y.sput f.rs.toNat (y.sget f.rs.toNat - 1)).sget f.rs.toNat != 0)
    (fun y => y.sput f.rs.toNat (y.sget f.rs.toNat - 1)) a f s

/-- RET: PC = s31[14:0], if it lies inside the image. -/
def execRet (a : Issuer) (f : FmtB) (s : State) : Host.Outcome State Fault Refusal :=
  .next (issueReg s a (wordB 2 0x05 f) (plainB f) fun l y =>
    let t : BitVec 15 := (y.sget 31).setWidth 15
    if t.toNat < (getLoom s l).program.length then .ok { y with pc := t } else .error stBad)

end Sys2Proof.Machine
end

