-- ==== Sys2Proof/Machine/ServeRun.lean ====
section
/-! DEFINITION. The batch step of a serving loom: its formation (R329, R330, R333, R344, R362, R363, R371) and its commit
(R331, R335, R336, R338, R340, R342, R345, R372), and the sheds of a SHARED weave (R365, R366). -/
namespace Sys2Proof.Machine

/-! ## What a request is -/

def Req.desc (r : Req) : SubmitDesc := r.d.getD
  { loom := 0, register := false, logprob := false, promptLen := 0, prompt := 0, ring := 0, deadline := 0, pfxHandle := 0
    pfxLen := 0, maxNew := 0, stop0 := 0, stop1 := 0, stop2 := 0, stream := 0, reserved := false }
/-- The stop tokens of a descriptor. -/
def SubmitDesc.stops (d : SubmitDesc) : List W32 := [d.stop0, d.stop1, d.stop2].filter fun t => t ≠ 0xFFFFFFFF
/-- Positions a request may use (R325). -/
def reqPositions (v : SrvLoom) (d : SubmitDesc) : Nat := d.promptLen + d.maxNew + v.specDepth
/-- Where the token ids of a request's prompt lie. -/
def idsAt (x : Loom) (r : Req) : Nat := (objAddr x x.srv.promptPool r.buf).getD 0

/-! ## Formation -/

/-- Admit QUEUED requests in queue order while pages for the rest of their positions are free; entries are evicted for
them, and the first that waits holds back the others (Table 10-4, R329, R345). -/
def admitQueue (l : Nat) : Nat → State → State
  | 0, s => s
  | fuel + 1, s =>
    let q := ((reqsOf s l).filter fun kv => kv.2.st = .queued).mergeSort fun a b => a.2.admitted ≤ b.2.admitted
    match q with
    | [] => s
    | (e, r) :: _ =>
      let v := (getLoom s l).srv
      let need := pagesFor (reqPositions v r.desc) - r.pages.length
      let s := evictFor s l need (v.pfx.length + 1)
      let free := freePages s l
      if free.length < need then
        if r.kvWait then s else raiseEvt (modReq s e fun r => { r with kvWait := true }) .srv 6 (some l)
      else admitQueue l fuel (modReq s e fun r => { r with st := .prefill, pages := r.pages ++ free.take need })

/-- DECODE requests with fewer than SPEC_DEPTH + 2 free slots wait for their ring (R333). -/
def stallRings (s : State) (l : Nat) : State :=
  let d := (getLoom s l).srv.specDepth
  (reqsOf s l).foldl (fun s kv =>
    if kv.2.st = .decode && kv.2.freeSlots < d + 2 then
      raiseEvt (modReq s kv.1 fun r => { r with st := .ringWait }) .srv 1 (some l)
    else s) s

/-- Records the step may make a request write (R371). -/
def reserveRecs (v : SrvLoom) (r : Req) : Nat :=
  v.specDepth + 2 + if r.tokens.isEmpty then 1 + (r.desc.promptLen + 13) / 14 else 0

/-- A request may be in a step: in DECODE or PREFILL, its deadline not passed, its bobbin with room for it alone. -/
def selectable (s : State) (l e : Nat) (r : Req) : Bool :=
  (r.st = .decode || r.st = .prefill) && !r.expired
    && (r.desc.deadline = 0 || s.tlm.timebase.toNat < r.desc.deadline.toNat)
    && match bobbinOf s l e with
      | some k => reserveRecs (getLoom s l).srv r ≤ (tget {} s.bobbins k).free
      | none => true

/-- The pick of the step (R362, R363): the front pick, or under FLIP_AT_EPISODE that of the selectable request admitted
first. -/
def stepPick (s : State) (l : Nat) (w : Option Weave) : Nat :=
  match w with
  | none => allOnes32
  | some w =>
    let front := (getLoom s l).shed.frontBeam.pick
    if !w.flipEpisode then front
    else
      match ((reqsOf s l).filter fun kv => selectable s l kv.1 kv.2).mergeSort fun a b => a.2.admitted ≤ b.2.admitted with
      | (_, r) :: _ => r.boundPick.getD front
      | [] => front

/-- Rows selected so far: the rows, the tokens they use, the bobbin records they reserve, and the bobbins that are held. -/
structure Selecting where
  s : State
  rows : List StepRow
  tokens : Nat
  recs : Table Nat
  heldBobbins : List Nat

/-- A row of a request. -/
def mkRow (e : Nat) (r : Req) (kind pos nin spec : Nat) : StepRow :=
  { entry := e, gen := r.gen, left := r.desc.maxNew - r.tokens.length, stops := r.desc.stops, kind, pos, nin, spec }

/-- The request's bobbin has room beside the rows already selected; else it is passed over and holds back the requests
that share its bobbin (R371). -/
def bobbinRoom (l e : Nat) (c : Selecting) : Bool × Selecting :=
  match bobbinOf c.s l e with
  | none => (true, c)
  | some k =>
    let b := tget {} c.s.bobbins k
    let need := reserveRecs (getLoom c.s l).srv (getReq c.s e)
    if c.heldBobbins.contains k then (false, c)
    else if tget 0 c.recs k + need ≤ b.free then (true, { c with recs := tmod 0 c.recs k (· + need) })
    else
      let s := { c.s with bobbins := tput c.s.bobbins k { b with waits := satAdd 0xFFFFFFFF b.waits 1 } }
      (false, { c with s := raiseEvt s .shed 8 (some l), heldBobbins := c.heldBobbins ++ [k] })

/-- The first step of a hit request pins another pick: its mapping is dropped, it prefills from position 0 on pages of its
own, and a miss is counted (R344). It is passed over while those pages are not free. -/
def dropHit (s : State) (l e pick : Nat) : Bool × State :=
  let r := getReq s e
  match r.pfxPick with
  | none => (true, s)
  | some p =>
    if p = pick then (true, modReq s e fun r => { r with pfxPick := none })
    else
      let n := r.desc.pfxLen / 16
      let s := evictFor s l n ((getLoom s l).srv.pfx.length + 1)
      let free := freePages s l
      if free.length < n then (false, s)
      else
        let s := modReq s e fun r => { r with pfxPick := none, pfxHit := false, pos := 0, pages := free.take n ++ r.pages.drop n }
        let s := modSrv s l fun v => { v with misses := satAdd 0xFFFFFFFF v.misses 1 }
        (true, raiseEvt s .srv 4 (some l))

/-- Bind a request to the pick of its first step under FLIP_AT_EPISODE: it pins that beam until it ends (R363). -/
def bindPick (s : State) (l e pick : Nat) (episode : Bool) : State :=
  if episode && (getReq s e).boundPick.isNone then
    pinPick (modReq s e fun r => { r with boundPick := some pick }) l pick true
  else s

/-- Select the DECODE rows: the first that does not fit ends the selection. -/
def selectDecode (l pick : Nat) (episode : Bool) : List (Nat × Req) → Selecting → Selecting
  | [], c => c
  | (e, r) :: rest, c =>
    let v := (getLoom c.s l).srv
    if v.maxRows ≤ c.rows.length || v.stepTokens < c.tokens + 1 + v.specDepth then c
    else
      let (ok, c) := bobbinRoom l e c
      if !ok then selectDecode l pick episode rest c
      else
        let row := mkRow e r 2 (r.desc.promptLen + r.tokens.length - 1) (1 + v.specDepth) v.specDepth
        selectDecode l pick episode rest
          { c with s := bindPick c.s l e pick episode, rows := c.rows ++ [row], tokens := c.tokens + 1 + v.specDepth }

/-- Select the PREFILL rows with the tokens left. -/
def selectPrefill (l pick : Nat) (episode : Bool) : List (Nat × Req) → Selecting → Selecting
  | [], c => c
  | (e, _) :: rest, c =>
    let v := (getLoom c.s l).srv
    if v.maxRows ≤ c.rows.length || v.stepTokens ≤ c.tokens then c
    else
      let recs := c.recs
      let (room, c) := bobbinRoom l e c
      let (ok, s) := if room then dropHit c.s l e pick else (false, c.s)
      let c := if ok then { c with s } else { c with s, recs }
      if !ok then selectPrefill l pick episode rest c
      else
        let r := getReq c.s e
        let left := r.desc.promptLen - r.pos
        let n := min left (min v.prefillChunk (v.stepTokens - c.tokens))
        let row := mkRow e r (if n = left then 1 else 0) r.pos n 0
        selectPrefill l pick episode rest
          { c with s := bindPick c.s l e pick episode, rows := c.rows ++ [row], tokens := c.tokens + n }

/-- A dobby command body as the engine writes it. -/
def engineEntry (stepEnd : Bool) (st : StepEntry) (args : Nat) (id : W32) : RunEntry :=
  { kind := 1, stepEnd, rsv0 := 0, entry := BitVec.ofNat 15 st.entry, rsv1 := 0, args := BitVec.ofNat 64 args
    first := BitVec.ofNat 16 st.first, count := BitVec.ofNat 16 st.count, cmdId := id, rsv2 := 0 }

/-- Bytes of one batch table with its results. -/
def batchBytes (v : SrvLoom) : Nat := 0x40 + v.maxRows * 96

/-- What a row needs beside its prompt: the page table, then for DECODE the input token ids, of which the last committed token
is written. -/
def rowArea (s : State) (w : StepRow) : List Byte :=
  let r := getReq s w.entry
  (r.pages.flatMap fun p => toLe 4 p) ++ if w.kind = 2 then toLe 4 ((r.tokens.getLast?.getD 0).toNat) else []
def rowAreaSize (s : State) (w : StepRow) : Nat :=
  4 * (getReq s w.entry).pages.length + if w.kind = 2 then 4 * w.nin else 0

/-- The rows with where the area of each begins, row after row from an address. -/
def rowPlaces (s : State) : Nat → List StepRow → List (StepRow × Nat)
  | _, [] => []
  | at_, w :: rest => (w, at_) :: rowPlaces s (at_ + rowAreaSize s w) rest

/-- The header and rows of a batch table (Table 10-5). NIN has 16 bits. -/
def tableBytes (s : State) (x : Loom) (rows : List (StepRow × Nat)) (pick : Nat) : List Byte :=
  toLe 8 x.srv.stepNo ++ toLe 4 rows.length ++ toLe 4 pick ++ toLe 8 s.tlm.timebase.toNat ++ List.replicate 40 0
    ++ rows.flatMap fun (w, area) =>
      let r := getReq s w.entry
      let ids := if w.kind = 2 then area + 4 * r.pages.length else idsAt x r + 4 * w.pos
      toLe 4 (w.entry + w.kind * 2 ^ 14 + r.gen.toNat * 2 ^ 16) ++ toLe 4 w.pos ++ toLe 4 (w.nin % 2 ^ 16 + w.spec * 2 ^ 16)
        ++ toLe 4 r.desc.stream.toNat ++ toLe 8 ids ++ toLe 8 area

/-- Where the areas of a step's rows begin: in BATCH after its two tables where there is room, and else at an address the manual
does not give, which is free (log 125). The second result says whether the model holds the areas' bytes. -/
def areasAt (s : State) (x : Loom) (k : Nat) (rows : List StepRow) : Nat × Bool :=
  let size := (rows.map (rowAreaSize s)).sum
  match objRec x x.srv.batch, objAddr x x.srv.batch (2 * batchBytes x.srv) with
  | some r, some a => if 2 * batchBytes x.srv + size ≤ r.bytes then (a, true) else (Config.freeNat k, false)
  | _, _ => (Config.freeNat k, false)

/-- Write the batch table and the step's commands (R330). -/
def writeStep (s : State) (l pick : Nat) (beam : Option Bool) (rows : List StepRow) : State :=
  let x := getLoom s l
  match objAddr x x.srv.batch (if x.srv.half then batchBytes x.srv else 0) with
  | none => s
  | some at_ =>
    let n := x.srv.stepList.length
    let (k, s) := drawFree s (n + 1)
    let cmds := ((List.range n).zip x.srv.stepList).map fun (i, st) =>
      engineEntry (i + 1 = n) st at_ ((Config.freeWord (k + i)).setWidth 32)
    let (area, held) := areasAt s x (k + n) rows
    let placed := rowPlaces s area rows
    let table := tableBytes s x placed pick
    let s := if held then placed.foldl (fun u wa => wrN u wa.2 (rowArea s wa.1)) s else s
    let s := wrN s at_ table
    let pinned := fun g : GenLoom => match beam with
      | none => g
      | some true => { g with beam1 := { g.beam1 with pins := g.beam1.pins + 1 } }
      | some false => { g with beam0 := { g.beam0 with pins := g.beam0.pins + 1 } }
    modLoom s l fun x => { x with
      engineRing := cmds
      shed := pinned x.shed
      srv := { x.srv with
        half := !x.srv.half, stepNo := x.srv.stepNo + 1, formed := some { rows, pick, beam, table := at_, no := x.srv.stepNo } } }

/-- The learning shed of a loom's SHARED weave: no batch step is formed in it. -/
def inLearnShed (s : State) (l : Nat) : Bool := match genWeave s l with
  | some (_, w) => w.shared && w.shed = .learn
  | none => false

/-- The states of a loom whose requests go on (R339). -/
def serving (x : Loom) : Bool :=
  x.st = .running || x.st = .ready || x.st = .preempting || x.st = .saving || x.st = .saved || x.st = .restoring

/-- Requests that find their pages leave QUEUED at once (Table 10-4). -/
def admitNow (s : State) (l : Nat) : State :=
  if (getLoom s l).srv.bound && serving (getLoom s l) && !inLearnShed s l then admitQueue l (reqsOf s l).length s else s

/-- The states in which the engine forms a step: not stopped and with no stop to come. -/
def mayForm (x : Loom) : Bool :=
  serving x && !x.pendingStop && !x.stopAtEnd && !x.stopIssue && x.srv.owned && x.srv.formed.isNone && x.cmd.isNone
    && x.engineRing.isEmpty

/-- Form the next batch step of a loom. A step with no rows is not formed, and nothing flips (R330, R362). -/
def formStep (s : State) (l : Nat) : State :=
  if !mayForm (getLoom s l) || inLearnShed s l then s
  else
    let w := (genWeave s l).map (·.2)
    let old := (getLoom s l).shed
    let s := if w.isSome then flipBeam s l else s
    let s := stallRings (admitQueue l (reqsOf s l).length s) l
    let pick := stepPick s l w
    let episode := (w.map (·.flipEpisode)).getD false
    let g := (getLoom s l).shed
    let mine := ((reqsOf s l).filter fun kv => (kv.2.st = .decode || kv.2.st = .prefill) && !kv.2.expired
      && (kv.2.desc.deadline = 0 || s.tlm.timebase.toNat < kv.2.desc.deadline.toNat)
      && (!episode || kv.2.boundPick.getD g.frontBeam.pick = pick)).mergeSort fun a b => a.2.admitted ≤ b.2.admitted
    let c : Selecting := { s, rows := [], tokens := 0, recs := [], heldBobbins := [] }
    let c := selectDecode l pick episode (mine.filter fun kv => kv.2.st = .decode) c
    let c := selectPrefill l pick episode (mine.filter fun kv => kv.2.st = .prefill) c
    if c.rows.isEmpty then modGen c.s l fun g => { g with front := old.front, flips := old.flips }
    else
      let c := { c with s := flipEvict c.s l old }
      let g := (getLoom c.s l).shed
      let beam := if w.isNone then none else some (if g.frontBeam.pick = pick then g.front else !g.front)
      writeStep c.s l pick beam c.rows

/-! ## Commit -/

/-- Tokens of a row that a cancel or a deadline keeps back: those up to MAX_NEW and the first stop token (R340). -/
def wastedOf (left : Nat) (stops toks : List W32) : Nat :=
  let t := toks.take left
  match t.findIdx? fun w => stops.contains w with
  | some i => i + 1
  | none => t.length

/-- Commit one token of a request (R335): its event, its record, and in a generator loom its experience record. -/
def commitToken (l e pick : Nat) (tok : W32) (lp : Nat) (s : State) : State :=
  let r := getReq s e
  let pos := r.tokens.length
  let (ev, s) := takeEv s
  let lp := if r.desc.logprob then lp else 0
  let s := putOut s e 1 tok.toNat pos pick 0 lp
  let s := bobbinToken (count48 s (srvReg l 0x10) 1) e ev pick tok.toNat pos lp
  modReq s e fun r => { r with tokens := r.tokens ++ [tok], lastPick := pick, st := .decode }

/-- The token at a request's next output index is its final one (R336). -/
def isFinal (r : Req) (tok : W32) : Bool := r.tokens.length + 1 = r.desc.maxNew || r.desc.stops.contains tok

/-- Register the beginning of a request when the step commits its position PREFIX_LEN − 1 (R345). -/
def registerPfx (s : State) (l e pick oldPos newPos : Nat) : State :=
  let r := getReq s e
  let d := r.desc
  let v := (getLoom s l).srv
  if !d.register || d.pfxHandle = 0 || d.pfxLen = 0 || newPos < d.pfxLen || d.pfxLen ≤ oldPos || v.pfxSlots = 0
      || v.pfx.any (fun p => p.handle = d.pfxHandle) then s
  else
    let s := evictDown s l (v.pfxSlots - 1)
    match poolPlace s l (4 * d.pfxLen) with
    | none => s
    | some buf =>
      let ids := r.prompt.take d.pfxLen
      let p : PfxEntry := { handle := d.pfxHandle, len := d.pfxLen, pick, tokens := ids, buf, pages := r.pages.take (d.pfxLen / 16)
                            lastUse := s.evseq.toNat }
      let s := modSrv s l fun v => { v with pfx := v.pfx ++ [p] }
      wrN s ((objAddr (getLoom s l) v.promptPool buf).getD 0) (ids.flatMap fun w => toLe 4 w.toNat)

/-- The result record of row i of a step (Table 10-6): the tokens within the row's limit on NOUT. -/
def rowResult (s : State) (v : SrvLoom) (f : FormedStep) (i : Nat) (w : StepRow) : RowCommit × Bool :=
  let at_ := f.table + 0x40 + v.maxRows * 32 + i * 64
  let limit := if w.kind = 0 then 0 else if w.kind = 1 then 1 else w.spec + 1
  let nout := rd s at_ 4 % 16
  let n := min nout limit
  let toks := (List.range n).map fun j => ((BitVec.ofNat 32 (rd s (at_ + 4 + 4 * j) 4) : W32), rd s (at_ + 0x24 + 2 * j) 2)
  ({ row := w, toks, nout := n }, limit < nout)

/-- The STEP_END command has completed OK: the engine reads the results, and commits row by row (R331, R335). A NOUT above its
limit raises RESULT_CLAMP. -/
def beginCommit (s : State) (l : Nat) : State :=
  match (getLoom s l).srv.formed with
  | none => s
  | some f =>
    let (k, s) := drawFree s 1
    let rs := ((List.range f.rows.length).zip f.rows).map fun (i, w) => rowResult s (getLoom s l).srv f i w
    let s := rs.foldl (fun s r => if r.2 then raiseEvt s .srv 7 (some l) else s) s
    modSrv s l fun v => { v with formed := some { f with committing := true, commits := rs.map (·.1), cycles := Config.freeNat k } }

/-- The rows left to commit. -/
def setCommits (s : State) (l : Nat) (cs : List RowCommit) : State :=
  modSrv s l fun v => { v with formed := v.formed.map fun f => { f with commits := cs } }

/-- The request of a row has ended, or another holds its entry. -/
def rowGone (r : Req) (w : StepRow) : Bool := r.gen ≠ w.gen || r.st = .ended || r.st = .free

/-- A row whose request a cancel or a deadline has ended: its tokens left are wasted, and its cycles where it committed none
(R340). One marked expired ends (R338). -/
def wasteRow (l : Nat) (f : FormedStep) (c : RowCommit) (s : State) : State :=
  let s := count48 s (srvReg l 0x18) (wastedOf (c.row.left - c.done) c.row.stops (c.toks.map (·.1)))
  let s := rejectDrafts (if c.done = 0 then count48 s (srvReg l 0x20) f.cycles else s) l c.rejected
  if rowGone (getReq s c.row.entry) c.row then s else endReq s c.row.entry stDeadline

/-- A row's positions commit before its tokens. A PREFILL_LAST row without a token leaves the prompt position (R327). -/
def rowPositions (l : Nat) (f : FormedStep) (c : RowCommit) (s : State) : State :=
  let w := c.row
  if c.done ≠ 0 || w.kind = 2 || (w.kind = 1 && c.toks.isEmpty) then s
  else registerPfx (modReq s w.entry fun r => { r with pos := w.pos + w.nin }) l w.entry f.pick w.pos (w.pos + w.nin)

/-- One event of a row's commit: a token, with the END after the final one (R335, R336). -/
def rowStep (l : Nat) (f : FormedStep) (c : RowCommit) (rest : List RowCommit) (s : State) : State :=
  let e := c.row.entry
  if rowGone (getReq s e) c.row || (getReq s e).expired then setCommits (wasteRow l f c s) l rest
  else
    let s := rowPositions l f c s
    match c.toks with
    | [] => setCommits (rejectDrafts s l c.rejected) l rest
    | (tok, lp) :: toks =>
      let final := isFinal (getReq s e) tok
      let s := commitToken l e f.pick tok lp s
      let c := { c with toks, done := c.done + 1 }
      if final then setCommits (rejectDrafts (endReq s e stOk) l c.rejected) l rest
      else if toks.isEmpty then setCommits (rejectDrafts s l c.rejected) l rest
      else setCommits s l (c :: rest)

/-! ## SHARED sheds (Table 11-7) -/

/-- A dobby command body from its 32 bytes (Table 7-4). -/
def runEntryOf (d : List Byte) : RunEntry :=
  let a := fieldAt d 0 4
  let b := fieldAt d 4 4
  let c := fieldAt d 0x10 4
  { kind := BitVec.ofNat 8 a, stepEnd := bits a 8 8 = 1, rsv0 := BitVec.ofNat 23 (a / 512)
    entry := BitVec.ofNat 15 b, rsv1 := BitVec.ofNat 17 (b / 2 ^ 15), args := BitVec.ofNat 64 (fieldAt d 8 8)
    first := BitVec.ofNat 16 c, count := BitVec.ofNat 16 (c / 2 ^ 16), cmdId := BitVec.ofNat 32 (fieldAt d 0x14 4)
    rsv2 := BitVec.ofNat 64 (fieldAt d 0x18 8) }

/-- The bodies of a learning unit. -/
def learnBodies (s : State) (x : Loom) (obj n : Nat) : List RunEntry :=
  (List.range n).map fun i => runEntryOf (objBytes s x obj (32 * i) 32)

/-- Write the next learning unit to the ring. -/
def writeUnit (s : State) (k : Nat) : State :=
  let w := getWeave s k
  modLoom s w.learner fun x => { x with engineRing := x.engineRing ++ learnBodies s x w.learnList w.nlearn }

/-- Publish in SHARED (R366): the other beam's header for the next pick. -/
def publishShared (s : State) (k : Nat) : State :=
  let w := getWeave s k
  if w.pick = allOnes32 then refusePick s k
  else
    let p := w.pick + 1
    let l := w.learner
    let g := (getLoom s l).shed
    let step := (getLoom s l).lrn.step
    let s := putHeader s l (if p % 2 = 1 then g.beam1.obj else g.beam0.obj) p step
    let full := fun b : Beam => { b with st := .full, pick := p }
    let s := modGen s l fun g => if p % 2 = 1 then { g with beam1 := full g.beam1 } else { g with beam0 := full g.beam0 }
    let s := modWeave s k fun w => { w with pick := p, pubStep := step, lastPub := stOk }
    raiseEvt (putCurPick s k p) .shed 0 (some l)

/-- A batch step of the loom has committed: its SHARED weave counts it, and the last of the shed turns to learning. -/
def shedStepDone (s : State) (l : Nat) : State :=
  match genWeave s l with
  | some (k, w) =>
    if w.shared && w.shed = .gen then
      if w.shedCount + 1 < w.genSteps then modWeave s k fun w => { w with shedCount := w.shedCount + 1 }
      else raiseEvt (writeUnit (modWeave s k fun w => { w with shed := .learn, shedCount := 0 }) k) .shed 7 (some l)
    else s
  | none => s

/-- The commits of a step go on by one event; after the last the step is over, and its shed counts it. -/
def commitOne (s : State) (l : Nat) : State :=
  match (getLoom s l).srv.formed with
  | none => s
  | some f =>
    if !f.committing then s
    else match f.commits with
      | c :: rest => rowStep l f c rest s
      | [] => shedStepDone (modSrv (dropStep s l) l fun v => { v with lastStep := BitVec.ofNat 64 f.no }) l

/-- At most this many events commit a step: no row has more than eight tokens. -/
def commitFuel (s : State) (l : Nat) : Nat := match (getLoom s l).srv.formed with
  | some f => 9 * f.commits.length + 1
  | none => 0

/-- The commits of a step go on to their end. -/
def commitAll (s : State) (l : Nat) : State := (List.range (commitFuel s l)).foldl (fun s _ => commitOne s l) s

/-- A learning unit has completed OK: the next unit, or the publication and the generation shed. -/
def shedUnitDone (s : State) (l : Nat) : State :=
  match learnWeave s l with
  | some (k, w) =>
    if w.shared && w.shed = .learn then
      if w.shedCount + 1 < w.learnUnits then writeUnit (modWeave s k fun w => { w with shedCount := w.shedCount + 1 }) k
      else
        let s := publishShared s k
        raiseEvt (modWeave s k fun w => { w with shed := .gen, shedCount := 0 }) .shed 7 (some l)
    else s
  | none => s

end Sys2Proof.Machine
end

