-- ==== Sys2Proof/Machine/Dobby.lean ====
section
/-! DEFINITION. The dobby sequencer: the start of a dobby command (R120, R237) and its end (R121, R318, R331, R355, R434). -/
namespace Sys2Proof.Machine

/-! ## Start -/

/-- The completion body of a dobby command (Table 7-5). -/
def dobbyBody (id : W32) (st : Byte) (soft hard : Nat) (tStart tEnd : W64) : List Byte :=
  toLe 4 id.toNat ++ toLe 4 (st.toNat + soft * 2 ^ 8 + hard * 2 ^ 16) ++ toLe 8 tStart.toNat ++ toLe 8 tEnd.toNat

/-- The completion ring of a host ring has a free entry that no command has reserved (R461). -/
def cplRoom (x : Session) (ring : Nat) : Bool := match tfind x.cpl (cplOf x ring) with
  | some r => r.unread + r.reserved < r.size
  | none => false

/-- Reserve an entry of a ring's completion ring, and count the host's commands taken from the ring: n. -/
def takeEntry (s : State) (sess ring n : Nat) : State :=
  modSession s sess fun x =>
    let c := cplOf x ring
    { x with
      cmd := tmod {} x.cmd ring fun r => { r with head := r.head + BitVec.ofNat 16 n }
      cpl := match tfind x.cpl c with
        | some r => tput x.cpl c { r with reserved := r.reserved + 1 }
        | none => x.cpl }

/-- The registers of the loom after a dobby command has completed (Tables 7-11 and 7-17). -/
def noteDone (x : Loom) (e : RunEntry) (st : Byte) : Loom :=
  { x with lastStatus := st, lastCmdId := e.cmdId, doneCnt := x.doneCnt + 1 }

/-- Strand state at entry (Table 4-10). -/
def entryStrand (e : RunEntry) (rank n strand : Nat) : Strand :=
  let z : Strand := { active := true, pc := e.entry }
  (((z.sput 1 e.args).sput 2 (BitVec.ofNat 64 rank)).sput 3 (BitVec.ofNat 64 n)).sput 4 (BitVec.ofNat 64 strand)

/-- The tile group of a command: COUNT 0 is every tile (R214, Table 7-4). -/
def groupOfEntry (x : Loom) (e : RunEntry) : List Nat :=
  if e.count = 0 then loomTiles x else ((loomTiles x).drop e.first.toNat).take e.count.toNat

/-- The command passes R237. -/
def entryOk (x : Loom) (e : RunEntry) : Bool :=
  e.kind = 1 && e.rsv0 = 0 && e.rsv1 = 0 && e.rsv2 = 0 && e.entry.toNat < x.program.length
    && e.first.toNat + e.count.toNat ≤ (loomTiles x).length

/-- The first 8 bytes of a dobby command body. -/
def entryHead (e : RunEntry) : W64 :=
  BitVec.ofNat 64 (e.kind.toNat + (if e.stepEnd then 2 ^ 8 else 0) + e.rsv0.toNat * 2 ^ 9 + e.entry.toNat * 2 ^ 32
    + e.rsv1.toNat * 2 ^ 47)

/-- The next command of the loom's ring, when there is room for its completion (R461): what the host placed stands before
what the engine or the shed controller wrote (R236, R323). -/
def nextEntry (s : State) (x : Loom) (e : RunEntry) : Bool :=
  cplRoom (getSession s x.session) x.dobbyRing && (hostReady s x || x.engineRing.head? = some e)

/-- Write the completion of a dobby command (Table 7-5). -/
def dobbyCpl (s : State) (x : Loom) (c : DobbyCmd) (st : Byte) : State :=
  postCpl s x.session x.dobbyRing st 0 c.e.cmdId (dobbyBody c.e.cmdId st c.soft c.hard c.tStart s.tlm.timebase)

/-- RESTORE_US: the time from selection to the first issue, in µs (Table 7-15). -/
def noteIssue (s : State) (x : Loom) : Loom := match x.selAt with
  | some t => { x with restoreUs := min 0xFFFF ((s.tlm.timebase - t).toNat / 100), selAt := none }
  | none => x

/-- RUN: the holder takes the next command of its ring when none is in progress, no hold keeps it (R355, R434), and the
bays are not to pass to another loom first (R239). It is refused by R237, or starts every strand of its group (R120). -/
def runEntry (l : Nat) (e : RunEntry) (s : State) : State :=
  let x := getLoom s l
  if !(x.st = .running && x.holder && x.cmd.isNone && !x.stopIssue && !learnerHeld s l && (displaces s l).isNone
      && nextEntry s x e) then s
  else
    let ring := hostReady s x
    let s := takeEntry s x.session x.dobbyRing (if ring then 1 else 0)
    let s := if ring then s else modLoom s l fun y => { y with engineRing := y.engineRing.drop 1 }
    let c : DobbyCmd := { e, fromRing := ring, tiles := groupOfEntry x e, tStart := s.tlm.timebase, soft := x.softNext, hard := 0
                          endStatus := none }
    if !entryOk x e then
      let s := dobbyCpl s x c stBad
      let s := modLoom s l fun y => recordFault (noteDone { y with st := .stopping, softNext := 0, stepEnded := false } e stBad)
        (entryHead e) stBad 0 0 0
      raiseEvt s .lmgr 0 (some l)
    else
      let s := modLoom s l fun y => { noteIssue s y with cmd := some c, softNext := 0, stepEnded := false }
      let n := c.tiles.length
      ((List.range n).zip c.tiles).foldl (fun s (rank, t) =>
        modTile s t fun u => { u with strands := (List.range 16).map fun k => (k, entryStrand e rank n k) }) s

def execRun (l : Nat) (e : RunEntry) (s : State) : Host.Outcome State Fault Refusal := .next (alive s fun s => runEntry l e s)

/-! ## End -/

/-- Nothing of a command is in flight in a tile. -/
def tileQuiet (t : Tile) : Bool :=
  t.ops.isEmpty && t.colls.isEmpty && t.queue.isEmpty && t.running.isEmpty && t.landing.isEmpty

/-- A command is over (R121, R154): nothing is in flight in the tiles it runs on, and every strand has ended unless the
command was ended. Matrix commands queued or in flight hold it back too (DESIGN CHOICE, log 121). A loom that is not on its
bays has nothing in flight there. -/
def cmdOver (s : State) (l : Nat) (c : DobbyCmd) : Bool :=
  let here := c.tiles.all fun t => ownerOfTile s t = some l
  !here && c.endStatus.isSome ||
    here && (c.tiles.all fun t => tileQuiet (getTile s t)) &&
      (c.endStatus.isSome || c.tiles.all fun t => (List.range 16).all fun k => (getStrand s { tile := t, strand := k }).ended)

/-- The tap sums of a command by group: strands in order, then tiles in rank order (R318). -/
def foldTaps (s : State) (tiles : List Nat) : Table TapSum :=
  let zero : TapSum := { weight := 0, update := 0, misses := 0 }
  let add := fun (a b : TapSum) =>
    ({ weight := f32Add a.weight b.weight, update := f32Add a.update b.update, misses := satAdd 0xFFFFFFFF a.misses b.misses } : TapSum)
  let merge := fun (acc : Table TapSum) (t : Table TapSum) => t.foldl (fun acc kv => tmod zero acc kv.1 fun a => add a kv.2) acc
  tiles.foldl (fun acc t => merge acc ((getTile s t).strands.foldl (fun a kv => merge a kv.2.tapSums) [])) []

/-- Add a command's tap sums to the step's (R318). -/
def addTaps (s : State) (l : Nat) (sums : Table TapSum) : State :=
  let zero : TapSum := { weight := 0, update := 0, misses := 0 }
  modLoom s l fun x => { x with lrn := { x.lrn with watchSums := sums.foldl (fun acc kv =>
    tmod zero acc kv.1 fun a =>
      { weight := f32Add a.weight kv.2.weight, update := f32Add a.update kv.2.update
        misses := satAdd 0xFFFFFFFF a.misses kv.2.misses }) x.lrn.watchSums } }

/-- A tile after a command: no strand, no binding, no accumulator value and no tracked block stays (R84, R120). -/
def quietTile (t : Tile) : Tile := { t with strands := [], binds := [], acc := [], segNext := [], board := [], rmtOut := 0 }

/-- The boundary of a checkpoint's step (R434): its copy begins, and the learner is held. -/
def ckptBoundary (s : State) (l : Nat) : State :=
  modLoom s l fun x => { x with ckpt := { x.ckpt with run := x.ckpt.run.map fun r =>
    if r.started && !r.closed && r.step.toNat < x.lrn.step.toNat then { r with closed := true, copying := true } else r } }

/-- What follows an OK end with STEP_END: the batch step commits, a learning unit ends (of commands that the host did not
place), or the learner publishes and meets its checkpoint. -/
def stepEndOk (s : State) (l : Nat) (fromRing : Bool) : State :=
  let x := getLoom s l
  let s := if fromRing then s
    else if x.srv.owned && x.srv.formed.isSome && x.engineRing.isEmpty && x.srv.formed.all (!·.committing) then beginCommit s l
    else shedUnitDone s l
  let s := match learnWeave s l with
    | some (k, w) => if w.shared then s else publishPoint s k
    | none => s
  ckptBoundary s l

/-- DOBBY_COMMAND_END. -/
def endCommand (l : Nat) (s : State) : State :=
  let x := getLoom s l
  match x.cmd with
  | none => s
  | some c =>
    if x.st = .saving || x.st = .saved || x.st = .restoring || !cmdOver s l c then s
    else
      let st := c.endStatus.getD stOk
      let here := c.tiles.all fun t => ownerOfTile s t = some l
      let s := if here then
          c.tiles.foldl (fun s t => modTile s t quietTile) (addTaps s l (foldTaps s c.tiles))
        else s
      let s := dobbyCpl (dropStrandRows s l) x c st
      let s := modLoom s l fun y => noteDone { y with
        cmd := none
        stepEnded := c.e.stepEnd && st = stOk
        st := if st ≠ stOk && (y.st = .running || y.st = .preempting) then .stopping else y.st
        preempt := if st ≠ stOk then none else y.preempt } c.e st
      let s := if c.e.stepEnd && st = stOk then stepEndOk s l c.fromRing else s
      preemptEval s l

def execDobbyCommandEnd (l : Nat) (s : State) : Host.Outcome State Fault Refusal := .next (alive s fun s => endCommand l s)

end Sys2Proof.Machine
end

