-- ==== Sys2Proof/Machine/Layout.lean ====
section
/-! DEFINITION. The placement engine: which bays a loom receives (R206), how an intent is laid out (R207 to R211, R215),
and the map it publishes (R212, R213). Where the manual leaves a place to the engine, the place is free among those that
fit (log 24). -/
namespace Sys2Proof.Machine

/-! ## Bays (R196, R206) -/

/-- The dies that a die edge joins to a die. -/
def dieNbrs (d : Nat) : List Nat :=
  (if d % 8 = 0 then [] else [d - 1]) ++ (if d % 8 = 7 then [] else [d + 1]) ++ (if d < 8 then [] else [d - 8])
    ++ (if d < 32 then [d + 8] else [])

/-- Edges between die i and the earlier dies that the boundary crosses, when the die is taken or not. The profile m holds
the eight dies before i: bit 0 is die i − 1, bit 7 is die i − 8. -/
def edgeCost (i m : Nat) (taken : Bool) : Nat :=
  let f := fun b : Nat => if (b = 1) = taken then 0 else 1
  (if i % 8 = 0 then 0 else f (m % 2)) + if i < 8 then 0 else f (m / 128)

/-- The least costs from die i on, by profile and number of dies still to take; none cannot be done. -/
def costRow (whole : List Bool) (k i : Nat) (nxt : Array (Option Nat)) : Array (Option Nat) :=
  (Array.range (256 * (k + 1))).map fun j =>
    let m := j / (k + 1)
    let r := j % (k + 1)
    let at_ := fun (b r : Nat) => (nxt[(m * 2 + b) % 256 * (k + 1) + r]?).join
    let skip := (at_ 0 r).map (· + edgeCost i m false)
    let take := if r = 0 || !whole.getD i false then none else (at_ 1 (r - 1)).map (· + edgeCost i m true)
    match skip, take with
    | some a, some b => some (min a b)
    | a, none => a
    | none, b => b

/-- The cost rows of dies i to 39 and of the end. -/
def costRows (whole : List Bool) (k : Nat) : List (Array (Option Nat)) :=
  (List.range 40).foldr (fun i acc => match acc with
    | [] => []
    | n :: _ => costRow whole k i n :: acc)
    [(Array.range (256 * (k + 1))).map fun j => if j % (k + 1) = 0 then some 0 else none]

/-- Follow the least cost, taking each die that can be taken: the list that is lower where two differ. -/
def regionGo (whole : List Bool) (k : Nat) : List Nat → List (Array (Option Nat)) → Nat → Nat → List Nat
  | i :: is, row :: nxt :: rows, m, r =>
    let here := (row[m * (k + 1) + r]?).join
    let take := if r = 0 || !whole.getD i false then none
      else ((nxt[(m * 2 + 1) % 256 * (k + 1) + (r - 1)]?).join).map (· + edgeCost i m true)
    if take.isSome && take = here then i :: regionGo whole k is (nxt :: rows) ((m * 2 + 1) % 256) (r - 1)
    else regionGo whole k is (nxt :: rows) (m * 2 % 256) r
  | _, _, _, _ => []

/-- The most compact region of k whole free dies. -/
def region (whole : List Bool) (k : Nat) : List Nat := regionGo whole k (List.range 40) (costRows whole k) 0 k

/-- Bays in no bay set that are neither retired nor still to be tested (R427), and of which no tile is lost (R201). -/
def bayFree (s : State) (b : Nat) : Bool :=
  !s.svc.retired.contains b && !s.svc.lostBays.contains b && !s.svc.testing.contains b && !(liveLooms s).any fun l => (getLoom s l).bays.contains b

/-- The first of some dies that is lowest by a measure. -/
def leastDie (f : Nat → Nat) : List Nat → Option Nat
  | [] => none
  | d :: r => some (r.foldl (fun a b => if f b < f a then b else a) d)

/-- The remaining bays, die by die: the pseudocode of R206. free lists the free bays of each die. -/
def restBays : Nat → Table (List Nat) → List Nat → Nat → List Nat
  | 0, _, _, _ => []
  | fuel + 1, free, taken, r =>
    if r = 0 then []
    else
      let has := (free.filter fun kv => !kv.2.isEmpty).map (·.1)
      let adj := has.filter fun d => (dieNbrs d).any taken.contains
      let cand := if adj.isEmpty then has else adj
      let n := fun d => (tget [] free d).length
      match leastDie n (cand.filter fun d => r ≤ n d) with
      | some d => (tget [] free d).take r
      | none =>
        match leastDie (fun d => 8 - n d) cand with
        | some d => tget [] free d ++ restBays fuel (tput free d []) (taken ++ [d]) (r - n d)
        | none => []

/-- The bays of a new bay set of n bays, ascending; none when fewer are free. -/
def assignBays (s : State) (n : Nat) : Option (List Nat) :=
  let free := (List.range 320).filter (bayFree s)
  if free.length < n then none
  else
    let whole := (List.range 40).map fun d => (List.range 8).all fun j => free.contains (d * 8 + j)
    let w := min (n / 8) (whole.filter id).length
    let dies := region whole w
    let mine := dies.flatMap fun d => (List.range 8).map fun j => d * 8 + j
    let left := (List.range 40).map fun d => (d, if dies.contains d then [] else free.filter fun b => b / 8 = d)
    some ((mine ++ restBays 41 left dies (n - mine.length)).mergeSort (· ≤ ·))

/-! ## Free choices of the engine -/

/-- Ranges of the stacks in use: tensors, rank tables, parking areas and save areas. -/
def stackUsed (s : State) : List (Nat × Nat) :=
  (liveLooms s).flatMap fun l =>
    let x := getLoom s l
    (x.map.filter fun r => r.kind = mkStk || r.kind = mkRanks || r.kind = mkPark).map (fun r => (r.addr, align4k r.bytes))
      ++ [(x.saveAt, x.bays.length * 120 * 2 ^ 20)]

/-- The gaps between used ranges in rising order. -/
def gaps (lo hi : Nat) : List (Nat × Nat) → List (Nat × Nat)
  | [] => [(lo, hi - lo)]
  | (a, n) :: r => (lo, a - lo) :: gaps (max lo (a + n)) hi r

/-- Position i among those of n bytes at 4 KiB steps in some gaps. -/
def inGaps (n : Nat) : List (Nat × Nat) → Nat → Option Nat
  | [], _ => none
  | (a, len) :: r, i =>
    let c := if len < n then 0 else (len - n) / 4096 + 1
    if i < c then some (a + i * 4096) else inGaps n r (i - c)

/-- A place of n bytes in the stacks, aligned to 4 KiB, free among those that fit (R209). -/
def stackPlace (s : State) (used : List (Nat × Nat)) (n : Nat) : Option Nat × State :=
  let size := max 4096 (align4k n)
  let gs := gaps 0 (Config.memEnd s.variant) (used.mergeSort fun a b => a.1 ≤ b.1)
  let total := (gs.map fun g => if g.2 < size then 0 else (g.2 - size) / 4096 + 1).sum
  let (k, s) := drawFree s 1
  (if total = 0 then none else inGaps size gs (Config.freeNat k % total), s)

/-! ## Laying out an intent (R207 to R211) -/

/-- An object of tile store: first rank, ranks, offset, bytes per tile. -/
structure TsUse where
  first : Nat
  count : Nat
  off : Nat
  len : Nat

/-- A layout under way. -/
structure Lay where
  s : State
  recs : List MapRec
  ts : List TsUse
  stk : List (Nat × Nat)

/-- The options and objects of an intent. -/
def patOrder (p : Nat) : Nat := match p with
  | 6 => 0 | 1 => 1 | 2 => 2 | 4 => 3 | 3 => 4 | _ => 5

/-- The bytes of a tile block of a format (R101). -/
def tileBlock (fmt : Nat) : Nat := if fmt = 7 then 1024 else 1024 * fmtBytes fmt

/-- A range of tile store is free on a run of ranks. -/
def tsFits (ts : List TsUse) (cap first count off len : Nat) : Bool :=
  off + len ≤ cap && ts.all fun u => first + count ≤ u.first || u.first + u.count ≤ first || off + len ≤ u.off || u.off + u.len ≤ off

/-- The dies of a run of ranks. -/
def rankDies (x : Loom) (first count : Nat) : List Nat :=
  ((((loomTiles x).drop first).take count).map fun t => dieOfBay (bayOf t)).eraseDups

/-- The dies of an object in tile store, or of an expert group; none when it lies in stacks or nowhere. -/
def objDies (x : Loom) (intent : List IntentRec) (recs : List MapRec) (obj : Nat) : Option (List Nat) :=
  match recs.find? fun r => r.kind = mkTs && r.obj = obj with
  | some r => some (rankDies x r.first r.count)
  | none =>
    match intent.find? fun r => r.kind = 2 && r.obj = obj, recs.filter fun r => r.kind = mkExpert && r.obj = obj with
    | some g, e :: es => some ((e :: es).flatMap fun r => rankDies x r.first g.c).eraseDups
    | _, _ => none

/-- Dies bridged to I/O dies. -/
def hostDies (v : Variant) : List Nat := (Config.ioSites v).map Config.siteDie

/-- An affinity holds of two sets of dies (R211). -/
def affHolds (v : Variant) (rel : Nat) (a b : List Nat) : Bool :=
  match rel with
  | 1 => a.all b.contains || b.all a.contains
  | 2 => !a.any b.contains
  | _ => (a ++ b).all (hostDies v).contains

/-- The dies of an object keep every affinity it has with objects already placed. -/
def affKept (v : Variant) (x : Loom) (intent : List IntentRec) (affs : List Affinity) (recs : List MapRec) (obj : Nat)
    (dies : List Nat) : Bool :=
  (affs.filter fun f => f.a = obj || f.b = obj).all fun f =>
    let other := if f.a = obj then f.b else f.a
    match objDies x intent recs other with
    | some d => affHolds v f.rel dies d
    | none => f.rel ≠ 3 || dies.all (hostDies v).contains

/-- The first of n numbers, going round from i, for which something is found. -/
def tryRound {α : Type} (n : Nat) (f : Nat → Option α) : Nat → Nat → Option α
  | 0, _ => none
  | fuel + 1, i => match f (i % n) with
    | some y => some y
    | none => tryRound n f fuel (i + 1)

/-- The same over all n numbers, from free value k on. -/
def tryFree {α : Type} (n k : Nat) (f : Nat → Option α) : Option α := tryRound n f n (Config.freeNat k)

/-- A map record. -/
def mkRec (kind l obj addr bytes count first extra : Nat) : MapRec :=
  { kind, loom := l, affIgnored := false, forced := false, obj, addr, bytes, count, first, extra }

/-- The gaps of the stacks between ranges in use. -/
def stackGaps (v : Variant) (used : List (Nat × Nat)) : List (Nat × Nat) :=
  gaps 0 (Config.memEnd v) (used.mergeSort fun a b => a.1 ≤ b.1)

/-- The 4 KiB positions of size bytes in some gaps. -/
def gapPlaces (size : Nat) (gs : List (Nat × Nat)) : Nat := (gs.map fun g => if g.2 < size then 0 else (g.2 - size) / 4096 + 1).sum

/-- Bytes of a shard: whole tile blocks (R208). -/
def roundShard (r : IntentRec) (c : Nat) : Nat :=
  let blk := tileBlock r.fmt
  ((r.bytes + c - 1) / c + blk - 1) / blk * blk

/-- The largest q of a table (R215). -/
def hotQ (r : IntentRec) : Nat :=
  (((List.range 40).filter fun q => 2 ^ q * 4 * (r.b + 8) ≤ r.c * 2 ^ 20 + r.c * 2 ^ 20 / 8).getLast?).getD 0

/-- Sets and bytes of a hot region on each tile. -/
def hotSets (r : IntentRec) : Nat := (2 ^ hotQ r + 127) / 128
def hotTileBytes (r : IntentRec) : Nat := hotSets r * 32 + hotSets r * 4 * r.b

/-- The first ranks of the experts of a group (R210): as many to a die as it holds, or across dies when one exceeds them. -/
def expertSlots (x : Loom) (c : Nat) : List Nat :=
  let ranks := (List.range (loomTiles x).length).zip (loomTiles x)
  let dies := rankDies x 0 (loomTiles x).length
  let per := dies.flatMap fun d =>
    let rs := (ranks.filter fun p => dieOfBay (bayOf p.2) = d).map (·.1)
    (List.range (rs.length / c)).map fun j => rs.headD 0 + j * c
  if per.isEmpty then (List.range ((loomTiles x).length / c)).map (· * c) else per

/-- Give a group its experts; none when the loom's tiles cannot hold it. -/
def layExperts (l : Nat) (x : Loom) (r : IntentRec) (y : Lay) : Option Lay :=
  let slots := expertSlots x r.c
  if slots.length < r.a then none
  else
    let es := ((List.range r.a).zip slots).map fun (e, f) =>
      mkRec mkExpert l r.obj 0 r.bytes e f (dieOfBay (bayOf ((loomTiles x).getD f 0)))
    some { y with recs := y.recs ++ es }

/-- The tensors of an intent in the order of R207. -/
def tensorOrder (intent : List IntentRec) : List IntentRec :=
  (intent.filter fun r => r.kind = 1).mergeSort fun a b =>
    patOrder a.pattern < patOrder b.pattern ||
      (patOrder a.pattern = patOrder b.pattern && (b.bytes < a.bytes || (a.bytes = b.bytes && a.obj ≤ b.obj)))

/-- What is laid out one after another: an expert group, a hot region, a tensor in tile store or in the stacks, or a tensor
in tile store while it fits there. -/
inductive LayJob where
  | experts (r : IntentRec)
  | hot (r : IntentRec)
  | tile (r : IntentRec)
  | stack (r : IntentRec)
  | either (r : IntentRec)

/-- What a layout is made under: the loom, its intent, the affinities to honour, the end of what objects may use of a tile
store, and which objects lie there when that is settled. -/
structure LayCtx where
  l : Nat
  x : Loom
  intent : List IntentRec
  affs : List Affinity
  cap : Nat
  inTs : Option (List Nat)

/-- Try the places of a tensor in tile store: group size, first rank and offset, each from a free value on (R208). -/
def tryTile (c : LayCtx) (keep : Bool) (k : Nat) (r : IntentRec) (y : Lay) (go : Lay → Option Lay) : Option Lay :=
  let n := (loomTiles c.x).length
  let blk := tileBlock r.fmt
  let size := fun (cnt : Nat) =>
    let shard := roundShard r cnt
    tryFree (n + 1 - cnt) (k + 1) fun first =>
      if keep && !affKept y.s.variant c.x c.intent c.affs y.recs r.obj (rankDies c.x first cnt) then none
      else tryFree (c.cap / blk + 1) (k + 2) fun j =>
        if tsFits y.ts c.cap first cnt (j * blk) shard then
          go { y with
            recs := y.recs ++ [mkRec mkTs c.l r.obj (j * blk) shard cnt first 0]
            ts := y.ts ++ [{ first, count := cnt, off := j * blk, len := shard }] }
        else none
  if r.c = 0 then tryFree n k fun i => size (i + 1) else size r.c

/-- Try the places of a tensor or a home in the stacks (R209). -/
def tryStack (c : LayCtx) (k : Nat) (r : IntentRec) (y : Lay) (go : Lay → Option Lay) : Option Lay :=
  let size := max 4096 (align4k r.bytes)
  let gs := stackGaps y.s.variant y.stk
  tryFree (gapPlaces size gs) k fun i =>
    match inGaps size gs i with
    | some a => go { y with recs := y.recs ++ [mkRec mkStk c.l r.obj a r.bytes 0 0 0], stk := y.stk ++ [(a, size)] }
    | none => none

/-- Try the places of a hot region: one offset of every tile (R215). -/
def tryHot (c : LayCtx) (k : Nat) (r : IntentRec) (y : Lay) (go : Lay → Option Lay) : Option Lay :=
  let n := (loomTiles c.x).length
  let len := hotTileBytes r
  tryFree (c.cap / 64 + 1) k fun j =>
    if tsFits y.ts c.cap 0 n (j * 64) len then
      go { y with
        recs := y.recs ++ [mkRec mkHot c.l r.obj (j * 64) (len * 128 * (rankDies c.x 0 n).length) 0 0 (hotSets r)]
        ts := y.ts ++ [{ first := 0, count := n, off := j * 64, len }] }
    else none

/-- Place one thing at the first of its places at which what follows can be placed too. A tensor that tile store holds goes
there, whatever the affinities (R207, R211). -/
def place1 (c : LayCtx) (k : Nat) (j : LayJob) (y : Lay) (go : Lay → Option Lay) : Option Lay :=
  match j with
  | .experts r => (layExperts c.l c.x r y).bind go
  | .hot r => tryHot c k r y go
  | .tile r => tryTile c true k r y go
  | .stack r => tryStack c k r y go
  | .either r =>
    let tile := match c.inTs with
      | some ids => ids.contains r.obj
      | none => (tryTile c false k r y some).isSome
    if tile then tryTile c true k r y go else tryStack c k r y go

/-- An affinity is honoured in a layout. -/
def affDone (v : Variant) (x : Loom) (intent : List IntentRec) (recs : List MapRec) (f : Affinity) : Bool :=
  match objDies x intent recs f.a, objDies x intent recs f.b with
  | some a, some b => affHolds v f.rel a b
  | _, _ => false

/-- Lay out some things with every affinity of the context honoured: the first layout that holds them all, if there is one. -/
def search (c : LayCtx) : List (Nat × LayJob) → Lay → Option Lay
  | [], y => if c.affs.all (affDone y.s.variant c.x c.intent y.recs) then some y else none
  | (k, j) :: js, y => place1 c k j y (search c js)

/-- The things of an intent in their order (R207, R210, R215), each with three free values from k on; beams tells whether the
BEAM tensors go to tile store. -/
def layJobs (k : Nat) (intent : List IntentRec) (stream beams : Bool) : List (Nat × LayJob) × Nat :=
  let groups := (intent.filter fun r => r.kind = 2).mergeSort fun a b => a.obj ≤ b.obj
  let embeds := (intent.filter fun r => r.kind = 3).mergeSort fun a b => a.obj ≤ b.obj
  let ts := tensorOrder intent
  let tensor := fun (r : IntentRec) =>
    if stream || r.pattern = 5 then LayJob.stack r
    else if r.pattern = 6 then if beams then .tile r else .stack r
    else .either r
  let first := groups.map LayJob.experts ++ (if stream then [] else (embeds.filter fun r => r.c ≠ 0).map LayJob.hot)
    ++ ((ts.filter fun r => r.pattern = 6).map tensor)
  let all := first ++ ((ts.filter fun r => r.pattern ≠ 6).map tensor) ++ embeds.map LayJob.stack
  (((List.range all.length).map fun i => k + 3 * i).zip all, first.length)

/-- Honour affinities one after another: each that can be, with those before it, when every object stays where it lies, in tile
store or in the stacks (R211). -/
def honour (c : LayCtx) (js : List (Nat × LayJob)) (y : Lay) : List Affinity → Lay → Lay
  | [], z => z
  | f :: fs, z =>
    let c' := { c with affs := c.affs ++ [f] }
    match search c' js y with
    | some z' => honour c' js y fs z'
    | none => honour c js y fs z

/-- Lay out a whole intent; none when the tile stores and the stacks cannot hold it. Hot regions come before tensors, since they
lie only in tile store; the BEAM tensors go to tile store when they all fit there together (R30, R207). -/
def layout (s : State) (l : Nat) (x : Loom) (intent : List IntentRec) (affs : List Affinity) (scratchMin : Nat)
    (stream : Bool) (stk : List (Nat × Nat)) : Option Lay :=
  let (k, s) := drawFree s (3 * (intent.length * 2))
  let y : Lay := { s, recs := [], ts := [], stk }
  let c : LayCtx := { l, x, intent, affs := [], cap := tsBytes - scratchMin * 1024, inTs := none }
  let beamJobs := layJobs k intent stream true
  let beams := (search c (beamJobs.1.take beamJobs.2) y).isSome
  let js := (layJobs k intent stream beams).1
  match search c js y with
  | none => none
  | some z =>
    let ids := (z.recs.filter fun r => r.kind = mkTs).map (·.obj)
    some (honour { c with inTs := some ids } js y affs z)

/-- Mark the objects of affinities that are not honoured (R211). -/
def markAffs (v : Variant) (x : Loom) (intent : List IntentRec) (affs : List Affinity) (recs : List MapRec) : List MapRec :=
  let bad := affs.filter fun f => !affDone v x intent recs f
  recs.map fun r => if bad.any (fun f => f.a = r.obj || f.b = r.obj) then { r with affIgnored := true } else r

/-- Free bytes of the fullest tile: EXTRA of SCRATCH. -/
def scratchFree (x : Loom) (recs : List MapRec) : Nat :=
  let n := (loomTiles x).length
  let used := fun k => ((recs.filter fun r => (r.kind = mkTs && r.first ≤ k && k < r.first + r.count) || r.kind = mkHot).map
    fun r => if r.kind = mkTs then r.bytes else r.bytes / 128 / (rankDies x 0 n).length).sum
  tsBytes - (List.range n).foldl (fun m k => max m (used k)) 0

/-- The map of a loom from its objects: ranks, objects, parking area, scratch. -/
def fullMap (x : Loom) (objs : List MapRec) : List MapRec :=
  (x.map.filter fun r => r.kind = mkRanks) ++ objs ++ (x.map.filter fun r => r.kind = mkPark)
    ++ (x.map.filter fun r => r.kind = mkScratch).map fun r =>
      { r with bytes := scratchFree x objs * (loomTiles x).length, extra := scratchFree x objs }

/-- The hot regions of a layout. -/
def hotRegions (x : Loom) (intent : List IntentRec) (recs : List MapRec) : List HotRegion :=
  (recs.filter fun r => r.kind = mkHot).filterMap fun r =>
    (intent.find? fun t => t.kind = 3 && t.obj = r.obj).map fun t =>
      { obj := r.obj, q := hotQ t, dies := rankDies x 0 (loomTiles x).length, rowBytes := t.b, off := r.addr, sampleLog2 := t.d
        slots := [], cands := [], seen := [], handoffs := [], todo := [] }

/-- Publish a map of a loom under a new generation (R212). -/
def publishMap (s : State) (l : Nat) (f : Loom → Loom) : State :=
  modLoom s l fun x => { f x with gen := (x.gen + 1) % 2 ^ 32 }

/-! ## Contents -/

/-- Bytes of an object that stays, in the order of its offsets: those its old place held, and free values where the loom's
tile stores hold nothing of it. -/
def heldObj (s : State) (x : Loom) (obj n : Nat) : List Byte × State :=
  let (k, s) := drawFree s 1
  ((List.range n).map fun i =>
    match objAddr x obj i with
    | some a => if a < tsBase || x.lastHolder then memGet s.mem a else Config.freeByte k i
    | none => Config.freeByte k i, s)

/-- Write an object at its new place: a loom that did not hold its bays last has no bytes in tile store. -/
def putObj (s : State) (x : Loom) (obj : Nat) (bs : List Byte) : State :=
  (bs.zip (List.range bs.length)).foldl (fun s (b, i) =>
    match objAddr x obj i with
    | some a => if a < tsBase || x.lastHolder then wrN s a [b] else s
    | none => s) s

/-- Fill an object with free values (R204). -/
def fillFree (s : State) (x : Loom) (obj n : Nat) : State :=
  let (k, s) := drawFree s 1
  putObj s x obj ((List.range n).map (Config.freeByte k))

/-- Move the objects of a loom from its old map to its new one: those that stay keep their bytes, the others hold free
values. -/
def moveObjs (s : State) (old new : Loom) (keep fresh : List IntentRec) : State :=
  let (bodies, s) := keep.foldl (fun (acc : List (Nat × List Byte) × State) r =>
    let (b, s) := heldObj acc.2 old r.obj r.bytes
    (acc.1 ++ [(r.obj, b)], s)) ([], s)
  let s := bodies.foldl (fun s p => putObj s new p.1 p.2) s
  fresh.foldl (fun s r => fillFree s new r.obj r.bytes) s

end Sys2Proof.Machine
end

