-- ==== Sys2Proof/Machine/Place.lean ====
section
/-! DEFINITION. Placement commands: PLC_INTENT (R204, R205), PLC_MAP_READ (R212, R213), PLC_FORCE (R222 to R224), the row
agents and their handoffs (R215 to R220), and PLC_MIG_CTRL (R225). -/
namespace Sys2Proof.Machine

/-! ## PLC_INTENT -/

/-- A binding, a weave, a checkpoint set or a configuration in force names an object of a loom (Table 6-2). -/
def objNamed (s : State) (l obj : Nat) : Bool :=
  let x := getLoom s l
  let inBind := x.lrn.binds.any fun b => b.master = obj || b.acc = obj || b.copy0 = obj || (b.kind = 1 && b.copy1 = obj)
  let inLrn := (x.lrn.ngroups ≠ 0 || obj ≠ 0) && (x.lrn.groupTab = obj || x.lrn.sched = obj || x.lrn.values = obj
    || (x.lrn.watch ≠ 0 && x.lrn.watch = obj))
  let inSrv := (x.srv.bound || obj ≠ 0) && (x.srv.kvPool = obj || x.srv.promptPool = obj || x.srv.batch = obj)
  let inCkpt := x.ckpt.entries.any fun e => e.obj = obj
  let inTlm := (x.tlm.dump ≠ 0 && x.tlm.dump = obj) || (x.tlm.sample ≠ 0 && x.tlm.sample = obj)
  let inWeave := s.weaves.any fun kv =>
    (kv.2.learner = l && (kv.2.creel = obj || (kv.2.srcList = obj && !kv.2.src.isEmpty) || (kv.2.shared && kv.2.learnList = obj)
      || kv.2.src.any fun e => e.obj = obj))
    || kv.2.gens.any fun g => g.loom = l && (g.beam0 = obj || g.beam1 = obj)
  inBind || inLrn || inSrv || inCkpt || inTlm || inWeave

/-- The byte counts Table 6-2 accepts for a tensor. -/
def tensorBytes (r : IntentRec) : List Nat :=
  let w := fmtBits r.fmt
  let up := fun n => (n + 31) / 32 * 32
  if isMx r.fmt then [r.a * up r.b * w / 8 + r.a * up r.b / 32, up r.a * r.b * w / 8 + up r.a / 32 * r.b]
  else if r.a * r.b * w % 8 = 0 then [r.a * r.b * w / 8] else []

/-- A record that adds or replaces an object passes the row of its KIND. -/
def objOk (tiles : Nat) (r : IntentRec) : Bool :=
  match r.kind with
  | 1 => (tensorBytes r).contains r.bytes && r.c ≤ tiles
  | 2 => r.a ≠ 0 && r.a ≤ 1024 && r.b ≠ 0 && r.b ≤ r.a && r.c ≠ 0 && r.c ≤ 128
  | _ => r.a ≤ 2 ^ 32 && r.b % 4 = 0 && r.b ≤ 1024 && r.c ≤ 448 && r.d ≤ 8

/-- The objects, relations and options of an intent. -/
structure Intent where
  objs : List IntentRec
  affs : List Affinity
  scratchMin : Nat
  stream : Bool

/-- Apply one record to an intent; none when it fails Table 6-2. old is the loom's intent before the command. -/
def amend (s : State) (l : Nat) (r : IntentRec) (y : Intent) : Option Intent :=
  let x := getLoom s l
  if r.reserved || r.kind = 0 || 5 < r.kind || 10 < r.fmt || (r.kind = 1 && (r.pattern = 0 || 6 < r.pattern))
    || (r.kind ≠ 1 && r.pattern ≠ 0) || (r.kind ≠ 3 && r.d ≠ 0)
  then none
  else if r.kind ≤ 3 then
    let old := x.intent.find? fun o => o.obj = r.obj
    let same := match old with
      | some o => o.kind = r.kind
      | none => true
    if !same then none
    else if r.bytes = 0 then
      if old.isNone || objNamed s l r.obj then none
      else some { y with
        objs := y.objs.filter fun o => o.obj ≠ r.obj
        affs := y.affs.filter fun f => f.a ≠ r.obj && f.b ≠ r.obj }
    else if !objOk (loomTiles x).length r then none
    else some { y with objs := (y.objs.filter fun o => o.obj ≠ r.obj) ++ [r] }
  else if r.kind = 4 then
    if r.b = 0 || 3 < r.b || r.c ≠ 0 then none else some y
  else if 7168 < r.a || 2 ≤ r.b || r.c ≠ 0 then none
  else some { y with scratchMin := r.a, stream := r.b = 1 }

/-- Two numbers name the same pair. -/
def samePair (a b c d : Nat) : Bool := (a = c && b = d) || (a = d && b = c)

/-- Add the relations of a command, each for its pair. -/
def relate (recs : List IntentRec) (affs : List Affinity) : List Affinity :=
  (recs.filter fun r => r.kind = 4).foldl (fun (acc : List Affinity) r =>
    (acc.filter fun f => !samePair f.a f.b r.obj r.a) ++ [{ a := r.obj, b := r.a, rel := r.b }]) affs

/-- No object twice, no pair twice, one options record at most. -/
def recsOnce (recs : List IntentRec) : Bool :=
  let ids := (recs.filter fun r => r.kind ≤ 3).map (·.obj)
  let pairs := (recs.filter fun r => r.kind = 4).map fun r => (min r.obj r.a, max r.obj r.a)
  ids.eraseDups.length = ids.length && pairs.eraseDups.length = pairs.length && (recs.filter fun r => r.kind = 5).length ≤ 1

/-- The intent after a command; none when a record fails Table 6-2. -/
def amendAll (s : State) (l : Nat) (recs : List IntentRec) : Option Intent :=
  let x := getLoom s l
  let y : Intent := { objs := x.intent, affs := x.affs, scratchMin := x.scratchMin, stream := x.streamOnly }
  if !recsOnce recs then none
  else
    match recs.foldl (fun (acc : Option Intent) r => acc.bind (amend s l r)) (some y) with
    | none => none
    | some y =>
      let y := { y with affs := relate recs y.affs }
      let there := fun o => y.objs.any fun r => r.obj = o
      if y.affs.all fun f => there f.a && there f.b then some y else none

/-- Apply an amended intent: laid out anew, its objects moved, its map published. FULL when it does not fit. -/
def applyIntent (s : State) (l : Nat) (recs : List IntentRec) (y : Intent) : Except Byte (State × List Byte) :=
  let x := getLoom s l
  let own := (x.map.filter fun r => r.kind = mkStk).map (·.addr)
  let stk := (stackUsed s).filter fun u => !own.contains u.1
  match layout s l x y.objs y.affs y.scratchMin y.stream stk with
  | none => .error stFull
  | some z =>
    let objs := markAffs s.variant x y.objs y.affs z.recs
    let x' := { x with
      intent := y.objs, affs := y.affs, streamOnly := y.stream, scratchMin := y.scratchMin
      map := fullMap x objs, hot := hotRegions x y.objs objs }
    let changed := (recs.filter fun r => r.kind = 1 || r.kind = 3).map (·.obj)
    let data := y.objs.filter fun r => r.kind = 1 || r.kind = 3
    let s' := moveObjs z.s x x' (data.filter fun r => !changed.contains r.obj) (data.filter fun r => changed.contains r.obj)
    let s' := publishMap s' l fun q => { q with
      intent := x'.intent, affs := x'.affs, streamOnly := x'.streamOnly, scratchMin := x'.scratchMin, map := x'.map, hot := x'.hot }
    .ok (s', toLe 4 (getLoom s' l).gen)

/-- PLC_INTENT. -/
def execPlcIntent (session ring : Nat) (s : State) : Host.Outcome State Fault Refusal :=
  .next <| alive s fun s => cfgRun s session ring fun t =>
    match t.body with
    | .plcIntent recs => match amendAll s t.loom recs with
      | some y => applyIntent s t.loom recs y
      | none => .error stBad
    | _ => .error stBad

/-! ## PLC_MAP_READ -/

/-- The 32 bytes of a map record (Table 6-3). -/
def mapBytes (r : MapRec) : List Byte :=
  toLe 4 (r.kind + r.loom * 2 ^ 8 + (if r.affIgnored then 2 ^ 13 else 0) + if r.forced then 2 ^ 14 else 0)
    ++ toLe 4 r.obj ++ toLe 8 r.addr ++ toLe 8 r.bytes ++ toLe 4 (r.count + r.first * 2 ^ 16) ++ toLe 4 r.extra

/-- PLC_MAP_READ: as many whole records as fit, from the first. -/
def execPlcMapRead (session ring : Nat) (s : State) : Host.Outcome State Fault Refusal :=
  .next <| alive s fun s => cmdRun s session ring fun t =>
    match t.body with
    | .plcMapRead buffer len =>
      if !loomOwned s session t.loom then .error stPerm
      else if len % 32 ≠ 0 then .error stBad
      else
        let x := getLoom s t.loom
        let rs := x.map.take (len / 32)
        .ok (hostWr s buffer.toNat (rs.flatMap mapBytes), toLe 4 x.gen ++ toLe 4 rs.length ++ toLe 4 x.map.length)
    | _ => .error stBad

/-! ## PLC_FORCE -/

/-- A record that places an object itself: in the tiles or in the stacks. -/
def placesObj (r : MapRec) : Bool := r.kind = mkTs || r.kind = mkStk

/-- A record stands for another in the map: for the same object, the same expert of a group, or the same area of the loom. -/
def sameRec (r q : MapRec) : Bool :=
  r.obj = q.obj && ((placesObj r && placesObj q) || (r.kind = q.kind && (r.kind ≠ mkExpert || r.count = q.count)))

/-- A range of the stacks at a 4 KiB boundary. -/
def stkRange (v : Variant) (r : MapRec) : Bool := r.addr % 4096 = 0 && r.addr + r.bytes ≤ Config.memEnd v

/-- A forced record of a stopped loom keeps R208 to R210 and R216 and lies in the loom: a tensor or table, a hot region, an
expert, the rank table, the parking area, or the scratch as it comes to be (log 124). -/
def forcedOk (s : State) (l : Nat) (r : MapRec) : Bool :=
  let x := getLoom s l
  let n := (loomTiles x).length
  let obj := x.intent.find? fun o => o.obj = r.obj
  r.loom = l && (x.map.any (sameRec r)) &&
    if r.kind = mkRanks then stkRange s.variant r && r.bytes = 2 * n && r.count = n && r.first = 0 && r.extra = 0
    else if r.kind = mkPark then
      stkRange s.variant r && (x.map.any fun q => q.kind = mkPark && q.bytes = r.bytes) && r.count = 0 && r.first = 0 && r.extra = 0
    else if r.kind = mkScratch then r.addr = 0 && r.count = 0 && r.first = 0 && r.bytes = r.extra * n
    else
      match obj with
      | none => false
      | some o =>
        if r.kind = mkTs then
          o.kind = 1 && r.count ≠ 0 && (o.c = 0 || o.c = r.count) && r.first + r.count ≤ n && r.addr % tileBlock o.fmt = 0
            && r.bytes = roundShard o r.count && r.addr + r.bytes ≤ tsBytes && r.extra = 0
        else if r.kind = mkStk then
          (o.kind = 1 || o.kind = 3) && stkRange s.variant r && r.bytes = o.bytes && r.count = 0 && r.first = 0 && r.extra = 0
        else if r.kind = mkHot then
          o.kind = 3 && o.c ≠ 0 && r.extra = hotSets o && r.bytes = hotTileBytes o * 128 * (rankDies x 0 n).length
            && r.addr + hotTileBytes o ≤ tsBytes && r.count = 0 && r.first = 0
        else
          o.kind = 2 && r.addr = 0 && r.bytes = o.bytes && r.first + o.c ≤ n
            && r.extra = dieOfBay (bayOf ((loomTiles x).getD r.first 0))

/-- The ranges of a map in tile store, those of its experts, and those in the stacks do not overlap. -/
def mapDisjoint (s : State) (x : Loom) (recs : List MapRec) : Bool :=
  let n := (loomTiles x).length
  let inStk := fun (r : MapRec) => r.kind = mkStk || r.kind = mkRanks || r.kind = mkPark
  let ts := (recs.filter fun r => r.kind = mkTs || r.kind = mkHot).map fun r =>
    if r.kind = mkTs then (r.first, r.count, r.addr, r.bytes) else (0, n, r.addr, r.bytes / 128 / (rankDies x 0 n).length)
  let own := (x.map.filter inStk).map (·.addr)
  let stk := ((stackUsed s).filter fun u => !own.contains u.1)
    ++ (recs.filter inStk).map fun r => (r.addr, align4k r.bytes)
  let exps := (recs.filter fun r => r.kind = mkExpert).map fun r =>
    (r.obj, r.first, ((x.intent.find? fun o => o.obj = r.obj).map (·.c)).getD 0)
  let apart := fun (a b : Nat × Nat × Nat × Nat) =>
    a.1 + a.2.1 ≤ b.1 || b.1 + b.2.1 ≤ a.1 || a.2.2.1 + a.2.2.2 ≤ b.2.2.1 || b.2.2.1 + b.2.2.2 ≤ a.2.2.1
  let pairs := fun {α : Type} (f : α → α → Bool) (xs : List α) =>
    (List.range xs.length).all fun i => ((xs.drop (i + 1)).all fun b => match xs[i]? with
      | some a => f a b
      | none => true)
  pairs apart ts && pairs (fun (a b : Nat × Nat) => a.1 + a.2 ≤ b.1 || b.1 + b.2 ≤ a.1) stk
    && pairs (fun (a b : Nat × Nat × Nat) => a.1 ≠ b.1 || a.2.1 + a.2.2 ≤ b.2.1 || b.2.1 + b.2.2 ≤ a.2.1) exps

/-- A map with forced records in the place of their own. -/
def forcedMap (x : Loom) (records : List MapRec) : List MapRec :=
  x.map.map fun q =>
    match records.find? fun r => sameRec r q with
    | some r => { r with forced := true, affIgnored := q.affIgnored }
    | none => q

/-- The objects of a map with forced records in the place of their own. -/
def forcedObjs (x : Loom) (records : List MapRec) : List MapRec :=
  (forcedMap x records).filter fun r => placesObj r || r.kind = mkExpert || r.kind = mkHot

/-- The map that forced records make: its scratch is what they leave, and at least SCRATCH_MIN (R208); none otherwise, or
where a forced record of the scratch does not give it. -/
def forcedFull (x : Loom) (records : List MapRec) : Option (List MapRec) :=
  let objs := forcedObjs x records
  let free := scratchFree x objs
  let m := fullMap { x with map := forcedMap x records } objs
  if free < x.scratchMin * 1024 || records.any (fun r => r.kind = mkScratch && r.extra ≠ free) then none else some m

/-- No two forced records of one command place the same object, or the same hot region. -/
def forcedOnce (records : List MapRec) : Bool :=
  (List.range records.length).all fun i => match records[i]? with
    | some r => !(records.drop (i + 1)).any (sameRec r)
    | none => true

/-- PLC_FORCE: the service processor's own command, in test mode (R222); its answer stands in reply. -/
def forceMap (l : Nat) (records : List MapRec) (s : State) : State :=
  let x := getLoom s l
  let out := fun (st : Byte) (s : State) => { s with reply := [st.setWidth 64] }
  if !s.svc.testMode || x.st = .free then s
  else if x.st ≠ .stopped then out stNotStopped s
  else
    match forcedFull x records with
    | none => out stBad s
    | some m =>
      if !(records.all (forcedOk s l) && mapDisjoint s x m && forcedOnce records) then out stBad s
      else
        let x' := { x with map := m, hot := hotRegions x x.intent (forcedObjs x records) }
        let data := x.intent.filter fun r => r.kind = 1 || r.kind = 3
        let s' := moveObjs s x x' data []
        let s' := match m.find? fun r => r.kind = mkRanks && r.forced with
          | some r => wrN s' r.addr ((loomTiles x).flatMap fun t => toLe 2 t)
          | none => s'
        out stOk (publishMap s' l fun q => { q with map := x'.map, hot := x'.hot })

def execPlcForce (l : Nat) (records : List MapRec) (s : State) : Host.Outcome State Fault Refusal := .next (alive s fun s => forceMap l records s)

/-! ## Row agents (R217, Table 6-5) -/

def slotOf (h : HotRegion) (k : Nat) : SlotEntry := tget noSlot h.slots k
def putSlot (h : HotRegion) (k : Nat) (e : SlotEntry) : HotRegion := { h with slots := tput h.slots k e }

/-- An access reaches its row's agent: served from the slot, forwarded to the home, or held while a handoff runs, behind the
accesses that arrived earlier (R217). A write into an uncopied source block is held until its copy (R358). -/
def agentAccess (s : State) (a : RowAccess) : State :=
  let x := getLoom s a.loom
  match hotOf s a.loom a.obj, objRec x a.obj with
  | some h, some r =>
    if r.bytes < (a.row + 1) * h.rowBytes || h.rowBytes < a.off + a.data.length || ((rowSlot h a.row).isSome && !x.holder) then s
    else
      let rows := [(a.obj, a.row)]
      let wait := fun s => modLoom s a.loom fun x => { x with rowWaits := x.rowWaits ++ [{ who := .agent a, rows }] }
      match (if a.write then uncopied s (homeOf s a h.rowBytes) a.data.length else none) with
      | some kb => wait (holdCopy s [a.loom, a.obj, a.row, a.off] kb)
      | none => if rowsHeldUp s x x.rowWaits rows then wait s else serveRow s a
  | _, _ => s

def execRowAgentAccess (a : RowAccess) (s : State) : Host.Outcome State Fault Refusal := .next (alive s fun s => agentAccess s a)

/-! ## Handoffs (R218, R219) -/

/-- Handoffs of a reader die in flight, over every table that has it. -/
def inFlight (s : State) (die : Nat) : Nat :=
  ((liveLooms s).map fun l => ((getLoom s l).hot.map fun h =>
    (h.slots.filter fun kv => (kv.2.st = .movingIn || kv.2.st = .movingOut)
      && h.dies.getD (kv.1 / 4 / 2 ^ h.q) 0 = die).length).sum).sum

/-- Begin a promotion at an INVALID entry: the agent reads the row from its home. -/
def beginIn (h : HotRegion) (k row n : Nat) : HotRegion :=
  putSlot h k { noSlot with st := .movingIn, row, count := min 255 n }

/-- Handoffs that a die has begun in the epoch, over every table that has it (R218). -/
def epochHandoffs (s : State) (die : Nat) : Nat :=
  ((liveLooms s).map fun l => ((getLoom s l).hot.map fun h =>
    (h.handoffs.map fun kv => if h.dies.getD kv.1 0 = die then kv.2 else 0).sum).sum).sum

/-- The handoffs a promotion takes: its own, and the demotion of the row that its way holds. -/
def handoffsOf (e : SlotEntry) : Nat := if e.st = .valid then 2 else 1

/-- Begin a chosen promotion: a clean row is demoted at once, which completes its handoff; a dirty one is written to its home
first. -/
def beginOne (s : State) (l : Nat) (h : HotRegion) (k row n : Nat) : State :=
  let e := slotOf h k
  let d := k / 4 / 2 ^ h.q
  let h := { h with handoffs := tmod 0 h.handoffs d (· + handoffsOf e) }
  if e.st = .valid && e.dirty then
    putHot s l (putSlot h k { e with st := .movingOut, next := some (row, n) })
  else putHot (if e.st = .valid then countHandoffs s l 1 else s) l (beginIn h k row n)

/-- Begin the chosen promotions of a table that the limits of R218 let begin. -/
def beginTodo (l obj : Nat) : Nat → State → State
  | 0, s => s
  | fuel + 1, s =>
    match hotOf s l obj with
    | none => s
    | some h =>
      let can := fun (t : Nat × Nat × Nat) =>
        let die := h.dies.getD (t.1 / 4 / 2 ^ h.q) 0
        let e := slotOf h t.1
        (e.st = .valid || e.st = .invalid) && inFlight s die < 64 && epochHandoffs s die + handoffsOf e ≤ 65536
          && (rowSlot h t.2.1).isNone
      match h.todo.find? can with
      | none => s
      | some t => beginTodo l obj fuel (beginOne s l { h with todo := h.todo.erase t } t.1 t.2.1 t.2.2)

/-- Begin whatever the limits let begin, of every table in loom order. -/
def beginAll (s : State) : State :=
  (liveLooms s).foldl (fun s l => (getLoom s l).hot.foldl (fun s h => beginTodo l h.obj h.todo.length s) s) s

/-- A handoff has ended: it is counted, the accesses that its row held are served, and promotions that waited may begin. -/
def handoffEnd (s : State) (l : Nat) : State := beginAll (serveAll (countHandoffs s l 1) l)

/-- The way of a candidate: the lowest COUNT of its set that is less than the candidate's, the lowest way on ties. planned
holds the counts of ways chosen already. -/
def chooseWay (h : HotRegion) (planned : Table Nat) (row n : Nat) : Option Nat :=
  let base := rowSet h row * 4
  let cnt := fun k => match tfind planned k with
    | some c => c
    | none => let e := slotOf h k; if e.st = .invalid then 0 else e.count
  let ways := ((List.range 4).map (base + ·)).filter fun k =>
    let e := slotOf h k
    (e.st = .invalid || e.st = .valid) && cnt k < n && (tfind planned k).isNone
  match ways with
  | [] => none
  | w :: r => some (r.foldl (fun a b => if cnt b < cnt a then b else a) w)

/-- The choices of a table at an epoch end. A row whose tile is not the loom's is never promoted. -/
def chooseAll (x : Loom) (h : HotRegion) (promoteMin : Nat) : List (Nat × Nat × Nat) :=
  (h.cands.foldl (fun (acc : List (Nat × Nat × Nat) × Table Nat) c =>
    let row := c.2.1
    let n := c.2.2
    let set := rowSet h row % 2 ^ h.q
    let tile := h.dies.getD (row % h.dies.length) 0 * 128 + set % 128
    if n < promoteMin || !x.bays.contains (bayOf tile) || (rowSlot h row).isSome then acc
    else match chooseWay h acc.2 row n with
      | some k => (acc.1 ++ [(k, row, n)], tput acc.2 k (min 255 n))
      | none => acc) ([], [])).1

/-- A table's epoch ends. Forced records suspend promotion until the next PLC_INTENT or the end of test mode (R224). Its promotions are chosen, COUNT is halved, the candidates and the epoch's handoffs are cleared. -/
def epochHot (s : State) (l : Nat) (promote : Bool) (promoteMin : Nat) (h : HotRegion) : State :=
  let x := getLoom s l
  let todo := if promote && !(s.svc.testMode && x.map.any fun r => r.forced) && x.holder then chooseAll x h promoteMin else []
  let h := { h with
    slots := h.slots.map fun kv => (kv.1, { kv.2 with count := kv.2.count / 2 })
    cands := [], handoffs := [], todo }
  beginTodo l h.obj todo.length (putHot s l h)

/-- MIGRATION_EPOCH_END: every table in loom order; then a written PLC_MIG_CTRL takes effect (R225). -/
def epochEnd (s : State) : State :=
  let v := (getReg s 0x00300008).toNat
  let s := (liveLooms s).foldl (fun s l =>
    (getLoom s l).hot.foldl (fun s h => match hotOf s l h.obj with
      | some h => epochHot s l (bits v 31 31 = 1) (bits v 23 16) h
      | none => s) s) s
  match s.migNext with
  | some w => { setReg s 0x00300008 w with migNext := none }
  | none => s

def execMigrationEpochEnd (s : State) : Host.Outcome State Fault Refusal := .next (alive s fun s => epochEnd s)

/-- HOME_DATA_LANDS: the row stands in its slot and the slot owns it; poisoned data leaves it with its home. -/
def homeLands (l obj slot : Nat) (poisoned : Bool) (s : State) : State :=
  match hotOf s l obj, objRec (getLoom s l) obj with
  | some h, some r =>
    let e := slotOf h slot
    if e.st ≠ .movingIn || !(getLoom s l).holder then s
    else
      let home := r.addr + e.row * h.rowBytes
      if poisoned || poisonHit s home h.rowBytes then
        handoffEnd (putHot (meetUnits s none [(home, h.rowBytes)]) l (putSlot h slot noSlot)) l
      else
        let s := wrN s (slotAddr h slot) (rdN s home h.rowBytes)
        handoffEnd (putHot s l (putSlot h slot { e with st := .valid, dirty := false })) l
  | _, _ => s

def execHomeDataLands (l obj slot : Nat) (poisoned : Bool) (s : State) : Host.Outcome State Fault Refusal :=
  .next (alive s fun s => homeLands l obj slot poisoned s)

/-- HOME_WRITE_ACCEPTED: the home holds and owns the row; held accesses go there, and a promotion that waits begins. -/
def homeAccepts (l obj slot : Nat) (s : State) : State :=
  match hotOf s l obj, objRec (getLoom s l) obj with
  | some h, some r =>
    let e := slotOf h slot
    if e.st ≠ .movingOut || !(getLoom s l).holder then s
    else
      let s := wrData s (r.addr + e.row * h.rowBytes) (rdN s (slotAddr h slot) h.rowBytes)
      let h := match e.next with
        | some (row, n) => beginIn h slot row n
        | none => putSlot h slot noSlot
      handoffEnd (putHot s l h) l
  | _, _ => s

def execHomeWriteAccepted (l obj slot : Nat) (s : State) : Host.Outcome State Fault Refusal := .next (alive s fun s => homeAccepts l obj slot s)

/-! ## PLC_MIG_CTRL (Table 6-12) -/

/-- The value PLC_MIG_CTRL takes from a write: a PROMOTE_MIN of 0 and an EPOCH_MS out of range leave their fields. -/
def migValue (old new : W64) : W64 :=
  let n := new.toNat
  let o := old.toNat
  BitVec.ofNat 64 (bits n 31 31 * 2 ^ 31 + (if bits n 23 16 = 0 then bits o 23 16 else bits n 23 16) * 2 ^ 16
    + if 10 ≤ bits n 15 0 && bits n 15 0 ≤ 10000 then bits n 15 0 else bits o 15 0)

/-- A write to PLC_MIG_CTRL takes effect at the end of the epoch (R225). -/
def migWrite (s : State) (value : W64) : State :=
  { s with migNext := some (migValue (s.migNext.getD (getReg s 0x00300008)) value) }

def execPlcMigCtrlWrite (who : Accessor) (value : W64) (s : State) : Host.Outcome State Fault Refusal :=
  .next (alive s fun s => if adminOf s who then migWrite s value else s)

end Sys2Proof.Machine
end

