-- ==== Sys2Proof/Machine/Lmgr.lean ====
section
/-! DEFINITION. The loom manager: its commands (Table 7-1, R226 to R228, R231 to R234, R248, R250, R251), the selection of
a holder (R238), and the events of pre-emption, save, restore and stop (R235, R241, R243, R164). -/
namespace Sys2Proof.Machine

/-! ## Creation and deletion -/

/-- Bytes of a parking area (Table 5-8). -/
def parkBytes (bays credits : Nat) : Nat := bays * (256 * 1024 + 5 * 2 ^ 20) + credits * (32 + 4096)

/-- Credits in the pools of all looms (R247). -/
def creditsInUse (s : State) : Nat := ((liveLooms s).map fun l => (getLoom s l).credits).sum
def creditTotal : Nat := 32768

/-- Bays a session's bay sets count, each set once (R253). -/
def sessionBays (s : State) (sess : Nat) : Nat :=
  ((((liveLooms s).filter fun l => (getLoom s l).session = sess).map fun l => (getLoom s l).bays).eraseDups.map List.length).sum

/-- The rank table, the parking area and the save area of a new loom; none when one does not fit. -/
def createAreas (s : State) (bays : List Nat) : Option (Nat × Nat × Nat × State) :=
  let one := fun (u : List (Nat × Nat)) (n : Nat) (s : State) => stackPlace s u n
  let n := bays.length
  let u := stackUsed s
  match one u (32 * n) s with
  | (some a, s) =>
    let u := u ++ [(a, align4k (32 * n))]
    match one u (parkBytes n 1024) s with
    | (some b, s) =>
      let u := u ++ [(b, align4k (parkBytes n 1024))]
      match one u (n * 120 * 2 ^ 20) s with
      | (some c, s) => some (a, b, c, s)
      | (none, _) => none
    | (none, _) => none
  | (none, _) => none

/-- The lowest free loom number. -/
def freeLoom (s : State) : Option Nat := (List.range 32).find? fun l => (getLoom s l).st = .free

/-- A fresh loom in STOPPED, with its map and rank table. -/
def putLoom (s : State) (l sess : Nat) (bays : List Nat) (stepClass : Bool) (priority ring ranks park save : Nat) : State :=
  let tiles := bays.flatMap bayTiles
  let n := bays.length
  let recs := [mkRec mkRanks l 0 ranks (32 * n) (16 * n) 0 0, mkRec mkPark l 0 park (parkBytes n 1024) 0 0 0,
    mkRec mkScratch l 0 0 (tsBytes * tiles.length) 0 0 tsBytes]
  let old := getLoom s l
  let x : Loom := {
    st := .stopped, session := sess, bays, stepClass, priority, credits := 1024, softWait := 100, grace := 2000
    dobbyRing := ring, map := recs, saveAt := save, gen := (old.gen + 1) % 2 ^ 32 }
  wrN (setLoom s l x) ranks (tiles.flatMap fun t => toLe 2 t)

/-- The phase timers and LAST_COLL of bays that join a new bay set are cleared (R414). -/
def clearPhases (s : State) (bays : List Nat) : State :=
  modTlm s fun t => { t with
    phase := t.phase.filter fun kv => !bays.contains (kv.1 / 8)
    lastColl := t.lastColl.filter fun kv => !bays.contains kv.1 }

/-- LOOM_CREATE (R227): whole, or refused with nothing allocated; another session's loom to share with is refused first (R228, R232). -/
def createLoom (s : State) (sess : Nat) (bays share : Option Nat) (stepClass : Bool) (priority ring : Nat) :
    Except Byte (State × List Byte) :=
  let q := getSession s sess
  let ringOk := match tfind q.cmd ring with
    | some r => r.kind = .dobby
    | none => false
  let sizeOk := share.isSome || match bays with
    | some n => 1 ≤ n && n ≤ 320
    | none => false
  if (share.map (loomOwned s sess)).getD true = false then .error stPerm
  else if !ringOk || !sizeOk || 7 < priority then .error stBad
  else
    let mine := (liveLooms s).filter fun l => (getLoom s l).session = sess
    let room := mine.length < q.loomQuota && creditsInUse s + 1024 ≤ creditTotal
    let done := fun (l : Nat) (s : State) => Except.ok (ε := Byte) (s, toLe 4 l)
    match share with
    | some k =>
      match freeLoom s, createAreas s (getLoom s k).bays with
      | some l, some (a, b, c, s') =>
        if !room || 8 ≤ (coResident s k).length then .error stFull
        else done l (putLoom s' l sess (getLoom s k).bays stepClass priority ring a b c)
      | _, _ => .error stFull
    | none =>
      let n := bays.getD 0
      match freeLoom s, assignBays s n with
      | some l, some bs =>
        if !room || q.bayQuota < sessionBays s sess + n then .error stFull
        else
          match createAreas s bs with
          | some (a, b, c, s') => done l (putLoom (clearPhases (clearBays s' bs) bs) l sess bs stepClass priority ring a b c)
          | none => .error stFull
      | _, _ => .error stFull

def execLoomCreate (session ring : Nat) (s : State) : Host.Outcome State Fault Refusal :=
  .next <| alive s fun s => cmdRun s session ring fun t => match t.body with
    | .loomCreate bays share cls prio dobby => createLoom s session bays share cls prio dobby
    | _ => .error stBad

/-- A loom is deleted: its weave dissolves (R349, R360), its entries are freed, its registers read their reset values
(R457). The bays of a FAULTED loom are tested before they are free (R427). -/
def deleteLoom (s : State) (l : Nat) : State :=
  let x := getLoom s l
  let s := endRestore (endCkpt s l stCancelled) l stCancelled
  let s := match weaveOf s l with
    | some (k, _) => dissolve (abandonTaking s k l) k
    | none => s
  let s := (reqsOf s l).foldl (fun s kv => dropReq s kv.1) s
  let s := clearRegs (clearRegs s (srvReg l 0) 0x40) (lrnReg l 0) 0x40
  let s := if x.st = .faulted then modSvc s fun v => { v with testing := (v.testing ++ x.bays).eraseDups } else s
  let s := if x.holder || x.lastHolder then
      { s with tiles := s.tiles.map fun (t, u) => if x.bays.contains (bayOf t) then (t, ({} : Tile)) else (t, u) }
    else s
  let s := modPower s fun p => { p with hostTreadle := tdel p.hostTreadle l }
  setLoom s l { gen := (x.gen + 1) % 2 ^ 32 }

/-- A loom manager command on the envelope's loom: PERMISSION, or NOT_STOPPED outside the states listed (R232, R233). -/
def loomRun (s : State) (sess ring : Nat) (sts : List LoomState) (f : Nat → Taken → Except Byte (State × List Byte)) : State :=
  cmdRun s sess ring fun t =>
    if !loomOwned s sess t.loom then .error stPerm
    else if !sts.contains (getLoom s t.loom).st then .error stNotStopped
    else f t.loom t

def execLoomDelete (session ring : Nat) (s : State) : Host.Outcome State Fault Refusal :=
  .next <| alive s fun s => loomRun s session ring [.stopped, .faulted] fun l _ => .ok (deleteLoom s l, [])

/-! ## Configuration and program -/

/-- The ranges of Table 7-2. -/
def loomCfgOk (f : LoomConfigF) : Bool :=
  f.priority.getD 0 ≤ 7 && (let c := f.credits.getD 64; 64 ≤ c && c ≤ 16384) && f.softWait.getD 0 ≤ 10000
    && f.grace.getD 0 ≤ 50000 && ((f.semInit.getD []).all fun p => p.1 < 256) && (f.semInit.getD []).length ≤ 256

/-- A new credit pool moves the parking area and publishes the map (R212, R247); none when it does not fit. -/
def setCredits (s : State) (l c : Nat) : Option State :=
  let x := getLoom s l
  if c = x.credits then some s
  else if creditTotal < creditsInUse s - x.credits + c then none
  else
    let old := (x.map.find? fun r => r.kind = mkPark).map (·.addr)
    let n := parkBytes x.bays.length c
    match stackPlace s ((stackUsed s).filter fun u => some u.1 ≠ old) n with
    | (some a, s) => some (publishMap s l fun y => { y with
        credits := c
        map := y.map.map fun r => if r.kind = mkPark then { r with addr := a, bytes := n } else r })
    | (none, _) => none

/-- LOOM_CONFIG: the fields it carries; a carried SEM_INIT replaces every count (R473). -/
def configLoom (s : State) (l : Nat) (f : LoomConfigF) : Except Byte (State × List Byte) :=
  if !loomCfgOk f then .error stBad
  else
    match setCredits s l (f.credits.getD (getLoom s l).credits) with
    | none => .error stFull
    | some s =>
      .ok (modLoom s l fun x => { x with
        stepClass := f.stepClass.getD x.stepClass
        priority := f.priority.getD x.priority
        seed := f.seed.getD x.seed
        softWait := f.softWait.getD x.softWait
        grace := f.grace.getD x.grace
        sems := match f.semInit with
          | some ps => ps.foldl (fun t p => tset 0 t p.1 p.2) []
          | none => x.sems }, [])

def execLoomConfig (session ring : Nat) (s : State) : Host.Outcome State Fault Refusal :=
  .next <| alive s fun s => cfgRun s session ring fun t => match t.body with
    | .loomConfig f => configLoom s t.loom f
    | _ => .error stBad

/-- PROG_LOAD: the image the device read from host memory, of as many instructions as the command names. -/
def execProgLoad (session ring : Nat) (image : List W64) (s : State) : Host.Outcome State Fault Refusal :=
  .next <| alive s fun s => match takenOf s session ring with
    | some { body := .progLoad _ n, loom, .. } =>
      if (cfgRefusal s session loom).isNone && 1 ≤ n && n ≤ 32768 && image.length ≠ n then s
      else cfgRun s session ring fun t =>
        if n = 0 || 32768 < n then .error stBad
        else .ok (modLoom s t.loom fun x => { x with program := image, loaded := true }, [])
    | _ => s

/-! ## Selection -/

/-- Strands that wait in SEMACQ join their queues again as the newest waiters, in rank and strand order (R243). -/
def rejoin (s : State) (l : Nat) : State :=
  (loomTiles (getLoom s l)).foldl (fun s t =>
    (getTile s t).strands.foldl (fun s kv =>
      match kv.2.blocked with
      | .sem sem n _ =>
        if sem < 0x100 then
          serveLoomSem (modLoom s l fun x => { x with semWaiters := x.semWaiters ++ [(sem, t, kv.1)] }) l sem
        else
          match tfind s.ssems sem with
          | some q =>
            if q.mask.getLsbD (getLoom s l).session then
              serveSem { s with ssems := tput s.ssems sem { q with waiters := q.waiters ++ [(l, t, kv.1, n)] } } sem
            else semDone s { tile := t, strand := kv.1 } stPerm
          | none => semDone s { tile := t, strand := kv.1 } stPerm
      | _ => s) s) s

/-- Where a record of the parking area stands: its tile and strand, and there its tag (R193). A chunk whose collective is not issued
has no tag yet, and comes after those of its tile. -/
def parkPlace (s : State) (l : Nat) : ParkRec ⊕ Nat × InFrame → Nat
  | .inl r => (r.tile * 32 + r.strand) * 2 ^ 17 + tagPlace s r.tile r.strand r.tag
  | .inr (t, m) => match frameOp s l t m.fr with
    | some o => (t * 32 + o.strand) * 2 ^ 17 + tagPlace s t o.strand o.tag
    | none => (t * 32 + 16) * 2 ^ 17

/-- What arrived for a loom while it was away takes effect before any strand issues: the parked reads and chunks in the order of
their tags within each strand, then complete groups of ordered additions and collectives that waited for an install (R164,
R193, R244). -/
def takeUp (s : State) (l : Nat) : State :=
  let x := getLoom s l
  let rs := (x.parked.map Sum.inl ++ x.parkedFrames.map Sum.inr).mergeSort fun a b => parkPlace s l a ≤ parkPlace s l b
  let s := modLoom s l fun x => { x with parked := [], parkedFrames := [] }
  let s := rs.foldl (fun s r => match r with
    | .inl r => unpark s l r
    | .inr (t, m) => unparkFrame l s t m) s
  beginHeld (serveAll (applyReady s l) l) l

/-- Select a loom as holder, when R238 and R239 give it the bays; one without an image is RUNNING at once. -/
def holderSelect (s : State) (l : Nat) : State :=
  let was := (getLoom s l).holder
  let s := trySelect s l
  if !was && (getLoom s l).holder && (getLoom s l).st = .running then takeUp s l else s

def execHolderSelect (l : Nat) (s : State) : Host.Outcome State Fault Refusal :=
  .next (alive s fun s => if (getLoom s l).holder || !eligible s l then s else holderSelect s l)

/-- What befell a loom's tiles, stacks or die edges while it was STOPPED stops or fences it when it starts: lost tiles (R201, R203),
a FAILED stack that holds a region of it (R189), dies that cannot reach one another (R445). -/
def startChecks (s : State) (l : Nat) : State :=
  let lost := (getLoom s l).bays.any s.svc.lostBays.contains
  let failed := (List.range (Config.stackNum s.variant)).any fun n => stackBad s n && holdsStack s l n
  if lost || failed then loomUncorr s l
  else if cutOff s l then fenceCut s l
  else s

/-- LOOM_START: READY, or RUNNING when it is selected. A SHARED weave resumes its shed (Table 11-7). Collectives are numbered from
0 again (R266), so no norm block stands for one. The compute pool is next divided equally (R381). -/
def startLoom (s : State) (l : Nat) : State :=
  let s := modLoom (modPower s fun p => { p with issuing := [] }) l fun x => { x with
    st := .ready, cut := false, fencedJob := false
    lrn := { x.lrn with normBlocks := [] }
    collTimes := []
    lastDies := []
    keep := x.keep.map fun kv => (kv.1, { kv.2 with sentFrames := [] })
    srv := { x.srv with owned := x.srv.bound } }
  let s := if (getLoom s l).lastHolder then (loomTiles (getLoom s l)).foldl (fun s t =>
      if (tfind s.tiles t).isSome then modTile s t fun u => { u with sentFrames := [] } else s) s
    else s
  let s := match learnWeave s l with
    | some (k, w) =>
      if w.shared && w.shed = .stopped then
        let s := modWeave s k fun w => { w with shed := w.resumeShed }
        if w.resumeShed = .learn && (getLoom s l).engineRing.isEmpty then writeUnit s k else s
      else s
    | none => s
  startChecks (if eligible s l then holderSelect s l else s) l

def execLoomStart (session ring : Nat) (s : State) : Host.Outcome State Fault Refusal :=
  .next <| alive s fun s => loomRun s session ring [.stopped] fun l _ =>
    if !(getLoom s l).loaded then .error stBad else .ok (startLoom s l, [])

/-! ## Stops -/

/-- A loom enters STOPPED: its dirty hot rows are written back first (R219). -/
def stopNow (s : State) (l : Nat) : State := toStopped (hotStop s l) l

/-- LOOM_STOP on READY or FENCED (Table 7-3): a command that a fence interrupted completes with its status first. -/
def stopIdle (s : State) (l : Nat) : State :=
  let x := getLoom s l
  let s := match x.cmd with
    | some c =>
      let st := c.endStatus.getD stFenced
      modLoom (dobbyCpl s x c st) l fun y => noteDone { y with cmd := none } c.e st
    | none => s
  stopNow s l

/-- The states in which LOOM_STOP is accepted. -/
def stopStates : List LoomState := [.running, .preempting, .saving, .ready, .saved, .restoring, .fenced]

/-- A restore that waits in a STOPPED loom is ended by LOOM_STOP too (R442). -/
def stopFrom (s : State) (sess ring : Nat) : List LoomState := match takenOf s sess ring with
  | some t => if (getLoom s t.loom).ckpt.restore.isSome then .stopped :: stopStates else stopStates
  | none => stopStates

/-- LOOM_STOP BOUNDARY (Table 7-3, R251). Its requests end at once (R339), and its checkpoint (R438). -/
def stopBoundary (s : State) (l : Nat) : State :=
  let s := endRestore (endCkpt (endAllReqs s l stCancelled) l stCancelled) l stCancelled
  match (getLoom s l).st with
  | .running => modLoom s l fun x => { x with st := .stopping }
  | .preempting | .saving | .restoring => modLoom s l fun x => { x with pendingStop := true }
  | .saved => modLoom s l fun x => { x with stopAtEnd := true }
  | .ready | .fenced => stopIdle s l
  | _ => s

def execLoomStopBoundary (session ring : Nat) (s : State) : Host.Outcome State Fault Refusal :=
  .next <| alive s fun s => match takenOf s session ring with
    | some { body := .loomStop false, .. } => loomRun s session ring (stopFrom s session ring) fun l _ => .ok (stopBoundary s l, [])
    | _ => s

/-- LOOM_STOP CUT (R251): issue stops on every tile, operations in flight finish, parked results and a save image are
discarded, the command in progress will end CANCELLED. Bays that an image was to fill are cleared (R230). -/
def stopCut (s : State) (l : Nat) : State :=
  match (getLoom s l).st with
  | .ready | .fenced => stopIdle (endCkpt s l stCancelled) l
  | .stopped => endRestore s l stCancelled
  | _ =>
    let s := if (getLoom s l).image.isSome then hotStop s l else s
    let s := abortColls s l stCancelled
    let s := if (getLoom s l).st = .restoring then clearBays s (getLoom s l).bays else s
    let s := endAllReqs s l stCancelled
    let s := endRestore (endCkpt s l stCancelled) l stCancelled
    modLoom (leaveQueues s l) l fun x => { x with
      st := .stopping, stopIssue := true, cut := true, preempt := none, waitPreempt := none, pendingStop := false
      stopAtEnd := false, image := none, parked := [], parkedFrames := []
      cmd := x.cmd.map fun c => { c with endStatus := some (c.endStatus.getD stCancelled) } }

def execLoomStopCut (session ring : Nat) (s : State) : Host.Outcome State Fault Refusal :=
  .next <| alive s fun s => match takenOf s session ring with
    | some { body := .loomStop true, .. } => loomRun s session ring (stopFrom s session ring) fun l _ => .ok (stopCut s l, [])
    | _ => s

/-- LOOM_STOPPED: a STOPPING loom whose command has ended and whose tiles are quiet enters STOPPED. -/
def loomStopped (s : State) (l : Nat) : State :=
  let x := getLoom s l
  let quiet := !x.holder || (loomTiles x).all fun t => tileQuiet (getTile s t)
  if x.st = .stopping && x.cmd.isNone && quiet then stopNow s l else s

def execLoomStopped (l : Nat) (s : State) : Host.Outcome State Fault Refusal := .next (alive s fun s => loomStopped s l)

/-! ## Pre-emption -/

/-- LOOM_PREEMPT on a loom: it is held, and a RUNNING one is pre-empted. -/
def preemptLoom (s : State) (l : Nat) (hard : Bool) : State :=
  requestPreempt (modLoom s l fun x => { x with heldByHost := true }) l hard

/-- LOOM_PREEMPT: the loom leaves its bays and is held. -/
def execLoomPreempt (session ring : Nat) (s : State) : Host.Outcome State Fault Refusal :=
  .next <| alive s fun s => loomRun s session ring [.running, .ready, .saved] fun l t => match t.body with
    | .loomPreempt hard => .ok (preemptLoom s l hard, [])
    | _ => .error stBad

/-- LOOM_RESUME clears the hold. -/
def execLoomResume (session ring : Nat) (s : State) : Host.Outcome State Fault Refusal :=
  .next <| alive s fun s => loomRun s session ring [.ready, .saved] fun l _ =>
    let s := modLoom s l fun x => { x with heldByHost := false }
    .ok (if eligible s l then holderSelect s l else s, [])

/-- SOFT_WAIT_EXPIRY: the soft wait of a pre-emption is over (R241). -/
def softExpiry (s : State) (l : Nat) : State :=
  if (getLoom s l).st ≠ .preempting then s
  else preemptEval (modLoom s l fun x => { x with preempt := x.preempt.map fun p => { p with softOver := true } }) l

def execSoftWaitExpiry (l : Nat) (s : State) : Host.Outcome State Fault Refusal := .next (alive s fun s => softExpiry s l)

/-- PREEMPT_GRACE_EXPIRY: shared units that the loom holds are revoked, from now on as soon as it holds any (R148, R241). -/
def graceExpiry (s : State) (l : Nat) : State :=
  if (getLoom s l).st ≠ .preempting then s
  else preemptEval (modLoom s l fun x => { x with preempt := x.preempt.map fun p => { p with graceOver := true } }) l

def execPreemptGraceExpiry (l : Nat) (s : State) : Host.Outcome State Fault Refusal := .next (alive s fun s => graceExpiry s l)

/-- Operations that end before a save: every local one (R163). -/
def localDone (t : Tile) : Bool := t.ops.all fun o => o.kind = .rmtRd || o.kind = .rmtWr || o.kind = .rmtAdd

/-- SAVE_IMAGE_WRITTEN (R243): the image holds the tile stores and the tile state; the bays are given up. -/
def saveImage (s : State) (l us : Nat) : State :=
  let x := getLoom s l
  let tiles := loomTiles x
  if x.st ≠ .saving || !(tiles.all fun t => localDone (getTile s t)) then s
  else
    let cells := s.mem.filter fun c => match place s.variant c.1 with
      | .tile t _ => x.bays.contains (bayOf t)
      | _ => false
    let img : SaveImage := {
      cells, boundary := x.cmd.isNone
      tiles := (s.tiles.filter fun kv => x.bays.contains (bayOf kv.1)).map fun kv => (kv.1, { kv.2 with cnt := [] }) }
    let s := leaveBays (modLoom s l fun y => { y with image := some img }) l
    let s := { s with tiles := s.tiles.map fun (t, u) =>
      if x.bays.contains (bayOf t) then (t, ({ cnt := u.cnt, ovf := u.ovf, ovfCnt := u.ovfCnt } : Tile)) else (t, u) }
    let s := modLoom s l fun y => { y with
      st := .saved, saveUs := min 0xFFFF us, hardCnt := satAdd 0xFFFFFFFF y.hardCnt 1
      cmd := y.cmd.map fun c => { c with hard := satAdd 255 c.hard 1 }
      stopAtEnd := y.stopAtEnd || y.pendingStop, pendingStop := false }
    raiseEvt s .lmgr 3 (some l)

def execSaveImageWritten (l us : Nat) (s : State) : Host.Outcome State Fault Refusal := .next (alive s fun s => saveImage s l us)

/-- RESTORE_COMPLETE (R164, R230): the image overwrites every byte of the tile stores, parked results are in place, and
the strands go on; a stop to serve is served from here. -/
def restoreDone (s : State) (l us : Nat) : State :=
  let x := getLoom s l
  match x.st, x.image with
  | .restoring, some img =>
    let s := clearBays s x.bays
    let s := { s with mem := img.cells.foldl (fun m c => memSet m c.1 c.2) s.mem }
    let s := img.tiles.foldl (fun s kv => modTile s kv.1 fun u => { kv.2 with cnt := u.cnt, ovf := u.ovf, ovfCnt := u.ovfCnt }) s
    let ending := x.pendingStop || x.stopAtEnd || (match x.cmd with
      | some c => c.endStatus.isSome
      | none => false)
    let s := modLoom s l fun y => { y with
      st := if ending then .stopping else .running
      image := none, pendingStop := false, stopAtEnd := false, restoreUs := min 0xFFFF us
      selAt := if y.cmd.isSome then none else y.selAt
      stopIssue := match y.cmd with
        | some c => c.endStatus.isSome
        | none => false }
    rejoin (takeUp s l) l
  | _, _ => s

def execRestoreComplete (l us : Nat) (s : State) : Host.Outcome State Fault Refusal := .next (alive s fun s => restoreDone s l us)

/-! ## Shared semaphores (R248) -/

/-- SEM_CREATE: its session owns it, and its own bit is set in the mask. -/
def createSem (s : State) (sess sem : Nat) (count : W32) (mask : Option (BitVec 16)) : Except Byte (State × List Byte) :=
  if sem < 0x800 || 0xBFF < sem then .error stBad
  else if (tfind s.ssems sem).isSome then .error stBusy
  else
    let own : BitVec 16 := BitVec.ofNat 16 (2 ^ sess)
    .ok ({ s with ssems := tput s.ssems sem { owner := sess, mask := mask.getD 0 ||| own, count } }, [])

def execSemCreate (session ring : Nat) (s : State) : Host.Outcome State Fault Refusal :=
  .next <| alive s fun s => cmdRun s session ring fun t => match t.body with
    | .semCreate sem count mask => createSem s session sem count mask
    | _ => .error stBad

/-- A shared semaphore is deleted: strands that wait for it complete with PERMISSION, as on one that does not exist. -/
def deleteSem (s : State) (sem : Nat) : State :=
  match tfind s.ssems sem with
  | none => s
  | some q => q.waiters.foldl (fun s w => semDone s { tile := w.2.1, strand := w.2.2.1 } stPerm) { s with ssems := tdel s.ssems sem }

def execSemDelete (session ring : Nat) (s : State) : Host.Outcome State Fault Refusal :=
  .next <| alive s fun s => cmdRun s session ring fun t => match t.body with
    | .semDelete sem =>
      if sem < 0x800 || 0xBFF < sem then .error stBad
      else
        match tfind s.ssems sem with
        | none => .error stPerm
        | some q =>
          if q.owner ≠ session then .error stPerm
          else if q.units.any fun u => u.2 ≠ 0 then .error stBusy
          else .ok (deleteSem s sem, [])
    | _ => .error stBad

end Sys2Proof.Machine
end

