-- ==== Sys2Proof/Machine/Session.lean ====
section
/-! DEFINITION. Host ports, functions and sessions (R448 to R458, R481): challenges, opening, closing; with them the key
slots (R452). -/
namespace Sys2Proof.Machine

/-! ## Closing (R250, R328, R458) -/

/-- A loom of a closing session: its entries are freed without END records, it is stopped with CUT, and it is deleted. The
command it had in progress completes with CANCELLED. -/
def closeLoom (s : State) (l : Nat) : State :=
  let s := (reqsOf s l).foldl (fun s kv => dropReq s kv.1) (dropStep s l)
  let s := if stopStates.contains (getLoom s l).st || (getLoom s l).st = .stopping then stopCut s l else s
  let x := getLoom s l
  let s := match x.cmd with
    | some c => if x.st = .stopping then dobbyCpl s x c (c.endStatus.getD stCancelled) else s
    | none => s
  deleteLoom (if x.st = .stopping then stopNow s l else s) l

/-- A shared semaphore of a closing session: units held by other looms are revoked as R148 states, and it is gone. -/
def closeSem (s : State) (sem : Nat) : State :=
  match tfind s.ssems sem with
  | none => s
  | some q =>
    let holders := (q.units.filter fun u => u.2 ≠ 0).map (·.1)
    let s := holders.foldl (fun s l => raiseEvt (modLoom s l fun x => { x with revoked := true }) .lmgr 5 (some l)) s
    holders.foldl preemptEval (deleteSem s sem)

/-- Close a session: R250 and R328 apply, and its rings are gone with the commands in them. Its number keeps SGEN. -/
def closeSession (s : State) (n : Nat) : State :=
  let x := getSession s n
  if !x.opened then s
  else
    let s := ((liveLooms s).filter fun l => (getLoom s l).session = n).foldl closeLoom s
    let s := ((s.ssems.filter fun kv => kv.2.owner = n).map (·.1)).foldl closeSem s
    let s := setSession s n { sgen := x.sgen }
    let s := { s with fns := s.fns.map fun kv => if kv.2.session = some n then (kv.1, { kv.2 with session := none }) else kv }
    raiseEvt s .hif 3

/-- Close every session that a test picks. -/
def closeWhere (s : State) (p : Session → Bool) : State :=
  ((List.range 16).filter fun n => (getSession s n).opened && p (getSession s n)).foldl closeSession s

/-- Every session of a port closes, and what its functions held of a challenge is gone. -/
def closePort (s : State) (io : Nat) : State :=
  let s := closeWhere s fun x => x.io = io
  { s with fns := s.fns.filter fun kv => kv.1 / 32 ≠ io }

/-! ## Ports (R458, R481) -/

def getPortOf (s : State) (io : Nat) : Port := tget {} s.ports io
def setPortOf (s : State) (io : Nat) (x : Port) : State := { s with ports := tput s.ports io x }

/-- PERST: the port is reset and its sessions close; it does not train while the pin is low, which HOST_LINK_UP ends. -/
def execPerst (io : Nat) (s : State) : Host.Outcome State Fault Refusal :=
  .next (if Config.ioDies s.variant ≤ io then s else setPortOf (closePort s io) io { inReset := true })

/-- FUNCTION_LEVEL_RESET of a VF closes its session; of the PF, or with a new VF count, those of every VF of the port. -/
def execFunctionLevelReset (io fn : Nat) (vfs : Option Nat) (s : State) : Host.Outcome State Fault Refusal :=
  .next <| if Config.ioDies s.variant ≤ io || 16 < fn || 16 < vfs.getD 0 then s
    else if fn = 0 || vfs.isSome then
      let s := closePort s io
      setPortOf s io { getPortOf s io with vfs := vfs.getD (getPortOf s io).vfs }
    else
      let s := closeWhere s fun x => x.io = io && x.fn = fn
      { s with fns := tdel s.fns (io * 32 + fn) }

/-- PORT_DOWN: the port's link has been down for 1 s. -/
def execPortDown (io : Nat) (s : State) : Host.Outcome State Fault Refusal :=
  .next <| if (getPortOf s io).up then
      raiseEvt (closePort (setPortOf s io { vfs := (getPortOf s io).vfs }) io) .hif 5 none io
    else s

/-- HOST_LINK_UP: a port trains at one of the widths and rates of PCIe 6.0. The service processor is past step 6 of Table
15-8, and PERST is high. -/
def execHostLinkUp (io width rate : Nat) (flit : Bool) (s : State) : Host.Outcome State Fault Refusal :=
  .next <| if Config.ioDies s.variant ≤ io || s.svc.st = .boot || s.svc.st = .recovery || !([1, 2, 4, 8, 16].contains width)
        || rate = 0 || 6 < rate then s
    else setPortOf s io { up := true, width, rate, flit, vfs := (getPortOf s io).vfs, inReset := false }

/-! ## Challenges (R455, R456) -/

/-- A virtual function that is ready: the module is READY, its port is up and enables it (R449, R450). -/
def fnReady (s : State) (w : Accessor) : Bool :=
  s.svc.st = .ready && !s.svc.dark && w.io < Config.ioDies s.variant && w.fn ≠ 0 && w.fn ≤ (getPortOf s w.io).vfs
    && (getPortOf s w.io).up

def getSlot (s : State) (k : Nat) : KeySlot := tget {} s.slots k
def setSlot (s : State) (k : Nat) (x : KeySlot) : State := { s with slots := tput s.slots k x }

/-- CHALLENGE: a fresh nonce. -/
def execChallenge (who : Accessor) (slot : Nat) (s : State) : Host.Outcome State Fault Refusal :=
  .next <| if !fnReady s who || 16 ≤ slot then s
    else
      let (k, s) := drawFree s 1
      let n := Config.nonce k
      setFn s who { getFn s who with slot, challenge := some { slot, nonce := n }, nonce := n, voided := false, lastStatus := stOk }

/-- The MAC of a challenge: HMAC-SHA-256 over 51 bytes (R455). -/
def sessionMac (key : List Byte) (nonce : BitVec 256) (w : Accessor) (slot : Nat) : List Byte :=
  hmac256 key (toLe 32 nonce.toNat ++ toLe 8 Config.serialLo.toNat ++ toLe 8 Config.serialHi.toNat
    ++ [BitVec.ofNat 8 w.io, BitVec.ofNat 8 w.fn, BitVec.ofNat 8 slot])

/-- AUTH_FAIL counts on its slot; the fifth in a row locks it. -/
def authFails (s : State) (slot : Nat) : State :=
  let x := getSlot s slot
  if x.locked then s
  else if x.fails + 1 < 5 then setSlot s slot { x with fails := x.fails + 1 }
  else raiseEvt (setSlot s slot { x with fails := x.fails + 1, locked := true }) .hif 1

/-- A ring register of HIF: 4 KiB alignment and LOG2 (Table 15-10). -/
def ringRegOk (v : W64) : Bool := 6 ≤ bits v.toNat 4 0 && bits v.toNat 4 0 ≤ 16 && bits v.toNat 11 5 = 0
def ringBase (v : W64) : W64 := v &&& 0xFFFFFFFFFFFFF000

/-- The lowest free session number. -/
def freeSession (s : State) : Option Nat := (List.range 16).find? fun n => !(getSession s n).opened

/-- The session that opens (R456). -/
def openSession (s : State) (w : Accessor) (n slot : Nat) : State :=
  let f := getFn s w
  let k := getSlot s slot
  let s := setSession s n {
    opened := true, sgen := (getSession s n).sgen + 1, io := w.io, fn := w.fn, slot, admin := k.admin
    loomQuota := k.loomQuota, bayQuota := k.bayQuota
    cmd := [(0, { kind := .control, base := ringBase f.ctl, log2 := bits f.ctl.toNat 4 0, cpl := 0 })]
    cpl := [(0, { base := ringBase f.cpl, log2 := bits f.cpl.toNat 4 0, vector := 0, countMod := 1, timeMod := 0 })] }
  raiseEvt (setSlot (setFn s w { f with session := some n }) slot { k with fails := 0 }) .hif 2

/-- The status of a RESPOND (R455), in the order of its table. In test mode only ADMIN slots open sessions (Table 15-6). -/
def respondStatus (s : State) (w : Accessor) (slot : Nat) (ch : Option Challenge) : Byte :=
  let k := getSlot s slot
  let f := getFn s w
  let auth := match ch with
    | some c => c.slot = slot && k.enabled && !k.locked && (!s.svc.testMode || k.admin)
        && toLe 32 f.mac.toNat = sessionMac k.key c.nonce w slot
    | none => false
  if !auth then stAuthFail
  else if f.session.isSome then stBusy
  else if !ringRegOk f.ctl || !ringRegOk f.cpl then stBad
  else if (freeSession s).isNone then stFull
  else stOk

/-- RESPOND: the challenge is consumed whatever the outcome. A voided one fails without counting (R452). -/
def respond (s : State) (w : Accessor) (slot : Nat) : State :=
  if !fnReady s w || 16 ≤ slot then s
  else
    let f := getFn s w
    let st := respondStatus s w slot f.challenge
    let s := setFn s w { f with slot, challenge := none, voided := false, lastStatus := st }
    if st = stAuthFail then
      let s := raiseEvt s .hif 0
      if f.challenge.isNone && f.voided then s else authFails s slot
    else if st = stOk then openSession s w ((freeSession s).getD 0) slot
    else s

def execRespond (who : Accessor) (slot : Nat) (s : State) : Host.Outcome State Fault Refusal := .next (respond s who slot)

/-- CLOSE: OP CLOSE in HIF_SESS_CTRL. -/
def execSessClose (who : Accessor) (s : State) : Host.Outcome State Fault Refusal :=
  .next <| if !fnReady s who then s
    else
      match (getFn s who).session with
      | some n =>
        let s := closeSession s n
        setFn s who { getFn s who with lastStatus := stOk }
      | none => setFn s who { getFn s who with lastStatus := stNoSession }

/-- CHALLENGE_EXPIRY: 10 s. -/
def execChallengeExpiry (who : Accessor) (s : State) : Host.Outcome State Fault Refusal :=
  .next (alive s fun s => if (getFn s who).challenge.isNone then s else setFn s who { getFn s who with challenge := none })

/-- AUTH_LOCK_EXPIRY: 60 s; the count starts again. -/
def execAuthLockExpiry (slot : Nat) (s : State) : Host.Outcome State Fault Refusal :=
  .next (alive s fun s => if (getSlot s slot).locked then setSlot s slot { getSlot s slot with locked := false, fails := 0 } else s)

end Sys2Proof.Machine
end

