-- ==== Sys2Proof/Machine/Console.lean ====
section
/-! DEFINITION. The management console (R453, R454, R466, R467): its password and logins, key slots (R452), the stored
coordinate, test mode, and what PLDM reads. -/
namespace Sys2Proof.Machine

/-- A password of 12 to 64 bytes with a salt of 16. -/
def passwordOk (pw salt : List Byte) : Bool := 12 ≤ pw.length && pw.length ≤ 64 && salt.length = 16

/-- Iterations of PBKDF2 (R453). -/
def pwIters : Nat := 100000

def modConsole (s : State) (f : Console → Console) : State := { s with console := f s.console }

/-- Store a password: only the salt and its hash stay. -/
def putPassword (s : State) (pw salt : List Byte) : State :=
  modConsole s fun c => { c with salt, hash := pbkdf2 pw salt pwIters, hasPassword := true }

/-- The service processor answers OEM commands. -/
def consoleUp (s : State) : Bool := !s.svc.dark && (s.svc.st = .starting || s.svc.st = .ready)

/-- CONSOLE_SETUP: the first password, within 10 min of the end of reset, when the timebase began. -/
def execConsoleSetup (password salt : List Byte) (s : State) : Host.Outcome State Fault Refusal :=
  .next <| if consoleUp s && !s.console.hasPassword && s.tlm.timebase.toNat < 60000000000 && passwordOk password salt then
      putPassword s password salt
    else s

/-- CONSOLE_LOGIN: the fifth failure in a row locks the console. -/
def login (s : State) (pw : List Byte) : State :=
  if !consoleUp s || !s.console.hasPassword || s.console.locked then s
  else if pbkdf2 pw s.console.salt pwIters = s.console.hash then modConsole s fun c => { c with loggedIn := true, fails := 0 }
  else if s.console.fails + 1 < 5 then modConsole s fun c => { c with fails := c.fails + 1 }
  else raiseEvt (modConsole s fun c => { c with fails := c.fails + 1, locked := true }) .svc 6

def execConsoleLogin (password : List Byte) (s : State) : Host.Outcome State Fault Refusal := .next (login s password)

def execConsoleLogout (s : State) : Host.Outcome State Fault Refusal :=
  .next (alive s fun s => consoleRun s fun s => modConsole s fun c => { c with loggedIn := false })

/-- CONSOLE_LOGIN_TIMEOUT: 15 min without a message. -/
def execConsoleLoginTimeout (s : State) : Host.Outcome State Fault Refusal :=
  .next (alive s fun s => modConsole s fun c => { c with loggedIn := false })

/-- CONSOLE_LOCK_EXPIRY: 300 s; the count starts again. -/
def execConsoleLockExpiry (s : State) : Host.Outcome State Fault Refusal :=
  .next (alive s fun s => if s.console.locked then modConsole s fun c => { c with locked := false, fails := 0 } else s)

def execPasswordChange (password salt : List Byte) (s : State) : Host.Outcome State Fault Refusal :=
  .next <| consoleRun s fun s => if passwordOk password salt then putPassword s password salt else s

/-- The fields of a key slot after a write (Table 15-1). -/
def slotAfter (x : KeySlot) (w : SlotWrite) : KeySlot :=
  { x with key := w.key.getD x.key, enabled := w.enabled.getD x.enabled, admin := w.admin.getD x.admin
           loomQuota := w.loomQuota.getD x.loomQuota, bayQuota := w.bayQuota.getD x.bayQuota }

/-- KEY_SLOT_WRITE: the slot's sessions close and its challenges are void (R452). -/
def keySlotWrite (s : State) (slot : Nat) (w : SlotWrite) : State :=
  if 16 ≤ slot || 32 < w.loomQuota.getD 0 || 320 < w.bayQuota.getD 0 || (w.key.getD (List.replicate 32 0)).length ≠ 32 then s
  else
    let s := closeWhere s fun x => x.slot = slot
    let s := { s with fns := s.fns.map fun kv => match kv.2.challenge with
      | some c => if c.slot = slot then (kv.1, { kv.2 with challenge := none, voided := true }) else kv
      | none => kv }
    setSlot s slot (slotAfter (getSlot s slot) w)

def execKeySlotWrite (slot : Nat) (w : SlotWrite) (s : State) : Host.Outcome State Fault Refusal :=
  .next (consoleRun s fun s => keySlotWrite s slot w)

/-- Coordinate and extents in the layout of LINK_COORD: extents 1 to 4, each coordinate below its extent. -/
def coordOk (c : BitVec 15) : Bool :=
  let v := c.toNat
  let ok := fun (x e : Nat) => 1 ≤ e && e ≤ 4 && x < e
  ok (bits v 1 0) (bits v 8 6) && ok (bits v 3 2) (bits v 11 9) && ok (bits v 5 4) (bits v 14 12)

/-- COORDINATE_SET: stored in the configuration record; applied at the next module reset. -/
def execCoordinateSet (coord : BitVec 15) (s : State) : Host.Outcome State Fault Refusal :=
  .next (consoleRun s fun s => if coordOk coord then modSvc s fun v => { v with coord } else s)

/-- TEST_MODE: entry is refused while any loom exists. -/
def execTestMode (enter : Bool) (s : State) : Host.Outcome State Fault Refusal :=
  .next (consoleRun s fun s => if enter && !(liveLooms s).isEmpty then s else modSvc s fun v => { v with testMode := enter })

/-! ## PLDM (R466) -/

/-- The identity words SVC_ID0 to SVC_ID2 (Table 15-15). -/
def idWords (s : State) : List W64 :=
  [Config.serialLo, Config.serialHi,
   (Config.stepping.setWidth 64 <<< 32) ||| BitVec.ofNat 64 (0x01280000 + Config.stackNum s.variant * 2 ^ 8 + Config.ioDies s.variant)]

/-- What a sensor reads: 10 mV, 100 mA, mW of an input, W of the module, °C. Temperatures that the module does not act on
are free. -/
def sensorValue (s : State) (k : Sensor) : Option W64 × State :=
  let p := s.power
  let input := fun (b : Bool) => if b then p.b else p.a
  match k with
  | .voltage b => (some (BitVec.ofNat 64 (input b).v10mv), s)
  | .current b => (some (BitVec.ofNat 64 (input b).i100ma), s)
  | .inputPower b => (some (BitVec.ofNat 64 ((input b).v10mv * (input b).i100ma)), s)
  | .modulePower => (some (BitVec.ofNat 64 p.measured), s)
  | .dieTemp d =>
    if d < 40 then (some (BitVec.ofNat 64 (getDie s d).tempC), s)
    else if d < 40 + Config.ioDies s.variant then let (n, s) := drawFree s 1; (some (Config.freeWord n), s)
    else (none, s)
  | .stackTemp n =>
    if n < Config.stackNum s.variant then let (n, s) := drawFree s 1; (some (Config.freeWord n), s) else (none, s)

/-- PLDM_MONITOR_READ (Type 2, which RECOVERY does not answer). -/
def execPldmMonitorRead (sensor : Sensor) (s : State) : Host.Outcome State Fault Refusal :=
  .next <| if !consoleUp s then s
    else match sensorValue s sensor with
      | (some v, s) => { s with reply := [v] }
      | (none, s) => s

/-- PLDM_FRU_READ (Type 4). -/
def execPldmFruRead (s : State) : Host.Outcome State Fault Refusal :=
  .next (if s.svc.dark || s.svc.st = .boot then s else { s with reply := idWords s })

/-- SDA_STUCK_LOW: the module releases the line. -/
def execSdaStuckLow (s : State) : Host.Outcome State Fault Refusal := .next (modSvc s fun v => { v with sdaReleased := true })

end Sys2Proof.Machine
end

