-- ==== Sys2Proof/Machine/HostXfer.lean ====
section
/-! DEFINITION. Data transfers between host memory and the regions of a loom (R465). -/
namespace Sys2Proof.Machine

/-- What refuses a transfer: its form, its region, or tile stores the loom is not on. -/
def xferRefusal (s : State) (sess l dev len : Nat) : Option Byte :=
  let x := getLoom s l
  let off : Bool := match place s.variant dev with
    | .tile _ _ => !x.holder && !(x.st = .stopped && x.lastHolder)
    | _ => false
  if len % 4 ≠ 0 || 2 ^ 30 < len then some stBad
  else if !loomOwned s sess l || !mapGives s.variant x dev len then some stPerm
  else if off then some stBusy
  else none

/-- XFER_TO_DEV: the bytes read from host memory. A write into an uncopied pick source block is held (R358), as is one into a
row in handoff (R217); one that R177 or R186 does not perform stops the loom. -/
def xferTo (s : State) (sess ring l : Nat) (dev : W64) (bs : List Byte) : State :=
  let a := dev.toNat
  match xferRefusal s sess l a bs.length with
  | some st => finish s sess ring st
  | none =>
    match uncopied s a bs.length with
    | some kb => holdCopy s [1, sess, ring] kb
    | none =>
      if rowsWait s l (.host sess ring) [(a, bs.length)] then holdRows s l (.host sess ring) [(a, bs.length)]
      else if blockedVia s (getLoom s l) a bs.length then finish (loomUncorr s l) sess ring stUncorr
      else rowsServed (finish (touchRange (writeVia s l a bs) l a bs.length true) sess ring stOk (toLe 8 bs.length)) l (.host sess ring)

def execXferToDev (session ring : Nat) (bytes : List Byte) (s : State) : Host.Outcome State Fault Refusal :=
  .next <| alive s fun s => match takenOf s session ring with
    | some { body := .xferToDev _ dev len, loom := l, .. } =>
      if bytes.length ≠ len then s else xferTo s session ring l dev bytes
    | _ => s

/-- XFER_FROM_DEV: after a poisoned word the host bytes are undefined. -/
def xferFrom (s : State) (sess ring l : Nat) (host dev : W64) (len : Nat) : State :=
  let a := dev.toNat
  match xferRefusal s sess l a len with
  | some st => finish s sess ring st
  | none =>
    if rowsWait s l (.host sess ring) [(a, len)] then holdRows s l (.host sess ring) [(a, len)]
    else if poisonVia s (getLoom s l) a len then
      let (k, s) := drawFree (meetUnits s none [(a, len)]) 1
      finish (hostWr s host.toNat ((List.range len).map (Config.freeByte k))) sess ring stUncorr
    else
      let s := touchRange (finish (hostWr s host.toNat (readVia s l a len)) sess ring stOk (toLe 8 len)) l a len false
      rowsServed s l (.host sess ring)

def execXferFromDev (session ring : Nat) (s : State) : Host.Outcome State Fault Refusal :=
  .next <| alive s fun s => match takenOf s session ring with
    | some { body := .xferFromDev host dev len, loom := l, .. } => xferFrom s session ring l host dev len
    | _ => s

end Sys2Proof.Machine
end

