-- ==== Sys2Proof/Machine/Ldst.lean ====
section
/-! DEFINITION. Class LDST: loads and stores (Table 4-14, R129, R130, R177, R186), the taps of watched masters (R317) and
the READ word of a bobbin (R370). -/
namespace Sys2Proof.Machine

/-! ## Taps of watched groups (R317) -/

/-- The watched group in whose master range n bytes at an address lie whole. -/
def watchedMaster (v : Variant) (x : Loom) (a n : Nat) : Option Nat :=
  if x.lrn.watched.isEmpty then none
  else x.lrn.binds.findSome? fun b =>
    if b.kind = 1 && x.lrn.watched.contains b.group then
      match objOff v x b.master a with
      | some o => if b.masterOff * 4 ≤ o && o + n ≤ (b.masterOff + b.elems) * 4 then some b.group else none
      | none => none
    else none

/-- A sum of squares over the active threads by the tree of R67. -/
def treeSquares (vals : List (Option W32)) : W32 :=
  ((treeFold (fun a b => (f32Add a b, 0)) 5 (vals.map fun o => o.map fun w => f32Mul w w)).1).getD 0

/-- A load of 32 values in UNIT mode sets the tap when its whole range lies in a master range of a watched group. -/
def tapLoad (v : Variant) (x : Loom) (base rd : Nat) (y : Strand) : Strand :=
  match watchedMaster v x base 128 with
  | some _ => { y with tap := some { addr := base, vals := threads.map fun t => y.vget rd t } }
  | none => y

/-- Add a store's squares to a watched group's sums: its weights w, its updates u where a tap matched, else one miss. -/
def addTap (g : Nat) (w : W32) (u : Option W32) (y : Strand) : Strand :=
  let old := tget { weight := 0, update := 0, misses := 0 } y.tapSums g
  { y with tapSums := tput y.tapSums g { old with
    weight := f32Add old.weight w
    update := (u.map (f32Add old.update)).getD old.update
    misses := if u.isSome then old.misses else satAdd 0xFFFFFFFF old.misses 1 } }

/-- A store of 4 B elements to watched masters. One in UNIT mode at the tap's address uses the tap; any other adds, for each
watched group it stores to, the squares of the active threads that store there, and a miss (the second result). -/
def tapStore (v : Variant) (x : Loom) (unit : Bool) (base : Nat) (accs : List (Nat × Nat)) (rd : Nat) (y : Strand) :
    Strand × Bool :=
  let tap := if unit then y.tap.filter fun p => p.addr = base else none
  match tap, watchedMaster v x base 128 with
  | some p, some g =>
    let of := fun (h : Nat → W32) => treeSquares (threads.map fun t => if accs.any (fun q => q.1 = t) then some (h t) else none)
    (addTap g (of fun t => y.vget rd t) (some (of fun t => f32Sub (y.vget rd t) (p.vals.getD t 0))) { y with tap := none }, false)
  | _, _ =>
    let at_ := accs.filterMap fun q => (watchedMaster v x q.2 4).map fun g => (g, q.1)
    let groups := (at_.map (·.1)).eraseDups
    (groups.foldl (fun z g => addTap g
      (treeSquares (threads.map fun t => if at_.contains (g, t) then some (y.vget rd t) else none)) none z) y, !groups.isEmpty)

/-! ## The READ word of a bobbin (R370) -/

/-- The bobbin whose READ word lies at an address, when its weave's learner is the loom that stores. -/
def bobbinRead (s : State) (l a : Nat) : Option (Nat × Bobbin) :=
  s.bobbins.find? fun (_, b) => b.addr + 8 = a && (tget {} s.weaves b.weave).learner = l

/-- Store a new READ: accepted from the previous READ to WRITE; any other value is ignored and BOBBIN_BAD is raised. -/
def putBobbinRead (s : State) (k : Nat) (b : Bobbin) (v : Nat) : State :=
  if b.read ≤ v && v ≤ b.write then
    wr { s with bobbins := tput s.bobbins k { b with read := v } } (b.addr + 8) 8 v
  else raiseEvt s .shed 10 (some b.loom)

/-! ## Loads and stores -/

/-- The accesses of an instruction: thread and address, in ascending thread. -/
def ldstAddrs (y : Strand) (f : FmtM) (sz : Nat) : List (Nat × Nat) :=
  let base := y.sget f.base.toNat + f.off.signExtend 64
  threads.filterMap fun t =>
    if y.runs f.pg f.pn t then
      some (t, (base + (if f.mode = 1 then (y.vget f.vidx.toNat t).signExtend 64 else BitVec.ofNat 64 (sz * t))).toNat)
    else none

/-- The offset of an address in a tile's own store. -/
def ownOff (tile a : Nat) : Option Nat :=
  if tileAddr tile 0 ≤ a && a < tileAddr tile 0 + 2 ^ 23 then some (a - tileAddr tile 0) else none

/-- Some access must wait for a block of the scoreboard (R130). -/
def ldstWaits (s : State) (tile sz : Nat) (accs : List (Nat × Nat)) (store : Bool) : Bool :=
  accs.any fun p => match ownOff tile p.2 with
    | some o => boardWaits (getTile s tile).board o sz store
    | none => false

/-- Where the bytes of some accesses are read or written: each at its owner (R217). -/
def ownerBytes (x : Loom) (sz : Nat) (accs : List (Nat × Nat)) : List Nat :=
  accs.flatMap fun p => (List.range sz).map fun i => ownerAt x (p.2 + i)

/-- A 64 B unit of the stacks that the stores of one instruction write whole (R186). -/
def unitCovered (bs : List Nat) (u : Nat) : Bool := (List.range 64).all fun i => bs.contains (u * 64 + i)

/-- Some access meets poison; a store that writes a poisoned unit whole does not (R177, R185, R186). -/
def ldstPoison (s : State) (bs : List Nat) (store : Bool) : Bool :=
  bs.any fun b => poisonHit s b 1 && !(store && b < tsBase && unitCovered bs (b / 64))

/-- The units that a store writes whole lose their poison. -/
def clearCovered (s : State) (bs : List Nat) : State :=
  { s with faults := { s.faults with poisoned := s.faults.poisoned.filter fun u => !unitCovered bs u } }

/-- The checks that loads and stores share, and then what they do. -/
def ldst (op : Nat) (ok : Bool) (sz : Nat) (store vector : Bool) (a : Issuer) (f : FmtM) (s : State)
    (k : State → Nat → Strand → List (Nat × Nat) → State) : State :=
  issue s a (wordM 5 op f) fun l y =>
    if !ok then .fault stBad
    else
      let x := getLoom s l
      let accs := if vector then ldstAddrs y f sz else [(0, (y.sget f.base.toNat + f.off.signExtend 64).toNat)]
      let st := worst (accs.map fun p => accStatus s.variant x p.2 sz sz)
      if st ≠ stOk then .fault st
      else if ldstWaits s a.tile sz accs store then .stall
      else
        let who := RowUser.strand a.tile a.strand
        let rs := accs.map fun p => (p.2, sz)
        let bs := ownerBytes x sz accs
        if rowsWait s l who rs then .done (holdRows s l who rs)
        else if ldstPoison s bs store then .poisoned (if store then [] else bs.map fun b => (b, 1))
        else
          match if store then accs.findSome? fun p => uncopied s p.2 sz else none with
          | some kb => .done (holdCopy s [a.tile, a.strand] kb)
          | none => .done (rowsServed (k s l y accs) l who)

/-- Fields that a plain load or store leaves 0 (R498). -/
def plainM (f : FmtM) : Bool := f.fmt = 0 && f.rnd = 0 && !f.sat
/-- MODE is listed, and VIDX is 0 in UNIT mode. -/
def modeM (f : FmtM) : Bool := f.mode.toNat < 2 && (f.mode = 1 || f.vidx = 0)
/-- The checks of LD.S and ST.S. -/
def scalarM (f : FmtM) : Bool := f.pg = 0 && !f.pn && plainM f && f.mode = 0 && f.vidx = 0 && isS f.rd
/-- FMT is one of BF16, FP16, E4M3, E5M2. -/
def convM (f : FmtM) : Bool := 1 ≤ f.fmt.toNat && f.fmt.toNat ≤ 4

/-- LD.S: 8 bytes into a scalar register. -/
def execLdS (a : Issuer) (f : FmtM) (s : State) : Host.Outcome State Fault Refusal :=
  .next (ldst 0 (scalarM f) 8 false false a f s fun s l y accs =>
    match accs with
    | p :: _ =>
      let v := leNat (readVia s l p.2 8)
      setStrand (touchRange s l p.2 8 false) a (y.sput f.rd.toNat (BitVec.ofNat 64 v)).next
    | [] => s)

/-- ST.S: 8 bytes from a scalar register. -/
def execStS (a : Issuer) (f : FmtM) (s : State) : Host.Outcome State Fault Refusal :=
  .next (ldst 1 (scalarM f) 8 true false a f s fun s l y accs =>
    match accs with
    | p :: _ =>
      let v := (y.sget f.rd.toNat).toNat
      let s := setStrand s a y.next
      match bobbinRead s l p.2 with
      | some (k, b) => putBobbinRead s k b v
      | none => touchRange (writeVia s l p.2 (toLe 8 v)) l p.2 8 true
    | [] => s)

/-- Load one element for each active thread; g is the register value of its bits. -/
def loadVec (sz : Nat) (g : Nat → W32) (a : Issuer) (f : FmtM) (tap : Bool) (s : State) (l : Nat) (y : Strand)
    (accs : List (Nat × Nat)) : State :=
  let y' := accs.foldl (fun z p => z.vput f.rd.toNat p.1 (g (leNat (readVia s l p.2 sz)))) y
  let y' := if tap && f.mode = 0 then
      tapLoad s.variant (getLoom s l) (y.sget f.base.toNat + f.off.signExtend 64).toNat f.rd.toNat y' else y'
  setStrand (accs.foldl (fun s p => touchRange s l p.2 sz false) s) a y'.next

/-- LD.V. -/
def execLdV (a : Issuer) (f : FmtM) (s : State) : Host.Outcome State Fault Refusal :=
  .next (ldst 2 (plainM f && modeM f) 4 false true a f s (loadVec 4 (BitVec.ofNat 32 ·) a f true))

/-- LD.VC: widened exactly to FP32. -/
def execLdVc (a : Issuer) (f : FmtM) (s : State) : Host.Outcome State Fault Refusal :=
  .next (ldst 4 (convM f && f.rnd = 0 && !f.sat && modeM f) (fmtBytes f.fmt.toNat) false true a f s
    (loadVec (fmtBytes f.fmt.toNat) (fun b => f32Of (elemVal f.fmt.toNat b)) a f false))

/-- Store one element of each active thread in ascending thread; g gives its bits. -/
def storeVec (sz : Nat) (g : Nat → Nat) (s : State) (l : Nat) (accs : List (Nat × Nat)) : State :=
  let s := accs.foldl (fun s p => writeVia s l p.2 (toLe sz (g p.1))) (clearCovered s (ownerBytes (getLoom s l) sz accs))
  accs.foldl (fun s p => touchRange s l p.2 sz true) s

/-- ST.V. A store to a watched master feeds its group's sums (R317). -/
def execStV (a : Issuer) (f : FmtM) (s : State) : Host.Outcome State Fault Refusal :=
  .next (ldst 3 (plainM f && modeM f) 4 true true a f s fun s l y accs =>
    let base := (y.sget f.base.toNat + f.off.signExtend 64).toNat
    let (y', miss) := tapStore s.variant (getLoom s l) (f.mode = 0) base accs f.rd.toNat y
    let s' := setStrand (storeVec 4 (fun t => (y.vget f.rd.toNat t).toNat) s l accs) a y'.next
    if miss then raiseEvt s' .lrn 5 (some l) else s')

/-- ST.VC: converted as CVT does, with the flags of R54. -/
def execStVc (a : Issuer) (f : FmtM) (s : State) : Host.Outcome State Fault Refusal :=
  let fm := f.fmt.toNat
  .next (ldst 5 (convM f && rndOk f.rnd.toNat 0 fm && modeM f) (fmtBytes fm) true true a f s fun s l y accs =>
    let seed := (getLoom s l).seed
    let enc := fun t => encode fm (modeOf f.rnd.toNat (y.drawBits seed t)) f.sat (f32Val (y.vget f.rd.toNat t))
    let fl := accs.foldl (fun g p => g ||| (enc p.1).2) (0 : AFlags)
    setStrand (storeVec (fmtBytes fm) (fun t => (enc t).1) s l accs) a (y.flag fl).next)

end Sys2Proof.Machine
end

