-- ==== Sys2Proof/Machine/Learn.lean ====
section
/-! DEFINITION. The commands of the learning support unit (Table 9-9): its configuration (R305, R310) and the bindings of
parameters and residuals (R297 to R300). -/
namespace Sys2Proof.Machine

/-! ## Configuration -/

/-- A tensor of a loom that lies in memory stacks and holds n bytes. -/
def stackTensor (x : Loom) (obj n : Nat) : Bool :=
  x.intent.any (fun r => r.kind = 1 && r.obj = obj) && match objRec x obj with
    | some r => r.kind = mkStk && n ≤ r.bytes
    | none => false

/-- The ranges of Table 9-3. -/
def lrnRanges (v : LrnLoom) : Bool :=
  v.ngroups ≤ 4096 && v.stepComm ≤ 65535 && 1 ≤ v.buckets && v.buckets ≤ 64
    && !f32IsNan v.clipMax && !f32IsInf v.clipMax && f32Lt 0 v.clipMax && 1 ≤ v.watchDepth && v.watchDepth ≤ 65536

/-- The fields a command carries, the others as they were (R473). -/
def lrnFields (v : LrnLoom) (f : LrnConfigF) : LrnLoom :=
  { v with
    step := f.step.getD v.step, ngroups := f.ngroups.getD v.ngroups, stepComm := f.stepComm.getD v.stepComm
    buckets := f.buckets.getD v.buckets, clipOn := f.clipOn.getD v.clipOn, clipMax := f.clipMax.getD v.clipMax
    groupTab := f.groupTab.getD v.groupTab, sched := f.sched.getD v.sched, values := f.values.getD v.values
    watch := f.watch.getD v.watch, watchDepth := f.watchDepth.getD v.watchDepth }

/-- The tables of the groups: placed in memory stacks and large enough (R305). With no groups a table left at 0 is none
(log 70). -/
def lrnTables (x : Loom) : Bool :=
  let v := x.lrn
  let table := fun obj n => (v.ngroups = 0 && obj = 0) || stackTensor x obj n
  table v.groupTab (v.ngroups * 32) && table v.sched 0 && table v.values (v.ngroups * 16)
    && (v.watch = 0 || stackTensor x v.watch (v.watchDepth * 2048))

/-- The groups with WATCH set, ascending. -/
def watchedGroups (s : State) (x : Loom) : List Nat := (List.range x.lrn.ngroups).filter fun g => (groupRec s x g).watch

/-- LRN_CONFIG: the fields of Table 9-3; the step sum and the bucket count start again (R310). -/
def lrnConfig (s : State) (l : Nat) (f : LrnConfigF) : Except Byte (State × List Byte) :=
  let x := getLoom s l
  let y : Loom := { x with lrn := lrnFields x.lrn f }
  if !lrnRanges y.lrn || !lrnTables y then .error stBad
  else
    let w := watchedGroups s y
    if 64 < w.length || !(List.range y.lrn.ngroups).all (fun g => (groupPoints s y (groupRec s y g)).isSome) then .error stBad
    else .ok (setLoom s l { y with lrn := { y.lrn with stepSum := 0, bucket := 0, gradSums := [], watched := w } }, [])

def execLrnConfig (session ring : Nat) (s : State) : Host.Outcome State Fault Refusal :=
  .next <| alive s fun s => cfgRun s session ring fun t => match t.body with
    | .lrnConfig f => lrnConfig s t.loom f
    | _ => .error stBad

/-! ## Bindings -/

/-- A range of elements of an object: object, first, one past the last. -/
structure ElemRange where
  obj : Nat
  lo : Nat
  hi : Nat
  deriving DecidableEq, Repr

def ElemRange.overlaps (a b : ElemRange) : Bool := a.obj = b.obj && a.lo < b.hi && b.lo < a.hi

/-- The range lies in a tensor of the loom, of FP32 elements where asked. -/
def rangeOk (x : Loom) (r : ElemRange) (fp32 : Bool) : Bool :=
  match x.intent.find? fun t => t.kind = 1 && t.obj = r.obj with
  | some t => (!fp32 || t.fmt = 0) && r.hi ≤ t.a * t.b
  | none => false

/-- The ranges a record binds. -/
def masterRange (b : BindRec) : ElemRange := { obj := b.master, lo := b.masterOff, hi := b.masterOff + b.elems }
def accRange (b : BindRec) : ElemRange := { obj := b.acc, lo := b.accOff, hi := b.accOff + b.elems }
/-- Working copies and residuals are bound from their element 0. -/
def copyRange (b : BindRec) (obj : Nat) : ElemRange := { obj, lo := 0, hi := b.elems }

/-- The ranges that no other binding of the kind may share (R299). -/
def soleRanges (b : BindRec) : List ElemRange :=
  if b.kind = 1 then
    [masterRange b, accRange b] ++ (if b.copy0 = 0 then [] else [copyRange b b.copy0])
      ++ if b.copy1 = 0 then [] else [copyRange b b.copy1]
  else [copyRange b b.copy0]

/-- A record passes the checks that concern it alone (R298). -/
def bindOk (x : Loom) (b : BindRec) : Bool :=
  !b.reserved && rangeOk x (accRange b) true &&
    if b.kind = 1 then
      b.group < x.lrn.ngroups && rangeOk x (masterRange b) true && (b.copy0 = 0 || rangeOk x (copyRange b b.copy0) false)
        && (b.copy1 = 0 || rangeOk x (copyRange b b.copy1) false)
    else b.kind = 2 && b.master = 0 && b.copy1 = 0 && rangeOk x (copyRange b b.copy0) true

/-- A residual's accumulator range is that of a PARAM record in force or of the command. -/
def residualMatched (all : List BindRec) (b : BindRec) : Bool :=
  b.kind ≠ 2 || all.any fun p => p.kind = 1 && accRange p = accRange b

/-- The bindings that bar record b: a PARAM record meets PARAM bindings in force and every earlier record of the command; a
residual meets residuals only (R299). -/
def barring (held before : List BindRec) (b : BindRec) : List BindRec :=
  if b.kind = 1 then held.filter (fun p => p.kind = 1) ++ before else (held ++ before).filter fun p => p.kind = b.kind

/-- Some record of the rest shares a range with one that bars it: one held in force, or one before it in the command. -/
def tied (held before : List BindRec) : List BindRec → Bool
  | [] => false
  | b :: rest =>
    (soleRanges b).any (fun r => ((barring held before b).flatMap soleRanges).any r.overlaps) || tied held (before ++ [b]) rest

/-- LRN_BIND: all records or none; every residual element it binds is zero (R300). -/
def lrnBind (s : State) (l : Nat) (recs : List BindRec) : Except Byte (State × List Byte) :=
  let x := getLoom s l
  let all := x.lrn.binds ++ recs
  if recs.isEmpty || 4096 < recs.length || !recs.all (bindOk x) || !recs.all (residualMatched all) then .error stBad
  else if tied x.lrn.binds [] recs then .error stTied
  else
    let s := (recs.filter fun b => b.kind = 2).foldl (fun s b => objWrite s x b.copy0 0 (List.replicate (4 * b.elems) 0)) s
    .ok (modLoom s l fun y => { y with lrn := { y.lrn with binds := all } }, [])

def execLrnBind (session ring : Nat) (s : State) : Host.Outcome State Fault Refusal :=
  .next <| alive s fun s => cfgRun s session ring fun t => match t.body with
    | .lrnBind recs => lrnBind s t.loom recs
    | _ => .error stBad

/-- Remove the binding that a record matches exactly, record by record; none when one matches nothing. -/
def unbindAll : List BindRec → List BindRec → Option (List BindRec)
  | have_, [] => some have_
  | have_, b :: rest => if have_.contains b then unbindAll (have_.erase b) rest else none

/-- LRN_UNBIND: the bindings that its records match are removed, or none. -/
def lrnUnbind (s : State) (l : Nat) (recs : List BindRec) : Except Byte (State × List Byte) :=
  if recs.isEmpty || 4096 < recs.length then .error stBad
  else match unbindAll (getLoom s l).lrn.binds recs with
    | some b => .ok (modLoom s l fun y => { y with lrn := { y.lrn with binds := b } }, [])
    | none => .error stBad

def execLrnUnbind (session ring : Nat) (s : State) : Host.Outcome State Fault Refusal :=
  .next <| alive s fun s => cfgRun s session ring fun t => match t.body with
    | .lrnUnbind recs => lrnUnbind s t.loom recs
    | _ => .error stBad

end Sys2Proof.Machine
end

