-- ==== Sys2Proof/Machine/Power.lean ====
section
/-! DEFINITION. The supply inputs (R374 to R379), the 1 ms and 1 µs control loops (R380, R381, R390 to R397), the rails and
their droops (R385, R386), the junction limits (R388), the clocks (R39, R398, R399), and the commands that set them. -/
namespace Sys2Proof.Machine

/-! ## Inputs -/

def getInput (s : State) (inputB : Bool) : Input := if inputB then s.power.b else s.power.a
def setInput (s : State) (inputB : Bool) (x : Input) : State :=
  modPower s fun p => if inputB then { p with b := x } else { p with a := x }

/-- The limit of a hand-over: 32/64 on every compute die (R377). -/
def supplyLimit (s : State) : State :=
  limitDies (modPower s fun p => { p with supplySwitch := true }) (onDies s) 3 32

/-- An input that carried leaves GOOD while the other is GOOD (R377). -/
def switchOver (s : State) : State := applyCap (raiseEvt (supplyLimit s) .pwr 2)

/-- An input leaves its state for another. It carries on only when LOST with a voltage above the other path's (R374). -/
def leaveInput (s : State) (inputB : Bool) (x : Input) : State :=
  let old := getInput s inputB
  let o := getInput s (!inputB)
  if !old.carrying then setInput s inputB x
  else if old.st = .good && o.st = .good then
    switchOver (setInput (setInput s inputB { x with carrying := false }) (!inputB) { o with carrying := true })
  else
    let other := o.st = .good || (o.st = .lost && !o.pathOpen && (x.st ≠ .lost || x.v10mv < o.v10mv))
    setInput (setInput s inputB { x with carrying := decide (x.st = .lost) && !other }) (!inputB) { o with carrying := other }

/-- INPUT_GOOD: 47.5 to 61.0 V held for 1 s. The input carries when the other is not GOOD, and in SHARE beside it. -/
def goodInput (s : State) (inputB : Bool) (v : Nat) : State :=
  if v < 4750 || 6100 < v then s
  else
    let x := getInput s inputB
    let o := getInput s (!inputB)
    let takes := x.carrying || s.power.share || o.st ≠ .good || !o.carrying
    let s := setInput s inputB { x with st := .good, v10mv := v, pathOpen := false, carrying := takes }
    if o.st = .good then s else setInput s (!inputB) { o with carrying := false }

def execInputGood (inputB : Bool) (v10mv : Nat) (s : State) : Host.Outcome State Fault Refusal := .next (goodInput s inputB v10mv)

/-- INPUT_LOST: a GOOD input below 46.0 V. -/
def lostInput (s : State) (inputB : Bool) (v : Nat) : State :=
  let x := getInput s inputB
  if x.st ≠ .good || 4600 ≤ v then s
  else raiseEvt (leaveInput s inputB { x with st := .lost, v10mv := v }) .pwr (if inputB then 1 else 0)

def execInputLost (inputB : Bool) (v10mv : Nat) (s : State) : Host.Outcome State Fault Refusal := .next (lostInput s inputB v10mv)

/-- An input goes out of service with an event (R375). -/
def outInput (s : State) (inputB : Bool) (st : InputState) (v : Nat) (bit : Nat) : State :=
  let x := getInput s inputB
  if x.st = st then s else raiseEvt (leaveInput s inputB { x with st, v10mv := v, pathOpen := true }) .pwr bit

def execInputOvervolt (inputB : Bool) (v10mv : Nat) (s : State) : Host.Outcome State Fault Refusal :=
  .next (if v10mv ≤ 6200 then s else outInput s inputB .overvolt v10mv 4)

def execInputShort (inputB : Bool) (s : State) : Host.Outcome State Fault Refusal :=
  .next (outInput s inputB .short (getInput s inputB).v10mv 3)

def execInputReversed (inputB : Bool) (s : State) : Host.Outcome State Fault Refusal :=
  .next (outInput s inputB .reversed (getInput s inputB).v10mv 5)

/-- SENSE_OPEN: the module senses locally. -/
def execSenseOpen (inputB : Bool) (s : State) : Host.Outcome State Fault Refusal :=
  .next <| if (getInput s inputB).senseLocal then s
    else raiseEvt (setInput s inputB { getInput s inputB with senseLocal := true }) .pwr 6

def execSenseRestore (inputB : Bool) (s : State) : Host.Outcome State Fault Refusal :=
  .next (setInput s inputB { getInput s inputB with senseLocal := false })

/-- BACKUP_CONDUCTION: in MAIN_BACKUP, B's path conducts while A is more than 0.5 V below B (R376). -/
def execBackupConduction (va vb : Nat) (s : State) : Host.Outcome State Fault Refusal :=
  let p := s.power
  .next <| if p.share || vb ≤ va + 50 || p.b.pathOpen || !(p.b.st = .good || p.b.st = .lost) then s
    else modPower s fun p => { p with
      a := { p.a with v10mv := va, carrying := false }, b := { p.b with v10mv := vb, carrying := true } }

/-- SUPPLY_SWITCH_END. -/
def execSupplySwitchEnd (s : State) : Host.Outcome State Fault Refusal :=
  .next <| if s.power.supplySwitch then limitDies (modPower s fun p => { p with supplySwitch := false }) (onDies s) 3 64 else s

/-- AUTO_RETURN: the load returns to A, with the limit of R377 again (R378). -/
def execAutoReturn (s : State) : Host.Outcome State Fault Refusal :=
  let p := s.power
  .next <| if p.share || !p.autoReturn || p.a.st ≠ .good || p.a.carrying || !p.b.carrying then s
    else supplyLimit (modPower s fun p => { p with a := { p.a with carrying := true }, b := { p.b with carrying := false } })

/-- MODULE_POWER_LOSS: neither input is GOOD and the one that carries is below 40 V (R379). -/
def execModulePowerLoss (s : State) : Host.Outcome State Fault Refusal :=
  let p := s.power
  let dead := fun x : Input => !x.carrying || x.v10mv < 4000
  .next <| if p.a.st = .good || p.b.st = .good || !dead p.a || !dead p.b then s
    else
      let s := coldReset s
      modPower s fun p => { p with a := { p.a with carrying := false }, b := { p.b with carrying := false } }

/-! ## The 1 µs loop (R396) -/

/-- DIE_POWER_LOOP: the die weighs its counts, corrects the estimate, and its limit from the cap keeps it within its
budget; which limit does that is free (log 25). -/
def diePower (s : State) (die : Nat) (counts : List Nat) : State :=
  if !(getDie s die).on then s
  else
    let p := s.power
    let raw := ((List.range counts.length).zip counts).foldl (fun n kc => n + kc.2 * Config.energy die kc.1) 0
    let est := if p.diverged then (if p.rawEstimate < p.measured ∧ p.rawEstimate ≠ 0 then raw * p.measured / p.rawEstimate else raw)
      else raw * p.corr / 2 ^ 32
    let issues := (issuingDies s).contains die
    let (t40, s) := nominal s
    let hi := if p.uniform && issues then uniformMax s t40 die else 64
    let (lim, s) := freeLimit s hi
    let host := hostLimit s die
    rebind (modDie s die fun d =>
      settleDie die (({ d with raw, estimate := est }.setLimit (capLimitReason p) lim).setLimit 6 host))

def execDiePowerLoop (die : Nat) (counts : List Nat) (s : State) : Host.Outcome State Fault Refusal :=
  .next (alive s fun s => diePower s die counts)

/-! ## The 1 ms loop (R380, R381, R390 to R393, R396, R397) -/

/-- The raw estimate of the module in watts: the estimates of all dies over 0.873. -/
def rawOf (s : State) (otherDies : Nat) : Nat := (((onDies s).map fun d => (getDie s d).raw).sum + 1000 * otherDies) / 873

/-- The correction after a window: one eighth of the way to measured ÷ raw, held between 0.80 and 1.25. Against a raw
estimate of 0 the manual gives no quotient, and it is free. -/
def nextCorr (s : State) (measured raw : Nat) : Nat × State :=
  let (target, s) := if raw = 0 then let (k, s) := drawFree s 1; (Config.freeNat k, s) else (measured * 2 ^ 32 / raw, s)
  let k := s.power.corr
  let k := if k ≤ target then k + (target - k) / 8 else k - (k - target) / 8
  (max (2 ^ 32 * 4 / 5) (min (2 ^ 32 * 5 / 4) k), s)

/-- Divergence of the estimate (R397). -/
def divergence (s : State) (measured raw : Nat) : State :=
  let diff := if measured ≤ raw then raw - measured else measured - raw
  let far := if measured < 5 * diff then s.power.divergeCnt + 1 else 0
  let near := if 10 * diff < measured then s.power.agreeCnt + 1 else 0
  let s := modPower s fun p => { p with divergeCnt := far, agreeCnt := near }
  if !s.power.diverged && 10 < far then
    raiseEvt (moveCapLimit (modPower s fun p => { p with diverged := true }) 0 7) .pwr 7
  else if s.power.diverged && 100 ≤ near then moveCapLimit (modPower s fun p => { p with diverged := false }) 7 0
  else s

/-- Shares of the compute pool (R381): equal when the set of issuing dies has changed, else in proportion to the shares so
far. Borrowed budget goes to the dies of the job it was borrowed for (R394). Other dies receive their own estimates. -/
def shareOut (s : State) (otherDies : Nat) : State :=
  let p := s.power
  let ds := issuingDies s
  let rest := (onDies s).filter fun d => !ds.contains d
  let pool := p.inForce * 873 - otherDies * 1000 - (rest.map fun d => (getDie s d).estimate).sum
  let job := ds.filter fun d => (loomsOfDie s d).contains p.borrowFor
  let extra := if job.isEmpty then 0 else min pool (p.borrowed.toNat * 873)
  let base := pool - extra
  let sum := (ds.map fun d => (getDie s d).share).sum
  let equal := p.issuing ≠ ds || sum = 0
  let s := ds.foldl (fun s d => modDie s d fun x =>
    let sh := if equal then base / ds.length else x.share * base / sum
    { x with share := sh, budget := min 260000 (sh + if job.contains d then extra / job.length else 0) }) s
  let s := rest.foldl (fun s d => modDie s d fun x => { x with budget := x.estimate, share := 0 }) s
  modPower s fun p => { p with issuing := ds }

/-- The die named last in more than half of a job's collectives of the window; a synchronous job completed two or more. -/
def lastDie (ls : List Nat) : Option Nat :=
  if ls.length < 2 then none else (List.range 40).find? fun d => ls.length < 2 * ls.count d

/-- Move 1 % of the budget of the last die to it, in equal shares from the job's other issuing dies (R392). -/
def balanceMove (s : State) (job : Nat) (last : Nat) : State :=
  let ds := (issuingDies s).filter fun d => (loomsOfDie s d).contains job && d ≠ last
  let x := getDie s last
  let part := min (x.budget / 100) (260000 - x.budget) / ds.length
  if ds.isEmpty || part = 0 || ds.any (fun d => (getDie s d).budget < part + Config.idleDraw d || (getDie s d).share < part) then s
  else
    let s := ds.foldl (fun s d => modDie s d fun y => { y with budget := y.budget - part, share := y.share - part }) s
    modDie s last fun y => { y with budget := y.budget + part * ds.length, share := y.share + part * ds.length }

/-- The last dies that the collective engine reported in the window, by loom (R321). -/
def lastReports (s : State) : List (Nat × List Nat) := (liveLooms s).map fun l => (l, (getLoom s l).lastDies)

/-- The BALANCE limit of a die (R393): against each synchronous job on it, and 64 where none asks for less. -/
def balanceLimit (s : State) (m : PowerWindow) (die : Nat) : Nat :=
  (lastReports s).foldl (fun lim jl =>
    match lastDie jl.2 with
    | some last =>
      if last ≠ die && (loomsOfDie s die).contains jl.1 && 20 < tget 0 m.waits die then min lim (min 64 ((getDie s last).treadle + 2))
      else lim
    | none => lim) 64

/-- Balancing of synchronous jobs at the boundary. -/
def balance (s : State) (m : PowerWindow) : State :=
  let ds := issuingDies s
  let lims := ds.map fun d => (d, balanceLimit s m d)
  let s := (lastReports s).foldl (fun s jl => match lastDie jl.2 with
    | some last => if ds.contains last && (loomsOfDie s last).contains jl.1 then balanceMove s jl.1 last else s
    | none => s) s
  let off := (onDies s).filter fun d => !ds.contains d
  let s := (liveLooms s).foldl (fun s l => modLoom s l fun x => { x with lastDies := [] }) s
  let all : List (Nat × Nat) := lims ++ off.map fun d => (d, 64)
  rebind (all.foldl (fun s dl => modDie s dl.1 fun x => settleDie dl.1 (x.setLimit 5 dl.2)) s)

/-- The uniform ceiling holds the issuing dies when their mean would pass the nominal mean (R390). -/
def uniformTick (s : State) : State :=
  let (t40, s) := nominal s
  let ds := issuingDies s
  if s.power.uniform && t40 * ds.length < 40 * (ds.map fun d => (getDie s d).treadle).sum then
    let r := capReason s.power
    rebind (ds.foldl (fun s d => modDie s d fun x => settleDie d (x.setLimit r (max 4 (min (x.limit r) (t40 / 40))))) s)
  else s

/-- Power above the cap in force lowers the limits from the cap, and an input that carries more than 300 A lowers those of
CURRENT_LIMIT; how far is free (log 25). While R35 lowers the cap, its limits stand under that reason too. -/
def capTick (s : State) : State :=
  let p := s.power
  let control := if p.diverged then max p.measured p.rawEstimate else p.measured
  let r := capLimitReason p
  let s := if p.inForce < control then
      (issuingDies s).foldl (fun s d =>
        let (lim, s) := freeLimit s (max 4 ((getDie s d).limit r))
        modDie s d fun x => settleDie d (x.setLimit r lim)) s
    else s
  let atLimit := fun x : Input => x.carrying && decide (3000 < x.i100ma)
  let full := atLimit p.a || atLimit p.b
  rebind ((onDies s).foldl (fun s d =>
    let held := if p.singleLimit then (getDie s d).limit 2 else 64
    let (lim, s) := if full then freeLimit s (max 4 (min 63 held)) else (held, s)
    modDie s d fun x => settleDie d (x.setLimit 2 lim)) s)

/-- POWER_CONTROL_TICK. -/
def powerTick (s : State) (m : PowerWindow) : State :=
  let raw := rawOf s m.otherDies
  let s := modPower s fun p => { p with
    a := { p.a with v10mv := m.va, i100ma := m.ia }, b := { p.b with v10mv := m.vb, i100ma := m.ib }
    measured := m.measured, rawEstimate := raw }
  let (k, s) := nextCorr s m.measured raw
  let s := divergence (modPower s fun p => { p with corr := k }) m.measured raw
  capTick (uniformTick (balance (shareOut (applyCap s) m.otherDies) m))

def execPowerControlTick (m : PowerWindow) (s : State) : Host.Outcome State Fault Refusal := .next (alive s fun s => powerTick s m)

/-! ## Budget across modules (R394, R395) -/

/-- The first of some reports that is best by a test. -/
def bestReport (better : ModuleReport → ModuleReport → Bool) : List ModuleReport → Option ModuleReport
  | [] => none
  | r :: rs => some (rs.foldl (fun a b => if better b a then b else a) r)

/-- The move the anchor makes from the reports of a window: receiver, lender and watts. -/
def budgetMove (rs : List ModuleReport) : Option (Nat × Nat × Nat) :=
  let inRange := fun (r : ModuleReport) (w : Int) =>
    ((r.configured : Int) - r.borrowMax ≤ w && w ≤ (r.configured : Int) + r.borrowMax && 3000 ≤ w && w ≤ 15000 : Bool)
  match bestReport (fun b a => b.boxIndex < a.boxIndex) (rs.filter fun r => r.windowCount < 2 * r.lastCount) with
  | none => none
  | some dest =>
    match bestReport (fun b a => b.lastCount < a.lastCount || (b.lastCount = a.lastCount && a.boxIndex < b.boxIndex))
        (rs.filter fun r => r.boxIndex ≠ dest.boxIndex) with
    | none => none
    | some from_ =>
      let w := (dest.capInForce + 4999) / 5000 * 50
      if inRange dest (dest.capInForce + w) && inRange from_ (from_.capInForce - w) then some (dest.boxIndex, from_.boxIndex, w) else none

/-- BUDGET_REPORT: the reports of a job's box modules, this module's among them as its registers have it. -/
def budgetReport (s : State) (l : Nat) (rs : List ModuleReport) : State :=
  let x := getLoom s l
  let me := boxIndexOf s x
  let p := s.power
  let mine := rs.any fun r => r.boxIndex = me && r.capInForce = p.inForce && r.configured = p.cap && r.borrowMax = p.borrowMax
  if x.st = .free || boxModules x < 2 || rs.length ≠ boxModules x || !mine then s
  else
    match budgetMove rs with
    | none => s
    | some (dest, from_, w) =>
      let s := { s with reply := [BitVec.ofNat 64 dest, BitVec.ofNat 64 from_, BitVec.ofNat 64 w] }
      if dest = me then modPower s fun p => { p with borrowed := p.borrowed + w, borrowFor := l }
      else if from_ = me then modPower s fun p => { p with borrowed := p.borrowed - w }
      else s

def execBudgetReport (l : Nat) (reports : List ModuleReport) (s : State) : Host.Outcome State Fault Refusal :=
  .next (alive s fun s => budgetReport s l reports)

/-- Budget returns to the cap of its module. -/
def revertBorrow (s : State) (b : Int) : State := raiseEvt (modPower s fun p => { p with borrowed := b }) .pwr 10

/-- BORROW_RELEASE: a lender takes back what the borrower releases. -/
def execBorrowRelease (amount : Nat) (s : State) : Host.Outcome State Fault Refusal :=
  .next (alive s fun s => if s.power.borrowed < 0 then revertBorrow s (min 0 (s.power.borrowed + amount)) else s)

/-- BORROW_REVERT: a borrower returns on silence or the end of its job, a lender takes back after its time. -/
def execBorrowRevert (cause : BorrowCause) (s : State) : Host.Outcome State Fault Refusal :=
  .next <| alive s fun s => match cause with
    | .anchorSilent | .jobStopped => if 0 < s.power.borrowed then revertBorrow s 0 else s
    | .lenderTimeout => if s.power.borrowed < 0 then revertBorrow s 0 else s

/-! ## Rails and droops (R385, R386) -/

/-- RAIL_SETPOINT_REACHED: the treadle that waited for the rail rises. -/
def execRailSetpointReached (die : Nat) (s : State) : Host.Outcome State Fault Refusal :=
  .next <| alive s fun s => if (getDie s die).on then rebind (modDie s die fun d => settleDie die { d with rail := d.vset }) else s

/-- RAIL_FALL_DELAY: the rail follows to the point of the highest setting in force or asked for. -/
def execRailFallDelay (die : Nat) (s : State) : Host.Outcome State Fault Refusal :=
  .next <| alive s fun s => if (getDie s die).on then
      modDie s die fun d =>
        let v := min d.vset (setpoint die (max d.treadle d.wanted))
        { d with vset := v, rail := min d.rail v }
    else s

/-- DROOP: 16/64. -/
def execDroop (die : Nat) (s : State) : Host.Outcome State Fault Refusal := .next (alive s fun s => limitDies s [die] 4 16)

/-- DROOP_RECOVERY: the limit rises by 8/64, or its raise is held by the pacing of R477. -/
def execDroopRecovery (die : Nat) (paced : Bool) (s : State) : Host.Outcome State Fault Refusal :=
  .next (alive s fun s => if paced then s else limitDies s [die] 4 (min 64 ((getDie s die).limit 4 + 8)))

/-! ## Junction temperature (R388) -/

/-- At 110 °C the die is switched off: every loom holding its bays stops, and ALERT_N is asserted (R482). -/
def tripDie (s : State) (die t : Nat) : State :=
  let s := rebind (modDie s die fun d => { d with on := false, tempC := t })
  let s := modSvc s fun v => { v with
    alert := true
    lostDies := (v.lostDies ++ [die]).eraseDups
    lostBays := (v.lostBays ++ (List.range 8).map fun i => die * 8 + i).eraseDups }
  (loomsOfDie s die).foldl (fun s l => loomUncorr s l) (raiseEvt s .pwr 9 none die)

/-- The THERMAL limit of a die after a reading. -/
def thermalNext (lim t : Nat) : Nat :=
  if 105 ≤ t then 4 else if 100 < t then max 4 (lim - 1) else if t < 98 then min 64 (lim + 1) else lim

/-- A reading of a die's junction. -/
def junction (s : State) (die t : Nat) (lim : Nat → Nat) : State :=
  if !(getDie s die).on then s
  else if 110 ≤ t then tripDie s die t
  else
    let s := limitDies (modDie s die fun d => { d with tempC := t }) [die] 1 (lim ((getDie s die).limit 1))
    if 100 < t then raiseEvt s .pwr 8 none die else s

def execThermalLimitTick (die tempC : Nat) (s : State) : Host.Outcome State Fault Refusal :=
  .next (alive s fun s => junction s die tempC fun lim => thermalNext lim tempC)

/-- JUNCTION_LIMIT: at 105 °C the limit is 4/64 at once. -/
def execJunctionLimit (die tempC : Nat) (s : State) : Host.Outcome State Fault Refusal :=
  .next (alive s fun s => if tempC < 105 then s else junction s die tempC fun _ => 4)

def execThermalTrip (die tempC : Nat) (s : State) : Host.Outcome State Fault Refusal :=
  .next (if tempC < 110 then s else junction s die tempC fun lim => lim)

/-- THROTTLE_EPISODE_END: the reason has bound on no die for 100 µs; its log entry is completed. -/
def execThrottleEpisodeEnd (r : Nat) (s : State) : Host.Outcome State Fault Refusal :=
  let p := s.power
  .next <| alive s fun s => match tfind p.openEpisodes r, boundOn p.dies r with
    | some n, [] =>
      let s := modPower s fun p => { p with openEpisodes := tdel p.openEpisodes r }
      if p.episodes.toNat - n ≤ 32 then
        let w := (tget 0 p.log1 (n % 32)).toNat
        let us := (s.tlm.timebase - tget 0 p.log0 (n % 32)).toNat / 100
        modPower s fun p => { p with log1 := tput p.log1 (n % 32) (logWord us (bits w 23 16) (bits w 15 8) false r) }
      else s
    | _, _ => s

/-- PWR_LOOM_HOST_WRITE: HOST_TREADLE from 4 to 64, by the loom's session (Table 12-14). -/
def execPwrLoomHostWrite (who : Accessor) (l : Nat) (value : W64) (s : State) : Host.Outcome State Fault Refusal :=
  let t := bits value.toNat 6 0
  .next <| alive s fun s => if !ownsLoom s who l || t < 4 || 64 < t then s
    else
      let s := modPower s fun p => { p with hostTreadle := tset 64 p.hostTreadle l t }
      rebind ((((getLoom s l).bays.map dieOfBay).eraseDups).foldl (fun s d =>
        if (getDie s d).on then modDie s d fun x => settleDie d (x.setLimit 6 (hostLimit s d)) else s) s)

/-! ## Clocks (R39, R398, R399) -/

/-- REFCLK_LOST: the PLL holds its last frequency. -/
def execRefclkLost (s : State) : Host.Outcome State Fault Refusal :=
  .next <| if !s.power.refPresent then s
    else raiseEvt (modPower s fun p => { p with refPresent := false, holdover := p.locked, refLoss := satAdd 0xFFFFFFFF p.refLoss 1 }) .pwr 11

def execRefclkRestored (s : State) : Host.Outcome State Fault Refusal :=
  .next <| if !s.power.holdover then s
    else raiseEvt (modPower s fun p => { p with refPresent := true, holdover := false }) .pwr 12

/-- PLL_LOCK: a valid reference is present and the root PLL has locked. -/
def execPllLock (s : State) : Host.Outcome State Fault Refusal :=
  .next <| if s.power.holdover then s else modPower s fun p => { p with refPresent := true, locked := true }

/-! ## Console settings (R380, R395, R467) -/

/-- CAP_SET: 3.0 to 15.0 kW in 50 W steps; a borrower returns what it borrowed. -/
def execCapSet (watts : Nat) (s : State) : Host.Outcome State Fault Refusal :=
  .next <| alive s fun s => consoleRun s fun s =>
    if watts < 3000 || 15000 < watts || watts % 50 ≠ 0 then s
    else
      let s := modPower s fun p => { p with cap := watts }
      if 0 < s.power.borrowed then revertBorrow s 0 else s

/-- PWR_CTRL_SET: the fields given, all or none. In SHARE both GOOD inputs carry; in MAIN_BACKUP one does, A when GOOD. -/
def execPwrCtrlSet (borrowMax : Option Nat) (uniform autoReturn : Option Bool) (mode : Option Nat) (s : State) :
    Host.Outcome State Fault Refusal :=
  .next <| alive s fun s => consoleRun s fun s =>
    let bm := borrowMax.getD s.power.borrowMax
    let md := mode.getD (if s.power.share then 1 else 0)
    if 3000 < bm || bm % 50 ≠ 0 || 1 < md then s
    else modPower s fun p =>
      let goodA := p.a.st = .good
      let goodB := p.b.st = .good
      let both := goodA && goodB && md = 1
      let change := goodA && goodB && decide (p.share ≠ decide (md = 1))
      { p with
        borrowMax := bm, uniform := uniform.getD p.uniform, autoReturn := autoReturn.getD p.autoReturn, share := decide (md = 1)
        a := { p.a with carrying := if change then true else p.a.carrying }
        b := { p.b with carrying := if change then both else p.b.carrying } }

end Sys2Proof.Machine
end

