-- ==== Sys2Proof/Machine/Serve.lean ====
section
/-! DEFINITION. The commands of the serving engine (Table 10-8): the binding of a loom (R323), submission (R325, R326, R343,
R344), cancels (R337), deadlines (R338), the consumer count (R332), and the formation of a batch step (R329). -/
namespace Sys2Proof.Machine

/-! ## SRV_CONFIG -/

/-- The fields a command carries, the others as they were (R473). -/
def srvFields (v : SrvLoom) (f : SrvConfigF) : SrvLoom :=
  { v with
    bound := f.bound.getD v.bound, quota := f.quota.getD v.quota, maxRows := f.maxRows.getD v.maxRows
    stepTokens := f.stepTokens.getD v.stepTokens, prefillChunk := f.prefillChunk.getD v.prefillChunk
    specDepth := f.specDepth.getD v.specDepth, kvPool := f.kvPool.getD v.kvPool, kvPosBytes := f.kvPosBytes.getD v.kvPosBytes
    promptPool := f.promptPool.getD v.promptPool, batch := f.batch.getD v.batch, stepList := f.stepList.getD v.stepList
    pfxSlots := f.pfxSlots.getD v.pfxSlots }

/-- The ranges of Table 10-1, an entry of STEP_LIST those of Table 7-4. KV_POS_BYTES and STEP_LIST have no value in range before
they are set. -/
def srvRanges (v : SrvLoom) (f : SrvConfigF) : Bool :=
  v.quota ≤ 16384 && 1 ≤ v.maxRows && v.maxRows ≤ 1024 && 1 ≤ v.stepTokens && v.stepTokens ≤ 65536
    && 16 ≤ v.prefillChunk && v.prefillChunk ≤ 65536 && v.prefillChunk % 16 = 0 && v.specDepth ≤ 7 && v.pfxSlots ≤ 4096
    && (f.kvPosBytes.isNone && v.kvPosBytes = 0 || 64 ≤ v.kvPosBytes && v.kvPosBytes ≤ 1048576 && v.kvPosBytes % 64 = 0)
    && (f.stepList.isNone && v.stepList.isEmpty || 1 ≤ v.stepList.length && v.stepList.length ≤ 8)
    && v.stepList.all fun e => e.entry < 2 ^ 15 && e.first < 2 ^ 16 && e.count < 2 ^ 16

/-- A bound loom has its tensors in memory stacks, BATCH with room for two tables, and a step to run. -/
def srvBindable (x : Loom) (v : SrvLoom) : Bool :=
  stackTensor x v.kvPool 0 && stackTensor x v.promptPool 0 && stackTensor x v.batch (2 * batchBytes v)
    && v.kvPosBytes ≠ 0 && !v.stepList.isEmpty

/-- Entries given to the quotas of the other looms. -/
def otherQuotas (s : State) (l : Nat) : Nat := (((liveLooms s).filter fun k => k ≠ l).map fun k => (getLoom s k).srv.quota).sum

/-- SRV_CONFIG: batch steps are numbered from 0 again, entries beyond PREFIX_SLOTS are evicted (R343), and the engine owns the
ring from the next LOOM_START. -/
def srvConfig (s : State) (l : Nat) (f : SrvConfigF) : Except Byte (State × List Byte) :=
  let x := getLoom s l
  let v := srvFields x.srv f
  if !srvRanges v f || !x.stepClass || (v.bound && !srvBindable x v) then .error stBad
  else if reqEntries < otherQuotas s l + v.quota then .error stFull
  else .ok (evictDown (setLoom s l { x with srv := { v with stepNo := 0, owned := false } }) l v.pfxSlots, [])

def execSrvConfig (session ring : Nat) (s : State) : Host.Outcome State Fault Refusal :=
  .next <| alive s fun s => cfgRun s session ring fun t => match t.body with
    | .srvConfig f => srvConfig s t.loom f
    | _ => .error stBad

/-! ## SRV_SUBMIT -/

/-- The ranges of a submit descriptor, and room for its positions in the whole pool (Tables 10-2 and 10-3). -/
def submitOk (x : Loom) (d : SubmitDesc) : Bool :=
  !d.reserved && 1 ≤ d.promptLen && d.promptLen ≤ 65536 && 1 ≤ d.maxNew && d.ring.toNat % 1024 = 0
    && (if d.pfxHandle = 0 then d.pfxLen = 0 && !d.register else d.pfxLen % 16 = 0 && d.pfxLen < d.promptLen)
    && pagesFor (reqPositions x.srv d) ≤ poolPages x

/-- The pick of the front beam; a loom outside any weave has none (R330). -/
def frontPick (s : State) (l : Nat) : Nat := if (genWeave s l).isSome then (getLoom s l).shed.frontBeam.pick else allOnes32

/-- The entry of a shared beginning that a submission hits (R343). -/
def hitEntry (s : State) (l : Nat) (d : SubmitDesc) (prompt : List W32) : Option PfxEntry :=
  (getLoom s l).srv.pfx.find? fun p => p.handle = d.pfxHandle && p.len = d.pfxLen && p.tokens = prompt.take d.pfxLen
    && p.pick = frontPick s l

/-- A refusal with FULL is counted and raises REQ_FULL. -/
def reqFull (s : State) (l : Nat) : State :=
  raiseEvt (modSrv s l fun v => { v with fullCnt := satAdd 0xFFFFFFFF v.fullCnt 1 }) .srv 0 (some l)

/-- Bytes of the token pool a request takes: those of its prompt (R326). -/
def reqBytes (d : SubmitDesc) : Nat := 4 * d.promptLen

/-- The lowest free entry of the request table (log 19). -/
def freeEntry (s : State) : Nat := ((List.range reqEntries).find? fun e => (getReq s e).st = .free).getD 0

/-- Admit a request: the entry is taken, its prompt is copied, and on a hit the entry's pages are mapped (R344). A miss is
counted and raises PREFIX_MISS. The status and the completion body come with the state. -/
def admitReq (s : State) (l buf : Nat) (d : SubmitDesc) (prompt : List W32) : State × Byte × List Byte :=
  let e := freeEntry s
  let gen := (getReq s e).gen + 1
  let asks := d.pfxHandle ≠ 0 && !d.register
  let hit := if asks then hitEntry s l d prompt else none
  let (ev, s) := takeEv s
  let r : Req := {
    st := .queued, gen, loom := l, d := some d, prompt, buf, bufLen := reqBytes d, admitted := ev.toNat
    pos := if hit.isSome then d.pfxLen else 0
    pages := (hit.map (·.pages)).getD [], pfxHit := hit.isSome, pfxPick := hit.map (·.pick) }
  let s := setReq s e r
  let s := wrData s (idsAt (getLoom s l) r) (prompt.flatMap fun w => toLe 4 w.toNat)
  let body := toLe 4 (e + gen.toNat * 2 ^ 16) ++ toLe 4 0 ++ toLe 8 ev.toNat
  match hit with
  | some p =>
    (modSrv s l fun v => { v with
      hits := satAdd 0xFFFFFFFF v.hits 1
      pfx := v.pfx.map fun q => if q.handle = p.handle then { q with lastUse := ev.toNat } else q }, stOk, body)
  | none =>
    if asks then
      (raiseEvt (modSrv s l fun v => { v with misses := satAdd 0xFFFFFFFF v.misses 1 }) .srv 4 (some l), stMiss, body)
    else (s, stOk, body)

/-- SRV_SUBMIT: the statuses of Table 10-3 in table order. -/
def submit (s : State) (sess ring : Nat) (d : SubmitDesc) (prompt : List W32) : State :=
  let l := d.loom
  let x := getLoom s l
  let halted := x.st = .stopped || x.st = .stopping || x.st = .fenced || x.st = .faulted
  if !loomOwned s sess l then finish s sess ring stPerm
  else if !x.srv.bound || halted then finish s sess ring stBusy
  else if !submitOk x d then finish s sess ring stBad
  else if x.srv.quota ≤ (reqsOf s l).length then finish (reqFull s l) sess ring stFull
  else
    match poolPlace s l (reqBytes d) with
    | none => finish (reqFull s l) sess ring stFull
    | some buf =>
      if prompt.length ≠ d.promptLen then s
      else
        let (s, st, body) := admitReq s l buf d prompt
        finishWith (admitNow s l) sess ring st body

def execSrvSubmit (session ring : Nat) (prompt : List W32) (s : State) : Host.Outcome State Fault Refusal :=
  .next <| alive s fun s => match takenOf s session ring with
    | some { body := .srvSubmit d, .. } => submit s session ring d prompt
    | _ => s

/-! ## Cancels, deadlines and the consumer count -/

/-- SRV_CANCEL: every cancel of an entry of the loom takes an event number (R334). It has its effect at once; on a request that
has ended, or of another generation, it has none and is ALREADY_DONE (R337). -/
def cancelReq (s : State) (sess l e : Nat) (gen : BitVec 16) : State × Byte :=
  let r := getReq s e
  if !loomOwned s sess l then (s, stPerm)
  else if reqEntries ≤ e || r.loom ≠ l then (s, stBad)
  else
    let s := (takeEv s).2
    if r.gen ≠ gen || r.st = .free || r.st = .ended then (s, stAlreadyDone)
    else (endReq (raiseEvt s .srv 2 (some l)) e stCancelled, stOk)

def execSrvCancel (session ring : Nat) (s : State) : Host.Outcome State Fault Refusal :=
  .next <| alive s fun s => match takenOf s session ring with
    | some { body := .srvCancel e gen, loom, started := false, .. } =>
      let (s, st) := cancelReq s session loom e gen
      finish s session ring st
    | _ => s

/-- SRV_PREFIX_DROP: the entries named, or all of them by handle 0 (R346). -/
def execSrvPfxDrop (session ring : Nat) (s : State) : Host.Outcome State Fault Refusal :=
  .next <| alive s fun s => cmdRun s session ring fun t => match t.body with
    | .srvPfxDrop hs =>
      if !loomOwned s session t.loom then .error stPerm
      else .ok (admitNow (evictIf s t.loom fun p => hs.contains 0 || hs.contains p.handle) t.loom, [])
    | _ => .error stBad

/-- BATCH_STEP_FORM: after the commit of the step before (R329). -/
def execBatchStepForm (l : Nat) (s : State) : Host.Outcome State Fault Refusal :=
  .next (alive s fun s => formStep (commitAll s l) l)

/-- A request is in a step that computes: one whose commits have begun computes no more. -/
def inStep (s : State) (e : Nat) : Bool :=
  let r := getReq s e
  match (getLoom s r.loom).srv.formed with
  | some f => !f.committing && f.rows.any fun w => w.entry = e && w.gen = r.gen
  | none => false

/-- DEADLINE: the timebase has reached the deadline of a request that has not ended. In a computing step it is marked
expired, else it ends. -/
def expire (s : State) (e : Nat) : State :=
  let r := getReq s e
  if r.st = .free || r.st = .ended || r.expired || r.desc.deadline = 0 || s.tlm.timebase.toNat < r.desc.deadline.toNat then s
  else
    let s := raiseEvt (takeEv s).2 .srv 3 (some r.loom)
    if inStep s e then modReq s e fun r => { r with expired := true } else endReq s e stDeadline

def execDeadline (e : Nat) (s : State) : Host.Outcome State Fault Refusal := .next (alive s fun s => expire s e)

/-- The host has read records: slots are free again, a request that waited for them decodes, one that has ended and is
read to its end is freed. -/
def consWrite (s : State) (e : Nat) (cons : Nat) : State :=
  let s := modReq s e fun r => { r with cons }
  let r := getReq s e
  let s := if r.st = .ringWait && (getLoom s r.loom).srv.specDepth + 2 ≤ r.freeSlots then modReq s e fun r => { r with st := .decode }
    else s
  let t := releaseReq s e
  if (getReq t e).st = .free then admitNow t r.loom else t

/-- SRV_REQ_CONS_WRITE: by the session of the request's loom, with the entry's current generation (Table 10-16). -/
def execSrvReqConsWrite (who : Accessor) (e : Nat) (value : W64) (s : State) : Host.Outcome State Fault Refusal :=
  let r := getReq s e
  .next <| alive s fun s => if r.st = .free || !ownsLoom s who r.loom || bits value.toNat 31 16 ≠ r.gen.toNat then s
    else consWrite s e (bits value.toNat 15 0)

end Sys2Proof.Machine
end

