-- ==== Sys2Proof/Machine/Shtl.lean ====
section
/-! DEFINITION. Class SHTL: staging in 64 KiB units (R95, R134, R135) and working copies (R301 to R303). -/
namespace Sys2Proof.Machine

/-- STAGE: the checks of R134. -/
def stageOp (s : State) (x : Loom) (d : List Byte) : Except Byte AsyncOp :=
  let src := fieldAt d 0x00 8
  let w := fieldAt d 0x08 4
  let dst := bits w 22 0
  let len := fieldAt d 0x0C 4
  let ok := bits w 31 23 = 0 && fieldAt d 0x10 48 = 0 && src % 64 = 0 && src < Config.memEnd s.variant
    && src + len ≤ Config.memEnd s.variant && dst % 1024 = 0 && len % 64 = 0 && 64 ≤ len && len ≤ tsBytes
    && dst + len ≤ tsBytes
  if !ok then .error stBad
  else
    let st := accStatus s.variant x src len 64
    if st ≠ stOk then .error st else .ok { src, dst, len }

/-- The destination of a STAGE. -/
def stageDst (tile : Nat) (o : AsyncOp) : List (Nat × Nat) := [(tileAddr tile o.dst, o.len)]

def execStage (a : Issuer) (f : FmtD) (s : State) : Host.Outcome State Fault Refusal :=
  .next (asyncIssue 7 0 false .stage a f s (fun l _ d => stageOp s (getLoom s l) d) (fun _ => false)
    (fun _ => []) (stageDst a.tile))

/-- A unit of a STAGE lands: units go from the lowest address upward, and the last completes the tag (R134). -/
def stageUnit (s : State) (a : Issuer) (tag : BitVec 16) : State :=
  match opOf (getTile s a.tile) a.strand tag, ownerOfTile s a.tile with
  | some o, some l =>
    if o.kind ≠ .stage then s
    else
      let at_ := o.landed * 65536
      let n := min 65536 (o.len - at_)
      let dst := tileAddr a.tile (o.dst + at_)
      if !opReady s o then s
      else
        match uncopied s dst n with
        | some kb => holdCopy s [a.tile, a.strand, tag.toNat] kb
        | none =>
          if opPoison s (getLoom s l) [(o.src + at_, n)] [(dst, n)] then
            loomUncorr (opEnd (spoil (meetUnits s (some l) [(o.src + at_, n)]) (stageDst a.tile o)) a.tile o stUncorr) l a.tile a.strand
          else
            let s' := wrN s dst (rdN s (o.src + at_) n)
            if o.len ≤ at_ + n then opEnd s' a.tile o stOk
            else modTile s' a.tile fun t => { t with
              ops := t.ops.map fun (q : AsyncOp) =>
                if q.strand = o.strand && q.tag = o.tag then { q with landed := q.landed + 1 } else q }
  | _, _ => s

/-- STAGE_UNIT_LANDED: a unit of a STAGE, or one of the weft of a matrix command in flight (R95). -/
def execStageUnitLanded (tile : Nat) (u : StagedUnit) (s : State) : Host.Outcome State Fault Refusal :=
  .next <| alive s fun s =>
    match u with
    | .stage strand tag => stageUnit s { tile, strand } tag
    | .weft num => weftUnitLands s tile num

/-! ## Working copies -/

/-- Bytes of the element plane of a working copy. -/
def planeBytes (fmt n : Nat) : Nat := if fmt = 7 then (n + 1) / 2 else n * fmtBytes fmt
/-- Scales of a working copy. -/
def scaleCount (fmt n : Nat) : Nat := if isMx fmt then n / 32 else 0

/-- WCOPY: the checks of R302. tiled is LAYOUT, flag is AXIS, aux is SCALES. -/
def wcopyOp (s : State) (x : Loom) (tile : Nat) (d : List Byte) : Except Byte AsyncOp :=
  let w := fieldAt d 0x20 4
  let o : AsyncOp := {
    src := fieldAt d 0x00 8
    dst := fieldAt d 0x08 8
    aux := fieldAt d 0x10 8
    rows := fieldAt d 0x18 4
    cols := fieldAt d 0x1C 4
    dstFmt := bits w 3 0
    rnd := bits w 5 4
    sat := bits w 6 6 = 1
    flag := bits w 7 7 = 1
    tiled := bits w 8 8 = 1
    stream := BitVec.ofNat 32 (fieldAt d 0x24 4)
    tensorId := BitVec.ofNat 32 (fieldAt d 0x28 4)
    tensorCols := fieldAt d 0x2C 4
    row0 := fieldAt d 0x30 4
    col0 := fieldAt d 0x34 4 }
  let n := o.rows * o.cols
  let mx := isMx o.dstFmt
  let own := match place s.variant o.dst with
    | .tile t _ => t = tile
    | _ => false
  let ok := bits w 31 9 = 0 && fieldAt d 0x38 8 = 0 && 1 ≤ o.dstFmt && o.dstFmt ≤ 7 && o.rnd < 2
    && o.src % 128 = 0 && n * 4 ≤ 64 * 2 ^ 20
    && (if mx then (if o.flag then o.cols else o.rows) % 32 = 0 && !o.sat else o.aux = 0 && !o.flag)
    && (!o.tiled || (o.rows % 32 = 0 && o.cols % blockCols o.dstFmt = 0 && own))
  if !ok then .error stBad
  else
    let st := rangesOk s x ([(o.src, n * 4, 4), (o.dst, planeBytes o.dstFmt n, if mx then 1 else fmtBytes o.dstFmt)]
      ++ if mx then [(o.aux, scaleCount o.dstFmt n, 1)] else [])
    if st ≠ stOk then .error st else .ok o

/-- What a working copy reads and writes. -/
def wcopySrc (o : AsyncOp) : List (Nat × Nat) := [(o.src, o.rows * o.cols * 4)]
def wcopyDst (o : AsyncOp) : List (Nat × Nat) :=
  [(o.dst, planeBytes o.dstFmt (o.rows * o.cols))] ++
  if isMx o.dstFmt then [(o.aux, scaleCount o.dstFmt (o.rows * o.cols))] else []

def execWcopy (a : Issuer) (f : FmtD) (s : State) : Host.Outcome State Fault Refusal :=
  .next (asyncIssue 7 1 false .wcopy a f s (fun l _ d => wcopyOp s (getLoom s l) a.tile d) (fun _ => false)
    wcopySrc wcopyDst)

/-- The position of element (r, c) in the element plane, in elements. -/
def planePos (o : AsyncOp) (r c : Nat) : Nat :=
  if !o.tiled then r * o.cols + c
  else
    let bw := blockCols o.dstFmt
    (r / 32 * (o.cols / bw) + c / bw) * (32 * bw) + r % 32 * bw + c % bw

/-- The rounding of element (r, c). -/
def wcopyMode (seed : W64) (o : AsyncOp) (r c : Nat) : RMode :=
  modeOf o.rnd (srBits seed o.stream o.tensorId (BitVec.ofNat 64 ((o.row0 + r) * o.tensorCols + o.col0 + c)))

/-- Put an element of a plane: an MXE2M1 element is the nibble of its byte (R47). -/
def putElem (s : State) (base fmt pos v : Nat) : State :=
  if fmt = 7 then
    let a := base + pos / 2
    let b := (memGet s.mem a).toNat
    wrN s a [BitVec.ofNat 8 (if pos % 2 = 0 then b / 16 * 16 + v else b % 16 + 16 * v)]
  else wr s (base + pos * fmtBytes fmt) (fmtBytes fmt) v

/-- Convert and write a working copy (R301). -/
def wcopyGo (s : State) (l : Nat) (o : AsyncOp) : State :=
  let seed := (getLoom s l).seed
  let val := fun r c => f32Val (BitVec.ofNat 32 (leNat (readVia s l (o.src + (r * o.cols + c) * 4) 4)))
  if isMx o.dstFmt then
    let blocks : List (Nat × List (Nat × Nat)) :=
      if o.flag then (List.range (o.rows * (o.cols / 32))).map fun b =>
        (b, (List.range 32).map fun i => (b / (o.cols / 32), b % (o.cols / 32) * 32 + i))
      else (List.range (o.rows / 32 * o.cols)).map fun b =>
        (b, (List.range 32).map fun i => (b / o.cols * 32 + i, b % o.cols))
    blocks.foldl (fun acc (b, cells) =>
      let (sc, es, _) := mxBlock o.dstFmt (fun i => let c := cells.getD i (0, 0); wcopyMode seed o c.1 c.2)
        (cells.map fun c => val c.1 c.2)
      let acc := wr acc (o.aux + b) 1 sc
      (cells.zip es).foldl (fun acc (c, e) => putElem acc o.dst o.dstFmt (planePos o c.1 c.2) e) acc) s
  else
    (List.range o.rows).foldl (fun acc r =>
      (List.range o.cols).foldl (fun acc c =>
        putElem acc o.dst o.dstFmt (planePos o r c) (encode o.dstFmt (wcopyMode seed o r c) o.sat (val r c)).1) acc) s

/-- The conversions of a tile that are ready in every cycle until they end: nothing they read or write is waited for, and
their master lies in the tile's own store. While one is ready the shuttle serves nothing younger of its level and nothing of
a lower level (R96). -/
def readyConversions (s : State) (tile : Nat) : List AsyncOp :=
  (getTile s tile).ops.filter fun o =>
    o.kind = .wcopy && opReady s o && (ownAt tile o.src).isSome && ((wcopyDst o).findSome? fun r => uncopied s r.1 r.2).isNone

/-- WCOPY_COMPLETE: the copy is written and its tag completes OK; it sets no ASW bit (R301). An older conversion that is
ready is served first (R96). -/
def execWcopyComplete (a : Issuer) (tag : BitVec 16) (s : State) : Host.Outcome State Fault Refusal :=
  .next (alive s fun s =>
    match opOf (getTile s a.tile) a.strand tag with
    | some o =>
      if (readyConversions s a.tile).any fun q => q.num < o.num then s
      else opComplete s a tag [.wcopy] wcopySrc wcopyDst fun s l o => (wcopyGo s l o, 0, 0)
    | none => s)

end Sys2Proof.Machine
end

