-- ==== Sys2Proof/Machine/Shed.lean ====
section
/-! DEFINITION. The commands and events of the shed controller (Table 11-10): SHED_WEAVE and its checks (R347, R348, R353,
R368), SHED_UNWEAVE (R349), and the copy of a pick (R351, R354, R355, R357). -/
namespace Sys2Proof.Machine

/-! ## The fields of a weave -/

/-- A weave as SHED_WEAVE would set it, with its bobbins by CREEL offset. -/
structure WeavePlan where
  weave : Nat
  w : Weave
  nsrc : Nat
  learnerGiven : Bool
  nlearnGiven : Bool
  bobbins : List BobbinEntry
  deriving DecidableEq, Repr

/-- The bobbins of a weave in bobbin order. -/
def bobbinsOf (s : State) (k : Nat) : List BobbinEntry :=
  let base := (objAddr (getLoom s (getWeave s k).learner) (getWeave s k).creel 0).getD 0
  (s.bobbins.filter fun kv => kv.2.weave = k).map fun kv =>
    { loom := kv.2.loom, off := kv.2.addr - base, nrec := kv.2.nrec }

/-- The defaults of Table 11-1. -/
def weaveDefaults : Weave := { publishEvery := 1, genSteps := 1, learnUnits := 1 }

/-- The weave a command asks for: a field it does not carry has its value in the weave it replaces, else its default. -/
def weavePlan (s : State) (f : WeaveF) : WeavePlan :=
  let k := f.weave.getD 8
  let old := tfind s.weaves k
  let w := old.getD weaveDefaults
  { weave := k, learnerGiven := old.isSome || f.learner.isSome, nlearnGiven := f.nlearn.isSome, nsrc := f.nsrc.getD w.src.length
    bobbins := f.bobbins.getD (if old.isSome then bobbinsOf s k else [])
    w := { weaveDefaults with
      shared := f.shared.getD w.shared, learner := f.learner.getD w.learner, gens := f.gens.getD w.gens
      flipEpisode := f.flipEpisode.getD w.flipEpisode, skip := f.skip.getD w.skip
      publishEvery := f.publishEvery.getD w.publishEvery, initPick := f.initPick.getD w.initPick
      srcList := f.srcList.getD w.srcList, creel := f.creel.getD w.creel, staleMax := f.staleMax.getD w.staleMax
      genSteps := f.genSteps.getD w.genSteps, learnList := f.learnList.getD w.learnList
      nlearn := f.nlearn.getD w.nlearn, learnUnits := f.learnUnits.getD w.learnUnits } }

/-- The looms a weave binds. -/
def weaveLooms (w : Weave) : List Nat := (w.learner :: w.gens.map (·.loom)).eraseDups

/-! ## The pick source (R352 to R354) -/

/-- A tensor of a loom. -/
def tensorOf (x : Loom) (obj : Nat) : Option IntentRec := x.intent.find? fun r => r.kind = 1 && r.obj = obj

/-- Bytes of a converted element; none for a format that CONVERT does not write. -/
def convSize (fmt : Nat) : Option Nat := if 1 ≤ fmt && fmt ≤ 4 then some (fmtBytes fmt) else none

/-- Image bytes of an entry. -/
def imgLen (e : SrcEntry) : Nat := if e.convert then e.len / 4 * fmtBytes e.fmt else e.len

/-- Read a source list entry (Table 11-4); none when it fails the table or R353. -/
def srcEntry (x : Loom) (d : List Byte) : Option SrcEntry :=
  let w := fieldAt d 4 4
  let e : SrcEntry := { obj := fieldAt d 0 4, convert := bits w 0 0 = 1, fmt := bits w 4 1, sat := bits w 5 5 = 1
                        srcOff := fieldAt d 8 8, len := fieldAt d 16 8, imgOff := fieldAt d 24 8 }
  match tensorOf x e.obj with
  | none => none
  | some t =>
    if w / 64 ≠ 0 || e.srcOff % 65536 ≠ 0 || e.len % 4 ≠ 0 || e.len < 4 || e.imgOff % 64 ≠ 0 || t.bytes < e.srcOff + e.len
        || (e.convert && (t.fmt ≠ 0 || (convSize e.fmt).isNone)) then none
    else some e

/-- No two ranges (start, length) overlap. -/
def disjoint : List (Nat × Nat) → Bool
  | [] => true
  | (a, n) :: r => r.all (fun b => a + n ≤ b.1 || b.1 + b.2 ≤ a) && disjoint r

/-- The source list of a weave, every entry good; none when one fails. -/
def srcList (s : State) (x : Loom) (obj n : Nat) : Option (List SrcEntry) :=
  if n = 0 then some []
  else
    match tensorOf x obj with
    | none => none
    | some t =>
      if t.bytes < 32 * n then none
      else
        let es := (List.range n).map fun i => srcEntry x (objBytes s x obj (32 * i) 32)
        if es.any Option.isNone then none
        else
          let es := es.filterMap id
          if 1048576 < (es.map entryBlocks).sum || !disjoint (es.map fun e => (e.imgOff, imgLen e)) then none else some es

/-- Bytes of the pick image. -/
def imageBytes (src : List SrcEntry) : Nat := src.foldl (fun m e => max m (e.imgOff + imgLen e)) 0

/-! ## SHED_WEAVE -/

/-- The ranges of Table 11-1. NLEARN has no value in range before SHARED needs it or a command carries it. -/
def weaveRanges (p : WeavePlan) : Bool :=
  let w := p.w
  p.weave ≤ 7 && p.learnerGiven && 1 ≤ w.gens.length && w.gens.length ≤ 16 && 1 ≤ w.publishEvery && w.publishEvery ≤ 65535
    && w.initPick ≤ 0xFFFFFFFE && p.nsrc ≤ 256 && 1 ≤ p.bobbins.length && p.bobbins.length ≤ 256 && w.staleMax ≤ 65535
    && 1 ≤ w.genSteps && w.genSteps ≤ 65535 && 1 ≤ w.learnUnits && w.learnUnits ≤ 255
    && (!(w.shared || p.nlearnGiven) || (1 ≤ w.nlearn && w.nlearn ≤ 64))

/-- The looms fit the mode, and belong to no other weave (Table 11-2). -/
def weaveLoomsOk (s : State) (p : WeavePlan) : Bool :=
  let w := p.w
  let gl := w.gens.map (·.loom)
  let free := (weaveLooms w).all fun l => match weaveOf s l with
    | some (k, _) => k = p.weave
    | none => true
  free &&
    if w.shared then
      gl = [w.learner] && p.nsrc = 0 && !w.flipEpisode && (getLoom s w.learner).srv.bound && !tileResident (getLoom s w.learner)
    else
      gl.eraseDups.length = gl.length && !gl.contains w.learner && gl.all (fun l => (getLoom s l).srv.bound)
        && !(getLoom s w.learner).srv.bound && (weaveLooms w).all fun l => (coResident s l).length = 1

/-- Every beam is a tensor of its generator with room for the header and the image, and is named once. -/
def beamsOk (s : State) (w : Weave) (img : Nat) : Bool :=
  w.gens.all fun g => g.beam0 ≠ g.beam1 && [g.beam0, g.beam1].all fun o => match tensorOf (getLoom s g.loom) o with
    | some t => 4096 + img ≤ t.bytes
    | none => false

/-- CREEL and the bobbins in it (R368). -/
def creelOk (s : State) (p : WeavePlan) : Bool :=
  let w := p.w
  match tensorOf (getLoom s w.learner) w.creel, objRec (getLoom s w.learner) w.creel with
  | some t, some r =>
    r.kind = mkStk
      && p.bobbins.all (fun b => (w.gens.any fun g => g.loom = b.loom) && b.off % 4096 = 0 && 64 ≤ b.nrec
          && b.nrec ≤ 16777215 && b.off + 64 + 64 * b.nrec ≤ t.bytes)
      && disjoint (p.bobbins.map fun b => (b.off, 64 + 64 * b.nrec))
      && w.gens.all fun g => p.bobbins.any fun b => b.loom = g.loom
  | _, _ => false

/-- A learning unit: a tensor of the loom that holds its bodies, with STEP_END on the last body and on no other. -/
def learnOk (s : State) (w : Weave) : Bool :=
  !w.shared || (match tensorOf (getLoom s w.learner) w.learnList with
    | some t => 32 * w.nlearn ≤ t.bytes
        && ((learnBodies s (getLoom s w.learner) w.learnList w.nlearn).map (·.stepEnd)
          == List.replicate (w.nlearn - 1) false ++ [true])
    | none => false)

/-- The checks of Table 11-2: the source list when they pass. -/
def weaveCheck (s : State) (p : WeavePlan) : Option (List SrcEntry) :=
  if !weaveRanges p || !weaveLoomsOk s p then none
  else
    match srcList s (getLoom s p.w.learner) p.w.srcList p.nsrc with
    | none => none
    | some src => if beamsOk s p.w (imageBytes src) && creelOk s p && learnOk s p.w then some src else none

/-- A generator of a fresh weave: beam (INIT_PICK mod 2) is the front beam, FULL; the other is EMPTY (R348). -/
def freshGen (s : State) (k init : Nat) (g : GenEntry) : State :=
  let full := fun o : Nat => ({ obj := o, st := .full, pick := init } : Beam)
  let empty := fun o : Nat => ({ obj := o } : Beam)
  let odd := init % 2 = 1
  let s := modGen s g.loom fun _ => {
    woven := true, weave := k, front := odd
    beam0 := if odd then empty g.beam0 else full g.beam0
    beam1 := if odd then full g.beam1 else empty g.beam1 }
  let s := putHeader s g.loom (if odd then g.beam1 else g.beam0) init 0
  objWrite s (getLoom s g.loom) (if odd then g.beam0 else g.beam1) 0 (List.replicate 64 0)

/-- A bobbin of a fresh weave, with its header (Table 11-8). -/
def freshBobbin (k init base : Nat) (s : State) (b : BobbinEntry) : State :=
  let a := base + b.off
  let n := s.bobbins.length
  let s := wrData s a (toLe 8 0 ++ toLe 8 0 ++ toLe 4 init ++ toLe 4 (b.nrec + b.loom * 2 ^ 24) ++ List.replicate 40 0)
  { s with bobbins := tput s.bobbins n { weave := k, loom := b.loom, addr := a, nrec := b.nrec } }

/-- Set a weave in force (R348): any weave of that number is dissolved first. -/
def setWeave (s : State) (p : WeavePlan) (src : List SrcEntry) : State :=
  let k := p.weave
  let init := p.w.initPick
  let s := if (tfind s.weaves k).isSome then dissolve s k else s
  let s := { s with weaves := tput s.weaves k { p.w with src, pick := init } }
  let s := p.w.gens.foldl (fun s g => freshGen s k init g) s
  let base := (objAddr (getLoom s p.w.learner) p.w.creel 0).getD 0
  p.bobbins.foldl (freshBobbin k init base) s

/-- SHED_WEAVE: PERMISSION, NOT_STOPPED, BAD_COMMAND and FULL in that order; whole or not at all (R347). -/
def shedWeave (s : State) (sess : Nat) (f : WeaveF) : Except Byte (State × List Byte) :=
  let p := weavePlan s f
  let old := match tfind s.weaves p.weave with
    | some w => weaveLooms w
    | none => []
  let named := (if p.learnerGiven then [p.w.learner] else []) ++ p.w.gens.map (·.loom) ++ p.bobbins.map (·.loom) ++ old
  if !named.all (loomOwned s sess) then .error stPerm
  else if named.any fun l => (getLoom s l).st ≠ .stopped then .error stNotStopped
  else
    match weaveCheck s p with
    | none => .error stBad
    | some src =>
      if 256 < (s.bobbins.filter fun kv => kv.2.weave ≠ p.weave).length + p.bobbins.length then .error stFull
      else .ok (setWeave s p src, [])

def execShedWeave (session ring : Nat) (s : State) : Host.Outcome State Fault Refusal :=
  .next <| alive s fun s => cmdRun s session ring fun t => match t.body with
    | .shedWeave f => shedWeave s session f
    | _ => .error stBad

/-- SHED_UNWEAVE: every loom of the weave belongs to the session and is STOPPED (R349). -/
def execShedUnweave (session ring : Nat) (s : State) : Host.Outcome State Fault Refusal :=
  .next <| alive s fun s => cmdRun s session ring fun t => match t.body with
    | .shedUnweave k =>
      match tfind s.weaves k with
      | none => .error stBad
      | some w =>
        if !(weaveLooms w).all (loomOwned s session) then .error stPerm
        else if (weaveLooms w).any fun l => (getLoom s l).st ≠ .stopped then .error stNotStopped
        else .ok (dissolve s k, [])
    | _ => .error stBad

/-! ## The copy of a pick -/

/-- PICK_WAIT: a publication that waited for a pinned back beam starts once none is pinned (Table 11-5). -/
def execPickWait (k : Nat) (s : State) : Host.Outcome State Fault Refusal :=
  .next <| alive s fun s => if (getWeave s k).pub = .waiting && !backPinned s (getWeave s k) then startPick s k else s

/-- A block is its shuttle's next: the blocks before it there are copied, or it was raised by a held write (R357, R358). -/
def blockTurn (s : State) (k b : Nat) : Bool :=
  let w := getWeave s k
  let t := (loomTiles (getLoom s w.learner)).length
  (s.heldWrites.any fun h => h.weave = k && h.block = b)
    || (List.range b).all fun c => t = 0 || c % t ≠ b % t || w.copied.contains c

/-- Writes that were held go on once the block under them is copied: complete groups of ordered additions, and accesses the row
agents hold. The others are retried. -/
def resumeHeld (s : State) (l : Nat) : State := serveAll (applyReady s l) l

/-- SOURCE_BLOCK_COPY: a shuttle takes its next block at level 4, once its tile has no working-copy conversion to begin, or a
held write's at level 1 (R96, R357, R358). -/
def copyBlock (s : State) (k b : Nat) : State :=
  let w := getWeave s k
  let ts := loomTiles (getLoom s w.learner)
  let raised := s.heldWrites.any fun h => h.weave = k && h.block = b
  if w.pub ≠ .copying || w.copied.contains b || !blockTurn s k b then s
  else if !raised && !(readyConversions s (ts.getD (b % max 1 ts.length) 0)).isEmpty then s
  else resumeHeld (takeBlock s k b) w.learner

def execSourceBlockCopy (k b : Nat) (s : State) : Host.Outcome State Fault Refusal := .next (alive s fun s => copyBlock s k b)

/-- PICK_COPIED: every block is copied and every image has landed: the headers are written, the beams are FULL (R351,
R355). -/
def pickCopied (s : State) (k : Nat) : State :=
  let w := getWeave s k
  if w.pub ≠ .copying || w.copied.length < blockCount w then s
  else
    let s := w.taking.foldl (fun s g =>
      modGen (putHeader s g (getLoom s g).shed.backBeam.obj w.pick w.pubStep) g fun y => y.modBack fun b => { b with st := .full }) s
    pubIdle (raiseEvt s .shed 1 (some w.learner)) k

def execPickCopied (k : Nat) (s : State) : Host.Outcome State Fault Refusal := .next (alive s fun s => pickCopied s k)

end Sys2Proof.Machine
end

