-- ==== Sys2Proof/Machine/Telemetry.lean ====
section
/-! DEFINITION. The performance counters with their chains, overflows, samples and dumps (R400 to R414), and the timebase with
its PPS alignment (R415 to R419, R485). -/
namespace Sys2Proof.Machine

/-! ## Settings (Table 13-12) -/

def cfgEvent (c : W64) : Nat := bits c.toNat 7 0
def cfgMode (c : W64) : Nat := bits c.toNat 9 8
def cfgChain (c : W64) : Bool := c.getLsbD 10
def cfgSample (c : W64) : Bool := c.getLsbD 11
def cfgThresh (c : W64) : Nat := bits c.toNat 31 16
def cfgPeriod (c : W64) : Nat := bits c.toNat 63 32

/-- A setting of counter n that TLM_CONFIG may give a tile (R405, R413). -/
def cntCfgOk (ring : Bool) (n : Nat) (c : W64) : Bool :=
  bits c.toNat 15 12 = 0 && cfgEvent c < 0x10 && !(n = 0 && cfgChain c) && !(cfgChain c && cfgSample c)
    && (!cfgSample c || (ring && cfgPeriod c ≠ 0))

/-- The fields carried, the others as they were (R473). -/
def tlmFields (v : TlmLoom) (f : TlmConfigF) : TlmLoom :=
  { v with
    cfg := f.cnt.foldl (fun t kv => tset 0 t kv.1 kv.2) v.cfg
    strandMask := f.strandMask.getD v.strandMask
    dump := f.dump.getD v.dump, dumpNrec := f.dumpNrec.getD v.dumpNrec, dumpPeriod := f.dumpPeriod.getD v.dumpPeriod
    sample := f.sample.getD v.sample, sampleNrec := f.sampleNrec.getD v.sampleNrec, sampleWm := f.sampleWm.getD v.sampleWm }

/-- The bytes of a loom dump record. -/
def dumpBytes (x : Loom) : Nat := 64 + 64 * ((loomTiles x).length + x.bays.length)

/-- R413: a field carried, or one of a ring in use, lies in its range; the rings hold their records; the counters' settings
are allowed. -/
def tlmOk (x : Loom) (v : TlmLoom) (f : TlmConfigF) : Bool :=
  let dumpOn := v.dump ≠ 0
  let sampleOn := v.sample ≠ 0
  (!(dumpOn || f.dumpNrec.isSome) || (2 ≤ v.dumpNrec && v.dumpNrec ≤ 65536))
    && 100 ≤ v.dumpPeriod && v.dumpPeriod ≤ 100000000
    && (!(sampleOn || f.sampleNrec.isSome) || (16 ≤ v.sampleNrec && v.sampleNrec ≤ 2 ^ 24))
    && (!(sampleOn || f.sampleWm.isSome) || (1 ≤ v.sampleWm && v.sampleWm ≤ v.sampleNrec))
    && (!dumpOn || stackTensor x v.dump (v.dumpNrec * dumpBytes x))
    && (!sampleOn || stackTensor x v.sample (v.sampleNrec * 32))
    && (List.range 8).all fun n => cntCfgOk sampleOn n (tget 0 v.cfg n)

/-- The preload of a sampling counter (R410). -/
def preload (c : W64) : Nat := 2 ^ 48 - cfgPeriod c

/-- TLM_CONFIG: values and overflow state are cleared, sampling counters start from their preload, both rings start again. -/
def tlmConfig (s : State) (l : Nat) (f : TlmConfigF) : Except Byte (State × List Byte) :=
  let x := getLoom s l
  let v := tlmFields x.tlm f
  if !tlmOk x v f then .error stBad
  else
    let start : List (Nat × Nat) := ((List.range 8).filter fun n => cfgSample (tget 0 v.cfg n)).map fun n => (n, preload (tget 0 v.cfg n))
    let totals : Table Nat := (loomTiles x).foldl (fun t tile => start.foldl (fun t nv => tput t (tile * 256 + nv.1) nv.2) t) []
    let s := setLoom s l { x with tlm := { v with totals, dumpSeq := 0, dumpMissed := 0, sampleSeq := 0, sampleLost := 0, sinceEvent := 0 } }
    let s := (loomTiles x).foldl (fun s t =>
      if (loomOfTile s t).getD l = l && (tfind s.tiles t).isSome then
        modTile s t fun u => { u with cnt := [], ovf := 0, ovfCnt := [], sample := none }
      else s) s
    .ok (s, [])

def execTlmConfig (session ring : Nat) (s : State) : Host.Outcome State Fault Refusal :=
  .next <| alive s fun s => cfgRun s session ring fun t => match t.body with
    | .tlmConfig f => tlmConfig s t.loom f
    | _ => .error stBad

/-! ## Counting (R403 to R408, R410, R411) -/

/-- The largest value of each tile event in a cycle (Table 13-2). -/
def tileEventMax : List Nat := [0, 1, 2, 2, 4, 1, 32, 512, 512, 64, 1024, 16, 4, 512, 512, 1]
/-- The tile events of strands (Table 13-2). -/
def tileEventS : List Nat := [2, 3, 8, 11]
/-- The largest value of each die event in a cycle (Table 13-3). -/
def dieEventMax : List Nat := [0, 1, 128, 128, 4096, 64, 64, 1024, 1024, 16, 256, 24, 24, 64]
/-- An event exists on a die block: 4 to 8 and 13 on compute dies, 11 and 12 on I/O dies (Table 13-3). -/
def dieEventHere (block e : Nat) : Bool :=
  e < 14 && (if block < 40 then e ≠ 11 && e ≠ 12 else e < 4 || 9 ≤ e && e < 13)

/-- What an event presents: NONE 0, CYCLES 1. -/
def eventValue (e v : Nat) : Nat := if e = 0 then 0 else if e = 1 then 1 else v

/-- The amount of Table 13-1. -/
def modeAmount (c : W64) (v prev : Nat) : Nat :=
  let n := cfgThresh c
  match cfgMode c with
  | 0 => v
  | 1 => if n < v then 1 else 0
  | 2 => if v ≤ n then 1 else 0
  | _ => if n < v && prev ≤ n then 1 else 0

/-- The value of a tile counter for a loom: its total with the live count (R408). -/
def tileCount (s : State) (x : Loom) (tile n : Nat) : Nat :=
  (tget 0 x.tlm.totals (tile * 256 + n) + if x.holder then tget 0 (getTile s tile).cnt n else 0) % 2 ^ 48

/-- Make a tile counter of the holder read a value. -/
def putTileCount (s : State) (x : Loom) (tile n v : Nat) : State :=
  let tot := tget 0 x.tlm.totals (tile * 256 + n)
  modTile s tile fun u => { u with cnt := tset 0 u.cnt n ((v + 2 ^ 48 - tot % 2 ^ 48) % 2 ^ 48) }

/-- A tile counter adds an amount; a carry chains, samples, or overflows (R405, R410). -/
def addTile (l tile : Nat) (strand : Option Nat) : Nat → Nat → Nat → State → State
  | 0, _, _, s => s
  | fuel + 1, n, amt, s =>
    let x := getLoom s l
    let cfg := fun k => tget 0 x.tlm.cfg k
    let v := tileCount s x tile n + amt
    if v < 2 ^ 48 then putTileCount s x tile n v
    else
      let chained := n < 7 && cfgChain (cfg (n + 1))
      let up := fun s => if chained then addTile l tile strand fuel (n + 1) 1 s else s
      if cfgSample (cfg n) then
        let s := putTileCount s x tile n (preload (cfg n))
        up (match (getTile s tile).sample with
          | some _ => modLoom s l fun x => { x with tlm := { x.tlm with sampleLost := satAdd 0xFFFFFFFF x.tlm.sampleLost 1 } }
          | none => modTile s tile fun u => { u with sample := some { counter := n, strand } })
      else
        let s := putTileCount s x tile n (v - 2 ^ 48)
        if chained then up s
        else
          raiseEvt (modTile s tile fun u => { u with
            ovf := u.ovf ||| BitVec.ofNat 8 (2 ^ n), ovfCnt := tput u.ovfCnt n (satAdd 0xFFFF (tget 0 u.ovfCnt n) 1) })
            .tlm 6 (some l) tile

def getBlock (s : State) (b : Nat) : DieBlock := tget {} s.tlm.blocks b
def modBlock (s : State) (b : Nat) (f : DieBlock → DieBlock) : State := modTlm s fun t => { t with blocks := tmod {} t.blocks b f }

/-- A die counter adds an amount; a carry chains or overflows (R405). -/
def addDie (b : Nat) : Nat → Nat → Nat → State → State
  | 0, _, _, s => s
  | fuel + 1, n, amt, s =>
    let x := getBlock s b
    let v := tget 0 x.cnt n + amt
    let s := modBlock s b fun x => { x with cnt := tset 0 x.cnt n (v % 2 ^ 48) }
    if v < 2 ^ 48 then s
    else if n < 31 && cfgChain (tget 0 x.cfg (n + 1)) then addDie b fuel (n + 1) 1 s
    else
      raiseEvt (modBlock s b fun x => { x with
        ovf := x.ovf ||| BitVec.ofNat 32 (2 ^ n), ovfCnt := tput x.ovfCnt n (satAdd 0xFFFF (tget 0 x.ovfCnt n) 1) }) .tlm 6 none b

/-- The largest value a tile event presents to a loom's counter: an event of strands counts those of STRAND_MASK only (R404),
each with at most 2 instructions, 32 operations or 1 stall in a cycle. -/
def tileEventTop (mask : BitVec 16) (e : Nat) : Nat :=
  let n := ((List.range 16).filter fun i => mask.getLsbD i).length
  let top := tileEventMax.getD e 0
  if tileEventS.contains e then min top (n * if e = 8 then 32 else if e = 11 then 1 else 2) else top

/-- A value an event can present to a tile counter. -/
def tileValueOk (mask : BitVec 16) (c : W64) (v prev : Nat) : Bool :=
  v ≤ tileEventTop mask (cfgEvent c) && prev ≤ tileEventTop mask (cfgEvent c)

/-- CNT_OVF: a counter counts one cycle, in which its event presents v after prev. -/
def cntOvf (s : State) (c : CounterId) (v prev : Nat) : State :=
  match c with
  | .tile tile n =>
    match loomOfTile s tile with
    | none => s
    | some l =>
      let cfg := tget 0 (getLoom s l).tlm.cfg n
      if 8 ≤ n || cfgChain cfg || cfgSample cfg || !tileValueOk (getLoom s l).tlm.strandMask cfg v prev then s
      else
        let e := cfgEvent cfg
        addTile l tile none 8 n (modeAmount cfg (eventValue e v) (eventValue e prev)) s
  | .die b n =>
    let cfg := tget 0 (getBlock s b).cfg n
    let e := cfgEvent cfg
    let here := dieEventHere b e
    let top := if here then dieEventMax.getD e 0 else 0
    if !s.tlm.run || 32 ≤ n || 40 + Config.ioDies s.variant ≤ b || cfgChain cfg || top < v || top < prev then s
    else addDie b 32 n (modeAmount cfg (eventValue e v) (eventValue e prev)) s

def execCntOvf (c : CounterId) (v prev : Nat) (s : State) : Host.Outcome State Fault Refusal := .next (alive s fun s => cntOvf s c v prev)

/-- SAMPLE_OVERFLOW: a sampling counter counts one cycle; strand is the one its event belongs to, if any. -/
def sampleOverflow (s : State) (tile n : Nat) (strand : Option Nat) (v prev : Nat) : State :=
  match loomOfTile s tile with
  | none => s
  | some l =>
    let x := getLoom s l
    let cfg := tget 0 x.tlm.cfg n
    let e := cfgEvent cfg
    let strandOk := match strand with
      | some k => decide (k < 16) && (!tileEventS.contains e || x.tlm.strandMask.getLsbD k)
      | none => !tileEventS.contains e
    if 8 ≤ n || !cfgSample cfg || !strandOk || !tileValueOk x.tlm.strandMask cfg v prev then s
    else addTile l tile strand 8 n (modeAmount cfg (eventValue e v) (eventValue e prev)) s

def execSampleOverflow (tile n : Nat) (strand : Option Nat) (v prev : Nat) (s : State) : Host.Outcome State Fault Refusal :=
  .next (alive s fun s => sampleOverflow s tile n strand v prev)

/-- The words of a sample record but its number (Table 13-6). -/
def sampleBytes (s : State) (x : Loom) (tile strand counter n : Nat) (insn : W64) (pc : Nat) : List Byte :=
  toLe 8 s.tlm.timebase.toNat ++ toLe 8 insn.toNat ++ toLe 4 (tile + strand * 2 ^ 13 + counter * 2 ^ 17) ++ toLe 4 pc
    ++ toLe 4 ((x.cmd.map fun c => c.e.cmdId.toNat).getD 0) ++ toLe 4 n

/-- Each SAMPLE_WM records send one TLM_SAMPLE event record; which bit number it holds the manual does not say (R412). -/
def sampleEvent (s : State) (l tile : Nat) : State :=
  let x := getLoom s l
  if x.tlm.sampleWm ≤ x.tlm.sinceEvent then
    let (k, s) := drawFree s 1
    let s := modLoom s l fun x => { x with tlm := { x.tlm with sinceEvent := 0 } }
    sendEvt s { src := Src.tlm.code, bit := Config.freeNat k % 256, loom := some l, unit := tile, time := s.tlm.timebase
                detail := x.tlm.sampleSeq }
  else s

/-- SAMPLE_RECORD: the strand of the pending sample is about to issue the instruction of its PC. -/
def sampleRecord (s : State) (tile strand : Nat) (insn : W64) : State :=
  match canIssue s { tile, strand }, (getTile s tile).sample with
  | some l, some p =>
    let x := getLoom s l
    let pc := (getStrand s { tile, strand }).pc.toNat
    if p.strand.getD strand ≠ strand || x.program[pc]? ≠ some insn || x.tlm.sample = 0 then s
    else
      let n := x.tlm.sampleSeq + 1
      let s := objWrite s x x.tlm.sample (n % x.tlm.sampleNrec * 32) (sampleBytes s x tile strand p.counter n insn pc)
      let s := modTile s tile fun u => { u with sample := none }
      sampleEvent (modLoom s l fun x => { x with tlm := { x.tlm with sampleSeq := n, sinceEvent := x.tlm.sinceEvent + 1 } }) l tile
  | _, _ => s

def execSampleRecord (tile strand : Nat) (insn : W64) (s : State) : Host.Outcome State Fault Refusal :=
  .next (alive s fun s => sampleRecord s tile strand insn)

/-! ## Phase timers (R414) and dumps (R409) -/

/-- The phase timers of a bay advance: by how much the model, which counts no cycles, leaves free. -/
def advancePhase (s : State) (bay : Nat) : State :=
  (List.range 6).foldl (fun s c =>
    let (k, s) := drawFree s 1
    modTlm s fun t => { t with phase := tset 0 t.phase (bay * 8 + c) ((tget 0 t.phase (bay * 8 + c) + Config.freeNat k) % 2 ^ 48) }) s

/-- The 7 words of TLM_PHASE of a bay. -/
def phaseWord (s : State) (bay c : Nat) : Nat :=
  if c < 6 then tget 0 s.tlm.phase (bay * 8 + c) else (tget 0 s.tlm.lastColl bay).toNat % 2 ^ 48

/-- A counter word of a dump record: the value, and OVF in bit 48. -/
def counterWord (v : Nat) (ovf : Bool) : List Byte := toLe 8 (v + if ovf then 2 ^ 48 else 0)

/-- A dump record (Table 13-5). -/
def dumpRecord (s : State) (seq kind loom : Nat) (away : Bool) (units bays missed : Nat) (body : List Byte) : List Byte :=
  toLe 8 seq ++ toLe 8 s.tlm.timebase.toNat ++ toLe 4 (kind + loom * 2 ^ 4 + if away then 2 ^ 9 else 0) ++ toLe 2 units
    ++ toLe 2 bays ++ toLe 4 missed ++ toLe 4 (64 + body.length) ++ List.replicate 32 0 ++ body

/-- The body of a loom's record: its tiles in rank order, then its bays in ascending order. -/
def loomDumpBody (s : State) (x : Loom) : List Byte :=
  ((loomTiles x).flatMap fun t => (List.range 8).flatMap fun n => counterWord (tileCount s x t n) ((getTile s t).ovf.getLsbD n))
    ++ ((List.range 320).filter fun b => x.bays.contains b).flatMap fun b =>
      ((List.range 7).flatMap fun c => toLe 8 (phaseWord s b c)) ++ toLe 8 0

/-- The body of the module's record. -/
def moduleDumpBody (s : State) : List Byte :=
  (List.range (40 + Config.ioDies s.variant)).flatMap fun b =>
    (List.range 32).flatMap fun n => counterWord (tget 0 (getBlock s b).cnt n) ((getBlock s b).ovf.getLsbD n)

/-- A snapshot of a loom's counters, or a skipped one. -/
def loomSnapshot (s : State) (l : Nat) (busy : Bool) : State :=
  let x := getLoom s l
  let v := x.tlm
  if x.st = .free || v.dump = 0 || s.tlm.timebase.toNat % v.dumpPeriod ≠ 0 then s
  else if busy then
    raiseEvt (setLoom s l { x with tlm := { v with dumpMissed := satAdd 0xFFFFFFFF v.dumpMissed 1 } }) .tlm 7 (some l)
  else
    let s := x.bays.foldl advancePhase s
    let n := v.dumpSeq + 1
    let rec_ := dumpRecord s n 1 l (!x.holder) (loomTiles x).length x.bays.length v.dumpMissed (loomDumpBody s x)
    let s := objWrite s x v.dump (n % v.dumpNrec * dumpBytes x) rec_
    modLoom s l fun x => { x with tlm := { x.tlm with dumpSeq := n } }

/-- A snapshot of the die blocks for the telemetry owner. -/
def moduleSnapshot (s : State) (busy : Bool) : State :=
  let t := s.tlm
  if !t.run || t.period = 0 || t.nrec = 0 || !t.ownerValid || !(getSession s t.owner).opened || t.timebase.toNat % t.period ≠ 0 then s
  else if busy then raiseEvt (modTlm s fun t => { t with dumpMissed := satAdd 0xFFFFFFFF t.dumpMissed 1 }) .tlm 7
  else
    let n := t.dumpSeq + 1
    let rec_ := dumpRecord s n 2 0 false (40 + Config.ioDies s.variant) 0 t.dumpMissed (moduleDumpBody s)
    modTlm (hostWr s (t.dumpAddr.toNat + n % t.nrec * rec_.length) rec_) fun t => { t with dumpSeq := n }

/-- DUMP_SNAPSHOT: of a loom or of the module; busy says that the record before it is still being written. -/
def execDumpSnapshot (loom : Option Nat) (busy : Bool) (s : State) : Host.Outcome State Fault Refusal :=
  .next <| alive s fun s => match loom with
    | some l => loomSnapshot s l busy
    | none => moduleSnapshot s busy

/-! ## The telemetry owner (R402) -/

/-- A function is the telemetry owner's. -/
def tlmOwner (s : State) (w : Accessor) : Bool := s.tlm.ownerValid && sessOf s w = some s.tlm.owner

/-- CFG_REJECT. -/
def cfgReject (s : State) : State := raiseEvt s .tlm 8

/-- What TLM_MOD_CTRL holds of the module dump (Table 13-11): PERIOD, NREC and RUN. -/
def modCtrl (t : Telemetry) : W64 := BitVec.ofNat 64 (t.period % 2 ^ 32 * 2 ^ 32 + t.nrec % 2 ^ 16 * 2 ^ 16 + if t.run then 32 else 0)

/-- A write of TLM_MOD_CTRL by the owner: RUN always, PERIOD and NREC only while RUN is 0. -/
def modCtrlWrite (s : State) (value : Nat) : State :=
  let t := s.tlm
  let run := value.testBit 5
  let p := bits value 63 32
  let n := bits value 31 16
  if t.run then
    let s := modTlm s fun t => { t with run }
    if p ≠ t.period || n ≠ t.nrec then cfgReject s else s
  else
    let p := if p = 0 || (100 ≤ p && p ≤ 100000000) then p else t.period
    modTlm s fun t =>
      if run then { t with run, period := p, nrec := n, dumpSeq := 0, dumpMissed := 0 } else { t with period := p, nrec := n }

/-- TLM_RUN. -/
def execTlmRun (who : Accessor) (value : W64) (s : State) : Host.Outcome State Fault Refusal :=
  .next <| alive s fun s => if tlmOwner s who then modCtrlWrite s value.toNat else if (sessOf s who).isSome then cfgReject s else s

/-- The die block and counter whose configuration lies at a BAR0 offset (Table 13-9). -/
def dieCfgAt (v : Variant) (off : Nat) : Option (Nat × Nat) :=
  let o := off % 0x01000000
  if 0x10000000 ≤ off && off < 0x10000000 + 40 * 0x01000000 && 0x00890100 ≤ o && o < 0x00890200 && o % 8 = 0 then
    some ((off - 0x10000000) / 0x01000000, (o - 0x00890100) / 8)
  else if 0x00901000 ≤ off && off < 0x00901000 + Config.ioDies v * 0x200 && (off - 0x00901000) % 0x200 < 0x100 && off % 8 = 0 then
    some (40 + (off - 0x00901000) / 0x200, (off - 0x00901000) % 0x200 / 8)
  else none

/-- The fields of a die block's setting that a write reaches: THRESH, CHAIN, MODE and EVENT. -/
def dieCfgMask : W64 := 0x00000000FFFF07FF

/-- TLM_DIE_CFG_WRITE. -/
def dieCfgWrite (s : State) (w : Accessor) (off : Nat) (value : W64) : State :=
  match dieCfgAt s.variant off with
  | none => s
  | some (b, n) =>
    if (sessOf s w).isNone then s
    else if !tlmOwner s w || s.tlm.run || (n = 0 && cfgChain value) then cfgReject s
    else modBlock s b fun x => { x with cfg := tset 0 x.cfg n (value &&& dieCfgMask) }

def execTlmDieCfgWrite (who : Accessor) (off : Nat) (value : W64) (s : State) : Host.Outcome State Fault Refusal :=
  .next (alive s fun s => dieCfgWrite s who off value)

/-- TELEMETRY_OWNER_SET. -/
def execTelemetryOwnerSet (session : Option Nat) (s : State) : Host.Outcome State Fault Refusal :=
  .next <| alive s fun s => consoleRun s fun s => match session with
    | none => modTlm s fun t => { t with ownerValid := false, owner := 0 }
    | some n => if n < 16 then modTlm s fun t => { t with ownerValid := true, owner := n } else s

/-! ## PPS and the timebase (R415 to R419) -/

/-- A free rate correction within 1,000 ppm, in parts per billion (R415). -/
def freeRate (s : State) : Int × State :=
  let (k, s) := drawFree s 1
  ((Config.freeNat k % 2000001 : Nat) - (1000000 : Int), s)

/-- The timebase at an accepted edge: SECONDS when one waits and is not below it, else one step forward at a first edge that
finds it more than 1 ms behind (R416). -/
def edgeStep (s : State) (first : Bool) (errNs : Int) : State :=
  match s.tlm.seconds with
  | some n =>
    let dest := n.toNat * 100000000
    let s := modTlm s fun t => { t with seconds := none }
    if dest < s.tlm.timebase.toNat || 2 ^ 64 ≤ dest then raiseEvt s .tlm 5
    else modTlm s fun t => { t with timebase := BitVec.ofNat 64 dest }
  | none =>
    if first && 1000000 < errNs then
      raiseEvt (modTlm s fun t => { t with timebase := t.timebase + BitVec.ofNat 64 (errNs.toNat / 10) }) .tlm 4
    else s

/-- ERR_NS of an edge: 16 signed bits; an error they do not hold leaves it free. -/
def errShown (s : State) (errNs : Int) : Int × State :=
  if -32768 ≤ errNs && errNs ≤ 32767 then (errNs, s)
  else
    let (k, s) := drawFree s 1
    ((Config.freeNat k % 65536 : Nat) - (32768 : Int), s)

/-- An accepted edge: the error is positive when the timebase lags. -/
def edgeAccepted (s : State) (first : Bool) (errNs : Int) : State :=
  let restored := s.tlm.holdover
  let s := edgeStep s first errNs
  let (rate, s) := freeRate s
  let (shown, s) := errShown s errNs
  let good := if -20 ≤ errNs && errNs ≤ 20 then s.tlm.goodEdges + 1 else 0
  let s := modTlm s fun t => { t with
    haveEdge := true, errNs := shown, goodEdges := good, aligned := decide (8 ≤ good), holdover := false, ratePpb := rate }
  if restored then raiseEvt s .tlm 3 else s

/-- PPS_EDGE: an edge sinceNs after the last accepted one (R417). -/
def ppsEdge (s : State) (errNs : Int) (sinceNs : Nat) : State :=
  if !s.tlm.pps then s
  else if !s.tlm.haveEdge then edgeAccepted s true errNs
  else if 999000000 ≤ sinceNs && sinceNs ≤ 1001000000 then edgeAccepted s false errNs
  else modTlm s fun t => { t with rejects := satAdd 0xFFFF t.rejects 1 }

def execPpsEdge (errNs : Int) (sinceNs : Nat) (s : State) : Host.Outcome State Fault Refusal := .next (alive s fun s => ppsEdge s errNs sinceNs)

/-- The input is lost: holdover with the rate correction last in force (R418). -/
def losePps (s : State) : State :=
  if !s.tlm.pps || s.tlm.holdover then s
  else raiseEvt (modTlm s fun t => { t with holdover := true, haveEdge := false, goodEdges := 0, aligned := false }) .tlm 2

def execPpsLost (s : State) : Host.Outcome State Fault Refusal := .next (alive s fun s => losePps s)

def execPpsShort (s : State) : Host.Outcome State Fault Refusal :=
  .next <| alive s fun s => if s.tlm.shortSeen then s else losePps (raiseEvt (modTlm s fun t => { t with shortSeen := true }) .tlm 0)

def execPpsOpen (s : State) : Host.Outcome State Fault Refusal :=
  .next <| alive s fun s => if s.tlm.openSeen then s else losePps (raiseEvt (modTlm s fun t => { t with openSeen := true }) .tlm 1)

/-- PPS_FAULT_CLEAR: the condition has been absent for 1 s. -/
def execPpsFaultClear (open_ : Bool) (s : State) : Host.Outcome State Fault Refusal :=
  .next (alive s fun s => modTlm s fun t => if open_ then { t with openSeen := false } else { t with shortSeen := false })

/-- PPS_INVERT. -/
def execPpsInvert (s : State) : Host.Outcome State Fault Refusal :=
  .next (alive s fun s => modTlm s fun t => { t with inverted := !t.inverted })

/-- TIMEBASE_SET: the fields given, all or none; SECONDS below the timebase is refused (R416). Enabling PPS waits for a first
edge; FREE ends every correction. -/
def timebaseSet (s : State) (mode : Option Bool) (offsetNs : Option Int) (seconds : Option W64) : State :=
  let off := offsetNs.getD s.tlm.offsetNs
  if off < -32768 || 32767 < off then s
  else
    let s := modTlm s fun t => { t with offsetNs := off }
    let s := match mode with
      | some m => if m = s.tlm.pps then s else modTlm s fun t => { t with
          pps := m, haveEdge := false, goodEdges := 0, aligned := false, holdover := false, ratePpb := 0 }
      | none => s
    match seconds with
    | some n => if n.toNat * 100000000 < s.tlm.timebase.toNat || 2 ^ 64 ≤ n.toNat * 100000000 then raiseEvt s .tlm 5
        else modTlm s fun t => { t with seconds := some n }
    | none => s

def execTimebaseSet (mode : Option Bool) (offsetNs : Option Int) (seconds : Option W64) (s : State) :
    Host.Outcome State Fault Refusal :=
  .next (alive s fun s => consoleRun s fun s => timebaseSet s mode offsetNs seconds)

/-- One tick of the 100 MHz timebase (R415): by one, or, while a rate correction is in force, by 0, 1 or 2. -/
def tick (s : State) : State :=
  if s.tlm.ratePpb = 0 then modTlm s fun t => { t with timebase := t.timebase + 1 }
  else
    let (k, s) := drawFree s 1
    modTlm s fun t => { t with timebase := t.timebase + BitVec.ofNat 64 (Config.freeNat k % 3) }

end Sys2Proof.Machine
end

