-- ==== Sys2Proof/Machine/RegView.lean ====
section
/-! DEFINITION. What every register of BAR0 reads, by the register tables of chapters 5 to 13 and 15, and whose each register
is (R167, R168, R457). A register whose value is kept elsewhere in the state is composed here; the others stand in the
register file. -/
namespace Sys2Proof.Machine

/-- Whose a register is (R457): the module's, the accessing function's (HIF below 0x100) or its session's (HIF from 0x1000),
or that of a loom, bay, request entry, weave, bobbin, shared semaphore or session. -/
inductive Scope where
  | module | function | own
  | loom (l : Nat) | bay (b : Nat) | entry (e : Nat) | weave (k : Nat) | bobbin (b : Nat) | sem (n : Nat) | session (n : Nat)
  deriving DecidableEq, Repr

/-- Pack fields, each its high bit, its low bit and its value. -/
def pk (fs : List (Nat × Nat × Nat)) : Nat := (fs.map fun f => f.2.2 % 2 ^ (f.1 + 1 - f.2.1) * 2 ^ f.2.1).sum

/-- A truth value as a bit. -/
def b1 (b : Bool) : Nat := if b then 1 else 0

/-- The index of an offset in an array of registers. -/
def arr (off base stride n : Nat) : Option Nat :=
  if base ≤ off && (off - base) % stride = 0 && (off - base) / stride < n then some ((off - base) / stride) else none

/-- The first array of a list that an offset lies in, with what its register reads. -/
def firstArr (off : Nat) : List (Nat × Nat × Nat × (Nat → Scope × Nat)) → Option (Scope × Nat)
  | [] => none
  | (base, stride, n, f) :: r => match arr off base stride n with
    | some i => some (f i)
    | none => firstArr off r

/-- A register of the register file. -/
def filed (s : State) (off : Nat) : Nat := (getReg s off).toNat

/-- Registers of the module that stand in the register file. -/
def filedAt (s : State) (base : Nat) (offs : List Nat) : List (Nat × Nat × Nat × (Nat → Scope × Nat)) :=
  offs.map fun o => (base + o, 8, 1, fun _ => (Scope.module, filed s (base + o)))

/-- One register of the module. -/
def one (off v : Nat) : Nat × Nat × Nat × (Nat → Scope × Nat) := (off, 8, 1, fun _ => (Scope.module, v))

/-- A signed number in 16 bits. -/
def int16 (i : Int) : Nat := (BitVec.ofInt 16 i).toNat

/-! ## SVC (Tables 15-14 to 15-17) -/

def svcRegs (s : State) : List (Nat × Nat × Nat × (Nat → Scope × Nat)) :=
  let v := s.svc
  let img := runningImage s
  [ one 0x00 Config.serialLo.toNat, one 0x08 Config.serialHi.toNat
  , one 0x10 (pk [(47, 32, Config.stepping.toNat), (31, 24, 1), (23, 16, 0x28), (15, 8, Config.stackNum s.variant), (7, 0, Config.ioDies s.variant)])
  , one 0x18 ((img.map imgVer).getD 0)
  , one 0x20 (pk [(47, 40, (img.map imgSvn).getD 0), (39, 32, v.svnMin), (23, 23, b1 v.testMode), (22, 22, b1 s.console.locked),
      (18, 18, b1 v.imageB), (17, 17, b1 v.fallback), (16, 16, b1 (v.mg0 != v.mg1)), (8, 8, b1 v.active),
      (1, 0, match v.st with | .boot => 0 | .recovery => 1 | .starting => 2 | .ready => 3)]) ]
  ++ filedAt s 0 [0x28, 0x30, 0x38, 0x40]

/-! ## HIF (Tables 15-9 to 15-13) -/

/-- The registers of a function's session registers (Table 15-10). -/
def fnReg (s : State) (w : Accessor) (off : Nat) : Nat :=
  let f := getFn s w
  match off with
  | 0x00 => pk [(7, 4, f.slot)]
  | 0x08 =>
    let n := f.session.getD 0
    pk [(63, 52, if f.session.isSome then (getSession s n).sgen.toNat else 0), (51, 48, n), (47, 40, f.lastStatus.toNat),
      (39, 32, (getSlot s f.slot).fails), (1, 0, if f.session.isSome then 2 else b1 f.challenge.isSome)]
  | 0x10 => f.nonce.toNat % 2 ^ 64
  | 0x18 => f.nonce.toNat / 2 ^ 64 % 2 ^ 64
  | 0x20 => f.nonce.toNat / 2 ^ 128 % 2 ^ 64
  | 0x28 => f.nonce.toNat / 2 ^ 192
  | 0x50 => f.ctl.toNat
  | 0x58 => f.cpl.toNat
  | _ => 0

/-- The ring pointers of a session (Table 15-13). -/
def ringRegs (s : State) (w : Accessor) : List (Nat × Nat × Nat × (Nat → Scope × Nat)) :=
  match sessOf s w with
  | none => []
  | some n =>
    let x := getSession s n
    let cmd := fun k => tget {} x.cmd k
    [ (0x101000, 16, 64, fun k => (Scope.own, (cmd k).tail.toNat)), (0x101008, 16, 64, fun k => (Scope.own, (cmd k).head.toNat))
    , (0x102000, 8, 16, fun c => (Scope.own, (tget {} x.cpl c).head.toNat))
    , (0x102100, 8, 1, fun _ => (Scope.own, match x.evt with
        | some r => pk [(63, 48, r.lost), (15, 0, r.head.toNat)]
        | none => 0)) ]

def hifRegs (s : State) (w : Accessor) : List (Nat × Nat × Nat × (Nat → Scope × Nat)) :=
  [ (0x100000, 8, 12, fun k => (Scope.function, fnReg s w (k * 8))) ]
  ++ filedAt s 0x100000 [0x100, 0x108]
  ++ [ (0x100110, 8, Config.ioDies s.variant, fun io =>
        let p := getPortOf s io
        (Scope.module, pk [(39, 32, p.vfs), (23, 16, p.width), (11, 8, p.rate), (1, 1, b1 p.flit), (0, 0, b1 p.up)]))
     , (0x100200, 8, 16, fun n =>
        let x := getSession s n
        (Scope.session n, pk [(63, 63, b1 x.opened), (62, 62, b1 x.admin), (61, 58, x.slot), (57, 55, x.io), (54, 50, x.fn),
          (49, 38, x.sgen.toNat), (37, 32, x.loomQuota), (31, 23, x.bayQuota)])) ]
  ++ ringRegs s w

/-! ## LMGR (Tables 7-7 to 7-18) -/

def lmgrStatus (s : State) (l : Nat) : Nat :=
  let x := getLoom s l
  pk [(56, 48, x.bays.length), (47, 40, if x.st = .free then 0xFF else (coResident s l).headD l), (39, 36, x.session),
    (31, 24, x.lastStatus.toNat), (19, 19, b1 x.holder), (18, 18, b1 (tileResident x)), (17, 17, b1 x.heldByHost),
    (16, 16, b1 (x.preempt.isSome && holdsUnits s l)), (3, 0, x.st.code)]

def lmgrRegs (s : State) : List (Nat × Nat × Nat × (Nat → Scope × Nat)) :=
  let x := getLoom s
  let at_ := fun (o : Nat) (f : Nat → Nat) => (0x200100 + o, 0x40, 32, fun l => (Scope.loom l, f l))
  [ one 0x200000 (pk [(63, 48, creditTotal), (47, 36, 1024), (35, 24, 256), (23, 16, 32), (15, 4, 320)])
  , one 0x200008 (pk [(47, 32, creditTotal - creditsInUse s), (8, 0, ((List.range 320).filter (bayFree s)).length)]) ]
  ++ filedAt s 0x200000 [0x10, 0x18]
  ++ [ at_ 0x00 (lmgrStatus s)
     , at_ 0x08 fun l => pk [(63, 48, (x l).credits), (47, 32, (x l).grace), (31, 16, (x l).softWait), (4, 4, b1 (x l).stepClass), (2, 0, (x l).priority)]
     , at_ 0x10 fun l => (x l).seed.toNat
     , at_ 0x18 fun l => pk [(63, 32, (x l).hardCnt), (31, 0, (x l).softCnt)]
     , at_ 0x20 fun l => pk [(47, 32, (x l).graceUs), (31, 16, (x l).saveUs), (15, 0, (x l).restoreUs)]
     , at_ 0x28 fun l => (x l).fault.insn.toNat
     , at_ 0x30 fun l => let f := (x l).fault
        pk [(63, 63, b1 f.valid), (62, 62, b1 f.overrun), (55, 48, f.status.toNat), (44, 32, f.tile), (31, 28, f.strand), (14, 0, f.pc)]
     , at_ 0x38 fun l => pk [(63, 32, (x l).lastCmdId.toNat), (31, 0, (x l).doneCnt.toNat)]
     , (0x201000, 8, 1024, fun n => (Scope.sem n, match tfind s.ssems (0x800 + n) with
        | some q => pk [(63, 63, 1), (51, 48, q.owner), (47, 32, q.mask.toNat), (31, 0, q.count.toNat)]
        | none => 0)) ]

/-! ## PLC (Tables 6-10 to 6-14) -/

def plcRegs (s : State) : List (Nat × Nat × Nat × (Nat → Scope × Nat)) :=
  let at_ := fun (o : Nat) (f : Loom → Nat) => (0x300100 + o, 0x20, 32, fun l => (Scope.loom l, f (getLoom s l)))
  [ one 0x300000 (pk [(32, 32, b1 s.svc.testMode)]
      + ((List.range 32).map fun l => if (getLoom s l).map.any (·.forced) then 2 ^ l else 0).sum) ]
  ++ [ one 0x300008 (s.migNext.getD (getReg s 0x00300008)).toNat
     , at_ 0x00 fun x => x.gen % 2 ^ 32, at_ 0x08 fun x => x.hotHits % 2 ^ 48, at_ 0x10 fun x => x.hotMisses % 2 ^ 48
     , at_ 0x18 fun x => x.handoffs % 2 ^ 48 ]

/-! ## SHED (Tables 11-11 to 11-24) -/

def BeamState.code : BeamState → Nat
  | .empty => 0 | .filling => 1 | .full => 2

def weaveStatus (w : Weave) : Nat :=
  pk [(63, 63, 1), (62, 62, b1 w.shared), (61, 61, b1 w.flipEpisode), (60, 60, b1 w.skip), (59, 59, b1 w.exhausted),
    (58, 57, if w.shared then match w.shed with | .stopped => 0 | .gen => 1 | .learn => 2 else 0), (52, 48, w.learner)]
  + ((List.range 32).map fun l => if w.gens.any (fun g => g.loom = l) then 2 ^ l else 0).sum

def shedRegs (s : State) : List (Nat × Nat × Nat × (Nat → Scope × Nat)) :=
  let wv := fun (o : Nat) (f : Weave → Nat) => (0x400100 + o, 0x40, 8, fun k => (Scope.weave k, ((tfind s.weaves k).map f).getD 0))
  let gen := fun (o : Nat) (f : GenLoom → Nat) => (0x400400 + o, 0x20, 32, fun l => (Scope.loom l, f (getLoom s l).shed))
  let bob := fun (o : Nat) (f : Bobbin → Nat) => (0x401000 + o, 0x10, 256, fun b => (Scope.bobbin b, ((tfind s.bobbins b).map f).getD 0))
  let held := fun (o : Nat) => (0x400100 + o, 0x40, 8, fun k => (Scope.weave k, filed s (shedReg k o)))
  [ one 0x400000 (pk [(63, 56, 8), (55, 48, 16), (47, 32, 256), (31, 16, 64)]) ]
  ++ filedAt s 0x400000 [0x08, 0x10]
  ++ [ one 0x400018 (pk [(40, 32, s.bobbins.length), (3, 0, s.weaves.length)])
     , wv 0x00 weaveStatus
     , wv 0x08 fun w => pk [(63, 56, w.lastPub.toNat), (49, 48, match w.pub with | .idle => 0 | .copying => 1 | .waiting => 2), (31, 0, w.pick)]
     , wv 0x10 fun w => pk [(52, 32, (w.src.map entryBlocks).sum), (20, 0, w.copied.length)]
     , wv 0x18 fun w => pk [(63, 32, w.skipped), (31, 0, w.abandoned)]
     , held 0x20, held 0x28
     , gen 0x00 fun g => pk [(63, 32, g.beam1.pick), (31, 0, g.beam0.pick)]
     , gen 0x08 fun g => pk [(47, 32, min 0xFFFF g.beam1.pins), (31, 16, min 0xFFFF g.beam0.pins), (15, 15, b1 g.woven), (8, 8, b1 g.front),
          (7, 4, g.beam1.st.code), (3, 0, g.beam0.st.code)]
     , gen 0x10 fun g => pk [(63, 32, g.missed), (31, 0, g.flips)]
     , bob 0x00 fun b => pk [(63, 63, 1), (55, 53, b.weave), (52, 48, b.loom), (47, 24, b.nrec), (23, 0, b.free)]
     , bob 0x08 fun b => pk [(63, 32, b.stale), (31, 0, b.waits)] ]

/-! ## SRV (Tables 10-9 to 10-17) -/

def ReqState.code : ReqState → Nat
  | .free => 0 | .queued => 1 | .prefill => 2 | .decode => 3 | .ringWait => 4 | .ended => 5

def srvRegs (s : State) : List (Nat × Nat × Nat × (Nat → Scope × Nat)) :=
  let at_ := fun (o : Nat) (f : SrvLoom → Nat) => (0x500100 + o, 0x40, 32, fun l => (Scope.loom l, f (getLoom s l).srv))
  let cnt := fun (o : Nat) => (0x500100 + o, 0x40, 32, fun l => (Scope.loom l, filed s (srvReg l o)))
  [ one 0x500000 (pk [(63, 48, reqEntries), (47, 40, 64), (39, 32, 7), (31, 16, 1024), (15, 0, 4096)]) ]
  ++ filedAt s 0x500000 [0x08, 0x10]
  ++ [ one 0x500018 s.evseq.toNat
     , one 0x500020 (pk [(46, 32, reqEntries - ((liveLooms s).map fun l => (getLoom s l).srv.quota).sum),
          (14, 0, (s.reqs.filter fun kv => kv.2.st ≠ .free).length)])
     , at_ 0x00 fun v => pk [(63, 63, b1 v.bound), (58, 56, v.specDepth), (42, 32, v.maxRows), (14, 0, v.quota)]
     , (0x500108, 0x40, 32, fun l => (Scope.loom l, pk [(46, 32, (reqsOf s l).length), (31, 0, (getLoom s l).srv.fullCnt)]))
     , cnt 0x10, cnt 0x18, cnt 0x20, cnt 0x28
     , at_ 0x30 fun v => pk [(63, 32, v.misses), (31, 0, v.hits)]
     , at_ 0x38 fun v => v.lastStep.toNat
     , (0x510000, 8, reqEntries, fun e => (Scope.entry e, pk [(31, 16, (getReq s e).gen.toNat), (15, 0, (getReq s e).cons)]))
     , (0x530000, 8, reqEntries, fun e => let r := getReq s e
        (Scope.entry e, pk [(63, 48, r.gen.toNat), (42, 38, if r.st = .free then 0 else r.loom % 32), (32, 32, b1 r.pfxHit),
          (31, 16, r.produced), (15, 8, r.endStatus.toNat), (3, 0, r.st.code)])) ]

/-! ## LRN (Tables 9-10 to 9-18) -/

def lrnRegs (s : State) : List (Nat × Nat × Nat × (Nat → Scope × Nat)) :=
  let at_ := fun (o : Nat) (f : LrnLoom → Nat) => (0x600100 + o, 0x40, 32, fun l => (Scope.loom l, f (getLoom s l).lrn))
  let cnt := fun (o : Nat) => (0x600100 + o, 0x40, 32, fun l => (Scope.loom l, filed s (lrnReg l o)))
  [ one 0x600000 (pk [(63, 48, 4096), (47, 32, 1024), (31, 24, 64), (23, 16, 64)]) ]
  ++ filedAt s 0x600000 [0x08, 0x10]
  ++ [ at_ 0x00 fun v => v.step.toNat
     , at_ 0x08 fun v => pk [(63, 48, v.stepComm), (46, 40, v.buckets), (32, 32, b1 v.clipOn), (31, 0, v.clipMax.toNat)]
     , at_ 0x10 fun v => pk [(38, 32, v.watched.length), (12, 0, v.ngroups)]
     , cnt 0x18, cnt 0x20, cnt 0x28, cnt 0x30, cnt 0x38 ]

/-! ## COLL and LINK (Tables 8-7 to 8-21) -/

def collRegs (s : State) : List (Nat × Nat × Nat × (Nat → Scope × Nat)) :=
  let at_ := fun (o : Nat) (f : Nat → Loom → Nat) => (0x700400 + o, 0x20, 32, fun l => (Scope.loom l, f l (getLoom s l)))
  let inService := (List.range 160).filter fun a => (getReg s (adderReg (a / 4))).getLsbD (a % 4)
  let pass := inService.map fun a => (tget 0 s.adders.lastPass a).toNat
  [ one 0x700000 (pk [(63, 48, 160), (47, 32, 4096), (31, 16, 1024)]) ]
  ++ filedAt s 0x700000 [0x08, 0x10, 0x20, 0x28, 0x30, 0x38]
  ++ [ one 0x700018 ((pass.min?).getD 0)
     , (0x700100, 8, 40, fun d => (Scope.module, filed s (adderReg d)))
     , at_ 0x00 fun _ x => x.jobId.toNat, at_ 0x08 fun _ x => x.box.toNat
     , at_ 0x10 fun l x => pk [(40, 40, b1 (x.newModes.isSome && (x.installHold || !installDone s l))), (31, 0,
          if !x.installHold && installDone s l then (x.newModes.getD x.modes).toNat else x.modes.toNat)]
     , at_ 0x18 fun _ x => x.drops % 2 ^ 48 ]

def linkRegs (s : State) : List (Nat × Nat × Nat × (Nat → Scope × Nat)) :=
  filedAt s 0x708000 [0x00, 0x08, 0x10, 0x18, 0x20]
  ++ [ (0x708100, 0x10, 6, fun d => (Scope.module, pk [(47, 32, 25 * lanesUp s d), (31, 24, lanesUp s d),
          (23, 16, Config.lanesPerDir s.variant), (3, 0, (getLink s d).st)]))
     , (0x708108, 0x10, 6, fun d => (Scope.module, filed s (dirReplayReg d)))
     , (0x708200, 0x10, Config.ioDies s.variant, fun io => (Scope.module, filed s (laneReg io)))
     , (0x708208, 0x10, Config.ioDies s.variant, fun io => (Scope.module, filed s (laneReg io + 8))) ]

/-! ## PWR (Tables 12-5 to 12-16) -/

def InputState.code : InputState → Nat
  | .good => 0 | .lost => 1 | .short => 2 | .reversed => 3 | .overvolt => 4

def inputWord (x : Input) : Nat :=
  pk [(63, 48, x.v10mv), (47, 32, x.i100ma), (7, 7, b1 x.senseLocal), (6, 6, b1 x.carrying), (3, 0, x.st.code)]

/-- Microseconds a reason has been binding: those ended, and those of now. -/
def thrUs (s : State) (r : Nat) : Nat :=
  let now := match tfind s.power.thrSince r with
    | some t => (s.tlm.timebase - t).toNat
    | none => 0
  (tget 0 s.power.thrTime r + now) / 100 % 2 ^ 48

def pwrRegs (s : State) : List (Nat × Nat × Nat × (Nat → Scope × Nat)) :=
  let p := s.power
  [ one 0x800000 (pk [(63, 48, 15000), (47, 32, 3000), (31, 24, 50), (23, 16, 16), (15, 8, 8)]) ]
  ++ filedAt s 0x800000 [0x08, 0x10]
  ++ [ one 0x800018 (pk [(15, 0, p.cap)])
     , one 0x800020 (pk [(48, 48, b1 p.singleLimit), (47, 32, int16 p.borrowed), (15, 0, p.inForce)])
     , one 0x800028 (pk [(31, 20, p.borrowMax), (3, 3, b1 p.uniform), (2, 2, b1 p.autoReturn), (1, 0, b1 p.share)])
     , one 0x800030 (inputWord p.a), one 0x800038 (inputWord p.b)
     , one 0x800040 (pk [(63, 48, p.corr / 2 ^ 22), (47, 32, p.rawEstimate), (31, 16, p.measured), (0, 0, b1 p.diverged)])
     , one 0x800048 (pk [(63, 32, p.refLoss), (1, 1, b1 p.holdover), (0, 0, b1 p.locked)])
     , one 0x800050 (pk [(63, 32, p.episodes.toNat), (4, 0, p.episodes.toNat % 32)])
     , (0x800100, 8, 8, fun r => (Scope.module, thrUs s r))
     , (0x800200, 16, 32, fun n => (Scope.module, (tget 0 p.log0 n).toNat))
     , (0x800208, 16, 32, fun n => (Scope.module, (tget 0 p.log1 n).toNat))
     , (0x800400, 8, 32, fun l => (Scope.loom l, tget 64 p.hostTreadle l)) ]

/-! ## TLM (Tables 13-9 to 13-17) -/

def tlmRegs (s : State) : List (Nat × Nat × Nat × (Nat → Scope × Nat)) :=
  let t := s.tlm
  let blk := fun (o : Nat) (f : DieBlock → Nat → Nat) =>
    (List.range (Config.ioDies s.variant)).map fun io => (0x901000 + o + io * 0x200, 8, 32, fun n => (Scope.module, f (getBlock s (40 + io)) n))
  let at_ := fun (o : Nat) (f : TlmLoom → Nat) => (0x900100 + o, 0x10, 32, fun l => (Scope.loom l, f (getLoom s l).tlm))
  [ one 0x900000 (pk [(63, 56, 8), (55, 48, 32), (47, 40, 48), (39, 32, 16)]) ]
  ++ filedAt s 0x900000 [0x08, 0x10]
  ++ [ one 0x900018 t.timebase.toNat
     , one 0x900020 (pk [(31, 16, int16 t.offsetNs), (0, 0, b1 t.pps)])
     , one 0x900028 (pk [(63, 48, t.rejects), (47, 32, int16 t.errNs), (5, 5, b1 t.inverted), (4, 4, b1 t.openSeen), (3, 3, b1 t.shortSeen),
          (2, 2, b1 t.holdover), (1, 1, b1 t.aligned), (0, 0, b1 t.haveEdge)])
     , one 0x900030 (pk [(63, 32, t.period), (31, 16, t.nrec), (5, 5, b1 t.run), (4, 4, b1 t.ownerValid), (3, 0, t.owner)])
     , one 0x900038 t.dumpAddr.toNat
     , one 0x900040 (pk [(63, 32, t.dumpMissed), (31, 0, t.dumpSeq)])
     , at_ 0x00 fun v => pk [(63, 32, v.dumpMissed), (31, 0, v.dumpSeq)]
     , at_ 0x08 fun v => pk [(63, 32, v.sampleLost), (31, 0, v.sampleSeq)] ]
  ++ blk 0 (fun b n => (tget 0 b.cfg n).toNat) ++ blk 0x100 (fun b n => tget 0 b.cnt n)

/-! ## MEM and FAB (Tables 5-10 to 5-18, 6-6 to 6-9) -/

/-- The status of a stack without its temperature (Table 5-17): its site and the die of that site. -/
def stackStatus (s : State) (n : Nat) : Nat :=
  let site := (Config.stackSites s.variant).getD n 0
  pk [(31, 24, site), (23, 16, Config.siteDie site)] + filed s (stkReg n 0) % 256

def memRegs (s : State) : List (Nat × Nat × Nat × (Nat → Scope × Nat)) :=
  let n := Config.stackNum s.variant
  let cnt := fun (o : Nat) => (0xA00100 + o, 0x20, n, fun k => (Scope.module, filed s (stkReg k o)))
  [ one 0xA00000 (pk [(47, 40, n), (39, 32, Config.ioDies s.variant), (31, 16, Config.memGiB s.variant), (15, 8, 12)]) ]
  ++ filedAt s 0xA00000 [0x08, 0x10, 0x18, 0x20, 0x28, 0x30, 0x40, 0x48]
  ++ [ (0xA00100, 0x20, n, fun k => (Scope.module, stackStatus s k)), cnt 8, cnt 0x10, cnt 0x18
     , (0xA00400, 8, 32, fun l => (Scope.loom l, pk [(63, 40, (heldBytes (getLoom s l) + 1023) / 1024), (31, 0, (getLoom s l).parkFull)])) ]

def fabRegs (s : State) : List (Nat × Nat × Nat × (Nat → Scope × Nat)) :=
  filedAt s 0xB00000 [0x00, 0x08, 0x10, 0x18]
  ++ [ (0xB00100, 16, 67, fun e => (Scope.module, filed s (edgeStatusReg e))), (0xB00108, 16, 67, fun e => (Scope.module, filed s (edgeStatusReg e + 8))) ]

/-! ## Die windows (R168): die-level registers and per-tile registers -/

/-- The registers of a die at offset o of its window. -/
def dieRegs (s : State) (d o : Nat) : Option (Scope × Nat) :=
  let x := getDie s d
  let blk := getBlock s d
  let w := 0x10000000 + d * 0x01000000
  firstArr o
    [ one 0x880000 (pk [(63, 56, x.tempC), (47, 32, x.vset), (23, 16, x.binding.toNat), (6, 0, x.treadle)])
    , one 0x880008 (pk [(47, 32, x.estimate / 100), (31, 16, x.budget / 100)])
    , (0x880010, 8, 4, fun k => (Scope.module, pk ((List.range 4).map fun i => (16 * i + 15, 16 * i, vminOf d (4 * k + i)))))
    , one 0x890000 (blk.ovf.toNat * 2 ^ 32)
    , (0x890100, 8, 32, fun n => (Scope.module, (tget 0 blk.cfg n).toNat))
    , (0x890200, 8, 32, fun n => (Scope.module, tget 0 blk.cnt n))
    , (0x890300, 8, 32, fun n => (Scope.module, tget 0 blk.ovfCnt n))
    , (0x890400, 8, 64, fun k => (Scope.bay (d * 8 + k / 8), if k % 8 < 7 then phaseWord s (d * 8 + k / 8) (k % 8) else 0))
    , (0x8A0000, 8, 16, fun k => (Scope.module, filed s (w + 0x8A0000 + k * 8)))
    , (0x8B0000, 8, 16, fun r => (Scope.module, filed s (w + 0x8B0000 + r * 8))) ]

/-- The loom whose counters a session reads at a tile: the owner of the tile, else its own loom of the bay set. -/
def tileLoom (s : State) (sess : Option Nat) (tile : Nat) : Nat :=
  let mine := fun l => decide (sess = some (getLoom s l).session) && (getLoom s l).bays.contains (bayOf tile)
  match ownerOfTile s tile with
  | some l => if mine l then l else ((liveLooms s).find? mine).getD l
  | none => ((liveLooms s).find? mine).getD 0

/-- The registers of a tile at offset o of its window (Table 13-9). -/
def tileRegs (s : State) (w : Accessor) (tile o : Nat) : Option (Scope × Nat) :=
  let x := getLoom s (tileLoom s (sessOf s w) tile)
  let u := getTile s tile
  firstArr o
    [ (0x9000, 8, 1, fun _ => (Scope.bay (bayOf tile), u.ovf.toNat * 2 ^ 32))
    , (0x9008, 8, 8, fun n => (Scope.bay (bayOf tile), tileCount s x tile n))
    , (0x9048, 8, 8, fun n => (Scope.bay (bayOf tile), (tget 0 x.tlm.cfg n).toNat))
    , (0x9088, 8, 8, fun n => (Scope.bay (bayOf tile), tget 0 u.ovfCnt n)) ]

/-! ## The register space (Table 5-2) -/

/-- The register at an aligned offset of BAR0 as a function reads it; none where no register is (R13). -/
def regAt (s : State) (w : Accessor) (off : Nat) : Option (Scope × Nat) :=
  if 0x10000000 ≤ off then
    if 0x38000000 ≤ off then none
    else
      let o := off % 0x01000000
      let d := (off - 0x10000000) / 0x01000000
      if o < 0x800000 then tileRegs s w (d * 128 + o / 0x10000) (o % 0x10000) else dieRegs s d o
  else
    match off / 0x100000 with
    | 0 => firstArr off (svcRegs s)
    | 1 => firstArr off (hifRegs s w)
    | 2 => firstArr off (lmgrRegs s)
    | 3 => firstArr off (plcRegs s)
    | 4 => firstArr off (shedRegs s)
    | 5 => firstArr off (srvRegs s)
    | 6 => firstArr off (lrnRegs s)
    | 7 => firstArr off (collRegs s ++ linkRegs s)
    | 8 => firstArr off (pwrRegs s)
    | 9 => firstArr off (tlmRegs s)
    | 10 => firstArr off (memRegs s)
    | 11 => firstArr off (fabRegs s)
    | _ => none

/-! ## Who reads and writes what (R450, R457) -/

/-- The session that owns the unit of a register; none for a unit of no session. -/
def scopeOwner (s : State) (sess : Option Nat) : Scope → Option Nat
  | .loom l => if (getLoom s l).st = .free then none else some (getLoom s l).session
  | .bay b => ((liveLooms s).find? fun l => (getLoom s l).bays.contains b).map fun l => match sess with
    | some n => if (liveLooms s).any (fun k => (getLoom s k).bays.contains b && (getLoom s k).session = n) then n else (getLoom s l).session
    | none => (getLoom s l).session
  | .entry e => if (getReq s e).st = .free || 32 ≤ (getReq s e).loom then none else some (getLoom s (getReq s e).loom).session
  | .weave k => (tfind s.weaves k).map fun w => (getLoom s w.learner).session
  | .bobbin b => (tfind s.bobbins b).map fun x => (getLoom s x.loom).session
  | .sem n => (tfind s.ssems (0x800 + n)).map fun q => match sess with
    | some k => if q.mask.getLsbD k then k else q.owner
    | none => q.owner
  | .session n => if (getSession s n).opened then some n else none
  | .module | .function | .own => sess

/-- The entry of a free request slot keeps its generation (R457). -/
def entryGenWord (s : State) (e off : Nat) : Nat :=
  if off < 0x530000 then pk [(31, 16, (getReq s e).gen.toNat)] else pk [(63, 48, (getReq s e).gen.toNat)]

/-- What a function reads at an aligned offset (R13, R450, R457). -/
def readReg (s : State) (w : Accessor) (off : Nat) : Nat :=
  match regAt s w off with
  | none => 0
  | some (sc, v) =>
    let sess := sessOf s w
    match sc with
    | .module | .function | .own => v
    | _ =>
      match sess, scopeOwner s sess sc with
      | none, _ => 0
      | some n, some m =>
        let seen := match sc with
          | .session _ => n = m || (getSession s n).admin
          | _ => n = m
        if seen then v else 0
      | some _, none => match sc with
        | .entry e => entryGenWord s e off
        | _ => ((regAt { State.reset with variant := s.variant } w off).map (·.2)).getD 0

/-- A function's BAR0 answers: its port is up and enables it, and a management die works (R425, R449). -/
def barReady (s : State) (w : Accessor) : Bool :=
  !s.svc.dark && w.io < Config.ioDies s.variant && w.fn ≤ (getPortOf s w.io).vfs && (getPortOf s w.io).up

end Sys2Proof.Machine
end

