-- ==== Sys2Proof/Machine/Regs.lean ====
section
/-! DEFINITION. Accesses to BAR0 (R11 to R17, R167, R457): RC_REGISTER_READ, REGISTER_WRITE for the registers without a
command of their own, and the writes that clear counters. -/
namespace Sys2Proof.Machine

/-! ## Reads -/

/-- An access the module accepts (R12): 32 or 64 bits, aligned to its own size, inside BAR0. -/
def accessOk (off width : Nat) : Bool := (width = 4 || width = 8) && off % width = 0 && off < 2 ^ 30

/-- A read of an RC field clears it (Table 0-4): a loom's hot-row counts and drops, and its serving counts; a weave's holds. -/
def clearRc (s : State) (off : Nat) : State :=
  match arr off 0x300108 0x20 32, arr off 0x300110 0x20 32, arr off 0x300118 0x20 32, arr off 0x700418 0x20 32 with
  | some l, _, _, _ => modLoom s l fun x => { x with hotHits := 0 }
  | _, some l, _, _ => modLoom s l fun x => { x with hotMisses := 0 }
  | _, _, some l, _ => modLoom s l fun x => { x with handoffs := 0 }
  | _, _, _, some l => modLoom s l fun x => { x with drops := 0 }
  | none, none, none, none =>
    let srv := [0x10, 0x18, 0x20, 0x28].any fun o => (arr off (0x500100 + o) 0x40 32).isSome
    let shed := [0x20, 0x28].any fun o => (arr off (0x400100 + o) 0x40 8).isSome
    if srv || shed then setReg s off 0 else s

/-- A function may clear what it reads: the register's unit is its own session's. -/
def ownsReg (s : State) (w : Accessor) (off : Nat) : Bool :=
  match regAt s w off, sessOf s w with
  | some (sc, _), some n => scopeOwner s (some n) sc = some n
  | _, _ => false

/-- The temperature a stack's status carries, which nothing in the manual fixes (Table 5-17). -/
def stackTemp (s : State) (off : Nat) : Nat × State :=
  if (arr off 0xA00100 0x20 (Config.stackNum s.variant)).isSome && s.svc.st = .ready then
    let (k, s) := drawFree s 1
    (Config.freeNat k % 256 * 2 ^ 40, s)
  else (0, s)

/-- Read a register: 32 bits are the addressed half, and either half clears an RC field. A bad access reads 0 and clears
nothing. -/
def regRead (s : State) (w : Accessor) (off width : Nat) : State :=
  if !barReady s w then s
  else if !accessOk off width then { s with reply := [0] }
  else
    let at_ := off / 8 * 8
    let (temp, s) := stackTemp s at_
    let v := readReg s w at_ + temp
    let shown := if width = 8 then v else bits v (8 * (off % 8) + 31) (8 * (off % 8))
    let s := if ownsReg s w at_ then clearRc s at_ else s
    { s with reply := [BitVec.ofNat 64 shown] }

/-- RC_REGISTER_READ. -/
def execRcRegisterRead (who : Accessor) (off width : Nat) (s : State) : Host.Outcome State Fault Refusal :=
  .next (regRead s who off width)

/-! ## Writes -/

/-- What a write carries: the bits it addresses and their values, in place (R12). -/
structure RegWrite where
  mask : W64
  val : W64
  deriving DecidableEq, Repr

def regWriteOf (off width : Nat) (value : W64) : RegWrite :=
  if width = 8 then { mask := BitVec.allOnes 64, val := value }
  else
    let m : W64 := BitVec.ofNat 64 ((2 ^ 32 - 1) * 2 ^ (8 * (off % 8)))
    { mask := m, val := (value <<< (8 * (off % 8))) &&& m }

/-- A register whose fields f are RW (Table 0-4). -/
def rwApply (old f : W64) (w : RegWrite) : W64 := (old &&& ~~~(w.mask &&& f)) ||| (w.val &&& w.mask &&& f)
/-- A register whose fields f are W1C. -/
def w1cApply (old f : W64) (w : RegWrite) : W64 := old &&& ~~~(w.val &&& w.mask &&& f)

/-- The event bits of each source, with its status register (the EVT and ERR registers of every block). -/
def evtMask : Src → W64
  | .mem => 0x1FF | .fab => 0x1F | .lmgr => 0x7F | .coll => 0x1FF | .link => 0x1F | .lrn => 0x3F | .srv => 0xFF | .shed => 0x7FF
  | .pwr => 0x3FFF | .tlm => 0x1FF | .svc => 0xFF | .hif => 0x3F

def allSrc : List Src := [.mem, .fab, .lmgr, .coll, .link, .lrn, .srv, .shed, .pwr, .tlm, .svc, .hif]

/-- The module's logs, whose last word holds VALID and OVERRUN. -/
def logRegs : List Nat := [0x00A00028, 0x00B00018, 0x00708020, 0x00700030, 0x00000040]
def validOverrun : W64 := 0xC000000000000000

/-- MEM_SCRUB_CTRL (Table 5-14): a period out of range leaves the field. -/
def scrubValue (old new : W64) : W64 :=
  let p := bits new.toNat 11 0
  if 1 ≤ p && p ≤ 3600 then new else (new &&& ~~~(0xFFF : W64)) ||| (old &&& 0xFFF)

/-- A write to a register of the module, by an ADMIN session. -/
def moduleWrite (s : State) (off : Nat) (w : RegWrite) : State :=
  match allSrc.find? (fun x => x.status = off), allSrc.find? (fun x => x.status + 8 = off) with
  | some x, _ => setReg s off (w1cApply (getReg s off) (evtMask x) w)
  | none, some x => setReg s off (rwApply (getReg s off) (evtMask x) w)
  | none, none =>
    if logRegs.contains off then setReg s off (w1cApply (getReg s off) validOverrun w)
    else if off = 0x00A00030 then setReg s off (scrubValue (getReg s off) (rwApply (getReg s off) 0x80000FFF w))
    else s

/-- A write to a register of a loom or one of its tiles, by the session that owns it. -/
def loomWrite (s : State) (off : Nat) (w : RegWrite) : State :=
  let clr := fun i => (w.val &&& w.mask).getLsbD i
  match arr off 0x200130 0x40 32, arr off 0x600130 0x40 32 with
  | some l, _ => modLoom s l fun x =>
      { x with fault := { x.fault with valid := x.fault.valid && !clr 63, overrun := x.fault.overrun && !clr 62 } }
  | none, some _ => setReg s off (w1cApply (getReg s off) validOverrun w)
  | none, none =>
    if 0x10000000 ≤ off && off % 0x01000000 < 0x800000 && off % 0x10000 = 0x9000 then
      modTile s ((off - 0x10000000) / 0x01000000 * 128 + off % 0x01000000 / 0x10000) fun u =>
        { u with ovf := u.ovf &&& ~~~((w.val &&& w.mask) >>> 32).setWidth 8 }
    else s

/-- A write to a register that belongs to the telemetry owner (R402, R457): TLM_MOD_DUMP_ADDR while RUN is 0, either half of
TLM_MOD_CTRL, and the overflow bits of a die block. -/
def tlmWrite (s : State) (who : Accessor) (off : Nat) (w : RegWrite) : State :=
  if off = 0x00900038 then
    if !tlmOwner s who || s.tlm.run then cfgReject s
    else modTlm s fun t => { t with dumpAddr := rwApply t.dumpAddr (BitVec.allOnes 64) w }
  else if off = 0x00900030 then
    if tlmOwner s who then modCtrlWrite s (rwApply (modCtrl s.tlm) (BitVec.allOnes 64) w).toNat else cfgReject s
  else if tlmOwner s who then
    modBlock s ((off - 0x10000000) / 0x01000000) fun b => { b with ovf := b.ovf &&& ~~~((w.val &&& w.mask) >>> 32).setWidth 32 }
  else s

/-- A register of the telemetry owner without a command of its own. -/
def tlmOwned (off : Nat) : Bool :=
  off = 0x00900038 || off = 0x00900030 || (0x10000000 ≤ off && off < 0x38000000 && off % 0x01000000 = 0x890000)

/-- The base and size of a ring in HIF_SESS_CTL_RING and HIF_SESS_CPL_RING. -/
def ringFields : W64 := 0xFFFFFFFFFFFFF01F

/-- Put a 64-bit word into a 256-bit value. -/
def putWord (x : BitVec 256) (k : Nat) (w : RegWrite) : BitVec 256 :=
  let old : W64 := (x >>> (64 * k)).setWidth 64
  (x &&& ~~~((0xFFFFFFFFFFFFFFFF : BitVec 256) <<< (64 * k))) ||| ((rwApply old (BitVec.allOnes 64) w).setWidth 256 <<< (64 * k))

/-- A write to the accessing function's own session registers (Table 15-10); an OP has a command of its own. -/
def fnWrite (s : State) (who : Accessor) (o : Nat) (w : RegWrite) : State :=
  let f := getFn s who
  if o = 0 then
    let op := bits (w.val &&& w.mask).toNat 3 0
    if w.mask.getLsbD 0 && !(1 ≤ op && op ≤ 3) then setFn s who { f with slot := bits w.val.toNat 7 4 } else s
  else
    match arr o 0x30 8 4 with
    | some k => setFn s who { f with mac := putWord f.mac k w }
    | none =>
      if o = 0x50 then setFn s who { f with ctl := rwApply f.ctl ringFields w }
      else if o = 0x58 then setFn s who { f with cpl := rwApply f.cpl ringFields w }
      else s

/-- REGISTER_WRITE: a write to a register without a command of its own. A PF writes nothing (R450); a function without a
session only its session registers (R457). -/
def regWrite (s : State) (who : Accessor) (off width : Nat) (value : W64) : State :=
  if !barReady s who || who.fn = 0 || !accessOk off width then s
  else
    let at_ := off / 8 * 8
    let w := regWriteOf off width value
    match regAt s who at_ with
    | none => s
    | some (.function, _) => if fnReady s who then fnWrite s who (at_ - 0x100000) w else s
    | some (.module, _) =>
      if (sessOf s who).isNone then s
      else if tlmOwned at_ then tlmWrite s who at_ w
      else if adminOf s who then moduleWrite s at_ w else s
    | some (.loom _, _) | some (.bay _, _) => if ownsReg s who at_ then loomWrite s at_ w else s
    | _ => s

def execRegisterWrite (who : Accessor) (off width : Nat) (value : W64) (s : State) : Host.Outcome State Fault Refusal :=
  .next (regWrite s who off width value)

/-! ## Writes that clear counters -/

/-- Set registers to 0, for an ADMIN session (R457). -/
def clearCounters (s : State) (who : Accessor) (offs : List Nat) : State :=
  if barReady s who && adminOf s who then offs.foldl (fun s o => setReg s o 0) s else s

/-- CLEAR_STK: every MEM_STK_CE_CNT, MEM_STK_UE_CNT and MEM_STK_REPLAY_CNT (Table 5-15). -/
def execClearStk (who : Accessor) (s : State) : Host.Outcome State Fault Refusal :=
  .next <| clearCounters s who ((List.range (Config.stackNum s.variant)).flatMap fun n => [stkReg n 8, stkReg n 0x10, stkReg n 0x18])

/-- CLEAR_TS: both tile-store totals and every per-bay counter (Table 5-15). -/
def execClearTs (who : Accessor) (s : State) : Host.Outcome State Fault Refusal :=
  .next <| clearCounters s who (0x00A00040 :: 0x00A00048 :: (List.range 320).flatMap fun b => [bayMemReg b 0, bayMemReg b 8])

/-- FAB_CNT_CLEAR: every replay counter of an edge and of a router. -/
def execFabCntClear (who : Accessor) (s : State) : Host.Outcome State Fault Refusal :=
  .next <| clearCounters s who (((List.range 67).map fun e => edgeStatusReg e + 8)
    ++ (List.range 640).map fun r => 0x10000000 + r / 16 * 0x01000000 + 0x008B0000 + r % 16 * 8)

/-- COLL_CNT_CLEAR: COLL_REPLAY_CNT and every COLL_LOOM_DROPS. -/
def execCollCntClear (who : Accessor) (s : State) : Host.Outcome State Fault Refusal :=
  .next <| if barReady s who && adminOf s who then
      (liveLooms s).foldl (fun s l => modLoom s l fun x => { x with drops := 0 }) (setReg s 0x00700038 0)
    else s

/-- LINK_CNT_CLEAR: every LINK_DIR_REPLAY_CNT and LINK_FEC_UE_CNT. -/
def execLinkCntClear (who : Accessor) (s : State) : Host.Outcome State Fault Refusal :=
  .next <| clearCounters s who (((List.range 6).map dirReplayReg) ++ (List.range (Config.ioDies s.variant)).map fun io => laneReg io + 8)

end Sys2Proof.Machine
end

