-- ==== Sys2Proof/Machine/Reliab.lean ====
section
/-! DEFINITION. The service processor's care of the module (R424 to R431): failover, self-test, retired bays and advisories;
and checkpoints and restores (R432 to R443). -/
namespace Sys2Proof.Machine

/-! ## Management dies (R424, R425) -/

/-- SVC_FAILOVER: the partner takes over, and the failed die stays out of service. -/
def execSvcFailover (s : State) : Host.Outcome State Fault Refusal :=
  .next <| alive s fun s => if s.svc.dark || !s.svc.mg0 || !s.svc.mg1 then s
    else
      let s := modSvc s fun v => { v with
        mg0 := v.active, mg1 := !v.active, active := !v.active, failoverSeen := true }
      noteCause (raiseEvt s .svc 1) 0x08 0 1 true

/-- MANAGEMENT_LOSS: compute dies stop issuing, links stop, and the alert is asserted; the module does nothing more. -/
def execManagementLoss (s : State) : Host.Outcome State Fault Refusal :=
  .next <| alive s fun s => if s.svc.dark || (s.svc.mg0 && s.svc.mg1) then s
    else
      let s := modSvc s fun v => { v with mg0 := false, mg1 := false, dark := true, alert := true }
      (List.range 6).foldl (fun s d => if (getLink s d).st = 1 || (getLink s d).st = 2 then setLink s d { getLink s d with st := 3 } else s) s

/-! ## Self-test (R427 to R429) -/

/-- Bays pass a self-test now. -/
def bayPass (s : State) (bays : List Nat) : State :=
  modSvc s fun v => { v with lastPass := bays.foldl (fun t b => tput t b s.tlm.timebase) v.lastPass }

/-- A bay fails self-test: its suspect window, the event and the advisory, and the stop of the looms that have it. -/
def bayFail (s : State) (b : Nat) : State :=
  let s := modSvc s fun v => { v with suspects := v.suspects ++ [(b, tget 0 v.lastPass b, s.tlm.timebase)] }
  let ls := unitLooms s 0x07 b
  let s := noteCause (raiseEvt s .svc 3 none b) 0x07 b 1 true
  ls.foldl (fun s l => loomUncorr s l) s

/-- A pre-emption for the self-test of these bays may be asked for now: the last one of each lies a whole SELFTEST_PERIOD
back (R428). -/
def testMayAsk (s : State) (bays : List Nat) : Bool :=
  bays.all fun b => match s.svc.testAsked.lookup b with
    | none => true
    | some t => s.svc.selftestHours * 3600 * 10 ^ 8 ≤ (s.tlm.timebase - t).toNat

/-- Ask for the pre-emption of the loom that holds a due bay set, and note when (R428). -/
def askTest (s : State) (bays : List Nat) (h : Nat) : State :=
  requestPreempt (modSvc s fun v => { v with testAsked := bays.foldl (fun t b => tput t b s.tlm.timebase) v.testAsked }) h false

/-- BAY_SELFTEST: a due bay set, or due bays of no bay set. With a holder at work the test first asks for its pre-emption,
when that is allowed, at most once in a SELFTEST_PERIOD; a STOPPED loom and bays that no loom is on are tested at once. -/
def baySelftest (s : State) (bays failed : List Nat) : State :=
  let ls := (liveLooms s).filter fun l => bays.any (getLoom s l).bays.contains
  let whole := match ls with
    | [] => bays.all fun b => b < 320 && !s.svc.retired.contains b && !s.svc.testing.contains b
    | l :: _ => (getLoom s l).bays.all bays.contains && bays.all (getLoom s l).bays.contains
  if bays.isEmpty || !whole || !failed.all bays.contains || bays.eraseDups.length ≠ bays.length then s
  else
    match ls.find? fun l => (getLoom s l).holder && (getLoom s l).st ≠ .stopped with
    | some h => if s.svc.selftestPreempt && testMayAsk s bays then askTest s bays h else s
    | none => failed.foldl bayFail (bayPass s (bays.filter fun b => !failed.contains b))

def execBaySelftest (bays failed : List Nat) (s : State) : Host.Outcome State Fault Refusal := .next (alive s fun s => baySelftest s bays failed)

/-- BAY_TEST_COMPLETE: bays of a deleted FAULTED loom return, or are retired with every bay of a die that lost a router, its
adders or its thermal protection. -/
def bayTestComplete (s : State) (bays failed : List Nat) : State :=
  if bays.isEmpty || !bays.all s.svc.testing.contains || !failed.all bays.contains then s
  else
    let lost := ((bays.map dieOfBay).eraseDups).filter fun d =>
      s.svc.lostDies.contains d || getReg s (adderReg d) &&& 0xF = 0
    let gone := failed ++ lost.flatMap fun d => (List.range 8).map fun i => d * 8 + i
    let s := modSvc s fun v => { v with
      testing := v.testing.filter fun b => !bays.contains b
      retired := (v.retired ++ gone).eraseDups }
    bayPass s (bays.filter fun b => !gone.contains b)

def execBayTestComplete (bays failed : List Nat) (s : State) : Host.Outcome State Fault Refusal :=
  .next (alive s fun s => bayTestComplete s bays failed)

/-! ## Advisories (R430) -/

/-- ADVISORY_MINUTE_TICK: a new one-minute bucket; the 61st is dropped. -/
def execAdvisoryMinuteTick (s : State) : Host.Outcome State Fault Refusal :=
  .next (alive s fun s => modSvc s fun v => { v with
    minute := v.minute + 1
    buckets := v.buckets.map fun kv => (kv.1, 0 :: kv.2.take 59) })

/-- ADVISORY_THRESHOLD_SET. -/
def execAdvisoryThresholdSet (cause threshold : Nat) (s : State) : Host.Outcome State Fault Refusal :=
  .next <| alive s fun s => consoleRun s fun s =>
    if cause = 0 || 9 < cause then s else modSvc s fun v => { v with thresholds := tput v.thresholds cause threshold }

/-- SELFTEST_PERIOD_SET: 1 to 168 hours, and SELFTEST_PREEMPT. -/
def execSelftestPeriodSet (hours : Option Nat) (preempt : Option Bool) (s : State) : Host.Outcome State Fault Refusal :=
  .next <| alive s fun s => consoleRun s fun s =>
    let h := hours.getD s.svc.selftestHours
    if h = 0 || 168 < h then s else modSvc s fun v => { v with selftestHours := h, selftestPreempt := preempt.getD v.selftestPreempt }

/-! ## Checkpoint sets and triggers (R432, R433) -/

/-- A range of elements fits a tensor of a loom. -/
def ckptRange (x : Loom) (obj off elems : Nat) : Bool := match tensorOf x obj with
  | some r => off + elems ≤ r.a * r.b
  | none => false

/-- Two entries name overlapping ranges of one logical tensor. -/
def ckptOverlap (a b : CkptEntry) : Bool :=
  a.logicalId = b.logicalId && a.logicalOff < b.logicalOff + b.elems && b.logicalOff < a.logicalOff + a.elems

/-- No two entries overlap. -/
def ckptDisjoint : List CkptEntry → Bool
  | [] => true
  | e :: r => !(r.any (ckptOverlap e)) && ckptDisjoint r

def ckptSet (s : State) (l : Nat) (runId : W64) (auto : Option Bool) (es : List CkptEntry) : Except Byte (State × List Byte) :=
  let x := getLoom s l
  if es.isEmpty || 1024 < es.length || !es.all (fun e => ckptRange x e.obj e.localOff e.elems) || !ckptDisjoint es then .error stBad
  else
    let s := drawOthers (setLoom s l { x with ckpt := { x.ckpt with runId, auto := auto.getD x.ckpt.auto, entries := es } }) l
    .ok (s, toLe 8 (ckptSize s (getLoom s l)))

def execCkptSet (session ring : Nat) (s : State) : Host.Outcome State Fault Refusal :=
  .next <| alive s fun s => cfgRun s session ring fun t => match t.body with
    | .ckptSet runId auto es => ckptSet s t.loom runId auto es
    | _ => .error stBad

/-- Begin a command that completes later: it is refused with a status, or its ring waits for its completion. -/
def cmdBegin (s : State) (sess ring : Nat) (f : Taken → Except Byte State) : State :=
  match takenOf s sess ring with
  | none => s
  | some t =>
    if t.started then s
    else match f t with
      | .error st => finish s sess ring st
      | .ok s' => modSession s' sess fun q => { q with cmd := tmod {} q.cmd ring fun r =>
          { r with taken := r.taken.map fun t => { t with started := true } } }

def execCkptTrigger (session ring : Nat) (s : State) : Host.Outcome State Fault Refusal :=
  .next <| alive s fun s => cmdBegin s session ring fun t => match t.body with
    | .ckptTrigger step buffer len =>
      if !loomOwned s session t.loom then .error stPerm
      else if (getLoom s t.loom).fencedJob || (getLoom s t.loom).st = .fenced then .error stFenced
      else ckptTrigger s t.loom step.toNat buffer len (some (session, ring))
    | _ => .error stBad

/-- CKPT_STARTED: a box module other than the anchor learns S and the digest. Its buffer is the last one given to the loom. -/
def ckptStarted (s : State) (l : Nat) (step : W64) (digest : List Byte) : State :=
  let x := getLoom s l
  if x.st = .free || !x.configured || isAnchor s x || digest.length ≠ 32 || x.fencedJob then s
  else
    match x.ckpt.run with
    | some r =>
      if r.started then s
      else modLoom s l fun x => { x with ckpt := { x.ckpt with run := some { r with step, digest, started := true } } }
    | none =>
      let b := x.ckpt.lastBuffer.getD (0, 0)
      let r : CkptRun := { step, digest, manifest := [], requester := none, buffer := b.1, len := b.2, started := true
                           closed := false, copying := false, reports := [] }
      raiseEvt (modLoom s l fun x => { x with ckpt := { x.ckpt with run := some r } }) .svc 4 (some l)

def execCkptStarted (loom : Nat) (step : W64) (digest : List Byte) (s : State) : Host.Outcome State Fault Refusal :=
  .next (alive s fun s => ckptStarted s loom step digest)

/-! ## Taking a checkpoint (R435, R437, R438) -/

/-- The payload of a range of a tensor: its elements in order, 4-bit elements two to a byte. -/
def rangeBytes (s : State) (x : Loom) (obj off elems : Nat) : List Byte :=
  let w := fmtBits (objFmt x obj)
  if w = 4 then
    let nib := fun i => if i < elems then ((objBytes s x obj ((off + i) / 2) 1).getD 0 0 >>> ((off + i) % 2 * 4)) &&& 0xF else 0
    (List.range ((elems + 1) / 2)).map fun j => nib (2 * j) ||| (nib (2 * j + 1) <<< 4)
  else objBytes s x obj (off * (w / 8)) (elems * (w / 8))

/-- Write a payload into its range, the uncopied source blocks under it first (R358). Bytes of a tile store that another loom
holds stay as they are. -/
def putRange (s : State) (x : Loom) (obj off elems : Nat) (bs : List Byte) : State :=
  let w := fmtBits (objFmt x obj)
  let away := match objRec x obj with
    | some r => r.kind ≠ mkStk && !x.holder && !x.lastHolder
    | none => true
  if away then s
  else
    let s := match objAddr x obj (off * w / 8) with
      | some a => copyFirst s [] a ((elems * w + 7) / 8)
      | none => s
    if w = 4 then
      (List.range elems).foldl (fun s i =>
        let old := (objBytes s x obj ((off + i) / 2) 1).getD 0 0
        let nib := (bs.getD (i / 2) 0 >>> (i % 2 * 4)) &&& 0xF
        let new := if (off + i) % 2 = 0 then (old &&& 0xF0) ||| nib else (old &&& 0x0F) ||| (nib <<< 4)
        objWrite s x obj ((off + i) / 2) [new]) s
    else objWrite s x obj (off * (w / 8)) bs

/-- A shard header (Table 14-5). -/
def shardHeader (s : State) (x : Loom) (r : CkptRun) (index : Nat) (e : CkptEntry) (payload : List Byte) : List Byte :=
  let c := coordOf s
  let h := toLe 8 x.ckpt.runId.toNat ++ toLe 8 r.step.toNat ++ r.digest ++ toLe 4 e.logicalId
    ++ toLe 2 (objFmt x e.obj) ++ toLe 2 index ++ toLe 8 e.logicalOff ++ toLe 8 e.elems ++ toLe 8 payload.length
    ++ toLe 4 (c.1 + c.2.1 * 4 + c.2.2 * 16) ++ toLe 4 (crc32c payload).toNat
  h ++ toLe 4 (crc32c h).toNat ++ List.replicate 36 0

/-- Write the shards of a module from an offset of its buffer: each payload, then its header. -/
def writeShards (l : Nat) (r : CkptRun) : List CkptEntry → Nat → Nat → State → State
  | [], _, _, s => s
  | e :: es, index, at_, s =>
    let x := getLoom s l
    let p := rangeBytes s x e.obj e.localOff e.elems
    let s := hostWr s (at_ + 128) p
    let s := hostWr s at_ (shardHeader s x r index e p)
    writeShards l r es (index + 1) (at_ + align4k (128 + p.length)) s

/-- What a checkpoint copy reads. -/
def ckptReads (x : Loom) : List (Nat × Nat) := x.ckpt.entries.flatMap fun e =>
  let w := fmtBits (objFmt x e.obj)
  objRanges x e.obj (e.localOff * w / 8) ((e.elems * w + 7) / 8)

/-- The anchor ends its checkpoint when every box module has reported: OK and the total bytes (Table 14-7). -/
def ckptAllIn (s : State) (l : Nat) : State :=
  let x := getLoom s l
  match x.ckpt.run with
  | some r =>
    if !r.copying && r.started && (List.range (boxModules x)).all (fun i => r.reports.any fun q => q.box = i) then
      endCkpt s l stOk (toLe 8 r.step.toNat ++ toLe 8 (r.reports.map (·.bytes)).sum)
    else s
  | none => s

/-- The module's own report to the anchor: on the anchor it is recorded; a module that asked for the checkpoint waits for the
anchor's answer, any other is done. -/
def ckptReportOwn (s : State) (l : Nat) (r : CkptRun) : State :=
  let x := getLoom s l
  let own : BoxReport := { box := boxIndexOf s x, status := stOk, bytes := ckptSize s x, runId := x.ckpt.runId, step := r.step
                           digest := r.digest }
  if isAnchor s x then
    ckptAllIn (modLoom s l fun x => { x with ckpt := { x.ckpt with run := some { r with copying := false, reports := r.reports ++ [own] } } }) l
  else
    let run := if r.requester.isSome then some { r with copying := false } else none
    modLoom s l fun x => { x with ckpt := { x.ckpt with run } }

/-- CKPT_DONE: the copy of the held learner ends. -/
def ckptDone (s : State) (l : Nat) : State :=
  let x := getLoom s l
  match x.ckpt.run with
  | none => s
  | some r =>
    if !r.copying then s
    else if r.len < ckptSize s x then serveWaiting (endCkpt s l stBad) l
    else if (ckptReads x).any fun r => poisonHit s r.1 r.2 then loomUncorr (meetUnits s (some l) (ckptReads x)) l
    else
      let base := r.buffer.toNat
      let anchor := isAnchor s x
      let s := writeShards l r x.ckpt.entries x.ckpt.before (base + if anchor then align4k (manifestBytes x) else 0) s
      let s := if anchor then hostWr s base r.manifest else s
      serveWaiting (ckptReportOwn (raiseEvt s .svc 5 (some l)) l r) l

def execCkptDone (loom : Nat) (s : State) : Host.Outcome State Fault Refusal := .next (alive s fun s => ckptDone s loom)

/-- CKPT_REPORT: on the anchor, the report of another box module; elsewhere, the anchor's answer. A report whose status is
none of Table 0-5 is no report. -/
def ckptReport (s : State) (l box : Nat) (st : Byte) (bytes : Nat) : State :=
  let x := getLoom s l
  match x.ckpt.run with
  | none => s
  | some r =>
    if !stListed st || boxModules x ≤ box || box = boxIndexOf s x || r.reports.any (fun q => q.box = box) then s
    else if isAnchor s x then
      if st ≠ stOk then serveWaiting (endCkpt s l st) l
      else
        let q : BoxReport := { box, status := st, bytes, runId := x.ckpt.runId, step := r.step, digest := r.digest }
        ckptAllIn (modLoom s l fun x => { x with ckpt := { x.ckpt with run := some { r with reports := r.reports ++ [q] } } }) l
    else if box = 0 && (st ≠ stOk || (r.started && r.closed && !r.copying)) then
      serveWaiting (endCkpt s l st (toLe 8 r.step.toNat ++ toLe 8 bytes)) l
    else s

def execCkptReport (loom boxIndex : Nat) (status : Byte) (bytes : Nat) (s : State) : Host.Outcome State Fault Refusal :=
  .next (alive s fun s => ckptReport s loom boxIndex status bytes)

/-! ## Restore (R440 to R443) -/

/-- The fields of a shard header (Table 14-5). -/
structure ShardHead where
  runId : Nat
  step : Nat
  digest : List Byte
  logicalId : Nat
  fmt : Nat
  index : Nat
  logicalOff : Nat
  elems : Nat
  bytes : Nat
  coord : Nat
  payloadCrc : Nat
  ok : Bool
  deriving DecidableEq, Repr

/-- Read a shard header; ok says that HEADER_CRC passes and reserved bits are 0. -/
def shardHead (h : List Byte) : ShardHead :=
  { runId := fieldAt h 0 8, step := fieldAt h 8 8, digest := slice h 0x10 32, logicalId := fieldAt h 0x30 4
    fmt := fieldAt h 0x34 2 % 16, index := fieldAt h 0x36 2, logicalOff := fieldAt h 0x38 8, elems := fieldAt h 0x40 8
    bytes := fieldAt h 0x48 8, coord := fieldAt h 0x50 4, payloadCrc := fieldAt h 0x54 4
    ok := fieldAt h 0x58 4 = (crc32c (slice h 0 0x58)).toNat && fieldAt h 0x34 2 < 16 && fieldAt h 0x50 4 < 64
      && (slice h 0x5C 36).all fun b => b = 0 }

/-- A manifest entry (Table 14-6). -/
structure ManEntry where
  coord : Nat
  fmt : Nat
  obj : Nat
  logicalId : Nat
  localOff : Nat
  logicalOff : Nat
  elems : Nat
  deriving DecidableEq, Repr

/-- The entries of a manifest for a module's coordinate, with their index. -/
def manEntries (m : List Byte) (coord : Nat) : List (Nat × ManEntry) :=
  let n := min (fieldAt m 0x10 4) ((m.length - 64) / 32)
  ((List.range n).map fun i =>
    let o := 64 + 32 * i
    (i, { coord := fieldAt m o 4 % 64, fmt := bits (fieldAt m o 4) 9 6, obj := fieldAt m (o + 4) 4
          logicalId := fieldAt m (o + 8) 4, localOff := fieldAt m (o + 12) 4, logicalOff := fieldAt m (o + 16) 8
          elems := fieldAt m (o + 24) 8 })).filter fun e => e.2.coord = coord

def manRunId (m : List Byte) : Nat := fieldAt m 0 8
def manStep (m : List Byte) : Nat := fieldAt m 8 8

/-- The coordinate of this module as a header holds it. -/
def coordKey (s : State) : Nat := let c := coordOf s; c.1 + c.2.1 * 4 + c.2.2 * 16

/-- A shard is the one of a manifest's entry. -/
def shardFits (m : List Byte) (e : Nat × ManEntry) (h : ShardHead) : Bool :=
  h.ok && h.step = manStep m && h.index = e.1 && h.coord = e.2.coord && h.fmt = e.2.fmt && h.logicalId = e.2.logicalId
    && h.logicalOff = e.2.logicalOff && h.elems = e.2.elems

/-- OFFER_STEP (R441): the newest step of a presented shard for which a presented manifest's entries for this module are all
present. -/
def offerStep (ms : List (List Byte)) (hs : List ShardHead) (coord : Nat) : W64 :=
  let good := (hs.map (·.step)).filter fun t => ms.any fun m =>
    manStep m = t && (manEntries m coord).all fun e => hs.any fun h => shardFits m e h && h.digest = sha256 m
  match good with
  | [] => 0xFFFFFFFFFFFFFFFF
  | t :: ts => BitVec.ofNat 64 (ts.foldl max t)

/-- Checks 2 to 6 of Table 14-8; the manifest that is used. -/
def restoreChecks (s : State) (x : Loom) (d : RestoreData) : Except Byte (List Byte) :=
  let hs := d.shards.map fun q => shardHead q.header
  let digests := d.manifests.all fun m => hs.all fun h => h.step ≠ manStep m || h.digest = sha256 m
  if !hs.all (·.ok) || !digests || d.manifests.any (fun m => m.length < 64) then .error stBad
  else
    let step := match hs with
      | [] => (d.manifests.head?.map manStep).getD 0
      | h :: _ => h.step
    match d.manifests.find? fun m => manStep m = step && hs.all fun h => h.step = step with
    | none => .error 0x0A
    | some m =>
      let es := manEntries m (coordKey s)
      let once := es.all (fun e => ((hs.filter fun h => shardFits m e h).length = 1 : Bool)) && hs.length = es.length
      let fits := fieldAt m 0x14 4 = x.box.toNat && fieldAt m 0x2C 4 = x.bays.length && es.all fun e =>
        ckptRange x e.2.obj e.2.localOff e.2.elems && objFmt x e.2.obj = e.2.fmt
      let sized := d.shards.all fun q =>
        let h := shardHead q.header
        h.bytes = q.payload.length && h.bytes = (h.elems * fmtBits h.fmt + 7) / 8
      if hs.all (fun h => h.runId = manRunId m) && once && fits && sized then .ok m else .error stBad

/-- The anchor compares the reports of all box modules (R442): equal ones release the writes. -/
def restoreAllIn (s : State) (l : Nat) : State :=
  let x := getLoom s l
  match x.ckpt.restore with
  | none => s
  | some r =>
    if !(List.range (boxModules x)).all (fun i => r.reports.any fun q => q.box = i) then s
    else if r.reports.any fun q => q.step ≠ r.step then
      let s := modLoom s l fun x => { x with ckpt := { x.ckpt with restore := none } }
      finishWith s r.requester.1 r.requester.2 0x0A (toLe 8 r.offer.toNat)
    else if r.reports.any fun q => q.runId ≠ r.runId || q.digest ≠ r.digest then endRestore s l stBad
    else setLoom s l { x with ckpt := { x.ckpt with restore := some { r with released := true } } }

/-- The restore that passed checks 1 to 6 reports and waits. -/
def restoreBegin (s : State) (l : Nat) (who : Nat × Nat) (d : RestoreData) (m : List Byte) : State :=
  let x := getLoom s l
  let hs := d.shards.map fun q => shardHead q.header
  let es := manEntries m (coordKey s)
  let runId := BitVec.ofNat 64 (manRunId m)
  let step := BitVec.ofNat 64 (manStep m)
  let own : BoxReport := { box := boxIndexOf s x, status := stOk, bytes := 0, runId, step, digest := sha256 m }
  let r : RestoreRun := {
    requester := who, runId, step, digest := sha256 m, pick := fieldAt m 0x28 4, seed := BitVec.ofNat 64 (fieldAt m 0x18 8)
    lrnStep := BitVec.ofNat 64 (fieldAt m 0x20 8), offer := offerStep d.manifests hs (coordKey s)
    writes := es.flatMap fun e => (d.shards.filter fun q => shardFits m e (shardHead q.header)).map fun q =>
      (e.2.obj, e.2.localOff, q)
    reports := [own], released := false }
  restoreAllIn (setLoom s l { x with ckpt := { x.ckpt with restore := some r } }) l

/-- The buffers of the command hold what it presents. -/
def restoreShape (d : RestoreData) (ms ss : List (W64 × Nat)) : Bool :=
  d.manifests.map (·.length) = ms.map (·.2) && d.shards.all (fun q => q.header.length = 128)
    && d.shards.map (fun q => 128 + q.payload.length) = ss.map (·.2)

/-- CKPT_RESTORE. -/
def execCkptRestore (session ring : Nat) (d : RestoreData) (s : State) : Host.Outcome State Fault Refusal :=
  .next <| alive s fun s => match takenOf s session ring with
    | some { body := .ckptRestore ms ss, loom := l, started := false, .. } =>
      if !restoreShape d ms ss then s
      else
        match cfgRefusal s session l with
        | some st => finish s session ring st
        | none =>
          match restoreChecks s (getLoom s l) d with
          | .ok m => cmdBegin s session ring fun _ => .ok (restoreBegin s l (session, ring) d m)
          | .error st =>
            if st = 0x0A then
              finishWith s session ring st
                (toLe 8 (offerStep d.manifests (d.shards.map fun q => shardHead q.header) (coordKey s)).toNat)
            else finish s session ring st
    | _ => s

/-- RESTORE_REPORT: the report of another box module. -/
def restoreReport (s : State) (l box : Nat) (runId step : W64) (digest : List Byte) : State :=
  let x := getLoom s l
  match x.ckpt.restore with
  | none => s
  | some r =>
    if r.released || boxModules x ≤ box || r.reports.any (fun q => q.box = box) then s
    else
      let q : BoxReport := { box, status := stOk, bytes := 0, runId, step, digest }
      restoreAllIn (setLoom s l { x with ckpt := { x.ckpt with restore := some { r with reports := r.reports ++ [q] } } }) l

def execRestoreReport (loom boxIndex : Nat) (runId step : W64) (digest : List Byte) (s : State) :
    Host.Outcome State Fault Refusal :=
  .next (alive s fun s => restoreReport s loom boxIndex runId step digest)

/-- RESTORE_RELEASE: the payloads are written; the seed and the step are set (R443). After a payload that fails its check
the restored tensors hold undefined bytes. -/
def restoreRelease (s : State) (l : Nat) : State :=
  let x := getLoom s l
  match x.ckpt.restore with
  | none => s
  | some r =>
    if !r.released then s
    else if r.writes.all fun w => (crc32c w.2.2.payload).toNat = (shardHead w.2.2.header).payloadCrc then
      let s := r.writes.foldl (fun s w => putRange s x w.1 w.2.1 (shardHead w.2.2.header).elems w.2.2.payload) s
      let s := modLoom s l fun x => { x with
        seed := r.seed, lrn := { x.lrn with step := r.lrnStep, stepSum := 0, bucket := 0, gradSums := [] } }
      endRestore s l stOk (toLe 8 r.runId.toNat ++ toLe 8 r.step.toNat ++ toLe 4 r.pick)
    else
      let (k, s) := drawFree s 1
      let bytes := fun i n => (List.range n).map fun j => Config.freeByte k (i * 2 ^ 40 + j)
      let s := ((List.range r.writes.length).zip r.writes).foldl (fun s iw =>
        putRange s x iw.2.1 iw.2.2.1 (shardHead iw.2.2.2.header).elems (bytes iw.1 iw.2.2.2.payload.length)) s
      endRestore s l stBad

def execRestoreRelease (loom : Nat) (s : State) : Host.Outcome State Fault Refusal := .next (alive s fun s => restoreRelease s loom)

end Sys2Proof.Machine
end

