-- ==== Sys2Proof/Machine/Fields.lean ====
section
/-! DEFINITION. Field lists (R471 to R473): the field records of a command body, the field tables (Tables 7-2, 9-3, 10-1, 11-1,
13-7 and 15-19), and the body each opcode of Table 15-4 makes of them. -/
namespace Sys2Proof.Machine

/-! ## Field records -/

/-- A field record (Table 15-18). -/
structure FieldRec where
  field : Nat
  index : Nat
  val : List Byte
  deriving DecidableEq, Repr

/-- A row of a field table: the sizes of its parts, or the size of its fixed-layout record; limit is that of a list. -/
structure FieldRow where
  parts : List Nat := []
  record : Nat := 0
  limit : Nat := 0
  need : Bool := false
  deriving DecidableEq, Repr

/-- The field records of a body, which they fill exactly; none when it breaks R471. -/
def fieldRecs : Nat → List Byte → Option (List FieldRec)
  | 0, b => if b.isEmpty then some [] else none
  | fuel + 1, b =>
    if b.isEmpty then some []
    else
      let len := fieldAt b 4 4
      let whole := 8 + (len + 7) / 8 * 8
      if b.length < whole || !((b.drop (8 + len)).take (whole - 8 - len)).all (fun x => x = 0) then none
      else
        match fieldRecs fuel (b.drop whole) with
        | some r => some ({ field := fieldAt b 0 2, index := fieldAt b 2 2, val := (b.drop 8).take len } :: r)
        | none => none

/-- The offsets of parts, each aligned to its own size, and where they end (R472). -/
def partOffs : List Nat → Nat → List Nat × Nat
  | [], o => ([], o)
  | n :: r, o =>
    let o := (o + n - 1) / n * n
    let q := partOffs r (o + n)
    (o :: q.1, q.2)

/-- The LEN that a row's VALUE has. -/
def FieldRow.len (w : FieldRow) : Nat := if w.record ≠ 0 then w.record else (partOffs w.parts 0).2

/-- The integers of a VALUE. -/
def FieldRow.ints (w : FieldRow) (v : List Byte) : List Nat :=
  ((partOffs w.parts 0).1.zip w.parts).map fun p => fieldAt v p.1 p.2

/-- A record fits its table (R473). -/
def recOk (rows : List FieldRow) (r : FieldRec) : Bool :=
  1 ≤ r.field && match rows[r.field - 1]? with
    | some w => r.index < max w.limit 1 && r.val.length = w.len
    | none => false

/-- The records of a body fit their table: no field repeats, no list has a gap, and what must be carried is. -/
def recsOk (rows : List FieldRow) (rs : List FieldRec) : Bool :=
  rs.all (recOk rows)
    && (rs.map fun r => r.field * 65536 + r.index).eraseDups.length = rs.length
    && rs.all (fun r => r.index = 0 || rs.any fun q => q.field = r.field && q.index + 1 = r.index)
    && ((List.range rows.length).zip rows).all fun w => !w.2.need || rs.any fun r => r.field = w.1 + 1

/-! ## Field tables -/

def row (parts : List Nat) (need : Bool := false) : FieldRow := { parts, need }
def rows (limit : Nat) (parts : List Nat) (need : Bool := false) : FieldRow := { parts, limit, need }

/-- The field table of an opcode; none for RUN and for opcodes outside Table 15-4. -/
def fieldTable (opcode : Nat) : Option (List FieldRow) :=
  match opcode with
  | 0x01 => some [row [2], row [1], row [1] true, row [1] true, row [1] true]
  | 0x02 => some [row [1], row [1], row [8], row [2], row [2], row [2], rows 256 [1, 4]]
  | 0x03 => some [row [8, 2] true]
  | 0x04 | 0x07 | 0x08 | 0x7A => some []
  | 0x05 | 0x06 => some [row [1]]
  | 0x09 => some [row [2] true, row [4], row [2]]
  | 0x0A => some [row [2] true]
  | 0x10 => some [{ record := 64, limit := 4096, need := true }]
  | 0x11 => some [row [8, 4] true]
  | 0x12 => some [row [4] true, row [1, 1, 1], row [1, 1, 1]]
  | 0x20 => some [row [1], row [2], row [2], row [4], row [4], row [1], row [4], row [4], row [4], row [4], rows 8 [2, 2, 2], row [2]]
  | 0x21 => some [{ record := 64, need := true }]
  | 0x22 => some [row [2, 2] true]
  | 0x23 => some [rows 4096 [8] true]
  | 0x30 => some [row [8], row [2], row [2], row [1], row [1], row [4], row [4], row [4], row [4], row [4], row [4]]
  | 0x31 | 0x32 => some [{ record := 32, limit := 4096, need := true }]
  | 0x40 => some [row [1], row [1], row [1], rows 16 [1, 4, 4], row [1], row [1], row [2], row [4], row [4, 2], row [4],
      rows 256 [1, 8, 4], row [2], row [2], row [4, 1], row [1]]
  | 0x41 => some [row [1] true]
  | 0x50 => some [rows 8 [8], row [2], row [4, 4], row [4], row [4, 4], row [4]]
  | 0x60 => some [row [8] true, row [1], rows 1024 [4, 4, 8, 4, 8] true]
  | 0x61 => some [row [8], row [8, 8] true]
  | 0x62 => some [rows 2 [8, 8] true, rows 1024 [8, 8] true]
  | 0x70 | 0x71 => some [row [8, 8, 4] true]
  | 0x78 => some [row [1] true, row [8] true, row [1] true, row [1], row [2], row [2], row [2]]
  | 0x79 => some [row [1, 1] true]
  | _ => none

/-! ## Bodies -/

/-- The integers of a field carried once. -/
def ints (t : List FieldRow) (rs : List FieldRec) (f : Nat) : Option (List Nat) :=
  match rs.find? fun r => r.field = f, t[f - 1]? with
  | some r, some w => some (w.ints r.val)
  | _, _ => none

/-- The first integer of a field. -/
def int1 (t : List FieldRow) (rs : List FieldRec) (f : Nat) : Option Nat := (ints t rs f).map fun v => v.getD 0 0
/-- The k-th integer of a field. -/
def intK (t : List FieldRow) (rs : List FieldRec) (f k : Nat) : Option Nat := (ints t rs f).map fun v => v.getD k 0

/-- The VALUEs of a list field in the order of INDEX. -/
def values (rs : List FieldRec) (f : Nat) : List (List Byte) :=
  let mine := rs.filter fun r => r.field = f
  (List.range mine.length).filterMap fun i => (mine.find? fun r => r.index = i).map (·.val)

/-- The elements of a list field. -/
def elems (t : List FieldRow) (rs : List FieldRec) (f : Nat) : List (List Nat) :=
  match t[f - 1]? with
  | some w => (values rs f).map w.ints
  | none => []

/-- A list field that may not be carried. -/
def elems? (t : List FieldRow) (rs : List FieldRec) (f : Nat) : Option (List (List Nat)) :=
  if rs.any fun r => r.field = f then some (elems t rs f) else none

/-- Every field of some is below a bound, where it is carried: an enumeration or a flag. -/
def under (t : List FieldRow) (rs : List FieldRec) (bounds : List (Nat × Nat)) : Bool :=
  bounds.all fun b => match int1 t rs b.1 with
    | some v => v < b.2
    | none => true

def flag (v : Nat) : Bool := v = 1

/-- An intent record (Table 6-1). -/
def intentRec (v : List Byte) : IntentRec :=
  { kind := fieldAt v 0 1, pattern := fieldAt v 1 1, fmt := fieldAt v 2 1 % 16, obj := fieldAt v 4 4, bytes := fieldAt v 8 8
    a := fieldAt v 0x10 4, b := fieldAt v 0x14 4, c := fieldAt v 0x18 4, d := fieldAt v 0x1C 1
    reserved := fieldAt v 0 4 / 2 ^ 20 ≠ 0 || fieldAt v 0x1D 3 ≠ 0 || fieldAt v 0x20 32 ≠ 0 }

/-- A binding record (Table 9-1). -/
def bindRec (v : List Byte) : BindRec :=
  { kind := fieldAt v 0 1 % 16, group := bits (fieldAt v 0 4) 27 16, elems := fieldAt v 4 4, master := fieldAt v 8 4
    masterOff := fieldAt v 0xC 4, acc := fieldAt v 0x10 4, accOff := fieldAt v 0x14 4, copy0 := fieldAt v 0x18 4
    copy1 := fieldAt v 0x1C 4, reserved := bits (fieldAt v 0 4) 15 4 ≠ 0 || bits (fieldAt v 0 4) 31 28 ≠ 0 }

/-- A submit descriptor (Table 10-2). -/
def submitRec (v : List Byte) : SubmitDesc :=
  let w := fieldAt v 0 4
  { loom := w % 32, register := w.testBit 8, logprob := w.testBit 9, promptLen := fieldAt v 4 4
    prompt := BitVec.ofNat 64 (fieldAt v 8 8), ring := BitVec.ofNat 64 (fieldAt v 0x10 8)
    deadline := BitVec.ofNat 64 (fieldAt v 0x18 8), pfxHandle := BitVec.ofNat 64 (fieldAt v 0x20 8)
    pfxLen := fieldAt v 0x28 4, maxNew := fieldAt v 0x2C 2, stop0 := BitVec.ofNat 32 (fieldAt v 0x30 4)
    stop1 := BitVec.ofNat 32 (fieldAt v 0x34 4), stop2 := BitVec.ofNat 32 (fieldAt v 0x38 4)
    stream := BitVec.ofNat 32 (fieldAt v 0x3C 4), reserved := bits w 7 5 ≠ 0 || w / 2 ^ 10 ≠ 0 || fieldAt v 0x2E 2 ≠ 0 }

def w64 (n : Nat) : W64 := BitVec.ofNat 64 n
def w32 (n : Nat) : W32 := BitVec.ofNat 32 n

/-- A list of three integers. -/
def three (v : List Nat) : Nat × Nat × Nat := (v.getD 0 0, v.getD 1 0, v.getD 2 0)

/-- The kinds of a ring as Table 15-19 lists them. -/
def ringKind (n : Nat) : RingKind := match n with
  | 0 => .control | 1 => .dobby | 2 => .completion | _ => .event

/-- The body of a loom manager command. -/
def loomBody (opcode : Nat) (t : List FieldRow) (rs : List FieldRec) : Option HostBody :=
  let i := int1 t rs
  match opcode with
  | 0x01 =>
    if under t rs [(3, 2)] && ((i 1).isSome || (i 2).isSome) then
      some (.loomCreate (i 1) (i 2) (flag ((i 3).getD 0)) ((i 4).getD 0) ((i 5).getD 0))
    else none
  | 0x02 =>
    if under t rs [(1, 2)] then
      some (.loomConfig {
        stepClass := (i 1).map flag, priority := i 2, seed := (i 3).map w64, credits := i 4, softWait := i 5, grace := i 6
        semInit := (elems? t rs 7).map fun l => l.map fun v => (v.getD 0 0, w32 (v.getD 1 0)) })
    else none
  | 0x03 => some (.progLoad (w64 ((i 1).getD 0)) ((intK t rs 1 1).getD 0))
  | 0x04 => some .loomStart
  | 0x05 => if under t rs [(1, 2)] then some (.loomStop (flag ((i 1).getD 0))) else none
  | 0x06 => if under t rs [(1, 2)] then some (.loomPreempt (flag ((i 1).getD 0))) else none
  | 0x07 => some .loomResume
  | 0x08 => some .loomDelete
  | 0x09 => some (.semCreate ((i 1).getD 0) (w32 ((i 2).getD 0)) ((i 3).map fun n => BitVec.ofNat 16 n))
  | 0x0A => some (.semDelete ((i 1).getD 0))
  | _ => none

/-- The body of SHED_WEAVE (Table 11-1). -/
def weaveBody (t : List FieldRow) (rs : List FieldRec) : Option HostBody :=
  let i := int1 t rs
  if !under t rs [(2, 2), (5, 2), (6, 2)] then none
  else some (.shedWeave {
    weave := i 1, shared := (i 2).map flag, learner := i 3
    gens := (elems? t rs 4).map fun l => l.map fun v => { loom := v.getD 0 0, beam0 := v.getD 1 0, beam1 := v.getD 2 0 }
    flipEpisode := (i 5).map flag, skip := (i 6).map flag, publishEvery := i 7, initPick := i 8, srcList := i 9
    nsrc := intK t rs 9 1, creel := i 10
    bobbins := (elems? t rs 11).map fun l => l.map fun v => { loom := v.getD 0 0, off := v.getD 1 0, nrec := v.getD 2 0 }
    staleMax := i 12, genSteps := i 13, learnList := i 14, nlearn := intK t rs 14 1, learnUnits := i 15 })

/-- The body of a serving or learning command. -/
def engineBody (opcode : Nat) (t : List FieldRow) (rs : List FieldRec) : Option HostBody :=
  let i := int1 t rs
  match opcode with
  | 0x20 =>
    if !under t rs [(1, 2)] then none
    else some (.srvConfig {
      bound := (i 1).map flag, quota := i 2, maxRows := i 3, stepTokens := i 4, prefillChunk := i 5, specDepth := i 6
      kvPool := i 7, kvPosBytes := i 8, promptPool := i 9, batch := i 10
      stepList := (elems? t rs 11).map fun l => l.map fun v => { entry := v.getD 0 0, first := v.getD 1 0, count := v.getD 2 0 }
      pfxSlots := i 12 })
  | 0x21 => (values rs 1).head?.map fun v => .srvSubmit (submitRec v)
  | 0x22 => some (.srvCancel ((i 1).getD 0) (BitVec.ofNat 16 ((intK t rs 1 1).getD 0)))
  | 0x23 => some (.srvPfxDrop ((elems t rs 1).map fun v => w64 (v.getD 0 0)))
  | 0x30 =>
    if !under t rs [(5, 2)] then none
    else some (.lrnConfig {
      step := (i 1).map w64, ngroups := i 2, stepComm := i 3, buckets := i 4, clipOn := (i 5).map flag, clipMax := (i 6).map w32
      groupTab := i 7, sched := i 8, values := i 9, watch := i 10, watchDepth := i 11 })
  | 0x31 => some (.lrnBind ((values rs 1).map bindRec))
  | 0x32 => some (.lrnUnbind ((values rs 1).map bindRec))
  | 0x40 => weaveBody t rs
  | 0x41 => some (.shedUnweave ((i 1).getD 0))
  | _ => none

/-- The body of RING_CREATE: VECTOR is for COMPLETION and EVENT rings, CPL_RING for command rings. -/
def ringBody (t : List FieldRow) (rs : List FieldRec) : Option HostBody :=
  let i := int1 t rs
  let k := ringKind ((i 1).getD 0)
  let cmd := k = .control || k = .dobby
  if !under t rs [(1, 4)] || (if cmd then (i 4).isNone || (i 5).isSome else (i 4).isSome) then none
  else some (.ringCreate { kind := k, base := w64 ((i 2).getD 0), log2 := (i 3).getD 0, cplRing := i 4, vector := i 5
                           count := i 6, time := i 7 })

/-- The body that the field records of an opcode make; none breaks R471 to R473. -/
def bodyOf (opcode : Nat) (t : List FieldRow) (rs : List FieldRec) : Option HostBody :=
  let i := int1 t rs
  let addr := w64 ((i 1).getD 0)
  let pairs := fun f => (elems t rs f).map fun v => (w64 (v.getD 0 0), v.getD 1 0)
  match opcode with
  | 0x10 => some (.plcIntent ((values rs 1).map intentRec))
  | 0x11 => some (.plcMapRead addr ((intK t rs 1 1).getD 0))
  | 0x12 => some (.collConfig (w32 ((i 1).getD 0)) ((ints t rs 2).map three) ((ints t rs 3).map three))
  | 0x50 =>
    some (.tlmConfig {
      cnt := let l := elems t rs 1
        ((List.range l.length).zip l).map fun nv => (nv.1, w64 (nv.2.getD 0 0))
      strandMask := (i 2).map fun n => BitVec.ofNat 16 n, dump := i 3, dumpNrec := intK t rs 3 1, dumpPeriod := i 4
      sample := i 5, sampleNrec := intK t rs 5 1, sampleWm := i 6 })
  | 0x60 =>
    if !under t rs [(2, 2)] then none
    else some (.ckptSet addr ((i 2).map flag) ((elems t rs 3).map fun v =>
      { obj := v.getD 0 0, localOff := v.getD 1 0, elems := v.getD 2 0, logicalId := v.getD 3 0, logicalOff := v.getD 4 0 }))
  | 0x61 => some (.ckptTrigger addr (w64 ((i 2).getD 0)) ((intK t rs 2 1).getD 0))
  | 0x62 => some (.ckptRestore (pairs 1) (pairs 2))
  | 0x70 => some (.xferToDev addr (w64 ((intK t rs 1 1).getD 0)) ((intK t rs 1 2).getD 0))
  | 0x71 => some (.xferFromDev addr (w64 ((intK t rs 1 1).getD 0)) ((intK t rs 1 2).getD 0))
  | 0x78 => ringBody t rs
  | 0x79 => if under t rs [(1, 4)] then some (.ringDelete (ringKind ((i 1).getD 0)) ((intK t rs 1 1).getD 0)) else none
  | 0x7A => some .sessionClose
  | _ => if opcode < 0x10 then loomBody opcode t rs else engineBody opcode t rs

/-- Read a command body. -/
def parseBody (opcode : Nat) (body : List Byte) : Option HostBody :=
  match fieldTable opcode, fieldRecs (body.length + 1) body with
  | some t, some rs => if recsOk t rs then bodyOf opcode t rs else none
  | _, _ => none

end Sys2Proof.Machine
end

