-- ==== Sys2Proof/Machine/Rings.lean ====
section
/-! DEFINITION. Rings (R459 to R464): doorbells, taking commands, consumer counts, interrupts, and the commands that create and
delete rings and close the session. -/
namespace Sys2Proof.Machine

/-- RING_FAULT. -/
def ringFault (s : State) : State := raiseEvt s .hif 4

/-- The serving engine owns a dobby ring of a session (R323). -/
def engineOwned (s : State) (n ring : Nat) : Bool :=
  (liveLooms s).any fun l => (getLoom s l).session = n && (getLoom s l).dobbyRing = ring && (getLoom s l).srv.owned

/-- CMD_DOORBELL: a producer count that fits the ring. -/
def doorbell (s : State) (w : Accessor) (ring tail : Nat) : State :=
  match sessOf s w with
  | none => s
  | some n =>
    match tfind (getSession s n).cmd ring with
    | none => s
    | some r =>
      if engineOwned s n ring then s
      else
        let t := BitVec.ofNat 16 tail
        if 2 ^ r.log2 < (t - r.head).toNat then ringFault s
        else modSession s n fun x => { x with cmd := tput x.cmd ring { r with tail := t } }

def execCmdDoorbell (who : Accessor) (ring : Nat) (value : W64) (s : State) : Host.Outcome State Fault Refusal :=
  .next (alive s fun s => doorbell s who ring value.toNat)

/-! ## Taking a command (R461, R462) -/

/-- A command entry is well formed (Table 15-2). -/
def entryShape (e : CmdEntry) : Bool :=
  e.rsv = 0 && e.bodyLen ≤ (if e.indirect then 16 * 2 ^ 20 else 48) && e.body.length = e.bodyLen

/-- The dobby sequencer takes a RUN of the ring's own session itself (R461). -/
def isRun (x : Session) (n : Nat) (e : CmdEntry) : Bool := e.opcode = 0 && e.session = n && e.sgen = x.sgen.toNat

/-- The TAG of a command's completion: for RUN its CMD_ID, bytes 0x14 to 0x17 of its body (Tables 7-4 and 15-3). -/
def cplTag (e : CmdEntry) : W32 := if e.opcode % 256 = 0 then BitVec.ofNat 32 (fieldAt e.body 0x14 4) else e.tag

/-- COMMAND_FETCH: the entry at the head of a ring that has no command in progress is taken, when its completion ring has a
free entry; it is refused at once, or stands for its own command to run. -/
def fetch (s : State) (n ring : Nat) (e : CmdEntry) : State :=
  let x := getSession s n
  match tfind x.cmd ring with
  | none => s
  | some r =>
    if !x.opened || r.stopped || r.taken.isSome || r.tail = r.head then s
    else if e.fetchError then
      ringFault (setSession s n { x with cmd := tput x.cmd ring { r with stopped := true } })
    else if !cplRoom x ring || (r.kind = .dobby && isRun x n e) then s
    else
      let s := takeEntry s n ring 1
      let refuse := fun st => postCpl s n ring st (e.opcode % 256) (cplTag e) []
      if e.session ≠ n || e.sgen ≠ x.sgen.toNat then refuse stNoSession
      else if r.kind = .dobby || !entryShape e then refuse stBad
      else
        match parseBody e.opcode e.body with
        | none => refuse stBad
        | some body => modSession s n fun x => { x with cmd := tmod {} x.cmd ring fun r =>
            { r with taken := some { opcode := e.opcode, loom := e.loom % 32, tag := e.tag, body, started := false } } }

def execCommandFetch (session ring : Nat) (e : CmdEntry) (s : State) : Host.Outcome State Fault Refusal :=
  .next (alive s fun s => fetch s session ring e)

/-! ## Consumer counts and interrupts -/

/-- CPL_HEAD_WRITE. -/
def execCplHeadWrite (who : Accessor) (ring : Nat) (value : W64) (s : State) : Host.Outcome State Fault Refusal :=
  .next <| alive s fun s => match sessOf s who with
    | none => s
    | some n =>
      match tfind (getSession s n).cpl ring with
      | none => s
      | some r => modSession s n fun x => { x with cpl := tput x.cpl ring { r with head := value.setWidth 16 } }

/-- EVT_RING_HEAD_WRITE. -/
def execEvtRingHeadWrite (who : Accessor) (value : W64) (s : State) : Host.Outcome State Fault Refusal :=
  .next <| alive s fun s => match sessOf s who with
    | none => s
    | some n => modSession s n fun x => { x with evt := x.evt.map fun r => { r with head := value.setWidth 16 } }

/-- MSIX_MODERATION: COUNT entries have arrived since the last interrupt, or TIME has passed since the first of them; none is
the event ring. The vector is raised when entries are unread. -/
def moderate (s : State) (n : Nat) (ring : Option Nat) (byTime : Bool) : State :=
  let x := getSession s n
  let due := fun (r : OutRing) => 0 < r.unread && 0 < r.since && (byTime || r.countMod ≤ r.since)
  let put := fun (r : OutRing) => ({ r with since := 0, irqs := r.irqs + 1 } : OutRing)
  match ring with
  | some c =>
    match tfind x.cpl c with
    | some r => if due r then
        setSession { s with reply := [BitVec.ofNat 64 r.vector] } n { x with cpl := tput x.cpl c (put r) } else s
    | none => s
  | none =>
    match x.evt with
    | some r => if due r then setSession { s with reply := [BitVec.ofNat 64 r.vector] } n { x with evt := some (put r) } else s
    | none => s

def execMsixModeration (session : Nat) (ring : Option Nat) (byTime : Bool) (s : State) : Host.Outcome State Fault Refusal :=
  .next (alive s fun s => moderate s session ring byTime)

/-! ## RING_CREATE, RING_DELETE, SESSION_CLOSE -/

/-- The lowest number below a bound that a table does not hold. -/
def freeKey {α : Type} (t : Table α) (n : Nat) : Option Nat := (List.range n).find? fun i => (tfind t i).isNone

/-- Rings of the whole module (R459). -/
def allCmdRings (s : State) : Nat := (s.sessions.map fun kv => kv.2.cmd.length).sum
def allCplRings (s : State) : Nat := (s.sessions.map fun kv => kv.2.cpl.length).sum

/-- A ring is created with the lowest free number of its kind. -/
def createRing (s : State) (n : Nat) (f : RingCreateF) : Except Byte (State × List Byte) :=
  let x := getSession s n
  let count := f.count.getD 1
  let time := f.time.getD 0
  let vector := f.vector.getD 0
  let cpl := f.cplRing.getD 0
  let cmdKind := f.kind = .control || f.kind = .dobby
  if f.base.toNat % 4096 ≠ 0 || f.log2 < 6 || 16 < f.log2 || count = 0 || 256 < count || 1000 < time || 2047 < vector
      || (cmdKind && (tfind x.cpl cpl).isNone) then .error stBad
  else
    let out : OutRing := { base := f.base, log2 := f.log2, vector, countMod := count, timeMod := time }
    match f.kind with
    | .control | .dobby =>
      match freeKey x.cmd 64 with
      | some k =>
        if 1024 ≤ allCmdRings s then .error stFull
        else .ok (setSession s n { x with cmd := tput x.cmd k { kind := f.kind, base := f.base, log2 := f.log2, cpl } }, [BitVec.ofNat 8 k])
      | none => .error stFull
    | .completion =>
      match freeKey x.cpl 16 with
      | some k => if 256 ≤ allCplRings s then .error stFull
        else .ok (setSession s n { x with cpl := tput x.cpl k out }, [BitVec.ofNat 8 k])
      | none => .error stFull
    | .event => if x.evt.isSome then .error stFull else .ok (setSession s n { x with evt := some out }, [0])

def execRingCreate (session ring : Nat) (s : State) : Host.Outcome State Fault Refusal :=
  .next <| alive s fun s => cmdRun s session ring fun t => match t.body with
    | .ringCreate f => createRing s session f
    | _ => .error stBad

/-- What refuses RING_DELETE: no such ring, or a loom that names it. -/
def ringDeletable (s : State) (n : Nat) (kind : RingKind) (k : Nat) : Option Byte :=
  let x := getSession s n
  match kind with
  | .control | .dobby =>
    match tfind x.cmd k with
    | some r =>
      if r.kind ≠ kind then some stBad
      else if (liveLooms s).any fun l => (getLoom s l).session = n && (getLoom s l).dobbyRing = k then some stBusy else none
    | none => some stBad
  | .completion => if (tfind x.cpl k).isNone then some stBad else none
  | .event => if x.evt.isNone || k ≠ 0 then some stBad else none

/-- A ring is gone. -/
def dropRing (s : State) (n : Nat) (kind : RingKind) (k : Nat) : State :=
  modSession s n fun x => match kind with
    | .control | .dobby => { x with cmd := tdel x.cmd k }
    | .completion => { x with cpl := tdel x.cpl k }
    | .event => { x with evt := none }

/-- RING_DELETE: its completion is written first, for it may delete its own ring. -/
def execRingDelete (session ring : Nat) (s : State) : Host.Outcome State Fault Refusal :=
  .next <| alive s fun s => match takenOf s session ring with
    | some { body := .ringDelete kind k, .. } =>
      match ringDeletable s session kind k with
      | some st => finish s session ring st
      | none => dropRing (finish s session ring stOk) session kind k
    | _ => s

/-- SESSION_CLOSE: its completion is written first (R458). -/
def execSessionClose (session ring : Nat) (s : State) : Host.Outcome State Fault Refusal :=
  .next <| alive s fun s => match takenOf s session ring with
    | some { body := .sessionClose, .. } => closeSession (finish s session ring stOk) session
    | _ => s

end Sys2Proof.Machine
end

