-- ==== Sys2Proof/Machine/Salu.lean ====
section
/-! DEFINITION. Class SALU: scalar integer and scalar FP32 instructions (Table 4-11, R66, R111, R117). -/
namespace Sys2Proof.Machine

/-- A scalar operation of two sources. -/
def salu2 (op : Nat) (g : W64 → W64 → W64) (a : Issuer) (f : FmtR) (s : State) :
    Host.Outcome State Fault Refusal :=
  .next (issueReg s a (wordR 0 op f) (plainR f && isS f.rd && isS f.ra && isS f.rb) fun _ y =>
    .ok (y.sput f.rd.toNat (g (y.sget f.ra.toNat) (y.sget f.rb.toNat))).next)

/-- A scalar FP32 operation: bits 31:0 of its sources, bits 63:32 of the result 0; it rounds by RNE (R57). -/
def saluF (op : Nat) (ok : Bool) (g : Strand → W32 × AFlags) (a : Issuer) (f : FmtR) (s : State) :
    Host.Outcome State Fault Refusal :=
  .next (issueReg s a (wordR 0 op f) (plainR f && isS f.rd && isS f.ra && isS f.rb && ok && f.rnd = 0) fun _ y =>
    .ok ((y.sput f.rd.toNat ((g y).1.setWidth 64)).flag (g y).2).next)

/-- The low word of a scalar register. -/
def Strand.s32 (y : Strand) (r : BitVec 6) : W32 := (y.sget r.toNat).setWidth 32

/-- A shift count: RB[5:0]. -/
def shamt (b : W64) : Nat := (b &&& 63).toNat
/-- A truth value as a scalar. -/
def boolWord (b : Bool) : W64 := if b then 1 else 0
/-- The signed high 64 bits of a product. -/
def mulhWord (a b : W64) : W64 := BitVec.ofInt 64 (a.toInt * b.toInt / 2 ^ 64)

def execAdd (a : Issuer) (f : FmtR) (s : State) := salu2 0x00 (fun x y => x + y) a f s
def execSub (a : Issuer) (f : FmtR) (s : State) := salu2 0x01 (fun x y => x - y) a f s
def execMul (a : Issuer) (f : FmtR) (s : State) := salu2 0x02 (fun x y => x * y) a f s
def execMulh (a : Issuer) (f : FmtR) (s : State) := salu2 0x03 mulhWord a f s
def execAnd (a : Issuer) (f : FmtR) (s : State) := salu2 0x04 (fun x y => x &&& y) a f s
def execOr (a : Issuer) (f : FmtR) (s : State) := salu2 0x05 (fun x y => x ||| y) a f s
def execXor (a : Issuer) (f : FmtR) (s : State) := salu2 0x06 (fun x y => x ^^^ y) a f s
def execShl (a : Issuer) (f : FmtR) (s : State) := salu2 0x07 (fun x y => x <<< shamt y) a f s
def execShr (a : Issuer) (f : FmtR) (s : State) := salu2 0x08 (fun x y => x >>> shamt y) a f s
def execSra (a : Issuer) (f : FmtR) (s : State) := salu2 0x09 (fun x y => x.sshiftRight (shamt y)) a f s
def execMin (a : Issuer) (f : FmtR) (s : State) := salu2 0x0A (fun x y => if x.slt y then x else y) a f s
def execMax (a : Issuer) (f : FmtR) (s : State) := salu2 0x0B (fun x y => if x.slt y then y else x) a f s
def execCmpeq (a : Issuer) (f : FmtR) (s : State) := salu2 0x10 (fun x y => boolWord (x == y)) a f s
def execCmplt (a : Issuer) (f : FmtR) (s : State) := salu2 0x11 (fun x y => boolWord (x.slt y)) a f s
def execCmpltu (a : Issuer) (f : FmtR) (s : State) := salu2 0x12 (fun x y => boolWord (x.ult y)) a f s

/-- SEL: RD = (RC ≠ 0) ? RA : RB. -/
def execSel (a : Issuer) (f : FmtR) (s : State) : Host.Outcome State Fault Refusal :=
  .next (issueReg s a (wordR 0 0x13 f) (plainR f && isS f.rd && isS f.ra && isS f.rb && isS f.rc) fun _ y =>
    .ok (y.sput f.rd.toNat
      (if y.sget f.rc.toNat ≠ 0 then y.sget f.ra.toNat else y.sget f.rb.toNat)).next)

def execSaluFadd (a : Issuer) (f : FmtR) (s : State) := saluF 0x20 true (fun y => fp2 f32Add (y.s32 f.ra) (y.s32 f.rb)) a f s
def execSaluFmul (a : Issuer) (f : FmtR) (s : State) := saluF 0x21 true (fun y => fp2 f32Mul (y.s32 f.ra) (y.s32 f.rb)) a f s
def execSaluFfma (a : Issuer) (f : FmtR) (s : State) :=
  saluF 0x22 (isS f.rc) (fun y => fp3 f32Fma (y.s32 f.ra) (y.s32 f.rb) (y.s32 f.rc)) a f s

/-! ## Class SIMM (Table 4-11) -/

/-- An immediate operation with one scalar source. IMM is zero-extended but for ADDI (log 15). -/
def simm (op : Nat) (g : W64 → W32 → W64) (a : Issuer) (f : FmtI) (s : State) : Host.Outcome State Fault Refusal :=
  .next (issueReg s a (wordI 1 op f) (plainI f && isS f.rd && isS f.ra) fun _ y =>
    .ok (y.sput f.rd.toNat (g (y.sget f.ra.toNat) f.imm)).next)

def execAddi (a : Issuer) (f : FmtI) (s : State) := simm 0x00 (fun x i => x + i.signExtend 64) a f s
def execAndi (a : Issuer) (f : FmtI) (s : State) := simm 0x01 (fun x i => x &&& i.setWidth 64) a f s
def execOri (a : Issuer) (f : FmtI) (s : State) := simm 0x02 (fun x i => x ||| i.setWidth 64) a f s
def execXori (a : Issuer) (f : FmtI) (s : State) := simm 0x03 (fun x i => x ^^^ i.setWidth 64) a f s
/-- SHLI: the count is IMM[5:0], as SHL's is RB[5:0] (log 15). -/
def execShli (a : Issuer) (f : FmtI) (s : State) := simm 0x04 (fun x i => x <<< shamt (i.setWidth 64)) a f s
/-- SHRI: logical, as SHR. -/
def execShri (a : Issuer) (f : FmtI) (s : State) := simm 0x05 (fun x i => x >>> shamt (i.setWidth 64)) a f s

/-- LUI: RD[63:32] = IMM; RD[31:0] unchanged. RA is not used. -/
def execLui (a : Issuer) (f : FmtI) (s : State) : Host.Outcome State Fault Refusal :=
  .next (issueReg s a (wordI 1 0x06 f) (plainI f && isS f.rd) fun _ y =>
    .ok (y.sput f.rd.toNat (f.imm ++ (y.sget f.rd.toNat).setWidth 32)).next)

/-- LI: RD = IMM, sign-extended. RA is not used. -/
def execLi (a : Issuer) (f : FmtI) (s : State) : Host.Outcome State Fault Refusal :=
  .next (issueReg s a (wordI 1 0x07 f) (plainI f && isS f.rd) fun _ y =>
    .ok (y.sput f.rd.toNat (f.imm.signExtend 64)).next)

/-- VLI: each active thread's vector RD = IMM. -/
def execVli (a : Issuer) (f : FmtI) (s : State) : Host.Outcome State Fault Refusal :=
  .next (issueReg s a (wordI 1 0x10 f) (f.rsv = 0) fun _ y =>
    .ok (threads.foldl (fun z t => if y.runs f.pg f.pn t then z.vput f.rd.toNat t f.imm else z) y).next)

end Sys2Proof.Machine
end

