-- ==== Sys2Proof/Machine/Spec.lean ====
section
/-! DEFINITION. Class SPEC: Cholesky factors, triangular solves, top-k and norms (Table 4-22, R149 to R152), and the pivot
record of the learning support unit (R322). Matrices are row-major FP32. -/
namespace Sys2Proof.Machine

/-! ## Factor and solve (R149, R150) -/

/-- A dot product in ascending index, each operation rounded once. -/
def dotAsc : List (W32 × W32) → W32
  | [] => 0
  | p :: r => r.foldl (fun acc q => f32Add acc (f32Mul q.1 q.2)) (f32Mul p.1 p.2)

/-- A value minus a dot product. -/
def subDot (a : W32) (ps : List (W32 × W32)) : W32 := if ps.isEmpty then a else f32Sub a (dotAsc ps)

/-- A pivot is failing: ≤ 0 or NaN. -/
def badPivot (v : W32) : Bool := !f32Lt 0 v

/-- Row i of the factor from the rows before it: its entries, the pivot last; none when the pivot fails. -/
def cholRow (rows : List (List W32)) (a : List W32) (i : Nat) : Option (List W32) :=
  let row := (List.range i).foldl (fun (row : List W32) j =>
    let r := rows.getD j []
    row ++ [f32Div (subDot (a.getD j 0) (row.zip r)) (r.getD j 0)]) []
  let v := subDot (a.getD i 0) (row.zip row)
  if badPivot v then none else some (row ++ [f32Sqrt v])

/-- The Cholesky factor of the lower triangle: its rows, or the index of the first failing pivot. -/
def chol (a : List (List W32)) : Except Nat (List (List W32)) :=
  ((List.range a.length).zip a).foldl (fun acc (i, row) =>
    match acc with
    | .error k => .error k
    | .ok rows => match cholRow rows row i with
      | none => .error i
      | some r => .ok (rows ++ [r])) (.ok [])

/-- Add to the diagonal. -/
def addDiag (m : List (List W32)) (lam : W32) : List (List W32) :=
  ((List.range m.length).zip m).map fun (i, r) => r.set i (f32Add (r.getD i 0) lam)

/-- The first index whose diagonal element is ≤ 0 or NaN. -/
def badDiag (m : List (List W32)) : Option Nat :=
  (((List.range m.length).zip m).find? fun (i, r) => badPivot (r.getD i 0)).map (·.1)

/-- Column c of X for L·X = B, or Lᵀ·X = B from the last row upward. -/
def triCol (m : List (List W32)) (trans : Bool) (b : List W32) : List W32 :=
  let n := m.length
  let entry := fun i k => (m.getD i []).getD k 0
  if trans then
    ((List.range n).reverse).foldl (fun (x : List W32) i =>
      f32Div (subDot (b.getD i 0) (((List.range x.length).map fun j => entry (i + 1 + j) i).zip x)) (entry i i) :: x) []
  else
    (List.range n).foldl (fun (x : List W32) i =>
      x ++ [f32Div (subDot (b.getD i 0) (((m.getD i []).take i).zip x)) (entry i i)]) []

/-- A damping value that is zero, negative or NaN counts as zero. -/
def dampOn (lam : W32) : Bool := f32Lt 0 lam

/-- The pivot word (Table 4-23). -/
def pivotWord (i : Nat) (damped : Bool) : W32 := BitVec.ofNat 32 (2 ^ 31 + (if damped then 2 ^ 30 else 0) + i)

/-- FACT: the factor to write, if any, and the pivot word. -/
def factRun (a : List (List W32)) (lam : W32) : Option (List (List W32)) × W32 :=
  match chol a with
  | .ok l => (some l, 0)
  | .error i =>
    if dampOn lam then
      match chol (addDiag a lam) with
      | .ok l => (some l, pivotWord i true)
      | .error _ => (none, pivotWord i false)
    else (none, pivotWord i false)

/-- SOLV: the matrix to solve with, if any, and the pivot word. -/
def solvRun (l : List (List W32)) (lam : W32) : Option (List (List W32)) × W32 :=
  match badDiag l with
  | none => (some l, 0)
  | some i =>
    if dampOn lam && (badDiag (addDiag l lam)).isNone then (some (addDiag l lam), pivotWord i true)
    else (none, pivotWord i false)

/-- Read n words, and a matrix of n rows of m. -/
def wordsAt (s : State) (a n : Nat) : List W32 := (List.range n).map fun i => BitVec.ofNat 32 (rd s (a + 4 * i) 4)
def matAt (s : State) (a n m : Nat) : List (List W32) := (List.range n).map fun i => wordsAt s (a + 4 * m * i) m

/-- The bytes of a lower-triangular factor as a whole matrix: above the diagonal 0. -/
def factBytes (l : List (List W32)) : List Byte :=
  l.flatMap fun r => slice (r.flatMap fun w => toLe 4 w.toNat) 0 (4 * l.length)

/-- The bytes of X from its columns. -/
def solBytes (cols : List (List W32)) (n : Nat) : List Byte :=
  (List.range n).flatMap fun i => cols.flatMap fun c => toLe 4 (c.getD i 0).toNat

/-! ## Issue -/

/-- The descriptor: own-store offsets as global addresses, n in len, K or the columns in cols. -/
def specDesc (tile : Nat) (d : List Byte) : AsyncOp :=
  let w := fieldAt d 0x10 4
  { src := tileAddr tile (fieldAt d 0 4)
    dst := tileAddr tile (fieldAt d 4 4)
    aux := tileAddr tile (fieldAt d 8 4)
    len := fieldAt d 0x0C 4
    cols := bits w 15 0
    flag := bits w 16 16 = 1
    srcFmt := bits w 20 17 }

/-- The reserved bits are 0, and so is each field the operation does not use (R118). -/
def specPlain (d : List Byte) (dst aux k flag : Bool) : Bool :=
  let w := fieldAt d 0x10 4
  (List.range 3).all (fun i => fieldAt d (4 * i) 4 < 2 ^ 23) && w < 2 ^ 21 && (List.range 44).all (fun i => fieldAt d (0x14 + i) 1 = 0)
    && (dst || fieldAt d 4 4 = 0) && (aux || fieldAt d 8 4 = 0) && (k || bits w 15 0 = 0) && (flag || bits w 16 16 = 0)

/-- The ranges an operation reads and writes. -/
def specSrcs (o : AsyncOp) : List (Nat × Nat) :=
  match o.kind with
  | .fact => [(o.src, 4 * o.len * o.len)]
  | .solv => [(o.src, 4 * o.len * o.len), (o.dst, 4 * o.len * o.cols)]
  | .topk => [(o.src, 4 * o.len)]
  | _ => [(o.src, o.len * (if o.srcFmt = 0 then 4 else 2)), (o.aux, 4)]
def specDsts (o : AsyncOp) : List (Nat × Nat) :=
  match o.kind with
  | .fact => [(o.dst, 4 * o.len * o.len)]
  | .solv => [(o.dst, 4 * o.len * o.cols)]
  | .topk => [(o.dst, 4 * o.cols), (o.aux, 4 * o.cols)]
  | _ => [(o.aux, 4)]

/-- The checks of an operation: its fields, then its ranges (R129). -/
def specOp (kind : AsyncKind) (s : State) (tile : Nat) (lam : W32) (l : Nat) (d : List Byte) : Except Byte AsyncOp :=
  let o : AsyncOp := { specDesc tile d with kind, lam }
  let ok := match kind with
    | .fact => specPlain d true false false false && 1 ≤ o.len && o.len ≤ 512 && o.srcFmt = 0
    | .solv => specPlain d true false true true && 1 ≤ o.len && o.len ≤ 512 && 1 ≤ o.cols && o.cols ≤ 512 && o.srcFmt = 0
    | .topk => specPlain d true true true true && 1 ≤ o.len && o.len ≤ 65536 && 1 ≤ o.cols && o.cols ≤ min 1024 o.len
        && o.srcFmt = 0
    | _ => specPlain d false true false false && 1 ≤ o.len && o.len ≤ 2 ^ 20 && o.srcFmt ≤ 1
  if !ok then .error stBad
  else
    let word : List (Nat × Nat) → List (Nat × Nat × Nat) := fun rs => rs.map fun r => (r.1, r.2, 4)
    let first := (specSrcs o).head?.toList.map fun r => (r.1, r.2, if kind = .normacc && o.srcFmt = 1 then 2 else 4)
    let st := rangesOk s (getLoom s l) (first ++ word ((specSrcs o).drop 1) ++ word (specDsts o))
    if st ≠ stOk then .error st else .ok o

def specIssue (op : Nat) (kind : AsyncKind) (usesB : Bool) (a : Issuer) (f : FmtD) (s : State) : State :=
  asyncIssue 0xC op usesB kind a f s (fun l y d => specOp kind s a.tile ((y.sget f.sb.toNat).setWidth 32) l d)
    (fun _ => false) specSrcs specDsts

def execFact (a : Issuer) (f : FmtD) (s : State) : Host.Outcome State Fault Refusal := .next (specIssue 0 .fact true a f s)
def execSolv (a : Issuer) (f : FmtD) (s : State) : Host.Outcome State Fault Refusal := .next (specIssue 1 .solv true a f s)
def execTopk (a : Issuer) (f : FmtD) (s : State) : Host.Outcome State Fault Refusal := .next (specIssue 2 .topk false a f s)
def execNormacc (a : Issuer) (f : FmtD) (s : State) : Host.Outcome State Fault Refusal := .next (specIssue 3 .normacc false a f s)

/-! ## Completion -/

/-- Count and capture a failing pivot (R322). -/
def notePivot (s : State) (l tile strand : Nat) (pw : W32) : State :=
  if !pw.getLsbD 31 then s
  else
    let s := countHalf s (lrnReg l 0x28) false
    let s := if pw.getLsbD 30 then countHalf s (lrnReg l 0x28) true else s
    let rec_ := tile * 2 ^ 32 + strand * 2 ^ 28 + (if pw.getLsbD 30 then 2 ^ 16 else 0) + bits pw.toNat 15 0
    let s := capture s (lrnReg l 0x30) (BitVec.ofNat 64 rec_) [(lrnReg l 0x38, s.tlm.timebase)]
    raiseEvt s .lrn 3 (some l) tile

/-- The sum of squares of NORMACC, with its flags (R152). -/
def normRun (acc : W32) (vals : List W32) : Nat → W32 × AFlags
  | 0 => (acc, 0)
  | fuel + 1 =>
    if vals.isEmpty then (acc, 0)
    else
      let sq := (vals.take 32).map fun w => fp2 f32Mul w w
      let leaves := sq.map (fun p => some p.1) ++ List.replicate (32 - sq.length) none
      let (t, fl) := treeFold (fp2 f32Add) 5 leaves
      let (r, fl') := fp2 f32Add acc (t.getD 0)
      let (out, fl'') := normRun r (vals.drop 32) fuel
      (out, (sq.foldl (fun a p => a ||| p.2) 0) ||| fl ||| fl' ||| fl'')

/-- Do the operation: the state, the high word of its tag, and its flags. -/
def specRun (tile : Nat) (s : State) (l : Nat) (o : AsyncOp) : State × W32 × W64 :=
  match o.kind with
  | .fact =>
    let (r, pw) := factRun (matAt s o.src o.len o.len) o.lam
    let s := match r with
      | some m => wrN s o.dst (factBytes m)
      | none => s
    (notePivot s l tile o.strand pw, pw, 0)
  | .solv =>
    let (r, pw) := solvRun (matAt s o.src o.len o.len) o.lam
    let s := match r with
      | some m =>
        let b := matAt s o.dst o.len o.cols
        wrN s o.dst (solBytes ((List.range o.cols).map fun c => triCol m o.flag (b.map fun row => row.getD c 0)) o.len)
      | none => s
    (notePivot s l tile o.strand pw, pw, 0)
  | .topk =>
    let sel := topkSel o.flag o.cols (wordsAt s o.src o.len)
    (wrN (wrN s o.dst (sel.flatMap fun p => toLe 4 (f32Canon p.2).toNat)) o.aux (sel.flatMap fun p => toLe 4 p.1), 0, 0)
  | _ =>
    let vals := if o.srcFmt = 0 then wordsAt s o.src o.len
      else (List.range o.len).map fun i => f32Of (elemVal o.srcFmt (rd s (o.src + 2 * i) 2))
    let (v, fl) := normRun (BitVec.ofNat 32 (rd s o.aux 4)) vals (o.len / 32 + 1)
    (wr s o.aux 4 v.toNat, 0, fl)

def execSpecComplete (a : Issuer) (tag : BitVec 16) (s : State) : Host.Outcome State Fault Refusal :=
  .next (alive s fun s => opComplete s a tag [.fact, .solv, .topk, .normacc] specSrcs specDsts (specRun a.tile))

end Sys2Proof.Machine
end

