-- ==== Sys2Proof/Machine/Sync.lean ====
section
/-! DEFINITION. Class SYNC: waits (R142 to R145), fences (R159), barriers (R121, R158) and semaphores (R146 to R148)
(Table 4-21). -/
namespace Sys2Proof.Machine

/-- The fields of a SYNC instruction: registers it does not use name s0 (R116, R498). -/
def syncOk (f : FmtD) (sd sa : Bool) : Bool := plainD f && f.sb = 0 && (sd || f.sd = 0) && (sa || f.sa = 0)

/-- INLINE fields of SYNC. -/
def syncScope (f : FmtD) : Nat := bits f.inl.toNat 34 32
def syncBar (f : FmtD) : Nat := bits f.inl.toNat 31 28
def syncN (f : FmtD) : Nat := bits f.inl.toNat 27 12
def syncSem (f : FmtD) : Nat := bits f.inl.toNat 11 0

/-! ## WAIT, WAITALL, FENCE -/

/-- The strand blocks, and goes on at once when it need not wait. -/
def Strand.block (x : Strand) (b : Block) : Strand := ({ x with blocked := b }).wake

/-- WAIT on a tag the strand has not issued faults (R145). -/
def execWait (a : Issuer) (f : FmtD) (s : State) : Host.Outcome State Fault Refusal :=
  .next <| issueReg s a (wordD 0xB 0 f) (syncOk f true true) fun _ y =>
    let v := y.sget f.sa.toNat
    if 0xFFFF < v.toNat || (y.tagRec (v.setWidth 16)).isNone then .error stBad
    else .ok (y.block (.wait (v.setWidth 16) f.sd.toNat))

def execWaitall (a : Issuer) (f : FmtD) (s : State) : Host.Outcome State Fault Refusal :=
  .next <| issueReg s a (wordD 0xB 1 f) (syncOk f true false) fun _ y =>
    .ok (y.block (.waitAll (y.incomplete.map (·.tag)) f.sd.toNat))

/-- FENCE: with one command one step every access is already in order; REMOTE waits for the strand's RMT WR and ADD. -/
def execFence (a : Issuer) (f : FmtD) (s : State) : Host.Outcome State Fault Refusal :=
  .next <| issueReg s a (wordD 0xB 2 f) (syncOk f false false && syncScope f < 4) fun _ y =>
    .ok (if syncScope f = 3 then y.block .fence else y.next)

/-! ## BAR -/

/-- Whether a strand has arrived at a barrier: it waits there, or it has ended (R121). -/
def Strand.arrived (x : Strand) (loomScope : Bool) (id : Nat) : Bool := x.ended || x.blocked = .bar loomScope id

/-- Every strand of a barrier's scope has arrived: those that wait there go on. -/
def barRelease (s : State) (tiles : List Nat) (loomScope : Bool) (id : Nat) : State :=
  let all := tiles.flatMap fun t => (List.range 16).map fun k => ({ tile := t, strand := k } : Issuer)
  if all.all fun a => (getStrand s a).arrived loomScope id then
    all.foldl (fun s a =>
      if (getStrand s a).blocked = .bar loomScope id then
        modStrand s a fun x => ({ x with blocked := .free } : Strand).next
      else s) s
  else s

/-- Barriers that a strand's arrival or end may complete: of its tile, and of its loom's command. -/
def settleBars (s : State) (l tile : Nat) : State :=
  let group := match (getLoom s l).cmd with
    | some c => c.tiles
    | none => []
  let ids := fun (loomScope : Bool) (tiles : List Nat) =>
    (tiles.flatMap fun t => (getTile s t).strands.filterMap fun kv => match kv.2.blocked with
      | .bar g id => if g = loomScope then some id else none
      | _ => none).eraseDups
  let s := (ids false [tile]).foldl (fun s id => barRelease s [tile] false id) s
  (ids true group).foldl (fun s id => barRelease s group true id) s

/-- BAR: a strand is alone in scope STRAND; scope REMOTE names no set of strands and is refused. -/
def execBar (a : Issuer) (f : FmtD) (s : State) : Host.Outcome State Fault Refusal :=
  .next <| issue s a (wordD 0xB 3 f) fun l y =>
    if !(syncOk f false false && syncScope f < 3) then .fault stBad
    else if syncScope f = 0 then .done (setStrand s a y.next)
    else
      let y : Strand := { y with blocked := .bar (syncScope f = 2) (syncBar f) }
      .done (settleBars (setStrand s a y) l a.tile)

/-! ## Semaphores -/

/-- A semaphore instruction completes: SD receives its status. -/
def semStatus (s : State) (a : Issuer) (sd : Nat) (st : Byte) : State :=
  modStrand s a fun y => (y.sput sd (stWord st)).next

/-- Issue a semaphore instruction: the checks of Table 4-21, SEM_REVOKED once after a revocation (R148), PERMISSION on a
shared semaphore the loom's session may not use (R248). -/
def semIssue (op : Nat) (a : Issuer) (f : FmtD) (s : State)
    (own : Nat → Strand → State) (shared : Nat → SharedSem → State) : State :=
  issue s a (wordD 0xB op f) fun l y =>
    let n := syncSem f
    if !(syncOk f true false && syncN f ≠ 0 && (n < 0x100 || (0x800 ≤ n && n < 0xC00))) then .fault stBad
    else
      let x := getLoom s l
      let sd := f.sd.toNat
      if x.revoked then .done (semStatus (setLoom s l { x with revoked := false }) a sd stSemRevoked)
      else if n < 0x100 then .done (own l y)
      else
        match tfind s.ssems n with
        | some q => if q.mask.getLsbD x.session then .done (shared l q) else .done (semStatus s a sd stPerm)
        | none => .done (semStatus s a sd stPerm)

/-- Acquire: at once when the units are there and no older acquire waits; else wait, or BUSY. -/
def semAcquire (op : Nat) (wait : Bool) (a : Issuer) (f : FmtD) (s : State) : State :=
  let n := syncN f
  let sem := syncSem f
  let sd := f.sd.toNat
  let blocked := fun s => modStrand s a fun (y : Strand) => { y with blocked := .sem sem n sd }
  semIssue op a f s
    (fun l _ =>
      let x := getLoom s l
      let have_ := (tget 0 x.sems sem).toNat
      let queued := x.semWaiters.any fun w => w.1 = sem
      if n ≤ have_ && !(wait && queued) then
        semStatus (setLoom s l { x with sems := tset 0 x.sems sem (tget 0 x.sems sem - BitVec.ofNat 32 n) }) a sd stOk
      else if wait then blocked (setLoom s l { x with semWaiters := x.semWaiters ++ [(sem, a.tile, a.strand)] })
      else semStatus s a sd stBusy)
    (fun l q =>
      if n ≤ q.count.toNat && !(wait && !q.waiters.isEmpty) then
        let q : SharedSem := { q with count := q.count - BitVec.ofNat 32 n, units := tmod 0 q.units l (· + n) }
        preemptEval (semStatus { s with ssems := tput s.ssems sem q } a sd stOk) l
      else if wait then
        blocked { s with ssems := tput s.ssems sem { q with waiters := q.waiters ++ [(l, a.tile, a.strand, n)] } }
      else semStatus s a sd stBusy)

def execSemacq (a : Issuer) (f : FmtD) (s : State) : Host.Outcome State Fault Refusal := .next (semAcquire 4 true a f s)
def execSemtry (a : Issuer) (f : FmtD) (s : State) : Host.Outcome State Fault Refusal := .next (semAcquire 5 false a f s)

/-- Release (R146, R147): waiters are served oldest first; units no longer held may end a deferred pre-emption (R241). -/
def semRelease (a : Issuer) (f : FmtD) (s : State) : State :=
  let n := syncN f
  let sem := syncSem f
  let sd := f.sd.toNat
  semIssue 6 a f s
    (fun l _ =>
      let x := getLoom s l
      let c := (tget 0 x.sems sem).toNat
      if 0xFFFFFFFF < c + n then semStatus s a sd stBad
      else serveLoomSem (semStatus (setLoom s l { x with sems := tset 0 x.sems sem (BitVec.ofNat 32 (c + n)) }) a sd stOk) l sem)
    (fun l q =>
      let held := tget 0 q.units l
      if held < n || 0xFFFFFFFF < q.count.toNat + n then semStatus s a sd stBad
      else
        let q : SharedSem := { q with count := q.count + BitVec.ofNat 32 n, units := tset 0 q.units l (held - n) }
        preemptEval (serveSem (semStatus { s with ssems := tput s.ssems sem q } a sd stOk) sem) l)

def execSemrel (a : Issuer) (f : FmtD) (s : State) : Host.Outcome State Fault Refusal := .next (semRelease a f s)

end Sys2Proof.Machine
end

