-- ==== Sys2Proof/Machine/Sys.lean ====
section
/-! DEFINITION. Class SYS: special registers, the status word, NOP and END (Table 4-24, R121, R128, R153). -/
namespace Sys2Proof.Machine

/-- The pick of the batch step a loom runs: 0xFFFF_FFFF outside a generator loom; a generator that runs no batch step has
a free value. -/
def srPick (s : State) (l : Nat) (free : W64) : W64 :=
  match genWeave s l with
  | none => 0xFFFFFFFF
  | some _ => match (getLoom s l).srv.formed with
    | some f => BitVec.ofNat 64 f.pick
    | none => free

/-- A special register (Table 4-24). k numbers the free values of this read; SR_CYCLE has counted on by a free number of
cycles since it was last read. -/
def specialReg (s : State) (l : Nat) (a : Issuer) (y : Strand) (k n : Nat) : W64 :=
  let x := getLoom s l
  match n with
  | 0 => s.tlm.timebase
  | 1 => y.cycles + BitVec.ofNat 64 (Config.freeNat k)
  | 2 => BitVec.ofNat 64 (((loomTiles x).idxOf? a.tile).getD 0)
  | 3 => BitVec.ofNat 64 ((x.cmd.map fun c => c.tiles.length).getD 0)
  | 4 => BitVec.ofNat 64 a.strand
  | 5 => BitVec.ofNat 64 a.tile
  | 6 => BitVec.ofNat 64 l
  | 7 => y.asw
  | 8 => srPick s l (Config.freeWord (k + 1))
  | _ => y.tagNext.setWidth 64

/-- RDSR. -/
def execRdsr (a : Issuer) (f : FmtI) (s : State) : Host.Outcome State Fault Refusal :=
  .next <| issue s a (wordI 0xD 0 f) fun l y =>
    let n := f.imm.toNat % 256
    if !(plainI f && isS f.rd && n < 0x0A) then .fault stBad
    else
      let v := specialReg s l a y s.free n
      let y := if n = 1 then { y with cycles := v } else y
      .done (setStrand (drawFree s 2).2 a (y.sput f.rd.toNat v).next)

/-- CLRASW. -/
def execClrasw (a : Issuer) (f : FmtI) (s : State) : Host.Outcome State Fault Refusal :=
  .next <| issueReg s a (wordI 0xD 1 f) (plainI f) fun _ y =>
    .ok ({ y with asw := y.asw &&& ~~~ f.imm.setWidth 64 } : Strand).next

/-- NOP. -/
def execNop (a : Issuer) (f : FmtI) (s : State) : Host.Outcome State Fault Refusal :=
  .next <| issueReg s a (wordI 0xD 2 f) (plainI f) fun _ y => .ok y.next

/-- END: the strand counts as arrived at every later barrier of the command (R121). -/
def execEndStrand (a : Issuer) (f : FmtI) (s : State) : Host.Outcome State Fault Refusal :=
  .next <| issue s a (wordI 0xD 3 f) fun l y =>
    if !plainI f then .fault stBad
    else .done (settleBars (setStrand s a { y with ended := true }) l a.tile)

end Sys2Proof.Machine
end

