-- ==== Sys2Proof/Machine/Valu.lean ====
section
/-! DEFINITION. Class VALU: vector instructions, once for each thread under its predicate (Table 4-12, R66, R116,
R124). -/
namespace Sys2Proof.Machine

/-- Write a result to vector register rd of every active thread: g gives the thread's result and flags from the
strand as it was. -/
def vecWrite (y : Strand) (pg : BitVec 3) (pn : Bool) (rd : Nat) (g : Nat → W32 × AFlags) : Strand :=
  threads.foldl (fun z t => if y.runs pg pn t then (z.vput rd t (g t).1).flag (g t).2 else z) y

/-- Write predicate register rd of every active thread. -/
def predWrite (y : Strand) (pg : BitVec 3) (pn : Bool) (rd : Nat) (g : Nat → Bool) : Strand :=
  threads.foldl (fun z t => if y.runs pg pn t then z.pput rd t (g t) else z) y

/-- A vector operation on vector sources. rounds: the operation rounds, so RND must be RNE (R57). -/
def valu (op : Nat) (rounds : Bool) (g : Strand → FmtR → Nat → W32 × AFlags) (a : Issuer) (f : FmtR) (s : State) :
    Host.Outcome State Fault Refusal :=
  .next (issueReg s a (wordR 3 op f) (fieldsR f && (!rounds || f.rnd = 0)) fun _ y =>
    .ok (vecWrite y f.pg f.pn f.rd.toNat (g y f)).next)

/-- A vector comparison into a predicate. -/
def vcmp (op : Nat) (g : W32 → W32 → Bool) (a : Issuer) (f : FmtR) (s : State) : Host.Outcome State Fault Refusal :=
  .next (issueReg s a (wordR 3 op f) (fieldsR f && isP f.rd) fun _ y =>
    .ok (predWrite y f.pg f.pn f.rd.toNat fun t => g (y.vget f.ra.toNat t) (y.vget f.rb.toNat t)).next)

/-- A predicate operation. -/
def vpred (op : Nat) (two : Bool) (g : Bool → Bool → Bool) (a : Issuer) (f : FmtR) (s : State) :
    Host.Outcome State Fault Refusal :=
  .next (issueReg s a (wordR 3 op f) (fieldsR f && isP f.rd && isP f.ra && (!two || isP f.rb)) fun _ y =>
    .ok (predWrite y f.pg f.pn f.rd.toNat fun t => g (y.pget f.ra.toNat t) (y.pget f.rb.toNat t)).next)

/-- FP32 of one, two and three sources. -/
def vf1 (h : W32 → W32) (y : Strand) (f : FmtR) (t : Nat) : W32 × AFlags := fp1 h (y.vget f.ra.toNat t)
def vf2 (h : W32 → W32 → W32) (y : Strand) (f : FmtR) (t : Nat) : W32 × AFlags :=
  fp2 h (y.vget f.ra.toNat t) (y.vget f.rb.toNat t)
def vf3 (h : W32 → W32 → W32 → W32) (y : Strand) (f : FmtR) (t : Nat) : W32 × AFlags :=
  fp3 h (y.vget f.ra.toNat t) (y.vget f.rb.toNat t) (y.vget f.rc.toNat t)
/-- Integer of two sources. -/
def vi2 (h : W32 → W32 → W32) (y : Strand) (f : FmtR) (t : Nat) : W32 × AFlags :=
  (h (y.vget f.ra.toNat t) (y.vget f.rb.toNat t), 0)

def execFadd (a : Issuer) (f : FmtR) (s : State) := valu 0x00 true (vf2 f32Add) a f s
def execFsub (a : Issuer) (f : FmtR) (s : State) := valu 0x01 true (vf2 f32Sub) a f s
def execFmul (a : Issuer) (f : FmtR) (s : State) := valu 0x02 true (vf2 f32Mul) a f s
def execFfma (a : Issuer) (f : FmtR) (s : State) := valu 0x03 true (vf3 f32Fma) a f s
def execFdiv (a : Issuer) (f : FmtR) (s : State) :=
  valu 0x04 true (fun y f t => fpDiv (y.vget f.ra.toNat t) (y.vget f.rb.toNat t)) a f s
def execFsqrt (a : Issuer) (f : FmtR) (s : State) := valu 0x05 true (vf1 f32Sqrt) a f s
def execFrsq (a : Issuer) (f : FmtR) (s : State) := valu 0x06 true (vf1 f32Rsqrt) a f s
def execFexp2 (a : Issuer) (f : FmtR) (s : State) := valu 0x07 true (vf1 f32Exp2) a f s
def execFlog2 (a : Issuer) (f : FmtR) (s : State) := valu 0x08 true (vf1 f32Log2) a f s
def execFmin (a : Issuer) (f : FmtR) (s : State) := valu 0x09 false (vf2 f32Min) a f s
def execFmax (a : Issuer) (f : FmtR) (s : State) := valu 0x0A false (vf2 f32Max) a f s
def execFcmplt (a : Issuer) (f : FmtR) (s : State) := vcmp 0x0B f32Lt a f s
def execFcmpeq (a : Issuer) (f : FmtR) (s : State) := vcmp 0x0C f32Eq a f s
def execIadd (a : Issuer) (f : FmtR) (s : State) := valu 0x10 false (vi2 (· + ·)) a f s
def execIsub (a : Issuer) (f : FmtR) (s : State) := valu 0x11 false (vi2 (· - ·)) a f s
def execImul (a : Issuer) (f : FmtR) (s : State) := valu 0x12 false (vi2 (· * ·)) a f s
def execIand (a : Issuer) (f : FmtR) (s : State) := valu 0x13 false (vi2 (· &&& ·)) a f s
def execIor (a : Issuer) (f : FmtR) (s : State) := valu 0x14 false (vi2 (· ||| ·)) a f s
def execIxor (a : Issuer) (f : FmtR) (s : State) := valu 0x15 false (vi2 (· ^^^ ·)) a f s
def execIcmplt (a : Issuer) (f : FmtR) (s : State) := vcmp 0x18 (fun x y => x.slt y) a f s
def execMov (a : Issuer) (f : FmtR) (s : State) := valu 0x20 false (fun y f t => (y.vget f.ra.toNat t, 0)) a f s
def execPand (a : Issuer) (f : FmtR) (s : State) := vpred 0x28 true (· && ·) a f s
def execPor (a : Issuer) (f : FmtR) (s : State) := vpred 0x29 true (· || ·) a f s
def execPnot (a : Issuer) (f : FmtR) (s : State) := vpred 0x2A false (fun x _ => !x) a f s

/-- A 32-bit shift. The manual gives no result for a count of 32 or more: the result is then a free value (log 17),
the k-th for thread t. -/
def vshift (op : Nat) (h : W32 → Nat → W32) (a : Issuer) (f : FmtR) (s : State) : Host.Outcome State Fault Refusal :=
  .next (issue s a (wordR 3 op f) fun _ y =>
    if !fieldsR f then .fault stBad
    else
      let (k, s') := drawFree s 32
      let z := vecWrite y f.pg f.pn f.rd.toNat fun t =>
        let n := (y.vget f.rb.toNat t).toNat
        (if n < 32 then h (y.vget f.ra.toNat t) n else (Config.freeWord (k + t)).setWidth 32, 0)
      .done (setStrand s' a z.next))

def execIshl (a : Issuer) (f : FmtR) (s : State) := vshift 0x16 (fun x n => x <<< n) a f s
/-- ISHR is logical: the manual's arithmetic shifts are named SRA (log 17). -/
def execIshr (a : Issuer) (f : FmtR) (s : State) := vshift 0x17 (fun x n => x >>> n) a f s

/-- BCAST: the low 32 bits of scalar ra. -/
def execBcast (a : Issuer) (f : FmtR) (s : State) : Host.Outcome State Fault Refusal :=
  .next (issueReg s a (wordR 3 0x21 f) (fieldsR f && isS f.ra) fun _ y =>
    .ok (vecWrite y f.pg f.pn f.rd.toNat fun _ => ((y.sget f.ra.toNat).setWidth 32, 0)).next)

/-- SHFL: rd[t] = ra[rb[t] & 31], all read before any write. -/
def execShfl (a : Issuer) (f : FmtR) (s : State) : Host.Outcome State Fault Refusal :=
  .next (issueReg s a (wordR 3 0x32 f) (fieldsR f) fun _ y =>
    .ok (vecWrite y f.pg f.pn f.rd.toNat fun t =>
      (y.vget f.ra.toNat (y.vget f.rb.toNat t &&& 31).toNat, 0)).next)

/-- The leaves of a reduction: an inactive thread is absent (R124). -/
def leaves (y : Strand) (f : FmtR) : List (Option W32) :=
  threads.map fun t => if y.runs f.pg f.pn t then some (y.vget f.ra.toNat t) else none

/-- A reduction into bits 31:0 of scalar rd; the manual does not give bits 63:32, which are a free value (log 18). -/
def reduce (op : Nat) (rounds : Bool) (h : W32 → W32 → W32 × AFlags) (none_ : W32) (a : Issuer) (f : FmtR) (s : State) :
    Host.Outcome State Fault Refusal :=
  .next (issue s a (wordR 3 op f) fun _ y =>
    if !(fieldsR f && isS f.rd && (!rounds || f.rnd = 0)) then .fault stBad
    else
      let (k, s') := drawFree s 1
      let (r, fl) := treeFold h 5 (leaves y f)
      let hi : W32 := (Config.freeWord k).setWidth 32
      .done (setStrand s' a ((y.sput f.rd.toNat (hi ++ f32Canon (r.getD none_))).flag fl).next))

def execRedadd (a : Issuer) (f : FmtR) (s : State) := reduce 0x30 true (fp2 f32Add) 0 a f s
def execRedmax (a : Issuer) (f : FmtR) (s : State) := reduce 0x31 false (fp2 f32Max) f32Nan a f s

end Sys2Proof.Machine
end

