-- ==== Sys2Proof/Machine/Vcvt.lean ====
section
/-! DEFINITION. Class VCVT: format conversion and MX quantisation (R45, R49, R52 to R59, R125 to R127). -/
namespace Sys2Proof.Machine

/-- A format that CVT accepts (R125). -/
def cvtFmt (c : Nat) : Bool := c == 0 || c == 1 || c == 2 || c == 3 || c == 4 || c == 9

/-- CVT: rd = convert(ra, FMT2 → FMT, RND, SAT). -/
def execCvt (a : Issuer) (f : FmtR) (s : State) : Host.Outcome State Fault Refusal :=
  .next (issueReg s a (wordR 4 0x00 f)
      (fieldsR f && cvtFmt f.fmt.toNat && cvtFmt f.fmt2.toNat && rndOk f.rnd.toNat f.fmt2.toNat f.fmt.toNat) fun l y =>
    let seed := (getLoom s l).seed
    .ok (vecWrite y f.pg f.pn f.rd.toNat fun t =>
      let r := encode f.fmt.toNat (modeOf f.rnd.toNat (y.drawBits seed t)) f.sat
        (elemVal f.fmt2.toNat (y.vget f.ra.toNat t).toNat)
      (BitVec.ofNat 32 r.1, r.2)).next)

/-- The word MXQ leaves in a thread's rd: its element in bits 7:0, or 3:0 for MXE2M1, below bits of the free word u. -/
def mxqWord (fmt : Nat) (u : W64) (e : Nat) : W32 :=
  if fmt = 7 then u.setWidth 28 ++ BitVec.ofNat 4 e else u.setWidth 24 ++ BitVec.ofNat 8 e

/-- MXQ: the 32 threads' values are one block; each element to its thread, the scale to bits 7:0 of scalar RC. The
manual gives neither bits 63:8 of RC nor the bits of each thread's rd above its element: they are free values (logs 18, 120),
those of thread t the k+1+t-th. -/
def execMxq (a : Issuer) (f : FmtR) (s : State) : Host.Outcome State Fault Refusal :=
  .next (issue s a (wordR 4 0x01 f) fun l y =>
    if !(fieldsR f && isS f.rc && isMx f.fmt.toNat && rndOk f.rnd.toNat 0 f.fmt.toNat
        && threads.all (y.runs f.pg f.pn)) then .fault stBad
    else
      let seed := (getLoom s l).seed
      let (k, s') := drawFree s 33
      let (sc, es, fl) := mxBlock f.fmt.toNat (fun t => modeOf f.rnd.toNat (y.drawBits seed t))
        (threads.map fun t => f32Val (y.vget f.ra.toNat t))
      let z := vecWrite y f.pg f.pn f.rd.toNat fun t => (mxqWord f.fmt.toNat (Config.freeWord (k + 1 + t)) (es.getD t 0), 0)
      let w : W64 := (Config.freeWord k).setWidth 56 ++ BitVec.ofNat 8 sc
      .done (setStrand s' a ((z.sput f.rc.toNat w).flag fl).next))

/-- MXDQ: rd = element(ra, FMT2) × 2^(scale − 127), scale = scalar rb[7:0], one RNE rounding to FP32. A scale
of 0xFF is a NaN input (Table 2-2), so it sets no INV. -/
def execMxdq (a : Issuer) (f : FmtR) (s : State) : Host.Outcome State Fault Refusal :=
  .next (issueReg s a (wordR 4 0x02 f) (fieldsR f && isS f.rb && isMx f.fmt2.toNat && f.rnd = 0) fun _ y =>
    let sc := ((y.sget f.rb.toNat) &&& 0xff).toNat
    .ok (vecWrite y f.pg f.pn f.rd.toNat fun t =>
      let e := (y.vget f.ra.toNat t).toNat
      let r := shF32.narrow .rne false (mxVal f.fmt2.toNat e sc)
      (BitVec.ofNat 32 r.1, r.2)).next)

end Sys2Proof.Machine
end

