-- ==== Sys2Proof/Machine/Xfer.lean ====
section
/-! DEFINITION. Class XFER: copies, gathers, scatters and embedding bags (Table 4-18, R68, R136 to R138). list holds what
was read at issue: the indices, and before them the bag list of an EBAG. -/
namespace Sys2Proof.Machine

/-- Read n 32-bit words at issue: their alignment, permission and poison (R129, R136, R154). -/
def words32 (s : State) (l : Nat) (a n : Nat) : Except Byte (List Nat) :=
  if a % 4 ≠ 0 then .error stBad
  else if n = 0 then .ok []
  else
    let st := accStatus s.variant (getLoom s l) a (4 * n) 4
    if st ≠ stOk then .error st
    else if poisonHit s a (4 * n) then .error stUncorr
    else .ok ((List.range n).map fun i => leNat (readVia s l (a + 4 * i) 4))

/-- The descriptor of a transfer. -/
def xferDesc (d : List Byte) : AsyncOp :=
  let w := fieldAt d 0x24 4
  let m := fieldAt d 0x30 4
  { src := fieldAt d 0x00 8
    dst := fieldAt d 0x08 8
    aux := fieldAt d 0x10 8
    wgt := fieldAt d 0x18 8
    len := fieldAt d 0x20 4
    row := bits w 15 0
    rows := bits w 31 16
    remote := fieldAt d 0x28 8
    srcFmt := bits m 3 0
    dstFmt := bits m 7 4
    rnd := bits m 9 8
    sat := bits m 10 10 = 1
    stream := BitVec.ofNat 32 (fieldAt d 0x34 4)
    tensorId := BitVec.ofNat 32 (fieldAt d 0x38 4) }

/-- The reserved bits of the descriptor are 0 (R118). -/
def xferRsv (d : List Byte) : Bool := bits (fieldAt d 0x30 4) 31 11 = 0 && fieldAt d 0x3C 4 = 0

/-- The fields only an EBAG uses are 0. -/
def noBag (o : AsyncOp) : Bool :=
  o.wgt = 0 && o.rows = 0 && o.remote = 0 && o.srcFmt = 0 && o.dstFmt = 0 && o.rnd = 0 && !o.sat && o.stream = 0
    && o.tensorId = 0

/-- COPY: LEN in len. The manual names no element of a COPY, GATHER or SCATTER, so their ranges need no alignment (log 119). -/
def copyOp (s : State) (l : Nat) (d : List Byte) : Except Byte AsyncOp :=
  let o := xferDesc d
  if !(xferRsv d && noBag o && o.aux = 0 && o.row = 0 && o.len % 4 = 0 && o.len ≤ 16 * 2 ^ 20) then .error stBad
  else
    let st := rangesOk s (getLoom s l) [(o.src, o.len, 1), (o.dst, o.len, 1)]
    if st ≠ stOk then .error st else .ok o

/-- The row an index names lies in the loom's regions, or the fault is PERMISSION (R136). -/
def rowsOk (s : State) (x : Loom) (base row : Nat) (idx : List Nat) : Byte :=
  if idx.all fun i => row = 0 || accStatus s.variant x (base + i * row) row 1 = stOk then stOk else stPerm

/-- GATHER and SCATTER: COUNT in len. -/
def indexedOp (gather : Bool) (s : State) (l : Nat) (d : List Byte) : Except Byte AsyncOp :=
  let o := xferDesc d
  if !(xferRsv d && noBag o && o.row % 4 = 0) then .error stBad
  else
    match words32 s l o.aux o.len with
    | .error st => .error st
    | .ok idx =>
      let x := getLoom s l
      let (far, near) := if gather then (o.src, o.dst) else (o.dst, o.src)
      let st := rangesOk s x [(near, o.len * o.row, 1)]
      if st ≠ stOk then .error st
      else
        let st := rowsOk s x far o.row idx
        if st ≠ stOk then .error st else .ok { o with list := idx }

/-- Formats of an embedding bag. -/
def bagFmt (c : Nat) : Bool := c ≤ 4

/-- EBAG: the checks of R136. list holds NBAGS + 1 entry numbers and then the indices from the first of them. -/
def ebagOp (s : State) (l : Nat) (d : List Byte) : Except Byte AsyncOp :=
  let o := xferDesc d
  if !(xferRsv d && o.row % 4 = 0 && bagFmt o.srcFmt && bagFmt o.dstFmt && rndOk o.rnd 0 o.dstFmt && o.wgt % 4 = 0
      && o.src % fmtBytes o.srcFmt = 0 && o.dst % fmtBytes o.dstFmt = 0) then .error stBad
  else
    match words32 s l o.remote (o.rows + 1) with
    | .error st => .error st
    | .ok bags =>
      let lo := bags.headD 0
      let hi := bags.getLastD 0
      if !((bags.zip (bags.drop 1)).all fun p => p.1 ≤ p.2) || o.len < hi then .error stBad
      else
        match words32 s l (o.aux + 4 * lo) (hi - lo) with
        | .error st => .error st
        | .ok idx =>
          let x := getLoom s l
          let st := rangesOk s x ([(o.dst, o.rows * (o.row / fmtBytes o.srcFmt) * fmtBytes o.dstFmt, 1)]
            ++ if o.wgt = 0 then [] else [(o.wgt + 4 * lo, 4 * (hi - lo), 4)])
          if st ≠ stOk then .error st
          else
            let st := rowsOk s x o.src o.row idx
            if st ≠ stOk then .error st else .ok { o with list := bags ++ idx }

/-- What a transfer reads. -/
def xferSrc (o : AsyncOp) : List (Nat × Nat) :=
  match o.kind with
  | .copy => [(o.src, o.len)]
  | .gather => o.list.map fun i => (o.src + i * o.row, o.row)
  | .scatter => [(o.src, o.len * o.row)]
  | .ebag =>
    let lo := o.list.headD 0
    let idx := o.list.drop (o.rows + 1)
    idx.map (fun i => (o.src + i * o.row, o.row)) ++ if o.wgt = 0 then [] else [(o.wgt + 4 * lo, 4 * idx.length)]
  | _ => []

/-- What a transfer writes. -/
def xferDst (o : AsyncOp) : List (Nat × Nat) :=
  match o.kind with
  | .copy => [(o.dst, o.len)]
  | .gather => [(o.dst, o.len * o.row)]
  | .scatter => o.list.eraseDups.map fun i => (o.dst + i * o.row, o.row)
  | .ebag => [(o.dst, o.rows * (o.row / fmtBytes o.srcFmt) * fmtBytes o.dstFmt)]
  | _ => []

/-- From a base to the end of the highest row that indices name. -/
def rowsSpan (base row : Nat) (idx : List Nat) : List (Nat × Nat) :=
  if idx.isEmpty then [] else [(base, (idx.foldl max 0 + 1) * row)]

/-- The blocks a transfer of a kind names as a whole (R102): on the indexed side, from the base to the end of the highest row
named (log 118). -/
def xferReads (kind : AsyncKind) (o : AsyncOp) : List (Nat × Nat) :=
  match kind with
  | .gather => rowsSpan o.src o.row o.list
  | .ebag => rowsSpan o.src o.row (o.list.drop (o.rows + 1))
      ++ (if o.wgt = 0 then [] else [(o.wgt + 4 * o.list.headD 0, 4 * (o.list.drop (o.rows + 1)).length)])
  | _ => xferSrc { o with kind }
def xferWrites (kind : AsyncKind) (o : AsyncOp) : List (Nat × Nat) :=
  match kind with
  | .scatter => rowsSpan o.dst o.row o.list
  | _ => xferDst { o with kind }

/-- What a transfer reads at issue: its indices, and the bag list of an EBAG (R136). -/
def xferLists (kind : AsyncKind) (s : State) (l : Nat) (d : List Byte) : List (Nat × Nat) :=
  let o := xferDesc d
  if kind = .ebag then
    (o.remote, 4 * (o.rows + 1)) :: match words32 s l o.remote (o.rows + 1) with
      | .ok bags => [(o.aux + 4 * bags.headD 0, 4 * (bags.getLastD 0 - bags.headD 0))]
      | .error _ => []
  else [(o.aux, 4 * o.len)]

/-- Issue a transfer. -/
def xferIssue (op : Nat) (kind : AsyncKind) (a : Issuer) (f : FmtD) (s : State) (k : Nat → List Byte → Except Byte AsyncOp) : State :=
  asyncIssue 8 op false kind a f s (fun l _ d => k l d) (fun _ => false) (xferReads kind) (xferWrites kind) (xferLists kind)

def execCopy (a : Issuer) (f : FmtD) (s : State) : Host.Outcome State Fault Refusal :=
  .next (xferIssue 0 .copy a f s (copyOp s))

def execGather (a : Issuer) (f : FmtD) (s : State) : Host.Outcome State Fault Refusal :=
  .next (xferIssue 1 .gather a f s (indexedOp true s))

def execScatter (a : Issuer) (f : FmtD) (s : State) : Host.Outcome State Fault Refusal :=
  .next (xferIssue 2 .scatter a f s (indexedOp false s))

def execEbag (a : Issuer) (f : FmtD) (s : State) : Host.Outcome State Fault Refusal :=
  .next (xferIssue 3 .ebag a f s (ebagOp s))

/-- Move n bytes as a loom: all are read, then all written. -/
def moveBytes (s : State) (l src dst n : Nat) : State := if n = 0 then s else writeVia s l dst (readVia s l src n)

/-- The row agents count a move (R218). -/
def touchMove (s : State) (l src dst n : Nat) : State :=
  if n = 0 then s else touchRange (touchRange s l src n false) l dst n true

/-- Element j of bag b: the sum in index-list order from 0.0, one fused multiply-add under a weight (R68). -/
def bagElem (s : State) (l : Nat) (o : AsyncOp) (b j : Nat) : W32 × AFlags :=
  let lo := o.list.headD 0
  let first := o.list.getD b 0 - lo
  let n := o.list.getD (b + 1) 0 - o.list.getD b 0
  let idx := ((o.list.drop (o.rows + 1)).drop first).take n
  (idx.zip (List.range n)).foldl (fun acc (i, k) =>
    let sz := fmtBytes o.srcFmt
    let x := f32Of (elemVal o.srcFmt (leNat (readVia s l (o.src + i * o.row + j * sz) sz)))
    let r := if o.wgt = 0 then fp2 f32Add acc.1 x
      else fp3 f32Fma x (BitVec.ofNat 32 (leNat (readVia s l (o.wgt + 4 * (lo + first + k)) 4))) acc.1
    (r.1, acc.2 ||| r.2)) ((0 : W32), (0 : AFlags))

/-- The rows of an embedding bag, in DST_FMT (R136). -/
def ebagGo (s : State) (l : Nat) (o : AsyncOp) : State × AFlags :=
  let e := o.row / fmtBytes o.srcFmt
  let ds := fmtBytes o.dstFmt
  let seed := (getLoom s l).seed
  let r := (List.range (o.rows * e)).foldl (fun acc k =>
    let (v, fl) := bagElem s l o (k / e) (k % e)
    let (w, fl') := encode o.dstFmt (modeOf o.rnd (srBits seed o.stream o.tensorId (BitVec.ofNat 64 k))) o.sat (f32Val v)
    (writeVia acc.1 l (o.dst + k * ds) (toLe ds w), acc.2 ||| fl ||| fl')) (s, (0 : AFlags))
  ((o.list.drop (o.rows + 1)).foldl (fun acc i => touchRange acc l (o.src + i * o.row) o.row false) r.1, r.2)

/-- The moves of a transfer, in order: source, destination and bytes (Table 4-18). -/
def xferMoves (o : AsyncOp) : List (Nat × Nat × Nat) :=
  let rows := o.list.zip (List.range o.list.length)
  match o.kind with
  | .copy => [(o.src, o.dst, o.len)]
  | .gather => rows.map fun p => (o.src + p.1 * o.row, o.dst + p.2 * o.row, o.row)
  | .scatter => rows.map fun p => (o.src + p.2 * o.row, o.dst + p.1 * o.row, o.row)
  | _ => []

/-- What a transfer does to memory, with its flags (R136, R137). -/
def xferGo (s : State) (l : Nat) (o : AsyncOp) : State × W32 × W64 :=
  if o.kind = .ebag then
    let r := ebagGo s l o
    (r.1, 0, r.2)
  else
    let ms := xferMoves o
    (ms.foldl (fun s m => touchMove s l m.1 m.2.1 m.2.2) (ms.foldl (fun s m => moveBytes s l m.1 m.2.1 m.2.2) s), 0, 0)

/-- XFER_COMPLETE. -/
def execXferComplete (a : Issuer) (tag : BitVec 16) (s : State) : Host.Outcome State Fault Refusal :=
  .next (alive s fun s => opComplete s a tag [.copy, .gather, .scatter, .ebag] xferSrc xferDst xferGo)

end Sys2Proof.Machine
end

