-- ==== Sys2Proof/Machine/Dispatch.lean ====
section
/-! DEFINITION. The meaning of each command, one arm for each. -/
namespace Sys2Proof.Machine
open Sys2Proof

def exec (i : Instr) (s : State) : Host.Outcome State Fault Refusal :=
  match i with
  | .add at_ f => Sys2Proof.Machine.execAdd at_ f s
  | .sub at_ f => Sys2Proof.Machine.execSub at_ f s
  | .mul at_ f => Sys2Proof.Machine.execMul at_ f s
  | .mulh at_ f => Sys2Proof.Machine.execMulh at_ f s
  | .and_ at_ f => Sys2Proof.Machine.execAnd at_ f s
  | .or_ at_ f => Sys2Proof.Machine.execOr at_ f s
  | .xor_ at_ f => Sys2Proof.Machine.execXor at_ f s
  | .shl at_ f => Sys2Proof.Machine.execShl at_ f s
  | .shr at_ f => Sys2Proof.Machine.execShr at_ f s
  | .sra at_ f => Sys2Proof.Machine.execSra at_ f s
  | .min_ at_ f => Sys2Proof.Machine.execMin at_ f s
  | .max_ at_ f => Sys2Proof.Machine.execMax at_ f s
  | .cmpeq at_ f => Sys2Proof.Machine.execCmpeq at_ f s
  | .cmplt at_ f => Sys2Proof.Machine.execCmplt at_ f s
  | .cmpltu at_ f => Sys2Proof.Machine.execCmpltu at_ f s
  | .sel at_ f => Sys2Proof.Machine.execSel at_ f s
  | .saluFadd at_ f => Sys2Proof.Machine.execSaluFadd at_ f s
  | .saluFmul at_ f => Sys2Proof.Machine.execSaluFmul at_ f s
  | .saluFfma at_ f => Sys2Proof.Machine.execSaluFfma at_ f s
  | .addi at_ f => Sys2Proof.Machine.execAddi at_ f s
  | .andi at_ f => Sys2Proof.Machine.execAndi at_ f s
  | .ori at_ f => Sys2Proof.Machine.execOri at_ f s
  | .xori at_ f => Sys2Proof.Machine.execXori at_ f s
  | .shli at_ f => Sys2Proof.Machine.execShli at_ f s
  | .shri at_ f => Sys2Proof.Machine.execShri at_ f s
  | .lui at_ f => Sys2Proof.Machine.execLui at_ f s
  | .li at_ f => Sys2Proof.Machine.execLi at_ f s
  | .vli at_ f => Sys2Proof.Machine.execVli at_ f s
  | .bra at_ f => Sys2Proof.Machine.execBra at_ f s
  | .bz at_ f => Sys2Proof.Machine.execBz at_ f s
  | .bnz at_ f => Sys2Proof.Machine.execBnz at_ f s
  | .bltz at_ f => Sys2Proof.Machine.execBltz at_ f s
  | .call at_ f => Sys2Proof.Machine.execCall at_ f s
  | .ret at_ f => Sys2Proof.Machine.execRet at_ f s
  | .loop_ at_ f => Sys2Proof.Machine.execLoop at_ f s
  | .fadd at_ f => Sys2Proof.Machine.execFadd at_ f s
  | .fsub at_ f => Sys2Proof.Machine.execFsub at_ f s
  | .fmul at_ f => Sys2Proof.Machine.execFmul at_ f s
  | .ffma at_ f => Sys2Proof.Machine.execFfma at_ f s
  | .fdiv at_ f => Sys2Proof.Machine.execFdiv at_ f s
  | .fsqrt at_ f => Sys2Proof.Machine.execFsqrt at_ f s
  | .frsq at_ f => Sys2Proof.Machine.execFrsq at_ f s
  | .fexp2 at_ f => Sys2Proof.Machine.execFexp2 at_ f s
  | .flog2 at_ f => Sys2Proof.Machine.execFlog2 at_ f s
  | .fmin at_ f => Sys2Proof.Machine.execFmin at_ f s
  | .fmax at_ f => Sys2Proof.Machine.execFmax at_ f s
  | .fcmplt at_ f => Sys2Proof.Machine.execFcmplt at_ f s
  | .fcmpeq at_ f => Sys2Proof.Machine.execFcmpeq at_ f s
  | .iadd at_ f => Sys2Proof.Machine.execIadd at_ f s
  | .isub at_ f => Sys2Proof.Machine.execIsub at_ f s
  | .imul at_ f => Sys2Proof.Machine.execImul at_ f s
  | .iand at_ f => Sys2Proof.Machine.execIand at_ f s
  | .ior at_ f => Sys2Proof.Machine.execIor at_ f s
  | .ixor at_ f => Sys2Proof.Machine.execIxor at_ f s
  | .ishl at_ f => Sys2Proof.Machine.execIshl at_ f s
  | .ishr at_ f => Sys2Proof.Machine.execIshr at_ f s
  | .icmplt at_ f => Sys2Proof.Machine.execIcmplt at_ f s
  | .mov at_ f => Sys2Proof.Machine.execMov at_ f s
  | .bcast at_ f => Sys2Proof.Machine.execBcast at_ f s
  | .pand at_ f => Sys2Proof.Machine.execPand at_ f s
  | .por at_ f => Sys2Proof.Machine.execPor at_ f s
  | .pnot at_ f => Sys2Proof.Machine.execPnot at_ f s
  | .redadd at_ f => Sys2Proof.Machine.execRedadd at_ f s
  | .redmax at_ f => Sys2Proof.Machine.execRedmax at_ f s
  | .shfl at_ f => Sys2Proof.Machine.execShfl at_ f s
  | .cvt at_ f => Sys2Proof.Machine.execCvt at_ f s
  | .mxq at_ f => Sys2Proof.Machine.execMxq at_ f s
  | .mxdq at_ f => Sys2Proof.Machine.execMxdq at_ f s
  | .ldS at_ f => Sys2Proof.Machine.execLdS at_ f s
  | .stS at_ f => Sys2Proof.Machine.execStS at_ f s
  | .ldV at_ f => Sys2Proof.Machine.execLdV at_ f s
  | .stV at_ f => Sys2Proof.Machine.execStV at_ f s
  | .ldVc at_ f => Sys2Proof.Machine.execLdVc at_ f s
  | .stVc at_ f => Sys2Proof.Machine.execStVc at_ f s
  | .mma at_ f => Sys2Proof.Machine.execMma at_ f s
  | .fold at_ f => Sys2Proof.Machine.execFold at_ f s
  | .drain at_ f => Sys2Proof.Machine.execDrain at_ f s
  | .retire_ at_ f => Sys2Proof.Machine.execRetire at_ f s
  | .matrixCommandIssue tile => Sys2Proof.Machine.execMatrixCommandIssue tile s
  | .matrixLastRounding tile num => Sys2Proof.Machine.execMatrixLastRounding tile num s
  | .scoreboardWriteLands tile num => Sys2Proof.Machine.execScoreboardWriteLands tile num s
  | .stage at_ f => Sys2Proof.Machine.execStage at_ f s
  | .stageUnitLanded tile u => Sys2Proof.Machine.execStageUnitLanded tile u s
  | .wcopy at_ f => Sys2Proof.Machine.execWcopy at_ f s
  | .wcopyComplete at_ tag => Sys2Proof.Machine.execWcopyComplete at_ tag s
  | .copy_ at_ f => Sys2Proof.Machine.execCopy at_ f s
  | .gather at_ f => Sys2Proof.Machine.execGather at_ f s
  | .scatter at_ f => Sys2Proof.Machine.execScatter at_ f s
  | .ebag at_ f => Sys2Proof.Machine.execEbag at_ f s
  | .xferComplete at_ tag => Sys2Proof.Machine.execXferComplete at_ tag s
  | .rmtRd at_ f => Sys2Proof.Machine.execRmtRd at_ f s
  | .rmtWr at_ f => Sys2Proof.Machine.execRmtWr at_ f s
  | .rmtAdd at_ f => Sys2Proof.Machine.execRmtAdd at_ f s
  | .rmtRequests q => Sys2Proof.Machine.execRmtRequests q s
  | .rmtResponses at_ tag status data => Sys2Proof.Machine.execRmtResponses at_ tag status data s
  | .rs at_ f => Sys2Proof.Machine.execRs at_ f s
  | .ag at_ f => Sys2Proof.Machine.execAg at_ f s
  | .ar at_ f => Sys2Proof.Machine.execAr at_ f s
  | .shift_ at_ f => Sys2Proof.Machine.execShift at_ f s
  | .perm at_ f => Sys2Proof.Machine.execPerm at_ f s
  | .x2x at_ f => Sys2Proof.Machine.execX2x at_ f s
  | .collComplete at_ tag => Sys2Proof.Machine.execCollComplete at_ tag s
  | .wait_ at_ f => Sys2Proof.Machine.execWait at_ f s
  | .waitall at_ f => Sys2Proof.Machine.execWaitall at_ f s
  | .fence at_ f => Sys2Proof.Machine.execFence at_ f s
  | .bar at_ f => Sys2Proof.Machine.execBar at_ f s
  | .semacq at_ f => Sys2Proof.Machine.execSemacq at_ f s
  | .semtry at_ f => Sys2Proof.Machine.execSemtry at_ f s
  | .semrel at_ f => Sys2Proof.Machine.execSemrel at_ f s
  | .fact at_ f => Sys2Proof.Machine.execFact at_ f s
  | .solv at_ f => Sys2Proof.Machine.execSolv at_ f s
  | .topk at_ f => Sys2Proof.Machine.execTopk at_ f s
  | .normacc at_ f => Sys2Proof.Machine.execNormacc at_ f s
  | .specComplete at_ tag => Sys2Proof.Machine.execSpecComplete at_ tag s
  | .rdsr at_ f => Sys2Proof.Machine.execRdsr at_ f s
  | .clrasw at_ f => Sys2Proof.Machine.execClrasw at_ f s
  | .nop at_ f => Sys2Proof.Machine.execNop at_ f s
  | .endStrand at_ f => Sys2Proof.Machine.execEndStrand at_ f s
  | .run loom e => Sys2Proof.Machine.execRun loom e s
  | .dobbyCommandEnd loom => Sys2Proof.Machine.execDobbyCommandEnd loom s
  | .tileStoreRebuild tile word found => Sys2Proof.Machine.execTileStoreRebuild tile word found s
  | .tsThrumRebuild tile group => Sys2Proof.Machine.execTsThrumRebuild tile group s
  | .scrub tile group found => Sys2Proof.Machine.execScrub tile group found s
  | .stackAccessReturn addr report consumer => Sys2Proof.Machine.execStackAccessReturn addr report consumer s
  | .stkReplay addrs recovered => Sys2Proof.Machine.execStkReplay addrs recovered s
  | .stackFailed stack => Sys2Proof.Machine.execStackFailed stack s
  | .flitReceive port flit line => Sys2Proof.Machine.execFlitReceive port flit line s
  | .fabricReplayRequest port seq => Sys2Proof.Machine.execFabricReplayRequest port seq s
  | .flitAcknowledge port seq => Sys2Proof.Machine.execFlitAcknowledge port seq s
  | .plcIntent session ring => Sys2Proof.Machine.execPlcIntent session ring s
  | .plcMapRead session ring => Sys2Proof.Machine.execPlcMapRead session ring s
  | .plcForce loom records => Sys2Proof.Machine.execPlcForce loom records s
  | .rowAgentAccess a => Sys2Proof.Machine.execRowAgentAccess a s
  | .migrationEpochEnd => Sys2Proof.Machine.execMigrationEpochEnd s
  | .homeDataLands loom obj slot poisoned => Sys2Proof.Machine.execHomeDataLands loom obj slot poisoned s
  | .homeWriteAccepted loom obj slot => Sys2Proof.Machine.execHomeWriteAccepted loom obj slot s
  | .plcMigCtrlWrite who value => Sys2Proof.Machine.execPlcMigCtrlWrite who value s
  | .loomCreate session ring => Sys2Proof.Machine.execLoomCreate session ring s
  | .loomConfig session ring => Sys2Proof.Machine.execLoomConfig session ring s
  | .progLoad session ring image => Sys2Proof.Machine.execProgLoad session ring image s
  | .loomStart session ring => Sys2Proof.Machine.execLoomStart session ring s
  | .loomStopBoundary session ring => Sys2Proof.Machine.execLoomStopBoundary session ring s
  | .loomStopCut session ring => Sys2Proof.Machine.execLoomStopCut session ring s
  | .loomPreempt session ring => Sys2Proof.Machine.execLoomPreempt session ring s
  | .loomResume session ring => Sys2Proof.Machine.execLoomResume session ring s
  | .loomDelete session ring => Sys2Proof.Machine.execLoomDelete session ring s
  | .semCreate session ring => Sys2Proof.Machine.execSemCreate session ring s
  | .semDelete session ring => Sys2Proof.Machine.execSemDelete session ring s
  | .holderSelect loom => Sys2Proof.Machine.execHolderSelect loom s
  | .softWaitExpiry loom => Sys2Proof.Machine.execSoftWaitExpiry loom s
  | .preemptGraceExpiry loom => Sys2Proof.Machine.execPreemptGraceExpiry loom s
  | .saveImageWritten loom us => Sys2Proof.Machine.execSaveImageWritten loom us s
  | .restoreComplete loom us => Sys2Proof.Machine.execRestoreComplete loom us s
  | .loomStopped loom => Sys2Proof.Machine.execLoomStopped loom s
  | .linkCoordCheck dir partner => Sys2Proof.Machine.execLinkCoordCheck dir partner s
  | .linkFlit dir flit fecOk => Sys2Proof.Machine.execLinkFlit dir flit fecOk s
  | .linkReplay dir seq => Sys2Proof.Machine.execLinkReplay dir seq s
  | .laneDrop io lane => Sys2Proof.Machine.execLaneDrop io lane s
  | .linkRetrain who value found => Sys2Proof.Machine.execLinkRetrain who value found s
  | .detour part => Sys2Proof.Machine.execDetour part s
  | .orderChange loom down order => Sys2Proof.Machine.execOrderChange loom down order s
  | .splitTorus loom inAnchorHalf => Sys2Proof.Machine.execSplitTorus loom inAnchorHalf s
  | .collConfig session ring => Sys2Proof.Machine.execCollConfig session ring s
  | .partialFrame tile fr residueOk => Sys2Proof.Machine.execPartialFrame tile fr residueOk s
  | .finalFrame tile fr => Sys2Proof.Machine.execFinalFrame tile fr s
  | .contribFrame tile fr => Sys2Proof.Machine.execContribFrame tile fr s
  | .moveFrame tile fr => Sys2Proof.Machine.execMoveFrame tile fr s
  | .countsFrame tile fr => Sys2Proof.Machine.execCountsFrame tile fr s
  | .scalarFrame tile fr => Sys2Proof.Machine.execScalarFrame tile fr s
  | .replayReqFrame tile fr => Sys2Proof.Machine.execReplayReqFrame tile fr s
  | .ackFrame tile fr => Sys2Proof.Machine.execAckFrame tile fr s
  | .abortFrame tile fr => Sys2Proof.Machine.execAbortFrame tile fr s
  | .adderSelftest die adder pass => Sys2Proof.Machine.execAdderSelftest die adder pass s
  | .lrnConfig session ring => Sys2Proof.Machine.execLrnConfig session ring s
  | .lrnBind session ring => Sys2Proof.Machine.execLrnBind session ring s
  | .lrnUnbind session ring => Sys2Proof.Machine.execLrnUnbind session ring s
  | .srvConfig session ring => Sys2Proof.Machine.execSrvConfig session ring s
  | .srvSubmit session ring prompt => Sys2Proof.Machine.execSrvSubmit session ring prompt s
  | .srvCancel session ring => Sys2Proof.Machine.execSrvCancel session ring s
  | .srvPfxDrop session ring => Sys2Proof.Machine.execSrvPfxDrop session ring s
  | .batchStepForm loom => Sys2Proof.Machine.execBatchStepForm loom s
  | .deadline entry => Sys2Proof.Machine.execDeadline entry s
  | .srvReqConsWrite who entry value => Sys2Proof.Machine.execSrvReqConsWrite who entry value s
  | .shedWeave session ring => Sys2Proof.Machine.execShedWeave session ring s
  | .shedUnweave session ring => Sys2Proof.Machine.execShedUnweave session ring s
  | .pickWait weave => Sys2Proof.Machine.execPickWait weave s
  | .sourceBlockCopy weave block => Sys2Proof.Machine.execSourceBlockCopy weave block s
  | .pickCopied weave => Sys2Proof.Machine.execPickCopied weave s
  | .inputGood inputB v10mv => Sys2Proof.Machine.execInputGood inputB v10mv s
  | .inputLost inputB v10mv => Sys2Proof.Machine.execInputLost inputB v10mv s
  | .inputOvervolt inputB v10mv => Sys2Proof.Machine.execInputOvervolt inputB v10mv s
  | .inputShort inputB => Sys2Proof.Machine.execInputShort inputB s
  | .inputReversed inputB => Sys2Proof.Machine.execInputReversed inputB s
  | .senseOpen inputB => Sys2Proof.Machine.execSenseOpen inputB s
  | .senseRestore inputB => Sys2Proof.Machine.execSenseRestore inputB s
  | .backupConduction va vb => Sys2Proof.Machine.execBackupConduction va vb s
  | .supplySwitchEnd => Sys2Proof.Machine.execSupplySwitchEnd s
  | .autoReturn => Sys2Proof.Machine.execAutoReturn s
  | .modulePowerLoss => Sys2Proof.Machine.execModulePowerLoss s
  | .powerControlTick m => Sys2Proof.Machine.execPowerControlTick m s
  | .diePowerLoop die counts => Sys2Proof.Machine.execDiePowerLoop die counts s
  | .budgetReport loom reports => Sys2Proof.Machine.execBudgetReport loom reports s
  | .borrowRelease amount => Sys2Proof.Machine.execBorrowRelease amount s
  | .borrowRevert cause => Sys2Proof.Machine.execBorrowRevert cause s
  | .railSetpointReached die => Sys2Proof.Machine.execRailSetpointReached die s
  | .railFallDelay die => Sys2Proof.Machine.execRailFallDelay die s
  | .droop die => Sys2Proof.Machine.execDroop die s
  | .droopRecovery die paced => Sys2Proof.Machine.execDroopRecovery die paced s
  | .thermalLimitTick die tempC => Sys2Proof.Machine.execThermalLimitTick die tempC s
  | .thermalTrip die tempC => Sys2Proof.Machine.execThermalTrip die tempC s
  | .throttleEpisodeEnd reason => Sys2Proof.Machine.execThrottleEpisodeEnd reason s
  | .pwrLoomHostWrite who loom value => Sys2Proof.Machine.execPwrLoomHostWrite who loom value s
  | .refclkLost => Sys2Proof.Machine.execRefclkLost s
  | .refclkRestored => Sys2Proof.Machine.execRefclkRestored s
  | .pllLock => Sys2Proof.Machine.execPllLock s
  | .tlmConfig session ring => Sys2Proof.Machine.execTlmConfig session ring s
  | .tlmRun who value => Sys2Proof.Machine.execTlmRun who value s
  | .tlmDieCfgWrite who off value => Sys2Proof.Machine.execTlmDieCfgWrite who off value s
  | .cntOvf c v prev => Sys2Proof.Machine.execCntOvf c v prev s
  | .sampleOverflow tile n strand v prev => Sys2Proof.Machine.execSampleOverflow tile n strand v prev s
  | .sampleRecord tile strand insn => Sys2Proof.Machine.execSampleRecord tile strand insn s
  | .dumpSnapshot loom busy => Sys2Proof.Machine.execDumpSnapshot loom busy s
  | .ppsEdge errNs sinceNs => Sys2Proof.Machine.execPpsEdge errNs sinceNs s
  | .ppsLost => Sys2Proof.Machine.execPpsLost s
  | .ppsShort => Sys2Proof.Machine.execPpsShort s
  | .ppsOpen => Sys2Proof.Machine.execPpsOpen s
  | .ppsFaultClear open_ => Sys2Proof.Machine.execPpsFaultClear open_ s
  | .ppsInvert => Sys2Proof.Machine.execPpsInvert s
  | .svcFailover => Sys2Proof.Machine.execSvcFailover s
  | .managementLoss => Sys2Proof.Machine.execManagementLoss s
  | .baySelftest bays failed => Sys2Proof.Machine.execBaySelftest bays failed s
  | .bayTestComplete bays failed => Sys2Proof.Machine.execBayTestComplete bays failed s
  | .advisoryMinuteTick => Sys2Proof.Machine.execAdvisoryMinuteTick s
  | .ckptSet session ring => Sys2Proof.Machine.execCkptSet session ring s
  | .ckptTrigger session ring => Sys2Proof.Machine.execCkptTrigger session ring s
  | .ckptStarted loom step digest => Sys2Proof.Machine.execCkptStarted loom step digest s
  | .ckptDone loom => Sys2Proof.Machine.execCkptDone loom s
  | .ckptReport loom boxIndex status bytes => Sys2Proof.Machine.execCkptReport loom boxIndex status bytes s
  | .ckptRestore session ring d => Sys2Proof.Machine.execCkptRestore session ring d s
  | .restoreReport loom boxIndex runId step digest => Sys2Proof.Machine.execRestoreReport loom boxIndex runId step digest s
  | .restoreRelease loom => Sys2Proof.Machine.execRestoreRelease loom s
  | .perst io => Sys2Proof.Machine.execPerst io s
  | .functionLevelReset io fn vfs => Sys2Proof.Machine.execFunctionLevelReset io fn vfs s
  | .portDown io => Sys2Proof.Machine.execPortDown io s
  | .challenge who slot => Sys2Proof.Machine.execChallenge who slot s
  | .respond who slot => Sys2Proof.Machine.execRespond who slot s
  | .sessClose who => Sys2Proof.Machine.execSessClose who s
  | .challengeExpiry who => Sys2Proof.Machine.execChallengeExpiry who s
  | .authLockExpiry slot => Sys2Proof.Machine.execAuthLockExpiry slot s
  | .cmdDoorbell who ring value => Sys2Proof.Machine.execCmdDoorbell who ring value s
  | .commandFetch session ring e => Sys2Proof.Machine.execCommandFetch session ring e s
  | .cplHeadWrite who ring value => Sys2Proof.Machine.execCplHeadWrite who ring value s
  | .evtRingHeadWrite who value => Sys2Proof.Machine.execEvtRingHeadWrite who value s
  | .msixModeration session ring byTime => Sys2Proof.Machine.execMsixModeration session ring byTime s
  | .ringCreate session ring => Sys2Proof.Machine.execRingCreate session ring s
  | .ringDelete session ring => Sys2Proof.Machine.execRingDelete session ring s
  | .sessionClose session ring => Sys2Proof.Machine.execSessionClose session ring s
  | .xferToDev session ring bytes => Sys2Proof.Machine.execXferToDev session ring bytes s
  | .xferFromDev session ring => Sys2Proof.Machine.execXferFromDev session ring s
  | .consoleSetup password salt => Sys2Proof.Machine.execConsoleSetup password salt s
  | .consoleLogin password => Sys2Proof.Machine.execConsoleLogin password s
  | .consoleLogout => Sys2Proof.Machine.execConsoleLogout s
  | .consoleLoginTimeout => Sys2Proof.Machine.execConsoleLoginTimeout s
  | .consoleLockExpiry => Sys2Proof.Machine.execConsoleLockExpiry s
  | .keySlotWrite slot w => Sys2Proof.Machine.execKeySlotWrite slot w s
  | .passwordChange password salt => Sys2Proof.Machine.execPasswordChange password salt s
  | .capSet watts => Sys2Proof.Machine.execCapSet watts s
  | .pwrCtrlSet borrowMax uniform autoReturn mode => Sys2Proof.Machine.execPwrCtrlSet borrowMax uniform autoReturn mode s
  | .telemetryOwnerSet session => Sys2Proof.Machine.execTelemetryOwnerSet session s
  | .timebaseSet mode offsetNs seconds => Sys2Proof.Machine.execTimebaseSet mode offsetNs seconds s
  | .advisoryThresholdSet cause threshold => Sys2Proof.Machine.execAdvisoryThresholdSet cause threshold s
  | .selftestPeriodSet hours preempt => Sys2Proof.Machine.execSelftestPeriodSet hours preempt s
  | .coordinateSet coord => Sys2Proof.Machine.execCoordinateSet coord s
  | .testMode enter => Sys2Proof.Machine.execTestMode enter s
  | .commitSvn => Sys2Proof.Machine.execCommitSvn s
  | .firmwareUpdate image => Sys2Proof.Machine.execFirmwareUpdate image s
  | .pldmMonitorRead sensor => Sys2Proof.Machine.execPldmMonitorRead sensor s
  | .pldmFruRead => Sys2Proof.Machine.execPldmFruRead s
  | .bootFallback => Sys2Proof.Machine.execBootFallback s
  | .startUp f => Sys2Proof.Machine.execStartUp f s
  | .moduleReset => Sys2Proof.Machine.execModuleReset s
  | .auxOverload io dir => Sys2Proof.Machine.execAuxOverload io dir s
  | .auxRetry io dir ok => Sys2Proof.Machine.execAuxRetry io dir ok s
  | .linkPortPresence io dir present => Sys2Proof.Machine.execLinkPortPresence io dir present s
  | .clearStk who => Sys2Proof.Machine.execClearStk who s
  | .clearTs who => Sys2Proof.Machine.execClearTs who s
  | .fabCntClear who => Sys2Proof.Machine.execFabCntClear who s
  | .collCntClear who => Sys2Proof.Machine.execCollCntClear who s
  | .linkCntClear who => Sys2Proof.Machine.execLinkCntClear who s
  | .rcRegisterRead who off width => Sys2Proof.Machine.execRcRegisterRead who off width s
  | .registerWrite who off width value => Sys2Proof.Machine.execRegisterWrite who off width value s
  | .junctionLimit die tempC => Sys2Proof.Machine.execJunctionLimit die tempC s
  | .hostLinkUp io width rate flit => Sys2Proof.Machine.execHostLinkUp io width rate flit s
  | .sdaStuckLow => Sys2Proof.Machine.execSdaStuckLow s

end Sys2Proof.Machine
end

