-- ==== Sys2Proof/Machine/Tick.lean ====
section
/-! DEFINITION. What the module does of itself while no command waits (log 2): its matrix engines admit columns, requests and
frames that wait for room are sent, ended batch steps commit, and the timebase counts. -/
namespace Sys2Proof.Machine

/-- Requests to other modules that wait in the tiles are sent where they may be (R160). -/
def rmtTick (s : State) : State :=
  ((s.tiles.filter fun kv => !kv.2.ops.isEmpty).map (·.1)).foldl rmtDrive s

/-- Frames that wait for credit or for a link are sent where they may be (R282). -/
def frameTick (s : State) : State := (liveLooms s).foldl driveFrames s

/-- The serving engine commits one more event of each loom whose step has ended (R335). -/
def serveTick (s : State) : State := (liveLooms s).foldl commitOne s

/-- One tick of the block's own work. -/
def workTick (s : State) : State := tick (serveTick (frameTick (rmtTick (mtxTicks s))))

end Sys2Proof.Machine
end

