-- ==== Sys2Proof/Safety.lean ====
section
/-! DEFINITION. What counts as a safe run: every step goes on, and both memories keep the one form in which equal
memories are equal lists. -/
namespace Sys2Proof.Machine

/-- A step from s goes on: no fault, no refusal. -/
def GoesOn (s : State) : Prop := ∃ t, step s = .next t

/-- Device memory and host memory are in canonical form. -/
structure State.MemOk (s : State) : Prop where
  mem : Memory.wf s.mem = true
  hostMem : Memory.wf s.hostMem = true

end Sys2Proof.Machine
end

