-- ==== Sys2Proof/Certificates/Slice0/Obligations.lean ====
section
/-! DEFINITION. What is to be proved of the model. A claim of several parts is their conjunction, at the end. -/

open Sys2Proof Sys2Proof.Machine
/-! ## Instructions of a tile: scalar, immediate and branch classes -/

/-- An instruction over the registers of its own strand: when the strand may issue and its PC names the word, and ok says
that its fields are in order, the one thing that changes is the strand, which becomes z of it. -/
def RegOp {F : Type} (c : Issuer → F → Instr) (word : F → W64) (ok : F → Bool) (z : Loom → Strand → F → Strand) : Prop :=
  ∀ (s : State) (a : Issuer) (l : Nat) (f : F), Issues s a l (word f) → ok f = true →
    exec (c a f) s = .next (setStrand s a (z (getLoom s l) (getStrand s a) f))

/-- The fields of a SALU instruction of n scalar sources: PG, PN and the reserved bits are 0, FMT and FMT2 name no reserved code,
registers name s0 to s31. -/
def scalarFields (n : Nat) (f : FmtR) : Bool :=
  f.pg = 0 && !f.pn && fieldsR f && f.rd.toNat < 32 && f.ra.toNat < 32 && (n < 2 || f.rb.toNat < 32) && (n < 3 || f.rc.toNat < 32)

/-- RD receives a value of RA and RB, and the PC counts on. -/
def scalar2 (v : W64 → W64 → W64) (_ : Loom) (y : Strand) (f : FmtR) : Strand :=
  (y.sput f.rd.toNat (v (y.sget f.ra.toNat) (y.sget f.rb.toNat))).next

/-- Table 4-11, SALU 0x00 to 0x13: what each scalar integer instruction puts into RD. Everything else stays. -/
def SaluInteger : Prop :=
  RegOp .add (wordR 0 0x00) (scalarFields 2) (scalar2 fun a b => BitVec.ofNat 64 (a.toNat + b.toNat)) ∧
  RegOp .sub (wordR 0 0x01) (scalarFields 2) (scalar2 fun a b => BitVec.ofInt 64 (a.toInt - b.toInt)) ∧
  RegOp .mul (wordR 0 0x02) (scalarFields 2) (scalar2 fun a b => BitVec.ofNat 64 (a.toNat * b.toNat)) ∧
  RegOp .mulh (wordR 0 0x03) (scalarFields 2) (scalar2 fun a b => BitVec.ofInt 64 (a.toInt * b.toInt / 2 ^ 64)) ∧
  RegOp .and_ (wordR 0 0x04) (scalarFields 2) (scalar2 (· &&& ·)) ∧
  RegOp .or_ (wordR 0 0x05) (scalarFields 2) (scalar2 (· ||| ·)) ∧
  RegOp .xor_ (wordR 0 0x06) (scalarFields 2) (scalar2 (· ^^^ ·)) ∧
  RegOp .shl (wordR 0 0x07) (scalarFields 2) (scalar2 fun a b => a <<< (b.toNat % 64)) ∧
  RegOp .shr (wordR 0 0x08) (scalarFields 2) (scalar2 fun a b => a >>> (b.toNat % 64)) ∧
  RegOp .sra (wordR 0 0x09) (scalarFields 2) (scalar2 fun a b => a.sshiftRight (b.toNat % 64)) ∧
  RegOp .min_ (wordR 0 0x0A) (scalarFields 2) (scalar2 fun a b => if a.toInt ≤ b.toInt then a else b) ∧
  RegOp .max_ (wordR 0 0x0B) (scalarFields 2) (scalar2 fun a b => if a.toInt ≤ b.toInt then b else a) ∧
  RegOp .cmpeq (wordR 0 0x10) (scalarFields 2) (scalar2 fun a b => if a = b then 1 else 0) ∧
  RegOp .cmplt (wordR 0 0x11) (scalarFields 2) (scalar2 fun a b => if a.toInt < b.toInt then 1 else 0) ∧
  RegOp .cmpltu (wordR 0 0x12) (scalarFields 2) (scalar2 fun a b => if a.toNat < b.toNat then 1 else 0) ∧
  RegOp .sel (wordR 0 0x13) (scalarFields 3) (fun _ y f =>
    (y.sput f.rd.toNat (if y.sget f.rc.toNat = 0 then y.sget f.rb.toNat else y.sget f.ra.toNat)).next)

/-- The low 32 bits of a scalar register: its FP32 value (Table 4-11). -/
def lowWord (y : Strand) (r : BitVec 6) : W32 := (y.sget r.toNat).setWidth 32

/-- A scalar FP32 result: bits 31:0 of RD, with bits 63:32 zero; ASW gains INV when the result is a NaN that no source is. -/
def scalarF (ins : Strand → FmtR → List W32) (v : Strand → FmtR → W32) (_ : Loom) (y : Strand) (f : FmtR) : Strand :=
  ((y.sput f.rd.toNat ((v y f).setWidth 64)).flag
    (if f32IsNan (v y f) && !((ins y f).any f32IsNan) then 2 else 0)).next

/-- Table 4-11, SALU 0x20 to 0x22: FADD, FMUL and FFMA on bits 31:0, with one rounding of the exact result to FP32 (R66). -/
def SaluFloat : Prop :=
  RegOp .saluFadd (wordR 0 0x20) (fun f => scalarFields 2 f && f.rnd = 0)
    (scalarF (fun y f => [lowWord y f.ra, lowWord y f.rb]) fun y f => f32Of (vAdd (f32Val (lowWord y f.ra)) (f32Val (lowWord y f.rb)))) ∧
  RegOp .saluFmul (wordR 0 0x21) (fun f => scalarFields 2 f && f.rnd = 0)
    (scalarF (fun y f => [lowWord y f.ra, lowWord y f.rb]) fun y f => f32Of (vMul (f32Val (lowWord y f.ra)) (f32Val (lowWord y f.rb)))) ∧
  RegOp .saluFfma (wordR 0 0x22) (fun f => scalarFields 3 f && f.rnd = 0)
    (scalarF (fun y f => [lowWord y f.ra, lowWord y f.rb, lowWord y f.rc]) fun y f =>
      f32Of (vAdd (vMul (f32Val (lowWord y f.ra)) (f32Val (lowWord y f.rb))) (f32Val (lowWord y f.rc))))

/-- The fields of a SIMM instruction: PG, PN and the reserved bits are 0, RD and RA name s0 to s31. -/
def immFields (f : FmtI) : Bool := f.pg = 0 && !f.pn && f.rsv = 0 && f.rd.toNat < 32 && f.ra.toNat < 32

/-- RD receives a value of RA and IMM. -/
def imm2 (v : W64 → W32 → W64) (_ : Loom) (y : Strand) (f : FmtI) : Strand := (y.sput f.rd.toNat (v (y.sget f.ra.toNat) f.imm)).next

/-- Table 4-11, class SIMM but VLI. That ANDI, ORI and XORI take IMM zero-extended and that SHLI and SHRI count by IMM[5:0]
is the model's reading (log 15). -/
def ScalarImmediate : Prop :=
  RegOp .addi (wordI 1 0x00) immFields (imm2 fun a i => BitVec.ofInt 64 (a.toInt + i.toInt)) ∧
  RegOp .andi (wordI 1 0x01) immFields (imm2 fun a i => a &&& i.setWidth 64) ∧
  RegOp .ori (wordI 1 0x02) immFields (imm2 fun a i => a ||| i.setWidth 64) ∧
  RegOp .xori (wordI 1 0x03) immFields (imm2 fun a i => a ^^^ i.setWidth 64) ∧
  RegOp .shli (wordI 1 0x04) immFields (imm2 fun a i => a <<< (i.toNat % 64)) ∧
  RegOp .shri (wordI 1 0x05) immFields (imm2 fun a i => a >>> (i.toNat % 64)) ∧
  RegOp .lui (wordI 1 0x06) immFields (fun _ y f =>
    (y.sput f.rd.toNat (BitVec.ofNat 64 (f.imm.toNat * 2 ^ 32 + (y.sget f.rd.toNat).toNat % 2 ^ 32))).next) ∧
  RegOp .li (wordI 1 0x07) immFields (imm2 fun _ i => BitVec.ofInt 64 i.toInt)

/-- The fields of a branch. -/
def branchFields (f : FmtB) : Bool := f.pg = 0 && !f.pn && f.rsv = 0

/-- A branch to PC + OFFSET inside the image when cond holds, else to the next instruction; z is what it writes to the strand
before. -/
def BranchOp (c : Issuer → FmtB → Instr) (op : Nat) (cond : Strand → FmtB → Prop) (z : Strand → FmtB → Strand) : Prop :=
  ∀ (s : State) (a : Issuer) (l : Nat) (f : FmtB), Issues s a l (wordB 2 op f) → branchFields f = true →
    let y := getStrand s a
    let dest : Int := (y.pc.toNat : Int) + f.off.toInt
    (¬ cond y f → exec (c a f) s = .next (setStrand s a (z y f).next)) ∧
    (cond y f → 0 ≤ dest ∧ dest < (getLoom s l).program.length →
      exec (c a f) s = .next (setStrand s a { z y f with pc := BitVec.ofInt 15 dest })) ∧
    (cond y f → ¬ (0 ≤ dest ∧ dest < (getLoom s l).program.length) →
      exec (c a f) s = .next (insnFault s l a stBad (wordB 2 op f)))

/-- Table 4-11, class BR, with R119: a target outside the image faults with BAD_COMMAND. LOOP on s0 reads 0 after its write, so
it never branches (log 16). -/
def Obligations.Branches : Prop :=
  BranchOp .bra 0x00 (fun _ _ => True) (fun y _ => y) ∧
  BranchOp .bz 0x01 (fun y f => y.sget f.rs.toNat = 0) (fun y _ => y) ∧
  BranchOp .bnz 0x02 (fun y f => y.sget f.rs.toNat ≠ 0) (fun y _ => y) ∧
  BranchOp .bltz 0x03 (fun y f => (y.sget f.rs.toNat).toInt < 0) (fun y _ => y) ∧
  BranchOp .call 0x04 (fun _ _ => True) (fun y _ => y.sput 31 (BitVec.ofNat 64 (y.pc.toNat + 1))) ∧
  BranchOp .loop_ 0x06 (fun y f => f.rs ≠ 0 ∧ y.sget f.rs.toNat ≠ 1) (fun y f => y.sput f.rs.toNat (y.sget f.rs.toNat - 1)) ∧
  (∀ (s : State) (a : Issuer) (l : Nat) (f : FmtB), Issues s a l (wordB 2 0x05 f) → branchFields f = true →
    let t := ((getStrand s a).sget 31).toNat % 2 ^ 15
    exec (.ret a f) s = .next (if t < (getLoom s l).program.length
      then setStrand s a { getStrand s a with pc := BitVec.ofNat 15 t } else insnFault s l a stBad (wordB 2 0x05 f)))

/-! ## Vector classes -/

/-- A vector result: every thread that executes the instruction (R116) has its value in rd, every other thread and register
keeps its own; ASW gains the flags of the threads that executed; nothing else of the strand changes but its PC. -/
structure VecResult (y z : Strand) (pg : BitVec 3) (pn : Bool) (rd : Nat) (v : Nat → W32) (fl : Nat → W64) : Prop where
  pc : z.pc = y.pc + 1
  active : ∀ t, t < 32 → (y.pget pg.toNat t != pn) = true → z.vget rd t = v t
  inactive : ∀ t, t < 32 → (y.pget pg.toNat t != pn) = false → z.vget rd t = y.vget rd t
  others : ∀ r t, r ≠ rd → t < 32 → z.vget r t = y.vget r t
  asw : ∀ i, z.asw.getLsbD i = (y.asw.getLsbD i || (List.range 32).any fun t => (y.pget pg.toNat t != pn) && (fl t).getLsbD i)
  rest : z = { y with pc := z.pc, v := z.v, asw := z.asw }

/-- A vector instruction of class VALU with a vector destination. -/
def VecOp (c : Issuer → FmtR → Instr) (op : Nat) (ok : FmtR → Bool) (v : Strand → FmtR → Nat → W32) (fl : Strand → FmtR → Nat → W64) :
    Prop :=
  ∀ (s : State) (a : Issuer) (l : Nat) (f : FmtR), Issues s a l (wordR 3 op f) → fieldsR f = true → ok f = true →
    ∃ z, exec (c a f) s = .next (setStrand s a z) ∧
      VecResult (getStrand s a) z f.pg f.pn f.rd.toNat (v (getStrand s a) f) (fl (getStrand s a) f)

/-- INV of R54: the result is a NaN and no input is. -/
def invOf (ins : List W32) (r : W32) : W64 := if f32IsNan r && !(ins.any f32IsNan) then 2 else 0

/-- FP32 with one rounding of the exact result, of one, two and three sources. -/
def VecF (c : Issuer → FmtR → Instr) (op n : Nat) (v : W32 → W32 → W32 → W32) : Prop :=
  let ins := fun (y : Strand) (f : FmtR) (t : Nat) => [y.vget f.ra.toNat t, y.vget f.rb.toNat t, y.vget f.rc.toNat t].take n
  let val := fun (y : Strand) (f : FmtR) (t : Nat) => v (y.vget f.ra.toNat t) (y.vget f.rb.toNat t) (y.vget f.rc.toNat t)
  VecOp c op (fun f => f.rnd = 0) val fun y f t => invOf (ins y f t) (val y f t)

/-- Table 4-12, VALU 0x00 to 0x08, with R66: each rounds the exact result once; FDIV adds DZ for a zero divisor under a finite,
non-zero dividend (Table 4-13). -/
def VectorFloat : Prop :=
  VecF .fadd 0x00 2 (fun a b _ => f32Of (vAdd (f32Val a) (f32Val b))) ∧
  VecF .fsub 0x01 2 (fun a b _ => f32Of (vAdd (f32Val a) (vNeg (f32Val b)))) ∧
  VecF .fmul 0x02 2 (fun a b _ => f32Of (vMul (f32Val a) (f32Val b))) ∧
  VecF .ffma 0x03 3 (fun a b c => f32Of (vAdd (vMul (f32Val a) (f32Val b)) (f32Val c))) ∧
  VecOp .fdiv 0x04 (fun f => f.rnd = 0) (fun y f t => f32Of (vDiv (f32Val (y.vget f.ra.toNat t)) (f32Val (y.vget f.rb.toNat t))))
    (fun y f t =>
      let a := y.vget f.ra.toNat t
      let b := y.vget f.rb.toNat t
      let finite := a.toNat % 2 ^ 31 < 0x7F800000
      invOf [a, b] (f32Of (vDiv (f32Val a) (f32Val b))) |||
        (if b.toNat % 2 ^ 31 = 0 ∧ finite ∧ a.toNat % 2 ^ 31 ≠ 0 then 16 else 0)) ∧
  VecF .fsqrt 0x05 1 (fun a _ _ => f32Of (vSqrt (f32Val a))) ∧
  VecF .frsq 0x06 1 (fun a _ _ => f32Of (vRsqrt (f32Val a))) ∧
  VecF .fexp2 0x07 1 (fun a _ _ => f32Of (vExp2 (f32Val a))) ∧
  VecF .flog2 0x08 1 (fun a _ _ => f32Of (vLog2 (f32Val a)))

/-- A vector integer instruction: it sets no flag. -/
def VecI (c : Issuer → FmtR → Instr) (op : Nat) (v : W32 → W32 → W32) : Prop :=
  VecOp c op (fun _ => true) (fun y f t => v (y.vget f.ra.toNat t) (y.vget f.rb.toNat t)) fun _ _ _ => 0

/-- A predicate result: threads that execute have the truth value in rd, p0 apart (Table 4-2); nothing else changes. -/
structure PredResult (y z : Strand) (pg : BitVec 3) (pn : Bool) (rd : Nat) (v : Nat → Bool) : Prop where
  pc : z.pc = y.pc + 1
  active : ∀ t, t < 32 → (y.pget pg.toNat t != pn) = true → rd ≠ 0 → z.pget rd t = v t
  inactive : ∀ t, t < 32 → (y.pget pg.toNat t != pn) = false → z.pget rd t = y.pget rd t
  others : ∀ r t, (r ≠ rd ∨ rd = 0) → t < 32 → z.pget r t = y.pget r t
  rest : z = { y with pc := z.pc, p := z.p }

/-- A vector instruction into a predicate. -/
def PredOp (c : Issuer → FmtR → Instr) (op : Nat) (ok : FmtR → Bool) (v : Strand → FmtR → Nat → Bool) : Prop :=
  ∀ (s : State) (a : Issuer) (l : Nat) (f : FmtR), Issues s a l (wordR 3 op f) → fieldsR f = true → f.rd.toNat < 8 → ok f = true →
    ∃ z, exec (c a f) s = .next (setStrand s a z) ∧ PredResult (getStrand s a) z f.pg f.pn f.rd.toNat (v (getStrand s a) f)

/-- Table 4-12, VALU 0x10 to 0x21 but the shifts, and SHFL: wrapping 32-bit integers, moves, and SHFL from the source as it was
before any write; VLI of Table 4-11. -/
def VectorInteger : Prop :=
  VecI .iadd 0x10 (fun a b => BitVec.ofNat 32 (a.toNat + b.toNat)) ∧
  VecI .isub 0x11 (fun a b => BitVec.ofInt 32 (a.toInt - b.toInt)) ∧
  VecI .imul 0x12 (fun a b => BitVec.ofNat 32 (a.toNat * b.toNat)) ∧
  VecI .iand 0x13 (· &&& ·) ∧ VecI .ior 0x14 (· ||| ·) ∧ VecI .ixor 0x15 (· ^^^ ·) ∧
  VecI .mov 0x20 (fun a _ => a) ∧
  VecOp .bcast 0x21 (fun f => f.ra.toNat < 32) (fun y f _ => (y.sget f.ra.toNat).setWidth 32) (fun _ _ _ => 0) ∧
  VecOp .shfl 0x32 (fun _ => true) (fun y f t => y.vget f.ra.toNat ((y.vget f.rb.toNat t).toNat % 32)) (fun _ _ _ => 0) ∧
  (∀ (s : State) (a : Issuer) (l : Nat) (f : FmtI), Issues s a l (wordI 1 0x10 f) → f.rsv = 0 →
    ∃ z, exec (.vli a f) s = .next (setStrand s a z) ∧
      VecResult (getStrand s a) z f.pg f.pn f.rd.toNat (fun _ => f.imm) fun _ => 0)

/-- The place of an FP32 word that is no NaN in the order of numbers, −0 just below +0. -/
def fpOrder (w : W32) : Int := if w.toNat < 2 ^ 31 then (w.toNat : Int) else 2 ^ 31 - 1 - (w.toNat : Int)

/-- R66 for minimum and maximum: NaN when either input is NaN, else the lesser or greater, −0 below +0. -/
def minMax (least : Bool) (a b : W32) : W32 :=
  if 0x7F800000 < a.toNat % 2 ^ 31 ∨ 0x7F800000 < b.toNat % 2 ^ 31 then 0x7FC00000
  else if (fpOrder a ≤ fpOrder b) = (least = true) then a else b

/-- Table 4-12: FMIN and FMAX, comparisons false on a NaN, and the predicate operations. -/
def VectorCompare : Prop :=
  (let val := fun (least : Bool) (y : Strand) (f : FmtR) (t : Nat) => minMax least (y.vget f.ra.toNat t) (y.vget f.rb.toNat t)
   let flags := fun (least : Bool) (y : Strand) (f : FmtR) (t : Nat) =>
     invOf [y.vget f.ra.toNat t, y.vget f.rb.toNat t] (val least y f t)
   VecOp .fmin 0x09 (fun _ => true) (val true) (flags true) ∧ VecOp .fmax 0x0A (fun _ => true) (val false) (flags false)) ∧
  PredOp .fcmplt 0x0B (fun _ => true) (fun y f t =>
    !f32IsNan (y.vget f.ra.toNat t) && !f32IsNan (y.vget f.rb.toNat t) && f32Lt (y.vget f.ra.toNat t) (y.vget f.rb.toNat t)) ∧
  PredOp .fcmpeq 0x0C (fun _ => true) (fun y f t =>
    !f32IsNan (y.vget f.ra.toNat t) && !f32IsNan (y.vget f.rb.toNat t) && f32Eq (y.vget f.ra.toNat t) (y.vget f.rb.toNat t)) ∧
  PredOp .icmplt 0x18 (fun _ => true) (fun y f t => decide ((y.vget f.ra.toNat t).toInt < (y.vget f.rb.toNat t).toInt)) ∧
  PredOp .pand 0x28 (fun f => f.ra.toNat < 8 && f.rb.toNat < 8) (fun y f t => y.pget f.ra.toNat t && y.pget f.rb.toNat t) ∧
  PredOp .por 0x29 (fun f => f.ra.toNat < 8 && f.rb.toNat < 8) (fun y f t => y.pget f.ra.toNat t || y.pget f.rb.toNat t) ∧
  PredOp .pnot 0x2A (fun f => f.ra.toNat < 8) (fun y f t => !y.pget f.ra.toNat t)

/-- ISHL and ISHR by less than 32; a larger count leaves that thread's result free (log 17). The draw of free values is all
that changes beside the strand. -/
def ShiftOp (c : Issuer → FmtR → Instr) (op : Nat) (v : W32 → Nat → W32) : Prop :=
  ∀ (s : State) (a : Issuer) (l : Nat) (f : FmtR), Issues s a l (wordR 3 op f) → fieldsR f = true →
    ∃ z w, exec (c a f) s = .next (setStrand { s with free := s.free + 32 } a z) ∧
      (∀ t, (((getStrand s a).vget f.rb.toNat t).toNat < 32) →
        w t = v ((getStrand s a).vget f.ra.toNat t) ((getStrand s a).vget f.rb.toNat t).toNat) ∧
      VecResult (getStrand s a) z f.pg f.pn f.rd.toNat w fun _ => 0

/-- A word with its NaN made the canonical one (R45). -/
def canonNan (w : W32) : W32 := if f32IsNan w then 0x7FC00000 else w

/-- The leaves of a reduction: a thread that does not execute is absent. -/
def reduceLeaves (y : Strand) (f : FmtR) : List (Option W32) :=
  (List.range 32).map fun t => if y.pget f.pg.toNat t != f.pn then some (y.vget f.ra.toNat t) else none

/-- A reduction: bits 31:0 of scalar rd are the tree of R67 over the leaves, a NaN the canonical one (R45), or none_ when no
thread executes. -/
def ReduceOp (c : Issuer → FmtR → Instr) (op : Nat) (h : W32 → W32 → W32) (none_ : W32) : Prop :=
  ∀ (s : State) (a : Issuer) (l : Nat) (f : FmtR), Issues s a l (wordR 3 op f) → fieldsR f = true → f.rd.toNat < 32 → f.rnd = 0 →
    ∃ w : W64, ∃ z, exec (c a f) s = .next (setStrand { s with free := s.free + 1 } a z) ∧
      w.setWidth 32 = canonNan (((treeFold (fun a b => (h a b, invFlag [a, b] (h a b))) 5 (reduceLeaves (getStrand s a) f)).1).getD none_) ∧
      z.s = ((getStrand s a).sput f.rd.toNat w).s ∧ z.v = (getStrand s a).v ∧ z.p = (getStrand s a).p ∧
      z.pc = (getStrand s a).pc + 1

/-- Table 4-12, shifts and reductions, with R124: REDADD writes +0.0 and REDMAX the canonical NaN when no thread executes. -/
def Obligations.ShiftsAndReductions : Prop :=
  ShiftOp .ishl 0x16 (fun a n => a <<< n) ∧ ShiftOp .ishr 0x17 (fun a n => a >>> n) ∧
  ReduceOp .redadd 0x30 f32Add 0 ∧ ReduceOp .redmax 0x31 f32Max 0x7FC00000
/-! ## Loads and stores -/

/-- An access that waits at a row agent for its own command to go on, ROW_AGENT_ACCESS. -/
def byAgent : RowUser → Bool
  | .agent _ => true
  | _ => false

/-- The row agents of a loom hold no access of their own command, so that nothing is served behind another access (R217). -/
abbrev agentsIdle (s : State) (l : Nat) : Prop := ∀ w, w ∈ (getLoom s l).rowWaits → byAgent w.who = false

/-- What LDST checks before it moves a byte, all in order: the fields, each access (R129, R166), and nothing it must wait for or
that is poisoned (R130, R177, R185, R217, R358). -/
def AccessOk (s : State) (a : Issuer) (l sz : Nat) (accs : List (Nat × Nat)) (store : Bool) : Prop :=
  (∀ p, p ∈ accs → accStatus s.variant (getLoom s l) p.2 sz sz = stOk) ∧
  ldstWaits s a.tile sz accs store = false ∧
  rowsWait s l (.strand a.tile a.strand) (accs.map fun p => (p.2, sz)) = false ∧ agentsIdle s l ∧
  ldstPoison s (ownerBytes (getLoom s l) sz accs) store = false ∧
  (store = true → ∀ p, p ∈ accs → uncopied s p.2 sz = none)

/-- Where a byte that a loom names stands now: the home of its row, or its own address (R217). -/
def byteHome (x : Loom) (a : Nat) : Nat := (rowHome x a).getD a

/-- The byte a loom reads at an address: in the index of a hot region its entry's, else what stands at its home (R215, R217). -/
def byteVia (s : State) (l a : Nat) : Byte := (indexByte s.variant (getLoom s l) a).getD (memGet s.mem (byteHome (getLoom s l) a))

/-- The n bytes a loom reads at an address. -/
def bytesVia (s : State) (l a n : Nat) : List Byte := (List.range n).map fun i => byteVia s l (a + i)

/-- The address of an LD.S or ST.S: s[BASE] plus the sign-extended OFFSET. -/
def scalarAddr (y : Strand) (f : FmtM) : Nat := (y.sget f.base.toNat + f.off.signExtend 64).toNat

/-- Memory after stores of bytes to places, in order: the last store to a place stands, every other byte is as before. -/
def storesTo (m m' : List Host.Cell) (ws : List (Nat × Byte)) : Prop :=
  ∀ b, memGet m' b = match ws.reverse.find? fun w => w.1 = b with
    | some w => w.2
    | none => memGet m b

/-- The byte stores of accesses of n bytes each, in ascending thread. -/
def byteStores (x : Loom) (n : Nat) (accs : List (Nat × Nat)) (v : Nat → Nat) : List (Nat × Byte) :=
  accs.flatMap fun p => (List.range n).map fun i => (byteHome x (p.2 + i), BitVec.ofNat 8 (v p.1 / 256 ^ i))

/-- A vector load: VecResult but for the tap. Memory, registers and every other strand stay. -/
def VecLoad (s t : State) (a : Issuer) (f : FmtM) (v : Nat → W32) : Prop :=
  let y := getStrand s a
  let z := getStrand t a
  z = { y with pc := y.pc + 1, v := z.v, tap := z.tap } ∧
  (∀ i, i < 32 → (y.pget f.pg.toNat i != f.pn) = true → z.vget f.rd.toNat i = v i) ∧
  (∀ i, i < 32 → (y.pget f.pg.toNat i != f.pn) = false → z.vget f.rd.toNat i = y.vget f.rd.toNat i) ∧
  (∀ r i, r ≠ f.rd.toNat → i < 32 → z.vget r i = y.vget r i) ∧
  (∀ b, b ≠ a → getStrand t b = getStrand s b) ∧ t.mem = s.mem ∧ t.regs = s.regs

/-- Table 4-14, loads: LD.S takes 8 bytes, LD.V 4 bytes a thread, LD.VC an element of BF16, FP16, E4M3 or E5M2 a thread, widened
to FP32; the elements lie at s[BASE] + OFFSET + size × thread, or at + VIDX of the thread in INDEX mode. Nothing is stored. -/
def Loads : Prop :=
  (∀ (s : State) (a : Issuer) (l : Nat) (f : FmtM), Issues s a l (wordM 5 0 f) → scalarM f = true →
    AccessOk s a l 8 [(0, scalarAddr (getStrand s a) f)] false →
    ∃ t, exec (.ldS a f) s = .next t ∧ t.mem = s.mem ∧ t.regs = s.regs ∧ (∀ b, b ≠ a → getStrand t b = getStrand s b) ∧
      getStrand t a = ((getStrand s a).sput f.rd.toNat
        (BitVec.ofNat 64 (leNat (bytesVia s l (scalarAddr (getStrand s a) f) 8)))).next) ∧
  (∀ (s : State) (a : Issuer) (l : Nat) (f : FmtM), Issues s a l (wordM 5 2 f) → plainM f = true → modeM f = true →
    AccessOk s a l 4 (ldstAddrs (getStrand s a) f 4) false →
    ∃ t, exec (.ldV a f) s = .next t ∧ VecLoad s t a f fun i =>
      BitVec.ofNat 32 (leNat (bytesVia s l (((ldstAddrs (getStrand s a) f 4).find? fun p => p.1 = i).getD (0, 0)).2 4))) ∧
  (∀ (s : State) (a : Issuer) (l : Nat) (f : FmtM), Issues s a l (wordM 5 4 f) → convM f = true → f.rnd = 0 → f.sat = false →
    modeM f = true → AccessOk s a l (fmtBytes f.fmt.toNat) (ldstAddrs (getStrand s a) f (fmtBytes f.fmt.toNat)) false →
    ∃ t, exec (.ldVc a f) s = .next t ∧ VecLoad s t a f fun i =>
      f32Of (elemVal f.fmt.toNat (leNat (bytesVia s l
        (((ldstAddrs (getStrand s a) f (fmtBytes f.fmt.toNat)).find? fun p => p.1 = i).getD (0, 0)).2 (fmtBytes f.fmt.toNat)))))

/-- Table 4-14, stores: ST.S stores 8 bytes of a scalar, ST.V 4 bytes of each active thread, ST.VC each active thread's value
converted to FMT; every byte outside those stored reads as before. A store of ST.S to the READ word of a bobbin, by the
learner of its weave, is accepted only between the old READ and WRITE, and raises BOBBIN_BAD else (R370). -/
def Stores : Prop :=
  (∀ (s : State) (a : Issuer) (l : Nat) (f : FmtM), Issues s a l (wordM 5 1 f) → scalarM f = true →
    AccessOk s a l 8 [(0, scalarAddr (getStrand s a) f)] true → ∃ t, exec (.stS a f) s = .next t ∧
      getStrand t a = (getStrand s a).next ∧ (∀ b, b ≠ a → getStrand t b = getStrand s b) ∧
      let v := ((getStrand s a).sget f.rd.toNat).toNat
      match bobbinRead s l (scalarAddr (getStrand s a) f) with
      | none => t.regs = s.regs ∧ t.bobbins = s.bobbins ∧
          storesTo s.mem t.mem (byteStores (getLoom s l) 8 [(0, scalarAddr (getStrand s a) f)] fun _ => v)
      | some (k, b) =>
        if b.read ≤ v ∧ v ≤ b.write then
          t.regs = s.regs ∧ tget {} t.bobbins k = { b with read := v } ∧
            storesTo s.mem t.mem ((List.range 8).map fun i => (b.addr + 8 + i, BitVec.ofNat 8 (v / 256 ^ i)))
        else t.mem = s.mem ∧ t.bobbins = s.bobbins ∧ getReg t 0x00400008 = getReg s 0x00400008 ||| 0x400) ∧
  (∀ (s : State) (a : Issuer) (l : Nat) (f : FmtM), Issues s a l (wordM 5 3 f) → plainM f = true → modeM f = true →
    AccessOk s a l 4 (ldstAddrs (getStrand s a) f 4) true → ∃ t, exec (.stV a f) s = .next t ∧
      (∀ b, b ≠ a → getStrand t b = getStrand s b) ∧
      (let y := getStrand s a; let z := getStrand t a; z = { y with pc := y.pc + 1, tap := z.tap, tapSums := z.tapSums }) ∧
      storesTo s.mem t.mem (byteStores (getLoom s l) 4 (ldstAddrs (getStrand s a) f 4) fun i =>
        ((getStrand s a).vget f.rd.toNat i).toNat)) ∧
  (∀ (s : State) (a : Issuer) (l : Nat) (f : FmtM), Issues s a l (wordM 5 5 f) → convM f = true →
    rndOk f.rnd.toNat 0 f.fmt.toNat = true → modeM f = true →
    AccessOk s a l (fmtBytes f.fmt.toNat) (ldstAddrs (getStrand s a) f (fmtBytes f.fmt.toNat)) true →
    ∃ t, exec (.stVc a f) s = .next t ∧ (∀ b, b ≠ a → getStrand t b = getStrand s b) ∧ t.regs = s.regs ∧
      let y := getStrand s a
      let z := getStrand t a
      let enc := fun i => encode f.fmt.toNat (modeOf f.rnd.toNat (y.drawBits (getLoom s l).seed i)) f.sat (f32Val (y.vget f.rd.toNat i))
      z = { y with pc := y.pc + 1, asw := z.asw } ∧
      (∀ i, z.asw.getLsbD i = (y.asw.getLsbD i || (ldstAddrs y f (fmtBytes f.fmt.toNat)).any fun p => (enc p.1).2.getLsbD i)) ∧
      storesTo s.mem t.mem (byteStores (getLoom s l) (fmtBytes f.fmt.toNat) (ldstAddrs y f (fmtBytes f.fmt.toNat)) fun i => (enc i).1))

/-- R129, for every load and store: the first of its two kinds of fault is BAD_COMMAND, the other PERMISSION. Nothing else
changes but the loom's stop and its fault record. -/
def Obligations.AccessFaults : Prop :=
  ∀ (s : State) (a : Issuer) (l : Nat) (f : FmtM) (op sz : Nat) (c : Instr) (accs : List (Nat × Nat)),
    ((op = 0 ∧ c = .ldS a f ∧ scalarM f = true ∧ sz = 8 ∧ accs = [(0, scalarAddr (getStrand s a) f)]) ∨
     (op = 1 ∧ c = .stS a f ∧ scalarM f = true ∧ sz = 8 ∧ accs = [(0, scalarAddr (getStrand s a) f)]) ∨
     (op = 2 ∧ c = .ldV a f ∧ (plainM f && modeM f) = true ∧ sz = 4 ∧ accs = ldstAddrs (getStrand s a) f 4) ∨
     (op = 3 ∧ c = .stV a f ∧ (plainM f && modeM f) = true ∧ sz = 4 ∧ accs = ldstAddrs (getStrand s a) f 4) ∨
     (op = 4 ∧ c = .ldVc a f ∧ (convM f && f.rnd = 0 && !f.sat && modeM f) = true ∧ sz = fmtBytes f.fmt.toNat ∧
        accs = ldstAddrs (getStrand s a) f sz) ∨
     (op = 5 ∧ c = .stVc a f ∧ (convM f && rndOk f.rnd.toNat 0 f.fmt.toNat && modeM f) = true ∧ sz = fmtBytes f.fmt.toNat ∧
        accs = ldstAddrs (getStrand s a) f sz)) →
    Issues s a l (wordM 5 op f) →
    let offset := fun (b : Nat) => (b - 0x1000000000000000) % 2 ^ 23
    let tileRange := fun (b : Nat) => 0x1000000000000000 ≤ b ∧ b < 0x1000000000000000 + 5120 * 2 ^ 23
    ((∃ p, p ∈ accs ∧ p.2 % sz ≠ 0) → exec c s = .next (insnFault s l a stBad (wordM 5 op f))) ∧
    ((∃ p, p ∈ accs ∧ tileRange p.2 ∧ 7 * 2 ^ 20 ≤ offset p.2) → exec c s = .next (insnFault s l a stBad (wordM 5 op f))) ∧
    ((∀ p, p ∈ accs → accStatus s.variant (getLoom s l) p.2 sz sz ≠ stBad) →
      (∃ p, p ∈ accs ∧ (((tileRange p.2 ∨ p.2 < Config.memEnd s.variant) ∧ mapGives s.variant (getLoom s l) p.2 sz = false) ∨
        (0x2000000000000000 ≤ p.2 ∧ p.2 < 0x2000000000000000 + 2 ^ 30))) →
      exec c s = .next (insnFault s l a stPerm (wordM 5 op f)))
/-! ## Asynchronous operations -/

/-- The strand after an asynchronous instruction has taken its tag (R142, R143): the next tag goes to SD, it is incomplete, and
every other register and tag stays. -/
def TagTaken (y z : Strand) (kind : AsyncKind) (sd : Nat) : Prop :=
  z = { y with pc := y.pc + 1, tagNext := y.tagNext + 1, s := z.s, tags := z.tags } ∧
  (sd ≠ 0 → z.sget sd = y.tagNext.setWidth 64) ∧ (∀ r, (r ≠ sd ∨ sd = 0) → z.sget r = y.sget r) ∧
  z.tagRec y.tagNext = some { tag := y.tagNext, kind, status := none, high := 0 } ∧
  ∀ g, g ≠ y.tagNext → z.tagRec g = y.tagRec g

/-- The scoreboard of a tile after an operation has queued the blocks it reads and those it writes, there and in the tiles whose
stores they lie in (R102, R103, R135). -/
def boardAfter (b : List SbEntry) (tile num : Nat) (reads writes : List (Nat × Nat × Nat)) : List SbEntry :=
  (writes.filter fun k => k.1 = tile).foldl (fun b k => boardQueue b k.2.1 k.2.2 num true)
    ((reads.filter fun k => k.1 = tile).foldl (fun b k => boardQueue b k.2.1 k.2.2 num false) b)

/-- An asynchronous instruction whose descriptor of 64 B is in order: read(d) gives the operation it begins. The blocks it reads
and writes are queued in the scoreboards, it stands in the tile's list, and nothing of memory changes; after is what follows its
issue. A word that is read at issue and is poisoned is met as UNCORRECTED (R154, R185). -/
def AsyncIssue (c : Issuer → FmtD → Instr) (cls op : Nat) (usesB : Bool) (kind : AsyncKind)
    (read : State → Nat → Issuer → FmtD → List Byte → Except Byte AsyncOp) (reads writes : Issuer → AsyncOp → List (Nat × Nat))
    (lists : State → Nat → List Byte → List (Nat × Nat)) (room : State → Issuer → AsyncOp → Prop) (after : State → Nat → State) : Prop :=
  ∀ (s : State) (a : Issuer) (l : Nat) (f : FmtD) (o : AsyncOp), Issues s a l (wordD cls op f) →
    f.pg = 0 → f.pn = false → f.inl = 0 → (usesB = true ∨ f.sb = 0) →
    let y := getStrand s a
    let t := getTile s a.tile
    let at_ := (y.sget f.sa.toNat).toNat
    let d := rdN s (tileAddr a.tile at_) 64
    at_ % 64 = 0 → at_ + 64 ≤ 7 * 2 ^ 20 → tsPoison s a.tile at_ 64 = false →
    let rs := tileBlocks s.variant (reads a o)
    let ws := tileBlocks s.variant (writes a o)
    (∀ st, st ≠ stUncorr → read s l a f d = .error st → exec (c a f) s = .next (after (insnFault s l a st (wordD cls op f)) a.tile)) ∧
    (read s l a f d = .error stUncorr →
      exec (c a f) s = .next (after (insnFault (meetUnits s (some l) (lists s l d)) l a stUncorr (wordD cls op f)) a.tile)) ∧
    (read s l a f d = .ok o → 32 ≤ y.incomplete.length → exec (c a f) s = .next (after s a.tile)) ∧
    (read s l a f d = .ok o → y.incomplete.length < 32 → room s a o →
      (∀ k, k ∈ rs ++ ws → (getTile s k.1).board.length +
        boardNeeds (getTile s k.1).board (((rs ++ ws).filter fun q => q.1 = k.1).map (·.2)) ≤ 512) →
      ∃ u, exec (c a f) s = .next (after u a.tile) ∧ TagTaken y (getStrand u a) kind f.sd.toNat ∧ u.nextNum = s.nextNum + 1 ∧
        (getTile u a.tile).ops =
          t.ops ++ [{ o with strand := a.strand, tag := y.tagNext, kind, num := s.nextNum, reads := rs, writes := ws }] ∧
        (∀ k, (getTile u k).board = boardAfter (getTile s k).board k s.nextNum rs ws) ∧
        (getTile u a.tile).rmtOut = t.rmtOut + (if kind = .rmtRd then o.len else 0) ∧
        u.mem = s.mem ∧ u.looms = s.looms ∧ u.regs = s.regs ∧ u.out = s.out ∧ ∀ b, b ≠ a → getStrand u b = getStrand s b)

/-- An instruction of a tile's own units: it reads no list at issue that could be poisoned, and nothing follows its issue. -/
def OwnIssue (c : Issuer → FmtD → Instr) (cls op : Nat) (usesB : Bool) (kind : AsyncKind)
    (read : State → Nat → Issuer → FmtD → List Byte → Except Byte AsyncOp) (reads writes : Issuer → AsyncOp → List (Nat × Nat))
    (lists : State → Nat → List Byte → List (Nat × Nat) := fun _ _ _ => []) : Prop :=
  AsyncIssue c cls op usesB kind read reads writes lists (fun _ _ _ => True) fun s _ => s

/-- STAGE and WCOPY issue (Tables 4-17 and 9-1, R134, R301, R302). -/
def ShuttleIssue : Prop :=
  OwnIssue .stage 7 0 false .stage (fun s l _ _ d => stageOp s (getLoom s l) d) (fun _ _ => []) (fun a o => stageDst a.tile o) ∧
  OwnIssue .wcopy 7 1 false .wcopy (fun s l a _ d => wcopyOp s (getLoom s l) a.tile d) (fun _ o => wcopySrc o) (fun _ o => wcopyDst o)

/-- COPY, GATHER, SCATTER and EBAG issue (Table 4-18, R136): indices and bags are read at issue. The blocks of the indexed side
are the model's choice (log 118). -/
def TransferIssue : Prop :=
  OwnIssue .copy_ 8 0 false .copy (fun s l _ _ d => copyOp s l d) (fun _ o => [(o.src, o.len)]) (fun _ o => [(o.dst, o.len)])
    (xferLists .copy) ∧
  OwnIssue .gather 8 1 false .gather (fun s l _ _ d => indexedOp true s l d) (fun _ o => xferReads .gather o)
    (fun _ o => xferWrites .gather o) (xferLists .gather) ∧
  OwnIssue .scatter 8 2 false .scatter (fun s l _ _ d => indexedOp false s l d) (fun _ o => xferReads .scatter o)
    (fun _ o => xferWrites .scatter o) (xferLists .scatter) ∧
  OwnIssue .ebag 8 3 false .ebag (fun s l _ _ d => ebagOp s l d) (fun _ o => xferReads .ebag o)
    (fun _ o => xferWrites .ebag o) (xferLists .ebag)

/-- RD, WR and ADD issue (Table 4-19, R139); a tile has at most 256 KiB of reads outstanding (R191). What is for another module
is then sent: one operation that alone is not sent yet goes out as its request, in the order of issue (R160). -/
def RemoteIssue : Prop :=
  (let local_ := fun (_ : Issuer) (o : AsyncOp) => [(o.src, o.len)]
   let no := fun (_ : Issuer) (_ : AsyncOp) => ([] : List (Nat × Nat))
   let none_ := fun (_ : State) (_ : Nat) (_ : List Byte) => ([] : List (Nat × Nat))
   AsyncIssue .rmtRd 9 0 false .rmtRd (fun s l _ _ d => rmtOp false s l d) no local_ none_
     (fun s a o => (getTile s a.tile).rmtOut + o.len ≤ 262144) rmtDrive ∧
   AsyncIssue .rmtWr 9 1 false .rmtWr (fun s l _ _ d => rmtOp false s l d) local_ no none_ (fun _ _ _ => True) rmtDrive ∧
   AsyncIssue .rmtAdd 9 2 false .rmtAdd (fun s l _ _ d => rmtOp true s l d) local_ no none_ (fun _ _ _ => True) rmtDrive) ∧
  (∀ (s : State) (tile l : Nat) (ops : List AsyncOp) (o : AsyncOp), ownerOfTile s tile = some l → (getTile s tile).ops = ops ++ [o] →
    (∀ q, q ∈ ops → (q.sent = true ∨ q.isRmt = false) ∧ ¬ (q.strand = o.strand ∧ q.tag = o.tag)) →
    o.isRmt = true → o.sent = false → (o.x, o.y, o.z) ≠ coordOf s → (getLoom s l).st ≠ .fenced → (getLoom s l).image = none →
    (o.changes = true → opReady s o = true ∧ poisonVia s (getLoom s l) o.src o.len = false) →
    rowsWait s l (.op tile o.strand o.tag.toNat) (if o.changes = true then [(o.src, o.len)] else []) = false → agentsIdle s l →
    let t := rmtDrive s tile
    t.out = s.out ++ [.request o.x o.y o.z (requestOf s { tile, strand := o.strand } o l)] ∧
    (getTile t tile).ops = ops ++ [{ o with sent := true }] ∧ t.mem = s.mem)

/-- FACT, SOLV, TOPK and NORMACC issue (Table 4-22, R149): SB names the damping value of FACT and SOLV. -/
def SpecialIssue : Prop :=
  let read := fun k s l (a : Issuer) (f : FmtD) d => specOp k s a.tile (((getStrand s a).sget f.sb.toNat).setWidth 32) l d
  let srcs := fun (_ : Issuer) o => specSrcs o
  let dsts := fun (_ : Issuer) o => specDsts o
  OwnIssue .fact 0xC 0 true .fact (read .fact) srcs dsts ∧
  OwnIssue .solv 0xC 1 true .solv (read .solv) srcs dsts ∧
  OwnIssue .topk 0xC 2 false .topk (read .topk) srcs dsts ∧
  OwnIssue .normacc 0xC 3 false .normacc (read .normacc) srcs dsts

/-- R118, for the instructions of SHTL, XFER, RMT and SPEC: a descriptor that is not aligned to 64 B, or that passes 7 MiB, faults
with BAD_COMMAND; one that meets a POISONED group faults with UNCORRECTED. What a tile's earlier RMT instructions still have to send
may go out at the same moment. -/
def Obligations.DescriptorFaults : Prop :=
  ∀ (s : State) (a : Issuer) (l : Nat) (f : FmtD) (cls op : Nat) (c : Instr), Issues s a l (wordD cls op f) →
    (cls, op, c) ∈ [(7, 0, Instr.stage a f), (7, 1, .wcopy a f), (8, 0, .copy_ a f), (8, 1, .gather a f), (8, 2, .scatter a f),
      (8, 3, .ebag a f), (9, 0, .rmtRd a f), (9, 1, .rmtWr a f), (9, 2, .rmtAdd a f), (12, 0, .fact a f), (12, 1, .solv a f),
      (12, 2, .topk a f), (12, 3, .normacc a f)] →
    f.pg = 0 → f.pn = false → f.inl = 0 → f.sb = 0 →
    let at_ := ((getStrand s a).sget f.sa.toNat).toNat
    let after := fun (t : State) => if cls = 9 then rmtDrive t a.tile else t
    ((at_ % 64 ≠ 0 ∨ 7 * 2 ^ 20 < at_ + 64) → exec c s = .next (after (insnFault s l a stBad (wordD cls op f)))) ∧
    (at_ % 64 = 0 → at_ + 64 ≤ 7 * 2 ^ 20 → tsPoison s a.tile at_ 64 = true →
      exec c s = .next (after (insnFault s l a stUncorr (wordD cls op f))))

/-- An operation may complete: it is in its tile's list with its loom, its blocks' turn has come (R499), the agents of the rows it
names hold nothing before it (R217), no publication still needs what it overwrites (R358), and nothing it touches is poisoned. -/
def MayComplete (s : State) (a : Issuer) (tag : BitVec 16) (l : Nat) (o : AsyncOp) (srcs dsts : List (Nat × Nat)) : Prop :=
  s.svc.dark = false ∧ opOf (getTile s a.tile) a.strand tag = some o ∧ ownerOfTile s a.tile = some l ∧
  opReady s o = true ∧ rowsWait s l (.op a.tile a.strand tag.toNat) (srcs ++ dsts) = false ∧ agentsIdle s l ∧
  (∀ r, r ∈ dsts → uncopied s r.1 r.2 = none) ∧ opPoison s (getLoom s l) srcs dsts = false

/-- An operation is over: it leaves the list, and its tag completes with a status, a high word and flags (R142). -/
def Completes (s t : State) (a : Issuer) (tag : BitVec 16) (st : Byte) (high : W32) (fl : W64) : Prop :=
  (getTile t a.tile).ops = (getTile s a.tile).ops.filter (fun q => !(q.strand = a.strand && q.tag = tag)) ∧
  getStrand t a = (getStrand s a).complete tag st high fl ∧ ∀ b, b ≠ a → getStrand t b = getStrand s b

/-- What a strand is after a tag completes: its record, its ASW, and that a strand that waited for it goes on (R142, R145). -/
def Obligations.TagCompletes : Prop :=
  ∀ (y : Strand) (tag : BitVec 16) (k : AsyncKind) (h : W32) (st : Byte) (high : W32) (fl : W64),
    y.tagRec tag = some { tag, kind := k, status := none, high := h } →
    let z := y.complete tag st high fl
    z.tagRec tag = some { tag, kind := k, status := some st, high } ∧ z.asw = y.asw ||| fl ∧
    (∀ g, g ≠ tag → z.tagRec g = y.tagRec g) ∧
    (∀ sd, y.blocked = .wait tag sd → z.blocked = .free ∧ z.pc = y.pc + 1 ∧
      (sd ≠ 0 → z.sget sd = BitVec.ofNat 64 (st.toNat + high.toNat * 2 ^ 32))) ∧
    (y.blocked = .free → z.blocked = .free ∧ z.pc = y.pc ∧ z.s = y.s)

/-- STAGE_UNIT_LANDED: the next 64 KiB of a STAGE, or what is left of it, is copied unchanged, and the last completes the tag
(R134); a unit of a matrix command's weft in the stacks is staged: its bytes are those of the stacks at that moment (R95). -/
def StagedUnits : Prop :=
  (∀ (s : State) (tile strand l : Nat) (tag : BitVec 16) (o : AsyncOp),
    let a : Issuer := { tile, strand }
    let at_ := o.landed * 65536
    let n := min 65536 (o.len - at_)
    o.kind = .stage → o.strand = strand → o.tag = tag →
    s.svc.dark = false → opOf (getTile s tile) strand tag = some o → ownerOfTile s tile = some l →
    opReady s o = true → uncopied s (tileAddr tile (o.dst + at_)) n = none →
    opPoison s (getLoom s l) [(o.src + at_, n)] [(tileAddr tile (o.dst + at_), n)] = false →
    ∃ t, exec (.stageUnitLanded tile (.stage strand tag)) s = .next t ∧
      storesTo s.mem t.mem ((List.range n).map fun i => (tileAddr tile (o.dst + at_) + i, memGet s.mem (o.src + at_ + i))) ∧
      (o.len ≤ at_ + n → Completes s t a tag stOk 0 0) ∧
      (at_ + n < o.len → opOf (getTile t tile) strand tag = some { o with landed := o.landed + 1 } ∧
        ∀ b, getStrand t b = getStrand s b)) ∧
  (∀ (s : State) (tile num : Nat) (r : MtxRun) (before rest : List MtxRun), s.svc.dark = false →
    (getTile s tile).running = before ++ r :: rest → r.cmd.num = num → (∀ q, q ∈ before ++ rest → q.cmd.num ≠ num) →
    let at_ := r.cmd.weftAddr + r.staged.length * 65536
    let n := min 65536 (r.cmd.weftBytes - r.staged.length * 65536)
    r.staged.length < weftUnits s.variant r.cmd → poisonHit s at_ n = false →
    ∃ t q, exec (.stageUnitLanded tile (.weft num)) s = .next t ∧ t.mem = s.mem ∧ t.looms = s.looms ∧
      (getTile t tile).running = before ++ q :: rest ∧ (getTile t tile).acc = (getTile s tile).acc ∧
      q.cmd = r.cmd ∧ q.pos = r.pos ∧ q.parts = r.parts ∧
      q.staged = r.staged ++ [(List.range n).map fun i => memGet s.mem (at_ + i)])

/-- WCOPY_COMPLETE, where no older conversion of the tile is ready (R96): for a format without a shared scale, element (r, c) of the copy is the rounded master element, at its place
in the plane; for every format no byte outside the plane and the scales changes. The tag completes with OK and no flag (R301,
R302). -/
def WorkingCopies : Prop :=
  ∀ (s : State) (a : Issuer) (tag : BitVec 16) (l : Nat) (o : AsyncOp), o.kind = .wcopy → o.strand = a.strand → o.tag = tag →
    (o.tiled = true → o.rows % 32 = 0 ∧ o.cols % blockCols o.dstFmt = 0) → MayComplete s a tag l o (wcopySrc o) (wcopyDst o) →
    (∀ q, q ∈ readyConversions s a.tile → o.num ≤ q.num) →
    ∃ t, exec (.wcopyComplete a tag) s = .next t ∧ Completes s t a tag stOk 0 0 ∧
      (∀ b, (∀ r, r ∈ wcopyDst o → ¬ (r.1 ≤ b ∧ b < r.1 + r.2)) → memGet t.mem b = memGet s.mem b) ∧
      (o.dstFmt ∈ [1, 2, 3, 4] → ∀ r c, r < o.rows → c < o.cols →
        let pos := if o.tiled = true then (r / 32 * (o.cols / 32) + c / 32) * 1024 + r % 32 * 32 + c % 32 else r * o.cols + c
        let v := BitVec.ofNat 32 (leNat (bytesVia s l (o.src + (r * o.cols + c) * 4) 4))
        let draw := srBits (getLoom s l).seed o.stream o.tensorId (BitVec.ofNat 64 ((o.row0 + r) * o.tensorCols + o.col0 + c))
        let sz := fmtBytes o.dstFmt
        rd t (o.dst + pos * sz) sz = (encode o.dstFmt (modeOf o.rnd draw) o.sat (f32Val v)).1 % 256 ^ sz)

/-- The bytes of the moves of a COPY, GATHER or SCATTER, in order. -/
def moveStores (s : State) (l : Nat) (ms : List (Nat × Nat × Nat)) : List (Nat × Byte) :=
  ms.flatMap fun m => (List.range m.2.2).map fun i =>
    (byteHome (getLoom s l) (m.2.1 + i), byteVia s l (m.1 + i))

/-- No byte a transfer writes is one it reads. -/
def apart (s : State) (l : Nat) (reads writes : List Nat) : Prop :=
  ∀ a b, a ∈ reads → b ∈ writes → byteHome (getLoom s l) a ≠ byteHome (getLoom s l) b

/-- The addresses of a range. -/
def rangeOf (a n : Nat) : List Nat := (List.range n).map (a + ·)

/-- XFER_COMPLETE (Table 4-18, R136, R137): COPY moves its bytes, also between ranges that overlap; GATHER and SCATTER move row
i from or to the row of index i, the higher i standing where two of a SCATTER meet. -/
def Transfers : Prop :=
  ∀ (s : State) (a : Issuer) (tag : BitVec 16) (l : Nat) (o : AsyncOp), o.strand = a.strand → o.tag = tag →
    MayComplete s a tag l o (xferSrc o) (xferDst o) →
    let rows := o.list.zip (List.range o.list.length)
    (o.kind = .copy → ∃ t, exec (.xferComplete a tag) s = .next t ∧ Completes s t a tag stOk 0 0 ∧
      storesTo s.mem t.mem (moveStores s l [(o.src, o.dst, o.len)])) ∧
    (o.kind = .gather →
      apart s l (o.list.flatMap fun j => rangeOf (o.src + j * o.row) o.row) (rangeOf o.dst (o.list.length * o.row)) →
      ∃ t, exec (.xferComplete a tag) s = .next t ∧ Completes s t a tag stOk 0 0 ∧
        storesTo s.mem t.mem (moveStores s l (rows.map fun p => (o.src + p.1 * o.row, o.dst + p.2 * o.row, o.row)))) ∧
    (o.kind = .scatter →
      apart s l (rangeOf o.src (o.list.length * o.row)) (o.list.flatMap fun j => rangeOf (o.dst + j * o.row) o.row) →
      ∃ t, exec (.xferComplete a tag) s = .next t ∧ Completes s t a tag stOk 0 0 ∧
        storesTo s.mem t.mem (moveStores s l (rows.map fun p => (o.src + p.2 * o.row, o.dst + p.1 * o.row, o.row))))

/-- R68: bag b sums its rows in the order of its list, from 0.0, each step one rounding; under weights a fused multiply-add. -/
def bagSum (s : State) (l : Nat) (o : AsyncOp) (b j : Nat) : W32 :=
  let first := o.list.getD b 0
  let n := o.list.getD (b + 1) 0 - first
  let sz := fmtBytes o.srcFmt
  (List.range n).foldl (fun sum k =>
    let row := o.list.getD (o.rows + 1 + (first - o.list.headD 0) + k) 0
    let x := f32Of (elemVal o.srcFmt (leNat (bytesVia s l (o.src + row * o.row + j * sz) sz)))
    if o.wgt = 0 then f32Add sum x
    else f32Fma x (BitVec.ofNat 32 (leNat (bytesVia s l (o.wgt + 4 * (first + k)) 4))) sum) 0

/-- XFER_COMPLETE of an EBAG: element j of bag b is bagSum in DST_FMT, at DST + b × the row in DST_FMT + j × its size; every
byte that is not one of DST is as before (R68, R136). -/
def EmbeddingBags : Prop :=
  ∀ (s : State) (a : Issuer) (tag : BitVec 16) (l : Nat) (o : AsyncOp), o.kind = .ebag → o.strand = a.strand → o.tag = tag →
    MayComplete s a tag l o (xferSrc o) (xferDst o) →
    o.list.length = o.rows + 1 + (o.list.getD o.rows 0 - o.list.headD 0) →
    (∀ b, b < o.rows → o.list.getD b 0 ≤ o.list.getD (b + 1) 0) →
    let e := o.row / fmtBytes o.srcFmt
    let ds := fmtBytes o.dstFmt
    let homes := (rangeOf o.dst (o.rows * e * ds)).map (byteHome (getLoom s l))
    homes.Nodup →
    ∃ t, exec (.xferComplete a tag) s = .next t ∧ (∃ fl, Completes s t a tag stOk 0 fl) ∧
      (∀ p, p ∉ homes → memGet t.mem p = memGet s.mem p) ∧
      ∀ b j i, b < o.rows → j < e → i < ds →
        let draw := srBits (getLoom s l).seed o.stream o.tensorId (BitVec.ofNat 64 (b * e + j))
        memGet t.mem (byteHome (getLoom s l) (o.dst + (b * e + j) * ds + i)) = BitVec.ofNat 8
          ((encode o.dstFmt (modeOf o.rnd draw) o.sat (f32Val (bagSum s l o b j))).1 / 256 ^ i)
/-! ## Conversion, synchronisation, system -/

/-- CVT, MXQ and MXDQ (Table 4-12 class VCVT, R125 to R127): CVT converts each thread's element of FMT2 to FMT; MXQ quantises the
32 values as one block under one shared scale, which goes to bits 7:0 of scalar RC; MXDQ is the element times 2^(scale − 127),
rounded once. Bits 63:8 of RC after MXQ (log 18), and the bits of each thread's rd above its element of 8 or, for MXE2M1, 4 bits
(log 120), are free. -/
def Obligations.Conversions : Prop :=
  (∀ (s : State) (a : Issuer) (l : Nat) (f : FmtR), Issues s a l (wordR 4 0 f) → fieldsR f = true → cvtFmt f.fmt.toNat = true →
    cvtFmt f.fmt2.toNat = true → rndOk f.rnd.toNat f.fmt2.toNat f.fmt.toNat = true →
    let y := getStrand s a
    let r := fun i => encode f.fmt.toNat (modeOf f.rnd.toNat (y.drawBits (getLoom s l).seed i)) f.sat
      (elemVal f.fmt2.toNat (y.vget f.ra.toNat i).toNat)
    ∃ z, exec (.cvt a f) s = .next (setStrand s a z) ∧
      VecResult y z f.pg f.pn f.rd.toNat (fun i => BitVec.ofNat 32 (r i).1) fun i => (r i).2) ∧
  (∀ (s : State) (a : Issuer) (l : Nat) (f : FmtR), Issues s a l (wordR 4 1 f) → fieldsR f = true → f.rc.toNat < 32 →
    isMx f.fmt.toNat = true → rndOk f.rnd.toNat 0 f.fmt.toNat = true → (∀ i, i < 32 → (getStrand s a).runs f.pg f.pn i = true) →
    let y := getStrand s a
    let vals := (List.range 32).map fun i => f32Val (y.vget f.ra.toNat i)
    let sc := mxScale f.fmt.toNat vals
    let elem := fun i => (encode f.fmt.toNat (modeOf f.rnd.toNat (y.drawBits (getLoom s l).seed i)) true
      (scaleDown (f32Val (y.vget f.ra.toNat i)) ((sc : Int) - 127))).1
    ∃ z, exec (.mxq a f) s = .next (setStrand { s with free := s.free + 33 } a z) ∧ z.pc = y.pc + 1 ∧ z.p = y.p ∧
      (∀ r, r ≠ f.rc.toNat → z.sget r = y.sget r) ∧ (f.rc ≠ 0 → (z.sget f.rc.toNat).toNat % 256 = sc) ∧
      (∀ i, i < 32 → (z.vget f.rd.toNat i).toNat % (if f.fmt.toNat = 7 then 16 else 256) = if sc = 255 then 0 else elem i) ∧
      ∀ r i, r ≠ f.rd.toNat → i < 32 → z.vget r i = y.vget r i) ∧
  (∀ (s : State) (a : Issuer) (l : Nat) (f : FmtR), Issues s a l (wordR 4 2 f) → fieldsR f = true → f.rb.toNat < 32 →
    isMx f.fmt2.toNat = true → f.rnd = 0 →
    let y := getStrand s a
    let sc := (y.sget f.rb.toNat).toNat % 256
    let v := fun i => if sc = 255 then FVal.nan else scaleDown (elemVal f.fmt2.toNat (y.vget f.ra.toNat i).toNat) (127 - (sc : Int))
    ∃ z, exec (.mxdq a f) s = .next (setStrand s a z) ∧
      VecResult y z f.pg f.pn f.rd.toNat (fun i => f32Of (v i)) fun i => (shF32.narrow .rne false (v i)).2)

/-- The strand blocks, and nothing else of it changes. -/
def blockedIn (y : Strand) (b : Block) : Strand := { y with blocked := b }

/-- SD receives a value and the strand goes on. -/
def gives (y : Strand) (sd : Nat) (v : Nat) : Strand := (y.sput sd (BitVec.ofNat 64 v)).next

/-- WAIT, WAITALL and FENCE (Table 4-21, R142, R145, R159): a WAIT for a complete tag gives its status and high word, one for an
incomplete tag blocks, one for a tag the strand never issued faults with BAD_COMMAND; WAITALL gives OK when nothing is
incomplete, and blocks else; a FENCE of a scope below REMOTE only goes on, and one of REMOTE waits for WR and ADD. -/
def Waits : Prop :=
  ∀ (s : State) (a : Issuer) (l : Nat) (f : FmtD), f.pg = 0 → f.pn = false → f.sb = 0 →
    let y := getStrand s a
    (Issues s a l (wordD 0xB 0 f) → ∀ tag : BitVec 16, y.sget f.sa.toNat = tag.setWidth 64 →
      (y.tagRec tag = none → exec (.wait_ a f) s = .next (insnFault s l a stBad (wordD 0xB 0 f))) ∧
      (∀ r, y.tagRec tag = some r → r.status = none →
        exec (.wait_ a f) s = .next (setStrand s a (blockedIn y (.wait tag f.sd.toNat)))) ∧
      (∀ r st, y.tagRec tag = some r → r.status = some st →
        exec (.wait_ a f) s = .next (setStrand s a (gives y f.sd.toNat (st.toNat + r.high.toNat * 2 ^ 32))))) ∧
    (Issues s a l (wordD 0xB 1 f) → f.sa = 0 →
      (y.incomplete = [] → exec (.waitall a f) s = .next (setStrand s a (gives y f.sd.toNat 0))) ∧
      (y.incomplete ≠ [] → exec (.waitall a f) s =
        .next (setStrand s a (blockedIn y (.waitAll (y.incomplete.map (·.tag)) f.sd.toNat))))) ∧
    (Issues s a l (wordD 0xB 2 f) → f.sa = 0 → f.sd = 0 →
      let scope := f.inl.toNat / 2 ^ 32
      (scope < 3 → exec (.fence a f) s = .next (setStrand s a y.next)) ∧
      (scope = 3 → (∀ r, r ∈ y.incomplete → r.kind ≠ .rmtWr ∧ r.kind ≠ .rmtAdd) → exec (.fence a f) s = .next (setStrand s a y.next)) ∧
      (scope = 3 → (∃ r, r ∈ y.incomplete ∧ (r.kind = .rmtWr ∨ r.kind = .rmtAdd)) →
        exec (.fence a f) s = .next (setStrand s a (blockedIn y .fence))))

/-- BAR (R121, R158): scope STRAND only goes on; in scope TILE or LOOM the strand waits while another strand of the scope has
neither arrived nor ended, and when it is the last, every strand that waits there goes on. -/
def Barriers : Prop :=
  ∀ (s : State) (a : Issuer) (l : Nat) (f : FmtD), Issues s a l (wordD 0xB 3 f) → f.pg = 0 → f.pn = false → f.sb = 0 → f.sa = 0 →
    f.sd = 0 →
    let y := getStrand s a
    let scope := f.inl.toNat / 2 ^ 32
    let id := f.inl.toNat / 2 ^ 28 % 16
    let group := ((getLoom s l).cmd.map (·.tiles)).getD []
    let within := fun b : Issuer => b.strand < 16 ∧ (if scope = 1 then b.tile = a.tile else b.tile ∈ group)
    let at_ := Block.bar (decide (scope = 2)) id
    let other := fun b : Issuer => b ≠ a ∧ within b ∧ (getStrand s b).ended = false ∧ (getStrand s b).blocked ≠ at_
    (scope = 0 → exec (.bar a f) s = .next (setStrand s a y.next)) ∧
    (scope = 1 ∨ scope = 2 → a.strand < 16 → a.tile ∈ group →
      ∃ t, exec (.bar a f) s = .next t ∧ t.mem = s.mem ∧ t.looms = s.looms ∧
        ((∃ b, other b) → getStrand t a = blockedIn y at_) ∧
        ((∀ b, ¬ other b) → getStrand t a = y.next ∧
          ∀ b, b ≠ a → within b → (getStrand s b).blocked = at_ → getStrand t b = (blockedIn (getStrand s b) .free).next))

/-- The SEM field and the N field of a semaphore instruction. -/
def semField (f : FmtD) : Nat := f.inl.toNat % 2 ^ 12
def semUnits (f : FmtD) : Nat := f.inl.toNat / 2 ^ 12 % 2 ^ 16

/-- A semaphore instruction in order, of a loom whose units have not been revoked. -/
def SemOk (op : Nat) (s : State) (a : Issuer) (l : Nat) (f : FmtD) : Prop :=
  Issues s a l (wordD 0xB op f) ∧ f.pg = 0 ∧ f.pn = false ∧ f.sb = 0 ∧ f.sa = 0 ∧ semUnits f ≠ 0 ∧ (getLoom s l).revoked = false

/-- SEMACQ, SEMTRY and SEMREL on a loom's own semaphore (SEM below 256; R146, R148): units are taken at once when they are there
and, for SEMACQ, nothing waits for that semaphore; else SEMACQ waits at the end of the queue and SEMTRY gives BUSY; SEMREL
adds units, and gives BAD_COMMAND when the count would pass 2^32 − 1. -/
def LoomSemaphores : Prop :=
  ∀ (s : State) (a : Issuer) (l : Nat) (f : FmtD), semField f < 256 →
    let y := getStrand s a
    let x := getLoom s l
    let n := semUnits f
    let sem := semField f
    let count := (tget 0 x.sems sem).toNat
    let queued := x.semWaiters.any fun w => w.1 = sem
    let with_ := fun c : Nat => setLoom s l { x with sems := tset 0 x.sems sem (BitVec.ofNat 32 c) }
    (SemOk 4 s a l f →
      (n ≤ count → queued = false → exec (.semacq a f) s = .next (setStrand (with_ (count - n)) a (gives y f.sd.toNat 0))) ∧
      ((count < n ∨ queued = true) → exec (.semacq a f) s = .next (setStrand
        (setLoom s l { x with semWaiters := x.semWaiters ++ [(sem, a.tile, a.strand)] }) a (blockedIn y (.sem sem n f.sd.toNat))))) ∧
    (SemOk 5 s a l f →
      (n ≤ count → exec (.semtry a f) s = .next (setStrand (with_ (count - n)) a (gives y f.sd.toNat 0))) ∧
      (count < n → exec (.semtry a f) s = .next (setStrand s a (gives y f.sd.toNat 6)))) ∧
    (SemOk 6 s a l f →
      (2 ^ 32 ≤ count + n → exec (.semrel a f) s = .next (setStrand s a (gives y f.sd.toNat 0x11))) ∧
      (count + n < 2 ^ 32 → queued = false →
        exec (.semrel a f) s = .next (setStrand (with_ (count + n)) a (gives y f.sd.toNat 0))) ∧
      (count + n < 2 ^ 32 → queued = true → ∃ t, exec (.semrel a f) s = .next t ∧ t.mem = s.mem ∧
        (tget 0 (getLoom t l).sems sem).toNat ≤ count + n ∧ getStrand t a = gives y f.sd.toNat 0))

/-- The same on a shared semaphore (SEM 0x800 to 0xBFF; R147, R148, R248): a loom whose session is not in the mask gets
PERMISSION; units acquired are counted for the loom, and SEMREL gives BAD_COMMAND for units it does not hold. -/
def SharedSemaphores : Prop :=
  ∀ (s : State) (a : Issuer) (l : Nat) (f : FmtD) (q : SharedSem), 0x800 ≤ semField f → semField f < 0xC00 →
    tfind s.ssems (semField f) = some q →
    let y := getStrand s a
    let n := semUnits f
    let sem := semField f
    let held := tget 0 q.units l
    let with_ := fun q' : SharedSem => { s with ssems := tput s.ssems sem q' }
    (q.mask.getLsbD (getLoom s l).session = false →
      (SemOk 4 s a l f → exec (.semacq a f) s = .next (setStrand s a (gives y f.sd.toNat 0x12))) ∧
      (SemOk 5 s a l f → exec (.semtry a f) s = .next (setStrand s a (gives y f.sd.toNat 0x12))) ∧
      (SemOk 6 s a l f → exec (.semrel a f) s = .next (setStrand s a (gives y f.sd.toNat 0x12)))) ∧
    (q.mask.getLsbD (getLoom s l).session = true → (getLoom s l).preempt = none →
      let taken : SharedSem := { q with count := BitVec.ofNat 32 (q.count.toNat - n), units := tput q.units l (held + n) }
      let given : SharedSem := { q with count := BitVec.ofNat 32 (q.count.toNat + n), units := tset 0 q.units l (held - n) }
      (SemOk 4 s a l f →
        (n ≤ q.count.toNat → q.waiters = [] → exec (.semacq a f) s = .next (setStrand (with_ taken) a (gives y f.sd.toNat 0))) ∧
        ((q.count.toNat < n ∨ q.waiters ≠ []) → exec (.semacq a f) s = .next (setStrand
          (with_ { q with waiters := q.waiters ++ [(l, a.tile, a.strand, n)] }) a (blockedIn y (.sem sem n f.sd.toNat))))) ∧
      (SemOk 5 s a l f →
        (n ≤ q.count.toNat → exec (.semtry a f) s = .next (setStrand (with_ taken) a (gives y f.sd.toNat 0))) ∧
        (q.count.toNat < n → exec (.semtry a f) s = .next (setStrand s a (gives y f.sd.toNat 6)))) ∧
      (SemOk 6 s a l f →
        ((held < n ∨ 2 ^ 32 ≤ q.count.toNat + n) → exec (.semrel a f) s = .next (setStrand s a (gives y f.sd.toNat 0x11))) ∧
        (n ≤ held → q.count.toNat + n < 2 ^ 32 → q.waiters = [] →
          exec (.semrel a f) s = .next (setStrand (with_ given) a (gives y f.sd.toNat 0))) ∧
        (n ≤ held → q.count.toNat + n < 2 ^ 32 → q.waiters ≠ [] → ∃ t, exec (.semrel a f) s = .next t ∧ t.mem = s.mem ∧
          getStrand t a = gives y f.sd.toNat 0)))

/-- R148: a semaphore instruction of a loom whose units were revoked gives SEM_REVOKED, once. -/
def RevokedOnce : Prop :=
  ∀ (s : State) (a : Issuer) (l : Nat) (f : FmtD) (op : Nat) (c : Instr),
    (op, c) ∈ [(4, Instr.semacq a f), (5, .semtry a f), (6, .semrel a f)] → Issues s a l (wordD 0xB op f) →
    f.pg = 0 → f.pn = false → f.sb = 0 → f.sa = 0 → semUnits f ≠ 0 →
    (semField f < 256 ∨ (0x800 ≤ semField f ∧ semField f < 0xC00)) → (getLoom s l).revoked = true →
    exec c s = .next (setStrand (setLoom s l { getLoom s l with revoked := false }) a (gives (getStrand s a) f.sd.toNat 8))

/-- What RDSR reads (Table 4-24); SR_CYCLE and a pick that no batch step gives apart. -/
def srValue (s : State) (l : Nat) (a : Issuer) (y : Strand) : Nat → Option W64
  | 0 => some s.tlm.timebase
  | 2 => some (BitVec.ofNat 64 (((loomTiles (getLoom s l)).idxOf? a.tile).getD 0))
  | 3 => some (BitVec.ofNat 64 (((getLoom s l).cmd.map fun c => c.tiles.length).getD 0))
  | 4 => some (BitVec.ofNat 64 a.strand)
  | 5 => some (BitVec.ofNat 64 a.tile)
  | 6 => some (BitVec.ofNat 64 l)
  | 7 => some y.asw
  | 8 => if (genWeave s l).isNone then some 0xFFFFFFFF else (getLoom s l).srv.formed.map fun p => BitVec.ofNat 64 p.pick
  | 9 => some (y.tagNext.setWidth 64)
  | _ => none

/-- Class SYS (Table 4-24): RDSR reads a special register, a number above 9 faults (R153); CLRASW clears the bits of IMM (R128);
NOP only goes on; END ends the strand, whose PC stays (R121). -/
def Obligations.SystemClass : Prop :=
  ∀ (s : State) (a : Issuer) (l : Nat) (f : FmtI), f.pg = 0 → f.pn = false → f.rsv = 0 →
    let y := getStrand s a
    let n := f.imm.toNat % 256
    (Issues s a l (wordI 0xD 0 f) → f.rd.toNat < 32 →
      (10 ≤ n → exec (.rdsr a f) s = .next (insnFault s l a stBad (wordI 0xD 0 f))) ∧
      (∀ v, srValue s l a y n = some v →
        exec (.rdsr a f) s = .next (setStrand { s with free := s.free + 2 } a (y.sput f.rd.toNat v).next)) ∧
      (n < 10 → ∃ t v, exec (.rdsr a f) s = .next t ∧ t.mem = s.mem ∧ (getStrand t a).s = (y.sput f.rd.toNat v).s ∧
        (getStrand t a).pc = y.pc + 1)) ∧
    (Issues s a l (wordI 0xD 1 f) → exec (.clrasw a f) s =
      .next (setStrand s a { y with asw := y.asw &&& ~~~ (f.imm.setWidth 64), pc := y.pc + 1 })) ∧
    (Issues s a l (wordI 0xD 2 f) → exec (.nop a f) s = .next (setStrand s a y.next)) ∧
    (Issues s a l (wordI 0xD 3 f) → ∃ t, exec (.endStrand a f) s = .next t ∧ t.mem = s.mem ∧ t.looms = s.looms ∧
      getStrand t a = { y with ended := true })

/-- R117: a nonzero reserved bit, a reserved class or an unlisted operation, and a register outside its file, fault with
BAD_COMMAND, and so does a format code that Table 2-2 reserves (R42, log 28); a word in no class's list does so whichever of these instructions is tried. -/
def ReservedFaults : Prop :=
  (∀ (s : State) (a : Issuer) (l : Nat) (w : W64) (f : FmtR) (g : FmtI) (h : FmtB) (m : FmtM) (d : FmtD) (c : Instr),
    c ∈ [Instr.add a f, .addi a g, .bra a h, .fadd a f, .cvt a f, .ldS a m, .mma a d, .stage a d, .copy_ a d, .rmtRd a d, .rs a d,
      .wait_ a d, .fact a d, .nop a g] → Issues s a l w → listed w = false → exec c s = .next (insnFault s l a stBad w)) ∧
  (∀ (s : State) (a : Issuer) (l : Nat) (f : FmtR), Issues s a l (wordR 0 0 f) → f.rsv ≠ 0 →
    exec (.add a f) s = .next (insnFault s l a stBad (wordR 0 0 f))) ∧
  (∀ (s : State) (a : Issuer) (l : Nat) (f : FmtI), Issues s a l (wordI 0xD 2 f) → f.rsv ≠ 0 →
    exec (.nop a f) s = .next (insnFault s l a stBad (wordI 0xD 2 f))) ∧
  (∀ (s : State) (a : Issuer) (l : Nat) (f : FmtB), Issues s a l (wordB 2 0 f) → f.rsv ≠ 0 →
    exec (.bra a f) s = .next (insnFault s l a stBad (wordB 2 0 f))) ∧
  (∀ (s : State) (a : Issuer) (l : Nat) (f : FmtR), Issues s a l (wordR 3 0x10 f) → f.rsv ≠ 0 →
    exec (.iadd a f) s = .next (insnFault s l a stBad (wordR 3 0x10 f))) ∧
  (∀ (s : State) (a : Issuer) (l : Nat) (f : FmtR), Issues s a l (wordR 0 0 f) → (32 ≤ f.rd.toNat ∨ 32 ≤ f.ra.toNat ∨ 32 ≤ f.rb.toNat) →
    exec (.add a f) s = .next (insnFault s l a stBad (wordR 0 0 f))) ∧
  (∀ (s : State) (a : Issuer) (l : Nat) (f : FmtR), Issues s a l (wordR 3 0x28 f) → (8 ≤ f.rd.toNat ∨ 8 ≤ f.ra.toNat ∨ 8 ≤ f.rb.toNat) →
    exec (.pand a f) s = .next (insnFault s l a stBad (wordR 3 0x28 f))) ∧
  (∀ (s : State) (a : Issuer) (l : Nat) (f : FmtR), 0xA < f.fmt.toNat ∨ 0xA < f.fmt2.toNat →
    (Issues s a l (wordR 3 0x00 f) → exec (.fadd a f) s = .next (insnFault s l a stBad (wordR 3 0x00 f))) ∧
    (Issues s a l (wordR 4 1 f) → exec (.mxq a f) s = .next (insnFault s l a stBad (wordR 4 1 f))) ∧
    (Issues s a l (wordR 4 2 f) → exec (.mxdq a f) s = .next (insnFault s l a stBad (wordR 4 2 f))))

/-- R154: an instruction that faults changes no strand, no memory and no tag; the loom stops issuing, and while no fault is
recorded yet the record takes the tile, strand, PC, word and status. UNCORRECTED faults are the loom's own stop. -/
def FaultEffect : Prop :=
  ∀ (s : State) (l : Nat) (a : Issuer) (st : Byte) (w : W64), st ≠ stUncorr →
    let t := insnFault s l a st w
    let x := getLoom s l
    let y := getLoom t l
    t.mem = s.mem ∧ t.tiles = s.tiles ∧ y.stopIssue = true ∧ (∀ b, (canIssue t b) ≠ some l) ∧
    (x.fault.valid = false → y.fault =
      { insn := w, valid := true, overrun := x.fault.overrun, status := st, tile := a.tile, strand := a.strand, pc := (getStrand s a).pc.toNat }) ∧
    (x.fault.valid = true → y.fault = { x.fault with overrun := true }) ∧
    (x.st = .running → y.st = .stopping) ∧
    (∀ c, x.cmd = some c → c.endStatus = none → ∃ d, y.cmd = some d ∧ d.endStatus = some st) ∧
    (getReg t 0x00200010).getLsbD 0 = true ∧ (∀ k, k ≠ l → getLoom t k = getLoom s k)
/-! ## Matrix commands -/

/-- Offset of a block and its bytes: its uses in the scoreboard. -/
def usesAfter (board : List SbEntry) (reads writes : List (Nat × Nat)) (num : Nat) : List SbEntry :=
  writes.foldl (fun b k => boardQueue b k.1 k.2 num true) (reads.foldl (fun b k => boardQueue b k.1 k.2 num false) board)

/-- The matrix command of an instruction, with its segment table read from the tile's store and, for a DRAIN, the type that the
commands queued so far give its accumulator. -/
def mtxOf (s : State) (a : Issuer) (op : Nat) (f : FmtD) (d : List Byte) : MtxCmd :=
  let c := mtxCmd s.nextNum a.strand op f.inl.toNat d
  { c with
    segTab := if op = 0 ∧ 1 < c.nseg ∧ c.nseg ≤ 64 then
        (List.range c.nseg).map fun i => rd s (tileAddr a.tile (fieldAt d 0x28 4 % 2 ^ 23 + 2 * i)) 2
      else [0]
    accInt := op == 2 && (bindInt (getTile s a.tile) c.outId c.tgtB).getD false }

/-- An MTX instruction whose fields, descriptor and command are in order (R92, R118, R131, R132): n bytes of descriptor. -/
def MtxOk (s : State) (a : Issuer) (l op : Nat) (f : FmtD) (d : List Byte) : Prop :=
  let at_ := (getStrand s a).sget f.sa.toNat
  let c := mtxOf s a op f d
  let mx := isMx c.warpFmt || isMx c.weftFmt || isMx c.dstFmt
  Issues s a l (wordD 6 op f) ∧ f.pg = 0 ∧ f.pn = false ∧ f.sd = 0 ∧ f.sb = 0 ∧ f.inl.toNat % 2 ^ 29 = 0 ∧
    f.inl.toNat / 2 ^ 33 < 2 ∧ (∃ d0, descriptor s a.tile at_ 64 = .ok d0 ∧ fieldAt d0 0x0C 4 = fieldAt d 0x0C 4) ∧
    descriptor s a.tile at_ (if mx = true then 128 else 64) = .ok d ∧
    (op = 0 → 1 < c.nseg → c.nseg ≤ 64 → fieldAt d 0x28 4 % 2 ^ 23 + 2 * c.nseg ≤ 7 * 2 ^ 20 ∧
      tsPoison s a.tile (fieldAt d 0x28 4 % 2 ^ 23) (2 * c.nseg) = false) ∧
    mtxRsv d mx = true ∧ mtxCheck s (getLoom s l) a.tile (getTile s a.tile) c d = stOk

/-- MMA, FOLD, DRAIN and RETIRE (Tables 4-15 and 4-16, R102, R104, R131, R133, R500): the command enters the queue of 32 and
registers its blocks; the output block of the first three is bound with its engine and gang mode; a READY block whose FOLD has
not come to its turn is no longer READY. A full queue stalls the strand. -/
def MatrixIssue : Prop :=
  ∀ (s : State) (a : Issuer) (l : Nat) (f : FmtD) (d : List Byte),
    let t := getTile s a.tile
    ∀ op i, (op, i) ∈ [(0, Instr.mma a f), (1, .fold a f), (2, .drain a f), (3, .retire_ a f)] → MtxOk s a l op f d →
      let c := mtxOf s a op f d
      (32 ≤ t.queue.length → exec i s = .next s) ∧
      (t.queue.length < 32 → t.board.length + boardNeeds t.board (mtxSources a.tile c ++ mtxDest c) ≤ 512 →
        ∃ u, exec i s = .next u ∧ getStrand u a = (getStrand s a).next ∧ u.mem = s.mem ∧ u.looms = s.looms ∧ u.regs = s.regs ∧
          (getTile u a.tile).queue = t.queue ++ [c] ∧ u.nextNum = s.nextNum + 1 ∧
          (getTile u a.tile).acc = t.acc ∧
          (getTile u a.tile).board = (settleHeld { getTile u a.tile with
            board := usesAfter t.board (mtxSources a.tile c) (mtxDest c) s.nextNum }).board ∧
          (op = 1 → tget 0 t.segNext c.outId < c.segIdx → ∀ e, e ∈ (getTile u a.tile).board → e.off = c.blkOff →
            readReady e c.num = true → e.st ≠ .ready) ∧
          (op = 3 → (getTile u a.tile).binds = t.binds) ∧
          (op ≠ 3 → ∃ b, bindOf (getTile u a.tile) c.outId = some b ∧
            (bindOf t c.outId = none → b.thin = c.thin ∧ b.gang = c.gang ∧ b.claim = none)))

/-- A block's entry when the command that reads it issues (Table 3-7): one reader more, READING unless a write is pending. -/
def readFrom (e e' : SbEntry) : Prop :=
  e'.readers = e.readers + 1 ∧ e'.writers = e.writers ∧ e'.st = if e.st = .pending then .pending else .reading

/-- MATRIX_COMMAND_ISSUE (R84, R104, R106, R500): the oldest queued command that may issue leaves the queue. An MMA, FOLD or DRAIN
goes on its claim, and its source blocks are being read. An MMA in flight has entered no column, its first warp block stands in
the cells and its target holds the initial values; a FOLD moves its output block's next segment on; a DRAIN has formed its write
(R86), and with the last command of its OUT_ID the binding ends. A RETIRE releases its READY block that nothing uses (R103). -/
def OldestIssues : Prop :=
  ∀ (s : State) (tile l : Nat) (before after : List MtxCmd) (c : MtxCmd), s.svc.dark = false →
    loomOfTile s tile = some l →
    let t := getTile s tile
    t.queue = before ++ c :: after → mayIssue tile t before c = true →
    (∀ pre e post, before = pre ++ e :: post → mayIssue tile t pre e = false) →
    (∀ e, e ∈ before ++ after → e.num ≠ c.num) →
    ∃ u, exec (.matrixCommandIssue tile) s = .next u ∧ u.mem = s.mem ∧ (∀ b, getStrand u b = getStrand s b) ∧
      (getTile u tile).queue = before ++ after ∧
      (c.op = 3 → (getTile u tile).acc = t.acc ∧ (getTile u tile).running = t.running ∧ (getTile u tile).landing = t.landing ∧
        (getTile u tile).binds = t.binds ∧
        (getTile u tile).board = t.board.filter fun e => !(e.off = c.blkOff && e.st = .ready && e.uses.isEmpty)) ∧
      ∀ k, claimNow t c = some k → c.op ≠ 3 →
        (∀ b e, b ∈ mtxSources tile c → boardFind t.board b.1 b.2 = some e →
          ∃ e', boardFind (getTile u tile).board b.1 b.2 = some e' ∧ readFrom e e') ∧
        (c.op ≠ 2 → (getTile u tile).landing = t.landing ∧
          (∃ r, (getTile u tile).running = t.running ++ [r] ∧ r.cmd = c ∧ r.claim = k ∧ r.pos = 0 ∧ r.parts = [] ∧ r.staged = [] ∧
            (c.op = 0 → c.k ≠ 0 → r.warp = some (loadWarp s tile c 0))) ∧
          ∀ b, bindOf t c.outId = some b → bindOf (getTile u tile) c.outId = some { b with claim := some k }) ∧
        (c.op = 0 → c.m ≤ 128 → c.n ≤ 128 → (getTile u tile).segNext = t.segNext ∧
          (∀ m n, m < (outDims c.thin c.gang).1 → n < c.n → tget 0 (getTile u tile).acc (accKey c.outId c.tgtB m n) =
            if c.carry then tget 0 t.acc (accKey c.outId true m n) else 0) ∧
          ∀ q, (∀ m n, m < (outDims c.thin c.gang).1 → n < c.n → q ≠ accKey c.outId c.tgtB m n) →
            tget 0 (getTile u tile).acc q = tget 0 t.acc q) ∧
        (c.op = 1 → (getTile u tile).acc = t.acc ∧ tget 0 (getTile u tile).segNext c.outId = (c.segIdx + 1) % c.nseg) ∧
        (c.op = 2 → (getTile u tile).running = t.running ∧
          (∃ w, (getTile u tile).landing = t.landing ++ [w] ∧ w.num = c.num ∧ w.strand = c.strand ∧ w.blocks = mtxDest c) ∧
          ((∀ e, e ∈ before ++ after → e.op ≠ 3 → e.outId ≠ c.outId) → (∀ r, r ∈ t.running → r.cmd.outId ≠ c.outId) →
            bindOf (getTile u tile) c.outId = none))

/-- The rounding of R61 and R65: one K-block's exact sum joins a partial. -/
def partialPlus (isInt : Bool) (p : W32) (v : FVal) : W32 :=
  if isInt then
    let k : Int := match v with
      | .fin neg m e => (if neg then -1 else 1) * (m * 2 ^ e.toNat : Nat)
      | _ => 0
    BitVec.ofInt 32 (max (-2 ^ 31) (min (2 ^ 31 - 1) (p.toInt + k)))
  else f32Of (vAdd (f32Val p) v)

/-- The addition of a partial to the running value (R85). -/
def runningPlus (isInt : Bool) (a p : W32) : W32 :=
  if isInt then BitVec.ofInt 32 (max (-2 ^ 31) (min (2 ^ 31 - 1) (a.toInt + p.toInt))) else f32Add a p

/-- K-block b joins an output element (R61, R62, R85): its exact sum is rounded into the partial, and with the last block of a
segment the partial joins the running value and starts anew from 0. Of the pair the first is the running value. -/
def joinBlock (c : MtxCmd) (x w : Nat → FVal) (q : W32 × W32) (b : Nat) : W32 × W32 :=
  let isInt := decide (c.warpFmt = 8)
  let p := partialPlus isInt q.2 (blockSum c.k x w b).1
  if b + 1 ∈ c.segTab ∨ b + 1 = kBlocks c.k then (runningPlus isInt q.1 p, 0) else (q.1, p)

/-- An output element (m, n) of a command in flight after some K-blocks more, from the accumulator and the segment partial as
they stand; the operands are those in the cells and stream queues, and else those that the command will load. -/
def joined (s : State) (tile : Nat) (r : MtxRun) (m n : Nat) (blocks : List Nat) : W32 × W32 :=
  blocks.foldl (joinBlock r.cmd (warpAt s tile r m) fun k => weftAt s r k n)
    (tget 0 (getTile s tile).acc (accKey r.cmd.outId r.cmd.tgtB m n), tget 0 r.parts (m * 128 + n))

/-- Output element (m, n) of an MMA of which no column has entered, by R62: segment by segment a partial over its K-blocks in
order, from 0, each partial joined to the running value, which starts from the target's initial value. -/
def mmaValue (s : State) (tile : Nat) (r : MtxRun) (m n : Nat) : W32 :=
  let c := r.cmd
  let isInt := decide (c.warpFmt = 8)
  let ends := c.segTab.drop 1 ++ [kBlocks c.k]
  let part := fun (e : Nat × Nat) => ((List.range e.2).drop e.1).foldl
    (fun p b => partialPlus isInt p (blockSum c.k (warpAt s tile r m) (fun k => weftAt s r k n) b).1) (0 : W32)
  (c.segTab.zip ends).foldl (fun v e => runningPlus isInt v (part e)) (tget 0 (getTile s tile).acc (accKey c.outId c.tgtB m n))

/-- A tick of a tile with one MMA in flight (R80, R82, R88, R95, R98): its next column, or patch, whose weft has landed enters, and
every row of the output block joins the K-blocks of that entry; no other accumulator or partial changes, and nothing does when
the weft has not landed. That a tick lets one column enter is the model's choice (log 2). -/
def ColumnEnters : Prop :=
  ∀ (s : State) (tile : Nat) (r : MtxRun), let c := r.cmd
    (getTile s tile).running = [r] → c.op = 0 → c.m ≤ 128 → c.n ≤ 128 → r.pos < entries c →
    let t := getTile s tile
    let u := getTile (mtxTick s tile) tile
    let b := r.pos / perBlk c
    let here := (List.range (min ((b + 1) * kPer c) (kBlocks c.k))).drop (b * kPer c)
    let entered := fun m n => m < (outDims c.thin c.gang).1 ∧ n ∈ colsOf c r.pos
    (mtxTick s tile).mem = s.mem ∧ (mtxTick s tile).looms = s.looms ∧
    (entryLanded s.variant r r.pos = false → u = t) ∧
    (entryLanded s.variant r r.pos = true → ∃ q, u.running = [q] ∧ q.cmd = c ∧ q.pos = r.pos + 1 ∧ q.staged = r.staged ∧
      (∀ m n, entered m n → (tget 0 u.acc (accKey c.outId c.tgtB m n), tget 0 q.parts (m * 128 + n)) = joined s tile r m n here) ∧
      (∀ k, (∀ m n, entered m n → k ≠ accKey c.outId c.tgtB m n) → tget 0 u.acc k = tget 0 t.acc k) ∧
      ∀ k, (∀ m n, entered m n → k ≠ m * 128 + n) → tget 0 q.parts k = tget 0 r.parts k)

/-- MATRIX_LAST_ROUNDING (R62, R63, R85, R88, R109): an MMA's target accumulator holds each output element after every K-block of the
columns that had not entered, so mmaValue when none had; rows beyond M are among them. A FOLD's holds the running value joined
with the partial block's element. No other accumulator changes, nor any byte of memory. -/
def Obligations.LastRounding : Prop :=
  ∀ (s : State) (tile : Nat) (r : MtxRun) (c : MtxCmd), s.svc.dark = false → r.cmd = c →
    weftUnits s.variant c ≤ r.staged.length → c.m ≤ 128 → c.n ≤ 128 →
    ((getTile s tile).running.find? fun q => q.cmd.num = c.num) = some r → mtxPoison s tile c = false →
    let t := getTile s tile
    let key := accKey c.outId c.tgtB
    let rows := if c.op = 1 then c.m else (outDims c.thin c.gang).1
    ∃ u, exec (.matrixLastRounding tile c.num) s = .next u ∧ u.mem = s.mem ∧ u.looms = s.looms ∧
      (getTile u tile).running = t.running.filter (fun q => q.cmd.num ≠ c.num) ∧ (getTile u tile).queue = t.queue ∧
      (∀ k, (∀ m n, m < rows → n < c.n → k ≠ key m n) → tget 0 (getTile u tile).acc k = tget 0 t.acc k) ∧
      (c.op = 0 → ∀ m n, m < rows → n < c.n →
        tget 0 (getTile u tile).acc (key m n) = (joined s tile r m n ((List.range (kBlocks c.k)).drop (blocksIn r n))).1) ∧
      (c.op = 0 → r.pos = 0 → r.parts = [] → c.k = 0 ∨ segOk c.segTab (kBlocks c.k) = true → ∀ m n, m < rows → n < c.n →
        tget 0 (getTile u tile).acc (key m n) = if c.k = 0 then tget 0 t.acc (key m n) else mmaValue s tile r m n) ∧
      (c.op = 1 → ∀ m n, m < c.m → n < c.n →
        let p := BitVec.ofNat 32 (operandBits s (tileAddr tile c.blkOff) c.dstFmt c.n m n)
        let start : W32 := if c.segIdx ≠ 0 then tget 0 t.acc (key m n)
          else if c.carry then tget 0 t.acc (accKey c.outId true m n) else 0
        tget 0 (getTile u tile).acc (key m n) = runningPlus (decide (c.dstFmt = 9)) start p) ∧
      ∀ b, (b.tile ≠ tile ∨ b.strand ≠ c.strand) → getStrand u b = getStrand s b

/-- SCOREBOARD_WRITE_LANDS (R86, R103, R128): the bytes of the drain reach its block and no other byte changes (a byte of which
it writes the low half keeps its high half); its flags reach its strand; a block it wrote has a write less to come, and is READY
or HELD with the last of them. -/
def DrainLands : Prop :=
  ∀ (s : State) (tile num : Nat) (w : Landing), s.svc.dark = false →
    ((getTile s tile).landing.find? fun q => q.num = num) = some w → w.num = num → landingReady (getTile s tile) w = true →
    (∀ b, b ∈ w.blocks → uncopied s (tileAddr tile b.1) b.2 = none) →
    (∀ ob ∈ w.stores s tile, writeBlocked s ob.1 1 = false) →
    let a : Issuer := { tile, strand := w.strand }
    ∃ u, exec (.scoreboardWriteLands tile num) s = .next u ∧
      storesTo s.mem u.mem (w.stores s tile) ∧
      (getTile u tile).landing = (getTile s tile).landing.filter (fun q => q.num ≠ num) ∧
      getStrand u a = (getStrand s a).flag w.flags ∧ (∀ b, b ≠ a → getStrand u b = getStrand s b) ∧ u.looms = s.looms ∧
      (w.blocks.Nodup → ∀ b e, b ∈ w.blocks → boardFind (getTile s tile).board b.1 b.2 = some e →
        ∃ e', boardFind (getTile u tile).board b.1 b.2 = some e' ∧ e'.writers = e.writers - 1 ∧ e'.readers = e.readers ∧
          (if e.writers ≤ 1 then e'.st = .ready ∨ e'.st = .held else e'.st = .pending))

/-- What a DRAIN writes for a format without a shared scale (R86, R101): byte i of the rounded accumulator (m, n), row by row,
in tile blocks of 32 × 32. An INT32 accumulator is a whole number, and to INT32 its bits go as they are. -/
def DrainedValues : Prop :=
  ∀ (seed : W64) (t : Tile) (c : MtxCmd) (m n i : Nat), c.op = 2 →
    c.dstFmt ∈ (if c.accInt = true then [0, 1, 2, 3, 4, 9] else [0, 1, 2, 3, 4]) → m < c.m → n < c.n → i < fmtBytes c.dstFmt →
    let v := tget 0 t.acc (accKey c.outId c.tgtB m n)
    let draw := srBits seed c.stream c.tensorId (BitVec.ofNat 64 ((c.row0 + m) * c.tensorCols + c.col0 + n))
    let bits := if c.accInt = true then
        if c.dstFmt = 9 then v.toNat else (encode c.dstFmt (modeOf c.rnd draw) c.sat (ofInt v.toInt 0 false)).1
      else if c.dstFmt = 0 then (canonNan v).toNat else (encode c.dstFmt (modeOf c.rnd draw) c.sat (f32Val v)).1
    let block := m / 32 * ((c.n + 31) / 32) + n / 32
    (c.blkOff + (block * 1024 + m % 32 * 32 + n % 32) * fmtBytes c.dstFmt + i, BitVec.ofNat 8 (bits / 256 ^ i))
      ∈ (drainLanding seed t c).bytes

/-! ## Special functions -/

/-- R149: the factor that FACT forms: each entry below the diagonal is the matrix entry less a dot product, over the pivot; each
pivot is the root of the rest and that rest is above 0. -/
def FactorEquations : Prop :=
  ∀ (a g : List (List W32)), chol a = .ok g → g.length = a.length ∧ ∀ i, i < a.length →
    let row := g.getD i []
    row.length = i + 1 ∧
    let rest := subDot ((a.getD i []).getD i 0) ((row.take i).zip (row.take i))
    f32Lt 0 rest = true ∧ row.getD i 0 = f32Sqrt rest ∧
    ∀ j, j < i → row.getD j 0 = f32Div (subDot ((a.getD i []).getD j 0) ((row.take j).zip ((g.getD j []).take j))) ((g.getD j []).getD j 0)

/-- R152: NORMACC adds the squares of 32 values at a time, each run by the tree of R67, to the sum so far. -/
def normSum (acc : W32) (vals : List W32) : W32 :=
  (List.range ((vals.length + 31) / 32)).foldl (fun sum r =>
    let run := (vals.drop (32 * r)).take 32
    let leaves := run.map (fun w => some (f32Mul w w)) ++ List.replicate (32 - run.length) none
    f32Add sum (((treeFold (fun a b => (f32Add a b, (0 : AFlags))) 5 leaves).1).getD 0)) acc

/-- SPEC_COMPLETE (Table 4-22, R149 to R152): FACT writes the factor, with 0 above the diagonal, or nothing when a pivot fails, and
the pivot word is the high word of its tag; SOLV writes X column by column; TOPK writes the K first values and their indices;
NORMACC the sum of squares. No other byte changes. -/
def SpecialResults : Prop :=
  ∀ (s : State) (a : Issuer) (tag : BitVec 16) (l : Nat) (o : AsyncOp), o.strand = a.strand → o.tag = tag →
    MayComplete s a tag l o (specSrcs o) (specDsts o) →
    (o.kind = .fact → ∃ t, exec (.specComplete a tag) s = .next t ∧
      match factRun (matAt s o.src o.len o.len) o.lam with
      | (some g, pw) => Completes s t a tag stOk pw 0 ∧ storesTo s.mem t.mem
          ((List.range (o.len * o.len)).flatMap fun p => (List.range 4).map fun i =>
            (o.dst + 4 * p + i, BitVec.ofNat 8
              ((if p % o.len ≤ p / o.len then ((g.getD (p / o.len) []).getD (p % o.len) 0).toNat else 0) / 256 ^ i)))
      | (none, pw) => Completes s t a tag stOk pw 0 ∧ t.mem = s.mem) ∧
    (o.kind = .solv → ∃ t, exec (.specComplete a tag) s = .next t ∧
      match solvRun (matAt s o.src o.len o.len) o.lam with
      | (some g, pw) => Completes s t a tag stOk pw 0 ∧ storesTo s.mem t.mem
          ((List.range (o.len * o.cols)).flatMap fun p => (List.range 4).map fun i =>
            (o.dst + 4 * p + i, BitVec.ofNat 8
              (((triCol g o.flag ((matAt s o.dst o.len o.cols).map fun row => row.getD (p % o.cols) 0)).getD (p / o.cols) 0).toNat / 256 ^ i)))
      | (none, pw) => Completes s t a tag stOk pw 0 ∧ t.mem = s.mem) ∧
    (o.kind = .topk → o.cols ≤ o.len → ∃ t, exec (.specComplete a tag) s = .next t ∧ Completes s t a tag stOk 0 0 ∧
      let sel := topkSel o.flag o.cols (wordsAt s o.src o.len)
      storesTo s.mem t.mem
        (((List.range o.cols).flatMap fun p => (List.range 4).map fun i =>
          (o.dst + 4 * p + i, BitVec.ofNat 8 ((canonNan (sel.getD p (0, 0)).2).toNat / 256 ^ i))) ++
        ((List.range o.cols).flatMap fun p => (List.range 4).map fun i =>
          (o.aux + 4 * p + i, BitVec.ofNat 8 ((sel.getD p (0, 0)).1 / 256 ^ i))))) ∧
    (o.kind = .normacc → ∃ t, exec (.specComplete a tag) s = .next t ∧ (∃ fl, Completes s t a tag stOk 0 fl) ∧
      let vals := if o.srcFmt = 0 then wordsAt s o.src o.len
        else (List.range o.len).map fun i => f32Of (elemVal o.srcFmt (rd s (o.src + 2 * i) 2))
      let v := normSum (BitVec.ofNat 32 (rd s o.aux 4)) vals
      storesTo s.mem t.mem ((List.range 4).map fun i => (o.aux + i, BitVec.ofNat 8 (v.toNat / 256 ^ i))))
/-! ## Remote requests -/

/-- Whether an address lies in memory that only the holder of its bays serves (R244): a tile store, or a row's slot in one. -/
def inTiles (s : State) (l a n : Nat) : Bool :=
  (match place s.variant a with
    | .tile _ _ => true
    | _ => false) || (List.range n).any fun i => match rowHome (getLoom s l) (a + i) with
    | some b => decide (tsBase ≤ b)
    | none => false

/-- The response to a request of another module goes out (R139). -/
def Answered (s t : State) (q : RmtRequest) (st : Byte) (data : List Byte) : Prop := t.out = s.out ++ [.response q st data]

/-- Nothing holds a request up in the memory of loom l: what belongs in its tiles is there (R244), an earlier ordered ADD of its strand
is not still held (R160), and neither a block of the scoreboard nor a row agent has anything before it (R103, R217). -/
def ServedIn (s : State) (q : RmtRequest) (l : Nat) : Prop :=
  (inTiles s l q.addr.toNat q.len = true → (getLoom s l).present = true) ∧
  (q.kind ≠ .rd → q.ordered = false → heldBefore (getLoom s l) q = false) ∧ reqWaits s l q = false ∧ agentsIdle s l ∧
  (q.kind ≠ .rd → uncopied s q.addr.toNat q.len = none)

/-- A request that another module sends, served in the regions of loom l. -/
def Served (s : State) (q : RmtRequest) (l : Nat) : Prop :=
  s.svc.dark = false ∧ (q.fromX, q.fromY, q.fromZ) ≠ coordOf s ∧ q.beyondSplit = false ∧ rmtTarget s q none = some l ∧ ServedIn s q l

/-- One FP32 or INT32 element added (R140): one rounding, or saturating. -/
def added (int : Bool) (old new : W32) : W32 :=
  if int then BitVec.ofInt 32 (max (-2 ^ 31) (min (2 ^ 31 - 1) (old.toInt + new.toInt))) else f32Add old new

/-- RMT_REQUESTS (R139, R140, R160, R217, R244): from another module, FENCED beyond a split, PERMISSION outside the job's regions, BUSY for
tiles of a loom whose contents are away, UNCORRECTED on poison, and none of these writes a byte; else RD answers the bytes, WR
writes them, and an ADD that is not ordered adds each FP32 element with one rounding, each INT32 element saturating. A request of
an operation of this module is served in the same way, and its answer stands with the operation. -/
def RemoteServed : Prop :=
  (∀ (s : State) (q : RmtRequest),
    let a := q.addr.toNat
    let refused := fun st => ∃ t, exec (.rmtRequests q) s = .next t ∧ t.mem = s.mem ∧ Answered s t q st []
    (s.svc.dark = false → (q.fromX, q.fromY, q.fromZ) ≠ coordOf s →
      (q.beyondSplit = true → refused stFenced) ∧
      (q.beyondSplit = false → rmtTarget s q none = none → refused stPerm) ∧
      (∀ l, q.beyondSplit = false → rmtTarget s q none = some l → inTiles s l a q.len = true → (getLoom s l).present = false →
        refused stBusy)) ∧
    (∀ l, Served s q l →
      (q.kind = .rd → poisonVia s (getLoom s l) a q.len = true → refused stUncorr) ∧
      (q.kind = .rd → poisonVia s (getLoom s l) a q.len = false → ∃ t, exec (.rmtRequests q) s = .next t ∧ t.mem = s.mem ∧
        Answered s t q stOk (bytesVia s l a q.len)) ∧
      (q.kind = .wr → blockedVia s (getLoom s l) a q.len = true → refused stUncorr) ∧
      (q.kind = .wr → blockedVia s (getLoom s l) a q.len = false → q.data.length = q.len →
        ∃ t, exec (.rmtRequests q) s = .next t ∧ Answered s t q stOk [] ∧
          storesTo s.mem t.mem ((List.range q.len).map fun i => (byteHome (getLoom s l) (a + i), q.data.getD i 0))) ∧
      (q.kind = .add → poisonVia s (getLoom s l) a q.len = true → refused stUncorr) ∧
      (q.kind = .add → q.ordered = false → poisonVia s (getLoom s l) a q.len = false → blockedVia s (getLoom s l) a q.len = false →
        q.data.length = q.len → q.len % 4 = 0 →
        ∃ t, exec (.rmtRequests q) s = .next t ∧ Answered s t q stOk [] ∧
          storesTo s.mem t.mem ((List.range q.len).map fun i =>
            let old := BitVec.ofNat 32 (leNat (bytesVia s l (a + i / 4 * 4) 4))
            let sum := added q.intElem old (BitVec.ofNat 32 (fieldAt q.data (i / 4 * 4) 4))
            (byteHome (getLoom s l) (a + i), BitVec.ofNat 8 (sum.toNat / 256 ^ (i % 4))))))) ∧
  (∀ (s : State) (b : Issuer) (o : AsyncOp) (l k : Nat), s.svc.dark = false → opOf (getTile s b.tile) b.strand o.tag = some o →
    o.strand = b.strand → ownerOfTile s b.tile = some l → o.kind = .rmtRd → o.sent = false → (o.x, o.y, o.z) = coordOf s →
    (getLoom s l).st ≠ .fenced → (getLoom s l).image = none → o.ordered = false →
    let q := requestOf s b o l
    rmtTarget s q (some l) = some k → ServedIn s q k → poisonVia s (getLoom s k) q.addr.toNat q.len = false →
    ∃ t, exec (.rmtRequests q) s = .next t ∧ t.mem = s.mem ∧ t.out = s.out ∧ opOf (getTile t b.tile) b.strand o.tag =
      some { o with sent := true, parked := some (stOk :: bytesVia s k q.addr.toNat q.len) })

/-- A contribution added to memory whose bytes stand at their own addresses. -/
def addInto (m : List Host.Cell) (q : RmtRequest) : List Host.Cell :=
  let a := q.addr.toNat
  (List.range (q.len / 4)).foldl (fun m' i =>
    let sum := added q.intElem (BitVec.ofNat 32 (leNat (memGetN m (a + 4 * i) 4))) (BitVec.ofNat 32 (fieldAt q.data (4 * i) 4))
    memSetN m' (a + 4 * i) (toLe 4 sum.toNat)) m

/-- R140 and R141, an ordered ADD from another module: one whose INDEX its group already holds, or whose LEN or COUNT differ from
the group's, completes with BAD_COMMAND; one past the held bytes of 1 MiB a bay with FULL; else it is held, and no byte changes
before the group is complete. The one that completes it has all of it applied in ascending INDEX, and each is answered OK. -/
def OrderedAdds : Prop :=
  ∀ (s : State) (q : RmtRequest) (l : Nat), Served s q l → q.kind = .add → q.ordered = true →
    poisonVia s (getLoom s l) q.addr.toNat q.len = false → blockedVia s (getLoom s l) q.addr.toNat q.len = false →
    let x := getLoom s l
    let group := (x.holdsAdd.map (·.req)).filter fun p => p.group = q.group
    let bytes := (x.holdsAdd.map fun h => h.req.len).sum
    let fits := (∀ p, p ∈ group → p.index ≠ q.index ∧ p.len = q.len ∧ p.count = q.count)
    (((∃ p, p ∈ group ∧ p.index = q.index) ∨ ∃ p, group.head? = some p ∧ (p.len ≠ q.len ∨ p.count ≠ q.count)) →
      ∃ t, exec (.rmtRequests q) s = .next t ∧ t.mem = s.mem ∧ (getLoom t l).holdsAdd = x.holdsAdd ∧ Answered s t q stBad []) ∧
    (fits → x.bays.length * 2 ^ 20 < bytes + q.len →
      ∃ t, exec (.rmtRequests q) s = .next t ∧ t.mem = s.mem ∧ (getLoom t l).holdsAdd = x.holdsAdd ∧ Answered s t q stFull []) ∧
    (fits → bytes + q.len ≤ x.bays.length * 2 ^ 20 → doneGroups x = [] →
      (group.length + 1 < q.count → ∃ t, exec (.rmtRequests q) s = .next t ∧ t.mem = s.mem ∧ t.out = s.out ∧
        (getLoom t l).holdsAdd = x.holdsAdd ++ [{ req := q }]) ∧
      (group.length + 1 = q.count → x.present = true → x.hot = [] →
        ∀ qs : List RmtRequest, qs.Perm (group ++ [q]) → qs.Pairwise (fun p r => p.index < r.index) →
        (∀ p, p ∈ qs → p.kind = .add ∧ p.len % 4 = 0 ∧ p.data.length = p.len ∧ (p.fromX, p.fromY, p.fromZ) ≠ coordOf s ∧
          uncopied s p.addr.toNat p.len = none ∧ reqWaits s l p = false ∧ poisonHit s p.addr.toNat p.len = false) →
        ∃ t, exec (.rmtRequests q) s = .next t ∧ (∀ b, memGet t.mem b = memGet (qs.foldl addInto s.mem) b) ∧
          t.out = s.out ++ qs.map (fun p => .response p stOk []) ∧
          (getLoom t l).holdsAdd = x.holdsAdd.filter fun h => h.req.group ≠ q.group))

/-- Tables 5-8 and 5-9: the stores that park a record and its data. Records stand in order of arrival in the first part of the
parking area; where in its part the data goes is the model's choice (log 53). -/
def parkStores (x : Loom) (base : Nat) (r : ParkRec) (coll : Bool) : List (Nat × Byte) :=
  let at_ := base + 32 * (x.parked.length + x.parkedFrames.length)
  let d := base + (x.bays.length * (256 * 1024) + 32 * x.credits) + parkDataAt x r coll
  let rec_ := toLe 4 (r.tile % 2 ^ 13 + r.strand % 16 * 2 ^ 13 + (if coll = true then 2 ^ 17 else 0)) ++
    toLe 4 (r.tag.toNat + r.status.toNat * 2 ^ 16) ++ toLe 4 (r.off % 2 ^ 23) ++ toLe 4 r.data.length ++ toLe 8 d ++ toLe 8 0
  ((List.range 32).map fun i => (at_ + i, rec_.getD i 0)) ++ (List.range r.data.length).map fun i => (d + i, r.data.getD i 0)

/-- A response or a chunk is parked (R163, R193): its record and data stand in the loom's parking area, and no other byte of
memory changes. A loom without a map has no such area. -/
def ParkedIn (s t : State) (l : Nat) (r : ParkRec) (coll : Bool) : Prop :=
  (∀ m, (getLoom s l).map.find? (fun m => m.kind = mkPark) = some m →
    storesTo s.mem t.mem (parkStores (getLoom s l) m.addr r coll)) ∧
  ((getLoom s l).map.find? (fun m => m.kind = mkPark) = none → t.mem = s.mem)

/-- RMT_RESPONSES with a status of Table 0-5 (R19, R139, R163): a response of another module to what was sent ends its operation; an RD
that went well writes its bytes to LOCAL; every other status writes nothing. A loom that is SAVING, SAVED or RESTORING keeps the
response in its parking area instead; for a loom that was CUT, or is FENCED, nothing is written (R251, R252). -/
def RemoteAnswered : Prop :=
  ∀ (s : State) (a : Issuer) (tag : BitVec 16) (st : Byte) (data : List Byte) (o : AsyncOp) (l : Nat),
    s.svc.dark = false → opOf (getTile s a.tile) a.strand tag = some o → ownerOfTile s a.tile = some l → o.strand = a.strand →
    o.tag = tag → o.landed = 0 → o.sent = true → (o.x, o.y, o.z) ≠ coordOf s → st ≠ stUncorr → st.toNat ≤ 0x12 →
    (o.kind = .rmtRd ∨ o.kind = .rmtWr ∨ o.kind = .rmtAdd) →
    data.length = (if o.kind = .rmtRd ∧ st = stOk then o.len else 0) →
    ((getLoom s l).discards = true → (getLoom s l).image = none →
      ∃ t, exec (.rmtResponses a tag st data) s = .next t ∧ t.mem = s.mem ∧ Completes s t a tag st 0 0) ∧
    ((getLoom s l).discards = false →
    ((getLoom s l).parks = false → (getLoom s l).image = none → (st ≠ stOk ∨ o.kind ≠ .rmtRd) →
      ∃ t, exec (.rmtResponses a tag st data) s = .next t ∧ t.mem = s.mem ∧ Completes s t a tag st 0 0) ∧
    ((getLoom s l).parks = false → (getLoom s l).image = none → st = stOk → o.kind = .rmtRd → opReady s o = true →
      rowsWait s l (.op a.tile a.strand tag.toNat) [(o.src, o.len)] = false → agentsIdle s l →
      uncopied s o.src o.len = none → blockedVia s (getLoom s l) o.src o.len = false →
      ∃ t, exec (.rmtResponses a tag st data) s = .next t ∧ Completes s t a tag stOk 0 0 ∧
        (getTile t a.tile).rmtOut = (getTile s a.tile).rmtOut - o.len ∧
        storesTo s.mem t.mem ((List.range o.len).map fun i => (byteHome (getLoom s l) (o.src + i), data.getD i 0))) ∧
    ((getLoom s l).parks = true ∨ (getLoom s l).image ≠ none →
      let r : ParkRec := { tile := a.tile, strand := a.strand, tag, status := st, off := o.src, data }
      ∃ t, exec (.rmtResponses a tag st data) s = .next t ∧ ParkedIn s t l r false ∧
        (∀ b, getStrand t b = getStrand s b) ∧ (getLoom t l).parked = (getLoom s l).parked ++ [r]))

/-! ## Collectives -/

/-- A COLL instruction as its issue sees it: the member's place, its number of the communicator, and its order tag. -/
def collOf (s : State) (a : Issuer) (l : Nat) (kind : CollKind) (d : List Byte) : CollOp :=
  let x := getLoom s l
  let o := collDesc kind d
  let o := if o.a0 = 0 || o.a1 = 0 || o.a2 = 0 then o
    else placeMember s x ((((x.cmd.map (·.tiles)).getD []).idxOf? a.tile).getD 0) o
  let o : CollOp := { o with strand := a.strand, tag := (getStrand s a).tagNext, num := tget 0 (getTile s a.tile).collNum o.comm }
  { o with orderTag := opTag x o, waiting := holdsColl x o.comm o.num }

/-- RS, AG, AR, SHIFT, PERM and X2X issue (Table 8-2, R143, R265, R266): the tag goes to SD and the collective takes the next number
of its communicator; 32 incomplete operations stall the strand (R144). One at or beyond the install point, while new modes are on
their way, is held and sends nothing yet (R276). -/
def CollectiveIssue : Prop :=
  ∀ (s : State) (a : Issuer) (l op : Nat) (kind : CollKind) (i : Instr) (f : FmtD) (d : List Byte),
    (op, kind, i) ∈ [(0, CollKind.rs, Instr.rs a f), (1, .ag, .ag a f), (2, .ar, .ar a f), (3, .shift, .shift_ a f),
      (4, .perm, .perm a f), (5, .x2x, .x2x a f)] →
    Issues s a l (wordD 0xA op f) → f.pg = 0 → f.pn = false → f.inl = 0 → f.sb = 0 →
    descriptor s a.tile ((getStrand s a).sget f.sa.toNat) 64 = .ok d →
    let x := getLoom s l
    let o := collOf s a l kind d
    collPlain o d = true → collFields s.variant x o ((x.cmd.map (·.tiles)).getD []).length = true →
    rangesOk s x (collReads x a.tile o ++ collWrites x a.tile o) = stOk →
    (32 ≤ (getStrand s a).incomplete.length → exec i s = .next s) ∧
    ((getStrand s a).incomplete.length < 32 → (∀ q, q ∈ (getTile s a.tile).aborted → q.1 ≠ o.comm ∨ q.2.1 ≠ o.num) →
      ∃ t, exec i s = .next t ∧ TagTaken (getStrand s a) (getStrand t a) .coll f.sd.toNat ∧
        tget 0 (getTile t a.tile).collNum o.comm = o.num + 1 ∧
        (x.installHold = true → tget 0 x.install o.comm ≤ o.num → t.mem = s.mem ∧ t.out = s.out ∧
          (getTile t a.tile).colls = (getTile s a.tile).colls ++ [o]))

/-- R265: the member index of a rank, and the stages with their coordinates, of a group of A0 × A1 × A2 ranks on a box. -/
def MemberPlace : Prop :=
  ∀ (s : State) (x : Loom) (rank : Nat) (o : CollOp), 0 < o.a0 → 0 < o.a1 → 0 < o.a2 →
    let m := placeMember s x rank o
    let b := boxCoord s x
    let e := boxExtent x
    rank % (o.a0 * o.a1 * o.a2) = (rank % o.a0) + o.a0 * (rank / o.a0 % o.a1) + o.a0 * o.a1 * (rank / (o.a0 * o.a1) % o.a2) ∧
    m.index = rank % (o.a0 * o.a1 * o.a2) + o.a0 * o.a1 * o.a2 * (b.1 + e.1 * (b.2.1 + e.2.1 * b.2.2)) ∧
    m.members = o.a0 * o.a1 * o.a2 * (e.1 * e.2.1 * e.2.2) ∧ m.g = rank / (o.a0 * o.a1 * o.a2) ∧
    (∀ t, t ∈ m.stages → t.2.1 ≠ 1) ∧ m.stages.Pairwise (fun t u => t.1 < u.1) ∧
    (o.a0 ≠ 1 → (0, o.a0, rank % o.a0) ∈ m.stages) ∧ (e.1 ≠ 1 → (3, e.1, b.1) ∈ m.stages) ∧
    (e.2.1 ≠ 1 → (4, e.2.1, b.2.1) ∈ m.stages) ∧ (e.2.2 ≠ 1 → (5, e.2.2, b.2.2) ∈ m.stages)

/-- COLL_COMPLETE (R142, R157): a collective that has received and used everything writes its bytes, and its tag completes OK with
the order tag; one that was aborted completes with that status. -/
def Obligations.CollectiveCompletes : Prop :=
  ∀ (s : State) (a : Issuer) (tag : BitVec 16) (l : Nat) (o : CollOp), s.svc.dark = false →
    ((getTile s a.tile).colls.find? fun q => q.strand = a.strand && q.tag = tag) = some o → ownerOfTile s a.tile = some l →
    (getLoom s l).parks = false → (getTile s a.tile).inbox = [] → (getTile s a.tile).selfbox = [] →
    let gone := fun t => (getTile t a.tile).colls = (getTile s a.tile).colls.filter fun q => !(q.strand = a.strand && q.tag = tag)
    (∀ st, o.status = some st → ∃ t, exec (.collComplete a tag) s = .next t ∧ gone t ∧
      getStrand t a = (getStrand s a).complete tag st o.orderTag o.flags) ∧
    (o.status = none → o.waiting = false → o.received = 1 → o.sqDone = true → o.norm = false → stepWaits s (getLoom s l) o = false →
      (∀ r, r ∈ collWrites (getLoom s l) a.tile o → uncopied s r.1 r.2.1 = none) →
      opPoison s (getLoom s l) ((collReads (getLoom s l) a.tile o).map fun r => (r.1, r.2.1))
        ((collWrites (getLoom s l) a.tile o).map fun r => (r.1, r.2.1)) = false →
      ∃ t, exec (.collComplete a tag) s = .next t ∧ gone t ∧
        storesTo s.mem t.mem (o.bytes.map fun p => (byteHome (getLoom s l) p.1, p.2)) ∧
        getStrand t a = (getStrand s a).complete tag stOk o.orderTag o.flags)

/-- A frame of a collective in good order, for a loom with a free receive credit (R279, R282). -/
def FrameOk (s : State) (tile l kind : Nat) (f : Frame) : Prop :=
  s.svc.dark = false ∧ frameLoom s tile f = some l ∧ f.kind.toNat = kind ∧ f.len.toNat = f.payload.length ∧
  (getLoom s l).creditsUsed < (getLoom s l).credits ∧ (getLoom s l).discards = false

/-- A frame of a kind goes back to the member a frame came from (R281, R282): among what is newly sent is one of no payload with a
fresh CRC, which names the collective, stage, round and chunk of the frame it answers. -/
def Replied (out : List OutMsg) (t : State) (f : Frame) (kind : Nat) : Prop :=
  ∃ new d g, t.out = out ++ new ∧ .frame d f.sender.toNat g ∈ new ∧ g.kind.toNat = kind ∧ g.payload = [] ∧ g.crc = frameCrc g ∧
    g.comm = f.comm ∧ g.seq = f.seq ∧ g.stage = f.stage ∧ g.round = f.round ∧ g.chunk = f.chunk

/-- PARTIAL, FINAL, CONTRIB, MOVE, COUNTS and SCALAR frames: one whose CRC fails is dropped, takes no credit and is asked for
again (R281); a frame for a loom that is away is parked (R163); one for a collective of a later number waits and holds a credit
(R266, R282); one that the collective can use is used, and its credit returns in an ACK. -/
def FramesArrive : Prop :=
  ∀ (s : State) (tile l kind : Nat) (f : Frame) (i : Instr), FrameOk s tile l kind f →
    (kind, i) ∈ [(1, Instr.partialFrame tile f true), (2, .finalFrame tile f), (3, .contribFrame tile ⟨f, true⟩), (4, .moveFrame tile f),
      (5, .countsFrame tile f), (6, .scalarFrame tile ⟨f, true⟩)] →
    let x := getLoom s l
    let u := getTile s tile
    let op := u.colls.find? fun o => o.comm = f.comm.toNat && o.num % 65536 = f.seq.toNat
    (f.crc ≠ frameCrc f → ∃ t, exec i s = .next t ∧ t.mem = s.mem ∧ t.tiles = s.tiles ∧ t.looms = s.looms ∧ Replied s.out t f 7) ∧
    (f.crc = frameCrc f → (x.holder = false ∨ x.parks = true) → ∃ t, exec i s = .next t ∧ t.tiles = s.tiles ∧
      (getLoom t l).parkedFrames = x.parkedFrames ++ [(tile, ⟨f, true⟩)] ∧ (getLoom t l).creditsUsed = x.creditsUsed + 1 ∧
      ∃ r : ParkRec, r.tile = tile ∧ r.status = stOk ∧ r.data = f.payload ∧ ParkedIn s t l r true ∧
        ∀ o, ((tileOf s l tile).colls.find? fun o => o.comm = f.comm.toNat && o.num % 65536 = f.seq.toNat) = some o →
          r.strand = o.strand ∧ r.tag = o.tag ∧ r.off = o.dst) ∧
    (f.crc = frameCrc f → x.holder = true → x.parks = false → x.image = none → u.inbox = [] → u.selfbox = [] → op = none →
      (f.seq.toNat + 65536 - tget 0 u.collNum f.comm.toNat % 65536) % 65536 < 32768 →
      ∃ t, exec i s = .next t ∧ t.mem = s.mem ∧ (getTile t tile).inbox = [⟨f, true⟩] ∧ (getTile t tile).colls = u.colls ∧
        (getLoom t l).creditsUsed = x.creditsUsed + 1) ∧
    (∀ o c, f.crc = frameCrc f → x.holder = true → x.parks = false → x.image = none → u.inbox = [] → u.selfbox = [] →
      op = some o → o.status = none → o.waiting = false →
      let s1 := modTile (modLoom (takeDelivered s f) l fun y => { y with creditsUsed := y.creditsUsed + 1 }) tile fun v =>
        { v with inbox := v.inbox ++ [⟨f, true⟩] }
      frameFits s1 l o f = true → frameStale o f = false → frameUse s1 l tile o f = some (c, false) → c.poison = false →
      c.s.tiles = s1.tiles → c.s.looms = s1.looms → (∀ p, p ∈ c.sent → toSelf c.op p = false) →
      ∃ t, exec i s = .next t ∧ t.mem = c.s.mem ∧ (getTile t tile).inbox = [] ∧ getLoom t l = x ∧ Replied c.s.out t f 8 ∧
        (getTile t tile).colls = u.colls.map (fun q => if q.strand = c.op.strand && q.tag = c.op.tag then c.op else q) ∧
        (getTile t tile).sentFrames.map (fun q => (q.toward, q.fr)) = u.sentFrames.map (fun q => (q.toward, q.fr)) ++ c.sent)

/-- A PARTIAL frame at a member that is not its chunk's owner (R69, R269, R271): on a ring it goes on to the next member, with the
member's own contribution added to each element. -/
def RingPartial : Prop :=
  ∀ (x : Loom) (c d : CollOut) (f : Frame) (ax n p : Nat), c.op.stages[c.op.stage]? = some (ax, n, p) → f.stage.toNat = ax →
    modeOfAxis c.op.orderTag ax = 0 → f.chunk.toNat ≠ p → c.op.relayed.contains (f.round.toNat, f.chunk.toNat, 0) = false →
    usePartial x c f = some d →
    let chunk := c.op.region.getD (f.round.toNat * n + f.chunk.toNat) 0
    ∃ g, ((p + 1) % n, g) ∈ d.sent ∧ g.kind.toNat = 1 ∧ g.round = f.round ∧ g.chunk = f.chunk ∧ g.crc = frameCrc g ∧
      g.payload.length = 4096 ∧ ∀ e, e < 1024 → BitVec.ofNat 32 (fieldAt g.payload (4 * e) 4) =
        (collAdd c.op (BitVec.ofNat 32 (fieldAt f.payload (4 * e) 4)) (contribElem c.s c.op chunk e)).1

/-- R273: on a line the owner adds the sum from below and the sum from above first, then its own contribution. -/
def LineOwner : Prop :=
  ∀ (x : Loom) (c d : CollOut) (f : Frame) (ax n p : Nat) (other : List W32), c.op.stages[c.op.stage]? = some (ax, n, p) →
    f.stage.toNat = ax → f.chunk.toNat = p → c.op.rounds.contains f.round.toNat = false → other.length = 1024 →
    let mode := modeOfAxis c.op.orderTag ax
    let up := decide (posOf mode n f.sender.toNat < posOf mode n p)
    mode ≠ 0 → 0 < posOf mode n p → posOf mode n p < n - 1 →
    c.op.contribs = [(f.round.toNat, p, if up then 1 else 0, other)] → usePartial x c f = some d →
    let chunk := c.op.region.getD (f.round.toNat * n + p) 0
    ∀ e, e < 1024 →
      let here := BitVec.ofNat 32 (fieldAt f.payload (4 * e) 4)
      let there := other.getD e 0
      let below := if up then here else there
      let above := if up then there else here
      tget 0 d.op.partials (chunk * 1024 + e) = (collAdd c.op (collAdd c.op below above).1 (contribElem c.s c.op chunk e)).1

/-- R289 and R290: what a receiver makes of a compressed contribution of 1,024 values: under TOPK the selected values rounded to
BF16, and 0 elsewhere; under SIGN plus or minus the scale of its run of 32. -/
def CompressedPayloads : Prop :=
  (∀ (k : Nat) (vals : List W32) (i : Nat), vals.length = 1024 → 1 ≤ k → k ≤ 1024 → i < 1024 →
    (topkPack k vals).1.length = 8 + (26 * k + 63) / 64 * 8 ∧
    (topkUnpack (topkPack k vals).1).getD i 0 =
      if (topkSel true k vals).any (fun p => p.1 = i) then f32Of (elemVal 1 (encode 1 .rne false (f32Val (vals.getD i 0))).1) else 0) ∧
  (∀ (vals : List W32) (i : Nat), vals.length = 1024 → i < 1024 → (signPack vals).1.length = 256 ∧
    (signUnpack (signPack vals).1).getD i 0 =
      if (vals.getD i 0).getLsbD 31 then (signScale vals (i / 32)).1 ^^^ 0x80000000 else (signScale vals (i / 32)).1)

/-- ACK, REPLAY_REQ and ABORT frames (R281 to R283): an ACK releases the sender's copy; REPLAY_REQ counts an attempt and a resend, and
the copy goes out again; after eight the link goes DOWN, or for a hop within the module the loom stops; ABORT ends the collective
it names with its status, raises the event once and is acknowledged; a status that Table 0-5 does not list ends nothing (R19). -/
def ControlFrames : Prop :=
  ∀ (s : State) (tile l : Nat) (f : Frame), s.svc.dark = false → frameLoom s tile f = some l → f.crc = frameCrc f →
    f.len.toNat = f.payload.length →
    let u := tileOf s l tile
    let goods := fun (t : Tile) => t.sentFrames.map fun (q : SentFrame) => (q.toward, q.fr)
    (∀ q, f.kind.toNat = 8 → u.sentFrames.find? (answers f) = some q → ∃ t, exec (.ackFrame tile f) s = .next t ∧ t.mem = s.mem ∧
      t.regs = s.regs ∧ goods (tileOf t l tile) = (u.sentFrames.erase q).map fun p => (p.toward, p.fr)) ∧
    (∀ q, f.kind.toNat = 7 → u.sentFrames.find? (answers f) = some q →
      (q.attempts < 8 → ∃ t, exec (.replayReqFrame tile f) s = .next t ∧ t.mem = s.mem ∧
        (∃ flits, t.out = s.out ++ .frame q.dir q.toward q.fr :: flits) ∧
        (tileOf t l tile).sentFrames = u.sentFrames.map (fun p => if p = q then { p with attempts := p.attempts + 1 } else p) ∧
        (getReg t 0x00700038).toNat = min 0xFFFFFFFF ((getReg s 0x00700038).toNat + 1) ∧ (getReg t 0x00700008).getLsbD 3 = true) ∧
      (8 ≤ q.attempts → ∃ t, exec (.replayReqFrame tile f) s = .next t ∧
        (∀ d, q.dir = some d → (getLink t d).st = 3 ∧ t.mem = s.mem) ∧ (q.dir = none → (getLoom s l).st = .running → (getLoom t l).st = .faulted))) ∧
    (∀ o, f.kind.toNat = 9 → o.status = none →
      (u.colls.find? fun o => o.comm = f.comm.toNat && o.num % 65536 = f.seq.toNat) = some o →
      let st := f.payload.headD stCancelled
      (st.toNat ≤ 0x12 → ∃ t, exec (.abortFrame tile f) s = .next t ∧ t.mem = s.mem ∧ (getReg t 0x00700008).getLsbD 8 = true ∧
        Replied s.out t f 8 ∧ (tileOf t l tile).colls = u.colls.map fun q =>
          if q.comm = o.comm ∧ q.num = o.num ∧ q.status = none then { q with status := some st } else q) ∧
      (0x12 < st.toNat → ∃ t, exec (.abortFrame tile f) s = .next t ∧ t.mem = s.mem ∧ t.tiles = s.tiles ∧ t.looms = s.looms ∧
        t.regs = s.regs ∧ t.out = s.out))

/-- R287: a wrong addition of a CHECKED collective, as a PARTIAL, CONTRIB or SCALAR frame is used and the use adds, aborts the
collective with UNCORRECTED and raises the residue event. -/
def ResidueCheck : Prop :=
  ∀ (s : State) (tile l kind : Nat) (f : Frame) (o : CollOp) (c : CollOut) (bad : Bool) (i : Instr), FrameOk s tile l kind f →
    (kind, i) ∈ [(1, Instr.partialFrame tile f false), (3, .contribFrame tile ⟨f, false⟩), (6, .scalarFrame tile ⟨f, false⟩)] →
    f.crc = frameCrc f → ((getTile s tile).colls.find? fun o => o.comm = f.comm.toNat && o.num % 65536 = f.seq.toNat) = some o →
    (getTile s tile).inbox = [] → (getTile s tile).selfbox = [] → (getLoom s l).image = none →
    o.checked = true → o.status = none → o.waiting = false →
    let s1 := modTile (modLoom (takeDelivered s f) l fun y => { y with creditsUsed := y.creditsUsed + 1 }) tile fun v =>
      { v with inbox := v.inbox ++ [⟨f, false⟩] }
    frameFits s1 l o f = true → frameStale o f = false → frameUse s1 l tile o f = some (c, bad) → useAdds o f c.op = true →
    (getLoom s l).holder = true → (getLoom s l).parks = false →
    (∃ r, (((getLoom s l).cmd.map (·.tiles)).getD [tile])[r]? = some tile ∧ r / (o.a0 * o.a1 * o.a2) = o.g) →
    (∃ i j, i < j ∧ j < 4 ∧ (getReg s (adderReg (dieOfBay (bayOf tile)))).getLsbD i = true ∧
      (getReg s (adderReg (dieOfBay (bayOf tile)))).getLsbD j = true) →
    ∃ t, exec i s = .next t ∧ (getReg t 0x00700008).getLsbD 2 = true ∧ t.mem = s.mem ∧
      ∀ q, q ∈ (getTile t tile).colls → q.comm = o.comm → q.num = o.num → q.status.isSome = true

/-! ## The dobby sequencer -/

/-- The registers of a strand at entry (Table 4-10). -/
def AtEntry (z : Strand) (e : RunEntry) (rank n strand : Nat) : Prop :=
  z.active = true ∧ z.ended = false ∧ z.pc = e.entry ∧ z.blocked = .free ∧ z.sget 1 = e.args ∧ z.sget 2 = BitVec.ofNat 64 rank ∧
  z.sget 3 = BitVec.ofNat 64 n ∧ z.sget 4 = BitVec.ofNat 64 strand ∧ (∀ r, (r = 0 ∨ 4 < r) → z.sget r = 0) ∧
  (∀ r t, z.vget r t = 0) ∧ (∀ r t, r ≠ 0 → z.pget r t = false) ∧ z.asw = 0 ∧ z.tagNext = 0 ∧ z.tags = []

/-- RUN may take the entry: the loom holds its bays with no command in progress, nothing holds it, no other loom is to have its bays
(R239), and its ring has the entry next. -/
def MayRun (s : State) (l : Nat) (e : RunEntry) : Prop :=
  let x := getLoom s l
  s.svc.dark = false ∧ x.st = .running ∧ x.holder = true ∧ x.cmd = none ∧ x.stopIssue = false ∧ learnerHeld s l = false ∧
  displaces s l = none ∧ nextEntry s x e = true

/-- RUN (R120, R237, Table 7-4): a sound entry becomes the command in progress and every strand of its tile group stands at the
entry; an unsound one ends at once with BAD_COMMAND, is recorded, and the loom passes to STOPPING. What the host placed goes
before what the engine or the shed controller wrote (the model's choice, log 108). -/
def RunStarts : Prop :=
  ∀ (s : State) (l : Nat) (e : RunEntry), MayRun s l e →
    let x := getLoom s l
    let tiles := loomTiles x
    let group := if e.count = 0 then tiles else (tiles.drop e.first.toNat).take e.count.toNat
    let sound := e.kind = 1 ∧ e.rsv0 = 0 ∧ e.rsv1 = 0 ∧ e.rsv2 = 0 ∧ e.entry.toNat < x.program.length ∧
      e.first.toNat + e.count.toNat ≤ tiles.length
    let left := if hostReady s x = true then x.engineRing else x.engineRing.drop 1
    (sound → group.Nodup → ∃ t, exec (.run l e) s = .next t ∧ t.mem = s.mem ∧ (getLoom t l).engineRing = left ∧
      (∃ c, (getLoom t l).cmd = some c ∧ c.e = e ∧ c.tiles = group ∧ c.endStatus = none ∧ c.tStart = s.tlm.timebase) ∧
      (∀ r k, r < group.length → k < 16 → AtEntry (getStrand t { tile := group.getD r 0, strand := k }) e r group.length k) ∧
      (∀ b : Issuer, b.tile ∉ group → getStrand t b = getStrand s b)) ∧
    (¬ sound → ∃ t, exec (.run l e) s = .next t ∧ t.mem = s.mem ∧ t.tiles = s.tiles ∧ (getLoom t l).engineRing = left ∧
      (getLoom t l).cmd = none ∧
      (getLoom t l).st = .stopping ∧ (getLoom t l).lastStatus = stBad ∧ (getLoom t l).fault.valid = true ∧
      (getReg t 0x00200010).getLsbD 0 = true)

/-- DOBBY_COMMAND_END (R121, R154): with nothing in flight and every strand ended, or the command ended by a fault, it completes with
OK or the fault's status; the tiles keep no strand, no accumulator and no tracked block; a status other than OK takes a RUNNING
loom to STOPPING. Its completion goes to the completion ring of the loom's dobby ring, whoever placed the command (R461). -/
def CommandEnds : Prop :=
  ∀ (s : State) (l : Nat) (c : DobbyCmd), s.svc.dark = false → (getLoom s l).cmd = some c → (getLoom s l).st = .running →
    (getLoom s l).preempt = none → cmdOver s l c = true → (c.tiles.all fun k => ownerOfTile s k = some l) = true →
    (c.e.stepEnd = false ∨ c.endStatus ≠ none) → c.endStatus ≠ some stOk → agentsIdle s l →
    let st := c.endStatus.getD stOk
    ∃ t, exec (.dobbyCommandEnd l) s = .next t ∧ t.mem = s.mem ∧ (getLoom t l).cmd = none ∧ (getLoom t l).lastStatus = st ∧
      (getLoom t l).lastCmdId = c.e.cmdId ∧ (getLoom t l).doneCnt = (getLoom s l).doneCnt + 1 ∧
      (getLoom t l).st = (if c.endStatus = none then .running else .stopping) ∧
      (∀ k, k ∈ c.tiles → (getTile t k).strands = [] ∧ (getTile t k).acc = [] ∧ (getTile t k).board = [] ∧
        (getTile t k).binds = []) ∧
      (∀ k, k ∉ c.tiles → getTile t k = getTile s k) ∧
      let sess := (getLoom s l).session
      let ring := cplOf (getSession s sess) (getLoom s l).dobbyRing
      ∀ r, tfind (getSession s sess).cpl ring = some r → tfind (getSession t sess).cpl ring =
        some { r with written := r.written + 1, since := r.since + 1, reserved := r.reserved - 1 }

/-! ## Ring commands: how they end -/

/-- A command taken from a ring waits for its meaning. -/
def TakenCmd (s : State) (sess ring : Nat) (t : Taken) : Prop :=
  s.svc.dark = false ∧ takenOf s sess ring = some t ∧ t.started = false

/-- The command ends with a status and has no other effect. -/
def Refuses (i : Instr) (s : State) (sess ring : Nat) (st : Byte) : Prop := exec i s = .next (finish s sess ring st)

/-- The command has the effect u and ends OK with a result. -/
def Does (i : Instr) (s u : State) (sess ring : Nat) (result : List Byte) : Prop := exec i s = .next (finish u sess ring stOk result)

/-- R461 and Table 15-3: a command that ends leaves its ring free for the next, and its entry of 32 B stands in its completion ring:
status, opcode, ring and phase, the tag, and 24 bytes of result when it ended OK. Device memory does not change. -/
def Obligations.CompletionWritten : Prop :=
  ∀ (s : State) (sess ring : Nat) (t : Taken) (st : Byte) (result : List Byte) (r : OutRing), takenOf s sess ring = some t →
    tfind (getSession s sess).cpl (cplOf (getSession s sess) ring) = some r →
    let u := finish s sess ring st result
    let body := if st = stOk then slice result 0 24 else List.replicate 24 0
    takenOf u sess ring = none ∧ u.mem = s.mem ∧ u.looms = s.looms ∧ u.tiles = s.tiles ∧ u.regs = s.regs ∧
      tfind (getSession u sess).cpl (cplOf (getSession s sess) ring) =
        some { r with written := r.written + 1, since := r.since + 1, reserved := r.reserved - 1 } ∧
      (∀ i, i < 32 → memGet u.hostMem (r.base.toNat + r.written % 2 ^ r.log2 * 32 + i) =
        (toLe 4 (st.toNat + t.opcode * 2 ^ 8 + ring * 2 ^ 16 + (r.written / 2 ^ r.log2 + 1) % 2 * 2 ^ 31) ++ toLe 4 t.tag.toNat ++ body).getD i 0) ∧
      ∀ b, (b < r.base.toNat + r.written % 2 ^ r.log2 * 32 ∨ r.base.toNat + r.written % 2 ^ r.log2 * 32 + 32 ≤ b) →
        memGet u.hostMem b = memGet s.hostMem b

/-- R232, every loom manager command: one on a loom that is FREE or another session's ends with PERMISSION, and so does a LOOM_CREATE that
names such a loom to share its bays; nothing else happens. -/
def Obligations.ForeignLooms : Prop :=
  ∀ (s : State) (sess ring : Nat) (t : Taken), TakenCmd s sess ring t →
    let foreign := fun k => (getLoom s k).st = .free ∨ (getLoom s k).session ≠ sess
    (foreign t.loom → Refuses (.loomStart sess ring) s sess ring stPerm ∧ Refuses (.loomDelete sess ring) s sess ring stPerm ∧
      Refuses (.loomPreempt sess ring) s sess ring stPerm ∧ Refuses (.loomResume sess ring) s sess ring stPerm ∧
      Refuses (.loomConfig sess ring) s sess ring stPerm ∧
      (∀ image loom n, t.body = .progLoad loom n → Refuses (.progLoad sess ring image) s sess ring stPerm) ∧
      (t.body = .loomStop false → Refuses (.loomStopBoundary sess ring) s sess ring stPerm) ∧
      (t.body = .loomStop true → Refuses (.loomStopCut sess ring) s sess ring stPerm)) ∧
    (∀ bays k cls prio dobby, t.body = .loomCreate bays (some k) cls prio dobby → foreign k →
      Refuses (.loomCreate sess ring) s sess ring stPerm)

/-- R233: a command on a loom of the session in a state that does not admit it ends with NOT_STOPPED; nothing else happens. The commands on a
loom that other chapters add are refused with PERMISSION on a loom that is not the session's. -/
def Obligations.LoomCommandsRefused : Prop :=
  ∀ (s : State) (sess ring : Nat) (t : Taken), TakenCmd s sess ring t →
    let x := getLoom s t.loom
    let mine := x.st ≠ .free ∧ x.session = sess
    (¬ mine → Refuses (.plcIntent sess ring) s sess ring stPerm ∧ Refuses (.lrnConfig sess ring) s sess ring stPerm ∧
      Refuses (.lrnBind sess ring) s sess ring stPerm ∧ Refuses (.lrnUnbind sess ring) s sess ring stPerm) ∧
    (mine → (x.st ≠ .stopped → Refuses (.loomStart sess ring) s sess ring stNotStopped ∧
        Refuses (.loomConfig sess ring) s sess ring stNotStopped ∧ Refuses (.plcIntent sess ring) s sess ring stNotStopped) ∧
      (x.st ≠ .stopped → x.st ≠ .faulted → Refuses (.loomDelete sess ring) s sess ring stNotStopped) ∧
      (x.st ∉ [LoomState.running, .ready, .saved] → Refuses (.loomPreempt sess ring) s sess ring stNotStopped) ∧
      (x.st ∉ [LoomState.ready, .saved] → Refuses (.loomResume sess ring) s sess ring stNotStopped))

/-! ## The loom manager -/

/-- LOOM_CREATE (R227, R247, R253): with room for it, the lowest free number becomes a STOPPED loom of the session on the bays assigned,
with 1,024 credits and its rank table in the stacks: 2 bytes a tile. No other loom changes, and a loom that shares takes the bays of
the one it names. -/
def LoomCreated : Prop :=
  ∀ (s : State) (sess ring l : Nat) (t : Taken) (bays share : Option Nat) (cls : Bool) (prio dobby : Nat) (r : CmdRing) (bs : List Nat)
    (a b c : Nat) (s' : State), TakenCmd s sess ring t → t.body = .loomCreate bays share cls prio dobby →
    tfind (getSession s sess).cmd dobby = some r → r.kind = .dobby → freeLoom s = some l → createAreas s bs = some (a, b, c, s') →
    let q := getSession s sess
    let full := q.loomQuota ≤ ((liveLooms s).filter fun k => (getLoom s k).session = sess).length ∨ 32768 < creditsInUse s + 1024
    (7 < prio → ((∃ k, share = some k ∧ loomOwned s sess k = true) ∨ share = none) → Refuses (.loomCreate sess ring) s sess ring stBad) ∧
    (prio ≤ 7 → share = none → full → (∃ n, bays = some n ∧ 1 ≤ n ∧ n ≤ 320) → Refuses (.loomCreate sess ring) s sess ring stFull) ∧
    (prio ≤ 7 → ¬ full →
      ((∃ n, share = none ∧ bays = some n ∧ 1 ≤ n ∧ n ≤ 320 ∧ assignBays s n = some bs ∧ sessionBays s sess + n ≤ q.bayQuota) ∨
        (∃ k, share = some k ∧ loomOwned s sess k = true ∧ (getLoom s k).bays = bs ∧ (coResident s k).length < 8)) →
      ∃ u, Does (.loomCreate sess ring) s u sess ring (toLe 4 l) ∧
        (let x := getLoom u l
         x.st = .stopped ∧ x.session = sess ∧ x.bays = bs ∧ x.stepClass = cls ∧ x.priority = prio ∧ x.credits = 1024 ∧
          x.dobbyRing = dobby ∧ x.softWait = 100 ∧ x.grace = 2000 ∧ x.program = [] ∧ x.sems = []) ∧
        (∀ k, k ≠ l → getLoom u k = getLoom s k) ∧
        ∀ i, i < 16 * bs.length → rd u (a + 2 * i) 2 = ((bs.flatMap bayTiles).getD i 0) % 2 ^ 16)

/-- LOOM_CONFIG and PROG_LOAD on a STOPPED loom of the session (Table 7-2, R119, R473): the fields carried take their values, the others
keep theirs; values outside their ranges are refused; PROG_LOAD replaces the program by 1 to 32,768 instructions. -/
def LoomConfigured : Prop :=
  ∀ (s : State) (sess ring : Nat) (t : Taken), TakenCmd s sess ring t → (getLoom s t.loom).st = .stopped →
    (getLoom s t.loom).session = sess →
    let x := getLoom s t.loom
    (∀ f, t.body = .loomConfig f → loomCfgOk f = false → Refuses (.loomConfig sess ring) s sess ring stBad) ∧
    (∀ f, t.body = .loomConfig f → loomCfgOk f = true → (f.credits = none ∨ f.credits = some x.credits) →
      Does (.loomConfig sess ring) s (setLoom s t.loom { x with
        stepClass := f.stepClass.getD x.stepClass, priority := f.priority.getD x.priority, seed := f.seed.getD x.seed
        softWait := f.softWait.getD x.softWait, grace := f.grace.getD x.grace
        sems := (f.semInit.map fun ps => ps.foldl (fun t p => tset 0 t p.1 p.2) []).getD x.sems }) sess ring []) ∧
    (∀ f c, t.body = .loomConfig f → loomCfgOk f = true → f.credits = some c → c ≠ x.credits →
      32768 < creditsInUse s - x.credits + c → Refuses (.loomConfig sess ring) s sess ring stFull) ∧
    (∀ addr n image, t.body = .progLoad addr n → 1 ≤ n → n ≤ 32768 → image.length = n →
      Does (.progLoad sess ring image) s (setLoom s t.loom { x with program := image, loaded := true }) sess ring []) ∧
    (∀ addr n image, t.body = .progLoad addr n → (n = 0 ∨ 32768 < n) → Refuses (.progLoad sess ring image) s sess ring stBad)

/-- Nothing came for the loom while it was away, and no collective of it waits for an install (R276). -/
def nothingParked (s : State) (l : Nat) : Prop :=
  let x := getLoom s l
  x.parked = [] ∧ x.parkedFrames = [] ∧ x.holdsAdd = [] ∧ agentsIdle s l ∧
  ∀ kv, (kv ∈ s.tiles ∨ kv ∈ x.keep ∨ ∃ i, x.image = some i ∧ kv ∈ i.tiles) → ∀ o, o ∈ kv.2.colls → o.waiting = false

/-- A STOPPED loom has lost no tile (R201), no memory stack that holds a region of it (R189), and none of its dies can be out of
another's reach (R445). -/
def startable (s : State) (l : Nat) : Prop :=
  (∀ b, b ∈ (getLoom s l).bays → b ∉ s.svc.lostBays) ∧
  (∀ n, n < Config.stackNum s.variant → stackBad s n = true → holdsStack s l n = false) ∧ cutOff s l = false

/-- LOOM_START (R189, R201, R238, Table 7-3): BAD_COMMAND without a program; with nothing in its ring the loom is READY; with a command
there, and its bay set its own, it is the holder and RUNNING; one that lost a tile or a memory stack while it was STOPPED is
FAULTED. -/
def LoomStarts : Prop :=
  ∀ (s : State) (sess ring : Nat) (t : Taken), TakenCmd s sess ring t → (getLoom s t.loom).st = .stopped →
    (getLoom s t.loom).session = sess → t.loom < 32 →
    let l := t.loom
    let x := getLoom s l
    (x.loaded = false → Refuses (.loomStart sess ring) s sess ring stBad) ∧
    (x.loaded = true → x.cmd = none → ringReady s x = false → learnWeave s l = none →
      ((∃ b, b ∈ x.bays ∧ b ∈ s.svc.lostBays) ∨
        ∃ n, n < Config.stackNum s.variant ∧ stackBad s n = true ∧ holdsStack s l n = true) →
      ∃ u, Does (.loomStart sess ring) s u sess ring [] ∧ (getLoom u l).st = .faulted) ∧
    (x.loaded = true → x.cmd = none → ringReady s x = false → startable s l →
      learnWeave s l = none → ∃ u, Does (.loomStart sess ring) s u sess ring [] ∧ (getLoom u l).st = .ready ∧ u.mem = s.mem) ∧
    (x.loaded = true → x.heldByHost = false → ringReady s x = true →
      learnWeave s l = none → coResident s l = [l] → x.holder = false → x.image = none → nothingParked s l →
      startable s l → x.bays.any s.svc.testing.contains = false →
      ∃ u, Does (.loomStart sess ring) s u sess ring [] ∧ (getLoom u l).st = .running ∧ (getLoom u l).holder = true)

/-- LOOM_STOP (R251, Table 7-3): BOUNDARY takes a RUNNING loom to STOPPING, is noted by one that is PREEMPTING, SAVING or RESTORING, and
stops a READY or FENCED one at once; CUT stops the issue, and the command in progress ends CANCELLED unless it ends already. -/
def LoomStops : Prop :=
  ∀ (s : State) (sess ring : Nat) (t : Taken), TakenCmd s sess ring t → (getLoom s t.loom).session = sess →
    let l := t.loom
    let x := getLoom s l
    (t.body = .loomStop false →
      (x.st = .running → ∃ u, Does (.loomStopBoundary sess ring) s u sess ring [] ∧ (getLoom u l).st = .stopping) ∧
      (x.st = .preempting ∨ x.st = .saving ∨ x.st = .restoring →
        ∃ u, Does (.loomStopBoundary sess ring) s u sess ring [] ∧ (getLoom u l).st = x.st ∧ (getLoom u l).pendingStop = true) ∧
      (x.st = .saved → ∃ u, Does (.loomStopBoundary sess ring) s u sess ring [] ∧ (getLoom u l).stopAtEnd = true) ∧
      (x.st = .ready ∨ x.st = .fenced → ∃ u, Does (.loomStopBoundary sess ring) s u sess ring [] ∧ (getLoom u l).st = .stopped)) ∧
    (t.body = .loomStop true →
      (x.st ∈ [LoomState.running, .preempting, .saving, .saved, .restoring] → ∃ u, Does (.loomStopCut sess ring) s u sess ring [] ∧
        (getLoom u l).st = .stopping ∧ (getLoom u l).stopIssue = true ∧ (getLoom u l).image = none ∧ (getLoom u l).parked = [] ∧
        ∀ c, x.cmd = some c → c.endStatus = none → ∃ d, (getLoom u l).cmd = some d ∧ d.endStatus = some stCancelled) ∧
      (x.st = .ready ∨ x.st = .fenced → ∃ u, Does (.loomStopCut sess ring) s u sess ring [] ∧ (getLoom u l).st = .stopped))

/-- LOOM_PREEMPT, LOOM_RESUME and LOOM_DELETE (R233, R240): a pre-empted loom is held, and a RUNNING one with a command in progress is
PREEMPTING; a resumed one is held no more; a deleted loom's number is free, with one more published map counted. -/
def LoomHeldAndDeleted : Prop :=
  ∀ (s : State) (sess ring : Nat) (t : Taken), TakenCmd s sess ring t → (getLoom s t.loom).session = sess →
    let l := t.loom
    let x := getLoom s l
    (∀ hard, t.body = .loomPreempt hard →
      (x.st = .ready ∨ x.st = .saved → Does (.loomPreempt sess ring) s (setLoom s l { x with heldByHost := true }) sess ring []) ∧
      (x.st = .running → x.cmd ≠ none → copying x = false → holdsUnits s l = true →
        ∃ u, Does (.loomPreempt sess ring) s u sess ring [] ∧ (getLoom u l).st = .preempting ∧ (getLoom u l).heldByHost = true)) ∧
    (x.st = .ready ∨ x.st = .saved →
      (eligible (setLoom s l { x with heldByHost := false }) l = false →
        Does (.loomResume sess ring) s (setLoom s l { x with heldByHost := false }) sess ring []) ∧
      (eligible (setLoom s l { x with heldByHost := false }) l = true → x.holder = false → coResident s l = [l] → nothingParked s l →
        x.bays.any s.svc.testing.contains = false → l < 32 → ∃ u, Does (.loomResume sess ring) s u sess ring [] ∧
          (getLoom u l).heldByHost = false ∧ (getLoom u l).holder = true ∧
          (getLoom u l).st = if x.image.isSome then .restoring else .running)) ∧
    (x.st = .stopped ∨ x.st = .faulted → ∃ u, Does (.loomDelete sess ring) s u sess ring [] ∧
      (getLoom u l).st = .free ∧ (getLoom u l).bays = [] ∧ (getLoom u l).map = [] ∧
      (x.st = .faulted → ∀ b, b ∈ x.bays → b ∈ u.svc.testing))

/-- SEM_CREATE and SEM_DELETE (Table 7-18, R233, R248): a shared semaphore has number 0x800 to 0xBFF, belongs to the session that made
it, whose bit is set in its mask; another's is refused with PERMISSION, one with units held with BUSY. -/
def SemaphoresMade : Prop :=
  ∀ (s : State) (sess ring : Nat) (t : Taken), TakenCmd s sess ring t →
    (∀ sem count mask, t.body = .semCreate sem count mask →
      ((sem < 0x800 ∨ 0xBFF < sem) → Refuses (.semCreate sess ring) s sess ring stBad) ∧
      (0x800 ≤ sem → sem ≤ 0xBFF → tfind s.ssems sem ≠ none → Refuses (.semCreate sess ring) s sess ring stBusy) ∧
      (0x800 ≤ sem → sem ≤ 0xBFF → tfind s.ssems sem = none → ∃ u q, Does (.semCreate sess ring) s u sess ring [] ∧
        tfind u.ssems sem = some q ∧ q.count = count ∧ q.owner = sess ∧ (sess < 16 → q.mask.getLsbD sess = true) ∧ q.units = [] ∧
        (∀ k, k ≠ sess → q.mask.getLsbD k = (mask.getD 0).getLsbD k) ∧ u.mem = s.mem ∧ u.looms = s.looms)) ∧
    (∀ sem, t.body = .semDelete sem → 0x800 ≤ sem → sem ≤ 0xBFF →
      (tfind s.ssems sem = none → Refuses (.semDelete sess ring) s sess ring stPerm) ∧
      (∀ q, tfind s.ssems sem = some q → q.owner ≠ sess → Refuses (.semDelete sess ring) s sess ring stPerm) ∧
      (∀ q, tfind s.ssems sem = some q → q.owner = sess → (∃ p, p ∈ q.units ∧ p.2 ≠ 0) →
        Refuses (.semDelete sess ring) s sess ring stBusy) ∧
      (∀ q, tfind s.ssems sem = some q → q.owner = sess → (∀ p, p ∈ q.units → p.2 = 0) →
        ∃ u, Does (.semDelete sess ring) s u sess ring [] ∧ u.ssems = tdel s.ssems sem ∧ u.mem = s.mem ∧ u.looms = s.looms))

/-- HOLDER_SELECT and the events of pre-emption (R238, R240, R241): an eligible loom alone on its bays becomes the holder and RUNNING; one
that a RUNNING holder must yield to makes that holder PREEMPTING while its command runs; when the soft wait is over a loom
without shared units passes to SAVING, one with units is deferred; after the grace its units return, it is revoked, and a loom
whose soft wait is over passes to SAVING. -/
def HoldersChange : Prop :=
  ∀ (s : State) (l : Nat), s.svc.dark = false → l < 32 →
    let x := getLoom s l
    (x.holder = false → eligible s l = true → coResident s l = [l] → x.image = none → nothingParked s l →
      x.bays.any s.svc.testing.contains = false →
      ∃ t, exec (.holderSelect l) s = .next t ∧ (getLoom t l).st = .running ∧ (getLoom t l).holder = true) ∧
    (∀ h, x.holder = false → eligible s l = true → holderOf s l = some h → h ≠ l → (getLoom s h).st = .running →
      (getLoom s h).cmd ≠ none → (getLoom s h).softWait ≠ 0 → copying (getLoom s h) = false → displaces s h = some l →
      (∀ k, k ∈ coResident s l → (getLoom s k).st ≠ .faulted) → x.bays.any s.svc.testing.contains = false →
      weaveOf s h = none →
      ∃ t, exec (.holderSelect l) s = .next t ∧ (getLoom t h).st = .preempting ∧ (getLoom t h).holder = true) ∧
    (∀ p, x.st = .preempting → x.preempt = some p → x.cmd ≠ none → holdsUnits s l = false →
      ∃ t, exec (.softWaitExpiry l) s = .next t ∧ (getLoom t l).st = .saving ∧ t.mem = s.mem) ∧
    (∀ p, x.st = .preempting → x.preempt = some p → p.deferred = false → p.graceOver = false → x.cmd ≠ none → holdsUnits s l = true →
      ∃ t, exec (.softWaitExpiry l) s = .next t ∧ (getLoom t l).st = .preempting ∧ (getReg t 0x00200010).getLsbD 4 = true ∧
        ∃ q, (getLoom t l).preempt = some q ∧ q.deferred = true) ∧
    (∀ p, x.st = .preempting → holdsUnits s l = true → x.preempt = some p → x.cmd ≠ none →
      ∃ t, exec (.preemptGraceExpiry l) s = .next t ∧ (getLoom t l).revoked = true ∧ (getReg t 0x00200010).getLsbD 5 = true ∧
        (unitWaiters s l = 0 → holdsUnits t l = false ∧ (p.softOver = true → (getLoom t l).st = .saving)))

/-- SAVE_IMAGE_WRITTEN, RESTORE_COMPLETE and LOOM_STOPPED (R164, R230, R235, R243): the image has every byte of the loom's tile stores,
and the loom gives its bays up; after the restore the tile stores are those of the image; a STOPPING loom with nothing in flight is
STOPPED. -/
def SavedAndRestored : Prop :=
  ∀ (s : State) (l us : Nat), s.svc.dark = false →
    let x := getLoom s l
    let mine := fun a => ∃ k o, place s.variant a = .tile k o ∧ bayOf k ∈ x.bays
    (x.st = .saving → (∀ k, k ∈ loomTiles x → localDone (getTile s k) = true) →
      ∃ t img, exec (.saveImageWritten l us) s = .next t ∧ t.mem = s.mem ∧ (getLoom t l).st = .saved ∧
        (getLoom t l).image = some img ∧ (∀ a, mine a → memGet img.cells a = memGet s.mem a) ∧ (getLoom t l).holder = false ∧
        (getLoom t l).saveUs = min 0xFFFF us ∧ (getReg t 0x00200010).getLsbD 3 = true) ∧
    (∀ img, x.st = .restoring → x.image = some img → Memory.wf img.cells = true → (∀ c, c ∈ img.cells → mine c.1) →
      nothingParked s l → x.pendingStop = false → x.stopAtEnd = false → (∀ c, x.cmd = some c → c.endStatus = none) → l < 32 →
      ∃ t, exec (.restoreComplete l us) s = .next t ∧ (getLoom t l).st = .running ∧ (getLoom t l).image = none ∧
        (getLoom t l).restoreUs = min 0xFFFF us ∧ (∀ a, mine a → memGet t.mem a = memGet img.cells a) ∧
        ∀ a, ¬ mine a → memGet t.mem a = memGet s.mem a) ∧
    (x.st = .stopping → x.cmd = none → (x.holder = false ∨ ∀ k, k ∈ loomTiles x → tileQuiet (getTile s k) = true) →
      ∃ t, exec (.loomStopped l) s = .next t ∧ (getLoom t l).st = .stopped ∧ (getLoom t l).image = none ∧ (getLoom t l).parked = [])
/-! ## Memory errors -/

/-- A count of 32 bits that stops at its largest value (R17). -/
def upTo32 (n : Nat) : Nat := min 0xFFFFFFFF n

/-- R172 and R173: the thrum word of a group is the XOR of its data words, so a write of one changes it by the old word XOR the
new. -/
def ThrumWords : Prop :=
  ∀ (s : State) (tile w : Nat) (v : W32), tile < 5120 → w < 1835008 →
    (∀ g, (groupWords g).length = if g < 29127 then 63 else if g = 29127 then 7 else 0) ∧
    thrumWord (wr s (tileAddr tile (4 * w)) 4 v.toNat) tile (w / 63) = thrumWord s tile (w / 63) ^^^ dataWord s tile w ^^^ v ∧
    ∀ g, g ≠ w / 63 → thrumWord (wr s (tileAddr tile (4 * w)) 4 v.toNat) tile g = thrumWord s tile g

/-- No bit of a group is wrong: every data word and the thrum word stand as written. -/
def soundGroup (s : State) (tile g : Nat) : Prop :=
  (∀ w, w ∈ groupWords g → tget 0 s.faults.tsFlips (tile * 2 ^ 21 + w) = 0) ∧ tget 0 s.faults.thrumFlips (tile * 2 ^ 15 + g) = 0

/-- TILE_STORE_REBUILD, TS_THRUM_REBUILD and SCRUB on a group that is not POISONED (R171, R174, R176 to R178, R180): in a group that
was sound a rebuild gives the failing word its value again, so no byte reads otherwise, and counts in its bay and in the
module; a second failing word, or a group that only mismatches, poisons the group and the loom that owns the tile is FAULTED;
the scrub does as it finds, while it is enabled. -/
def TileStoreErrors : Prop :=
  ∀ (s : State) (tile word : Nat), s.svc.dark = false → tile < 5120 → word < 1835008 → (tile, word / 63) ∉ s.faults.poisonedGroups →
    let group := word / 63
    let bay := tile / 16
    let reg := 0x10000000 + bay / 8 * 0x01000000 + 0x008A0000 + bay % 8 * 0x10
    let counts := fun (t : State) (o : Nat) =>
      (getReg t (reg + o)).toNat = upTo32 ((getReg s (reg + o)).toNat + 1) ∧
      (getReg t (0x00A00040 + o)).toNat = upTo32 ((getReg s (0x00A00040 + o)).toNat + 1)
    let poisons := fun i => ∃ t, exec i s = .next t ∧ (tile, group) ∈ t.faults.poisonedGroups ∧ (getReg t 0x00A00008).getLsbD 2 = true ∧
      ∀ l, ownerOfTile s tile = some l → (getLoom s l).st ∉ [LoomState.free, .stopped, .faulted] → (getLoom t l).st = .faulted
    let rebuilds := fun i (bit : Nat) => ∃ t, exec i s = .next t ∧ (∀ a, memGet t.mem a = memGet s.mem a) ∧ soundGroup t tile group ∧
      t.faults.poisonedGroups = s.faults.poisonedGroups ∧ counts t 0 ∧ (getReg t 0x00A00008).getLsbD bit = true
    let on := (getReg s 0x00A00030).getLsbD 31
    (soundGroup s tile group → rebuilds (.tileStoreRebuild tile word .clean) 0 ∧ rebuilds (.tsThrumRebuild tile group) 1 ∧
      poisons (.tileStoreRebuild tile word .secondWord) ∧ poisons (.tileStoreRebuild tile word .thrumWord)) ∧
    (failingWords s tile group ≠ [] → poisons (.tsThrumRebuild tile group)) ∧
    exec (.scrub tile group .clean) s = .next s ∧
    (on = true → (soundGroup s tile group → poisons (.scrub tile group .mismatch)) ∧
      exec (.scrub tile group .badThrum) s = exec (.tsThrumRebuild tile group) s ∧
      ∀ f, exec (.scrub tile group (.badWord (word % 63) f)) s = exec (.tileStoreRebuild tile word f) s) ∧
    (on = false → ∀ f, exec (.scrub tile group f) s = .next s)

/-- STACK_ACCESS_RETURN, STK_REPLAY and STACK_FAILED (R185, R187, R189): a corrected unit and an uncorrected one count in their stack, and
the uncorrected one is poisoned and stops the loom that consumed it; a replay counts, and the sixteenth that fails poisons; a
failed stack shows it, and the looms with a region in it are FAULTED. A poisoned unit counts as uncorrected whatever it is reported
as. -/
def StackErrors : Prop :=
  ∀ (s : State) (addr : Nat), s.svc.dark = false → addr < Config.memEnd s.variant →
    let u := addr / 64
    let n := addr / 4096 % Config.stackNum s.variant
    let reg := fun o => 0x00A00100 + n * 0x20 + o
    let counts := fun (t : State) (o : Nat) => (getReg t (reg o)).toNat = upTo32 ((getReg s (reg o)).toNat + 1)
    (∀ c, u ∉ s.faults.poisoned → ∃ t, exec (.stackAccessReturn addr .corrected c) s = .next t ∧ t.mem = s.mem ∧
      u ∈ t.faults.corrected ∧ counts t 8 ∧ (getReg t 0x00A00008).getLsbD 4 = true) ∧
    (∃ t, exec (.stackAccessReturn addr .uncorrected none) s = .next t ∧ t.mem = s.mem ∧ u ∈ t.faults.poisoned ∧
      u ∉ t.faults.corrected ∧ counts t 0x10 ∧ (getReg t 0x00A00008).getLsbD 5 = true) ∧
    (∀ l, (getLoom s l).st ∉ [LoomState.free, .stopped, .faulted] → ∃ t, exec (.stackAccessReturn addr .uncorrected (some l)) s = .next t ∧
      u ∈ t.faults.poisoned ∧ (getLoom t l).st = .faulted) ∧
    (∃ t, exec (.stkReplay [addr] true) s = .next t ∧ t.mem = s.mem ∧ t.faults.poisoned = s.faults.poisoned ∧ counts t 0x18 ∧
      (getReg t 0x00A00008).getLsbD 6 = true) ∧
    (tget 0 s.faults.replayAttempts u = 15 → ∃ t, exec (.stkReplay [addr] false) s = .next t ∧ t.mem = s.mem ∧
      u ∈ t.faults.poisoned ∧ counts t 0x18 ∧ (getReg t 0x00A00008).getLsbD 7 = true) ∧
    (u ∈ s.faults.poisoned → ∀ r c, exec (.stackAccessReturn addr r c) s = exec (.stackAccessReturn addr .uncorrected c) s) ∧
    (∃ t, exec (.stackFailed n) s = .next t ∧ (getReg t (reg 0)).toNat / 8 % 32 = 6 ∧
      ∀ l, l < 32 → holdsStack s l n = true → (getLoom s l).st ∉ [LoomState.free, .stopped, .faulted] → (getLoom t l).st = .faulted)

/-! ## The fabric -/

/-- The line of a die edge that a router sends on over a port. -/
def sendLine (q node : Nat) : Nat := if q < 134 then lineOf node (if q / 2 < 35 then 0 else 2) else 0

/-- FLIT_RECEIVE, FLIT_ACKNOWLEDGE and FABRIC_REPLAY_REQUEST (R171, R200, R201): a flit of another number than the one expected, or
that was not sent, is ignored; one that fails parity is not accepted and its number is asked for; a good one is delivered once at
its destination, or goes on from there over the port of its route when that has room; a flit new to the port is sent by it
first. An acknowledgement releases the flits up to its number; a request resends from the failing number in order and counts at
its port, and the thirty-second for one flit of a die edge costs the edge a module, and with fewer than four the edge. -/
def FabricHops : Prop :=
  ∀ (s : State) (port node from_ : Nat) (f₀ : FabFlit) (line : Nat) (seq : BitVec 12), s.svc.dark = false →
    portEnds port line = some (from_, node) →
    let f := { f₀ with line := line }
    let p := getPort s port
    let arrives := f.seq ≠ p.sendSeq ∧ f.seq = p.expect ∧ ∃ g, g ∈ p.replay ∧ g.seq = f.seq
    (f.seq ≠ p.sendSeq → ¬ arrives → exec (.flitReceive port f₀ line) s = .next s) ∧
    (f.seq = p.sendSeq → p.replay.length < 256 → exec (.flitReceive port f₀ line) s =
      exec (.flitReceive port f₀ line) (setPort s port { p with replay := p.replay ++ [f], sendSeq := p.sendSeq + 1 })) ∧
    (arrives → flitOk f = false → ∃ t, exec (.flitReceive port f₀ line) s = .next t ∧ t.reply = [f.seq.setWidth 64] ∧
      getPort t port = { p with discarding := true } ∧ t.mem = s.mem) ∧
    (arrives → flitOk f = true → node = f.dest → ∃ t, exec (.flitReceive port f₀ line) s = .next t ∧
      getPort t port = { p with expect := p.expect + 1, discarding := false, delivered := p.delivered ++ [f] } ∧
      ∀ q, q ≠ port → getPort t q = getPort s q) ∧
    (∀ q, q ≠ port → arrives → flitOk f = true → nextPort s node f = some q → (getPort s q).replay.length < 256 →
      ∃ t, exec (.flitReceive port f₀ line) s = .next t ∧ getPort t port = { p with expect := p.expect + 1, discarding := false } ∧
        getPort t q = { getPort s q with
          replay := (getPort s q).replay ++ [{ f with seq := (getPort s q).sendSeq, line := sendLine q node }]
          sendSeq := (getPort s q).sendSeq + 1 }) ∧
    (∀ q, q ≠ port → arrives → flitOk f = true → nextPort s node f = some q → 256 ≤ (getPort s q).replay.length →
      exec (.flitReceive port f₀ line) s = .next s) ∧
    (∀ before g after, p.replay = before ++ g :: after → g.seq = seq → (∀ h, h ∈ before → h.seq ≠ seq) →
      (∃ t, exec (.flitAcknowledge port seq) s = .next t ∧ getPort t port = { p with replay := after, failing := none, attempts := 0 }) ∧
      (p.failing ≠ some seq → ∃ t, exec (.fabricReplayRequest port seq) s = .next t ∧
        t.reply = (g :: after).map (fun h => h.seq.setWidth 64) ∧ (getPort t port).failing = some seq ∧ (getPort t port).attempts = 1 ∧
        (getPort t port).replay = p.replay ∧ t.mem = s.mem ∧
        (port < 2694 → let reg := if port < 134 then 0x00B00100 + port / 2 * 0x10 + 8
            else 0x10000000 + (port - 134) / 64 * 0x01000000 + 0x008B0000 + (port - 134) / 4 % 16 * 8
          (getReg t reg).toNat = upTo32 ((getReg s reg).toNat + 1))) ∧
      (p.failing = some seq → p.attempts = 31 → port < 134 →
        let reg := 0x00B00100 + port / 2 * 0x10
        let old := (getReg s reg).toNat
        let up := (List.range 8).filter fun m => old / 2 ^ (8 + m) % 2 = 1
        up ≠ [] → ∃ t m, exec (.fabricReplayRequest port seq) s = .next t ∧ m ∈ up ∧
          (getReg t reg).toNat = (old / 256 % 256 - 2 ^ m) * 256 + if up.length ≤ 4 then 3 else 2))

/-- How far two routers are apart: hops along x and along y. -/
def hopsApart (n m : Nat) : Nat :=
  (max (nodeX n) (nodeX m) - min (nodeX n) (nodeX m)) + (max (nodeY n) (nodeY m) - min (nodeY n) (nodeY m))

/-- R199 and R202: a router sends a flit for another router over the link toward a neighbour that is one hop nearer: along x until x
agrees, then along y; along y first between nodes whose x-then-y route crosses an edge that is down. -/
def FabricRoutes : Prop :=
  ∀ (s : State) (n : Nat) (f : FabFlit), n < 640 → f.dest < 640 → n ≠ f.dest →
    ∃ q m, nextPort s n f = some q ∧ portEnds q (sendLine q n) = some (n, m) ∧ m < 640 ∧ hopsApart m f.dest + 1 = hopsApart n f.dest ∧
      (detoured s f.src f.dest = false → nodeX n ≠ nodeX f.dest → nodeY m = nodeY n) ∧
      (detoured s f.src f.dest = true → nodeY n ≠ nodeY f.dest → nodeX m = nodeX n)

/-- The fabric: its hops and its routes. -/
def Obligations.FabricPorts : Prop := FabricHops ∧ FabricRoutes

/-! ## Placement -/

/-- PLC_INTENT and PLC_MAP_READ (R204, R205, R212): an intent that breaks Table 6-2 ends with BAD_COMMAND, one that does not fit with FULL, and
either changes nothing; one that fits is kept and its map published under the next generation, which is the result. The map is
read as whole records of 32 B, as many as fit. -/
def IntentAndMap : Prop :=
  ∀ (s : State) (sess ring : Nat) (t : Taken), TakenCmd s sess ring t → (getLoom s t.loom).session = sess →
    let x := getLoom s t.loom
    (∀ recs, t.body = .plcIntent recs → x.st = .stopped →
      (amendAll s t.loom recs = none → Refuses (.plcIntent sess ring) s sess ring stBad) ∧
      (∀ y, amendAll s t.loom recs = some y →
        let stk := (stackUsed s).filter fun u => !((x.map.filter fun r => r.kind = mkStk).map (·.addr)).contains u.1
        let fit := layout s t.loom x y.objs y.affs y.scratchMin y.stream stk
        (fit = none → Refuses (.plcIntent sess ring) s sess ring stFull) ∧
        (∀ z, fit = some z → ∃ u, Does (.plcIntent sess ring) s u sess ring (toLe 4 ((x.gen + 1) % 2 ^ 32)) ∧
          (getLoom u t.loom).intent = y.objs ∧ (getLoom u t.loom).affs = y.affs ∧ (getLoom u t.loom).streamOnly = y.stream ∧
          (getLoom u t.loom).gen = (x.gen + 1) % 2 ^ 32))) ∧
    (∀ buffer len, t.body = .plcMapRead buffer len → x.st ≠ .free →
      (len % 32 ≠ 0 → Refuses (.plcMapRead sess ring) s sess ring stBad) ∧
      (len % 32 = 0 → let n := min (len / 32) x.map.length
        ∃ u, Does (.plcMapRead sess ring) s u sess ring (toLe 4 x.gen ++ toLe 4 n ++ toLe 4 x.map.length) ∧ u.mem = s.mem ∧
          u.looms = s.looms ∧ (∀ k i, k < n → i < 32 → memGet u.hostMem (buffer.toNat + 32 * k + i) =
            (((x.map[k]?).map mapBytes).getD []).getD i 0) ∧
          ∀ a, (a < buffer.toNat ∨ buffer.toNat + 32 * n ≤ a) → memGet u.hostMem a = memGet s.hostMem a))

/-- PLC_FORCE (R208, R222, R223): only in test mode; a loom that is not STOPPED answers NOT_STOPPED; a map that is not in order, or
leaves less scratch than SCRATCH_MIN, BAD_COMMAND; else every record given stands in the map, marked forced, under the next
generation. -/
def ForcedMaps : Prop :=
  ∀ (s : State) (l : Nat) (recs : List MapRec), s.svc.dark = false →
    let x := getLoom s l
    (s.svc.testMode = false → exec (.plcForce l recs) s = .next s) ∧
    (s.svc.testMode = true → x.st ≠ .free → x.st ≠ .stopped → exec (.plcForce l recs) s = .next { s with reply := [7] }) ∧
    (s.svc.testMode = true → x.st = .stopped →
      ((∃ r, r ∈ recs ∧ forcedOk s l r = false) ∨ scratchFree x (forcedObjs x recs) < x.scratchMin * 1024) →
      exec (.plcForce l recs) s = .next { s with reply := [0x11] }) ∧
    (∀ m, s.svc.testMode = true → x.st = .stopped → recs.all (forcedOk s l) = true → forcedFull x recs = some m →
      mapDisjoint s x m = true → forcedOnce recs = true →
      ∃ t, exec (.plcForce l recs) s = .next t ∧ t.reply = [0] ∧ (getLoom t l).gen = (x.gen + 1) % 2 ^ 32 ∧
        (getLoom t l).st = .stopped ∧ (getLoom t l).intent = x.intent ∧
        ∀ r, r ∈ recs → ∃ m, m ∈ (getLoom t l).map ∧ m = { r with forced := true, affIgnored := m.affIgnored })

/-- The row agent (R217 to R220): an access to a row in no slot is served at its home, one to a VALID slot there; one to a row in
handoff is held, and so is one that comes behind an access still held to the row. -/
def RowAgents : Prop :=
  ∀ (s : State) (a : RowAccess) (h : HotRegion) (r : MapRec), s.svc.dark = false → hotOf s a.loom a.obj = some h →
    objRec (getLoom s a.loom) a.obj = some r → (a.row + 1) * h.rowBytes ≤ r.bytes → a.off + a.data.length ≤ h.rowBytes →
    let x := getLoom s a.loom
    let home := r.addr + a.row * h.rowBytes + a.off
    let free := rowsHeldUp s x x.rowWaits [(a.obj, a.row)] = false
    let held := ∃ t, exec (.rowAgentAccess a) s = .next t ∧ t.mem = s.mem ∧
      (getLoom t a.loom).rowWaits = x.rowWaits ++ [{ who := .agent a, rows := [(a.obj, a.row)] }]
    rowAt x home = some { hot := h, row := a.row, off := a.off } →
    (rowSlot h a.row = none → free → a.write = false → ∃ t, exec (.rowAgentAccess a) s = .next t ∧ t.mem = s.mem ∧
      t.reply = (List.range ((a.data.length + 7) / 8)).map fun i => BitVec.ofNat 64 (fieldAt (rdN s home a.data.length) (8 * i) 8)) ∧
    (rowSlot h a.row = none → free → a.write = true → uncopied s home a.data.length = none → ∃ t, exec (.rowAgentAccess a) s = .next t ∧
      storesTo s.mem t.mem ((List.range a.data.length).map fun i => (home + i, a.data.getD i 0))) ∧
    (∀ k, rowSlot h a.row = some k → free → x.holder = true → (slotOf h k).st = .valid →
      (a.write = false → ∃ t, exec (.rowAgentAccess a) s = .next t ∧ t.mem = s.mem ∧
        t.reply = (List.range ((a.data.length + 7) / 8)).map fun i =>
          BitVec.ofNat 64 (fieldAt (rdN s (slotAddr h k + a.off) a.data.length) (8 * i) 8)) ∧
      (a.write = true → uncopied s home a.data.length = none → ∃ t, exec (.rowAgentAccess a) s = .next t ∧
        storesTo s.mem t.mem ((List.range a.data.length).map fun i => (slotAddr h k + a.off + i, a.data.getD i 0)))) ∧
    (∀ k, rowSlot h a.row = some k → x.holder = true → (slotOf h k).st = .movingIn ∨ (slotOf h k).st = .movingOut → a.write = false →
      held) ∧
    ((rowSlot h a.row = none ∨ x.holder = true) → a.write = false →
      (∃ w, w ∈ x.rowWaits ∧ userWaits s x w.who = true ∧ (a.obj, a.row) ∈ w.rows) → held)

/-- No table of a loom has a promotion that waits. -/
def nothingTodo (s : State) : Prop := ∀ j g, j < 32 → g ∈ (getLoom s j).hot → g.todo = []

/-- HOME_DATA_LANDS and HOME_WRITE_ACCEPTED (R185, R219, R220) where the agents hold nothing and no promotion waits: a promoted row's
bytes stand in the slot, which is VALID and clean; data that is poisoned leaves the row with its home; a demoted row's bytes stand
at its home, and the slot is free. Each counts as a handoff. -/
def Handoffs : Prop :=
  ∀ (s : State) (l obj k : Nat) (h : HotRegion) (r : MapRec), s.svc.dark = false → hotOf s l obj = some h →
    objRec (getLoom s l) obj = some r → (getLoom s l).holder = true → nothingTodo s → agentsIdle s l →
    let e := slotOf h k
    let home := r.addr + e.row * h.rowBytes
    let one := fun (t : State) => (getLoom t l).handoffs = ((getLoom s l).handoffs + 1) % 2 ^ 48
    (e.st = .movingIn → poisonHit s home h.rowBytes = false → ∃ t g, exec (.homeDataLands l obj k false) s = .next t ∧
      storesTo s.mem t.mem ((List.range h.rowBytes).map fun i => (slotAddr h k + i, memGet s.mem (home + i))) ∧
      hotOf t l obj = some g ∧ (slotOf g k).st = .valid ∧ (slotOf g k).dirty = false ∧ (slotOf g k).row = e.row ∧ one t) ∧
    (∀ p, e.st = .movingIn → (p = true ∨ poisonHit s home h.rowBytes = true) → ∃ t g, exec (.homeDataLands l obj k p) s = .next t ∧
      t.mem = s.mem ∧ hotOf t l obj = some g ∧ (slotOf g k).st = .invalid ∧ one t) ∧
    (e.st = .movingOut → e.next = none → ∃ t g, exec (.homeWriteAccepted l obj k) s = .next t ∧
      storesTo s.mem t.mem ((List.range h.rowBytes).map fun i => (home + i, memGet s.mem (slotAddr h k + i))) ∧
      hotOf t l obj = some g ∧ (slotOf g k).st = .invalid ∧ one t)

/-- PLC_MIG_CTRL_WRITE and MIGRATION_EPOCH_END (R218, R225, Table 6-12): an ADMIN session's write waits for the end of the epoch, a PROMOTE_MIN
of 0 and an EPOCH_MS outside 10 to 10,000 leaving their fields; at the end it takes effect, and with promotion off the counts of
every slot of a loom's tables are halved. -/
def MigrationEpochs : Prop :=
  ∀ (s : State), s.svc.dark = false →
    (∀ who v, adminOf s who = false → exec (.plcMigCtrlWrite who v) s = .next s) ∧
    (∀ who v, adminOf s who = true → ∃ w, exec (.plcMigCtrlWrite who v) s = .next { s with migNext := some w } ∧
      let old := (s.migNext.getD (getReg s 0x00300008)).toNat
      w.toNat / 2 ^ 31 = v.toNat / 2 ^ 31 % 2 ∧
      w.toNat / 2 ^ 16 % 2 ^ 15 = (if v.toNat / 2 ^ 16 % 2 ^ 8 = 0 then old / 2 ^ 16 % 2 ^ 8 else v.toNat / 2 ^ 16 % 2 ^ 8) ∧
      w.toNat % 2 ^ 16 = if 10 ≤ v.toNat % 2 ^ 16 ∧ v.toNat % 2 ^ 16 ≤ 10000 then v.toNat % 2 ^ 16 else old % 2 ^ 16) ∧
    (∀ l h, l < 32 → (getLoom s l).st ≠ .free → (getReg s 0x00300008).getLsbD 31 = false → (getLoom s l).hot = [h] →
      ∃ t g, exec .migrationEpochEnd s = .next t ∧ t.mem = s.mem ∧ t.migNext = none ∧
        (∀ w, s.migNext = some w → getReg t 0x00300008 = w) ∧ hotOf t l h.obj = some g ∧ g.cands = [] ∧
        ∀ k, (slotOf g k).count = (slotOf h k).count / 2 ∧ (slotOf g k).row = (slotOf h k).row ∧ (slotOf g k).st = (slotOf h k).st)
/-! ## Torus links -/

/-- The state of a link with n working lanes of total (R262, R263). -/
def linkStateOf (n total : Nat) : Nat := if n < total / 4 then 3 else if n = total then 1 else 2

/-- Kept flits that go out, in their order. -/
def flitsOut (d : Nat) (kept : List (WeftFlit × Nat)) : List OutMsg := kept.map fun q => .flit d q.1

/-- What a good flit brings (R260, R275, Table 8-1): one of another channel than the collective's is delivered; of the collective's,
the frame it holds stands for its tile, or goes on in the direction in which this module relays it, and no flit before is lost. -/
def FlitBrings (s t : State) (d : Nat) (f : WeftFlit) : Prop :=
  let x := getLink s d
  (f.vc ≠ 0 → (getLink t d).delivered = x.delivered ++ [f] ∧ (getLink t d).frames = x.frames ∧ (getLink t d).part = x.part) ∧
  (f.vc = 0 → (getLink t d).delivered = x.delivered ∧ ∀ q : Frame, x.part = [] → 1 ≤ q.kind.toNat → q.kind.toNat ≤ 9 →
    q.len.toNat = q.payload.length → q.payload.length ≤ 224 → f.payload = frameBytes q ++ List.replicate (224 - q.payload.length) 0 →
    ((∀ r, r ∈ x.relays → r.1 = q.jobId → r.2.1 ≠ q.stage.toNat) → (getLink t d).frames = x.frames ++ [q] ∧ (getLink t d).part = [] ∧
      t.out = s.out ∧ ∀ e, e ≠ d → getLink t e = getLink s e) ∧
    ∀ k, k ≠ d → x.relays = [(q.jobId, q.stage.toNat, k)] → (getLink t d).frames = x.frames ∧ (getLink t d).part = [] ∧
      ∃ g lane, (getLink t k).kept = (getLink s k).kept ++ [(g, lane)] ∧ g.vc = 0 ∧ g.seq = (getLink s k).next ∧
        g.payload.take (32 + q.payload.length) = frameBytes q ∧ g.hcrc = crc16 (flitCrcBytes g) ∧
        (getLink t k).next = (getLink s k).next + 1 ∧ t.out = s.out ++ if linkWorks s k then [.flit k g] else [])

/-- LINK_COORD_CHECK, LINK_FLIT, LINK_REPLAY and LANE_DROP (R259 to R263): a partner other than the neighbour of R256 makes a link
FAILED, the right one brings it UP, NARROWED or DOWN by its lanes; a flit of another number is ignored, one that fails its checks is
asked for again, a good one is delivered once and releases the copies it acknowledges; a replay counts and resends from the number
asked for in order, and when 32 replays of one flit have failed the link is DOWN; a dropped lane narrows its link, and the flits it
carried that no ACK covers go out on the lanes that are left. -/
def Links : Prop :=
  ∀ (s : State) (d : Nat), s.svc.dark = false → d < 6 →
    let x := getLink s d
    let total := Config.lanesPerDir s.variant
    let shows := fun (t : State) (bit : Nat) => (getReg t 0x00708008).getLsbD bit = true
    (linkPresent s d = true → x.st = 0 →
      (∀ p, p ≠ neighbour s d → ∃ t, exec (.linkCoordCheck d p) s = .next t ∧ getLink t d = { x with st := 4 } ∧ shows t 4) ∧
      ∃ t, exec (.linkCoordCheck d (neighbour s d)) s = .next t ∧ (getLink t d).st = linkStateOf (lanesUp s d) total ∧
        (getLink t d).kept.map (·.1) = x.kept.map (·.1) ∧
        (total / 4 ≤ lanesUp s d → t.out = s.out ++ flitsOut d x.kept) ∧ ∀ e, e ≠ d → getLink t e = getLink s e) ∧
    (linkWorks s d = true → ∀ f : WeftFlit, f.payload.length = 256 →
      (f.seq ≠ x.expect → ∀ ok, exec (.linkFlit d f ok) s = .next s) ∧
      (f.seq = x.expect →
        (∃ t, exec (.linkFlit d f false) s = .next t ∧ getLink t d = { x with discarding := true } ∧ t.reply = [f.seq.setWidth 64] ∧
          shows t 0 ∧ t.mem = s.mem) ∧
        (f.hcrc ≠ crc16 (flitCrcBytes f) → ∃ t, exec (.linkFlit d f true) s = .next t ∧ getLink t d = { x with discarding := true } ∧
          t.reply = [f.seq.setWidth 64] ∧ t.mem = s.mem) ∧
        (f.hcrc = crc16 (flitCrcBytes f) → (∀ r, r ∈ x.relays → r.2.2 ≠ d) → ∃ t, exec (.linkFlit d f true) s = .next t ∧
          (getLink t d).expect = x.expect + 1 ∧ (getLink t d).discarding = false ∧ (getLink t d).st = x.st ∧ t.mem = s.mem ∧
          (getLink t d).acked = (if seqAfter f.ack x.acked then f.ack else x.acked) ∧
          (getLink t d).kept = (if seqAfter f.ack x.acked then x.kept.filter fun q => seqAfter q.1.seq f.ack else x.kept) ∧
          FlitBrings s t d f))) ∧
    (linkWorks s d = true → ∀ seq, seqAfter seq x.acked = true →
      let y := x.ack (seq - 1)
      let n := if y.failing = some seq then y.attempts + 1 else 1
      ∃ t, exec (.linkReplay d seq) s = .next t ∧ t.mem = s.mem ∧
        (n ≤ 32 → (getReg t (0x00708108 + d * 0x10)).toNat = upTo32 ((getReg s (0x00708108 + d * 0x10)).toNat + 1) ∧ shows t 1 ∧
          (getLink t d).st = x.st ∧ (getLink t d).failing = some seq ∧ (getLink t d).attempts = n ∧
          (getLink t d).kept.map (·.1) = y.kept.map (·.1) ∧
          t.out = s.out ++ flitsOut d (y.kept.filter fun q => !seqAfter seq q.1.seq)) ∧
        (32 < n → (getLink t d).st = 3 ∧ shows t 3 ∧ t.out = s.out ∧ (getLink t d).kept = y.kept)) ∧
    ∀ io i, io < Config.ioDies s.variant → i < 4 → laneUp s io (4 * d + i) = true →
      ∃ t, exec (.laneDrop io (4 * d + i)) s = .next t ∧ laneUp t io (4 * d + i) = false ∧ shows t 2 ∧
        (∀ jo j, (jo, j) ≠ (io, 4 * d + i) → jo < Config.ioDies s.variant → j < 24 → laneUp t jo j = laneUp s jo j) ∧
        (getLink t d).st = (if linkWorks s d then linkStateOf (lanesUp t d) total else x.st) ∧
        (getLink t d).kept.map (·.1) = x.kept.map (·.1) ∧
        (linkWorks s d = true → total / 4 ≤ lanesUp t d →
          t.out = s.out ++ flitsOut d (x.kept.filter fun q => q.2 = io * 24 + (4 * d + i)))

/-- LINK_RETRAIN and DETOUR (R259, R263, R275): retraining disturbs no working lane; a dead link with lanes enough trains anew and this
end sends its coordinate and the extents, one without stays as it is; a hop whose link is DOWN goes by the first axis and sign, in
order, whose link works and beyond which the neighbouring line's does, with every frame no ACK covers sent again; and a module on the
detour of others notes which way their frames go on. -/
def Retraining : Prop :=
  ∀ (s : State) (who : Accessor) (d : Nat) (v : W64) (found : List LaneFinding), s.svc.dark = false → d < 6 →
    let x := getLink s d
    (adminOf s who = false → exec (.linkRetrain who v found) s = .next s) ∧
    (adminOf s who = true → v = BitVec.ofNat 64 (2 ^ d) → linkPresent s d = true → ∃ t, exec (.linkRetrain who v found) s = .next t ∧
      (∀ e, e ≠ d → getLink t e = getLink s e) ∧
      (x.st = 3 ∨ x.st = 4 → if lanesUp t d < Config.lanesPerDir s.variant / 4 then getLink t d = x ∧ t.out = s.out else
        getLink t d = { x with st := 0, failing := none, attempts := 0, detour := none } ∧
        t.out = s.out ++ [.coord d (getReg s 0x00708000)]) ∧
      (linkWorks s d = true → (getLink t d).st = linkStateOf (lanesUp t d) (Config.lanesPerDir s.variant) ∧
        ∀ io j, io < Config.ioDies s.variant → j < 24 → laneUp s io j = true → laneUp t io j = true)) ∧
    (∀ lines, x.st = 3 → x.detour = none → ∀ k, k < 6 → k / 2 ≠ d / 2 → linkWorks s k = true → k ∈ lines →
      (∀ j, j < k → j / 2 ≠ d / 2 → linkWorks s j = false ∨ j ∉ lines) → ∃ t, exec (.detour (.hop d lines)) s = .next t ∧
        getLink t d = { x with detour := some k } ∧ (getReg t 0x00700008).getLsbD 4 = true ∧ t.mem = s.mem ∧
        (∀ e, e ≠ d → e ≠ k → getLink t e = getLink s e) ∧
        ∀ l tile q, l < 32 → (getLoom s l).st ≠ .free → tile ∈ loomTiles (getLoom s l) → q ∈ (tileOf s l tile).sentFrames →
          q.dir = some d → q.waiting = false → OutMsg.frame q.dir q.toward q.fr ∈ t.out) ∧
    (∀ lines, x.st ≠ 3 → exec (.detour (.hop d lines)) s = .next s) ∧
    ∀ job stage out, ∃ t, exec (.detour (.relay d job stage out)) s = .next t ∧
      (∀ e, e ≠ d → getLink t e = getLink s e) ∧ t.mem = s.mem ∧ t.out = s.out ∧
      getLink t d = { x with relays := (getLink t d).relays } ∧
      (∀ r, r.1 ≠ job ∨ r.2.1 ≠ stage → (r ∈ (getLink t d).relays ↔ r ∈ x.relays)) ∧
      ∀ k, (job, stage, k) ∈ (getLink t d).relays ↔ out = some k

/-- COLL_CONFIG, ORDER_CHANGE, SPLIT and ADDER_SELFTEST (R264, R272, R276, R277, R285, R286): a box that does not fit the torus is
refused; one that fits is set with the modes of its axes; new modes are chosen from the lowest number of each COMM that no member
has started, where members hold until they are installed; a split ends what is in flight and fences a loom outside its job's anchor half; an adder that passes is noted,
one that fails leaves service. -/
def TorusJobs : Prop :=
  (∀ (s : State) (sess ring : Nat) (t : Taken) (job : W32) (x0 y0 z0 ex ey ez : Nat), TakenCmd s sess ring t →
    t.body = .collConfig job (some (x0, y0, z0)) (some (ex, ey, ez)) → (getLoom s t.loom).st = .stopped → (getLoom s t.loom).session = sess →
    let e := extentOf s
    let fits := fun (o n k : Nat) => 1 ≤ n ∧ n ≤ 4 ∧ o ≤ 3 ∧ o + n ≤ k
    let ok := fits x0 ex e.1 ∧ fits y0 ey e.2.1 ∧ fits z0 ez e.2.2
    (¬ ok → Refuses (.collConfig sess ring) s sess ring stBad) ∧
    (ok → ∃ u, Does (.collConfig sess ring) s u sess ring [] ∧ u.mem = s.mem ∧ (∀ k, k ≠ t.loom → getLoom u k = getLoom s k) ∧
      let y := getLoom u t.loom
      y.configured = true ∧ y.jobId = job ∧ boxOrigin y = (x0, y0, z0) ∧ boxExtent y = (ex, ey, ez) ∧
        y.installHold = false ∧ y.newModes = none ∧ y.modes = boxModes s y { x := none, y := none, z := none } ∧
          ((∀ d, d < 6 → (getLink s d).st ≠ 3) → y.modes = BitVec.ofNat 32 (axisMode ex e.1 none + axisMode ey e.2.1 none * 8 + axisMode ez e.2.2 none * 64)))) ∧
  (∀ (s : State) (l : Nat) (down : BoxLinks) (started : List (Nat × Nat)), s.svc.dark = false →
    let x := getLoom s l
    (x.installHold = false → x.newModes = none → boxModes s x down = x.modes → ∀ ins, exec (.orderChange l down ⟨started, ins⟩) s = .next s) ∧
    (x.installHold = false → x.st ≠ .free → x.newModes = none → boxModes s x down ≠ x.modes → ∀ ins, ∃ t,
      exec (.orderChange l down ⟨started, ins⟩) s = .next t ∧ (getLoom t l).installHold = !ins ∧
      (getLoom t l).modes = x.modes ∧ (getLoom t l).newModes = some (boxModes s x down) ∧
      (ins = true → (getReg t 0x00700008).getLsbD 5 = true) ∧ (ins = false → t.mem = s.mem ∧ t.tiles = s.tiles ∧ t.regs = s.regs) ∧
      ∀ c, c ∈ commsOf s l ∨ (∃ p, p ∈ started ∧ p.1 = c) →
        tget 0 (getLoom t l).install c = (started.filter fun p => p.1 = c).foldl (fun m p => max m p.2) (nextNumber s l c)) ∧
    (x.installHold = true → exec (.orderChange l down ⟨started, false⟩) s = .next s ∧
      ∃ t, exec (.orderChange l down ⟨started, true⟩) s = .next t ∧ (getLoom t l).installHold = false ∧ (getLoom t l).modes = x.modes ∧
        (getLoom t l).newModes = x.newModes ∧ (getReg t 0x00700008).getLsbD 5 = true ∧
        (x.holder = true → x.parks = false → ∀ tile o, tile ∈ loomTiles x → o ∈ (getTile t tile).colls → o.status = none →
          o.waiting = false))) ∧
  (∀ (s : State) (l : Nat) (half : Bool), s.svc.dark = false → (getLoom s l).st ≠ .free → ∃ t, exec (.splitTorus l half) s = .next t ∧
    (getReg t 0x00700008).getLsbD 6 = true ∧
    (half = true → (getLoom t l).st = (getLoom s l).st) ∧
    (half = false → (getLoom t l).fencedJob = true ∧ ((getLoom s l).st ∈ fenceStates → (getLoom t l).st = .fenced))) ∧
  (∀ (s : State) (die adder : Nat), s.svc.dark = false → die < 40 → adder < 4 → (getReg s (adderReg die)).getLsbD adder = true →
    (exec (.adderSelftest die adder true) s =
      .next { s with adders := { s.adders with lastPass := tput s.adders.lastPass (die * 4 + adder) s.tlm.timebase } }) ∧
    ∃ t, exec (.adderSelftest die adder false) s = .next t ∧ (getReg t (adderReg die)).getLsbD adder = false ∧
      (getReg t (adderReg die)).getLsbD (adder + 4) = true ∧ (getReg t 0x00700008).getLsbD 0 = true ∧
      (getReg t 0x00700008).getLsbD 1 = true)
/-! ## Learning support -/

/-- LRN_CONFIG, LRN_BIND and LRN_UNBIND on a STOPPED loom of the session (R297 to R300, R305, R310, R311): a configuration in range, its
tables placed and its groups sound, is set and its step sum and bucket start again; bindings are all taken or none, a shared
element is TIED_BINDING, one shared with an earlier record of the command among them, a residual bound is zero; bindings matched exactly are removed. -/
def Obligations.Learning : Prop :=
  ∀ (s : State) (sess ring : Nat) (t : Taken), TakenCmd s sess ring t → (getLoom s t.loom).st = .stopped →
    (getLoom s t.loom).session = sess →
    let x := getLoom s t.loom
    let others := fun (u : State) => ∀ k, k ≠ t.loom → getLoom u k = getLoom s k
    (∀ f, t.body = .lrnConfig f →
      let y : Loom := { x with lrn := lrnFields x.lrn f }
      let sound := lrnRanges y.lrn = true ∧ lrnTables y = true ∧ (watchedGroups s y).length ≤ 64 ∧
        ∀ g, g < y.lrn.ngroups → (groupPoints s y (groupRec s y g)).isSome = true
      (¬ sound → Refuses (.lrnConfig sess ring) s sess ring stBad) ∧
      (sound → ∃ u, Does (.lrnConfig sess ring) s u sess ring [] ∧ u.mem = s.mem ∧ others u ∧
        getLoom u t.loom = { x with lrn := { y.lrn with stepSum := 0, bucket := 0, gradSums := [], watched := watchedGroups s y } })) ∧
    (∀ recs, t.body = .lrnBind recs →
      let sound := recs ≠ [] ∧ recs.length ≤ 4096 ∧ (∀ b, b ∈ recs → bindOk x b = true ∧ residualMatched (x.lrn.binds ++ recs) b = true)
      (¬ sound → Refuses (.lrnBind sess ring) s sess ring stBad) ∧
      (sound → tied x.lrn.binds [] recs = true → Refuses (.lrnBind sess ring) s sess ring stTied) ∧
      (∀ p q, sound → recs = [p, q] → q.kind = 1 → (∃ a b, a ∈ soleRanges p ∧ b ∈ soleRanges q ∧ b.overlaps a = true) →
        Refuses (.lrnBind sess ring) s sess ring stTied) ∧
      (sound → tied x.lrn.binds [] recs = false → ∃ u, Does (.lrnBind sess ring) s u sess ring [] ∧ others u ∧
        getLoom u t.loom = { x with lrn := { x.lrn with binds := x.lrn.binds ++ recs } } ∧
        ((∀ b, b ∈ recs → b.kind = 1) → u.mem = s.mem) ∧
        ∀ b i a, b ∈ recs → b.kind = 2 → i < 4 * b.elems → objAddr x b.copy0 i = some a → memGet u.mem a = 0)) ∧
    (∀ recs, t.body = .lrnUnbind recs →
      (recs = [] ∨ unbindAll x.lrn.binds recs = none → Refuses (.lrnUnbind sess ring) s sess ring stBad) ∧
      (∀ b, recs ≠ [] → recs.length ≤ 4096 → unbindAll x.lrn.binds recs = some b → ∃ u, Does (.lrnUnbind sess ring) s u sess ring [] ∧
        u.mem = s.mem ∧ others u ∧ getLoom u t.loom = { x with lrn := { x.lrn with binds := b } }))

/-! ## Serving -/

/-- SRV_CONFIG (R323): the ranges of Table 10-1, a STEP loom, and its tensors placed when it is bound, else BAD_COMMAND; more entries than
the request table has, FULL; else the fields are set, batch steps number from 0, and shared beginnings beyond PREFIX_SLOTS are evicted,
those used least recently first (R343, R345). -/
def ServingConfigured : Prop :=
  ∀ (s : State) (sess ring : Nat) (t : Taken) (f : SrvConfigF), TakenCmd s sess ring t → t.body = .srvConfig f →
    (getLoom s t.loom).st = .stopped → (getLoom s t.loom).session = sess →
    let x := getLoom s t.loom
    let v := srvFields x.srv f
    let sound := srvRanges v f = true ∧ x.stepClass = true ∧ (v.bound = true → srvBindable x v = true)
    (¬ sound → Refuses (.srvConfig sess ring) s sess ring stBad) ∧
    (sound → 16384 < otherQuotas s t.loom + v.quota → Refuses (.srvConfig sess ring) s sess ring stFull) ∧
    ((∃ e, e ∈ v.stepList ∧ 0x8000 ≤ e.entry) → Refuses (.srvConfig sess ring) s sess ring stBad) ∧
    (sound → otherQuotas s t.loom + v.quota ≤ 16384 → ∃ u, Does (.srvConfig sess ring) s u sess ring [] ∧ u.mem = s.mem ∧
      let kept := (getLoom u t.loom).srv.pfx
      getLoom u t.loom = { x with srv := { v with stepNo := 0, owned := false, pfx := kept } } ∧
      (∀ k, k ≠ t.loom → getLoom u k = getLoom s k) ∧ (v.pfx.length ≤ v.pfxSlots → kept = v.pfx) ∧
      ((v.pfx.map (·.handle)).Nodup → kept.length = min v.pfx.length v.pfxSlots ∧ ∀ p, p ∈ kept → p ∈ v.pfx ∧
        ∀ q, q ∈ v.pfx → q ∉ kept → q.lastUse ≤ p.lastUse))

/-- Table 10-4 and R329, the one QUEUED request of a loom with no shared beginnings kept: when its pages are free it takes them and passes to
PREFILL, and nothing else changes; else it waits, which KV_WAIT shows once. An engine that is not at work
admits none. -/
def QueueAdmitted : Prop :=
  ∀ (s : State) (l e : Nat) (r : Req), ((reqsOf s l).filter fun kv => kv.2.st = .queued) = [(e, r)] → getReq s e = r →
    (getLoom s l).srv.pfx = [] →
    let v := (getLoom s l).srv
    let need := (reqPositions v r.desc + 15) / 16 - r.pages.length
    let free := freePages s l
    let pages := r.pages ++ free.take need
    let work := v.bound = true ∧ serving (getLoom s l) = true ∧ inLearnShed s l = false
    (¬ work → admitNow s l = s) ∧
    (work → need ≤ free.length →
      let t := admitNow s l
      getReq t e = { r with st := .prefill, pages } ∧ (∀ k, k ≠ e → getReq t k = getReq s k) ∧ t.looms = s.looms ∧ t.regs = s.regs ∧ t.mem = s.mem) ∧
    (work → free.length < need →
      let t := admitNow s l
      (r.kvWait = true → t = s) ∧
      (r.kvWait = false → getReq t e = { r with kvWait := true } ∧ (∀ k, k ≠ e → getReq t k = getReq s k) ∧ t.mem = s.mem ∧
        (getReg t 0x00500008).getLsbD 6 = true))

/-- SRV_SUBMIT (R325, R326, R334, Table 10-3): PERMISSION, BUSY, BAD_COMMAND and FULL in that order; else the lowest free entry is taken, one
event number is drawn, the prompt stands in the token pool, and the entry, its generation and the number are the result; QueueAdmitted says what follows at once. A
descriptor that asks for a shared beginning and finds none is entered with MISS. -/
def Submissions : Prop :=
  ∀ (s : State) (sess ring : Nat) (t : Taken) (d : SubmitDesc) (prompt : List W32), TakenCmd s sess ring t → t.body = .srvSubmit d →
    let x := getLoom s d.loom
    let mine := x.st ≠ .free ∧ x.session = sess
    let ready := x.srv.bound = true ∧ x.st ∉ [LoomState.stopped, .stopping, .fenced, .faulted]
    let c := Instr.srvSubmit sess ring prompt
    (¬ mine → Refuses c s sess ring stPerm) ∧
    (mine → ¬ ready → Refuses c s sess ring stBusy) ∧
    (mine → ready → submitOk x d = false → Refuses c s sess ring stBad) ∧
    (mine → ready → submitOk x d = true → x.srv.quota ≤ (reqsOf s d.loom).length → ∃ u,
      exec c s = .next (finish u sess ring stFull) ∧ u.reqs = s.reqs ∧ u.mem = s.mem ∧ (getReg u 0x00500008).getLsbD 0 = true) ∧
    ∀ buf e, mine → ready → submitOk x d = true → (reqsOf s d.loom).length < x.srv.quota →
      poolPlace s d.loom (reqBytes d) = some buf → prompt.length = d.promptLen → e < 16384 → (getReq s e).st = .free →
      (∀ k, k < e → (getReq s k).st ≠ .free) →
      let gen := (getReq s e).gen + 1
      let body := toLe 4 (e + gen.toNat * 2 ^ 16) ++ toLe 4 0 ++ toLe 8 s.evseq.toNat
      let entered := fun (u : State) => u.evseq = s.evseq + 1 ∧ (getReq u e).st = .queued ∧ (getReq u e).gen = gen ∧
        (getReq u e).loom = d.loom ∧ (getReq u e).prompt = prompt ∧ (getReq u e).tokens = [] ∧ (getReq u e).pos = 0 ∧
        (getReq u e).d = some d ∧ (getReq u e).buf = buf ∧ (getReq u e).bufLen = 4 * d.promptLen ∧
        (∀ a i, objAddr x x.srv.promptPool buf = some a → i < d.promptLen → rd u (a + 4 * i) 4 = (prompt.getD i 0).toNat) ∧
        ∀ k, k ≠ e → getReq u k = getReq s k
      (d.pfxHandle = 0 ∨ d.register = true →
        ∃ u, exec c s = .next (finishWith (admitNow u d.loom) sess ring stOk body) ∧ entered u) ∧
      (d.pfxHandle ≠ 0 → d.register = false → hitEntry s d.loom d prompt = none →
        ∃ u, exec c s = .next (finishWith (admitNow u d.loom) sess ring stMiss body) ∧ entered u ∧ (getReg u 0x00500008).getLsbD 4 = true)

/-- SRV_CANCEL, SRV_PREFIX_DROP, DEADLINE and SRV_REQ_CONS_WRITE (R332, R333, R337, R338, R346, Table 10-4): a cancel ends a request of
its generation and is ALREADY_DONE on any other, and takes an event number either way; entries of shared beginnings are dropped by handle, all by handle 0; a deadline
ends a request, or marks it while it is in a step; the consumer count frees slots and, read to its end, the entry. Where pages come
free, QueueAdmitted says what follows. -/
def RequestEnds : Prop :=
  (∀ (s : State) (sess ring : Nat) (t : Taken), TakenCmd s sess ring t → (getLoom s t.loom).st ≠ .free →
    (getLoom s t.loom).session = sess →
    (∀ e gen, t.body = .srvCancel e gen → e < 16384 → (getReq s e).loom = t.loom →
      let open_ := (getReq s e).gen = gen ∧ (getReq s e).st ≠ .free ∧ (getReq s e).st ≠ .ended
      (¬ open_ → exec (.srvCancel sess ring) s = .next (finish { s with evseq := s.evseq + 1 } sess ring stAlreadyDone)) ∧
      (open_ → ∃ u, Does (.srvCancel sess ring) s u sess ring [] ∧ (getReq u e).st = .ended ∧ (getReq u e).endStatus = stCancelled ∧
        u.evseq = s.evseq + 2 ∧ (getReg u 0x00500008).getLsbD 2 = true ∧ ∀ k, k ≠ e → getReq u k = getReq s k)) ∧
    (∀ hs, t.body = .srvPfxDrop hs → ∃ u, Does (.srvPfxDrop sess ring) s (admitNow u t.loom) sess ring [] ∧ u.mem = s.mem ∧ u.reqs = s.reqs ∧
      (getLoom u t.loom).srv.pfx = (getLoom s t.loom).srv.pfx.filter fun p => !(hs.contains 0) && !(hs.contains p.handle))) ∧
  ∀ (s : State) (e : Nat), s.svc.dark = false → (getReq s e).st ≠ .free →
    let r := getReq s e
    (r.st ≠ .ended → r.expired = false → r.desc.deadline ≠ 0 →
      (s.tlm.timebase.toNat < r.desc.deadline.toNat → exec (.deadline e) s = .next s) ∧
      (r.desc.deadline.toNat ≤ s.tlm.timebase.toNat → ∃ t, exec (.deadline e) s = .next t ∧ (getReg t 0x00500008).getLsbD 3 = true ∧
        (inStep s e = true → getReq t e = { r with expired := true } ∧ t.mem = s.mem) ∧
        (inStep s e = false → (getReq t e).st = .ended ∧ (getReq t e).endStatus = stDeadline ∧ (getReq t e).produced = r.produced + 1))) ∧
    ∀ (who : Accessor) (v : W64),
      (ownsLoom s who r.loom = false ∨ v.toNat / 2 ^ 16 % 2 ^ 16 ≠ r.gen.toNat → exec (.srvReqConsWrite who e v) s = .next s) ∧
      (ownsLoom s who r.loom = true → v.toNat / 2 ^ 16 % 2 ^ 16 = r.gen.toNat →
        let c := v.toNat % 2 ^ 16
        let free := 64 - (r.produced + 65536 - c) % 65536
        let ends := r.st = .ended ∧ (r.produced + 65536 - c) % 65536 = 0
        ∃ t, exec (.srvReqConsWrite who e v) s = .next (if ends then admitNow t r.loom else t) ∧
        t.mem = s.mem ∧ (∀ k, k ≠ e → getReq t k = getReq s k) ∧
        (ends → (getReq t e).st = .free ∧ (getReq t e).gen = r.gen) ∧
        (r.st = .ringWait → (getLoom s r.loom).srv.specDepth + 2 ≤ free → getReq t e = { r with cons := c, st := .decode }) ∧
        (r.st ∈ [ReqState.queued, .prefill, .decode] → getReq t e = { r with cons := c }))

/-- BATCH_STEP_FORM (R329, R330) of a loom in no weave with one request: a PREFILL row takes the tokens left of the prompt up to
PREFILL_CHUNK and STEP_TOKENS, a DECODE row one token and SPEC_DEPTH draft positions; the table is written in the half that is next,
with the row's page table behind both halves where BATCH has room for it (the model's choice, log 125), and the step's commands
stand in the ring. -/
def StepsFormed : Prop :=
  ∀ (s : State) (l e at_ : Nat) (r : Req), s.svc.dark = false →
    let x := getLoom s l
    let v := x.srv
    ((∀ f, v.formed = some f → f.committing = false) → mayForm x = false → exec (.batchStepForm l) s = .next s) ∧
    (mayForm x = true → genWeave s l = none → reqsOf s l = [(e, r)] → getReq s e = r → r.expired = false → r.desc.deadline = 0 →
      r.pfxPick = none → 1 ≤ v.maxRows → 1 + v.specDepth ≤ v.stepTokens → v.stepList ≠ [] →
      objAddr x v.batch (if v.half then batchBytes v else 0) = some at_ →
      let formed := fun (t : State) (w : StepRow → Prop) =>
        (∃ f w0, (getLoom t l).srv.formed = some f ∧ f.rows = [w0] ∧ f.table = at_ ∧ f.pick = 0xFFFFFFFF ∧ f.no = v.stepNo ∧ w0.entry = e ∧ w0.gen = r.gen ∧ w w0) ∧
        (getLoom t l).srv.half = !v.half ∧ (getLoom t l).srv.stepNo = v.stepNo + 1 ∧ (getLoom t l).engineRing.length = v.stepList.length ∧ rd t at_ 8 = v.stepNo % 2 ^ 64 ∧
        rd t (at_ + 8) 4 = 1 ∧
        ∀ b area, objRec x v.batch = some b → b.kind = mkStk → objAddr x v.batch (2 * batchBytes v) = some area →
          2 * batchBytes v + 4 * r.pages.length + 4 * (1 + v.specDepth) ≤ b.bytes →
          rd t (at_ + 0x58) 8 = area % 2 ^ 64 ∧ ∀ i, i < r.pages.length → rd t (area + 4 * i) 4 = r.pages.getD i 0 % 2 ^ 32
      (r.st = .prefill → let n := min (r.desc.promptLen - r.pos) (min v.prefillChunk v.stepTokens)
        ∃ t, exec (.batchStepForm l) s = .next t ∧
          formed t fun w => w.kind = (if n = r.desc.promptLen - r.pos then 1 else 0) ∧ w.pos = r.pos ∧ w.nin = n ∧ w.spec = 0) ∧
      (r.st = .decode → v.specDepth + 2 ≤ r.freeSlots → ∃ t, exec (.batchStepForm l) s = .next t ∧
        formed t fun w => w.kind = 2 ∧ w.pos = r.desc.promptLen + r.tokens.length - 1 ∧ w.nin = 1 + v.specDepth ∧ w.spec = v.specDepth))

/-- The commits of a step whose commands have ended (R334 to R336, R338, R340, R342), one event at a time: a token is committed with its
event number, and the final one ends its request with a second; a request that a cancel or a deadline has ended commits no more, its
tokens left are wasted, and one marked expired ends; each row counts the drafts that are not among its committed tokens. A step is formed after the
commits of the one before. -/
def StepCommits : Prop :=
  ∀ (s : State) (l : Nat) (f : FormedStep) (c : RowCommit) (rest : List RowCommit), (getLoom s l).srv.formed = some f →
    f.committing = true → f.commits = c :: rest →
    let e := c.row.entry
    let r := getReq s e
    let t := commitOne s l
    let gone := r.gen ≠ c.row.gen ∨ r.st = .ended ∨ r.st = .free
    let leaves := fun (cs : List RowCommit) => (getLoom t l).srv.formed = some { f with commits := cs }
    let counts := fun (off n : Nat) => (getReg t (srvReg l off)).toNat = ((getReg s (srvReg l off)).toNat + n) % 2 ^ 48
    let discarded := fun (done : Nat) => if c.row.kind = 2 then c.row.spec - min done (c.nout - 1) else 0
    let toks := c.toks.map (·.1)
    (s.svc.dark = false → (∀ q, q ∈ f.commits → q.toks.length ≤ 8) → exec (.batchStepForm l) s = exec (.batchStepForm l) t) ∧
    (gone ∨ r.expired = true → leaves rest ∧ (getReq t e).tokens = r.tokens ∧ counts 0x28 (discarded c.done) ∧
      counts 0x18 (wastedOf (c.row.left - c.done) c.row.stops toks) ∧ (c.done = 0 → counts 0x20 f.cycles)) ∧
    (gone → t.evseq = s.evseq ∧ t.reqs = s.reqs) ∧
    (¬ gone → r.expired = true → t.evseq = s.evseq + 1 ∧ (getReq t e).st = .ended ∧ (getReq t e).endStatus = stDeadline) ∧
    (¬ gone → r.expired = false → c.toks = [] → leaves rest ∧ t.evseq = s.evseq ∧ (getReq t e).tokens = r.tokens ∧
      counts 0x28 (discarded c.done)) ∧
    ∀ tok lp more, ¬ gone → r.expired = false → c.toks = (tok, lp) :: more →
      let final := r.tokens.length + 1 = r.desc.maxNew ∨ tok ∈ r.desc.stops
      (getReq t e).tokens = r.tokens ++ [tok] ∧ (getReq t e).lastPick = f.pick ∧ counts 0x10 1 ∧
      (final → leaves rest ∧ t.evseq = s.evseq + 2 ∧ (getReq t e).st = .ended ∧ (getReq t e).endStatus = stOk ∧
        (getReq t e).produced = r.produced + 2) ∧
      (¬ final → t.evseq = s.evseq + 1 ∧ (getReq t e).st = .decode ∧ (getReq t e).produced = r.produced + 1 ∧
        leaves (if more = [] then rest else { c with toks := more, done := c.done + 1 } :: rest)) ∧
      (final ∨ more = [] → counts 0x28 (discarded (c.done + 1)))

/-! ## Sheds -/

/-- SHED_WEAVE and SHED_UNWEAVE (R347 to R349, Table 11-10): PERMISSION, NOT_STOPPED, BAD_COMMAND and FULL in that order; a weave set in force
has its initial pick in the front beam of every generator; a weave undone leaves no bobbin and no generator. -/
def WeavesSet : Prop :=
  ∀ (s : State) (sess ring : Nat) (t : Taken), TakenCmd s sess ring t →
    (∀ f, t.body = .shedWeave f → tfind s.weaves (weavePlan s f).weave = none → (weavePlan s f).learnerGiven = true →
      let p := weavePlan s f
      let named := p.w.learner :: (p.w.gens.map (·.loom) ++ p.bobbins.map (·.loom))
      let c := Instr.shedWeave sess ring
      ((∃ l, l ∈ named ∧ loomOwned s sess l = false) → Refuses c s sess ring stPerm) ∧
      ((∀ l, l ∈ named → loomOwned s sess l = true) →
        ((∃ l, l ∈ named ∧ (getLoom s l).st ≠ .stopped) → Refuses c s sess ring stNotStopped) ∧
        ((∀ l, l ∈ named → (getLoom s l).st = .stopped) →
          (weaveCheck s p = none → Refuses c s sess ring stBad) ∧
          (f.nlearn.isSome = true → p.w.nlearn = 0 ∨ 64 < p.w.nlearn → Refuses c s sess ring stBad) ∧
          ∀ src, weaveCheck s p = some src →
            (256 < (s.bobbins.filter fun kv => kv.2.weave ≠ p.weave).length + p.bobbins.length → Refuses c s sess ring stFull) ∧
            ((s.bobbins.filter fun kv => kv.2.weave ≠ p.weave).length + p.bobbins.length ≤ 256 →
              ∃ u, Does c s u sess ring [] ∧ getWeave u p.weave = { p.w with src, pick := p.w.initPick } ∧
                ∀ g, g ∈ p.w.gens → let q := (getLoom u g.loom).shed
                  q.woven = true ∧ q.weave = p.weave ∧ q.frontBeam.st = .full ∧ q.frontBeam.pick = p.w.initPick ∧
                    q.backBeam.st = .empty)))) ∧
    (∀ k w, t.body = .shedUnweave k → tfind s.weaves k = some w → (∀ l, l ∈ weaveLooms w → loomOwned s sess l = true) →
      ((∃ l, l ∈ weaveLooms w ∧ (getLoom s l).st ≠ .stopped) → Refuses (.shedUnweave sess ring) s sess ring stNotStopped) ∧
      ((∀ l, l ∈ weaveLooms w → (getLoom s l).st = .stopped) → ∃ u, Does (.shedUnweave sess ring) s u sess ring [] ∧
        tfind u.weaves k = none ∧ (∀ b, b ∈ u.bobbins → b.2.weave ≠ k) ∧ (∀ g, g ∈ w.gens → (getLoom u g.loom).shed = {}) ∧
        u.mem = s.mem))

/-- PICK_WAIT, SOURCE_BLOCK_COPY and PICK_COPIED (R96, R185, R351 to R357): a publication that waited starts its pick once no back beam
is pinned; a block is converted into the back beam of every taking generator, once and after the working copies that are ready in its
tile unless a write waits for it; one that is poisoned stops them, and they take the pick no more; when every block is copied the
beams are FULL and publication is IDLE. Nothing else waits for the block: the learner's agents hold no access, and no complete group
of ordered additions. -/
def PicksCopied : Prop :=
  ∀ (s : State) (k : Nat), s.svc.dark = false →
    let w := getWeave s k
    (w.pub ≠ .waiting → exec (.pickWait k) s = .next s) ∧
    (w.pub = .waiting → backPinned s w = true → exec (.pickWait k) s = .next s) ∧
    (w.pub = .waiting → backPinned s w = false → ∃ t, exec (.pickWait k) s = .next t ∧ (getWeave t k).pub = .copying ∧
      (getWeave t k).pick = w.pick + 1 ∧ (getWeave t k).copied = [] ∧
      (getWeave t k).taking = ((w.gens.map (·.loom)).filter fun l => (getLoom s l).st.takesPick) ∧
      (getReg t 0x00400008).getLsbD 0 = true) ∧
    (∀ b e o, blockAt w.src b = some (e, o) → w.pub = .copying → b ∉ w.copied → blockTurn s k b = true →
      let ts := loomTiles (getLoom s w.learner)
      let raised := ∃ h, h ∈ s.heldWrites ∧ h.weave = k ∧ h.block = b
      let ready := readyConversions s (ts.getD (b % max 1 ts.length) 0) ≠ []
      (¬ raised → ready → exec (.sourceBlockCopy k b) s = .next s) ∧
      (raised ∨ ¬ ready → agentsIdle s w.learner → doneGroups (getLoom s w.learner) = [] →
      let x := getLoom s w.learner
      let n := min 65536 (e.len - o)
      let img := imageOf e (objBytes s x e.obj (e.srcOff + o) n)
      let at_ := 0x1000 + e.imgOff + (if e.convert then o / 4 * fmtBytes e.fmt else o)
      ∃ t, exec (.sourceBlockCopy k b) s = .next t ∧
        (objPoison s x e.obj (e.srcOff + o) n = false → (getWeave t k).copied = w.copied ++ [b] ∧
          t.mem = (w.taking.foldl (fun s g => objWrite s (getLoom s g) (getLoom s g).shed.backBeam.obj at_ img) s).mem) ∧
        (objPoison s x e.obj (e.srcOff + o) n = true → ∀ g, g ∈ w.taking →
          ((getLoom s g).st ∉ [LoomState.free, .stopped, .faulted] → (getLoom t g).st = .faulted) ∧
          ((getWeave t k).pub = .copying → g ∉ (getWeave t k).taking)))) ∧
    (w.pub = .copying → w.copied.length < blockCount w → exec (.pickCopied k) s = .next s) ∧
    (w.pub = .copying → blockCount w ≤ w.copied.length → w.rearm = false → ∃ t, exec (.pickCopied k) s = .next t ∧
      (getWeave t k).pub = .idle ∧ (getReg t 0x00400008).getLsbD 1 = true ∧
      ∀ g, g ∈ w.taking → (getLoom t g).shed.backBeam.st = .full)
/-! ## Power -/

/-- A bit of PWR_STATUS. -/
def pwrBit (t : State) (bit : Nat) : Prop := (getReg t 0x00800008).getLsbD bit = true

/-- The load is limited for a hand-over (R377): 32/64 on every compute die that is on. -/
def handedOver (s t : State) : Prop :=
  t.power.supplySwitch = true ∧ ∀ d, (getDie s d).on = true → (getDie t d).limit 3 = 32 ∧ (getDie t d).treadle ≤ 32

/-- The supply inputs (R374 to R379): what makes an input GOOD, LOST, OVERVOLT, SHORT or REVERSED, its event, and the hand-over to the
other; remote sense; conduction of the backup; the return of the load to A; and the loss of both, which keeps only what a reset keeps. -/
def Obligations.SupplyInputs : Prop :=
  ∀ (s : State) (b : Bool),
    let x := getInput s b
    let o := getInput s (!b)
    let out := fun (i : Instr) (st : InputState) (v bit : Nat) => ∃ t, exec i s = .next t ∧ (getInput t b).st = st ∧
      (getInput t b).v10mv = v ∧ (getInput t b).pathOpen = true ∧ pwrBit t bit ∧ t.mem = s.mem ∧
      (x.carrying = true → x.st = .good → o.st = .good → (getInput t b).carrying = false ∧ (getInput t (!b)).carrying = true ∧
        pwrBit t 2 ∧ handedOver s t)
    (∀ v, v < 4750 ∨ 6100 < v → exec (.inputGood b v) s = .next s) ∧
    (∀ v, 4750 ≤ v → v ≤ 6100 → ∃ t, exec (.inputGood b v) s = .next t ∧ (getInput t b).st = .good ∧ (getInput t b).v10mv = v ∧
      (getInput t b).pathOpen = false ∧ (o.st ≠ .good → (getInput t b).carrying = true ∧ (getInput t (!b)).carrying = false) ∧
      (o.st = .good → getInput t (!b) = o)) ∧
    (∀ v, x.st ≠ .good ∨ 4600 ≤ v → exec (.inputLost b v) s = .next s) ∧
    (∀ v, x.st = .good → v < 4600 → ∃ t, exec (.inputLost b v) s = .next t ∧ (getInput t b).st = .lost ∧ (getInput t b).v10mv = v ∧
      pwrBit t (if b then 1 else 0) ∧ (x.carrying = true → o.st = .good → (getInput t b).carrying = false ∧
        (getInput t (!b)).carrying = true ∧ pwrBit t 2 ∧ handedOver s t)) ∧
    (∀ v, v ≤ 6200 → exec (.inputOvervolt b v) s = .next s) ∧
    (∀ v, 6200 < v → x.st ≠ .overvolt → out (.inputOvervolt b v) .overvolt v 4) ∧
    (x.st ≠ .short → out (.inputShort b) .short x.v10mv 3) ∧
    (x.st ≠ .reversed → out (.inputReversed b) .reversed x.v10mv 5) ∧
    (x.senseLocal = false → ∃ t, exec (.senseOpen b) s = .next t ∧ getInput t b = { x with senseLocal := true } ∧ pwrBit t 6) ∧
    (∃ t, exec (.senseRestore b) s = .next t ∧ getInput t b = { x with senseLocal := false } ∧ getInput t (!b) = o) ∧
    (∀ va vb, (s.power.share = true ∨ vb ≤ va + 50 → exec (.backupConduction va vb) s = .next s) ∧
      (s.power.share = false → va + 50 < vb → s.power.b.pathOpen = false → s.power.b.st = .good ∨ s.power.b.st = .lost →
        ∃ t, exec (.backupConduction va vb) s = .next t ∧ t.power.a.carrying = false ∧ t.power.b.carrying = true ∧
          t.power.a.v10mv = va ∧ t.power.b.v10mv = vb)) ∧
    (s.power.supplySwitch = true → ∃ t, exec .supplySwitchEnd s = .next t ∧ t.power.supplySwitch = false ∧
      ∀ d, (getDie s d).on = true → (getDie t d).limit 3 = 64) ∧
    (s.power.share = false → s.power.autoReturn = true → s.power.a.st = .good → s.power.a.carrying = false →
      s.power.b.carrying = true → ∃ t, exec .autoReturn s = .next t ∧ t.power.a.carrying = true ∧ t.power.b.carrying = false ∧
        handedOver s t) ∧
    (s.power.a.st = .good ∨ s.power.b.st = .good → exec .modulePowerLoss s = .next s) ∧
    (s.power.a.st ≠ .good → s.power.b.st ≠ .good → (s.power.a.carrying = true → s.power.a.v10mv < 4000) →
      (s.power.b.carrying = true → s.power.b.v10mv < 4000) → ∃ t, exec .modulePowerLoss s = .next t ∧ t.mem = [] ∧ t.looms = [] ∧
        t.sessions = [] ∧ t.tiles = [] ∧ t.regs = [] ∧ t.power.dies = [] ∧ t.power.a.carrying = false ∧ t.power.b.carrying = false ∧
        t.hostMem = s.hostMem ∧ t.svc.flashA = s.svc.flashA ∧ t.svc.flashB = s.svc.flashB ∧ t.svc.svnMin = s.svc.svnMin ∧
        t.svc.coord = s.svc.coord)

/-- The 1 ms and 1 µs loops (R35, R321, R380, R381, R391, R392, R396): the window's readings are taken and the reports of the window's
last dies are used up, an input that carries alone below 50 V lowers the cap in force to 15 kW × V/50 and one that carries more than
300 A limits every die, the correction moves one eighth of the way to
measured over raw, held between 0.80 and 1.25, the cap in force stays within 15 kW and a die's budget within 260 W; a die weighs its
counts, and its limits stay between 4 and 64. -/
def PowerLoops : Prop :=
  ∀ (s : State), s.svc.dark = false →
    (∀ m : PowerWindow, ∃ t, exec (.powerControlTick m) s = .next t ∧ t.mem = s.mem ∧
      t.power.measured = m.measured ∧ t.power.a.v10mv = m.va ∧ t.power.b.v10mv = m.vb ∧ t.power.a.i100ma = m.ia ∧
      t.power.b.i100ma = m.ib ∧ t.power.inForce ≤ 15000 ∧ (∀ l, l < 32 → (getLoom s l).st ≠ .free → (getLoom t l).lastDies = []) ∧
      (let base := (min (15000 : Int) (max 0 (s.power.cap + s.power.borrowed))).toNat;
        t.power.inForce = if s.power.a.carrying = true ∧ s.power.b.carrying = false ∧ m.va < 5000 then min base (3 * m.va)
          else if s.power.b.carrying = true ∧ s.power.a.carrying = false ∧ m.vb < 5000 then min base (3 * m.vb) else base) ∧
      (s.power.a.carrying = true ∧ 3000 < m.ia ∨ s.power.b.carrying = true ∧ 3000 < m.ib →
        ∀ d, d ∈ onDies s → 4 ≤ (getDie t d).limit 2 ∧ (getDie t d).limit 2 < 64) ∧ (∀ d, d ∈ issuingDies s → (getDie t d).budget ≤ 260000) ∧
      let raw := (((onDies s).map fun d => (getDie s d).raw).sum + 1000 * m.otherDies) / 873
      t.power.rawEstimate = raw ∧ 2 ^ 32 * 4 / 5 ≤ t.power.corr ∧ t.power.corr ≤ 2 ^ 32 * 5 / 4 ∧
      (raw ≠ 0 → let k := s.power.corr
        let goal := m.measured * 2 ^ 32 / raw
        t.power.corr = max (2 ^ 32 * 4 / 5) (min (2 ^ 32 * 5 / 4) (if k ≤ goal then k + (goal - k) / 8 else k - (k - goal) / 8)))) ∧
    ∀ (die : Nat) (counts : List Nat),
      ((getDie s die).on = false → exec (.diePowerLoop die counts) s = .next s) ∧
      ((getDie s die).on = true → ∃ t, exec (.diePowerLoop die counts) s = .next t ∧ t.mem = s.mem ∧
        let raw := ((List.range counts.length).map fun k => counts.getD k 0 * Config.energy die k).sum
        (getDie t die).raw = raw ∧ (s.power.diverged = false → (getDie t die).estimate = raw * s.power.corr / 2 ^ 32) ∧
        let why := if s.power.singleLimit then 2 else if s.power.diverged then 7 else 0
        4 ≤ (getDie t die).limit why ∧ (getDie t die).limit why ≤ 64 ∧
        (getDie t die).limit 6 = hostLimit s die)

/-- Budget across modules (R394, R395): the anchor's move adds to the receiver and takes from the lender; a release or a timeout returns
it, and a borrower returns it on silence or the end of its job. -/
def Borrowing : Prop :=
  ∀ (s : State), s.svc.dark = false →
    let b := s.power.borrowed
    let returns := fun (i : Instr) (v : Int) => ∃ t, exec i s = .next t ∧ t.power = { s.power with borrowed := v } ∧ pwrBit t 10
    (∀ n : Nat, b < 0 → returns (.borrowRelease n) (min 0 (b + n))) ∧ (∀ n, 0 ≤ b → exec (.borrowRelease n) s = .next s) ∧
    (∀ c, c = .anchorSilent ∨ c = .jobStopped → (0 < b → returns (.borrowRevert c) 0) ∧ (b ≤ 0 → exec (.borrowRevert c) s = .next s)) ∧
    (b < 0 → returns (.borrowRevert .lenderTimeout) 0) ∧
    (∀ l rs dest lends w, let me := boxIndexOf s (getLoom s l)
      (getLoom s l).st ≠ .free → 2 ≤ boxModules (getLoom s l) → rs.length = boxModules (getLoom s l) →
      (∃ r, r ∈ rs ∧ r.boxIndex = me ∧ r.capInForce = s.power.inForce ∧ r.configured = s.power.cap ∧ r.borrowMax = s.power.borrowMax) →
      budgetMove rs = some (dest, lends, w) → dest ≠ lends → ∃ t, exec (.budgetReport l rs) s = .next t ∧
        t.power.borrowed = (if dest = me then b + w else if lends = me then b - w else b) ∧
        t.reply = [BitVec.ofNat 64 dest, BitVec.ofNat 64 lends, BitVec.ofNat 64 w])

/-- Rails, droops, junctions and host requests (R385 to R388, R482, Table 12-14): the rail reaches its setpoint before a treadle waiting
for it rises; a droop limits to 16/64 and recovers by 8; the THERMAL limit moves by one step a reading, is 4/64 at 105 degrees, and
at 110 the die is switched off and its looms stop; a session sets the treadle limit of its loom. -/
def DieLimits : Prop :=
  ∀ (s : State) (die : Nat), s.svc.dark = false → (getDie s die).on = true →
    let d := getDie s die
    (∃ t, exec (.railSetpointReached die) s = .next t ∧ (getDie t die).rail = d.vset ∧
      (setpoint die d.lowest ≤ d.vset → (getDie t die).treadle = d.lowest)) ∧
    (∃ t, exec (.railFallDelay die) s = .next t ∧ (getDie t die).vset = min d.vset (setpoint die (max d.treadle d.wanted)) ∧
      (getDie t die).rail = min d.rail (getDie t die).vset ∧ (getDie t die).treadle = d.treadle) ∧
    (∃ t, exec (.droop die) s = .next t ∧ (getDie t die).limit 4 = 16 ∧ (getDie t die).treadle ≤ 16) ∧
    exec (.droopRecovery die true) s = .next s ∧
    (∃ t, exec (.droopRecovery die false) s = .next t ∧ (getDie t die).limit 4 = min 64 (d.limit 4 + 8)) ∧
    (∀ T, T < 110 → ∃ t, exec (.thermalLimitTick die T) s = .next t ∧ (getDie t die).tempC = T ∧ (getDie t die).on = true ∧
      (getDie t die).limit 1 = (if 105 ≤ T then 4 else if 100 < T then max 4 (d.limit 1 - 1) else if T < 98 then min 64 (d.limit 1 + 1)
        else d.limit 1) ∧ (100 < T → pwrBit t 8)) ∧
    (∀ T, T < 105 → exec (.junctionLimit die T) s = .next s) ∧
    (∀ T, 105 ≤ T → T < 110 → ∃ t, exec (.junctionLimit die T) s = .next t ∧ (getDie t die).limit 1 = 4 ∧ (getDie t die).treadle ≤ 4 ∧
      pwrBit t 8) ∧
    (∀ T, T < 110 → exec (.thermalTrip die T) s = .next s) ∧
    (∀ T, 110 ≤ T → ∃ t, exec (.thermalTrip die T) s = .next t ∧ (getDie t die).on = false ∧ t.svc.alert = true ∧ pwrBit t 9 ∧
      ∀ l, l ∈ loomsOfDie s die → (getLoom s l).st ∉ [LoomState.free, .stopped, .faulted] → (getLoom t l).st = .faulted) ∧
    (∀ who l v, let n := v.toNat % 2 ^ 7
      (ownsLoom s who l = false ∨ n < 4 ∨ 64 < n → exec (.pwrLoomHostWrite who l v) s = .next s) ∧
      (ownsLoom s who l = true → 4 ≤ n → n ≤ 64 → ∃ t, exec (.pwrLoomHostWrite who l v) s = .next t ∧
        tget 64 t.power.hostTreadle l = n ∧
        (die ∈ (getLoom s l).bays.map dieOfBay → (getDie t die).limit 6 = hostLimit t die)))

/-- The throttle log and the clocks (R389, R398, R399): an episode that has bound nowhere for 100 µs is completed with its length; the
PLL holds its frequency without a reference, and locks to one. -/
def EpisodesAndClocks : Prop :=
  ∀ (s : State), s.svc.dark = false →
    (∀ r n, tfind s.power.openEpisodes r = some n → boundOn s.power.dies r = [] → s.power.episodes.toNat - n ≤ 32 →
      ∃ t, exec (.throttleEpisodeEnd r) s = .next t ∧ tfind t.power.openEpisodes r = none ∧
        let w := (tget 0 s.power.log1 (n % 32)).toNat
        tget 0 t.power.log1 (n % 32) = logWord ((s.tlm.timebase - tget 0 s.power.log0 (n % 32)).toNat / 100) (w / 2 ^ 16 % 2 ^ 8)
          (w / 2 ^ 8 % 2 ^ 8) false r) ∧
    (s.power.refPresent = true → ∃ t, exec .refclkLost s = .next t ∧ t.power.refPresent = false ∧ t.power.holdover = s.power.locked ∧
      t.power.locked = s.power.locked ∧ pwrBit t 11 ∧ t.power.refLoss = min 0xFFFFFFFF (s.power.refLoss + 1)) ∧
    (s.power.refPresent = false → exec .refclkLost s = .next s) ∧
    (s.power.holdover = true → ∃ t, exec .refclkRestored s = .next t ∧ t.power.refPresent = true ∧ t.power.holdover = false ∧ pwrBit t 12) ∧
    (s.power.holdover = false → exec .refclkRestored s = .next s ∧ ∃ t, exec .pllLock s = .next t ∧
      t.power = { s.power with refPresent := true, locked := true } ∧ t.mem = s.mem)
/-! ## Telemetry -/

/-- A bit of TLM_STATUS. -/
def tlmBit (t : State) (bit : Nat) : Prop := (getReg t 0x00900008).getLsbD bit = true

/-- TLM_CONFIG (R405, R410, R413): settings outside their ranges are refused; else they stand, every counter starts again from 0, or from
2^48 less its period when it samples, and both rings start again. -/
def CountersConfigured : Prop :=
  ∀ (s : State) (sess ring : Nat) (t : Taken) (f : TlmConfigF), TakenCmd s sess ring t → t.body = .tlmConfig f →
    (getLoom s t.loom).st = .stopped → (getLoom s t.loom).session = sess →
    let x := getLoom s t.loom
    let v := tlmFields x.tlm f
    (tlmOk x v f = false → Refuses (.tlmConfig sess ring) s sess ring stBad) ∧
    (tlmOk x v f = true → ∃ u, Does (.tlmConfig sess ring) s u sess ring [] ∧ u.mem = s.mem ∧ (∀ k, k ≠ t.loom → getLoom u k = getLoom s k) ∧
      let w := (getLoom u t.loom).tlm
      w.cfg = v.cfg ∧ w.dump = v.dump ∧ w.sample = v.sample ∧ w.dumpSeq = 0 ∧ w.sampleSeq = 0 ∧ w.sampleLost = 0 ∧
        ∀ k n, k ∈ loomTiles x → n < 8 → tget 0 w.totals (k * 256 + n) =
          if (tget 0 v.cfg n).getLsbD 11 then 2 ^ 48 - (tget 0 v.cfg n).toNat / 2 ^ 32 % 2 ^ 32 else 0)

/-- CNT_OVF and SAMPLE_OVERFLOW (R403 to R405, R410): a counter counts one cycle; a carry out of 48 bits overflows, or in a sampling
counter loads its preload and leaves a pending sample, or counts one lost. -/
def Counting : Prop :=
  (∀ (s : State) (l tile n v prev : Nat), s.svc.dark = false → loomOfTile s tile = some l → n < 8 →
    let x := getLoom s l
    let cfg := tget 0 x.tlm.cfg n
    let e := cfg.toNat % 2 ^ 8
    let val := fun k => if e = 0 then 0 else if e = 1 then 1 else k
    let thresh := cfg.toNat / 2 ^ 16 % 2 ^ 16
    let mode := cfg.toNat / 2 ^ 8 % 4
    let amt := if mode = 0 then val v else if mode = 1 then (if thresh < val v then 1 else 0)
      else if mode = 2 then (if val v ≤ thresh then 1 else 0) else if thresh < val v ∧ val prev ≤ thresh then 1 else 0
    let sum := tileCount s x tile n + amt
    cfg.getLsbD 10 = false → tileValueOk x.tlm.strandMask cfg v prev = true → (n < 7 → (tget 0 x.tlm.cfg (n + 1)).getLsbD 10 = false) →
    (cfg.getLsbD 11 = false → ∃ t, exec (.cntOvf (.tile tile n) v prev) s = .next t ∧ t.mem = s.mem ∧
      tileCount t (getLoom t l) tile n = sum % 2 ^ 48 ∧
      (2 ^ 48 ≤ sum → tlmBit t 6 ∧ (getTile t tile).ovf.getLsbD n = true) ∧ (sum < 2 ^ 48 → (getTile t tile).ovf = (getTile s tile).ovf)) ∧
    (cfg.getLsbD 11 = true → e ∉ [2, 3, 8, 11] → ∃ t, exec (.sampleOverflow tile n none v prev) s = .next t ∧ t.mem = s.mem ∧
      (sum < 2 ^ 48 → tileCount t (getLoom t l) tile n = sum) ∧
      (2 ^ 48 ≤ sum → tileCount t (getLoom t l) tile n = (2 ^ 48 - cfg.toNat / 2 ^ 32 % 2 ^ 32) % 2 ^ 48 ∧
        (∃ p, (getTile t tile).sample = some p ∧ ((getTile s tile).sample = none → p.counter = n)) ∧
        ((getTile s tile).sample ≠ none → (getLoom t l).tlm.sampleLost = min 0xFFFFFFFF (x.tlm.sampleLost + 1))))) ∧
  (∀ (s : State) (b n : Nat), s.svc.dark = false → s.tlm.run = true → n < 31 → b < 40 → tget 0 (getBlock s b).cfg n = 2 →
    cfgChain (tget 0 (getBlock s b).cfg (n + 1)) = false → ∀ v, v ≤ 128 →
    let sum := tget 0 (getBlock s b).cnt n + v
    ∃ t, exec (.cntOvf (.die b n) v 0) s = .next t ∧ tget 0 (getBlock t b).cnt n = sum % 2 ^ 48 ∧
      (2 ^ 48 ≤ sum → tlmBit t 6 ∧ (getBlock t b).ovf.getLsbD n = true))

/-- SAMPLE_RECORD and DUMP_SNAPSHOT (R409 to R412): the pending sample of the strand about to issue takes the next number and its
record; a dump takes the next number and its record, or, while the one before is still being written, is counted as missed. -/
def Recording : Prop :=
  (∀ (s : State) (tile strand l : Nat) (insn : W64) (p : PendingSample), s.svc.dark = false → canIssue s { tile, strand } = some l →
    (getTile s tile).sample = some p → p.strand = none ∨ p.strand = some strand →
    (getLoom s l).program[(getStrand s { tile, strand }).pc.toNat]? = some insn → (getLoom s l).tlm.sample ≠ 0 →
    let x := getLoom s l
    let n := x.tlm.sampleSeq + 1
    ∃ t, exec (.sampleRecord tile strand insn) s = .next t ∧ (getTile t tile).sample = none ∧ (getLoom t l).tlm.sampleSeq = n ∧
      t.mem = (objWrite s x x.tlm.sample (n % x.tlm.sampleNrec * 32)
        (sampleBytes s x tile strand p.counter n insn (getStrand s { tile, strand }).pc.toNat)).mem) ∧
  (∀ (s : State) (l : Nat) (r : MapRec), s.svc.dark = false → (getLoom s l).st ≠ .free → (getLoom s l).tlm.dump ≠ 0 →
    s.tlm.timebase.toNat % (getLoom s l).tlm.dumpPeriod = 0 →
    let x := getLoom s l
    let v := x.tlm
    (∃ t, exec (.dumpSnapshot (some l) true) s = .next t ∧ t.mem = s.mem ∧ (getLoom t l).tlm.dumpSeq = v.dumpSeq ∧ tlmBit t 7 ∧
      (getLoom t l).tlm.dumpMissed = min 0xFFFFFFFF (v.dumpMissed + 1)) ∧
    (objRec x v.dump = some r → r.kind = mkStk → (v.dumpSeq + 1) % v.dumpNrec * dumpBytes x + dumpBytes x ≤ r.bytes →
      let n := v.dumpSeq + 1
      let a := r.addr + n % v.dumpNrec * dumpBytes x
      ∃ t, exec (.dumpSnapshot (some l) false) s = .next t ∧ (getLoom t l).tlm.dumpSeq = n ∧ rd t a 8 = n % 2 ^ 64 ∧
        rd t (a + 8) 8 = s.tlm.timebase.toNat ∧
        ∀ b, (b < a ∨ a + dumpBytes x ≤ b) → memGet t.mem b = memGet s.mem b)) ∧
  (∀ (s : State), s.svc.dark = false → s.tlm.run = true → s.tlm.period ≠ 0 → s.tlm.nrec ≠ 0 → s.tlm.ownerValid = true →
    (getSession s s.tlm.owner).opened = true → s.tlm.timebase.toNat % s.tlm.period = 0 →
    (∃ t, exec (.dumpSnapshot none true) s = .next t ∧ t.tlm.dumpMissed = min 0xFFFFFFFF (s.tlm.dumpMissed + 1) ∧ tlmBit t 7) ∧
    let n := s.tlm.dumpSeq + 1
    let len := 64 + (40 + Config.ioDies s.variant) * 256
    ∃ t, exec (.dumpSnapshot none false) s = .next t ∧ t.mem = s.mem ∧ t.tlm.dumpSeq = n ∧
      leNat (memGetN t.hostMem (s.tlm.dumpAddr.toNat + n % s.tlm.nrec * len) 8) = n % 2 ^ 64)

/-- TLM_RUN and TLM_DIE_CFG_WRITE (R402, R404): the telemetry owner runs the die blocks, and sets their period, their ring and their
counters only while they do not run; what it may not set, and what another session writes, is refused with CFG_REJECT. -/
def OwnerWrites : Prop :=
  ∀ (s : State) (who : Accessor) (v : W64), s.svc.dark = false →
    let run := v.getLsbD 5
    let per := v.toNat / 2 ^ 32
    let nrec := v.toNat / 2 ^ 16 % 2 ^ 16
    (sessOf s who = none → exec (.tlmRun who v) s = .next s ∧ ∀ off, exec (.tlmDieCfgWrite who off v) s = .next s) ∧
    (sessOf s who ≠ none → tlmOwner s who = false → ∃ t, exec (.tlmRun who v) s = .next t ∧ tlmBit t 8 ∧ t.tlm = s.tlm) ∧
    (tlmOwner s who = true → s.tlm.run = true → ∃ t, exec (.tlmRun who v) s = .next t ∧ t.tlm = { s.tlm with run } ∧
      (per ≠ s.tlm.period ∨ nrec ≠ s.tlm.nrec → tlmBit t 8)) ∧
    (tlmOwner s who = true → s.tlm.run = false → ∃ t, exec (.tlmRun who v) s = .next t ∧ t.tlm.run = run ∧ t.tlm.nrec = nrec ∧
      t.tlm.period = (if per = 0 ∨ 100 ≤ per ∧ per ≤ 100000000 then per else s.tlm.period) ∧ (run = true → t.tlm.dumpSeq = 0)) ∧
    (∀ d n, sessOf s who ≠ none → d < 40 → n < 32 →
      let off := 0x10000000 + d * 0x01000000 + 0x00890100 + n * 8
      (tlmOwner s who = true → s.tlm.run = false → (n ≠ 0 ∨ v.getLsbD 10 = false) → ∃ t, exec (.tlmDieCfgWrite who off v) s = .next t ∧
        tget 0 (getBlock t d).cfg n = v &&& 0x00000000FFFF07FF ∧ (∀ m, m ≠ n → tget 0 (getBlock t d).cfg m = tget 0 (getBlock s d).cfg m)) ∧
      (tlmOwner s who = false ∨ s.tlm.run = true ∨ (n = 0 ∧ v.getLsbD 10 = true) →
        ∃ t, exec (.tlmDieCfgWrite who off v) s = .next t ∧ tlmBit t 8 ∧ t.tlm = s.tlm))

/-! ## The timebase -/

/-- PPS (R415 to R419): an edge 0.999 s to 1.001 s after the last accepted one is accepted, as is the first; any other is counted and has no
effect. A first edge that finds the timebase more than 1 ms behind steps it forward, and SECONDS sets it. Eight edges in 20 ns align.
A lost, short or open input goes to holdover. -/
def Obligations.PpsInput : Prop :=
  ∀ (s : State), s.svc.dark = false →
    let accepted := fun (err : Int) (t : State) => t.tlm.haveEdge = true ∧ t.tlm.holdover = false ∧
      (-32768 ≤ err → err ≤ 32767 → t.tlm.errNs = err) ∧
      t.tlm.goodEdges = (if -20 ≤ err ∧ err ≤ 20 then s.tlm.goodEdges + 1 else 0) ∧ t.tlm.aligned = decide (8 ≤ t.tlm.goodEdges) ∧
      -1000000 ≤ t.tlm.ratePpb ∧ t.tlm.ratePpb ≤ 1000000 ∧ (s.tlm.holdover = true → tlmBit t 3) ∧
      ∀ n, s.tlm.seconds = some n → t.tlm.seconds = none ∧ t.tlm.timebase =
        if s.tlm.timebase.toNat ≤ n.toNat * 100000000 ∧ n.toNat * 100000000 < 2 ^ 64 then BitVec.ofNat 64 (n.toNat * 100000000)
        else s.tlm.timebase
    let lost := fun (t : State) => t.tlm.holdover = true ∧ t.tlm.haveEdge = false ∧ t.tlm.aligned = false ∧ tlmBit t 2
    (∀ err since, s.tlm.pps = false → exec (.ppsEdge err since) s = .next s) ∧
    (∀ (err : Int) (since : Nat), s.tlm.pps = true → s.tlm.haveEdge = false → ∃ t, exec (.ppsEdge err since) s = .next t ∧ accepted err t ∧
      (s.tlm.seconds = none → t.tlm.timebase = if 1000000 < err then s.tlm.timebase + BitVec.ofNat 64 (err.toNat / 10) else s.tlm.timebase)) ∧
    (∀ (err : Int) (since : Nat), s.tlm.pps = true → s.tlm.haveEdge = true →
      (999000000 ≤ since → since ≤ 1001000000 → ∃ t, exec (.ppsEdge err since) s = .next t ∧ accepted err t ∧
        (s.tlm.seconds = none → t.tlm.timebase = s.tlm.timebase)) ∧
      (since < 999000000 ∨ 1001000000 < since →
        exec (.ppsEdge err since) s = .next { s with tlm := { s.tlm with rejects := min 0xFFFF (s.tlm.rejects + 1) } })) ∧
    (s.tlm.pps = true → s.tlm.holdover = false → (∃ t, exec .ppsLost s = .next t ∧ lost t ∧ t.tlm.ratePpb = s.tlm.ratePpb) ∧
      (s.tlm.shortSeen = false → ∃ t, exec .ppsShort s = .next t ∧ lost t ∧ t.tlm.shortSeen = true ∧ tlmBit t 0) ∧
      (s.tlm.openSeen = false → ∃ t, exec .ppsOpen s = .next t ∧ lost t ∧ t.tlm.openSeen = true ∧ tlmBit t 1)) ∧
    (s.tlm.pps = false ∨ s.tlm.holdover = true → exec .ppsLost s = .next s) ∧
    (∀ o, exec (.ppsFaultClear o) s = .next { s with tlm := (if o then { s.tlm with openSeen := false } else { s.tlm with shortSeen := false }) }) ∧
    exec .ppsInvert s = .next { s with tlm := { s.tlm with inverted := !s.tlm.inverted } }
/-! ## Reliability -/

/-- A bit of SVC_STATUS. -/
def svcBit (t : State) (bit : Nat) : Prop := (getReg t 0x00000028).getLsbD bit = true

/-- Failover, the loss of management, self-tests and the advisory clock (R424 to R430): the partner takes over once; without either die
nothing issues, the links are DOWN and the alert stands; bays under test pass, or fail with their suspect window; where a loom is at
work on them the test asks for its pre-emption once in a SELFTEST_PERIOD, when that is allowed; the bays of a
deleted FAULTED loom return, or are retired; a minute begins a new bucket and drops the sixty-first. -/
def Obligations.CareOfTheModule : Prop :=
  ∀ (s : State), s.svc.dark = false →
    (s.svc.mg0 = true → s.svc.mg1 = true → ∃ t, exec .svcFailover s = .next t ∧ t.svc.active = !s.svc.active ∧ t.svc.mg0 = s.svc.active ∧
      t.svc.mg1 = !s.svc.active ∧ t.svc.failoverSeen = true ∧ svcBit t 1 ∧ t.mem = s.mem) ∧
    (s.svc.mg0 = false ∨ s.svc.mg1 = false → exec .svcFailover s = .next s ∧ ∃ t, exec .managementLoss s = .next t ∧ t.svc.dark = true ∧
      t.svc.alert = true ∧ (∀ d, d < 6 → (getLink s d).st = 1 ∨ (getLink s d).st = 2 → (getLink t d).st = 3) ∧
      ∀ die, exec (.droop die) t = .next t ∧ exec (.diePowerLoop die []) t = .next t) ∧
    (∀ bays failed, bays ≠ [] → bays.Nodup → (∀ b, b ∈ failed → b ∈ bays) →
      (∀ b, b ∈ bays → b < 320 ∧ b ∉ s.svc.retired ∧ b ∉ s.svc.testing ∧ ∀ l, l ∈ liveLooms s → b ∉ (getLoom s l).bays) →
      ∃ t, exec (.baySelftest bays failed) s = .next t ∧ t.mem = s.mem ∧
        (∀ b, b ∈ bays → b ∉ failed → tget 0 t.svc.lastPass b = s.tlm.timebase) ∧
        (failed ≠ [] → svcBit t 3) ∧ t.svc.suspects = s.svc.suspects ++ failed.map fun b => (b, tget 0 s.svc.lastPass b, s.tlm.timebase)) ∧
    (∀ h failed, h < 32 → let bays := (getLoom s h).bays
      bays ≠ [] → bays.Nodup → (getLoom s h).holder = true → (getLoom s h).st ∉ [LoomState.free, .stopped] →
      (∀ b, b ∈ failed → b ∈ bays) → (∀ l, l ∈ liveLooms s → l ≠ h → ∀ b, b ∈ bays → b ∉ (getLoom s l).bays) →
      (s.svc.selftestPreempt = false ∨ (∃ b at_, b ∈ bays ∧ s.svc.testAsked.lookup b = some at_ ∧
        (s.tlm.timebase - at_).toNat < s.svc.selftestHours * 360000000000) → exec (.baySelftest bays failed) s = .next s) ∧
      (s.svc.selftestPreempt = true → (∀ b, b ∈ bays → s.svc.testAsked.lookup b = none) → ∃ t, exec (.baySelftest bays failed) s = .next t ∧
        (∀ b, b ∈ bays → t.svc.testAsked.lookup b = some s.tlm.timebase) ∧
        ((getLoom s h).st = .running → (getLoom s h).ckpt.run = none → (getLoom s h).cmd ≠ none → (getLoom s h).softWait ≠ 0 →
          (getLoom t h).st = .preempting))) ∧
    (∀ bays failed, bays ≠ [] → (∀ b, b ∈ bays → b ∈ s.svc.testing) → (∀ b, b ∈ failed → b ∈ bays) →
      ∃ t, exec (.bayTestComplete bays failed) s = .next t ∧ t.svc.testing = (s.svc.testing.filter fun b => !bays.contains b) ∧
        (∀ b, b ∈ failed → b ∈ t.svc.retired) ∧ (∀ b, b ∈ s.svc.retired → b ∈ t.svc.retired) ∧
        (∀ b, b ∈ bays → dieOfBay b ∈ s.svc.lostDies → b ∈ t.svc.retired) ∧
        ∀ b, b ∈ bays → b ∈ t.svc.retired ∨ tget 0 t.svc.lastPass b = s.tlm.timebase) ∧
    exec .advisoryMinuteTick s = .next { s with svc := { s.svc with
      minute := s.svc.minute + 1, buckets := s.svc.buckets.map fun kv => (kv.1, 0 :: kv.2.take 59) } }

/-! ## Checkpoints -/

/-- CKPT_SET and CKPT_TRIGGER (R432, R433): ranges that do not fit or overlap are refused; a set answers its size; a trigger is refused with
PERMISSION, FENCED, BAD_COMMAND or BUSY, or begins a checkpoint of the step asked for: two past LRN_STEP when the anchor is asked
for none. -/
def CheckpointsBegin : Prop :=
  ∀ (s : State) (sess ring : Nat) (t : Taken), TakenCmd s sess ring t →
    let x := getLoom s t.loom
    let mine := x.st ≠ .free ∧ x.session = sess
    (∀ id auto es, t.body = .ckptSet id auto es → mine → x.st = .stopped →
      let sound := es ≠ [] ∧ es.length ≤ 1024 ∧ (∀ e, e ∈ es → ckptRange x e.obj e.localOff e.elems = true) ∧ ckptDisjoint es = true
      (¬ sound → Refuses (.ckptSet sess ring) s sess ring stBad) ∧
      (sound → ∃ u, Does (.ckptSet sess ring) s u sess ring (toLe 8 (ckptSize u (getLoom u t.loom))) ∧ u.mem = s.mem ∧
        (getLoom u t.loom).ckpt.entries = es ∧ (getLoom u t.loom).ckpt.runId = id ∧
        (getLoom u t.loom).ckpt.auto = auto.getD x.ckpt.auto ∧ ∀ k, k ≠ t.loom → getLoom u k = getLoom s k)) ∧
    (∀ step buffer len, t.body = .ckptTrigger step buffer len →
      let c := Instr.ckptTrigger sess ring
      let st := if step = 0 ∧ isAnchor s x = true then x.lrn.step.toNat + 2 else step.toNat
      (¬ mine → Refuses c s sess ring stPerm) ∧
      (mine → (x.fencedJob = true ∨ x.st = .fenced) → Refuses c s sess ring stFenced) ∧
      (mine → x.fencedJob = false → x.st ≠ .fenced →
        (isAnchor s x = true → st < x.lrn.step.toNat → Refuses c s sess ring stBad) ∧
        ((isAnchor s x = true → x.lrn.step.toNat ≤ st) → x.ckpt.run.isSome = true → Refuses c s sess ring stBusy) ∧
        ((isAnchor s x = true → x.lrn.step.toNat ≤ st) → x.ckpt.run = none → ∃ u r, exec c s = .next u ∧ u.mem = s.mem ∧
          (takenOf u sess ring).map (·.started) = some true ∧ (getLoom u t.loom).ckpt.run = some r ∧ r.step = BitVec.ofNat 64 st ∧
          r.requester = some (sess, ring) ∧ r.buffer = buffer ∧ r.len = len ∧ r.started = isAnchor s x ∧ r.copying = false ∧ r.reports = [])))

/-- CKPT_STARTED, CKPT_DONE and CKPT_REPORT (R434 to R438): a box module takes the step and digest of its anchor; a copy that does not fit
the buffer ends with BAD_COMMAND, and one that meets poison stops its loom; a copy on a module that did not ask for it leaves its shard in the buffer, 128 B after its header, and
is over; on the anchor of a box of one it ends the command, as does another module's failure. -/
def CheckpointsEnd : Prop :=
  ∀ (s : State) (l : Nat), s.svc.dark = false → (getLoom s l).st ≠ .free → (getLoom s l).waitPreempt = none →
    let x := getLoom s l
    let ended := fun (t : State) (r : CkptRun) => (getLoom t l).ckpt.run = none ∧
      ∀ sess ring, r.requester = some (sess, ring) → takenOf s sess ring ≠ none → takenOf t sess ring = none
    (∀ step digest, x.configured = true → isAnchor s x = false → digest.length = 32 → x.fencedJob = false →
      (∀ r, x.ckpt.run = some r → r.started = false → ∃ t, exec (.ckptStarted l step digest) s = .next t ∧ t.mem = s.mem ∧
        (getLoom t l).ckpt.run = some { r with step, digest, started := true }) ∧
      (x.ckpt.run = none → ∃ t r, exec (.ckptStarted l step digest) s = .next t ∧ t.mem = s.mem ∧ svcBit t 4 ∧
        (getLoom t l).ckpt.run = some r ∧ r.step = step ∧ r.digest = digest ∧ r.started = true ∧ r.requester = none ∧ r.copying = false)) ∧
    (∀ r, x.ckpt.run = some r → r.copying = true →
      (r.len < ckptSize s x → ∃ t, exec (.ckptDone l) s = .next t ∧ ended t r ∧ t.mem = s.mem) ∧
      (ckptSize s x ≤ r.len → (∃ q, q ∈ ckptReads x ∧ poisonHit s q.1 q.2 = true) → x.st ∉ [LoomState.stopped, .faulted] →
        ∃ t, exec (.ckptDone l) s = .next t ∧ (getLoom t l).st = .faulted) ∧
      (ckptSize s x ≤ r.len → (∀ q, q ∈ ckptReads x → poisonHit s q.1 q.2 = false) →
        (isAnchor s x = true → boxModules x = 1 → r.started = true →
          ∃ t, exec (.ckptDone l) s = .next t ∧ ended t r ∧ t.mem = s.mem ∧ svcBit t 5) ∧
        (∀ e, isAnchor s x = false → r.requester = none → r.digest.length = 32 → x.ckpt.entries = [e] → (getReg s 0x00000030).getLsbD 5 = false →
          let p := rangeBytes s x e.obj e.localOff e.elems
          ∃ t, exec (.ckptDone l) s = .next t ∧ ended t r ∧ t.mem = s.mem ∧ svcBit t 5 ∧
            (∀ i, i < p.length → memGet t.hostMem (r.buffer.toNat + 128 + i) = p.getD i 0) ∧
            leNat (memGetN t.hostMem (r.buffer.toNat + 8) 8) = r.step.toNat ∧
            ∀ b, (b < r.buffer.toNat ∨ r.buffer.toNat + 128 + p.length ≤ b) → memGet t.hostMem b = memGet s.hostMem b))) ∧
    (∀ r box st n, x.ckpt.run = some r → isAnchor s x = true → box < boxModules x → box ≠ boxIndexOf s x →
      (r.reports.any fun q => q.box = box) = false →
      (stListed st = false → exec (.ckptReport l box st n) s = .next s) ∧
      (stListed st = true → st ≠ stOk → ∃ t, exec (.ckptReport l box st n) s = .next t ∧ ended t r ∧ t.mem = s.mem) ∧
      (st = stOk → r.copying = true → ∃ t q, exec (.ckptReport l box st n) s = .next t ∧ q.box = box ∧ q.bytes = n ∧
        (getLoom t l).ckpt.run = some { r with reports := r.reports ++ [q] } ∧ t.mem = s.mem))

/-- CKPT_RESTORE, RESTORE_REPORT and RESTORE_RELEASE (R440 to R443, Table 14-8): a restore that passes its checks waits for the box; the
reports of a whole box that agree release it; released, its payloads checked, the seed and the step are set and the command ends OK. -/
def Restores : Prop :=
  (∀ (s : State) (sess ring : Nat) (t : Taken) (ms ss : List (W64 × Nat)) (d : RestoreData), TakenCmd s sess ring t →
    t.body = .ckptRestore ms ss → restoreShape d ms ss = true →
    let x := getLoom s t.loom
    let c := Instr.ckptRestore sess ring d
    (x.st = .free ∨ x.session ≠ sess → Refuses c s sess ring stPerm) ∧
    (x.st ≠ .free → x.session = sess → (x.st ≠ .stopped → Refuses c s sess ring stNotStopped) ∧
      (x.st = .stopped →
        (restoreChecks s x d = .error stBad → Refuses c s sess ring stBad) ∧
        ∀ m, restoreChecks s x d = .ok m → 2 ≤ boxModules x → ∃ u r, exec c s = .next u ∧ u.mem = s.mem ∧
          (takenOf u sess ring).map (·.started) = some true ∧ (getLoom u t.loom).ckpt.restore = some r ∧
          r.step.toNat = manStep m ∧ r.runId.toNat = manRunId m ∧ r.digest = sha256 m ∧ r.requester = (sess, ring) ∧ r.released = false))) ∧
  (∀ (s : State) (l : Nat) (r : RestoreRun), s.svc.dark = false → (getLoom s l).ckpt.restore = some r →
    let x := getLoom s l
    (∀ box, r.released = false → box < boxModules x → (r.reports.any fun q => q.box = box) = false →
      (∀ i, i < boxModules x → i ≠ box → (r.reports.any fun q => q.box = i) = true) →
      (∀ q, q ∈ r.reports → q.step = r.step ∧ q.runId = r.runId ∧ q.digest = r.digest) →
      ∃ t r', exec (.restoreReport l box r.runId r.step r.digest) s = .next t ∧ (getLoom t l).ckpt.restore = some r' ∧ r'.released = true ∧
        r'.step = r.step ∧ t.mem = s.mem) ∧
    (r.released = false → exec (.restoreRelease l) s = .next s) ∧
    (r.released = true → (∀ w, w ∈ r.writes → (crc32c w.2.2.payload).toNat = (shardHead w.2.2.header).payloadCrc) →
      ∃ u, exec (.restoreRelease l) s = .next (finish u r.requester.1 r.requester.2 stOk
          (toLe 8 r.runId.toNat ++ toLe 8 r.step.toNat ++ toLe 4 r.pick)) ∧
        (getLoom u l).ckpt.restore = none ∧ (getLoom u l).seed = r.seed ∧ (getLoom u l).lrn.step = r.lrnStep ∧
        (getLoom u l).lrn.stepSum = 0 ∧ (getLoom u l).lrn.bucket = 0 ∧ (r.writes = [] → u.mem = s.mem)))
/-! ## Ports and sessions -/

/-- A bit of HIF_STATUS. -/
def hifBit (t : State) (bit : Nat) : Prop := (getReg t 0x00100100).getLsbD bit = true

/-- The session is closed: its number keeps its generation, and a loom that it alone had is deleted (R250, R458). -/
def sessionGone (s t : State) (n : Nat) : Prop :=
  (getSession t n).opened = false ∧ (getSession t n).sgen = (getSession s n).sgen ∧
  ∀ l, ((liveLooms s).filter fun k => (getLoom s k).session = n) = [l] → (getLoom t l).st = .free

/-- What a response is authentic by (R455): an unexpired challenge for the slot, enabled and not locked, ADMIN in test mode, and the HMAC of
the nonce, the serial number, the port, the function and the slot. -/
def authentic (s : State) (w : Accessor) (slot : Nat) (c : Challenge) : Prop :=
  let k := getSlot s slot
  c.slot = slot ∧ k.enabled = true ∧ k.locked = false ∧ (s.svc.testMode = true → k.admin = true) ∧
  toLe 32 (getFn s w).mac.toNat = hmac256 k.key (toLe 32 c.nonce.toNat ++ toLe 8 Config.serialLo.toNat ++ toLe 8 Config.serialHi.toNat ++
    [BitVec.ofNat 8 w.io, BitVec.ofNat 8 w.fn, BitVec.ofNat 8 slot])

/-- Sessions (R452, R455, R456, R458): a challenge gives a nonce; a response consumes it, and opens the lowest free session with the slot's
rights and its two first rings, is BUSY on a function that has one, or fails, the fifth failure in a row locking the slot; a session
closes; a challenge and a lock expire. -/
def Obligations.Sessions : Prop :=
  ∀ (s : State) (w : Accessor) (slot : Nat), s.svc.dark = false → slot < 16 →
    let f := getFn s w
    let k := getSlot s slot
    (fnReady s w = false → exec (.challenge w slot) s = .next s ∧ exec (.respond w slot) s = .next s ∧ exec (.sessClose w) s = .next s) ∧
    (fnReady s w = true →
      (∃ t n, exec (.challenge w slot) s = .next t ∧ (getFn t w).challenge = some { slot, nonce := n } ∧ (getFn t w).nonce = n ∧
        (getFn t w).voided = false ∧ t.sessions = s.sessions) ∧
      (∀ c, f.challenge = some c → ¬ authentic s w slot c → ∃ t, exec (.respond w slot) s = .next t ∧ (getFn t w).challenge = none ∧
        (getFn t w).lastStatus = stAuthFail ∧ (getFn t w).session = f.session ∧ hifBit t 0 ∧
        (k.locked = false → (getSlot t slot).fails = k.fails + 1 ∧ (getSlot t slot).locked = decide (4 ≤ k.fails) ∧ (4 ≤ k.fails → hifBit t 1))) ∧
      (∀ c, f.challenge = some c → authentic s w slot c → f.session ≠ none → ∃ t, exec (.respond w slot) s = .next t ∧
        (getFn t w).challenge = none ∧ (getFn t w).lastStatus = stBusy ∧ t.sessions = s.sessions) ∧
      (∀ c n, f.challenge = some c → authentic s w slot c → f.session = none → ringRegOk f.ctl = true → ringRegOk f.cpl = true → n < 16 →
        (getSession s n).opened = false → (∀ m, m < n → (getSession s m).opened = true) →
        ∃ t, exec (.respond w slot) s = .next t ∧ (getFn t w).challenge = none ∧ (getFn t w).lastStatus = stOk ∧
          (getFn t w).session = some n ∧ (getSlot t slot).fails = 0 ∧ hifBit t 2 ∧
          let x := getSession t n
          x.opened = true ∧ x.sgen = (getSession s n).sgen + 1 ∧ x.io = w.io ∧ x.fn = w.fn ∧ x.slot = slot ∧ x.admin = k.admin ∧
            x.loomQuota = k.loomQuota ∧ x.bayQuota = k.bayQuota ∧
            (∃ r, tfind x.cmd 0 = some r ∧ r.kind = .control ∧ r.base = f.ctl &&& 0xFFFFFFFFFFFFF000 ∧ r.log2 = f.ctl.toNat % 32) ∧
            ∃ r, tfind x.cpl 0 = some r ∧ r.base = f.cpl &&& 0xFFFFFFFFFFFFF000 ∧ r.log2 = f.cpl.toNat % 32) ∧
      (f.session = none → exec (.sessClose w) s = .next (setFn s w { f with lastStatus := stNoSession })) ∧
      (∀ n, f.session = some n → (getSession s n).opened = true → ∃ t, exec (.sessClose w) s = .next t ∧ sessionGone s t n ∧
        (getFn t w).session = none ∧ (getFn t w).lastStatus = stOk ∧ hifBit t 3)) ∧
    (∃ t, exec (.challengeExpiry w) s = .next t ∧ (getFn t w).challenge = none ∧ t.sessions = s.sessions ∧ t.slots = s.slots) ∧
    (k.locked = true → exec (.authLockExpiry slot) s = .next (setSlot s slot { k with locked := false, fails := 0 })) ∧
    (k.locked = false → exec (.authLockExpiry slot) s = .next s)

/-- Ports (R450, R458, R481): a reset or a lost link of a port, and a reset of its physical function, close every session of the port; a
virtual function's reset closes its own; a port trains at a width and a rate of the link. -/
def Obligations.Ports : Prop :=
  ∀ (s : State) (io : Nat), io < Config.ioDies s.variant →
    let closed := fun (t : State) => ∀ n, n < 16 → (getSession s n).opened = true → (getSession s n).io = io → (getSession t n).opened = false
    (∃ t, exec (.perst io) s = .next t ∧ getPortOf t io = { inReset := true } ∧ closed t ∧ ∀ q, q ≠ io → getPortOf t q = getPortOf s q) ∧
    (∀ vfs, vfs.getD 0 ≤ 16 → ∃ t, exec (.functionLevelReset io 0 vfs) s = .next t ∧ closed t ∧
      getPortOf t io = { getPortOf s io with vfs := vfs.getD (getPortOf s io).vfs }) ∧
    (∀ fn, 1 ≤ fn → fn ≤ 16 → ∃ t, exec (.functionLevelReset io fn none) s = .next t ∧ getPortOf t io = getPortOf s io ∧
      getFn t { io, fn } = {} ∧ ∀ n, n < 16 → (getSession s n).opened = true → (getSession s n).io = io → (getSession s n).fn = fn →
        (getSession t n).opened = false) ∧
    ((getPortOf s io).up = true → ∃ t, exec (.portDown io) s = .next t ∧ getPortOf t io = { vfs := (getPortOf s io).vfs } ∧ closed t ∧
      hifBit t 5) ∧
    ((getPortOf s io).up = false → exec (.portDown io) s = .next s) ∧
    (∀ width rate flit, width ∈ [1, 2, 4, 8, 16] → 1 ≤ rate → rate ≤ 6 → s.svc.st ≠ .boot → s.svc.st ≠ .recovery →
      ∃ t, exec (.hostLinkUp io width rate flit) s = .next t ∧ t.mem = s.mem ∧ t.sessions = s.sessions ∧
        getPortOf t io = { up := true, width, rate, flit, vfs := (getPortOf s io).vfs })

/-! ## Rings -/

/-- Doorbells, fetches and interrupts (R459 to R463): a producer count that fits its ring stands, one that does not is a RING_FAULT; the
entry at the head is taken when its completion has room, refused at once, with its TAG or, for RUN, its CMD_ID (Table 15-3), when it is
not the session's or not in order; consumer counts
stand as written; a moderated interrupt is raised once for what has arrived. -/
def Obligations.RingTraffic : Prop :=
  (∀ (s : State) (w : Accessor) (n ring : Nat) (v : W64), s.svc.dark = false → sessOf s w = some n →
    (∀ r, tfind (getSession s n).cmd ring = some r → engineOwned s n ring = false →
      let tail : BitVec 16 := v.setWidth 16
      ((tail - r.head).toNat ≤ 2 ^ r.log2 → ∃ t, exec (.cmdDoorbell w ring v) s = .next t ∧ t.mem = s.mem ∧
        tfind (getSession t n).cmd ring = some { r with tail }) ∧
      (2 ^ r.log2 < (tail - r.head).toNat → ∃ t, exec (.cmdDoorbell w ring v) s = .next t ∧ hifBit t 4 ∧
        tfind (getSession t n).cmd ring = some r)) ∧
    (∀ r, tfind (getSession s n).cpl ring = some r → ∃ t, exec (.cplHeadWrite w ring v) s = .next t ∧ t.mem = s.mem ∧
      tfind (getSession t n).cpl ring = some { r with head := v.setWidth 16 }) ∧
    (∀ r, (getSession s n).evt = some r → ∃ t, exec (.evtRingHeadWrite w v) s = .next t ∧ t.mem = s.mem ∧
      (getSession t n).evt = some { r with head := v.setWidth 16 })) ∧
  (∀ (s : State) (n ring : Nat) (r : CmdRing) (e : CmdEntry), s.svc.dark = false → (getSession s n).opened = true →
    tfind (getSession s n).cmd ring = some r → r.kind = .control → r.stopped = false → r.taken = none → r.tail ≠ r.head →
    (e.fetchError = true → ∃ t r', exec (.commandFetch n ring e) s = .next t ∧ hifBit t 4 ∧ tfind (getSession t n).cmd ring = some r' ∧
      r'.stopped = true ∧ r'.head = r.head) ∧
    (e.fetchError = false → cplRoom (getSession s n) ring = true →
      let mine := e.session = n ∧ e.sgen = (getSession s n).sgen.toNat
      let tag := if e.opcode % 256 = 0 then BitVec.ofNat 32 (fieldAt e.body 0x14 4) else e.tag
      let refused := fun (st : Byte) => exec (.commandFetch n ring e) s = .next (postCpl (takeEntry s n ring 1) n ring st (e.opcode % 256) tag [])
      (¬ mine → refused stNoSession) ∧
      (mine → entryShape e = false ∨ parseBody e.opcode e.body = none → refused stBad) ∧
      (∀ b, mine → entryShape e = true → parseBody e.opcode e.body = some b → ∃ t r', exec (.commandFetch n ring e) s = .next t ∧
        t.mem = s.mem ∧ t.hostMem = s.hostMem ∧ tfind (getSession t n).cmd ring = some r' ∧ r'.head = r.head + 1 ∧
        r'.taken = some { opcode := e.opcode, loom := e.loom % 32, tag := e.tag, body := b, started := false }))) ∧
  (∀ (s : State) (n c : Nat) (r : OutRing) (byTime : Bool), s.svc.dark = false → tfind (getSession s n).cpl c = some r →
    0 < r.unread → 0 < r.since → (byTime = true ∨ r.countMod ≤ r.since) → ∃ t, exec (.msixModeration n (some c) byTime) s = .next t ∧
      t.reply = [BitVec.ofNat 64 r.vector] ∧ t.mem = s.mem ∧
      tfind (getSession t n).cpl c = some { r with since := 0, irqs := r.irqs + 1 })

/-- RING_CREATE, RING_DELETE and SESSION_CLOSE (R458, R459): a ring takes the lowest free number of its kind, which is the result; a ring a
loom names is BUSY; a ring deleted and a session closed are gone once the command has ended. -/
def RingCommands : Prop :=
  ∀ (s : State) (sess ring : Nat) (t : Taken), TakenCmd s sess ring t →
    let x := getSession s sess
    (∀ f, t.body = .ringCreate f →
      let sound := f.base.toNat % 4096 = 0 ∧ 6 ≤ f.log2 ∧ f.log2 ≤ 16 ∧ 1 ≤ f.count.getD 1 ∧ f.count.getD 1 ≤ 256 ∧ f.time.getD 0 ≤ 1000 ∧
        f.vector.getD 0 ≤ 2047 ∧ (f.kind = .control ∨ f.kind = .dobby → tfind x.cpl (f.cplRing.getD 0) ≠ none)
      (¬ sound → Refuses (.ringCreate sess ring) s sess ring stBad) ∧
      (∀ k, sound → f.kind = .control ∨ f.kind = .dobby → freeKey x.cmd 64 = some k → allCmdRings s < 1024 →
        ∃ u, Does (.ringCreate sess ring) s u sess ring [BitVec.ofNat 8 k] ∧ u.mem = s.mem ∧ tfind (getSession u sess).cmd k =
          some { kind := f.kind, base := f.base, log2 := f.log2, cpl := f.cplRing.getD 0 }) ∧
      (∀ k, sound → f.kind = .completion → freeKey x.cpl 16 = some k → allCplRings s < 256 →
        ∃ u, Does (.ringCreate sess ring) s u sess ring [BitVec.ofNat 8 k] ∧ ∃ r, tfind (getSession u sess).cpl k = some r ∧ r.base = f.base ∧
          r.log2 = f.log2 ∧ r.vector = f.vector.getD 0 ∧ r.written = 0) ∧
      (sound → f.kind = .event → x.evt = none → ∃ u, Does (.ringCreate sess ring) s u sess ring [0] ∧
        ∃ r, (getSession u sess).evt = some r ∧ r.base = f.base ∧ r.log2 = f.log2) ∧
      (sound → (f.kind = .event ∧ x.evt ≠ none) ∨ (f.kind = .completion ∧ (freeKey x.cpl 16 = none ∨ 256 ≤ allCplRings s)) ∨
          ((f.kind = .control ∨ f.kind = .dobby) ∧ (freeKey x.cmd 64 = none ∨ 1024 ≤ allCmdRings s)) → Refuses (.ringCreate sess ring) s sess ring stFull)) ∧
    (∀ kind k, t.body = .ringDelete kind k →
      (∀ st, ringDeletable s sess kind k = some st → Refuses (.ringDelete sess ring) s sess ring st) ∧
      (ringDeletable s sess kind k = none → ∃ u, exec (.ringDelete sess ring) s = .next u ∧ u.mem = s.mem ∧
        (kind = .control ∨ kind = .dobby → tfind (getSession u sess).cmd k = none) ∧
        (kind = .completion → tfind (getSession u sess).cpl k = none) ∧ (kind = .event → (getSession u sess).evt = none))) ∧
    (t.body = .sessionClose → x.opened = true → ∃ u, exec (.sessionClose sess ring) s = .next u ∧ sessionGone s u sess ∧ hifBit u 3)

/-- XFER_TO_DEV and XFER_FROM_DEV (R465): a length that is not a multiple of 4 or is above 1 GiB is BAD_COMMAND, a range the map does not give
the loom PERMISSION, a tile store the loom is not on BUSY; else the bytes are written, or read into host memory, and their count is
the result. -/
def HostTransfers : Prop :=
  ∀ (s : State) (sess ring : Nat) (t : Taken) (host dev : W64) (len : Nat), TakenCmd s sess ring t →
    let x := getLoom s t.loom
    let a := dev.toNat
    let mine := x.st ≠ .free ∧ x.session = sess ∧ mapGives s.variant x a len = true
    let away := 0x1000000000000000 ≤ a ∧ a < 0x1000000000000000 + 5120 * 2 ^ 23 ∧ x.holder = false ∧ (x.st ≠ .stopped ∨ x.lastHolder = false)
    let sized := len % 4 = 0 ∧ len ≤ 2 ^ 30
    (∀ bytes, t.body = .xferToDev host dev len → bytes.length = len →
      let c := Instr.xferToDev sess ring bytes
      (¬ sized → Refuses c s sess ring stBad) ∧
      (sized → ¬ mine → Refuses c s sess ring stPerm) ∧
      (sized → mine → away → Refuses c s sess ring stBusy) ∧
      (sized → mine → ¬ away → uncopied s a len = none → x.hot = [] → writeBlocked s a len = false →
        ∃ u, Does c s u sess ring (toLe 8 len) ∧ (∀ k, k ≠ t.loom → getLoom u k = getLoom s k) ∧
          getLoom u t.loom = { x with rowWaits := (getLoom u t.loom).rowWaits } ∧ (x.rowWaits = [] → u.looms = s.looms) ∧
          storesTo s.mem u.mem ((List.range len).map fun i => (a + i, bytes.getD i 0)))) ∧
    (t.body = .xferFromDev host dev len →
      let c := Instr.xferFromDev sess ring
      (¬ sized → Refuses c s sess ring stBad) ∧
      (sized → ¬ mine → Refuses c s sess ring stPerm) ∧
      (sized → mine → away → Refuses c s sess ring stBusy) ∧
      (sized → mine → ¬ away → x.hot = [] → poisonHit s a len = false → ∃ u, Does c s u sess ring (toLe 8 len) ∧ u.mem = s.mem ∧
        storesTo s.hostMem u.hostMem ((List.range len).map fun i => (host.toNat + i, memGet s.mem (a + i)))) ∧
      (sized → mine → ¬ away → x.hot = [] → poisonHit s a len = true → ∃ u, exec c s = .next (finish u sess ring stUncorr) ∧ u.mem = s.mem ∧
        ∀ b, (b < host.toNat ∨ host.toNat + len ≤ b) → memGet u.hostMem b = memGet s.hostMem b))
/-! ## The console -/

/-- A login is open on a module that answers. -/
def consoleOpen (s : State) : Prop := s.console.loggedIn = true ∧ s.svc.dark = false ∧ s.svc.st ≠ .recovery

/-- Passwords and logins (R453, R454): the first password within 10 min of reset, of 12 to 64 B, is kept as its salt and hash; a login
compares them, and the fifth failure in a row locks the console; a login ends on logout or by time, a lock after 300 s. -/
def Logins : Prop :=
  ∀ (s : State), s.svc.dark = false →
    (∀ pw salt, 12 ≤ pw.length → pw.length ≤ 64 → salt.length = 16 →
      (s.svc.st = .starting ∨ s.svc.st = .ready → s.console.hasPassword = false → s.tlm.timebase.toNat < 10 * 60 * 100000000 →
        exec (.consoleSetup pw salt) s =
          .next { s with console := { s.console with salt, hash := pbkdf2 pw salt 100000, hasPassword := true } }) ∧
      (s.console.hasPassword = true → exec (.consoleSetup pw salt) s = .next s) ∧
      (consoleOpen s → exec (.passwordChange pw salt) s =
          .next { s with console := { s.console with salt, hash := pbkdf2 pw salt 100000, hasPassword := true } })) ∧
    (∀ pw, s.svc.st = .starting ∨ s.svc.st = .ready → s.console.hasPassword = true →
      (s.console.locked = true → exec (.consoleLogin pw) s = .next s) ∧
      (s.console.locked = false → pbkdf2 pw s.console.salt 100000 = s.console.hash →
        exec (.consoleLogin pw) s = .next { s with console := { s.console with loggedIn := true, fails := 0 } }) ∧
      (s.console.locked = false → pbkdf2 pw s.console.salt 100000 ≠ s.console.hash → ∃ t, exec (.consoleLogin pw) s = .next t ∧
        t.console.loggedIn = s.console.loggedIn ∧ t.console.fails = s.console.fails + 1 ∧
        t.console.locked = decide (4 ≤ s.console.fails) ∧ (4 ≤ s.console.fails → svcBit t 6))) ∧
    (consoleOpen s → exec .consoleLogout s = .next { s with console := { s.console with loggedIn := false } }) ∧
    exec .consoleLoginTimeout s = .next { s with console := { s.console with loggedIn := false } } ∧
    (s.console.locked = true → exec .consoleLockExpiry s = .next { s with console := { s.console with locked := false, fails := 0 } })

/-- The console's settings (R380, R395, R402, R415, R416, R427, R430, R452, R467 to R469): without a login none has an effect; with one, a
value in range takes effect, and one out of range does not. -/
def ConsoleSettings : Prop :=
  ∀ (s : State), 
    (s.console.loggedIn = false → ∀ i, i ∈ [Instr.consoleLogout, .commitSvn] ∨ (∃ w, i = .capSet w) ∨ (∃ a b c d, i = .pwrCtrlSet a b c d) ∨
      (∃ o, i = .telemetryOwnerSet o) ∨ (∃ a b c, i = .timebaseSet a b c) ∨ (∃ a b, i = .advisoryThresholdSet a b) ∨
      (∃ a b, i = .selftestPeriodSet a b) ∨ (∃ a b, i = .keySlotWrite a b) ∨ (∃ c, i = .coordinateSet c) ∨ (∃ e, i = .testMode e) ∨
      (∃ a b, i = .passwordChange a b) → exec i s = .next s) ∧
    (consoleOpen s →
      (∀ w, 3000 ≤ w → w ≤ 15000 → w % 50 = 0 → ∃ t, exec (.capSet w) s = .next t ∧ t.power.cap = w ∧
        t.power.borrowed = min 0 s.power.borrowed ∧ (0 < s.power.borrowed → pwrBit t 10)) ∧
      (∀ w, w < 3000 ∨ 15000 < w ∨ w % 50 ≠ 0 → exec (.capSet w) s = .next s) ∧
      (∀ bm u r m, bm.getD s.power.borrowMax ≤ 3000 → bm.getD s.power.borrowMax % 50 = 0 → m.getD 0 ≤ 1 →
        ∃ t, exec (.pwrCtrlSet bm u r m) s = .next t ∧ t.power.borrowMax = bm.getD s.power.borrowMax ∧
          t.power.uniform = u.getD s.power.uniform ∧ t.power.autoReturn = r.getD s.power.autoReturn ∧
          t.power.share = (match m with | none => s.power.share | some k => decide (k = 1)) ∧
          (s.power.share = false → m = some 1 → s.power.a.st = .good → s.power.b.st = .good →
            t.power.a.carrying = true ∧ t.power.b.carrying = true) ∧
          (s.power.share = true → m = some 0 → s.power.a.st = .good → s.power.b.st = .good →
            t.power.a.carrying = true ∧ t.power.b.carrying = false)) ∧
      (∀ n, n < 16 → exec (.telemetryOwnerSet (some n)) s = .next { s with tlm := { s.tlm with ownerValid := true, owner := n } }) ∧
      (exec (.telemetryOwnerSet none) s = .next { s with tlm := { s.tlm with ownerValid := false, owner := 0 } }) ∧
      (∀ off : Int, -32768 ≤ off → off ≤ 32767 → exec (.timebaseSet none (some off) none) s = .next { s with tlm := { s.tlm with offsetNs := off } }) ∧
      (∀ m, m ≠ s.tlm.pps → -32768 ≤ s.tlm.offsetNs → s.tlm.offsetNs ≤ 32767 → ∃ t, exec (.timebaseSet (some m) none none) s = .next t ∧
        t.tlm.pps = m ∧ t.tlm.haveEdge = false ∧ t.tlm.goodEdges = 0 ∧ t.tlm.holdover = false ∧ t.tlm.ratePpb = 0 ∧
        t.tlm.timebase = s.tlm.timebase) ∧
      (∀ n : W64, -32768 ≤ s.tlm.offsetNs → s.tlm.offsetNs ≤ 32767 →
        (s.tlm.timebase.toNat ≤ n.toNat * 100000000 → n.toNat * 100000000 < 2 ^ 64 → ∃ t, exec (.timebaseSet none none (some n)) s = .next t ∧
          t.tlm.seconds = some n ∧ t.tlm.timebase = s.tlm.timebase) ∧
        (n.toNat * 100000000 < s.tlm.timebase.toNat → ∃ t, exec (.timebaseSet none none (some n)) s = .next t ∧
          t.tlm.seconds = s.tlm.seconds ∧ tlmBit t 5)) ∧
      (∀ c n, 1 ≤ c → c ≤ 9 → ∃ t, exec (.advisoryThresholdSet c n) s = .next t ∧ causeThreshold t c = n ∧
        ∀ d, d ≠ c → causeThreshold t d = causeThreshold s d) ∧
      (∀ h p, 1 ≤ h → h ≤ 168 → exec (.selftestPeriodSet (some h) (some p)) s =
        .next { s with svc := { s.svc with selftestHours := h, selftestPreempt := p } }) ∧
      (∀ c, coordOk c = true → exec (.coordinateSet c) s = .next { s with svc := { s.svc with coord := c } }) ∧
      (∀ c, coordOk c = false → exec (.coordinateSet c) s = .next s) ∧
      (exec (.testMode false) s = .next { s with svc := { s.svc with testMode := false } }) ∧
      (liveLooms s = [] → exec (.testMode true) s = .next { s with svc := { s.svc with testMode := true } }) ∧
      (liveLooms s ≠ [] → exec (.testMode true) s = .next s) ∧
      (∀ slot w, slot < 16 → w.loomQuota.getD 0 ≤ 32 → w.bayQuota.getD 0 ≤ 320 → (∀ k, w.key = some k → k.length = 32) →
        ∃ t, exec (.keySlotWrite slot w) s = .next t ∧ (getSlot t slot).key = w.key.getD (getSlot s slot).key ∧
          (getSlot t slot).enabled = w.enabled.getD (getSlot s slot).enabled ∧ (getSlot t slot).admin = w.admin.getD (getSlot s slot).admin ∧
          ∀ n, n < 16 → (getSession s n).opened = true → (getSession s n).slot = slot → (getSession t n).opened = false))

/-- Images (R468, R469): when the started image does not reach READY the other is started if it is valid, and with none the module is in
RECOVERY with the alert; an update goes to the image that does not run and is staged when it is valid; SVN_MIN rises to the running
image's SVN when both images are valid and reach it. -/
def Images : Prop :=
  ∀ (s : State), s.svc.dark = false →
    (∀ b, (s.svc.st = .boot ∧ bootChoice s = some b) ∨ (s.svc.st = .starting ∧ s.svc.imageB = b) → ∃ t, exec .bootFallback s = .next t ∧
      if (validOf s (!b)).isSome then t.svc.st = .starting ∧ t.svc.imageB = !b ∧ t.svc.fallback = true ∧ svcBit t 2
      else t.svc.st = .recovery ∧ t.svc.alert = true) ∧
    (∀ i : Image, (s.svc.st = .recovery ∨ s.console.loggedIn = true) → i.header.length = 512 → i.body.length ≤ 32 * 2 ^ 20 - 512 →
      let toB := (s.svc.st = .starting ∨ s.svc.st = .ready) ∧ s.svc.imageB = false ∧ s.svc.flashA ≠ none
      ∃ t, exec (.firmwareUpdate i) s = .next t ∧ t.svc.staged = imageValid s.svc.svnMin i ∧ (imageValid s.svc.svnMin i = true → svcBit t 7) ∧
        (toB → t.svc.flashB = some i ∧ t.svc.flashA = s.svc.flashA) ∧ (¬ toB → t.svc.flashA = some i ∧ t.svc.flashB = s.svc.flashB)) ∧
    ∀ r, consoleOpen s → runningImage s = some r → exec .commitSvn s = .next
      (match validOf s false, validOf s true with
      | some a, some b => if imgSvn r ≤ imgSvn a ∧ imgSvn r ≤ imgSvn b then
          { s with svc := { s.svc with svnMin := max s.svc.svnMin (imgSvn r) } } else s
      | _, _ => s)

/-- START_UP and MODULE_RESET (Table 15-8, R470, R480): with an input GOOD, the PLL locked, a management die and an image, the module is
READY on the valid image of the higher version, or on the one a fallback has started; dies that pass are on at 64/64, the others'
bays are retired and the alert stands; edges and stacks take what was found and LINK_COORD the stored coordinate. Without a valid
image it is in RECOVERY with the alert, and without a locked reference nothing starts. A reset keeps what is fused, flashed, stored by the console or driven from outside. -/
def StartAndReset : Prop :=
  (∀ (s : State) (f : StartFinding), s.power.locked = false ∨ s.power.refPresent = false → exec (.startUp f) s = .next s) ∧
  (∀ (s : State) (f : StartFinding), s.power.a.st = .good ∨ s.power.b.st = .good → s.power.locked = true → s.power.refPresent = true →
    f.mg0Pass = true ∨ f.mg1Pass = true → f.lanes = [] → f.partners = [] →
    let ready := fun (t : State) (b : Bool) => t.svc.st = .ready ∧ t.svc.imageB = b ∧ t.svc.pwrGood = true ∧ t.svc.mg0 = f.mg0Pass ∧
      t.svc.mg1 = f.mg1Pass ∧ t.svc.active = !f.mg0Pass ∧ t.mem = s.mem ∧
      (∀ d, d < 40 → d ∉ f.badDies → (getDie t d).on = true ∧ (getDie t d).treadle = 64 ∧ (getDie t d).rail = setpoint d 64) ∧
      (∀ d k, d < 40 → d ∈ f.badDies → k < 8 → 8 * d + k ∈ t.svc.retired ∧ t.svc.alert = true) ∧
      (∀ k, k < 320 → k ∈ f.badBays → k ∈ t.svc.retired) ∧
      (∀ e, e < 67 → (getReg t (0x00B00100 + e * 0x10)).toNat = tget 0xFF f.edgeModules e % 256 * 2 ^ 8 +
        (let n := ((List.range 8).filter fun i => (tget 0xFF f.edgeModules e % 256).testBit i).length
         if n = 8 then 1 else if 4 ≤ n then 2 else 3)) ∧
      (∀ n, n < Config.stackNum s.variant → (getReg t (0x00A00100 + n * 0x20)) = if n ∈ f.readyStacks then 0x28 else 0x30) ∧
      getReg t 0x00708000 = s.svc.coord.setWidth 64
    (s.svc.st = .starting → ∃ t, exec (.startUp f) s = .next t ∧ ready t s.svc.imageB) ∧
    (s.svc.st = .boot → ∃ t, exec (.startUp f) s = .next t ∧ match validOf s false, validOf s true with
      | none, none => t.svc.st = .recovery ∧ t.svc.alert = true
      | some _, none => ready t false
      | none, some _ => ready t true
      | some a, some b => ready t (decide (imgVer a < imgVer b)))) ∧
  ∀ s : State, ∃ t, exec .moduleReset s = .next t ∧ t.mem = [] ∧ t.looms = [] ∧ t.sessions = [] ∧ t.tiles = [] ∧ t.regs = [] ∧ t.svc.st = .boot ∧
    t.svc.dark = false ∧ t.tlm.timebase = 0 ∧ t.console.loggedIn = false ∧ t.console.hash = s.console.hash ∧ t.svc.flashA = s.svc.flashA ∧
    t.svc.flashB = s.svc.flashB ∧ t.svc.svnMin = s.svc.svnMin ∧ t.svc.coord = s.svc.coord ∧ t.hostMem = s.hostMem ∧ t.power.a = s.power.a ∧
    t.power.b = s.power.b ∧ t.pending = s.pending ∧ t.variant = s.variant

/-- The link ports and the side bus (R466, R482, R490): a port that overloads is off and its lanes drop, until a retry succeeds; one
without a partner is not driven; a stuck line is released; PLDM reads a sensor and the identity words. -/
def PortsAndSensors : Prop :=
  ∀ (s : State) (io dir : Nat), io < Config.ioDies s.variant → dir < 6 →
    ((io, dir) ∉ s.svc.aux → ∃ t, exec (.auxOverload io dir) s = .next t ∧ (io, dir) ∈ t.svc.aux ∧
      ∀ i, i < 4 → laneUp t io (4 * dir + i) = false) ∧
    (∃ t, exec (.auxRetry io dir true) s = .next t ∧ (io, dir) ∉ t.svc.aux ∧ (∀ p, p ≠ (io, dir) → (p ∈ t.svc.aux ↔ p ∈ s.svc.aux))) ∧
    exec (.auxRetry io dir false) s = .next s ∧
    (∃ t, exec (.linkPortPresence io dir true) s = .next t ∧ (io, dir) ∉ t.svc.absent ∧ t.regs = s.regs) ∧
    (∃ t, exec (.linkPortPresence io dir false) s = .next t ∧ (io, dir) ∈ t.svc.absent ∧ ∀ i, i < 4 → laneUp t io (4 * dir + i) = false) ∧
    exec .sdaStuckLow s = .next { s with svc := { s.svc with sdaReleased := true } } ∧
    (s.svc.dark = false → (s.svc.st = .starting ∨ s.svc.st = .ready) →
      exec (.pldmMonitorRead .modulePower) s = .next { s with reply := [BitVec.ofNat 64 s.power.measured] } ∧
      (∀ b, exec (.pldmMonitorRead (.voltage b)) s = .next { s with reply := [BitVec.ofNat 64 (if b then s.power.b else s.power.a).v10mv] }) ∧
      (∀ d, d < 40 → exec (.pldmMonitorRead (.dieTemp d)) s = .next { s with reply := [BitVec.ofNat 64 (getDie s d).tempC] }) ∧
      exec .pldmFruRead s = .next { s with reply := idWords s }) ∧
    (s.svc.dark = false → s.svc.st = .recovery → exec (.pldmMonitorRead .modulePower) s = .next s)
/-! ## Registers, reset and the queue -/

/-- RC_REGISTER_READ and REGISTER_WRITE (R12, R13, R17, R194, R457, Table 0-4): an access that is not 32 or 64 bits, aligned and in BAR0 reads 0; a
read answers the register, or the half addressed, and clears a read-to-clear count for the session that owns it; a 1 written to an event's
status clears it and an enable stands as written, for an ADMIN session alone. -/
def RegisterAccess : Prop :=
  ∀ (s : State) (w : Accessor),
    (barReady s w = false → ∀ off n v, exec (.rcRegisterRead w off n) s = .next s ∧ exec (.registerWrite w off n v) s = .next s) ∧
    (barReady s w = true →
      (∀ off n, accessOk off n = false → exec (.rcRegisterRead w off n) s = .next { s with reply := [0] }) ∧
      (∀ n off, off % 8 = 0 → off < 0x00A00000 → ∃ t, exec (.rcRegisterRead w off 8) s = .next t ∧
        t.reply = [BitVec.ofNat 64 (readReg s w off)] ∧ t.mem = s.mem ∧ (n < 2 → ∃ u, exec (.rcRegisterRead w (off + 4 * n) 4) s = .next u ∧
          u.reply = [BitVec.ofNat 64 (readReg s w off / 2 ^ (32 * n) % 2 ^ 32)])) ∧
      (∀ l n, l < 32 → n < 2 → (getLoom s l).st ≠ .free → sessOf s w = some (getLoom s l).session →
        (∃ t, exec (.rcRegisterRead w (0x00300108 + l * 0x20 + 4 * n) 4) s = .next t ∧ (getLoom t l).hotHits = 0 ∧
          (getLoom t l).hotMisses = (getLoom s l).hotMisses) ∧
        ∃ t, exec (.rcRegisterRead w (0x00500110 + l * 0x40) 8) s = .next t ∧ getReg t (0x00500110 + l * 0x40) = 0) ∧
      (∀ x v, x ∈ allSrc → (w.fn ≠ 0 → adminOf s w = true →
          (∃ t, exec (.registerWrite w x.status 8 v) s = .next t ∧ getReg t x.status = getReg s x.status &&& ~~~(v &&& evtMask x)) ∧
          ∃ t, exec (.registerWrite w (x.status + 8) 8 v) s = .next t ∧
            getReg t (x.status + 8) = (getReg s (x.status + 8) &&& ~~~(evtMask x)) ||| (v &&& evtMask x)) ∧
        (adminOf s w = false → exec (.registerWrite w x.status 8 v) s = .next s ∧ exec (.registerWrite w (x.status + 8) 8 v) s = .next s)))

/-- The counter clears (R180, R201, R261, R457): for an ADMIN session every counter named reads 0, for any other nothing changes. -/
def CounterClears : Prop :=
  ∀ (s : State) (w : Accessor), barReady s w = true →
    let cmds := [Instr.clearStk w, .clearTs w, .fabCntClear w, .collCntClear w, .linkCntClear w]
    (adminOf s w = false → ∀ i, i ∈ cmds → exec i s = .next s) ∧
    (adminOf s w = true → ∃ t1 t2 t3 t4 t5, exec (.clearStk w) s = .next t1 ∧ exec (.clearTs w) s = .next t2 ∧ exec (.fabCntClear w) s = .next t3 ∧
      exec (.collCntClear w) s = .next t4 ∧ exec (.linkCntClear w) s = .next t5 ∧
      (∀ n o, n < Config.stackNum s.variant → o ∈ [8, 0x10, 0x18] → getReg t1 (0x00A00100 + n * 0x20 + o) = 0) ∧
      (∀ b o, b < 320 → o ∈ [0, 8] → getReg t2 (0x10000000 + b / 8 * 0x01000000 + 0x008A0000 + b % 8 * 0x10 + o) = 0 ∧
        getReg t2 (0x00A00040 + o) = 0) ∧
      (∀ e, e < 67 → getReg t3 (0x00B00100 + e * 0x10 + 8) = 0) ∧
      (∀ d r, d < 40 → r < 16 → getReg t3 (0x10000000 + d * 0x01000000 + 0x008B0000 + r * 8) = 0) ∧
      getReg t4 0x00700038 = 0 ∧ (∀ l, l < 32 → (getLoom s l).st ≠ .free → (getLoom t4 l).drops = 0) ∧
      (∀ d, d < 6 → getReg t5 (0x00708108 + d * 0x10) = 0) ∧ ∀ io, io < Config.ioDies s.variant → getReg t5 (0x00708208 + io * 0x10) = 0)

/-- The module after reset: nothing waits and nothing is open, both memories are empty and in their form, and the registers of these
tables read the values the manual gives them. -/
def Obligations.ResetState : Prop :=
  let s := State.reset
  s.pending = [] ∧ s.MemOk ∧ s.looms = [] ∧ s.sessions = [] ∧ s.svc.st = .boot ∧ s.tlm.timebase = 0 ∧ s.evseq = 0 ∧
  s.power.cap = 15000 ∧ s.power.inForce = 15000 ∧ s.power.borrowMax = 1000 ∧ s.power.uniform = true ∧ s.power.share = false ∧
  (∀ x, x ∈ allSrc → getReg s x.status = 0 ∧ getReg s (x.status + 8) = (match x with
    | .mem => 0x1FF | .fab => 0x1F | .lmgr => 0x7F | .coll => 0x1FF | .link => 0x1F | .lrn => 0x3C | .srv => 0xFF | .shed => 0x73C
    | .pwr => 0x1FFF | .tlm => 0x13F | .svc => 0xFF | .hif => 0x3F)) ∧
  getReg s 0x00A00030 = 0x8000003C ∧ getReg s 0x00300008 = 0x80040064 ∧ getReg s 0x00708000 = 0x1240 ∧
  ∀ d, d < 40 → getReg s (0x00700100 + d * 8) = 0xF

/-- No batch step of a loom but those named commits. -/
def commitsOnly (s : State) (ls : List Nat) : Prop :=
  ∀ l f, l < 32 → l ∉ ls → (getLoom s l).srv.formed = some f → f.committing = false

/-- No matrix command is in flight, and no request or frame waits to be sent. -/
def tilesRest (s : State) : Prop :=
  (∀ q, q ∈ s.tiles → q.2.running = [] ∧ q.2.ops = []) ∧
  ∀ l tile q, l < 32 → tile ∈ loomTiles (getLoom s l) → q ∈ (tileOf s l tile).sentFrames → q.waiting = false

/-- An idle tick (the model's choice, log 2): with no command waiting the timebase of a READY module counts one, or 0 to 2 while a rate
correction is in force; a matrix engine admits a column, and a batch step whose commands have ended commits one event; and where
there is nothing of that kind to do, nothing else changes but the free counter. -/
def Obligations.IdleTick : Prop :=
  ∀ s : State, s.pending = [] →
    (s.svc.st ≠ .ready ∨ s.svc.dark = true → step s = .next s) ∧
    (s.svc.st = .ready → s.svc.dark = false → ∃ t, step s = .next t ∧
      (∃ k, k ≤ 2 ∧ t.tlm.timebase = s.tlm.timebase + BitVec.ofNat 64 k) ∧
      (s.tlm.ratePpb = 0 → t.tlm.timebase = s.tlm.timebase + 1) ∧
      let ticked := fun (u : State) => t = { u with free := t.free, tlm := { u.tlm with timebase := t.tlm.timebase } } ∧
        (s.tlm.ratePpb = 0 → t.free = u.free)
      (tilesRest s → commitsOnly s [] → ticked s) ∧
      (∀ l, tilesRest s → commitsOnly s [l] → l < 32 → (getLoom s l).st ≠ .free → ticked (commitOne s l)) ∧
      ∀ l tile x, commitsOnly s [] → s.tiles = [(tile, x)] → x.running ≠ [] → x.ops = [] → loomOfTile s tile = some l →
        (∀ k i q, k < 32 → i ∈ loomTiles (getLoom s k) → q ∈ (tileOf s k i).sentFrames → q.waiting = false) →
        ticked (mtxTick s tile))

/-- Every step keeps both memories in the one form in which equal memories are equal lists. -/
def Obligations.MemoryKept : Prop := ∀ s t : State, s.MemOk → step s = .next t → t.MemOk

/-- A step runs the command at the front of the queue on the queue's rest. -/
def Obligations.StepRunsFront : Prop :=
  ∀ (c : Instr) (s : State) (rest : List Instr), s.pending = c :: rest → step s = exec c { s with pending := rest }

/-- An access of any width at an offset that holds no register: the read answers 0, and the write changes nothing. The port is up, the function
enabled, and a management die answers (R462). -/
def Obligations.EmptyOffsets : Prop :=
  ∀ (s : State) (w : Accessor) (off width : Nat) (v : W64), barReady s w = true → regAt s w (off / 8 * 8) = none →
    exec (.rcRegisterRead w off width) s = .next { s with reply := [0] } ∧
    exec (.registerWrite w off width v) s = .next s

/-- RDSR of any number from 0x0A to 0xFF, in a loom that issues: the instruction faults with BAD_COMMAND. -/
def Obligations.ReservedSpecialRegisters : Prop :=
  ∀ (s : State) (a : Issuer) (l : Nat) (f : FmtI), Issues s a l (wordI 0xD 0 f) → 0x0A ≤ f.imm.toNat % 256 →
    exec (.rdsr a f) s = .next (insnFault s l a stBad (wordI 0xD 0 f))

/-! ## Claims of several parts -/

/-- What the scalar and scalar-immediate instructions write: SaluInteger, SaluFloat, ScalarImmediate. -/
def Obligations.ScalarInstructions : Prop := SaluInteger ∧ SaluFloat ∧ ScalarImmediate

/-- The vector arithmetic, moves and comparisons: VectorFloat, VectorInteger, VectorCompare. -/
def Obligations.VectorArithmetic : Prop := VectorFloat ∧ VectorInteger ∧ VectorCompare

/-- Loads, stores and what they leave: Loads, Stores. -/
def Obligations.LoadsAndStores : Prop := Loads ∧ Stores

/-- The issue of the asynchronous shuttle, transfer, remote and special instructions: ShuttleIssue, TransferIssue, RemoteIssue, SpecialIssue. -/
def Obligations.AsyncIssues : Prop := ShuttleIssue ∧ TransferIssue ∧ RemoteIssue ∧ SpecialIssue

/-- STAGE units and working copies: StagedUnits, WorkingCopies. -/
def Obligations.StagesAndCopies : Prop := StagedUnits ∧ WorkingCopies

/-- COPY, GATHER, SCATTER and EBAG: Transfers, EmbeddingBags. -/
def Obligations.Movement : Prop := Transfers ∧ EmbeddingBags

/-- WAIT, WAITALL, FENCE and BAR: Waits, Barriers. -/
def Obligations.WaitsAndBarriers : Prop := Waits ∧ Barriers

/-- Loom and shared semaphores: LoomSemaphores, SharedSemaphores, RevokedOnce. -/
def Obligations.Semaphores : Prop := LoomSemaphores ∧ SharedSemaphores ∧ RevokedOnce

/-- Reserved words fault, and what a fault leaves: ReservedFaults, FaultEffect. -/
def Obligations.InstructionFaults : Prop := ReservedFaults ∧ FaultEffect

/-- Matrix instructions, the issue of the oldest, and the entry of columns: MatrixIssue, OldestIssues, ColumnEnters. -/
def Obligations.MatrixCommands : Prop := MatrixIssue ∧ OldestIssues ∧ ColumnEnters

/-- What a drain writes: DrainLands, DrainedValues. -/
def Obligations.Drains : Prop := DrainLands ∧ DrainedValues

/-- FACT, SOLV, TOPK and NORMACC: FactorEquations, SpecialResults. -/
def Obligations.SpecialUnit : Prop := FactorEquations ∧ SpecialResults

/-- Remote requests served and answered: RemoteServed, RemoteAnswered, OrderedAdds. -/
def Obligations.RemoteAccess : Prop := RemoteServed ∧ RemoteAnswered ∧ OrderedAdds

/-- The issue of a collective and the place of a member: CollectiveIssue, MemberPlace. -/
def Obligations.CollectivesIssue : Prop := CollectiveIssue ∧ MemberPlace

/-- Frames of collectives: FramesArrive, ControlFrames, CompressedPayloads, ResidueCheck. -/
def Obligations.Frames : Prop := FramesArrive ∧ ControlFrames ∧ CompressedPayloads ∧ ResidueCheck

/-- Reduction on a ring and on a line: RingPartial, LineOwner. -/
def Obligations.RingReduction : Prop := RingPartial ∧ LineOwner

/-- How a dobby command starts and ends: RunStarts, CommandEnds. -/
def Obligations.DobbyCommands : Prop := RunStarts ∧ CommandEnds

/-- Looms and shared semaphores made and configured: LoomCreated, LoomConfigured, SemaphoresMade. -/
def Obligations.LoomsMade : Prop := LoomCreated ∧ LoomConfigured ∧ SemaphoresMade

/-- Looms started, stopped, held and deleted: LoomStarts, LoomStops, LoomHeldAndDeleted. -/
def Obligations.LoomsRun : Prop := LoomStarts ∧ LoomStops ∧ LoomHeldAndDeleted

/-- Change of holder, save and restore: HoldersChange, SavedAndRestored. -/
def Obligations.HoldersAndImages : Prop := HoldersChange ∧ SavedAndRestored

/-- Errors of tile stores and stacks: ThrumWords, TileStoreErrors, StackErrors. -/
def Obligations.MemoryErrors : Prop := ThrumWords ∧ TileStoreErrors ∧ StackErrors

/-- Placement intents, maps and forced records: IntentAndMap, ForcedMaps. -/
def Obligations.PlacementCommands : Prop := IntentAndMap ∧ ForcedMaps

/-- Hot rows: RowAgents, Handoffs, MigrationEpochs. -/
def Obligations.HotRows : Prop := RowAgents ∧ Handoffs ∧ MigrationEpochs

/-- Links of the torus and the jobs on it: Links, Retraining, TorusJobs. -/
def Obligations.Torus : Prop := Links ∧ Retraining ∧ TorusJobs

/-- Serving: configuration, requests and batch steps: ServingConfigured, QueueAdmitted, Submissions, RequestEnds,
StepsFormed, StepCommits. -/
def Obligations.Serving : Prop := ServingConfigured ∧ QueueAdmitted ∧ Submissions ∧ RequestEnds ∧ StepsFormed ∧ StepCommits

/-- Weaves and picks: WeavesSet, PicksCopied. -/
def Obligations.Shedding : Prop := WeavesSet ∧ PicksCopied

/-- The power loops and borrowed budget: PowerLoops, Borrowing. -/
def Obligations.PowerControl : Prop := PowerLoops ∧ Borrowing

/-- Rails, droops, temperatures, the throttle log and the clocks: DieLimits, EpisodesAndClocks. -/
def Obligations.DieLimitsAndClocks : Prop := DieLimits ∧ EpisodesAndClocks

/-- Telemetry counters, samples and dumps: CountersConfigured, Counting, Recording, OwnerWrites. -/
def Obligations.Counters : Prop := CountersConfigured ∧ Counting ∧ Recording ∧ OwnerWrites

/-- Checkpoints and restores: CheckpointsBegin, CheckpointsEnd, Restores. -/
def Obligations.Checkpoints : Prop := CheckpointsBegin ∧ CheckpointsEnd ∧ Restores

/-- Ring commands and data transfers of the host: RingCommands, HostTransfers. -/
def Obligations.HostCommands : Prop := RingCommands ∧ HostTransfers

/-- The management console: Logins, ConsoleSettings. -/
def Obligations.Console : Prop := Logins ∧ ConsoleSettings

/-- Images, start-up, reset and the module's side interfaces: Images, StartAndReset, PortsAndSensors. -/
def Obligations.BootAndReset : Prop := Images ∧ StartAndReset ∧ PortsAndSensors

/-- Register reads, writes and counter clears: RegisterAccess, CounterClears. -/
def Obligations.Registers : Prop := RegisterAccess ∧ CounterClears
end

