-- ==== Sys2Proof/Laws/State.lean ====
section
/-! SUPPORT. What each named update of the state leaves as it was, and what it puts in place: one lemma for each field. -/
namespace Sys2Proof.Machine

@[simp] theorem setLoom_pending (s : State) (l : Nat) (x : Loom) : (setLoom s l x).pending = s.pending := (rfl)
@[simp] theorem setLoom_variant (s : State) (l : Nat) (x : Loom) : (setLoom s l x).variant = s.variant := (rfl)
@[simp] theorem setLoom_mem (s : State) (l : Nat) (x : Loom) : (setLoom s l x).mem = s.mem := (rfl)
@[simp] theorem setLoom_hostMem (s : State) (l : Nat) (x : Loom) : (setLoom s l x).hostMem = s.hostMem := (rfl)
@[simp] theorem setLoom_regs (s : State) (l : Nat) (x : Loom) : (setLoom s l x).regs = s.regs := (rfl)
@[simp] theorem setLoom_tiles (s : State) (l : Nat) (x : Loom) : (setLoom s l x).tiles = s.tiles := (rfl)
@[simp] theorem setLoom_ssems (s : State) (l : Nat) (x : Loom) : (setLoom s l x).ssems = s.ssems := (rfl)
@[simp] theorem setLoom_weaves (s : State) (l : Nat) (x : Loom) : (setLoom s l x).weaves = s.weaves := (rfl)
@[simp] theorem setLoom_bobbins (s : State) (l : Nat) (x : Loom) : (setLoom s l x).bobbins = s.bobbins := (rfl)
@[simp] theorem setLoom_heldWrites (s : State) (l : Nat) (x : Loom) : (setLoom s l x).heldWrites = s.heldWrites := (rfl)
@[simp] theorem setLoom_reqs (s : State) (l : Nat) (x : Loom) : (setLoom s l x).reqs = s.reqs := (rfl)
@[simp] theorem setLoom_evseq (s : State) (l : Nat) (x : Loom) : (setLoom s l x).evseq = s.evseq := (rfl)
@[simp] theorem setLoom_migNext (s : State) (l : Nat) (x : Loom) : (setLoom s l x).migNext = s.migNext := (rfl)
@[simp] theorem setLoom_faults (s : State) (l : Nat) (x : Loom) : (setLoom s l x).faults = s.faults := (rfl)
@[simp] theorem setLoom_fab (s : State) (l : Nat) (x : Loom) : (setLoom s l x).fab = s.fab := (rfl)
@[simp] theorem setLoom_links (s : State) (l : Nat) (x : Loom) : (setLoom s l x).links = s.links := (rfl)
@[simp] theorem setLoom_adders (s : State) (l : Nat) (x : Loom) : (setLoom s l x).adders = s.adders := (rfl)
@[simp] theorem setLoom_power (s : State) (l : Nat) (x : Loom) : (setLoom s l x).power = s.power := (rfl)
@[simp] theorem setLoom_tlm (s : State) (l : Nat) (x : Loom) : (setLoom s l x).tlm = s.tlm := (rfl)
@[simp] theorem setLoom_slots (s : State) (l : Nat) (x : Loom) : (setLoom s l x).slots = s.slots := (rfl)
@[simp] theorem setLoom_fns (s : State) (l : Nat) (x : Loom) : (setLoom s l x).fns = s.fns := (rfl)
@[simp] theorem setLoom_sessions (s : State) (l : Nat) (x : Loom) : (setLoom s l x).sessions = s.sessions := (rfl)
@[simp] theorem setLoom_ports (s : State) (l : Nat) (x : Loom) : (setLoom s l x).ports = s.ports := (rfl)
@[simp] theorem setLoom_console (s : State) (l : Nat) (x : Loom) : (setLoom s l x).console = s.console := (rfl)
@[simp] theorem setLoom_svc (s : State) (l : Nat) (x : Loom) : (setLoom s l x).svc = s.svc := (rfl)
@[simp] theorem setLoom_nextNum (s : State) (l : Nat) (x : Loom) : (setLoom s l x).nextNum = s.nextNum := (rfl)
@[simp] theorem setLoom_free (s : State) (l : Nat) (x : Loom) : (setLoom s l x).free = s.free := (rfl)
@[simp] theorem setLoom_reply (s : State) (l : Nat) (x : Loom) : (setLoom s l x).reply = s.reply := (rfl)
@[simp] theorem setLoom_out (s : State) (l : Nat) (x : Loom) : (setLoom s l x).out = s.out := (rfl)

@[simp] theorem modLoom_pending (s : State) (l : Nat) (f : Loom → Loom) : (modLoom s l f).pending = s.pending := (rfl)
@[simp] theorem modLoom_variant (s : State) (l : Nat) (f : Loom → Loom) : (modLoom s l f).variant = s.variant := (rfl)
@[simp] theorem modLoom_mem (s : State) (l : Nat) (f : Loom → Loom) : (modLoom s l f).mem = s.mem := (rfl)
@[simp] theorem modLoom_hostMem (s : State) (l : Nat) (f : Loom → Loom) : (modLoom s l f).hostMem = s.hostMem := (rfl)
@[simp] theorem modLoom_regs (s : State) (l : Nat) (f : Loom → Loom) : (modLoom s l f).regs = s.regs := (rfl)
@[simp] theorem modLoom_tiles (s : State) (l : Nat) (f : Loom → Loom) : (modLoom s l f).tiles = s.tiles := (rfl)
@[simp] theorem modLoom_ssems (s : State) (l : Nat) (f : Loom → Loom) : (modLoom s l f).ssems = s.ssems := (rfl)
@[simp] theorem modLoom_weaves (s : State) (l : Nat) (f : Loom → Loom) : (modLoom s l f).weaves = s.weaves := (rfl)
@[simp] theorem modLoom_bobbins (s : State) (l : Nat) (f : Loom → Loom) : (modLoom s l f).bobbins = s.bobbins := (rfl)
@[simp] theorem modLoom_heldWrites (s : State) (l : Nat) (f : Loom → Loom) : (modLoom s l f).heldWrites = s.heldWrites := (rfl)
@[simp] theorem modLoom_reqs (s : State) (l : Nat) (f : Loom → Loom) : (modLoom s l f).reqs = s.reqs := (rfl)
@[simp] theorem modLoom_evseq (s : State) (l : Nat) (f : Loom → Loom) : (modLoom s l f).evseq = s.evseq := (rfl)
@[simp] theorem modLoom_migNext (s : State) (l : Nat) (f : Loom → Loom) : (modLoom s l f).migNext = s.migNext := (rfl)
@[simp] theorem modLoom_faults (s : State) (l : Nat) (f : Loom → Loom) : (modLoom s l f).faults = s.faults := (rfl)
@[simp] theorem modLoom_fab (s : State) (l : Nat) (f : Loom → Loom) : (modLoom s l f).fab = s.fab := (rfl)
@[simp] theorem modLoom_links (s : State) (l : Nat) (f : Loom → Loom) : (modLoom s l f).links = s.links := (rfl)
@[simp] theorem modLoom_adders (s : State) (l : Nat) (f : Loom → Loom) : (modLoom s l f).adders = s.adders := (rfl)
@[simp] theorem modLoom_power (s : State) (l : Nat) (f : Loom → Loom) : (modLoom s l f).power = s.power := (rfl)
@[simp] theorem modLoom_tlm (s : State) (l : Nat) (f : Loom → Loom) : (modLoom s l f).tlm = s.tlm := (rfl)
@[simp] theorem modLoom_slots (s : State) (l : Nat) (f : Loom → Loom) : (modLoom s l f).slots = s.slots := (rfl)
@[simp] theorem modLoom_fns (s : State) (l : Nat) (f : Loom → Loom) : (modLoom s l f).fns = s.fns := (rfl)
@[simp] theorem modLoom_sessions (s : State) (l : Nat) (f : Loom → Loom) : (modLoom s l f).sessions = s.sessions := (rfl)
@[simp] theorem modLoom_ports (s : State) (l : Nat) (f : Loom → Loom) : (modLoom s l f).ports = s.ports := (rfl)
@[simp] theorem modLoom_console (s : State) (l : Nat) (f : Loom → Loom) : (modLoom s l f).console = s.console := (rfl)
@[simp] theorem modLoom_svc (s : State) (l : Nat) (f : Loom → Loom) : (modLoom s l f).svc = s.svc := (rfl)
@[simp] theorem modLoom_nextNum (s : State) (l : Nat) (f : Loom → Loom) : (modLoom s l f).nextNum = s.nextNum := (rfl)
@[simp] theorem modLoom_free (s : State) (l : Nat) (f : Loom → Loom) : (modLoom s l f).free = s.free := (rfl)
@[simp] theorem modLoom_reply (s : State) (l : Nat) (f : Loom → Loom) : (modLoom s l f).reply = s.reply := (rfl)
@[simp] theorem modLoom_out (s : State) (l : Nat) (f : Loom → Loom) : (modLoom s l f).out = s.out := (rfl)

@[simp] theorem setTile_pending (s : State) (t : Nat) (x : Tile) : (setTile s t x).pending = s.pending := (rfl)
@[simp] theorem setTile_variant (s : State) (t : Nat) (x : Tile) : (setTile s t x).variant = s.variant := (rfl)
@[simp] theorem setTile_mem (s : State) (t : Nat) (x : Tile) : (setTile s t x).mem = s.mem := (rfl)
@[simp] theorem setTile_hostMem (s : State) (t : Nat) (x : Tile) : (setTile s t x).hostMem = s.hostMem := (rfl)
@[simp] theorem setTile_regs (s : State) (t : Nat) (x : Tile) : (setTile s t x).regs = s.regs := (rfl)
@[simp] theorem setTile_looms (s : State) (t : Nat) (x : Tile) : (setTile s t x).looms = s.looms := (rfl)
@[simp] theorem setTile_ssems (s : State) (t : Nat) (x : Tile) : (setTile s t x).ssems = s.ssems := (rfl)
@[simp] theorem setTile_weaves (s : State) (t : Nat) (x : Tile) : (setTile s t x).weaves = s.weaves := (rfl)
@[simp] theorem setTile_bobbins (s : State) (t : Nat) (x : Tile) : (setTile s t x).bobbins = s.bobbins := (rfl)
@[simp] theorem setTile_heldWrites (s : State) (t : Nat) (x : Tile) : (setTile s t x).heldWrites = s.heldWrites := (rfl)
@[simp] theorem setTile_reqs (s : State) (t : Nat) (x : Tile) : (setTile s t x).reqs = s.reqs := (rfl)
@[simp] theorem setTile_evseq (s : State) (t : Nat) (x : Tile) : (setTile s t x).evseq = s.evseq := (rfl)
@[simp] theorem setTile_migNext (s : State) (t : Nat) (x : Tile) : (setTile s t x).migNext = s.migNext := (rfl)
@[simp] theorem setTile_faults (s : State) (t : Nat) (x : Tile) : (setTile s t x).faults = s.faults := (rfl)
@[simp] theorem setTile_fab (s : State) (t : Nat) (x : Tile) : (setTile s t x).fab = s.fab := (rfl)
@[simp] theorem setTile_links (s : State) (t : Nat) (x : Tile) : (setTile s t x).links = s.links := (rfl)
@[simp] theorem setTile_adders (s : State) (t : Nat) (x : Tile) : (setTile s t x).adders = s.adders := (rfl)
@[simp] theorem setTile_power (s : State) (t : Nat) (x : Tile) : (setTile s t x).power = s.power := (rfl)
@[simp] theorem setTile_tlm (s : State) (t : Nat) (x : Tile) : (setTile s t x).tlm = s.tlm := (rfl)
@[simp] theorem setTile_slots (s : State) (t : Nat) (x : Tile) : (setTile s t x).slots = s.slots := (rfl)
@[simp] theorem setTile_fns (s : State) (t : Nat) (x : Tile) : (setTile s t x).fns = s.fns := (rfl)
@[simp] theorem setTile_sessions (s : State) (t : Nat) (x : Tile) : (setTile s t x).sessions = s.sessions := (rfl)
@[simp] theorem setTile_ports (s : State) (t : Nat) (x : Tile) : (setTile s t x).ports = s.ports := (rfl)
@[simp] theorem setTile_console (s : State) (t : Nat) (x : Tile) : (setTile s t x).console = s.console := (rfl)
@[simp] theorem setTile_svc (s : State) (t : Nat) (x : Tile) : (setTile s t x).svc = s.svc := (rfl)
@[simp] theorem setTile_nextNum (s : State) (t : Nat) (x : Tile) : (setTile s t x).nextNum = s.nextNum := (rfl)
@[simp] theorem setTile_free (s : State) (t : Nat) (x : Tile) : (setTile s t x).free = s.free := (rfl)
@[simp] theorem setTile_reply (s : State) (t : Nat) (x : Tile) : (setTile s t x).reply = s.reply := (rfl)
@[simp] theorem setTile_out (s : State) (t : Nat) (x : Tile) : (setTile s t x).out = s.out := (rfl)

@[simp] theorem modTile_pending (s : State) (t : Nat) (f : Tile → Tile) : (modTile s t f).pending = s.pending := (rfl)
@[simp] theorem modTile_variant (s : State) (t : Nat) (f : Tile → Tile) : (modTile s t f).variant = s.variant := (rfl)
@[simp] theorem modTile_mem (s : State) (t : Nat) (f : Tile → Tile) : (modTile s t f).mem = s.mem := (rfl)
@[simp] theorem modTile_hostMem (s : State) (t : Nat) (f : Tile → Tile) : (modTile s t f).hostMem = s.hostMem := (rfl)
@[simp] theorem modTile_regs (s : State) (t : Nat) (f : Tile → Tile) : (modTile s t f).regs = s.regs := (rfl)
@[simp] theorem modTile_looms (s : State) (t : Nat) (f : Tile → Tile) : (modTile s t f).looms = s.looms := (rfl)
@[simp] theorem modTile_ssems (s : State) (t : Nat) (f : Tile → Tile) : (modTile s t f).ssems = s.ssems := (rfl)
@[simp] theorem modTile_weaves (s : State) (t : Nat) (f : Tile → Tile) : (modTile s t f).weaves = s.weaves := (rfl)
@[simp] theorem modTile_bobbins (s : State) (t : Nat) (f : Tile → Tile) : (modTile s t f).bobbins = s.bobbins := (rfl)
@[simp] theorem modTile_heldWrites (s : State) (t : Nat) (f : Tile → Tile) : (modTile s t f).heldWrites = s.heldWrites := (rfl)
@[simp] theorem modTile_reqs (s : State) (t : Nat) (f : Tile → Tile) : (modTile s t f).reqs = s.reqs := (rfl)
@[simp] theorem modTile_evseq (s : State) (t : Nat) (f : Tile → Tile) : (modTile s t f).evseq = s.evseq := (rfl)
@[simp] theorem modTile_migNext (s : State) (t : Nat) (f : Tile → Tile) : (modTile s t f).migNext = s.migNext := (rfl)
@[simp] theorem modTile_faults (s : State) (t : Nat) (f : Tile → Tile) : (modTile s t f).faults = s.faults := (rfl)
@[simp] theorem modTile_fab (s : State) (t : Nat) (f : Tile → Tile) : (modTile s t f).fab = s.fab := (rfl)
@[simp] theorem modTile_links (s : State) (t : Nat) (f : Tile → Tile) : (modTile s t f).links = s.links := (rfl)
@[simp] theorem modTile_adders (s : State) (t : Nat) (f : Tile → Tile) : (modTile s t f).adders = s.adders := (rfl)
@[simp] theorem modTile_power (s : State) (t : Nat) (f : Tile → Tile) : (modTile s t f).power = s.power := (rfl)
@[simp] theorem modTile_tlm (s : State) (t : Nat) (f : Tile → Tile) : (modTile s t f).tlm = s.tlm := (rfl)
@[simp] theorem modTile_slots (s : State) (t : Nat) (f : Tile → Tile) : (modTile s t f).slots = s.slots := (rfl)
@[simp] theorem modTile_fns (s : State) (t : Nat) (f : Tile → Tile) : (modTile s t f).fns = s.fns := (rfl)
@[simp] theorem modTile_sessions (s : State) (t : Nat) (f : Tile → Tile) : (modTile s t f).sessions = s.sessions := (rfl)
@[simp] theorem modTile_ports (s : State) (t : Nat) (f : Tile → Tile) : (modTile s t f).ports = s.ports := (rfl)
@[simp] theorem modTile_console (s : State) (t : Nat) (f : Tile → Tile) : (modTile s t f).console = s.console := (rfl)
@[simp] theorem modTile_svc (s : State) (t : Nat) (f : Tile → Tile) : (modTile s t f).svc = s.svc := (rfl)
@[simp] theorem modTile_nextNum (s : State) (t : Nat) (f : Tile → Tile) : (modTile s t f).nextNum = s.nextNum := (rfl)
@[simp] theorem modTile_free (s : State) (t : Nat) (f : Tile → Tile) : (modTile s t f).free = s.free := (rfl)
@[simp] theorem modTile_reply (s : State) (t : Nat) (f : Tile → Tile) : (modTile s t f).reply = s.reply := (rfl)
@[simp] theorem modTile_out (s : State) (t : Nat) (f : Tile → Tile) : (modTile s t f).out = s.out := (rfl)

@[simp] theorem setStrand_pending (s : State) (a : Issuer) (x : Strand) : (setStrand s a x).pending = s.pending := (rfl)
@[simp] theorem setStrand_variant (s : State) (a : Issuer) (x : Strand) : (setStrand s a x).variant = s.variant := (rfl)
@[simp] theorem setStrand_mem (s : State) (a : Issuer) (x : Strand) : (setStrand s a x).mem = s.mem := (rfl)
@[simp] theorem setStrand_hostMem (s : State) (a : Issuer) (x : Strand) : (setStrand s a x).hostMem = s.hostMem := (rfl)
@[simp] theorem setStrand_regs (s : State) (a : Issuer) (x : Strand) : (setStrand s a x).regs = s.regs := (rfl)
@[simp] theorem setStrand_looms (s : State) (a : Issuer) (x : Strand) : (setStrand s a x).looms = s.looms := (rfl)
@[simp] theorem setStrand_ssems (s : State) (a : Issuer) (x : Strand) : (setStrand s a x).ssems = s.ssems := (rfl)
@[simp] theorem setStrand_weaves (s : State) (a : Issuer) (x : Strand) : (setStrand s a x).weaves = s.weaves := (rfl)
@[simp] theorem setStrand_bobbins (s : State) (a : Issuer) (x : Strand) : (setStrand s a x).bobbins = s.bobbins := (rfl)
@[simp] theorem setStrand_heldWrites (s : State) (a : Issuer) (x : Strand) : (setStrand s a x).heldWrites = s.heldWrites := (rfl)
@[simp] theorem setStrand_reqs (s : State) (a : Issuer) (x : Strand) : (setStrand s a x).reqs = s.reqs := (rfl)
@[simp] theorem setStrand_evseq (s : State) (a : Issuer) (x : Strand) : (setStrand s a x).evseq = s.evseq := (rfl)
@[simp] theorem setStrand_migNext (s : State) (a : Issuer) (x : Strand) : (setStrand s a x).migNext = s.migNext := (rfl)
@[simp] theorem setStrand_faults (s : State) (a : Issuer) (x : Strand) : (setStrand s a x).faults = s.faults := (rfl)
@[simp] theorem setStrand_fab (s : State) (a : Issuer) (x : Strand) : (setStrand s a x).fab = s.fab := (rfl)
@[simp] theorem setStrand_links (s : State) (a : Issuer) (x : Strand) : (setStrand s a x).links = s.links := (rfl)
@[simp] theorem setStrand_adders (s : State) (a : Issuer) (x : Strand) : (setStrand s a x).adders = s.adders := (rfl)
@[simp] theorem setStrand_power (s : State) (a : Issuer) (x : Strand) : (setStrand s a x).power = s.power := (rfl)
@[simp] theorem setStrand_tlm (s : State) (a : Issuer) (x : Strand) : (setStrand s a x).tlm = s.tlm := (rfl)
@[simp] theorem setStrand_slots (s : State) (a : Issuer) (x : Strand) : (setStrand s a x).slots = s.slots := (rfl)
@[simp] theorem setStrand_fns (s : State) (a : Issuer) (x : Strand) : (setStrand s a x).fns = s.fns := (rfl)
@[simp] theorem setStrand_sessions (s : State) (a : Issuer) (x : Strand) : (setStrand s a x).sessions = s.sessions := (rfl)
@[simp] theorem setStrand_ports (s : State) (a : Issuer) (x : Strand) : (setStrand s a x).ports = s.ports := (rfl)
@[simp] theorem setStrand_console (s : State) (a : Issuer) (x : Strand) : (setStrand s a x).console = s.console := (rfl)
@[simp] theorem setStrand_svc (s : State) (a : Issuer) (x : Strand) : (setStrand s a x).svc = s.svc := (rfl)
@[simp] theorem setStrand_nextNum (s : State) (a : Issuer) (x : Strand) : (setStrand s a x).nextNum = s.nextNum := (rfl)
@[simp] theorem setStrand_free (s : State) (a : Issuer) (x : Strand) : (setStrand s a x).free = s.free := (rfl)
@[simp] theorem setStrand_reply (s : State) (a : Issuer) (x : Strand) : (setStrand s a x).reply = s.reply := (rfl)
@[simp] theorem setStrand_out (s : State) (a : Issuer) (x : Strand) : (setStrand s a x).out = s.out := (rfl)

@[simp] theorem modStrand_pending (s : State) (a : Issuer) (f : Strand → Strand) : (modStrand s a f).pending = s.pending := (rfl)
@[simp] theorem modStrand_variant (s : State) (a : Issuer) (f : Strand → Strand) : (modStrand s a f).variant = s.variant := (rfl)
@[simp] theorem modStrand_mem (s : State) (a : Issuer) (f : Strand → Strand) : (modStrand s a f).mem = s.mem := (rfl)
@[simp] theorem modStrand_hostMem (s : State) (a : Issuer) (f : Strand → Strand) : (modStrand s a f).hostMem = s.hostMem := (rfl)
@[simp] theorem modStrand_regs (s : State) (a : Issuer) (f : Strand → Strand) : (modStrand s a f).regs = s.regs := (rfl)
@[simp] theorem modStrand_looms (s : State) (a : Issuer) (f : Strand → Strand) : (modStrand s a f).looms = s.looms := (rfl)
@[simp] theorem modStrand_ssems (s : State) (a : Issuer) (f : Strand → Strand) : (modStrand s a f).ssems = s.ssems := (rfl)
@[simp] theorem modStrand_weaves (s : State) (a : Issuer) (f : Strand → Strand) : (modStrand s a f).weaves = s.weaves := (rfl)
@[simp] theorem modStrand_bobbins (s : State) (a : Issuer) (f : Strand → Strand) : (modStrand s a f).bobbins = s.bobbins := (rfl)
@[simp] theorem modStrand_heldWrites (s : State) (a : Issuer) (f : Strand → Strand) : (modStrand s a f).heldWrites = s.heldWrites := (rfl)
@[simp] theorem modStrand_reqs (s : State) (a : Issuer) (f : Strand → Strand) : (modStrand s a f).reqs = s.reqs := (rfl)
@[simp] theorem modStrand_evseq (s : State) (a : Issuer) (f : Strand → Strand) : (modStrand s a f).evseq = s.evseq := (rfl)
@[simp] theorem modStrand_migNext (s : State) (a : Issuer) (f : Strand → Strand) : (modStrand s a f).migNext = s.migNext := (rfl)
@[simp] theorem modStrand_faults (s : State) (a : Issuer) (f : Strand → Strand) : (modStrand s a f).faults = s.faults := (rfl)
@[simp] theorem modStrand_fab (s : State) (a : Issuer) (f : Strand → Strand) : (modStrand s a f).fab = s.fab := (rfl)
@[simp] theorem modStrand_links (s : State) (a : Issuer) (f : Strand → Strand) : (modStrand s a f).links = s.links := (rfl)
@[simp] theorem modStrand_adders (s : State) (a : Issuer) (f : Strand → Strand) : (modStrand s a f).adders = s.adders := (rfl)
@[simp] theorem modStrand_power (s : State) (a : Issuer) (f : Strand → Strand) : (modStrand s a f).power = s.power := (rfl)
@[simp] theorem modStrand_tlm (s : State) (a : Issuer) (f : Strand → Strand) : (modStrand s a f).tlm = s.tlm := (rfl)
@[simp] theorem modStrand_slots (s : State) (a : Issuer) (f : Strand → Strand) : (modStrand s a f).slots = s.slots := (rfl)
@[simp] theorem modStrand_fns (s : State) (a : Issuer) (f : Strand → Strand) : (modStrand s a f).fns = s.fns := (rfl)
@[simp] theorem modStrand_sessions (s : State) (a : Issuer) (f : Strand → Strand) : (modStrand s a f).sessions = s.sessions := (rfl)
@[simp] theorem modStrand_ports (s : State) (a : Issuer) (f : Strand → Strand) : (modStrand s a f).ports = s.ports := (rfl)
@[simp] theorem modStrand_console (s : State) (a : Issuer) (f : Strand → Strand) : (modStrand s a f).console = s.console := (rfl)
@[simp] theorem modStrand_svc (s : State) (a : Issuer) (f : Strand → Strand) : (modStrand s a f).svc = s.svc := (rfl)
@[simp] theorem modStrand_nextNum (s : State) (a : Issuer) (f : Strand → Strand) : (modStrand s a f).nextNum = s.nextNum := (rfl)
@[simp] theorem modStrand_free (s : State) (a : Issuer) (f : Strand → Strand) : (modStrand s a f).free = s.free := (rfl)
@[simp] theorem modStrand_reply (s : State) (a : Issuer) (f : Strand → Strand) : (modStrand s a f).reply = s.reply := (rfl)
@[simp] theorem modStrand_out (s : State) (a : Issuer) (f : Strand → Strand) : (modStrand s a f).out = s.out := (rfl)

@[simp] theorem setSession_pending (s : State) (n : Nat) (x : Session) : (setSession s n x).pending = s.pending := (rfl)
@[simp] theorem setSession_variant (s : State) (n : Nat) (x : Session) : (setSession s n x).variant = s.variant := (rfl)
@[simp] theorem setSession_mem (s : State) (n : Nat) (x : Session) : (setSession s n x).mem = s.mem := (rfl)
@[simp] theorem setSession_hostMem (s : State) (n : Nat) (x : Session) : (setSession s n x).hostMem = s.hostMem := (rfl)
@[simp] theorem setSession_regs (s : State) (n : Nat) (x : Session) : (setSession s n x).regs = s.regs := (rfl)
@[simp] theorem setSession_tiles (s : State) (n : Nat) (x : Session) : (setSession s n x).tiles = s.tiles := (rfl)
@[simp] theorem setSession_looms (s : State) (n : Nat) (x : Session) : (setSession s n x).looms = s.looms := (rfl)
@[simp] theorem setSession_ssems (s : State) (n : Nat) (x : Session) : (setSession s n x).ssems = s.ssems := (rfl)
@[simp] theorem setSession_weaves (s : State) (n : Nat) (x : Session) : (setSession s n x).weaves = s.weaves := (rfl)
@[simp] theorem setSession_bobbins (s : State) (n : Nat) (x : Session) : (setSession s n x).bobbins = s.bobbins := (rfl)
@[simp] theorem setSession_heldWrites (s : State) (n : Nat) (x : Session) : (setSession s n x).heldWrites = s.heldWrites := (rfl)
@[simp] theorem setSession_reqs (s : State) (n : Nat) (x : Session) : (setSession s n x).reqs = s.reqs := (rfl)
@[simp] theorem setSession_evseq (s : State) (n : Nat) (x : Session) : (setSession s n x).evseq = s.evseq := (rfl)
@[simp] theorem setSession_migNext (s : State) (n : Nat) (x : Session) : (setSession s n x).migNext = s.migNext := (rfl)
@[simp] theorem setSession_faults (s : State) (n : Nat) (x : Session) : (setSession s n x).faults = s.faults := (rfl)
@[simp] theorem setSession_fab (s : State) (n : Nat) (x : Session) : (setSession s n x).fab = s.fab := (rfl)
@[simp] theorem setSession_links (s : State) (n : Nat) (x : Session) : (setSession s n x).links = s.links := (rfl)
@[simp] theorem setSession_adders (s : State) (n : Nat) (x : Session) : (setSession s n x).adders = s.adders := (rfl)
@[simp] theorem setSession_power (s : State) (n : Nat) (x : Session) : (setSession s n x).power = s.power := (rfl)
@[simp] theorem setSession_tlm (s : State) (n : Nat) (x : Session) : (setSession s n x).tlm = s.tlm := (rfl)
@[simp] theorem setSession_slots (s : State) (n : Nat) (x : Session) : (setSession s n x).slots = s.slots := (rfl)
@[simp] theorem setSession_fns (s : State) (n : Nat) (x : Session) : (setSession s n x).fns = s.fns := (rfl)
@[simp] theorem setSession_ports (s : State) (n : Nat) (x : Session) : (setSession s n x).ports = s.ports := (rfl)
@[simp] theorem setSession_console (s : State) (n : Nat) (x : Session) : (setSession s n x).console = s.console := (rfl)
@[simp] theorem setSession_svc (s : State) (n : Nat) (x : Session) : (setSession s n x).svc = s.svc := (rfl)
@[simp] theorem setSession_nextNum (s : State) (n : Nat) (x : Session) : (setSession s n x).nextNum = s.nextNum := (rfl)
@[simp] theorem setSession_free (s : State) (n : Nat) (x : Session) : (setSession s n x).free = s.free := (rfl)
@[simp] theorem setSession_reply (s : State) (n : Nat) (x : Session) : (setSession s n x).reply = s.reply := (rfl)
@[simp] theorem setSession_out (s : State) (n : Nat) (x : Session) : (setSession s n x).out = s.out := (rfl)

@[simp] theorem modSession_pending (s : State) (n : Nat) (f : Session → Session) : (modSession s n f).pending = s.pending := (rfl)
@[simp] theorem modSession_variant (s : State) (n : Nat) (f : Session → Session) : (modSession s n f).variant = s.variant := (rfl)
@[simp] theorem modSession_mem (s : State) (n : Nat) (f : Session → Session) : (modSession s n f).mem = s.mem := (rfl)
@[simp] theorem modSession_hostMem (s : State) (n : Nat) (f : Session → Session) : (modSession s n f).hostMem = s.hostMem := (rfl)
@[simp] theorem modSession_regs (s : State) (n : Nat) (f : Session → Session) : (modSession s n f).regs = s.regs := (rfl)
@[simp] theorem modSession_tiles (s : State) (n : Nat) (f : Session → Session) : (modSession s n f).tiles = s.tiles := (rfl)
@[simp] theorem modSession_looms (s : State) (n : Nat) (f : Session → Session) : (modSession s n f).looms = s.looms := (rfl)
@[simp] theorem modSession_ssems (s : State) (n : Nat) (f : Session → Session) : (modSession s n f).ssems = s.ssems := (rfl)
@[simp] theorem modSession_weaves (s : State) (n : Nat) (f : Session → Session) : (modSession s n f).weaves = s.weaves := (rfl)
@[simp] theorem modSession_bobbins (s : State) (n : Nat) (f : Session → Session) : (modSession s n f).bobbins = s.bobbins := (rfl)
@[simp] theorem modSession_heldWrites (s : State) (n : Nat) (f : Session → Session) : (modSession s n f).heldWrites = s.heldWrites := (rfl)
@[simp] theorem modSession_reqs (s : State) (n : Nat) (f : Session → Session) : (modSession s n f).reqs = s.reqs := (rfl)
@[simp] theorem modSession_evseq (s : State) (n : Nat) (f : Session → Session) : (modSession s n f).evseq = s.evseq := (rfl)
@[simp] theorem modSession_migNext (s : State) (n : Nat) (f : Session → Session) : (modSession s n f).migNext = s.migNext := (rfl)
@[simp] theorem modSession_faults (s : State) (n : Nat) (f : Session → Session) : (modSession s n f).faults = s.faults := (rfl)
@[simp] theorem modSession_fab (s : State) (n : Nat) (f : Session → Session) : (modSession s n f).fab = s.fab := (rfl)
@[simp] theorem modSession_links (s : State) (n : Nat) (f : Session → Session) : (modSession s n f).links = s.links := (rfl)
@[simp] theorem modSession_adders (s : State) (n : Nat) (f : Session → Session) : (modSession s n f).adders = s.adders := (rfl)
@[simp] theorem modSession_power (s : State) (n : Nat) (f : Session → Session) : (modSession s n f).power = s.power := (rfl)
@[simp] theorem modSession_tlm (s : State) (n : Nat) (f : Session → Session) : (modSession s n f).tlm = s.tlm := (rfl)
@[simp] theorem modSession_slots (s : State) (n : Nat) (f : Session → Session) : (modSession s n f).slots = s.slots := (rfl)
@[simp] theorem modSession_fns (s : State) (n : Nat) (f : Session → Session) : (modSession s n f).fns = s.fns := (rfl)
@[simp] theorem modSession_ports (s : State) (n : Nat) (f : Session → Session) : (modSession s n f).ports = s.ports := (rfl)
@[simp] theorem modSession_console (s : State) (n : Nat) (f : Session → Session) : (modSession s n f).console = s.console := (rfl)
@[simp] theorem modSession_svc (s : State) (n : Nat) (f : Session → Session) : (modSession s n f).svc = s.svc := (rfl)
@[simp] theorem modSession_nextNum (s : State) (n : Nat) (f : Session → Session) : (modSession s n f).nextNum = s.nextNum := (rfl)
@[simp] theorem modSession_free (s : State) (n : Nat) (f : Session → Session) : (modSession s n f).free = s.free := (rfl)
@[simp] theorem modSession_reply (s : State) (n : Nat) (f : Session → Session) : (modSession s n f).reply = s.reply := (rfl)
@[simp] theorem modSession_out (s : State) (n : Nat) (f : Session → Session) : (modSession s n f).out = s.out := (rfl)

@[simp] theorem setReq_pending (s : State) (e : Nat) (x : Req) : (setReq s e x).pending = s.pending := (rfl)
@[simp] theorem setReq_variant (s : State) (e : Nat) (x : Req) : (setReq s e x).variant = s.variant := (rfl)
@[simp] theorem setReq_mem (s : State) (e : Nat) (x : Req) : (setReq s e x).mem = s.mem := (rfl)
@[simp] theorem setReq_hostMem (s : State) (e : Nat) (x : Req) : (setReq s e x).hostMem = s.hostMem := (rfl)
@[simp] theorem setReq_regs (s : State) (e : Nat) (x : Req) : (setReq s e x).regs = s.regs := (rfl)
@[simp] theorem setReq_tiles (s : State) (e : Nat) (x : Req) : (setReq s e x).tiles = s.tiles := (rfl)
@[simp] theorem setReq_looms (s : State) (e : Nat) (x : Req) : (setReq s e x).looms = s.looms := (rfl)
@[simp] theorem setReq_ssems (s : State) (e : Nat) (x : Req) : (setReq s e x).ssems = s.ssems := (rfl)
@[simp] theorem setReq_weaves (s : State) (e : Nat) (x : Req) : (setReq s e x).weaves = s.weaves := (rfl)
@[simp] theorem setReq_bobbins (s : State) (e : Nat) (x : Req) : (setReq s e x).bobbins = s.bobbins := (rfl)
@[simp] theorem setReq_heldWrites (s : State) (e : Nat) (x : Req) : (setReq s e x).heldWrites = s.heldWrites := (rfl)
@[simp] theorem setReq_evseq (s : State) (e : Nat) (x : Req) : (setReq s e x).evseq = s.evseq := (rfl)
@[simp] theorem setReq_migNext (s : State) (e : Nat) (x : Req) : (setReq s e x).migNext = s.migNext := (rfl)
@[simp] theorem setReq_faults (s : State) (e : Nat) (x : Req) : (setReq s e x).faults = s.faults := (rfl)
@[simp] theorem setReq_fab (s : State) (e : Nat) (x : Req) : (setReq s e x).fab = s.fab := (rfl)
@[simp] theorem setReq_links (s : State) (e : Nat) (x : Req) : (setReq s e x).links = s.links := (rfl)
@[simp] theorem setReq_adders (s : State) (e : Nat) (x : Req) : (setReq s e x).adders = s.adders := (rfl)
@[simp] theorem setReq_power (s : State) (e : Nat) (x : Req) : (setReq s e x).power = s.power := (rfl)
@[simp] theorem setReq_tlm (s : State) (e : Nat) (x : Req) : (setReq s e x).tlm = s.tlm := (rfl)
@[simp] theorem setReq_slots (s : State) (e : Nat) (x : Req) : (setReq s e x).slots = s.slots := (rfl)
@[simp] theorem setReq_fns (s : State) (e : Nat) (x : Req) : (setReq s e x).fns = s.fns := (rfl)
@[simp] theorem setReq_sessions (s : State) (e : Nat) (x : Req) : (setReq s e x).sessions = s.sessions := (rfl)
@[simp] theorem setReq_ports (s : State) (e : Nat) (x : Req) : (setReq s e x).ports = s.ports := (rfl)
@[simp] theorem setReq_console (s : State) (e : Nat) (x : Req) : (setReq s e x).console = s.console := (rfl)
@[simp] theorem setReq_svc (s : State) (e : Nat) (x : Req) : (setReq s e x).svc = s.svc := (rfl)
@[simp] theorem setReq_nextNum (s : State) (e : Nat) (x : Req) : (setReq s e x).nextNum = s.nextNum := (rfl)
@[simp] theorem setReq_free (s : State) (e : Nat) (x : Req) : (setReq s e x).free = s.free := (rfl)
@[simp] theorem setReq_reply (s : State) (e : Nat) (x : Req) : (setReq s e x).reply = s.reply := (rfl)
@[simp] theorem setReq_out (s : State) (e : Nat) (x : Req) : (setReq s e x).out = s.out := (rfl)

@[simp] theorem modReq_pending (s : State) (e : Nat) (f : Req → Req) : (modReq s e f).pending = s.pending := (rfl)
@[simp] theorem modReq_variant (s : State) (e : Nat) (f : Req → Req) : (modReq s e f).variant = s.variant := (rfl)
@[simp] theorem modReq_mem (s : State) (e : Nat) (f : Req → Req) : (modReq s e f).mem = s.mem := (rfl)
@[simp] theorem modReq_hostMem (s : State) (e : Nat) (f : Req → Req) : (modReq s e f).hostMem = s.hostMem := (rfl)
@[simp] theorem modReq_regs (s : State) (e : Nat) (f : Req → Req) : (modReq s e f).regs = s.regs := (rfl)
@[simp] theorem modReq_tiles (s : State) (e : Nat) (f : Req → Req) : (modReq s e f).tiles = s.tiles := (rfl)
@[simp] theorem modReq_looms (s : State) (e : Nat) (f : Req → Req) : (modReq s e f).looms = s.looms := (rfl)
@[simp] theorem modReq_ssems (s : State) (e : Nat) (f : Req → Req) : (modReq s e f).ssems = s.ssems := (rfl)
@[simp] theorem modReq_weaves (s : State) (e : Nat) (f : Req → Req) : (modReq s e f).weaves = s.weaves := (rfl)
@[simp] theorem modReq_bobbins (s : State) (e : Nat) (f : Req → Req) : (modReq s e f).bobbins = s.bobbins := (rfl)
@[simp] theorem modReq_heldWrites (s : State) (e : Nat) (f : Req → Req) : (modReq s e f).heldWrites = s.heldWrites := (rfl)
@[simp] theorem modReq_evseq (s : State) (e : Nat) (f : Req → Req) : (modReq s e f).evseq = s.evseq := (rfl)
@[simp] theorem modReq_migNext (s : State) (e : Nat) (f : Req → Req) : (modReq s e f).migNext = s.migNext := (rfl)
@[simp] theorem modReq_faults (s : State) (e : Nat) (f : Req → Req) : (modReq s e f).faults = s.faults := (rfl)
@[simp] theorem modReq_fab (s : State) (e : Nat) (f : Req → Req) : (modReq s e f).fab = s.fab := (rfl)
@[simp] theorem modReq_links (s : State) (e : Nat) (f : Req → Req) : (modReq s e f).links = s.links := (rfl)
@[simp] theorem modReq_adders (s : State) (e : Nat) (f : Req → Req) : (modReq s e f).adders = s.adders := (rfl)
@[simp] theorem modReq_power (s : State) (e : Nat) (f : Req → Req) : (modReq s e f).power = s.power := (rfl)
@[simp] theorem modReq_tlm (s : State) (e : Nat) (f : Req → Req) : (modReq s e f).tlm = s.tlm := (rfl)
@[simp] theorem modReq_slots (s : State) (e : Nat) (f : Req → Req) : (modReq s e f).slots = s.slots := (rfl)
@[simp] theorem modReq_fns (s : State) (e : Nat) (f : Req → Req) : (modReq s e f).fns = s.fns := (rfl)
@[simp] theorem modReq_sessions (s : State) (e : Nat) (f : Req → Req) : (modReq s e f).sessions = s.sessions := (rfl)
@[simp] theorem modReq_ports (s : State) (e : Nat) (f : Req → Req) : (modReq s e f).ports = s.ports := (rfl)
@[simp] theorem modReq_console (s : State) (e : Nat) (f : Req → Req) : (modReq s e f).console = s.console := (rfl)
@[simp] theorem modReq_svc (s : State) (e : Nat) (f : Req → Req) : (modReq s e f).svc = s.svc := (rfl)
@[simp] theorem modReq_nextNum (s : State) (e : Nat) (f : Req → Req) : (modReq s e f).nextNum = s.nextNum := (rfl)
@[simp] theorem modReq_free (s : State) (e : Nat) (f : Req → Req) : (modReq s e f).free = s.free := (rfl)
@[simp] theorem modReq_reply (s : State) (e : Nat) (f : Req → Req) : (modReq s e f).reply = s.reply := (rfl)
@[simp] theorem modReq_out (s : State) (e : Nat) (f : Req → Req) : (modReq s e f).out = s.out := (rfl)

@[simp] theorem modPower_pending (s : State) (f : Power → Power) : (modPower s f).pending = s.pending := (rfl)
@[simp] theorem modPower_variant (s : State) (f : Power → Power) : (modPower s f).variant = s.variant := (rfl)
@[simp] theorem modPower_mem (s : State) (f : Power → Power) : (modPower s f).mem = s.mem := (rfl)
@[simp] theorem modPower_hostMem (s : State) (f : Power → Power) : (modPower s f).hostMem = s.hostMem := (rfl)
@[simp] theorem modPower_regs (s : State) (f : Power → Power) : (modPower s f).regs = s.regs := (rfl)
@[simp] theorem modPower_tiles (s : State) (f : Power → Power) : (modPower s f).tiles = s.tiles := (rfl)
@[simp] theorem modPower_looms (s : State) (f : Power → Power) : (modPower s f).looms = s.looms := (rfl)
@[simp] theorem modPower_ssems (s : State) (f : Power → Power) : (modPower s f).ssems = s.ssems := (rfl)
@[simp] theorem modPower_weaves (s : State) (f : Power → Power) : (modPower s f).weaves = s.weaves := (rfl)
@[simp] theorem modPower_bobbins (s : State) (f : Power → Power) : (modPower s f).bobbins = s.bobbins := (rfl)
@[simp] theorem modPower_heldWrites (s : State) (f : Power → Power) : (modPower s f).heldWrites = s.heldWrites := (rfl)
@[simp] theorem modPower_reqs (s : State) (f : Power → Power) : (modPower s f).reqs = s.reqs := (rfl)
@[simp] theorem modPower_evseq (s : State) (f : Power → Power) : (modPower s f).evseq = s.evseq := (rfl)
@[simp] theorem modPower_migNext (s : State) (f : Power → Power) : (modPower s f).migNext = s.migNext := (rfl)
@[simp] theorem modPower_faults (s : State) (f : Power → Power) : (modPower s f).faults = s.faults := (rfl)
@[simp] theorem modPower_fab (s : State) (f : Power → Power) : (modPower s f).fab = s.fab := (rfl)
@[simp] theorem modPower_links (s : State) (f : Power → Power) : (modPower s f).links = s.links := (rfl)
@[simp] theorem modPower_adders (s : State) (f : Power → Power) : (modPower s f).adders = s.adders := (rfl)
@[simp] theorem modPower_tlm (s : State) (f : Power → Power) : (modPower s f).tlm = s.tlm := (rfl)
@[simp] theorem modPower_slots (s : State) (f : Power → Power) : (modPower s f).slots = s.slots := (rfl)
@[simp] theorem modPower_fns (s : State) (f : Power → Power) : (modPower s f).fns = s.fns := (rfl)
@[simp] theorem modPower_sessions (s : State) (f : Power → Power) : (modPower s f).sessions = s.sessions := (rfl)
@[simp] theorem modPower_ports (s : State) (f : Power → Power) : (modPower s f).ports = s.ports := (rfl)
@[simp] theorem modPower_console (s : State) (f : Power → Power) : (modPower s f).console = s.console := (rfl)
@[simp] theorem modPower_svc (s : State) (f : Power → Power) : (modPower s f).svc = s.svc := (rfl)
@[simp] theorem modPower_nextNum (s : State) (f : Power → Power) : (modPower s f).nextNum = s.nextNum := (rfl)
@[simp] theorem modPower_free (s : State) (f : Power → Power) : (modPower s f).free = s.free := (rfl)
@[simp] theorem modPower_reply (s : State) (f : Power → Power) : (modPower s f).reply = s.reply := (rfl)
@[simp] theorem modPower_out (s : State) (f : Power → Power) : (modPower s f).out = s.out := (rfl)

@[simp] theorem modDie_pending (s : State) (d : Nat) (f : DiePower → DiePower) : (modDie s d f).pending = s.pending := (rfl)
@[simp] theorem modDie_variant (s : State) (d : Nat) (f : DiePower → DiePower) : (modDie s d f).variant = s.variant := (rfl)
@[simp] theorem modDie_mem (s : State) (d : Nat) (f : DiePower → DiePower) : (modDie s d f).mem = s.mem := (rfl)
@[simp] theorem modDie_hostMem (s : State) (d : Nat) (f : DiePower → DiePower) : (modDie s d f).hostMem = s.hostMem := (rfl)
@[simp] theorem modDie_regs (s : State) (d : Nat) (f : DiePower → DiePower) : (modDie s d f).regs = s.regs := (rfl)
@[simp] theorem modDie_tiles (s : State) (d : Nat) (f : DiePower → DiePower) : (modDie s d f).tiles = s.tiles := (rfl)
@[simp] theorem modDie_looms (s : State) (d : Nat) (f : DiePower → DiePower) : (modDie s d f).looms = s.looms := (rfl)
@[simp] theorem modDie_ssems (s : State) (d : Nat) (f : DiePower → DiePower) : (modDie s d f).ssems = s.ssems := (rfl)
@[simp] theorem modDie_weaves (s : State) (d : Nat) (f : DiePower → DiePower) : (modDie s d f).weaves = s.weaves := (rfl)
@[simp] theorem modDie_bobbins (s : State) (d : Nat) (f : DiePower → DiePower) : (modDie s d f).bobbins = s.bobbins := (rfl)
@[simp] theorem modDie_heldWrites (s : State) (d : Nat) (f : DiePower → DiePower) : (modDie s d f).heldWrites = s.heldWrites := (rfl)
@[simp] theorem modDie_reqs (s : State) (d : Nat) (f : DiePower → DiePower) : (modDie s d f).reqs = s.reqs := (rfl)
@[simp] theorem modDie_evseq (s : State) (d : Nat) (f : DiePower → DiePower) : (modDie s d f).evseq = s.evseq := (rfl)
@[simp] theorem modDie_migNext (s : State) (d : Nat) (f : DiePower → DiePower) : (modDie s d f).migNext = s.migNext := (rfl)
@[simp] theorem modDie_faults (s : State) (d : Nat) (f : DiePower → DiePower) : (modDie s d f).faults = s.faults := (rfl)
@[simp] theorem modDie_fab (s : State) (d : Nat) (f : DiePower → DiePower) : (modDie s d f).fab = s.fab := (rfl)
@[simp] theorem modDie_links (s : State) (d : Nat) (f : DiePower → DiePower) : (modDie s d f).links = s.links := (rfl)
@[simp] theorem modDie_adders (s : State) (d : Nat) (f : DiePower → DiePower) : (modDie s d f).adders = s.adders := (rfl)
@[simp] theorem modDie_tlm (s : State) (d : Nat) (f : DiePower → DiePower) : (modDie s d f).tlm = s.tlm := (rfl)
@[simp] theorem modDie_slots (s : State) (d : Nat) (f : DiePower → DiePower) : (modDie s d f).slots = s.slots := (rfl)
@[simp] theorem modDie_fns (s : State) (d : Nat) (f : DiePower → DiePower) : (modDie s d f).fns = s.fns := (rfl)
@[simp] theorem modDie_sessions (s : State) (d : Nat) (f : DiePower → DiePower) : (modDie s d f).sessions = s.sessions := (rfl)
@[simp] theorem modDie_ports (s : State) (d : Nat) (f : DiePower → DiePower) : (modDie s d f).ports = s.ports := (rfl)
@[simp] theorem modDie_console (s : State) (d : Nat) (f : DiePower → DiePower) : (modDie s d f).console = s.console := (rfl)
@[simp] theorem modDie_svc (s : State) (d : Nat) (f : DiePower → DiePower) : (modDie s d f).svc = s.svc := (rfl)
@[simp] theorem modDie_nextNum (s : State) (d : Nat) (f : DiePower → DiePower) : (modDie s d f).nextNum = s.nextNum := (rfl)
@[simp] theorem modDie_free (s : State) (d : Nat) (f : DiePower → DiePower) : (modDie s d f).free = s.free := (rfl)
@[simp] theorem modDie_reply (s : State) (d : Nat) (f : DiePower → DiePower) : (modDie s d f).reply = s.reply := (rfl)
@[simp] theorem modDie_out (s : State) (d : Nat) (f : DiePower → DiePower) : (modDie s d f).out = s.out := (rfl)

@[simp] theorem modTlm_pending (s : State) (f : Telemetry → Telemetry) : (modTlm s f).pending = s.pending := (rfl)
@[simp] theorem modTlm_variant (s : State) (f : Telemetry → Telemetry) : (modTlm s f).variant = s.variant := (rfl)
@[simp] theorem modTlm_mem (s : State) (f : Telemetry → Telemetry) : (modTlm s f).mem = s.mem := (rfl)
@[simp] theorem modTlm_hostMem (s : State) (f : Telemetry → Telemetry) : (modTlm s f).hostMem = s.hostMem := (rfl)
@[simp] theorem modTlm_regs (s : State) (f : Telemetry → Telemetry) : (modTlm s f).regs = s.regs := (rfl)
@[simp] theorem modTlm_tiles (s : State) (f : Telemetry → Telemetry) : (modTlm s f).tiles = s.tiles := (rfl)
@[simp] theorem modTlm_looms (s : State) (f : Telemetry → Telemetry) : (modTlm s f).looms = s.looms := (rfl)
@[simp] theorem modTlm_ssems (s : State) (f : Telemetry → Telemetry) : (modTlm s f).ssems = s.ssems := (rfl)
@[simp] theorem modTlm_weaves (s : State) (f : Telemetry → Telemetry) : (modTlm s f).weaves = s.weaves := (rfl)
@[simp] theorem modTlm_bobbins (s : State) (f : Telemetry → Telemetry) : (modTlm s f).bobbins = s.bobbins := (rfl)
@[simp] theorem modTlm_heldWrites (s : State) (f : Telemetry → Telemetry) : (modTlm s f).heldWrites = s.heldWrites := (rfl)
@[simp] theorem modTlm_reqs (s : State) (f : Telemetry → Telemetry) : (modTlm s f).reqs = s.reqs := (rfl)
@[simp] theorem modTlm_evseq (s : State) (f : Telemetry → Telemetry) : (modTlm s f).evseq = s.evseq := (rfl)
@[simp] theorem modTlm_migNext (s : State) (f : Telemetry → Telemetry) : (modTlm s f).migNext = s.migNext := (rfl)
@[simp] theorem modTlm_faults (s : State) (f : Telemetry → Telemetry) : (modTlm s f).faults = s.faults := (rfl)
@[simp] theorem modTlm_fab (s : State) (f : Telemetry → Telemetry) : (modTlm s f).fab = s.fab := (rfl)
@[simp] theorem modTlm_links (s : State) (f : Telemetry → Telemetry) : (modTlm s f).links = s.links := (rfl)
@[simp] theorem modTlm_adders (s : State) (f : Telemetry → Telemetry) : (modTlm s f).adders = s.adders := (rfl)
@[simp] theorem modTlm_power (s : State) (f : Telemetry → Telemetry) : (modTlm s f).power = s.power := (rfl)
@[simp] theorem modTlm_slots (s : State) (f : Telemetry → Telemetry) : (modTlm s f).slots = s.slots := (rfl)
@[simp] theorem modTlm_fns (s : State) (f : Telemetry → Telemetry) : (modTlm s f).fns = s.fns := (rfl)
@[simp] theorem modTlm_sessions (s : State) (f : Telemetry → Telemetry) : (modTlm s f).sessions = s.sessions := (rfl)
@[simp] theorem modTlm_ports (s : State) (f : Telemetry → Telemetry) : (modTlm s f).ports = s.ports := (rfl)
@[simp] theorem modTlm_console (s : State) (f : Telemetry → Telemetry) : (modTlm s f).console = s.console := (rfl)
@[simp] theorem modTlm_svc (s : State) (f : Telemetry → Telemetry) : (modTlm s f).svc = s.svc := (rfl)
@[simp] theorem modTlm_nextNum (s : State) (f : Telemetry → Telemetry) : (modTlm s f).nextNum = s.nextNum := (rfl)
@[simp] theorem modTlm_free (s : State) (f : Telemetry → Telemetry) : (modTlm s f).free = s.free := (rfl)
@[simp] theorem modTlm_reply (s : State) (f : Telemetry → Telemetry) : (modTlm s f).reply = s.reply := (rfl)
@[simp] theorem modTlm_out (s : State) (f : Telemetry → Telemetry) : (modTlm s f).out = s.out := (rfl)

@[simp] theorem modSvc_pending (s : State) (f : Svc → Svc) : (modSvc s f).pending = s.pending := (rfl)
@[simp] theorem modSvc_variant (s : State) (f : Svc → Svc) : (modSvc s f).variant = s.variant := (rfl)
@[simp] theorem modSvc_mem (s : State) (f : Svc → Svc) : (modSvc s f).mem = s.mem := (rfl)
@[simp] theorem modSvc_hostMem (s : State) (f : Svc → Svc) : (modSvc s f).hostMem = s.hostMem := (rfl)
@[simp] theorem modSvc_regs (s : State) (f : Svc → Svc) : (modSvc s f).regs = s.regs := (rfl)
@[simp] theorem modSvc_tiles (s : State) (f : Svc → Svc) : (modSvc s f).tiles = s.tiles := (rfl)
@[simp] theorem modSvc_looms (s : State) (f : Svc → Svc) : (modSvc s f).looms = s.looms := (rfl)
@[simp] theorem modSvc_ssems (s : State) (f : Svc → Svc) : (modSvc s f).ssems = s.ssems := (rfl)
@[simp] theorem modSvc_weaves (s : State) (f : Svc → Svc) : (modSvc s f).weaves = s.weaves := (rfl)
@[simp] theorem modSvc_bobbins (s : State) (f : Svc → Svc) : (modSvc s f).bobbins = s.bobbins := (rfl)
@[simp] theorem modSvc_heldWrites (s : State) (f : Svc → Svc) : (modSvc s f).heldWrites = s.heldWrites := (rfl)
@[simp] theorem modSvc_reqs (s : State) (f : Svc → Svc) : (modSvc s f).reqs = s.reqs := (rfl)
@[simp] theorem modSvc_evseq (s : State) (f : Svc → Svc) : (modSvc s f).evseq = s.evseq := (rfl)
@[simp] theorem modSvc_migNext (s : State) (f : Svc → Svc) : (modSvc s f).migNext = s.migNext := (rfl)
@[simp] theorem modSvc_faults (s : State) (f : Svc → Svc) : (modSvc s f).faults = s.faults := (rfl)
@[simp] theorem modSvc_fab (s : State) (f : Svc → Svc) : (modSvc s f).fab = s.fab := (rfl)
@[simp] theorem modSvc_links (s : State) (f : Svc → Svc) : (modSvc s f).links = s.links := (rfl)
@[simp] theorem modSvc_adders (s : State) (f : Svc → Svc) : (modSvc s f).adders = s.adders := (rfl)
@[simp] theorem modSvc_power (s : State) (f : Svc → Svc) : (modSvc s f).power = s.power := (rfl)
@[simp] theorem modSvc_tlm (s : State) (f : Svc → Svc) : (modSvc s f).tlm = s.tlm := (rfl)
@[simp] theorem modSvc_slots (s : State) (f : Svc → Svc) : (modSvc s f).slots = s.slots := (rfl)
@[simp] theorem modSvc_fns (s : State) (f : Svc → Svc) : (modSvc s f).fns = s.fns := (rfl)
@[simp] theorem modSvc_sessions (s : State) (f : Svc → Svc) : (modSvc s f).sessions = s.sessions := (rfl)
@[simp] theorem modSvc_ports (s : State) (f : Svc → Svc) : (modSvc s f).ports = s.ports := (rfl)
@[simp] theorem modSvc_console (s : State) (f : Svc → Svc) : (modSvc s f).console = s.console := (rfl)
@[simp] theorem modSvc_nextNum (s : State) (f : Svc → Svc) : (modSvc s f).nextNum = s.nextNum := (rfl)
@[simp] theorem modSvc_free (s : State) (f : Svc → Svc) : (modSvc s f).free = s.free := (rfl)
@[simp] theorem modSvc_reply (s : State) (f : Svc → Svc) : (modSvc s f).reply = s.reply := (rfl)
@[simp] theorem modSvc_out (s : State) (f : Svc → Svc) : (modSvc s f).out = s.out := (rfl)

@[simp] theorem wrN_pending (s : State) (a : Nat) (bs : List Byte) : (wrN s a bs).pending = s.pending := (rfl)
@[simp] theorem wrN_variant (s : State) (a : Nat) (bs : List Byte) : (wrN s a bs).variant = s.variant := (rfl)
@[simp] theorem wrN_hostMem (s : State) (a : Nat) (bs : List Byte) : (wrN s a bs).hostMem = s.hostMem := (rfl)
@[simp] theorem wrN_regs (s : State) (a : Nat) (bs : List Byte) : (wrN s a bs).regs = s.regs := (rfl)
@[simp] theorem wrN_tiles (s : State) (a : Nat) (bs : List Byte) : (wrN s a bs).tiles = s.tiles := (rfl)
@[simp] theorem wrN_looms (s : State) (a : Nat) (bs : List Byte) : (wrN s a bs).looms = s.looms := (rfl)
@[simp] theorem wrN_ssems (s : State) (a : Nat) (bs : List Byte) : (wrN s a bs).ssems = s.ssems := (rfl)
@[simp] theorem wrN_weaves (s : State) (a : Nat) (bs : List Byte) : (wrN s a bs).weaves = s.weaves := (rfl)
@[simp] theorem wrN_bobbins (s : State) (a : Nat) (bs : List Byte) : (wrN s a bs).bobbins = s.bobbins := (rfl)
@[simp] theorem wrN_heldWrites (s : State) (a : Nat) (bs : List Byte) : (wrN s a bs).heldWrites = s.heldWrites := (rfl)
@[simp] theorem wrN_reqs (s : State) (a : Nat) (bs : List Byte) : (wrN s a bs).reqs = s.reqs := (rfl)
@[simp] theorem wrN_evseq (s : State) (a : Nat) (bs : List Byte) : (wrN s a bs).evseq = s.evseq := (rfl)
@[simp] theorem wrN_migNext (s : State) (a : Nat) (bs : List Byte) : (wrN s a bs).migNext = s.migNext := (rfl)
@[simp] theorem wrN_faults (s : State) (a : Nat) (bs : List Byte) : (wrN s a bs).faults = s.faults := (rfl)
@[simp] theorem wrN_fab (s : State) (a : Nat) (bs : List Byte) : (wrN s a bs).fab = s.fab := (rfl)
@[simp] theorem wrN_links (s : State) (a : Nat) (bs : List Byte) : (wrN s a bs).links = s.links := (rfl)
@[simp] theorem wrN_adders (s : State) (a : Nat) (bs : List Byte) : (wrN s a bs).adders = s.adders := (rfl)
@[simp] theorem wrN_power (s : State) (a : Nat) (bs : List Byte) : (wrN s a bs).power = s.power := (rfl)
@[simp] theorem wrN_tlm (s : State) (a : Nat) (bs : List Byte) : (wrN s a bs).tlm = s.tlm := (rfl)
@[simp] theorem wrN_slots (s : State) (a : Nat) (bs : List Byte) : (wrN s a bs).slots = s.slots := (rfl)
@[simp] theorem wrN_fns (s : State) (a : Nat) (bs : List Byte) : (wrN s a bs).fns = s.fns := (rfl)
@[simp] theorem wrN_sessions (s : State) (a : Nat) (bs : List Byte) : (wrN s a bs).sessions = s.sessions := (rfl)
@[simp] theorem wrN_ports (s : State) (a : Nat) (bs : List Byte) : (wrN s a bs).ports = s.ports := (rfl)
@[simp] theorem wrN_console (s : State) (a : Nat) (bs : List Byte) : (wrN s a bs).console = s.console := (rfl)
@[simp] theorem wrN_svc (s : State) (a : Nat) (bs : List Byte) : (wrN s a bs).svc = s.svc := (rfl)
@[simp] theorem wrN_nextNum (s : State) (a : Nat) (bs : List Byte) : (wrN s a bs).nextNum = s.nextNum := (rfl)
@[simp] theorem wrN_free (s : State) (a : Nat) (bs : List Byte) : (wrN s a bs).free = s.free := (rfl)
@[simp] theorem wrN_reply (s : State) (a : Nat) (bs : List Byte) : (wrN s a bs).reply = s.reply := (rfl)
@[simp] theorem wrN_out (s : State) (a : Nat) (bs : List Byte) : (wrN s a bs).out = s.out := (rfl)

@[simp] theorem wr_pending (s : State) (a n v : Nat) : (wr s a n v).pending = s.pending := (rfl)
@[simp] theorem wr_variant (s : State) (a n v : Nat) : (wr s a n v).variant = s.variant := (rfl)
@[simp] theorem wr_hostMem (s : State) (a n v : Nat) : (wr s a n v).hostMem = s.hostMem := (rfl)
@[simp] theorem wr_regs (s : State) (a n v : Nat) : (wr s a n v).regs = s.regs := (rfl)
@[simp] theorem wr_tiles (s : State) (a n v : Nat) : (wr s a n v).tiles = s.tiles := (rfl)
@[simp] theorem wr_looms (s : State) (a n v : Nat) : (wr s a n v).looms = s.looms := (rfl)
@[simp] theorem wr_ssems (s : State) (a n v : Nat) : (wr s a n v).ssems = s.ssems := (rfl)
@[simp] theorem wr_weaves (s : State) (a n v : Nat) : (wr s a n v).weaves = s.weaves := (rfl)
@[simp] theorem wr_bobbins (s : State) (a n v : Nat) : (wr s a n v).bobbins = s.bobbins := (rfl)
@[simp] theorem wr_heldWrites (s : State) (a n v : Nat) : (wr s a n v).heldWrites = s.heldWrites := (rfl)
@[simp] theorem wr_reqs (s : State) (a n v : Nat) : (wr s a n v).reqs = s.reqs := (rfl)
@[simp] theorem wr_evseq (s : State) (a n v : Nat) : (wr s a n v).evseq = s.evseq := (rfl)
@[simp] theorem wr_migNext (s : State) (a n v : Nat) : (wr s a n v).migNext = s.migNext := (rfl)
@[simp] theorem wr_faults (s : State) (a n v : Nat) : (wr s a n v).faults = s.faults := (rfl)
@[simp] theorem wr_fab (s : State) (a n v : Nat) : (wr s a n v).fab = s.fab := (rfl)
@[simp] theorem wr_links (s : State) (a n v : Nat) : (wr s a n v).links = s.links := (rfl)
@[simp] theorem wr_adders (s : State) (a n v : Nat) : (wr s a n v).adders = s.adders := (rfl)
@[simp] theorem wr_power (s : State) (a n v : Nat) : (wr s a n v).power = s.power := (rfl)
@[simp] theorem wr_tlm (s : State) (a n v : Nat) : (wr s a n v).tlm = s.tlm := (rfl)
@[simp] theorem wr_slots (s : State) (a n v : Nat) : (wr s a n v).slots = s.slots := (rfl)
@[simp] theorem wr_fns (s : State) (a n v : Nat) : (wr s a n v).fns = s.fns := (rfl)
@[simp] theorem wr_sessions (s : State) (a n v : Nat) : (wr s a n v).sessions = s.sessions := (rfl)
@[simp] theorem wr_ports (s : State) (a n v : Nat) : (wr s a n v).ports = s.ports := (rfl)
@[simp] theorem wr_console (s : State) (a n v : Nat) : (wr s a n v).console = s.console := (rfl)
@[simp] theorem wr_svc (s : State) (a n v : Nat) : (wr s a n v).svc = s.svc := (rfl)
@[simp] theorem wr_nextNum (s : State) (a n v : Nat) : (wr s a n v).nextNum = s.nextNum := (rfl)
@[simp] theorem wr_free (s : State) (a n v : Nat) : (wr s a n v).free = s.free := (rfl)
@[simp] theorem wr_reply (s : State) (a n v : Nat) : (wr s a n v).reply = s.reply := (rfl)
@[simp] theorem wr_out (s : State) (a n v : Nat) : (wr s a n v).out = s.out := (rfl)

@[simp] theorem hostWr_pending (s : State) (a : Nat) (bs : List Byte) : (hostWr s a bs).pending = s.pending := (rfl)
@[simp] theorem hostWr_variant (s : State) (a : Nat) (bs : List Byte) : (hostWr s a bs).variant = s.variant := (rfl)
@[simp] theorem hostWr_mem (s : State) (a : Nat) (bs : List Byte) : (hostWr s a bs).mem = s.mem := (rfl)
@[simp] theorem hostWr_regs (s : State) (a : Nat) (bs : List Byte) : (hostWr s a bs).regs = s.regs := (rfl)
@[simp] theorem hostWr_tiles (s : State) (a : Nat) (bs : List Byte) : (hostWr s a bs).tiles = s.tiles := (rfl)
@[simp] theorem hostWr_looms (s : State) (a : Nat) (bs : List Byte) : (hostWr s a bs).looms = s.looms := (rfl)
@[simp] theorem hostWr_ssems (s : State) (a : Nat) (bs : List Byte) : (hostWr s a bs).ssems = s.ssems := (rfl)
@[simp] theorem hostWr_weaves (s : State) (a : Nat) (bs : List Byte) : (hostWr s a bs).weaves = s.weaves := (rfl)
@[simp] theorem hostWr_bobbins (s : State) (a : Nat) (bs : List Byte) : (hostWr s a bs).bobbins = s.bobbins := (rfl)
@[simp] theorem hostWr_heldWrites (s : State) (a : Nat) (bs : List Byte) : (hostWr s a bs).heldWrites = s.heldWrites := (rfl)
@[simp] theorem hostWr_reqs (s : State) (a : Nat) (bs : List Byte) : (hostWr s a bs).reqs = s.reqs := (rfl)
@[simp] theorem hostWr_evseq (s : State) (a : Nat) (bs : List Byte) : (hostWr s a bs).evseq = s.evseq := (rfl)
@[simp] theorem hostWr_migNext (s : State) (a : Nat) (bs : List Byte) : (hostWr s a bs).migNext = s.migNext := (rfl)
@[simp] theorem hostWr_faults (s : State) (a : Nat) (bs : List Byte) : (hostWr s a bs).faults = s.faults := (rfl)
@[simp] theorem hostWr_fab (s : State) (a : Nat) (bs : List Byte) : (hostWr s a bs).fab = s.fab := (rfl)
@[simp] theorem hostWr_links (s : State) (a : Nat) (bs : List Byte) : (hostWr s a bs).links = s.links := (rfl)
@[simp] theorem hostWr_adders (s : State) (a : Nat) (bs : List Byte) : (hostWr s a bs).adders = s.adders := (rfl)
@[simp] theorem hostWr_power (s : State) (a : Nat) (bs : List Byte) : (hostWr s a bs).power = s.power := (rfl)
@[simp] theorem hostWr_tlm (s : State) (a : Nat) (bs : List Byte) : (hostWr s a bs).tlm = s.tlm := (rfl)
@[simp] theorem hostWr_slots (s : State) (a : Nat) (bs : List Byte) : (hostWr s a bs).slots = s.slots := (rfl)
@[simp] theorem hostWr_fns (s : State) (a : Nat) (bs : List Byte) : (hostWr s a bs).fns = s.fns := (rfl)
@[simp] theorem hostWr_sessions (s : State) (a : Nat) (bs : List Byte) : (hostWr s a bs).sessions = s.sessions := (rfl)
@[simp] theorem hostWr_ports (s : State) (a : Nat) (bs : List Byte) : (hostWr s a bs).ports = s.ports := (rfl)
@[simp] theorem hostWr_console (s : State) (a : Nat) (bs : List Byte) : (hostWr s a bs).console = s.console := (rfl)
@[simp] theorem hostWr_svc (s : State) (a : Nat) (bs : List Byte) : (hostWr s a bs).svc = s.svc := (rfl)
@[simp] theorem hostWr_nextNum (s : State) (a : Nat) (bs : List Byte) : (hostWr s a bs).nextNum = s.nextNum := (rfl)
@[simp] theorem hostWr_free (s : State) (a : Nat) (bs : List Byte) : (hostWr s a bs).free = s.free := (rfl)
@[simp] theorem hostWr_reply (s : State) (a : Nat) (bs : List Byte) : (hostWr s a bs).reply = s.reply := (rfl)
@[simp] theorem hostWr_out (s : State) (a : Nat) (bs : List Byte) : (hostWr s a bs).out = s.out := (rfl)

@[simp] theorem setReg_pending (s : State) (o : Nat) (v : W64) : (setReg s o v).pending = s.pending := (rfl)
@[simp] theorem setReg_variant (s : State) (o : Nat) (v : W64) : (setReg s o v).variant = s.variant := (rfl)
@[simp] theorem setReg_mem (s : State) (o : Nat) (v : W64) : (setReg s o v).mem = s.mem := (rfl)
@[simp] theorem setReg_hostMem (s : State) (o : Nat) (v : W64) : (setReg s o v).hostMem = s.hostMem := (rfl)
@[simp] theorem setReg_tiles (s : State) (o : Nat) (v : W64) : (setReg s o v).tiles = s.tiles := (rfl)
@[simp] theorem setReg_looms (s : State) (o : Nat) (v : W64) : (setReg s o v).looms = s.looms := (rfl)
@[simp] theorem setReg_ssems (s : State) (o : Nat) (v : W64) : (setReg s o v).ssems = s.ssems := (rfl)
@[simp] theorem setReg_weaves (s : State) (o : Nat) (v : W64) : (setReg s o v).weaves = s.weaves := (rfl)
@[simp] theorem setReg_bobbins (s : State) (o : Nat) (v : W64) : (setReg s o v).bobbins = s.bobbins := (rfl)
@[simp] theorem setReg_heldWrites (s : State) (o : Nat) (v : W64) : (setReg s o v).heldWrites = s.heldWrites := (rfl)
@[simp] theorem setReg_reqs (s : State) (o : Nat) (v : W64) : (setReg s o v).reqs = s.reqs := (rfl)
@[simp] theorem setReg_evseq (s : State) (o : Nat) (v : W64) : (setReg s o v).evseq = s.evseq := (rfl)
@[simp] theorem setReg_migNext (s : State) (o : Nat) (v : W64) : (setReg s o v).migNext = s.migNext := (rfl)
@[simp] theorem setReg_faults (s : State) (o : Nat) (v : W64) : (setReg s o v).faults = s.faults := (rfl)
@[simp] theorem setReg_fab (s : State) (o : Nat) (v : W64) : (setReg s o v).fab = s.fab := (rfl)
@[simp] theorem setReg_links (s : State) (o : Nat) (v : W64) : (setReg s o v).links = s.links := (rfl)
@[simp] theorem setReg_adders (s : State) (o : Nat) (v : W64) : (setReg s o v).adders = s.adders := (rfl)
@[simp] theorem setReg_power (s : State) (o : Nat) (v : W64) : (setReg s o v).power = s.power := (rfl)
@[simp] theorem setReg_tlm (s : State) (o : Nat) (v : W64) : (setReg s o v).tlm = s.tlm := (rfl)
@[simp] theorem setReg_slots (s : State) (o : Nat) (v : W64) : (setReg s o v).slots = s.slots := (rfl)
@[simp] theorem setReg_fns (s : State) (o : Nat) (v : W64) : (setReg s o v).fns = s.fns := (rfl)
@[simp] theorem setReg_sessions (s : State) (o : Nat) (v : W64) : (setReg s o v).sessions = s.sessions := (rfl)
@[simp] theorem setReg_ports (s : State) (o : Nat) (v : W64) : (setReg s o v).ports = s.ports := (rfl)
@[simp] theorem setReg_console (s : State) (o : Nat) (v : W64) : (setReg s o v).console = s.console := (rfl)
@[simp] theorem setReg_svc (s : State) (o : Nat) (v : W64) : (setReg s o v).svc = s.svc := (rfl)
@[simp] theorem setReg_nextNum (s : State) (o : Nat) (v : W64) : (setReg s o v).nextNum = s.nextNum := (rfl)
@[simp] theorem setReg_free (s : State) (o : Nat) (v : W64) : (setReg s o v).free = s.free := (rfl)
@[simp] theorem setReg_reply (s : State) (o : Nat) (v : W64) : (setReg s o v).reply = s.reply := (rfl)
@[simp] theorem setReg_out (s : State) (o : Nat) (v : W64) : (setReg s o v).out = s.out := (rfl)

@[simp] theorem orReg_pending (s : State) (o : Nat) (v : W64) : (orReg s o v).pending = s.pending := (rfl)
@[simp] theorem orReg_variant (s : State) (o : Nat) (v : W64) : (orReg s o v).variant = s.variant := (rfl)
@[simp] theorem orReg_mem (s : State) (o : Nat) (v : W64) : (orReg s o v).mem = s.mem := (rfl)
@[simp] theorem orReg_hostMem (s : State) (o : Nat) (v : W64) : (orReg s o v).hostMem = s.hostMem := (rfl)
@[simp] theorem orReg_tiles (s : State) (o : Nat) (v : W64) : (orReg s o v).tiles = s.tiles := (rfl)
@[simp] theorem orReg_looms (s : State) (o : Nat) (v : W64) : (orReg s o v).looms = s.looms := (rfl)
@[simp] theorem orReg_ssems (s : State) (o : Nat) (v : W64) : (orReg s o v).ssems = s.ssems := (rfl)
@[simp] theorem orReg_weaves (s : State) (o : Nat) (v : W64) : (orReg s o v).weaves = s.weaves := (rfl)
@[simp] theorem orReg_bobbins (s : State) (o : Nat) (v : W64) : (orReg s o v).bobbins = s.bobbins := (rfl)
@[simp] theorem orReg_heldWrites (s : State) (o : Nat) (v : W64) : (orReg s o v).heldWrites = s.heldWrites := (rfl)
@[simp] theorem orReg_reqs (s : State) (o : Nat) (v : W64) : (orReg s o v).reqs = s.reqs := (rfl)
@[simp] theorem orReg_evseq (s : State) (o : Nat) (v : W64) : (orReg s o v).evseq = s.evseq := (rfl)
@[simp] theorem orReg_migNext (s : State) (o : Nat) (v : W64) : (orReg s o v).migNext = s.migNext := (rfl)
@[simp] theorem orReg_faults (s : State) (o : Nat) (v : W64) : (orReg s o v).faults = s.faults := (rfl)
@[simp] theorem orReg_fab (s : State) (o : Nat) (v : W64) : (orReg s o v).fab = s.fab := (rfl)
@[simp] theorem orReg_links (s : State) (o : Nat) (v : W64) : (orReg s o v).links = s.links := (rfl)
@[simp] theorem orReg_adders (s : State) (o : Nat) (v : W64) : (orReg s o v).adders = s.adders := (rfl)
@[simp] theorem orReg_power (s : State) (o : Nat) (v : W64) : (orReg s o v).power = s.power := (rfl)
@[simp] theorem orReg_tlm (s : State) (o : Nat) (v : W64) : (orReg s o v).tlm = s.tlm := (rfl)
@[simp] theorem orReg_slots (s : State) (o : Nat) (v : W64) : (orReg s o v).slots = s.slots := (rfl)
@[simp] theorem orReg_fns (s : State) (o : Nat) (v : W64) : (orReg s o v).fns = s.fns := (rfl)
@[simp] theorem orReg_sessions (s : State) (o : Nat) (v : W64) : (orReg s o v).sessions = s.sessions := (rfl)
@[simp] theorem orReg_ports (s : State) (o : Nat) (v : W64) : (orReg s o v).ports = s.ports := (rfl)
@[simp] theorem orReg_console (s : State) (o : Nat) (v : W64) : (orReg s o v).console = s.console := (rfl)
@[simp] theorem orReg_svc (s : State) (o : Nat) (v : W64) : (orReg s o v).svc = s.svc := (rfl)
@[simp] theorem orReg_nextNum (s : State) (o : Nat) (v : W64) : (orReg s o v).nextNum = s.nextNum := (rfl)
@[simp] theorem orReg_free (s : State) (o : Nat) (v : W64) : (orReg s o v).free = s.free := (rfl)
@[simp] theorem orReg_reply (s : State) (o : Nat) (v : W64) : (orReg s o v).reply = s.reply := (rfl)
@[simp] theorem orReg_out (s : State) (o : Nat) (v : W64) : (orReg s o v).out = s.out := (rfl)

@[simp] theorem countReg_pending (s : State) (o n : Nat) : (countReg s o n).pending = s.pending := (rfl)
@[simp] theorem countReg_variant (s : State) (o n : Nat) : (countReg s o n).variant = s.variant := (rfl)
@[simp] theorem countReg_mem (s : State) (o n : Nat) : (countReg s o n).mem = s.mem := (rfl)
@[simp] theorem countReg_hostMem (s : State) (o n : Nat) : (countReg s o n).hostMem = s.hostMem := (rfl)
@[simp] theorem countReg_tiles (s : State) (o n : Nat) : (countReg s o n).tiles = s.tiles := (rfl)
@[simp] theorem countReg_looms (s : State) (o n : Nat) : (countReg s o n).looms = s.looms := (rfl)
@[simp] theorem countReg_ssems (s : State) (o n : Nat) : (countReg s o n).ssems = s.ssems := (rfl)
@[simp] theorem countReg_weaves (s : State) (o n : Nat) : (countReg s o n).weaves = s.weaves := (rfl)
@[simp] theorem countReg_bobbins (s : State) (o n : Nat) : (countReg s o n).bobbins = s.bobbins := (rfl)
@[simp] theorem countReg_heldWrites (s : State) (o n : Nat) : (countReg s o n).heldWrites = s.heldWrites := (rfl)
@[simp] theorem countReg_reqs (s : State) (o n : Nat) : (countReg s o n).reqs = s.reqs := (rfl)
@[simp] theorem countReg_evseq (s : State) (o n : Nat) : (countReg s o n).evseq = s.evseq := (rfl)
@[simp] theorem countReg_migNext (s : State) (o n : Nat) : (countReg s o n).migNext = s.migNext := (rfl)
@[simp] theorem countReg_faults (s : State) (o n : Nat) : (countReg s o n).faults = s.faults := (rfl)
@[simp] theorem countReg_fab (s : State) (o n : Nat) : (countReg s o n).fab = s.fab := (rfl)
@[simp] theorem countReg_links (s : State) (o n : Nat) : (countReg s o n).links = s.links := (rfl)
@[simp] theorem countReg_adders (s : State) (o n : Nat) : (countReg s o n).adders = s.adders := (rfl)
@[simp] theorem countReg_power (s : State) (o n : Nat) : (countReg s o n).power = s.power := (rfl)
@[simp] theorem countReg_tlm (s : State) (o n : Nat) : (countReg s o n).tlm = s.tlm := (rfl)
@[simp] theorem countReg_slots (s : State) (o n : Nat) : (countReg s o n).slots = s.slots := (rfl)
@[simp] theorem countReg_fns (s : State) (o n : Nat) : (countReg s o n).fns = s.fns := (rfl)
@[simp] theorem countReg_sessions (s : State) (o n : Nat) : (countReg s o n).sessions = s.sessions := (rfl)
@[simp] theorem countReg_ports (s : State) (o n : Nat) : (countReg s o n).ports = s.ports := (rfl)
@[simp] theorem countReg_console (s : State) (o n : Nat) : (countReg s o n).console = s.console := (rfl)
@[simp] theorem countReg_svc (s : State) (o n : Nat) : (countReg s o n).svc = s.svc := (rfl)
@[simp] theorem countReg_nextNum (s : State) (o n : Nat) : (countReg s o n).nextNum = s.nextNum := (rfl)
@[simp] theorem countReg_free (s : State) (o n : Nat) : (countReg s o n).free = s.free := (rfl)
@[simp] theorem countReg_reply (s : State) (o n : Nat) : (countReg s o n).reply = s.reply := (rfl)
@[simp] theorem countReg_out (s : State) (o n : Nat) : (countReg s o n).out = s.out := (rfl)

@[simp] theorem count48_pending (s : State) (o n : Nat) : (count48 s o n).pending = s.pending := (rfl)
@[simp] theorem count48_variant (s : State) (o n : Nat) : (count48 s o n).variant = s.variant := (rfl)
@[simp] theorem count48_mem (s : State) (o n : Nat) : (count48 s o n).mem = s.mem := (rfl)
@[simp] theorem count48_hostMem (s : State) (o n : Nat) : (count48 s o n).hostMem = s.hostMem := (rfl)
@[simp] theorem count48_tiles (s : State) (o n : Nat) : (count48 s o n).tiles = s.tiles := (rfl)
@[simp] theorem count48_looms (s : State) (o n : Nat) : (count48 s o n).looms = s.looms := (rfl)
@[simp] theorem count48_ssems (s : State) (o n : Nat) : (count48 s o n).ssems = s.ssems := (rfl)
@[simp] theorem count48_weaves (s : State) (o n : Nat) : (count48 s o n).weaves = s.weaves := (rfl)
@[simp] theorem count48_bobbins (s : State) (o n : Nat) : (count48 s o n).bobbins = s.bobbins := (rfl)
@[simp] theorem count48_heldWrites (s : State) (o n : Nat) : (count48 s o n).heldWrites = s.heldWrites := (rfl)
@[simp] theorem count48_reqs (s : State) (o n : Nat) : (count48 s o n).reqs = s.reqs := (rfl)
@[simp] theorem count48_evseq (s : State) (o n : Nat) : (count48 s o n).evseq = s.evseq := (rfl)
@[simp] theorem count48_migNext (s : State) (o n : Nat) : (count48 s o n).migNext = s.migNext := (rfl)
@[simp] theorem count48_faults (s : State) (o n : Nat) : (count48 s o n).faults = s.faults := (rfl)
@[simp] theorem count48_fab (s : State) (o n : Nat) : (count48 s o n).fab = s.fab := (rfl)
@[simp] theorem count48_links (s : State) (o n : Nat) : (count48 s o n).links = s.links := (rfl)
@[simp] theorem count48_adders (s : State) (o n : Nat) : (count48 s o n).adders = s.adders := (rfl)
@[simp] theorem count48_power (s : State) (o n : Nat) : (count48 s o n).power = s.power := (rfl)
@[simp] theorem count48_tlm (s : State) (o n : Nat) : (count48 s o n).tlm = s.tlm := (rfl)
@[simp] theorem count48_slots (s : State) (o n : Nat) : (count48 s o n).slots = s.slots := (rfl)
@[simp] theorem count48_fns (s : State) (o n : Nat) : (count48 s o n).fns = s.fns := (rfl)
@[simp] theorem count48_sessions (s : State) (o n : Nat) : (count48 s o n).sessions = s.sessions := (rfl)
@[simp] theorem count48_ports (s : State) (o n : Nat) : (count48 s o n).ports = s.ports := (rfl)
@[simp] theorem count48_console (s : State) (o n : Nat) : (count48 s o n).console = s.console := (rfl)
@[simp] theorem count48_svc (s : State) (o n : Nat) : (count48 s o n).svc = s.svc := (rfl)
@[simp] theorem count48_nextNum (s : State) (o n : Nat) : (count48 s o n).nextNum = s.nextNum := (rfl)
@[simp] theorem count48_free (s : State) (o n : Nat) : (count48 s o n).free = s.free := (rfl)
@[simp] theorem count48_reply (s : State) (o n : Nat) : (count48 s o n).reply = s.reply := (rfl)
@[simp] theorem count48_out (s : State) (o n : Nat) : (count48 s o n).out = s.out := (rfl)

@[simp] theorem clearRegs_pending (s : State) (b n : Nat) : (clearRegs s b n).pending = s.pending := (rfl)
@[simp] theorem clearRegs_variant (s : State) (b n : Nat) : (clearRegs s b n).variant = s.variant := (rfl)
@[simp] theorem clearRegs_mem (s : State) (b n : Nat) : (clearRegs s b n).mem = s.mem := (rfl)
@[simp] theorem clearRegs_hostMem (s : State) (b n : Nat) : (clearRegs s b n).hostMem = s.hostMem := (rfl)
@[simp] theorem clearRegs_tiles (s : State) (b n : Nat) : (clearRegs s b n).tiles = s.tiles := (rfl)
@[simp] theorem clearRegs_looms (s : State) (b n : Nat) : (clearRegs s b n).looms = s.looms := (rfl)
@[simp] theorem clearRegs_ssems (s : State) (b n : Nat) : (clearRegs s b n).ssems = s.ssems := (rfl)
@[simp] theorem clearRegs_weaves (s : State) (b n : Nat) : (clearRegs s b n).weaves = s.weaves := (rfl)
@[simp] theorem clearRegs_bobbins (s : State) (b n : Nat) : (clearRegs s b n).bobbins = s.bobbins := (rfl)
@[simp] theorem clearRegs_heldWrites (s : State) (b n : Nat) : (clearRegs s b n).heldWrites = s.heldWrites := (rfl)
@[simp] theorem clearRegs_reqs (s : State) (b n : Nat) : (clearRegs s b n).reqs = s.reqs := (rfl)
@[simp] theorem clearRegs_evseq (s : State) (b n : Nat) : (clearRegs s b n).evseq = s.evseq := (rfl)
@[simp] theorem clearRegs_migNext (s : State) (b n : Nat) : (clearRegs s b n).migNext = s.migNext := (rfl)
@[simp] theorem clearRegs_faults (s : State) (b n : Nat) : (clearRegs s b n).faults = s.faults := (rfl)
@[simp] theorem clearRegs_fab (s : State) (b n : Nat) : (clearRegs s b n).fab = s.fab := (rfl)
@[simp] theorem clearRegs_links (s : State) (b n : Nat) : (clearRegs s b n).links = s.links := (rfl)
@[simp] theorem clearRegs_adders (s : State) (b n : Nat) : (clearRegs s b n).adders = s.adders := (rfl)
@[simp] theorem clearRegs_power (s : State) (b n : Nat) : (clearRegs s b n).power = s.power := (rfl)
@[simp] theorem clearRegs_tlm (s : State) (b n : Nat) : (clearRegs s b n).tlm = s.tlm := (rfl)
@[simp] theorem clearRegs_slots (s : State) (b n : Nat) : (clearRegs s b n).slots = s.slots := (rfl)
@[simp] theorem clearRegs_fns (s : State) (b n : Nat) : (clearRegs s b n).fns = s.fns := (rfl)
@[simp] theorem clearRegs_sessions (s : State) (b n : Nat) : (clearRegs s b n).sessions = s.sessions := (rfl)
@[simp] theorem clearRegs_ports (s : State) (b n : Nat) : (clearRegs s b n).ports = s.ports := (rfl)
@[simp] theorem clearRegs_console (s : State) (b n : Nat) : (clearRegs s b n).console = s.console := (rfl)
@[simp] theorem clearRegs_svc (s : State) (b n : Nat) : (clearRegs s b n).svc = s.svc := (rfl)
@[simp] theorem clearRegs_nextNum (s : State) (b n : Nat) : (clearRegs s b n).nextNum = s.nextNum := (rfl)
@[simp] theorem clearRegs_free (s : State) (b n : Nat) : (clearRegs s b n).free = s.free := (rfl)
@[simp] theorem clearRegs_reply (s : State) (b n : Nat) : (clearRegs s b n).reply = s.reply := (rfl)
@[simp] theorem clearRegs_out (s : State) (b n : Nat) : (clearRegs s b n).out = s.out := (rfl)

@[simp] theorem drawFree_pending (s : State) (n : Nat) : (drawFree s n).2.pending = s.pending := (rfl)
@[simp] theorem drawFree_variant (s : State) (n : Nat) : (drawFree s n).2.variant = s.variant := (rfl)
@[simp] theorem drawFree_mem (s : State) (n : Nat) : (drawFree s n).2.mem = s.mem := (rfl)
@[simp] theorem drawFree_hostMem (s : State) (n : Nat) : (drawFree s n).2.hostMem = s.hostMem := (rfl)
@[simp] theorem drawFree_regs (s : State) (n : Nat) : (drawFree s n).2.regs = s.regs := (rfl)
@[simp] theorem drawFree_tiles (s : State) (n : Nat) : (drawFree s n).2.tiles = s.tiles := (rfl)
@[simp] theorem drawFree_looms (s : State) (n : Nat) : (drawFree s n).2.looms = s.looms := (rfl)
@[simp] theorem drawFree_ssems (s : State) (n : Nat) : (drawFree s n).2.ssems = s.ssems := (rfl)
@[simp] theorem drawFree_weaves (s : State) (n : Nat) : (drawFree s n).2.weaves = s.weaves := (rfl)
@[simp] theorem drawFree_bobbins (s : State) (n : Nat) : (drawFree s n).2.bobbins = s.bobbins := (rfl)
@[simp] theorem drawFree_heldWrites (s : State) (n : Nat) : (drawFree s n).2.heldWrites = s.heldWrites := (rfl)
@[simp] theorem drawFree_reqs (s : State) (n : Nat) : (drawFree s n).2.reqs = s.reqs := (rfl)
@[simp] theorem drawFree_evseq (s : State) (n : Nat) : (drawFree s n).2.evseq = s.evseq := (rfl)
@[simp] theorem drawFree_migNext (s : State) (n : Nat) : (drawFree s n).2.migNext = s.migNext := (rfl)
@[simp] theorem drawFree_faults (s : State) (n : Nat) : (drawFree s n).2.faults = s.faults := (rfl)
@[simp] theorem drawFree_fab (s : State) (n : Nat) : (drawFree s n).2.fab = s.fab := (rfl)
@[simp] theorem drawFree_links (s : State) (n : Nat) : (drawFree s n).2.links = s.links := (rfl)
@[simp] theorem drawFree_adders (s : State) (n : Nat) : (drawFree s n).2.adders = s.adders := (rfl)
@[simp] theorem drawFree_power (s : State) (n : Nat) : (drawFree s n).2.power = s.power := (rfl)
@[simp] theorem drawFree_tlm (s : State) (n : Nat) : (drawFree s n).2.tlm = s.tlm := (rfl)
@[simp] theorem drawFree_slots (s : State) (n : Nat) : (drawFree s n).2.slots = s.slots := (rfl)
@[simp] theorem drawFree_fns (s : State) (n : Nat) : (drawFree s n).2.fns = s.fns := (rfl)
@[simp] theorem drawFree_sessions (s : State) (n : Nat) : (drawFree s n).2.sessions = s.sessions := (rfl)
@[simp] theorem drawFree_ports (s : State) (n : Nat) : (drawFree s n).2.ports = s.ports := (rfl)
@[simp] theorem drawFree_console (s : State) (n : Nat) : (drawFree s n).2.console = s.console := (rfl)
@[simp] theorem drawFree_svc (s : State) (n : Nat) : (drawFree s n).2.svc = s.svc := (rfl)
@[simp] theorem drawFree_nextNum (s : State) (n : Nat) : (drawFree s n).2.nextNum = s.nextNum := (rfl)
@[simp] theorem drawFree_reply (s : State) (n : Nat) : (drawFree s n).2.reply = s.reply := (rfl)
@[simp] theorem drawFree_out (s : State) (n : Nat) : (drawFree s n).2.out = s.out := (rfl)

@[simp] theorem setLoom_looms (s : State) (l : Nat) (x : Loom) : (setLoom s l x).looms = tput s.looms l x := (rfl)
@[simp] theorem setTile_tiles (s : State) (t : Nat) (x : Tile) : (setTile s t x).tiles = tput s.tiles t x := (rfl)
@[simp] theorem setSession_sessions (s : State) (n : Nat) (x : Session) : (setSession s n x).sessions = tput s.sessions n x := (rfl)
@[simp] theorem setReq_reqs (s : State) (e : Nat) (x : Req) : (setReq s e x).reqs = tput s.reqs e x := (rfl)
@[simp] theorem modPower_power (s : State) (f : Power → Power) : (modPower s f).power = f s.power := (rfl)
@[simp] theorem modTlm_tlm (s : State) (f : Telemetry → Telemetry) : (modTlm s f).tlm = f s.tlm := (rfl)
@[simp] theorem modSvc_svc (s : State) (f : Svc → Svc) : (modSvc s f).svc = f s.svc := (rfl)
@[simp] theorem wrN_mem (s : State) (a : Nat) (bs : List Byte) : (wrN s a bs).mem = memSetN s.mem a bs := (rfl)
@[simp] theorem wr_mem (s : State) (a n v : Nat) : (wr s a n v).mem = memSetN s.mem a (toLe n v) := (rfl)
@[simp] theorem hostWr_hostMem (s : State) (a : Nat) (bs : List Byte) : (hostWr s a bs).hostMem = memSetN s.hostMem a bs := (rfl)
@[simp] theorem drawFree_free (s : State) (n : Nat) : (drawFree s n).2.free = s.free + n := (rfl)
@[simp] theorem drawFree_fst (s : State) (n : Nat) : (drawFree s n).1 = s.free := (rfl)

/-! ## Strands -/

@[simp] theorem Strand.next_active (x : Strand) : (x.next).active = x.active := (rfl)
@[simp] theorem Strand.next_ended (x : Strand) : (x.next).ended = x.ended := (rfl)
@[simp] theorem Strand.next_s (x : Strand) : (x.next).s = x.s := (rfl)
@[simp] theorem Strand.next_v (x : Strand) : (x.next).v = x.v := (rfl)
@[simp] theorem Strand.next_p (x : Strand) : (x.next).p = x.p := (rfl)
@[simp] theorem Strand.next_asw (x : Strand) : (x.next).asw = x.asw := (rfl)
@[simp] theorem Strand.next_tagNext (x : Strand) : (x.next).tagNext = x.tagNext := (rfl)
@[simp] theorem Strand.next_tags (x : Strand) : (x.next).tags = x.tags := (rfl)
@[simp] theorem Strand.next_blocked (x : Strand) : (x.next).blocked = x.blocked := (rfl)
@[simp] theorem Strand.next_cycles (x : Strand) : (x.next).cycles = x.cycles := (rfl)
@[simp] theorem Strand.next_tap (x : Strand) : (x.next).tap = x.tap := (rfl)
@[simp] theorem Strand.next_tapSums (x : Strand) : (x.next).tapSums = x.tapSums := (rfl)
@[simp] theorem Strand.flag_active (x : Strand) (w : W64) : (x.flag w).active = x.active := (rfl)
@[simp] theorem Strand.flag_ended (x : Strand) (w : W64) : (x.flag w).ended = x.ended := (rfl)
@[simp] theorem Strand.flag_pc (x : Strand) (w : W64) : (x.flag w).pc = x.pc := (rfl)
@[simp] theorem Strand.flag_s (x : Strand) (w : W64) : (x.flag w).s = x.s := (rfl)
@[simp] theorem Strand.flag_v (x : Strand) (w : W64) : (x.flag w).v = x.v := (rfl)
@[simp] theorem Strand.flag_p (x : Strand) (w : W64) : (x.flag w).p = x.p := (rfl)
@[simp] theorem Strand.flag_tagNext (x : Strand) (w : W64) : (x.flag w).tagNext = x.tagNext := (rfl)
@[simp] theorem Strand.flag_tags (x : Strand) (w : W64) : (x.flag w).tags = x.tags := (rfl)
@[simp] theorem Strand.flag_blocked (x : Strand) (w : W64) : (x.flag w).blocked = x.blocked := (rfl)
@[simp] theorem Strand.flag_cycles (x : Strand) (w : W64) : (x.flag w).cycles = x.cycles := (rfl)
@[simp] theorem Strand.flag_tap (x : Strand) (w : W64) : (x.flag w).tap = x.tap := (rfl)
@[simp] theorem Strand.flag_tapSums (x : Strand) (w : W64) : (x.flag w).tapSums = x.tapSums := (rfl)
@[simp] theorem Strand.vput_active (x : Strand) (r t : Nat) (w : W32) : (x.vput r t w).active = x.active := (rfl)
@[simp] theorem Strand.vput_ended (x : Strand) (r t : Nat) (w : W32) : (x.vput r t w).ended = x.ended := (rfl)
@[simp] theorem Strand.vput_pc (x : Strand) (r t : Nat) (w : W32) : (x.vput r t w).pc = x.pc := (rfl)
@[simp] theorem Strand.vput_s (x : Strand) (r t : Nat) (w : W32) : (x.vput r t w).s = x.s := (rfl)
@[simp] theorem Strand.vput_p (x : Strand) (r t : Nat) (w : W32) : (x.vput r t w).p = x.p := (rfl)
@[simp] theorem Strand.vput_asw (x : Strand) (r t : Nat) (w : W32) : (x.vput r t w).asw = x.asw := (rfl)
@[simp] theorem Strand.vput_tagNext (x : Strand) (r t : Nat) (w : W32) : (x.vput r t w).tagNext = x.tagNext := (rfl)
@[simp] theorem Strand.vput_tags (x : Strand) (r t : Nat) (w : W32) : (x.vput r t w).tags = x.tags := (rfl)
@[simp] theorem Strand.vput_blocked (x : Strand) (r t : Nat) (w : W32) : (x.vput r t w).blocked = x.blocked := (rfl)
@[simp] theorem Strand.vput_cycles (x : Strand) (r t : Nat) (w : W32) : (x.vput r t w).cycles = x.cycles := (rfl)
@[simp] theorem Strand.vput_tap (x : Strand) (r t : Nat) (w : W32) : (x.vput r t w).tap = x.tap := (rfl)
@[simp] theorem Strand.vput_tapSums (x : Strand) (r t : Nat) (w : W32) : (x.vput r t w).tapSums = x.tapSums := (rfl)
@[simp] theorem Strand.sput_active (x : Strand) (r : Nat) (w : W64) : (x.sput r w).active = x.active := by unfold Strand.sput; split <;> rfl
@[simp] theorem Strand.sput_ended (x : Strand) (r : Nat) (w : W64) : (x.sput r w).ended = x.ended := by unfold Strand.sput; split <;> rfl
@[simp] theorem Strand.sput_pc (x : Strand) (r : Nat) (w : W64) : (x.sput r w).pc = x.pc := by unfold Strand.sput; split <;> rfl
@[simp] theorem Strand.sput_v (x : Strand) (r : Nat) (w : W64) : (x.sput r w).v = x.v := by unfold Strand.sput; split <;> rfl
@[simp] theorem Strand.sput_p (x : Strand) (r : Nat) (w : W64) : (x.sput r w).p = x.p := by unfold Strand.sput; split <;> rfl
@[simp] theorem Strand.sput_asw (x : Strand) (r : Nat) (w : W64) : (x.sput r w).asw = x.asw := by unfold Strand.sput; split <;> rfl
@[simp] theorem Strand.sput_tagNext (x : Strand) (r : Nat) (w : W64) : (x.sput r w).tagNext = x.tagNext := by unfold Strand.sput; split <;> rfl
@[simp] theorem Strand.sput_tags (x : Strand) (r : Nat) (w : W64) : (x.sput r w).tags = x.tags := by unfold Strand.sput; split <;> rfl
@[simp] theorem Strand.sput_blocked (x : Strand) (r : Nat) (w : W64) : (x.sput r w).blocked = x.blocked := by unfold Strand.sput; split <;> rfl
@[simp] theorem Strand.sput_cycles (x : Strand) (r : Nat) (w : W64) : (x.sput r w).cycles = x.cycles := by unfold Strand.sput; split <;> rfl
@[simp] theorem Strand.sput_tap (x : Strand) (r : Nat) (w : W64) : (x.sput r w).tap = x.tap := by unfold Strand.sput; split <;> rfl
@[simp] theorem Strand.sput_tapSums (x : Strand) (r : Nat) (w : W64) : (x.sput r w).tapSums = x.tapSums := by unfold Strand.sput; split <;> rfl
@[simp] theorem Strand.pput_active (x : Strand) (r t : Nat) (w : Bool) : (x.pput r t w).active = x.active := by unfold Strand.pput; split <;> rfl
@[simp] theorem Strand.pput_ended (x : Strand) (r t : Nat) (w : Bool) : (x.pput r t w).ended = x.ended := by unfold Strand.pput; split <;> rfl
@[simp] theorem Strand.pput_pc (x : Strand) (r t : Nat) (w : Bool) : (x.pput r t w).pc = x.pc := by unfold Strand.pput; split <;> rfl
@[simp] theorem Strand.pput_s (x : Strand) (r t : Nat) (w : Bool) : (x.pput r t w).s = x.s := by unfold Strand.pput; split <;> rfl
@[simp] theorem Strand.pput_v (x : Strand) (r t : Nat) (w : Bool) : (x.pput r t w).v = x.v := by unfold Strand.pput; split <;> rfl
@[simp] theorem Strand.pput_asw (x : Strand) (r t : Nat) (w : Bool) : (x.pput r t w).asw = x.asw := by unfold Strand.pput; split <;> rfl
@[simp] theorem Strand.pput_tagNext (x : Strand) (r t : Nat) (w : Bool) : (x.pput r t w).tagNext = x.tagNext := by unfold Strand.pput; split <;> rfl
@[simp] theorem Strand.pput_tags (x : Strand) (r t : Nat) (w : Bool) : (x.pput r t w).tags = x.tags := by unfold Strand.pput; split <;> rfl
@[simp] theorem Strand.pput_blocked (x : Strand) (r t : Nat) (w : Bool) : (x.pput r t w).blocked = x.blocked := by unfold Strand.pput; split <;> rfl
@[simp] theorem Strand.pput_cycles (x : Strand) (r t : Nat) (w : Bool) : (x.pput r t w).cycles = x.cycles := by unfold Strand.pput; split <;> rfl
@[simp] theorem Strand.pput_tap (x : Strand) (r t : Nat) (w : Bool) : (x.pput r t w).tap = x.tap := by unfold Strand.pput; split <;> rfl
@[simp] theorem Strand.pput_tapSums (x : Strand) (r t : Nat) (w : Bool) : (x.pput r t w).tapSums = x.tapSums := by unfold Strand.pput; split <;> rfl
@[simp] theorem Strand.next_pc (x : Strand) : x.next.pc = x.pc + 1 := (rfl)
@[simp] theorem Strand.flag_asw (x : Strand) (w : W64) : (x.flag w).asw = x.asw ||| w := (rfl)

end Sys2Proof.Machine
end

