-- ==== Sys2Proof/Laws/Commands.lean ====
section
/-! SUPPORT. What the operations that every meaning is built from can do: the gates, the runs of a command of a ring, events, the end of a
command, and an instruction's fault. -/
namespace Sys2Proof.Machine
open Sys2Proof

/-! ## Gates -/

/-- A module that is not dark runs an operation; a dark one keeps its state (R425). -/
theorem alive_light {s : State} (f : State → State) (h : s.svc.dark = false) : alive s f = f s := by simp [alive, h]
theorem alive_dark {s : State} (f : State → State) (h : s.svc.dark = true) : alive s f = s := by simp [alive, h]

/-- A console command needs a login (R468). -/
theorem consoleRun_open {s : State} (f : State → State) (hl : s.console.loggedIn = true) (hd : s.svc.dark = false) (hr : s.svc.st ≠ .recovery) :
    consoleRun s f = f s := by simp [consoleRun, hl, hd, hr]
theorem consoleRun_shut {s : State} (f : State → State) (hl : s.console.loggedIn = false) : consoleRun s f = s := by simp [consoleRun, hl]

/-! ## Commands of a ring (R461, R462) -/

/-- A ring with no command in progress: nothing happens. -/
theorem cmdRun_none {s : State} {sess ring : Nat} (f : Taken → Except Byte (State × List Byte)) (h : takenOf s sess ring = none) :
    cmdRun s sess ring f = s := by simp [cmdRun, h]

/-- A command that has begun is not run again. -/
theorem cmdRun_started {s : State} {sess ring : Nat} {t : Taken} (f : Taken → Except Byte (State × List Byte)) (h : takenOf s sess ring = some t)
    (hs : t.started = true) : cmdRun s sess ring f = s := by simp [cmdRun, h, hs]

/-- A command that is refused ends with the status and has no other effect. -/
theorem cmdRun_error {s : State} {sess ring : Nat} {t : Taken} {st : Byte} (f : Taken → Except Byte (State × List Byte))
    (h : takenOf s sess ring = some t) (hs : t.started = false) (hf : f t = .error st) : cmdRun s sess ring f = finish s sess ring st := by
  simp [cmdRun, h, hs, hf]

/-- A command that runs has its effect and ends OK with its result. -/
theorem cmdRun_ok {s u : State} {sess ring : Nat} {t : Taken} {r : List Byte} (f : Taken → Except Byte (State × List Byte))
    (h : takenOf s sess ring = some t) (hs : t.started = false) (hf : f t = .ok (u, r)) : cmdRun s sess ring f = finish u sess ring stOk r := by
  simp [cmdRun, h, hs, hf]

/-- A configuration command that the loom admits. -/
theorem cfgRun_ok {s : State} {sess ring : Nat} {t : Taken} (f : Taken → Except Byte (State × List Byte)) (h : takenOf s sess ring = some t)
    (hs : t.started = false) (hr : cfgRefusal s sess t.loom = none) : cfgRun s sess ring f = cmdRun s sess ring f := by
  simp [cfgRun, cmdRun, h, hs, hr]

/-- A configuration command that the loom does not admit (R232, R234). -/
theorem cfgRun_refused {s : State} {sess ring : Nat} {t : Taken} {st : Byte} (f : Taken → Except Byte (State × List Byte))
    (h : takenOf s sess ring = some t) (hs : t.started = false) (hr : cfgRefusal s sess t.loom = some st) :
    cfgRun s sess ring f = finish s sess ring st := by
  simp [cfgRun, cmdRun, h, hs, hr]

/-- A loom command on a loom of the session, in a state that the command admits. -/
theorem loomRun_ok {s : State} {sess ring : Nat} {t : Taken} {sts : List LoomState} (f : Nat → Taken → Except Byte (State × List Byte))
    (h : takenOf s sess ring = some t) (hs : t.started = false) (ho : loomOwned s sess t.loom = true)
    (hst : sts.contains (getLoom s t.loom).st = true) : loomRun s sess ring sts f = cmdRun s sess ring (f t.loom) := by
  simp only [loomRun, cmdRun, h, hs, ho, hst, Bool.not_true, Bool.false_eq_true, if_false]

/-- A loom command on a loom that is not the session's (R232). -/
theorem loomRun_foreign {s : State} {sess ring : Nat} {t : Taken} {sts : List LoomState} (f : Nat → Taken → Except Byte (State × List Byte))
    (h : takenOf s sess ring = some t) (hs : t.started = false) (ho : loomOwned s sess t.loom = false) :
    loomRun s sess ring sts f = finish s sess ring stPerm := by
  simp [loomRun, cmdRun, h, hs, ho]

/-- A loom command in a state that it does not admit. -/
theorem loomRun_state {s : State} {sess ring : Nat} {t : Taken} {sts : List LoomState} (f : Nat → Taken → Except Byte (State × List Byte))
    (h : takenOf s sess ring = some t) (hs : t.started = false) (ho : loomOwned s sess t.loom = true)
    (hst : sts.contains (getLoom s t.loom).st = false) : loomRun s sess ring sts f = finish s sess ring stNotStopped := by
  simp only [loomRun, cmdRun, h, hs, ho, hst, Bool.not_true, Bool.not_false, Bool.false_eq_true, if_false, if_true]

/-! ## Events (R194) -/

theorem evtToSession_regs (s : State) (n : Nat) (e : EvtRec) : (evtToSession s n e).regs = s.regs := by
  unfold evtToSession
  dsimp only
  split
  · rfl
  · split <;> simp only [setSession_regs, hostWr_regs]

theorem sendEvt_regs (s : State) (e : EvtRec) : (sendEvt s e).regs = s.regs := by
  have go : ∀ (l : List Nat) (s : State), (l.foldl (fun s n => if (getSession s n).opened then evtToSession s n e else s) s).regs = s.regs := by
    intro l
    induction l with
    | nil => intro s; rfl
    | cons n l ih =>
      intro s
      rw [List.foldl_cons, ih]
      split
      · exact evtToSession_regs s n e
      · rfl
  unfold sendEvt
  split
  · split
    · exact evtToSession_regs _ _ e
    · rfl
  · exact go _ s

/-- An event sets its bit of the block's status register and changes no other register. -/
theorem raiseEvt_regs (s : State) (src : Src) (bit : Nat) (loom : Option Nat) (unit detail : Nat) :
    (raiseEvt s src bit loom unit detail).regs = (orReg s src.status (BitVec.ofNat 64 (2 ^ bit))).regs := by
  unfold raiseEvt
  dsimp only
  split
  · exact sendEvt_regs _ _
  · rfl

/-! ## The end of a command -/

/-- With no command in progress there is nothing to end. -/
theorem finish_none {s : State} {sess ring : Nat} (st : Byte) (r : List Byte) (h : takenOf s sess ring = none) : finish s sess ring st r = s := by
  simp [finish, h]

/-- Without its completion ring a command still leaves its ring free. -/
theorem postCpl_none {s : State} {sess ring : Nat} (st : Byte) (op : Nat) (tag : W32) (r : List Byte)
    (h : tfind (getSession s sess).cpl (cplOf (getSession s sess) ring) = none) : postCpl s sess ring st op tag r = s := by
  simp [postCpl, h]

/-! ## An instruction's fault (R154) -/

/-- A fault other than UNCORRECTED: the loom stops issuing, its dobby command will end with the first such status, the fault is recorded
and the event raised; nothing else of the loom changes. -/
theorem insnFault_stops {s : State} {l : Nat} {a : Issuer} {st : Byte} (w : W64) (h : st ≠ stUncorr) :
    insnFault s l a st w = raiseEvt (setLoom s l { recordFault (getLoom s l) w st a.tile a.strand (getStrand s a).pc.toNat with
      st := if (recordFault (getLoom s l) w st a.tile a.strand (getStrand s a).pc.toNat).st = .running then .stopping
        else (recordFault (getLoom s l) w st a.tile a.strand (getStrand s a).pc.toNat).st, stopIssue := true, cmd := (recordFault (getLoom s l) w st a.tile a.strand (getStrand s a).pc.toNat).cmd.map fun c => { c with endStatus := some (c.endStatus.getD st) } }) .lmgr 0 (some l) := by
  simp only [insnFault, if_neg h]

end Sys2Proof.Machine
end

