-- ==== Sys2Proof/Laws/Tables.lean ====
section
/-! SUPPORT. Reading what was written: tables, looms, tiles, strands and their registers, sessions, requests, registers of
BAR0. -/
namespace Sys2Proof.Machine

variable {α : Type}

/-! ## Tables -/

@[simp] theorem tget_tput (d : α) (t : Table α) (i k : Nat) (x : α) :
    tget d (tput t i x) k = if i = k then x else tget d t k := by
  induction t with
  | nil => simp [tput, tget]
  | cons p r ih =>
    obtain ⟨j, v⟩ := p
    simp only [tput]
    split
    · next h => subst h; simp only [tget]; split <;> simp_all
    · split
      · simp [tget]
      · simp only [tget, ih]; split <;> split <;> simp_all

@[simp] theorem tfind_tput (t : Table α) (i k : Nat) (x : α) :
    tfind (tput t i x) k = if i = k then some x else tfind t k := by
  induction t with
  | nil => simp [tput, tfind]
  | cons p r ih =>
    obtain ⟨j, v⟩ := p
    simp only [tput]
    split
    · next h => subst h; simp only [tfind]; split <;> simp_all
    · split
      · simp [tfind]
      · simp only [tfind, ih]; split <;> split <;> simp_all

@[simp] theorem tget_tdel (d : α) (t : Table α) (i k : Nat) :
    tget d (tdel t i) k = if i = k then d else tget d t k := by
  induction t with
  | nil => simp [tdel, tget]
  | cons p r ih =>
    obtain ⟨j, v⟩ := p
    simp only [tdel, List.filter_cons] at *
    by_cases h : j = i
    · subst h; simp [tget, ih]
      by_cases hk : j = k <;> simp [hk]
    · simp [h, tget, ih]
      by_cases hj : j = k
      · simp [hj]; intro e; omega
      · simp [hj]

@[simp] theorem tget_tset [DecidableEq α] (d : α) (t : Table α) (i k : Nat) (x : α) :
    tget d (tset d t i x) k = if i = k then x else tget d t k := by
  simp only [tset]; split
  · next h => simp [h]
  · simp

@[simp] theorem tget_tmod (d : α) (t : Table α) (i k : Nat) (f : α → α) :
    tget d (tmod d t i f) k = if i = k then f (tget d t i) else tget d t k := by simp [tmod]

@[simp] theorem tget_nil (d : α) (k : Nat) : tget d ([] : Table α) k = d := rfl

/-! ## Parts of the state -/

@[simp] theorem getLoom_setLoom (s : State) (l k : Nat) (x : Loom) :
    getLoom (setLoom s l x) k = if l = k then x else getLoom s k := by simp [getLoom]
@[simp] theorem getLoom_modLoom (s : State) (l k : Nat) (f : Loom → Loom) :
    getLoom (modLoom s l f) k = if l = k then f (getLoom s l) else getLoom s k := by simp [modLoom]
@[simp] theorem getTile_setTile (s : State) (t k : Nat) (x : Tile) :
    getTile (setTile s t x) k = if t = k then x else getTile s k := by simp [getTile]
@[simp] theorem getTile_modTile (s : State) (t k : Nat) (f : Tile → Tile) :
    getTile (modTile s t f) k = if t = k then f (getTile s t) else getTile s k := by simp [modTile]
theorem getStrand_setStrand (s : State) (a b : Issuer) (x : Strand) :
    getStrand (setStrand s a x) b = if a = b then x else getStrand s b := by
  obtain ⟨t, k⟩ := a; obtain ⟨u, j⟩ := b
  simp only [getStrand, setStrand, getTile_modTile, Issuer.mk.injEq]
  by_cases h : t = u <;> simp [h]
@[simp] theorem getStrand_setStrand_same (s : State) (a : Issuer) (x : Strand) : getStrand (setStrand s a x) a = x := by
  simp [getStrand_setStrand]
@[simp] theorem getStrand_modStrand_same (s : State) (a : Issuer) (f : Strand → Strand) :
    getStrand (modStrand s a f) a = f (getStrand s a) := by simp [modStrand]
@[simp] theorem getSession_setSession (s : State) (n k : Nat) (x : Session) :
    getSession (setSession s n x) k = if n = k then x else getSession s k := by simp [getSession]
@[simp] theorem getSession_modSession (s : State) (n k : Nat) (f : Session → Session) :
    getSession (modSession s n f) k = if n = k then f (getSession s n) else getSession s k := by simp [modSession]
@[simp] theorem getReq_setReq (s : State) (e k : Nat) (x : Req) :
    getReq (setReq s e x) k = if e = k then x else getReq s k := by simp [getReq]
@[simp] theorem getReq_modReq (s : State) (e k : Nat) (f : Req → Req) :
    getReq (modReq s e f) k = if e = k then f (getReq s e) else getReq s k := by simp [modReq]
@[simp] theorem getDie_modDie (s : State) (d k : Nat) (f : DiePower → DiePower) :
    getDie (modDie s d f) k = if d = k then f (getDie s d) else getDie s k := by simp [getDie, modDie, modPower]
@[simp] theorem getReg_setReg (s : State) (o k : Nat) (v : W64) :
    getReg (setReg s o v) k = if o = k then v else getReg s k := by
  simp only [getReg, setReg]
  by_cases h : o = k
  · subst h; simp
  · have : ∀ (d e : W64) (t : Table W64), tget d (tset e t o v) k = tget d t k := by
      intro d e t
      simp only [tset]; split <;> simp [h]
    simp [this, h]
@[simp] theorem getReg_orReg (s : State) (o k : Nat) (v : W64) :
    getReg (orReg s o v) k = if o = k then getReg s o ||| v else getReg s k := by simp [orReg]
@[simp] theorem getReg_countReg (s : State) (o n k : Nat) :
    getReg (countReg s o n) k = if o = k then BitVec.ofNat 64 (satAdd 0xFFFFFFFF (getReg s o).toNat n) else getReg s k := by
  simp [countReg]

/-! ## Registers of a strand (Table 4-2) -/

@[simp] theorem Strand.sget_zero (x : Strand) : x.sget 0 = 0 := by simp [Strand.sget]
@[simp] theorem Strand.sput_zero (x : Strand) (v : W64) : x.sput 0 v = x := by simp [Strand.sput]
@[simp] theorem Strand.pget_zero (x : Strand) (t : Nat) : x.pget 0 t = true := by simp [Strand.pget]
@[simp] theorem Strand.pput_zero (x : Strand) (t : Nat) (v : Bool) : x.pput 0 t v = x := by simp [Strand.pput]
theorem Strand.sget_sput (x : Strand) (r k : Nat) (v : W64) :
    (x.sput r v).sget k = if r = k ∧ r ≠ 0 then v else x.sget k := by
  unfold Strand.sput Strand.sget
  by_cases hr : r = 0
  · simp [hr]
  · by_cases hk : k = 0
    · simp [hr, hk]
    · by_cases h : r = k <;> simp [hr, hk, h]
theorem Strand.vget_vput (x : Strand) (r t k u : Nat) (v : W32) (ht : t < 32) (hu : u < 32) :
    (x.vput r t v).vget k u = if r = k ∧ t = u then v else x.vget k u := by
  simp only [Strand.vput, Strand.vget, tget_tset]
  by_cases h : r = k ∧ t = u
  · simp [h]
  · have : r * 32 + t ≠ k * 32 + u := by omega
    simp [h, this]
theorem Strand.pget_pput (x : Strand) (r t k u : Nat) (v : Bool) (ht : t < 32) (hu : u < 32) :
    (x.pput r t v).pget k u = if r = k ∧ t = u ∧ r ≠ 0 then v else x.pget k u := by
  unfold Strand.pput Strand.pget
  by_cases hr : r = 0
  · simp [hr]
  · by_cases hk : k = 0
    · simp [hr, hk]
    · by_cases h : r = k ∧ t = u
      · simp [hk, h]
      · have h2 : r * 32 + t ≠ k * 32 + u := by omega
        rw [if_neg hr, if_neg hk, if_neg hk, if_neg fun q => h ⟨q.1, q.2.1⟩]
        simp [h2]

end Sys2Proof.Machine
end

