-- ==== Sys2Proof/Laws/Memory.lean ====
section
/-! SUPPORT. Memory: reading after a write, and the canonical form that every memory operation keeps. -/
namespace Sys2Proof.Machine

@[simp] theorem memGet_memSet (m : List Host.Cell) (a k : Nat) (b : Byte) :
    memGet (memSet m a b) k = if a = k then b else memGet m k := by simp [memGet, memSet]

/-- What a range reads after a write to it: the bytes written inside it, the old ones outside. -/
theorem memGet_memSetN (bs : List Byte) : ∀ (m : List Host.Cell) (a k : Nat),
    memGet (memSetN m a bs) k = if a ≤ k ∧ k < a + bs.length then bs.getD (k - a) 0 else memGet m k := by
  induction bs with
  | nil => intro m a k; simp [memSetN]
  | cons b r ih =>
    intro m a k
    simp only [memSetN, ih, memGet_memSet, List.length_cons]
    by_cases h : a = k
    · subst h; simp
    · by_cases h1 : a + 1 ≤ k ∧ k < a + 1 + r.length
      · have h2 : a ≤ k ∧ k < a + (r.length + 1) := by omega
        have h3 : k - a = (k - (a + 1)) + 1 := by omega
        simp [h1, h2, h3]
      · have h2 : ¬ (a ≤ k ∧ k < a + (r.length + 1)) := by omega
        rw [if_neg h1, if_neg h2, if_neg h]

theorem memGet_outside (m : List Host.Cell) (a k : Nat) (bs : List Byte) (h : k < a ∨ a + bs.length ≤ k) :
    memGet (memSetN m a bs) k = memGet m k := by
  rw [memGet_memSetN, if_neg (by omega)]

@[simp] theorem toLe_length (n v : Nat) : (toLe n v).length = n := by
  induction n generalizing v with
  | zero => rfl
  | succ n ih => simp [toLe, ih]

/-! ## The canonical form -/

theorem cellsFrom_cons {lo k : Nat} {v : Byte} {r : List Host.Cell} :
    cellsFrom lo ((k, v) :: r) = true ↔ lo ≤ k ∧ v ≠ 0 ∧ cellsFrom (k + 1) r = true := by
  simp only [cellsFrom, Bool.and_eq_true, decide_eq_true_eq, and_assoc]

theorem cellsFrom_mono {lo hi : Nat} (h : lo ≤ hi) : ∀ {m : List Host.Cell}, cellsFrom hi m = true → cellsFrom lo m = true
  | [], _ => rfl
  | (k, v) :: r, hm => by
    rw [cellsFrom_cons] at *
    exact ⟨Nat.le_trans h hm.1, hm.2⟩

theorem cellsFrom_tput {b : Byte} (hb : b ≠ 0) (a : Nat) : ∀ {m : List Host.Cell} {lo : Nat}, lo ≤ a →
    cellsFrom lo m = true → cellsFrom lo (tput m a b) = true
  | [], lo, h, _ => cellsFrom_cons.2 ⟨h, hb, rfl⟩
  | (k, v) :: r, lo, h, hm => by
    have hm := cellsFrom_cons.1 hm
    simp only [tput]
    split
    · next e => subst e; exact cellsFrom_cons.2 ⟨h, hb, hm.2.2⟩
    · split
      · next h1 h2 => exact cellsFrom_cons.2 ⟨h, hb, cellsFrom_cons.2 ⟨h2, hm.2⟩⟩
      · next h1 h2 => exact cellsFrom_cons.2 ⟨hm.1, hm.2.1, cellsFrom_tput hb a (by omega) hm.2.2⟩

theorem cellsFrom_filter (p : Host.Cell → Bool) : ∀ {m : List Host.Cell} {lo : Nat}, cellsFrom lo m = true →
    cellsFrom lo (m.filter p) = true
  | [], _, _ => rfl
  | (k, v) :: r, lo, hm => by
    have hm := cellsFrom_cons.1 hm
    have ih := cellsFrom_filter p hm.2.2
    rw [List.filter_cons]
    split
    · exact cellsFrom_cons.2 ⟨hm.1, hm.2.1, ih⟩
    · exact cellsFrom_mono (by omega) ih

theorem memSet_wf {m : List Host.Cell} (a : Nat) (b : Byte) (h : Memory.wf m = true) : Memory.wf (memSet m a b) = true := by
  unfold Memory.wf memSet tset at *
  split
  · exact cellsFrom_filter _ h
  · next hb => exact cellsFrom_tput hb a (Nat.zero_le _) h

theorem memSetN_wf (bs : List Byte) : ∀ {m : List Host.Cell} (a : Nat), Memory.wf m = true → Memory.wf (memSetN m a bs) = true := by
  induction bs with
  | nil => intro m a h; exact h
  | cons b r ih => intro m a h; exact ih _ (memSet_wf a b h)

theorem memClear_wf {m : List Host.Cell} (a n : Nat) (h : Memory.wf m = true) : Memory.wf (memClear m a n) = true :=
  cellsFrom_filter _ h

/-- Equal reads make equal memories: the canonical form lists no more than it must. -/
theorem cellsFrom_get_below {m : List Host.Cell} {lo k : Nat} (h : cellsFrom lo m = true) (hk : k < lo) : memGet m k = 0 := by
  induction m generalizing lo with
  | nil => rfl
  | cons p r ih =>
    obtain ⟨j, v⟩ := p
    simp only [cellsFrom, Bool.and_eq_true, decide_eq_true_eq] at h
    have hj : j ≠ k := by omega
    have := ih (lo := j + 1) h.2 (by omega)
    simpa [memGet, tget, hj] using this

end Sys2Proof.Machine
end

