-- ==== Sys2Proof/Laws/Crypto.lean ====
section
/-! SUPPORT. What the byte strings and the digests of the host interface satisfy: lengths, and the round trip of a number and its bytes. -/
namespace Sys2Proof.Machine

/-- A byte string is below the power of 256 that its length gives. -/
theorem leNat_lt (bs : List Byte) : leNat bs < 256 ^ bs.length := by
  induction bs with
  | nil => simp [leNat]
  | cons b r ih =>
    have hb : b.toNat < 256 := b.isLt
    simp only [leNat, List.length_cons, Nat.pow_succ]
    omega

/-- The bytes of the number that a byte string spells are that string. -/
theorem toLe_leNat (bs : List Byte) : toLe bs.length (leNat bs) = bs := by
  induction bs with
  | nil => rfl
  | cons b r ih =>
    have hb : b.toNat < 256 := b.isLt
    have hq : (b.toNat + 256 * leNat r) / 256 = leNat r := by omega
    have hm : BitVec.ofNat 8 (b.toNat + 256 * leNat r) = b := by
      apply BitVec.eq_of_toNat_eq
      rw [BitVec.toNat_ofNat]
      omega
    simp only [List.length_cons, leNat, toLe, hq, hm, ih]

/-- A round keeps eight working words. -/
theorem shaRound_length {w : Nat} (r : ShaRot) (v : List (BitVec w)) (kw : BitVec w × BitVec w) : (shaRound r v kw).length = 8 := rfl

/-- All rounds of a block keep eight working words. -/
theorem shaRounds_length {w : Nat} (r : ShaRot) (xs : List (BitVec w × BitVec w)) (v : List (BitVec w)) (h : v.length = 8) :
    (xs.foldl (shaRound r) v).length = 8 := by
  induction xs generalizing v with
  | nil => exact h
  | cons x xs ih => exact ih _ (shaRound_length r v x)

/-- Every block keeps eight chaining words. -/
theorem shaBlocks_length {w : Nat} (r : ShaRot) (k : List (BitVec w)) (n : Nat) (bs : List Byte) (h : List (BitVec w)) (hh : h.length = 8) :
    (shaBlocks r k n bs h).length = 8 := by
  induction n generalizing bs h with
  | zero => exact hh
  | succ n ih =>
    apply ih
    simp [shaRounds_length r _ h hh, hh]

/-- A SHA-256 digest has 32 bytes. -/
theorem sha256_length (m : List Byte) : (sha256 m).length = 32 := by
  have h8 : sha256H.length = 8 := by decide +kernel
  have spell : ∀ l : List W32, l.length = 8 → ((l.take 8).flatMap fun x => toBe (32 / 8) x.toNat).length = 32 := by
    intro l h
    match l, h with
    | [_, _, _, _, _, _, _, _], _ => rfl
  exact spell _ (shaBlocks_length _ _ _ _ _ h8)

/-- An HMAC has 32 bytes. -/
theorem hmac256_length (key m : List Byte) : (hmac256 key m).length = 32 := by
  unfold hmac256; exact sha256_length _

/-- A value of PBKDF2 has 32 bytes. -/
theorem pbkdf2_length (pw salt : List Byte) (iters : Nat) : (pbkdf2 pw salt iters).length = 32 := by
  have go : ∀ n u t, t.length = 32 → (pbkdf2Go pw n u t).length = 32 := by
    intro n
    induction n with
    | zero => intro u t h; exact h
    | succ n ih => intro u t h; apply ih; simp [hmac256_length, h]
  exact go _ _ _ (hmac256_length _ _)

end Sys2Proof.Machine
end

