-- ==== Sys2Proof/Laws/Issue.lean ====
section
/-! SUPPORT. What issuing an instruction answers (R117, R154): the fields of an instruction's word, and the one lemma about
issue for a strand whose PC names the word. -/
namespace Sys2Proof.Machine

/-! ## The class and operation of a word -/

theorem bits_append_high {m n : Nat} (x : BitVec m) (y : BitVec n) (hi lo : Nat) (h : n ≤ lo) (hl : lo ≤ hi) :
    bits (x ++ y).toNat hi lo = bits x.toNat (hi - n) (lo - n) := by
  have hy := y.isLt
  simp only [bits, BitVec.toNat_append, Nat.shiftRight_eq_div_pow]
  have e : x.toNat <<< n ||| y.toNat = x.toNat * 2 ^ n + y.toNat := by
    rw [← Nat.shiftLeft_add_eq_or_of_lt hy, Nat.shiftLeft_eq]
  have e2 : (x.toNat * 2 ^ n + y.toNat) / 2 ^ lo = x.toNat / 2 ^ (lo - n) := by
    obtain ⟨k, rfl⟩ := Nat.exists_eq_add_of_le h
    rw [Nat.pow_add, ← Nat.div_div_eq_div_mul, Nat.add_sub_cancel_left, Nat.add_comm, Nat.add_mul_div_right _ _ (Nat.two_pow_pos n),
      Nat.div_eq_of_lt hy, Nat.zero_add]
  rw [e, e2]
  congr 2
  omega

theorem bits_class (c : Nat) (hc : c < 16) : bits (BitVec.ofNat 4 c).toNat 3 0 = c := by
  simp only [bits, BitVec.toNat_ofNat, Nat.shiftRight_eq_div_pow]
  omega

theorem bits_op (c o : Nat) (hc : c < 16) (ho : o < 64) : bits (BitVec.ofNat 4 c ++ BitVec.ofNat 6 o).toNat 5 0 = o := by
  have hc' : c % 2 ^ 4 = c := Nat.mod_eq_of_lt (by omega)
  have ho' : o % 2 ^ 6 = o := Nat.mod_eq_of_lt (by omega)
  have e1 : c <<< 6 ||| o = c * 64 + o := by
    rw [← Nat.shiftLeft_add_eq_or_of_lt (by omega : o < 2 ^ 6), Nat.shiftLeft_eq]
  simp only [BitVec.toNat_append, BitVec.toNat_ofNat, hc', ho', e1, bits, Nat.shiftRight_eq_div_pow]
  omega

theorem listed_wordR (c o : Nat) (f : FmtR) (hc : c < 16) (ho : o < 64) : listed (wordR c o f) = (listedOps c).contains o := by
  simp only [listed, wordR]
  repeat rw [bits_append_high _ _ _ _ (by decide) (by decide)]
  rw [bits_class c hc, bits_op c o hc ho]

theorem listed_wordI (c o : Nat) (f : FmtI) (hc : c < 16) (ho : o < 64) : listed (wordI c o f) = (listedOps c).contains o := by
  simp only [listed, wordI]
  repeat rw [bits_append_high _ _ _ _ (by decide) (by decide)]
  rw [bits_class c hc, bits_op c o hc ho]

theorem listed_wordB (c o : Nat) (f : FmtB) (hc : c < 16) (ho : o < 64) : listed (wordB c o f) = (listedOps c).contains o := by
  simp only [listed, wordB]
  repeat rw [bits_append_high _ _ _ _ (by decide) (by decide)]
  rw [bits_class c hc, bits_op c o hc ho]

theorem listed_wordM (c o : Nat) (f : FmtM) (hc : c < 16) (ho : o < 64) : listed (wordM c o f) = (listedOps c).contains o := by
  simp only [listed, wordM]
  repeat rw [bits_append_high _ _ _ _ (by decide) (by decide)]
  rw [bits_class c hc, bits_op c o hc ho]

theorem listed_wordD (c o : Nat) (f : FmtD) (hc : c < 16) (ho : o < 64) : listed (wordD c o f) = (listedOps c).contains o := by
  simp only [listed, wordD]
  repeat rw [bits_append_high _ _ _ _ (by decide) (by decide)]
  rw [bits_class c hc, bits_op c o hc ho]

/-! ## Issue -/

/-- Issue of a listed word at the strand's PC: what its meaning comes to. -/
theorem issue_at {s : State} {a : Issuer} {l : Nat} {w : W64} (k : Nat → Strand → IRes) (h : Issues s a l w) (hw : listed w = true) :
    issue s a w k = match k l (getStrand s a) with
      | .done s' => s'
      | .fault st => insnFault s l a st w
      | .poisoned rs => insnFault (meetUnits s (some l) rs) l a stUncorr w
      | .stall => s := by
  simp [issue, h.1, h.2, hw] <;> rfl

/-- Nothing issues for a strand that may not issue. -/
theorem issue_none {s : State} {a : Issuer} (w : W64) (k : Nat → Strand → IRes) (h : canIssue s a = none) : issue s a w k = s := by
  simp [issue, h]

/-- An instruction over its own strand whose fields are in order. -/
theorem issueReg_at {s : State} {a : Issuer} {l : Nat} {w : W64} {ok : Bool} (k : Nat → Strand → Except Byte Strand) {z : Strand}
    (h : Issues s a l w) (hw : listed w = true) (hok : ok = true) (hk : k l (getStrand s a) = .ok z) :
    issueReg s a w ok k = setStrand s a z := by
  simp [issueReg, issue_at _ h hw, hok, hk]

/-- An instruction whose fields are not in order faults with BAD_COMMAND. -/
theorem issueReg_bad {s : State} {a : Issuer} {l : Nat} {w : W64} {ok : Bool} (k : Nat → Strand → Except Byte Strand)
    (h : Issues s a l w) (hw : listed w = true) (hok : ok = false) : issueReg s a w ok k = insnFault s l a stBad w := by
  simp [issueReg, issue_at _ h hw, hok]

end Sys2Proof.Machine
end

