-- ==== Sys2Proof/Laws/Layout.lean ====
section
/-! SUPPORT. The placing of areas in the stacks (R209, R227): a place is found whenever the room is ample, wherever the earlier
areas were put. -/
namespace Sys2Proof.Machine

/-- One of the gaps has size bytes when the room less the bytes in use has them for every gap. -/
theorem gaps_ample (size : Nat) : ∀ (l : List (Nat × Nat)) (lo hi : Nat), (l.map (·.2)).sum + (l.length + 1) * size ≤ hi - lo →
    ∃ g ∈ gaps lo hi l, size ≤ g.2
  | [], lo, hi, h => ⟨(lo, hi - lo), by simp [gaps], by simpa using h⟩
  | (a, n) :: r, lo, hi, h => by
    by_cases hs : size ≤ a - lo
    · exact ⟨(lo, a - lo), by simp [gaps], hs⟩
    · have h2 : (r.map (·.2)).sum + (r.length + 1) * size ≤ hi - max lo (a + n) := by
        simp only [List.map_cons, List.sum_cons, List.length_cons] at h
        have e : (r.length + 1 + 1) * size = (r.length + 1) * size + size := by ring
        rw [e] at h
        omega
      obtain ⟨g, hg, h3⟩ := gaps_ample size r _ hi h2
      exact ⟨g, by simp [gaps, hg], h3⟩

/-- The positions of a gap. -/
def gapCount (size : Nat) (g : Nat × Nat) : Nat := if g.2 < size then 0 else (g.2 - size) / 4096 + 1

theorem inGaps_isSome (size : Nat) : ∀ (gs : List (Nat × Nat)) (i : Nat), i < (gs.map (gapCount size)).sum → (inGaps size gs i).isSome = true
  | [], _, h => by simp at h
  | (a, len) :: r, i, h => by
    simp only [List.map_cons, List.sum_cons] at h
    have e : inGaps size ((a, len) :: r) i =
        if i < gapCount size (a, len) then some (a + i * 4096) else inGaps size r (i - gapCount size (a, len)) := rfl
    rw [e]
    split
    · rfl
    · exact inGaps_isSome size r _ (by omega)

/-- A place is found, and nothing changes but the count of free values. -/
theorem stackPlace_ample (s : State) (used : List (Nat × Nat)) (n : Nat)
    (h : (used.map (·.2)).sum + (used.length + 1) * max 4096 (align4k n) ≤ Config.memEnd s.variant) :
    ∃ a, stackPlace s used n = (some a, (drawFree s 1).2) := by
  have hp := List.mergeSort_perm used (fun a b => decide (a.1 ≤ b.1))
  have hsum : ((used.mergeSort fun a b => decide (a.1 ≤ b.1)).map (·.2)).sum = (used.map (·.2)).sum := (hp.map _).sum_eq
  obtain ⟨g, hg, hge⟩ := gaps_ample (max 4096 (align4k n)) (used.mergeSort fun a b => decide (a.1 ≤ b.1)) 0 (Config.memEnd s.variant)
    (by rw [hsum, hp.length_eq]; simpa using h)
  have hpos : 0 < ((gaps 0 (Config.memEnd s.variant) (used.mergeSort fun a b => decide (a.1 ≤ b.1))).map (gapCount (max 4096 (align4k n)))).sum := by
    have h1 : 0 < gapCount (max 4096 (align4k n)) g := by unfold gapCount; split <;> omega
    exact Nat.lt_of_lt_of_le h1 (List.single_le_sum (by simp) _ (List.mem_map_of_mem hg))
  obtain ⟨a, ha⟩ := Option.isSome_iff_exists.mp (inGaps_isSome _ _ _ (Nat.mod_lt (Config.freeNat (drawFree s 1).1) hpos))
  refine ⟨a, ?_⟩
  simp only [stackPlace]
  rw [if_neg (by exact Nat.pos_iff_ne_zero.mp hpos)]
  exact congrArg (·, (drawFree s 1).2) ha

/-- Three places are found, one after the other, when the room is ample. -/
theorem stackPlace_three (s : State) (used : List (Nat × Nat)) (m n p x y z : Nat) (hx : max 4096 (align4k m) = x)
    (hy : max 4096 (align4k n) = y) (hz : max 4096 (align4k p) = z)
    (h : (used.map (·.2)).sum + (used.length + 3) * (x + y + z) ≤ Config.memEnd s.variant) :
    ∃ a b c, stackPlace s used m = (some a, (drawFree s 1).2) ∧
      stackPlace (drawFree s 1).2 (used ++ [(a, align4k m)]) n = (some b, (drawFree (drawFree s 1).2 1).2) ∧
      stackPlace (drawFree (drawFree s 1).2 1).2 (used ++ [(a, align4k m)] ++ [(b, align4k n)]) p =
        (some c, (drawFree (drawFree (drawFree s 1).2 1).2 1).2) := by
  have hxl : align4k m ≤ x := hx ▸ le_max_right _ _
  have hyl : align4k n ≤ y := hy ▸ le_max_right _ _
  have e : (used.length + 3) * (x + y + z) =
      (used.length + 1) * x + 2 * x + ((used.length + 1 + 1) * y + y) + (used.length + 1 + 1 + 1) * z := by ring
  rw [e] at h
  clear e
  have h1 : (used.map (·.2)).sum + (used.length + 1) * x ≤ Config.memEnd s.variant := by omega
  have h2 : (used.map (·.2)).sum + x + (used.length + 1 + 1) * y ≤ Config.memEnd s.variant := by omega
  have h3 : (used.map (·.2)).sum + x + y + (used.length + 1 + 1 + 1) * z ≤ Config.memEnd s.variant := by omega
  clear h
  obtain ⟨a, ha⟩ := stackPlace_ample s used m (by rw [hx]; exact h1)
  obtain ⟨b, hb⟩ := stackPlace_ample (drawFree s 1).2 (used ++ [(a, align4k m)]) n (by
    simp only [List.map_append, List.sum_append, List.map_cons, List.map_nil, List.sum_cons, List.sum_nil, List.length_append,
      List.length_cons, List.length_nil, Nat.zero_add, Nat.add_zero, hy]
    exact le_trans (by omega) h2)
  obtain ⟨c, hc⟩ := stackPlace_ample (drawFree (drawFree s 1).2 1).2 (used ++ [(a, align4k m)] ++ [(b, align4k n)]) p (by
    simp only [List.map_append, List.sum_append, List.map_cons, List.map_nil, List.sum_cons, List.sum_nil, List.length_append,
      List.length_cons, List.length_nil, Nat.zero_add, Nat.add_zero, hz]
    exact le_trans (by omega) h3)
  exact ⟨a, b, c, ha, hb, hc⟩

/-- A loom's three areas are found when the room is ample. -/
theorem createAreas_ample (s : State) (bays : List Nat) (x y z : Nat) (hx : max 4096 (align4k (32 * bays.length)) = x)
    (hy : max 4096 (align4k (parkBytes bays.length 1024)) = y) (hz : max 4096 (align4k (bays.length * 120 * 2 ^ 20)) = z)
    (h : ((stackUsed s).map (·.2)).sum + ((stackUsed s).length + 3) * (x + y + z) ≤ Config.memEnd s.variant) :
    (createAreas s bays).isSome = true := by
  obtain ⟨a, b, c, ha, hb, hc⟩ := stackPlace_three s (stackUsed s) _ _ _ x y z hx hy hz h
  simp only [createAreas, ha, hb, hc, Option.isSome_some]

end Sys2Proof.Machine
end

