-- ==== Sys2Proof/Laws/LoomsSame.lean ====
section
/-! SUPPORT. The shared operations that leave the looms as they are: one lemma for each that several operations call. -/
namespace Sys2Proof.Machine
open Sys2Proof
set_option linter.unusedTactic false
set_option linter.unreachableTactic false
set_option linter.unusedSimpArgs false
theorem State_foldl_looms {α : Type} (g : State → α → State) (hg : ∀ s x, (g s x).looms = s.looms) (l : List α) (s : State) : (l.foldl g s).looms = s.looms := by
  induction l generalizing s with
  | nil => rfl
  | cons x l ih => simp only [List.foldl_cons, ih, hg]
theorem CollOut_foldl_looms {α : Type} (g : CollOut → α → CollOut) (hg : ∀ s x, (g s x).s.looms = s.s.looms) (l : List α) (s : CollOut) : (l.foldl g s).s.looms = s.s.looms := by
  induction l generalizing s with
  | nil => rfl
  | cons x l ih => simp only [List.foldl_cons, ih, hg]
theorem Lay_foldl_looms {α : Type} (g : Lay → α → Lay) (hg : ∀ s x, (g s x).s.looms = s.s.looms) (l : List α) (s : Lay) : (l.foldl g s).s.looms = s.s.looms := by
  induction l generalizing s with
  | nil => rfl
  | cons x l ih => simp only [List.foldl_cons, ih, hg]
theorem Selecting_foldl_looms {α : Type} (g : Selecting → α → Selecting) (hg : ∀ s x, (g s x).s.looms = s.s.looms) (l : List α) (s : Selecting) : (l.foldl g s).s.looms = s.s.looms := by
  induction l generalizing s with
  | nil => rfl
  | cons x l ih => simp only [List.foldl_cons, ih, hg]
theorem snd_looms {α : Type} {p : α × State} {a : α} {t : State} (h : p = (a, t)) : t.looms = p.2.looms := by rw [h]
theorem fst_looms {α : Type} {p : State × α} {a : α} {t : State} (h : p = (t, a)) : t.looms = p.1.looms := by rw [h]
@[simp] theorem evtToSession_looms (s : State) (n : Nat) (e : EvtRec) : (evtToSession s n e).looms = s.looms := by
  unfold evtToSession
  all_goals repeat' first | with_reducible rfl | simp only [hostWr_looms, setSession_looms] | with_reducible refine Eq.trans (snd_looms (by assumption)) ?_ | with_reducible refine Eq.trans (fst_looms (by assumption)) ?_ | split | dsimp only
@[simp] theorem sendEvt_looms (s : State) (e : EvtRec) : (sendEvt s e).looms = s.looms := by
  unfold sendEvt
  all_goals repeat' first | with_reducible rfl | simp only [evtToSession_looms] | with_reducible refine Eq.trans (State_foldl_looms _ (fun _ _ => ?_) _ _) ?_ | with_reducible refine Eq.trans (CollOut_foldl_looms _ (fun _ _ => ?_) _ _) ?_ | with_reducible refine Eq.trans (Lay_foldl_looms _ (fun _ _ => ?_) _ _) ?_ | with_reducible refine Eq.trans (Selecting_foldl_looms _ (fun _ _ => ?_) _ _) ?_ | with_reducible refine Eq.trans (snd_looms (by assumption)) ?_ | with_reducible refine Eq.trans (fst_looms (by assumption)) ?_ | split | (intro _) | dsimp only
@[simp] theorem raiseEvt_looms (s : State) (src : Src) (bit : Nat) (loom : optParam (Option Nat) none) (unit : optParam Nat 0) (detail : optParam Nat 0) : (raiseEvt s src bit loom unit detail).looms = s.looms := by
  unfold raiseEvt
  all_goals repeat' first | with_reducible rfl | simp only [orReg_looms, sendEvt_looms] | split | dsimp only
@[simp] theorem wrData_looms (s : State) (a : Nat) (bs : List Byte) : (wrData s a bs).looms = s.looms := by
  unfold wrData
  all_goals repeat' first | with_reducible rfl | simp only [wrN_looms] | split | dsimp only
@[simp] theorem objWrite_looms (s : State) (x : Loom) (obj : Nat) (off : Nat) (bs : List Byte) : (objWrite s x obj off bs).looms = s.looms := by
  unfold objWrite
  all_goals repeat' first | with_reducible rfl | simp only [wrN_looms, wrData_looms] | with_reducible refine Eq.trans (State_foldl_looms _ (fun _ _ => ?_) _ _) ?_ | with_reducible refine Eq.trans (CollOut_foldl_looms _ (fun _ _ => ?_) _ _) ?_ | with_reducible refine Eq.trans (Lay_foldl_looms _ (fun _ _ => ?_) _ _) ?_ | with_reducible refine Eq.trans (Selecting_foldl_looms _ (fun _ _ => ?_) _ _) ?_ | with_reducible refine Eq.trans (snd_looms (by assumption)) ?_ | with_reducible refine Eq.trans (fst_looms (by assumption)) ?_ | split | (intro _) | dsimp only
@[simp] theorem modWeave_looms (s : State) (k : Nat) (f : Weave → Weave) : (modWeave s k f).looms = s.looms := by
  unfold modWeave
  all_goals repeat' first | with_reducible rfl | dsimp only | split
@[simp] theorem send_looms (s : State) (m : OutMsg) : (send s m).looms = s.looms := by
  unfold send
  all_goals repeat' first | with_reducible rfl | dsimp only | split
@[simp] theorem setLink_looms (s : State) (d : Nat) (x : LinkDir) : (setLink s d x).looms = s.looms := by
  unfold setLink
  all_goals repeat' first | with_reducible rfl | dsimp only | split
@[simp] theorem putFlit_looms (s : State) (d : Nat) (f : WeftFlit) : (putFlit s d f).looms = s.looms := by
  unfold putFlit
  all_goals repeat' first | with_reducible rfl | simp only [send_looms, setLink_looms] | split | dsimp only
@[simp] theorem linkSend_looms (s : State) (d : Nat) (vc : BitVec 2) (bs : List Byte) : (linkSend s d vc bs).looms = s.looms := by
  unfold linkSend
  all_goals repeat' first | with_reducible rfl | simp only [putFlit_looms, setLink_looms] | with_reducible refine Eq.trans (State_foldl_looms _ (fun _ _ => ?_) _ _) ?_ | with_reducible refine Eq.trans (CollOut_foldl_looms _ (fun _ _ => ?_) _ _) ?_ | with_reducible refine Eq.trans (Lay_foldl_looms _ (fun _ _ => ?_) _ _) ?_ | with_reducible refine Eq.trans (Selecting_foldl_looms _ (fun _ _ => ?_) _ _) ?_ | split | (intro _) | dsimp only
@[simp] theorem sendFrame_looms (s : State) (dir : Option Nat) (toward : Nat) (f : Frame) : (sendFrame s dir toward f).looms = s.looms := by
  unfold sendFrame
  all_goals repeat' first | with_reducible rfl | simp only [send_looms, linkSend_looms] | with_reducible refine Eq.trans (snd_looms (by assumption)) ?_ | with_reducible refine Eq.trans (fst_looms (by assumption)) ?_ | split | dsimp only
@[simp] theorem takeDelivered_looms (s : State) (f : Frame) : (takeDelivered s f).looms = s.looms := by
  unfold takeDelivered
  all_goals repeat' first | with_reducible rfl | simp only [setLink_looms] | with_reducible refine Eq.trans (snd_looms (by assumption)) ?_ | with_reducible refine Eq.trans (fst_looms (by assumption)) ?_ | split | dsimp only
@[simp] theorem answerFrame_looms (s : State) (l : Nat) (tile : Nat) (f : Frame) (kind : Nat) : (answerFrame s l tile f kind).looms = s.looms := by
  unfold answerFrame
  all_goals repeat' first | with_reducible rfl | simp only [sendFrame_looms, drawFree_looms] | with_reducible refine Eq.trans (snd_looms (by assumption)) ?_ | with_reducible refine Eq.trans (fst_looms (by assumption)) ?_ | split | dsimp only
@[simp] theorem modBlock_looms (s : State) (b : Nat) (f : DieBlock → DieBlock) : (modBlock s b f).looms = s.looms := by
  unfold modBlock
  all_goals repeat' first | with_reducible rfl | simp only [modTlm_looms] | split | dsimp only
@[simp] theorem capture_looms (s : State) (validReg : Nat) (valid : W64) (others : List (Nat × W64)) : (capture s validReg valid others).looms = s.looms := by
  unfold capture
  all_goals repeat' first | with_reducible rfl | simp only [setReg_looms, orReg_looms] | with_reducible refine Eq.trans (State_foldl_looms _ (fun _ _ => ?_) _ _) ?_ | with_reducible refine Eq.trans (CollOut_foldl_looms _ (fun _ _ => ?_) _ _) ?_ | with_reducible refine Eq.trans (Lay_foldl_looms _ (fun _ _ => ?_) _ _) ?_ | with_reducible refine Eq.trans (Selecting_foldl_looms _ (fun _ _ => ?_) _ _) ?_ | split | (intro _) | dsimp only
@[simp] theorem semDone_looms (s : State) (a : Issuer) (st : Byte) : (semDone s a st).looms = s.looms := by
  unfold semDone
  all_goals repeat' first | with_reducible rfl | simp only [modStrand_looms] | with_reducible refine Eq.trans (snd_looms (by assumption)) ?_ | with_reducible refine Eq.trans (fst_looms (by assumption)) ?_ | split | dsimp only
@[simp] theorem serveShared_looms (s : State) (sem : Nat) (a : Nat) : (serveShared s sem a).looms = s.looms := by
  fun_induction serveShared s sem a
  all_goals repeat' first | with_reducible rfl | simp +zetaDelta only [semDone_looms] | with_reducible refine Eq.trans (snd_looms (by assumption)) ?_ | with_reducible refine Eq.trans (fst_looms (by assumption)) ?_ | with_reducible refine Eq.trans (by assumption) ?_ | split | dsimp only
@[simp] theorem serveSem_looms (s : State) (sem : Nat) : (serveSem s sem).looms = s.looms := by
  unfold serveSem
  all_goals repeat' first | with_reducible rfl | simp only [serveShared_looms] | with_reducible refine Eq.trans (snd_looms (by assumption)) ?_ | with_reducible refine Eq.trans (fst_looms (by assumption)) ?_ | split | dsimp only
@[simp] theorem takeEv_looms (s : State) : (takeEv s).2.looms = s.looms := by
  unfold takeEv
  all_goals repeat' first | with_reducible rfl | dsimp only | split
@[simp] theorem rejectDrafts_looms (s : State) (l : Nat) (n : Nat) : (rejectDrafts s l n).looms = s.looms := by
  unfold rejectDrafts
  all_goals repeat' first | with_reducible rfl | simp only [count48_looms] | split | dsimp only
@[simp] theorem postCpl_looms (s : State) (sess : Nat) (ring : Nat) (status : Byte) (opcode : Nat) (tag : W32) (result : List Byte) : (postCpl s sess ring status opcode tag result).looms = s.looms := by
  unfold postCpl
  all_goals repeat' first | with_reducible rfl | simp only [hostWr_looms, setSession_looms] | with_reducible refine Eq.trans (snd_looms (by assumption)) ?_ | with_reducible refine Eq.trans (fst_looms (by assumption)) ?_ | split | dsimp only
@[simp] theorem finish_looms (s : State) (sess : Nat) (ring : Nat) (status : Byte) (result : optParam (List Byte) []) : (finish s sess ring status result).looms = s.looms := by
  unfold finish
  all_goals repeat' first | with_reducible rfl | simp only [postCpl_looms, modSession_looms] | with_reducible refine Eq.trans (snd_looms (by assumption)) ?_ | with_reducible refine Eq.trans (fst_looms (by assumption)) ?_ | split | dsimp only
@[simp] theorem memError_looms (s : State) (evts : List Nat) (stopped : Option Nat) (owner : Option Nat) (addr : Nat) (stack : Nat) (tile : Nat) (unit : Nat) (thrum : optParam Bool false) : (memError s evts stopped owner addr stack tile unit thrum).looms = s.looms := by
  unfold memError
  all_goals repeat' first | with_reducible rfl | simp only [raiseEvt_looms, capture_looms] | with_reducible refine Eq.trans (State_foldl_looms _ (fun _ _ => ?_) _ _) ?_ | with_reducible refine Eq.trans (CollOut_foldl_looms _ (fun _ _ => ?_) _ _) ?_ | with_reducible refine Eq.trans (Lay_foldl_looms _ (fun _ _ => ?_) _ _) ?_ | with_reducible refine Eq.trans (Selecting_foldl_looms _ (fun _ _ => ?_) _ _) ?_ | split | (intro _) | dsimp only
@[simp] theorem reportUncorr_looms (s : State) (consumer : Option Nat) (u : Nat) : (reportUncorr s consumer u).looms = s.looms := by
  unfold reportUncorr
  all_goals repeat' first | with_reducible rfl | simp only [memError_looms, countReg_looms] | split | dsimp only
@[simp] theorem meetUnits_looms (s : State) (consumer : Option Nat) (rs : List (Nat × Nat)) : (meetUnits s consumer rs).looms = s.looms := by
  unfold meetUnits
  all_goals repeat' first | with_reducible rfl | simp only [reportUncorr_looms] | with_reducible refine Eq.trans (State_foldl_looms _ (fun _ _ => ?_) _ _) ?_ | with_reducible refine Eq.trans (CollOut_foldl_looms _ (fun _ _ => ?_) _ _) ?_ | with_reducible refine Eq.trans (Lay_foldl_looms _ (fun _ _ => ?_) _ _) ?_ | with_reducible refine Eq.trans (Selecting_foldl_looms _ (fun _ _ => ?_) _ _) ?_ | split | (intro _) | dsimp only
@[simp] theorem holdCopy_looms (s : State) (who : List Nat) (kb : Nat × Nat) : (holdCopy s who kb).looms = s.looms := by
  unfold holdCopy
  all_goals repeat' first | with_reducible rfl | simp only [raiseEvt_looms, count48_looms, drawFree_looms] | with_reducible refine Eq.trans (snd_looms (by assumption)) ?_ | with_reducible refine Eq.trans (fst_looms (by assumption)) ?_ | split | dsimp only
@[simp] theorem startScalar_looms (x : Loom) (c : CollOut) : (startScalar x c).s.looms = c.s.looms := by
  unfold startScalar
  all_goals repeat' first | with_reducible rfl | dsimp only | with_reducible refine Eq.trans (snd_looms (by assumption)) ?_ | with_reducible refine Eq.trans (fst_looms (by assumption)) ?_ | split
@[simp] theorem startGather_looms (x : Loom) (c : CollOut) : (startGather x c).s.looms = c.s.looms := by
  unfold startGather
  all_goals repeat' first | with_reducible rfl | dsimp only | with_reducible refine Eq.trans (snd_looms (by assumption)) ?_ | with_reducible refine Eq.trans (fst_looms (by assumption)) ?_ | split
@[simp] theorem alive_looms (s : State) (f : State → State) (h_f : ∀ u0, (f u0).looms = u0.looms) : (alive s f).looms = s.looms := by
  unfold alive
  all_goals repeat' first | with_reducible rfl | simp only [h_f] | split | dsimp only
@[simp] theorem clearVia_looms (s : State) (x : Loom) (a : Nat) (n : Nat) : (clearVia s x a n).looms = s.looms := by
  unfold clearVia
  all_goals repeat' first | with_reducible rfl | dsimp only | split
@[simp] theorem writeVia_looms (s : State) (l : Nat) (a : Nat) (bs : List Byte) : (writeVia s l a bs).looms = s.looms := by
  unfold writeVia
  all_goals repeat' first | with_reducible rfl | simp only [clearVia_looms, wrN_looms, wrData_looms] | with_reducible refine Eq.trans (State_foldl_looms _ (fun _ _ => ?_) _ _) ?_ | with_reducible refine Eq.trans (CollOut_foldl_looms _ (fun _ _ => ?_) _ _) ?_ | with_reducible refine Eq.trans (Lay_foldl_looms _ (fun _ _ => ?_) _ _) ?_ | with_reducible refine Eq.trans (Selecting_foldl_looms _ (fun _ _ => ?_) _ _) ?_ | split | (intro _) | dsimp only
@[simp] theorem setSlot_looms (s : State) (k : Nat) (x : KeySlot) : (setSlot s k x).looms = s.looms := by
  unfold setSlot
  all_goals repeat' first | with_reducible rfl | dsimp only | split
@[simp] theorem cfgReject_looms (s : State) : (cfgReject s).looms = s.looms := by
  unfold cfgReject
  all_goals repeat' first | with_reducible rfl | simp only [raiseEvt_looms] | split | dsimp only
@[simp] theorem cmdRun_looms (s : State) (sess : Nat) (ring : Nat) (f : Taken → Except Byte (State × List Byte)) (h_f : ∀ u0 t x, f u0 = .ok (t, x) → t.looms = s.looms) : (cmdRun s sess ring f).looms = s.looms := by
  unfold cmdRun
  all_goals repeat' first | with_reducible rfl | simp only [finish_looms, implies_true] | with_reducible refine Eq.trans (h_f _ _ _ (by assumption)) ?_ | with_reducible refine Eq.trans (snd_looms (by assumption)) ?_ | with_reducible refine Eq.trans (fst_looms (by assumption)) ?_ | split | (intro _) | dsimp only
@[simp] theorem clearBays_looms (s : State) (bays : List Nat) : (clearBays s bays).looms = s.looms := by
  unfold clearBays
  all_goals repeat' first | with_reducible rfl | dsimp only | with_reducible refine Eq.trans (snd_looms (by assumption)) ?_ | with_reducible refine Eq.trans (fst_looms (by assumption)) ?_ | split
@[simp] theorem clearCounters_looms (s : State) (who : Accessor) (offs : List Nat) : (clearCounters s who offs).looms = s.looms := by
  unfold clearCounters
  all_goals repeat' first | with_reducible rfl | simp only [setReg_looms] | with_reducible refine Eq.trans (State_foldl_looms _ (fun _ _ => ?_) _ _) ?_ | with_reducible refine Eq.trans (CollOut_foldl_looms _ (fun _ _ => ?_) _ _) ?_ | with_reducible refine Eq.trans (Lay_foldl_looms _ (fun _ _ => ?_) _ _) ?_ | with_reducible refine Eq.trans (Selecting_foldl_looms _ (fun _ _ => ?_) _ _) ?_ | split | (intro _) | dsimp only
@[simp] theorem dobbyCpl_looms (s : State) (x : Loom) (c : DobbyCmd) (st : Byte) : (dobbyCpl s x c st).looms = s.looms := by
  unfold dobbyCpl
  all_goals repeat' first | with_reducible rfl | simp only [postCpl_looms] | split | dsimp only
@[simp] theorem completeTag_looms (s : State) (a : Issuer) (tag : BitVec 16) (st : Byte) (high : optParam W32 0) (fl : optParam W64 0) : (completeTag s a tag st high fl).looms = s.looms := by
  unfold completeTag
  all_goals repeat' first | with_reducible rfl | simp only [modStrand_looms] | split | dsimp only
@[simp] theorem consoleRun_looms (s : State) (f : State → State) (h_f : ∀ u0, (f u0).looms = u0.looms) : (consoleRun s f).looms = s.looms := by
  unfold consoleRun
  all_goals repeat' first | with_reducible rfl | simp only [h_f] | split | dsimp only
@[simp] theorem linkLog_looms (s : State) (type : Nat) (dir : Nat) (io : Nat) (lane : Nat) : (linkLog s type dir io lane).looms = s.looms := by
  unfold linkLog
  all_goals repeat' first | with_reducible rfl | simp only [capture_looms] | split | dsimp only
@[simp] theorem linkDown_looms (s : State) (d : Nat) : (linkDown s d).looms = s.looms := by
  unfold linkDown
  all_goals repeat' first | with_reducible rfl | simp only [linkLog_looms, raiseEvt_looms, setLink_looms] | split | dsimp only
@[simp] theorem resendFlits_looms (s : State) (d : Nat) (p : WeftFlit × Nat → Bool) : (resendFlits s d p).looms = s.looms := by
  unfold resendFlits
  all_goals repeat' first | with_reducible rfl | simp only [send_looms, setLink_looms] | with_reducible refine Eq.trans (State_foldl_looms _ (fun _ _ => ?_) _ _) ?_ | with_reducible refine Eq.trans (CollOut_foldl_looms _ (fun _ _ => ?_) _ _) ?_ | with_reducible refine Eq.trans (Lay_foldl_looms _ (fun _ _ => ?_) _ _) ?_ | with_reducible refine Eq.trans (Selecting_foldl_looms _ (fun _ _ => ?_) _ _) ?_ | split | (intro _) | dsimp only
@[simp] theorem relane_looms (s : State) (d : Nat) : (relane s d).looms = s.looms := by
  unfold relane
  all_goals repeat' first | with_reducible rfl | simp only [linkDown_looms, setLink_looms, resendFlits_looms] | split | dsimp only
@[simp] theorem setPort_looms (s : State) (p : Nat) (x : FabPort) : (setPort s p x).looms = s.looms := by
  unfold setPort
  all_goals repeat' first | with_reducible rfl | dsimp only | split
@[simp] theorem endBlocks_looms (s : State) (o : AsyncOp) : (endBlocks s o).looms = s.looms := by
  unfold endBlocks
  all_goals repeat' first | with_reducible rfl | simp only [modTile_looms] | with_reducible refine Eq.trans (State_foldl_looms _ (fun _ _ => ?_) _ _) ?_ | with_reducible refine Eq.trans (CollOut_foldl_looms _ (fun _ _ => ?_) _ _) ?_ | with_reducible refine Eq.trans (Lay_foldl_looms _ (fun _ _ => ?_) _ _) ?_ | with_reducible refine Eq.trans (Selecting_foldl_looms _ (fun _ _ => ?_) _ _) ?_ | split | (intro _) | dsimp only
@[simp] theorem putHeader_looms (s : State) (l : Nat) (obj : Nat) (pick : Nat) (step : W64) : (putHeader s l obj pick step).looms = s.looms := by
  unfold putHeader
  all_goals repeat' first | with_reducible rfl | simp only [objWrite_looms] | split | dsimp only
@[simp] theorem opEnd_looms (s : State) (tile : Nat) (o : AsyncOp) (st : Byte) (high : optParam W32 0) (fl : optParam W64 0) : (opEnd s tile o st high fl).looms = s.looms := by
  unfold opEnd
  all_goals repeat' first | with_reducible rfl | simp only [completeTag_looms, endBlocks_looms, modTile_looms] | split | dsimp only
@[simp] theorem rmtEnd_looms (s : State) (a : Issuer) (o : AsyncOp) (st : Byte) : (rmtEnd s a o st).looms = s.looms := by
  unfold rmtEnd
  all_goals repeat' first | with_reducible rfl | simp only [opEnd_looms, modTile_looms] | split | dsimp only
@[simp] theorem losePps_looms (s : State) : (losePps s).looms = s.looms := by
  unfold losePps
  all_goals repeat' first | with_reducible rfl | simp only [raiseEvt_looms, modTlm_looms] | split | dsimp only
@[simp] theorem setInput_looms (s : State) (inputB : Bool) (x : Input) : (setInput s inputB x).looms = s.looms := by
  unfold setInput
  all_goals repeat' first | with_reducible rfl | simp only [modPower_looms] | split | dsimp only
@[simp] theorem setFn_looms (s : State) (w : Accessor) (x : FnRegs) : (setFn s w x).looms = s.looms := by
  unfold setFn
  all_goals repeat' first | with_reducible rfl | dsimp only | split
@[simp] theorem modConsole_looms (s : State) (f : Console → Console) : (modConsole s f).looms = s.looms := by
  unfold modConsole
  all_goals repeat' first | with_reducible rfl | dsimp only | split
@[simp] theorem finishWith_looms (s : State) (sess : Nat) (ring : Nat) (status : Byte) (result : List Byte) : (finishWith s sess ring status result).looms = s.looms := by
  unfold finishWith
  all_goals repeat' first | with_reducible rfl | simp only [postCpl_looms, modSession_looms] | with_reducible refine Eq.trans (snd_looms (by assumption)) ?_ | with_reducible refine Eq.trans (fst_looms (by assumption)) ?_ | split | dsimp only
@[simp] theorem flipWord_looms (s : State) (tile : Nat) (w : Nat) (e : BitVec 33) : (flipWord s tile w e).looms = s.looms := by
  unfold flipWord
  all_goals repeat' first | with_reducible rfl | dsimp only | split
@[simp] theorem semStatus_looms (s : State) (a : Issuer) (sd : Nat) (st : Byte) : (semStatus s a sd st).looms = s.looms := by
  unfold semStatus
  all_goals repeat' first | with_reducible rfl | simp only [modStrand_looms] | split | dsimp only
@[simp] theorem setPortOf_looms (s : State) (io : Nat) (x : Port) : (setPortOf s io x).looms = s.looms := by
  unfold setPortOf
  all_goals repeat' first | with_reducible rfl | dsimp only | split
@[simp] theorem revertBorrow_looms (s : State) (b : Int) : (revertBorrow s b).looms = s.looms := by
  unfold revertBorrow
  all_goals repeat' first | with_reducible rfl | simp only [modPower_looms, raiseEvt_looms] | split | dsimp only
end Sys2Proof.Machine
end

