-- ==== Sys2Proof/Laws/MemOk.lean ====
section
/-! SUPPORT. Both memories keep their canonical form: one lemma for every shared operation that answers a state, in the order in which
they call one another. An operation that takes a function keeps the form when the function does. -/
namespace Sys2Proof.Machine
open Sys2Proof
set_option linter.unusedTactic false
set_option linter.unreachableTactic false
theorem memOk_with {t : State} {v_pending : List Instr} {v_variant : Variant} {v_regs : Table W64} {v_tiles : Table Tile} {v_looms : Table Loom} {v_ssems : Table SharedSem} {v_weaves : Table Weave} {v_bobbins : Table Bobbin} {v_heldWrites : List HeldWrite} {v_reqs : Table Req} {v_evseq : W64} {v_migNext : Option W64} {v_faults : MemFaults} {v_fab : Table FabPort} {v_links : Table LinkDir} {v_adders : Adders} {v_power : Power} {v_tlm : Telemetry} {v_slots : Table KeySlot} {v_fns : Table FnRegs} {v_sessions : Table Session} {v_ports : Table Port} {v_console : Console} {v_svc : Svc} {v_nextNum : Nat} {v_free : Nat} {v_reply : List W64} {v_out : List OutMsg} (h : t.MemOk) :
    State.MemOk { mem := t.mem, hostMem := t.hostMem, pending := v_pending, variant := v_variant, regs := v_regs, tiles := v_tiles, looms := v_looms, ssems := v_ssems, weaves := v_weaves, bobbins := v_bobbins, heldWrites := v_heldWrites, reqs := v_reqs, evseq := v_evseq, migNext := v_migNext, faults := v_faults, fab := v_fab, links := v_links, adders := v_adders, power := v_power, tlm := v_tlm, slots := v_slots, fns := v_fns, sessions := v_sessions, ports := v_ports, console := v_console, svc := v_svc, nextNum := v_nextNum, free := v_free, reply := v_reply, out := v_out } := ⟨h.mem, h.hostMem⟩
theorem State_foldl_memOk {α : Type} (g : State → α → State) (hg : ∀ s x, s.MemOk → (g s x).MemOk) (l : List α) (s : State) (h : s.MemOk) : (l.foldl g s).MemOk := by
  induction l generalizing s with
  | nil => exact h
  | cons x l ih => exact ih _ (hg s x h)
theorem CollOut_foldl_memOk {α : Type} (g : CollOut → α → CollOut) (hg : ∀ s x, s.s.MemOk → (g s x).s.MemOk) (l : List α) (s : CollOut) (h : s.s.MemOk) : (l.foldl g s).s.MemOk := by
  induction l generalizing s with
  | nil => exact h
  | cons x l ih => exact ih _ (hg s x h)
theorem Lay_foldl_memOk {α : Type} (g : Lay → α → Lay) (hg : ∀ s x, s.s.MemOk → (g s x).s.MemOk) (l : List α) (s : Lay) (h : s.s.MemOk) : (l.foldl g s).s.MemOk := by
  induction l generalizing s with
  | nil => exact h
  | cons x l ih => exact ih _ (hg s x h)
theorem Selecting_foldl_memOk {α : Type} (g : Selecting → α → Selecting) (hg : ∀ s x, s.s.MemOk → (g s x).s.MemOk) (l : List α) (s : Selecting) (h : s.s.MemOk) : (l.foldl g s).s.MemOk := by
  induction l generalizing s with
  | nil => exact h
  | cons x l ih => exact ih _ (hg s x h)
theorem memOk_snd {α : Type} {p : α × State} {a : α} {t : State} (h : p = (a, t)) (hp : p.2.MemOk) : t.MemOk := by rw [h] at hp; exact hp
theorem memOk_fst {α : Type} {p : State × α} {a : α} {t : State} (h : p = (t, a)) (hp : p.1.MemOk) : t.MemOk := by rw [h] at hp; exact hp
theorem memOk_sndSelecting {α : Type} {p : α × Selecting} {a : α} {t : Selecting} (h : p = (a, t)) (hp : p.2.s.MemOk) : t.s.MemOk := by rw [h] at hp; exact hp
theorem foldl_fst_memOk {α β : Type} (g : State × β → α → State × β) (hg : ∀ c x, c.1.MemOk → (g c x).1.MemOk) (l : List α) (c : State × β) (h : c.1.MemOk) : (l.foldl g c).1.MemOk := by
  induction l generalizing c with
  | nil => exact h
  | cons x l ih => exact ih _ (hg c x h)
theorem foldl_snd_memOk {α β : Type} (g : β × State → α → β × State) (hg : ∀ c x, c.2.MemOk → (g c x).2.MemOk) (l : List α) (c : β × State) (h : c.2.MemOk) : (l.foldl g c).2.MemOk := by
  induction l generalizing c with
  | nil => exact h
  | cons x l ih => exact ih _ (hg c x h)
theorem wrN_memOk (s : State) (a : Nat) (bs : List Byte) (h : s.MemOk) : (wrN s a bs).MemOk := ⟨memSetN_wf bs a h.mem, h.hostMem⟩
theorem hostWr_memOk (s : State) (a : Nat) (bs : List Byte) (h : s.MemOk) : (hostWr s a bs).MemOk := ⟨h.mem, memSetN_wf bs a h.hostMem⟩

theorem State_withFetchWord_memOk (s : State) (nbits : Nat) (w : Nat) (h_memOk : s.MemOk) : (State.withFetchWord s nbits w).MemOk := by
  unfold State.withFetchWord
  all_goals repeat' first | with_reducible assumption | (with_reducible refine memOk_snd (by assumption) ?_) | (with_reducible refine memOk_fst (by assumption) ?_) | (fail_if_no_progress with_reducible refine memOk_with ?_) | split | dsimp only | (intro _)
theorem setLoom_memOk (s : State) (l : Nat) (x : Loom) (h_memOk : s.MemOk) : (setLoom s l x).MemOk := by
  unfold setLoom
  all_goals repeat' first | with_reducible assumption | (fail_if_no_progress with_reducible refine memOk_with ?_) | split | dsimp only | (intro _)
theorem modLoom_memOk (s : State) (l : Nat) (f : Loom → Loom) (h_memOk : s.MemOk) : (modLoom s l f).MemOk := by
  unfold modLoom
  all_goals repeat' first | with_reducible assumption | (with_reducible refine setLoom_memOk _ _ _ ?_) | (fail_if_no_progress with_reducible refine memOk_with ?_) | split | dsimp only | (intro _)
theorem modGen_memOk (s : State) (l : Nat) (f : GenLoom → GenLoom) (h_memOk : s.MemOk) : (modGen s l f).MemOk := by
  unfold modGen
  all_goals repeat' first | with_reducible assumption | (with_reducible refine modLoom_memOk _ _ _ ?_) | (fail_if_no_progress with_reducible refine memOk_with ?_) | split | dsimp only | (intro _)
theorem setReg_memOk (s : State) (off : Nat) (v : W64) (h_memOk : s.MemOk) : (setReg s off v).MemOk := by
  unfold setReg
  all_goals repeat' first | with_reducible assumption | (fail_if_no_progress with_reducible refine memOk_with ?_) | split | dsimp only | (intro _)
theorem orReg_memOk (s : State) (off : Nat) (v : W64) (h_memOk : s.MemOk) : (orReg s off v).MemOk := by
  unfold orReg
  all_goals repeat' first | with_reducible assumption | (with_reducible refine setReg_memOk _ _ _ ?_) | (fail_if_no_progress with_reducible refine memOk_with ?_) | split | dsimp only | (intro _)
theorem setSession_memOk (s : State) (n : Nat) (x : Session) (h_memOk : s.MemOk) : (setSession s n x).MemOk := by
  unfold setSession
  all_goals repeat' first | with_reducible assumption | (fail_if_no_progress with_reducible refine memOk_with ?_) | split | dsimp only | (intro _)
theorem evtToSession_memOk (s : State) (n : Nat) (e : EvtRec) (h_memOk : s.MemOk) : (evtToSession s n e).MemOk := by
  unfold evtToSession
  all_goals repeat' first | with_reducible assumption | (with_reducible refine hostWr_memOk _ _ _ ?_) | (with_reducible refine setSession_memOk _ _ _ ?_) | (with_reducible refine memOk_snd (by assumption) ?_) | (with_reducible refine memOk_fst (by assumption) ?_) | (fail_if_no_progress with_reducible refine memOk_with ?_) | split | dsimp only | (intro _)
theorem sendEvt_memOk (s : State) (e : EvtRec) (h_memOk : s.MemOk) : (sendEvt s e).MemOk := by
  unfold sendEvt
  all_goals repeat' first | with_reducible assumption | (with_reducible refine evtToSession_memOk _ _ _ ?_) | (with_reducible refine State_foldl_memOk _ (fun _ _ _ => ?_) _ _ ?_) | (with_reducible refine foldl_fst_memOk _ (fun _ _ _ => ?_) _ _ ?_) | (with_reducible refine foldl_snd_memOk _ (fun _ _ _ => ?_) _ _ ?_) | (with_reducible refine memOk_snd (by assumption) ?_) | (with_reducible refine memOk_fst (by assumption) ?_) | (fail_if_no_progress with_reducible refine memOk_with ?_) | split | dsimp only | (intro _)
theorem raiseEvt_memOk (s : State) (src : Src) (bit : Nat) (loom : optParam (Option Nat) none) (unit : optParam Nat 0) (detail : optParam Nat 0) (h_memOk : s.MemOk) : (raiseEvt s src bit loom unit detail).MemOk := by
  unfold raiseEvt
  all_goals repeat' first | with_reducible assumption | (with_reducible refine orReg_memOk _ _ _ ?_) | (with_reducible refine sendEvt_memOk _ _ ?_) | (fail_if_no_progress with_reducible refine memOk_with ?_) | split | dsimp only | (intro _)
theorem wrData_memOk (s : State) (a : Nat) (bs : List Byte) (h_memOk : s.MemOk) : (wrData s a bs).MemOk := by
  unfold wrData
  all_goals repeat' first | with_reducible assumption | (with_reducible refine wrN_memOk _ _ _ ?_) | (fail_if_no_progress with_reducible refine memOk_with ?_) | split | dsimp only | (intro _)
theorem objWrite_memOk (s : State) (x : Loom) (obj : Nat) (off : Nat) (bs : List Byte) (h_memOk : s.MemOk) : (objWrite s x obj off bs).MemOk := by
  unfold objWrite
  all_goals repeat' first | with_reducible assumption | (with_reducible refine wrN_memOk _ _ _ ?_) | (with_reducible refine wrData_memOk _ _ _ ?_) | (with_reducible refine State_foldl_memOk _ (fun _ _ _ => ?_) _ _ ?_) | (with_reducible refine foldl_fst_memOk _ (fun _ _ _ => ?_) _ _ ?_) | (with_reducible refine foldl_snd_memOk _ (fun _ _ _ => ?_) _ _ ?_) | (with_reducible refine memOk_snd (by assumption) ?_) | (with_reducible refine memOk_fst (by assumption) ?_) | (fail_if_no_progress with_reducible refine memOk_with ?_) | split | dsimp only | (intro _)
theorem clearValid_memOk (s : State) (l : Nat) (obj : Nat) (h_memOk : s.MemOk) : (clearValid s l obj).MemOk := by
  unfold clearValid
  all_goals repeat' first | with_reducible assumption | (with_reducible refine objWrite_memOk _ _ _ _ _ ?_) | (fail_if_no_progress with_reducible refine memOk_with ?_) | split | dsimp only | (intro _)
theorem modWeave_memOk (s : State) (k : Nat) (f : Weave → Weave) (h_memOk : s.MemOk) : (modWeave s k f).MemOk := by
  unfold modWeave
  all_goals repeat' first | with_reducible assumption | (fail_if_no_progress with_reducible refine memOk_with ?_) | split | dsimp only | (intro _)
theorem wr_memOk (s : State) (a : Nat) (n : Nat) (v : Nat) (h_memOk : s.MemOk) : (wr s a n v).MemOk := by
  unfold wr
  all_goals repeat' first | with_reducible assumption | (with_reducible refine wrN_memOk _ _ _ ?_) | (fail_if_no_progress with_reducible refine memOk_with ?_) | split | dsimp only | (intro _)
theorem putCurPick_memOk (s : State) (k : Nat) (pick : Nat) (h_memOk : s.MemOk) : (putCurPick s k pick).MemOk := by
  unfold putCurPick
  all_goals repeat' first | with_reducible assumption | (with_reducible refine wr_memOk _ _ _ _ ?_) | (with_reducible refine State_foldl_memOk _ (fun _ _ _ => ?_) _ _ ?_) | (with_reducible refine foldl_fst_memOk _ (fun _ _ _ => ?_) _ _ ?_) | (with_reducible refine foldl_snd_memOk _ (fun _ _ _ => ?_) _ _ ?_) | (fail_if_no_progress with_reducible refine memOk_with ?_) | split | dsimp only | (intro _)
theorem startPick_memOk (s : State) (k : Nat) (h_memOk : s.MemOk) : (startPick s k).MemOk := by
  unfold startPick
  all_goals repeat' first | with_reducible assumption | (with_reducible refine modGen_memOk _ _ _ ?_) | (with_reducible refine raiseEvt_memOk _ _ _ _ _ _ ?_) | (with_reducible refine clearValid_memOk _ _ _ ?_) | (with_reducible refine modWeave_memOk _ _ _ ?_) | (with_reducible refine putCurPick_memOk _ _ _ ?_) | (with_reducible refine State_foldl_memOk _ (fun _ _ _ => ?_) _ _ ?_) | (with_reducible refine foldl_fst_memOk _ (fun _ _ _ => ?_) _ _ ?_) | (with_reducible refine foldl_snd_memOk _ (fun _ _ _ => ?_) _ _ ?_) | (fail_if_no_progress with_reducible refine memOk_with ?_) | split | dsimp only | (intro _)
theorem refusePick_memOk (s : State) (k : Nat) (h_memOk : s.MemOk) : (refusePick s k).MemOk := by
  unfold refusePick
  all_goals repeat' first | with_reducible assumption | (with_reducible refine raiseEvt_memOk _ _ _ _ _ _ ?_) | (with_reducible refine modWeave_memOk _ _ _ ?_) | (fail_if_no_progress with_reducible refine memOk_with ?_) | split | dsimp only | (intro _)
theorem publishIdle_memOk (s : State) (k : Nat) (h_memOk : s.MemOk) : (publishIdle s k).MemOk := by
  unfold publishIdle
  all_goals repeat' first | with_reducible assumption | (with_reducible refine startPick_memOk _ _ ?_) | (with_reducible refine raiseEvt_memOk _ _ _ _ _ _ ?_) | (with_reducible refine refusePick_memOk _ _ ?_) | (with_reducible refine modWeave_memOk _ _ _ ?_) | (fail_if_no_progress with_reducible refine memOk_with ?_) | split | dsimp only | (intro _)
theorem pubIdle_memOk (s : State) (k : Nat) (h_memOk : s.MemOk) : (pubIdle s k).MemOk := by
  unfold pubIdle
  all_goals repeat' first | with_reducible assumption | (with_reducible refine publishIdle_memOk _ _ ?_) | (with_reducible refine modWeave_memOk _ _ _ ?_) | (fail_if_no_progress with_reducible refine memOk_with ?_) | split | dsimp only | (intro _)
theorem abandonTaking_memOk (s : State) (k : Nat) (l : Nat) (h_memOk : s.MemOk) : (abandonTaking s k l).MemOk := by
  unfold abandonTaking
  all_goals repeat' first | with_reducible assumption | (with_reducible refine modGen_memOk _ _ _ ?_) | (with_reducible refine raiseEvt_memOk _ _ _ _ _ _ ?_) | (with_reducible refine modWeave_memOk _ _ _ ?_) | (fail_if_no_progress with_reducible refine memOk_with ?_) | split | dsimp only | (intro _)
theorem dropSource_memOk (s : State) (k : Nat) (h_memOk : s.MemOk) : (dropSource s k).MemOk := by
  unfold dropSource
  all_goals repeat' first | with_reducible assumption | (with_reducible refine pubIdle_memOk _ _ ?_) | (with_reducible refine modWeave_memOk _ _ _ ?_) | (with_reducible refine abandonTaking_memOk _ _ _ ?_) | (with_reducible refine State_foldl_memOk _ (fun _ _ _ => ?_) _ _ ?_) | (with_reducible refine foldl_fst_memOk _ (fun _ _ _ => ?_) _ _ ?_) | (with_reducible refine foldl_snd_memOk _ (fun _ _ _ => ?_) _ _ ?_) | (fail_if_no_progress with_reducible refine memOk_with ?_) | split | dsimp only | (intro _)
theorem abandonSource_memOk (s : State) (k : Nat) (h_memOk : s.MemOk) : (abandonSource s k).MemOk := by
  unfold abandonSource
  all_goals repeat' first | with_reducible assumption | (with_reducible refine dropSource_memOk _ _ ?_) | (fail_if_no_progress with_reducible refine memOk_with ?_) | split | dsimp only | (intro _)
theorem send_memOk (s : State) (m : OutMsg) (h_memOk : s.MemOk) : (send s m).MemOk := by
  unfold send
  all_goals repeat' first | with_reducible assumption | (fail_if_no_progress with_reducible refine memOk_with ?_) | split | dsimp only | (intro _)
theorem setLink_memOk (s : State) (d : Nat) (x : LinkDir) (h_memOk : s.MemOk) : (setLink s d x).MemOk := by
  unfold setLink
  all_goals repeat' first | with_reducible assumption | (fail_if_no_progress with_reducible refine memOk_with ?_) | split | dsimp only | (intro _)
theorem putFlit_memOk (s : State) (d : Nat) (f : WeftFlit) (h_memOk : s.MemOk) : (putFlit s d f).MemOk := by
  unfold putFlit
  all_goals repeat' first | with_reducible assumption | (with_reducible refine send_memOk _ _ ?_) | (with_reducible refine setLink_memOk _ _ _ ?_) | (fail_if_no_progress with_reducible refine memOk_with ?_) | split | dsimp only | (intro _)
theorem linkSend_memOk (s : State) (d : Nat) (vc : BitVec 2) (bs : List Byte) (h_memOk : s.MemOk) : (linkSend s d vc bs).MemOk := by
  unfold linkSend
  all_goals repeat' first | with_reducible assumption | (with_reducible refine putFlit_memOk _ _ _ ?_) | (with_reducible refine setLink_memOk _ _ _ ?_) | (with_reducible refine State_foldl_memOk _ (fun _ _ _ => ?_) _ _ ?_) | (with_reducible refine foldl_fst_memOk _ (fun _ _ _ => ?_) _ _ ?_) | (with_reducible refine foldl_snd_memOk _ (fun _ _ _ => ?_) _ _ ?_) | (fail_if_no_progress with_reducible refine memOk_with ?_) | split | dsimp only | (intro _)
theorem sendFrame_memOk (s : State) (dir : Option Nat) (toward : Nat) (f : Frame) (h_memOk : s.MemOk) : (sendFrame s dir toward f).MemOk := by
  unfold sendFrame
  all_goals repeat' first | with_reducible assumption | (with_reducible refine send_memOk _ _ ?_) | (with_reducible refine linkSend_memOk _ _ _ _ ?_) | (with_reducible refine memOk_snd (by assumption) ?_) | (with_reducible refine memOk_fst (by assumption) ?_) | (fail_if_no_progress with_reducible refine memOk_with ?_) | split | dsimp only | (intro _)
theorem setTile_memOk (s : State) (t : Nat) (x : Tile) (h_memOk : s.MemOk) : (setTile s t x).MemOk := by
  unfold setTile
  all_goals repeat' first | with_reducible assumption | (fail_if_no_progress with_reducible refine memOk_with ?_) | split | dsimp only | (intro _)
theorem modTile_memOk (s : State) (t : Nat) (f : Tile → Tile) (h_memOk : s.MemOk) : (modTile s t f).MemOk := by
  unfold modTile
  all_goals repeat' first | with_reducible assumption | (with_reducible refine setTile_memOk _ _ _ ?_) | (fail_if_no_progress with_reducible refine memOk_with ?_) | split | dsimp only | (intro _)
theorem modTileOf_memOk (s : State) (l : Nat) (t : Nat) (f : Tile → Tile) (h_memOk : s.MemOk) : (modTileOf s l t f).MemOk := by
  unfold modTileOf
  all_goals repeat' first | with_reducible assumption | (with_reducible refine modLoom_memOk _ _ _ ?_) | (with_reducible refine modTile_memOk _ _ _ ?_) | (with_reducible refine memOk_snd (by assumption) ?_) | (with_reducible refine memOk_fst (by assumption) ?_) | (fail_if_no_progress with_reducible refine memOk_with ?_) | split | dsimp only | (intro _)
theorem sendAborts_memOk (s : State) (l : Nat) (tile : Nat) (o : CollOp) (st : Byte) (h_memOk : s.MemOk) : (sendAborts s l tile o st).MemOk := by
  unfold sendAborts
  all_goals repeat' first | with_reducible assumption | (with_reducible refine sendFrame_memOk _ _ _ _ ?_) | (with_reducible refine modTileOf_memOk _ _ _ _ ?_) | (with_reducible refine State_foldl_memOk _ (fun _ _ _ => ?_) _ _ ?_) | (with_reducible refine foldl_fst_memOk _ (fun _ _ _ => ?_) _ _ ?_) | (with_reducible refine foldl_snd_memOk _ (fun _ _ _ => ?_) _ _ ?_) | (fail_if_no_progress with_reducible refine memOk_with ?_) | split | dsimp only | (intro _)
theorem abortColl_memOk (s : State) (l : Nat) (tile : Nat) (o : CollOp) (st : Byte) (h_memOk : s.MemOk) : (abortColl s l tile o st).MemOk := by
  unfold abortColl
  all_goals repeat' first | with_reducible assumption | (with_reducible refine sendAborts_memOk _ _ _ _ _ ?_) | (with_reducible refine raiseEvt_memOk _ _ _ _ _ _ ?_) | (with_reducible refine modTileOf_memOk _ _ _ _ ?_) | (with_reducible refine State_foldl_memOk _ (fun _ _ _ => ?_) _ _ ?_) | (with_reducible refine foldl_fst_memOk _ (fun _ _ _ => ?_) _ _ ?_) | (with_reducible refine foldl_snd_memOk _ (fun _ _ _ => ?_) _ _ ?_) | (with_reducible refine memOk_snd (by assumption) ?_) | (with_reducible refine memOk_fst (by assumption) ?_) | (fail_if_no_progress with_reducible refine memOk_with ?_) | split | dsimp only | (intro _)
theorem abortColls_memOk (s : State) (l : Nat) (st : Byte) (h_memOk : s.MemOk) : (abortColls s l st).MemOk := by
  unfold abortColls
  all_goals repeat' first | with_reducible assumption | (with_reducible refine abortColl_memOk _ _ _ _ _ ?_) | (with_reducible refine State_foldl_memOk _ (fun _ _ _ => ?_) _ _ ?_) | (with_reducible refine foldl_fst_memOk _ (fun _ _ _ => ?_) _ _ ?_) | (with_reducible refine foldl_snd_memOk _ (fun _ _ _ => ?_) _ _ ?_) | (fail_if_no_progress with_reducible refine memOk_with ?_) | split | dsimp only | (intro _)
theorem abortTake_memOk (s : State) (l : Nat) (tile : Nat) (f : Frame) (st : Byte) (h_memOk : s.MemOk) : (abortTake s l tile f st).MemOk := by
  unfold abortTake
  all_goals repeat' first | with_reducible assumption | (with_reducible refine raiseEvt_memOk _ _ _ _ _ _ ?_) | (with_reducible refine modTileOf_memOk _ _ _ _ ?_) | (with_reducible refine memOk_snd (by assumption) ?_) | (with_reducible refine memOk_fst (by assumption) ?_) | (fail_if_no_progress with_reducible refine memOk_with ?_) | split | dsimp only | (intro _)
theorem takeDelivered_memOk (s : State) (f : Frame) (h_memOk : s.MemOk) : (takeDelivered s f).MemOk := by
  unfold takeDelivered
  all_goals repeat' first | with_reducible assumption | (with_reducible refine setLink_memOk _ _ _ ?_) | (with_reducible refine memOk_snd (by assumption) ?_) | (with_reducible refine memOk_fst (by assumption) ?_) | (fail_if_no_progress with_reducible refine memOk_with ?_) | split | dsimp only | (intro _)
theorem drawFree_memOk (s : State) (n : Nat) (h_memOk : s.MemOk) : (drawFree s n).2.MemOk := by
  unfold drawFree
  all_goals repeat' first | with_reducible assumption | (fail_if_no_progress with_reducible refine memOk_with ?_) | split | dsimp only | (intro _)
theorem answerFrame_memOk (s : State) (l : Nat) (tile : Nat) (f : Frame) (kind : Nat) (h_memOk : s.MemOk) : (answerFrame s l tile f kind).MemOk := by
  unfold answerFrame
  all_goals repeat' first | with_reducible assumption | (with_reducible refine sendFrame_memOk _ _ _ _ ?_) | (with_reducible refine drawFree_memOk _ _ ?_) | (with_reducible refine memOk_snd (by assumption) ?_) | (with_reducible refine memOk_fst (by assumption) ?_) | (fail_if_no_progress with_reducible refine memOk_with ?_) | split | dsimp only | (intro _)
theorem abortIn_memOk (tile : Nat) (f : Frame) (s : State) (h_memOk : s.MemOk) : (abortIn tile f s).MemOk := by
  unfold abortIn
  all_goals repeat' first | with_reducible assumption | (with_reducible refine abortTake_memOk _ _ _ _ _ ?_) | (with_reducible refine takeDelivered_memOk _ _ ?_) | (with_reducible refine answerFrame_memOk _ _ _ _ _ ?_) | (with_reducible refine memOk_snd (by assumption) ?_) | (with_reducible refine memOk_fst (by assumption) ?_) | (fail_if_no_progress with_reducible refine memOk_with ?_) | split | dsimp only | (intro _)
theorem driveTile_memOk (l : Nat) (s : State) (tile : Nat) (h_memOk : s.MemOk) : (driveTile l s tile).MemOk := by
  unfold driveTile
  all_goals repeat' first | with_reducible assumption | (with_reducible refine sendFrame_memOk _ _ _ _ ?_) | (with_reducible refine modTileOf_memOk _ _ _ _ ?_) | (with_reducible refine State_foldl_memOk _ (fun _ _ _ => ?_) _ _ ?_) | (with_reducible refine foldl_fst_memOk _ (fun _ _ _ => ?_) _ _ ?_) | (with_reducible refine foldl_snd_memOk _ (fun _ _ _ => ?_) _ _ ?_) | (fail_if_no_progress with_reducible refine memOk_with ?_) | split | dsimp only | (intro _)
theorem driveFrames_memOk (s : State) (l : Nat) (h_memOk : s.MemOk) : (driveFrames s l).MemOk := by
  unfold driveFrames
  all_goals repeat' first | with_reducible assumption | (with_reducible refine driveTile_memOk _ _ _ ?_) | (with_reducible refine State_foldl_memOk _ (fun _ _ _ => ?_) _ _ ?_) | (with_reducible refine foldl_fst_memOk _ (fun _ _ _ => ?_) _ _ ?_) | (with_reducible refine foldl_snd_memOk _ (fun _ _ _ => ?_) _ _ ?_) | (fail_if_no_progress with_reducible refine memOk_with ?_) | split | dsimp only | (intro _)
theorem ackIn_memOk (tile : Nat) (f : Frame) (s : State) (h_memOk : s.MemOk) : (ackIn tile f s).MemOk := by
  unfold ackIn
  all_goals repeat' first | with_reducible assumption | (with_reducible refine takeDelivered_memOk _ _ ?_) | (with_reducible refine driveFrames_memOk _ _ ?_) | (with_reducible refine modTileOf_memOk _ _ _ _ ?_) | (with_reducible refine memOk_snd (by assumption) ?_) | (with_reducible refine memOk_fst (by assumption) ?_) | (fail_if_no_progress with_reducible refine memOk_with ?_) | split | dsimp only | (intro _)
theorem modTlm_memOk (s : State) (f : Telemetry → Telemetry) (h_memOk : s.MemOk) : (modTlm s f).MemOk := by
  unfold modTlm
  all_goals repeat' first | with_reducible assumption | (fail_if_no_progress with_reducible refine memOk_with ?_) | split | dsimp only | (intro _)
theorem modBlock_memOk (s : State) (b : Nat) (f : DieBlock → DieBlock) (h_memOk : s.MemOk) : (modBlock s b f).MemOk := by
  unfold modBlock
  all_goals repeat' first | with_reducible assumption | (with_reducible refine modTlm_memOk _ _ ?_) | (fail_if_no_progress with_reducible refine memOk_with ?_) | split | dsimp only | (intro _)
theorem addDie_memOk (b : Nat) (a : Nat) (a' : Nat) (a'' : Nat) (a''' : State) (h_memOk : a'''.MemOk) : (addDie b a a' a'' a''').MemOk := by
  induction a generalizing a' a'' a''' with
  | zero => exact h_memOk
  | succ n ih =>
    unfold addDie
    repeat' first | with_reducible assumption | (with_reducible refine raiseEvt_memOk _ _ _ _ _ _ ?_) | (with_reducible refine modBlock_memOk _ _ _ ?_) | (fail_if_no_progress with_reducible refine memOk_with ?_) | (with_reducible refine ih _ _ _ ?_) | split | dsimp only | (intro _)
theorem addTaps_memOk (s : State) (l : Nat) (sums : Table TapSum) (h_memOk : s.MemOk) : (addTaps s l sums).MemOk := by
  unfold addTaps
  all_goals repeat' first | with_reducible assumption | (with_reducible refine modLoom_memOk _ _ _ ?_) | (with_reducible refine State_foldl_memOk _ (fun _ _ _ => ?_) _ _ ?_) | (with_reducible refine foldl_fst_memOk _ (fun _ _ _ => ?_) _ _ ?_) | (with_reducible refine foldl_snd_memOk _ (fun _ _ _ => ?_) _ _ ?_) | (fail_if_no_progress with_reducible refine memOk_with ?_) | split | dsimp only | (intro _)
theorem putTileCount_memOk (s : State) (x : Loom) (tile : Nat) (n : Nat) (v : Nat) (h_memOk : s.MemOk) : (putTileCount s x tile n v).MemOk := by
  unfold putTileCount
  all_goals repeat' first | with_reducible assumption | (with_reducible refine modTile_memOk _ _ _ ?_) | (fail_if_no_progress with_reducible refine memOk_with ?_) | split | dsimp only | (intro _)
theorem addTile_memOk (l : Nat) (tile : Nat) (strand : Option Nat) (a : Nat) (a' : Nat) (a'' : Nat) (a''' : State) (h_memOk : a'''.MemOk) : (addTile l tile strand a a' a'' a''').MemOk := by
  induction a generalizing a' a'' a''' with
  | zero => exact h_memOk
  | succ n ih =>
    unfold addTile
    repeat' first | with_reducible assumption | (with_reducible refine putTileCount_memOk _ _ _ _ _ ?_) | (with_reducible refine raiseEvt_memOk _ _ _ _ _ _ ?_) | (with_reducible refine modLoom_memOk _ _ _ ?_) | (with_reducible refine modTile_memOk _ _ _ ?_) | (with_reducible refine memOk_snd (by assumption) ?_) | (with_reducible refine memOk_fst (by assumption) ?_) | (fail_if_no_progress with_reducible refine memOk_with ?_) | (with_reducible refine ih _ _ _ ?_) | split | dsimp only | (intro _)
theorem ckptTrigger_memOk (s : State) (l : Nat) (step : Nat) (buffer : W64) (len : Nat) (who : Option (Nat × Nat)) (t : State) (h_memOk : s.MemOk) : ckptTrigger s l step buffer len who = .ok t → t.MemOk := by
  unfold ckptTrigger
  intro h
  all_goals repeat' first | cases h | split at h | dsimp only at h
  all_goals repeat' first | with_reducible assumption | (with_reducible refine modLoom_memOk _ _ _ ?_) | (with_reducible refine drawFree_memOk _ _ ?_) | (with_reducible refine memOk_snd (by assumption) ?_) | (with_reducible refine memOk_fst (by assumption) ?_) | (fail_if_no_progress with_reducible refine memOk_with ?_) | split | dsimp only | (intro _)
theorem modSvc_memOk (s : State) (f : Svc → Svc) (h_memOk : s.MemOk) : (modSvc s f).MemOk := by
  unfold modSvc
  all_goals repeat' first | with_reducible assumption | (fail_if_no_progress with_reducible refine memOk_with ?_) | split | dsimp only | (intro _)
theorem capture_memOk (s : State) (validReg : Nat) (valid : W64) (others : List (Nat × W64)) (h_memOk : s.MemOk) : (capture s validReg valid others).MemOk := by
  unfold capture
  all_goals repeat' first | with_reducible assumption | (with_reducible refine setReg_memOk _ _ _ ?_) | (with_reducible refine orReg_memOk _ _ _ ?_) | (with_reducible refine State_foldl_memOk _ (fun _ _ _ => ?_) _ _ ?_) | (with_reducible refine foldl_fst_memOk _ (fun _ _ _ => ?_) _ _ ?_) | (with_reducible refine foldl_snd_memOk _ (fun _ _ _ => ?_) _ _ ?_) | (fail_if_no_progress with_reducible refine memOk_with ?_) | split | dsimp only | (intro _)
theorem advise_memOk (s : State) (cause : Nat) (unit : Nat) (h_memOk : s.MemOk) : (advise s cause unit).MemOk := by
  unfold advise
  all_goals repeat' first | with_reducible assumption | (with_reducible refine evtToSession_memOk _ _ _ ?_) | (with_reducible refine ckptTrigger_memOk _ _ _ _ _ _ _ ?_ (by assumption)) | (with_reducible refine orReg_memOk _ _ _ ?_) | (with_reducible refine modSvc_memOk _ _ ?_) | (with_reducible refine capture_memOk _ _ _ _ ?_) | (with_reducible refine State_foldl_memOk _ (fun _ _ _ => ?_) _ _ ?_) | (with_reducible refine foldl_fst_memOk _ (fun _ _ _ => ?_) _ _ ?_) | (with_reducible refine foldl_snd_memOk _ (fun _ _ _ => ?_) _ _ ?_) | (with_reducible refine memOk_snd (by assumption) ?_) | (with_reducible refine memOk_fst (by assumption) ?_) | (fail_if_no_progress with_reducible refine memOk_with ?_) | split | dsimp only | (intro _)
theorem adviseOnce_memOk (s : State) (cause : Nat) (unit : Nat) (h_memOk : s.MemOk) : (adviseOnce s cause unit).MemOk := by
  unfold adviseOnce
  all_goals repeat' first | with_reducible assumption | (with_reducible refine advise_memOk _ _ _ ?_) | (fail_if_no_progress with_reducible refine memOk_with ?_) | split | dsimp only | (intro _)
theorem noteCause_memOk (s : State) (cause : Nat) (unit : Nat) (n : Nat) (always : optParam Bool false) (h_memOk : s.MemOk) : (noteCause s cause unit n always).MemOk := by
  unfold noteCause
  all_goals repeat' first | with_reducible assumption | (with_reducible refine adviseOnce_memOk _ _ _ ?_) | (with_reducible refine modSvc_memOk _ _ ?_) | (with_reducible refine memOk_snd (by assumption) ?_) | (with_reducible refine memOk_fst (by assumption) ?_) | (fail_if_no_progress with_reducible refine memOk_with ?_) | split | dsimp only | (intro _)
theorem setStrand_memOk (s : State) (a : Issuer) (x : Strand) (h_memOk : s.MemOk) : (setStrand s a x).MemOk := by
  unfold setStrand
  all_goals repeat' first | with_reducible assumption | (with_reducible refine modTile_memOk _ _ _ ?_) | (fail_if_no_progress with_reducible refine memOk_with ?_) | split | dsimp only | (intro _)
theorem modStrand_memOk (s : State) (a : Issuer) (f : Strand → Strand) (h_memOk : s.MemOk) : (modStrand s a f).MemOk := by
  unfold modStrand
  all_goals repeat' first | with_reducible assumption | (with_reducible refine setStrand_memOk _ _ _ ?_) | (fail_if_no_progress with_reducible refine memOk_with ?_) | split | dsimp only | (intro _)
theorem semDone_memOk (s : State) (a : Issuer) (st : Byte) (h_memOk : s.MemOk) : (semDone s a st).MemOk := by
  unfold semDone
  all_goals repeat' first | with_reducible assumption | (with_reducible refine modStrand_memOk _ _ _ ?_) | (with_reducible refine memOk_snd (by assumption) ?_) | (with_reducible refine memOk_fst (by assumption) ?_) | (fail_if_no_progress with_reducible refine memOk_with ?_) | split | dsimp only | (intro _)
theorem serveShared_memOk (s : State) (sem : Nat) (a : Nat) (h_memOk : s.MemOk) : (serveShared s sem a).MemOk := by
  induction a generalizing s with
  | zero => exact h_memOk
  | succ n ih =>
    unfold serveShared
    repeat' first | with_reducible assumption | (with_reducible refine semDone_memOk _ _ _ ?_) | (with_reducible refine memOk_snd (by assumption) ?_) | (with_reducible refine memOk_fst (by assumption) ?_) | (fail_if_no_progress with_reducible refine memOk_with ?_) | (with_reducible refine ih _ ?_) | split | dsimp only | (intro _)
theorem serveSem_memOk (s : State) (sem : Nat) (h_memOk : s.MemOk) : (serveSem s sem).MemOk := by
  unfold serveSem
  all_goals repeat' first | with_reducible assumption | (with_reducible refine serveShared_memOk _ _ _ ?_) | (with_reducible refine memOk_snd (by assumption) ?_) | (with_reducible refine memOk_fst (by assumption) ?_) | (fail_if_no_progress with_reducible refine memOk_with ?_) | split | dsimp only | (intro _)
theorem leaveQueues_memOk (s : State) (l : Nat) (h_memOk : s.MemOk) : (leaveQueues s l).MemOk := by
  unfold leaveQueues
  all_goals repeat' first | with_reducible assumption | (with_reducible refine serveSem_memOk _ _ ?_) | (with_reducible refine modLoom_memOk _ _ _ ?_) | (with_reducible refine State_foldl_memOk _ (fun _ _ _ => ?_) _ _ ?_) | (with_reducible refine foldl_fst_memOk _ (fun _ _ _ => ?_) _ _ ?_) | (with_reducible refine foldl_snd_memOk _ (fun _ _ _ => ?_) _ _ ?_) | (fail_if_no_progress with_reducible refine memOk_with ?_) | split | dsimp only | (intro _)
theorem returnUnits_memOk (s : State) (l : Nat) (h_memOk : s.MemOk) : (returnUnits s l).MemOk := by
  unfold returnUnits
  all_goals repeat' first | with_reducible assumption | (with_reducible refine serveSem_memOk _ _ ?_) | (with_reducible refine raiseEvt_memOk _ _ _ _ _ _ ?_) | (with_reducible refine modLoom_memOk _ _ _ ?_) | (with_reducible refine State_foldl_memOk _ (fun _ _ _ => ?_) _ _ ?_) | (with_reducible refine foldl_fst_memOk _ (fun _ _ _ => ?_) _ _ ?_) | (with_reducible refine foldl_snd_memOk _ (fun _ _ _ => ?_) _ _ ?_) | (fail_if_no_progress with_reducible refine memOk_with ?_) | split | dsimp only | (intro _)
theorem putRecord_memOk (s : State) (k : Nat) (bs : List Byte) (h_memOk : s.MemOk) : (putRecord s k bs).MemOk := by
  unfold putRecord
  all_goals repeat' first | with_reducible assumption | (with_reducible refine wrN_memOk _ _ _ ?_) | (with_reducible refine wr_memOk _ _ _ _ ?_) | (fail_if_no_progress with_reducible refine memOk_with ?_) | split | dsimp only | (intro _)
theorem pinPick_memOk (s : State) (l : Nat) (pick : Nat) (up : Bool) (h_memOk : s.MemOk) : (pinPick s l pick up).MemOk := by
  unfold pinPick
  all_goals repeat' first | with_reducible assumption | (with_reducible refine modLoom_memOk _ _ _ ?_) | (fail_if_no_progress with_reducible refine memOk_with ?_) | split | dsimp only | (intro _)
theorem takeEv_memOk (s : State) (h_memOk : s.MemOk) : (takeEv s).2.MemOk := by
  unfold takeEv
  all_goals repeat' first | with_reducible assumption | (fail_if_no_progress with_reducible refine memOk_with ?_) | split | dsimp only | (intro _)
theorem setReq_memOk (s : State) (e : Nat) (x : Req) (h_memOk : s.MemOk) : (setReq s e x).MemOk := by
  unfold setReq
  all_goals repeat' first | with_reducible assumption | (fail_if_no_progress with_reducible refine memOk_with ?_) | split | dsimp only | (intro _)
theorem modReq_memOk (s : State) (e : Nat) (f : Req → Req) (h_memOk : s.MemOk) : (modReq s e f).MemOk := by
  unfold modReq
  all_goals repeat' first | with_reducible assumption | (with_reducible refine setReq_memOk _ _ _ ?_) | (fail_if_no_progress with_reducible refine memOk_with ?_) | split | dsimp only | (intro _)
theorem putOut_memOk (s : State) (e : Nat) (kind : Nat) (token : Nat) (pos : Nat) (pick : Nat) (st : Nat) (logprob : Nat) (h_memOk : s.MemOk) : (putOut s e kind token pos pick st logprob).MemOk := by
  unfold putOut
  all_goals repeat' first | with_reducible assumption | (with_reducible refine modReq_memOk _ _ _ ?_) | (with_reducible refine hostWr_memOk _ _ _ ?_) | (with_reducible refine memOk_snd (by assumption) ?_) | (with_reducible refine memOk_fst (by assumption) ?_) | (fail_if_no_progress with_reducible refine memOk_with ?_) | split | dsimp only | (intro _)
theorem endReq_memOk (s : State) (e : Nat) (st : Byte) (h_memOk : s.MemOk) : (endReq s e st).MemOk := by
  unfold endReq
  all_goals repeat' first | with_reducible assumption | (with_reducible refine putRecord_memOk _ _ _ ?_) | (with_reducible refine pinPick_memOk _ _ _ _ ?_) | (with_reducible refine takeEv_memOk _ ?_) | (with_reducible refine modReq_memOk _ _ _ ?_) | (with_reducible refine putOut_memOk _ _ _ _ _ _ _ _ ?_) | (with_reducible refine memOk_snd (by assumption) ?_) | (with_reducible refine memOk_fst (by assumption) ?_) | (fail_if_no_progress with_reducible refine memOk_with ?_) | split | dsimp only | (intro _)
theorem count48_memOk (s : State) (off : Nat) (n : Nat) (h_memOk : s.MemOk) : (count48 s off n).MemOk := by
  unfold count48
  all_goals repeat' first | with_reducible assumption | (with_reducible refine setReg_memOk _ _ _ ?_) | (fail_if_no_progress with_reducible refine memOk_with ?_) | split | dsimp only | (intro _)
theorem rejectDrafts_memOk (s : State) (l : Nat) (n : Nat) (h_memOk : s.MemOk) : (rejectDrafts s l n).MemOk := by
  unfold rejectDrafts
  all_goals repeat' first | with_reducible assumption | (with_reducible refine count48_memOk _ _ _ ?_) | (fail_if_no_progress with_reducible refine memOk_with ?_) | split | dsimp only | (intro _)
theorem modSrv_memOk (s : State) (l : Nat) (f : SrvLoom → SrvLoom) (h_memOk : s.MemOk) : (modSrv s l f).MemOk := by
  unfold modSrv
  all_goals repeat' first | with_reducible assumption | (with_reducible refine modLoom_memOk _ _ _ ?_) | (fail_if_no_progress with_reducible refine memOk_with ?_) | split | dsimp only | (intro _)
theorem dropStep_memOk (s : State) (l : Nat) (h_memOk : s.MemOk) : (dropStep s l).MemOk := by
  unfold dropStep
  all_goals repeat' first | with_reducible assumption | (with_reducible refine rejectDrafts_memOk _ _ _ ?_) | (with_reducible refine modLoom_memOk _ _ _ ?_) | (with_reducible refine modSrv_memOk _ _ _ ?_) | (with_reducible refine memOk_snd (by assumption) ?_) | (with_reducible refine memOk_fst (by assumption) ?_) | (fail_if_no_progress with_reducible refine memOk_with ?_) | split | dsimp only | (intro _)
theorem endAllReqs_memOk (s : State) (l : Nat) (st : Byte) (h_memOk : s.MemOk) : (endAllReqs s l st).MemOk := by
  unfold endAllReqs
  all_goals repeat' first | with_reducible assumption | (with_reducible refine endReq_memOk _ _ _ ?_) | (with_reducible refine dropStep_memOk _ _ ?_) | (with_reducible refine State_foldl_memOk _ (fun _ _ _ => ?_) _ _ ?_) | (with_reducible refine foldl_fst_memOk _ (fun _ _ _ => ?_) _ _ ?_) | (with_reducible refine foldl_snd_memOk _ (fun _ _ _ => ?_) _ _ ?_) | (fail_if_no_progress with_reducible refine memOk_with ?_) | split | dsimp only | (intro _)
theorem postCpl_memOk (s : State) (sess : Nat) (ring : Nat) (status : Byte) (opcode : Nat) (tag : W32) (result : List Byte) (h_memOk : s.MemOk) : (postCpl s sess ring status opcode tag result).MemOk := by
  unfold postCpl
  all_goals repeat' first | with_reducible assumption | (with_reducible refine hostWr_memOk _ _ _ ?_) | (with_reducible refine setSession_memOk _ _ _ ?_) | (with_reducible refine memOk_snd (by assumption) ?_) | (with_reducible refine memOk_fst (by assumption) ?_) | (fail_if_no_progress with_reducible refine memOk_with ?_) | split | dsimp only | (intro _)
theorem modSession_memOk (s : State) (n : Nat) (f : Session → Session) (h_memOk : s.MemOk) : (modSession s n f).MemOk := by
  unfold modSession
  all_goals repeat' first | with_reducible assumption | (with_reducible refine setSession_memOk _ _ _ ?_) | (fail_if_no_progress with_reducible refine memOk_with ?_) | split | dsimp only | (intro _)
theorem finish_memOk (s : State) (sess : Nat) (ring : Nat) (status : Byte) (result : optParam (List Byte) []) (h_memOk : s.MemOk) : (finish s sess ring status result).MemOk := by
  unfold finish
  all_goals repeat' first | with_reducible assumption | (with_reducible refine postCpl_memOk _ _ _ _ _ _ _ ?_) | (with_reducible refine modSession_memOk _ _ _ ?_) | (with_reducible refine memOk_snd (by assumption) ?_) | (with_reducible refine memOk_fst (by assumption) ?_) | (fail_if_no_progress with_reducible refine memOk_with ?_) | split | dsimp only | (intro _)
theorem endRestore_memOk (s : State) (l : Nat) (st : Byte) (result : optParam (List Byte) []) (h_memOk : s.MemOk) : (endRestore s l st result).MemOk := by
  unfold endRestore
  all_goals repeat' first | with_reducible assumption | (with_reducible refine finish_memOk _ _ _ _ _ ?_) | (with_reducible refine modLoom_memOk _ _ _ ?_) | (with_reducible refine memOk_snd (by assumption) ?_) | (with_reducible refine memOk_fst (by assumption) ?_) | (fail_if_no_progress with_reducible refine memOk_with ?_) | split | dsimp only | (intro _)
theorem endCkpt_memOk (s : State) (l : Nat) (st : Byte) (result : optParam (List Byte) []) (h_memOk : s.MemOk) : (endCkpt s l st result).MemOk := by
  unfold endCkpt
  all_goals repeat' first | with_reducible assumption | (with_reducible refine finish_memOk _ _ _ _ _ ?_) | (with_reducible refine modLoom_memOk _ _ _ ?_) | (with_reducible refine memOk_snd (by assumption) ?_) | (with_reducible refine memOk_fst (by assumption) ?_) | (fail_if_no_progress with_reducible refine memOk_with ?_) | split | dsimp only | (intro _)
theorem shedEnter_memOk (s : State) (l : Nat) (h_memOk : s.MemOk) : (shedEnter s l).MemOk := by
  unfold shedEnter
  all_goals repeat' first | with_reducible assumption | (with_reducible refine abandonSource_memOk _ _ ?_) | (with_reducible refine abandonTaking_memOk _ _ _ ?_) | (with_reducible refine memOk_snd (by assumption) ?_) | (with_reducible refine memOk_fst (by assumption) ?_) | (fail_if_no_progress with_reducible refine memOk_with ?_) | split | dsimp only | (intro _)
theorem endWith_memOk (s : State) (l : Nat) (st : Byte) (collSt : Byte) (h_memOk : s.MemOk) : (endWith s l st collSt).MemOk := by
  unfold endWith
  all_goals repeat' first | with_reducible assumption | (with_reducible refine endAllReqs_memOk _ _ _ ?_) | (with_reducible refine endRestore_memOk _ _ _ _ ?_) | (with_reducible refine abortColls_memOk _ _ _ ?_) | (with_reducible refine endCkpt_memOk _ _ _ _ ?_) | (with_reducible refine shedEnter_memOk _ _ ?_) | (fail_if_no_progress with_reducible refine memOk_with ?_) | split | dsimp only | (intro _)
theorem loomUncorr_memOk (s : State) (l : Nat) (tile : optParam Nat 0) (strand : optParam Nat 0) (pc : optParam Nat 0) (insn : optParam W64 0) (h_memOk : s.MemOk) : (loomUncorr s l tile strand pc insn).MemOk := by
  unfold loomUncorr
  all_goals repeat' first | with_reducible assumption | (with_reducible refine leaveQueues_memOk _ _ ?_) | (with_reducible refine setLoom_memOk _ _ _ ?_) | (with_reducible refine returnUnits_memOk _ _ ?_) | (with_reducible refine endWith_memOk _ _ _ _ ?_) | (with_reducible refine raiseEvt_memOk _ _ _ _ _ _ ?_) | (fail_if_no_progress with_reducible refine memOk_with ?_) | split | dsimp only | (intro _)
theorem adderFail_memOk (s : State) (die : Nat) (adder : Nat) (h_memOk : s.MemOk) : (adderFail s die adder).MemOk := by
  unfold adderFail
  all_goals repeat' first | with_reducible assumption | (with_reducible refine setReg_memOk _ _ _ ?_) | (with_reducible refine raiseEvt_memOk _ _ _ _ _ _ ?_) | (with_reducible refine noteCause_memOk _ _ _ _ _ ?_) | (with_reducible refine capture_memOk _ _ _ _ ?_) | (with_reducible refine loomUncorr_memOk _ _ _ _ _ _ ?_) | (with_reducible refine State_foldl_memOk _ (fun _ _ _ => ?_) _ _ ?_) | (with_reducible refine foldl_fst_memOk _ (fun _ _ _ => ?_) _ _ ?_) | (with_reducible refine foldl_snd_memOk _ (fun _ _ _ => ?_) _ _ ?_) | (fail_if_no_progress with_reducible refine memOk_with ?_) | split | dsimp only | (intro _)
theorem adderTest_memOk (s : State) (die : Nat) (adder : Nat) (pass : Bool) (h_memOk : s.MemOk) : (adderTest s die adder pass).MemOk := by
  unfold adderTest
  all_goals repeat' first | with_reducible assumption | (with_reducible refine adderFail_memOk _ _ _ ?_) | (fail_if_no_progress with_reducible refine memOk_with ?_) | split | dsimp only | (intro _)
theorem evictOne_memOk (s : State) (l : Nat) (h_memOk : s.MemOk) : (evictOne s l).MemOk := by
  unfold evictOne
  all_goals repeat' first | with_reducible assumption | (with_reducible refine raiseEvt_memOk _ _ _ _ _ _ ?_) | (with_reducible refine modSrv_memOk _ _ _ ?_) | (with_reducible refine State_foldl_memOk _ (fun _ _ _ => ?_) _ _ ?_) | (with_reducible refine foldl_fst_memOk _ (fun _ _ _ => ?_) _ _ ?_) | (with_reducible refine foldl_snd_memOk _ (fun _ _ _ => ?_) _ _ ?_) | (with_reducible refine memOk_snd (by assumption) ?_) | (with_reducible refine memOk_fst (by assumption) ?_) | (fail_if_no_progress with_reducible refine memOk_with ?_) | split | dsimp only | (intro _)
theorem evictFor_memOk (s : State) (l : Nat) (n : Nat) (a : Nat) (h_memOk : s.MemOk) : (evictFor s l n a).MemOk := by
  induction a generalizing s with
  | zero => exact h_memOk
  | succ n ih =>
    unfold evictFor
    repeat' first | with_reducible assumption | (with_reducible refine evictOne_memOk _ _ ?_) | (fail_if_no_progress with_reducible refine memOk_with ?_) | (with_reducible refine ih _ ?_) | split | dsimp only | (intro _)
theorem admitQueue_memOk (l : Nat) (a : Nat) (a' : State) (h_memOk : a'.MemOk) : (admitQueue l a a').MemOk := by
  induction a generalizing a' with
  | zero => exact h_memOk
  | succ n ih =>
    unfold admitQueue
    repeat' first | with_reducible assumption | (with_reducible refine raiseEvt_memOk _ _ _ _ _ _ ?_) | (with_reducible refine modReq_memOk _ _ _ ?_) | (with_reducible refine evictFor_memOk _ _ _ _ ?_) | (with_reducible refine memOk_snd (by assumption) ?_) | (with_reducible refine memOk_fst (by assumption) ?_) | (fail_if_no_progress with_reducible refine memOk_with ?_) | (with_reducible refine ih _ ?_) | split | dsimp only | (intro _)
theorem admitNow_memOk (s : State) (l : Nat) (h_memOk : s.MemOk) : (admitNow s l).MemOk := by
  unfold admitNow
  all_goals repeat' first | with_reducible assumption | (with_reducible refine admitQueue_memOk _ _ _ ?_) | (fail_if_no_progress with_reducible refine memOk_with ?_) | split | dsimp only | (intro _)
theorem admitReq_memOk (s : State) (l : Nat) (buf : Nat) (d : SubmitDesc) (prompt : List W32) (h_memOk : s.MemOk) : (admitReq s l buf d prompt).1.MemOk := by
  unfold admitReq
  all_goals repeat' first | with_reducible assumption | (with_reducible refine wrData_memOk _ _ _ ?_) | (with_reducible refine raiseEvt_memOk _ _ _ _ _ _ ?_) | (with_reducible refine takeEv_memOk _ ?_) | (with_reducible refine setReq_memOk _ _ _ ?_) | (with_reducible refine modSrv_memOk _ _ _ ?_) | (with_reducible refine memOk_snd (by assumption) ?_) | (with_reducible refine memOk_fst (by assumption) ?_) | (fail_if_no_progress with_reducible refine memOk_with ?_) | split | dsimp only | (intro _)
theorem advancePhase_memOk (s : State) (bay : Nat) (h_memOk : s.MemOk) : (advancePhase s bay).MemOk := by
  unfold advancePhase
  all_goals repeat' first | with_reducible assumption | (with_reducible refine modTlm_memOk _ _ ?_) | (with_reducible refine drawFree_memOk _ _ ?_) | (with_reducible refine State_foldl_memOk _ (fun _ _ _ => ?_) _ _ ?_) | (with_reducible refine foldl_fst_memOk _ (fun _ _ _ => ?_) _ _ ?_) | (with_reducible refine foldl_snd_memOk _ (fun _ _ _ => ?_) _ _ ?_) | (with_reducible refine memOk_snd (by assumption) ?_) | (with_reducible refine memOk_fst (by assumption) ?_) | (fail_if_no_progress with_reducible refine memOk_with ?_) | split | dsimp only | (intro _)
theorem memError_memOk (s : State) (evts : List Nat) (stopped : Option Nat) (owner : Option Nat) (addr : Nat) (stack : Nat) (tile : Nat) (unit : Nat) (thrum : optParam Bool false) (h_memOk : s.MemOk) : (memError s evts stopped owner addr stack tile unit thrum).MemOk := by
  unfold memError
  all_goals repeat' first | with_reducible assumption | (with_reducible refine raiseEvt_memOk _ _ _ _ _ _ ?_) | (with_reducible refine capture_memOk _ _ _ _ ?_) | (with_reducible refine State_foldl_memOk _ (fun _ _ _ => ?_) _ _ ?_) | (with_reducible refine foldl_fst_memOk _ (fun _ _ _ => ?_) _ _ ?_) | (with_reducible refine foldl_snd_memOk _ (fun _ _ _ => ?_) _ _ ?_) | (fail_if_no_progress with_reducible refine memOk_with ?_) | split | dsimp only | (intro _)
theorem countReg_memOk (s : State) (off : Nat) (n : optParam Nat 1) (h_memOk : s.MemOk) : (countReg s off n).MemOk := by
  unfold countReg
  all_goals repeat' first | with_reducible assumption | (with_reducible refine setReg_memOk _ _ _ ?_) | (fail_if_no_progress with_reducible refine memOk_with ?_) | split | dsimp only | (intro _)
theorem reportUncorr_memOk (s : State) (consumer : Option Nat) (u : Nat) (h_memOk : s.MemOk) : (reportUncorr s consumer u).MemOk := by
  unfold reportUncorr
  all_goals repeat' first | with_reducible assumption | (with_reducible refine memError_memOk _ _ _ _ _ _ _ _ _ ?_) | (with_reducible refine countReg_memOk _ _ _ ?_) | (fail_if_no_progress with_reducible refine memOk_with ?_) | split | dsimp only | (intro _)
theorem meetUnits_memOk (s : State) (consumer : Option Nat) (rs : List (Nat × Nat)) (h_memOk : s.MemOk) : (meetUnits s consumer rs).MemOk := by
  unfold meetUnits
  all_goals repeat' first | with_reducible assumption | (with_reducible refine reportUncorr_memOk _ _ _ ?_) | (with_reducible refine State_foldl_memOk _ (fun _ _ _ => ?_) _ _ ?_) | (with_reducible refine foldl_fst_memOk _ (fun _ _ _ => ?_) _ _ ?_) | (with_reducible refine foldl_snd_memOk _ (fun _ _ _ => ?_) _ _ ?_) | (fail_if_no_progress with_reducible refine memOk_with ?_) | split | dsimp only | (intro _)
theorem takeBlock_memOk (s : State) (k : Nat) (b : Nat) (h_memOk : s.MemOk) : (takeBlock s k b).MemOk := by
  unfold takeBlock
  all_goals repeat' first | with_reducible assumption | (with_reducible refine objWrite_memOk _ _ _ _ _ ?_) | (with_reducible refine meetUnits_memOk _ _ _ ?_) | (with_reducible refine modWeave_memOk _ _ _ ?_) | (with_reducible refine loomUncorr_memOk _ _ _ _ _ _ ?_) | (with_reducible refine abandonTaking_memOk _ _ _ ?_) | (with_reducible refine State_foldl_memOk _ (fun _ _ _ => ?_) _ _ ?_) | (with_reducible refine foldl_fst_memOk _ (fun _ _ _ => ?_) _ _ ?_) | (with_reducible refine foldl_snd_memOk _ (fun _ _ _ => ?_) _ _ ?_) | (with_reducible refine memOk_snd (by assumption) ?_) | (with_reducible refine memOk_fst (by assumption) ?_) | (fail_if_no_progress with_reducible refine memOk_with ?_) | split | dsimp only | (intro _)
theorem holdCopy_memOk (s : State) (who : List Nat) (kb : Nat × Nat) (h_memOk : s.MemOk) : (holdCopy s who kb).MemOk := by
  unfold holdCopy
  all_goals repeat' first | with_reducible assumption | (with_reducible refine raiseEvt_memOk _ _ _ _ _ _ ?_) | (with_reducible refine count48_memOk _ _ _ ?_) | (with_reducible refine drawFree_memOk _ _ ?_) | (with_reducible refine memOk_snd (by assumption) ?_) | (with_reducible refine memOk_fst (by assumption) ?_) | (fail_if_no_progress with_reducible refine memOk_with ?_) | split | dsimp only | (intro _)
theorem copyFirstGo_memOk (who : List Nat) (a n fuel : Nat) (s : State) (h_memOk : s.MemOk) : (copyFirstGo who a n fuel s).MemOk := by
  induction fuel generalizing s with
  | zero => exact h_memOk
  | succ k ih =>
    unfold copyFirstGo
    split
    · exact h_memOk
    · exact ih _ (takeBlock_memOk _ _ _ (holdCopy_memOk _ _ _ h_memOk))
theorem copyFirst_memOk (s : State) (who : List Nat) (a : Nat) (n : Nat) (h_memOk : s.MemOk) : (copyFirst s who a n).MemOk := by
  unfold copyFirst
  all_goals repeat' first | with_reducible assumption | (with_reducible refine copyFirstGo_memOk _ _ _ _ _ ?_) | (fail_if_no_progress with_reducible refine memOk_with ?_) | split | dsimp only | (intro _)
theorem compressChunk_memOk (x : Loom) (c : CollOut) (chunk : Nat) (h_memOk : c.s.MemOk) : (compressChunk x c chunk).1.s.MemOk := by
  unfold compressChunk
  all_goals repeat' first | with_reducible assumption | (with_reducible refine copyFirst_memOk _ _ _ _ ?_) | (with_reducible refine wr_memOk _ _ _ _ ?_) | (with_reducible refine State_foldl_memOk _ (fun _ _ _ => ?_) _ _ ?_) | (with_reducible refine CollOut_foldl_memOk _ (fun _ _ _ => ?_) _ _ ?_) | (with_reducible refine foldl_fst_memOk _ (fun _ _ _ => ?_) _ _ ?_) | (with_reducible refine foldl_snd_memOk _ (fun _ _ _ => ?_) _ _ ?_) | (with_reducible refine memOk_snd (by assumption) ?_) | (with_reducible refine memOk_fst (by assumption) ?_) | (fail_if_no_progress with_reducible refine memOk_with ?_) | split | dsimp only | (intro _)
theorem startScalar_memOk (x : Loom) (c : CollOut) (h_memOk : c.s.MemOk) : (startScalar x c).s.MemOk := by
  unfold startScalar
  all_goals repeat' first | with_reducible assumption | (with_reducible refine memOk_snd (by assumption) ?_) | (with_reducible refine memOk_fst (by assumption) ?_) | (fail_if_no_progress with_reducible refine memOk_with ?_) | split | dsimp only | (intro _)
theorem startGather_memOk (x : Loom) (c : CollOut) (h_memOk : c.s.MemOk) : (startGather x c).s.MemOk := by
  unfold startGather
  all_goals repeat' first | with_reducible assumption | (with_reducible refine memOk_snd (by assumption) ?_) | (with_reducible refine memOk_fst (by assumption) ?_) | (fail_if_no_progress with_reducible refine memOk_with ?_) | split | dsimp only | (intro _)
theorem finishReduce_memOk (x : Loom) (c : CollOut) (h_memOk : c.s.MemOk) : (finishReduce x c).s.MemOk := by
  unfold finishReduce
  all_goals repeat' first | with_reducible assumption | (with_reducible refine startScalar_memOk _ _ ?_) | (with_reducible refine startGather_memOk _ _ ?_) | (with_reducible refine State_foldl_memOk _ (fun _ _ _ => ?_) _ _ ?_) | (with_reducible refine CollOut_foldl_memOk _ (fun _ _ _ => ?_) _ _ ?_) | (with_reducible refine foldl_fst_memOk _ (fun _ _ _ => ?_) _ _ ?_) | (with_reducible refine foldl_snd_memOk _ (fun _ _ _ => ?_) _ _ ?_) | (fail_if_no_progress with_reducible refine memOk_with ?_) | split | dsimp only | (intro _)
theorem startStage_memOk (x : Loom) (c : CollOut) (h_memOk : c.s.MemOk) : (startStage x c).s.MemOk := by
  unfold startStage
  all_goals repeat' first | with_reducible assumption | (with_reducible refine compressChunk_memOk _ _ _ ?_) | (with_reducible refine finishReduce_memOk _ _ ?_) | (with_reducible refine State_foldl_memOk _ (fun _ _ _ => ?_) _ _ ?_) | (with_reducible refine CollOut_foldl_memOk _ (fun _ _ _ => ?_) _ _ ?_) | (with_reducible refine foldl_fst_memOk _ (fun _ _ _ => ?_) _ _ ?_) | (with_reducible refine foldl_snd_memOk _ (fun _ _ _ => ?_) _ _ ?_) | (with_reducible refine memOk_snd (by assumption) ?_) | (with_reducible refine memOk_fst (by assumption) ?_) | (fail_if_no_progress with_reducible refine memOk_with ?_) | split | dsimp only | (intro _)
theorem advanceStage_memOk (x : Loom) (c : CollOut) (h_memOk : c.s.MemOk) : (advanceStage x c).s.MemOk := by
  unfold advanceStage
  all_goals repeat' first | with_reducible assumption | (with_reducible refine startStage_memOk _ _ ?_) | (with_reducible refine memOk_snd (by assumption) ?_) | (with_reducible refine memOk_fst (by assumption) ?_) | (fail_if_no_progress with_reducible refine memOk_with ?_) | split | dsimp only | (intro _)
theorem serveAt_memOk (s : State) (a : RowAccess) (at_ : Nat) (h_memOk : s.MemOk) : (serveAt s a at_).MemOk := by
  unfold serveAt
  all_goals repeat' first | with_reducible assumption | (with_reducible refine wrData_memOk _ _ _ ?_) | (fail_if_no_progress with_reducible refine memOk_with ?_) | split | dsimp only | (intro _)
theorem serveRow_memOk (s : State) (a : RowAccess) (h_memOk : s.MemOk) : (serveRow s a).MemOk := by
  unfold serveRow
  all_goals repeat' first | with_reducible assumption | (with_reducible refine modLoom_memOk _ _ _ ?_) | (with_reducible refine serveAt_memOk _ _ _ ?_) | (with_reducible refine memOk_snd (by assumption) ?_) | (with_reducible refine memOk_fst (by assumption) ?_) | (fail_if_no_progress with_reducible refine memOk_with ?_) | split | dsimp only | (intro _)
theorem agentAccess_memOk (s : State) (a : RowAccess) (h_memOk : s.MemOk) : (agentAccess s a).MemOk := by
  unfold agentAccess
  all_goals repeat' first | with_reducible assumption | (with_reducible refine serveRow_memOk _ _ ?_) | (with_reducible refine modLoom_memOk _ _ _ ?_) | (with_reducible refine holdCopy_memOk _ _ _ ?_) | (with_reducible refine memOk_snd (by assumption) ?_) | (with_reducible refine memOk_fst (by assumption) ?_) | (fail_if_no_progress with_reducible refine memOk_with ?_) | split | dsimp only | (intro _)
theorem alive_memOk (s : State) (f : State → State) (h_f : ∀ u0, u0.MemOk → (f u0).MemOk) (h_memOk : s.MemOk) : (alive s f).MemOk := by
  unfold alive
  all_goals repeat' first | with_reducible assumption | (with_reducible refine h_f _ ?_) | (fail_if_no_progress with_reducible refine memOk_with ?_) | split | dsimp only | (intro _)
theorem modPower_memOk (s : State) (f : Power → Power) (h_memOk : s.MemOk) : (modPower s f).MemOk := by
  unfold modPower
  all_goals repeat' first | with_reducible assumption | (fail_if_no_progress with_reducible refine memOk_with ?_) | split | dsimp only | (intro _)
theorem modDie_memOk (s : State) (d : Nat) (f : DiePower → DiePower) (h_memOk : s.MemOk) : (modDie s d f).MemOk := by
  unfold modDie
  all_goals repeat' first | with_reducible assumption | (with_reducible refine modPower_memOk _ _ ?_) | (fail_if_no_progress with_reducible refine memOk_with ?_) | split | dsimp only | (intro _)
theorem noteThermal_memOk (s : State) (die : Nat) (bound : Bool) (h_memOk : s.MemOk) : (noteThermal s die bound).MemOk := by
  unfold noteThermal
  all_goals repeat' first | with_reducible assumption | (with_reducible refine modDie_memOk _ _ _ ?_) | (with_reducible refine noteCause_memOk _ _ _ _ _ ?_) | (with_reducible refine memOk_snd (by assumption) ?_) | (with_reducible refine memOk_fst (by assumption) ?_) | (fail_if_no_progress with_reducible refine memOk_with ?_) | split | dsimp only | (intro _)
theorem rebind_memOk (s : State) (h_memOk : s.MemOk) : (rebind s).MemOk := by
  unfold rebind
  all_goals repeat' first | with_reducible assumption | (with_reducible refine noteThermal_memOk _ _ _ ?_) | (with_reducible refine modPower_memOk _ _ ?_) | (with_reducible refine State_foldl_memOk _ (fun _ _ _ => ?_) _ _ ?_) | (with_reducible refine foldl_fst_memOk _ (fun _ _ _ => ?_) _ _ ?_) | (with_reducible refine foldl_snd_memOk _ (fun _ _ _ => ?_) _ _ ?_) | (fail_if_no_progress with_reducible refine memOk_with ?_) | split | dsimp only | (intro _)
theorem moveCapLimit_memOk (s : State) (from_ : Nat) (dest : Nat) (h_memOk : s.MemOk) : (moveCapLimit s from_ dest).MemOk := by
  unfold moveCapLimit
  all_goals repeat' first | with_reducible assumption | (with_reducible refine modPower_memOk _ _ ?_) | (with_reducible refine rebind_memOk _ ?_) | (fail_if_no_progress with_reducible refine memOk_with ?_) | split | dsimp only | (intro _)
theorem applyCap_memOk (s : State) (h_memOk : s.MemOk) : (applyCap s).MemOk := by
  unfold applyCap
  all_goals repeat' first | with_reducible assumption | (with_reducible refine modPower_memOk _ _ ?_) | (with_reducible refine raiseEvt_memOk _ _ _ _ _ _ ?_) | (with_reducible refine moveCapLimit_memOk _ _ _ ?_) | (with_reducible refine memOk_snd (by assumption) ?_) | (with_reducible refine memOk_fst (by assumption) ?_) | (fail_if_no_progress with_reducible refine memOk_with ?_) | split | dsimp only | (intro _)
theorem putOp_memOk (s : State) (tile : Nat) (l : Nat) (o : AsyncOp) (h_memOk : s.MemOk) : (putOp s tile l o).MemOk := by
  unfold putOp
  all_goals repeat' first | with_reducible assumption | (with_reducible refine modTileOf_memOk _ _ _ _ ?_) | (fail_if_no_progress with_reducible refine memOk_with ?_) | split | dsimp only | (intro _)
theorem rmtReply_memOk (s : State) (q : RmtRequest) (st : Byte) (data : List Byte) (h_memOk : s.MemOk) : (rmtReply s q st data).MemOk := by
  unfold rmtReply
  all_goals repeat' first | with_reducible assumption | (with_reducible refine send_memOk _ _ ?_) | (with_reducible refine putOp_memOk _ _ _ _ ?_) | (with_reducible refine memOk_snd (by assumption) ?_) | (with_reducible refine memOk_fst (by assumption) ?_) | (fail_if_no_progress with_reducible refine memOk_with ?_) | split | dsimp only | (intro _)
theorem touchRange_memOk (s : State) (l : Nat) (a : Nat) (n : Nat) (write : Bool) (h_memOk : s.MemOk) : (touchRange s l a n write).MemOk := by
  unfold touchRange
  all_goals repeat' first | with_reducible assumption | (with_reducible refine modLoom_memOk _ _ _ ?_) | (with_reducible refine State_foldl_memOk _ (fun _ _ _ => ?_) _ _ ?_) | (with_reducible refine foldl_fst_memOk _ (fun _ _ _ => ?_) _ _ ?_) | (with_reducible refine foldl_snd_memOk _ (fun _ _ _ => ?_) _ _ ?_) | (with_reducible refine memOk_snd (by assumption) ?_) | (with_reducible refine memOk_fst (by assumption) ?_) | (fail_if_no_progress with_reducible refine memOk_with ?_) | split | dsimp only | (intro _)
theorem clearVia_memOk (s : State) (x : Loom) (a : Nat) (n : Nat) (h_memOk : s.MemOk) : (clearVia s x a n).MemOk := by
  unfold clearVia
  all_goals repeat' first | with_reducible assumption | (fail_if_no_progress with_reducible refine memOk_with ?_) | split | dsimp only | (intro _)
theorem writeVia_memOk (s : State) (l : Nat) (a : Nat) (bs : List Byte) (h_memOk : s.MemOk) : (writeVia s l a bs).MemOk := by
  unfold writeVia
  all_goals repeat' first | with_reducible assumption | (with_reducible refine clearVia_memOk _ _ _ _ ?_) | (with_reducible refine wrN_memOk _ _ _ ?_) | (with_reducible refine wrData_memOk _ _ _ ?_) | (with_reducible refine State_foldl_memOk _ (fun _ _ _ => ?_) _ _ ?_) | (with_reducible refine foldl_fst_memOk _ (fun _ _ _ => ?_) _ _ ?_) | (with_reducible refine foldl_snd_memOk _ (fun _ _ _ => ?_) _ _ ?_) | (fail_if_no_progress with_reducible refine memOk_with ?_) | split | dsimp only | (intro _)
theorem rmtApply_memOk (s : State) (l : Nat) (q : RmtRequest) (h_memOk : s.MemOk) : (rmtApply s l q).MemOk := by
  unfold rmtApply
  all_goals repeat' first | with_reducible assumption | (with_reducible refine touchRange_memOk _ _ _ _ _ ?_) | (with_reducible refine writeVia_memOk _ _ _ _ ?_) | (with_reducible refine memOk_snd (by assumption) ?_) | (with_reducible refine memOk_fst (by assumption) ?_) | (fail_if_no_progress with_reducible refine memOk_with ?_) | split | dsimp only | (intro _)
theorem applyGroup_memOk (s : State) (l : Nat) (g : Nat) (h_memOk : s.MemOk) : (applyGroup s l g).MemOk := by
  unfold applyGroup
  all_goals repeat' first | with_reducible assumption | (with_reducible refine rmtReply_memOk _ _ _ _ ?_) | (with_reducible refine meetUnits_memOk _ _ _ ?_) | (with_reducible refine modLoom_memOk _ _ _ ?_) | (with_reducible refine rmtApply_memOk _ _ _ ?_) | (with_reducible refine State_foldl_memOk _ (fun _ _ _ => ?_) _ _ ?_) | (with_reducible refine foldl_fst_memOk _ (fun _ _ _ => ?_) _ _ ?_) | (with_reducible refine foldl_snd_memOk _ (fun _ _ _ => ?_) _ _ ?_) | (fail_if_no_progress with_reducible refine memOk_with ?_) | split | dsimp only | (intro _)
theorem tryRound_some {α : Type} {f : Nat → Option α} {r : α} (n i k : Nat) : tryRound n f i k = some r → ∃ j, f j = some r := by
  induction i generalizing k with
  | zero => intro h; cases h
  | succ i ih =>
    unfold tryRound
    intro h
    split at h
    · cases h; exact ⟨_, by assumption⟩
    · exact ih _ h
theorem tryFree_some {α : Type} {n k : Nat} {f : Nat → Option α} {r : α} (h : tryFree n k f = some r) : ∃ j, f j = some r :=
  tryRound_some _ _ _ h
theorem tryTile_memOk (c : LayCtx) (keep : Bool) (k : Nat) (r : IntentRec) (y : Lay) (go : Lay → Option Lay) (h_go : ∀ u0 r, u0.s.MemOk → go u0 = .some r → r.s.MemOk) (t : Lay) (h_memOk : y.s.MemOk) : tryTile c keep k r y go = .some t → t.s.MemOk := by
  unfold tryTile
  intro h
  repeat' first | cases h | (exact h_go _ _ (by exact h_memOk) h) | (have h' := tryFree_some h; clear h; obtain ⟨_, h⟩ := h'; (try dsimp only at h)) | split at h | dsimp only at h
theorem tryHot_memOk (c : LayCtx) (k : Nat) (r : IntentRec) (y : Lay) (go : Lay → Option Lay) (h_go : ∀ u0 r, u0.s.MemOk → go u0 = .some r → r.s.MemOk) (t : Lay) (h_memOk : y.s.MemOk) : tryHot c k r y go = .some t → t.s.MemOk := by
  unfold tryHot
  intro h
  repeat' first | cases h | (exact h_go _ _ (by exact h_memOk) h) | (have h' := tryFree_some h; clear h; obtain ⟨_, h⟩ := h'; (try dsimp only at h)) | split at h | dsimp only at h
theorem layExperts_memOk (l : Nat) (x : Loom) (r : IntentRec) (y : Lay) (t : Lay) (h_memOk : y.s.MemOk) : layExperts l x r y = .some t → t.s.MemOk := by
  unfold layExperts
  intro h
  all_goals repeat' first | cases h | split at h | dsimp only at h
  all_goals repeat' first | with_reducible assumption | (fail_if_no_progress with_reducible refine memOk_with ?_) | split | dsimp only | (intro _)
theorem tryStack_memOk (c : LayCtx) (k : Nat) (r : IntentRec) (y : Lay) (go : Lay → Option Lay) (h_go : ∀ u0 r, u0.s.MemOk → go u0 = .some r → r.s.MemOk) (t : Lay) (h_memOk : y.s.MemOk) : tryStack c k r y go = .some t → t.s.MemOk := by
  unfold tryStack
  intro h
  repeat' first | cases h | (exact h_go _ _ (by exact h_memOk) h) | (have h' := tryFree_some h; clear h; obtain ⟨_, h⟩ := h'; (try dsimp only at h)) | split at h | dsimp only at h
theorem place1_memOk (c : LayCtx) (k : Nat) (j : LayJob) (y : Lay) (go : Lay → Option Lay) (h_go : ∀ u0 r, u0.s.MemOk → go u0 = .some r → r.s.MemOk) (t : Lay) (h_memOk : y.s.MemOk) : place1 c k j y go = .some t → t.s.MemOk := by
  unfold place1
  intro h
  split at h
  · obtain ⟨z, hz, hg⟩ := Option.bind_eq_some_iff.mp h
    exact h_go _ _ (layExperts_memOk _ _ _ _ _ h_memOk hz) hg
  · exact tryHot_memOk _ _ _ _ _ h_go _ h_memOk h
  · exact tryTile_memOk _ _ _ _ _ _ h_go _ h_memOk h
  · exact tryStack_memOk _ _ _ _ _ h_go _ h_memOk h
  · dsimp only at h
    repeat' first | exact tryStack_memOk _ _ _ _ _ h_go _ h_memOk h | exact tryTile_memOk _ _ _ _ _ _ h_go _ h_memOk h | split at h
theorem search_memOk (c : LayCtx) (js : List (Nat × LayJob)) (y t : Lay) (h_memOk : y.s.MemOk) : search c js y = .some t → t.s.MemOk := by
  induction js generalizing y t with
  | nil =>
    intro h
    unfold search at h
    split at h
    · cases h; exact h_memOk
    · cases h
  | cons j js ih =>
    intro h
    unfold search at h
    exact place1_memOk _ _ _ _ _ (fun z r hz e => ih z r hz e) _ h_memOk h
theorem honour_memOk (c : LayCtx) (js : List (Nat × LayJob)) (y : Lay) (fs : List Affinity) (z : Lay) (h_y : y.s.MemOk) (h_memOk : z.s.MemOk) : (honour c js y fs z).s.MemOk := by
  induction fs generalizing c z with
  | nil => exact h_memOk
  | cons f fs ih =>
    unfold honour
    dsimp only
    split
    · exact ih _ _ (search_memOk _ _ _ _ h_y (by assumption))
    · exact ih _ _ h_memOk
theorem layout_memOk (s : State) (l : Nat) (x : Loom) (intent : List IntentRec) (affs : List Affinity) (scratchMin : Nat) (stream : Bool) (stk : List (Nat × Nat)) (t : Lay) (h_memOk : s.MemOk) : layout s l x intent affs scratchMin stream stk = .some t → t.s.MemOk := by
  intro h
  unfold layout at h
  dsimp only at h
  split at h
  · cases h
  · cases h
    have hy := drawFree_memOk s (3 * (intent.length * 2)) h_memOk
    exact honour_memOk _ _ _ _ _ hy (search_memOk _ _ _ _ hy (by assumption))
theorem putObj_memOk (s : State) (x : Loom) (obj : Nat) (bs : List Byte) (h_memOk : s.MemOk) : (putObj s x obj bs).MemOk := by
  unfold putObj
  all_goals repeat' first | with_reducible assumption | (with_reducible refine wrN_memOk _ _ _ ?_) | (with_reducible refine State_foldl_memOk _ (fun _ _ _ => ?_) _ _ ?_) | (with_reducible refine foldl_fst_memOk _ (fun _ _ _ => ?_) _ _ ?_) | (with_reducible refine foldl_snd_memOk _ (fun _ _ _ => ?_) _ _ ?_) | (with_reducible refine memOk_snd (by assumption) ?_) | (with_reducible refine memOk_fst (by assumption) ?_) | (fail_if_no_progress with_reducible refine memOk_with ?_) | split | dsimp only | (intro _)
theorem fillFree_memOk (s : State) (x : Loom) (obj : Nat) (n : Nat) (h_memOk : s.MemOk) : (fillFree s x obj n).MemOk := by
  unfold fillFree
  all_goals repeat' first | with_reducible assumption | (with_reducible refine putObj_memOk _ _ _ _ ?_) | (with_reducible refine drawFree_memOk _ _ ?_) | (with_reducible refine memOk_snd (by assumption) ?_) | (with_reducible refine memOk_fst (by assumption) ?_) | (fail_if_no_progress with_reducible refine memOk_with ?_) | split | dsimp only | (intro _)
theorem heldObj_memOk (s : State) (x : Loom) (obj : Nat) (n : Nat) (h_memOk : s.MemOk) : (heldObj s x obj n).2.MemOk := by
  unfold heldObj
  all_goals repeat' first | with_reducible assumption | (with_reducible refine drawFree_memOk _ _ ?_) | (with_reducible refine memOk_snd (by assumption) ?_) | (with_reducible refine memOk_fst (by assumption) ?_) | (fail_if_no_progress with_reducible refine memOk_with ?_) | split | dsimp only | (intro _)
theorem moveObjs_memOk (s : State) (old : Loom) (new : Loom) (keep : List IntentRec) (fresh : List IntentRec) (h_memOk : s.MemOk) : (moveObjs s old new keep fresh).MemOk := by
  unfold moveObjs
  all_goals repeat' first | with_reducible assumption | (with_reducible refine putObj_memOk _ _ _ _ ?_) | (with_reducible refine fillFree_memOk _ _ _ _ ?_) | (with_reducible refine heldObj_memOk _ _ _ _ ?_) | (with_reducible refine State_foldl_memOk _ (fun _ _ _ => ?_) _ _ ?_) | (with_reducible refine foldl_fst_memOk _ (fun _ _ _ => ?_) _ _ ?_) | (with_reducible refine foldl_snd_memOk _ (fun _ _ _ => ?_) _ _ ?_) | (with_reducible refine memOk_snd (by assumption) ?_) | (with_reducible refine memOk_fst (by assumption) ?_) | (fail_if_no_progress with_reducible refine memOk_with ?_) | split | dsimp only | (intro _)
theorem publishMap_memOk (s : State) (l : Nat) (f : Loom → Loom) (h_memOk : s.MemOk) : (publishMap s l f).MemOk := by
  unfold publishMap
  all_goals repeat' first | with_reducible assumption | (with_reducible refine modLoom_memOk _ _ _ ?_) | (fail_if_no_progress with_reducible refine memOk_with ?_) | split | dsimp only | (intro _)
theorem applyIntent_memOk (s : State) (l : Nat) (recs : List IntentRec) (y : Intent) (t : State) (x1 : List Byte) (h_memOk : s.MemOk) : applyIntent s l recs y = .ok (t, x1) → t.MemOk := by
  unfold applyIntent
  intro h
  all_goals repeat' first | cases h | split at h | dsimp only at h
  all_goals repeat' first | with_reducible assumption | (with_reducible refine layout_memOk _ _ _ _ _ _ _ _ _ ?_ (by assumption)) | (with_reducible refine moveObjs_memOk _ _ _ _ _ ?_) | (with_reducible refine publishMap_memOk _ _ _ ?_) | (with_reducible refine memOk_snd (by assumption) ?_) | (with_reducible refine memOk_fst (by assumption) ?_) | (fail_if_no_progress with_reducible refine memOk_with ?_) | split | dsimp only | (intro _)
theorem applyReady_memOk (s : State) (l : Nat) (h_memOk : s.MemOk) : (applyReady s l).MemOk := by
  unfold applyReady
  all_goals repeat' first | with_reducible assumption | (with_reducible refine applyGroup_memOk _ _ _ ?_) | (with_reducible refine holdCopy_memOk _ _ _ ?_) | (with_reducible refine State_foldl_memOk _ (fun _ _ _ => ?_) _ _ ?_) | (with_reducible refine foldl_fst_memOk _ (fun _ _ _ => ?_) _ _ ?_) | (with_reducible refine foldl_snd_memOk _ (fun _ _ _ => ?_) _ _ ?_) | (with_reducible refine memOk_snd (by assumption) ?_) | (with_reducible refine memOk_fst (by assumption) ?_) | (fail_if_no_progress with_reducible refine memOk_with ?_) | split | dsimp only | (intro _)
theorem shedStopped_memOk (s : State) (l : Nat) (h_memOk : s.MemOk) : (shedStopped s l).MemOk := by
  unfold shedStopped
  all_goals repeat' first | with_reducible assumption | (with_reducible refine modWeave_memOk _ _ _ ?_) | (with_reducible refine memOk_snd (by assumption) ?_) | (with_reducible refine memOk_fst (by assumption) ?_) | (fail_if_no_progress with_reducible refine memOk_with ?_) | split | dsimp only | (intro _)
theorem leaveBays_memOk (s : State) (l : Nat) (h_memOk : s.MemOk) : (leaveBays s l).MemOk := by
  unfold leaveBays
  all_goals repeat' first | with_reducible assumption | (with_reducible refine setLoom_memOk _ _ _ ?_) | (with_reducible refine modLoom_memOk _ _ _ ?_) | (with_reducible refine modTile_memOk _ _ _ ?_) | (with_reducible refine State_foldl_memOk _ (fun _ _ _ => ?_) _ _ ?_) | (with_reducible refine foldl_fst_memOk _ (fun _ _ _ => ?_) _ _ ?_) | (with_reducible refine foldl_snd_memOk _ (fun _ _ _ => ?_) _ _ ?_) | (fail_if_no_progress with_reducible refine memOk_with ?_) | split | dsimp only | (intro _)
theorem toStopped_memOk (s : State) (l : Nat) (h_memOk : s.MemOk) : (toStopped s l).MemOk := by
  unfold toStopped
  all_goals repeat' first | with_reducible assumption | (with_reducible refine endAllReqs_memOk _ _ _ ?_) | (with_reducible refine shedStopped_memOk _ _ ?_) | (with_reducible refine leaveQueues_memOk _ _ ?_) | (with_reducible refine returnUnits_memOk _ _ ?_) | (with_reducible refine modLoom_memOk _ _ _ ?_) | (with_reducible refine leaveBays_memOk _ _ ?_) | (with_reducible refine modTile_memOk _ _ _ ?_) | (with_reducible refine State_foldl_memOk _ (fun _ _ _ => ?_) _ _ ?_) | (with_reducible refine foldl_fst_memOk _ (fun _ _ _ => ?_) _ _ ?_) | (with_reducible refine foldl_snd_memOk _ (fun _ _ _ => ?_) _ _ ?_) | (fail_if_no_progress with_reducible refine memOk_with ?_) | split | dsimp only | (intro _)
theorem softPoint_memOk (s : State) (l : Nat) (p : Preempt) (h_memOk : s.MemOk) : (softPoint s l p).MemOk := by
  unfold softPoint
  all_goals repeat' first | with_reducible assumption | (with_reducible refine raiseEvt_memOk _ _ _ _ _ _ ?_) | (with_reducible refine toStopped_memOk _ _ ?_) | (with_reducible refine modLoom_memOk _ _ _ ?_) | (with_reducible refine leaveBays_memOk _ _ ?_) | (fail_if_no_progress with_reducible refine memOk_with ?_) | split | dsimp only | (intro _)
theorem revokeAll_memOk (s : State) (l : Nat) (a : Nat) (h_memOk : s.MemOk) : (revokeAll s l a).MemOk := by
  induction a generalizing s with
  | zero => exact h_memOk
  | succ n ih =>
    unfold revokeAll
    repeat' first | with_reducible assumption | (with_reducible refine returnUnits_memOk _ _ ?_) | (fail_if_no_progress with_reducible refine memOk_with ?_) | (with_reducible refine ih _ ?_) | split | dsimp only | (intro _)
theorem hardPoint_memOk (s : State) (l : Nat) (p : Preempt) (h_memOk : s.MemOk) : (hardPoint s l p).MemOk := by
  unfold hardPoint
  all_goals repeat' first | with_reducible assumption | (with_reducible refine leaveQueues_memOk _ _ ?_) | (with_reducible refine modLoom_memOk _ _ _ ?_) | (fail_if_no_progress with_reducible refine memOk_with ?_) | split | dsimp only | (intro _)
theorem preemptEval_memOk (s : State) (l : Nat) (h_memOk : s.MemOk) : (preemptEval s l).MemOk := by
  unfold preemptEval
  all_goals repeat' first | with_reducible assumption | (with_reducible refine softPoint_memOk _ _ _ ?_) | (with_reducible refine setLoom_memOk _ _ _ ?_) | (with_reducible refine revokeAll_memOk _ _ _ ?_) | (with_reducible refine raiseEvt_memOk _ _ _ _ _ _ ?_) | (with_reducible refine hardPoint_memOk _ _ _ ?_) | (with_reducible refine memOk_snd (by assumption) ?_) | (with_reducible refine memOk_fst (by assumption) ?_) | (fail_if_no_progress with_reducible refine memOk_with ?_) | split | dsimp only | (intro _)
theorem requestPreempt_memOk (s : State) (l : Nat) (hard : Bool) (h_memOk : s.MemOk) : (requestPreempt s l hard).MemOk := by
  unfold requestPreempt
  all_goals repeat' first | with_reducible assumption | (with_reducible refine setLoom_memOk _ _ _ ?_) | (with_reducible refine shedEnter_memOk _ _ ?_) | (with_reducible refine modLoom_memOk _ _ _ ?_) | (with_reducible refine preemptEval_memOk _ _ ?_) | (with_reducible refine memOk_snd (by assumption) ?_) | (with_reducible refine memOk_fst (by assumption) ?_) | (fail_if_no_progress with_reducible refine memOk_with ?_) | split | dsimp only | (intro _)
theorem askTest_memOk (s : State) (bays : List Nat) (h : Nat) (h_memOk : s.MemOk) : (askTest s bays h).MemOk := by
  unfold askTest
  all_goals repeat' first | with_reducible assumption | (with_reducible refine requestPreempt_memOk _ _ _ ?_) | (with_reducible refine modSvc_memOk _ _ ?_) | (with_reducible refine State_foldl_memOk _ (fun _ _ _ => ?_) _ _ ?_) | (with_reducible refine foldl_fst_memOk _ (fun _ _ _ => ?_) _ _ ?_) | (with_reducible refine foldl_snd_memOk _ (fun _ _ _ => ?_) _ _ ?_) | (fail_if_no_progress with_reducible refine memOk_with ?_) | split | dsimp only | (intro _)
theorem queueBlocks_memOk (s : State) (num : Nat) (reads : List (Nat × Nat × Nat)) (writes : List (Nat × Nat × Nat)) (h_memOk : s.MemOk) : (queueBlocks s num reads writes).MemOk := by
  unfold queueBlocks
  all_goals repeat' first | with_reducible assumption | (with_reducible refine modTile_memOk _ _ _ ?_) | (with_reducible refine State_foldl_memOk _ (fun _ _ _ => ?_) _ _ ?_) | (with_reducible refine foldl_fst_memOk _ (fun _ _ _ => ?_) _ _ ?_) | (with_reducible refine foldl_snd_memOk _ (fun _ _ _ => ?_) _ _ ?_) | (fail_if_no_progress with_reducible refine memOk_with ?_) | split | dsimp only | (intro _)
theorem insnFault_memOk (s : State) (l : Nat) (a : Issuer) (st : Byte) (insn : W64) (h_memOk : s.MemOk) : (insnFault s l a st insn).MemOk := by
  unfold insnFault
  all_goals repeat' first | with_reducible assumption | (with_reducible refine setLoom_memOk _ _ _ ?_) | (with_reducible refine raiseEvt_memOk _ _ _ _ _ _ ?_) | (with_reducible refine loomUncorr_memOk _ _ _ _ _ _ ?_) | (fail_if_no_progress with_reducible refine memOk_with ?_) | split | dsimp only | (intro _)
theorem issue_memOk (s : State) (a : Issuer) (w : W64) (k : Nat → Strand → IRes) (h_k : ∀ l y t, s.MemOk → k l y = .done t → t.MemOk) (h_memOk : s.MemOk) : (issue s a w k).MemOk := by
  unfold issue
  repeat' first | exact h_memOk | exact insnFault_memOk _ _ _ _ _ h_memOk | exact insnFault_memOk _ _ _ _ _ (meetUnits_memOk _ _ _ h_memOk) | exact h_k _ _ _ h_memOk (by assumption) | split | dsimp only
theorem asyncIssue_memOk (cls : Nat) (op : Nat) (usesB : Bool) (kind : AsyncKind) (a : Issuer) (f : FmtD) (s : State) (k : Nat → Strand → List Byte → Except Byte AsyncOp) (waits : AsyncOp → Bool) (reads : AsyncOp → List (Nat × Nat)) (writes : AsyncOp → List (Nat × Nat)) (lists : optParam (State → Nat → List Byte → List (Nat × Nat)) fun x x_1 x_2 => []) (h_memOk : s.MemOk) : (asyncIssue cls op usesB kind a f s k waits reads writes lists).MemOk := by
  unfold asyncIssue
  all_goals repeat' first | with_reducible assumption | (with_reducible refine queueBlocks_memOk _ _ _ _ ?_) | (with_reducible refine modStrand_memOk _ _ _ ?_) | (with_reducible refine issue_memOk _ _ _ _ (fun _ _ _ _ hq => ?_) ?_) | (split at hq) | (cases hq) | (dsimp only at hq) | (with_reducible refine modTile_memOk _ _ _ ?_) | (with_reducible refine memOk_snd (by assumption) ?_) | (with_reducible refine memOk_fst (by assumption) ?_) | (fail_if_no_progress with_reducible refine memOk_with ?_) | split | dsimp only | (intro _)
theorem setSlot_memOk (s : State) (k : Nat) (x : KeySlot) (h_memOk : s.MemOk) : (setSlot s k x).MemOk := by
  unfold setSlot
  all_goals repeat' first | with_reducible assumption | (fail_if_no_progress with_reducible refine memOk_with ?_) | split | dsimp only | (intro _)
theorem authFails_memOk (s : State) (slot : Nat) (h_memOk : s.MemOk) : (authFails s slot).MemOk := by
  unfold authFails
  all_goals repeat' first | with_reducible assumption | (with_reducible refine raiseEvt_memOk _ _ _ _ _ _ ?_) | (with_reducible refine setSlot_memOk _ _ _ ?_) | (fail_if_no_progress with_reducible refine memOk_with ?_) | split | dsimp only | (intro _)
theorem balanceMove_memOk (s : State) (job : Nat) (last : Nat) (h_memOk : s.MemOk) : (balanceMove s job last).MemOk := by
  unfold balanceMove
  all_goals repeat' first | with_reducible assumption | (with_reducible refine modDie_memOk _ _ _ ?_) | (with_reducible refine State_foldl_memOk _ (fun _ _ _ => ?_) _ _ ?_) | (with_reducible refine foldl_fst_memOk _ (fun _ _ _ => ?_) _ _ ?_) | (with_reducible refine foldl_snd_memOk _ (fun _ _ _ => ?_) _ _ ?_) | (fail_if_no_progress with_reducible refine memOk_with ?_) | split | dsimp only | (intro _)
theorem balance_memOk (s : State) (m : PowerWindow) (h_memOk : s.MemOk) : (balance s m).MemOk := by
  unfold balance
  all_goals repeat' first | with_reducible assumption | (with_reducible refine modDie_memOk _ _ _ ?_) | (with_reducible refine rebind_memOk _ ?_) | (with_reducible refine modLoom_memOk _ _ _ ?_) | (with_reducible refine balanceMove_memOk _ _ _ ?_) | (with_reducible refine State_foldl_memOk _ (fun _ _ _ => ?_) _ _ ?_) | (with_reducible refine foldl_fst_memOk _ (fun _ _ _ => ?_) _ _ ?_) | (with_reducible refine foldl_snd_memOk _ (fun _ _ _ => ?_) _ _ ?_) | (with_reducible refine memOk_snd (by assumption) ?_) | (with_reducible refine memOk_fst (by assumption) ?_) | (fail_if_no_progress with_reducible refine memOk_with ?_) | split | dsimp only | (intro _)
theorem barRelease_memOk (s : State) (tiles : List Nat) (loomScope : Bool) (id : Nat) (h_memOk : s.MemOk) : (barRelease s tiles loomScope id).MemOk := by
  unfold barRelease
  all_goals repeat' first | with_reducible assumption | (with_reducible refine modStrand_memOk _ _ _ ?_) | (with_reducible refine State_foldl_memOk _ (fun _ _ _ => ?_) _ _ ?_) | (with_reducible refine foldl_fst_memOk _ (fun _ _ _ => ?_) _ _ ?_) | (with_reducible refine foldl_snd_memOk _ (fun _ _ _ => ?_) _ _ ?_) | (fail_if_no_progress with_reducible refine memOk_with ?_) | split | dsimp only | (intro _)
theorem bayFail_memOk (s : State) (b : Nat) (h_memOk : s.MemOk) : (bayFail s b).MemOk := by
  unfold bayFail
  all_goals repeat' first | with_reducible assumption | (with_reducible refine raiseEvt_memOk _ _ _ _ _ _ ?_) | (with_reducible refine noteCause_memOk _ _ _ _ _ ?_) | (with_reducible refine modSvc_memOk _ _ ?_) | (with_reducible refine loomUncorr_memOk _ _ _ _ _ _ ?_) | (with_reducible refine State_foldl_memOk _ (fun _ _ _ => ?_) _ _ ?_) | (with_reducible refine foldl_fst_memOk _ (fun _ _ _ => ?_) _ _ ?_) | (with_reducible refine foldl_snd_memOk _ (fun _ _ _ => ?_) _ _ ?_) | (fail_if_no_progress with_reducible refine memOk_with ?_) | split | dsimp only | (intro _)
theorem bayPass_memOk (s : State) (bays : List Nat) (h_memOk : s.MemOk) : (bayPass s bays).MemOk := by
  unfold bayPass
  all_goals repeat' first | with_reducible assumption | (with_reducible refine modSvc_memOk _ _ ?_) | (with_reducible refine State_foldl_memOk _ (fun _ _ _ => ?_) _ _ ?_) | (with_reducible refine foldl_fst_memOk _ (fun _ _ _ => ?_) _ _ ?_) | (with_reducible refine foldl_snd_memOk _ (fun _ _ _ => ?_) _ _ ?_) | (fail_if_no_progress with_reducible refine memOk_with ?_) | split | dsimp only | (intro _)
theorem baySelftest_memOk (s : State) (bays : List Nat) (failed : List Nat) (h_memOk : s.MemOk) : (baySelftest s bays failed).MemOk := by
  unfold baySelftest
  all_goals repeat' first | with_reducible assumption | (with_reducible refine bayFail_memOk _ _ ?_) | (with_reducible refine askTest_memOk _ _ _ ?_) | (with_reducible refine bayPass_memOk _ _ ?_) | (with_reducible refine State_foldl_memOk _ (fun _ _ _ => ?_) _ _ ?_) | (with_reducible refine foldl_fst_memOk _ (fun _ _ _ => ?_) _ _ ?_) | (with_reducible refine foldl_snd_memOk _ (fun _ _ _ => ?_) _ _ ?_) | (with_reducible refine memOk_snd (by assumption) ?_) | (with_reducible refine memOk_fst (by assumption) ?_) | (fail_if_no_progress with_reducible refine memOk_with ?_) | split | dsimp only | (intro _)
theorem bayTestComplete_memOk (s : State) (bays : List Nat) (failed : List Nat) (h_memOk : s.MemOk) : (bayTestComplete s bays failed).MemOk := by
  unfold bayTestComplete
  all_goals repeat' first | with_reducible assumption | (with_reducible refine modSvc_memOk _ _ ?_) | (with_reducible refine bayPass_memOk _ _ ?_) | (fail_if_no_progress with_reducible refine memOk_with ?_) | split | dsimp only | (intro _)
theorem putHot_memOk (s : State) (l : Nat) (h : HotRegion) (h_memOk : s.MemOk) : (putHot s l h).MemOk := by
  unfold putHot
  all_goals repeat' first | with_reducible assumption | (with_reducible refine modLoom_memOk _ _ _ ?_) | (fail_if_no_progress with_reducible refine memOk_with ?_) | split | dsimp only | (intro _)
theorem countHandoffs_memOk (s : State) (l : Nat) (n : Nat) (h_memOk : s.MemOk) : (countHandoffs s l n).MemOk := by
  unfold countHandoffs
  all_goals repeat' first | with_reducible assumption | (with_reducible refine modLoom_memOk _ _ _ ?_) | (fail_if_no_progress with_reducible refine memOk_with ?_) | split | dsimp only | (intro _)
theorem beginOne_memOk (s : State) (l : Nat) (h : HotRegion) (k : Nat) (row : Nat) (n : Nat) (h_memOk : s.MemOk) : (beginOne s l h k row n).MemOk := by
  unfold beginOne
  all_goals repeat' first | with_reducible assumption | (with_reducible refine putHot_memOk _ _ _ ?_) | (with_reducible refine countHandoffs_memOk _ _ _ ?_) | (fail_if_no_progress with_reducible refine memOk_with ?_) | split | dsimp only | (intro _)
theorem beginTodo_memOk (l : Nat) (obj : Nat) (a : Nat) (a' : State) (h_memOk : a'.MemOk) : (beginTodo l obj a a').MemOk := by
  induction a generalizing a' with
  | zero => exact h_memOk
  | succ n ih =>
    unfold beginTodo
    repeat' first | with_reducible assumption | (with_reducible refine beginOne_memOk _ _ _ _ _ _ ?_) | (with_reducible refine memOk_snd (by assumption) ?_) | (with_reducible refine memOk_fst (by assumption) ?_) | (fail_if_no_progress with_reducible refine memOk_with ?_) | (with_reducible refine ih _ ?_) | split | dsimp only | (intro _)
theorem beginAll_memOk (s : State) (h_memOk : s.MemOk) : (beginAll s).MemOk := by
  unfold beginAll
  all_goals repeat' first | with_reducible assumption | (with_reducible refine beginTodo_memOk _ _ _ _ ?_) | (with_reducible refine State_foldl_memOk _ (fun _ _ _ => ?_) _ _ ?_) | (with_reducible refine foldl_fst_memOk _ (fun _ _ _ => ?_) _ _ ?_) | (with_reducible refine foldl_snd_memOk _ (fun _ _ _ => ?_) _ _ ?_) | (fail_if_no_progress with_reducible refine memOk_with ?_) | split | dsimp only | (intro _)
theorem residueFail_memOk (s : State) (l : Nat) (tile : Nat) (o : CollOp) (h_memOk : s.MemOk) : (residueFail s l tile o).MemOk := by
  unfold residueFail
  all_goals repeat' first | with_reducible assumption | (with_reducible refine raiseEvt_memOk _ _ _ _ _ _ ?_) | (with_reducible refine abortColl_memOk _ _ _ _ _ ?_) | (with_reducible refine drawFree_memOk _ _ ?_) | (with_reducible refine adderFail_memOk _ _ _ ?_) | (with_reducible refine memOk_snd (by assumption) ?_) | (with_reducible refine memOk_fst (by assumption) ?_) | (fail_if_no_progress with_reducible refine memOk_with ?_) | split | dsimp only | (intro _)
theorem x2xDone_memOk (s : State) (l : Nat) (tile : Nat) (c : CollOut) (h_memOk : c.s.MemOk) : (x2xDone s l tile c).s.MemOk := by
  unfold x2xDone
  all_goals repeat' first | with_reducible assumption | (with_reducible refine memOk_snd (by assumption) ?_) | (with_reducible refine memOk_fst (by assumption) ?_) | (fail_if_no_progress with_reducible refine memOk_with ?_) | split | dsimp only | (intro _)
theorem useRow_memOk (s : State) (l : Nat) (tile : Nat) (c : CollOut) (f : Frame) (t : CollOut) (h_memOk : c.s.MemOk) : useRow s l tile c f = .some t → t.s.MemOk := by
  unfold useRow
  intro h
  all_goals repeat' first | cases h | split at h | dsimp only at h
  all_goals repeat' first | with_reducible assumption | (with_reducible refine x2xDone_memOk _ _ _ _ ?_) | (with_reducible refine memOk_snd (by assumption) ?_) | (with_reducible refine memOk_fst (by assumption) ?_) | (fail_if_no_progress with_reducible refine memOk_with ?_) | split | dsimp only | (intro _)
theorem endRound_memOk (x : Loom) (c : CollOut) (r : Nat) (n : Nat) (p : Nat) (sum : List W32) (h_memOk : c.s.MemOk) : (endRound x c r n p sum).s.MemOk := by
  unfold endRound
  all_goals repeat' first | with_reducible assumption | (with_reducible refine advanceStage_memOk _ _ ?_) | (with_reducible refine State_foldl_memOk _ (fun _ _ _ => ?_) _ _ ?_) | (with_reducible refine CollOut_foldl_memOk _ (fun _ _ _ => ?_) _ _ ?_) | (with_reducible refine foldl_fst_memOk _ (fun _ _ _ => ?_) _ _ ?_) | (with_reducible refine foldl_snd_memOk _ (fun _ _ _ => ?_) _ _ ?_) | (fail_if_no_progress with_reducible refine memOk_with ?_) | split | dsimp only | (intro _)
theorem relayOnce_memOk (x : Loom) (c : CollOut) (key : Nat × Nat × Nat) (send : CollOut → CollOut) (h_send : ∀ u0, u0.s.MemOk → (send u0).s.MemOk) (h_memOk : c.s.MemOk) : (relayOnce x c key send).s.MemOk := by
  unfold relayOnce
  all_goals repeat' first | with_reducible assumption | (with_reducible refine advanceStage_memOk _ _ ?_) | (with_reducible refine h_send _ ?_) | (fail_if_no_progress with_reducible refine memOk_with ?_) | split | dsimp only | (intro _)
theorem usePartial_memOk (x : Loom) (c : CollOut) (f : Frame) (t : CollOut) (h_memOk : c.s.MemOk) : usePartial x c f = .some t → t.s.MemOk := by
  unfold usePartial
  intro h
  all_goals repeat' first | cases h | split at h | dsimp only at h
  all_goals repeat' first | with_reducible assumption | (with_reducible refine endRound_memOk _ _ _ _ _ _ ?_) | (with_reducible refine relayOnce_memOk _ _ _ _ ?_ ?_) | (with_reducible refine memOk_snd (by assumption) ?_) | (with_reducible refine memOk_fst (by assumption) ?_) | (fail_if_no_progress with_reducible refine memOk_with ?_) | split | dsimp only | (intro _)
theorem x2xSendRows_memOk (s : State) (l : Nat) (c : CollOut) (e : Nat) (n : Nat) (start : Nat) (h_memOk : c.s.MemOk) : (x2xSendRows s l c e n start).s.MemOk := by
  unfold x2xSendRows
  all_goals repeat' first | with_reducible assumption | (with_reducible refine memOk_snd (by assumption) ?_) | (with_reducible refine memOk_fst (by assumption) ?_) | (fail_if_no_progress with_reducible refine memOk_with ?_) | split | dsimp only | (intro _)
theorem returnRows_memOk (s : State) (l : Nat) (tile : Nat) (c : CollOut) (member : Nat) (base : Nat) (tokens : Nat) (h_memOk : c.s.MemOk) : (returnRows s l tile c member base tokens).s.MemOk := by
  unfold returnRows
  all_goals repeat' first | with_reducible assumption | (with_reducible refine memOk_snd (by assumption) ?_) | (with_reducible refine memOk_fst (by assumption) ?_) | (fail_if_no_progress with_reducible refine memOk_with ?_) | split | dsimp only | (intro _)
theorem x2xAdmit_memOk (s : State) (l : Nat) (c : CollOut) (e : Nat) (h_memOk : c.s.MemOk) : (x2xAdmit s l c e).1.s.MemOk := by
  unfold x2xAdmit
  all_goals repeat' first | with_reducible assumption | (with_reducible refine raiseEvt_memOk _ _ _ _ _ _ ?_) | (with_reducible refine modLoom_memOk _ _ _ ?_) | (with_reducible refine State_foldl_memOk _ (fun _ _ _ => ?_) _ _ ?_) | (with_reducible refine CollOut_foldl_memOk _ (fun _ _ _ => ?_) _ _ ?_) | (with_reducible refine foldl_fst_memOk _ (fun _ _ _ => ?_) _ _ ?_) | (with_reducible refine foldl_snd_memOk _ (fun _ _ _ => ?_) _ _ ?_) | (with_reducible refine memOk_snd (by assumption) ?_) | (with_reducible refine memOk_fst (by assumption) ?_) | (fail_if_no_progress with_reducible refine memOk_with ?_) | split | dsimp only | (intro _)
theorem useCounts_memOk (s : State) (l : Nat) (tile : Nat) (c : CollOut) (f : Frame) (h_memOk : c.s.MemOk) : (useCounts s l tile c f).1.s.MemOk := by
  unfold useCounts
  all_goals repeat' first | with_reducible assumption | (with_reducible refine x2xSendRows_memOk _ _ _ _ _ _ ?_) | (with_reducible refine x2xDone_memOk _ _ _ _ ?_) | (with_reducible refine returnRows_memOk _ _ _ _ _ _ _ ?_) | (with_reducible refine x2xAdmit_memOk _ _ _ _ ?_) | (with_reducible refine memOk_snd (by assumption) ?_) | (with_reducible refine memOk_fst (by assumption) ?_) | (fail_if_no_progress with_reducible refine memOk_with ?_) | split | dsimp only | (intro _)
theorem useContrib_memOk (x : Loom) (c : CollOut) (f : Frame) (t : CollOut) (h_memOk : c.s.MemOk) : useContrib x c f = .some t → t.s.MemOk := by
  unfold useContrib
  intro h
  all_goals repeat' first | cases h | split at h | dsimp only at h
  all_goals repeat' first | with_reducible assumption | (with_reducible refine endRound_memOk _ _ _ _ _ _ ?_) | (with_reducible refine relayOnce_memOk _ _ _ _ ?_ ?_) | (with_reducible refine memOk_snd (by assumption) ?_) | (with_reducible refine memOk_fst (by assumption) ?_) | (fail_if_no_progress with_reducible refine memOk_with ?_) | split | dsimp only | (intro _)
theorem useMove_memOk (s : State) (l : Nat) (c : CollOut) (f : Frame) (h_memOk : c.s.MemOk) : (useMove s l c f).s.MemOk := by
  unfold useMove
  all_goals repeat' first | with_reducible assumption | (fail_if_no_progress with_reducible refine memOk_with ?_) | split | dsimp only | (intro _)
theorem useFinal_memOk (x : Loom) (c : CollOut) (f : Frame) (t : CollOut) (h_memOk : c.s.MemOk) : useFinal x c f = .some t → t.s.MemOk := by
  unfold useFinal
  intro h
  all_goals repeat' first | cases h | split at h | dsimp only at h
  all_goals repeat' first | with_reducible assumption | (with_reducible refine startGather_memOk _ _ ?_) | (with_reducible refine memOk_snd (by assumption) ?_) | (with_reducible refine memOk_fst (by assumption) ?_) | (fail_if_no_progress with_reducible refine memOk_with ?_) | split | dsimp only | (intro _)
theorem useScalar_memOk (x : Loom) (c : CollOut) (f : Frame) (t : CollOut) (h_memOk : c.s.MemOk) : useScalar x c f = .some t → t.s.MemOk := by
  unfold useScalar
  intro h
  all_goals repeat' first | cases h | split at h | dsimp only at h
  all_goals repeat' first | with_reducible assumption | (with_reducible refine startScalar_memOk _ _ ?_) | (with_reducible refine State_foldl_memOk _ (fun _ _ _ => ?_) _ _ ?_) | (with_reducible refine CollOut_foldl_memOk _ (fun _ _ _ => ?_) _ _ ?_) | (with_reducible refine foldl_fst_memOk _ (fun _ _ _ => ?_) _ _ ?_) | (with_reducible refine foldl_snd_memOk _ (fun _ _ _ => ?_) _ _ ?_) | (with_reducible refine memOk_snd (by assumption) ?_) | (with_reducible refine memOk_fst (by assumption) ?_) | (fail_if_no_progress with_reducible refine memOk_with ?_) | split | dsimp only | (intro _)
theorem frameUse_memOk (s : State) (l tile : Nat) (o : CollOp) (f : Frame) (t : CollOut) (x1 : Bool) (h_memOk : s.MemOk) : frameUse s l tile o f = .some (t, x1) → t.s.MemOk := by
  have mp : ∀ r : Option CollOut, (∀ c, r = some c → c.s.MemOk) → r.map (·, false) = some (t, x1) → t.s.MemOk := by
    intro r hr e
    cases r with
    | none => cases e
    | some c => cases e; exact hr _ rfl
  intro h
  unfold frameUse at h
  dsimp only at h
  split at h
  · exact mp _ (fun c e => usePartial_memOk _ _ _ c (by exact h_memOk) e) h
  · exact mp _ (fun c e => useFinal_memOk _ _ _ c (by exact h_memOk) e) h
  · exact mp _ (fun c e => useContrib_memOk _ _ _ c (by exact h_memOk) e) h
  · split at h
    · exact mp _ (fun c e => useRow_memOk _ _ _ _ _ c (by exact h_memOk) e) h
    · have hc := useMove_memOk s l { s, op := o } f h_memOk
      cases h
      exact hc
  · have hc := useCounts_memOk s l tile { s, op := o } f h_memOk
    rw [Option.some.inj h] at hc
    exact hc
  · exact mp _ (fun c e => useScalar_memOk _ _ _ c (by exact h_memOk) e) h
  · cases h
theorem collPut_memOk (l : Nat) (tile : Nat) (c : CollOut) (h_memOk : c.s.MemOk) : (collPut l tile c).MemOk := by
  unfold collPut
  all_goals repeat' first | with_reducible assumption | (with_reducible refine loomUncorr_memOk _ _ _ _ _ _ ?_) | (with_reducible refine modTile_memOk _ _ _ ?_) | (with_reducible refine abortColl_memOk _ _ _ _ _ ?_) | (with_reducible refine driveTile_memOk _ _ _ ?_) | (fail_if_no_progress with_reducible refine memOk_with ?_) | split | dsimp only | (intro _)
theorem tryFrame_memOk (s : State) (l : Nat) (tile : Nat) (m : InFrame) (t : State) (h_memOk : s.MemOk) : tryFrame s l tile m = .some t → t.MemOk := by
  unfold tryFrame
  intro h
  all_goals repeat' first | cases h | split at h | dsimp only at h
  all_goals repeat' first | with_reducible assumption | (with_reducible refine residueFail_memOk _ _ _ _ ?_) | (with_reducible refine frameUse_memOk _ _ _ _ _ _ _ ?_ (by assumption)) | (with_reducible refine abortColl_memOk _ _ _ _ _ ?_) | (with_reducible refine collPut_memOk _ _ _ ?_) | (with_reducible refine memOk_snd (by assumption) ?_) | (with_reducible refine memOk_fst (by assumption) ?_) | (fail_if_no_progress with_reducible refine memOk_with ?_) | split | dsimp only | (intro _)
theorem nextFrame_memOk (s : State) (l tile : Nat) (x0 : Bool) (x1 : InFrame) (t : State) (h_memOk : s.MemOk) : nextFrame s l tile = .some (x0, x1, t) → t.MemOk := by
  have tr : ∀ (b : Bool) (m : InFrame), (tryFrame s l tile m).map (fun s' => (b, m, s')) = some (x0, x1, t) → t.MemOk := by
    intro b m e
    cases hu : tryFrame s l tile m with
    | none => rw [hu] at e; cases e
    | some u => rw [hu] at e; cases e; exact tryFrame_memOk _ _ _ _ _ h_memOk hu
  intro h
  unfold nextFrame at h
  dsimp only at h
  split at h
  · cases h
    obtain ⟨f, _, e⟩ := List.exists_of_findSome?_eq_some (by assumption)
    exact tr _ _ e
  · obtain ⟨m, _, e⟩ := List.exists_of_findSome?_eq_some h
    exact tr _ _ e
theorem settleColls_memOk (l tile a : Nat) (a' : State) (h_memOk : a'.MemOk) : (settleColls l tile a a').MemOk := by
  induction a generalizing a' with
  | zero => exact h_memOk
  | succ n ih =>
    unfold settleColls
    split
    · exact h_memOk
    · exact ih _ (modTile_memOk _ _ _ (nextFrame_memOk _ _ _ _ _ _ h_memOk (by assumption)))
    · exact ih _ (answerFrame_memOk _ _ _ _ _ (modLoom_memOk _ _ _ (modTile_memOk _ _ _ (nextFrame_memOk _ _ _ _ _ _ h_memOk (by assumption)))))
theorem x2xStart_memOk (s : State) (l : Nat) (c : CollOut) (h_memOk : c.s.MemOk) : (x2xStart s l c).s.MemOk := by
  unfold x2xStart
  all_goals repeat' first | with_reducible assumption | (fail_if_no_progress with_reducible refine memOk_with ?_) | split | dsimp only | (intro _)
theorem collStart_memOk (s : State) (l : Nat) (o : CollOp) (h_memOk : s.MemOk) : (collStart s l o).1.s.MemOk := by
  unfold collStart
  all_goals repeat' first | with_reducible assumption | (with_reducible refine startScalar_memOk _ _ ?_) | (with_reducible refine startGather_memOk _ _ ?_) | (with_reducible refine startStage_memOk _ _ ?_) | (with_reducible refine x2xStart_memOk _ _ _ ?_) | (with_reducible refine memOk_snd (by assumption) ?_) | (with_reducible refine memOk_fst (by assumption) ?_) | (fail_if_no_progress with_reducible refine memOk_with ?_) | split | dsimp only | (intro _)
theorem beginColl_memOk (s : State) (l : Nat) (tile : Nat) (o : CollOp) (h_memOk : s.MemOk) : (beginColl s l tile o).MemOk := by
  unfold beginColl
  all_goals repeat' first | with_reducible assumption | (with_reducible refine settleColls_memOk _ _ _ _ ?_) | (with_reducible refine collStart_memOk _ _ _ ?_) | (with_reducible refine abortColl_memOk _ _ _ _ _ ?_) | (with_reducible refine collPut_memOk _ _ _ ?_) | (with_reducible refine memOk_snd (by assumption) ?_) | (with_reducible refine memOk_fst (by assumption) ?_) | (fail_if_no_progress with_reducible refine memOk_with ?_) | split | dsimp only | (intro _)
theorem beginCommit_memOk (s : State) (l : Nat) (h_memOk : s.MemOk) : (beginCommit s l).MemOk := by
  unfold beginCommit
  all_goals repeat' first | with_reducible assumption | (with_reducible refine raiseEvt_memOk _ _ _ _ _ _ ?_) | (with_reducible refine drawFree_memOk _ _ ?_) | (with_reducible refine modSrv_memOk _ _ _ ?_) | (with_reducible refine State_foldl_memOk _ (fun _ _ _ => ?_) _ _ ?_) | (with_reducible refine foldl_fst_memOk _ (fun _ _ _ => ?_) _ _ ?_) | (with_reducible refine foldl_snd_memOk _ (fun _ _ _ => ?_) _ _ ?_) | (with_reducible refine memOk_snd (by assumption) ?_) | (with_reducible refine memOk_fst (by assumption) ?_) | (fail_if_no_progress with_reducible refine memOk_with ?_) | split | dsimp only | (intro _)
theorem beginHeld_memOk (s : State) (l : Nat) (h_memOk : s.MemOk) : (beginHeld s l).MemOk := by
  unfold beginHeld
  all_goals repeat' first | with_reducible assumption | (with_reducible refine beginColl_memOk _ _ _ _ ?_) | (with_reducible refine modTile_memOk _ _ _ ?_) | (with_reducible refine State_foldl_memOk _ (fun _ _ _ => ?_) _ _ ?_) | (with_reducible refine foldl_fst_memOk _ (fun _ _ _ => ?_) _ _ ?_) | (with_reducible refine foldl_snd_memOk _ (fun _ _ _ => ?_) _ _ ?_) | (fail_if_no_progress with_reducible refine memOk_with ?_) | split | dsimp only | (intro _)
theorem bindPick_memOk (s : State) (l : Nat) (e : Nat) (pick : Nat) (episode : Bool) (h_memOk : s.MemOk) : (bindPick s l e pick episode).MemOk := by
  unfold bindPick
  all_goals repeat' first | with_reducible assumption | (with_reducible refine pinPick_memOk _ _ _ _ ?_) | (with_reducible refine modReq_memOk _ _ _ ?_) | (fail_if_no_progress with_reducible refine memOk_with ?_) | split | dsimp only | (intro _)
theorem bobbinRoom_memOk (l : Nat) (e : Nat) (c : Selecting) (h_memOk : c.s.MemOk) : (bobbinRoom l e c).2.s.MemOk := by
  unfold bobbinRoom
  all_goals repeat' first | with_reducible assumption | (with_reducible refine raiseEvt_memOk _ _ _ _ _ _ ?_) | (with_reducible refine memOk_sndSelecting (by assumption) ?_) | (with_reducible refine memOk_snd (by assumption) ?_) | (with_reducible refine memOk_fst (by assumption) ?_) | (fail_if_no_progress with_reducible refine memOk_with ?_) | split | dsimp only | (intro _)
theorem bobbinToken_modLoomBobbinStale_memOk (s : State) (k : Nat) (h_memOk : s.MemOk) : (bobbinToken.modLoomBobbinStale s k).MemOk := by
  unfold bobbinToken.modLoomBobbinStale
  all_goals repeat' first | with_reducible assumption | (fail_if_no_progress with_reducible refine memOk_with ?_) | split | dsimp only | (intro _)
theorem bobbinToken_memOk (s : State) (e : Nat) (ev : W64) (pick : Nat) (token : Nat) (pos : Nat) (logprob : Nat) (h_memOk : s.MemOk) : (bobbinToken s e ev pick token pos logprob).MemOk := by
  unfold bobbinToken
  all_goals repeat' first | with_reducible assumption | (with_reducible refine putRecord_memOk _ _ _ ?_) | (with_reducible refine raiseEvt_memOk _ _ _ _ _ _ ?_) | (with_reducible refine bobbinToken_modLoomBobbinStale_memOk _ _ ?_) | (with_reducible refine State_foldl_memOk _ (fun _ _ _ => ?_) _ _ ?_) | (with_reducible refine foldl_fst_memOk _ (fun _ _ _ => ?_) _ _ ?_) | (with_reducible refine foldl_snd_memOk _ (fun _ _ _ => ?_) _ _ ?_) | (with_reducible refine memOk_snd (by assumption) ?_) | (with_reducible refine memOk_fst (by assumption) ?_) | (fail_if_no_progress with_reducible refine memOk_with ?_) | split | dsimp only | (intro _)
theorem toRecovery_memOk (s : State) (h_memOk : s.MemOk) : (toRecovery s).MemOk := by
  unfold toRecovery
  all_goals repeat' first | with_reducible assumption | (with_reducible refine modSvc_memOk _ _ ?_) | (fail_if_no_progress with_reducible refine memOk_with ?_) | split | dsimp only | (intro _)
theorem bootFallback_memOk (s : State) (h_memOk : s.MemOk) : (bootFallback s).MemOk := by
  unfold bootFallback
  all_goals repeat' first | with_reducible assumption | (with_reducible refine raiseEvt_memOk _ _ _ _ _ _ ?_) | (with_reducible refine modSvc_memOk _ _ ?_) | (with_reducible refine toRecovery_memOk _ ?_) | (with_reducible refine memOk_snd (by assumption) ?_) | (with_reducible refine memOk_fst (by assumption) ?_) | (fail_if_no_progress with_reducible refine memOk_with ?_) | split | dsimp only | (intro _)
theorem issueReg_memOk (s : State) (a : Issuer) (w : W64) (ok : Bool) (k : Nat → Strand → Except Byte Strand) (h_memOk : s.MemOk) : (issueReg s a w ok k).MemOk := by
  unfold issueReg
  refine issue_memOk _ _ _ _ (fun l y t h e => ?_) h_memOk
  split at e
  · cases e
  · split at e
    · cases e; exact setStrand_memOk _ _ _ h
    · cases e
theorem budgetReport_memOk (s : State) (l : Nat) (rs : List ModuleReport) (h_memOk : s.MemOk) : (budgetReport s l rs).MemOk := by
  unfold budgetReport
  all_goals repeat' first | with_reducible assumption | (with_reducible refine modPower_memOk _ _ ?_) | (with_reducible refine memOk_snd (by assumption) ?_) | (with_reducible refine memOk_fst (by assumption) ?_) | (fail_if_no_progress with_reducible refine memOk_with ?_) | split | dsimp only | (intro _)
theorem cancelReq_memOk (s : State) (sess : Nat) (l : Nat) (e : Nat) (gen : BitVec 16) (h_memOk : s.MemOk) : (cancelReq s sess l e gen).1.MemOk := by
  unfold cancelReq
  all_goals repeat' first | with_reducible assumption | (with_reducible refine endReq_memOk _ _ _ ?_) | (with_reducible refine raiseEvt_memOk _ _ _ _ _ _ ?_) | (with_reducible refine takeEv_memOk _ ?_) | (fail_if_no_progress with_reducible refine memOk_with ?_) | split | dsimp only | (intro _)
theorem freeLimit_memOk (s : State) (hi : Nat) (h_memOk : s.MemOk) : (freeLimit s hi).2.MemOk := by
  unfold freeLimit
  all_goals repeat' first | with_reducible assumption | (with_reducible refine drawFree_memOk _ _ ?_) | (with_reducible refine memOk_snd (by assumption) ?_) | (with_reducible refine memOk_fst (by assumption) ?_) | (fail_if_no_progress with_reducible refine memOk_with ?_) | split | dsimp only | (intro _)
theorem capTick_memOk (s : State) (h_memOk : s.MemOk) : (capTick s).MemOk := by
  unfold capTick
  all_goals repeat' first | with_reducible assumption | (with_reducible refine modDie_memOk _ _ _ ?_) | (with_reducible refine freeLimit_memOk _ _ ?_) | (with_reducible refine rebind_memOk _ ?_) | (with_reducible refine State_foldl_memOk _ (fun _ _ _ => ?_) _ _ ?_) | (with_reducible refine foldl_fst_memOk _ (fun _ _ _ => ?_) _ _ ?_) | (with_reducible refine foldl_snd_memOk _ (fun _ _ _ => ?_) _ _ ?_) | (with_reducible refine memOk_snd (by assumption) ?_) | (with_reducible refine memOk_fst (by assumption) ?_) | (fail_if_no_progress with_reducible refine memOk_with ?_) | split | dsimp only | (intro _)
theorem cfgReject_memOk (s : State) (h_memOk : s.MemOk) : (cfgReject s).MemOk := by
  unfold cfgReject
  all_goals repeat' first | with_reducible assumption | (with_reducible refine raiseEvt_memOk _ _ _ _ _ _ ?_) | (fail_if_no_progress with_reducible refine memOk_with ?_) | split | dsimp only | (intro _)
theorem cmdRun_memOk (s : State) (sess : Nat) (ring : Nat) (f : Taken → Except Byte (State × List Byte)) (h_f : ∀ u0 t x, s.MemOk → f u0 = .ok (t, x) → t.MemOk) (h_memOk : s.MemOk) : (cmdRun s sess ring f).MemOk := by
  unfold cmdRun
  all_goals repeat' first | with_reducible assumption | (with_reducible refine finish_memOk _ _ _ _ _ ?_) | (with_reducible refine h_f _ _ _ ?_ (by assumption)) | (with_reducible refine memOk_snd (by assumption) ?_) | (with_reducible refine memOk_fst (by assumption) ?_) | (fail_if_no_progress with_reducible refine memOk_with ?_) | split | dsimp only | (intro _)
theorem cfgRun_memOk (s : State) (sess ring : Nat) (f : Taken → Except Byte (State × List Byte)) (h_f : ∀ u t x, s.MemOk → f u = .ok (t, x) → t.MemOk) (h_memOk : s.MemOk) : (cfgRun s sess ring f).MemOk := by
  unfold cfgRun
  refine cmdRun_memOk _ _ _ _ (fun u t x h e => ?_) h_memOk
  split at e
  · cases e
  · exact h_f _ _ _ h e
theorem chooseModes_memOk (s : State) (l : Nat) (down : BoxLinks) (started : List (Nat × Nat)) (t : State) (h_memOk : s.MemOk) : chooseModes s l down started = .some t → t.MemOk := by
  unfold chooseModes
  intro h
  all_goals repeat' first | cases h | split at h | dsimp only at h
  all_goals repeat' first | with_reducible assumption | (with_reducible refine setLoom_memOk _ _ _ ?_) | (with_reducible refine State_foldl_memOk _ (fun _ _ _ => ?_) _ _ ?_) | (with_reducible refine foldl_fst_memOk _ (fun _ _ _ => ?_) _ _ ?_) | (with_reducible refine foldl_snd_memOk _ (fun _ _ _ => ?_) _ _ ?_) | (fail_if_no_progress with_reducible refine memOk_with ?_) | split | dsimp only | (intro _)
theorem ckptAllIn_memOk (s : State) (l : Nat) (h_memOk : s.MemOk) : (ckptAllIn s l).MemOk := by
  unfold ckptAllIn
  all_goals repeat' first | with_reducible assumption | (with_reducible refine endCkpt_memOk _ _ _ _ ?_) | (with_reducible refine memOk_snd (by assumption) ?_) | (with_reducible refine memOk_fst (by assumption) ?_) | (fail_if_no_progress with_reducible refine memOk_with ?_) | split | dsimp only | (intro _)
theorem ckptBoundary_memOk (s : State) (l : Nat) (h_memOk : s.MemOk) : (ckptBoundary s l).MemOk := by
  unfold ckptBoundary
  all_goals repeat' first | with_reducible assumption | (with_reducible refine modLoom_memOk _ _ _ ?_) | (fail_if_no_progress with_reducible refine memOk_with ?_) | split | dsimp only | (intro _)
theorem ckptReportOwn_memOk (s : State) (l : Nat) (r : CkptRun) (h_memOk : s.MemOk) : (ckptReportOwn s l r).MemOk := by
  unfold ckptReportOwn
  all_goals repeat' first | with_reducible assumption | (with_reducible refine modLoom_memOk _ _ _ ?_) | (with_reducible refine ckptAllIn_memOk _ _ ?_) | (fail_if_no_progress with_reducible refine memOk_with ?_) | split | dsimp only | (intro _)
theorem writeShards_memOk (l : Nat) (r : CkptRun) (a : List CkptEntry) (a' : Nat) (a'' : Nat) (a''' : State) (h_memOk : a'''.MemOk) : (writeShards l r a a' a'' a''').MemOk := by
  induction a generalizing a' a'' a''' with
  | nil => exact h_memOk
  | cons x xs ih =>
    unfold writeShards
    repeat' first | with_reducible assumption | (with_reducible refine hostWr_memOk _ _ _ ?_) | (fail_if_no_progress with_reducible refine memOk_with ?_) | (with_reducible refine ih _ _ _ ?_) | split | dsimp only | (intro _)
theorem serveWaiting_memOk (s : State) (l : Nat) (h_memOk : s.MemOk) : (serveWaiting s l).MemOk := by
  unfold serveWaiting
  all_goals repeat' first | with_reducible assumption | (with_reducible refine requestPreempt_memOk _ _ _ ?_) | (with_reducible refine memOk_snd (by assumption) ?_) | (with_reducible refine memOk_fst (by assumption) ?_) | (fail_if_no_progress with_reducible refine memOk_with ?_) | split | dsimp only | (intro _)
theorem ckptDone_memOk (s : State) (l : Nat) (h_memOk : s.MemOk) : (ckptDone s l).MemOk := by
  unfold ckptDone
  all_goals repeat' first | with_reducible assumption | (with_reducible refine ckptReportOwn_memOk _ _ _ ?_) | (with_reducible refine writeShards_memOk _ _ _ _ _ _ ?_) | (with_reducible refine endCkpt_memOk _ _ _ _ ?_) | (with_reducible refine serveWaiting_memOk _ _ ?_) | (with_reducible refine meetUnits_memOk _ _ _ ?_) | (with_reducible refine raiseEvt_memOk _ _ _ _ _ _ ?_) | (with_reducible refine hostWr_memOk _ _ _ ?_) | (with_reducible refine loomUncorr_memOk _ _ _ _ _ _ ?_) | (with_reducible refine memOk_snd (by assumption) ?_) | (with_reducible refine memOk_fst (by assumption) ?_) | (fail_if_no_progress with_reducible refine memOk_with ?_) | split | dsimp only | (intro _)
theorem ckptReport_memOk (s : State) (l : Nat) (box : Nat) (st : Byte) (bytes : Nat) (h_memOk : s.MemOk) : (ckptReport s l box st bytes).MemOk := by
  unfold ckptReport
  all_goals repeat' first | with_reducible assumption | (with_reducible refine endCkpt_memOk _ _ _ _ ?_) | (with_reducible refine serveWaiting_memOk _ _ ?_) | (with_reducible refine modLoom_memOk _ _ _ ?_) | (with_reducible refine ckptAllIn_memOk _ _ ?_) | (with_reducible refine memOk_snd (by assumption) ?_) | (with_reducible refine memOk_fst (by assumption) ?_) | (fail_if_no_progress with_reducible refine memOk_with ?_) | split | dsimp only | (intro _)
theorem drawOthers_memOk (s : State) (l : Nat) (h_memOk : s.MemOk) : (drawOthers s l).MemOk := by
  unfold drawOthers
  all_goals repeat' first | with_reducible assumption | (with_reducible refine modLoom_memOk _ _ _ ?_) | (with_reducible refine drawFree_memOk _ _ ?_) | (with_reducible refine memOk_snd (by assumption) ?_) | (with_reducible refine memOk_fst (by assumption) ?_) | (fail_if_no_progress with_reducible refine memOk_with ?_) | split | dsimp only | (intro _)
theorem ckptSet_memOk (s : State) (l : Nat) (runId : W64) (auto : Option Bool) (es : List CkptEntry) (t : State) (x1 : List Byte) (h_memOk : s.MemOk) : ckptSet s l runId auto es = .ok (t, x1) → t.MemOk := by
  unfold ckptSet
  intro h
  all_goals repeat' first | cases h | split at h | dsimp only at h
  all_goals repeat' first | with_reducible assumption | (with_reducible refine drawOthers_memOk _ _ ?_) | (with_reducible refine setLoom_memOk _ _ _ ?_) | (fail_if_no_progress with_reducible refine memOk_with ?_) | split | dsimp only | (intro _)
theorem ckptStarted_memOk (s : State) (l : Nat) (step : W64) (digest : List Byte) (h_memOk : s.MemOk) : (ckptStarted s l step digest).MemOk := by
  unfold ckptStarted
  all_goals repeat' first | with_reducible assumption | (with_reducible refine raiseEvt_memOk _ _ _ _ _ _ ?_) | (with_reducible refine modLoom_memOk _ _ _ ?_) | (with_reducible refine memOk_snd (by assumption) ?_) | (with_reducible refine memOk_fst (by assumption) ?_) | (fail_if_no_progress with_reducible refine memOk_with ?_) | split | dsimp only | (intro _)
theorem clearBays_memOk (s : State) (bays : List Nat) (h_memOk : s.MemOk) : (clearBays s bays).MemOk := ⟨cellsFrom_filter _ h_memOk.mem, h_memOk.hostMem⟩
theorem clearCounters_memOk (s : State) (who : Accessor) (offs : List Nat) (h_memOk : s.MemOk) : (clearCounters s who offs).MemOk := by
  unfold clearCounters
  all_goals repeat' first | with_reducible assumption | (with_reducible refine setReg_memOk _ _ _ ?_) | (with_reducible refine State_foldl_memOk _ (fun _ _ _ => ?_) _ _ ?_) | (with_reducible refine foldl_fst_memOk _ (fun _ _ _ => ?_) _ _ ?_) | (with_reducible refine foldl_snd_memOk _ (fun _ _ _ => ?_) _ _ ?_) | (fail_if_no_progress with_reducible refine memOk_with ?_) | split | dsimp only | (intro _)
theorem clearCovered_memOk (s : State) (bs : List Nat) (h_memOk : s.MemOk) : (clearCovered s bs).MemOk := by
  unfold clearCovered
  all_goals repeat' first | with_reducible assumption | (fail_if_no_progress with_reducible refine memOk_with ?_) | split | dsimp only | (intro _)
theorem clearPhases_memOk (s : State) (bays : List Nat) (h_memOk : s.MemOk) : (clearPhases s bays).MemOk := by
  unfold clearPhases
  all_goals repeat' first | with_reducible assumption | (with_reducible refine modTlm_memOk _ _ ?_) | (fail_if_no_progress with_reducible refine memOk_with ?_) | split | dsimp only | (intro _)
theorem clearRc_memOk (s : State) (off : Nat) (h_memOk : s.MemOk) : (clearRc s off).MemOk := by
  unfold clearRc
  all_goals repeat' first | with_reducible assumption | (with_reducible refine setReg_memOk _ _ _ ?_) | (with_reducible refine modLoom_memOk _ _ _ ?_) | (with_reducible refine memOk_snd (by assumption) ?_) | (with_reducible refine memOk_fst (by assumption) ?_) | (fail_if_no_progress with_reducible refine memOk_with ?_) | split | dsimp only | (intro _)
theorem clearRegs_memOk (s : State) (base : Nat) (n : Nat) (h_memOk : s.MemOk) : (clearRegs s base n).MemOk := by
  unfold clearRegs
  all_goals repeat' first | with_reducible assumption | (fail_if_no_progress with_reducible refine memOk_with ?_) | split | dsimp only | (intro _)
theorem dobbyCpl_memOk (s : State) (x : Loom) (c : DobbyCmd) (st : Byte) (h_memOk : s.MemOk) : (dobbyCpl s x c st).MemOk := by
  unfold dobbyCpl
  all_goals repeat' first | with_reducible assumption | (with_reducible refine postCpl_memOk _ _ _ _ _ _ _ ?_) | (fail_if_no_progress with_reducible refine memOk_with ?_) | split | dsimp only | (intro _)
theorem dissolve_memOk (s : State) (k : Nat) (h_memOk : s.MemOk) : (dissolve s k).MemOk := by
  unfold dissolve
  all_goals repeat' first | with_reducible assumption | (with_reducible refine modGen_memOk _ _ _ ?_) | (with_reducible refine clearRegs_memOk _ _ _ ?_) | (with_reducible refine State_foldl_memOk _ (fun _ _ _ => ?_) _ _ ?_) | (with_reducible refine foldl_fst_memOk _ (fun _ _ _ => ?_) _ _ ?_) | (with_reducible refine foldl_snd_memOk _ (fun _ _ _ => ?_) _ _ ?_) | (fail_if_no_progress with_reducible refine memOk_with ?_) | split | dsimp only | (intro _)
theorem dropReq_memOk (s : State) (e : Nat) (h_memOk : s.MemOk) : (dropReq s e).MemOk := by
  unfold dropReq
  all_goals repeat' first | with_reducible assumption | (with_reducible refine setReq_memOk _ _ _ ?_) | (fail_if_no_progress with_reducible refine memOk_with ?_) | split | dsimp only | (intro _)
theorem deleteLoom_memOk (s : State) (l : Nat) (h_memOk : s.MemOk) : (deleteLoom s l).MemOk := by
  unfold deleteLoom
  all_goals repeat' first | with_reducible assumption | (with_reducible refine endRestore_memOk _ _ _ _ ?_) | (with_reducible refine setLoom_memOk _ _ _ ?_) | (with_reducible refine modPower_memOk _ _ ?_) | (with_reducible refine endCkpt_memOk _ _ _ _ ?_) | (with_reducible refine clearRegs_memOk _ _ _ ?_) | (with_reducible refine dissolve_memOk _ _ ?_) | (with_reducible refine modSvc_memOk _ _ ?_) | (with_reducible refine dropReq_memOk _ _ ?_) | (with_reducible refine abandonTaking_memOk _ _ _ ?_) | (with_reducible refine State_foldl_memOk _ (fun _ _ _ => ?_) _ _ ?_) | (with_reducible refine foldl_fst_memOk _ (fun _ _ _ => ?_) _ _ ?_) | (with_reducible refine foldl_snd_memOk _ (fun _ _ _ => ?_) _ _ ?_) | (with_reducible refine memOk_snd (by assumption) ?_) | (with_reducible refine memOk_fst (by assumption) ?_) | (fail_if_no_progress with_reducible refine memOk_with ?_) | split | dsimp only | (intro _)
theorem serveHeld_memOk (l : Nat) (a : Nat) (a' : State) (h_memOk : a'.MemOk) : (serveHeld l a a').MemOk := by
  induction a generalizing a' with
  | zero => exact h_memOk
  | succ n ih =>
    unfold serveHeld
    repeat' first | with_reducible assumption | (with_reducible refine serveRow_memOk _ _ ?_) | (with_reducible refine modLoom_memOk _ _ _ ?_) | (with_reducible refine memOk_snd (by assumption) ?_) | (with_reducible refine memOk_fst (by assumption) ?_) | (fail_if_no_progress with_reducible refine memOk_with ?_) | (with_reducible refine ih _ ?_) | split | dsimp only | (intro _)
theorem serveAll_memOk (s : State) (l : Nat) (h_memOk : s.MemOk) : (serveAll s l).MemOk := by
  unfold serveAll
  all_goals repeat' first | with_reducible assumption | (with_reducible refine serveHeld_memOk _ _ _ ?_) | (fail_if_no_progress with_reducible refine memOk_with ?_) | split | dsimp only | (intro _)
theorem hotStop_memOk (s : State) (l : Nat) (h_memOk : s.MemOk) : (hotStop s l).MemOk := by
  unfold hotStop
  all_goals repeat' first | with_reducible assumption | (with_reducible refine serveAll_memOk _ _ ?_) | (with_reducible refine putHot_memOk _ _ _ ?_) | (with_reducible refine countHandoffs_memOk _ _ _ ?_) | (with_reducible refine wrData_memOk _ _ _ ?_) | (with_reducible refine State_foldl_memOk _ (fun _ _ _ => ?_) _ _ ?_) | (with_reducible refine foldl_fst_memOk _ (fun _ _ _ => ?_) _ _ ?_) | (with_reducible refine foldl_snd_memOk _ (fun _ _ _ => ?_) _ _ ?_) | (with_reducible refine memOk_snd (by assumption) ?_) | (with_reducible refine memOk_fst (by assumption) ?_) | (fail_if_no_progress with_reducible refine memOk_with ?_) | split | dsimp only | (intro _)
theorem stopNow_memOk (s : State) (l : Nat) (h_memOk : s.MemOk) : (stopNow s l).MemOk := by
  unfold stopNow
  all_goals repeat' first | with_reducible assumption | (with_reducible refine toStopped_memOk _ _ ?_) | (with_reducible refine hotStop_memOk _ _ ?_) | (fail_if_no_progress with_reducible refine memOk_with ?_) | split | dsimp only | (intro _)
theorem stopIdle_memOk (s : State) (l : Nat) (h_memOk : s.MemOk) : (stopIdle s l).MemOk := by
  unfold stopIdle
  all_goals repeat' first | with_reducible assumption | (with_reducible refine dobbyCpl_memOk _ _ _ _ ?_) | (with_reducible refine modLoom_memOk _ _ _ ?_) | (with_reducible refine stopNow_memOk _ _ ?_) | (with_reducible refine memOk_snd (by assumption) ?_) | (with_reducible refine memOk_fst (by assumption) ?_) | (fail_if_no_progress with_reducible refine memOk_with ?_) | split | dsimp only | (intro _)
theorem stopCut_memOk (s : State) (l : Nat) (h_memOk : s.MemOk) : (stopCut s l).MemOk := by
  unfold stopCut
  all_goals repeat' first | with_reducible assumption | (with_reducible refine endAllReqs_memOk _ _ _ ?_) | (with_reducible refine leaveQueues_memOk _ _ ?_) | (with_reducible refine endRestore_memOk _ _ _ _ ?_) | (with_reducible refine abortColls_memOk _ _ _ ?_) | (with_reducible refine endCkpt_memOk _ _ _ _ ?_) | (with_reducible refine clearBays_memOk _ _ ?_) | (with_reducible refine modLoom_memOk _ _ _ ?_) | (with_reducible refine stopIdle_memOk _ _ ?_) | (with_reducible refine hotStop_memOk _ _ ?_) | (with_reducible refine memOk_snd (by assumption) ?_) | (with_reducible refine memOk_fst (by assumption) ?_) | (fail_if_no_progress with_reducible refine memOk_with ?_) | split | dsimp only | (intro _)
theorem closeLoom_memOk (s : State) (l : Nat) (h_memOk : s.MemOk) : (closeLoom s l).MemOk := by
  unfold closeLoom
  all_goals repeat' first | with_reducible assumption | (with_reducible refine dobbyCpl_memOk _ _ _ _ ?_) | (with_reducible refine deleteLoom_memOk _ _ ?_) | (with_reducible refine stopNow_memOk _ _ ?_) | (with_reducible refine dropStep_memOk _ _ ?_) | (with_reducible refine dropReq_memOk _ _ ?_) | (with_reducible refine stopCut_memOk _ _ ?_) | (with_reducible refine State_foldl_memOk _ (fun _ _ _ => ?_) _ _ ?_) | (with_reducible refine foldl_fst_memOk _ (fun _ _ _ => ?_) _ _ ?_) | (with_reducible refine foldl_snd_memOk _ (fun _ _ _ => ?_) _ _ ?_) | (with_reducible refine memOk_snd (by assumption) ?_) | (with_reducible refine memOk_fst (by assumption) ?_) | (fail_if_no_progress with_reducible refine memOk_with ?_) | split | dsimp only | (intro _)
theorem deleteSem_memOk (s : State) (sem : Nat) (h_memOk : s.MemOk) : (deleteSem s sem).MemOk := by
  unfold deleteSem
  all_goals repeat' first | with_reducible assumption | (with_reducible refine semDone_memOk _ _ _ ?_) | (with_reducible refine State_foldl_memOk _ (fun _ _ _ => ?_) _ _ ?_) | (with_reducible refine foldl_fst_memOk _ (fun _ _ _ => ?_) _ _ ?_) | (with_reducible refine foldl_snd_memOk _ (fun _ _ _ => ?_) _ _ ?_) | (with_reducible refine memOk_snd (by assumption) ?_) | (with_reducible refine memOk_fst (by assumption) ?_) | (fail_if_no_progress with_reducible refine memOk_with ?_) | split | dsimp only | (intro _)
theorem closeSem_memOk (s : State) (sem : Nat) (h_memOk : s.MemOk) : (closeSem s sem).MemOk := by
  unfold closeSem
  all_goals repeat' first | with_reducible assumption | (with_reducible refine raiseEvt_memOk _ _ _ _ _ _ ?_) | (with_reducible refine deleteSem_memOk _ _ ?_) | (with_reducible refine modLoom_memOk _ _ _ ?_) | (with_reducible refine preemptEval_memOk _ _ ?_) | (with_reducible refine State_foldl_memOk _ (fun _ _ _ => ?_) _ _ ?_) | (with_reducible refine foldl_fst_memOk _ (fun _ _ _ => ?_) _ _ ?_) | (with_reducible refine foldl_snd_memOk _ (fun _ _ _ => ?_) _ _ ?_) | (with_reducible refine memOk_snd (by assumption) ?_) | (with_reducible refine memOk_fst (by assumption) ?_) | (fail_if_no_progress with_reducible refine memOk_with ?_) | split | dsimp only | (intro _)
theorem closeSession_memOk (s : State) (n : Nat) (h_memOk : s.MemOk) : (closeSession s n).MemOk := by
  unfold closeSession
  all_goals repeat' first | with_reducible assumption | (with_reducible refine raiseEvt_memOk _ _ _ _ _ _ ?_) | (with_reducible refine closeLoom_memOk _ _ ?_) | (with_reducible refine setSession_memOk _ _ _ ?_) | (with_reducible refine closeSem_memOk _ _ ?_) | (with_reducible refine State_foldl_memOk _ (fun _ _ _ => ?_) _ _ ?_) | (with_reducible refine foldl_fst_memOk _ (fun _ _ _ => ?_) _ _ ?_) | (with_reducible refine foldl_snd_memOk _ (fun _ _ _ => ?_) _ _ ?_) | (fail_if_no_progress with_reducible refine memOk_with ?_) | split | dsimp only | (intro _)
theorem closeWhere_memOk (s : State) (p : Session → Bool) (h_memOk : s.MemOk) : (closeWhere s p).MemOk := by
  unfold closeWhere
  all_goals repeat' first | with_reducible assumption | (with_reducible refine closeSession_memOk _ _ ?_) | (with_reducible refine State_foldl_memOk _ (fun _ _ _ => ?_) _ _ ?_) | (with_reducible refine foldl_fst_memOk _ (fun _ _ _ => ?_) _ _ ?_) | (with_reducible refine foldl_snd_memOk _ (fun _ _ _ => ?_) _ _ ?_) | (fail_if_no_progress with_reducible refine memOk_with ?_) | split | dsimp only | (intro _)
theorem closePort_memOk (s : State) (io : Nat) (h_memOk : s.MemOk) : (closePort s io).MemOk := by
  unfold closePort
  all_goals repeat' first | with_reducible assumption | (with_reducible refine closeWhere_memOk _ _ ?_) | (fail_if_no_progress with_reducible refine memOk_with ?_) | split | dsimp only | (intro _)
theorem valuesRec_memOk (s : State) (x : Loom) (g : Nat) (st : Nat) (h_memOk : s.MemOk) : (valuesRec s x g st).2.2.MemOk := by
  unfold valuesRec
  all_goals repeat' first | with_reducible assumption | (with_reducible refine drawFree_memOk _ _ ?_) | (with_reducible refine memOk_snd (by assumption) ?_) | (with_reducible refine memOk_fst (by assumption) ?_) | (fail_if_no_progress with_reducible refine memOk_with ?_) | split | dsimp only | (intro _)
theorem writeValues_memOk (s : State) (l : Nat) (st : Nat) (h_memOk : s.MemOk) : (writeValues s l st).MemOk := by
  unfold writeValues
  all_goals repeat' first | with_reducible assumption | (with_reducible refine objWrite_memOk _ _ _ _ _ ?_) | (with_reducible refine raiseEvt_memOk _ _ _ _ _ _ ?_) | (with_reducible refine valuesRec_memOk _ _ _ _ ?_) | (with_reducible refine State_foldl_memOk _ (fun _ _ _ => ?_) _ _ ?_) | (with_reducible refine foldl_fst_memOk _ (fun _ _ _ => ?_) _ _ ?_) | (with_reducible refine foldl_snd_memOk _ (fun _ _ _ => ?_) _ _ ?_) | (with_reducible refine memOk_snd (by assumption) ?_) | (with_reducible refine memOk_fst (by assumption) ?_) | (fail_if_no_progress with_reducible refine memOk_with ?_) | split | dsimp only | (intro _)
theorem writeWatch_memOk (s : State) (l : Nat) (st : Nat) (h_memOk : s.MemOk) : (writeWatch s l st).MemOk := by
  unfold writeWatch
  all_goals repeat' first | with_reducible assumption | (with_reducible refine objWrite_memOk _ _ _ _ _ ?_) | (with_reducible refine State_foldl_memOk _ (fun _ _ _ => ?_) _ _ ?_) | (with_reducible refine foldl_fst_memOk _ (fun _ _ _ => ?_) _ _ ?_) | (with_reducible refine foldl_snd_memOk _ (fun _ _ _ => ?_) _ _ ?_) | (fail_if_no_progress with_reducible refine memOk_with ?_) | split | dsimp only | (intro _)
theorem countHalf_memOk (s : State) (off : Nat) (high : Bool) (h_memOk : s.MemOk) : (countHalf s off high).MemOk := by
  unfold countHalf
  all_goals repeat' first | with_reducible assumption | (with_reducible refine setReg_memOk _ _ _ ?_) | (fail_if_no_progress with_reducible refine memOk_with ?_) | split | dsimp only | (intro _)
theorem closeStep_memOk (s : State) (l : Nat) (stepSq : W32) (h_memOk : s.MemOk) : (closeStep s l stepSq).MemOk := by
  unfold closeStep
  all_goals repeat' first | with_reducible assumption | (with_reducible refine setReg_memOk _ _ _ ?_) | (with_reducible refine writeValues_memOk _ _ _ ?_) | (with_reducible refine raiseEvt_memOk _ _ _ _ _ _ ?_) | (with_reducible refine writeWatch_memOk _ _ _ ?_) | (with_reducible refine modLoom_memOk _ _ _ ?_) | (with_reducible refine countHalf_memOk _ _ _ ?_) | (with_reducible refine memOk_snd (by assumption) ?_) | (with_reducible refine memOk_fst (by assumption) ?_) | (fail_if_no_progress with_reducible refine memOk_with ?_) | split | dsimp only | (intro _)
theorem cmdBegin_memOk (s : State) (sess ring : Nat) (f : Taken → Except Byte State) (h_f : ∀ u t, s.MemOk → f u = .ok t → t.MemOk) (h_memOk : s.MemOk) : (cmdBegin s sess ring f).MemOk := by
  unfold cmdBegin
  repeat' first | exact h_memOk | exact finish_memOk _ _ _ _ _ h_memOk | exact modSession_memOk _ _ _ (h_f _ _ h_memOk (by assumption)) | split | dsimp only
theorem cntOvf_memOk (s : State) (c : CounterId) (v : Nat) (prev : Nat) (h_memOk : s.MemOk) : (cntOvf s c v prev).MemOk := by
  unfold cntOvf
  all_goals repeat' first | with_reducible assumption | (with_reducible refine addTile_memOk _ _ _ _ _ _ _ ?_) | (with_reducible refine addDie_memOk _ _ _ _ _ ?_) | (with_reducible refine memOk_snd (by assumption) ?_) | (with_reducible refine memOk_fst (by assumption) ?_) | (fail_if_no_progress with_reducible refine memOk_with ?_) | split | dsimp only | (intro _)
theorem coldReset_memOk (s : State) (h_memOk : s.MemOk) : (coldReset s).MemOk := ⟨rfl, h_memOk.hostMem⟩
theorem collConfig_memOk (s : State) (l : Nat) (job : W32) (origin : Option (Nat × Nat × Nat)) (extent : Option (Nat × Nat × Nat)) (t : State) (x1 : List Byte) (h_memOk : s.MemOk) : collConfig s l job origin extent = .ok (t, x1) → t.MemOk := by
  unfold collConfig
  intro h
  all_goals repeat' first | cases h | split at h | dsimp only at h
  all_goals repeat' first | with_reducible assumption | (with_reducible refine drawOthers_memOk _ _ ?_) | (with_reducible refine setLoom_memOk _ _ _ ?_) | (with_reducible refine memOk_snd (by assumption) ?_) | (with_reducible refine memOk_fst (by assumption) ?_) | (fail_if_no_progress with_reducible refine memOk_with ?_) | split | dsimp only | (intro _)
theorem completeTag_memOk (s : State) (a : Issuer) (tag : BitVec 16) (st : Byte) (high : optParam W32 0) (fl : optParam W64 0) (h_memOk : s.MemOk) : (completeTag s a tag st high fl).MemOk := by
  unfold completeTag
  all_goals repeat' first | with_reducible assumption | (with_reducible refine modStrand_memOk _ _ _ ?_) | (fail_if_no_progress with_reducible refine memOk_with ?_) | split | dsimp only | (intro _)
theorem collEnd_memOk (s : State) (a : Issuer) (o : CollOp) (st : Byte) (h_memOk : s.MemOk) : (collEnd s a o st).MemOk := by
  unfold collEnd
  all_goals repeat' first | with_reducible assumption | (with_reducible refine completeTag_memOk _ _ _ _ _ _ ?_) | (with_reducible refine modLoom_memOk _ _ _ ?_) | (with_reducible refine modTile_memOk _ _ _ ?_) | (with_reducible refine memOk_snd (by assumption) ?_) | (with_reducible refine memOk_fst (by assumption) ?_) | (fail_if_no_progress with_reducible refine memOk_with ?_) | split | dsimp only | (intro _)
theorem takeBucket_memOk (s : State) (l : Nat) (comm : Nat) (num : Nat) (g : Nat) (sq : W32) (h_memOk : s.MemOk) : (takeBucket s l comm num g sq).1.MemOk := by
  unfold takeBucket
  all_goals repeat' first | with_reducible assumption | (with_reducible refine modLoom_memOk _ _ _ ?_) | (with_reducible refine closeStep_memOk _ _ _ ?_) | (with_reducible refine memOk_snd (by assumption) ?_) | (with_reducible refine memOk_fst (by assumption) ?_) | (fail_if_no_progress with_reducible refine memOk_with ?_) | split | dsimp only | (intro _)
theorem collNorm_memOk (s : State) (l : Nat) (tile : Nat) (o : CollOp) (h_memOk : s.MemOk) : (collNorm s l tile o).MemOk := by
  unfold collNorm
  all_goals repeat' first | with_reducible assumption | (with_reducible refine wrN_memOk _ _ _ ?_) | (with_reducible refine wr_memOk _ _ _ _ ?_) | (with_reducible refine takeBucket_memOk _ _ _ _ _ _ ?_) | (with_reducible refine memOk_snd (by assumption) ?_) | (with_reducible refine memOk_fst (by assumption) ?_) | (fail_if_no_progress with_reducible refine memOk_with ?_) | split | dsimp only | (intro _)
theorem spoil_memOk (s : State) (dsts : List (Nat × Nat)) (h_memOk : s.MemOk) : (spoil s dsts).MemOk := by
  unfold spoil
  all_goals repeat' first | with_reducible assumption | (with_reducible refine wrN_memOk _ _ _ ?_) | (with_reducible refine drawFree_memOk _ _ ?_) | (with_reducible refine State_foldl_memOk _ (fun _ _ _ => ?_) _ _ ?_) | (with_reducible refine foldl_fst_memOk _ (fun _ _ _ => ?_) _ _ ?_) | (with_reducible refine foldl_snd_memOk _ (fun _ _ _ => ?_) _ _ ?_) | (with_reducible refine memOk_snd (by assumption) ?_) | (with_reducible refine memOk_fst (by assumption) ?_) | (fail_if_no_progress with_reducible refine memOk_with ?_) | split | dsimp only | (intro _)
theorem collSpoil_memOk (s : State) (l : Nat) (tile : Nat) (o : CollOp) (h_memOk : s.MemOk) : (collSpoil s l tile o).MemOk := by
  unfold collSpoil
  all_goals repeat' first | with_reducible assumption | (with_reducible refine spoil_memOk _ _ ?_) | (fail_if_no_progress with_reducible refine memOk_with ?_) | split | dsimp only | (intro _)
theorem collFinish_memOk (s : State) (a : Issuer) (tag : BitVec 16) (h_memOk : s.MemOk) : (collFinish s a tag).MemOk := by
  unfold collFinish
  all_goals repeat' first | with_reducible assumption | (with_reducible refine collEnd_memOk _ _ _ _ ?_) | (with_reducible refine clearVia_memOk _ _ _ _ ?_) | (with_reducible refine settleColls_memOk _ _ _ _ ?_) | (with_reducible refine wrN_memOk _ _ _ ?_) | (with_reducible refine meetUnits_memOk _ _ _ ?_) | (with_reducible refine collNorm_memOk _ _ _ _ ?_) | (with_reducible refine loomUncorr_memOk _ _ _ _ _ _ ?_) | (with_reducible refine holdCopy_memOk _ _ _ ?_) | (with_reducible refine collSpoil_memOk _ _ _ _ ?_) | (with_reducible refine State_foldl_memOk _ (fun _ _ _ => ?_) _ _ ?_) | (with_reducible refine foldl_fst_memOk _ (fun _ _ _ => ?_) _ _ ?_) | (with_reducible refine foldl_snd_memOk _ (fun _ _ _ => ?_) _ _ ?_) | (with_reducible refine memOk_snd (by assumption) ?_) | (with_reducible refine memOk_fst (by assumption) ?_) | (fail_if_no_progress with_reducible refine memOk_with ?_) | split | dsimp only | (intro _)
theorem collTake_memOk (s : State) (a : Issuer) (f : FmtD) (o : CollOp) (h_memOk : s.MemOk) : (collTake s a f o).MemOk := by
  unfold collTake
  all_goals repeat' first | with_reducible assumption | (with_reducible refine modStrand_memOk _ _ _ ?_) | (with_reducible refine modLoom_memOk _ _ _ ?_) | (with_reducible refine modTlm_memOk _ _ ?_) | (with_reducible refine modTile_memOk _ _ _ ?_) | (with_reducible refine memOk_snd (by assumption) ?_) | (with_reducible refine memOk_fst (by assumption) ?_) | (fail_if_no_progress with_reducible refine memOk_with ?_) | split | dsimp only | (intro _)
theorem collIssue_memOk (op : Nat) (kind : CollKind) (a : Issuer) (f : FmtD) (s : State) (h_memOk : s.MemOk) : (collIssue op kind a f s).MemOk := by
  unfold collIssue
  all_goals repeat' first | with_reducible assumption | (with_reducible refine collEnd_memOk _ _ _ _ ?_) | (with_reducible refine beginColl_memOk _ _ _ _ ?_) | (with_reducible refine collTake_memOk _ _ _ _ ?_) | (with_reducible refine settleColls_memOk _ _ _ _ ?_) | (with_reducible refine issue_memOk _ _ _ _ (fun _ _ _ _ hq => ?_) ?_) | (split at hq) | (cases hq) | (dsimp only at hq) | (with_reducible refine collSpoil_memOk _ _ _ _ ?_) | (with_reducible refine memOk_snd (by assumption) ?_) | (with_reducible refine memOk_fst (by assumption) ?_) | (fail_if_no_progress with_reducible refine memOk_with ?_) | split | dsimp only | (intro _)
theorem wasteRow_memOk (l : Nat) (f : FormedStep) (c : RowCommit) (s : State) (h_memOk : s.MemOk) : (wasteRow l f c s).MemOk := by
  unfold wasteRow
  all_goals repeat' first | with_reducible assumption | (with_reducible refine endReq_memOk _ _ _ ?_) | (with_reducible refine rejectDrafts_memOk _ _ _ ?_) | (with_reducible refine count48_memOk _ _ _ ?_) | (fail_if_no_progress with_reducible refine memOk_with ?_) | split | dsimp only | (intro _)
theorem evictDown_memOk (s : State) (l : Nat) (n : Nat) (h_memOk : s.MemOk) : (evictDown s l n).MemOk := by
  unfold evictDown
  all_goals repeat' first | with_reducible assumption | (with_reducible refine evictOne_memOk _ _ ?_) | (with_reducible refine State_foldl_memOk _ (fun _ _ _ => ?_) _ _ ?_) | (with_reducible refine foldl_fst_memOk _ (fun _ _ _ => ?_) _ _ ?_) | (with_reducible refine foldl_snd_memOk _ (fun _ _ _ => ?_) _ _ ?_) | (fail_if_no_progress with_reducible refine memOk_with ?_) | split | dsimp only | (intro _)
theorem registerPfx_memOk (s : State) (l : Nat) (e : Nat) (pick : Nat) (oldPos : Nat) (newPos : Nat) (h_memOk : s.MemOk) : (registerPfx s l e pick oldPos newPos).MemOk := by
  unfold registerPfx
  all_goals repeat' first | with_reducible assumption | (with_reducible refine evictDown_memOk _ _ _ ?_) | (with_reducible refine wrN_memOk _ _ _ ?_) | (with_reducible refine modSrv_memOk _ _ _ ?_) | (with_reducible refine memOk_snd (by assumption) ?_) | (with_reducible refine memOk_fst (by assumption) ?_) | (fail_if_no_progress with_reducible refine memOk_with ?_) | split | dsimp only | (intro _)
theorem rowPositions_memOk (l : Nat) (f : FormedStep) (c : RowCommit) (s : State) (h_memOk : s.MemOk) : (rowPositions l f c s).MemOk := by
  unfold rowPositions
  all_goals repeat' first | with_reducible assumption | (with_reducible refine registerPfx_memOk _ _ _ _ _ _ ?_) | (with_reducible refine modReq_memOk _ _ _ ?_) | (fail_if_no_progress with_reducible refine memOk_with ?_) | split | dsimp only | (intro _)
theorem setCommits_memOk (s : State) (l : Nat) (cs : List RowCommit) (h_memOk : s.MemOk) : (setCommits s l cs).MemOk := by
  unfold setCommits
  all_goals repeat' first | with_reducible assumption | (with_reducible refine modSrv_memOk _ _ _ ?_) | (fail_if_no_progress with_reducible refine memOk_with ?_) | split | dsimp only | (intro _)
theorem commitToken_memOk (l : Nat) (e : Nat) (pick : Nat) (tok : W32) (lp : Nat) (s : State) (h_memOk : s.MemOk) : (commitToken l e pick tok lp s).MemOk := by
  unfold commitToken
  all_goals repeat' first | with_reducible assumption | (with_reducible refine takeEv_memOk _ ?_) | (with_reducible refine modReq_memOk _ _ _ ?_) | (with_reducible refine putOut_memOk _ _ _ _ _ _ _ _ ?_) | (with_reducible refine count48_memOk _ _ _ ?_) | (with_reducible refine bobbinToken_memOk _ _ _ _ _ _ _ ?_) | (with_reducible refine memOk_snd (by assumption) ?_) | (with_reducible refine memOk_fst (by assumption) ?_) | (fail_if_no_progress with_reducible refine memOk_with ?_) | split | dsimp only | (intro _)
theorem rowStep_memOk (l : Nat) (f : FormedStep) (c : RowCommit) (rest : List RowCommit) (s : State) (h_memOk : s.MemOk) : (rowStep l f c rest s).MemOk := by
  unfold rowStep
  all_goals repeat' first | with_reducible assumption | (with_reducible refine wasteRow_memOk _ _ _ _ ?_) | (with_reducible refine endReq_memOk _ _ _ ?_) | (with_reducible refine rowPositions_memOk _ _ _ _ ?_) | (with_reducible refine setCommits_memOk _ _ _ ?_) | (with_reducible refine rejectDrafts_memOk _ _ _ ?_) | (with_reducible refine commitToken_memOk _ _ _ _ _ _ ?_) | (with_reducible refine memOk_snd (by assumption) ?_) | (with_reducible refine memOk_fst (by assumption) ?_) | (fail_if_no_progress with_reducible refine memOk_with ?_) | split | dsimp only | (intro _)
theorem writeUnit_memOk (s : State) (k : Nat) (h_memOk : s.MemOk) : (writeUnit s k).MemOk := by
  unfold writeUnit
  all_goals repeat' first | with_reducible assumption | (with_reducible refine modLoom_memOk _ _ _ ?_) | (fail_if_no_progress with_reducible refine memOk_with ?_) | split | dsimp only | (intro _)
theorem shedStepDone_memOk (s : State) (l : Nat) (h_memOk : s.MemOk) : (shedStepDone s l).MemOk := by
  unfold shedStepDone
  all_goals repeat' first | with_reducible assumption | (with_reducible refine writeUnit_memOk _ _ ?_) | (with_reducible refine raiseEvt_memOk _ _ _ _ _ _ ?_) | (with_reducible refine modWeave_memOk _ _ _ ?_) | (with_reducible refine memOk_snd (by assumption) ?_) | (with_reducible refine memOk_fst (by assumption) ?_) | (fail_if_no_progress with_reducible refine memOk_with ?_) | split | dsimp only | (intro _)
theorem commitOne_memOk (s : State) (l : Nat) (h_memOk : s.MemOk) : (commitOne s l).MemOk := by
  unfold commitOne
  all_goals repeat' first | with_reducible assumption | (with_reducible refine rowStep_memOk _ _ _ _ _ ?_) | (with_reducible refine shedStepDone_memOk _ _ ?_) | (with_reducible refine dropStep_memOk _ _ ?_) | (with_reducible refine modSrv_memOk _ _ _ ?_) | (with_reducible refine memOk_snd (by assumption) ?_) | (with_reducible refine memOk_fst (by assumption) ?_) | (fail_if_no_progress with_reducible refine memOk_with ?_) | split | dsimp only | (intro _)
theorem commitAll_memOk (s : State) (l : Nat) (h_memOk : s.MemOk) : (commitAll s l).MemOk := by
  unfold commitAll
  all_goals repeat' first | with_reducible assumption | (with_reducible refine commitOne_memOk _ _ ?_) | (with_reducible refine State_foldl_memOk _ (fun _ _ _ => ?_) _ _ ?_) | (with_reducible refine foldl_fst_memOk _ (fun _ _ _ => ?_) _ _ ?_) | (with_reducible refine foldl_snd_memOk _ (fun _ _ _ => ?_) _ _ ?_) | (fail_if_no_progress with_reducible refine memOk_with ?_) | split | dsimp only | (intro _)
theorem stackPlace_memOk (s : State) (used : List (Nat × Nat)) (n : Nat) (h_memOk : s.MemOk) : (stackPlace s used n).2.MemOk := by
  unfold stackPlace
  all_goals repeat' first | with_reducible assumption | (with_reducible refine drawFree_memOk _ _ ?_) | (with_reducible refine memOk_snd (by assumption) ?_) | (with_reducible refine memOk_fst (by assumption) ?_) | (fail_if_no_progress with_reducible refine memOk_with ?_) | split | dsimp only | (intro _)
theorem setCredits_memOk (s : State) (l : Nat) (c : Nat) (t : State) (h_memOk : s.MemOk) : setCredits s l c = .some t → t.MemOk := by
  unfold setCredits
  intro h
  all_goals repeat' first | cases h | split at h | dsimp only at h
  all_goals repeat' first | with_reducible assumption | (with_reducible refine publishMap_memOk _ _ _ ?_) | (with_reducible refine stackPlace_memOk _ _ _ ?_) | (with_reducible refine memOk_snd (by assumption) ?_) | (with_reducible refine memOk_fst (by assumption) ?_) | (fail_if_no_progress with_reducible refine memOk_with ?_) | split | dsimp only | (intro _)
theorem configLoom_memOk (s : State) (l : Nat) (f : LoomConfigF) (t : State) (x1 : List Byte) (h_memOk : s.MemOk) : configLoom s l f = .ok (t, x1) → t.MemOk := by
  unfold configLoom
  intro h
  all_goals repeat' first | cases h | split at h | dsimp only at h
  all_goals repeat' first | with_reducible assumption | (with_reducible refine setCredits_memOk _ _ _ _ ?_ (by assumption)) | (with_reducible refine modLoom_memOk _ _ _ ?_) | (with_reducible refine State_foldl_memOk _ (fun _ _ _ => ?_) _ _ ?_) | (with_reducible refine foldl_fst_memOk _ (fun _ _ _ => ?_) _ _ ?_) | (with_reducible refine foldl_snd_memOk _ (fun _ _ _ => ?_) _ _ ?_) | (with_reducible refine memOk_snd (by assumption) ?_) | (with_reducible refine memOk_fst (by assumption) ?_) | (fail_if_no_progress with_reducible refine memOk_with ?_) | split | dsimp only | (intro _)
theorem releaseReq_memOk (s : State) (e : Nat) (h_memOk : s.MemOk) : (releaseReq s e).MemOk := by
  unfold releaseReq
  all_goals repeat' first | with_reducible assumption | (with_reducible refine setReq_memOk _ _ _ ?_) | (fail_if_no_progress with_reducible refine memOk_with ?_) | split | dsimp only | (intro _)
theorem consWrite_memOk (s : State) (e : Nat) (cons : Nat) (h_memOk : s.MemOk) : (consWrite s e cons).MemOk := by
  unfold consWrite
  all_goals repeat' first | with_reducible assumption | (with_reducible refine releaseReq_memOk _ _ ?_) | (with_reducible refine modReq_memOk _ _ _ ?_) | (with_reducible refine admitNow_memOk _ _ ?_) | (fail_if_no_progress with_reducible refine memOk_with ?_) | split | dsimp only | (intro _)
theorem consoleRun_memOk (s : State) (f : State → State) (h_f : ∀ u0, u0.MemOk → (f u0).MemOk) (h_memOk : s.MemOk) : (consoleRun s f).MemOk := by
  unfold consoleRun
  all_goals repeat' first | with_reducible assumption | (with_reducible refine h_f _ ?_) | (fail_if_no_progress with_reducible refine memOk_with ?_) | split | dsimp only | (intro _)
theorem linkLog_memOk (s : State) (type : Nat) (dir : Nat) (io : Nat) (lane : Nat) (h_memOk : s.MemOk) : (linkLog s type dir io lane).MemOk := by
  unfold linkLog
  all_goals repeat' first | with_reducible assumption | (with_reducible refine capture_memOk _ _ _ _ ?_) | (fail_if_no_progress with_reducible refine memOk_with ?_) | split | dsimp only | (intro _)
theorem linkDown_memOk (s : State) (d : Nat) (h_memOk : s.MemOk) : (linkDown s d).MemOk := by
  unfold linkDown
  all_goals repeat' first | with_reducible assumption | (with_reducible refine linkLog_memOk _ _ _ _ _ ?_) | (with_reducible refine raiseEvt_memOk _ _ _ _ _ _ ?_) | (with_reducible refine setLink_memOk _ _ _ ?_) | (fail_if_no_progress with_reducible refine memOk_with ?_) | split | dsimp only | (intro _)
theorem resendFlits_memOk (s : State) (d : Nat) (p : WeftFlit × Nat → Bool) (h_memOk : s.MemOk) : (resendFlits s d p).MemOk := by
  unfold resendFlits
  all_goals repeat' first | with_reducible assumption | (with_reducible refine send_memOk _ _ ?_) | (with_reducible refine setLink_memOk _ _ _ ?_) | (with_reducible refine State_foldl_memOk _ (fun _ _ _ => ?_) _ _ ?_) | (with_reducible refine foldl_fst_memOk _ (fun _ _ _ => ?_) _ _ ?_) | (with_reducible refine foldl_snd_memOk _ (fun _ _ _ => ?_) _ _ ?_) | (fail_if_no_progress with_reducible refine memOk_with ?_) | split | dsimp only | (intro _)
theorem relane_memOk (s : State) (d : Nat) (h_memOk : s.MemOk) : (relane s d).MemOk := by
  unfold relane
  all_goals repeat' first | with_reducible assumption | (with_reducible refine linkDown_memOk _ _ ?_) | (with_reducible refine setLink_memOk _ _ _ ?_) | (with_reducible refine resendFlits_memOk _ _ _ ?_) | (fail_if_no_progress with_reducible refine memOk_with ?_) | split | dsimp only | (intro _)
theorem coordCheck_memOk (s : State) (d : Nat) (partner : BitVec 15) (h_memOk : s.MemOk) : (coordCheck s d partner).MemOk := by
  unfold coordCheck
  all_goals repeat' first | with_reducible assumption | (with_reducible refine linkLog_memOk _ _ _ _ _ ?_) | (with_reducible refine relane_memOk _ _ ?_) | (with_reducible refine raiseEvt_memOk _ _ _ _ _ _ ?_) | (with_reducible refine setLink_memOk _ _ _ ?_) | (fail_if_no_progress with_reducible refine memOk_with ?_) | split | dsimp only | (intro _)
theorem resumeHeld_memOk (s : State) (l : Nat) (h_memOk : s.MemOk) : (resumeHeld s l).MemOk := by
  unfold resumeHeld
  all_goals repeat' first | with_reducible assumption | (with_reducible refine applyReady_memOk _ _ ?_) | (with_reducible refine serveAll_memOk _ _ ?_) | (fail_if_no_progress with_reducible refine memOk_with ?_) | split | dsimp only | (intro _)
theorem copyBlock_memOk (s : State) (k : Nat) (b : Nat) (h_memOk : s.MemOk) : (copyBlock s k b).MemOk := by
  unfold copyBlock
  all_goals repeat' first | with_reducible assumption | (with_reducible refine takeBlock_memOk _ _ _ ?_) | (with_reducible refine resumeHeld_memOk _ _ ?_) | (fail_if_no_progress with_reducible refine memOk_with ?_) | split | dsimp only | (intro _)
theorem countBay_memOk (s : State) (tile : Nat) (off : Nat) (h_memOk : s.MemOk) : (countBay s tile off).MemOk := by
  unfold countBay
  all_goals repeat' first | with_reducible assumption | (with_reducible refine countReg_memOk _ _ _ ?_) | (fail_if_no_progress with_reducible refine memOk_with ?_) | split | dsimp only | (intro _)
theorem createAreas_memOk (s : State) (bays : List Nat) (x0 : Nat) (x1 : Nat) (x2 : Nat) (t : State) (h_memOk : s.MemOk) : createAreas s bays = .some (x0, x1, x2, t) → t.MemOk := by
  unfold createAreas
  intro h
  all_goals repeat' first | cases h | split at h | dsimp only at h
  all_goals repeat' first | with_reducible assumption | (with_reducible refine stackPlace_memOk _ _ _ ?_) | (with_reducible refine memOk_snd (by assumption) ?_) | (with_reducible refine memOk_fst (by assumption) ?_) | (fail_if_no_progress with_reducible refine memOk_with ?_) | split | dsimp only | (intro _)
theorem putLoom_memOk (s : State) (l : Nat) (sess : Nat) (bays : List Nat) (stepClass : Bool) (priority : Nat) (ring : Nat) (ranks : Nat) (park : Nat) (save : Nat) (h_memOk : s.MemOk) : (putLoom s l sess bays stepClass priority ring ranks park save).MemOk := by
  unfold putLoom
  all_goals repeat' first | with_reducible assumption | (with_reducible refine setLoom_memOk _ _ _ ?_) | (with_reducible refine wrN_memOk _ _ _ ?_) | (fail_if_no_progress with_reducible refine memOk_with ?_) | split | dsimp only | (intro _)
theorem createLoom_memOk (s : State) (sess : Nat) (bays : Option Nat) (share : Option Nat) (stepClass : Bool) (priority : Nat) (ring : Nat) (t : State) (x1 : List Byte) (h_memOk : s.MemOk) : createLoom s sess bays share stepClass priority ring = .ok (t, x1) → t.MemOk := by
  unfold createLoom
  intro h
  all_goals repeat' first | cases h | split at h | dsimp only at h
  all_goals repeat' first | with_reducible assumption | (with_reducible refine clearBays_memOk _ _ ?_) | (with_reducible refine putLoom_memOk _ _ _ _ _ _ _ _ _ _ ?_) | (with_reducible refine clearPhases_memOk _ _ ?_) | (with_reducible refine createAreas_memOk _ _ _ _ _ _ ?_ (by assumption)) | (with_reducible refine memOk_snd (by assumption) ?_) | (with_reducible refine memOk_fst (by assumption) ?_) | (fail_if_no_progress with_reducible refine memOk_with ?_) | split | dsimp only | (intro _)
theorem createRing_memOk (s : State) (n : Nat) (f : RingCreateF) (t : State) (x1 : List Byte) (h_memOk : s.MemOk) : createRing s n f = .ok (t, x1) → t.MemOk := by
  unfold createRing
  intro h
  all_goals repeat' first | cases h | split at h | dsimp only at h
  all_goals repeat' first | with_reducible assumption | (with_reducible refine setSession_memOk _ _ _ ?_) | (with_reducible refine memOk_snd (by assumption) ?_) | (with_reducible refine memOk_fst (by assumption) ?_) | (fail_if_no_progress with_reducible refine memOk_with ?_) | split | dsimp only | (intro _)
theorem createSem_memOk (s : State) (sess : Nat) (sem : Nat) (count : W32) (mask : Option (BitVec 16)) (t : State) (x1 : List Byte) (h_memOk : s.MemOk) : createSem s sess sem count mask = .ok (t, x1) → t.MemOk := by
  unfold createSem
  intro h
  all_goals repeat' first | cases h | split at h | dsimp only at h
  all_goals repeat' first | with_reducible assumption | (fail_if_no_progress with_reducible refine memOk_with ?_) | split | dsimp only | (intro _)
theorem deliverFlit_memOk (s : State) (d : Nat) (f : WeftFlit) (h_memOk : s.MemOk) : (deliverFlit s d f).MemOk := by
  unfold deliverFlit
  all_goals repeat' first | with_reducible assumption | (with_reducible refine setLink_memOk _ _ _ ?_) | (with_reducible refine linkSend_memOk _ _ _ _ ?_) | (with_reducible refine State_foldl_memOk _ (fun _ _ _ => ?_) _ _ ?_) | (with_reducible refine foldl_fst_memOk _ (fun _ _ _ => ?_) _ _ ?_) | (with_reducible refine foldl_snd_memOk _ (fun _ _ _ => ?_) _ _ ?_) | (with_reducible refine memOk_snd (by assumption) ?_) | (with_reducible refine memOk_fst (by assumption) ?_) | (fail_if_no_progress with_reducible refine memOk_with ?_) | split | dsimp only | (intro _)
theorem dieCfgWrite_memOk (s : State) (w : Accessor) (off : Nat) (value : W64) (h_memOk : s.MemOk) : (dieCfgWrite s w off value).MemOk := by
  unfold dieCfgWrite
  all_goals repeat' first | with_reducible assumption | (with_reducible refine cfgReject_memOk _ ?_) | (with_reducible refine modBlock_memOk _ _ _ ?_) | (with_reducible refine memOk_snd (by assumption) ?_) | (with_reducible refine memOk_fst (by assumption) ?_) | (fail_if_no_progress with_reducible refine memOk_with ?_) | split | dsimp only | (intro _)
theorem nominal_memOk (s : State) (h_memOk : s.MemOk) : (nominal s).2.MemOk := by
  unfold nominal
  all_goals repeat' first | with_reducible assumption | (with_reducible refine drawFree_memOk _ _ ?_) | (with_reducible refine memOk_snd (by assumption) ?_) | (with_reducible refine memOk_fst (by assumption) ?_) | (fail_if_no_progress with_reducible refine memOk_with ?_) | split | dsimp only | (intro _)
theorem diePower_memOk (s : State) (die : Nat) (counts : List Nat) (h_memOk : s.MemOk) : (diePower s die counts).MemOk := by
  unfold diePower
  all_goals repeat' first | with_reducible assumption | (with_reducible refine modDie_memOk _ _ _ ?_) | (with_reducible refine freeLimit_memOk _ _ ?_) | (with_reducible refine rebind_memOk _ ?_) | (with_reducible refine nominal_memOk _ ?_) | (with_reducible refine State_foldl_memOk _ (fun _ _ _ => ?_) _ _ ?_) | (with_reducible refine foldl_fst_memOk _ (fun _ _ _ => ?_) _ _ ?_) | (with_reducible refine foldl_snd_memOk _ (fun _ _ _ => ?_) _ _ ?_) | (with_reducible refine memOk_snd (by assumption) ?_) | (with_reducible refine memOk_fst (by assumption) ?_) | (fail_if_no_progress with_reducible refine memOk_with ?_) | split | dsimp only | (intro _)
theorem divergence_memOk (s : State) (measured : Nat) (raw : Nat) (h_memOk : s.MemOk) : (divergence s measured raw).MemOk := by
  unfold divergence
  all_goals repeat' first | with_reducible assumption | (with_reducible refine modPower_memOk _ _ ?_) | (with_reducible refine raiseEvt_memOk _ _ _ _ _ _ ?_) | (with_reducible refine moveCapLimit_memOk _ _ _ ?_) | (fail_if_no_progress with_reducible refine memOk_with ?_) | split | dsimp only | (intro _)
theorem ringFault_memOk (s : State) (h_memOk : s.MemOk) : (ringFault s).MemOk := by
  unfold ringFault
  all_goals repeat' first | with_reducible assumption | (with_reducible refine raiseEvt_memOk _ _ _ _ _ _ ?_) | (fail_if_no_progress with_reducible refine memOk_with ?_) | split | dsimp only | (intro _)
theorem doorbell_memOk (s : State) (w : Accessor) (ring : Nat) (tail : Nat) (h_memOk : s.MemOk) : (doorbell s w ring tail).MemOk := by
  unfold doorbell
  all_goals repeat' first | with_reducible assumption | (with_reducible refine ringFault_memOk _ ?_) | (with_reducible refine modSession_memOk _ _ _ ?_) | (with_reducible refine memOk_snd (by assumption) ?_) | (with_reducible refine memOk_fst (by assumption) ?_) | (fail_if_no_progress with_reducible refine memOk_with ?_) | split | dsimp only | (intro _)
theorem dropHit_memOk (s : State) (l : Nat) (e : Nat) (pick : Nat) (h_memOk : s.MemOk) : (dropHit s l e pick).2.MemOk := by
  unfold dropHit
  all_goals repeat' first | with_reducible assumption | (with_reducible refine raiseEvt_memOk _ _ _ _ _ _ ?_) | (with_reducible refine modReq_memOk _ _ _ ?_) | (with_reducible refine evictFor_memOk _ _ _ _ ?_) | (with_reducible refine modSrv_memOk _ _ _ ?_) | (with_reducible refine memOk_snd (by assumption) ?_) | (with_reducible refine memOk_fst (by assumption) ?_) | (fail_if_no_progress with_reducible refine memOk_with ?_) | split | dsimp only | (intro _)
theorem dropLane_memOk (s : State) (io : Nat) (lane : Nat) (h_memOk : s.MemOk) : (dropLane s io lane).MemOk := by
  unfold dropLane
  all_goals repeat' first | with_reducible assumption | (with_reducible refine setReg_memOk _ _ _ ?_) | (with_reducible refine linkLog_memOk _ _ _ _ _ ?_) | (with_reducible refine relane_memOk _ _ ?_) | (with_reducible refine raiseEvt_memOk _ _ _ _ _ _ ?_) | (with_reducible refine setLink_memOk _ _ _ ?_) | (with_reducible refine noteCause_memOk _ _ _ _ _ ?_) | (with_reducible refine resendFlits_memOk _ _ _ ?_) | (fail_if_no_progress with_reducible refine memOk_with ?_) | split | dsimp only | (intro _)
theorem fabError_memOk (s : State) (evts : List Nat) (edge : Nat) (die : Nat) (router : Nat) (unit : Nat) (h_memOk : s.MemOk) : (fabError s evts edge die router unit).MemOk := by
  unfold fabError
  all_goals repeat' first | with_reducible assumption | (with_reducible refine raiseEvt_memOk _ _ _ _ _ _ ?_) | (with_reducible refine capture_memOk _ _ _ _ ?_) | (with_reducible refine State_foldl_memOk _ (fun _ _ _ => ?_) _ _ ?_) | (with_reducible refine foldl_fst_memOk _ (fun _ _ _ => ?_) _ _ ?_) | (with_reducible refine foldl_snd_memOk _ (fun _ _ _ => ?_) _ _ ?_) | (fail_if_no_progress with_reducible refine memOk_with ?_) | split | dsimp only | (intro _)
theorem setPort_memOk (s : State) (p : Nat) (x : FabPort) (h_memOk : s.MemOk) : (setPort s p x).MemOk := by
  unfold setPort
  all_goals repeat' first | with_reducible assumption | (fail_if_no_progress with_reducible refine memOk_with ?_) | split | dsimp only | (intro _)
theorem sendFlit_memOk (s : State) (p : Nat) (node : Nat) (f : FabFlit) (h_memOk : s.MemOk) : (sendFlit s p node f).MemOk := by
  unfold sendFlit
  all_goals repeat' first | with_reducible assumption | (with_reducible refine setPort_memOk _ _ _ ?_) | (fail_if_no_progress with_reducible refine memOk_with ?_) | split | dsimp only | (intro _)
theorem reroute_memOk (s : State) (h_memOk : s.MemOk) : (reroute s).MemOk := by
  unfold reroute
  all_goals repeat' first | with_reducible assumption | (with_reducible refine sendFlit_memOk _ _ _ _ ?_) | (with_reducible refine setPort_memOk _ _ _ ?_) | (with_reducible refine State_foldl_memOk _ (fun _ _ _ => ?_) _ _ ?_) | (with_reducible refine foldl_fst_memOk _ (fun _ _ _ => ?_) _ _ ?_) | (with_reducible refine foldl_snd_memOk _ (fun _ _ _ => ?_) _ _ ?_) | (with_reducible refine memOk_snd (by assumption) ?_) | (with_reducible refine memOk_fst (by assumption) ?_) | (fail_if_no_progress with_reducible refine memOk_with ?_) | split | dsimp only | (intro _)
theorem fenceIn_memOk (s : State) (l : Nat) (h_memOk : s.MemOk) : (fenceIn s l).MemOk := by
  unfold fenceIn
  all_goals repeat' first | with_reducible assumption | (with_reducible refine leaveQueues_memOk _ _ ?_) | (with_reducible refine returnUnits_memOk _ _ ?_) | (with_reducible refine endWith_memOk _ _ _ _ ?_) | (with_reducible refine clearBays_memOk _ _ ?_) | (with_reducible refine raiseEvt_memOk _ _ _ _ _ _ ?_) | (with_reducible refine modLoom_memOk _ _ _ ?_) | (fail_if_no_progress with_reducible refine memOk_with ?_) | split | dsimp only | (intro _)
theorem fenceCut_memOk (s : State) (l : Nat) (h_memOk : s.MemOk) : (fenceCut s l).MemOk := by
  unfold fenceCut
  all_goals repeat' first | with_reducible assumption | (with_reducible refine modTileOf_memOk _ _ _ _ ?_) | (with_reducible refine fenceIn_memOk _ _ ?_) | (with_reducible refine State_foldl_memOk _ (fun _ _ _ => ?_) _ _ ?_) | (with_reducible refine foldl_fst_memOk _ (fun _ _ _ => ?_) _ _ ?_) | (with_reducible refine foldl_snd_memOk _ (fun _ _ _ => ?_) _ _ ?_) | (fail_if_no_progress with_reducible refine memOk_with ?_) | split | dsimp only | (intro _)
theorem dropModule_memOk (s : State) (e : Nat) (h_memOk : s.MemOk) : (dropModule s e).MemOk := by
  unfold dropModule
  all_goals repeat' first | with_reducible assumption | (with_reducible refine fabError_memOk _ _ _ _ _ _ ?_) | (with_reducible refine setReg_memOk _ _ _ ?_) | (with_reducible refine reroute_memOk _ ?_) | (with_reducible refine fenceCut_memOk _ _ ?_) | (with_reducible refine noteCause_memOk _ _ _ _ _ ?_) | (with_reducible refine drawFree_memOk _ _ ?_) | (with_reducible refine State_foldl_memOk _ (fun _ _ _ => ?_) _ _ ?_) | (with_reducible refine foldl_fst_memOk _ (fun _ _ _ => ?_) _ _ ?_) | (with_reducible refine foldl_snd_memOk _ (fun _ _ _ => ?_) _ _ ?_) | (with_reducible refine memOk_snd (by assumption) ?_) | (with_reducible refine memOk_fst (by assumption) ?_) | (fail_if_no_progress with_reducible refine memOk_with ?_) | split | dsimp only | (intro _)
theorem dropPort_memOk (s : State) (io : Nat) (dir : Nat) (h_memOk : s.MemOk) : (dropPort s io dir).MemOk := by
  unfold dropPort
  all_goals repeat' first | with_reducible assumption | (with_reducible refine dropLane_memOk _ _ _ ?_) | (with_reducible refine State_foldl_memOk _ (fun _ _ _ => ?_) _ _ ?_) | (with_reducible refine foldl_fst_memOk _ (fun _ _ _ => ?_) _ _ ?_) | (with_reducible refine foldl_snd_memOk _ (fun _ _ _ => ?_) _ _ ?_) | (fail_if_no_progress with_reducible refine memOk_with ?_) | split | dsimp only | (intro _)
theorem dropRing_memOk (s : State) (n : Nat) (kind : RingKind) (k : Nat) (h_memOk : s.MemOk) : (dropRing s n kind k).MemOk := by
  unfold dropRing
  all_goals repeat' first | with_reducible assumption | (with_reducible refine modSession_memOk _ _ _ ?_) | (with_reducible refine memOk_snd (by assumption) ?_) | (with_reducible refine memOk_fst (by assumption) ?_) | (fail_if_no_progress with_reducible refine memOk_with ?_) | split | dsimp only | (intro _)
theorem dropStrandRows_memOk (s : State) (l : Nat) (h_memOk : s.MemOk) : (dropStrandRows s l).MemOk := by
  unfold dropStrandRows
  all_goals repeat' first | with_reducible assumption | (with_reducible refine serveAll_memOk _ _ ?_) | (with_reducible refine modLoom_memOk _ _ _ ?_) | (with_reducible refine memOk_snd (by assumption) ?_) | (with_reducible refine memOk_fst (by assumption) ?_) | (fail_if_no_progress with_reducible refine memOk_with ?_) | split | dsimp only | (intro _)
theorem ebagGo_memOk (s : State) (l : Nat) (o : AsyncOp) (h_memOk : s.MemOk) : (ebagGo s l o).1.MemOk := by
  unfold ebagGo
  all_goals repeat' first | with_reducible assumption | (with_reducible refine touchRange_memOk _ _ _ _ _ ?_) | (with_reducible refine writeVia_memOk _ _ _ _ ?_) | (with_reducible refine State_foldl_memOk _ (fun _ _ _ => ?_) _ _ ?_) | (with_reducible refine foldl_fst_memOk _ (fun _ _ _ => ?_) _ _ ?_) | (with_reducible refine foldl_snd_memOk _ (fun _ _ _ => ?_) _ _ ?_) | (with_reducible refine memOk_snd (by assumption) ?_) | (with_reducible refine memOk_fst (by assumption) ?_) | (fail_if_no_progress with_reducible refine memOk_with ?_) | split | dsimp only | (intro _)
theorem freeRate_memOk (s : State) (h_memOk : s.MemOk) : (freeRate s).2.MemOk := by
  unfold freeRate
  all_goals repeat' first | with_reducible assumption | (with_reducible refine drawFree_memOk _ _ ?_) | (with_reducible refine memOk_snd (by assumption) ?_) | (with_reducible refine memOk_fst (by assumption) ?_) | (fail_if_no_progress with_reducible refine memOk_with ?_) | split | dsimp only | (intro _)
theorem errShown_memOk (s : State) (errNs : Int) (h_memOk : s.MemOk) : (errShown s errNs).2.MemOk := by
  unfold errShown
  all_goals repeat' first | with_reducible assumption | (with_reducible refine drawFree_memOk _ _ ?_) | (with_reducible refine memOk_snd (by assumption) ?_) | (with_reducible refine memOk_fst (by assumption) ?_) | (fail_if_no_progress with_reducible refine memOk_with ?_) | split | dsimp only | (intro _)
theorem edgeStep_memOk (s : State) (first : Bool) (errNs : Int) (h_memOk : s.MemOk) : (edgeStep s first errNs).MemOk := by
  unfold edgeStep
  all_goals repeat' first | with_reducible assumption | (with_reducible refine raiseEvt_memOk _ _ _ _ _ _ ?_) | (with_reducible refine modTlm_memOk _ _ ?_) | (with_reducible refine memOk_snd (by assumption) ?_) | (with_reducible refine memOk_fst (by assumption) ?_) | (fail_if_no_progress with_reducible refine memOk_with ?_) | split | dsimp only | (intro _)
theorem edgeAccepted_memOk (s : State) (first : Bool) (errNs : Int) (h_memOk : s.MemOk) : (edgeAccepted s first errNs).MemOk := by
  unfold edgeAccepted
  all_goals repeat' first | with_reducible assumption | (with_reducible refine freeRate_memOk _ ?_) | (with_reducible refine errShown_memOk _ _ ?_) | (with_reducible refine raiseEvt_memOk _ _ _ _ _ _ ?_) | (with_reducible refine modTlm_memOk _ _ ?_) | (with_reducible refine edgeStep_memOk _ _ _ ?_) | (with_reducible refine memOk_snd (by assumption) ?_) | (with_reducible refine memOk_fst (by assumption) ?_) | (fail_if_no_progress with_reducible refine memOk_with ?_) | split | dsimp only | (intro _)
theorem endBlocks_memOk (s : State) (o : AsyncOp) (h_memOk : s.MemOk) : (endBlocks s o).MemOk := by
  unfold endBlocks
  all_goals repeat' first | with_reducible assumption | (with_reducible refine modTile_memOk _ _ _ ?_) | (with_reducible refine State_foldl_memOk _ (fun _ _ _ => ?_) _ _ ?_) | (with_reducible refine foldl_fst_memOk _ (fun _ _ _ => ?_) _ _ ?_) | (with_reducible refine foldl_snd_memOk _ (fun _ _ _ => ?_) _ _ ?_) | (fail_if_no_progress with_reducible refine memOk_with ?_) | split | dsimp only | (intro _)
theorem putHeader_memOk (s : State) (l : Nat) (obj : Nat) (pick : Nat) (step : W64) (h_memOk : s.MemOk) : (putHeader s l obj pick step).MemOk := by
  unfold putHeader
  all_goals repeat' first | with_reducible assumption | (with_reducible refine objWrite_memOk _ _ _ _ _ ?_) | (fail_if_no_progress with_reducible refine memOk_with ?_) | split | dsimp only | (intro _)
theorem publishShared_memOk (s : State) (k : Nat) (h_memOk : s.MemOk) : (publishShared s k).MemOk := by
  unfold publishShared
  all_goals repeat' first | with_reducible assumption | (with_reducible refine putHeader_memOk _ _ _ _ _ ?_) | (with_reducible refine modGen_memOk _ _ _ ?_) | (with_reducible refine raiseEvt_memOk _ _ _ _ _ _ ?_) | (with_reducible refine refusePick_memOk _ _ ?_) | (with_reducible refine modWeave_memOk _ _ _ ?_) | (with_reducible refine putCurPick_memOk _ _ _ ?_) | (fail_if_no_progress with_reducible refine memOk_with ?_) | split | dsimp only | (intro _)
theorem shedUnitDone_memOk (s : State) (l : Nat) (h_memOk : s.MemOk) : (shedUnitDone s l).MemOk := by
  unfold shedUnitDone
  all_goals repeat' first | with_reducible assumption | (with_reducible refine writeUnit_memOk _ _ ?_) | (with_reducible refine publishShared_memOk _ _ ?_) | (with_reducible refine raiseEvt_memOk _ _ _ _ _ _ ?_) | (with_reducible refine modWeave_memOk _ _ _ ?_) | (with_reducible refine memOk_snd (by assumption) ?_) | (with_reducible refine memOk_fst (by assumption) ?_) | (fail_if_no_progress with_reducible refine memOk_with ?_) | split | dsimp only | (intro _)
theorem publishPoint_memOk (s : State) (k : Nat) (h_memOk : s.MemOk) : (publishPoint s k).MemOk := by
  unfold publishPoint
  all_goals repeat' first | with_reducible assumption | (with_reducible refine publishIdle_memOk _ _ ?_) | (with_reducible refine modWeave_memOk _ _ _ ?_) | (with_reducible refine memOk_snd (by assumption) ?_) | (with_reducible refine memOk_fst (by assumption) ?_) | (fail_if_no_progress with_reducible refine memOk_with ?_) | split | dsimp only | (intro _)
theorem stepEndOk_memOk (s : State) (l : Nat) (fromRing : Bool) (h_memOk : s.MemOk) : (stepEndOk s l fromRing).MemOk := by
  unfold stepEndOk
  all_goals repeat' first | with_reducible assumption | (with_reducible refine shedUnitDone_memOk _ _ ?_) | (with_reducible refine publishPoint_memOk _ _ ?_) | (with_reducible refine ckptBoundary_memOk _ _ ?_) | (with_reducible refine beginCommit_memOk _ _ ?_) | (with_reducible refine memOk_snd (by assumption) ?_) | (with_reducible refine memOk_fst (by assumption) ?_) | (fail_if_no_progress with_reducible refine memOk_with ?_) | split | dsimp only | (intro _)
theorem endCommand_memOk (l : Nat) (s : State) (h_memOk : s.MemOk) : (endCommand l s).MemOk := by
  unfold endCommand
  all_goals repeat' first | with_reducible assumption | (with_reducible refine addTaps_memOk _ _ _ ?_) | (with_reducible refine stepEndOk_memOk _ _ _ ?_) | (with_reducible refine dobbyCpl_memOk _ _ _ _ ?_) | (with_reducible refine modLoom_memOk _ _ _ ?_) | (with_reducible refine modTile_memOk _ _ _ ?_) | (with_reducible refine preemptEval_memOk _ _ ?_) | (with_reducible refine dropStrandRows_memOk _ _ ?_) | (with_reducible refine State_foldl_memOk _ (fun _ _ _ => ?_) _ _ ?_) | (with_reducible refine foldl_fst_memOk _ (fun _ _ _ => ?_) _ _ ?_) | (with_reducible refine foldl_snd_memOk _ (fun _ _ _ => ?_) _ _ ?_) | (with_reducible refine memOk_snd (by assumption) ?_) | (with_reducible refine memOk_fst (by assumption) ?_) | (fail_if_no_progress with_reducible refine memOk_with ?_) | split | dsimp only | (intro _)
theorem enterBays_memOk (s : State) (l : Nat) (h_memOk : s.MemOk) : (enterBays s l).MemOk := by
  unfold enterBays
  all_goals repeat' first | with_reducible assumption | (with_reducible refine clearBays_memOk _ _ ?_) | (with_reducible refine modLoom_memOk _ _ _ ?_) | (with_reducible refine setTile_memOk _ _ _ ?_) | (with_reducible refine State_foldl_memOk _ (fun _ _ _ => ?_) _ _ ?_) | (with_reducible refine foldl_fst_memOk _ (fun _ _ _ => ?_) _ _ ?_) | (with_reducible refine foldl_snd_memOk _ (fun _ _ _ => ?_) _ _ ?_) | (fail_if_no_progress with_reducible refine memOk_with ?_) | split | dsimp only | (intro _)
theorem enterFlit_memOk (s : State) (p : Nat) (f : FabFlit) (h_memOk : s.MemOk) : (enterFlit s p f).MemOk := by
  unfold enterFlit
  all_goals repeat' first | with_reducible assumption | (with_reducible refine setPort_memOk _ _ _ ?_) | (fail_if_no_progress with_reducible refine memOk_with ?_) | split | dsimp only | (intro _)
theorem epochHot_memOk (s : State) (l : Nat) (promote : Bool) (promoteMin : Nat) (h : HotRegion) (h_memOk : s.MemOk) : (epochHot s l promote promoteMin h).MemOk := by
  unfold epochHot
  all_goals repeat' first | with_reducible assumption | (with_reducible refine putHot_memOk _ _ _ ?_) | (with_reducible refine beginTodo_memOk _ _ _ _ ?_) | (fail_if_no_progress with_reducible refine memOk_with ?_) | split | dsimp only | (intro _)
theorem epochEnd_memOk (s : State) (h_memOk : s.MemOk) : (epochEnd s).MemOk := by
  unfold epochEnd
  all_goals repeat' first | with_reducible assumption | (with_reducible refine setReg_memOk _ _ _ ?_) | (with_reducible refine epochHot_memOk _ _ _ _ _ ?_) | (with_reducible refine State_foldl_memOk _ (fun _ _ _ => ?_) _ _ ?_) | (with_reducible refine foldl_fst_memOk _ (fun _ _ _ => ?_) _ _ ?_) | (with_reducible refine foldl_snd_memOk _ (fun _ _ _ => ?_) _ _ ?_) | (with_reducible refine memOk_snd (by assumption) ?_) | (with_reducible refine memOk_fst (by assumption) ?_) | (fail_if_no_progress with_reducible refine memOk_with ?_) | split | dsimp only | (intro _)
theorem evictIf_memOk (s : State) (l : Nat) (f : PfxEntry → Bool) (h_memOk : s.MemOk) : (evictIf s l f).MemOk := by
  unfold evictIf
  all_goals repeat' first | with_reducible assumption | (with_reducible refine raiseEvt_memOk _ _ _ _ _ _ ?_) | (with_reducible refine modSrv_memOk _ _ _ ?_) | (with_reducible refine State_foldl_memOk _ (fun _ _ _ => ?_) _ _ ?_) | (with_reducible refine foldl_fst_memOk _ (fun _ _ _ => ?_) _ _ ?_) | (with_reducible refine foldl_snd_memOk _ (fun _ _ _ => ?_) _ _ ?_) | (fail_if_no_progress with_reducible refine memOk_with ?_) | split | dsimp only | (intro _)
theorem migWrite_memOk (s : State) (value : W64) (h_memOk : s.MemOk) : (migWrite s value).MemOk := by
  unfold migWrite
  all_goals repeat' first | with_reducible assumption | (fail_if_no_progress with_reducible refine memOk_with ?_) | split | dsimp only | (intro _)
theorem opEnd_memOk (s : State) (tile : Nat) (o : AsyncOp) (st : Byte) (high : optParam W32 0) (fl : optParam W64 0) (h_memOk : s.MemOk) : (opEnd s tile o st high fl).MemOk := by
  unfold opEnd
  all_goals repeat' first | with_reducible assumption | (with_reducible refine completeTag_memOk _ _ _ _ _ _ ?_) | (with_reducible refine endBlocks_memOk _ _ ?_) | (with_reducible refine modTile_memOk _ _ _ ?_) | (fail_if_no_progress with_reducible refine memOk_with ?_) | split | dsimp only | (intro _)
theorem rmtEnd_memOk (s : State) (a : Issuer) (o : AsyncOp) (st : Byte) (h_memOk : s.MemOk) : (rmtEnd s a o st).MemOk := by
  unfold rmtEnd
  all_goals repeat' first | with_reducible assumption | (with_reducible refine opEnd_memOk _ _ _ _ _ _ ?_) | (with_reducible refine modTile_memOk _ _ _ ?_) | (fail_if_no_progress with_reducible refine memOk_with ?_) | split | dsimp only | (intro _)
theorem rmtSpoiled_memOk (s : State) (a : Issuer) (l : Nat) (o : AsyncOp) (t : State) (h_memOk : s.MemOk) : rmtSpoiled s a l o = .some t → t.MemOk := by
  unfold rmtSpoiled
  intro h
  all_goals repeat' first | cases h | split at h | dsimp only at h
  all_goals repeat' first | with_reducible assumption | (with_reducible refine rmtEnd_memOk _ _ _ _ ?_) | (with_reducible refine meetUnits_memOk _ _ _ ?_) | (with_reducible refine loomUncorr_memOk _ _ _ _ _ _ ?_) | (fail_if_no_progress with_reducible refine memOk_with ?_) | split | dsimp only | (intro _)
theorem holdRows_memOk (s : State) (l : Nat) (who : RowUser) (rs : List (Nat × Nat)) (h_memOk : s.MemOk) : (holdRows s l who rs).MemOk := by
  unfold holdRows
  all_goals repeat' first | with_reducible assumption | (with_reducible refine setLoom_memOk _ _ _ ?_) | (fail_if_no_progress with_reducible refine memOk_with ?_) | split | dsimp only | (intro _)
theorem holdAdd_memOk (s : State) (l : Nat) (q : RmtRequest) (h_memOk : s.MemOk) : (holdAdd s l q).MemOk := by
  unfold holdAdd
  all_goals repeat' first | with_reducible assumption | (with_reducible refine applyReady_memOk _ _ ?_) | (with_reducible refine rmtReply_memOk _ _ _ _ ?_) | (with_reducible refine setLoom_memOk _ _ _ ?_) | (with_reducible refine memError_memOk _ _ _ _ _ _ _ _ _ ?_) | (with_reducible refine memOk_snd (by assumption) ?_) | (with_reducible refine memOk_fst (by assumption) ?_) | (fail_if_no_progress with_reducible refine memOk_with ?_) | split | dsimp only | (intro _)
theorem rowsServed_memOk (s : State) (l : Nat) (who : RowUser) (h_memOk : s.MemOk) : (rowsServed s l who).MemOk := by
  unfold rowsServed
  all_goals repeat' first | with_reducible assumption | (with_reducible refine serveAll_memOk _ _ ?_) | (with_reducible refine modLoom_memOk _ _ _ ?_) | (fail_if_no_progress with_reducible refine memOk_with ?_) | split | dsimp only | (intro _)
theorem rmtServe_memOk (s : State) (q : RmtRequest) (src : Option Nat) (h_memOk : s.MemOk) : (rmtServe s q src).MemOk := by
  unfold rmtServe
  all_goals repeat' first | with_reducible assumption | (with_reducible refine holdRows_memOk _ _ _ _ ?_) | (with_reducible refine rmtReply_memOk _ _ _ _ ?_) | (with_reducible refine meetUnits_memOk _ _ _ ?_) | (with_reducible refine holdAdd_memOk _ _ _ ?_) | (with_reducible refine touchRange_memOk _ _ _ _ _ ?_) | (with_reducible refine holdCopy_memOk _ _ _ ?_) | (with_reducible refine rowsServed_memOk _ _ _ ?_) | (with_reducible refine rmtApply_memOk _ _ _ ?_) | (with_reducible refine memOk_snd (by assumption) ?_) | (with_reducible refine memOk_fst (by assumption) ?_) | (fail_if_no_progress with_reducible refine memOk_with ?_) | split | dsimp only | (intro _)
theorem rmtArrive_memOk (s : State) (q : RmtRequest) (h_memOk : s.MemOk) : (rmtArrive s q).MemOk := by
  unfold rmtArrive
  all_goals repeat' first | with_reducible assumption | (with_reducible refine rmtSpoiled_memOk _ _ _ _ _ ?_ (by assumption)) | (with_reducible refine rmtServe_memOk _ _ _ ?_) | (with_reducible refine putOp_memOk _ _ _ _ ?_) | (with_reducible refine memOk_snd (by assumption) ?_) | (with_reducible refine memOk_fst (by assumption) ?_) | (fail_if_no_progress with_reducible refine memOk_with ?_) | split | dsimp only | (intro _)
theorem linkReplayFrom_memOk (s : State) (d : Nat) (seq : BitVec 16) (h_memOk : s.MemOk) : (linkReplayFrom s d seq).MemOk := by
  unfold linkReplayFrom
  all_goals repeat' first | with_reducible assumption | (with_reducible refine linkDown_memOk _ _ ?_) | (with_reducible refine linkLog_memOk _ _ _ _ _ ?_) | (with_reducible refine raiseEvt_memOk _ _ _ _ _ _ ?_) | (with_reducible refine setLink_memOk _ _ _ ?_) | (with_reducible refine noteCause_memOk _ _ _ _ _ ?_) | (with_reducible refine countReg_memOk _ _ _ ?_) | (with_reducible refine resendFlits_memOk _ _ _ ?_) | (fail_if_no_progress with_reducible refine memOk_with ?_) | split | dsimp only | (intro _)
theorem parkWrite_memOk (s : State) (x : Loom) (r : ParkRec) (coll : Bool) (h_memOk : s.MemOk) : (parkWrite s x r coll).MemOk := by
  unfold parkWrite
  all_goals repeat' first | with_reducible assumption | (with_reducible refine wrN_memOk _ _ _ ?_) | (with_reducible refine memOk_snd (by assumption) ?_) | (with_reducible refine memOk_fst (by assumption) ?_) | (fail_if_no_progress with_reducible refine memOk_with ?_) | split | dsimp only | (intro _)
theorem framePark_memOk (s : State) (l : Nat) (tile : Nat) (m : InFrame) (h_memOk : s.MemOk) : (framePark s l tile m).MemOk := by
  unfold framePark
  all_goals repeat' first | with_reducible assumption | (with_reducible refine modLoom_memOk _ _ _ ?_) | (with_reducible refine drawFree_memOk _ _ ?_) | (with_reducible refine parkWrite_memOk _ _ _ _ ?_) | (with_reducible refine memOk_snd (by assumption) ?_) | (with_reducible refine memOk_fst (by assumption) ?_) | (fail_if_no_progress with_reducible refine memOk_with ?_) | split | dsimp only | (intro _)
theorem unparkFrame_memOk (l : Nat) (s : State) (tile : Nat) (m : InFrame) (h_memOk : s.MemOk) : (unparkFrame l s tile m).MemOk := by
  unfold unparkFrame
  all_goals repeat' first | with_reducible assumption | (with_reducible refine settleColls_memOk _ _ _ _ ?_) | (with_reducible refine modTile_memOk _ _ _ ?_) | (fail_if_no_progress with_reducible refine memOk_with ?_) | split | dsimp only | (intro _)
theorem frameIn_memOk (kind : Nat) (tile : Nat) (f : Frame) (sound : Bool) (s : State) (h_memOk : s.MemOk) : (frameIn kind tile f sound s).MemOk := by
  unfold frameIn
  all_goals repeat' first | with_reducible assumption | (with_reducible refine framePark_memOk _ _ _ _ ?_) | (with_reducible refine takeDelivered_memOk _ _ ?_) | (with_reducible refine unparkFrame_memOk _ _ _ _ ?_) | (with_reducible refine answerFrame_memOk _ _ _ _ _ ?_) | (with_reducible refine modLoom_memOk _ _ _ ?_) | (with_reducible refine memOk_snd (by assumption) ?_) | (with_reducible refine memOk_fst (by assumption) ?_) | (fail_if_no_progress with_reducible refine memOk_with ?_) | split | dsimp only | (intro _)
theorem saveImage_memOk (s : State) (l : Nat) (us : Nat) (h_memOk : s.MemOk) : (saveImage s l us).MemOk := by
  unfold saveImage
  all_goals repeat' first | with_reducible assumption | (with_reducible refine raiseEvt_memOk _ _ _ _ _ _ ?_) | (with_reducible refine modLoom_memOk _ _ _ ?_) | (with_reducible refine leaveBays_memOk _ _ ?_) | (with_reducible refine memOk_snd (by assumption) ?_) | (with_reducible refine memOk_fst (by assumption) ?_) | (fail_if_no_progress with_reducible refine memOk_with ?_) | split | dsimp only | (intro _)
theorem losePps_memOk (s : State) (h_memOk : s.MemOk) : (losePps s).MemOk := by
  unfold losePps
  all_goals repeat' first | with_reducible assumption | (with_reducible refine raiseEvt_memOk _ _ _ _ _ _ ?_) | (with_reducible refine modTlm_memOk _ _ ?_) | (fail_if_no_progress with_reducible refine memOk_with ?_) | split | dsimp only | (intro _)
theorem setInput_memOk (s : State) (inputB : Bool) (x : Input) (h_memOk : s.MemOk) : (setInput s inputB x).MemOk := by
  unfold setInput
  all_goals repeat' first | with_reducible assumption | (with_reducible refine modPower_memOk _ _ ?_) | (fail_if_no_progress with_reducible refine memOk_with ?_) | split | dsimp only | (intro _)
theorem goodInput_memOk (s : State) (inputB : Bool) (v : Nat) (h_memOk : s.MemOk) : (goodInput s inputB v).MemOk := by
  unfold goodInput
  all_goals repeat' first | with_reducible assumption | (with_reducible refine setInput_memOk _ _ _ ?_) | (fail_if_no_progress with_reducible refine memOk_with ?_) | split | dsimp only | (intro _)
theorem setFn_memOk (s : State) (w : Accessor) (x : FnRegs) (h_memOk : s.MemOk) : (setFn s w x).MemOk := by
  unfold setFn
  all_goals repeat' first | with_reducible assumption | (fail_if_no_progress with_reducible refine memOk_with ?_) | split | dsimp only | (intro _)
theorem tripDie_memOk (s : State) (die : Nat) (t : Nat) (h_memOk : s.MemOk) : (tripDie s die t).MemOk := by
  unfold tripDie
  all_goals repeat' first | with_reducible assumption | (with_reducible refine modDie_memOk _ _ _ ?_) | (with_reducible refine raiseEvt_memOk _ _ _ _ _ _ ?_) | (with_reducible refine rebind_memOk _ ?_) | (with_reducible refine modSvc_memOk _ _ ?_) | (with_reducible refine loomUncorr_memOk _ _ _ _ _ _ ?_) | (with_reducible refine State_foldl_memOk _ (fun _ _ _ => ?_) _ _ ?_) | (with_reducible refine foldl_fst_memOk _ (fun _ _ _ => ?_) _ _ ?_) | (with_reducible refine foldl_snd_memOk _ (fun _ _ _ => ?_) _ _ ?_) | (fail_if_no_progress with_reducible refine memOk_with ?_) | split | dsimp only | (intro _)
theorem limitDies_memOk (s : State) (ds : List Nat) (r : Nat) (v : Nat) (h_memOk : s.MemOk) : (limitDies s ds r v).MemOk := by
  unfold limitDies
  all_goals repeat' first | with_reducible assumption | (with_reducible refine modDie_memOk _ _ _ ?_) | (with_reducible refine rebind_memOk _ ?_) | (with_reducible refine State_foldl_memOk _ (fun _ _ _ => ?_) _ _ ?_) | (with_reducible refine foldl_fst_memOk _ (fun _ _ _ => ?_) _ _ ?_) | (with_reducible refine foldl_snd_memOk _ (fun _ _ _ => ?_) _ _ ?_) | (fail_if_no_progress with_reducible refine memOk_with ?_) | split | dsimp only | (intro _)
theorem junction_memOk (s : State) (die : Nat) (t : Nat) (lim : Nat → Nat) (h_memOk : s.MemOk) : (junction s die t lim).MemOk := by
  unfold junction
  all_goals repeat' first | with_reducible assumption | (with_reducible refine tripDie_memOk _ _ _ ?_) | (with_reducible refine modDie_memOk _ _ _ ?_) | (with_reducible refine limitDies_memOk _ _ _ _ ?_) | (with_reducible refine raiseEvt_memOk _ _ _ _ _ _ ?_) | (fail_if_no_progress with_reducible refine memOk_with ?_) | split | dsimp only | (intro _)
theorem supplyLimit_memOk (s : State) (h_memOk : s.MemOk) : (supplyLimit s).MemOk := by
  unfold supplyLimit
  all_goals repeat' first | with_reducible assumption | (with_reducible refine limitDies_memOk _ _ _ _ ?_) | (with_reducible refine modPower_memOk _ _ ?_) | (fail_if_no_progress with_reducible refine memOk_with ?_) | split | dsimp only | (intro _)
theorem switchOver_memOk (s : State) (h_memOk : s.MemOk) : (switchOver s).MemOk := by
  unfold switchOver
  all_goals repeat' first | with_reducible assumption | (with_reducible refine raiseEvt_memOk _ _ _ _ _ _ ?_) | (with_reducible refine supplyLimit_memOk _ ?_) | (with_reducible refine applyCap_memOk _ ?_) | (fail_if_no_progress with_reducible refine memOk_with ?_) | split | dsimp only | (intro _)
theorem leaveInput_memOk (s : State) (inputB : Bool) (x : Input) (h_memOk : s.MemOk) : (leaveInput s inputB x).MemOk := by
  unfold leaveInput
  all_goals repeat' first | with_reducible assumption | (with_reducible refine switchOver_memOk _ ?_) | (with_reducible refine setInput_memOk _ _ _ ?_) | (fail_if_no_progress with_reducible refine memOk_with ?_) | split | dsimp only | (intro _)
theorem outInput_memOk (s : State) (inputB : Bool) (st : InputState) (v : Nat) (bit : Nat) (h_memOk : s.MemOk) : (outInput s inputB st v bit).MemOk := by
  unfold outInput
  all_goals repeat' first | with_reducible assumption | (with_reducible refine leaveInput_memOk _ _ _ ?_) | (with_reducible refine raiseEvt_memOk _ _ _ _ _ _ ?_) | (fail_if_no_progress with_reducible refine memOk_with ?_) | split | dsimp only | (intro _)
theorem sensorValue_memOk (s : State) (k : Sensor) (h_memOk : s.MemOk) : (sensorValue s k).2.MemOk := by
  unfold sensorValue
  all_goals repeat' first | with_reducible assumption | (with_reducible refine drawFree_memOk _ _ ?_) | (with_reducible refine memOk_snd (by assumption) ?_) | (with_reducible refine memOk_fst (by assumption) ?_) | (fail_if_no_progress with_reducible refine memOk_with ?_) | split | dsimp only | (intro _)
theorem modConsole_memOk (s : State) (f : Console → Console) (h_memOk : s.MemOk) : (modConsole s f).MemOk := by
  unfold modConsole
  all_goals repeat' first | with_reducible assumption | (fail_if_no_progress with_reducible refine memOk_with ?_) | split | dsimp only | (intro _)
theorem putPassword_memOk (s : State) (pw : List Byte) (salt : List Byte) (h_memOk : s.MemOk) : (putPassword s pw salt).MemOk := by
  unfold putPassword
  all_goals repeat' first | with_reducible assumption | (with_reducible refine modConsole_memOk _ _ ?_) | (fail_if_no_progress with_reducible refine memOk_with ?_) | split | dsimp only | (intro _)
theorem forceMap_memOk (l : Nat) (records : List MapRec) (s : State) (h_memOk : s.MemOk) : (forceMap l records s).MemOk := by
  unfold forceMap
  all_goals repeat' first | with_reducible assumption | (with_reducible refine moveObjs_memOk _ _ _ _ _ ?_) | (with_reducible refine wrN_memOk _ _ _ ?_) | (with_reducible refine publishMap_memOk _ _ _ ?_) | (with_reducible refine memOk_snd (by assumption) ?_) | (with_reducible refine memOk_fst (by assumption) ?_) | (fail_if_no_progress with_reducible refine memOk_with ?_) | split | dsimp only | (intro _)
theorem lrnConfig_memOk (s : State) (l : Nat) (f : LrnConfigF) (t : State) (x1 : List Byte) (h_memOk : s.MemOk) : lrnConfig s l f = .ok (t, x1) → t.MemOk := by
  unfold lrnConfig
  intro h
  all_goals repeat' first | cases h | split at h | dsimp only at h
  all_goals repeat' first | with_reducible assumption | (with_reducible refine setLoom_memOk _ _ _ ?_) | (fail_if_no_progress with_reducible refine memOk_with ?_) | split | dsimp only | (intro _)
theorem takeEntry_memOk (s : State) (sess : Nat) (ring : Nat) (n : Nat) (h_memOk : s.MemOk) : (takeEntry s sess ring n).MemOk := by
  unfold takeEntry
  all_goals repeat' first | with_reducible assumption | (with_reducible refine modSession_memOk _ _ _ ?_) | (with_reducible refine memOk_snd (by assumption) ?_) | (with_reducible refine memOk_fst (by assumption) ?_) | (fail_if_no_progress with_reducible refine memOk_with ?_) | split | dsimp only | (intro _)
theorem fetch_memOk (s : State) (n : Nat) (ring : Nat) (e : CmdEntry) (h_memOk : s.MemOk) : (fetch s n ring e).MemOk := by
  unfold fetch
  all_goals repeat' first | with_reducible assumption | (with_reducible refine postCpl_memOk _ _ _ _ _ _ _ ?_) | (with_reducible refine ringFault_memOk _ ?_) | (with_reducible refine takeEntry_memOk _ _ _ _ ?_) | (with_reducible refine modSession_memOk _ _ _ ?_) | (with_reducible refine setSession_memOk _ _ _ ?_) | (with_reducible refine memOk_snd (by assumption) ?_) | (with_reducible refine memOk_fst (by assumption) ?_) | (fail_if_no_progress with_reducible refine memOk_with ?_) | split | dsimp only | (intro _)
theorem xferTo_memOk (s : State) (sess : Nat) (ring : Nat) (l : Nat) (dev : W64) (bs : List Byte) (h_memOk : s.MemOk) : (xferTo s sess ring l dev bs).MemOk := by
  unfold xferTo
  all_goals repeat' first | with_reducible assumption | (with_reducible refine holdRows_memOk _ _ _ _ ?_) | (with_reducible refine finish_memOk _ _ _ _ _ ?_) | (with_reducible refine touchRange_memOk _ _ _ _ _ ?_) | (with_reducible refine loomUncorr_memOk _ _ _ _ _ _ ?_) | (with_reducible refine holdCopy_memOk _ _ _ ?_) | (with_reducible refine writeVia_memOk _ _ _ _ ?_) | (with_reducible refine rowsServed_memOk _ _ _ ?_) | (with_reducible refine memOk_snd (by assumption) ?_) | (with_reducible refine memOk_fst (by assumption) ?_) | (fail_if_no_progress with_reducible refine memOk_with ?_) | split | dsimp only | (intro _)
theorem modCtrlWrite_memOk (s : State) (value : Nat) (h_memOk : s.MemOk) : (modCtrlWrite s value).MemOk := by
  unfold modCtrlWrite
  all_goals repeat' first | with_reducible assumption | (with_reducible refine cfgReject_memOk _ ?_) | (with_reducible refine modTlm_memOk _ _ ?_) | (fail_if_no_progress with_reducible refine memOk_with ?_) | split | dsimp only | (intro _)
theorem finishWith_memOk (s : State) (sess : Nat) (ring : Nat) (status : Byte) (result : List Byte) (h_memOk : s.MemOk) : (finishWith s sess ring status result).MemOk := by
  unfold finishWith
  all_goals repeat' first | with_reducible assumption | (with_reducible refine postCpl_memOk _ _ _ _ _ _ _ ?_) | (with_reducible refine modSession_memOk _ _ _ ?_) | (with_reducible refine memOk_snd (by assumption) ?_) | (with_reducible refine memOk_fst (by assumption) ?_) | (fail_if_no_progress with_reducible refine memOk_with ?_) | split | dsimp only | (intro _)
theorem restoreAllIn_memOk (s : State) (l : Nat) (h_memOk : s.MemOk) : (restoreAllIn s l).MemOk := by
  unfold restoreAllIn
  all_goals repeat' first | with_reducible assumption | (with_reducible refine finishWith_memOk _ _ _ _ _ ?_) | (with_reducible refine endRestore_memOk _ _ _ _ ?_) | (with_reducible refine setLoom_memOk _ _ _ ?_) | (with_reducible refine modLoom_memOk _ _ _ ?_) | (with_reducible refine memOk_snd (by assumption) ?_) | (with_reducible refine memOk_fst (by assumption) ?_) | (fail_if_no_progress with_reducible refine memOk_with ?_) | split | dsimp only | (intro _)
theorem restoreBegin_memOk (s : State) (l : Nat) (who : Nat × Nat) (d : RestoreData) (m : List Byte) (h_memOk : s.MemOk) : (restoreBegin s l who d m).MemOk := by
  unfold restoreBegin
  all_goals repeat' first | with_reducible assumption | (with_reducible refine setLoom_memOk _ _ _ ?_) | (with_reducible refine restoreAllIn_memOk _ _ ?_) | (fail_if_no_progress with_reducible refine memOk_with ?_) | split | dsimp only | (intro _)
theorem unpark_memOk (s : State) (l : Nat) (r : ParkRec) (h_memOk : s.MemOk) : (unpark s l r).MemOk := by
  unfold unpark
  all_goals repeat' first | with_reducible assumption | (with_reducible refine rmtEnd_memOk _ _ _ _ ?_) | (with_reducible refine copyFirst_memOk _ _ _ _ ?_) | (with_reducible refine spoil_memOk _ _ ?_) | (with_reducible refine touchRange_memOk _ _ _ _ _ ?_) | (with_reducible refine loomUncorr_memOk _ _ _ _ _ _ ?_) | (with_reducible refine writeVia_memOk _ _ _ _ ?_) | (with_reducible refine memOk_snd (by assumption) ?_) | (with_reducible refine memOk_fst (by assumption) ?_) | (fail_if_no_progress with_reducible refine memOk_with ?_) | split | dsimp only | (intro _)
theorem takeUp_memOk (s : State) (l : Nat) (h_memOk : s.MemOk) : (takeUp s l).MemOk := by
  unfold takeUp
  all_goals repeat' first | with_reducible assumption | (with_reducible refine applyReady_memOk _ _ ?_) | (with_reducible refine serveAll_memOk _ _ ?_) | (with_reducible refine beginHeld_memOk _ _ ?_) | (with_reducible refine unparkFrame_memOk _ _ _ _ ?_) | (with_reducible refine modLoom_memOk _ _ _ ?_) | (with_reducible refine unpark_memOk _ _ _ ?_) | (with_reducible refine State_foldl_memOk _ (fun _ _ _ => ?_) _ _ ?_) | (with_reducible refine foldl_fst_memOk _ (fun _ _ _ => ?_) _ _ ?_) | (with_reducible refine foldl_snd_memOk _ (fun _ _ _ => ?_) _ _ ?_) | (with_reducible refine memOk_snd (by assumption) ?_) | (with_reducible refine memOk_fst (by assumption) ?_) | (fail_if_no_progress with_reducible refine memOk_with ?_) | split | dsimp only | (intro _)
theorem selectLoom_memOk (s : State) (l : Nat) (h_memOk : s.MemOk) : (selectLoom s l).MemOk := by
  unfold selectLoom
  all_goals repeat' first | with_reducible assumption | (with_reducible refine enterBays_memOk _ _ ?_) | (with_reducible refine modLoom_memOk _ _ _ ?_) | (fail_if_no_progress with_reducible refine memOk_with ?_) | split | dsimp only | (intro _)
theorem trySelect_memOk (s : State) (l : Nat) (h_memOk : s.MemOk) : (trySelect s l).MemOk := by
  unfold trySelect
  all_goals repeat' first | with_reducible assumption | (with_reducible refine requestPreempt_memOk _ _ _ ?_) | (with_reducible refine selectLoom_memOk _ _ ?_) | (with_reducible refine memOk_snd (by assumption) ?_) | (with_reducible refine memOk_fst (by assumption) ?_) | (fail_if_no_progress with_reducible refine memOk_with ?_) | split | dsimp only | (intro _)
theorem holderSelect_memOk (s : State) (l : Nat) (h_memOk : s.MemOk) : (holderSelect s l).MemOk := by
  unfold holderSelect
  all_goals repeat' first | with_reducible assumption | (with_reducible refine takeUp_memOk _ _ ?_) | (with_reducible refine trySelect_memOk _ _ ?_) | (fail_if_no_progress with_reducible refine memOk_with ?_) | split | dsimp only | (intro _)
theorem storeVec_memOk (sz : Nat) (g : Nat → Nat) (s : State) (l : Nat) (accs : List (Nat × Nat)) (h_memOk : s.MemOk) : (storeVec sz g s l accs).MemOk := by
  unfold storeVec
  all_goals repeat' first | with_reducible assumption | (with_reducible refine clearCovered_memOk _ _ ?_) | (with_reducible refine touchRange_memOk _ _ _ _ _ ?_) | (with_reducible refine writeVia_memOk _ _ _ _ ?_) | (with_reducible refine State_foldl_memOk _ (fun _ _ _ => ?_) _ _ ?_) | (with_reducible refine foldl_fst_memOk _ (fun _ _ _ => ?_) _ _ ?_) | (with_reducible refine foldl_snd_memOk _ (fun _ _ _ => ?_) _ _ ?_) | (fail_if_no_progress with_reducible refine memOk_with ?_) | split | dsimp only | (intro _)
theorem ldst_memOk (op : Nat) (ok : Bool) (sz : Nat) (store : Bool) (vector : Bool) (a : Issuer) (f : FmtM) (s : State) (k : State → Nat → Strand → List (Nat × Nat) → State) (h_k : ∀ u0 u1 u2 u3, u0.MemOk → (k u0 u1 u2 u3).MemOk) (h_memOk : s.MemOk) : (ldst op ok sz store vector a f s k).MemOk := by
  unfold ldst
  all_goals repeat' first | with_reducible assumption | (with_reducible refine holdRows_memOk _ _ _ _ ?_) | (with_reducible refine issue_memOk _ _ _ _ (fun _ _ _ _ hq => ?_) ?_) | (split at hq) | (cases hq) | (dsimp only at hq) | (with_reducible refine holdCopy_memOk _ _ _ ?_) | (with_reducible refine rowsServed_memOk _ _ _ ?_) | (with_reducible refine h_k _ _ _ _ ?_) | (with_reducible refine memOk_snd (by assumption) ?_) | (with_reducible refine memOk_fst (by assumption) ?_) | (fail_if_no_progress with_reducible refine memOk_with ?_) | split | dsimp only | (intro _)
theorem moduleSnapshot_memOk (s : State) (busy : Bool) (h_memOk : s.MemOk) : (moduleSnapshot s busy).MemOk := by
  unfold moduleSnapshot
  all_goals repeat' first | with_reducible assumption | (with_reducible refine raiseEvt_memOk _ _ _ _ _ _ ?_) | (with_reducible refine modTlm_memOk _ _ ?_) | (with_reducible refine hostWr_memOk _ _ _ ?_) | (fail_if_no_progress with_reducible refine memOk_with ?_) | split | dsimp only | (intro _)
theorem loomSnapshot_memOk (s : State) (l : Nat) (busy : Bool) (h_memOk : s.MemOk) : (loomSnapshot s l busy).MemOk := by
  unfold loomSnapshot
  all_goals repeat' first | with_reducible assumption | (with_reducible refine objWrite_memOk _ _ _ _ _ ?_) | (with_reducible refine setLoom_memOk _ _ _ ?_) | (with_reducible refine raiseEvt_memOk _ _ _ _ _ _ ?_) | (with_reducible refine modLoom_memOk _ _ _ ?_) | (with_reducible refine advancePhase_memOk _ _ ?_) | (with_reducible refine State_foldl_memOk _ (fun _ _ _ => ?_) _ _ ?_) | (with_reducible refine foldl_fst_memOk _ (fun _ _ _ => ?_) _ _ ?_) | (with_reducible refine foldl_snd_memOk _ (fun _ _ _ => ?_) _ _ ?_) | (fail_if_no_progress with_reducible refine memOk_with ?_) | split | dsimp only | (intro _)
theorem flipThrum_memOk (s : State) (tile : Nat) (g : Nat) (e : BitVec 33) (h_memOk : s.MemOk) : (flipThrum s tile g e).MemOk := by
  unfold flipThrum
  all_goals repeat' first | with_reducible assumption | (fail_if_no_progress with_reducible refine memOk_with ?_) | split | dsimp only | (intro _)
theorem poisonGroup_memOk (s : State) (tile : Nat) (group : Nat) (addr : Nat) (evts : List Nat) (h_memOk : s.MemOk) : (poisonGroup s tile group addr evts).MemOk := by
  unfold poisonGroup
  all_goals repeat' first | with_reducible assumption | (with_reducible refine countBay_memOk _ _ _ ?_) | (with_reducible refine memError_memOk _ _ _ _ _ _ _ _ _ ?_) | (with_reducible refine loomUncorr_memOk _ _ _ _ _ _ ?_) | (with_reducible refine memOk_snd (by assumption) ?_) | (with_reducible refine memOk_fst (by assumption) ?_) | (fail_if_no_progress with_reducible refine memOk_with ?_) | split | dsimp only | (intro _)
theorem flipWord_memOk (s : State) (tile : Nat) (w : Nat) (e : BitVec 33) (h_memOk : s.MemOk) : (flipWord s tile w e).MemOk := by
  unfold flipWord
  all_goals repeat' first | with_reducible assumption | (fail_if_no_progress with_reducible refine memOk_with ?_) | split | dsimp only | (intro _)
theorem rebuilt_memOk (s : State) (tile : Nat) (evt : Nat) (addr : Nat) (thrum : Bool) (h_memOk : s.MemOk) : (rebuilt s tile evt addr thrum).MemOk := by
  unfold rebuilt
  all_goals repeat' first | with_reducible assumption | (with_reducible refine countBay_memOk _ _ _ ?_) | (with_reducible refine memError_memOk _ _ _ _ _ _ _ _ _ ?_) | (with_reducible refine noteCause_memOk _ _ _ _ _ ?_) | (fail_if_no_progress with_reducible refine memOk_with ?_) | split | dsimp only | (intro _)
theorem rebuildWord_memOk (s : State) (tile : Nat) (w : Nat) (h_memOk : s.MemOk) : (rebuildWord s tile w).MemOk := by
  unfold rebuildWord
  all_goals repeat' first | with_reducible assumption | (with_reducible refine poisonGroup_memOk _ _ _ _ _ ?_) | (with_reducible refine flipWord_memOk _ _ _ _ ?_) | (with_reducible refine rebuilt_memOk _ _ _ _ _ ?_) | (with_reducible refine wr_memOk _ _ _ _ ?_) | (fail_if_no_progress with_reducible refine memOk_with ?_) | split | dsimp only | (intro _)
theorem wordFails_memOk (s : State) (tile : Nat) (word : Nat) (found : SnapFinding) (h_memOk : s.MemOk) : (wordFails s tile word found).MemOk := by
  unfold wordFails
  all_goals repeat' first | with_reducible assumption | (with_reducible refine flipThrum_memOk _ _ _ _ ?_) | (with_reducible refine rebuildWord_memOk _ _ _ ?_) | (with_reducible refine flipWord_memOk _ _ _ _ ?_) | (with_reducible refine drawFree_memOk _ _ ?_) | (with_reducible refine memOk_snd (by assumption) ?_) | (with_reducible refine memOk_fst (by assumption) ?_) | (fail_if_no_progress with_reducible refine memOk_with ?_) | split | dsimp only | (intro _)
theorem semStatus_memOk (s : State) (a : Issuer) (sd : Nat) (st : Byte) (h_memOk : s.MemOk) : (semStatus s a sd st).MemOk := by
  unfold semStatus
  all_goals repeat' first | with_reducible assumption | (with_reducible refine modStrand_memOk _ _ _ ?_) | (fail_if_no_progress with_reducible refine memOk_with ?_) | split | dsimp only | (intro _)
theorem semIssue_memOk (op : Nat) (a : Issuer) (f : FmtD) (s : State) (own : Nat → Strand → State) (shared : Nat → SharedSem → State) (h_own : ∀ u0 u1, s.MemOk → (own u0 u1).MemOk) (h_shared : ∀ u0 u1, s.MemOk → (shared u0 u1).MemOk) (h_memOk : s.MemOk) : (semIssue op a f s own shared).MemOk := by
  unfold semIssue
  all_goals repeat' first | with_reducible assumption | (with_reducible refine semStatus_memOk _ _ _ _ ?_) | (with_reducible refine setLoom_memOk _ _ _ ?_) | (with_reducible refine issue_memOk _ _ _ _ (fun _ _ _ _ hq => ?_) ?_) | (split at hq) | (cases hq) | (dsimp only at hq) | (with_reducible refine h_own _ _ ?_) | (with_reducible refine h_shared _ _ ?_) | (with_reducible refine memOk_snd (by assumption) ?_) | (with_reducible refine memOk_fst (by assumption) ?_) | (fail_if_no_progress with_reducible refine memOk_with ?_) | split | dsimp only | (intro _)
theorem serveLoomGo_memOk (s : State) (l : Nat) (sem : Nat) (a : Nat) (h_memOk : s.MemOk) : (serveLoomGo s l sem a).MemOk := by
  induction a generalizing s with
  | zero => exact h_memOk
  | succ n ih =>
    unfold serveLoomGo
    repeat' first | with_reducible assumption | (with_reducible refine setLoom_memOk _ _ _ ?_) | (with_reducible refine semDone_memOk _ _ _ ?_) | (with_reducible refine memOk_snd (by assumption) ?_) | (with_reducible refine memOk_fst (by assumption) ?_) | (fail_if_no_progress with_reducible refine memOk_with ?_) | (with_reducible refine ih _ ?_) | split | dsimp only | (intro _)
theorem serveLoomSem_memOk (s : State) (l : Nat) (sem : Nat) (h_memOk : s.MemOk) : (serveLoomSem s l sem).MemOk := by
  unfold serveLoomSem
  all_goals repeat' first | with_reducible assumption | (with_reducible refine serveLoomGo_memOk _ _ _ _ ?_) | (fail_if_no_progress with_reducible refine memOk_with ?_) | split | dsimp only | (intro _)
theorem semRelease_memOk (a : Issuer) (f : FmtD) (s : State) (h_memOk : s.MemOk) : (semRelease a f s).MemOk := by
  unfold semRelease
  all_goals repeat' first | with_reducible assumption | (with_reducible refine serveSem_memOk _ _ ?_) | (with_reducible refine semStatus_memOk _ _ _ _ ?_) | (with_reducible refine setLoom_memOk _ _ _ ?_) | (with_reducible refine semIssue_memOk _ _ _ _ _ _ ?_ ?_ ?_) | (with_reducible refine serveLoomSem_memOk _ _ _ ?_) | (with_reducible refine preemptEval_memOk _ _ ?_) | (fail_if_no_progress with_reducible refine memOk_with ?_) | split | dsimp only | (intro _)
theorem loadVec_memOk (sz : Nat) (g : Nat → W32) (a : Issuer) (f : FmtM) (tap : Bool) (s : State) (l : Nat) (y : Strand) (accs : List (Nat × Nat)) (h_memOk : s.MemOk) : (loadVec sz g a f tap s l y accs).MemOk := by
  unfold loadVec
  all_goals repeat' first | with_reducible assumption | (with_reducible refine touchRange_memOk _ _ _ _ _ ?_) | (with_reducible refine setStrand_memOk _ _ _ ?_) | (with_reducible refine State_foldl_memOk _ (fun _ _ _ => ?_) _ _ ?_) | (with_reducible refine foldl_fst_memOk _ (fun _ _ _ => ?_) _ _ ?_) | (with_reducible refine foldl_snd_memOk _ (fun _ _ _ => ?_) _ _ ?_) | (fail_if_no_progress with_reducible refine memOk_with ?_) | split | dsimp only | (intro _)
theorem lrnBind_memOk (s : State) (l : Nat) (recs : List BindRec) (t : State) (x1 : List Byte) (h_memOk : s.MemOk) : lrnBind s l recs = .ok (t, x1) → t.MemOk := by
  unfold lrnBind
  intro h
  all_goals repeat' first | cases h | split at h | dsimp only at h
  all_goals repeat' first | with_reducible assumption | (with_reducible refine objWrite_memOk _ _ _ _ _ ?_) | (with_reducible refine modLoom_memOk _ _ _ ?_) | (with_reducible refine State_foldl_memOk _ (fun _ _ _ => ?_) _ _ ?_) | (with_reducible refine foldl_fst_memOk _ (fun _ _ _ => ?_) _ _ ?_) | (with_reducible refine foldl_snd_memOk _ (fun _ _ _ => ?_) _ _ ?_) | (fail_if_no_progress with_reducible refine memOk_with ?_) | split | dsimp only | (intro _)
theorem takeDetour_memOk (s : State) (d : Nat) (lines : List Nat) (h_memOk : s.MemOk) : (takeDetour s d lines).MemOk := by
  unfold takeDetour
  all_goals repeat' first | with_reducible assumption | (with_reducible refine raiseEvt_memOk _ _ _ _ _ _ ?_) | (with_reducible refine setLink_memOk _ _ _ ?_) | (with_reducible refine sendFrame_memOk _ _ _ _ ?_) | (with_reducible refine State_foldl_memOk _ (fun _ _ _ => ?_) _ _ ?_) | (with_reducible refine foldl_fst_memOk _ (fun _ _ _ => ?_) _ _ ?_) | (with_reducible refine foldl_snd_memOk _ (fun _ _ _ => ?_) _ _ ?_) | (with_reducible refine memOk_snd (by assumption) ?_) | (with_reducible refine memOk_fst (by assumption) ?_) | (fail_if_no_progress with_reducible refine memOk_with ?_) | split | dsimp only | (intro _)
theorem relayDetour_memOk (s : State) (d : Nat) (job : W32) (stage : Nat) (out : Option Nat) (h_memOk : s.MemOk) : (relayDetour s d job stage out).MemOk := by
  unfold relayDetour
  all_goals repeat' first | with_reducible assumption | (with_reducible refine setLink_memOk _ _ _ ?_) | (fail_if_no_progress with_reducible refine memOk_with ?_) | split | dsimp only | (intro _)
theorem sampleOverflow_memOk (s : State) (tile : Nat) (n : Nat) (strand : Option Nat) (v : Nat) (prev : Nat) (h_memOk : s.MemOk) : (sampleOverflow s tile n strand v prev).MemOk := by
  unfold sampleOverflow
  all_goals repeat' first | with_reducible assumption | (with_reducible refine addTile_memOk _ _ _ _ _ _ _ ?_) | (with_reducible refine memOk_snd (by assumption) ?_) | (with_reducible refine memOk_fst (by assumption) ?_) | (fail_if_no_progress with_reducible refine memOk_with ?_) | split | dsimp only | (intro _)
theorem specIssue_memOk (op : Nat) (kind : AsyncKind) (usesB : Bool) (a : Issuer) (f : FmtD) (s : State) (h_memOk : s.MemOk) : (specIssue op kind usesB a f s).MemOk := by
  unfold specIssue
  all_goals repeat' first | with_reducible assumption | (with_reducible refine asyncIssue_memOk _ _ _ _ _ _ _ _ _ _ _ _ ?_) | (fail_if_no_progress with_reducible refine memOk_with ?_) | split | dsimp only | (intro _)
theorem xferIssue_memOk (op : Nat) (kind : AsyncKind) (a : Issuer) (f : FmtD) (s : State) (k : Nat → List Byte → Except Byte AsyncOp) (h_memOk : s.MemOk) : (xferIssue op kind a f s k).MemOk := by
  unfold xferIssue
  all_goals repeat' first | with_reducible assumption | (with_reducible refine asyncIssue_memOk _ _ _ _ _ _ _ _ _ _ _ _ ?_) | (fail_if_no_progress with_reducible refine memOk_with ?_) | split | dsimp only | (intro _)
theorem loomRun_memOk (s : State) (sess ring : Nat) (sts : List LoomState) (f : Nat → Taken → Except Byte (State × List Byte)) (h_f : ∀ l u t x, s.MemOk → f l u = .ok (t, x) → t.MemOk) (h_memOk : s.MemOk) : (loomRun s sess ring sts f).MemOk := by
  unfold loomRun
  refine cmdRun_memOk _ _ _ _ (fun u t x h e => ?_) h_memOk
  repeat' first | exact h_f _ _ _ _ h e | cases e | split at e
theorem handoffEnd_memOk (s : State) (l : Nat) (h_memOk : s.MemOk) : (handoffEnd s l).MemOk := by
  unfold handoffEnd
  all_goals repeat' first | with_reducible assumption | (with_reducible refine serveAll_memOk _ _ ?_) | (with_reducible refine countHandoffs_memOk _ _ _ ?_) | (with_reducible refine beginAll_memOk _ ?_) | (fail_if_no_progress with_reducible refine memOk_with ?_) | split | dsimp only | (intro _)
theorem homeAccepts_memOk (l : Nat) (obj : Nat) (slot : Nat) (s : State) (h_memOk : s.MemOk) : (homeAccepts l obj slot s).MemOk := by
  unfold homeAccepts
  all_goals repeat' first | with_reducible assumption | (with_reducible refine putHot_memOk _ _ _ ?_) | (with_reducible refine wrData_memOk _ _ _ ?_) | (with_reducible refine handoffEnd_memOk _ _ ?_) | (with_reducible refine memOk_snd (by assumption) ?_) | (with_reducible refine memOk_fst (by assumption) ?_) | (fail_if_no_progress with_reducible refine memOk_with ?_) | split | dsimp only | (intro _)
theorem startChecks_memOk (s : State) (l : Nat) (h_memOk : s.MemOk) : (startChecks s l).MemOk := by
  unfold startChecks
  all_goals repeat' first | with_reducible assumption | (with_reducible refine fenceCut_memOk _ _ ?_) | (with_reducible refine loomUncorr_memOk _ _ _ _ _ _ ?_) | (fail_if_no_progress with_reducible refine memOk_with ?_) | split | dsimp only | (intro _)
theorem startLoom_memOk (s : State) (l : Nat) (h_memOk : s.MemOk) : (startLoom s l).MemOk := by
  unfold startLoom
  all_goals repeat' first | with_reducible assumption | (with_reducible refine writeUnit_memOk _ _ ?_) | (with_reducible refine startChecks_memOk _ _ ?_) | (with_reducible refine modPower_memOk _ _ ?_) | (with_reducible refine holderSelect_memOk _ _ ?_) | (with_reducible refine modLoom_memOk _ _ _ ?_) | (with_reducible refine modWeave_memOk _ _ _ ?_) | (with_reducible refine modTile_memOk _ _ _ ?_) | (with_reducible refine State_foldl_memOk _ (fun _ _ _ => ?_) _ _ ?_) | (with_reducible refine foldl_fst_memOk _ (fun _ _ _ => ?_) _ _ ?_) | (with_reducible refine foldl_snd_memOk _ (fun _ _ _ => ?_) _ _ ?_) | (with_reducible refine memOk_snd (by assumption) ?_) | (with_reducible refine memOk_fst (by assumption) ?_) | (fail_if_no_progress with_reducible refine memOk_with ?_) | split | dsimp only | (intro _)
theorem softExpiry_memOk (s : State) (l : Nat) (h_memOk : s.MemOk) : (softExpiry s l).MemOk := by
  unfold softExpiry
  all_goals repeat' first | with_reducible assumption | (with_reducible refine modLoom_memOk _ _ _ ?_) | (with_reducible refine preemptEval_memOk _ _ ?_) | (fail_if_no_progress with_reducible refine memOk_with ?_) | split | dsimp only | (intro _)
theorem stallRings_memOk (s : State) (l : Nat) (h_memOk : s.MemOk) : (stallRings s l).MemOk := by
  unfold stallRings
  all_goals repeat' first | with_reducible assumption | (with_reducible refine raiseEvt_memOk _ _ _ _ _ _ ?_) | (with_reducible refine modReq_memOk _ _ _ ?_) | (with_reducible refine State_foldl_memOk _ (fun _ _ _ => ?_) _ _ ?_) | (with_reducible refine foldl_fst_memOk _ (fun _ _ _ => ?_) _ _ ?_) | (with_reducible refine foldl_snd_memOk _ (fun _ _ _ => ?_) _ _ ?_) | (fail_if_no_progress with_reducible refine memOk_with ?_) | split | dsimp only | (intro _)
theorem flipBeam_memOk (s : State) (l : Nat) (h_memOk : s.MemOk) : (flipBeam s l).MemOk := by
  unfold flipBeam
  all_goals repeat' first | with_reducible assumption | (with_reducible refine modGen_memOk _ _ _ ?_) | (fail_if_no_progress with_reducible refine memOk_with ?_) | split | dsimp only | (intro _)
theorem selectPrefill_memOk (l : Nat) (pick : Nat) (episode : Bool) (a : List (Nat × Req)) (a' : Selecting) (h_memOk : a'.s.MemOk) : (selectPrefill l pick episode a a').s.MemOk := by
  induction a generalizing a' with
  | nil => exact h_memOk
  | cons x xs ih =>
    rcases x with ⟨x1, x2⟩
    unfold selectPrefill
    repeat' first | with_reducible assumption | (with_reducible refine bobbinRoom_memOk _ _ _ ?_) | (with_reducible refine dropHit_memOk _ _ _ _ ?_) | (with_reducible refine bindPick_memOk _ _ _ _ _ ?_) | (with_reducible refine memOk_sndSelecting (by assumption) ?_) | (with_reducible refine memOk_snd (by assumption) ?_) | (with_reducible refine memOk_fst (by assumption) ?_) | (fail_if_no_progress with_reducible refine memOk_with ?_) | (with_reducible refine ih _ ?_) | split | dsimp only | (intro _)
theorem flipEvict_memOk (s : State) (l : Nat) (old : GenLoom) (h_memOk : s.MemOk) : (flipEvict s l old).MemOk := by
  unfold flipEvict
  all_goals repeat' first | with_reducible assumption | (with_reducible refine evictIf_memOk _ _ _ ?_) | (fail_if_no_progress with_reducible refine memOk_with ?_) | split | dsimp only | (intro _)
theorem selectDecode_memOk (l : Nat) (pick : Nat) (episode : Bool) (a : List (Nat × Req)) (a' : Selecting) (h_memOk : a'.s.MemOk) : (selectDecode l pick episode a a').s.MemOk := by
  induction a generalizing a' with
  | nil => exact h_memOk
  | cons x xs ih =>
    rcases x with ⟨x1, x2⟩
    unfold selectDecode
    repeat' first | with_reducible assumption | (with_reducible refine bobbinRoom_memOk _ _ _ ?_) | (with_reducible refine bindPick_memOk _ _ _ _ _ ?_) | (with_reducible refine memOk_sndSelecting (by assumption) ?_) | (with_reducible refine memOk_snd (by assumption) ?_) | (with_reducible refine memOk_fst (by assumption) ?_) | (fail_if_no_progress with_reducible refine memOk_with ?_) | (with_reducible refine ih _ ?_) | split | dsimp only | (intro _)
theorem writeStep_memOk (s : State) (l : Nat) (pick : Nat) (beam : Option Bool) (rows : List StepRow) (h_memOk : s.MemOk) : (writeStep s l pick beam rows).MemOk := by
  unfold writeStep
  all_goals repeat' first | with_reducible assumption | (with_reducible refine wrN_memOk _ _ _ ?_) | (with_reducible refine modLoom_memOk _ _ _ ?_) | (with_reducible refine drawFree_memOk _ _ ?_) | (with_reducible refine State_foldl_memOk _ (fun _ _ _ => ?_) _ _ ?_) | (with_reducible refine foldl_fst_memOk _ (fun _ _ _ => ?_) _ _ ?_) | (with_reducible refine foldl_snd_memOk _ (fun _ _ _ => ?_) _ _ ?_) | (with_reducible refine memOk_snd (by assumption) ?_) | (with_reducible refine memOk_fst (by assumption) ?_) | (fail_if_no_progress with_reducible refine memOk_with ?_) | split | dsimp only | (intro _)
theorem formStep_memOk (s : State) (l : Nat) (h_memOk : s.MemOk) : (formStep s l).MemOk := by
  unfold formStep
  all_goals repeat' first | with_reducible assumption | (with_reducible refine stallRings_memOk _ _ ?_) | (with_reducible refine flipBeam_memOk _ _ ?_) | (with_reducible refine modGen_memOk _ _ _ ?_) | (with_reducible refine selectPrefill_memOk _ _ _ _ _ ?_) | (with_reducible refine flipEvict_memOk _ _ _ ?_) | (with_reducible refine admitQueue_memOk _ _ _ ?_) | (with_reducible refine selectDecode_memOk _ _ _ _ _ ?_) | (with_reducible refine writeStep_memOk _ _ _ _ _ ?_) | (with_reducible refine memOk_sndSelecting (by assumption) ?_) | (fail_if_no_progress with_reducible refine memOk_with ?_) | split | dsimp only | (intro _)
theorem setPortOf_memOk (s : State) (io : Nat) (x : Port) (h_memOk : s.MemOk) : (setPortOf s io x).MemOk := by
  unfold setPortOf
  all_goals repeat' first | with_reducible assumption | (fail_if_no_progress with_reducible refine memOk_with ?_) | split | dsimp only | (intro _)
theorem loseRouter_memOk (s : State) (die : Nat) (router : Nat) (h_memOk : s.MemOk) : (loseRouter s die router).MemOk := by
  unfold loseRouter
  all_goals repeat' first | with_reducible assumption | (with_reducible refine modSvc_memOk _ _ ?_) | (with_reducible refine loomUncorr_memOk _ _ _ _ _ _ ?_) | (with_reducible refine State_foldl_memOk _ (fun _ _ _ => ?_) _ _ ?_) | (with_reducible refine foldl_fst_memOk _ (fun _ _ _ => ?_) _ _ ?_) | (with_reducible refine foldl_snd_memOk _ (fun _ _ _ => ?_) _ _ ?_) | (fail_if_no_progress with_reducible refine memOk_with ?_) | split | dsimp only | (intro _)
theorem replayFrom_memOk (s : State) (p : Nat) (seq : BitVec 12) (h_memOk : s.MemOk) : (replayFrom s p seq).MemOk := by
  unfold replayFrom
  all_goals repeat' first | with_reducible assumption | (with_reducible refine fabError_memOk _ _ _ _ _ _ ?_) | (with_reducible refine noteCause_memOk _ _ _ _ _ ?_) | (with_reducible refine dropModule_memOk _ _ ?_) | (with_reducible refine countReg_memOk _ _ _ ?_) | (with_reducible refine loseRouter_memOk _ _ _ ?_) | (with_reducible refine setPort_memOk _ _ _ ?_) | (with_reducible refine memOk_snd (by assumption) ?_) | (with_reducible refine memOk_fst (by assumption) ?_) | (fail_if_no_progress with_reducible refine memOk_with ?_) | split | dsimp only | (intro _)
theorem homeLands_memOk (l : Nat) (obj : Nat) (slot : Nat) (poisoned : Bool) (s : State) (h_memOk : s.MemOk) : (homeLands l obj slot poisoned s).MemOk := by
  unfold homeLands
  all_goals repeat' first | with_reducible assumption | (with_reducible refine wrN_memOk _ _ _ ?_) | (with_reducible refine putHot_memOk _ _ _ ?_) | (with_reducible refine meetUnits_memOk _ _ _ ?_) | (with_reducible refine handoffEnd_memOk _ _ ?_) | (with_reducible refine memOk_snd (by assumption) ?_) | (with_reducible refine memOk_fst (by assumption) ?_) | (fail_if_no_progress with_reducible refine memOk_with ?_) | split | dsimp only | (intro _)
theorem fenceLoom_memOk (s : State) (l : Nat) (h_memOk : s.MemOk) : (fenceLoom s l).MemOk := by
  unfold fenceLoom
  all_goals repeat' first | with_reducible assumption | (with_reducible refine clearBays_memOk _ _ ?_) | (with_reducible refine leaveBays_memOk _ _ ?_) | (with_reducible refine fenceIn_memOk _ _ ?_) | (with_reducible refine hotStop_memOk _ _ ?_) | (fail_if_no_progress with_reducible refine memOk_with ?_) | split | dsimp only | (intro _)
theorem splitJob_memOk (s : State) (l : Nat) (inAnchorHalf : Bool) (h_memOk : s.MemOk) : (splitJob s l inAnchorHalf).MemOk := by
  unfold splitJob
  all_goals repeat' first | with_reducible assumption | (with_reducible refine abortColls_memOk _ _ _ ?_) | (with_reducible refine endCkpt_memOk _ _ _ _ ?_) | (with_reducible refine raiseEvt_memOk _ _ _ _ _ _ ?_) | (with_reducible refine modLoom_memOk _ _ _ ?_) | (with_reducible refine fenceLoom_memOk _ _ ?_) | (fail_if_no_progress with_reducible refine memOk_with ?_) | split | dsimp only | (intro _)
theorem landWrite_memOk (s : State) (tile : Nat) (w : Landing) (h_memOk : s.MemOk) : (landWrite s tile w).MemOk := by
  unfold landWrite
  all_goals repeat' first | with_reducible assumption | (with_reducible refine wrN_memOk _ _ _ ?_) | (with_reducible refine drawFree_memOk _ _ ?_) | (with_reducible refine State_foldl_memOk _ (fun _ _ _ => ?_) _ _ ?_) | (with_reducible refine foldl_fst_memOk _ (fun _ _ _ => ?_) _ _ ?_) | (with_reducible refine foldl_snd_memOk _ (fun _ _ _ => ?_) _ _ ?_) | (with_reducible refine memOk_snd (by assumption) ?_) | (with_reducible refine memOk_fst (by assumption) ?_) | (fail_if_no_progress with_reducible refine memOk_with ?_) | split | dsimp only | (intro _)
theorem graceExpiry_memOk (s : State) (l : Nat) (h_memOk : s.MemOk) : (graceExpiry s l).MemOk := by
  unfold graceExpiry
  all_goals repeat' first | with_reducible assumption | (with_reducible refine modLoom_memOk _ _ _ ?_) | (with_reducible refine preemptEval_memOk _ _ ?_) | (fail_if_no_progress with_reducible refine memOk_with ?_) | split | dsimp only | (intro _)
theorem thrumFails_memOk (s : State) (tile : Nat) (group : Nat) (h_memOk : s.MemOk) : (thrumFails s tile group).MemOk := by
  unfold thrumFails
  all_goals repeat' first | with_reducible assumption | (with_reducible refine flipThrum_memOk _ _ _ _ ?_) | (with_reducible refine poisonGroup_memOk _ _ _ _ _ ?_) | (with_reducible refine rebuilt_memOk _ _ _ _ _ ?_) | (with_reducible refine drawFree_memOk _ _ ?_) | (with_reducible refine memOk_snd (by assumption) ?_) | (with_reducible refine memOk_fst (by assumption) ?_) | (fail_if_no_progress with_reducible refine memOk_with ?_) | split | dsimp only | (intro _)
theorem scrubGroup_memOk (s : State) (tile : Nat) (group : Nat) (found : ScrubFinding) (h_memOk : s.MemOk) : (scrubGroup s tile group found).MemOk := by
  unfold scrubGroup
  all_goals repeat' first | with_reducible assumption | (with_reducible refine thrumFails_memOk _ _ _ ?_) | (with_reducible refine poisonGroup_memOk _ _ _ _ _ ?_) | (with_reducible refine flipWord_memOk _ _ _ _ ?_) | (with_reducible refine wordFails_memOk _ _ _ _ ?_) | (with_reducible refine drawFree_memOk _ _ ?_) | (with_reducible refine memOk_snd (by assumption) ?_) | (with_reducible refine memOk_fst (by assumption) ?_) | (fail_if_no_progress with_reducible refine memOk_with ?_) | split | dsimp only | (intro _)
theorem revertBorrow_memOk (s : State) (b : Int) (h_memOk : s.MemOk) : (revertBorrow s b).MemOk := by
  unfold revertBorrow
  all_goals repeat' first | with_reducible assumption | (with_reducible refine modPower_memOk _ _ ?_) | (with_reducible refine raiseEvt_memOk _ _ _ _ _ _ ?_) | (fail_if_no_progress with_reducible refine memOk_with ?_) | split | dsimp only | (intro _)
theorem openSession_memOk (s : State) (w : Accessor) (n : Nat) (slot : Nat) (h_memOk : s.MemOk) : (openSession s w n slot).MemOk := by
  unfold openSession
  all_goals repeat' first | with_reducible assumption | (with_reducible refine raiseEvt_memOk _ _ _ _ _ _ ?_) | (with_reducible refine setSession_memOk _ _ _ ?_) | (with_reducible refine setFn_memOk _ _ _ ?_) | (with_reducible refine setSlot_memOk _ _ _ ?_) | (fail_if_no_progress with_reducible refine memOk_with ?_) | split | dsimp only | (intro _)
theorem respond_memOk (s : State) (w : Accessor) (slot : Nat) (h_memOk : s.MemOk) : (respond s w slot).MemOk := by
  unfold respond
  all_goals repeat' first | with_reducible assumption | (with_reducible refine openSession_memOk _ _ _ _ ?_) | (with_reducible refine authFails_memOk _ _ ?_) | (with_reducible refine raiseEvt_memOk _ _ _ _ _ _ ?_) | (with_reducible refine setFn_memOk _ _ _ ?_) | (fail_if_no_progress with_reducible refine memOk_with ?_) | split | dsimp only | (intro _)
theorem shareOut_memOk (s : State) (otherDies : Nat) (h_memOk : s.MemOk) : (shareOut s otherDies).MemOk := by
  unfold shareOut
  all_goals repeat' first | with_reducible assumption | (with_reducible refine modDie_memOk _ _ _ ?_) | (with_reducible refine modPower_memOk _ _ ?_) | (with_reducible refine State_foldl_memOk _ (fun _ _ _ => ?_) _ _ ?_) | (with_reducible refine foldl_fst_memOk _ (fun _ _ _ => ?_) _ _ ?_) | (with_reducible refine foldl_snd_memOk _ (fun _ _ _ => ?_) _ _ ?_) | (fail_if_no_progress with_reducible refine memOk_with ?_) | split | dsimp only | (intro _)
theorem nextCorr_memOk (s : State) (measured : Nat) (raw : Nat) (h_memOk : s.MemOk) : (nextCorr s measured raw).2.MemOk := by
  unfold nextCorr
  all_goals repeat' first | with_reducible assumption | (with_reducible refine drawFree_memOk _ _ ?_) | (with_reducible refine memOk_snd (by assumption) ?_) | (with_reducible refine memOk_fst (by assumption) ?_) | (fail_if_no_progress with_reducible refine memOk_with ?_) | split | dsimp only | (intro _)
theorem uniformTick_memOk (s : State) (h_memOk : s.MemOk) : (uniformTick s).MemOk := by
  unfold uniformTick
  all_goals repeat' first | with_reducible assumption | (with_reducible refine modDie_memOk _ _ _ ?_) | (with_reducible refine rebind_memOk _ ?_) | (with_reducible refine nominal_memOk _ ?_) | (with_reducible refine State_foldl_memOk _ (fun _ _ _ => ?_) _ _ ?_) | (with_reducible refine foldl_fst_memOk _ (fun _ _ _ => ?_) _ _ ?_) | (with_reducible refine foldl_snd_memOk _ (fun _ _ _ => ?_) _ _ ?_) | (with_reducible refine memOk_snd (by assumption) ?_) | (with_reducible refine memOk_fst (by assumption) ?_) | (fail_if_no_progress with_reducible refine memOk_with ?_) | split | dsimp only | (intro _)
theorem powerTick_memOk (s : State) (m : PowerWindow) (h_memOk : s.MemOk) : (powerTick s m).MemOk := by
  unfold powerTick
  all_goals repeat' first | with_reducible assumption | (with_reducible refine capTick_memOk _ ?_) | (with_reducible refine shareOut_memOk _ _ ?_) | (with_reducible refine balance_memOk _ _ ?_) | (with_reducible refine modPower_memOk _ _ ?_) | (with_reducible refine divergence_memOk _ _ _ ?_) | (with_reducible refine applyCap_memOk _ ?_) | (with_reducible refine nextCorr_memOk _ _ _ ?_) | (with_reducible refine uniformTick_memOk _ ?_) | (with_reducible refine memOk_snd (by assumption) ?_) | (with_reducible refine memOk_fst (by assumption) ?_) | (fail_if_no_progress with_reducible refine memOk_with ?_) | split | dsimp only | (intro _)
theorem sampleEvent_memOk (s : State) (l : Nat) (tile : Nat) (h_memOk : s.MemOk) : (sampleEvent s l tile).MemOk := by
  unfold sampleEvent
  all_goals repeat' first | with_reducible assumption | (with_reducible refine modLoom_memOk _ _ _ ?_) | (with_reducible refine drawFree_memOk _ _ ?_) | (with_reducible refine sendEvt_memOk _ _ ?_) | (with_reducible refine memOk_snd (by assumption) ?_) | (with_reducible refine memOk_fst (by assumption) ?_) | (fail_if_no_progress with_reducible refine memOk_with ?_) | split | dsimp only | (intro _)
theorem sampleRecord_memOk (s : State) (tile : Nat) (strand : Nat) (insn : W64) (h_memOk : s.MemOk) : (sampleRecord s tile strand insn).MemOk := by
  unfold sampleRecord
  all_goals repeat' first | with_reducible assumption | (with_reducible refine objWrite_memOk _ _ _ _ _ ?_) | (with_reducible refine modLoom_memOk _ _ _ ?_) | (with_reducible refine modTile_memOk _ _ _ ?_) | (with_reducible refine sampleEvent_memOk _ _ _ ?_) | (with_reducible refine memOk_snd (by assumption) ?_) | (with_reducible refine memOk_fst (by assumption) ?_) | (fail_if_no_progress with_reducible refine memOk_with ?_) | split | dsimp only | (intro _)
theorem semAcquire_memOk (op : Nat) (wait : Bool) (a : Issuer) (f : FmtD) (s : State) (h_memOk : s.MemOk) : (semAcquire op wait a f s).MemOk := by
  unfold semAcquire
  all_goals repeat' first | with_reducible assumption | (with_reducible refine semStatus_memOk _ _ _ _ ?_) | (with_reducible refine setLoom_memOk _ _ _ ?_) | (with_reducible refine modStrand_memOk _ _ _ ?_) | (with_reducible refine semIssue_memOk _ _ _ _ _ _ ?_ ?_ ?_) | (with_reducible refine preemptEval_memOk _ _ ?_) | (fail_if_no_progress with_reducible refine memOk_with ?_) | split | dsimp only | (intro _)
theorem replayReq_memOk (tile : Nat) (f : Frame) (s : State) (h_memOk : s.MemOk) : (replayReq tile f s).MemOk := by
  unfold replayReq
  all_goals repeat' first | with_reducible assumption | (with_reducible refine linkDown_memOk _ _ ?_) | (with_reducible refine takeDelivered_memOk _ _ ?_) | (with_reducible refine raiseEvt_memOk _ _ _ _ _ _ ?_) | (with_reducible refine sendFrame_memOk _ _ _ _ ?_) | (with_reducible refine modTileOf_memOk _ _ _ _ ?_) | (with_reducible refine loomUncorr_memOk _ _ _ _ _ _ ?_) | (with_reducible refine countReg_memOk _ _ _ ?_) | (with_reducible refine memOk_snd (by assumption) ?_) | (with_reducible refine memOk_fst (by assumption) ?_) | (fail_if_no_progress with_reducible refine memOk_with ?_) | split | dsimp only | (intro _)
theorem opComplete_memOk (s : State) (a : Issuer) (tag : BitVec 16) (kinds : List AsyncKind) (srcs : AsyncOp → List (Nat × Nat)) (dsts : AsyncOp → List (Nat × Nat)) (go : State → Nat → AsyncOp → State × W32 × W64) (h_go : ∀ u0 u1 u2, u0.MemOk → (go u0 u1 u2).1.MemOk) (h_memOk : s.MemOk) : (opComplete s a tag kinds srcs dsts go).MemOk := by
  unfold opComplete
  all_goals repeat' first | with_reducible assumption | (with_reducible refine holdRows_memOk _ _ _ _ ?_) | (with_reducible refine clearVia_memOk _ _ _ _ ?_) | (with_reducible refine spoil_memOk _ _ ?_) | (with_reducible refine meetUnits_memOk _ _ _ ?_) | (with_reducible refine opEnd_memOk _ _ _ _ _ _ ?_) | (with_reducible refine loomUncorr_memOk _ _ _ _ _ _ ?_) | (with_reducible refine holdCopy_memOk _ _ _ ?_) | (with_reducible refine rowsServed_memOk _ _ _ ?_) | (with_reducible refine h_go _ _ _ ?_) | (with_reducible refine State_foldl_memOk _ (fun _ _ _ => ?_) _ _ ?_) | (with_reducible refine foldl_fst_memOk _ (fun _ _ _ => ?_) _ _ ?_) | (with_reducible refine foldl_snd_memOk _ (fun _ _ _ => ?_) _ _ ?_) | (with_reducible refine memOk_snd (by assumption) ?_) | (with_reducible refine memOk_fst (by assumption) ?_) | (fail_if_no_progress with_reducible refine memOk_with ?_) | split | dsimp only | (intro _)
theorem notePivot_memOk (s : State) (l : Nat) (tile : Nat) (strand : Nat) (pw : W32) (h_memOk : s.MemOk) : (notePivot s l tile strand pw).MemOk := by
  unfold notePivot
  all_goals repeat' first | with_reducible assumption | (with_reducible refine raiseEvt_memOk _ _ _ _ _ _ ?_) | (with_reducible refine capture_memOk _ _ _ _ ?_) | (with_reducible refine countHalf_memOk _ _ _ ?_) | (fail_if_no_progress with_reducible refine memOk_with ?_) | split | dsimp only | (intro _)
theorem specRun_memOk (tile : Nat) (s : State) (l : Nat) (o : AsyncOp) (h_memOk : s.MemOk) : (specRun tile s l o).1.MemOk := by
  unfold specRun
  all_goals repeat' first | with_reducible assumption | (with_reducible refine wrN_memOk _ _ _ ?_) | (with_reducible refine notePivot_memOk _ _ _ _ _ ?_) | (with_reducible refine wr_memOk _ _ _ _ ?_) | (with_reducible refine memOk_snd (by assumption) ?_) | (with_reducible refine memOk_fst (by assumption) ?_) | (fail_if_no_progress with_reducible refine memOk_with ?_) | split | dsimp only | (intro _)
theorem expire_memOk (s : State) (e : Nat) (h_memOk : s.MemOk) : (expire s e).MemOk := by
  unfold expire
  all_goals repeat' first | with_reducible assumption | (with_reducible refine endReq_memOk _ _ _ ?_) | (with_reducible refine raiseEvt_memOk _ _ _ _ _ _ ?_) | (with_reducible refine takeEv_memOk _ ?_) | (with_reducible refine modReq_memOk _ _ _ ?_) | (fail_if_no_progress with_reducible refine memOk_with ?_) | split | dsimp only | (intro _)
theorem rmtSend_memOk (s : State) (a : Issuer) (l : Nat) (o : AsyncOp) (h_memOk : s.MemOk) : (rmtSend s a l o).MemOk := by
  unfold rmtSend
  all_goals repeat' first | with_reducible assumption | (with_reducible refine holdRows_memOk _ _ _ _ ?_) | (with_reducible refine send_memOk _ _ ?_) | (with_reducible refine rmtSpoiled_memOk _ _ _ _ _ ?_ (by assumption)) | (with_reducible refine rowsServed_memOk _ _ _ ?_) | (with_reducible refine putOp_memOk _ _ _ _ ?_) | (with_reducible refine memOk_snd (by assumption) ?_) | (with_reducible refine memOk_fst (by assumption) ?_) | (fail_if_no_progress with_reducible refine memOk_with ?_) | split | dsimp only | (intro _)
theorem rmtDrive_memOk (s : State) (tile : Nat) (h_memOk : s.MemOk) : (rmtDrive s tile).MemOk := by
  unfold rmtDrive
  all_goals repeat' first | with_reducible assumption | (with_reducible refine rmtSend_memOk _ _ _ _ ?_) | (with_reducible refine State_foldl_memOk _ (fun _ _ _ => ?_) _ _ ?_) | (with_reducible refine foldl_fst_memOk _ (fun _ _ _ => ?_) _ _ ?_) | (with_reducible refine foldl_snd_memOk _ (fun _ _ _ => ?_) _ _ ?_) | (with_reducible refine memOk_snd (by assumption) ?_) | (with_reducible refine memOk_fst (by assumption) ?_) | (fail_if_no_progress with_reducible refine memOk_with ?_) | split | dsimp only | (intro _)
theorem rmtIssue_memOk (op : Nat) (kind : AsyncKind) (a : Issuer) (f : FmtD) (s : State) (h_memOk : s.MemOk) : (rmtIssue op kind a f s).MemOk := by
  unfold rmtIssue
  all_goals repeat' first | with_reducible assumption | (with_reducible refine rmtDrive_memOk _ _ ?_) | (with_reducible refine asyncIssue_memOk _ _ _ _ _ _ _ _ _ _ _ _ ?_) | (fail_if_no_progress with_reducible refine memOk_with ?_) | split | dsimp only | (intro _)
theorem settleBars_memOk (s : State) (l : Nat) (tile : Nat) (h_memOk : s.MemOk) : (settleBars s l tile).MemOk := by
  unfold settleBars
  all_goals repeat' first | with_reducible assumption | (with_reducible refine barRelease_memOk _ _ _ _ ?_) | (with_reducible refine State_foldl_memOk _ (fun _ _ _ => ?_) _ _ ?_) | (with_reducible refine foldl_fst_memOk _ (fun _ _ _ => ?_) _ _ ?_) | (with_reducible refine foldl_snd_memOk _ (fun _ _ _ => ?_) _ _ ?_) | (with_reducible refine memOk_snd (by assumption) ?_) | (with_reducible refine memOk_fst (by assumption) ?_) | (fail_if_no_progress with_reducible refine memOk_with ?_) | split | dsimp only | (intro _)
theorem pickCopied_memOk (s : State) (k : Nat) (h_memOk : s.MemOk) : (pickCopied s k).MemOk := by
  unfold pickCopied
  all_goals repeat' first | with_reducible assumption | (with_reducible refine putHeader_memOk _ _ _ _ _ ?_) | (with_reducible refine pubIdle_memOk _ _ ?_) | (with_reducible refine modGen_memOk _ _ _ ?_) | (with_reducible refine raiseEvt_memOk _ _ _ _ _ _ ?_) | (with_reducible refine State_foldl_memOk _ (fun _ _ _ => ?_) _ _ ?_) | (with_reducible refine foldl_fst_memOk _ (fun _ _ _ => ?_) _ _ ?_) | (with_reducible refine foldl_snd_memOk _ (fun _ _ _ => ?_) _ _ ?_) | (fail_if_no_progress with_reducible refine memOk_with ?_) | split | dsimp only | (intro _)
theorem stageUnit_memOk (s : State) (a : Issuer) (tag : BitVec 16) (h_memOk : s.MemOk) : (stageUnit s a tag).MemOk := by
  unfold stageUnit
  all_goals repeat' first | with_reducible assumption | (with_reducible refine wrN_memOk _ _ _ ?_) | (with_reducible refine spoil_memOk _ _ ?_) | (with_reducible refine meetUnits_memOk _ _ _ ?_) | (with_reducible refine opEnd_memOk _ _ _ _ _ _ ?_) | (with_reducible refine loomUncorr_memOk _ _ _ _ _ _ ?_) | (with_reducible refine holdCopy_memOk _ _ _ ?_) | (with_reducible refine modTile_memOk _ _ _ ?_) | (with_reducible refine memOk_snd (by assumption) ?_) | (with_reducible refine memOk_fst (by assumption) ?_) | (fail_if_no_progress with_reducible refine memOk_with ?_) | split | dsimp only | (intro _)
theorem weftUnitLands_memOk (s : State) (tile : Nat) (num : Nat) (h_memOk : s.MemOk) : (weftUnitLands s tile num).MemOk := by
  unfold weftUnitLands
  all_goals repeat' first | with_reducible assumption | (with_reducible refine meetUnits_memOk _ _ _ ?_) | (with_reducible refine loomUncorr_memOk _ _ _ _ _ _ ?_) | (with_reducible refine setTile_memOk _ _ _ ?_) | (with_reducible refine memOk_snd (by assumption) ?_) | (with_reducible refine memOk_fst (by assumption) ?_) | (fail_if_no_progress with_reducible refine memOk_with ?_) | split | dsimp only | (intro _)
theorem ppsEdge_memOk (s : State) (errNs : Int) (sinceNs : Nat) (h_memOk : s.MemOk) : (ppsEdge s errNs sinceNs).MemOk := by
  unfold ppsEdge
  all_goals repeat' first | with_reducible assumption | (with_reducible refine edgeAccepted_memOk _ _ _ ?_) | (with_reducible refine modTlm_memOk _ _ ?_) | (fail_if_no_progress with_reducible refine memOk_with ?_) | split | dsimp only | (intro _)
theorem login_memOk (s : State) (pw : List Byte) (h_memOk : s.MemOk) : (login s pw).MemOk := by
  unfold login
  all_goals repeat' first | with_reducible assumption | (with_reducible refine raiseEvt_memOk _ _ _ _ _ _ ?_) | (with_reducible refine modConsole_memOk _ _ ?_) | (fail_if_no_progress with_reducible refine memOk_with ?_) | split | dsimp only | (intro _)
theorem stackTemp_memOk (s : State) (off : Nat) (h_memOk : s.MemOk) : (stackTemp s off).2.MemOk := by
  unfold stackTemp
  all_goals repeat' first | with_reducible assumption | (with_reducible refine drawFree_memOk _ _ ?_) | (with_reducible refine memOk_snd (by assumption) ?_) | (with_reducible refine memOk_fst (by assumption) ?_) | (fail_if_no_progress with_reducible refine memOk_with ?_) | split | dsimp only | (intro _)
theorem regRead_memOk (s : State) (w : Accessor) (off : Nat) (width : Nat) (h_memOk : s.MemOk) : (regRead s w off width).MemOk := by
  unfold regRead
  all_goals repeat' first | with_reducible assumption | (with_reducible refine stackTemp_memOk _ _ ?_) | (with_reducible refine clearRc_memOk _ _ ?_) | (with_reducible refine memOk_snd (by assumption) ?_) | (with_reducible refine memOk_fst (by assumption) ?_) | (fail_if_no_progress with_reducible refine memOk_with ?_) | split | dsimp only | (intro _)
theorem putRange_memOk (s : State) (x : Loom) (obj : Nat) (off : Nat) (elems : Nat) (bs : List Byte) (h_memOk : s.MemOk) : (putRange s x obj off elems bs).MemOk := by
  unfold putRange
  all_goals repeat' first | with_reducible assumption | (with_reducible refine objWrite_memOk _ _ _ _ _ ?_) | (with_reducible refine copyFirst_memOk _ _ _ _ ?_) | (with_reducible refine State_foldl_memOk _ (fun _ _ _ => ?_) _ _ ?_) | (with_reducible refine foldl_fst_memOk _ (fun _ _ _ => ?_) _ _ ?_) | (with_reducible refine foldl_snd_memOk _ (fun _ _ _ => ?_) _ _ ?_) | (with_reducible refine memOk_snd (by assumption) ?_) | (with_reducible refine memOk_fst (by assumption) ?_) | (fail_if_no_progress with_reducible refine memOk_with ?_) | split | dsimp only | (intro _)
theorem restoreRelease_memOk (s : State) (l : Nat) (h_memOk : s.MemOk) : (restoreRelease s l).MemOk := by
  unfold restoreRelease
  all_goals repeat' first | with_reducible assumption | (with_reducible refine endRestore_memOk _ _ _ _ ?_) | (with_reducible refine modLoom_memOk _ _ _ ?_) | (with_reducible refine putRange_memOk _ _ _ _ _ _ ?_) | (with_reducible refine drawFree_memOk _ _ ?_) | (with_reducible refine State_foldl_memOk _ (fun _ _ _ => ?_) _ _ ?_) | (with_reducible refine foldl_fst_memOk _ (fun _ _ _ => ?_) _ _ ?_) | (with_reducible refine foldl_snd_memOk _ (fun _ _ _ => ?_) _ _ ?_) | (with_reducible refine memOk_snd (by assumption) ?_) | (with_reducible refine memOk_fst (by assumption) ?_) | (fail_if_no_progress with_reducible refine memOk_with ?_) | split | dsimp only | (intro _)
theorem preemptLoom_memOk (s : State) (l : Nat) (hard : Bool) (h_memOk : s.MemOk) : (preemptLoom s l hard).MemOk := by
  unfold preemptLoom
  all_goals repeat' first | with_reducible assumption | (with_reducible refine requestPreempt_memOk _ _ _ ?_) | (with_reducible refine modLoom_memOk _ _ _ ?_) | (fail_if_no_progress with_reducible refine memOk_with ?_) | split | dsimp only | (intro _)
theorem freshBobbin_memOk (k : Nat) (init : Nat) (base : Nat) (s : State) (b : BobbinEntry) (h_memOk : s.MemOk) : (freshBobbin k init base s b).MemOk := by
  unfold freshBobbin
  all_goals repeat' first | with_reducible assumption | (with_reducible refine wrData_memOk _ _ _ ?_) | (fail_if_no_progress with_reducible refine memOk_with ?_) | split | dsimp only | (intro _)
theorem freshGen_memOk (s : State) (k : Nat) (init : Nat) (g : GenEntry) (h_memOk : s.MemOk) : (freshGen s k init g).MemOk := by
  unfold freshGen
  all_goals repeat' first | with_reducible assumption | (with_reducible refine putHeader_memOk _ _ _ _ _ ?_) | (with_reducible refine objWrite_memOk _ _ _ _ _ ?_) | (with_reducible refine modGen_memOk _ _ _ ?_) | (fail_if_no_progress with_reducible refine memOk_with ?_) | split | dsimp only | (intro _)
theorem setWeave_memOk (s : State) (p : WeavePlan) (src : List SrcEntry) (h_memOk : s.MemOk) : (setWeave s p src).MemOk := by
  unfold setWeave
  all_goals repeat' first | with_reducible assumption | (with_reducible refine freshBobbin_memOk _ _ _ _ _ ?_) | (with_reducible refine dissolve_memOk _ _ ?_) | (with_reducible refine freshGen_memOk _ _ _ _ ?_) | (with_reducible refine State_foldl_memOk _ (fun _ _ _ => ?_) _ _ ?_) | (with_reducible refine foldl_fst_memOk _ (fun _ _ _ => ?_) _ _ ?_) | (with_reducible refine foldl_snd_memOk _ (fun _ _ _ => ?_) _ _ ?_) | (fail_if_no_progress with_reducible refine memOk_with ?_) | split | dsimp only | (intro _)
theorem shedWeave_memOk (s : State) (sess : Nat) (f : WeaveF) (t : State) (x1 : List Byte) (h_memOk : s.MemOk) : shedWeave s sess f = .ok (t, x1) → t.MemOk := by
  unfold shedWeave
  intro h
  all_goals repeat' first | cases h | split at h | dsimp only at h
  all_goals repeat' first | with_reducible assumption | (with_reducible refine setWeave_memOk _ _ _ ?_) | (with_reducible refine memOk_snd (by assumption) ?_) | (with_reducible refine memOk_fst (by assumption) ?_) | (fail_if_no_progress with_reducible refine memOk_with ?_) | split | dsimp only | (intro _)
theorem firmwareUpdate_memOk (s : State) (i : Image) (h_memOk : s.MemOk) : (firmwareUpdate s i).MemOk := by
  unfold firmwareUpdate
  all_goals repeat' first | with_reducible assumption | (with_reducible refine raiseEvt_memOk _ _ _ _ _ _ ?_) | (with_reducible refine modSvc_memOk _ _ ?_) | (fail_if_no_progress with_reducible refine memOk_with ?_) | split | dsimp only | (intro _)
theorem moderate_memOk (s : State) (n : Nat) (ring : Option Nat) (byTime : Bool) (h_memOk : s.MemOk) : (moderate s n ring byTime).MemOk := by
  unfold moderate
  all_goals repeat' first | with_reducible assumption | (with_reducible refine setSession_memOk _ _ _ ?_) | (with_reducible refine memOk_snd (by assumption) ?_) | (with_reducible refine memOk_fst (by assumption) ?_) | (fail_if_no_progress with_reducible refine memOk_with ?_) | split | dsimp only | (intro _)
theorem lrnUnbind_memOk (s : State) (l : Nat) (recs : List BindRec) (t : State) (x1 : List Byte) (h_memOk : s.MemOk) : lrnUnbind s l recs = .ok (t, x1) → t.MemOk := by
  unfold lrnUnbind
  intro h
  all_goals repeat' first | cases h | split at h | dsimp only at h
  all_goals repeat' first | with_reducible assumption | (with_reducible refine modLoom_memOk _ _ _ ?_) | (with_reducible refine memOk_snd (by assumption) ?_) | (with_reducible refine memOk_fst (by assumption) ?_) | (fail_if_no_progress with_reducible refine memOk_with ?_) | split | dsimp only | (intro _)
theorem flitAck_memOk (s : State) (p : Nat) (seq : BitVec 12) (h_memOk : s.MemOk) : (flitAck s p seq).MemOk := by
  unfold flitAck
  all_goals repeat' first | with_reducible assumption | (with_reducible refine setPort_memOk _ _ _ ?_) | (with_reducible refine memOk_snd (by assumption) ?_) | (with_reducible refine memOk_fst (by assumption) ?_) | (fail_if_no_progress with_reducible refine memOk_with ?_) | split | dsimp only | (intro _)
theorem restoreReport_memOk (s : State) (l : Nat) (box : Nat) (runId : W64) (step : W64) (digest : List Byte) (h_memOk : s.MemOk) : (restoreReport s l box runId step digest).MemOk := by
  unfold restoreReport
  all_goals repeat' first | with_reducible assumption | (with_reducible refine setLoom_memOk _ _ _ ?_) | (with_reducible refine restoreAllIn_memOk _ _ ?_) | (with_reducible refine memOk_snd (by assumption) ?_) | (with_reducible refine memOk_fst (by assumption) ?_) | (fail_if_no_progress with_reducible refine memOk_with ?_) | split | dsimp only | (intro _)
theorem linkFlitIn_memOk (s : State) (d : Nat) (f : WeftFlit) (fecOk : Bool) (h_memOk : s.MemOk) : (linkFlitIn s d f fecOk).MemOk := by
  unfold linkFlitIn
  all_goals repeat' first | with_reducible assumption | (with_reducible refine deliverFlit_memOk _ _ _ ?_) | (with_reducible refine linkLog_memOk _ _ _ _ _ ?_) | (with_reducible refine raiseEvt_memOk _ _ _ _ _ _ ?_) | (with_reducible refine setLink_memOk _ _ _ ?_) | (with_reducible refine countReg_memOk _ _ _ ?_) | (with_reducible refine drawFree_memOk _ _ ?_) | (with_reducible refine memOk_snd (by assumption) ?_) | (with_reducible refine memOk_fst (by assumption) ?_) | (fail_if_no_progress with_reducible refine memOk_with ?_) | split | dsimp only | (intro _)
theorem putBobbinRead_memOk (s : State) (k : Nat) (b : Bobbin) (v : Nat) (h_memOk : s.MemOk) : (putBobbinRead s k b v).MemOk := by
  unfold putBobbinRead
  all_goals repeat' first | with_reducible assumption | (with_reducible refine raiseEvt_memOk _ _ _ _ _ _ ?_) | (with_reducible refine wr_memOk _ _ _ _ ?_) | (fail_if_no_progress with_reducible refine memOk_with ?_) | split | dsimp only | (intro _)
theorem lostInput_memOk (s : State) (inputB : Bool) (v : Nat) (h_memOk : s.MemOk) : (lostInput s inputB v).MemOk := by
  unfold lostInput
  all_goals repeat' first | with_reducible assumption | (with_reducible refine leaveInput_memOk _ _ _ ?_) | (with_reducible refine raiseEvt_memOk _ _ _ _ _ _ ?_) | (fail_if_no_progress with_reducible refine memOk_with ?_) | split | dsimp only | (intro _)
theorem fnWrite_memOk (s : State) (who : Accessor) (o : Nat) (w : RegWrite) (h_memOk : s.MemOk) : (fnWrite s who o w).MemOk := by
  unfold fnWrite
  all_goals repeat' first | with_reducible assumption | (with_reducible refine setFn_memOk _ _ _ ?_) | (with_reducible refine memOk_snd (by assumption) ?_) | (with_reducible refine memOk_fst (by assumption) ?_) | (fail_if_no_progress with_reducible refine memOk_with ?_) | split | dsimp only | (intro _)
theorem tlmWrite_memOk (s : State) (who : Accessor) (off : Nat) (w : RegWrite) (h_memOk : s.MemOk) : (tlmWrite s who off w).MemOk := by
  unfold tlmWrite
  all_goals repeat' first | with_reducible assumption | (with_reducible refine cfgReject_memOk _ ?_) | (with_reducible refine modCtrlWrite_memOk _ _ ?_) | (with_reducible refine modTlm_memOk _ _ ?_) | (with_reducible refine modBlock_memOk _ _ _ ?_) | (fail_if_no_progress with_reducible refine memOk_with ?_) | split | dsimp only | (intro _)
theorem loomWrite_memOk (s : State) (off : Nat) (w : RegWrite) (h_memOk : s.MemOk) : (loomWrite s off w).MemOk := by
  unfold loomWrite
  all_goals repeat' first | with_reducible assumption | (with_reducible refine setReg_memOk _ _ _ ?_) | (with_reducible refine modLoom_memOk _ _ _ ?_) | (with_reducible refine modTile_memOk _ _ _ ?_) | (with_reducible refine memOk_snd (by assumption) ?_) | (with_reducible refine memOk_fst (by assumption) ?_) | (fail_if_no_progress with_reducible refine memOk_with ?_) | split | dsimp only | (intro _)
theorem moduleWrite_memOk (s : State) (off : Nat) (w : RegWrite) (h_memOk : s.MemOk) : (moduleWrite s off w).MemOk := by
  unfold moduleWrite
  all_goals repeat' first | with_reducible assumption | (with_reducible refine setReg_memOk _ _ _ ?_) | (with_reducible refine memOk_snd (by assumption) ?_) | (with_reducible refine memOk_fst (by assumption) ?_) | (fail_if_no_progress with_reducible refine memOk_with ?_) | split | dsimp only | (intro _)
theorem regWrite_memOk (s : State) (who : Accessor) (off : Nat) (width : Nat) (value : W64) (h_memOk : s.MemOk) : (regWrite s who off width value).MemOk := by
  unfold regWrite
  all_goals repeat' first | with_reducible assumption | (with_reducible refine fnWrite_memOk _ _ _ _ ?_) | (with_reducible refine tlmWrite_memOk _ _ _ _ ?_) | (with_reducible refine loomWrite_memOk _ _ _ ?_) | (with_reducible refine moduleWrite_memOk _ _ _ ?_) | (with_reducible refine memOk_snd (by assumption) ?_) | (with_reducible refine memOk_fst (by assumption) ?_) | (fail_if_no_progress with_reducible refine memOk_with ?_) | split | dsimp only | (intro _)
theorem touchMove_memOk (s : State) (l : Nat) (src : Nat) (dst : Nat) (n : Nat) (h_memOk : s.MemOk) : (touchMove s l src dst n).MemOk := by
  unfold touchMove
  all_goals repeat' first | with_reducible assumption | (with_reducible refine touchRange_memOk _ _ _ _ _ ?_) | (fail_if_no_progress with_reducible refine memOk_with ?_) | split | dsimp only | (intro _)
theorem moveBytes_memOk (s : State) (l : Nat) (src : Nat) (dst : Nat) (n : Nat) (h_memOk : s.MemOk) : (moveBytes s l src dst n).MemOk := by
  unfold moveBytes
  all_goals repeat' first | with_reducible assumption | (with_reducible refine writeVia_memOk _ _ _ _ ?_) | (fail_if_no_progress with_reducible refine memOk_with ?_) | split | dsimp only | (intro _)
theorem xferGo_memOk (s : State) (l : Nat) (o : AsyncOp) (h_memOk : s.MemOk) : (xferGo s l o).1.MemOk := by
  unfold xferGo
  all_goals repeat' first | with_reducible assumption | (with_reducible refine ebagGo_memOk _ _ _ ?_) | (with_reducible refine touchMove_memOk _ _ _ _ _ ?_) | (with_reducible refine moveBytes_memOk _ _ _ _ _ ?_) | (with_reducible refine State_foldl_memOk _ (fun _ _ _ => ?_) _ _ ?_) | (with_reducible refine foldl_fst_memOk _ (fun _ _ _ => ?_) _ _ ?_) | (with_reducible refine foldl_snd_memOk _ (fun _ _ _ => ?_) _ _ ?_) | (fail_if_no_progress with_reducible refine memOk_with ?_) | split | dsimp only | (intro _)
theorem putElem_memOk (s : State) (base : Nat) (fmt : Nat) (pos : Nat) (v : Nat) (h_memOk : s.MemOk) : (putElem s base fmt pos v).MemOk := by
  unfold putElem
  all_goals repeat' first | with_reducible assumption | (with_reducible refine wrN_memOk _ _ _ ?_) | (with_reducible refine wr_memOk _ _ _ _ ?_) | (fail_if_no_progress with_reducible refine memOk_with ?_) | split | dsimp only | (intro _)
theorem wcopyGo_memOk (s : State) (l : Nat) (o : AsyncOp) (h_memOk : s.MemOk) : (wcopyGo s l o).MemOk := by
  unfold wcopyGo
  all_goals repeat' first | with_reducible assumption | (with_reducible refine putElem_memOk _ _ _ _ _ ?_) | (with_reducible refine wr_memOk _ _ _ _ ?_) | (with_reducible refine State_foldl_memOk _ (fun _ _ _ => ?_) _ _ ?_) | (with_reducible refine foldl_fst_memOk _ (fun _ _ _ => ?_) _ _ ?_) | (with_reducible refine foldl_snd_memOk _ (fun _ _ _ => ?_) _ _ ?_) | (with_reducible refine memOk_snd (by assumption) ?_) | (with_reducible refine memOk_fst (by assumption) ?_) | (fail_if_no_progress with_reducible refine memOk_with ?_) | split | dsimp only | (intro _)
theorem flitIn_memOk (s : State) (p : Nat) (f : FabFlit) (h_memOk : s.MemOk) : (flitIn s p f).MemOk := by
  unfold flitIn
  all_goals repeat' first | with_reducible assumption | (with_reducible refine sendFlit_memOk _ _ _ _ ?_) | (with_reducible refine enterFlit_memOk _ _ _ ?_) | (with_reducible refine setPort_memOk _ _ _ ?_) | (with_reducible refine memOk_snd (by assumption) ?_) | (with_reducible refine memOk_fst (by assumption) ?_) | (fail_if_no_progress with_reducible refine memOk_with ?_) | split | dsimp only | (intro _)
theorem runEntry_memOk (l : Nat) (e : RunEntry) (s : State) (h_memOk : s.MemOk) : (runEntry l e s).MemOk := by
  unfold runEntry
  all_goals repeat' first | with_reducible assumption | (with_reducible refine dobbyCpl_memOk _ _ _ _ ?_) | (with_reducible refine raiseEvt_memOk _ _ _ _ _ _ ?_) | (with_reducible refine modLoom_memOk _ _ _ ?_) | (with_reducible refine takeEntry_memOk _ _ _ _ ?_) | (with_reducible refine modTile_memOk _ _ _ ?_) | (with_reducible refine State_foldl_memOk _ (fun _ _ _ => ?_) _ _ ?_) | (with_reducible refine foldl_fst_memOk _ (fun _ _ _ => ?_) _ _ ?_) | (with_reducible refine foldl_snd_memOk _ (fun _ _ _ => ?_) _ _ ?_) | (fail_if_no_progress with_reducible refine memOk_with ?_) | split | dsimp only | (intro _)
theorem rejoin_memOk (s : State) (l : Nat) (h_memOk : s.MemOk) : (rejoin s l).MemOk := by
  unfold rejoin
  all_goals repeat' first | with_reducible assumption | (with_reducible refine serveSem_memOk _ _ ?_) | (with_reducible refine serveLoomSem_memOk _ _ _ ?_) | (with_reducible refine modLoom_memOk _ _ _ ?_) | (with_reducible refine semDone_memOk _ _ _ ?_) | (with_reducible refine State_foldl_memOk _ (fun _ _ _ => ?_) _ _ ?_) | (with_reducible refine foldl_fst_memOk _ (fun _ _ _ => ?_) _ _ ?_) | (with_reducible refine foldl_snd_memOk _ (fun _ _ _ => ?_) _ _ ?_) | (with_reducible refine memOk_snd (by assumption) ?_) | (with_reducible refine memOk_fst (by assumption) ?_) | (fail_if_no_progress with_reducible refine memOk_with ?_) | split | dsimp only | (intro _)
theorem putCells_wf (cs : List Host.Cell) (m : List Host.Cell) (h : Memory.wf m = true) : Memory.wf (cs.foldl (fun m c => memSet m c.1 c.2) m) = true := by
  induction cs generalizing m with
  | nil => exact h
  | cons c cs ih => exact ih _ (memSet_wf _ _ h)
theorem restoreDone_memOk (s : State) (l : Nat) (us : Nat) (h_memOk : s.MemOk) : (restoreDone s l us).MemOk := by
  unfold restoreDone
  dsimp only
  split
  · refine rejoin_memOk _ _ (takeUp_memOk _ _ (modLoom_memOk _ _ _ (State_foldl_memOk _ (fun _ _ h => modTile_memOk _ _ _ h) _ _ ?_)))
    have hc := clearBays_memOk s (getLoom s l).bays h_memOk
    exact ⟨putCells_wf _ _ hc.mem, hc.hostMem⟩
  · exact h_memOk
theorem xferFrom_memOk (s : State) (sess : Nat) (ring : Nat) (l : Nat) (host : W64) (dev : W64) (len : Nat) (h_memOk : s.MemOk) : (xferFrom s sess ring l host dev len).MemOk := by
  unfold xferFrom
  all_goals repeat' first | with_reducible assumption | (with_reducible refine holdRows_memOk _ _ _ _ ?_) | (with_reducible refine finish_memOk _ _ _ _ _ ?_) | (with_reducible refine meetUnits_memOk _ _ _ ?_) | (with_reducible refine touchRange_memOk _ _ _ _ _ ?_) | (with_reducible refine hostWr_memOk _ _ _ ?_) | (with_reducible refine drawFree_memOk _ _ ?_) | (with_reducible refine rowsServed_memOk _ _ _ ?_) | (with_reducible refine memOk_snd (by assumption) ?_) | (with_reducible refine memOk_fst (by assumption) ?_) | (fail_if_no_progress with_reducible refine memOk_with ?_) | split | dsimp only | (intro _)
theorem timebaseSet_memOk (s : State) (mode : Option Bool) (offsetNs : Option Int) (seconds : Option W64) (h_memOk : s.MemOk) : (timebaseSet s mode offsetNs seconds).MemOk := by
  unfold timebaseSet
  all_goals repeat' first | with_reducible assumption | (with_reducible refine raiseEvt_memOk _ _ _ _ _ _ ?_) | (with_reducible refine modTlm_memOk _ _ ?_) | (with_reducible refine memOk_snd (by assumption) ?_) | (with_reducible refine memOk_fst (by assumption) ?_) | (fail_if_no_progress with_reducible refine memOk_with ?_) | split | dsimp only | (intro _)
theorem keySlotWrite_memOk (s : State) (slot : Nat) (w : SlotWrite) (h_memOk : s.MemOk) : (keySlotWrite s slot w).MemOk := by
  unfold keySlotWrite
  all_goals repeat' first | with_reducible assumption | (with_reducible refine closeWhere_memOk _ _ ?_) | (with_reducible refine setSlot_memOk _ _ _ ?_) | (with_reducible refine memOk_snd (by assumption) ?_) | (with_reducible refine memOk_fst (by assumption) ?_) | (fail_if_no_progress with_reducible refine memOk_with ?_) | split | dsimp only | (intro _)
theorem rmtPark_memOk (s : State) (l : Nat) (a : Issuer) (o : AsyncOp) (st : Byte) (data : List Byte) (h_memOk : s.MemOk) : (rmtPark s l a o st data).MemOk := by
  unfold rmtPark
  all_goals repeat' first | with_reducible assumption | (with_reducible refine modLoom_memOk _ _ _ ?_) | (with_reducible refine parkWrite_memOk _ _ _ _ ?_) | (with_reducible refine putOp_memOk _ _ _ _ ?_) | (fail_if_no_progress with_reducible refine memOk_with ?_) | split | dsimp only | (intro _)
theorem rmtLand_memOk (s : State) (l : Nat) (a : Issuer) (o : AsyncOp) (st : Byte) (data : List Byte) (h_memOk : s.MemOk) : (rmtLand s l a o st data).MemOk := by
  unfold rmtLand
  all_goals repeat' first | with_reducible assumption | (with_reducible refine rmtEnd_memOk _ _ _ _ ?_) | (with_reducible refine holdRows_memOk _ _ _ _ ?_) | (with_reducible refine spoil_memOk _ _ ?_) | (with_reducible refine touchRange_memOk _ _ _ _ _ ?_) | (with_reducible refine loomUncorr_memOk _ _ _ _ _ _ ?_) | (with_reducible refine holdCopy_memOk _ _ _ ?_) | (with_reducible refine writeVia_memOk _ _ _ _ ?_) | (with_reducible refine rowsServed_memOk _ _ _ ?_) | (with_reducible refine memOk_snd (by assumption) ?_) | (with_reducible refine memOk_fst (by assumption) ?_) | (fail_if_no_progress with_reducible refine memOk_with ?_) | split | dsimp only | (intro _)
theorem rmtBack_memOk (s : State) (a : Issuer) (tag : BitVec 16) (st : Byte) (data : List Byte) (h_memOk : s.MemOk) : (rmtBack s a tag st data).MemOk := by
  unfold rmtBack
  all_goals repeat' first | with_reducible assumption | (with_reducible refine rmtEnd_memOk _ _ _ _ ?_) | (with_reducible refine rmtPark_memOk _ _ _ _ _ _ ?_) | (with_reducible refine rmtLand_memOk _ _ _ _ _ _ ?_) | (with_reducible refine memOk_snd (by assumption) ?_) | (with_reducible refine memOk_fst (by assumption) ?_) | (fail_if_no_progress with_reducible refine memOk_with ?_) | split | dsimp only | (intro _)
theorem startPorts_memOk (s : State) (f : StartFinding) (h_memOk : s.MemOk) : (startPorts s f).MemOk := by
  unfold startPorts
  all_goals repeat' first | with_reducible assumption | (with_reducible refine State_foldl_memOk _ (fun _ _ _ => ?_) _ _ ?_) | (with_reducible refine foldl_fst_memOk _ (fun _ _ _ => ?_) _ _ ?_) | (with_reducible refine foldl_snd_memOk _ (fun _ _ _ => ?_) _ _ ?_) | (fail_if_no_progress with_reducible refine memOk_with ?_) | split | dsimp only | (intro _)
theorem sendCoord_memOk (s : State) (d : Nat) (h_memOk : s.MemOk) : (sendCoord s d).MemOk := by
  unfold sendCoord
  all_goals repeat' first | with_reducible assumption | (with_reducible refine send_memOk _ _ ?_) | (fail_if_no_progress with_reducible refine memOk_with ?_) | split | dsimp only | (intro _)
theorem putLane_memOk (s : State) (f : LaneFinding) (h_memOk : s.MemOk) : (putLane s f).MemOk := by
  unfold putLane
  all_goals repeat' first | with_reducible assumption | (with_reducible refine setReg_memOk _ _ _ ?_) | (fail_if_no_progress with_reducible refine memOk_with ?_) | split | dsimp only | (intro _)
theorem startLinks_memOk (s : State) (f : StartFinding) (h_memOk : s.MemOk) : (startLinks s f).MemOk := by
  unfold startLinks
  all_goals repeat' first | with_reducible assumption | (with_reducible refine setReg_memOk _ _ _ ?_) | (with_reducible refine coordCheck_memOk _ _ _ ?_) | (with_reducible refine sendCoord_memOk _ _ ?_) | (with_reducible refine putLane_memOk _ _ ?_) | (with_reducible refine State_foldl_memOk _ (fun _ _ _ => ?_) _ _ ?_) | (with_reducible refine foldl_fst_memOk _ (fun _ _ _ => ?_) _ _ ?_) | (with_reducible refine foldl_snd_memOk _ (fun _ _ _ => ?_) _ _ ?_) | (fail_if_no_progress with_reducible refine memOk_with ?_) | split | dsimp only | (intro _)
theorem startFabric_memOk (s : State) (f : StartFinding) (h_memOk : s.MemOk) : (startFabric s f).MemOk := by
  unfold startFabric
  all_goals repeat' first | with_reducible assumption | (with_reducible refine setReg_memOk _ _ _ ?_) | (with_reducible refine State_foldl_memOk _ (fun _ _ _ => ?_) _ _ ?_) | (with_reducible refine foldl_fst_memOk _ (fun _ _ _ => ?_) _ _ ?_) | (with_reducible refine foldl_snd_memOk _ (fun _ _ _ => ?_) _ _ ?_) | (fail_if_no_progress with_reducible refine memOk_with ?_) | split | dsimp only | (intro _)
theorem startDies_memOk (s : State) (f : StartFinding) (h_memOk : s.MemOk) : (startDies s f).MemOk := by
  unfold startDies
  all_goals repeat' first | with_reducible assumption | (with_reducible refine modDie_memOk _ _ _ ?_) | (with_reducible refine modSvc_memOk _ _ ?_) | (with_reducible refine State_foldl_memOk _ (fun _ _ _ => ?_) _ _ ?_) | (with_reducible refine foldl_fst_memOk _ (fun _ _ _ => ?_) _ _ ?_) | (with_reducible refine foldl_snd_memOk _ (fun _ _ _ => ?_) _ _ ?_) | (fail_if_no_progress with_reducible refine memOk_with ?_) | split | dsimp only | (intro _)
theorem startUp_memOk (s : State) (f : StartFinding) (h_memOk : s.MemOk) : (startUp s f).MemOk := by
  unfold startUp
  all_goals repeat' first | with_reducible assumption | (with_reducible refine startPorts_memOk _ _ ?_) | (with_reducible refine startLinks_memOk _ _ ?_) | (with_reducible refine startFabric_memOk _ _ ?_) | (with_reducible refine startDies_memOk _ _ ?_) | (with_reducible refine modSvc_memOk _ _ ?_) | (with_reducible refine modTlm_memOk _ _ ?_) | (with_reducible refine toRecovery_memOk _ ?_) | (with_reducible refine applyCap_memOk _ ?_) | (with_reducible refine memOk_snd (by assumption) ?_) | (with_reducible refine memOk_fst (by assumption) ?_) | (fail_if_no_progress with_reducible refine memOk_with ?_) | split | dsimp only | (intro _)
theorem installModes_memOk (s : State) (l : Nat) (h_memOk : s.MemOk) : (installModes s l).MemOk := by
  unfold installModes
  all_goals repeat' first | with_reducible assumption | (with_reducible refine beginHeld_memOk _ _ ?_) | (with_reducible refine raiseEvt_memOk _ _ _ _ _ _ ?_) | (with_reducible refine modLoom_memOk _ _ _ ?_) | (fail_if_no_progress with_reducible refine memOk_with ?_) | split | dsimp only | (intro _)
theorem orderChange_memOk (s : State) (l : Nat) (down : BoxLinks) (started : List (Nat × Nat)) (installed : Bool) (h_memOk : s.MemOk) : (orderChange s l down started installed).MemOk := by
  unfold orderChange
  all_goals repeat' first | with_reducible assumption | (with_reducible refine chooseModes_memOk _ _ _ _ _ ?_ (by assumption)) | (with_reducible refine installModes_memOk _ _ ?_) | (with_reducible refine memOk_snd (by assumption) ?_) | (with_reducible refine memOk_fst (by assumption) ?_) | (fail_if_no_progress with_reducible refine memOk_with ?_) | split | dsimp only | (intro _)
theorem replayOne_memOk (recovered : Bool) (s : State) (addr : Nat) (h_memOk : s.MemOk) : (replayOne recovered s addr).MemOk := by
  unfold replayOne
  all_goals repeat' first | with_reducible assumption | (with_reducible refine memError_memOk _ _ _ _ _ _ _ _ _ ?_) | (with_reducible refine noteCause_memOk _ _ _ _ _ ?_) | (with_reducible refine countReg_memOk _ _ _ ?_) | (fail_if_no_progress with_reducible refine memOk_with ?_) | split | dsimp only | (intro _)
theorem srvConfig_memOk (s : State) (l : Nat) (f : SrvConfigF) (t : State) (x1 : List Byte) (h_memOk : s.MemOk) : srvConfig s l f = .ok (t, x1) → t.MemOk := by
  unfold srvConfig
  intro h
  all_goals repeat' first | cases h | split at h | dsimp only at h
  all_goals repeat' first | with_reducible assumption | (with_reducible refine evictDown_memOk _ _ _ ?_) | (with_reducible refine setLoom_memOk _ _ _ ?_) | (fail_if_no_progress with_reducible refine memOk_with ?_) | split | dsimp only | (intro _)
theorem tlmConfig_memOk (s : State) (l : Nat) (f : TlmConfigF) (t : State) (x1 : List Byte) (h_memOk : s.MemOk) : tlmConfig s l f = .ok (t, x1) → t.MemOk := by
  unfold tlmConfig
  intro h
  all_goals repeat' first | cases h | split at h | dsimp only at h
  all_goals repeat' first | with_reducible assumption | (with_reducible refine setLoom_memOk _ _ _ ?_) | (with_reducible refine modTile_memOk _ _ _ ?_) | (with_reducible refine State_foldl_memOk _ (fun _ _ _ => ?_) _ _ ?_) | (with_reducible refine foldl_fst_memOk _ (fun _ _ _ => ?_) _ _ ?_) | (with_reducible refine foldl_snd_memOk _ (fun _ _ _ => ?_) _ _ ?_) | (fail_if_no_progress with_reducible refine memOk_with ?_) | split | dsimp only | (intro _)
theorem stackFails_memOk (s : State) (n : Nat) (h_memOk : s.MemOk) : (stackFails s n).MemOk := by
  unfold stackFails
  all_goals repeat' first | with_reducible assumption | (with_reducible refine setReg_memOk _ _ _ ?_) | (with_reducible refine loomUncorr_memOk _ _ _ _ _ _ ?_) | (with_reducible refine State_foldl_memOk _ (fun _ _ _ => ?_) _ _ ?_) | (with_reducible refine foldl_fst_memOk _ (fun _ _ _ => ?_) _ _ ?_) | (with_reducible refine foldl_snd_memOk _ (fun _ _ _ => ?_) _ _ ?_) | (fail_if_no_progress with_reducible refine memOk_with ?_) | split | dsimp only | (intro _)
theorem reqFull_memOk (s : State) (l : Nat) (h_memOk : s.MemOk) : (reqFull s l).MemOk := by
  unfold reqFull
  all_goals repeat' first | with_reducible assumption | (with_reducible refine raiseEvt_memOk _ _ _ _ _ _ ?_) | (with_reducible refine modSrv_memOk _ _ _ ?_) | (fail_if_no_progress with_reducible refine memOk_with ?_) | split | dsimp only | (intro _)
theorem submit_memOk (s : State) (sess : Nat) (ring : Nat) (d : SubmitDesc) (prompt : List W32) (h_memOk : s.MemOk) : (submit s sess ring d prompt).MemOk := by
  unfold submit
  all_goals repeat' first | with_reducible assumption | (with_reducible refine finishWith_memOk _ _ _ _ _ ?_) | (with_reducible refine finish_memOk _ _ _ _ _ ?_) | (with_reducible refine admitReq_memOk _ _ _ _ _ ?_) | (with_reducible refine reqFull_memOk _ _ ?_) | (with_reducible refine admitNow_memOk _ _ ?_) | (with_reducible refine memOk_snd (by assumption) ?_) | (with_reducible refine memOk_fst (by assumption) ?_) | (fail_if_no_progress with_reducible refine memOk_with ?_) | split | dsimp only | (intro _)
theorem retrainDir_memOk (found : List LaneFinding) (s : State) (d : Nat) (h_memOk : s.MemOk) : (retrainDir found s d).MemOk := by
  unfold retrainDir
  all_goals repeat' first | with_reducible assumption | (with_reducible refine relane_memOk _ _ ?_) | (with_reducible refine setLink_memOk _ _ _ ?_) | (with_reducible refine sendCoord_memOk _ _ ?_) | (with_reducible refine putLane_memOk _ _ ?_) | (with_reducible refine State_foldl_memOk _ (fun _ _ _ => ?_) _ _ ?_) | (with_reducible refine foldl_fst_memOk _ (fun _ _ _ => ?_) _ _ ?_) | (with_reducible refine foldl_snd_memOk _ (fun _ _ _ => ?_) _ _ ?_) | (fail_if_no_progress with_reducible refine memOk_with ?_) | split | dsimp only | (intro _)
theorem stackReturn_memOk (s : State) (addr : Nat) (report : EccReport) (consumer : Option Nat) (h_memOk : s.MemOk) : (stackReturn s addr report consumer).MemOk := by
  unfold stackReturn
  all_goals repeat' first | with_reducible assumption | (with_reducible refine memError_memOk _ _ _ _ _ _ _ _ _ ?_) | (with_reducible refine noteCause_memOk _ _ _ _ _ ?_) | (with_reducible refine loomUncorr_memOk _ _ _ _ _ _ ?_) | (with_reducible refine reportUncorr_memOk _ _ _ ?_) | (with_reducible refine countReg_memOk _ _ _ ?_) | (with_reducible refine memOk_snd (by assumption) ?_) | (with_reducible refine memOk_fst (by assumption) ?_) | (fail_if_no_progress with_reducible refine memOk_with ?_) | split | dsimp only | (intro _)
theorem stopBoundary_memOk (s : State) (l : Nat) (h_memOk : s.MemOk) : (stopBoundary s l).MemOk := by
  unfold stopBoundary
  all_goals repeat' first | with_reducible assumption | (with_reducible refine endAllReqs_memOk _ _ _ ?_) | (with_reducible refine endRestore_memOk _ _ _ _ ?_) | (with_reducible refine endCkpt_memOk _ _ _ _ ?_) | (with_reducible refine modLoom_memOk _ _ _ ?_) | (with_reducible refine stopIdle_memOk _ _ ?_) | (with_reducible refine memOk_snd (by assumption) ?_) | (with_reducible refine memOk_fst (by assumption) ?_) | (fail_if_no_progress with_reducible refine memOk_with ?_) | split | dsimp only | (intro _)
theorem loomStopped_memOk (s : State) (l : Nat) (h_memOk : s.MemOk) : (loomStopped s l).MemOk := by
  unfold loomStopped
  all_goals repeat' first | with_reducible assumption | (with_reducible refine stopNow_memOk _ _ ?_) | (fail_if_no_progress with_reducible refine memOk_with ?_) | split | dsimp only | (intro _)
theorem frameTick_memOk (s : State) (h_memOk : s.MemOk) : (frameTick s).MemOk := by
  unfold frameTick
  all_goals repeat' first | with_reducible assumption | (with_reducible refine driveFrames_memOk _ _ ?_) | (with_reducible refine State_foldl_memOk _ (fun _ _ _ => ?_) _ _ ?_) | (with_reducible refine foldl_fst_memOk _ (fun _ _ _ => ?_) _ _ ?_) | (with_reducible refine foldl_snd_memOk _ (fun _ _ _ => ?_) _ _ ?_) | (fail_if_no_progress with_reducible refine memOk_with ?_) | split | dsimp only | (intro _)
theorem rmtTick_memOk (s : State) (h_memOk : s.MemOk) : (rmtTick s).MemOk := by
  unfold rmtTick
  all_goals repeat' first | with_reducible assumption | (with_reducible refine rmtDrive_memOk _ _ ?_) | (with_reducible refine State_foldl_memOk _ (fun _ _ _ => ?_) _ _ ?_) | (with_reducible refine foldl_fst_memOk _ (fun _ _ _ => ?_) _ _ ?_) | (with_reducible refine foldl_snd_memOk _ (fun _ _ _ => ?_) _ _ ?_) | (fail_if_no_progress with_reducible refine memOk_with ?_) | split | dsimp only | (intro _)
theorem serveTick_memOk (s : State) (h_memOk : s.MemOk) : (serveTick s).MemOk := by
  unfold serveTick
  all_goals repeat' first | with_reducible assumption | (with_reducible refine commitOne_memOk _ _ ?_) | (with_reducible refine State_foldl_memOk _ (fun _ _ _ => ?_) _ _ ?_) | (with_reducible refine foldl_fst_memOk _ (fun _ _ _ => ?_) _ _ ?_) | (with_reducible refine foldl_snd_memOk _ (fun _ _ _ => ?_) _ _ ?_) | (fail_if_no_progress with_reducible refine memOk_with ?_) | split | dsimp only | (intro _)
theorem tick_memOk (s : State) (h_memOk : s.MemOk) : (tick s).MemOk := by
  unfold tick
  all_goals repeat' first | with_reducible assumption | (with_reducible refine modTlm_memOk _ _ ?_) | (with_reducible refine drawFree_memOk _ _ ?_) | (with_reducible refine memOk_snd (by assumption) ?_) | (with_reducible refine memOk_fst (by assumption) ?_) | (fail_if_no_progress with_reducible refine memOk_with ?_) | split | dsimp only | (intro _)
theorem mtxTick_memOk (s : State) (tile : Nat) (h_memOk : s.MemOk) : (mtxTick s tile).MemOk := by
  unfold mtxTick
  all_goals repeat' first | with_reducible assumption | (with_reducible refine setTile_memOk _ _ _ ?_) | (with_reducible refine State_foldl_memOk _ (fun _ _ _ => ?_) _ _ ?_) | (with_reducible refine foldl_fst_memOk _ (fun _ _ _ => ?_) _ _ ?_) | (with_reducible refine foldl_snd_memOk _ (fun _ _ _ => ?_) _ _ ?_) | (with_reducible refine memOk_snd (by assumption) ?_) | (with_reducible refine memOk_fst (by assumption) ?_) | (fail_if_no_progress with_reducible refine memOk_with ?_) | split | dsimp only | (intro _)
theorem mtxTicks_memOk (s : State) (h_memOk : s.MemOk) : (mtxTicks s).MemOk := by
  unfold mtxTicks
  all_goals repeat' first | with_reducible assumption | (with_reducible refine mtxTick_memOk _ _ ?_) | (with_reducible refine State_foldl_memOk _ (fun _ _ _ => ?_) _ _ ?_) | (with_reducible refine foldl_fst_memOk _ (fun _ _ _ => ?_) _ _ ?_) | (with_reducible refine foldl_snd_memOk _ (fun _ _ _ => ?_) _ _ ?_) | (fail_if_no_progress with_reducible refine memOk_with ?_) | split | dsimp only | (intro _)
theorem workTick_memOk (s : State) (h_memOk : s.MemOk) : (workTick s).MemOk := by
  unfold workTick
  all_goals repeat' first | with_reducible assumption | (with_reducible refine frameTick_memOk _ ?_) | (with_reducible refine rmtTick_memOk _ ?_) | (with_reducible refine serveTick_memOk _ ?_) | (with_reducible refine tick_memOk _ ?_) | (with_reducible refine mtxTicks_memOk _ ?_) | (fail_if_no_progress with_reducible refine memOk_with ?_) | split | dsimp only | (intro _)
theorem idle_memOk (s : State) (h_memOk : s.MemOk) : (idle s).MemOk := by
  unfold idle
  all_goals repeat' first | with_reducible assumption | (with_reducible refine alive_memOk _ _ ?_ ?_) | (with_reducible refine workTick_memOk _ ?_) | (fail_if_no_progress with_reducible refine memOk_with ?_) | split | dsimp only | (intro _)
end Sys2Proof.Machine
end

