-- ==== Sys2Proof/Laws/MemSame.lean ====
section
/-! SUPPORT. The shared operations that leave device memory as it is: one lemma for each, in the order in which they call one another. -/
namespace Sys2Proof.Machine
open Sys2Proof
set_option linter.unusedTactic false
set_option linter.unreachableTactic false
set_option linter.unusedSimpArgs false
theorem State_foldl_mem {α : Type} (g : State → α → State) (hg : ∀ s x, (g s x).mem = s.mem) (l : List α) (s : State) : (l.foldl g s).mem = s.mem := by
  induction l generalizing s with
  | nil => rfl
  | cons x l ih => simp only [List.foldl_cons, ih, hg]
theorem CollOut_foldl_mem {α : Type} (g : CollOut → α → CollOut) (hg : ∀ s x, (g s x).s.mem = s.s.mem) (l : List α) (s : CollOut) : (l.foldl g s).s.mem = s.s.mem := by
  induction l generalizing s with
  | nil => rfl
  | cons x l ih => simp only [List.foldl_cons, ih, hg]
theorem Lay_foldl_mem {α : Type} (g : Lay → α → Lay) (hg : ∀ s x, (g s x).s.mem = s.s.mem) (l : List α) (s : Lay) : (l.foldl g s).s.mem = s.s.mem := by
  induction l generalizing s with
  | nil => rfl
  | cons x l ih => simp only [List.foldl_cons, ih, hg]
theorem Selecting_foldl_mem {α : Type} (g : Selecting → α → Selecting) (hg : ∀ s x, (g s x).s.mem = s.s.mem) (l : List α) (s : Selecting) : (l.foldl g s).s.mem = s.s.mem := by
  induction l generalizing s with
  | nil => rfl
  | cons x l ih => simp only [List.foldl_cons, ih, hg]
theorem snd_mem {α : Type} {p : α × State} {a : α} {t : State} (h : p = (a, t)) : t.mem = p.2.mem := by rw [h]
theorem fst_mem {α : Type} {p : State × α} {a : α} {t : State} (h : p = (t, a)) : t.mem = p.1.mem := by rw [h]
@[simp] theorem State_withFetchWord_mem (s : State) (nbits : Nat) (w : Nat) : (State.withFetchWord s nbits w).mem = s.mem := by
  unfold State.withFetchWord
  all_goals repeat' first | with_reducible rfl | dsimp only | with_reducible refine Eq.trans (snd_mem (by assumption)) ?_ | with_reducible refine Eq.trans (fst_mem (by assumption)) ?_ | split
@[simp] theorem modGen_mem (s : State) (l : Nat) (f : GenLoom → GenLoom) : (modGen s l f).mem = s.mem := by
  unfold modGen
  all_goals repeat' first | with_reducible rfl | simp only [modLoom_mem] | split | dsimp only
@[simp] theorem evtToSession_mem (s : State) (n : Nat) (e : EvtRec) : (evtToSession s n e).mem = s.mem := by
  unfold evtToSession
  all_goals repeat' first | with_reducible rfl | simp only [hostWr_mem, setSession_mem] | with_reducible refine Eq.trans (snd_mem (by assumption)) ?_ | with_reducible refine Eq.trans (fst_mem (by assumption)) ?_ | split | dsimp only
@[simp] theorem sendEvt_mem (s : State) (e : EvtRec) : (sendEvt s e).mem = s.mem := by
  unfold sendEvt
  all_goals repeat' first | with_reducible rfl | simp only [evtToSession_mem] | with_reducible refine Eq.trans (State_foldl_mem _ (fun _ _ => ?_) _ _) ?_ | with_reducible refine Eq.trans (CollOut_foldl_mem _ (fun _ _ => ?_) _ _) ?_ | with_reducible refine Eq.trans (Lay_foldl_mem _ (fun _ _ => ?_) _ _) ?_ | with_reducible refine Eq.trans (Selecting_foldl_mem _ (fun _ _ => ?_) _ _) ?_ | with_reducible refine Eq.trans (snd_mem (by assumption)) ?_ | with_reducible refine Eq.trans (fst_mem (by assumption)) ?_ | split | (intro _) | dsimp only
@[simp] theorem raiseEvt_mem (s : State) (src : Src) (bit : Nat) (loom : optParam (Option Nat) none) (unit : optParam Nat 0) (detail : optParam Nat 0) : (raiseEvt s src bit loom unit detail).mem = s.mem := by
  unfold raiseEvt
  all_goals repeat' first | with_reducible rfl | simp only [orReg_mem, sendEvt_mem] | split | dsimp only
@[simp] theorem modWeave_mem (s : State) (k : Nat) (f : Weave → Weave) : (modWeave s k f).mem = s.mem := by
  unfold modWeave
  all_goals repeat' first | with_reducible rfl | dsimp only | split
@[simp] theorem refusePick_mem (s : State) (k : Nat) : (refusePick s k).mem = s.mem := by
  unfold refusePick
  all_goals repeat' first | with_reducible rfl | simp only [raiseEvt_mem, modWeave_mem] | split | dsimp only
@[simp] theorem abandonTaking_mem (s : State) (k : Nat) (l : Nat) : (abandonTaking s k l).mem = s.mem := by
  unfold abandonTaking
  all_goals repeat' first | with_reducible rfl | simp only [modGen_mem, raiseEvt_mem, modWeave_mem] | split | dsimp only
@[simp] theorem send_mem (s : State) (m : OutMsg) : (send s m).mem = s.mem := by
  unfold send
  all_goals repeat' first | with_reducible rfl | dsimp only | split
@[simp] theorem setLink_mem (s : State) (d : Nat) (x : LinkDir) : (setLink s d x).mem = s.mem := by
  unfold setLink
  all_goals repeat' first | with_reducible rfl | dsimp only | split
@[simp] theorem putFlit_mem (s : State) (d : Nat) (f : WeftFlit) : (putFlit s d f).mem = s.mem := by
  unfold putFlit
  all_goals repeat' first | with_reducible rfl | simp only [send_mem, setLink_mem] | split | dsimp only
@[simp] theorem linkSend_mem (s : State) (d : Nat) (vc : BitVec 2) (bs : List Byte) : (linkSend s d vc bs).mem = s.mem := by
  unfold linkSend
  all_goals repeat' first | with_reducible rfl | simp only [putFlit_mem, setLink_mem] | with_reducible refine Eq.trans (State_foldl_mem _ (fun _ _ => ?_) _ _) ?_ | with_reducible refine Eq.trans (CollOut_foldl_mem _ (fun _ _ => ?_) _ _) ?_ | with_reducible refine Eq.trans (Lay_foldl_mem _ (fun _ _ => ?_) _ _) ?_ | with_reducible refine Eq.trans (Selecting_foldl_mem _ (fun _ _ => ?_) _ _) ?_ | split | (intro _) | dsimp only
@[simp] theorem sendFrame_mem (s : State) (dir : Option Nat) (toward : Nat) (f : Frame) : (sendFrame s dir toward f).mem = s.mem := by
  unfold sendFrame
  all_goals repeat' first | with_reducible rfl | simp only [send_mem, linkSend_mem] | with_reducible refine Eq.trans (snd_mem (by assumption)) ?_ | with_reducible refine Eq.trans (fst_mem (by assumption)) ?_ | split | dsimp only
@[simp] theorem modTileOf_mem (s : State) (l : Nat) (t : Nat) (f : Tile → Tile) : (modTileOf s l t f).mem = s.mem := by
  unfold modTileOf
  all_goals repeat' first | with_reducible rfl | simp only [modLoom_mem, modTile_mem] | with_reducible refine Eq.trans (snd_mem (by assumption)) ?_ | with_reducible refine Eq.trans (fst_mem (by assumption)) ?_ | split | dsimp only
@[simp] theorem sendAborts_mem (s : State) (l : Nat) (tile : Nat) (o : CollOp) (st : Byte) : (sendAborts s l tile o st).mem = s.mem := by
  unfold sendAborts
  all_goals repeat' first | with_reducible rfl | simp only [sendFrame_mem, modTileOf_mem] | with_reducible refine Eq.trans (State_foldl_mem _ (fun _ _ => ?_) _ _) ?_ | with_reducible refine Eq.trans (CollOut_foldl_mem _ (fun _ _ => ?_) _ _) ?_ | with_reducible refine Eq.trans (Lay_foldl_mem _ (fun _ _ => ?_) _ _) ?_ | with_reducible refine Eq.trans (Selecting_foldl_mem _ (fun _ _ => ?_) _ _) ?_ | split | (intro _) | dsimp only
@[simp] theorem abortColl_mem (s : State) (l : Nat) (tile : Nat) (o : CollOp) (st : Byte) : (abortColl s l tile o st).mem = s.mem := by
  unfold abortColl
  all_goals repeat' first | with_reducible rfl | simp only [sendAborts_mem, raiseEvt_mem, modTileOf_mem] | with_reducible refine Eq.trans (State_foldl_mem _ (fun _ _ => ?_) _ _) ?_ | with_reducible refine Eq.trans (CollOut_foldl_mem _ (fun _ _ => ?_) _ _) ?_ | with_reducible refine Eq.trans (Lay_foldl_mem _ (fun _ _ => ?_) _ _) ?_ | with_reducible refine Eq.trans (Selecting_foldl_mem _ (fun _ _ => ?_) _ _) ?_ | with_reducible refine Eq.trans (snd_mem (by assumption)) ?_ | with_reducible refine Eq.trans (fst_mem (by assumption)) ?_ | split | (intro _) | dsimp only
@[simp] theorem abortColls_mem (s : State) (l : Nat) (st : Byte) : (abortColls s l st).mem = s.mem := by
  unfold abortColls
  all_goals repeat' first | with_reducible rfl | simp only [abortColl_mem] | with_reducible refine Eq.trans (State_foldl_mem _ (fun _ _ => ?_) _ _) ?_ | with_reducible refine Eq.trans (CollOut_foldl_mem _ (fun _ _ => ?_) _ _) ?_ | with_reducible refine Eq.trans (Lay_foldl_mem _ (fun _ _ => ?_) _ _) ?_ | with_reducible refine Eq.trans (Selecting_foldl_mem _ (fun _ _ => ?_) _ _) ?_ | split | (intro _) | dsimp only
@[simp] theorem abortTake_mem (s : State) (l : Nat) (tile : Nat) (f : Frame) (st : Byte) : (abortTake s l tile f st).mem = s.mem := by
  unfold abortTake
  all_goals repeat' first | with_reducible rfl | simp only [raiseEvt_mem, modTileOf_mem] | with_reducible refine Eq.trans (snd_mem (by assumption)) ?_ | with_reducible refine Eq.trans (fst_mem (by assumption)) ?_ | split | dsimp only
@[simp] theorem takeDelivered_mem (s : State) (f : Frame) : (takeDelivered s f).mem = s.mem := by
  unfold takeDelivered
  all_goals repeat' first | with_reducible rfl | simp only [setLink_mem] | with_reducible refine Eq.trans (snd_mem (by assumption)) ?_ | with_reducible refine Eq.trans (fst_mem (by assumption)) ?_ | split | dsimp only
@[simp] theorem answerFrame_mem (s : State) (l : Nat) (tile : Nat) (f : Frame) (kind : Nat) : (answerFrame s l tile f kind).mem = s.mem := by
  unfold answerFrame
  all_goals repeat' first | with_reducible rfl | simp only [sendFrame_mem, drawFree_mem] | with_reducible refine Eq.trans (snd_mem (by assumption)) ?_ | with_reducible refine Eq.trans (fst_mem (by assumption)) ?_ | split | dsimp only
@[simp] theorem abortIn_mem (tile : Nat) (f : Frame) (s : State) : (abortIn tile f s).mem = s.mem := by
  unfold abortIn
  all_goals repeat' first | with_reducible rfl | simp only [abortTake_mem, takeDelivered_mem, answerFrame_mem] | with_reducible refine Eq.trans (snd_mem (by assumption)) ?_ | with_reducible refine Eq.trans (fst_mem (by assumption)) ?_ | split | dsimp only
@[simp] theorem driveTile_mem (l : Nat) (s : State) (tile : Nat) : (driveTile l s tile).mem = s.mem := by
  unfold driveTile
  all_goals repeat' first | with_reducible rfl | simp only [sendFrame_mem, modTileOf_mem] | with_reducible refine Eq.trans (State_foldl_mem _ (fun _ _ => ?_) _ _) ?_ | with_reducible refine Eq.trans (CollOut_foldl_mem _ (fun _ _ => ?_) _ _) ?_ | with_reducible refine Eq.trans (Lay_foldl_mem _ (fun _ _ => ?_) _ _) ?_ | with_reducible refine Eq.trans (Selecting_foldl_mem _ (fun _ _ => ?_) _ _) ?_ | split | (intro _) | dsimp only
@[simp] theorem driveFrames_mem (s : State) (l : Nat) : (driveFrames s l).mem = s.mem := by
  unfold driveFrames
  all_goals repeat' first | with_reducible rfl | simp only [driveTile_mem] | with_reducible refine Eq.trans (State_foldl_mem _ (fun _ _ => ?_) _ _) ?_ | with_reducible refine Eq.trans (CollOut_foldl_mem _ (fun _ _ => ?_) _ _) ?_ | with_reducible refine Eq.trans (Lay_foldl_mem _ (fun _ _ => ?_) _ _) ?_ | with_reducible refine Eq.trans (Selecting_foldl_mem _ (fun _ _ => ?_) _ _) ?_ | split | (intro _) | dsimp only
@[simp] theorem ackIn_mem (tile : Nat) (f : Frame) (s : State) : (ackIn tile f s).mem = s.mem := by
  unfold ackIn
  all_goals repeat' first | with_reducible rfl | simp only [takeDelivered_mem, driveFrames_mem, modTileOf_mem] | with_reducible refine Eq.trans (snd_mem (by assumption)) ?_ | with_reducible refine Eq.trans (fst_mem (by assumption)) ?_ | split | dsimp only
@[simp] theorem modBlock_mem (s : State) (b : Nat) (f : DieBlock → DieBlock) : (modBlock s b f).mem = s.mem := by
  unfold modBlock
  all_goals repeat' first | with_reducible rfl | simp only [modTlm_mem] | split | dsimp only
@[simp] theorem addDie_mem (b : Nat) (a : Nat) (a' : Nat) (a'' : Nat) (a''' : State) : (addDie b a a' a'' a''').mem = a'''.mem := by
  fun_induction addDie b a a' a'' a'''
  all_goals repeat' first | with_reducible rfl | simp +zetaDelta only [raiseEvt_mem, modBlock_mem] | with_reducible refine Eq.trans (by assumption) ?_ | split | dsimp only
@[simp] theorem addTaps_mem (s : State) (l : Nat) (sums : Table TapSum) : (addTaps s l sums).mem = s.mem := by
  unfold addTaps
  all_goals repeat' first | with_reducible rfl | simp only [modLoom_mem] | with_reducible refine Eq.trans (State_foldl_mem _ (fun _ _ => ?_) _ _) ?_ | with_reducible refine Eq.trans (CollOut_foldl_mem _ (fun _ _ => ?_) _ _) ?_ | with_reducible refine Eq.trans (Lay_foldl_mem _ (fun _ _ => ?_) _ _) ?_ | with_reducible refine Eq.trans (Selecting_foldl_mem _ (fun _ _ => ?_) _ _) ?_ | split | (intro _) | dsimp only
@[simp] theorem putTileCount_mem (s : State) (x : Loom) (tile : Nat) (n : Nat) (v : Nat) : (putTileCount s x tile n v).mem = s.mem := by
  unfold putTileCount
  all_goals repeat' first | with_reducible rfl | simp only [modTile_mem] | split | dsimp only
theorem ckptTrigger_mem (s : State) (l : Nat) (step : Nat) (buffer : W64) (len : Nat) (who : Option (Nat × Nat)) (t : State) : ckptTrigger s l step buffer len who = .ok t → t.mem = s.mem := by
  intro h; unfold ckptTrigger at h
  all_goals repeat' first | cases h | split at h | dsimp only at h
  all_goals repeat' first | with_reducible rfl | simp only [modLoom_mem, drawFree_mem] | with_reducible refine Eq.trans (snd_mem (by assumption)) ?_ | with_reducible refine Eq.trans (fst_mem (by assumption)) ?_ | split | dsimp only
@[simp] theorem capture_mem (s : State) (validReg : Nat) (valid : W64) (others : List (Nat × W64)) : (capture s validReg valid others).mem = s.mem := by
  unfold capture
  all_goals repeat' first | with_reducible rfl | simp only [setReg_mem, orReg_mem] | with_reducible refine Eq.trans (State_foldl_mem _ (fun _ _ => ?_) _ _) ?_ | with_reducible refine Eq.trans (CollOut_foldl_mem _ (fun _ _ => ?_) _ _) ?_ | with_reducible refine Eq.trans (Lay_foldl_mem _ (fun _ _ => ?_) _ _) ?_ | with_reducible refine Eq.trans (Selecting_foldl_mem _ (fun _ _ => ?_) _ _) ?_ | split | (intro _) | dsimp only
@[simp] theorem advise_mem (s : State) (cause : Nat) (unit : Nat) : (advise s cause unit).mem = s.mem := by
  unfold advise
  all_goals repeat' first | with_reducible rfl | simp only [evtToSession_mem, orReg_mem, modSvc_mem, capture_mem, implies_true] | with_reducible refine Eq.trans (ckptTrigger_mem _ _ _ _ _ _ _ (by assumption)) ?_ | with_reducible refine Eq.trans (State_foldl_mem _ (fun _ _ => ?_) _ _) ?_ | with_reducible refine Eq.trans (CollOut_foldl_mem _ (fun _ _ => ?_) _ _) ?_ | with_reducible refine Eq.trans (Lay_foldl_mem _ (fun _ _ => ?_) _ _) ?_ | with_reducible refine Eq.trans (Selecting_foldl_mem _ (fun _ _ => ?_) _ _) ?_ | with_reducible refine Eq.trans (snd_mem (by assumption)) ?_ | with_reducible refine Eq.trans (fst_mem (by assumption)) ?_ | split | (intro _) | dsimp only
@[simp] theorem adviseOnce_mem (s : State) (cause : Nat) (unit : Nat) : (adviseOnce s cause unit).mem = s.mem := by
  unfold adviseOnce
  all_goals repeat' first | with_reducible rfl | simp only [advise_mem] | split | dsimp only
@[simp] theorem noteCause_mem (s : State) (cause : Nat) (unit : Nat) (n : Nat) (always : optParam Bool false) : (noteCause s cause unit n always).mem = s.mem := by
  unfold noteCause
  all_goals repeat' first | with_reducible rfl | simp only [adviseOnce_mem, modSvc_mem] | with_reducible refine Eq.trans (snd_mem (by assumption)) ?_ | with_reducible refine Eq.trans (fst_mem (by assumption)) ?_ | split | dsimp only
@[simp] theorem semDone_mem (s : State) (a : Issuer) (st : Byte) : (semDone s a st).mem = s.mem := by
  unfold semDone
  all_goals repeat' first | with_reducible rfl | simp only [modStrand_mem] | with_reducible refine Eq.trans (snd_mem (by assumption)) ?_ | with_reducible refine Eq.trans (fst_mem (by assumption)) ?_ | split | dsimp only
@[simp] theorem serveShared_mem (s : State) (sem : Nat) (a : Nat) : (serveShared s sem a).mem = s.mem := by
  fun_induction serveShared s sem a
  all_goals repeat' first | with_reducible rfl | simp +zetaDelta only [semDone_mem] | with_reducible refine Eq.trans (snd_mem (by assumption)) ?_ | with_reducible refine Eq.trans (fst_mem (by assumption)) ?_ | with_reducible refine Eq.trans (by assumption) ?_ | split | dsimp only
@[simp] theorem serveSem_mem (s : State) (sem : Nat) : (serveSem s sem).mem = s.mem := by
  unfold serveSem
  all_goals repeat' first | with_reducible rfl | simp only [serveShared_mem] | with_reducible refine Eq.trans (snd_mem (by assumption)) ?_ | with_reducible refine Eq.trans (fst_mem (by assumption)) ?_ | split | dsimp only
@[simp] theorem leaveQueues_mem (s : State) (l : Nat) : (leaveQueues s l).mem = s.mem := by
  unfold leaveQueues
  all_goals repeat' first | with_reducible rfl | simp only [serveSem_mem, modLoom_mem] | with_reducible refine Eq.trans (State_foldl_mem _ (fun _ _ => ?_) _ _) ?_ | with_reducible refine Eq.trans (CollOut_foldl_mem _ (fun _ _ => ?_) _ _) ?_ | with_reducible refine Eq.trans (Lay_foldl_mem _ (fun _ _ => ?_) _ _) ?_ | with_reducible refine Eq.trans (Selecting_foldl_mem _ (fun _ _ => ?_) _ _) ?_ | split | (intro _) | dsimp only
@[simp] theorem returnUnits_mem (s : State) (l : Nat) : (returnUnits s l).mem = s.mem := by
  unfold returnUnits
  all_goals repeat' first | with_reducible rfl | simp only [serveSem_mem, raiseEvt_mem, modLoom_mem] | with_reducible refine Eq.trans (State_foldl_mem _ (fun _ _ => ?_) _ _) ?_ | with_reducible refine Eq.trans (CollOut_foldl_mem _ (fun _ _ => ?_) _ _) ?_ | with_reducible refine Eq.trans (Lay_foldl_mem _ (fun _ _ => ?_) _ _) ?_ | with_reducible refine Eq.trans (Selecting_foldl_mem _ (fun _ _ => ?_) _ _) ?_ | split | (intro _) | dsimp only
@[simp] theorem pinPick_mem (s : State) (l : Nat) (pick : Nat) (up : Bool) : (pinPick s l pick up).mem = s.mem := by
  unfold pinPick
  all_goals repeat' first | with_reducible rfl | simp only [modLoom_mem] | split | dsimp only
@[simp] theorem takeEv_mem (s : State) : (takeEv s).2.mem = s.mem := by
  unfold takeEv
  all_goals repeat' first | with_reducible rfl | dsimp only | split
@[simp] theorem putOut_mem (s : State) (e : Nat) (kind : Nat) (token : Nat) (pos : Nat) (pick : Nat) (st : Nat) (logprob : Nat) : (putOut s e kind token pos pick st logprob).mem = s.mem := by
  unfold putOut
  all_goals repeat' first | with_reducible rfl | simp only [modReq_mem, hostWr_mem] | with_reducible refine Eq.trans (snd_mem (by assumption)) ?_ | with_reducible refine Eq.trans (fst_mem (by assumption)) ?_ | split | dsimp only
@[simp] theorem rejectDrafts_mem (s : State) (l : Nat) (n : Nat) : (rejectDrafts s l n).mem = s.mem := by
  unfold rejectDrafts
  all_goals repeat' first | with_reducible rfl | simp only [count48_mem] | split | dsimp only
@[simp] theorem modSrv_mem (s : State) (l : Nat) (f : SrvLoom → SrvLoom) : (modSrv s l f).mem = s.mem := by
  unfold modSrv
  all_goals repeat' first | with_reducible rfl | simp only [modLoom_mem] | split | dsimp only
@[simp] theorem dropStep_mem (s : State) (l : Nat) : (dropStep s l).mem = s.mem := by
  unfold dropStep
  all_goals repeat' first | with_reducible rfl | simp only [rejectDrafts_mem, modLoom_mem, modSrv_mem] | with_reducible refine Eq.trans (snd_mem (by assumption)) ?_ | with_reducible refine Eq.trans (fst_mem (by assumption)) ?_ | split | dsimp only
@[simp] theorem postCpl_mem (s : State) (sess : Nat) (ring : Nat) (status : Byte) (opcode : Nat) (tag : W32) (result : List Byte) : (postCpl s sess ring status opcode tag result).mem = s.mem := by
  unfold postCpl
  all_goals repeat' first | with_reducible rfl | simp only [hostWr_mem, setSession_mem] | with_reducible refine Eq.trans (snd_mem (by assumption)) ?_ | with_reducible refine Eq.trans (fst_mem (by assumption)) ?_ | split | dsimp only
@[simp] theorem finish_mem (s : State) (sess : Nat) (ring : Nat) (status : Byte) (result : optParam (List Byte) []) : (finish s sess ring status result).mem = s.mem := by
  unfold finish
  all_goals repeat' first | with_reducible rfl | simp only [postCpl_mem, modSession_mem] | with_reducible refine Eq.trans (snd_mem (by assumption)) ?_ | with_reducible refine Eq.trans (fst_mem (by assumption)) ?_ | split | dsimp only
@[simp] theorem endRestore_mem (s : State) (l : Nat) (st : Byte) (result : optParam (List Byte) []) : (endRestore s l st result).mem = s.mem := by
  unfold endRestore
  all_goals repeat' first | with_reducible rfl | simp only [finish_mem, modLoom_mem] | with_reducible refine Eq.trans (snd_mem (by assumption)) ?_ | with_reducible refine Eq.trans (fst_mem (by assumption)) ?_ | split | dsimp only
@[simp] theorem endCkpt_mem (s : State) (l : Nat) (st : Byte) (result : optParam (List Byte) []) : (endCkpt s l st result).mem = s.mem := by
  unfold endCkpt
  all_goals repeat' first | with_reducible rfl | simp only [finish_mem, modLoom_mem] | with_reducible refine Eq.trans (snd_mem (by assumption)) ?_ | with_reducible refine Eq.trans (fst_mem (by assumption)) ?_ | split | dsimp only
@[simp] theorem evictOne_mem (s : State) (l : Nat) : (evictOne s l).mem = s.mem := by
  unfold evictOne
  all_goals repeat' first | with_reducible rfl | simp only [raiseEvt_mem, modSrv_mem] | with_reducible refine Eq.trans (State_foldl_mem _ (fun _ _ => ?_) _ _) ?_ | with_reducible refine Eq.trans (CollOut_foldl_mem _ (fun _ _ => ?_) _ _) ?_ | with_reducible refine Eq.trans (Lay_foldl_mem _ (fun _ _ => ?_) _ _) ?_ | with_reducible refine Eq.trans (Selecting_foldl_mem _ (fun _ _ => ?_) _ _) ?_ | with_reducible refine Eq.trans (snd_mem (by assumption)) ?_ | with_reducible refine Eq.trans (fst_mem (by assumption)) ?_ | split | (intro _) | dsimp only
@[simp] theorem evictFor_mem (s : State) (l : Nat) (n : Nat) (a : Nat) : (evictFor s l n a).mem = s.mem := by
  fun_induction evictFor s l n a
  all_goals repeat' first | with_reducible rfl | simp +zetaDelta only [evictOne_mem] | with_reducible refine Eq.trans (by assumption) ?_ | split | dsimp only
@[simp] theorem admitQueue_mem (l : Nat) (a : Nat) (a' : State) : (admitQueue l a a').mem = a'.mem := by
  fun_induction admitQueue l a a'
  all_goals repeat' first | with_reducible rfl | simp +zetaDelta only [raiseEvt_mem, modReq_mem, evictFor_mem] | with_reducible refine Eq.trans (snd_mem (by assumption)) ?_ | with_reducible refine Eq.trans (fst_mem (by assumption)) ?_ | with_reducible refine Eq.trans (by assumption) ?_ | split | dsimp only
@[simp] theorem admitNow_mem (s : State) (l : Nat) : (admitNow s l).mem = s.mem := by
  unfold admitNow
  all_goals repeat' first | with_reducible rfl | simp only [admitQueue_mem] | split | dsimp only
@[simp] theorem advancePhase_mem (s : State) (bay : Nat) : (advancePhase s bay).mem = s.mem := by
  unfold advancePhase
  all_goals repeat' first | with_reducible rfl | simp only [modTlm_mem, drawFree_mem] | with_reducible refine Eq.trans (State_foldl_mem _ (fun _ _ => ?_) _ _) ?_ | with_reducible refine Eq.trans (CollOut_foldl_mem _ (fun _ _ => ?_) _ _) ?_ | with_reducible refine Eq.trans (Lay_foldl_mem _ (fun _ _ => ?_) _ _) ?_ | with_reducible refine Eq.trans (Selecting_foldl_mem _ (fun _ _ => ?_) _ _) ?_ | with_reducible refine Eq.trans (snd_mem (by assumption)) ?_ | with_reducible refine Eq.trans (fst_mem (by assumption)) ?_ | split | (intro _) | dsimp only
@[simp] theorem memError_mem (s : State) (evts : List Nat) (stopped : Option Nat) (owner : Option Nat) (addr : Nat) (stack : Nat) (tile : Nat) (unit : Nat) (thrum : optParam Bool false) : (memError s evts stopped owner addr stack tile unit thrum).mem = s.mem := by
  unfold memError
  all_goals repeat' first | with_reducible rfl | simp only [raiseEvt_mem, capture_mem] | with_reducible refine Eq.trans (State_foldl_mem _ (fun _ _ => ?_) _ _) ?_ | with_reducible refine Eq.trans (CollOut_foldl_mem _ (fun _ _ => ?_) _ _) ?_ | with_reducible refine Eq.trans (Lay_foldl_mem _ (fun _ _ => ?_) _ _) ?_ | with_reducible refine Eq.trans (Selecting_foldl_mem _ (fun _ _ => ?_) _ _) ?_ | split | (intro _) | dsimp only
@[simp] theorem reportUncorr_mem (s : State) (consumer : Option Nat) (u : Nat) : (reportUncorr s consumer u).mem = s.mem := by
  unfold reportUncorr
  all_goals repeat' first | with_reducible rfl | simp only [memError_mem, countReg_mem] | split | dsimp only
@[simp] theorem meetUnits_mem (s : State) (consumer : Option Nat) (rs : List (Nat × Nat)) : (meetUnits s consumer rs).mem = s.mem := by
  unfold meetUnits
  all_goals repeat' first | with_reducible rfl | simp only [reportUncorr_mem] | with_reducible refine Eq.trans (State_foldl_mem _ (fun _ _ => ?_) _ _) ?_ | with_reducible refine Eq.trans (CollOut_foldl_mem _ (fun _ _ => ?_) _ _) ?_ | with_reducible refine Eq.trans (Lay_foldl_mem _ (fun _ _ => ?_) _ _) ?_ | with_reducible refine Eq.trans (Selecting_foldl_mem _ (fun _ _ => ?_) _ _) ?_ | split | (intro _) | dsimp only
@[simp] theorem holdCopy_mem (s : State) (who : List Nat) (kb : Nat × Nat) : (holdCopy s who kb).mem = s.mem := by
  unfold holdCopy
  all_goals repeat' first | with_reducible rfl | simp only [raiseEvt_mem, count48_mem, drawFree_mem] | with_reducible refine Eq.trans (snd_mem (by assumption)) ?_ | with_reducible refine Eq.trans (fst_mem (by assumption)) ?_ | split | dsimp only
@[simp] theorem startScalar_mem (x : Loom) (c : CollOut) : (startScalar x c).s.mem = c.s.mem := by
  unfold startScalar
  all_goals repeat' first | with_reducible rfl | dsimp only | with_reducible refine Eq.trans (snd_mem (by assumption)) ?_ | with_reducible refine Eq.trans (fst_mem (by assumption)) ?_ | split
@[simp] theorem startGather_mem (x : Loom) (c : CollOut) : (startGather x c).s.mem = c.s.mem := by
  unfold startGather
  all_goals repeat' first | with_reducible rfl | dsimp only | with_reducible refine Eq.trans (snd_mem (by assumption)) ?_ | with_reducible refine Eq.trans (fst_mem (by assumption)) ?_ | split
@[simp] theorem finishReduce_mem (x : Loom) (c : CollOut) : (finishReduce x c).s.mem = c.s.mem := by
  unfold finishReduce
  all_goals repeat' first | with_reducible rfl | simp only [startScalar_mem, startGather_mem] | with_reducible refine Eq.trans (State_foldl_mem _ (fun _ _ => ?_) _ _) ?_ | with_reducible refine Eq.trans (CollOut_foldl_mem _ (fun _ _ => ?_) _ _) ?_ | with_reducible refine Eq.trans (Lay_foldl_mem _ (fun _ _ => ?_) _ _) ?_ | with_reducible refine Eq.trans (Selecting_foldl_mem _ (fun _ _ => ?_) _ _) ?_ | split | (intro _) | dsimp only
@[simp] theorem alive_mem (s : State) (f : State → State) (h_f : ∀ u0, (f u0).mem = u0.mem) : (alive s f).mem = s.mem := by
  unfold alive
  all_goals repeat' first | with_reducible rfl | simp only [h_f] | split | dsimp only
@[simp] theorem noteThermal_mem (s : State) (die : Nat) (bound : Bool) : (noteThermal s die bound).mem = s.mem := by
  unfold noteThermal
  all_goals repeat' first | with_reducible rfl | simp only [modDie_mem, noteCause_mem] | with_reducible refine Eq.trans (snd_mem (by assumption)) ?_ | with_reducible refine Eq.trans (fst_mem (by assumption)) ?_ | split | dsimp only
@[simp] theorem rebind_mem (s : State) : (rebind s).mem = s.mem := by
  unfold rebind
  all_goals repeat' first | with_reducible rfl | simp only [noteThermal_mem, modPower_mem] | with_reducible refine Eq.trans (State_foldl_mem _ (fun _ _ => ?_) _ _) ?_ | with_reducible refine Eq.trans (CollOut_foldl_mem _ (fun _ _ => ?_) _ _) ?_ | with_reducible refine Eq.trans (Lay_foldl_mem _ (fun _ _ => ?_) _ _) ?_ | with_reducible refine Eq.trans (Selecting_foldl_mem _ (fun _ _ => ?_) _ _) ?_ | split | (intro _) | dsimp only
@[simp] theorem moveCapLimit_mem (s : State) (from_ : Nat) (dest : Nat) : (moveCapLimit s from_ dest).mem = s.mem := by
  unfold moveCapLimit
  all_goals repeat' first | with_reducible rfl | simp only [modPower_mem, rebind_mem] | split | dsimp only
@[simp] theorem applyCap_mem (s : State) : (applyCap s).mem = s.mem := by
  unfold applyCap
  all_goals repeat' first | with_reducible rfl | simp only [modPower_mem, raiseEvt_mem, moveCapLimit_mem] | with_reducible refine Eq.trans (snd_mem (by assumption)) ?_ | with_reducible refine Eq.trans (fst_mem (by assumption)) ?_ | split | dsimp only
@[simp] theorem putOp_mem (s : State) (tile : Nat) (l : Nat) (o : AsyncOp) : (putOp s tile l o).mem = s.mem := by
  unfold putOp
  all_goals repeat' first | with_reducible rfl | simp only [modTileOf_mem] | split | dsimp only
@[simp] theorem rmtReply_mem (s : State) (q : RmtRequest) (st : Byte) (data : List Byte) : (rmtReply s q st data).mem = s.mem := by
  unfold rmtReply
  all_goals repeat' first | with_reducible rfl | simp only [send_mem, putOp_mem] | with_reducible refine Eq.trans (snd_mem (by assumption)) ?_ | with_reducible refine Eq.trans (fst_mem (by assumption)) ?_ | split | dsimp only
@[simp] theorem touchRange_mem (s : State) (l : Nat) (a : Nat) (n : Nat) (write : Bool) : (touchRange s l a n write).mem = s.mem := by
  unfold touchRange
  all_goals repeat' first | with_reducible rfl | simp only [modLoom_mem] | with_reducible refine Eq.trans (State_foldl_mem _ (fun _ _ => ?_) _ _) ?_ | with_reducible refine Eq.trans (CollOut_foldl_mem _ (fun _ _ => ?_) _ _) ?_ | with_reducible refine Eq.trans (Lay_foldl_mem _ (fun _ _ => ?_) _ _) ?_ | with_reducible refine Eq.trans (Selecting_foldl_mem _ (fun _ _ => ?_) _ _) ?_ | with_reducible refine Eq.trans (snd_mem (by assumption)) ?_ | with_reducible refine Eq.trans (fst_mem (by assumption)) ?_ | split | (intro _) | dsimp only
@[simp] theorem clearVia_mem (s : State) (x : Loom) (a : Nat) (n : Nat) : (clearVia s x a n).mem = s.mem := by
  unfold clearVia
  all_goals repeat' first | with_reducible rfl | dsimp only | split
theorem layExperts_mem (l : Nat) (x : Loom) (r : IntentRec) (y : Lay) (t : Lay) : layExperts l x r y = .some t → t.s.mem = y.s.mem := by
  intro h; unfold layExperts at h
  all_goals repeat' first | cases h | split at h | dsimp only at h
  all_goals repeat' first | with_reducible rfl | dsimp only | split
@[simp] theorem heldObj_mem (s : State) (x : Loom) (obj : Nat) (n : Nat) : (heldObj s x obj n).2.mem = s.mem := by
  unfold heldObj
  all_goals repeat' first | with_reducible rfl | simp only [drawFree_mem] | with_reducible refine Eq.trans (snd_mem (by assumption)) ?_ | with_reducible refine Eq.trans (fst_mem (by assumption)) ?_ | split | dsimp only
@[simp] theorem publishMap_mem (s : State) (l : Nat) (f : Loom → Loom) : (publishMap s l f).mem = s.mem := by
  unfold publishMap
  all_goals repeat' first | with_reducible rfl | simp only [modLoom_mem] | split | dsimp only
@[simp] theorem shedStopped_mem (s : State) (l : Nat) : (shedStopped s l).mem = s.mem := by
  unfold shedStopped
  all_goals repeat' first | with_reducible rfl | simp only [modWeave_mem] | with_reducible refine Eq.trans (snd_mem (by assumption)) ?_ | with_reducible refine Eq.trans (fst_mem (by assumption)) ?_ | split | dsimp only
@[simp] theorem leaveBays_mem (s : State) (l : Nat) : (leaveBays s l).mem = s.mem := by
  unfold leaveBays
  all_goals repeat' first | with_reducible rfl | simp only [setLoom_mem, modLoom_mem, modTile_mem] | with_reducible refine Eq.trans (State_foldl_mem _ (fun _ _ => ?_) _ _) ?_ | with_reducible refine Eq.trans (CollOut_foldl_mem _ (fun _ _ => ?_) _ _) ?_ | with_reducible refine Eq.trans (Lay_foldl_mem _ (fun _ _ => ?_) _ _) ?_ | with_reducible refine Eq.trans (Selecting_foldl_mem _ (fun _ _ => ?_) _ _) ?_ | split | (intro _) | dsimp only
@[simp] theorem revokeAll_mem (s : State) (l : Nat) (a : Nat) : (revokeAll s l a).mem = s.mem := by
  fun_induction revokeAll s l a
  all_goals repeat' first | with_reducible rfl | simp +zetaDelta only [returnUnits_mem] | with_reducible refine Eq.trans (by assumption) ?_ | split | dsimp only
@[simp] theorem hardPoint_mem (s : State) (l : Nat) (p : Preempt) : (hardPoint s l p).mem = s.mem := by
  unfold hardPoint
  all_goals repeat' first | with_reducible rfl | simp only [leaveQueues_mem, modLoom_mem] | split | dsimp only
@[simp] theorem queueBlocks_mem (s : State) (num : Nat) (reads : List (Nat × Nat × Nat)) (writes : List (Nat × Nat × Nat)) : (queueBlocks s num reads writes).mem = s.mem := by
  unfold queueBlocks
  all_goals repeat' first | with_reducible rfl | simp only [modTile_mem] | with_reducible refine Eq.trans (State_foldl_mem _ (fun _ _ => ?_) _ _) ?_ | with_reducible refine Eq.trans (CollOut_foldl_mem _ (fun _ _ => ?_) _ _) ?_ | with_reducible refine Eq.trans (Lay_foldl_mem _ (fun _ _ => ?_) _ _) ?_ | with_reducible refine Eq.trans (Selecting_foldl_mem _ (fun _ _ => ?_) _ _) ?_ | split | (intro _) | dsimp only
@[simp] theorem setSlot_mem (s : State) (k : Nat) (x : KeySlot) : (setSlot s k x).mem = s.mem := by
  unfold setSlot
  all_goals repeat' first | with_reducible rfl | dsimp only | split
@[simp] theorem authFails_mem (s : State) (slot : Nat) : (authFails s slot).mem = s.mem := by
  unfold authFails
  all_goals repeat' first | with_reducible rfl | simp only [raiseEvt_mem, setSlot_mem] | split | dsimp only
@[simp] theorem balanceMove_mem (s : State) (job : Nat) (last : Nat) : (balanceMove s job last).mem = s.mem := by
  unfold balanceMove
  all_goals repeat' first | with_reducible rfl | simp only [modDie_mem] | with_reducible refine Eq.trans (State_foldl_mem _ (fun _ _ => ?_) _ _) ?_ | with_reducible refine Eq.trans (CollOut_foldl_mem _ (fun _ _ => ?_) _ _) ?_ | with_reducible refine Eq.trans (Lay_foldl_mem _ (fun _ _ => ?_) _ _) ?_ | with_reducible refine Eq.trans (Selecting_foldl_mem _ (fun _ _ => ?_) _ _) ?_ | split | (intro _) | dsimp only
@[simp] theorem balance_mem (s : State) (m : PowerWindow) : (balance s m).mem = s.mem := by
  unfold balance
  all_goals repeat' first | with_reducible rfl | simp only [modDie_mem, rebind_mem, modLoom_mem, balanceMove_mem] | with_reducible refine Eq.trans (State_foldl_mem _ (fun _ _ => ?_) _ _) ?_ | with_reducible refine Eq.trans (CollOut_foldl_mem _ (fun _ _ => ?_) _ _) ?_ | with_reducible refine Eq.trans (Lay_foldl_mem _ (fun _ _ => ?_) _ _) ?_ | with_reducible refine Eq.trans (Selecting_foldl_mem _ (fun _ _ => ?_) _ _) ?_ | with_reducible refine Eq.trans (snd_mem (by assumption)) ?_ | with_reducible refine Eq.trans (fst_mem (by assumption)) ?_ | split | (intro _) | dsimp only
@[simp] theorem barRelease_mem (s : State) (tiles : List Nat) (loomScope : Bool) (id : Nat) : (barRelease s tiles loomScope id).mem = s.mem := by
  unfold barRelease
  all_goals repeat' first | with_reducible rfl | simp only [modStrand_mem] | with_reducible refine Eq.trans (State_foldl_mem _ (fun _ _ => ?_) _ _) ?_ | with_reducible refine Eq.trans (CollOut_foldl_mem _ (fun _ _ => ?_) _ _) ?_ | with_reducible refine Eq.trans (Lay_foldl_mem _ (fun _ _ => ?_) _ _) ?_ | with_reducible refine Eq.trans (Selecting_foldl_mem _ (fun _ _ => ?_) _ _) ?_ | split | (intro _) | dsimp only
@[simp] theorem bayPass_mem (s : State) (bays : List Nat) : (bayPass s bays).mem = s.mem := by
  unfold bayPass
  all_goals repeat' first | with_reducible rfl | simp only [modSvc_mem] | with_reducible refine Eq.trans (State_foldl_mem _ (fun _ _ => ?_) _ _) ?_ | with_reducible refine Eq.trans (CollOut_foldl_mem _ (fun _ _ => ?_) _ _) ?_ | with_reducible refine Eq.trans (Lay_foldl_mem _ (fun _ _ => ?_) _ _) ?_ | with_reducible refine Eq.trans (Selecting_foldl_mem _ (fun _ _ => ?_) _ _) ?_ | split | (intro _) | dsimp only
@[simp] theorem bayTestComplete_mem (s : State) (bays : List Nat) (failed : List Nat) : (bayTestComplete s bays failed).mem = s.mem := by
  unfold bayTestComplete
  all_goals repeat' first | with_reducible rfl | simp only [modSvc_mem, bayPass_mem] | split | dsimp only
@[simp] theorem putHot_mem (s : State) (l : Nat) (h : HotRegion) : (putHot s l h).mem = s.mem := by
  unfold putHot
  all_goals repeat' first | with_reducible rfl | simp only [modLoom_mem] | split | dsimp only
@[simp] theorem countHandoffs_mem (s : State) (l : Nat) (n : Nat) : (countHandoffs s l n).mem = s.mem := by
  unfold countHandoffs
  all_goals repeat' first | with_reducible rfl | simp only [modLoom_mem] | split | dsimp only
@[simp] theorem beginOne_mem (s : State) (l : Nat) (h : HotRegion) (k : Nat) (row : Nat) (n : Nat) : (beginOne s l h k row n).mem = s.mem := by
  unfold beginOne
  all_goals repeat' first | with_reducible rfl | simp only [putHot_mem, countHandoffs_mem] | split | dsimp only
@[simp] theorem beginTodo_mem (l : Nat) (obj : Nat) (a : Nat) (a' : State) : (beginTodo l obj a a').mem = a'.mem := by
  fun_induction beginTodo l obj a a'
  all_goals repeat' first | with_reducible rfl | simp +zetaDelta only [beginOne_mem] | with_reducible refine Eq.trans (snd_mem (by assumption)) ?_ | with_reducible refine Eq.trans (fst_mem (by assumption)) ?_ | with_reducible refine Eq.trans (by assumption) ?_ | split | dsimp only
@[simp] theorem beginAll_mem (s : State) : (beginAll s).mem = s.mem := by
  unfold beginAll
  all_goals repeat' first | with_reducible rfl | simp only [beginTodo_mem] | with_reducible refine Eq.trans (State_foldl_mem _ (fun _ _ => ?_) _ _) ?_ | with_reducible refine Eq.trans (CollOut_foldl_mem _ (fun _ _ => ?_) _ _) ?_ | with_reducible refine Eq.trans (Lay_foldl_mem _ (fun _ _ => ?_) _ _) ?_ | with_reducible refine Eq.trans (Selecting_foldl_mem _ (fun _ _ => ?_) _ _) ?_ | split | (intro _) | dsimp only
@[simp] theorem x2xDone_mem (s : State) (l : Nat) (tile : Nat) (c : CollOut) : (x2xDone s l tile c).s.mem = c.s.mem := by
  unfold x2xDone
  all_goals repeat' first | with_reducible rfl | dsimp only | with_reducible refine Eq.trans (snd_mem (by assumption)) ?_ | with_reducible refine Eq.trans (fst_mem (by assumption)) ?_ | split
theorem useRow_mem (s : State) (l : Nat) (tile : Nat) (c : CollOut) (f : Frame) (t : CollOut) : useRow s l tile c f = .some t → t.s.mem = c.s.mem := by
  intro h; unfold useRow at h
  all_goals repeat' first | cases h | split at h | dsimp only at h
  all_goals repeat' first | with_reducible rfl | simp only [x2xDone_mem] | with_reducible refine Eq.trans (snd_mem (by assumption)) ?_ | with_reducible refine Eq.trans (fst_mem (by assumption)) ?_ | split | dsimp only
@[simp] theorem x2xSendRows_mem (s : State) (l : Nat) (c : CollOut) (e : Nat) (n : Nat) (start : Nat) : (x2xSendRows s l c e n start).s.mem = c.s.mem := by
  unfold x2xSendRows
  all_goals repeat' first | with_reducible rfl | dsimp only | with_reducible refine Eq.trans (snd_mem (by assumption)) ?_ | with_reducible refine Eq.trans (fst_mem (by assumption)) ?_ | split
@[simp] theorem returnRows_mem (s : State) (l : Nat) (tile : Nat) (c : CollOut) (member : Nat) (base : Nat) (tokens : Nat) : (returnRows s l tile c member base tokens).s.mem = c.s.mem := by
  unfold returnRows
  all_goals repeat' first | with_reducible rfl | dsimp only | with_reducible refine Eq.trans (snd_mem (by assumption)) ?_ | with_reducible refine Eq.trans (fst_mem (by assumption)) ?_ | split
@[simp] theorem x2xAdmit_mem (s : State) (l : Nat) (c : CollOut) (e : Nat) : (x2xAdmit s l c e).1.s.mem = c.s.mem := by
  unfold x2xAdmit
  all_goals repeat' first | with_reducible rfl | simp only [raiseEvt_mem, modLoom_mem] | with_reducible refine Eq.trans (State_foldl_mem _ (fun _ _ => ?_) _ _) ?_ | with_reducible refine Eq.trans (CollOut_foldl_mem _ (fun _ _ => ?_) _ _) ?_ | with_reducible refine Eq.trans (Lay_foldl_mem _ (fun _ _ => ?_) _ _) ?_ | with_reducible refine Eq.trans (Selecting_foldl_mem _ (fun _ _ => ?_) _ _) ?_ | with_reducible refine Eq.trans (snd_mem (by assumption)) ?_ | with_reducible refine Eq.trans (fst_mem (by assumption)) ?_ | split | (intro _) | dsimp only
@[simp] theorem useCounts_mem (s : State) (l : Nat) (tile : Nat) (c : CollOut) (f : Frame) : (useCounts s l tile c f).1.s.mem = c.s.mem := by
  unfold useCounts
  all_goals repeat' first | with_reducible rfl | simp only [x2xSendRows_mem, x2xDone_mem, returnRows_mem, x2xAdmit_mem] | with_reducible refine Eq.trans (snd_mem (by assumption)) ?_ | with_reducible refine Eq.trans (fst_mem (by assumption)) ?_ | split | dsimp only
@[simp] theorem useMove_mem (s : State) (l : Nat) (c : CollOut) (f : Frame) : (useMove s l c f).s.mem = c.s.mem := by
  unfold useMove
  all_goals repeat' first | with_reducible rfl | dsimp only | split
theorem useFinal_mem (x : Loom) (c : CollOut) (f : Frame) (t : CollOut) : useFinal x c f = .some t → t.s.mem = c.s.mem := by
  intro h; unfold useFinal at h
  all_goals repeat' first | cases h | split at h | dsimp only at h
  all_goals repeat' first | with_reducible rfl | simp only [startGather_mem] | with_reducible refine Eq.trans (snd_mem (by assumption)) ?_ | with_reducible refine Eq.trans (fst_mem (by assumption)) ?_ | split | dsimp only
theorem useScalar_mem (x : Loom) (c : CollOut) (f : Frame) (t : CollOut) : useScalar x c f = .some t → t.s.mem = c.s.mem := by
  intro h; unfold useScalar at h
  all_goals repeat' first | cases h | split at h | dsimp only at h
  all_goals repeat' first | with_reducible rfl | simp only [startScalar_mem] | with_reducible refine Eq.trans (State_foldl_mem _ (fun _ _ => ?_) _ _) ?_ | with_reducible refine Eq.trans (CollOut_foldl_mem _ (fun _ _ => ?_) _ _) ?_ | with_reducible refine Eq.trans (Lay_foldl_mem _ (fun _ _ => ?_) _ _) ?_ | with_reducible refine Eq.trans (Selecting_foldl_mem _ (fun _ _ => ?_) _ _) ?_ | with_reducible refine Eq.trans (snd_mem (by assumption)) ?_ | with_reducible refine Eq.trans (fst_mem (by assumption)) ?_ | split | (intro _) | dsimp only
@[simp] theorem x2xStart_mem (s : State) (l : Nat) (c : CollOut) : (x2xStart s l c).s.mem = c.s.mem := by
  unfold x2xStart
  all_goals repeat' first | with_reducible rfl | dsimp only | split
@[simp] theorem beginCommit_mem (s : State) (l : Nat) : (beginCommit s l).mem = s.mem := by
  unfold beginCommit
  all_goals repeat' first | with_reducible rfl | simp only [raiseEvt_mem, drawFree_mem, modSrv_mem] | with_reducible refine Eq.trans (State_foldl_mem _ (fun _ _ => ?_) _ _) ?_ | with_reducible refine Eq.trans (CollOut_foldl_mem _ (fun _ _ => ?_) _ _) ?_ | with_reducible refine Eq.trans (Lay_foldl_mem _ (fun _ _ => ?_) _ _) ?_ | with_reducible refine Eq.trans (Selecting_foldl_mem _ (fun _ _ => ?_) _ _) ?_ | with_reducible refine Eq.trans (snd_mem (by assumption)) ?_ | with_reducible refine Eq.trans (fst_mem (by assumption)) ?_ | split | (intro _) | dsimp only
@[simp] theorem bindPick_mem (s : State) (l : Nat) (e : Nat) (pick : Nat) (episode : Bool) : (bindPick s l e pick episode).mem = s.mem := by
  unfold bindPick
  all_goals repeat' first | with_reducible rfl | simp only [pinPick_mem, modReq_mem] | split | dsimp only
@[simp] theorem bobbinRoom_mem (l : Nat) (e : Nat) (c : Selecting) : (bobbinRoom l e c).2.s.mem = c.s.mem := by
  unfold bobbinRoom
  all_goals repeat' first | with_reducible rfl | simp only [raiseEvt_mem] | with_reducible refine Eq.trans (snd_mem (by assumption)) ?_ | with_reducible refine Eq.trans (fst_mem (by assumption)) ?_ | split | dsimp only
@[simp] theorem bobbinToken_modLoomBobbinStale_mem (s : State) (k : Nat) : (bobbinToken.modLoomBobbinStale s k).mem = s.mem := by
  unfold bobbinToken.modLoomBobbinStale
  all_goals repeat' first | with_reducible rfl | dsimp only | split
@[simp] theorem toRecovery_mem (s : State) : (toRecovery s).mem = s.mem := by
  unfold toRecovery
  all_goals repeat' first | with_reducible rfl | simp only [modSvc_mem] | split | dsimp only
@[simp] theorem bootFallback_mem (s : State) : (bootFallback s).mem = s.mem := by
  unfold bootFallback
  all_goals repeat' first | with_reducible rfl | simp only [raiseEvt_mem, modSvc_mem, toRecovery_mem] | with_reducible refine Eq.trans (snd_mem (by assumption)) ?_ | with_reducible refine Eq.trans (fst_mem (by assumption)) ?_ | split | dsimp only
@[simp] theorem budgetReport_mem (s : State) (l : Nat) (rs : List ModuleReport) : (budgetReport s l rs).mem = s.mem := by
  unfold budgetReport
  all_goals repeat' first | with_reducible rfl | simp only [modPower_mem] | with_reducible refine Eq.trans (snd_mem (by assumption)) ?_ | with_reducible refine Eq.trans (fst_mem (by assumption)) ?_ | split | dsimp only
@[simp] theorem freeLimit_mem (s : State) (hi : Nat) : (freeLimit s hi).2.mem = s.mem := by
  unfold freeLimit
  all_goals repeat' first | with_reducible rfl | simp only [drawFree_mem] | with_reducible refine Eq.trans (snd_mem (by assumption)) ?_ | with_reducible refine Eq.trans (fst_mem (by assumption)) ?_ | split | dsimp only
@[simp] theorem capTick_mem (s : State) : (capTick s).mem = s.mem := by
  unfold capTick
  all_goals repeat' first | with_reducible rfl | simp only [modDie_mem, freeLimit_mem, rebind_mem] | with_reducible refine Eq.trans (State_foldl_mem _ (fun _ _ => ?_) _ _) ?_ | with_reducible refine Eq.trans (CollOut_foldl_mem _ (fun _ _ => ?_) _ _) ?_ | with_reducible refine Eq.trans (Lay_foldl_mem _ (fun _ _ => ?_) _ _) ?_ | with_reducible refine Eq.trans (Selecting_foldl_mem _ (fun _ _ => ?_) _ _) ?_ | with_reducible refine Eq.trans (snd_mem (by assumption)) ?_ | with_reducible refine Eq.trans (fst_mem (by assumption)) ?_ | split | (intro _) | dsimp only
@[simp] theorem cfgReject_mem (s : State) : (cfgReject s).mem = s.mem := by
  unfold cfgReject
  all_goals repeat' first | with_reducible rfl | simp only [raiseEvt_mem] | split | dsimp only
@[simp] theorem cmdRun_mem (s : State) (sess : Nat) (ring : Nat) (f : Taken → Except Byte (State × List Byte)) (h_f : ∀ u0 t x, f u0 = .ok (t, x) → t.mem = s.mem) : (cmdRun s sess ring f).mem = s.mem := by
  unfold cmdRun
  all_goals repeat' first | with_reducible rfl | simp only [finish_mem, implies_true] | with_reducible refine Eq.trans (h_f _ _ _ (by assumption)) ?_ | with_reducible refine Eq.trans (snd_mem (by assumption)) ?_ | with_reducible refine Eq.trans (fst_mem (by assumption)) ?_ | split | (intro _) | dsimp only
theorem chooseModes_mem (s : State) (l : Nat) (down : BoxLinks) (started : List (Nat × Nat)) (t : State) : chooseModes s l down started = .some t → t.mem = s.mem := by
  intro h; unfold chooseModes at h
  all_goals repeat' first | cases h | split at h | dsimp only at h
  all_goals repeat' first | with_reducible rfl | simp only [setLoom_mem] | with_reducible refine Eq.trans (State_foldl_mem _ (fun _ _ => ?_) _ _) ?_ | with_reducible refine Eq.trans (CollOut_foldl_mem _ (fun _ _ => ?_) _ _) ?_ | with_reducible refine Eq.trans (Lay_foldl_mem _ (fun _ _ => ?_) _ _) ?_ | with_reducible refine Eq.trans (Selecting_foldl_mem _ (fun _ _ => ?_) _ _) ?_ | split | (intro _) | dsimp only
@[simp] theorem ckptAllIn_mem (s : State) (l : Nat) : (ckptAllIn s l).mem = s.mem := by
  unfold ckptAllIn
  all_goals repeat' first | with_reducible rfl | simp only [endCkpt_mem] | with_reducible refine Eq.trans (snd_mem (by assumption)) ?_ | with_reducible refine Eq.trans (fst_mem (by assumption)) ?_ | split | dsimp only
@[simp] theorem ckptBoundary_mem (s : State) (l : Nat) : (ckptBoundary s l).mem = s.mem := by
  unfold ckptBoundary
  all_goals repeat' first | with_reducible rfl | simp only [modLoom_mem] | split | dsimp only
@[simp] theorem ckptReportOwn_mem (s : State) (l : Nat) (r : CkptRun) : (ckptReportOwn s l r).mem = s.mem := by
  unfold ckptReportOwn
  all_goals repeat' first | with_reducible rfl | simp only [modLoom_mem, ckptAllIn_mem] | split | dsimp only
@[simp] theorem writeShards_mem (l : Nat) (r : CkptRun) (a : List CkptEntry) (a' : Nat) (a'' : Nat) (a''' : State) : (writeShards l r a a' a'' a''').mem = a'''.mem := by
  fun_induction writeShards l r a a' a'' a'''
  all_goals repeat' first | with_reducible rfl | simp +zetaDelta only [hostWr_mem] | with_reducible refine Eq.trans (by assumption) ?_ | split | dsimp only
@[simp] theorem drawOthers_mem (s : State) (l : Nat) : (drawOthers s l).mem = s.mem := by
  unfold drawOthers
  all_goals repeat' first | with_reducible rfl | simp only [modLoom_mem, drawFree_mem] | with_reducible refine Eq.trans (snd_mem (by assumption)) ?_ | with_reducible refine Eq.trans (fst_mem (by assumption)) ?_ | split | dsimp only
theorem ckptSet_mem (s : State) (l : Nat) (runId : W64) (auto : Option Bool) (es : List CkptEntry) (t : State) (x1 : List Byte) : ckptSet s l runId auto es = .ok (t, x1) → t.mem = s.mem := by
  intro h; unfold ckptSet at h
  all_goals repeat' first | cases h | split at h | dsimp only at h
  all_goals repeat' first | with_reducible rfl | simp only [drawOthers_mem, setLoom_mem] | split | dsimp only
@[simp] theorem ckptStarted_mem (s : State) (l : Nat) (step : W64) (digest : List Byte) : (ckptStarted s l step digest).mem = s.mem := by
  unfold ckptStarted
  all_goals repeat' first | with_reducible rfl | simp only [raiseEvt_mem, modLoom_mem] | with_reducible refine Eq.trans (snd_mem (by assumption)) ?_ | with_reducible refine Eq.trans (fst_mem (by assumption)) ?_ | split | dsimp only
@[simp] theorem clearCounters_mem (s : State) (who : Accessor) (offs : List Nat) : (clearCounters s who offs).mem = s.mem := by
  unfold clearCounters
  all_goals repeat' first | with_reducible rfl | simp only [setReg_mem] | with_reducible refine Eq.trans (State_foldl_mem _ (fun _ _ => ?_) _ _) ?_ | with_reducible refine Eq.trans (CollOut_foldl_mem _ (fun _ _ => ?_) _ _) ?_ | with_reducible refine Eq.trans (Lay_foldl_mem _ (fun _ _ => ?_) _ _) ?_ | with_reducible refine Eq.trans (Selecting_foldl_mem _ (fun _ _ => ?_) _ _) ?_ | split | (intro _) | dsimp only
@[simp] theorem clearCovered_mem (s : State) (bs : List Nat) : (clearCovered s bs).mem = s.mem := by
  unfold clearCovered
  all_goals repeat' first | with_reducible rfl | dsimp only | split
@[simp] theorem clearPhases_mem (s : State) (bays : List Nat) : (clearPhases s bays).mem = s.mem := by
  unfold clearPhases
  all_goals repeat' first | with_reducible rfl | simp only [modTlm_mem] | split | dsimp only
@[simp] theorem clearRc_mem (s : State) (off : Nat) : (clearRc s off).mem = s.mem := by
  unfold clearRc
  all_goals repeat' first | with_reducible rfl | simp only [setReg_mem, modLoom_mem] | with_reducible refine Eq.trans (snd_mem (by assumption)) ?_ | with_reducible refine Eq.trans (fst_mem (by assumption)) ?_ | split | dsimp only
@[simp] theorem dobbyCpl_mem (s : State) (x : Loom) (c : DobbyCmd) (st : Byte) : (dobbyCpl s x c st).mem = s.mem := by
  unfold dobbyCpl
  all_goals repeat' first | with_reducible rfl | simp only [postCpl_mem] | split | dsimp only
@[simp] theorem dissolve_mem (s : State) (k : Nat) : (dissolve s k).mem = s.mem := by
  unfold dissolve
  all_goals repeat' first | with_reducible rfl | simp only [modGen_mem, clearRegs_mem] | with_reducible refine Eq.trans (State_foldl_mem _ (fun _ _ => ?_) _ _) ?_ | with_reducible refine Eq.trans (CollOut_foldl_mem _ (fun _ _ => ?_) _ _) ?_ | with_reducible refine Eq.trans (Lay_foldl_mem _ (fun _ _ => ?_) _ _) ?_ | with_reducible refine Eq.trans (Selecting_foldl_mem _ (fun _ _ => ?_) _ _) ?_ | split | (intro _) | dsimp only
@[simp] theorem dropReq_mem (s : State) (e : Nat) : (dropReq s e).mem = s.mem := by
  unfold dropReq
  all_goals repeat' first | with_reducible rfl | simp only [setReq_mem] | split | dsimp only
@[simp] theorem deleteLoom_mem (s : State) (l : Nat) : (deleteLoom s l).mem = s.mem := by
  unfold deleteLoom
  all_goals repeat' first | with_reducible rfl | simp only [endRestore_mem, setLoom_mem, modPower_mem, endCkpt_mem, clearRegs_mem, dissolve_mem, modSvc_mem, dropReq_mem, abandonTaking_mem] | with_reducible refine Eq.trans (State_foldl_mem _ (fun _ _ => ?_) _ _) ?_ | with_reducible refine Eq.trans (CollOut_foldl_mem _ (fun _ _ => ?_) _ _) ?_ | with_reducible refine Eq.trans (Lay_foldl_mem _ (fun _ _ => ?_) _ _) ?_ | with_reducible refine Eq.trans (Selecting_foldl_mem _ (fun _ _ => ?_) _ _) ?_ | with_reducible refine Eq.trans (snd_mem (by assumption)) ?_ | with_reducible refine Eq.trans (fst_mem (by assumption)) ?_ | split | (intro _) | dsimp only
@[simp] theorem deleteSem_mem (s : State) (sem : Nat) : (deleteSem s sem).mem = s.mem := by
  unfold deleteSem
  all_goals repeat' first | with_reducible rfl | simp only [semDone_mem] | with_reducible refine Eq.trans (State_foldl_mem _ (fun _ _ => ?_) _ _) ?_ | with_reducible refine Eq.trans (CollOut_foldl_mem _ (fun _ _ => ?_) _ _) ?_ | with_reducible refine Eq.trans (Lay_foldl_mem _ (fun _ _ => ?_) _ _) ?_ | with_reducible refine Eq.trans (Selecting_foldl_mem _ (fun _ _ => ?_) _ _) ?_ | with_reducible refine Eq.trans (snd_mem (by assumption)) ?_ | with_reducible refine Eq.trans (fst_mem (by assumption)) ?_ | split | (intro _) | dsimp only
@[simp] theorem valuesRec_mem (s : State) (x : Loom) (g : Nat) (st : Nat) : (valuesRec s x g st).2.2.mem = s.mem := by
  unfold valuesRec
  all_goals repeat' first | with_reducible rfl | simp only [drawFree_mem] | with_reducible refine Eq.trans (snd_mem (by assumption)) ?_ | with_reducible refine Eq.trans (fst_mem (by assumption)) ?_ | split | dsimp only
@[simp] theorem countHalf_mem (s : State) (off : Nat) (high : Bool) : (countHalf s off high).mem = s.mem := by
  unfold countHalf
  all_goals repeat' first | with_reducible rfl | simp only [setReg_mem] | split | dsimp only
theorem collConfig_mem (s : State) (l : Nat) (job : W32) (origin : Option (Nat × Nat × Nat)) (extent : Option (Nat × Nat × Nat)) (t : State) (x1 : List Byte) : collConfig s l job origin extent = .ok (t, x1) → t.mem = s.mem := by
  intro h; unfold collConfig at h
  all_goals repeat' first | cases h | split at h | dsimp only at h
  all_goals repeat' first | with_reducible rfl | simp only [drawOthers_mem, setLoom_mem] | with_reducible refine Eq.trans (snd_mem (by assumption)) ?_ | with_reducible refine Eq.trans (fst_mem (by assumption)) ?_ | split | dsimp only
@[simp] theorem completeTag_mem (s : State) (a : Issuer) (tag : BitVec 16) (st : Byte) (high : optParam W32 0) (fl : optParam W64 0) : (completeTag s a tag st high fl).mem = s.mem := by
  unfold completeTag
  all_goals repeat' first | with_reducible rfl | simp only [modStrand_mem] | split | dsimp only
@[simp] theorem collEnd_mem (s : State) (a : Issuer) (o : CollOp) (st : Byte) : (collEnd s a o st).mem = s.mem := by
  unfold collEnd
  all_goals repeat' first | with_reducible rfl | simp only [completeTag_mem, modLoom_mem, modTile_mem] | with_reducible refine Eq.trans (snd_mem (by assumption)) ?_ | with_reducible refine Eq.trans (fst_mem (by assumption)) ?_ | split | dsimp only
@[simp] theorem collTake_mem (s : State) (a : Issuer) (f : FmtD) (o : CollOp) : (collTake s a f o).mem = s.mem := by
  unfold collTake
  all_goals repeat' first | with_reducible rfl | simp only [modStrand_mem, modLoom_mem, modTlm_mem, modTile_mem] | with_reducible refine Eq.trans (snd_mem (by assumption)) ?_ | with_reducible refine Eq.trans (fst_mem (by assumption)) ?_ | split | dsimp only
@[simp] theorem evictDown_mem (s : State) (l : Nat) (n : Nat) : (evictDown s l n).mem = s.mem := by
  unfold evictDown
  all_goals repeat' first | with_reducible rfl | simp only [evictOne_mem] | with_reducible refine Eq.trans (State_foldl_mem _ (fun _ _ => ?_) _ _) ?_ | with_reducible refine Eq.trans (CollOut_foldl_mem _ (fun _ _ => ?_) _ _) ?_ | with_reducible refine Eq.trans (Lay_foldl_mem _ (fun _ _ => ?_) _ _) ?_ | with_reducible refine Eq.trans (Selecting_foldl_mem _ (fun _ _ => ?_) _ _) ?_ | split | (intro _) | dsimp only
@[simp] theorem setCommits_mem (s : State) (l : Nat) (cs : List RowCommit) : (setCommits s l cs).mem = s.mem := by
  unfold setCommits
  all_goals repeat' first | with_reducible rfl | simp only [modSrv_mem] | split | dsimp only
@[simp] theorem writeUnit_mem (s : State) (k : Nat) : (writeUnit s k).mem = s.mem := by
  unfold writeUnit
  all_goals repeat' first | with_reducible rfl | simp only [modLoom_mem] | split | dsimp only
@[simp] theorem shedStepDone_mem (s : State) (l : Nat) : (shedStepDone s l).mem = s.mem := by
  unfold shedStepDone
  all_goals repeat' first | with_reducible rfl | simp only [writeUnit_mem, raiseEvt_mem, modWeave_mem] | with_reducible refine Eq.trans (snd_mem (by assumption)) ?_ | with_reducible refine Eq.trans (fst_mem (by assumption)) ?_ | split | dsimp only
@[simp] theorem stackPlace_mem (s : State) (used : List (Nat × Nat)) (n : Nat) : (stackPlace s used n).2.mem = s.mem := by
  unfold stackPlace
  all_goals repeat' first | with_reducible rfl | simp only [drawFree_mem] | with_reducible refine Eq.trans (snd_mem (by assumption)) ?_ | with_reducible refine Eq.trans (fst_mem (by assumption)) ?_ | split | dsimp only
theorem setCredits_mem (s : State) (l : Nat) (c : Nat) (t : State) : setCredits s l c = .some t → t.mem = s.mem := by
  intro h; unfold setCredits at h
  all_goals repeat' first | cases h | split at h | dsimp only at h
  all_goals repeat' first | with_reducible rfl | simp only [publishMap_mem, stackPlace_mem] | with_reducible refine Eq.trans (snd_mem (by assumption)) ?_ | with_reducible refine Eq.trans (fst_mem (by assumption)) ?_ | split | dsimp only
theorem configLoom_mem (s : State) (l : Nat) (f : LoomConfigF) (t : State) (x1 : List Byte) : configLoom s l f = .ok (t, x1) → t.mem = s.mem := by
  intro h; unfold configLoom at h
  all_goals repeat' first | cases h | split at h | dsimp only at h
  all_goals repeat' first | with_reducible rfl | simp only [modLoom_mem, implies_true] | with_reducible refine Eq.trans (setCredits_mem _ _ _ _ (by assumption)) ?_ | with_reducible refine Eq.trans (State_foldl_mem _ (fun _ _ => ?_) _ _) ?_ | with_reducible refine Eq.trans (CollOut_foldl_mem _ (fun _ _ => ?_) _ _) ?_ | with_reducible refine Eq.trans (Lay_foldl_mem _ (fun _ _ => ?_) _ _) ?_ | with_reducible refine Eq.trans (Selecting_foldl_mem _ (fun _ _ => ?_) _ _) ?_ | with_reducible refine Eq.trans (snd_mem (by assumption)) ?_ | with_reducible refine Eq.trans (fst_mem (by assumption)) ?_ | split | (intro _) | dsimp only
@[simp] theorem releaseReq_mem (s : State) (e : Nat) : (releaseReq s e).mem = s.mem := by
  unfold releaseReq
  all_goals repeat' first | with_reducible rfl | simp only [setReq_mem] | split | dsimp only
@[simp] theorem consWrite_mem (s : State) (e : Nat) (cons : Nat) : (consWrite s e cons).mem = s.mem := by
  unfold consWrite
  all_goals repeat' first | with_reducible rfl | simp only [releaseReq_mem, modReq_mem, admitNow_mem] | split | dsimp only
@[simp] theorem consoleRun_mem (s : State) (f : State → State) (h_f : ∀ u0, (f u0).mem = u0.mem) : (consoleRun s f).mem = s.mem := by
  unfold consoleRun
  all_goals repeat' first | with_reducible rfl | simp only [h_f] | split | dsimp only
@[simp] theorem linkLog_mem (s : State) (type : Nat) (dir : Nat) (io : Nat) (lane : Nat) : (linkLog s type dir io lane).mem = s.mem := by
  unfold linkLog
  all_goals repeat' first | with_reducible rfl | simp only [capture_mem] | split | dsimp only
@[simp] theorem linkDown_mem (s : State) (d : Nat) : (linkDown s d).mem = s.mem := by
  unfold linkDown
  all_goals repeat' first | with_reducible rfl | simp only [linkLog_mem, raiseEvt_mem, setLink_mem] | split | dsimp only
@[simp] theorem resendFlits_mem (s : State) (d : Nat) (p : WeftFlit × Nat → Bool) : (resendFlits s d p).mem = s.mem := by
  unfold resendFlits
  all_goals repeat' first | with_reducible rfl | simp only [send_mem, setLink_mem] | with_reducible refine Eq.trans (State_foldl_mem _ (fun _ _ => ?_) _ _) ?_ | with_reducible refine Eq.trans (CollOut_foldl_mem _ (fun _ _ => ?_) _ _) ?_ | with_reducible refine Eq.trans (Lay_foldl_mem _ (fun _ _ => ?_) _ _) ?_ | with_reducible refine Eq.trans (Selecting_foldl_mem _ (fun _ _ => ?_) _ _) ?_ | split | (intro _) | dsimp only
@[simp] theorem relane_mem (s : State) (d : Nat) : (relane s d).mem = s.mem := by
  unfold relane
  all_goals repeat' first | with_reducible rfl | simp only [linkDown_mem, setLink_mem, resendFlits_mem] | split | dsimp only
@[simp] theorem coordCheck_mem (s : State) (d : Nat) (partner : BitVec 15) : (coordCheck s d partner).mem = s.mem := by
  unfold coordCheck
  all_goals repeat' first | with_reducible rfl | simp only [linkLog_mem, relane_mem, raiseEvt_mem, setLink_mem] | split | dsimp only
@[simp] theorem countBay_mem (s : State) (tile : Nat) (off : Nat) : (countBay s tile off).mem = s.mem := by
  unfold countBay
  all_goals repeat' first | with_reducible rfl | simp only [countReg_mem] | split | dsimp only
theorem createAreas_mem (s : State) (bays : List Nat) (x0 : Nat) (x1 : Nat) (x2 : Nat) (t : State) : createAreas s bays = .some (x0, x1, x2, t) → t.mem = s.mem := by
  intro h; unfold createAreas at h
  all_goals repeat' first | cases h | split at h | dsimp only at h
  all_goals repeat' first | with_reducible rfl | simp only [stackPlace_mem] | with_reducible refine Eq.trans (snd_mem (by assumption)) ?_ | with_reducible refine Eq.trans (fst_mem (by assumption)) ?_ | split | dsimp only
theorem createRing_mem (s : State) (n : Nat) (f : RingCreateF) (t : State) (x1 : List Byte) : createRing s n f = .ok (t, x1) → t.mem = s.mem := by
  intro h; unfold createRing at h
  all_goals repeat' first | cases h | split at h | dsimp only at h
  all_goals repeat' first | with_reducible rfl | simp only [setSession_mem] | with_reducible refine Eq.trans (snd_mem (by assumption)) ?_ | with_reducible refine Eq.trans (fst_mem (by assumption)) ?_ | split | dsimp only
theorem createSem_mem (s : State) (sess : Nat) (sem : Nat) (count : W32) (mask : Option (BitVec 16)) (t : State) (x1 : List Byte) : createSem s sess sem count mask = .ok (t, x1) → t.mem = s.mem := by
  intro h; unfold createSem at h
  all_goals repeat' first | cases h | split at h | dsimp only at h
  all_goals repeat' first | with_reducible rfl | dsimp only | split
@[simp] theorem deliverFlit_mem (s : State) (d : Nat) (f : WeftFlit) : (deliverFlit s d f).mem = s.mem := by
  unfold deliverFlit
  all_goals repeat' first | with_reducible rfl | simp only [setLink_mem, linkSend_mem] | with_reducible refine Eq.trans (State_foldl_mem _ (fun _ _ => ?_) _ _) ?_ | with_reducible refine Eq.trans (CollOut_foldl_mem _ (fun _ _ => ?_) _ _) ?_ | with_reducible refine Eq.trans (Lay_foldl_mem _ (fun _ _ => ?_) _ _) ?_ | with_reducible refine Eq.trans (Selecting_foldl_mem _ (fun _ _ => ?_) _ _) ?_ | with_reducible refine Eq.trans (snd_mem (by assumption)) ?_ | with_reducible refine Eq.trans (fst_mem (by assumption)) ?_ | split | (intro _) | dsimp only
@[simp] theorem dieCfgWrite_mem (s : State) (w : Accessor) (off : Nat) (value : W64) : (dieCfgWrite s w off value).mem = s.mem := by
  unfold dieCfgWrite
  all_goals repeat' first | with_reducible rfl | simp only [cfgReject_mem, modBlock_mem] | with_reducible refine Eq.trans (snd_mem (by assumption)) ?_ | with_reducible refine Eq.trans (fst_mem (by assumption)) ?_ | split | dsimp only
@[simp] theorem nominal_mem (s : State) : (nominal s).2.mem = s.mem := by
  unfold nominal
  all_goals repeat' first | with_reducible rfl | simp only [drawFree_mem] | with_reducible refine Eq.trans (snd_mem (by assumption)) ?_ | with_reducible refine Eq.trans (fst_mem (by assumption)) ?_ | split | dsimp only
@[simp] theorem diePower_mem (s : State) (die : Nat) (counts : List Nat) : (diePower s die counts).mem = s.mem := by
  unfold diePower
  all_goals repeat' first | with_reducible rfl | simp only [modDie_mem, freeLimit_mem, rebind_mem, nominal_mem] | with_reducible refine Eq.trans (State_foldl_mem _ (fun _ _ => ?_) _ _) ?_ | with_reducible refine Eq.trans (CollOut_foldl_mem _ (fun _ _ => ?_) _ _) ?_ | with_reducible refine Eq.trans (Lay_foldl_mem _ (fun _ _ => ?_) _ _) ?_ | with_reducible refine Eq.trans (Selecting_foldl_mem _ (fun _ _ => ?_) _ _) ?_ | with_reducible refine Eq.trans (snd_mem (by assumption)) ?_ | with_reducible refine Eq.trans (fst_mem (by assumption)) ?_ | split | (intro _) | dsimp only
@[simp] theorem divergence_mem (s : State) (measured : Nat) (raw : Nat) : (divergence s measured raw).mem = s.mem := by
  unfold divergence
  all_goals repeat' first | with_reducible rfl | simp only [modPower_mem, raiseEvt_mem, moveCapLimit_mem] | split | dsimp only
@[simp] theorem ringFault_mem (s : State) : (ringFault s).mem = s.mem := by
  unfold ringFault
  all_goals repeat' first | with_reducible rfl | simp only [raiseEvt_mem] | split | dsimp only
@[simp] theorem doorbell_mem (s : State) (w : Accessor) (ring : Nat) (tail : Nat) : (doorbell s w ring tail).mem = s.mem := by
  unfold doorbell
  all_goals repeat' first | with_reducible rfl | simp only [ringFault_mem, modSession_mem] | with_reducible refine Eq.trans (snd_mem (by assumption)) ?_ | with_reducible refine Eq.trans (fst_mem (by assumption)) ?_ | split | dsimp only
@[simp] theorem dropHit_mem (s : State) (l : Nat) (e : Nat) (pick : Nat) : (dropHit s l e pick).2.mem = s.mem := by
  unfold dropHit
  all_goals repeat' first | with_reducible rfl | simp only [raiseEvt_mem, modReq_mem, evictFor_mem, modSrv_mem] | with_reducible refine Eq.trans (snd_mem (by assumption)) ?_ | with_reducible refine Eq.trans (fst_mem (by assumption)) ?_ | split | dsimp only
@[simp] theorem dropLane_mem (s : State) (io : Nat) (lane : Nat) : (dropLane s io lane).mem = s.mem := by
  unfold dropLane
  all_goals repeat' first | with_reducible rfl | simp only [setReg_mem, linkLog_mem, relane_mem, raiseEvt_mem, setLink_mem, noteCause_mem, resendFlits_mem] | split | dsimp only
@[simp] theorem fabError_mem (s : State) (evts : List Nat) (edge : Nat) (die : Nat) (router : Nat) (unit : Nat) : (fabError s evts edge die router unit).mem = s.mem := by
  unfold fabError
  all_goals repeat' first | with_reducible rfl | simp only [raiseEvt_mem, capture_mem] | with_reducible refine Eq.trans (State_foldl_mem _ (fun _ _ => ?_) _ _) ?_ | with_reducible refine Eq.trans (CollOut_foldl_mem _ (fun _ _ => ?_) _ _) ?_ | with_reducible refine Eq.trans (Lay_foldl_mem _ (fun _ _ => ?_) _ _) ?_ | with_reducible refine Eq.trans (Selecting_foldl_mem _ (fun _ _ => ?_) _ _) ?_ | split | (intro _) | dsimp only
@[simp] theorem setPort_mem (s : State) (p : Nat) (x : FabPort) : (setPort s p x).mem = s.mem := by
  unfold setPort
  all_goals repeat' first | with_reducible rfl | dsimp only | split
@[simp] theorem sendFlit_mem (s : State) (p : Nat) (node : Nat) (f : FabFlit) : (sendFlit s p node f).mem = s.mem := by
  unfold sendFlit
  all_goals repeat' first | with_reducible rfl | simp only [setPort_mem] | split | dsimp only
@[simp] theorem reroute_mem (s : State) : (reroute s).mem = s.mem := by
  unfold reroute
  all_goals repeat' first | with_reducible rfl | simp only [sendFlit_mem, setPort_mem] | with_reducible refine Eq.trans (State_foldl_mem _ (fun _ _ => ?_) _ _) ?_ | with_reducible refine Eq.trans (CollOut_foldl_mem _ (fun _ _ => ?_) _ _) ?_ | with_reducible refine Eq.trans (Lay_foldl_mem _ (fun _ _ => ?_) _ _) ?_ | with_reducible refine Eq.trans (Selecting_foldl_mem _ (fun _ _ => ?_) _ _) ?_ | with_reducible refine Eq.trans (snd_mem (by assumption)) ?_ | with_reducible refine Eq.trans (fst_mem (by assumption)) ?_ | split | (intro _) | dsimp only
@[simp] theorem dropPort_mem (s : State) (io : Nat) (dir : Nat) : (dropPort s io dir).mem = s.mem := by
  unfold dropPort
  all_goals repeat' first | with_reducible rfl | simp only [dropLane_mem] | with_reducible refine Eq.trans (State_foldl_mem _ (fun _ _ => ?_) _ _) ?_ | with_reducible refine Eq.trans (CollOut_foldl_mem _ (fun _ _ => ?_) _ _) ?_ | with_reducible refine Eq.trans (Lay_foldl_mem _ (fun _ _ => ?_) _ _) ?_ | with_reducible refine Eq.trans (Selecting_foldl_mem _ (fun _ _ => ?_) _ _) ?_ | split | (intro _) | dsimp only
@[simp] theorem dropRing_mem (s : State) (n : Nat) (kind : RingKind) (k : Nat) : (dropRing s n kind k).mem = s.mem := by
  unfold dropRing
  all_goals repeat' first | with_reducible rfl | simp only [modSession_mem] | with_reducible refine Eq.trans (snd_mem (by assumption)) ?_ | with_reducible refine Eq.trans (fst_mem (by assumption)) ?_ | split | dsimp only
@[simp] theorem freeRate_mem (s : State) : (freeRate s).2.mem = s.mem := by
  unfold freeRate
  all_goals repeat' first | with_reducible rfl | simp only [drawFree_mem] | with_reducible refine Eq.trans (snd_mem (by assumption)) ?_ | with_reducible refine Eq.trans (fst_mem (by assumption)) ?_ | split | dsimp only
@[simp] theorem errShown_mem (s : State) (errNs : Int) : (errShown s errNs).2.mem = s.mem := by
  unfold errShown
  all_goals repeat' first | with_reducible rfl | simp only [drawFree_mem] | with_reducible refine Eq.trans (snd_mem (by assumption)) ?_ | with_reducible refine Eq.trans (fst_mem (by assumption)) ?_ | split | dsimp only
@[simp] theorem edgeStep_mem (s : State) (first : Bool) (errNs : Int) : (edgeStep s first errNs).mem = s.mem := by
  unfold edgeStep
  all_goals repeat' first | with_reducible rfl | simp only [raiseEvt_mem, modTlm_mem] | with_reducible refine Eq.trans (snd_mem (by assumption)) ?_ | with_reducible refine Eq.trans (fst_mem (by assumption)) ?_ | split | dsimp only
@[simp] theorem edgeAccepted_mem (s : State) (first : Bool) (errNs : Int) : (edgeAccepted s first errNs).mem = s.mem := by
  unfold edgeAccepted
  all_goals repeat' first | with_reducible rfl | simp only [freeRate_mem, errShown_mem, raiseEvt_mem, modTlm_mem, edgeStep_mem] | with_reducible refine Eq.trans (snd_mem (by assumption)) ?_ | with_reducible refine Eq.trans (fst_mem (by assumption)) ?_ | split | dsimp only
@[simp] theorem endBlocks_mem (s : State) (o : AsyncOp) : (endBlocks s o).mem = s.mem := by
  unfold endBlocks
  all_goals repeat' first | with_reducible rfl | simp only [modTile_mem] | with_reducible refine Eq.trans (State_foldl_mem _ (fun _ _ => ?_) _ _) ?_ | with_reducible refine Eq.trans (CollOut_foldl_mem _ (fun _ _ => ?_) _ _) ?_ | with_reducible refine Eq.trans (Lay_foldl_mem _ (fun _ _ => ?_) _ _) ?_ | with_reducible refine Eq.trans (Selecting_foldl_mem _ (fun _ _ => ?_) _ _) ?_ | split | (intro _) | dsimp only
@[simp] theorem enterFlit_mem (s : State) (p : Nat) (f : FabFlit) : (enterFlit s p f).mem = s.mem := by
  unfold enterFlit
  all_goals repeat' first | with_reducible rfl | simp only [setPort_mem] | split | dsimp only
@[simp] theorem epochHot_mem (s : State) (l : Nat) (promote : Bool) (promoteMin : Nat) (h : HotRegion) : (epochHot s l promote promoteMin h).mem = s.mem := by
  unfold epochHot
  all_goals repeat' first | with_reducible rfl | simp only [putHot_mem, beginTodo_mem] | split | dsimp only
@[simp] theorem epochEnd_mem (s : State) : (epochEnd s).mem = s.mem := by
  unfold epochEnd
  all_goals repeat' first | with_reducible rfl | simp only [setReg_mem, epochHot_mem] | with_reducible refine Eq.trans (State_foldl_mem _ (fun _ _ => ?_) _ _) ?_ | with_reducible refine Eq.trans (CollOut_foldl_mem _ (fun _ _ => ?_) _ _) ?_ | with_reducible refine Eq.trans (Lay_foldl_mem _ (fun _ _ => ?_) _ _) ?_ | with_reducible refine Eq.trans (Selecting_foldl_mem _ (fun _ _ => ?_) _ _) ?_ | with_reducible refine Eq.trans (snd_mem (by assumption)) ?_ | with_reducible refine Eq.trans (fst_mem (by assumption)) ?_ | split | (intro _) | dsimp only
@[simp] theorem evictIf_mem (s : State) (l : Nat) (f : PfxEntry → Bool) : (evictIf s l f).mem = s.mem := by
  unfold evictIf
  all_goals repeat' first | with_reducible rfl | simp only [raiseEvt_mem, modSrv_mem] | with_reducible refine Eq.trans (State_foldl_mem _ (fun _ _ => ?_) _ _) ?_ | with_reducible refine Eq.trans (CollOut_foldl_mem _ (fun _ _ => ?_) _ _) ?_ | with_reducible refine Eq.trans (Lay_foldl_mem _ (fun _ _ => ?_) _ _) ?_ | with_reducible refine Eq.trans (Selecting_foldl_mem _ (fun _ _ => ?_) _ _) ?_ | split | (intro _) | dsimp only
@[simp] theorem migWrite_mem (s : State) (value : W64) : (migWrite s value).mem = s.mem := by
  unfold migWrite
  all_goals repeat' first | with_reducible rfl | dsimp only | split
@[simp] theorem opEnd_mem (s : State) (tile : Nat) (o : AsyncOp) (st : Byte) (high : optParam W32 0) (fl : optParam W64 0) : (opEnd s tile o st high fl).mem = s.mem := by
  unfold opEnd
  all_goals repeat' first | with_reducible rfl | simp only [completeTag_mem, endBlocks_mem, modTile_mem] | split | dsimp only
@[simp] theorem rmtEnd_mem (s : State) (a : Issuer) (o : AsyncOp) (st : Byte) : (rmtEnd s a o st).mem = s.mem := by
  unfold rmtEnd
  all_goals repeat' first | with_reducible rfl | simp only [opEnd_mem, modTile_mem] | split | dsimp only
@[simp] theorem holdRows_mem (s : State) (l : Nat) (who : RowUser) (rs : List (Nat × Nat)) : (holdRows s l who rs).mem = s.mem := by
  unfold holdRows
  all_goals repeat' first | with_reducible rfl | simp only [setLoom_mem] | split | dsimp only
@[simp] theorem linkReplayFrom_mem (s : State) (d : Nat) (seq : BitVec 16) : (linkReplayFrom s d seq).mem = s.mem := by
  unfold linkReplayFrom
  all_goals repeat' first | with_reducible rfl | simp only [linkDown_mem, linkLog_mem, raiseEvt_mem, setLink_mem, noteCause_mem, countReg_mem, resendFlits_mem] | split | dsimp only
@[simp] theorem saveImage_mem (s : State) (l : Nat) (us : Nat) : (saveImage s l us).mem = s.mem := by
  unfold saveImage
  all_goals repeat' first | with_reducible rfl | simp only [raiseEvt_mem, modLoom_mem, leaveBays_mem] | with_reducible refine Eq.trans (snd_mem (by assumption)) ?_ | with_reducible refine Eq.trans (fst_mem (by assumption)) ?_ | split | dsimp only
@[simp] theorem losePps_mem (s : State) : (losePps s).mem = s.mem := by
  unfold losePps
  all_goals repeat' first | with_reducible rfl | simp only [raiseEvt_mem, modTlm_mem] | split | dsimp only
@[simp] theorem setInput_mem (s : State) (inputB : Bool) (x : Input) : (setInput s inputB x).mem = s.mem := by
  unfold setInput
  all_goals repeat' first | with_reducible rfl | simp only [modPower_mem] | split | dsimp only
@[simp] theorem goodInput_mem (s : State) (inputB : Bool) (v : Nat) : (goodInput s inputB v).mem = s.mem := by
  unfold goodInput
  all_goals repeat' first | with_reducible rfl | simp only [setInput_mem] | split | dsimp only
@[simp] theorem setFn_mem (s : State) (w : Accessor) (x : FnRegs) : (setFn s w x).mem = s.mem := by
  unfold setFn
  all_goals repeat' first | with_reducible rfl | dsimp only | split
@[simp] theorem limitDies_mem (s : State) (ds : List Nat) (r : Nat) (v : Nat) : (limitDies s ds r v).mem = s.mem := by
  unfold limitDies
  all_goals repeat' first | with_reducible rfl | simp only [modDie_mem, rebind_mem] | with_reducible refine Eq.trans (State_foldl_mem _ (fun _ _ => ?_) _ _) ?_ | with_reducible refine Eq.trans (CollOut_foldl_mem _ (fun _ _ => ?_) _ _) ?_ | with_reducible refine Eq.trans (Lay_foldl_mem _ (fun _ _ => ?_) _ _) ?_ | with_reducible refine Eq.trans (Selecting_foldl_mem _ (fun _ _ => ?_) _ _) ?_ | split | (intro _) | dsimp only
@[simp] theorem supplyLimit_mem (s : State) : (supplyLimit s).mem = s.mem := by
  unfold supplyLimit
  all_goals repeat' first | with_reducible rfl | simp only [limitDies_mem, modPower_mem] | split | dsimp only
@[simp] theorem switchOver_mem (s : State) : (switchOver s).mem = s.mem := by
  unfold switchOver
  all_goals repeat' first | with_reducible rfl | simp only [raiseEvt_mem, supplyLimit_mem, applyCap_mem] | split | dsimp only
@[simp] theorem leaveInput_mem (s : State) (inputB : Bool) (x : Input) : (leaveInput s inputB x).mem = s.mem := by
  unfold leaveInput
  all_goals repeat' first | with_reducible rfl | simp only [switchOver_mem, setInput_mem] | split | dsimp only
@[simp] theorem outInput_mem (s : State) (inputB : Bool) (st : InputState) (v : Nat) (bit : Nat) : (outInput s inputB st v bit).mem = s.mem := by
  unfold outInput
  all_goals repeat' first | with_reducible rfl | simp only [leaveInput_mem, raiseEvt_mem] | split | dsimp only
@[simp] theorem sensorValue_mem (s : State) (k : Sensor) : (sensorValue s k).2.mem = s.mem := by
  unfold sensorValue
  all_goals repeat' first | with_reducible rfl | simp only [drawFree_mem] | with_reducible refine Eq.trans (snd_mem (by assumption)) ?_ | with_reducible refine Eq.trans (fst_mem (by assumption)) ?_ | split | dsimp only
@[simp] theorem modConsole_mem (s : State) (f : Console → Console) : (modConsole s f).mem = s.mem := by
  unfold modConsole
  all_goals repeat' first | with_reducible rfl | dsimp only | split
@[simp] theorem putPassword_mem (s : State) (pw : List Byte) (salt : List Byte) : (putPassword s pw salt).mem = s.mem := by
  unfold putPassword
  all_goals repeat' first | with_reducible rfl | simp only [modConsole_mem] | split | dsimp only
theorem lrnConfig_mem (s : State) (l : Nat) (f : LrnConfigF) (t : State) (x1 : List Byte) : lrnConfig s l f = .ok (t, x1) → t.mem = s.mem := by
  intro h; unfold lrnConfig at h
  all_goals repeat' first | cases h | split at h | dsimp only at h
  all_goals repeat' first | with_reducible rfl | simp only [setLoom_mem] | split | dsimp only
@[simp] theorem takeEntry_mem (s : State) (sess : Nat) (ring : Nat) (n : Nat) : (takeEntry s sess ring n).mem = s.mem := by
  unfold takeEntry
  all_goals repeat' first | with_reducible rfl | simp only [modSession_mem] | with_reducible refine Eq.trans (snd_mem (by assumption)) ?_ | with_reducible refine Eq.trans (fst_mem (by assumption)) ?_ | split | dsimp only
@[simp] theorem fetch_mem (s : State) (n : Nat) (ring : Nat) (e : CmdEntry) : (fetch s n ring e).mem = s.mem := by
  unfold fetch
  all_goals repeat' first | with_reducible rfl | simp only [postCpl_mem, ringFault_mem, takeEntry_mem, modSession_mem, setSession_mem] | with_reducible refine Eq.trans (snd_mem (by assumption)) ?_ | with_reducible refine Eq.trans (fst_mem (by assumption)) ?_ | split | dsimp only
@[simp] theorem modCtrlWrite_mem (s : State) (value : Nat) : (modCtrlWrite s value).mem = s.mem := by
  unfold modCtrlWrite
  all_goals repeat' first | with_reducible rfl | simp only [cfgReject_mem, modTlm_mem] | split | dsimp only
@[simp] theorem finishWith_mem (s : State) (sess : Nat) (ring : Nat) (status : Byte) (result : List Byte) : (finishWith s sess ring status result).mem = s.mem := by
  unfold finishWith
  all_goals repeat' first | with_reducible rfl | simp only [postCpl_mem, modSession_mem] | with_reducible refine Eq.trans (snd_mem (by assumption)) ?_ | with_reducible refine Eq.trans (fst_mem (by assumption)) ?_ | split | dsimp only
@[simp] theorem restoreAllIn_mem (s : State) (l : Nat) : (restoreAllIn s l).mem = s.mem := by
  unfold restoreAllIn
  all_goals repeat' first | with_reducible rfl | simp only [finishWith_mem, endRestore_mem, setLoom_mem, modLoom_mem] | with_reducible refine Eq.trans (snd_mem (by assumption)) ?_ | with_reducible refine Eq.trans (fst_mem (by assumption)) ?_ | split | dsimp only
@[simp] theorem restoreBegin_mem (s : State) (l : Nat) (who : Nat × Nat) (d : RestoreData) (m : List Byte) : (restoreBegin s l who d m).mem = s.mem := by
  unfold restoreBegin
  all_goals repeat' first | with_reducible rfl | simp only [setLoom_mem, restoreAllIn_mem] | split | dsimp only
@[simp] theorem moduleSnapshot_mem (s : State) (busy : Bool) : (moduleSnapshot s busy).mem = s.mem := by
  unfold moduleSnapshot
  all_goals repeat' first | with_reducible rfl | simp only [raiseEvt_mem, modTlm_mem, hostWr_mem] | split | dsimp only
@[simp] theorem flipThrum_mem (s : State) (tile : Nat) (g : Nat) (e : BitVec 33) : (flipThrum s tile g e).mem = s.mem := by
  unfold flipThrum
  all_goals repeat' first | with_reducible rfl | dsimp only | split
@[simp] theorem flipWord_mem (s : State) (tile : Nat) (w : Nat) (e : BitVec 33) : (flipWord s tile w e).mem = s.mem := by
  unfold flipWord
  all_goals repeat' first | with_reducible rfl | dsimp only | split
@[simp] theorem rebuilt_mem (s : State) (tile : Nat) (evt : Nat) (addr : Nat) (thrum : Bool) : (rebuilt s tile evt addr thrum).mem = s.mem := by
  unfold rebuilt
  all_goals repeat' first | with_reducible rfl | simp only [countBay_mem, memError_mem, noteCause_mem] | split | dsimp only
@[simp] theorem semStatus_mem (s : State) (a : Issuer) (sd : Nat) (st : Byte) : (semStatus s a sd st).mem = s.mem := by
  unfold semStatus
  all_goals repeat' first | with_reducible rfl | simp only [modStrand_mem] | split | dsimp only
@[simp] theorem serveLoomGo_mem (s : State) (l : Nat) (sem : Nat) (a : Nat) : (serveLoomGo s l sem a).mem = s.mem := by
  fun_induction serveLoomGo s l sem a
  all_goals repeat' first | with_reducible rfl | simp +zetaDelta only [setLoom_mem, semDone_mem] | with_reducible refine Eq.trans (snd_mem (by assumption)) ?_ | with_reducible refine Eq.trans (fst_mem (by assumption)) ?_ | with_reducible refine Eq.trans (by assumption) ?_ | split | dsimp only
@[simp] theorem serveLoomSem_mem (s : State) (l : Nat) (sem : Nat) : (serveLoomSem s l sem).mem = s.mem := by
  unfold serveLoomSem
  all_goals repeat' first | with_reducible rfl | simp only [serveLoomGo_mem] | split | dsimp only
@[simp] theorem loadVec_mem (sz : Nat) (g : Nat → W32) (a : Issuer) (f : FmtM) (tap : Bool) (s : State) (l : Nat) (y : Strand) (accs : List (Nat × Nat)) : (loadVec sz g a f tap s l y accs).mem = s.mem := by
  unfold loadVec
  all_goals repeat' first | with_reducible rfl | simp only [touchRange_mem, setStrand_mem] | with_reducible refine Eq.trans (State_foldl_mem _ (fun _ _ => ?_) _ _) ?_ | with_reducible refine Eq.trans (CollOut_foldl_mem _ (fun _ _ => ?_) _ _) ?_ | with_reducible refine Eq.trans (Lay_foldl_mem _ (fun _ _ => ?_) _ _) ?_ | with_reducible refine Eq.trans (Selecting_foldl_mem _ (fun _ _ => ?_) _ _) ?_ | split | (intro _) | dsimp only
@[simp] theorem takeDetour_mem (s : State) (d : Nat) (lines : List Nat) : (takeDetour s d lines).mem = s.mem := by
  unfold takeDetour
  all_goals repeat' first | with_reducible rfl | simp only [raiseEvt_mem, setLink_mem, sendFrame_mem] | with_reducible refine Eq.trans (State_foldl_mem _ (fun _ _ => ?_) _ _) ?_ | with_reducible refine Eq.trans (CollOut_foldl_mem _ (fun _ _ => ?_) _ _) ?_ | with_reducible refine Eq.trans (Lay_foldl_mem _ (fun _ _ => ?_) _ _) ?_ | with_reducible refine Eq.trans (Selecting_foldl_mem _ (fun _ _ => ?_) _ _) ?_ | with_reducible refine Eq.trans (snd_mem (by assumption)) ?_ | with_reducible refine Eq.trans (fst_mem (by assumption)) ?_ | split | (intro _) | dsimp only
@[simp] theorem relayDetour_mem (s : State) (d : Nat) (job : W32) (stage : Nat) (out : Option Nat) : (relayDetour s d job stage out).mem = s.mem := by
  unfold relayDetour
  all_goals repeat' first | with_reducible rfl | simp only [setLink_mem] | split | dsimp only
@[simp] theorem stallRings_mem (s : State) (l : Nat) : (stallRings s l).mem = s.mem := by
  unfold stallRings
  all_goals repeat' first | with_reducible rfl | simp only [raiseEvt_mem, modReq_mem] | with_reducible refine Eq.trans (State_foldl_mem _ (fun _ _ => ?_) _ _) ?_ | with_reducible refine Eq.trans (CollOut_foldl_mem _ (fun _ _ => ?_) _ _) ?_ | with_reducible refine Eq.trans (Lay_foldl_mem _ (fun _ _ => ?_) _ _) ?_ | with_reducible refine Eq.trans (Selecting_foldl_mem _ (fun _ _ => ?_) _ _) ?_ | split | (intro _) | dsimp only
@[simp] theorem flipBeam_mem (s : State) (l : Nat) : (flipBeam s l).mem = s.mem := by
  unfold flipBeam
  all_goals repeat' first | with_reducible rfl | simp only [modGen_mem] | split | dsimp only
@[simp] theorem flipEvict_mem (s : State) (l : Nat) (old : GenLoom) : (flipEvict s l old).mem = s.mem := by
  unfold flipEvict
  all_goals repeat' first | with_reducible rfl | simp only [evictIf_mem] | split | dsimp only
@[simp] theorem setPortOf_mem (s : State) (io : Nat) (x : Port) : (setPortOf s io x).mem = s.mem := by
  unfold setPortOf
  all_goals repeat' first | with_reducible rfl | dsimp only | split
@[simp] theorem revertBorrow_mem (s : State) (b : Int) : (revertBorrow s b).mem = s.mem := by
  unfold revertBorrow
  all_goals repeat' first | with_reducible rfl | simp only [modPower_mem, raiseEvt_mem] | split | dsimp only
@[simp] theorem openSession_mem (s : State) (w : Accessor) (n : Nat) (slot : Nat) : (openSession s w n slot).mem = s.mem := by
  unfold openSession
  all_goals repeat' first | with_reducible rfl | simp only [raiseEvt_mem, setSession_mem, setFn_mem, setSlot_mem] | split | dsimp only
@[simp] theorem respond_mem (s : State) (w : Accessor) (slot : Nat) : (respond s w slot).mem = s.mem := by
  unfold respond
  all_goals repeat' first | with_reducible rfl | simp only [openSession_mem, authFails_mem, raiseEvt_mem, setFn_mem] | split | dsimp only
@[simp] theorem shareOut_mem (s : State) (otherDies : Nat) : (shareOut s otherDies).mem = s.mem := by
  unfold shareOut
  all_goals repeat' first | with_reducible rfl | simp only [modDie_mem, modPower_mem] | with_reducible refine Eq.trans (State_foldl_mem _ (fun _ _ => ?_) _ _) ?_ | with_reducible refine Eq.trans (CollOut_foldl_mem _ (fun _ _ => ?_) _ _) ?_ | with_reducible refine Eq.trans (Lay_foldl_mem _ (fun _ _ => ?_) _ _) ?_ | with_reducible refine Eq.trans (Selecting_foldl_mem _ (fun _ _ => ?_) _ _) ?_ | split | (intro _) | dsimp only
@[simp] theorem nextCorr_mem (s : State) (measured : Nat) (raw : Nat) : (nextCorr s measured raw).2.mem = s.mem := by
  unfold nextCorr
  all_goals repeat' first | with_reducible rfl | simp only [drawFree_mem] | with_reducible refine Eq.trans (snd_mem (by assumption)) ?_ | with_reducible refine Eq.trans (fst_mem (by assumption)) ?_ | split | dsimp only
@[simp] theorem uniformTick_mem (s : State) : (uniformTick s).mem = s.mem := by
  unfold uniformTick
  all_goals repeat' first | with_reducible rfl | simp only [modDie_mem, rebind_mem, nominal_mem] | with_reducible refine Eq.trans (State_foldl_mem _ (fun _ _ => ?_) _ _) ?_ | with_reducible refine Eq.trans (CollOut_foldl_mem _ (fun _ _ => ?_) _ _) ?_ | with_reducible refine Eq.trans (Lay_foldl_mem _ (fun _ _ => ?_) _ _) ?_ | with_reducible refine Eq.trans (Selecting_foldl_mem _ (fun _ _ => ?_) _ _) ?_ | with_reducible refine Eq.trans (snd_mem (by assumption)) ?_ | with_reducible refine Eq.trans (fst_mem (by assumption)) ?_ | split | (intro _) | dsimp only
@[simp] theorem powerTick_mem (s : State) (m : PowerWindow) : (powerTick s m).mem = s.mem := by
  unfold powerTick
  all_goals repeat' first | with_reducible rfl | simp only [capTick_mem, shareOut_mem, balance_mem, modPower_mem, divergence_mem, applyCap_mem, nextCorr_mem, uniformTick_mem] | with_reducible refine Eq.trans (snd_mem (by assumption)) ?_ | with_reducible refine Eq.trans (fst_mem (by assumption)) ?_ | split | dsimp only
@[simp] theorem sampleEvent_mem (s : State) (l : Nat) (tile : Nat) : (sampleEvent s l tile).mem = s.mem := by
  unfold sampleEvent
  all_goals repeat' first | with_reducible rfl | simp only [modLoom_mem, drawFree_mem, sendEvt_mem] | with_reducible refine Eq.trans (snd_mem (by assumption)) ?_ | with_reducible refine Eq.trans (fst_mem (by assumption)) ?_ | split | dsimp only
@[simp] theorem notePivot_mem (s : State) (l : Nat) (tile : Nat) (strand : Nat) (pw : W32) : (notePivot s l tile strand pw).mem = s.mem := by
  unfold notePivot
  all_goals repeat' first | with_reducible rfl | simp only [raiseEvt_mem, capture_mem, countHalf_mem] | split | dsimp only
@[simp] theorem settleBars_mem (s : State) (l : Nat) (tile : Nat) : (settleBars s l tile).mem = s.mem := by
  unfold settleBars
  all_goals repeat' first | with_reducible rfl | simp only [barRelease_mem] | with_reducible refine Eq.trans (State_foldl_mem _ (fun _ _ => ?_) _ _) ?_ | with_reducible refine Eq.trans (CollOut_foldl_mem _ (fun _ _ => ?_) _ _) ?_ | with_reducible refine Eq.trans (Lay_foldl_mem _ (fun _ _ => ?_) _ _) ?_ | with_reducible refine Eq.trans (Selecting_foldl_mem _ (fun _ _ => ?_) _ _) ?_ | with_reducible refine Eq.trans (snd_mem (by assumption)) ?_ | with_reducible refine Eq.trans (fst_mem (by assumption)) ?_ | split | (intro _) | dsimp only
@[simp] theorem ppsEdge_mem (s : State) (errNs : Int) (sinceNs : Nat) : (ppsEdge s errNs sinceNs).mem = s.mem := by
  unfold ppsEdge
  all_goals repeat' first | with_reducible rfl | simp only [edgeAccepted_mem, modTlm_mem] | split | dsimp only
@[simp] theorem login_mem (s : State) (pw : List Byte) : (login s pw).mem = s.mem := by
  unfold login
  all_goals repeat' first | with_reducible rfl | simp only [raiseEvt_mem, modConsole_mem] | split | dsimp only
@[simp] theorem stackTemp_mem (s : State) (off : Nat) : (stackTemp s off).2.mem = s.mem := by
  unfold stackTemp
  all_goals repeat' first | with_reducible rfl | simp only [drawFree_mem] | with_reducible refine Eq.trans (snd_mem (by assumption)) ?_ | with_reducible refine Eq.trans (fst_mem (by assumption)) ?_ | split | dsimp only
@[simp] theorem regRead_mem (s : State) (w : Accessor) (off : Nat) (width : Nat) : (regRead s w off width).mem = s.mem := by
  unfold regRead
  all_goals repeat' first | with_reducible rfl | simp only [stackTemp_mem, clearRc_mem] | with_reducible refine Eq.trans (snd_mem (by assumption)) ?_ | with_reducible refine Eq.trans (fst_mem (by assumption)) ?_ | split | dsimp only
@[simp] theorem firmwareUpdate_mem (s : State) (i : Image) : (firmwareUpdate s i).mem = s.mem := by
  unfold firmwareUpdate
  all_goals repeat' first | with_reducible rfl | simp only [raiseEvt_mem, modSvc_mem] | split | dsimp only
@[simp] theorem moderate_mem (s : State) (n : Nat) (ring : Option Nat) (byTime : Bool) : (moderate s n ring byTime).mem = s.mem := by
  unfold moderate
  all_goals repeat' first | with_reducible rfl | simp only [setSession_mem] | with_reducible refine Eq.trans (snd_mem (by assumption)) ?_ | with_reducible refine Eq.trans (fst_mem (by assumption)) ?_ | split | dsimp only
theorem lrnUnbind_mem (s : State) (l : Nat) (recs : List BindRec) (t : State) (x1 : List Byte) : lrnUnbind s l recs = .ok (t, x1) → t.mem = s.mem := by
  intro h; unfold lrnUnbind at h
  all_goals repeat' first | cases h | split at h | dsimp only at h
  all_goals repeat' first | with_reducible rfl | simp only [modLoom_mem] | with_reducible refine Eq.trans (snd_mem (by assumption)) ?_ | with_reducible refine Eq.trans (fst_mem (by assumption)) ?_ | split | dsimp only
@[simp] theorem flitAck_mem (s : State) (p : Nat) (seq : BitVec 12) : (flitAck s p seq).mem = s.mem := by
  unfold flitAck
  all_goals repeat' first | with_reducible rfl | simp only [setPort_mem] | with_reducible refine Eq.trans (snd_mem (by assumption)) ?_ | with_reducible refine Eq.trans (fst_mem (by assumption)) ?_ | split | dsimp only
@[simp] theorem restoreReport_mem (s : State) (l : Nat) (box : Nat) (runId : W64) (step : W64) (digest : List Byte) : (restoreReport s l box runId step digest).mem = s.mem := by
  unfold restoreReport
  all_goals repeat' first | with_reducible rfl | simp only [setLoom_mem, restoreAllIn_mem] | with_reducible refine Eq.trans (snd_mem (by assumption)) ?_ | with_reducible refine Eq.trans (fst_mem (by assumption)) ?_ | split | dsimp only
@[simp] theorem linkFlitIn_mem (s : State) (d : Nat) (f : WeftFlit) (fecOk : Bool) : (linkFlitIn s d f fecOk).mem = s.mem := by
  unfold linkFlitIn
  all_goals repeat' first | with_reducible rfl | simp only [deliverFlit_mem, linkLog_mem, raiseEvt_mem, setLink_mem, countReg_mem, drawFree_mem] | with_reducible refine Eq.trans (snd_mem (by assumption)) ?_ | with_reducible refine Eq.trans (fst_mem (by assumption)) ?_ | split | dsimp only
@[simp] theorem lostInput_mem (s : State) (inputB : Bool) (v : Nat) : (lostInput s inputB v).mem = s.mem := by
  unfold lostInput
  all_goals repeat' first | with_reducible rfl | simp only [leaveInput_mem, raiseEvt_mem] | split | dsimp only
@[simp] theorem fnWrite_mem (s : State) (who : Accessor) (o : Nat) (w : RegWrite) : (fnWrite s who o w).mem = s.mem := by
  unfold fnWrite
  all_goals repeat' first | with_reducible rfl | simp only [setFn_mem] | with_reducible refine Eq.trans (snd_mem (by assumption)) ?_ | with_reducible refine Eq.trans (fst_mem (by assumption)) ?_ | split | dsimp only
@[simp] theorem tlmWrite_mem (s : State) (who : Accessor) (off : Nat) (w : RegWrite) : (tlmWrite s who off w).mem = s.mem := by
  unfold tlmWrite
  all_goals repeat' first | with_reducible rfl | simp only [cfgReject_mem, modCtrlWrite_mem, modTlm_mem, modBlock_mem] | split | dsimp only
@[simp] theorem loomWrite_mem (s : State) (off : Nat) (w : RegWrite) : (loomWrite s off w).mem = s.mem := by
  unfold loomWrite
  all_goals repeat' first | with_reducible rfl | simp only [setReg_mem, modLoom_mem, modTile_mem] | with_reducible refine Eq.trans (snd_mem (by assumption)) ?_ | with_reducible refine Eq.trans (fst_mem (by assumption)) ?_ | split | dsimp only
@[simp] theorem moduleWrite_mem (s : State) (off : Nat) (w : RegWrite) : (moduleWrite s off w).mem = s.mem := by
  unfold moduleWrite
  all_goals repeat' first | with_reducible rfl | simp only [setReg_mem] | with_reducible refine Eq.trans (snd_mem (by assumption)) ?_ | with_reducible refine Eq.trans (fst_mem (by assumption)) ?_ | split | dsimp only
@[simp] theorem regWrite_mem (s : State) (who : Accessor) (off : Nat) (width : Nat) (value : W64) : (regWrite s who off width value).mem = s.mem := by
  unfold regWrite
  all_goals repeat' first | with_reducible rfl | simp only [fnWrite_mem, tlmWrite_mem, loomWrite_mem, moduleWrite_mem] | with_reducible refine Eq.trans (snd_mem (by assumption)) ?_ | with_reducible refine Eq.trans (fst_mem (by assumption)) ?_ | split | dsimp only
@[simp] theorem touchMove_mem (s : State) (l : Nat) (src : Nat) (dst : Nat) (n : Nat) : (touchMove s l src dst n).mem = s.mem := by
  unfold touchMove
  all_goals repeat' first | with_reducible rfl | simp only [touchRange_mem] | split | dsimp only
@[simp] theorem flitIn_mem (s : State) (p : Nat) (f : FabFlit) : (flitIn s p f).mem = s.mem := by
  unfold flitIn
  all_goals repeat' first | with_reducible rfl | simp only [sendFlit_mem, enterFlit_mem, setPort_mem] | with_reducible refine Eq.trans (snd_mem (by assumption)) ?_ | with_reducible refine Eq.trans (fst_mem (by assumption)) ?_ | split | dsimp only
@[simp] theorem runEntry_mem (l : Nat) (e : RunEntry) (s : State) : (runEntry l e s).mem = s.mem := by
  unfold runEntry
  all_goals repeat' first | with_reducible rfl | simp only [dobbyCpl_mem, raiseEvt_mem, modLoom_mem, takeEntry_mem, modTile_mem] | with_reducible refine Eq.trans (State_foldl_mem _ (fun _ _ => ?_) _ _) ?_ | with_reducible refine Eq.trans (CollOut_foldl_mem _ (fun _ _ => ?_) _ _) ?_ | with_reducible refine Eq.trans (Lay_foldl_mem _ (fun _ _ => ?_) _ _) ?_ | with_reducible refine Eq.trans (Selecting_foldl_mem _ (fun _ _ => ?_) _ _) ?_ | split | (intro _) | dsimp only
@[simp] theorem rejoin_mem (s : State) (l : Nat) : (rejoin s l).mem = s.mem := by
  unfold rejoin
  all_goals repeat' first | with_reducible rfl | simp only [serveSem_mem, serveLoomSem_mem, modLoom_mem, semDone_mem] | with_reducible refine Eq.trans (State_foldl_mem _ (fun _ _ => ?_) _ _) ?_ | with_reducible refine Eq.trans (CollOut_foldl_mem _ (fun _ _ => ?_) _ _) ?_ | with_reducible refine Eq.trans (Lay_foldl_mem _ (fun _ _ => ?_) _ _) ?_ | with_reducible refine Eq.trans (Selecting_foldl_mem _ (fun _ _ => ?_) _ _) ?_ | with_reducible refine Eq.trans (snd_mem (by assumption)) ?_ | with_reducible refine Eq.trans (fst_mem (by assumption)) ?_ | split | (intro _) | dsimp only
@[simp] theorem timebaseSet_mem (s : State) (mode : Option Bool) (offsetNs : Option Int) (seconds : Option W64) : (timebaseSet s mode offsetNs seconds).mem = s.mem := by
  unfold timebaseSet
  all_goals repeat' first | with_reducible rfl | simp only [raiseEvt_mem, modTlm_mem] | with_reducible refine Eq.trans (snd_mem (by assumption)) ?_ | with_reducible refine Eq.trans (fst_mem (by assumption)) ?_ | split | dsimp only
@[simp] theorem startPorts_mem (s : State) (f : StartFinding) : (startPorts s f).mem = s.mem := by
  unfold startPorts
  all_goals repeat' first | with_reducible rfl | dsimp only | with_reducible refine Eq.trans (State_foldl_mem _ (fun _ _ => ?_) _ _) ?_ | with_reducible refine Eq.trans (CollOut_foldl_mem _ (fun _ _ => ?_) _ _) ?_ | with_reducible refine Eq.trans (Lay_foldl_mem _ (fun _ _ => ?_) _ _) ?_ | with_reducible refine Eq.trans (Selecting_foldl_mem _ (fun _ _ => ?_) _ _) ?_ | split | (intro _)
@[simp] theorem sendCoord_mem (s : State) (d : Nat) : (sendCoord s d).mem = s.mem := by
  unfold sendCoord
  all_goals repeat' first | with_reducible rfl | simp only [send_mem] | split | dsimp only
@[simp] theorem putLane_mem (s : State) (f : LaneFinding) : (putLane s f).mem = s.mem := by
  unfold putLane
  all_goals repeat' first | with_reducible rfl | simp only [setReg_mem] | split | dsimp only
@[simp] theorem startLinks_mem (s : State) (f : StartFinding) : (startLinks s f).mem = s.mem := by
  unfold startLinks
  all_goals repeat' first | with_reducible rfl | simp only [setReg_mem, coordCheck_mem, sendCoord_mem, putLane_mem] | with_reducible refine Eq.trans (State_foldl_mem _ (fun _ _ => ?_) _ _) ?_ | with_reducible refine Eq.trans (CollOut_foldl_mem _ (fun _ _ => ?_) _ _) ?_ | with_reducible refine Eq.trans (Lay_foldl_mem _ (fun _ _ => ?_) _ _) ?_ | with_reducible refine Eq.trans (Selecting_foldl_mem _ (fun _ _ => ?_) _ _) ?_ | split | (intro _) | dsimp only
@[simp] theorem startFabric_mem (s : State) (f : StartFinding) : (startFabric s f).mem = s.mem := by
  unfold startFabric
  all_goals repeat' first | with_reducible rfl | simp only [setReg_mem] | with_reducible refine Eq.trans (State_foldl_mem _ (fun _ _ => ?_) _ _) ?_ | with_reducible refine Eq.trans (CollOut_foldl_mem _ (fun _ _ => ?_) _ _) ?_ | with_reducible refine Eq.trans (Lay_foldl_mem _ (fun _ _ => ?_) _ _) ?_ | with_reducible refine Eq.trans (Selecting_foldl_mem _ (fun _ _ => ?_) _ _) ?_ | split | (intro _) | dsimp only
@[simp] theorem startDies_mem (s : State) (f : StartFinding) : (startDies s f).mem = s.mem := by
  unfold startDies
  all_goals repeat' first | with_reducible rfl | simp only [modDie_mem, modSvc_mem] | with_reducible refine Eq.trans (State_foldl_mem _ (fun _ _ => ?_) _ _) ?_ | with_reducible refine Eq.trans (CollOut_foldl_mem _ (fun _ _ => ?_) _ _) ?_ | with_reducible refine Eq.trans (Lay_foldl_mem _ (fun _ _ => ?_) _ _) ?_ | with_reducible refine Eq.trans (Selecting_foldl_mem _ (fun _ _ => ?_) _ _) ?_ | split | (intro _) | dsimp only
@[simp] theorem startUp_mem (s : State) (f : StartFinding) : (startUp s f).mem = s.mem := by
  unfold startUp
  all_goals repeat' first | with_reducible rfl | simp only [startPorts_mem, startLinks_mem, startFabric_mem, startDies_mem, modSvc_mem, modTlm_mem, toRecovery_mem, applyCap_mem] | with_reducible refine Eq.trans (snd_mem (by assumption)) ?_ | with_reducible refine Eq.trans (fst_mem (by assumption)) ?_ | split | dsimp only
@[simp] theorem replayOne_mem (recovered : Bool) (s : State) (addr : Nat) : (replayOne recovered s addr).mem = s.mem := by
  unfold replayOne
  all_goals repeat' first | with_reducible rfl | simp only [memError_mem, noteCause_mem, countReg_mem] | split | dsimp only
theorem srvConfig_mem (s : State) (l : Nat) (f : SrvConfigF) (t : State) (x1 : List Byte) : srvConfig s l f = .ok (t, x1) → t.mem = s.mem := by
  intro h; unfold srvConfig at h
  all_goals repeat' first | cases h | split at h | dsimp only at h
  all_goals repeat' first | with_reducible rfl | simp only [evictDown_mem, setLoom_mem] | split | dsimp only
theorem tlmConfig_mem (s : State) (l : Nat) (f : TlmConfigF) (t : State) (x1 : List Byte) : tlmConfig s l f = .ok (t, x1) → t.mem = s.mem := by
  intro h; unfold tlmConfig at h
  all_goals repeat' first | cases h | split at h | dsimp only at h
  all_goals repeat' first | with_reducible rfl | simp only [setLoom_mem, modTile_mem] | with_reducible refine Eq.trans (State_foldl_mem _ (fun _ _ => ?_) _ _) ?_ | with_reducible refine Eq.trans (CollOut_foldl_mem _ (fun _ _ => ?_) _ _) ?_ | with_reducible refine Eq.trans (Lay_foldl_mem _ (fun _ _ => ?_) _ _) ?_ | with_reducible refine Eq.trans (Selecting_foldl_mem _ (fun _ _ => ?_) _ _) ?_ | split | (intro _) | dsimp only
@[simp] theorem reqFull_mem (s : State) (l : Nat) : (reqFull s l).mem = s.mem := by
  unfold reqFull
  all_goals repeat' first | with_reducible rfl | simp only [raiseEvt_mem, modSrv_mem] | split | dsimp only
@[simp] theorem retrainDir_mem (found : List LaneFinding) (s : State) (d : Nat) : (retrainDir found s d).mem = s.mem := by
  unfold retrainDir
  all_goals repeat' first | with_reducible rfl | simp only [relane_mem, setLink_mem, sendCoord_mem, putLane_mem] | with_reducible refine Eq.trans (State_foldl_mem _ (fun _ _ => ?_) _ _) ?_ | with_reducible refine Eq.trans (CollOut_foldl_mem _ (fun _ _ => ?_) _ _) ?_ | with_reducible refine Eq.trans (Lay_foldl_mem _ (fun _ _ => ?_) _ _) ?_ | with_reducible refine Eq.trans (Selecting_foldl_mem _ (fun _ _ => ?_) _ _) ?_ | split | (intro _) | dsimp only
@[simp] theorem frameTick_mem (s : State) : (frameTick s).mem = s.mem := by
  unfold frameTick
  all_goals repeat' first | with_reducible rfl | simp only [driveFrames_mem] | with_reducible refine Eq.trans (State_foldl_mem _ (fun _ _ => ?_) _ _) ?_ | with_reducible refine Eq.trans (CollOut_foldl_mem _ (fun _ _ => ?_) _ _) ?_ | with_reducible refine Eq.trans (Lay_foldl_mem _ (fun _ _ => ?_) _ _) ?_ | with_reducible refine Eq.trans (Selecting_foldl_mem _ (fun _ _ => ?_) _ _) ?_ | split | (intro _) | dsimp only
@[simp] theorem tick_mem (s : State) : (tick s).mem = s.mem := by
  unfold tick
  all_goals repeat' first | with_reducible rfl | simp only [modTlm_mem, drawFree_mem] | with_reducible refine Eq.trans (snd_mem (by assumption)) ?_ | with_reducible refine Eq.trans (fst_mem (by assumption)) ?_ | split | dsimp only
@[simp] theorem mtxTick_mem (s : State) (tile : Nat) : (mtxTick s tile).mem = s.mem := by
  unfold mtxTick
  all_goals repeat' first | with_reducible rfl | simp only [setTile_mem] | with_reducible refine Eq.trans (State_foldl_mem _ (fun _ _ => ?_) _ _) ?_ | with_reducible refine Eq.trans (CollOut_foldl_mem _ (fun _ _ => ?_) _ _) ?_ | with_reducible refine Eq.trans (Lay_foldl_mem _ (fun _ _ => ?_) _ _) ?_ | with_reducible refine Eq.trans (Selecting_foldl_mem _ (fun _ _ => ?_) _ _) ?_ | with_reducible refine Eq.trans (snd_mem (by assumption)) ?_ | with_reducible refine Eq.trans (fst_mem (by assumption)) ?_ | split | (intro _) | dsimp only
@[simp] theorem mtxTicks_mem (s : State) : (mtxTicks s).mem = s.mem := by
  unfold mtxTicks
  all_goals repeat' first | with_reducible rfl | simp only [mtxTick_mem] | with_reducible refine Eq.trans (State_foldl_mem _ (fun _ _ => ?_) _ _) ?_ | with_reducible refine Eq.trans (CollOut_foldl_mem _ (fun _ _ => ?_) _ _) ?_ | with_reducible refine Eq.trans (Lay_foldl_mem _ (fun _ _ => ?_) _ _) ?_ | with_reducible refine Eq.trans (Selecting_foldl_mem _ (fun _ _ => ?_) _ _) ?_ | split | (intro _) | dsimp only
end Sys2Proof.Machine
end

