-- ==== Sys2Proof/Laws/SessionsSame.lean ====
section
/-! SUPPORT. The shared operations that leave the sessions as they are: one lemma for each that several operations call. -/
namespace Sys2Proof.Machine
open Sys2Proof
set_option linter.unusedTactic false
set_option linter.unreachableTactic false
set_option linter.unusedSimpArgs false
theorem State_foldl_sessions {α : Type} (g : State → α → State) (hg : ∀ s x, (g s x).sessions = s.sessions) (l : List α) (s : State) : (l.foldl g s).sessions = s.sessions := by
  induction l generalizing s with
  | nil => rfl
  | cons x l ih => simp only [List.foldl_cons, ih, hg]
theorem CollOut_foldl_sessions {α : Type} (g : CollOut → α → CollOut) (hg : ∀ s x, (g s x).s.sessions = s.s.sessions) (l : List α) (s : CollOut) : (l.foldl g s).s.sessions = s.s.sessions := by
  induction l generalizing s with
  | nil => rfl
  | cons x l ih => simp only [List.foldl_cons, ih, hg]
theorem Lay_foldl_sessions {α : Type} (g : Lay → α → Lay) (hg : ∀ s x, (g s x).s.sessions = s.s.sessions) (l : List α) (s : Lay) : (l.foldl g s).s.sessions = s.s.sessions := by
  induction l generalizing s with
  | nil => rfl
  | cons x l ih => simp only [List.foldl_cons, ih, hg]
theorem Selecting_foldl_sessions {α : Type} (g : Selecting → α → Selecting) (hg : ∀ s x, (g s x).s.sessions = s.s.sessions) (l : List α) (s : Selecting) : (l.foldl g s).s.sessions = s.s.sessions := by
  induction l generalizing s with
  | nil => rfl
  | cons x l ih => simp only [List.foldl_cons, ih, hg]
theorem snd_sessions {α : Type} {p : α × State} {a : α} {t : State} (h : p = (a, t)) : t.sessions = p.2.sessions := by rw [h]
theorem fst_sessions {α : Type} {p : State × α} {a : α} {t : State} (h : p = (t, a)) : t.sessions = p.1.sessions := by rw [h]
@[simp] theorem modGen_sessions (s : State) (l : Nat) (f : GenLoom → GenLoom) : (modGen s l f).sessions = s.sessions := by
  unfold modGen
  all_goals repeat' first | with_reducible rfl | simp only [modLoom_sessions] | split | dsimp only
@[simp] theorem wrData_sessions (s : State) (a : Nat) (bs : List Byte) : (wrData s a bs).sessions = s.sessions := by
  unfold wrData
  all_goals repeat' first | with_reducible rfl | simp only [wrN_sessions] | split | dsimp only
@[simp] theorem objWrite_sessions (s : State) (x : Loom) (obj : Nat) (off : Nat) (bs : List Byte) : (objWrite s x obj off bs).sessions = s.sessions := by
  unfold objWrite
  all_goals repeat' first | with_reducible rfl | simp only [wrN_sessions, wrData_sessions] | with_reducible refine Eq.trans (State_foldl_sessions _ (fun _ _ => ?_) _ _) ?_ | with_reducible refine Eq.trans (CollOut_foldl_sessions _ (fun _ _ => ?_) _ _) ?_ | with_reducible refine Eq.trans (Lay_foldl_sessions _ (fun _ _ => ?_) _ _) ?_ | with_reducible refine Eq.trans (Selecting_foldl_sessions _ (fun _ _ => ?_) _ _) ?_ | with_reducible refine Eq.trans (snd_sessions (by assumption)) ?_ | with_reducible refine Eq.trans (fst_sessions (by assumption)) ?_ | split | (intro _) | dsimp only
@[simp] theorem modWeave_sessions (s : State) (k : Nat) (f : Weave → Weave) : (modWeave s k f).sessions = s.sessions := by
  unfold modWeave
  all_goals repeat' first | with_reducible rfl | dsimp only | split
@[simp] theorem send_sessions (s : State) (m : OutMsg) : (send s m).sessions = s.sessions := by
  unfold send
  all_goals repeat' first | with_reducible rfl | dsimp only | split
@[simp] theorem setLink_sessions (s : State) (d : Nat) (x : LinkDir) : (setLink s d x).sessions = s.sessions := by
  unfold setLink
  all_goals repeat' first | with_reducible rfl | dsimp only | split
@[simp] theorem putFlit_sessions (s : State) (d : Nat) (f : WeftFlit) : (putFlit s d f).sessions = s.sessions := by
  unfold putFlit
  all_goals repeat' first | with_reducible rfl | simp only [send_sessions, setLink_sessions] | split | dsimp only
@[simp] theorem linkSend_sessions (s : State) (d : Nat) (vc : BitVec 2) (bs : List Byte) : (linkSend s d vc bs).sessions = s.sessions := by
  unfold linkSend
  all_goals repeat' first | with_reducible rfl | simp only [putFlit_sessions, setLink_sessions] | with_reducible refine Eq.trans (State_foldl_sessions _ (fun _ _ => ?_) _ _) ?_ | with_reducible refine Eq.trans (CollOut_foldl_sessions _ (fun _ _ => ?_) _ _) ?_ | with_reducible refine Eq.trans (Lay_foldl_sessions _ (fun _ _ => ?_) _ _) ?_ | with_reducible refine Eq.trans (Selecting_foldl_sessions _ (fun _ _ => ?_) _ _) ?_ | split | (intro _) | dsimp only
@[simp] theorem sendFrame_sessions (s : State) (dir : Option Nat) (toward : Nat) (f : Frame) : (sendFrame s dir toward f).sessions = s.sessions := by
  unfold sendFrame
  all_goals repeat' first | with_reducible rfl | simp only [send_sessions, linkSend_sessions] | with_reducible refine Eq.trans (snd_sessions (by assumption)) ?_ | with_reducible refine Eq.trans (fst_sessions (by assumption)) ?_ | split | dsimp only
@[simp] theorem modTileOf_sessions (s : State) (l : Nat) (t : Nat) (f : Tile → Tile) : (modTileOf s l t f).sessions = s.sessions := by
  unfold modTileOf
  all_goals repeat' first | with_reducible rfl | simp only [modLoom_sessions, modTile_sessions] | with_reducible refine Eq.trans (snd_sessions (by assumption)) ?_ | with_reducible refine Eq.trans (fst_sessions (by assumption)) ?_ | split | dsimp only
@[simp] theorem takeDelivered_sessions (s : State) (f : Frame) : (takeDelivered s f).sessions = s.sessions := by
  unfold takeDelivered
  all_goals repeat' first | with_reducible rfl | simp only [setLink_sessions] | with_reducible refine Eq.trans (snd_sessions (by assumption)) ?_ | with_reducible refine Eq.trans (fst_sessions (by assumption)) ?_ | split | dsimp only
@[simp] theorem answerFrame_sessions (s : State) (l : Nat) (tile : Nat) (f : Frame) (kind : Nat) : (answerFrame s l tile f kind).sessions = s.sessions := by
  unfold answerFrame
  all_goals repeat' first | with_reducible rfl | simp only [sendFrame_sessions, drawFree_sessions] | with_reducible refine Eq.trans (snd_sessions (by assumption)) ?_ | with_reducible refine Eq.trans (fst_sessions (by assumption)) ?_ | split | dsimp only
@[simp] theorem modBlock_sessions (s : State) (b : Nat) (f : DieBlock → DieBlock) : (modBlock s b f).sessions = s.sessions := by
  unfold modBlock
  all_goals repeat' first | with_reducible rfl | simp only [modTlm_sessions] | split | dsimp only
@[simp] theorem capture_sessions (s : State) (validReg : Nat) (valid : W64) (others : List (Nat × W64)) : (capture s validReg valid others).sessions = s.sessions := by
  unfold capture
  all_goals repeat' first | with_reducible rfl | simp only [setReg_sessions, orReg_sessions] | with_reducible refine Eq.trans (State_foldl_sessions _ (fun _ _ => ?_) _ _) ?_ | with_reducible refine Eq.trans (CollOut_foldl_sessions _ (fun _ _ => ?_) _ _) ?_ | with_reducible refine Eq.trans (Lay_foldl_sessions _ (fun _ _ => ?_) _ _) ?_ | with_reducible refine Eq.trans (Selecting_foldl_sessions _ (fun _ _ => ?_) _ _) ?_ | split | (intro _) | dsimp only
@[simp] theorem semDone_sessions (s : State) (a : Issuer) (st : Byte) : (semDone s a st).sessions = s.sessions := by
  unfold semDone
  all_goals repeat' first | with_reducible rfl | simp only [modStrand_sessions] | with_reducible refine Eq.trans (snd_sessions (by assumption)) ?_ | with_reducible refine Eq.trans (fst_sessions (by assumption)) ?_ | split | dsimp only
@[simp] theorem serveShared_sessions (s : State) (sem : Nat) (a : Nat) : (serveShared s sem a).sessions = s.sessions := by
  fun_induction serveShared s sem a
  all_goals repeat' first | with_reducible rfl | simp +zetaDelta only [semDone_sessions] | with_reducible refine Eq.trans (snd_sessions (by assumption)) ?_ | with_reducible refine Eq.trans (fst_sessions (by assumption)) ?_ | with_reducible refine Eq.trans (by assumption) ?_ | split | dsimp only
@[simp] theorem serveSem_sessions (s : State) (sem : Nat) : (serveSem s sem).sessions = s.sessions := by
  unfold serveSem
  all_goals repeat' first | with_reducible rfl | simp only [serveShared_sessions] | with_reducible refine Eq.trans (snd_sessions (by assumption)) ?_ | with_reducible refine Eq.trans (fst_sessions (by assumption)) ?_ | split | dsimp only
@[simp] theorem leaveQueues_sessions (s : State) (l : Nat) : (leaveQueues s l).sessions = s.sessions := by
  unfold leaveQueues
  all_goals repeat' first | with_reducible rfl | simp only [serveSem_sessions, modLoom_sessions] | with_reducible refine Eq.trans (State_foldl_sessions _ (fun _ _ => ?_) _ _) ?_ | with_reducible refine Eq.trans (CollOut_foldl_sessions _ (fun _ _ => ?_) _ _) ?_ | with_reducible refine Eq.trans (Lay_foldl_sessions _ (fun _ _ => ?_) _ _) ?_ | with_reducible refine Eq.trans (Selecting_foldl_sessions _ (fun _ _ => ?_) _ _) ?_ | split | (intro _) | dsimp only
@[simp] theorem putRecord_sessions (s : State) (k : Nat) (bs : List Byte) : (putRecord s k bs).sessions = s.sessions := by
  unfold putRecord
  all_goals repeat' first | with_reducible rfl | simp only [wrN_sessions, wr_sessions] | split | dsimp only
@[simp] theorem pinPick_sessions (s : State) (l : Nat) (pick : Nat) (up : Bool) : (pinPick s l pick up).sessions = s.sessions := by
  unfold pinPick
  all_goals repeat' first | with_reducible rfl | simp only [modLoom_sessions] | split | dsimp only
@[simp] theorem takeEv_sessions (s : State) : (takeEv s).2.sessions = s.sessions := by
  unfold takeEv
  all_goals repeat' first | with_reducible rfl | dsimp only | split
@[simp] theorem putOut_sessions (s : State) (e : Nat) (kind : Nat) (token : Nat) (pos : Nat) (pick : Nat) (st : Nat) (logprob : Nat) : (putOut s e kind token pos pick st logprob).sessions = s.sessions := by
  unfold putOut
  all_goals repeat' first | with_reducible rfl | simp only [modReq_sessions, hostWr_sessions] | with_reducible refine Eq.trans (snd_sessions (by assumption)) ?_ | with_reducible refine Eq.trans (fst_sessions (by assumption)) ?_ | split | dsimp only
@[simp] theorem endReq_sessions (s : State) (e : Nat) (st : Byte) : (endReq s e st).sessions = s.sessions := by
  unfold endReq
  all_goals repeat' first | with_reducible rfl | simp only [putRecord_sessions, pinPick_sessions, takeEv_sessions, modReq_sessions, putOut_sessions] | with_reducible refine Eq.trans (snd_sessions (by assumption)) ?_ | with_reducible refine Eq.trans (fst_sessions (by assumption)) ?_ | split | dsimp only
@[simp] theorem rejectDrafts_sessions (s : State) (l : Nat) (n : Nat) : (rejectDrafts s l n).sessions = s.sessions := by
  unfold rejectDrafts
  all_goals repeat' first | with_reducible rfl | simp only [count48_sessions] | split | dsimp only
@[simp] theorem modSrv_sessions (s : State) (l : Nat) (f : SrvLoom → SrvLoom) : (modSrv s l f).sessions = s.sessions := by
  unfold modSrv
  all_goals repeat' first | with_reducible rfl | simp only [modLoom_sessions] | split | dsimp only
@[simp] theorem dropStep_sessions (s : State) (l : Nat) : (dropStep s l).sessions = s.sessions := by
  unfold dropStep
  all_goals repeat' first | with_reducible rfl | simp only [rejectDrafts_sessions, modLoom_sessions, modSrv_sessions] | with_reducible refine Eq.trans (snd_sessions (by assumption)) ?_ | with_reducible refine Eq.trans (fst_sessions (by assumption)) ?_ | split | dsimp only
@[simp] theorem endAllReqs_sessions (s : State) (l : Nat) (st : Byte) : (endAllReqs s l st).sessions = s.sessions := by
  unfold endAllReqs
  all_goals repeat' first | with_reducible rfl | simp only [endReq_sessions, dropStep_sessions] | with_reducible refine Eq.trans (State_foldl_sessions _ (fun _ _ => ?_) _ _) ?_ | with_reducible refine Eq.trans (CollOut_foldl_sessions _ (fun _ _ => ?_) _ _) ?_ | with_reducible refine Eq.trans (Lay_foldl_sessions _ (fun _ _ => ?_) _ _) ?_ | with_reducible refine Eq.trans (Selecting_foldl_sessions _ (fun _ _ => ?_) _ _) ?_ | split | (intro _) | dsimp only
@[simp] theorem startScalar_sessions (x : Loom) (c : CollOut) : (startScalar x c).s.sessions = c.s.sessions := by
  unfold startScalar
  all_goals repeat' first | with_reducible rfl | dsimp only | with_reducible refine Eq.trans (snd_sessions (by assumption)) ?_ | with_reducible refine Eq.trans (fst_sessions (by assumption)) ?_ | split
@[simp] theorem startGather_sessions (x : Loom) (c : CollOut) : (startGather x c).s.sessions = c.s.sessions := by
  unfold startGather
  all_goals repeat' first | with_reducible rfl | dsimp only | with_reducible refine Eq.trans (snd_sessions (by assumption)) ?_ | with_reducible refine Eq.trans (fst_sessions (by assumption)) ?_ | split
@[simp] theorem serveAt_sessions (s : State) (a : RowAccess) (at_ : Nat) : (serveAt s a at_).sessions = s.sessions := by
  unfold serveAt
  all_goals repeat' first | with_reducible rfl | simp only [wrData_sessions] | split | dsimp only
@[simp] theorem serveRow_sessions (s : State) (a : RowAccess) : (serveRow s a).sessions = s.sessions := by
  unfold serveRow
  all_goals repeat' first | with_reducible rfl | simp only [modLoom_sessions, serveAt_sessions] | with_reducible refine Eq.trans (snd_sessions (by assumption)) ?_ | with_reducible refine Eq.trans (fst_sessions (by assumption)) ?_ | split | dsimp only
@[simp] theorem alive_sessions (s : State) (f : State → State) (h_f : ∀ u0, (f u0).sessions = u0.sessions) : (alive s f).sessions = s.sessions := by
  unfold alive
  all_goals repeat' first | with_reducible rfl | simp only [h_f] | split | dsimp only
@[simp] theorem putOp_sessions (s : State) (tile : Nat) (l : Nat) (o : AsyncOp) : (putOp s tile l o).sessions = s.sessions := by
  unfold putOp
  all_goals repeat' first | with_reducible rfl | simp only [modTileOf_sessions] | split | dsimp only
@[simp] theorem rmtReply_sessions (s : State) (q : RmtRequest) (st : Byte) (data : List Byte) : (rmtReply s q st data).sessions = s.sessions := by
  unfold rmtReply
  all_goals repeat' first | with_reducible rfl | simp only [send_sessions, putOp_sessions] | with_reducible refine Eq.trans (snd_sessions (by assumption)) ?_ | with_reducible refine Eq.trans (fst_sessions (by assumption)) ?_ | split | dsimp only
@[simp] theorem touchRange_sessions (s : State) (l : Nat) (a : Nat) (n : Nat) (write : Bool) : (touchRange s l a n write).sessions = s.sessions := by
  unfold touchRange
  all_goals repeat' first | with_reducible rfl | simp only [modLoom_sessions] | with_reducible refine Eq.trans (State_foldl_sessions _ (fun _ _ => ?_) _ _) ?_ | with_reducible refine Eq.trans (CollOut_foldl_sessions _ (fun _ _ => ?_) _ _) ?_ | with_reducible refine Eq.trans (Lay_foldl_sessions _ (fun _ _ => ?_) _ _) ?_ | with_reducible refine Eq.trans (Selecting_foldl_sessions _ (fun _ _ => ?_) _ _) ?_ | with_reducible refine Eq.trans (snd_sessions (by assumption)) ?_ | with_reducible refine Eq.trans (fst_sessions (by assumption)) ?_ | split | (intro _) | dsimp only
@[simp] theorem clearVia_sessions (s : State) (x : Loom) (a : Nat) (n : Nat) : (clearVia s x a n).sessions = s.sessions := by
  unfold clearVia
  all_goals repeat' first | with_reducible rfl | dsimp only | split
@[simp] theorem writeVia_sessions (s : State) (l : Nat) (a : Nat) (bs : List Byte) : (writeVia s l a bs).sessions = s.sessions := by
  unfold writeVia
  all_goals repeat' first | with_reducible rfl | simp only [clearVia_sessions, wrN_sessions, wrData_sessions] | with_reducible refine Eq.trans (State_foldl_sessions _ (fun _ _ => ?_) _ _) ?_ | with_reducible refine Eq.trans (CollOut_foldl_sessions _ (fun _ _ => ?_) _ _) ?_ | with_reducible refine Eq.trans (Lay_foldl_sessions _ (fun _ _ => ?_) _ _) ?_ | with_reducible refine Eq.trans (Selecting_foldl_sessions _ (fun _ _ => ?_) _ _) ?_ | split | (intro _) | dsimp only
@[simp] theorem publishMap_sessions (s : State) (l : Nat) (f : Loom → Loom) : (publishMap s l f).sessions = s.sessions := by
  unfold publishMap
  all_goals repeat' first | with_reducible rfl | simp only [modLoom_sessions] | split | dsimp only
@[simp] theorem leaveBays_sessions (s : State) (l : Nat) : (leaveBays s l).sessions = s.sessions := by
  unfold leaveBays
  all_goals repeat' first | with_reducible rfl | simp only [setLoom_sessions, modLoom_sessions, modTile_sessions] | with_reducible refine Eq.trans (State_foldl_sessions _ (fun _ _ => ?_) _ _) ?_ | with_reducible refine Eq.trans (CollOut_foldl_sessions _ (fun _ _ => ?_) _ _) ?_ | with_reducible refine Eq.trans (Lay_foldl_sessions _ (fun _ _ => ?_) _ _) ?_ | with_reducible refine Eq.trans (Selecting_foldl_sessions _ (fun _ _ => ?_) _ _) ?_ | split | (intro _) | dsimp only
@[simp] theorem setSlot_sessions (s : State) (k : Nat) (x : KeySlot) : (setSlot s k x).sessions = s.sessions := by
  unfold setSlot
  all_goals repeat' first | with_reducible rfl | dsimp only | split
@[simp] theorem putHot_sessions (s : State) (l : Nat) (h : HotRegion) : (putHot s l h).sessions = s.sessions := by
  unfold putHot
  all_goals repeat' first | with_reducible rfl | simp only [modLoom_sessions] | split | dsimp only
@[simp] theorem countHandoffs_sessions (s : State) (l : Nat) (n : Nat) : (countHandoffs s l n).sessions = s.sessions := by
  unfold countHandoffs
  all_goals repeat' first | with_reducible rfl | simp only [modLoom_sessions] | split | dsimp only
@[simp] theorem clearBays_sessions (s : State) (bays : List Nat) : (clearBays s bays).sessions = s.sessions := by
  unfold clearBays
  all_goals repeat' first | with_reducible rfl | dsimp only | with_reducible refine Eq.trans (snd_sessions (by assumption)) ?_ | with_reducible refine Eq.trans (fst_sessions (by assumption)) ?_ | split
@[simp] theorem clearCounters_sessions (s : State) (who : Accessor) (offs : List Nat) : (clearCounters s who offs).sessions = s.sessions := by
  unfold clearCounters
  all_goals repeat' first | with_reducible rfl | simp only [setReg_sessions] | with_reducible refine Eq.trans (State_foldl_sessions _ (fun _ _ => ?_) _ _) ?_ | with_reducible refine Eq.trans (CollOut_foldl_sessions _ (fun _ _ => ?_) _ _) ?_ | with_reducible refine Eq.trans (Lay_foldl_sessions _ (fun _ _ => ?_) _ _) ?_ | with_reducible refine Eq.trans (Selecting_foldl_sessions _ (fun _ _ => ?_) _ _) ?_ | split | (intro _) | dsimp only
@[simp] theorem dissolve_sessions (s : State) (k : Nat) : (dissolve s k).sessions = s.sessions := by
  unfold dissolve
  all_goals repeat' first | with_reducible rfl | simp only [modGen_sessions, clearRegs_sessions] | with_reducible refine Eq.trans (State_foldl_sessions _ (fun _ _ => ?_) _ _) ?_ | with_reducible refine Eq.trans (CollOut_foldl_sessions _ (fun _ _ => ?_) _ _) ?_ | with_reducible refine Eq.trans (Lay_foldl_sessions _ (fun _ _ => ?_) _ _) ?_ | with_reducible refine Eq.trans (Selecting_foldl_sessions _ (fun _ _ => ?_) _ _) ?_ | split | (intro _) | dsimp only
@[simp] theorem serveHeld_sessions (l : Nat) (a : Nat) (a' : State) : (serveHeld l a a').sessions = a'.sessions := by
  fun_induction serveHeld l a a'
  all_goals repeat' first | with_reducible rfl | simp +zetaDelta only [serveRow_sessions, modLoom_sessions] | with_reducible refine Eq.trans (snd_sessions (by assumption)) ?_ | with_reducible refine Eq.trans (fst_sessions (by assumption)) ?_ | with_reducible refine Eq.trans (by assumption) ?_ | split | dsimp only
@[simp] theorem serveAll_sessions (s : State) (l : Nat) : (serveAll s l).sessions = s.sessions := by
  unfold serveAll
  all_goals repeat' first | with_reducible rfl | simp only [serveHeld_sessions] | split | dsimp only
@[simp] theorem hotStop_sessions (s : State) (l : Nat) : (hotStop s l).sessions = s.sessions := by
  unfold hotStop
  all_goals repeat' first | with_reducible rfl | simp only [serveAll_sessions, putHot_sessions, countHandoffs_sessions, wrData_sessions] | with_reducible refine Eq.trans (State_foldl_sessions _ (fun _ _ => ?_) _ _) ?_ | with_reducible refine Eq.trans (CollOut_foldl_sessions _ (fun _ _ => ?_) _ _) ?_ | with_reducible refine Eq.trans (Lay_foldl_sessions _ (fun _ _ => ?_) _ _) ?_ | with_reducible refine Eq.trans (Selecting_foldl_sessions _ (fun _ _ => ?_) _ _) ?_ | with_reducible refine Eq.trans (snd_sessions (by assumption)) ?_ | with_reducible refine Eq.trans (fst_sessions (by assumption)) ?_ | split | (intro _) | dsimp only
@[simp] theorem completeTag_sessions (s : State) (a : Issuer) (tag : BitVec 16) (st : Byte) (high : optParam W32 0) (fl : optParam W64 0) : (completeTag s a tag st high fl).sessions = s.sessions := by
  unfold completeTag
  all_goals repeat' first | with_reducible rfl | simp only [modStrand_sessions] | split | dsimp only
@[simp] theorem writeUnit_sessions (s : State) (k : Nat) : (writeUnit s k).sessions = s.sessions := by
  unfold writeUnit
  all_goals repeat' first | with_reducible rfl | simp only [modLoom_sessions] | split | dsimp only
@[simp] theorem consoleRun_sessions (s : State) (f : State → State) (h_f : ∀ u0, (f u0).sessions = u0.sessions) : (consoleRun s f).sessions = s.sessions := by
  unfold consoleRun
  all_goals repeat' first | with_reducible rfl | simp only [h_f] | split | dsimp only
@[simp] theorem linkLog_sessions (s : State) (type : Nat) (dir : Nat) (io : Nat) (lane : Nat) : (linkLog s type dir io lane).sessions = s.sessions := by
  unfold linkLog
  all_goals repeat' first | with_reducible rfl | simp only [capture_sessions] | split | dsimp only
@[simp] theorem resendFlits_sessions (s : State) (d : Nat) (p : WeftFlit × Nat → Bool) : (resendFlits s d p).sessions = s.sessions := by
  unfold resendFlits
  all_goals repeat' first | with_reducible rfl | simp only [send_sessions, setLink_sessions] | with_reducible refine Eq.trans (State_foldl_sessions _ (fun _ _ => ?_) _ _) ?_ | with_reducible refine Eq.trans (CollOut_foldl_sessions _ (fun _ _ => ?_) _ _) ?_ | with_reducible refine Eq.trans (Lay_foldl_sessions _ (fun _ _ => ?_) _ _) ?_ | with_reducible refine Eq.trans (Selecting_foldl_sessions _ (fun _ _ => ?_) _ _) ?_ | split | (intro _) | dsimp only
@[simp] theorem setPort_sessions (s : State) (p : Nat) (x : FabPort) : (setPort s p x).sessions = s.sessions := by
  unfold setPort
  all_goals repeat' first | with_reducible rfl | dsimp only | split
@[simp] theorem endBlocks_sessions (s : State) (o : AsyncOp) : (endBlocks s o).sessions = s.sessions := by
  unfold endBlocks
  all_goals repeat' first | with_reducible rfl | simp only [modTile_sessions] | with_reducible refine Eq.trans (State_foldl_sessions _ (fun _ _ => ?_) _ _) ?_ | with_reducible refine Eq.trans (CollOut_foldl_sessions _ (fun _ _ => ?_) _ _) ?_ | with_reducible refine Eq.trans (Lay_foldl_sessions _ (fun _ _ => ?_) _ _) ?_ | with_reducible refine Eq.trans (Selecting_foldl_sessions _ (fun _ _ => ?_) _ _) ?_ | split | (intro _) | dsimp only
@[simp] theorem putHeader_sessions (s : State) (l : Nat) (obj : Nat) (pick : Nat) (step : W64) : (putHeader s l obj pick step).sessions = s.sessions := by
  unfold putHeader
  all_goals repeat' first | with_reducible rfl | simp only [objWrite_sessions] | split | dsimp only
@[simp] theorem opEnd_sessions (s : State) (tile : Nat) (o : AsyncOp) (st : Byte) (high : optParam W32 0) (fl : optParam W64 0) : (opEnd s tile o st high fl).sessions = s.sessions := by
  unfold opEnd
  all_goals repeat' first | with_reducible rfl | simp only [completeTag_sessions, endBlocks_sessions, modTile_sessions] | split | dsimp only
@[simp] theorem rmtEnd_sessions (s : State) (a : Issuer) (o : AsyncOp) (st : Byte) : (rmtEnd s a o st).sessions = s.sessions := by
  unfold rmtEnd
  all_goals repeat' first | with_reducible rfl | simp only [opEnd_sessions, modTile_sessions] | split | dsimp only
@[simp] theorem holdRows_sessions (s : State) (l : Nat) (who : RowUser) (rs : List (Nat × Nat)) : (holdRows s l who rs).sessions = s.sessions := by
  unfold holdRows
  all_goals repeat' first | with_reducible rfl | simp only [setLoom_sessions] | split | dsimp only
@[simp] theorem rowsServed_sessions (s : State) (l : Nat) (who : RowUser) : (rowsServed s l who).sessions = s.sessions := by
  unfold rowsServed
  all_goals repeat' first | with_reducible rfl | simp only [serveAll_sessions, modLoom_sessions] | split | dsimp only
@[simp] theorem setInput_sessions (s : State) (inputB : Bool) (x : Input) : (setInput s inputB x).sessions = s.sessions := by
  unfold setInput
  all_goals repeat' first | with_reducible rfl | simp only [modPower_sessions] | split | dsimp only
@[simp] theorem setFn_sessions (s : State) (w : Accessor) (x : FnRegs) : (setFn s w x).sessions = s.sessions := by
  unfold setFn
  all_goals repeat' first | with_reducible rfl | dsimp only | split
@[simp] theorem modConsole_sessions (s : State) (f : Console → Console) : (modConsole s f).sessions = s.sessions := by
  unfold modConsole
  all_goals repeat' first | with_reducible rfl | dsimp only | split
@[simp] theorem flipWord_sessions (s : State) (tile : Nat) (w : Nat) (e : BitVec 33) : (flipWord s tile w e).sessions = s.sessions := by
  unfold flipWord
  all_goals repeat' first | with_reducible rfl | dsimp only | split
@[simp] theorem semStatus_sessions (s : State) (a : Issuer) (sd : Nat) (st : Byte) : (semStatus s a sd st).sessions = s.sessions := by
  unfold semStatus
  all_goals repeat' first | with_reducible rfl | simp only [modStrand_sessions] | split | dsimp only
@[simp] theorem setPortOf_sessions (s : State) (io : Nat) (x : Port) : (setPortOf s io x).sessions = s.sessions := by
  unfold setPortOf
  all_goals repeat' first | with_reducible rfl | dsimp only | split
end Sys2Proof.Machine
end

