-- ==== Sys2Proof/Laws/TilesSame.lean ====
section
/-! SUPPORT. The shared operations that leave the tiles as they are: one lemma for each that several operations call. -/
namespace Sys2Proof.Machine
open Sys2Proof
set_option linter.unusedTactic false
set_option linter.unreachableTactic false
set_option linter.unusedSimpArgs false
theorem State_foldl_tiles {α : Type} (g : State → α → State) (hg : ∀ s x, (g s x).tiles = s.tiles) (l : List α) (s : State) : (l.foldl g s).tiles = s.tiles := by
  induction l generalizing s with
  | nil => rfl
  | cons x l ih => simp only [List.foldl_cons, ih, hg]
theorem CollOut_foldl_tiles {α : Type} (g : CollOut → α → CollOut) (hg : ∀ s x, (g s x).s.tiles = s.s.tiles) (l : List α) (s : CollOut) : (l.foldl g s).s.tiles = s.s.tiles := by
  induction l generalizing s with
  | nil => rfl
  | cons x l ih => simp only [List.foldl_cons, ih, hg]
theorem Lay_foldl_tiles {α : Type} (g : Lay → α → Lay) (hg : ∀ s x, (g s x).s.tiles = s.s.tiles) (l : List α) (s : Lay) : (l.foldl g s).s.tiles = s.s.tiles := by
  induction l generalizing s with
  | nil => rfl
  | cons x l ih => simp only [List.foldl_cons, ih, hg]
theorem Selecting_foldl_tiles {α : Type} (g : Selecting → α → Selecting) (hg : ∀ s x, (g s x).s.tiles = s.s.tiles) (l : List α) (s : Selecting) : (l.foldl g s).s.tiles = s.s.tiles := by
  induction l generalizing s with
  | nil => rfl
  | cons x l ih => simp only [List.foldl_cons, ih, hg]
theorem snd_tiles {α : Type} {p : α × State} {a : α} {t : State} (h : p = (a, t)) : t.tiles = p.2.tiles := by rw [h]
theorem fst_tiles {α : Type} {p : State × α} {a : α} {t : State} (h : p = (t, a)) : t.tiles = p.1.tiles := by rw [h]
@[simp] theorem modGen_tiles (s : State) (l : Nat) (f : GenLoom → GenLoom) : (modGen s l f).tiles = s.tiles := by
  unfold modGen
  all_goals repeat' first | with_reducible rfl | simp only [modLoom_tiles] | split | dsimp only
@[simp] theorem evtToSession_tiles (s : State) (n : Nat) (e : EvtRec) : (evtToSession s n e).tiles = s.tiles := by
  unfold evtToSession
  all_goals repeat' first | with_reducible rfl | simp only [hostWr_tiles, setSession_tiles] | with_reducible refine Eq.trans (snd_tiles (by assumption)) ?_ | with_reducible refine Eq.trans (fst_tiles (by assumption)) ?_ | split | dsimp only
@[simp] theorem sendEvt_tiles (s : State) (e : EvtRec) : (sendEvt s e).tiles = s.tiles := by
  unfold sendEvt
  all_goals repeat' first | with_reducible rfl | simp only [evtToSession_tiles] | with_reducible refine Eq.trans (State_foldl_tiles _ (fun _ _ => ?_) _ _) ?_ | with_reducible refine Eq.trans (CollOut_foldl_tiles _ (fun _ _ => ?_) _ _) ?_ | with_reducible refine Eq.trans (Lay_foldl_tiles _ (fun _ _ => ?_) _ _) ?_ | with_reducible refine Eq.trans (Selecting_foldl_tiles _ (fun _ _ => ?_) _ _) ?_ | with_reducible refine Eq.trans (snd_tiles (by assumption)) ?_ | with_reducible refine Eq.trans (fst_tiles (by assumption)) ?_ | split | (intro _) | dsimp only
@[simp] theorem raiseEvt_tiles (s : State) (src : Src) (bit : Nat) (loom : optParam (Option Nat) none) (unit : optParam Nat 0) (detail : optParam Nat 0) : (raiseEvt s src bit loom unit detail).tiles = s.tiles := by
  unfold raiseEvt
  all_goals repeat' first | with_reducible rfl | simp only [orReg_tiles, sendEvt_tiles] | split | dsimp only
@[simp] theorem wrData_tiles (s : State) (a : Nat) (bs : List Byte) : (wrData s a bs).tiles = s.tiles := by
  unfold wrData
  all_goals repeat' first | with_reducible rfl | simp only [wrN_tiles] | split | dsimp only
@[simp] theorem objWrite_tiles (s : State) (x : Loom) (obj : Nat) (off : Nat) (bs : List Byte) : (objWrite s x obj off bs).tiles = s.tiles := by
  unfold objWrite
  all_goals repeat' first | with_reducible rfl | simp only [wrN_tiles, wrData_tiles] | with_reducible refine Eq.trans (State_foldl_tiles _ (fun _ _ => ?_) _ _) ?_ | with_reducible refine Eq.trans (CollOut_foldl_tiles _ (fun _ _ => ?_) _ _) ?_ | with_reducible refine Eq.trans (Lay_foldl_tiles _ (fun _ _ => ?_) _ _) ?_ | with_reducible refine Eq.trans (Selecting_foldl_tiles _ (fun _ _ => ?_) _ _) ?_ | with_reducible refine Eq.trans (snd_tiles (by assumption)) ?_ | with_reducible refine Eq.trans (fst_tiles (by assumption)) ?_ | split | (intro _) | dsimp only
@[simp] theorem modWeave_tiles (s : State) (k : Nat) (f : Weave → Weave) : (modWeave s k f).tiles = s.tiles := by
  unfold modWeave
  all_goals repeat' first | with_reducible rfl | dsimp only | split
@[simp] theorem abandonTaking_tiles (s : State) (k : Nat) (l : Nat) : (abandonTaking s k l).tiles = s.tiles := by
  unfold abandonTaking
  all_goals repeat' first | with_reducible rfl | simp only [modGen_tiles, raiseEvt_tiles, modWeave_tiles] | split | dsimp only
@[simp] theorem send_tiles (s : State) (m : OutMsg) : (send s m).tiles = s.tiles := by
  unfold send
  all_goals repeat' first | with_reducible rfl | dsimp only | split
@[simp] theorem setLink_tiles (s : State) (d : Nat) (x : LinkDir) : (setLink s d x).tiles = s.tiles := by
  unfold setLink
  all_goals repeat' first | with_reducible rfl | dsimp only | split
@[simp] theorem putFlit_tiles (s : State) (d : Nat) (f : WeftFlit) : (putFlit s d f).tiles = s.tiles := by
  unfold putFlit
  all_goals repeat' first | with_reducible rfl | simp only [send_tiles, setLink_tiles] | split | dsimp only
@[simp] theorem linkSend_tiles (s : State) (d : Nat) (vc : BitVec 2) (bs : List Byte) : (linkSend s d vc bs).tiles = s.tiles := by
  unfold linkSend
  all_goals repeat' first | with_reducible rfl | simp only [putFlit_tiles, setLink_tiles] | with_reducible refine Eq.trans (State_foldl_tiles _ (fun _ _ => ?_) _ _) ?_ | with_reducible refine Eq.trans (CollOut_foldl_tiles _ (fun _ _ => ?_) _ _) ?_ | with_reducible refine Eq.trans (Lay_foldl_tiles _ (fun _ _ => ?_) _ _) ?_ | with_reducible refine Eq.trans (Selecting_foldl_tiles _ (fun _ _ => ?_) _ _) ?_ | split | (intro _) | dsimp only
@[simp] theorem sendFrame_tiles (s : State) (dir : Option Nat) (toward : Nat) (f : Frame) : (sendFrame s dir toward f).tiles = s.tiles := by
  unfold sendFrame
  all_goals repeat' first | with_reducible rfl | simp only [send_tiles, linkSend_tiles] | with_reducible refine Eq.trans (snd_tiles (by assumption)) ?_ | with_reducible refine Eq.trans (fst_tiles (by assumption)) ?_ | split | dsimp only
@[simp] theorem takeDelivered_tiles (s : State) (f : Frame) : (takeDelivered s f).tiles = s.tiles := by
  unfold takeDelivered
  all_goals repeat' first | with_reducible rfl | simp only [setLink_tiles] | with_reducible refine Eq.trans (snd_tiles (by assumption)) ?_ | with_reducible refine Eq.trans (fst_tiles (by assumption)) ?_ | split | dsimp only
@[simp] theorem answerFrame_tiles (s : State) (l : Nat) (tile : Nat) (f : Frame) (kind : Nat) : (answerFrame s l tile f kind).tiles = s.tiles := by
  unfold answerFrame
  all_goals repeat' first | with_reducible rfl | simp only [sendFrame_tiles, drawFree_tiles] | with_reducible refine Eq.trans (snd_tiles (by assumption)) ?_ | with_reducible refine Eq.trans (fst_tiles (by assumption)) ?_ | split | dsimp only
@[simp] theorem modBlock_tiles (s : State) (b : Nat) (f : DieBlock → DieBlock) : (modBlock s b f).tiles = s.tiles := by
  unfold modBlock
  all_goals repeat' first | with_reducible rfl | simp only [modTlm_tiles] | split | dsimp only
theorem ckptTrigger_tiles (s : State) (l : Nat) (step : Nat) (buffer : W64) (len : Nat) (who : Option (Nat × Nat)) (t : State) : ckptTrigger s l step buffer len who = .ok t → t.tiles = s.tiles := by
  intro h; unfold ckptTrigger at h
  all_goals repeat' first | cases h | split at h | dsimp only at h
  all_goals repeat' first | with_reducible rfl | simp only [modLoom_tiles, drawFree_tiles] | with_reducible refine Eq.trans (snd_tiles (by assumption)) ?_ | with_reducible refine Eq.trans (fst_tiles (by assumption)) ?_ | split | dsimp only
@[simp] theorem capture_tiles (s : State) (validReg : Nat) (valid : W64) (others : List (Nat × W64)) : (capture s validReg valid others).tiles = s.tiles := by
  unfold capture
  all_goals repeat' first | with_reducible rfl | simp only [setReg_tiles, orReg_tiles] | with_reducible refine Eq.trans (State_foldl_tiles _ (fun _ _ => ?_) _ _) ?_ | with_reducible refine Eq.trans (CollOut_foldl_tiles _ (fun _ _ => ?_) _ _) ?_ | with_reducible refine Eq.trans (Lay_foldl_tiles _ (fun _ _ => ?_) _ _) ?_ | with_reducible refine Eq.trans (Selecting_foldl_tiles _ (fun _ _ => ?_) _ _) ?_ | split | (intro _) | dsimp only
@[simp] theorem advise_tiles (s : State) (cause : Nat) (unit : Nat) : (advise s cause unit).tiles = s.tiles := by
  unfold advise
  all_goals repeat' first | with_reducible rfl | simp only [evtToSession_tiles, orReg_tiles, modSvc_tiles, capture_tiles, implies_true] | with_reducible refine Eq.trans (ckptTrigger_tiles _ _ _ _ _ _ _ (by assumption)) ?_ | with_reducible refine Eq.trans (State_foldl_tiles _ (fun _ _ => ?_) _ _) ?_ | with_reducible refine Eq.trans (CollOut_foldl_tiles _ (fun _ _ => ?_) _ _) ?_ | with_reducible refine Eq.trans (Lay_foldl_tiles _ (fun _ _ => ?_) _ _) ?_ | with_reducible refine Eq.trans (Selecting_foldl_tiles _ (fun _ _ => ?_) _ _) ?_ | with_reducible refine Eq.trans (snd_tiles (by assumption)) ?_ | with_reducible refine Eq.trans (fst_tiles (by assumption)) ?_ | split | (intro _) | dsimp only
@[simp] theorem adviseOnce_tiles (s : State) (cause : Nat) (unit : Nat) : (adviseOnce s cause unit).tiles = s.tiles := by
  unfold adviseOnce
  all_goals repeat' first | with_reducible rfl | simp only [advise_tiles] | split | dsimp only
@[simp] theorem noteCause_tiles (s : State) (cause : Nat) (unit : Nat) (n : Nat) (always : optParam Bool false) : (noteCause s cause unit n always).tiles = s.tiles := by
  unfold noteCause
  all_goals repeat' first | with_reducible rfl | simp only [adviseOnce_tiles, modSvc_tiles] | with_reducible refine Eq.trans (snd_tiles (by assumption)) ?_ | with_reducible refine Eq.trans (fst_tiles (by assumption)) ?_ | split | dsimp only
@[simp] theorem putRecord_tiles (s : State) (k : Nat) (bs : List Byte) : (putRecord s k bs).tiles = s.tiles := by
  unfold putRecord
  all_goals repeat' first | with_reducible rfl | simp only [wrN_tiles, wr_tiles] | split | dsimp only
@[simp] theorem pinPick_tiles (s : State) (l : Nat) (pick : Nat) (up : Bool) : (pinPick s l pick up).tiles = s.tiles := by
  unfold pinPick
  all_goals repeat' first | with_reducible rfl | simp only [modLoom_tiles] | split | dsimp only
@[simp] theorem takeEv_tiles (s : State) : (takeEv s).2.tiles = s.tiles := by
  unfold takeEv
  all_goals repeat' first | with_reducible rfl | dsimp only | split
@[simp] theorem putOut_tiles (s : State) (e : Nat) (kind : Nat) (token : Nat) (pos : Nat) (pick : Nat) (st : Nat) (logprob : Nat) : (putOut s e kind token pos pick st logprob).tiles = s.tiles := by
  unfold putOut
  all_goals repeat' first | with_reducible rfl | simp only [modReq_tiles, hostWr_tiles] | with_reducible refine Eq.trans (snd_tiles (by assumption)) ?_ | with_reducible refine Eq.trans (fst_tiles (by assumption)) ?_ | split | dsimp only
@[simp] theorem endReq_tiles (s : State) (e : Nat) (st : Byte) : (endReq s e st).tiles = s.tiles := by
  unfold endReq
  all_goals repeat' first | with_reducible rfl | simp only [putRecord_tiles, pinPick_tiles, takeEv_tiles, modReq_tiles, putOut_tiles] | with_reducible refine Eq.trans (snd_tiles (by assumption)) ?_ | with_reducible refine Eq.trans (fst_tiles (by assumption)) ?_ | split | dsimp only
@[simp] theorem rejectDrafts_tiles (s : State) (l : Nat) (n : Nat) : (rejectDrafts s l n).tiles = s.tiles := by
  unfold rejectDrafts
  all_goals repeat' first | with_reducible rfl | simp only [count48_tiles] | split | dsimp only
@[simp] theorem modSrv_tiles (s : State) (l : Nat) (f : SrvLoom → SrvLoom) : (modSrv s l f).tiles = s.tiles := by
  unfold modSrv
  all_goals repeat' first | with_reducible rfl | simp only [modLoom_tiles] | split | dsimp only
@[simp] theorem dropStep_tiles (s : State) (l : Nat) : (dropStep s l).tiles = s.tiles := by
  unfold dropStep
  all_goals repeat' first | with_reducible rfl | simp only [rejectDrafts_tiles, modLoom_tiles, modSrv_tiles] | with_reducible refine Eq.trans (snd_tiles (by assumption)) ?_ | with_reducible refine Eq.trans (fst_tiles (by assumption)) ?_ | split | dsimp only
@[simp] theorem endAllReqs_tiles (s : State) (l : Nat) (st : Byte) : (endAllReqs s l st).tiles = s.tiles := by
  unfold endAllReqs
  all_goals repeat' first | with_reducible rfl | simp only [endReq_tiles, dropStep_tiles] | with_reducible refine Eq.trans (State_foldl_tiles _ (fun _ _ => ?_) _ _) ?_ | with_reducible refine Eq.trans (CollOut_foldl_tiles _ (fun _ _ => ?_) _ _) ?_ | with_reducible refine Eq.trans (Lay_foldl_tiles _ (fun _ _ => ?_) _ _) ?_ | with_reducible refine Eq.trans (Selecting_foldl_tiles _ (fun _ _ => ?_) _ _) ?_ | split | (intro _) | dsimp only
@[simp] theorem postCpl_tiles (s : State) (sess : Nat) (ring : Nat) (status : Byte) (opcode : Nat) (tag : W32) (result : List Byte) : (postCpl s sess ring status opcode tag result).tiles = s.tiles := by
  unfold postCpl
  all_goals repeat' first | with_reducible rfl | simp only [hostWr_tiles, setSession_tiles] | with_reducible refine Eq.trans (snd_tiles (by assumption)) ?_ | with_reducible refine Eq.trans (fst_tiles (by assumption)) ?_ | split | dsimp only
@[simp] theorem finish_tiles (s : State) (sess : Nat) (ring : Nat) (status : Byte) (result : optParam (List Byte) []) : (finish s sess ring status result).tiles = s.tiles := by
  unfold finish
  all_goals repeat' first | with_reducible rfl | simp only [postCpl_tiles, modSession_tiles] | with_reducible refine Eq.trans (snd_tiles (by assumption)) ?_ | with_reducible refine Eq.trans (fst_tiles (by assumption)) ?_ | split | dsimp only
@[simp] theorem endRestore_tiles (s : State) (l : Nat) (st : Byte) (result : optParam (List Byte) []) : (endRestore s l st result).tiles = s.tiles := by
  unfold endRestore
  all_goals repeat' first | with_reducible rfl | simp only [finish_tiles, modLoom_tiles] | with_reducible refine Eq.trans (snd_tiles (by assumption)) ?_ | with_reducible refine Eq.trans (fst_tiles (by assumption)) ?_ | split | dsimp only
@[simp] theorem endCkpt_tiles (s : State) (l : Nat) (st : Byte) (result : optParam (List Byte) []) : (endCkpt s l st result).tiles = s.tiles := by
  unfold endCkpt
  all_goals repeat' first | with_reducible rfl | simp only [finish_tiles, modLoom_tiles] | with_reducible refine Eq.trans (snd_tiles (by assumption)) ?_ | with_reducible refine Eq.trans (fst_tiles (by assumption)) ?_ | split | dsimp only
@[simp] theorem evictOne_tiles (s : State) (l : Nat) : (evictOne s l).tiles = s.tiles := by
  unfold evictOne
  all_goals repeat' first | with_reducible rfl | simp only [raiseEvt_tiles, modSrv_tiles] | with_reducible refine Eq.trans (State_foldl_tiles _ (fun _ _ => ?_) _ _) ?_ | with_reducible refine Eq.trans (CollOut_foldl_tiles _ (fun _ _ => ?_) _ _) ?_ | with_reducible refine Eq.trans (Lay_foldl_tiles _ (fun _ _ => ?_) _ _) ?_ | with_reducible refine Eq.trans (Selecting_foldl_tiles _ (fun _ _ => ?_) _ _) ?_ | with_reducible refine Eq.trans (snd_tiles (by assumption)) ?_ | with_reducible refine Eq.trans (fst_tiles (by assumption)) ?_ | split | (intro _) | dsimp only
@[simp] theorem evictFor_tiles (s : State) (l : Nat) (n : Nat) (a : Nat) : (evictFor s l n a).tiles = s.tiles := by
  fun_induction evictFor s l n a
  all_goals repeat' first | with_reducible rfl | simp +zetaDelta only [evictOne_tiles] | with_reducible refine Eq.trans (by assumption) ?_ | split | dsimp only
@[simp] theorem admitQueue_tiles (l : Nat) (a : Nat) (a' : State) : (admitQueue l a a').tiles = a'.tiles := by
  fun_induction admitQueue l a a'
  all_goals repeat' first | with_reducible rfl | simp +zetaDelta only [raiseEvt_tiles, modReq_tiles, evictFor_tiles] | with_reducible refine Eq.trans (snd_tiles (by assumption)) ?_ | with_reducible refine Eq.trans (fst_tiles (by assumption)) ?_ | with_reducible refine Eq.trans (by assumption) ?_ | split | dsimp only
@[simp] theorem admitNow_tiles (s : State) (l : Nat) : (admitNow s l).tiles = s.tiles := by
  unfold admitNow
  all_goals repeat' first | with_reducible rfl | simp only [admitQueue_tiles] | split | dsimp only
@[simp] theorem memError_tiles (s : State) (evts : List Nat) (stopped : Option Nat) (owner : Option Nat) (addr : Nat) (stack : Nat) (tile : Nat) (unit : Nat) (thrum : optParam Bool false) : (memError s evts stopped owner addr stack tile unit thrum).tiles = s.tiles := by
  unfold memError
  all_goals repeat' first | with_reducible rfl | simp only [raiseEvt_tiles, capture_tiles] | with_reducible refine Eq.trans (State_foldl_tiles _ (fun _ _ => ?_) _ _) ?_ | with_reducible refine Eq.trans (CollOut_foldl_tiles _ (fun _ _ => ?_) _ _) ?_ | with_reducible refine Eq.trans (Lay_foldl_tiles _ (fun _ _ => ?_) _ _) ?_ | with_reducible refine Eq.trans (Selecting_foldl_tiles _ (fun _ _ => ?_) _ _) ?_ | split | (intro _) | dsimp only
@[simp] theorem reportUncorr_tiles (s : State) (consumer : Option Nat) (u : Nat) : (reportUncorr s consumer u).tiles = s.tiles := by
  unfold reportUncorr
  all_goals repeat' first | with_reducible rfl | simp only [memError_tiles, countReg_tiles] | split | dsimp only
@[simp] theorem meetUnits_tiles (s : State) (consumer : Option Nat) (rs : List (Nat × Nat)) : (meetUnits s consumer rs).tiles = s.tiles := by
  unfold meetUnits
  all_goals repeat' first | with_reducible rfl | simp only [reportUncorr_tiles] | with_reducible refine Eq.trans (State_foldl_tiles _ (fun _ _ => ?_) _ _) ?_ | with_reducible refine Eq.trans (CollOut_foldl_tiles _ (fun _ _ => ?_) _ _) ?_ | with_reducible refine Eq.trans (Lay_foldl_tiles _ (fun _ _ => ?_) _ _) ?_ | with_reducible refine Eq.trans (Selecting_foldl_tiles _ (fun _ _ => ?_) _ _) ?_ | split | (intro _) | dsimp only
@[simp] theorem holdCopy_tiles (s : State) (who : List Nat) (kb : Nat × Nat) : (holdCopy s who kb).tiles = s.tiles := by
  unfold holdCopy
  all_goals repeat' first | with_reducible rfl | simp only [raiseEvt_tiles, count48_tiles, drawFree_tiles] | with_reducible refine Eq.trans (snd_tiles (by assumption)) ?_ | with_reducible refine Eq.trans (fst_tiles (by assumption)) ?_ | split | dsimp only
@[simp] theorem startScalar_tiles (x : Loom) (c : CollOut) : (startScalar x c).s.tiles = c.s.tiles := by
  unfold startScalar
  all_goals repeat' first | with_reducible rfl | dsimp only | with_reducible refine Eq.trans (snd_tiles (by assumption)) ?_ | with_reducible refine Eq.trans (fst_tiles (by assumption)) ?_ | split
@[simp] theorem startGather_tiles (x : Loom) (c : CollOut) : (startGather x c).s.tiles = c.s.tiles := by
  unfold startGather
  all_goals repeat' first | with_reducible rfl | dsimp only | with_reducible refine Eq.trans (snd_tiles (by assumption)) ?_ | with_reducible refine Eq.trans (fst_tiles (by assumption)) ?_ | split
@[simp] theorem serveAt_tiles (s : State) (a : RowAccess) (at_ : Nat) : (serveAt s a at_).tiles = s.tiles := by
  unfold serveAt
  all_goals repeat' first | with_reducible rfl | simp only [wrData_tiles] | split | dsimp only
@[simp] theorem serveRow_tiles (s : State) (a : RowAccess) : (serveRow s a).tiles = s.tiles := by
  unfold serveRow
  all_goals repeat' first | with_reducible rfl | simp only [modLoom_tiles, serveAt_tiles] | with_reducible refine Eq.trans (snd_tiles (by assumption)) ?_ | with_reducible refine Eq.trans (fst_tiles (by assumption)) ?_ | split | dsimp only
@[simp] theorem alive_tiles (s : State) (f : State → State) (h_f : ∀ u0, (f u0).tiles = u0.tiles) : (alive s f).tiles = s.tiles := by
  unfold alive
  all_goals repeat' first | with_reducible rfl | simp only [h_f] | split | dsimp only
@[simp] theorem noteThermal_tiles (s : State) (die : Nat) (bound : Bool) : (noteThermal s die bound).tiles = s.tiles := by
  unfold noteThermal
  all_goals repeat' first | with_reducible rfl | simp only [modDie_tiles, noteCause_tiles] | with_reducible refine Eq.trans (snd_tiles (by assumption)) ?_ | with_reducible refine Eq.trans (fst_tiles (by assumption)) ?_ | split | dsimp only
@[simp] theorem rebind_tiles (s : State) : (rebind s).tiles = s.tiles := by
  unfold rebind
  all_goals repeat' first | with_reducible rfl | simp only [noteThermal_tiles, modPower_tiles] | with_reducible refine Eq.trans (State_foldl_tiles _ (fun _ _ => ?_) _ _) ?_ | with_reducible refine Eq.trans (CollOut_foldl_tiles _ (fun _ _ => ?_) _ _) ?_ | with_reducible refine Eq.trans (Lay_foldl_tiles _ (fun _ _ => ?_) _ _) ?_ | with_reducible refine Eq.trans (Selecting_foldl_tiles _ (fun _ _ => ?_) _ _) ?_ | split | (intro _) | dsimp only
@[simp] theorem moveCapLimit_tiles (s : State) (from_ : Nat) (dest : Nat) : (moveCapLimit s from_ dest).tiles = s.tiles := by
  unfold moveCapLimit
  all_goals repeat' first | with_reducible rfl | simp only [modPower_tiles, rebind_tiles] | split | dsimp only
@[simp] theorem applyCap_tiles (s : State) : (applyCap s).tiles = s.tiles := by
  unfold applyCap
  all_goals repeat' first | with_reducible rfl | simp only [modPower_tiles, raiseEvt_tiles, moveCapLimit_tiles] | with_reducible refine Eq.trans (snd_tiles (by assumption)) ?_ | with_reducible refine Eq.trans (fst_tiles (by assumption)) ?_ | split | dsimp only
@[simp] theorem touchRange_tiles (s : State) (l : Nat) (a : Nat) (n : Nat) (write : Bool) : (touchRange s l a n write).tiles = s.tiles := by
  unfold touchRange
  all_goals repeat' first | with_reducible rfl | simp only [modLoom_tiles] | with_reducible refine Eq.trans (State_foldl_tiles _ (fun _ _ => ?_) _ _) ?_ | with_reducible refine Eq.trans (CollOut_foldl_tiles _ (fun _ _ => ?_) _ _) ?_ | with_reducible refine Eq.trans (Lay_foldl_tiles _ (fun _ _ => ?_) _ _) ?_ | with_reducible refine Eq.trans (Selecting_foldl_tiles _ (fun _ _ => ?_) _ _) ?_ | with_reducible refine Eq.trans (snd_tiles (by assumption)) ?_ | with_reducible refine Eq.trans (fst_tiles (by assumption)) ?_ | split | (intro _) | dsimp only
@[simp] theorem clearVia_tiles (s : State) (x : Loom) (a : Nat) (n : Nat) : (clearVia s x a n).tiles = s.tiles := by
  unfold clearVia
  all_goals repeat' first | with_reducible rfl | dsimp only | split
@[simp] theorem writeVia_tiles (s : State) (l : Nat) (a : Nat) (bs : List Byte) : (writeVia s l a bs).tiles = s.tiles := by
  unfold writeVia
  all_goals repeat' first | with_reducible rfl | simp only [clearVia_tiles, wrN_tiles, wrData_tiles] | with_reducible refine Eq.trans (State_foldl_tiles _ (fun _ _ => ?_) _ _) ?_ | with_reducible refine Eq.trans (CollOut_foldl_tiles _ (fun _ _ => ?_) _ _) ?_ | with_reducible refine Eq.trans (Lay_foldl_tiles _ (fun _ _ => ?_) _ _) ?_ | with_reducible refine Eq.trans (Selecting_foldl_tiles _ (fun _ _ => ?_) _ _) ?_ | split | (intro _) | dsimp only
@[simp] theorem publishMap_tiles (s : State) (l : Nat) (f : Loom → Loom) : (publishMap s l f).tiles = s.tiles := by
  unfold publishMap
  all_goals repeat' first | with_reducible rfl | simp only [modLoom_tiles] | split | dsimp only
@[simp] theorem setSlot_tiles (s : State) (k : Nat) (x : KeySlot) : (setSlot s k x).tiles = s.tiles := by
  unfold setSlot
  all_goals repeat' first | with_reducible rfl | dsimp only | split
@[simp] theorem putHot_tiles (s : State) (l : Nat) (h : HotRegion) : (putHot s l h).tiles = s.tiles := by
  unfold putHot
  all_goals repeat' first | with_reducible rfl | simp only [modLoom_tiles] | split | dsimp only
@[simp] theorem countHandoffs_tiles (s : State) (l : Nat) (n : Nat) : (countHandoffs s l n).tiles = s.tiles := by
  unfold countHandoffs
  all_goals repeat' first | with_reducible rfl | simp only [modLoom_tiles] | split | dsimp only
@[simp] theorem cfgReject_tiles (s : State) : (cfgReject s).tiles = s.tiles := by
  unfold cfgReject
  all_goals repeat' first | with_reducible rfl | simp only [raiseEvt_tiles] | split | dsimp only
@[simp] theorem cmdRun_tiles (s : State) (sess : Nat) (ring : Nat) (f : Taken → Except Byte (State × List Byte)) (h_f : ∀ u0 t x, f u0 = .ok (t, x) → t.tiles = s.tiles) : (cmdRun s sess ring f).tiles = s.tiles := by
  unfold cmdRun
  all_goals repeat' first | with_reducible rfl | simp only [finish_tiles, implies_true] | with_reducible refine Eq.trans (h_f _ _ _ (by assumption)) ?_ | with_reducible refine Eq.trans (snd_tiles (by assumption)) ?_ | with_reducible refine Eq.trans (fst_tiles (by assumption)) ?_ | split | (intro _) | dsimp only
@[simp] theorem clearCounters_tiles (s : State) (who : Accessor) (offs : List Nat) : (clearCounters s who offs).tiles = s.tiles := by
  unfold clearCounters
  all_goals repeat' first | with_reducible rfl | simp only [setReg_tiles] | with_reducible refine Eq.trans (State_foldl_tiles _ (fun _ _ => ?_) _ _) ?_ | with_reducible refine Eq.trans (CollOut_foldl_tiles _ (fun _ _ => ?_) _ _) ?_ | with_reducible refine Eq.trans (Lay_foldl_tiles _ (fun _ _ => ?_) _ _) ?_ | with_reducible refine Eq.trans (Selecting_foldl_tiles _ (fun _ _ => ?_) _ _) ?_ | split | (intro _) | dsimp only
@[simp] theorem dobbyCpl_tiles (s : State) (x : Loom) (c : DobbyCmd) (st : Byte) : (dobbyCpl s x c st).tiles = s.tiles := by
  unfold dobbyCpl
  all_goals repeat' first | with_reducible rfl | simp only [postCpl_tiles] | split | dsimp only
@[simp] theorem dissolve_tiles (s : State) (k : Nat) : (dissolve s k).tiles = s.tiles := by
  unfold dissolve
  all_goals repeat' first | with_reducible rfl | simp only [modGen_tiles, clearRegs_tiles] | with_reducible refine Eq.trans (State_foldl_tiles _ (fun _ _ => ?_) _ _) ?_ | with_reducible refine Eq.trans (CollOut_foldl_tiles _ (fun _ _ => ?_) _ _) ?_ | with_reducible refine Eq.trans (Lay_foldl_tiles _ (fun _ _ => ?_) _ _) ?_ | with_reducible refine Eq.trans (Selecting_foldl_tiles _ (fun _ _ => ?_) _ _) ?_ | split | (intro _) | dsimp only
@[simp] theorem serveHeld_tiles (l : Nat) (a : Nat) (a' : State) : (serveHeld l a a').tiles = a'.tiles := by
  fun_induction serveHeld l a a'
  all_goals repeat' first | with_reducible rfl | simp +zetaDelta only [serveRow_tiles, modLoom_tiles] | with_reducible refine Eq.trans (snd_tiles (by assumption)) ?_ | with_reducible refine Eq.trans (fst_tiles (by assumption)) ?_ | with_reducible refine Eq.trans (by assumption) ?_ | split | dsimp only
@[simp] theorem serveAll_tiles (s : State) (l : Nat) : (serveAll s l).tiles = s.tiles := by
  unfold serveAll
  all_goals repeat' first | with_reducible rfl | simp only [serveHeld_tiles] | split | dsimp only
@[simp] theorem hotStop_tiles (s : State) (l : Nat) : (hotStop s l).tiles = s.tiles := by
  unfold hotStop
  all_goals repeat' first | with_reducible rfl | simp only [serveAll_tiles, putHot_tiles, countHandoffs_tiles, wrData_tiles] | with_reducible refine Eq.trans (State_foldl_tiles _ (fun _ _ => ?_) _ _) ?_ | with_reducible refine Eq.trans (CollOut_foldl_tiles _ (fun _ _ => ?_) _ _) ?_ | with_reducible refine Eq.trans (Lay_foldl_tiles _ (fun _ _ => ?_) _ _) ?_ | with_reducible refine Eq.trans (Selecting_foldl_tiles _ (fun _ _ => ?_) _ _) ?_ | with_reducible refine Eq.trans (snd_tiles (by assumption)) ?_ | with_reducible refine Eq.trans (fst_tiles (by assumption)) ?_ | split | (intro _) | dsimp only
@[simp] theorem writeUnit_tiles (s : State) (k : Nat) : (writeUnit s k).tiles = s.tiles := by
  unfold writeUnit
  all_goals repeat' first | with_reducible rfl | simp only [modLoom_tiles] | split | dsimp only
@[simp] theorem consoleRun_tiles (s : State) (f : State → State) (h_f : ∀ u0, (f u0).tiles = u0.tiles) : (consoleRun s f).tiles = s.tiles := by
  unfold consoleRun
  all_goals repeat' first | with_reducible rfl | simp only [h_f] | split | dsimp only
@[simp] theorem linkLog_tiles (s : State) (type : Nat) (dir : Nat) (io : Nat) (lane : Nat) : (linkLog s type dir io lane).tiles = s.tiles := by
  unfold linkLog
  all_goals repeat' first | with_reducible rfl | simp only [capture_tiles] | split | dsimp only
@[simp] theorem linkDown_tiles (s : State) (d : Nat) : (linkDown s d).tiles = s.tiles := by
  unfold linkDown
  all_goals repeat' first | with_reducible rfl | simp only [linkLog_tiles, raiseEvt_tiles, setLink_tiles] | split | dsimp only
@[simp] theorem resendFlits_tiles (s : State) (d : Nat) (p : WeftFlit × Nat → Bool) : (resendFlits s d p).tiles = s.tiles := by
  unfold resendFlits
  all_goals repeat' first | with_reducible rfl | simp only [send_tiles, setLink_tiles] | with_reducible refine Eq.trans (State_foldl_tiles _ (fun _ _ => ?_) _ _) ?_ | with_reducible refine Eq.trans (CollOut_foldl_tiles _ (fun _ _ => ?_) _ _) ?_ | with_reducible refine Eq.trans (Lay_foldl_tiles _ (fun _ _ => ?_) _ _) ?_ | with_reducible refine Eq.trans (Selecting_foldl_tiles _ (fun _ _ => ?_) _ _) ?_ | split | (intro _) | dsimp only
@[simp] theorem relane_tiles (s : State) (d : Nat) : (relane s d).tiles = s.tiles := by
  unfold relane
  all_goals repeat' first | with_reducible rfl | simp only [linkDown_tiles, setLink_tiles, resendFlits_tiles] | split | dsimp only
@[simp] theorem setPort_tiles (s : State) (p : Nat) (x : FabPort) : (setPort s p x).tiles = s.tiles := by
  unfold setPort
  all_goals repeat' first | with_reducible rfl | dsimp only | split
@[simp] theorem putHeader_tiles (s : State) (l : Nat) (obj : Nat) (pick : Nat) (step : W64) : (putHeader s l obj pick step).tiles = s.tiles := by
  unfold putHeader
  all_goals repeat' first | with_reducible rfl | simp only [objWrite_tiles] | split | dsimp only
@[simp] theorem holdRows_tiles (s : State) (l : Nat) (who : RowUser) (rs : List (Nat × Nat)) : (holdRows s l who rs).tiles = s.tiles := by
  unfold holdRows
  all_goals repeat' first | with_reducible rfl | simp only [setLoom_tiles] | split | dsimp only
@[simp] theorem rowsServed_tiles (s : State) (l : Nat) (who : RowUser) : (rowsServed s l who).tiles = s.tiles := by
  unfold rowsServed
  all_goals repeat' first | with_reducible rfl | simp only [serveAll_tiles, modLoom_tiles] | split | dsimp only
@[simp] theorem losePps_tiles (s : State) : (losePps s).tiles = s.tiles := by
  unfold losePps
  all_goals repeat' first | with_reducible rfl | simp only [raiseEvt_tiles, modTlm_tiles] | split | dsimp only
@[simp] theorem setInput_tiles (s : State) (inputB : Bool) (x : Input) : (setInput s inputB x).tiles = s.tiles := by
  unfold setInput
  all_goals repeat' first | with_reducible rfl | simp only [modPower_tiles] | split | dsimp only
@[simp] theorem setFn_tiles (s : State) (w : Accessor) (x : FnRegs) : (setFn s w x).tiles = s.tiles := by
  unfold setFn
  all_goals repeat' first | with_reducible rfl | dsimp only | split
@[simp] theorem limitDies_tiles (s : State) (ds : List Nat) (r : Nat) (v : Nat) : (limitDies s ds r v).tiles = s.tiles := by
  unfold limitDies
  all_goals repeat' first | with_reducible rfl | simp only [modDie_tiles, rebind_tiles] | with_reducible refine Eq.trans (State_foldl_tiles _ (fun _ _ => ?_) _ _) ?_ | with_reducible refine Eq.trans (CollOut_foldl_tiles _ (fun _ _ => ?_) _ _) ?_ | with_reducible refine Eq.trans (Lay_foldl_tiles _ (fun _ _ => ?_) _ _) ?_ | with_reducible refine Eq.trans (Selecting_foldl_tiles _ (fun _ _ => ?_) _ _) ?_ | split | (intro _) | dsimp only
@[simp] theorem supplyLimit_tiles (s : State) : (supplyLimit s).tiles = s.tiles := by
  unfold supplyLimit
  all_goals repeat' first | with_reducible rfl | simp only [limitDies_tiles, modPower_tiles] | split | dsimp only
@[simp] theorem switchOver_tiles (s : State) : (switchOver s).tiles = s.tiles := by
  unfold switchOver
  all_goals repeat' first | with_reducible rfl | simp only [raiseEvt_tiles, supplyLimit_tiles, applyCap_tiles] | split | dsimp only
@[simp] theorem leaveInput_tiles (s : State) (inputB : Bool) (x : Input) : (leaveInput s inputB x).tiles = s.tiles := by
  unfold leaveInput
  all_goals repeat' first | with_reducible rfl | simp only [switchOver_tiles, setInput_tiles] | split | dsimp only
@[simp] theorem outInput_tiles (s : State) (inputB : Bool) (st : InputState) (v : Nat) (bit : Nat) : (outInput s inputB st v bit).tiles = s.tiles := by
  unfold outInput
  all_goals repeat' first | with_reducible rfl | simp only [leaveInput_tiles, raiseEvt_tiles] | split | dsimp only
@[simp] theorem modConsole_tiles (s : State) (f : Console → Console) : (modConsole s f).tiles = s.tiles := by
  unfold modConsole
  all_goals repeat' first | with_reducible rfl | dsimp only | split
@[simp] theorem finishWith_tiles (s : State) (sess : Nat) (ring : Nat) (status : Byte) (result : List Byte) : (finishWith s sess ring status result).tiles = s.tiles := by
  unfold finishWith
  all_goals repeat' first | with_reducible rfl | simp only [postCpl_tiles, modSession_tiles] | with_reducible refine Eq.trans (snd_tiles (by assumption)) ?_ | with_reducible refine Eq.trans (fst_tiles (by assumption)) ?_ | split | dsimp only
@[simp] theorem flipWord_tiles (s : State) (tile : Nat) (w : Nat) (e : BitVec 33) : (flipWord s tile w e).tiles = s.tiles := by
  unfold flipWord
  all_goals repeat' first | with_reducible rfl | dsimp only | split
@[simp] theorem setPortOf_tiles (s : State) (io : Nat) (x : Port) : (setPortOf s io x).tiles = s.tiles := by
  unfold setPortOf
  all_goals repeat' first | with_reducible rfl | dsimp only | split
@[simp] theorem revertBorrow_tiles (s : State) (b : Int) : (revertBorrow s b).tiles = s.tiles := by
  unfold revertBorrow
  all_goals repeat' first | with_reducible rfl | simp only [modPower_tiles, raiseEvt_tiles] | split | dsimp only
end Sys2Proof.Machine
end

