-- ==== Sys2Proof/Laws/Vector.lean ====
section
/-! SUPPORT. What a write to every active thread does (R116): vector registers and predicates, thread by thread. -/
namespace Sys2Proof.Machine

/-- The flags that the active threads of a list give. -/
def flagsOf (run : Nat → Bool) (g : Nat → W64) (ts : List Nat) : W64 :=
  ts.foldl (fun w t => if run t then w ||| g t else w) 0

theorem foldl_or (run : Nat → Bool) (g : Nat → W64) (ts : List Nat) (w : W64) (i : Nat) :
    (ts.foldl (fun w t => if run t then w ||| g t else w) w).getLsbD i =
      (w.getLsbD i || ts.any fun t => run t && (g t).getLsbD i) := by
  induction ts generalizing w with
  | nil => simp
  | cons t r ih => simp only [List.foldl_cons, ih, List.any_cons]; cases run t <;> simp [Bool.or_assoc]

/-- A fold that writes register rd of some threads. -/
theorem vecFold (run : Nat → Bool) (rd : Nat) (g : Nat → W32 × AFlags) (ts : List Nat) (hts : ∀ t ∈ ts, t < 32) (hn : ts.Nodup)
    (y : Strand) :
    let z := ts.foldl (fun z t => if run t then (z.vput rd t (g t).1).flag (g t).2 else z) y
    (∀ r t, t < 32 → z.vget r t = if r = rd ∧ t ∈ ts ∧ run t then (g t).1 else y.vget r t) ∧
    (∀ i, z.asw.getLsbD i = (y.asw.getLsbD i || ts.any fun t => run t && (g t).2.getLsbD i)) ∧
    (∃ v w, z = { y with v := v, asw := w }) := by
  induction ts generalizing y with
  | nil => exact ⟨by simp, by simp, y.v, y.asw, rfl⟩
  | cons u r ih =>
    intro z
    have hu : u < 32 := hts u (by simp)
    have hur : u ∉ r := (List.nodup_cons.1 hn).1
    obtain ⟨h1, h2, v, w, h3⟩ := ih (fun t h => hts t (by simp [h])) (List.nodup_cons.1 hn).2
      (if run u then (y.vput rd u (g u).1).flag (g u).2 else y)
    refine ⟨fun q t ht => ?_, fun i => ?_, ?_⟩
    · show Strand.vget (List.foldl _ _ r) q t = _
      rw [h1 q t ht]
      by_cases hr : run u
      · have hv : ∀ (x : Strand) (w : AFlags), (x.flag w).vget q t = x.vget q t := fun _ _ => rfl
        simp only [hr, if_true, hv, Strand.vget_vput y rd u q t _ hu ht, List.mem_cons]
        by_cases ht' : t = u
        · subst ht'
          by_cases hq : q = rd
          · simp [hq, hur, hr]
          · have : ¬ rd = q := fun e => hq e.symm
            simp [hq, this, hur]
        · have : ¬ (u = t) := fun e => ht' e.symm
          simp [ht', this]
      · simp only [hr, if_false, List.mem_cons, Bool.false_eq_true]
        by_cases ht' : t = u
        · subst ht'; simp [hur, hr]
        · simp [ht']
    · show BitVec.getLsbD (Strand.asw (List.foldl _ _ r)) i = _
      rw [h2 i]
      cases hr : run u <;> simp [hr, Bool.or_assoc]
    · refine ⟨v, w, h3.trans ?_⟩
      cases hr : run u <;> simp [Strand.vput, Strand.flag]

/-- vecWrite over the 32 threads. -/
theorem vecWrite_spec (y : Strand) (pg : BitVec 3) (pn : Bool) (rd : Nat) (g : Nat → W32 × AFlags) :
    let z := vecWrite y pg pn rd g
    (∀ r t, t < 32 → z.vget r t = if r = rd ∧ (y.pget pg.toNat t != pn) = true then (g t).1 else y.vget r t) ∧
    (∀ i, z.asw.getLsbD i = (y.asw.getLsbD i || (List.range 32).any fun t => (y.pget pg.toNat t != pn) && (g t).2.getLsbD i)) ∧
    (∃ v w, z = { y with v := v, asw := w }) := by
  intro z
  obtain ⟨h1, h2, h3⟩ := vecFold (fun t => y.pget pg.toNat t != pn) rd g (List.range 32) (by simp) List.nodup_range y
  refine ⟨fun r t ht => ?_, h2, h3⟩
  have := h1 r t ht
  simpa [ht, z, vecWrite, threads, Strand.runs] using this

/-- A fold that writes predicate rd of some threads. -/
theorem predFold (run : Nat → Bool) (rd : Nat) (g : Nat → Bool) (ts : List Nat) (hts : ∀ t ∈ ts, t < 32) (hn : ts.Nodup) (y : Strand) :
    let z := ts.foldl (fun z t => if run t then z.pput rd t (g t) else z) y
    (∀ r t, t < 32 → z.pget r t = if r = rd ∧ rd ≠ 0 ∧ t ∈ ts ∧ run t then g t else y.pget r t) ∧ (∃ p, z = { y with p := p }) := by
  induction ts generalizing y with
  | nil => exact ⟨by simp, y.p, rfl⟩
  | cons u r ih =>
    intro z
    have hu : u < 32 := hts u (by simp)
    have hur : u ∉ r := (List.nodup_cons.1 hn).1
    obtain ⟨h1, p, h3⟩ := ih (fun t h => hts t (by simp [h])) (List.nodup_cons.1 hn).2 (if run u then y.pput rd u (g u) else y)
    refine ⟨fun q t ht => ?_, ?_⟩
    · show Strand.pget (List.foldl _ _ r) q t = _
      rw [h1 q t ht]
      by_cases hr : run u
      · simp only [hr, if_true, Strand.pget_pput y rd u q t _ hu ht, List.mem_cons]
        by_cases ht' : t = u
        · subst ht'
          by_cases hq : q = rd
          · simp [hq, hur, hr]
          · have : ¬ rd = q := fun e => hq e.symm
            simp [hq, this, hur]
        · have : ¬ (u = t) := fun e => ht' e.symm
          simp [ht', this]
      · simp only [hr, if_false, List.mem_cons, Bool.false_eq_true]
        by_cases ht' : t = u
        · subst ht'; simp [hur, hr]
        · simp [ht']
    · refine ⟨p, h3.trans ?_⟩
      cases hr : run u
      · simp
      · simp only [if_true, Strand.pput]; split <;> rfl

/-- predWrite over the 32 threads. -/
theorem predWrite_spec (y : Strand) (pg : BitVec 3) (pn : Bool) (rd : Nat) (g : Nat → Bool) :
    let z := predWrite y pg pn rd g
    (∀ r t, t < 32 → z.pget r t = if r = rd ∧ rd ≠ 0 ∧ (y.pget pg.toNat t != pn) = true then g t else y.pget r t) ∧
    (∃ p, z = { y with p := p }) := by
  intro z
  obtain ⟨h1, h3⟩ := predFold (fun t => y.pget pg.toNat t != pn) rd g (List.range 32) (by simp) List.nodup_range y
  refine ⟨fun r t ht => ?_, h3⟩
  have := h1 r t ht
  simpa [ht, z, predWrite, threads, Strand.runs] using this

end Sys2Proof.Machine
end

