-- ==== Sys2Proof/Tests/Slice0.lean ====
section
/-! SUPPORT. The model's own tests: the well-formedness checks refuse an ill-formed term of each kind, some results the manual
states, and for every statement that has hypotheses a state and operands that meet them. -/
namespace Sys2Proof.Tests
open Sys2Proof Sys2Proof.Machine
set_option Elab.async false

/-! ## Small states -/

/-- A RUN of one strand at word 0, from a ring. -/
def run0 : RunEntry := { kind := 1, stepEnd := false, rsv0 := 0, entry := 0, rsv1 := 0, args := 7, first := 0, count := 0, cmdId := 9, rsv2 := 0 }

/-- The command that RUN begins, over the tiles of bay 0. -/
def cmd0 : DobbyCmd := { e := run0, fromRing := true, tiles := bayTiles 0, tStart := 0, soft := 0, hard := 0, endStatus := none }

/-- Loom 0, running on bay 0 with a program. -/
def loom0 (prog : List W64) : Loom := { st := .running, session := 1, bays := [0], holder := true, lastHolder := true, loaded := true, program := prog, cmd := some cmd0, credits := 1024, seed := 0x123456789ABCDEF }

/-- Strand 0 of tile 0 at a place of a program, strand 1 beside it. -/
def atWork (prog : List W64) (y : Strand) : State :=
  { looms := [(0, loom0 prog)], tiles := [(0, { strands := [(0, { y with active := true }), (1, { active := true })] })], svc := { st := .ready } }

/-- Strand 0 of tile 0. -/
def a0 : Issuer := { tile := 0, strand := 0 }

/-- That strand before the word at its PC. -/
def before (w : W64) (y : Strand) : State := atWork (List.replicate y.pc.toNat 0 ++ w :: List.replicate 4 0) y

/-- The state after a command. -/
def after (c : Instr) (s : State) : State := match exec c s with | .next t => t | .fault _ => s | .refused _ => s

/-- The values of a vector register. -/
def vec (r : Nat) (f : Nat → Nat) : Table W32 := (List.range 32).map fun t => (r * 32 + t, BitVec.ofNat 32 (f t))

/-! ## Witnesses: the scalar, immediate, branch and vector classes -/

def fr : FmtR := { pg := 0, pn := false, rd := 31, ra := 1, rb := 2, rc := 4, fmt := 0, rnd := 0, sat := false, fmt2 := 0, rsv := 0 }
def fi : FmtI := { pg := 0, pn := false, rd := 31, ra := 0, rsv := 0, imm := 0xFFFFFFF3 }
def fb : FmtB := { pg := 0, pn := false, rs := 1, rsv := 0, off := 4 }

/-- s1 = 5, s2 = −16, s31 = 3; the threads of p1 that are even; v2 counts from 3. -/
def y0 : Strand := { s := [(1, 5), (2, 0xFFFFFFFFFFFFFFF0), (31, 3)], v := vec 1 (· + 1) ++ vec 2 (· + 3), p := (List.range 16).map fun t => (32 + 2 * t, true) }

/-- SALU, both parts: every operation issues, with the last register as RD. -/
theorem witness_SaluInteger_SaluFloat : ∀ op ∈ listedOps 0, Issues (before (wordR 0 op fr) y0) a0 0 (wordR 0 op fr) ∧ (scalarFields 3 fr && fr.rnd = 0) = true := by
  unfold Issues; decide +kernel

theorem witness_ScalarImmediate : ∀ op ∈ listedOps 1, Issues (before (wordI 1 op fi) y0) a0 0 (wordI 1 op fi) ∧ immFields fi = true := by
  unfold Issues; decide +kernel

/-- Each branch issues; its target is the image's last word, and with the next offset past it. -/
theorem witness_Branches : ∀ op ∈ listedOps 2, (Issues (before (wordB 2 op fb) y0) a0 0 (wordB 2 op fb) ∧ branchFields fb = true) ∧
    Issues (before (wordB 2 op { fb with off := 5 }) y0) a0 0 (wordB 2 op { fb with off := 5 }) ∧ branchFields { fb with off := 5 } = true := by
  unfold Issues; decide +kernel

/-- The conditions of the branches hold and fail, and both kinds of target stand in the image of five words. -/
theorem witness_Branches_targets : (y0.sget 0 = 0 ∧ y0.sget 1 ≠ 0 ∧ (y0.sget 2).toInt < 0 ∧ ¬ (y0.sget 1).toInt < 0 ∧ fb.rs ≠ 0 ∧ y0.sget 1 ≠ 1) ∧
    (getLoom (before 0 y0) 0).program.length = 5 ∧ ((0 : Int) + (4 : BitVec 24).toInt = 4 ∧ (0 : Int) + (5 : BitVec 24).toInt = 5 ∧ (0 : Int) + (0xFFFFFF : BitVec 24).toInt < 0) ∧
    (y0.sget 31).toNat % 2 ^ 15 < 5 := by
  decide +kernel

/-- VALU, every part: all operations issue under a predicate that some threads meet and some do not. -/
theorem witness_VectorFloat_VectorInteger_VectorCompare : ∀ op ∈ listedOps 3, ∀ rd ∈ [(0 : BitVec 6), 7], let f : FmtR := { fr with pg := 1, rd := rd }
    Issues (before (wordR 3 op f) y0) a0 0 (wordR 3 op f) ∧ fieldsR f = true ∧ f.rd.toNat < 8 ∧ f.rnd = 0 ∧ f.ra.toNat < 8 ∧ f.rb.toNat < 8 := by
  unfold Issues; decide +kernel

/-- A thread that executes and one that does not; a count of 31 and one of 32 in v2. -/
theorem witness_ShiftsAndReductions : (y0.pget 1 0 != false) = true ∧ (y0.pget 1 1 != false) = false ∧ (y0.vget 2 28).toNat < 32 ∧ ¬ (y0.vget 2 29).toNat < 32 ∧
    ∀ op ∈ [0x16, 0x17, 0x30, 0x31], Issues (before (wordR 3 op fr) y0) a0 0 (wordR 3 op fr) := by
  unfold Issues; decide +kernel

/-! ## Witnesses: loads and stores -/

def tb : Nat := 0x1000000000000000

/-- A tensor of 1 MiB at 0x10000. -/
def rec1 : MapRec := { kind := mkStk, loom := 0, affIgnored := false, forced := false, obj := 1, addr := 0x10000, bytes := 0x100000, count := 1, first := 0, extra := 0 }

/-- Loom 0 with that tensor, and the learner of weave 0 with a bobbin's ring at the tile store's 0x200. -/
def withMap (s : State) : State :=
  { (modLoom s 0 fun x => { x with map := [rec1] }) with bobbins := [(3, { weave := 0, loom := 1, addr := tb + 0x200, nrec := 64, read := 3, write := 9 })], weaves := [(0, { learner := 0, gens := [] })] }

def fm : FmtM := { pg := 0, pn := false, rd := 3, base := 1, vidx := 0, fmt := 0, rnd := 0, sat := false, mode := 0, off := 0x10 }

/-- s1 the base; v2 offsets for INDEX mode, the first below the base. -/
def yl (base : Nat) : Strand := { s := [(1, BitVec.ofNat 64 base), (3, 7)], v := vec 2 (fun t => if t = 0 then 2 ^ 32 - 8 else 4 * t), p := (List.range 16).map fun t => (32 + 2 * t, true) }

def lds (op : Nat) (f : FmtM) (base : Nat) : State := withMap (before (wordM 5 op f) (yl base))

/-- LD.S and ST.S of the last 8 bytes of the tile store that a loom may reach, and of the first of a tensor. -/
theorem witness_Loads_Stores_scalar : ∀ op ∈ [0, 1], ∀ base ∈ [tb + 7 * 2 ^ 20 - 24, 0x10000 - 16],
    Issues (lds op fm base) a0 0 (wordM 5 op fm) ∧ scalarM fm = true ∧ AccessOk (lds op fm base) a0 0 8 [(0, scalarAddr (getStrand (lds op fm base) a0) fm)] (op = 1) ∧
    bobbinRead (lds op fm base) 0 (scalarAddr (getStrand (lds op fm base) a0) fm) = none := by
  unfold Issues AccessOk; decide +kernel

/-- LD.V and ST.V in both modes, under a predicate. -/
theorem witness_Loads_Stores_vector : ∀ op ∈ [2, 3], ∀ mode ∈ [(0 : BitVec 2), 1], let f : FmtM := { fm with pg := 1, vidx := 2 * mode.setWidth 6, mode := mode }
    Issues (lds op f (tb + 0x110)) a0 0 (wordM 5 op f) ∧ plainM f = true ∧ modeM f = true ∧ AccessOk (lds op f (tb + 0x110)) a0 0 4 (ldstAddrs (getStrand (lds op f (tb + 0x110)) a0) f 4) (op = 3) := by
  unfold Issues AccessOk; decide +kernel

/-- LD.VC and ST.VC in each of the four formats. -/
theorem witness_Loads_Stores_convert : ∀ op ∈ [4, 5], ∀ fmt ∈ [(1 : BitVec 4), 2, 3, 4], let f : FmtM := { fm with fmt := fmt }
    Issues (lds op f (tb + 0x110)) a0 0 (wordM 5 op f) ∧ convM f = true ∧ f.rnd = 0 ∧ f.sat = false ∧ rndOk f.rnd.toNat 0 f.fmt.toNat = true ∧ modeM f = true ∧
    AccessOk (lds op f (tb + 0x110)) a0 0 (fmtBytes f.fmt.toNat) (ldstAddrs (getStrand (lds op f (tb + 0x110)) a0) f (fmtBytes f.fmt.toNat)) (op = 5) := by
  unfold Issues AccessOk; decide +kernel

/-- ST.S to the READ word of a bobbin: 9, its WRITE, is accepted, and 10 is not. -/
theorem witness_Stores_bobbin : (Issues (lds 1 fm (tb + 0x1F8)) a0 0 (wordM 5 1 fm) ∧ AccessOk (lds 1 fm (tb + 0x1F8)) a0 0 8 [(0, tb + 0x208)] true) ∧
    scalarAddr (getStrand (lds 1 fm (tb + 0x1F8)) a0) fm = tb + 0x208 ∧
    (bobbinRead (lds 1 fm (tb + 0x1F8)) 0 (tb + 0x208)).any (fun p => p.1 = 3 ∧ p.2.read ≤ 9 ∧ 9 ≤ p.2.write ∧ ¬ 10 ≤ p.2.write) = true := by
  unfold Issues AccessOk; decide +kernel

/-- The three kinds of access that fault: misaligned, past the 7 MiB of a tile store, and outside the loom's regions (another
loom's tile, an unmapped part of a stack, the weft's last address). -/
theorem witness_AccessFaults : (∀ base ∈ [tb + 0xF1, tb + 7 * 2 ^ 20 - 0x10, tb + 128 * 2 ^ 23 - 0x10, 0, 0x2000000000000000 + 2 ^ 30 - 0x18], Issues (lds 0 fm base) a0 0 (wordM 5 0 fm)) ∧
    (scalarM fm = true ∧ scalarAddr (yl (tb + 0xF1)) fm % 8 ≠ 0) ∧ ((tb + 7 * 2 ^ 20) - tb) % 2 ^ 23 = 7 * 2 ^ 20 ∧
    (∀ b ∈ [tb + 128 * 2 ^ 23, 0x10], let s := lds 0 fm (b - 0x10); accStatus s.variant (getLoom s 0) b 8 8 ≠ stBad ∧ mapGives s.variant (getLoom s 0) b 8 = false) ∧
    (let s := lds 0 fm 0; accStatus s.variant (getLoom s 0) (0x2000000000000000 + 2 ^ 30 - 8) 8 8 ≠ stBad) := by
  unfold Issues; decide +kernel

/-! ## Witnesses: asynchronous operations -/

/-- Bytes from a place, without the zeros. -/
def cellsAt (a : Nat) (bs : List Byte) : List Host.Cell := ((List.range bs.length).map fun i => (a + i, bs.getD i 0)).filter fun p => p.2 ≠ 0

/-- Fields of a descriptor, each with its width in bytes, in a descriptor of 64 B. -/
def desc64 (vs : List (Nat × Nat)) : List Byte := let d := vs.flatMap fun p => toLe p.1 p.2; d ++ List.replicate (64 - d.length) 0

/-- A descriptor in order for each instruction of SHTL, XFER, RMT and SPEC. -/
def descOf : Nat → Nat → List Byte
  | 7, 0 => desc64 [(8, 0x10000), (4, 0x400), (4, 70016)]
  | 7, _ => desc64 [(8, 0x20000), (8, tb + 0x1000), (8, 0), (4, 32), (4, 32), (4, 1 + 16 * 1 + 256), (4, 7), (4, 9), (4, 64), (4, 1), (4, 2)]
  | 8, 0 => desc64 [(8, 0x10000), (8, 0x10010), (8, 0), (8, 0), (4, 40)]
  | 8, 3 => desc64 [(8, 0x12000), (8, 0x18000), (8, 0x11000), (8, 0x13000), (4, 6), (2, 8), (2, 2), (8, 0x11100), (4, 1 + 16 * 2 + 256), (4, 5), (4, 6)]
  | 8, _ => desc64 [(8, 0x12000), (8, 0x18000), (8, 0x11000), (8, 0), (4, 5), (2, 8), (2, 0)]
  | 9, 2 => desc64 [(8, 0x15000), (8, tb + 0x2000), (4, 64), (4, 64), (2, 3), (2, 0), (2, 1), (2, 2)]
  | 9, _ => desc64 [(8, 0x15000), (8, tb + 0x2000), (4, 64)]
  | _, 0 => desc64 [(4, 0x4000), (4, 0x5000), (4, 0), (4, 3)]
  | _, 1 => desc64 [(4, 0x4000), (4, 0x5000), (4, 0), (4, 3), (4, 2 + 65536)]
  | _, 2 => desc64 [(4, 0x4000), (4, 0x5000), (4, 0x6000), (4, 9), (4, 4 + 65536)]
  | _, _ => desc64 [(4, 0x4000), (4, 0), (4, 0x6000), (4, 40)]

/-- Indices and offsets of the tensor, a descriptor in the tile store, and a well-conditioned matrix at its 0x4000. -/
def memOf (d : List Byte) : List Host.Cell :=
  cellsAt 0x11000 ([3, 0, 7, 3, 1, 2].flatMap (toLe 4)) ++ cellsAt 0x11100 ([1, 3, 6].flatMap (toLe 4)) ++ cellsAt (tb + 0x400) d ++
  cellsAt (tb + 0x4000) ([0x40800000, 0x3F800000, 0x3F000000, 0x3F800000, 0x40400000, 0x3E800000, 0x3F000000, 0x3E800000, 0x40000000].flatMap (toLe 4))

def fd : FmtD := { pg := 0, pn := false, sd := 3, sa := 1, sb := 0, inl := 0 }
def yd : Strand := { s := [(1, 0x400)], tagNext := 0xFFFF }
/-- A strand with 32 incomplete operations. -/
def yfull : Strand := { yd with tags := (List.range 32).map fun i => { tag := BitVec.ofNat 16 i, kind := .stage, status := none, high := 0 } }

def withDesc (cls op : Nat) (d : List Byte) (y : Strand) : State := { withMap (before (wordD cls op fd) y) with mem := memOf d }

/-- The instructions that take a descriptor of 64 B. -/
def descOps : List (Nat × Nat) := [(7, 0), (7, 1), (8, 0), (8, 1), (8, 2), (8, 3), (9, 0), (9, 1), (9, 2), (12, 0), (12, 1), (12, 2), (12, 3)]

/-- What each reads from its descriptor. -/
def readOf : Nat → Nat → State → Nat → List Byte → Except Byte AsyncOp
  | 7, 0 => fun s l d => stageOp s (getLoom s l) d
  | 7, _ => fun s l d => wcopyOp s (getLoom s l) 0 d
  | 8, 0 => copyOp
  | 8, 1 => indexedOp true
  | 8, 2 => indexedOp false
  | 8, _ => ebagOp
  | 9, 2 => rmtOp true
  | 9, _ => rmtOp false
  | _, 0 => fun s => specOp .fact s 0 0
  | _, 1 => fun s => specOp .solv s 0 0
  | _, 2 => fun s => specOp .topk s 0 0
  | _, _ => fun s => specOp .normacc s 0 0

/-- Its kind, and the blocks it names. -/
def kindOf : Nat → Nat → AsyncKind
  | 7, 0 => .stage | 7, _ => .wcopy | 8, 0 => .copy | 8, 1 => .gather | 8, 2 => .scatter | 8, _ => .ebag
  | 9, 0 => .rmtRd | 9, 1 => .rmtWr | 9, _ => .rmtAdd | _, 0 => .fact | _, 1 => .solv | _, 2 => .topk | _, _ => .normacc
def namedBy (cls op : Nat) (o : AsyncOp) : List (Nat × Nat) :=
  match cls, op with
  | 7, 0 => stageDst 0 o
  | 7, _ => wcopySrc o ++ wcopyDst o
  | 8, 0 => [(o.src, o.len), (o.dst, o.len)]
  | 8, _ => xferReads (kindOf cls op) o ++ xferWrites (kindOf cls op) o
  | 9, _ => [(o.src, o.len)]
  | _, _ => specSrcs o ++ specDsts o
/-- The scoreboards of the tiles they lie in have room. -/
def boardRoom (bs : List (Nat × Nat × Nat)) : Bool :=
  bs.all fun k => decide (boardNeeds [] ((bs.filter fun q => q.1 = k.1).map (·.2)) ≤ 512)

def errIs {α : Type} (r : Except Byte α) (st : Byte) : Bool := match r with | .ok _ => false | .error e => e = st

/-- Every one of them: a descriptor in order, with room for it, read by a strand with no operation and by one with 32; and a
descriptor of ones, which none takes. -/
theorem witness_ShuttleIssue_TransferIssue_RemoteIssue_SpecialIssue : ∀ p ∈ descOps,
    (∀ y ∈ [yd, yfull], Issues (withDesc p.1 p.2 (descOf p.1 p.2) y) a0 0 (wordD p.1 p.2 fd) ∧ tsPoison (withDesc p.1 p.2 (descOf p.1 p.2) y) 0 0x400 64 = false) ∧
    (yd.sget 1).toNat = 0x400 ∧ rdN (withDesc p.1 p.2 (descOf p.1 p.2) yd) (tileAddr 0 0x400) 64 = descOf p.1 p.2 ∧ yd.incomplete.length = 0 ∧ 32 ≤ yfull.incomplete.length ∧
    (match readOf p.1 p.2 (withDesc p.1 p.2 (descOf p.1 p.2) yd) 0 (descOf p.1 p.2) with
      | .ok o => decide (0 + o.len ≤ 262144 ∧ boardRoom (tileBlocks .m12i6 (namedBy p.1 p.2 o)) = true)
      | .error _ => false) = true ∧
    (match readOf p.1 p.2 (withDesc p.1 p.2 (List.replicate 64 0xFF) yd) 0 (List.replicate 64 0xFF) with | .ok _ => false | .error _ => true) = true := by
  unfold Issues; decide +kernel

/-- The index list of a GATHER lies in a unit that is poisoned. -/
theorem witness_TransferIssue_poison : let s : State := { withDesc 8 1 (descOf 8 1) yd with faults := { poisoned := [0x11000 / 64] } }
    Issues s a0 0 (wordD 8 1 fd) ∧ tsPoison s 0 0x400 64 = false ∧ errIs (indexedOp true s 0 (descOf 8 1)) stUncorr = true := by
  unfold Issues; decide +kernel

/-- A WR to module (1, 0, 0) that has nothing before it, beside one that is sent. -/
def toSend : State :=
  let o : AsyncOp := { strand := 0, tag := 9, kind := .rmtWr, num := 3, src := tb + 0x2000, len := 16, x := 1, remote := 0x500, reads := [(0, 0x2000, 16)] }
  modTile (withMap (atWork [0] { tags := [{ tag := 9, kind := .rmtWr, status := none, high := 0 }] })) 0 fun t => { t with ops := [{ o with tag := 8, num := 2, sent := true }, o] }

theorem witness_RemoteIssue_sent : ∀ o ∈ (getTile toSend 0).ops.drop 1, ownerOfTile toSend 0 = some 0 ∧ (getTile toSend 0).ops.length = 2 ∧ (getTile toSend 0).ops.all (fun q => q.tag = 9 || q.sent) = true ∧
    o.tag = 9 ∧ o.isRmt = true ∧ o.sent = false ∧ (o.x, o.y, o.z) ≠ coordOf toSend ∧ (getLoom toSend 0).st ≠ .fenced ∧ (getLoom toSend 0).image = none ∧
    (o.changes = true → opReady toSend o = true ∧ poisonVia toSend (getLoom toSend 0) o.src o.len = false) ∧
    rowsWait toSend 0 (.op 0 o.strand o.tag.toNat) [(o.src, o.len)] = false ∧ agentsIdle toSend 0 := by
  decide +kernel

/-- A descriptor that is misaligned, one that passes 7 MiB by its last byte, and one that meets a poisoned group. -/
theorem witness_DescriptorFaults : ∀ p ∈ descOps,
    (∀ at_ ∈ [(0x420 : Nat), 7 * 2 ^ 20], Issues (withDesc p.1 p.2 [] { yd with s := [(1, BitVec.ofNat 64 at_)] }) a0 0 (wordD p.1 p.2 fd) ∧ (at_ % 64 ≠ 0 ∨ 7 * 2 ^ 20 < at_ + 64)) ∧
    (let s : State := { withDesc p.1 p.2 [] yd with faults := { poisonedGroups := [(0, groupOf 0x43F)] } }
     Issues s a0 0 (wordD p.1 p.2 fd) ∧ tsPoison s 0 0x400 64 = true) := by
  unfold Issues; decide +kernel

/-- A tag that a strand waits for, and the same under a strand that is free. -/
theorem witness_TagCompletes : ∀ b ∈ [Block.wait 5 31, Block.free], let y : Strand := { yfull with blocked := b }
    y.tagRec 5 = some { tag := 5, kind := .stage, status := none, high := 0 } ∧ (y.blocked = b) := by
  decide +kernel

/-! ### Completion -/

/-- The state in which an operation stands alone in the list of tile 0, begun by strand 0 with tag 9. -/
def withOp (o : AsyncOp) : State :=
  modTile (withMap (atWork [0] { tags := [{ tag := 9, kind := o.kind, status := none, high := 0 }] })) 0 fun t => { t with ops := [{ o with strand := 0, tag := 9, num := 4 }] }

/-- The operation of a descriptor. -/
def opFrom (cls op : Nat) : AsyncOp :=
  match readOf cls op (withDesc cls op (descOf cls op) yd) 0 (descOf cls op) with | .ok o => { o with strand := 0, tag := 9, kind := kindOf cls op, num := 4 } | .error _ => {}

/-- A STAGE of 70,016 bytes: its first unit, and its last of 4,480 bytes. A weft unit lands on any tile. -/
theorem witness_StagedUnits : ∀ k ∈ [0, 1], let o : AsyncOp := { opFrom 7 0 with landed := k }; let s := withOp o; let n := min 65536 (o.len - k * 65536)
    (o.kind = .stage ∧ s.svc.dark = false ∧ opOf (getTile s 0) 0 9 = some o ∧ ownerOfTile s 0 = some 0 ∧ opReady s o = true) ∧
    uncopied s (tileAddr 0 (o.dst + k * 65536)) n = none ∧ opPoison s (getLoom s 0) [(o.src + k * 65536, n)] [(tileAddr 0 (o.dst + k * 65536), n)] = false ∧ (o.len ≤ k * 65536 + n ↔ k = 1) := by
  decide +kernel

/-- A working copy in tile blocks of BF16. -/
theorem witness_WorkingCopies : let o := opFrom 7 1; o.kind = .wcopy ∧ (o.tiled = true → o.rows % 32 = 0 ∧ o.cols % blockCols o.dstFmt = 0) ∧
    o.dstFmt ∈ [1, 2, 3, 4] ∧ 31 < o.rows ∧ 31 < o.cols ∧ MayComplete (withOp o) a0 9 0 o (wcopySrc o) (wcopyDst o) ∧ (∀ q ∈ readyConversions (withOp o) 0, o.num ≤ q.num) := by
  unfold MayComplete; decide +kernel

/-- COPY between ranges that overlap, GATHER, and SCATTER with an index that comes twice. -/
theorem witness_Transfers : ∀ op ∈ [0, 1, 2], let o := opFrom 8 op; o.kind = kindOf 8 op ∧ MayComplete (withOp o) a0 9 0 o (xferSrc o) (xferDst o) ∧
    (op ≠ 0 → o.list = [3, 0, 7, 3, 1] ∧ o.row = 8 ∧ o.src = 0x12000 ∧ o.dst = 0x18000) := by
  unfold MayComplete; decide +kernel

/-- The rows those two move do not meet: no address of them is a hot row's. -/
theorem witness_Transfers_apart : (∀ a ∈ (opFrom 8 1).list.flatMap (fun j => rangeOf (0x12000 + j * 8) 8), ∀ b ∈ rangeOf 0x18000 40,
      byteHome (getLoom (withOp (opFrom 8 1)) 0) a ≠ byteHome (getLoom (withOp (opFrom 8 1)) 0) b) ∧
    ∀ a ∈ rangeOf 0x12000 40, ∀ b ∈ (opFrom 8 2).list.flatMap (fun j => rangeOf (0x18000 + j * 8) 8),
      byteHome (getLoom (withOp (opFrom 8 2)) 0) a ≠ byteHome (getLoom (withOp (opFrom 8 2)) 0) b := by
  decide +kernel

/-- An EBAG of two bags under weights. -/
theorem witness_EmbeddingBags : let o := opFrom 8 3; o.kind = .ebag ∧ MayComplete (withOp o) a0 9 0 o (xferSrc o) (xferDst o) ∧
    o.list.length = o.rows + 1 + (o.list.getD o.rows 0 - o.list.headD 0) ∧ (∀ b, b < o.rows → o.list.getD b 0 ≤ o.list.getD (b + 1) 0) ∧
    ((rangeOf o.dst (o.rows * (o.row / fmtBytes o.srcFmt) * fmtBytes o.dstFmt)).map (byteHome (getLoom (withOp o) 0))).Nodup ∧ 1 < o.rows ∧ 1 < o.row / fmtBytes o.srcFmt := by
  unfold MayComplete; decide +kernel

/-! ## Witnesses: conversion, synchronisation, system -/

/-- CVT between BF16 and E4M3, MXQ and MXDQ of an MX format, all threads executing. -/
theorem witness_Conversions : let f : FmtR := { fr with rd := 63, rb := 31, rc := 31, fmt := 5, fmt2 := 6 }; let c : FmtR := { fr with fmt := 1, fmt2 := 3 }
    (Issues (before (wordR 4 0 c) y0) a0 0 (wordR 4 0 c) ∧ fieldsR c = true ∧ cvtFmt c.fmt.toNat = true ∧ cvtFmt c.fmt2.toNat = true ∧ rndOk c.rnd.toNat c.fmt2.toNat c.fmt.toNat = true) ∧
    (Issues (before (wordR 4 1 f) y0) a0 0 (wordR 4 1 f) ∧ fieldsR f = true ∧ f.rc.toNat < 32 ∧ isMx f.fmt.toNat = true ∧ rndOk f.rnd.toNat 0 f.fmt.toNat = true ∧
      ∀ i, i < 32 → (getStrand (before (wordR 4 1 f) y0) a0).runs f.pg f.pn i = true) ∧
    (Issues (before (wordR 4 2 f) y0) a0 0 (wordR 4 2 f) ∧ f.rb.toNat < 32 ∧ isMx f.fmt2.toNat = true ∧ f.rnd = 0) := by
  unfold Issues; decide +kernel

/-- Tag 4 incomplete, tag 5 complete with status 9, a WR incomplete as tag 6. -/
def ysync : Strand := { s := [(1, 5), (2, 4), (3, 77)], tags := [{ tag := 4, kind := .stage, status := none, high := 0 }, { tag := 5, kind := .coll, status := some 9, high := 7 }, { tag := 6, kind := .rmtWr, status := none, high := 0 }] }
def fsync (sa sd : BitVec 5) (inl : Nat) : FmtD := { pg := 0, pn := false, sd := sd, sa := sa, sb := 0, inl := BitVec.ofNat 35 inl }

/-- WAIT for a complete tag, an incomplete one and one never issued; WAITALL with and without incomplete operations; FENCE of
TILE, and of REMOTE with and without a WR. -/
theorem witness_Waits : (∀ sa ∈ [(1 : BitVec 5), 2, 3], Issues (before (wordD 0xB 0 (fsync sa 31 0)) ysync) a0 0 (wordD 0xB 0 (fsync sa 31 0))) ∧
    (ysync.sget 1 = (5 : BitVec 16).setWidth 64 ∧ (ysync.tagRec 5).map (·.status) = some (some 9)) ∧ (ysync.sget 2 = (4 : BitVec 16).setWidth 64 ∧ (ysync.tagRec 4).map (·.status) = some none) ∧
    (ysync.sget 3 = (77 : BitVec 16).setWidth 64 ∧ ysync.tagRec 77 = none) ∧
    (∀ y ∈ [ysync, {}], Issues (before (wordD 0xB 1 (fsync 0 31 0)) y) a0 0 (wordD 0xB 1 (fsync 0 31 0)) ∧ Issues (before (wordD 0xB 2 (fsync 0 0 (3 * 2 ^ 32))) y) a0 0 (wordD 0xB 2 (fsync 0 0 (3 * 2 ^ 32)))) ∧
    Issues (before (wordD 0xB 2 (fsync 0 0 (2 * 2 ^ 32))) ysync) a0 0 (wordD 0xB 2 (fsync 0 0 (2 * 2 ^ 32))) ∧
    (ysync.incomplete ≠ [] ∧ ({} : Strand).incomplete = []) ∧ (fsync 0 0 (3 * 2 ^ 32)).inl.toNat / 2 ^ 32 = 3 ∧ (fsync 0 0 (2 * 2 ^ 32)).inl.toNat / 2 ^ 32 < 3 ∧
    (∃ r ∈ ysync.incomplete, r.kind = .rmtWr) ∧ ∀ r ∈ ({} : Strand).incomplete, r.kind ≠ .rmtWr ∧ r.kind ≠ .rmtAdd := by
  unfold Issues; decide +kernel

/-- The tiles of bay 0 at a BAR, all strands arrived but the issuing one, and strand 2 of tile 3 too where last is false. -/
def atBar (scope : Nat) (last : Bool) : State :=
  { before (wordD 0xB 3 (fsync 0 0 (scope * 2 ^ 32 + 7 * 2 ^ 28))) {} with tiles := (bayTiles 0).map fun t => (t, { strands := (List.range 16).map fun i =>
      (i, if t = 0 && i = 0 then { active := true } else if !last && t = 3 && i = 2 then { active := true } else if i = 5 then { active := true, ended := true } else { active := true, blocked := .bar (scope = 2) 7, pc := 4 }) }) }

/-- A BAR of each scope; in the scope LOOM a strand that has neither arrived nor ended, and none. -/
theorem witness_Barriers : (∀ scope ∈ [0, 1, 2], let f := fsync 0 0 (scope * 2 ^ 32 + 7 * 2 ^ 28); Issues (atBar scope false) a0 0 (wordD 0xB 3 f) ∧ f.inl.toNat / 2 ^ 32 = scope ∧ f.inl.toNat / 2 ^ 28 % 16 = 7) ∧
    (0 ∈ bayTiles 0 ∧ 3 ∈ bayTiles 0 ∧ (getLoom (atBar 2 false) 0).cmd.map (·.tiles) = some (bayTiles 0)) ∧
    ((getStrand (atBar 2 false) ⟨3, 2⟩).ended = false ∧ (getStrand (atBar 2 false) ⟨3, 2⟩).blocked ≠ .bar true 7) ∧
    Issues (atBar 2 true) a0 0 (wordD 0xB 3 (fsync 0 0 (2 * 2 ^ 32 + 7 * 2 ^ 28))) ∧
    ∀ t ∈ bayTiles 0, ∀ i < 16, ¬ ((t ≠ 0 ∨ i ≠ 0) ∧ (getStrand (atBar 2 true) ⟨t, i⟩).ended = false ∧ (getStrand (atBar 2 true) ⟨t, i⟩).blocked ≠ .bar true 7) := by
  unfold Issues; decide +kernel

/-- A semaphore instruction by a loom with 5 units in semaphore 255 and a waiter or none there; 2 of shared semaphore 0x800
held, of 5. -/
def atSem (op sem n : Nat) (busy revoked : Bool) (mask : BitVec 16) : State :=
  let s := before (wordD 0xB op (fsync 0 31 (n * 2 ^ 12 + sem))) {}
  { (modLoom s 0 fun x => { x with sems := [(255, 5), (254, 0xFFFFFFFF)], semWaiters := if busy then [(255, 0, 1)] else [], revoked := revoked }) with
    ssems := [(0x800, { mask := mask, count := 5, units := [(0, 2)], waiters := if busy then [(1, 512, 0, 1)] else [] })] }

/-- Units there and not there, with a waiter and without, and a count that would pass 2^32 − 1. -/
theorem witness_LoomSemaphores : (∀ op ∈ [4, 5, 6], ∀ n ∈ [5, 6], ∀ b ∈ [true, false], SemOk op (atSem op 255 n b false 2) a0 0 (fsync 0 31 (n * 2 ^ 12 + 255))) ∧
    semField (fsync 0 31 (6 * 2 ^ 12 + 255)) = 255 ∧ semUnits (fsync 0 31 (6 * 2 ^ 12 + 255)) = 6 ∧ (tget 0 (getLoom (atSem 4 255 6 true false 2) 0).sems 255).toNat = 5 ∧
    ((getLoom (atSem 4 255 6 true false 2) 0).semWaiters.any (fun w => w.1 = 255)) = true ∧ ((getLoom (atSem 4 255 6 false false 2) 0).semWaiters.any (fun w => w.1 = 255)) = false ∧
    SemOk 6 (atSem 6 254 1 false false 2) a0 0 (fsync 0 31 (2 ^ 12 + 254)) ∧ 2 ^ 32 ≤ (tget 0 (getLoom (atSem 6 254 1 false false 2) 0).sems 254).toNat + 1 := by
  unfold SemOk Issues; decide +kernel

/-- The same of a shared semaphore, for a session in the mask and one that is not. -/
theorem witness_SharedSemaphores : (∀ op ∈ [4, 5, 6], ∀ n ∈ [2, 5, 6], ∀ b ∈ [true, false], ∀ m ∈ [true, false], SemOk op (atSem op 0x800 n b false (if m then 2 else 1)) a0 0 (fsync 0 31 (n * 2 ^ 12 + 0x800))) ∧
    ((tfind (atSem 4 0x800 2 true false 2).ssems 0x800).any (fun q => q.mask = 2 && q.count.toNat = 5 && tget 0 q.units 0 = 2 && q.waiters.length = 1) = true) ∧
    semField (fsync 0 31 (6 * 2 ^ 12 + 0x800)) = 0x800 ∧ (getLoom (atSem 4 0x800 2 true false 2) 0).session = 1 ∧ (2 : BitVec 16).getLsbD 1 = true ∧ (1 : BitVec 16).getLsbD 1 = false ∧
    (getLoom (atSem 6 0x800 2 true false 2) 0).preempt = none := by
  unfold SemOk Issues; decide +kernel

theorem witness_RevokedOnce : ∀ op ∈ [4, 5, 6], ∀ sem ∈ [255, 0x800, 0xBFF], let f := fsync 0 31 (2 ^ 12 + sem)
    Issues (atSem op sem 1 false true 2) a0 0 (wordD 0xB op f) ∧ semUnits f ≠ 0 ∧ (semField f < 256 ∨ (0x800 ≤ semField f ∧ semField f < 0xC00)) ∧ (getLoom (atSem op sem 1 false true 2) 0).revoked = true := by
  unfold Issues; decide +kernel

/-- Each instruction of class SYS; special registers 0 to 9 and 10, of which all but SR_CYCLE have a value here. -/
theorem witness_SystemClass : (∀ op ∈ listedOps 0xD, Issues (before (wordI 0xD op fi) y0) a0 0 (wordI 0xD op fi) ∧ fi.rd.toNat < 32) ∧
    (∀ n ∈ [0, 2, 3, 4, 5, 6, 7, 8, 9], (srValue (before (wordI 0xD 0 fi) y0) 0 a0 y0 n).isSome = true) ∧
    Issues (before (wordI 0xD 0 { fi with imm := 9 }) y0) a0 0 (wordI 0xD 0 { fi with imm := 9 }) ∧ Issues (before (wordI 0xD 0 { fi with imm := 10 }) y0) a0 0 (wordI 0xD 0 { fi with imm := 10 }) := by
  unfold Issues; decide +kernel

/-- Words of no list; a reserved bit set in each format; registers past their files; reserved codes of FMT and FMT2. -/
theorem witness_ReservedFaults : (Issues (before 0xF000000000000000 y0) a0 0 0xF000000000000000 ∧ listed 0xF000000000000000 = false ∧ Issues (before 0x0FC0000000000000 y0) a0 0 0x0FC0000000000000 ∧ listed 0x0FC0000000000000 = false) ∧
    (Issues (before (wordR 0 0 { fr with rsv := 1 }) y0) a0 0 (wordR 0 0 { fr with rsv := 1 }) ∧ Issues (before (wordI 0xD 2 { fi with rsv := 1 }) y0) a0 0 (wordI 0xD 2 { fi with rsv := 1 }) ∧
      Issues (before (wordB 2 0 { fb with rsv := 1 }) y0) a0 0 (wordB 2 0 { fb with rsv := 1 }) ∧ Issues (before (wordR 3 0x10 { fr with rsv := 1 }) y0) a0 0 (wordR 3 0x10 { fr with rsv := 1 })) ∧
    (Issues (before (wordR 0 0 { fr with rb := 32 }) y0) a0 0 (wordR 0 0 { fr with rb := 32 }) ∧ Issues (before (wordR 3 0x28 { fr with rd := 8 }) y0) a0 0 (wordR 3 0x28 { fr with rd := 8 })) := by
  unfold Issues; decide +kernel

/-- The reserved codes of FMT and of FMT2. -/
theorem witness_ReservedFaults_formats : ∀ co ∈ [(3, 0), (4, 1), (4, 2)], ∀ fm ∈ [((0xB : BitVec 4), (0 : BitVec 4)), (0, 0xF)], let f : FmtR := { fr with fmt := fm.1, fmt2 := fm.2 }
    (0xA < f.fmt.toNat ∨ 0xA < f.fmt2.toNat) ∧ Issues (before (wordR co.1 co.2 f) y0) a0 0 (wordR co.1 co.2 f) := by
  unfold Issues; decide +kernel

/-- A running loom with a command in progress, with a fault recorded and without one. -/
theorem witness_FaultEffect : ∀ v ∈ [true, false], let s := modLoom (before 0 y0) 0 fun x => { x with fault := { x.fault with valid := v } }
    stBad ≠ stUncorr ∧ (getLoom s 0).fault.valid = v ∧ (getLoom s 0).st = .running ∧ (getLoom s 0).cmd.map (·.endStatus) = some none := by
  decide +kernel

/-! ## Witnesses: matrix commands and special functions -/

/-- Fields of a matrix descriptor. -/
def mtxDesc (vs : List Nat) : List Byte := toLe 8 (vs.headD 0) ++ vs.tail.flatMap (toLe 4)
/-- An MMA of 5 × 3 with K 40 in BF16, a FOLD of a block at 0x4000, a DRAIN to E4M3 into a block at 0x10000, a RETIRE of it. -/
def mtxDescOf : Nat → List Byte
  | 0 => mtxDesc [tb + 0x8000, 0x2000, 1 + 16, 5, 3, 40, 0, 0, 1, 0, 0, 0, 0, 0, 0]
  | 1 => mtxDesc [0, 0, 0, 5, 3, 0, 0x4000, 0, 1, 0, 0, 0, 0, 0, 0]
  | 2 => mtxDesc [0, 0, 3 * 256 + 4096 + 16384, 5, 3, 0, 0x10000, 7, 0, 0, 9, 64, 1, 2, 0]
  | _ => mtxDesc [0, 0, 0, 0, 0, 0, 0x10000, 0, 0, 0, 0, 0, 0, 0, 0]
def fmtx : FmtD := { pg := 0, pn := false, sd := 0, sa := 1, sb := 0, inl := 0 }
def atMtx (op : Nat) : State := { withMap (before (wordD 6 op fmtx) { s := [(1, 0x400)] }) with mem := cellsAt (tb + 0x400) (mtxDescOf op) }
/-- Tile 0 with 32 commands queued. -/
def fullQueue (s : State) : State := modTile s 0 fun t => { t with queue := List.replicate 32 {} }
/-- Accumulators of output block 0 bound, and a READY block and another. -/
def boundTile (s : State) : State :=
  modTile s 0 fun t => { t with binds := [{ outId := 0, thin := false, gang := 0, claim := none, usesA := true, usesB := false, intA := some false, intB := none }], board := [{ off := 0x10000, len := 1024, st := .ready }, { off := 0x20000, len := 1024, st := .ready }] }

def okIs (r : Except Byte (List Byte)) (d : List Byte) : Bool := match r with | .ok x => x = d | .error _ => false

theorem ok_of_okIs {r : Except Byte (List Byte)} {d : List Byte} (h : okIs r d = true) : r = .ok d := by
  cases r <;> simp_all [okIs]

/-- What MtxOk asks but for the first read of the descriptor, whose 64 B are the descriptor's when it has no shared scale. -/
theorem mtxOk_of {s : State} {op : Nat} {d : List Byte} (hd : okIs (descriptor s 0 ((getStrand s a0).sget 1) 64) d = true)
    (hm : (isMx (mtxOf s a0 op fmtx d).warpFmt || isMx (mtxOf s a0 op fmtx d).weftFmt || isMx (mtxOf s a0 op fmtx d).dstFmt) = false)
    (hi : Issues s a0 0 (wordD 6 op fmtx)) (hn : ¬ 1 < (mtxOf s a0 op fmtx d).nseg)
    (hc : mtxRsv d false = true ∧ mtxCheck s (getLoom s 0) 0 (getTile s 0) (mtxOf s a0 op fmtx d) d = stOk) : MtxOk s a0 0 op fmtx d := by
  refine ⟨hi, rfl, rfl, rfl, rfl, by decide, by decide, ⟨d, ok_of_okIs hd, rfl⟩, ?_, fun _ h => absurd h hn, ?_⟩
  · rw [hm]; exact ok_of_okIs hd
  · rw [hm]; exact hc

theorem witness_MatrixIssue_mma : MtxOk (atMtx 0) a0 0 0 fmtx (mtxDescOf 0) :=
  mtxOk_of (by decide +kernel) (by decide +kernel) (by unfold Issues; decide +kernel) (by decide +kernel) (by decide +kernel)

theorem witness_MatrixIssue_full : MtxOk (fullQueue (atMtx 0)) a0 0 0 fmtx (mtxDescOf 0) ∧ 32 ≤ (getTile (fullQueue (atMtx 0)) 0).queue.length :=
  ⟨mtxOk_of (by decide +kernel) (by decide +kernel) (by unfold Issues; decide +kernel) (by decide +kernel) (by decide +kernel), by decide +kernel⟩

theorem witness_MatrixIssue_fold : MtxOk (atMtx 1) a0 0 1 fmtx (mtxDescOf 1) :=
  mtxOk_of (by decide +kernel) (by decide +kernel) (by unfold Issues; decide +kernel) (by decide +kernel) (by decide +kernel)

theorem witness_MatrixIssue_drain : MtxOk (boundTile (atMtx 2)) a0 0 2 fmtx (mtxDescOf 2) :=
  mtxOk_of (by decide +kernel) (by decide +kernel) (by unfold Issues; decide +kernel) (by decide +kernel) (by decide +kernel)

theorem witness_MatrixIssue_retire : MtxOk (boundTile (atMtx 3)) a0 0 3 fmtx (mtxDescOf 3) :=
  mtxOk_of (by decide +kernel) (by decide +kernel) (by unfold Issues; decide +kernel) (by decide +kernel) (by decide +kernel)

/-- The queue has room, and the blocks fit in the scoreboard. -/
theorem witness_MatrixIssue_room : (getTile (atMtx 0) 0).queue.length < 32 ∧ ∀ op ∈ [0, 1, 2, 3], let c := mtxOf (atMtx op) a0 op fmtx (mtxDescOf op)
    (getTile (atMtx op) 0).board.length + boardNeeds (getTile (atMtx op) 0).board (mtxSources 0 c ++ mtxDest c) ≤ 512 := by
  decide +kernel

/-- An MMA, a DRAIN, and a RETIRE of a READY block, that waits alone in the queue. -/
theorem witness_OldestIssues : ∀ op ∈ [0, 2, 3], let s := after (if op = 0 then .mma a0 fmtx else if op = 2 then .drain a0 fmtx else .retire_ a0 fmtx) (boundTile (atMtx op)); let t := getTile s 0
    (s.svc.dark = false ∧ loomOfTile s 0 = some 0 ∧ t.queue.length = 1) ∧ t.queue.all (fun c => c.op = op && mayIssue 0 t [] c && (op = 3 || (claimNow t c).isSome)) = true := by
  decide +kernel

/-- The queue's only command has none before it. -/
theorem witness_OldestIssues_first : ∀ (pre post : List MtxCmd) (e : MtxCmd), ([] : List MtxCmd) ≠ pre ++ e :: post := by simp

def started (op : Nat) : State := after (.matrixCommandIssue 0) (after (if op = 0 then .mma a0 fmtx else if op = 1 then .fold a0 fmtx else .drain a0 fmtx) (boundTile (atMtx op)))

/-- An MMA and a FOLD in flight whose weft has come, of tile store; the MMA's K is one segment, and no column has entered. -/
theorem witness_LastRounding : ∀ op ∈ [0, 1], let s := started op
    s.svc.dark = false ∧ ((getTile s 0).running.find? fun q => q.cmd.num = 0).any (fun r => let c := r.cmd
      c.op = op && weftUnits s.variant c ≤ r.staged.length && c.m ≤ 128 && c.n ≤ 128 && 0 < c.m && 0 < c.n && !mtxPoison s 0 c && r.pos = 0 && r.parts.isEmpty && (op = 1 || segOk c.segTab (kBlocks c.k))) = true := by
  decide +kernel

/-- A column of that MMA may enter; one of a weft in the stacks has not landed. -/
theorem witness_ColumnEnters : (getTile (started 0) 0).running.length = 1 ∧ (getTile (started 0) 0).running.all (fun r => r.cmd.op = 0 && r.cmd.m ≤ 128 && r.cmd.n ≤ 128 && r.pos < entries r.cmd && entryLanded (started 0).variant r r.pos &&
      !entryLanded (started 0).variant { r with cmd := { r.cmd with weftAddr := 0x10000 } } r.pos) = true := by
  decide +kernel

/-- A unit of a weft of the stacks that comes. -/
theorem witness_StagedUnits_weft : (getTile (started 0) 0).running.length = 1 ∧ (getTile (started 0) 0).running.all (fun r => let q : MtxRun := { r with cmd := { r.cmd with weftAddr := 0x10000 } }
      q.staged.length < weftUnits (started 0).variant q.cmd && !poisonHit (started 0) (q.cmd.weftAddr + q.staged.length * 65536) (min 65536 (q.cmd.weftBytes - q.staged.length * 65536))) = true := by
  decide +kernel

/-- A drain whose write is formed and whose turn has come; its command drains to E4M3, from a floating accumulator, or to INT32 and
to FP32 from one of integers. -/
theorem witness_DrainLands_DrainedValues : let s := started 2
    s.svc.dark = false ∧ ((getTile s 0).landing.find? fun q => q.num = 0).any (fun w => landingReady (getTile s 0) w && w.blocks.all (fun b => uncopied s (tileAddr 0 b.1) b.2 = none) && (w.stores s 0).all (fun ob => !writeBlocked s ob.1 1) &&
      decide w.blocks.Nodup && w.blocks.any fun b => (boardFind (getTile s 0).board b.1 b.2).any fun e => e.writers ≤ 1) = true ∧
    (let c := mtxOf (atMtx 2) a0 2 fmtx (mtxDescOf 2); c.op = 2 ∧ c.dstFmt = 3 ∧ c.accInt = false ∧ 4 < c.m ∧ 2 < c.n ∧ 0 < fmtBytes c.dstFmt ∧
      (∀ fmt ∈ [0, 9], let q : MtxCmd := { c with dstFmt := fmt, accInt := true }; q.dstFmt ∈ (if q.accInt = true then [0, 1, 2, 3, 4, 9] else [0, 1, 2, 3, 4]) ∧ 0 < fmtBytes q.dstFmt)) := by
  decide +kernel

/-- A positive definite matrix has a factor. -/
theorem witness_FactorEquations : (match chol [[0x40800000], [0x3F800000, 0x40400000], [0x3F000000, 0x3E800000, 0x40000000]] with | .ok g => decide (g.length = 3) | .error _ => false) = true := by
  decide +kernel

/-- FACT, SOLV, TOPK and NORMACC of the operations of their descriptors, and K at most the count. -/
theorem witness_SpecialResults : ∀ op ∈ [0, 1, 2, 3], let o := opFrom 12 op; o.kind = kindOf 12 op ∧ MayComplete (withOp o) a0 9 0 o (specSrcs o) (specDsts o) ∧ (op = 2 → o.cols ≤ o.len) := by
  unfold MayComplete; decide +kernel

/-! ## Witnesses: remote requests and collectives -/

/-- A request from module (1, 0, 0) to 16 bytes of the tensor, by a job whose loom is configured. -/
def rq (k : RmtKind) : RmtRequest := { kind := k, fromX := 1, fromY := 0, fromZ := 0, srcTile := 77, srcStrand := 3, srcTag := 0x1234, jobId := 5, beyondSplit := false, addr := 0x12000, len := 16, ordered := false, intElem := false, group := 0, index := 0, count := 0, data := List.replicate 16 1 }
def jobLoom : State := modLoom (withMap (atWork [0] {})) 0 fun x => { x with configured := true, jobId := 5 }
def awayLoom : State := modLoom jobLoom 0 fun x => { x with holder := false, st := .saved }

/-- RD, WR and ADD that are served; one from beyond a split, one outside the job's regions, one to a tile store whose loom is
away. -/
theorem witness_RemoteServed : (∀ k ∈ [RmtKind.rd, .wr, .add], Served jobLoom (rq k) 0 ∧ (rq k).ordered = false ∧ poisonVia jobLoom (getLoom jobLoom 0) 0x12000 16 = false ∧
      blockedVia jobLoom (getLoom jobLoom 0) 0x12000 16 = false ∧ (rq k).data.length = (rq k).len ∧ (rq k).len % 4 = 0) ∧
    rmtTarget jobLoom { rq .wr with jobId := 6 } none = none ∧ rmtTarget jobLoom { rq .wr with addr := 0xFFF8 } none = none ∧
    (rmtTarget awayLoom { rq .wr with addr := BitVec.ofNat 64 (tb + 0x2000) } none = some 0 ∧ inTiles awayLoom 0 (tb + 0x2000) 16 = true ∧ (getLoom awayLoom 0).present = false ∧ awayLoom.svc.dark = false) := by
  unfold Served ServedIn; decide +kernel

theorem witness_RemoteServed_poison : (let s : State := { jobLoom with faults := { poisoned := [0x12000 / 64] } }; ∀ k ∈ [RmtKind.rd, .wr, .add], Served s (rq k) 0 ∧ poisonVia s (getLoom s 0) 0x12000 16 = true ∧ blockedVia s (getLoom s 0) 0x12000 16 = true) := by
  unfold Served ServedIn; decide +kernel

/-- A RD of strand 0 of tile 0 that names this module. -/
def ownRd : AsyncOp := { strand := 0, tag := 9, kind := .rmtRd, num := 3, src := tb + 0x2000, len := 16, remote := 0x12000 }
def reads : State := modTile jobLoom 0 fun t => { t with ops := [ownRd], rmtOut := 16 }
theorem witness_RemoteServed_own : (reads.svc.dark = false ∧ opOf (getTile reads 0) 0 9 = some ownRd ∧ ownerOfTile reads 0 = some 0 ∧ (ownRd.x, ownRd.y, ownRd.z) = coordOf reads ∧
      (getLoom reads 0).st ≠ .fenced ∧ (getLoom reads 0).image = none ∧ ownRd.ordered = false) ∧
    (let q := requestOf reads a0 ownRd 0; rmtTarget reads q (some 0) = some 0 ∧ ServedIn reads q 0 ∧ poisonVia reads (getLoom reads 0) q.addr.toNat q.len = false) := by
  unfold ServedIn; decide +kernel

/-- An ordered contribution, index 1 of 3, in the place of the first of its group and beside it. -/
def ord (index count len : Nat) : RmtRequest := { rq .add with ordered := true, group := 4, index := index, count := count, len := len, data := List.replicate len 1 }
def holding (l : List RmtRequest) : State := modLoom jobLoom 0 fun x => { x with holdsAdd := l.map fun r => { req := r } }

/-- An INDEX held already, a COUNT that differs, the last byte of 1 MiB that fits and one more, and a group not yet complete. -/
theorem witness_OrderedAdds : (∀ s ∈ [holding [], holding [ord 1 3 16], holding [ord 0 2 16], holding [ord 0 3 16], holding [{ ord 0 2 (2 ^ 20 - 16) with group := 5, data := [] }], holding [{ ord 0 2 (2 ^ 20 - 12) with group := 5, data := [] }]],
      Served s (ord 1 3 16) 0 ∧ poisonVia s (getLoom s 0) 0x12000 16 = false ∧ blockedVia s (getLoom s 0) 0x12000 16 = false ∧ doneGroups (getLoom s 0) = []) ∧
    (ord 1 3 16).kind = .add ∧ (ord 1 3 16).ordered = true ∧ (ord 1 3 16).index = (ord 1 3 16).index ∧ (ord 0 2 16).count ≠ (ord 1 3 16).count ∧ (getLoom (holding []) 0).bays.length = 1 := by
  unfold Served ServedIn; decide +kernel

/-- The contribution of INDEX 0 completes a group that holds INDEX 1 of 2. -/
theorem witness_OrderedAdds_complete : let s := holding [ord 1 2 16]; let q := ord 0 2 16; let qs := [ord 0 2 16, ord 1 2 16]
    Served s q 0 ∧ poisonVia s (getLoom s 0) 0x12000 16 = false ∧ blockedVia s (getLoom s 0) 0x12000 16 = false ∧ doneGroups (getLoom s 0) = [] ∧ (getLoom s 0).present = true ∧ (getLoom s 0).hot = [] ∧
    qs.Perm ([ord 1 2 16] ++ [q]) ∧ qs.Pairwise (fun p r => p.index < r.index) ∧ [ord 1 2 16].length + 1 = q.count ∧
    (∀ p ∈ qs, p.kind = .add ∧ p.len % 4 = 0 ∧ p.data.length = p.len ∧ (p.fromX, p.fromY, p.fromZ) ≠ coordOf s ∧ uncopied s p.addr.toNat p.len = none ∧ reqWaits s 0 p = false ∧ poisonHit s p.addr.toNat p.len = false) := by
  unfold Served ServedIn; decide +kernel

/-- An operation sent to module (1, 0, 0) by strand 0 of tile 0. -/
def sentOp (k : AsyncKind) : AsyncOp := { strand := 0, tag := 9, kind := k, num := 3, src := tb + 0x2000, len := 16, x := 1, remote := 0x500, sent := true }
def waitsFor (k : AsyncKind) (st : LoomState) : State :=
  modLoom { jobLoom with tiles := [(0, { strands := [(0, { active := true, tags := [{ tag := 9, kind := k, status := none, high := 0 }] })], ops := [sentOp k], rmtOut := 16 })] } 0 fun x => { x with st := st }

/-- A RD that went well and one that did not, a WR and an ADD, at a loom at work, at one that is saved, and at one that was CUT. -/
theorem witness_RemoteAnswered : (∀ k ∈ [AsyncKind.rmtRd, .rmtWr, .rmtAdd], ∀ st ∈ [LoomState.running, .saved], let s := waitsFor k st; let o := sentOp k
      (s.svc.dark = false ∧ opOf (getTile s 0) 0 9 = some o ∧ ownerOfTile s 0 = some 0 ∧ o.landed = 0 ∧ (o.x, o.y, o.z) ≠ coordOf s ∧ (o.kind = .rmtRd ∨ o.kind = .rmtWr ∨ o.kind = .rmtAdd)) ∧
      o.sent = true ∧ (getLoom s 0).discards = false ∧ ((getLoom s 0).parks = true ↔ st = .saved) ∧ (getLoom s 0).image = none) ∧
    (stPerm ≠ stUncorr ∧ stOk ≠ stUncorr ∧ stPerm.toNat ≤ 0x12) ∧
    (let s := waitsFor .rmtRd .running; opReady s (sentOp .rmtRd) = true ∧ rowsWait s 0 (.op 0 0 9) [(tb + 0x2000, 16)] = false ∧ agentsIdle s 0 ∧ uncopied s (tb + 0x2000) 16 = none ∧
      blockedVia s (getLoom s 0) (tb + 0x2000) 16 = false) ∧
    (let s := modLoom (waitsFor .rmtRd .stopping) 0 fun x => { x with cut := true }; (getLoom s 0).discards = true ∧ (getLoom s 0).image = none) := by
  decide +kernel

/-- A collective of two tiles over 64 elements of FP32, or of 64 bytes for SHIFT and PERM. -/
def collDescOf (op t : Nat) : List Byte :=
  desc64 [(8, tb + t * 2 ^ 23 + 0x2000), (8, tb + t * 2 ^ 23 + 0x6000), (8, if op = 4 then tb + t * 2 ^ 23 + 0x3000 else 0), (4, if op ≤ 2 then 2048 else 64), (4, 2 * 65536), (2, 2), (2, 1), (4, 1), (4, 0), (4, if op = 3 then 1 else 0), (4, 0), (4, 0), (8, 0)]
def atColl (op : Nat) (y : Strand) : State :=
  { before (wordD 0xA op fd) y with tiles := [(0, { strands := [(0, { y with active := true })] }), (1, { strands := [(0, { y with active := true })] })], mem := cellsAt (tb + 0x400) (collDescOf op 0) ++ cellsAt (tb + 2 ^ 23 + 0x400) (collDescOf op 1) }

/-- RS, AG, AR, SHIFT and PERM with a descriptor in order, by a strand with no operation and by one with 32, and while new modes are
on their way. -/
theorem witness_CollectiveIssue : ∀ p ∈ [(0, CollKind.rs), (1, .ag), (2, .ar), (3, .shift), (4, .perm)], ∀ y ∈ [yd, yfull], ∀ hold ∈ [false, true],
    let s := modLoom (atColl p.1 y) 0 fun x => { x with installHold := hold }; let o := collOf s a0 0 p.2 (collDescOf p.1 0)
    Issues s a0 0 (wordD 0xA p.1 fd) ∧ okIs (descriptor s 0 ((getStrand s a0).sget 1) 64) (collDescOf p.1 0) = true ∧ collPlain o (collDescOf p.1 0) = true ∧
    collFields s.variant (getLoom s 0) o (bayTiles 0).length = true ∧ rangesOk s (getLoom s 0) (collReads (getLoom s 0) 0 o ++ collWrites (getLoom s 0) 0 o) = stOk ∧ (getTile s 0).aborted = [] ∧
    (getLoom s 0).installHold = hold ∧ tget 0 (getLoom s 0).install o.comm ≤ o.num := by
  unfold Issues; decide +kernel

/-- X2X of four tokens of 64 B to the one expert of group 9, at tiles 0 and 1. -/
def x2xDesc : List Byte :=
  desc64 [(8, tb + 0x2000), (8, tb + 0x6000), (8, tb + 0x3000), (4, 4), (4, 2 * 65536), (2, 2), (2, 1), (4, 1), (4, 64 + 4 * 65536), (4, 1 + 256 + 4 * 65536), (4, 9), (4, 0), (8, 0)]
def atX2x : State := modLoom { atColl 5 yd with mem := cellsAt (tb + 0x400) x2xDesc } 0 fun x =>
  { x with intent := [⟨2, 0, 1, 9, 4096, 1, 2, 1, 0, false⟩], map := [{ rec1 with kind := mkExpert, obj := 9, count := 0, first := 0 }] }

theorem witness_CollectiveIssue_x2x : let s := atX2x; let o := collOf s a0 0 .x2x x2xDesc
    Issues s a0 0 (wordD 0xA 5 fd) ∧ okIs (descriptor s 0 ((getStrand s a0).sget 1) 64) x2xDesc = true ∧ collPlain o x2xDesc = true ∧
    collFields s.variant (getLoom s 0) o (bayTiles 0).length = true ∧ rangesOk s (getLoom s 0) (collReads (getLoom s 0) 0 o ++ collWrites (getLoom s 0) 0 o) = stOk ∧ (getTile s 0).aborted = [] := by
  unfold Issues; decide +kernel

/-- A group of 2 × 3 × 1 ranks, rank 4 of it. -/
theorem witness_MemberPlace : 0 < ({ a0 := 2, a1 := 3, a2 := 1 } : CollOp).a0 ∧ 0 < ({ a0 := 2, a1 := 3, a2 := 1 } : CollOp).a1 ∧ 0 < ({ a0 := 2, a1 := 3, a2 := 1 } : CollOp).a2 := by
  decide

/-- A SHIFT of 64 bytes between tiles 0 and 1 that both have begun: the frames wait in the senders, tile 0's is taken back. -/
def shifting : State := after (.shift_ ⟨1, 0⟩ fd) (after (.shift_ a0 fd) (atColl 3 yd))
def shiftOp : CollOp := ((getTile shifting 0).colls).headD {}
def ended (st : Option Byte) : State := modTile shifting 0 fun v => { v with colls := [{ shiftOp with status := st, received := 1, sqDone := true, bytes := [(tb + 0x6000, 5), (tb + 0x6000, 7)], flags := 2 }], inbox := [], selfbox := [] }

set_option maxRecDepth 100000 in
/-- A collective that has received everything, and one that was aborted. -/
theorem witness_CollectiveCompletes : ∀ st ∈ [none, some stCancelled], let s := ended st; let o : CollOp := ((getTile s 0).colls).headD {}
    (s.svc.dark = false ∧ ((getTile s 0).colls.find? fun q => q.strand = 0 && q.tag = 0xFFFF) = some o ∧ ownerOfTile s 0 = some 0 ∧ (getLoom s 0).parks = false ∧ (getTile s 0).inbox = [] ∧ (getTile s 0).selfbox = []) ∧
    o.status = st ∧ o.received = 1 ∧ o.sqDone = true ∧ o.waiting = false ∧ o.norm = false ∧ stepWaits s (getLoom s 0) o = false ∧ (∀ r ∈ collWrites (getLoom s 0) 0 o, uncopied s r.1 r.2.1 = none) ∧
    opPoison s (getLoom s 0) ((collReads (getLoom s 0) 0 o).map fun r => (r.1, r.2.1)) ((collWrites (getLoom s 0) 0 o).map fun r => (r.1, r.2.1)) = false := by
  decide +kernel

/-- The frame that tile 1 sends to tile 0, and frames like it of every kind, with their CRCs. -/
def moveFr : Frame := ((getTile shifting 1).sentFrames.map (·.fr)).headD ⟨0, 0, 0, 0, 0, 0, 0, 0, 0, 0, 0, 0, []⟩
def crcd (f : Frame) : Frame := { f with crc := frameCrc f }
def kindFr (k : Nat) : Frame := crcd { moveFr with kind := BitVec.ofNat 4 k, seq := 1 }

theorem crcd_crc (f : Frame) : (crcd f).crc = frameCrc (crcd f) := rfl

theorem witness_FramesArrive_crc (f : Frame) : (crcd f).crc = frameCrc (crcd f) ∧ ({ crcd f with crc := (crcd f).crc ^^^ 1 } : Frame).crc ≠ frameCrc { crcd f with crc := (crcd f).crc ^^^ 1 } := by
  refine ⟨rfl, fun h => ?_⟩
  have h2 : (crcd f).crc ^^^ 1 = (crcd f).crc := h
  have h3 := congrArg (·.getLsbD 0) h2
  simp at h3

set_option maxRecDepth 100000 in
/-- Frames of each kind for a collective of a later number, at the holder and at a loom that is away. -/
theorem witness_FramesArrive : (∀ k ∈ [1, 2, 3, 4, 5, 6], let f := kindFr k
      FrameOk shifting 0 0 k f ∧ ((getTile shifting 0).colls.find? fun o => o.comm = f.comm.toNat && o.num % 65536 = f.seq.toNat) = none ∧
      (f.seq.toNat + 65536 - tget 0 (getTile shifting 0).collNum f.comm.toNat % 65536) % 65536 < 32768) ∧
    ((getLoom shifting 0).holder = true ∧ (getLoom shifting 0).parks = false ∧ (getLoom shifting 0).image = none ∧ (getTile shifting 0).inbox = [] ∧ (getTile shifting 0).selfbox = []) ∧
    (let s := modLoom shifting 0 fun x => { x with holder := false }; FrameOk s 0 0 4 (crcd moveFr) ∧ (getLoom s 0).holder = false) := by
  unfold FrameOk; decide +kernel

def parkRec0 : MapRec := mkRec mkPark 0 0 0x40000 0x100000 0 0 0

set_option maxRecDepth 100000 in
/-- A loom with a parking area in its map, saved with a response to come, and away with a frame to come. -/
theorem witness_ParkedIn : (∀ s ∈ [waitsFor .rmtRd .saved, modLoom shifting 0 fun x => { x with holder := false }], let t := modLoom s 0 fun x => { x with map := [parkRec0] }
      ((getLoom t 0).map.find? (fun m => m.kind = mkPark) = some parkRec0)) ∧
    ((getLoom (modLoom (waitsFor .rmtRd .saved) 0 fun x => { x with map := [parkRec0] }) 0).parks = true) := by
  decide +kernel

/-- A frame taken in at tile 0 of loom 0. -/
def takenIn (s : State) (m : InFrame) : State :=
  modTile (modLoom (takeDelivered s m.fr) 0 fun y => { y with creditsUsed := y.creditsUsed + 1 }) 0 fun v => { v with inbox := v.inbox ++ [m] }

set_option maxRecDepth 100000 in
/-- The MOVE frame is used. -/
theorem witness_FramesArrive_used : let f := crcd moveFr; let s1 := takenIn shifting ⟨f, true⟩
    ((getTile shifting 0).colls.find? fun o => o.comm = f.comm.toNat && o.num % 65536 = f.seq.toNat) = some shiftOp ∧ shiftOp.status = none ∧ shiftOp.waiting = false ∧
    frameFits s1 0 shiftOp f = true ∧ frameStale shiftOp f = false ∧ (frameUse s1 0 0 shiftOp f).any (fun p => p.2 = false && p.1.poison = false && p.1.sent.isEmpty) = true := by
  decide +kernel

/-- Using it leaves the tiles and the looms as they are. -/
theorem witness_FramesArrive_only (s1 : State) (o : CollOp) (f : Frame) (c : CollOut) (b : Bool) (hk : f.kind.toNat = 4) (ho : o.kind ≠ .x2x) (h : frameUse s1 0 0 o f = some (c, b)) :
    c.s.tiles = s1.tiles ∧ c.s.looms = s1.looms := by
  have hs : (useMove s1 0 { s := s1, op := o } f).s = s1 := by
    unfold useMove
    dsimp only
    split <;> split <;> rfl
  simp only [frameUse, hk, ho, if_false] at h
  injection h with h
  injection h with h1 h2
  subst h1
  rw [hs]
  exact ⟨rfl, rfl⟩

/-- A reduction of three members with the member in the middle, on a ring and on a line; the frame of chunk 2, and of chunk 1. -/
def arOp (tag : W32) (ax : Nat) (contribs : List (Nat × Nat × Nat × List W32)) : CollOp :=
  { kind := .ar, tag := 0xFFFF, comm := 2, elems := 3072, a0 := if ax = 0 then 3 else 1, a1 := 1, a2 := 1, members := 3, index := 1, stages := [(ax, 3, 1)], region := [0, 1, 2], orderTag := tag, contribs := contribs }
def partFr (ax chunk sender : Nat) : Frame := crcd { moveFr with kind := 1, stage := BitVec.ofNat 3 ax, chunk := BitVec.ofNat 16 chunk, sender := BitVec.ofNat 16 sender, orderTag := 0, len := 4096, payload := List.replicate 4096 0 }

theorem witness_RingPartial : let c : CollOut := { s := shifting, op := arOp 0 0 [] }; let f := partFr 0 2 0
    (c.op.stages[c.op.stage]? = some (0, 3, 1) ∧ f.stage.toNat = 0 ∧ modeOfAxis c.op.orderTag 0 = 0 ∧ f.chunk.toNat ≠ 1 ∧ c.op.relayed.contains (f.round.toNat, f.chunk.toNat, 0) = false) ∧
    (usePartial (loom0 []) c f).isSome = true := by
  decide +kernel

set_option maxRecDepth 100000 in
/-- The other sum came from above, and from below. -/
theorem witness_LineOwner : ∀ up ∈ [true, false], let c : CollOut := { s := shifting, op := arOp 1 3 [(0, 1, if up then 1 else 0, List.replicate 1024 0)] }; let f := partFr 3 1 (if up then 0 else 2)
    (c.op.stages[c.op.stage]? = some (3, 3, 1) ∧ f.stage.toNat = 3 ∧ f.chunk.toNat = 1 ∧ c.op.rounds.contains f.round.toNat = false) ∧
    (let mode := modeOfAxis c.op.orderTag 3; mode ≠ 0 ∧ 0 < posOf mode 3 1 ∧ posOf mode 3 1 < 3 - 1 ∧ (decide (posOf mode 3 f.sender.toNat < posOf mode 3 1) = up)) ∧ f.round.toNat = 0 ∧
    (usePartial (loom0 []) c f).isSome = true := by
  decide +kernel

theorem witness_CompressedPayloads : (List.replicate 1024 (0x3F800000 : W32)).length = 1024 ∧ 1 ≤ 1024 ∧ 1023 < 1024 := ⟨List.length_replicate, by decide, by decide⟩

/-- Tile 0 with every frame it sent at its last attempt, for a hop of the module or to a direction. -/
def lastTry (d : Option Nat) : State := modTile shifting 0 fun v => { v with sentFrames := v.sentFrames.map fun q => { q with attempts := 8, dir := d } }

set_option maxRecDepth 100000 in
/-- An ACK and a REPLAY_REQ that answer the frame sent, at its first and at its last attempt, and an ABORT of the collective with a
status of the table and with one that is none. -/
theorem witness_ControlFrames : (∀ k ∈ [8, 7], let f := crcd { ((getTile shifting 0).sentFrames.map (·.fr)).headD moveFr with kind := BitVec.ofNat 4 k, len := 0, payload := [], sender := 1 }
      shifting.svc.dark = false ∧ frameLoom shifting 0 f = some 0 ∧ f.kind.toNat = k ∧ ((tileOf shifting 0 0).sentFrames.find? (answers f)).any (fun q => q.attempts < 8) = true) ∧
    (∀ d ∈ [none, some 2], let s := lastTry d; let f := crcd { ((getTile shifting 0).sentFrames.map (·.fr)).headD moveFr with kind := 7, len := 0, payload := [], sender := 1 }
      frameLoom s 0 f = some 0 ∧ ((tileOf s 0 0).sentFrames.find? (answers f)).any (fun q => 8 ≤ q.attempts && q.dir = d) = true ∧ (getLoom s 0).st = .running) ∧
    (∀ st ∈ [(7 : Byte), 0x13], let f := crcd { moveFr with kind := 9, len := 1, payload := [st] }; (st.toNat ≤ 0x12 ↔ st = 7) ∧ f.len.toNat = f.payload.length ∧ f.payload.headD stCancelled = st ∧ frameLoom shifting 0 f = some 0 ∧ f.kind.toNat = 9 ∧
      ((tileOf shifting 0 0).colls.find? fun o => o.comm = f.comm.toNat && o.num % 65536 = f.seq.toNat) = some shiftOp ∧ shiftOp.status = none) := by
  decide +kernel

/-- A CHECKED reduction between tiles 0 and 1 on a die whose four adders are in service, as a PARTIAL frame comes. -/
def checkedOp : CollOp := { arOp 0 0 [] with a0 := 2, elems := 2048, members := 2, index := 0, stages := [(0, 2, 0)], region := [0, 1], checked := true }
def checking : State := { (modTile shifting 0 fun v => { v with colls := [checkedOp] }) with regs := [(adderReg 0, 15)] }

set_option maxRecDepth 100000 in
theorem witness_ResidueCheck : let s := checking; let f := partFr 0 1 1; let o := checkedOp; let s1 := takenIn s ⟨f, false⟩
    (FrameOk s 0 0 1 f ∧ (getTile s 0).inbox = [] ∧ (getTile s 0).selfbox = [] ∧ (getLoom s 0).image = none ∧ ((getTile s 0).colls.find? fun o => o.comm = f.comm.toNat && o.num % 65536 = f.seq.toNat) = some o) ∧
    (o.checked = true ∧ o.status = none ∧ o.waiting = false ∧ frameFits s1 0 o f = true ∧ frameStale o f = false ∧ (frameUse s1 0 0 o f).any (fun p => useAdds o f p.1.op) = true ∧ (getLoom s 0).holder = true ∧ (getLoom s 0).parks = false) ∧
    ((((getLoom s 0).cmd.map (·.tiles)).getD [0])[0]? = some 0 ∧ 0 / (o.a0 * o.a1 * o.a2) = o.g) ∧
    (getReg s (adderReg (dieOfBay (bayOf 0)))).getLsbD 0 = true ∧ (getReg s (adderReg (dieOfBay (bayOf 0)))).getLsbD 1 = true := by
  unfold FrameOk; decide +kernel

/-! ## Witnesses: the dobby sequencer and the loom manager -/

/-- A control ring with a command taken, a dobby ring with n commands written, and the completion ring of both, about to wrap. -/
def ring0 (t : Option Taken) : CmdRing := { kind := .control, cpl := 0, log2 := 8, base := 0x1000, taken := t }
def dob (n : Nat) : CmdRing := { kind := .dobby, cpl := 0, log2 := 8, base := 0x2000, tail := BitVec.ofNat 16 n }
def cpl0 : OutRing := { base := 0x100000, log2 := 4, countMod := 1, reserved := 1, written := 17, head := 15 }
def ses (t : Option Taken) (n : Nat) : Session :=
  { opened := true, sgen := 3, io := 0, fn := 1, slot := 2, loomQuota := 4, bayQuota := 8, cmd := [(0, ring0 t), (1, dob n)], cpl := [(0, cpl0)] }

/-- Sessions 1 and 2, and looms; tile 0 and tile 4 with a byte each. -/
def hst (t : Option Taken) (n : Nat) (looms : Table Loom) : State :=
  { sessions := [(1, ses t n), (2, ses none 0)], looms := looms, svc := { st := .ready }, mem := [(tb + 5, 7), (tb + 0x2000005, 9)], ports := [(0, { up := true, vfs := 4 })], fns := [(1, { session := some 1 })] }
def tk (b : HostBody) : Taken := { opcode := 0x33, loom := 0, tag := 0xABCD, body := b, started := false }

/-- Loom 0 with a program of three words, RUNNING without a command, and in another state. -/
def ld : Loom := { loom0 [5, 6, 7] with cmd := none, dobbyRing := 1 }
def inState (st : LoomState) : Loom := { ld with st := st, holder := decide (st = .running ∨ st = .preempting ∨ st = .stopping), lastHolder := false }

/-- A sound RUN of the last two tiles, and one whose entry point is past the program. -/
theorem witness_RunStarts : (∀ e ∈ [{ run0 with entry := 2, first := 14, count := 2 }, { run0 with entry := 3 }], MayRun (hst none 1 [(0, ld)]) 0 e) ∧
    (let e : RunEntry := { run0 with entry := 2, first := 14, count := 2 }; e.kind = 1 ∧ e.rsv0 = 0 ∧ e.rsv1 = 0 ∧ e.rsv2 = 0 ∧ e.entry.toNat < ld.program.length ∧ e.first.toNat + e.count.toNat ≤ (loomTiles ld).length) ∧
    (((loomTiles ld).drop 14).take 2).Nodup ∧ ¬ ({ run0 with entry := 3 } : RunEntry).entry.toNat < ld.program.length := by
  unfold MayRun; decide +kernel

/-- Every strand ended, and a command that a fault ended. -/
def endedTile : Tile := { strands := (List.range 16).map fun i => (i, { active := true, ended := true }), acc := [(1, 2)] }
theorem witness_CommandEnds : ∀ st ∈ [none, some stBad], let c : DobbyCmd := { cmd0 with endStatus := st }; let s : State := { hst none 1 [(0, { ld with cmd := some c })] with tiles := (bayTiles 0).map fun i => (i, endedTile) }
    s.svc.dark = false ∧ (getLoom s 0).cmd = some c ∧ (getLoom s 0).st = .running ∧ (getLoom s 0).preempt = none ∧ cmdOver s 0 c = true ∧ (c.tiles.all fun k => ownerOfTile s k = some 0) = true ∧
    (c.e.stepEnd = false ∨ c.endStatus ≠ none) ∧ c.endStatus ≠ some stOk ∧ agentsIdle s 0 := by
  decide +kernel

/-- A command taken, whose completion ring is there. -/
theorem witness_CompletionWritten : let s := hst (some (tk .loomStart)) 0 [(0, ld)]; takenOf s 1 0 = some (tk .loomStart) ∧ tfind (getSession s 1).cpl (cplOf (getSession s 1) 0) = some cpl0 := by
  decide +kernel

/-- Commands on a loom that is FREE and on another session's, and a LOOM_CREATE that names each. -/
theorem witness_ForeignLooms : ∀ looms ∈ [[], [(0, { ld with session := 2 })]], ∀ b ∈ [HostBody.loomStart, .loomStop false, .loomStop true, .progLoad 0 3, .loomCreate none (some 0) false 0 1],
    TakenCmd (hst (some (tk b)) 0 looms) 1 0 (tk b) ∧ ((getLoom (hst (some (tk b)) 0 looms) 0).st = .free ∨ (getLoom (hst (some (tk b)) 0 looms) 0).session ≠ 1) := by
  unfold TakenCmd; decide +kernel

/-- A loom that is not the session's, and one of its own in each state that a command does not admit. -/
theorem witness_LoomCommandsRefused : TakenCmd (hst (some (tk .loomStart)) 0 []) 1 0 (tk .loomStart) ∧ (getLoom (hst (some (tk .loomStart)) 0 []) 0).st = .free ∧
    ∀ st ∈ [LoomState.ready, .running, .stopping, .preempting, .saving, .restoring, .fenced], let s := hst (some (tk .loomStart)) 0 [(0, inState st)]
      TakenCmd s 1 0 (tk .loomStart) ∧ (getLoom s 0).st = st ∧ (getLoom s 0).session = 1 ∧ st ≠ .free ∧ st ≠ .stopped ∧ st ≠ .faulted := by
  unfold TakenCmd; decide +kernel

def creates (bays share : Option Nat) (prio : Nat) (looms : Table Loom) : State := hst (some (tk (.loomCreate bays share true prio 1))) 0 looms

/-- New bays, shared bays, a PRIORITY past 7, and a session with all its looms. -/
theorem witness_LoomCreated : let own := [(0, inState .stopped)]; let four : Table Loom := [(0, inState .stopped), (1, inState .stopped), (2, inState .stopped), (3, inState .stopped)]
    (∀ s ∈ [creates (some 2) none 7 [], creates none (some 0) 0 own, creates (some 2) none 8 [], creates (some 1) none 7 four], tfind (getSession s 1).cmd 1 = some (dob 0) ∧ (dob 0).kind = .dobby ∧ (freeLoom s).isSome = true) ∧
    TakenCmd (creates (some 2) none 7 []) 1 0 (tk (.loomCreate (some 2) none true 7 1)) ∧ TakenCmd (creates none (some 0) 0 own) 1 0 (tk (.loomCreate none (some 0) true 0 1)) ∧
    TakenCmd (creates (some 2) none 8 []) 1 0 (tk (.loomCreate (some 2) none true 8 1)) ∧ TakenCmd (creates (some 1) none 7 four) 1 0 (tk (.loomCreate (some 1) none true 7 1)) ∧
    (¬ (4 ≤ ((liveLooms (creates (some 2) none 7 [])).filter fun k => (getLoom (creates (some 2) none 7 []) k).session = 1).length ∨ 32768 < creditsInUse (creates (some 2) none 7 []) + 1024)) ∧
    2 ≤ ((List.range 320).filter (bayFree (creates (some 2) none 7 []))).length ∧ sessionBays (creates (some 2) none 7 []) 1 + 2 ≤ 8 ∧
    (loomOwned (creates none (some 0) 0 own) 1 0 = true ∧ (getLoom (creates none (some 0) 0 own) 0).bays = [0] ∧ (coResident (creates none (some 0) 0 own) 0).length < 8) ∧
    4 ≤ ((liveLooms (creates (some 1) none 7 four)).filter fun k => (getLoom (creates (some 1) none 7 four) k).session = 1).length := by
  unfold TakenCmd; decide +kernel

/-- Bays are assigned to it, and its areas find their places, beside four looms of a bay too. -/
theorem witness_LoomCreated_places : (assignBays (creates (some 2) none 7 []) 2).isSome = true ∧ (createAreas (creates (some 2) none 7 []) [0, 1]).isSome = true ∧
    (createAreas (creates (some 1) none 7 [(0, inState .stopped), (1, inState .stopped), (2, inState .stopped), (3, inState .stopped)]) [0, 1]).isSome = true := by
  refine ⟨?_, createAreas_ample _ _ 4096 15237120 251658240 (by decide) (by decide) (by decide) (by decide +kernel),
    createAreas_ample _ _ 4096 15237120 251658240 (by decide) (by decide) (by decide) (by decide +kernel)⟩
  have h : ¬ ((List.range 320).filter (bayFree (creates (some 2) none 7 []))).length < 2 := by decide +kernel
  simp only [assignBays, if_neg h, Option.isSome_some]

def cfg0 (credits : Option Nat) (prio : Nat) : LoomConfigF := { stepClass := some true, priority := some prio, seed := some 9, credits := credits, softWait := some 7, grace := none, semInit := some [(3, 5), (4, 0)] }

/-- Fields in their ranges and past them, the same credits and too many, and programs of 0, 1 and 32,769 instructions. -/
theorem witness_LoomConfigured : (∀ b ∈ [HostBody.loomConfig (cfg0 none 7), .loomConfig (cfg0 none 8), .loomConfig (cfg0 (some 1024) 7), .loomConfig (cfg0 (some 16384) 7), .progLoad 0 0, .progLoad 0 1, .progLoad 0 32769],
      let s := hst (some (tk b)) 0 [(0, inState .stopped), (1, { inState .stopped with credits := 16385, bays := [1] })]; TakenCmd s 1 0 (tk b) ∧ (getLoom s 0).st = .stopped ∧ (getLoom s 0).session = 1) ∧
    loomCfgOk (cfg0 none 8) = false ∧ loomCfgOk (cfg0 (some 1024) 7) = true ∧ loomCfgOk (cfg0 (some 16384) 7) = true ∧ (inState .stopped).credits = 1024 ∧
    32768 < creditsInUse (hst none 0 [(0, inState .stopped), (1, { inState .stopped with credits := 16385, bays := [1] })]) - 1024 + 16384 := by
  unfold TakenCmd; decide +kernel

/-- In a state without tiles a loom for which nothing is kept has nothing parked. -/
theorem nothingParked_of (s : State) (l : Nat) (ht : s.tiles = []) (hk : (getLoom s l).keep = []) (hi : ∀ i ∈ (getLoom s l).image, i.tiles = [])
    (hp : (getLoom s l).parked = [] ∧ (getLoom s l).parkedFrames = [] ∧ (getLoom s l).holdsAdd = [] ∧ (getLoom s l).rowWaits = []) : nothingParked s l := by
  refine ⟨hp.1, hp.2.1, hp.2.2.1, fun w hw => ?_, fun kv h => ?_⟩
  · rw [hp.2.2.2] at hw; cases hw
  · rw [ht, hk] at h
    obtain h | h | ⟨i, h, h'⟩ := h
    · cases h
    · cases h
    · rw [hi i h] at h'; cases h'

/-- What these states have of that. -/
def bare (s : State) (l : Nat) : Bool :=
  let x := getLoom s l
  s.tiles.isEmpty && x.keep.isEmpty && (x.image.all fun i => i.tiles.isEmpty) && x.parked.isEmpty && x.parkedFrames.isEmpty && x.holdsAdd.isEmpty && x.rowWaits.isEmpty

theorem nothingParked_bare (s : State) (l : Nat) (h : bare s l = true) : nothingParked s l := by
  simp only [bare, Bool.and_eq_true, List.isEmpty_iff] at h
  obtain ⟨⟨⟨⟨⟨⟨h1, h2⟩, h3⟩, h4⟩, h5⟩, h6⟩, h7⟩ := h
  refine nothingParked_of s l h1 h2 (fun i hi => ?_) ⟨h4, h5, h6, h7⟩
  rw [Option.mem_def.mp hi] at h3
  exact List.isEmpty_iff.mp h3

/-- A loom without a program, one with nothing in its ring, and one with a command there; one that has lost a tile, and one whose
memory stack has failed. -/
theorem witness_LoomStarts : (∀ s ∈ [hst (some (tk .loomStart)) 0 [(0, { inState .stopped with loaded := false })], hst (some (tk .loomStart)) 0 [(0, inState .stopped)], hst (some (tk .loomStart)) 1 [(0, inState .stopped)]],
      TakenCmd s 1 0 (tk .loomStart) ∧ (getLoom s 0).st = .stopped ∧ (getLoom s 0).session = 1 ∧ (getLoom s 0).cmd = none ∧ learnWeave s 0 = none) ∧
    (let s := hst (some (tk .loomStart)) 0 [(0, inState .stopped)]; ringReady s (getLoom s 0) = false ∧ startable s 0) ∧
    (let s : State := { hst (some (tk .loomStart)) 0 [(0, inState .stopped)] with svc := { st := .ready, lostBays := [0] } }; ringReady s (getLoom s 0) = false ∧ 0 ∈ (getLoom s 0).bays ∧ 0 ∈ s.svc.lostBays) ∧
    (let s : State := { hst (some (tk .loomStart)) 0 [(0, { inState .stopped with map := [rec1] })] with regs := [(stkReg 0 0, 0x30)] }; 0 < Config.stackNum s.variant ∧ stackBad s 0 = true ∧ holdsStack s 0 0 = true) ∧
    (let s := hst (some (tk .loomStart)) 1 [(0, inState .stopped)]; let x := getLoom s 0; ringReady s x = true ∧ startable s 0 ∧ x.heldByHost = false ∧ coResident s 0 = [0] ∧ x.holder = false ∧ x.image = none ∧
      bare s 0 = true ∧ x.bays.any s.svc.testing.contains = false) := by
  unfold TakenCmd startable; decide +kernel

/-- A loom in each state that LOOM_STOP admits, with a command in progress. -/
theorem witness_LoomStops : ∀ cut ∈ [false, true], ∀ st ∈ [LoomState.running, .preempting, .saving, .saved, .restoring, .ready, .fenced], let s := hst (some (tk (.loomStop cut))) 0 [(0, { inState st with cmd := some cmd0 })]
    TakenCmd s 1 0 (tk (.loomStop cut)) ∧ (getLoom s 0).session = 1 ∧ (getLoom s 0).st = st ∧ (getLoom s 0).cmd.map (·.endStatus) = some none := by
  unfold TakenCmd; decide +kernel

/-- READY and SAVED looms; a RUNNING one with a command; a resumed one that may run and one that may not; looms that are deleted. -/
theorem witness_LoomHeldAndDeleted : (∀ st ∈ [LoomState.ready, .saved, .running, .stopped, .faulted], ∀ b ∈ [HostBody.loomPreempt false, .loomResume, .loomDelete], TakenCmd (hst (some (tk b)) 0 [(0, inState st)]) 1 0 (tk b)) ∧
    (let s := hst (some (tk (.loomPreempt false))) 0 [(0, { inState .running with cmd := some cmd0 })]; (getLoom s 0).cmd ≠ none ∧ copying (getLoom s 0) = false) ∧
    (let s : State := { hst (some (tk (.loomPreempt false))) 0 [(0, { inState .running with cmd := some cmd0 })] with ssems := [(0x800, { owner := 1, mask := 2, count := 5, units := [(0, 2)] })] }; holdsUnits s 0 = true) ∧
    (let s := hst (some (tk .loomResume)) 0 [(0, inState .ready)]; eligible (setLoom s 0 { getLoom s 0 with heldByHost := false }) 0 = false) ∧
    (let s := hst (some (tk .loomResume)) 1 [(0, inState .ready)]; eligible (setLoom s 0 { getLoom s 0 with heldByHost := false }) 0 = true ∧ (getLoom s 0).holder = false ∧ coResident s 0 = [0] ∧
      bare s 0 = true ∧ (getLoom s 0).bays.any s.svc.testing.contains = false) := by
  unfold TakenCmd; decide +kernel

/-- Numbers below, at both ends of and above the range; one in use, of either owner, with units held and without. -/
theorem witness_SemaphoresMade : (∀ sem ∈ [0x7FF, 0xC00, 0x800, 0xBFF], TakenCmd (hst (some (tk (.semCreate sem 5 none))) 0 []) 1 0 (tk (.semCreate sem 5 none)) ∧ TakenCmd (hst (some (tk (.semDelete sem))) 0 []) 1 0 (tk (.semDelete sem))) ∧
    (∀ o ∈ [1, 2], ∀ n ∈ [0, 2], let s : State := { hst (some (tk (.semDelete 0x800))) 0 [] with ssems := [(0x800, { owner := o, mask := 2, count := 5, units := [(0, n)] })] }
      TakenCmd s 1 0 (tk (.semDelete 0x800)) ∧ (tfind s.ssems 0x800).any (fun q => q.owner = o && q.units.any (fun p => p.2 = n)) = true ∧ tfind s.ssems 0xBFF = none) := by
  unfold TakenCmd; decide +kernel

/-- A loom to be chosen alone, one that a running holder yields to, and the events of a pre-emption with and without units. -/
def units0 (s : State) : State := { s with ssems := [(0x800, { owner := 1, mask := 2, count := 5, units := [(0, 2)] })] }
theorem witness_HoldersChange : (let s := hst none 1 [(0, inState .ready)]; let x := getLoom s 0; s.svc.dark = false ∧ x.holder = false ∧ eligible s 0 = true ∧ coResident s 0 = [0] ∧ x.image = none ∧ bare s 0 = true ∧ x.bays.any s.svc.testing.contains = false) ∧
    (let s := hst none 1 [(0, { inState .ready with priority := 1 }), (1, { inState .running with cmd := some cmd0, softWait := 100 })]; (getLoom s 0).holder = false ∧ eligible s 0 = true ∧ holderOf s 0 = some 1 ∧ (getLoom s 1).st = .running ∧ (getLoom s 1).cmd ≠ none ∧
      (getLoom s 1).softWait ≠ 0 ∧ copying (getLoom s 1) = false ∧ displaces s 1 = some 0 ∧ (∀ k ∈ coResident s 0, (getLoom s k).st ≠ .faulted) ∧ (getLoom s 0).bays.any s.svc.testing.contains = false ∧ weaveOf s 1 = none) ∧
    (∀ so ∈ [false, true], let p : Preempt := ⟨so, false, false, 0⟩; let s := hst none 1 [(0, { inState .preempting with cmd := some cmd0, preempt := some p })]
      (getLoom s 0).st = .preempting ∧ (getLoom s 0).preempt = some p ∧ p.softOver = so ∧ (getLoom s 0).cmd ≠ none ∧ holdsUnits s 0 = false ∧ holdsUnits (units0 s) 0 = true ∧ unitWaiters (units0 s) 0 = 0) := by
  decide +kernel

def image0 : SaveImage := ⟨[(tb + 5, 77), (tb + 9, 8)], [], false⟩

/-- A loom being saved, one being restored and one that stops, with nothing in flight. -/
theorem witness_SavedAndRestored : (let s := hst none 0 [(0, inState .saving)]; s.svc.dark = false ∧ (getLoom s 0).st = .saving ∧ ∀ k ∈ loomTiles (getLoom s 0), localDone (getTile s k) = true) ∧
    (let s := hst none 0 [(0, { inState .restoring with image := some image0 })]; let x := getLoom s 0; x.st = .restoring ∧ x.image = some image0 ∧ Memory.wf image0.cells = true ∧ (∀ c ∈ image0.cells, place s.variant c.1 = .tile 0 (c.1 - tb)) ∧ bayOf 0 ∈ x.bays ∧
      bare s 0 = true ∧ x.pendingStop = false ∧ x.stopAtEnd = false ∧ x.cmd = none) ∧
    (let s := hst none 0 [(0, inState .stopping)]; (getLoom s 0).st = .stopping ∧ (getLoom s 0).cmd = none ∧ ∀ k ∈ loomTiles (getLoom s 0), tileQuiet (getTile s k) = true) := by
  decide +kernel

/-! ## Witnesses: memory errors, the fabric and placement -/

/-- A module at work with the scrub enabled, or not and counts at their largest. -/
def scrubbing (on : Bool) : State := { hst none 0 [(0, ld)] with regs := if on then [(0x00A00030, 0x80000000)] else [(0x00A00030, 5), (0x108A0000, 0xFFFFFFFF)] }

/-- The last word of the last tile. -/
theorem witness_ThrumWords : 5119 < 5120 ∧ 1835007 < 1835008 := by decide

/-- The first and the last word of the first and the last tile, in sound groups and in one where a bit is wrong; a loom at work owns
tile 0. -/
theorem witness_TileStoreErrors : ∀ on ∈ [true, false], ∀ p ∈ [(0, 0), (5119, 1835007)], let s := scrubbing on
    s.svc.dark = false ∧ p.1 < 5120 ∧ p.2 < 1835008 ∧ (p.1, p.2 / 63) ∉ s.faults.poisonedGroups ∧ (getReg s 0x00A00030).getLsbD 31 = on ∧ soundGroup s p.1 (p.2 / 63) ∧ failingWords { s with faults := { tsFlips := [(p.1 * 2 ^ 21 + p.2, 1)] } } p.1 (p.2 / 63) ≠ [] ∧
    ownerOfTile s 0 = some 0 ∧ (getLoom s 0).st ∉ [LoomState.free, .stopped, .faulted] := by
  unfold soundGroup; decide +kernel

/-- The last unit of the stacks, with 15 attempts gone; a loom at work with a region in a stack; and a poisoned unit. -/
theorem witness_StackErrors : let s : State := { scrubbing true with faults := { replayAttempts := [((Config.memEnd (scrubbing true).variant - 1) / 64, 15)] } }; let addr := Config.memEnd s.variant - 1
    s.svc.dark = false ∧ addr < Config.memEnd s.variant ∧ addr / 64 ∉ s.faults.poisoned ∧ (getLoom s 0).st ∉ [LoomState.free, .stopped, .faulted] ∧ tget 0 s.faults.replayAttempts (addr / 64) = 15 ∧
    (let s : State := { hst none 0 [(0, { ld with map := [rec1] })] with faults := { poisoned := [0x400] } }; holdsStack s 0 (0x10000 / 4096 % Config.stackNum s.variant) = true ∧ (getLoom s 0).st ∉ [LoomState.free, .stopped, .faulted] ∧
      0x10000 < Config.memEnd s.variant ∧ 0x10000 / 64 ∈ s.faults.poisoned) := by
  decide +kernel

def flit0 (seq : BitVec 12) (dest : Nat) (ok : Bool) : FabFlit := { seq := seq, words := List.replicate 20 (if ok then 3 else 1), parity := List.replicate 20 false, poison := 0, dest := dest }
/-- A port with three flits to resend, of which the second is expected, and with its last attempt of it before it; its edge is up. -/
def ports0 (p : Nat) (last : Bool) : State :=
  { scrubbing true with fab := [(p, { sendSeq := 12, expect := 10, replay := [flit0 9 0 true, flit0 10 0 true, flit0 11 0 true], failing := if last then some 10 else none, attempts := if last then 31 else 0 })], regs := [(0x00B00100 + p / 2 * 0x10, 0xFF00)] }
/-- Where a port leads. -/
def nodeOf (p : Nat) : Nat := ((portEnds p 0).map (·.2)).getD 0

/-- At the first and last edge ports, a link within a die and both sides of a site: a flit of another number, one that fails parity,
one to be delivered, one that goes on, with room there and without, and one the port has not sent yet; and an acknowledgement and a
request of the middle of the three. -/
theorem witness_FabricPorts : ∀ p ∈ [0, 133, 135, 2694, 2695], ∀ last ∈ [false, true], let s := ports0 p last; let f := fun ok => flit0 10 (nodeOf p) ok
    (s.svc.dark = false ∧ (portEnds p 0).isSome = true ∧ (f true).line = 0 ∧ (f true).seq ≠ (getPort s p).sendSeq ∧ (f true).seq = (getPort s p).expect ∧ ((getPort s p).replay.any fun g => g.seq = 10) = true ∧ flitOk (f false) = false ∧ flitOk (f true) = true) ∧
    ((flit0 11 0 true).seq ≠ (getPort s p).sendSeq ∧ (flit0 11 0 true).seq ≠ (getPort s p).expect ∧ (flit0 12 0 true).seq = (getPort s p).sendSeq ∧ (getPort s p).replay.length < 256) ∧
    ((nextPort s (nodeOf p) (flit0 10 333 true)).any (fun q => q ≠ p && (getPort s q).replay.length < 256 && decide (256 ≤ (getPort (setPort s q { replay := List.replicate 256 (flit0 0 0 true) }) q).replay.length)) = true) ∧
    ((getPort s p).replay = [flit0 9 0 true] ++ flit0 10 0 true :: [flit0 11 0 true] ∧ (flit0 10 0 true).seq = 10 ∧ (∀ h ∈ [flit0 9 0 true], h.seq ≠ 10) ∧
      (if last then (getPort s p).failing = some 10 ∧ (getPort s p).attempts = 31 else (getPort s p).failing ≠ some 10)) ∧
    (p < 134 → ((List.range 8).filter fun m => (getReg s (0x00B00100 + p / 2 * 0x10)).toNat / 2 ^ (8 + m) % 2 = 1) ≠ []) := by
  decide +kernel

/-- A route over several routers, with its edges up and with one down. -/
theorem witness_FabricRoutes : 0 < 640 ∧ 639 < 640 ∧ (0 : Nat) ≠ 639 ∧ nodeX 0 ≠ nodeX 639 ∧ nodeY 0 ≠ nodeY 639 ∧
    (let s := scrubbing true; detoured s 0 639 = false) ∧ (let s : State := { scrubbing true with regs := [(0x00B00100, 3)] }; detoured s 0 639 = true) := by
  decide +kernel

/-- An intent of a group of n experts; a PATTERN out of its range. -/
def experts (n : Nat) : IntentRec := ⟨2, 0, 1, 5, 4096, n, 1, 1, 0, false⟩
def intends (recs : List IntentRec) : State := hst (some (tk (.plcIntent recs))) 0 [(0, inState .stopped)]

/-- A record out of order, a group that fits its 16 tiles and one of an expert more; a LEN that is no whole record. -/
theorem witness_IntentAndMap : (∀ recs ∈ [[{ experts 1 with pattern := 1 }], [experts 16], [experts 17]], let s := intends recs; TakenCmd s 1 0 (tk (.plcIntent recs)) ∧ (getLoom s 0).session = 1 ∧ (getLoom s 0).st = .stopped) ∧
    (amendAll (intends []) 0 [{ experts 1 with pattern := 1 }]).isNone = true ∧
    (∀ n ∈ [16, 17], let s := intends [experts n]; let x := getLoom s 0
      (amendAll s 0 [experts n]).any (fun y => (layout s 0 x y.objs y.affs y.scratchMin y.stream ((stackUsed s).filter fun u => !((x.map.filter fun r => r.kind = mkStk).map (·.addr)).contains u.1)).isSome == decide (n = 16)) = true) ∧
    (∀ n ∈ [31, 32], TakenCmd (hst (some (tk (.plcMapRead 0x5000 n))) 0 [(0, ld)]) 1 0 (tk (.plcMapRead 0x5000 n)) ∧ ld.st ≠ .free) := by
  unfold TakenCmd; decide +kernel

/-- A STOPPED loom with a tensor in tile store and one in the stacks, and records that change their places. -/
def forcedLoom (st : LoomState) : Loom :=
  { inState st with intent := [⟨1, 1, 1, 3, 8192, 64, 64, 0, 0, false⟩, ⟨1, 5, 1, 4, 8192, 64, 64, 0, 0, false⟩], map := [{ rec1 with kind := mkTs, obj := 3, addr := 0x1000, bytes := 2048, count := 4 }, { rec1 with obj := 4, addr := 0x10002000, bytes := 8192, count := 0 }] }
def forcing (st : LoomState) (test : Bool) : State := { hst none 0 [(0, forcedLoom st)] with svc := { st := .ready, testMode := test } }
def forced0 : List MapRec := [{ rec1 with kind := mkTs, obj := 3, addr := 0x2000, bytes := 2048, count := 4 }, { rec1 with obj := 4, addr := 0x10008000, bytes := 8192, count := 0 }]

theorem witness_ForcedMaps : (∀ st ∈ [LoomState.stopped, .ready], ∀ test ∈ [true, false], (forcing st test).svc.dark = false ∧ (forcing st test).svc.testMode = test ∧ (getLoom (forcing st test) 0).st = st) ∧
    forcedOk (forcing .stopped true) 0 { rec1 with obj := 9 } = false ∧
    (let x := { getLoom (forcing .stopped true) 0 with scratchMin := 7168 }; scratchFree x (forcedObjs x forced0) < x.scratchMin * 1024) ∧ forced0.all (forcedOk (forcing .stopped true) 0) = true ∧
    (forcedFull (getLoom (forcing .stopped true) 0) forced0).any (mapDisjoint (forcing .stopped true) (getLoom (forcing .stopped true) 0)) = true ∧ forcedOnce forced0 = true := by
  decide +kernel

/-- A table with a slot in each state. -/
def hot0 : HotRegion :=
  { obj := 7, q := 5, dies := [0], rowBytes := 64, off := 0x1000, sampleLog2 := 3, slots := [(0, ⟨.valid, true, 5, 32, none⟩), (1, ⟨.movingIn, false, 3, 64, none⟩), (2, ⟨.movingOut, true, 3, 96, none⟩)], cands := [(0, 5, 3)], seen := [(0, 9)], handoffs := [(0, 3)], todo := [] }
def hotState (ctrl : W64) : State :=
  { hst none 0 [(0, { ld with hot := [hot0], map := [{ rec1 with obj := 7, addr := 0x100000, bytes := 64 * 4096 }], handoffs := 2 ^ 48 - 1 })] with regs := [(0x00300008, ctrl)], migNext := some 0x80050064 }
def rowAcc (row : Nat) (w : Bool) : RowAccess := { loom := 0, obj := 7, row := row, off := 60, write := w, data := [1, 2, 3, 4] }

/-- The last four bytes of a row in no slot, in a VALID one and in one in handoff, and the table's last row; and an access behind one
that is held to its row. -/
theorem witness_RowAgents : (∀ row ∈ [33, 4095, 32, 64, 96], let s := hotState 0; rowAt (getLoom s 0) (0x100000 + row * 64 + 60) = some { hot := hot0, row := row, off := 60 } ∧ rowsHeldUp s (getLoom s 0) (getLoom s 0).rowWaits [(7, row)] = decide (row = 64 ∨ row = 96) ∧ s.svc.dark = false ∧ hotOf s 0 7 = some hot0 ∧ (objRec (getLoom s 0) 7).any (fun r => (row + 1) * 64 ≤ r.bytes && uncopied s (r.addr + row * 64 + 60) 4 = none) = true ∧ (rowAcc row false).off + (rowAcc row false).data.length ≤ 64 ∧ (getLoom s 0).holder = true) ∧
    rowSlot hot0 33 = none ∧ rowSlot hot0 4095 = none ∧ (rowSlot hot0 32 = some 0 ∧ (slotOf hot0 0).st = .valid) ∧ (rowSlot hot0 64 = some 1 ∧ (slotOf hot0 1).st = .movingIn) ∧ rowSlot hot0 96 = some 2 ∧ (slotOf hot0 2).st = .movingOut ∧
    (let s := modLoom (hotState 0) 0 fun x => { x with rowWaits := [{ who := .rmt 0 0 0 0 0 0, rows := [(7, 33)] }] }; (getLoom s 0).rowWaits.any (fun w => userWaits s (getLoom s 0) w.who && w.rows.contains (7, 33)) = true) := by
  decide +kernel

theorem witness_Handoffs : let s := hotState 0; (s.svc.dark = false ∧ hotOf s 0 7 = some hot0 ∧ (objRec (getLoom s 0) 7).any (fun r => r.addr = 0x100000) = true ∧ (getLoom s 0).holder = true ∧ (∀ j < 32, ∀ g ∈ (getLoom s j).hot, g.todo = []) ∧ agentsIdle s 0) ∧
    ((slotOf hot0 1).st = .movingIn ∧ poisonHit s (0x100000 + 64 * 64) 64 = false) ∧ (slotOf hot0 2).st = .movingOut ∧ (slotOf hot0 2).next = none := by
  decide +kernel

/-- A session with the ADMIN role and one without; an epoch that ends with promotion off. -/
theorem witness_MigrationEpochs : let s := hotState 0x00050064; s.svc.dark = false ∧ adminOf { s with sessions := [(1, { ses none 0 with admin := true })] } ⟨0, 1⟩ = true ∧ adminOf s ⟨0, 1⟩ = false ∧
    (getLoom s 0).st ≠ .free ∧ (getReg s 0x00300008).getLsbD 31 = false ∧ (getLoom s 0).hot = [hot0] := by
  decide +kernel

/-! ## Witnesses: the torus -/

/-- A torus of 4 × 2 × 1 modules seen from (cx, cy, 0), whose lanes work but the first n of a direction. -/
def torus (cx cy d n : Nat) (links : Table LinkDir) : State :=
  let place := cx + cy * 4 + 4 * 64 + 2 * 512 + 4096
  let dead := ((List.range 6).flatMap fun io => (List.range 4).map fun i => (io, 4 * d + i)).take n
  { hst none 0 [] with regs := (0x00708000, BitVec.ofNat 64 place) :: (List.range 6).map fun io => (laneReg io, BitVec.ofNat 64 ((List.range 24).foldl (fun a i => if dead.contains (io, i) then a else a + 2 ^ i) 0)), links := links, svc := { st := .ready, coord := BitVec.ofNat 15 place }, sessions := [(1, { ses none 0 with admin := true })] }

/-- A flit with its check. -/
def sealed (f : WeftFlit) : WeftFlit := { f with hcrc := crc16 (flitCrcBytes f) }
def wflit : WeftFlit := sealed ⟨5, 2, 7, 3, 0, List.replicate 256 9⟩

/-- A frame that fits one flit, of a link whose modules relay it to direction d or do not. -/
def oneFrame : Frame := { jobId := 9, comm := 0, seq := 0, kind := 4, stage := 3, len := 4, round := 0, chunk := 0, sender := 0, orderTag := 0, side := 0, crc := 5, payload := [1, 2, 3, 4] }
def relaying (rs : List (W32 × Nat × Nat)) : State := torus 1 0 2 0 [(2, { st := 1, expect := 5, relays := rs }), (0, { st := 1 })]

/-- What a flit of the collectives' channel and one of another bring. -/
theorem witness_Links_brings : wflit.vc ≠ 0 ∧ (∀ rs ∈ [[], [(9, 3, 0)]], let x := getLink (relaying rs) 2; linkWorks (relaying rs) 2 = true ∧ x.part = [] ∧ x.relays = rs ∧ (∀ r ∈ x.relays, r.2.2 ≠ 2) ∧
      (rs = [] → ∀ r ∈ x.relays, r.1 = oneFrame.jobId → r.2.1 ≠ oneFrame.stage.toNat)) ∧
    (1 ≤ oneFrame.kind.toNat ∧ oneFrame.kind.toNat ≤ 9 ∧ oneFrame.len.toNat = oneFrame.payload.length ∧ oneFrame.payload.length ≤ 224) ∧
    (let f := sealed ⟨5, 0, 7, 0, 0, frameBytes oneFrame ++ List.replicate (224 - oneFrame.payload.length) 0⟩; f.vc = 0 ∧ f.payload.length = 256 ∧ (relaying [(9, 3, 0)]).svc.dark = false ∧ [(oneFrame.jobId, oneFrame.stage.toNat, 0)] = [((9 : W32), 3, 0)]) := by
  decide +kernel

/-- A link in training, one that works and receives a flit, replays of 1, of 32 and of 33 attempts, and a lane that drops. -/
theorem witness_Links : (let s := torus 1 0 0 3 []; s.svc.dark = false ∧ linkPresent s 0 = true ∧ (getLink s 0).st = 0 ∧ (0 : BitVec 15) ≠ neighbour s 0) ∧
    (∀ n ∈ [31, 32], let s := torus 1 0 2 0 [(2, { st := 1, acked := 0xFFFF, expect := 5, failing := some 0, attempts := n })]; (getLink s 2).relays = [] ∧ linkWorks s 2 = true ∧ wflit.payload.length = 256 ∧ wflit.seq = (getLink s 2).expect ∧ ({ wflit with seq := 6 }).seq ≠ (getLink s 2).expect ∧
      seqAfter 0 0xFFFF = true ∧ ((getLink s 2).ack (0 - 1)).failing = some 0 ∧ ((getLink s 2).ack (0 - 1)).attempts = n ∧ seqAfter 6 0xFFFF = true ∧ ((getLink s 2).ack 5).failing ≠ some 6 ∧ 0 < Config.ioDies s.variant ∧ laneUp s 0 11 = true) := by
  decide +kernel

theorem flitCrcBytes_hcrc (f : WeftFlit) (x : BitVec 16) : flitCrcBytes { f with hcrc := x } = flitCrcBytes f := rfl

/-- A flit whose check holds, and one that fails it. -/
theorem witness_Links_check (f : WeftFlit) : (sealed f).hcrc = crc16 (flitCrcBytes (sealed f)) ∧ ({ f with hcrc := crc16 (flitCrcBytes f) ^^^ 1 } : WeftFlit).hcrc ≠ crc16 (flitCrcBytes { f with hcrc := crc16 (flitCrcBytes f) ^^^ 1 }) := by
  constructor
  · simp only [sealed, flitCrcBytes_hcrc]
  · simp only [flitCrcBytes_hcrc]
    generalize crc16 (flitCrcBytes f) = x
    intro h
    have h3 := congrArg (·.getLsbD 0) h
    simp at h3

/-- A writer with the ADMIN role and one without; a link that is DOWN with lanes enough and without, one that works; and a hop over
a dead link beside one that works. -/
theorem witness_Retraining : (let s := torus 3 1 0 18 [(0, { st := 3 }), (1, { st := 1 }), (2, { st := 3 }), (3, { st := 2 })]; s.svc.dark = false ∧ adminOf s ⟨0, 1⟩ = true ∧ adminOf s ⟨0, 2⟩ = false ∧ linkPresent s 0 = true ∧
      (getLink s 0).st = 3 ∧ ¬ lanesUp s 0 < Config.lanesPerDir s.variant / 4 ∧ linkWorks s 1 = true ∧ linkPresent s 1 = true ∧ (getLink s 0).detour = none ∧ linkWorks s 3 = true ∧ 3 ∈ [2, 3] ∧ 3 / 2 ≠ 0 / 2 ∧ (∀ j < 3, j / 2 ≠ 0 / 2 → linkWorks s j = false ∨ j ∉ [2, 3]) ∧ (getLink s 1).st ≠ 3) ∧
    lanesUp (torus 3 1 0 19 []) 0 < Config.lanesPerDir (torus 3 1 0 19 []).variant / 4 := by
  decide +kernel

/-- Boxes that fit the torus to its last module and past it; modes that stay, and that change with a hop down; a job with and without
looms to fence; and the last adder, in service. -/
def jobState (b : HostBody) (st : LoomState) : State :=
  { hst (some (tk b)) 0 [(0, { inState st with box := BitVec.ofNat 15 (4 * 64 + 2 * 512 + 4096), configured := true })] with regs := [(0x00708000, BitVec.ofNat 64 (1 + 4 + 4 * 64 + 2 * 512 + 4096)), (adderReg 39, 15)], tiles := [(0, { collNum := [(3, 5), (6, 1)] })] }
def boxBody (x e : Nat) : HostBody := .collConfig 77 (some (x, 0, 0)) (some (e, 2, 1))

set_option maxRecDepth 100000 in
theorem witness_TorusJobs : (∀ p ∈ [(0, 4), (1, 3), (1, 4), (0, 0)], let s := jobState (boxBody p.1 p.2) .stopped; TakenCmd s 1 0 (tk (boxBody p.1 p.2)) ∧ (getLoom s 0).st = .stopped ∧ (getLoom s 0).session = 1 ∧ extentOf s = (4, 2, 1) ∧ ∀ d < 6, (getLink s d).st ≠ 3) ∧
    (∀ st ∈ [LoomState.running, .stopped], let s := jobState .loomStart st; (getLoom s 0).st = st ∧ (getLoom s 0).newModes = none ∧ (getLoom s 0).installHold = false ∧ boxModes s (getLoom s 0) ⟨some 3, none, none⟩ ≠ (getLoom s 0).modes) ∧
    (let s := modLoom shifting 0 fun x => { x with installHold := true }; (getLoom s 0).installHold = true ∧ (getLoom s 0).holder = true ∧ (getLoom s 0).parks = false) ∧
    (let s := modLoom (jobState .loomStart .running) 0 fun x => { x with modes := boxModes (jobState .loomStart .running) x ⟨none, none, none⟩ }; (getLoom s 0).installHold = false ∧ (getLoom s 0).newModes = none ∧ boxModes s (getLoom s 0) ⟨none, none, none⟩ = (getLoom s 0).modes) ∧
    (LoomState.running ∈ fenceStates ∧ (getReg (jobState .loomStart .running) (adderReg 39)).getLsbD 3 = true) := by
  unfold TakenCmd; decide +kernel

/-! ## Witnesses: learning, serving and sheds -/

def ir (o f a b : Nat) : IntentRec := ⟨1, 5, f, o, a * b * (if f = 0 then 4 else 2), a, b, 0, 0, false⟩
def mr (o addr bytes : Nat) : MapRec := { rec1 with obj := o, addr := addr, bytes := bytes, count := 0 }

/-- A STOPPED loom with two group tables and tensors to bind. -/
def learner0 : Loom :=
  { inState .stopped with intent := [ir 1 0 4 8, ir 2 0 1 1024, ir 3 0 1 1024, ir 4 0 1 1024, ir 10 0 4 4, ir 11 0 4 4, ir 12 1 4 4, ir 13 0 4 4, ir 14 1 4 4], map := [mr 1 0x10000 128, mr 2 0x20000 64, mr 3 0x30000 64, mr 4 0x40000 32768, mr 10 0x50000 64, mr 11 0x51000 64, mr 12 0x52000 32, mr 13 0x53000 64, mr 14 0x54000 32], lrn := { ngroups := 2, binds := [⟨1, 1, 8, 10, 8, 13, 0, 14, 0, false⟩] } }
def learning (b : HostBody) : State := { hst (some (tk b)) 0 [(0, learner0)] with mem := [(0x10000, 1), (0x10002, 1), (0x10020, 2), (0x10024, 2)] }
def cfgL (buckets : Nat) : LrnConfigF := ⟨some 7, some 1, some 3, some buckets, some true, some 0x40000000, some 1, some 2, some 3, some 4, some 16⟩
def bind0 : BindRec := ⟨1, 0, 8, 10, 0, 11, 4, 12, 0, false⟩

/-- A configuration in order and one of no buckets; bindings in order, tied and out of order; ones removed that are there and not. -/
theorem witness_Learning : (∀ b ∈ [HostBody.lrnConfig (cfgL 4), .lrnConfig (cfgL 0), .lrnBind [bind0], .lrnBind [{ bind0 with masterOff := 8 }], .lrnBind [bind0, bind0], .lrnBind [], .lrnUnbind [bind0], .lrnUnbind learner0.lrn.binds],
      TakenCmd (learning b) 1 0 (tk b) ∧ (getLoom (learning b) 0).st = .stopped ∧ (getLoom (learning b) 0).session = 1) ∧
    (let s := learning (.lrnConfig (cfgL 4)); let y : Loom := { learner0 with lrn := lrnFields learner0.lrn (cfgL 4) }; lrnRanges y.lrn = true ∧ lrnTables y = true ∧ (watchedGroups s y).length ≤ 64 ∧ ∀ g, g < y.lrn.ngroups → (groupPoints s y (groupRec s y g)).isSome = true) ∧
    lrnRanges (lrnFields learner0.lrn (cfgL 0)) = false ∧
    (∀ b ∈ [bind0], bindOk learner0 b = true ∧ residualMatched (learner0.lrn.binds ++ [bind0]) b = true) ∧ tied learner0.lrn.binds [] [bind0] = false ∧ tied learner0.lrn.binds [] [{ bind0 with masterOff := 8 }] = true ∧
    (∀ b ∈ [bind0, bind0], bindOk learner0 b = true ∧ residualMatched (learner0.lrn.binds ++ [bind0, bind0]) b = true) ∧ bind0.kind = 1 ∧ (soleRanges bind0).any (fun a => (soleRanges bind0).any fun b => b.overlaps a) = true ∧
    (unbindAll learner0.lrn.binds [bind0]).isNone = true ∧ unbindAll learner0.lrn.binds learner0.lrn.binds = some [] := by
  unfold TakenCmd; decide +kernel

def sv0 : SrvLoom := { bound := true, quota := 4, maxRows := 4, stepTokens := 64, prefillChunk := 16, specDepth := 2, kvPool := 1, kvPosBytes := 64, promptPool := 2, batch := 3, stepList := [⟨3, 0, 16⟩, ⟨5, 0, 0⟩], pfxSlots := 4 }
/-- A loom that serves, in a state. -/
def server (st : LoomState) : Loom := { inState st with stepClass := true, intent := [ir 1 1 1 32768, ir 2 1 1 32768, ir 3 1 1 32768], map := [mr 1 0x10000 65536, mr 2 0x30000 65536, mr 3 0x50000 65536], srv := sv0 }
def serving (b : HostBody) (x : Loom) : State := hst (some (tk b)) 0 [(0, x), (2, { server .stopped with bays := [2], srv := { sv0 with quota := 16000 } })]
def cfgS (quota rows : Nat) : SrvConfigF := ⟨some true, some quota, some rows, some 64, some 32, some 2, some 1, some 64, some 2, some 3, some [⟨3, 0, 1⟩], some 5⟩

/-- A shared beginning. -/
def pfx0 (h : W64) : PfxEntry := ⟨h, 16, 1, [], 0, [], h.toNat⟩

/-- A configuration in order that fits the table to its last entry, one of an entry more, one without rows, and one with an entry
point past the program's words; and a loom that keeps more shared beginnings than it may any more. -/
theorem witness_ServingConfigured : (∀ f ∈ [cfgS 384 4, cfgS 385 4, cfgS 384 0], let b := HostBody.srvConfig f; TakenCmd (serving b (server .stopped)) 1 0 (tk b) ∧ (getLoom (serving b (server .stopped)) 0).st = .stopped ∧ (getLoom (serving b (server .stopped)) 0).session = 1) ∧
    (∀ q ∈ [384, 385], let v := srvFields sv0 (cfgS q 4); srvRanges v (cfgS q 4) = true ∧ srvBindable (server .stopped) v = true) ∧ (server .stopped).stepClass = true ∧ srvRanges (srvFields sv0 (cfgS 384 0)) (cfgS 384 0) = false ∧
    otherQuotas (serving .loomStart (server .stopped)) 0 + 384 = 16384 ∧
    (let f := { cfgS 384 4 with stepList := some [⟨0x8000, 0, 1⟩] }; (srvFields sv0 f).stepList.any (fun e => 0x8000 ≤ e.entry) = true) ∧
    (let v := srvFields { sv0 with pfx := [pfx0 1, pfx0 2] } { cfgS 384 4 with pfxSlots := some 1 }; v.pfxSlots < v.pfx.length ∧ (v.pfx.map (·.handle)).Nodup) := by
  unfold TakenCmd; decide +kernel

def sub0 : SubmitDesc := ⟨0, false, false, 20, 0x1000, 0x8000, 0, 0, 0, 8, 1, 2, 0xFFFFFFFF, 7, false⟩
def prompt0 : List W32 := (List.range 20).map fun i => BitVec.ofNat 32 (i + 1)
def req0 : Req := { st := .decode, gen := 3, loom := 0, d := some sub0, prompt := prompt0, tokens := [9], buf := 0, bufLen := 192, pos := 20, pages := [0, 1], produced := 5, cons := 3 }
def submits (d : SubmitDesc) (x : Loom) : State := { serving (.srvSubmit d) x with reqs := [(0, { req0 with loom := 2 })], evseq := 41 }

/-- A loom that is not the session's, one not ready, a descriptor out of order, no room in the table; and requests that are admitted
to entry 1, without a shared beginning and with one that is not there. -/
theorem witness_Submissions : let miss : SubmitDesc := { sub0 with pfxHandle := 78, pfxLen := 16 }
    (∀ d ∈ [sub0, miss, { sub0 with maxNew := 0 }], ∀ x ∈ [server .running, { server .running with session := 2 }, server .stopped, { server .running with srv := { sv0 with quota := 0 } }], TakenCmd (submits d x) 1 0 (tk (.srvSubmit d))) ∧
    ((server .running).session = 1 ∧ (server .running).srv.bound = true ∧ LoomState.running ∉ [LoomState.stopped, .stopping, .fenced, .faulted]) ∧ submitOk (server .running) { sub0 with maxNew := 0 } = false ∧
    submitOk { server .running with srv := { sv0 with quota := 0 } } sub0 = true ∧
    (∀ d ∈ [sub0, miss], let s := submits d (server .running); submitOk (getLoom s 0) d = true ∧ (reqsOf s 0).length < (getLoom s 0).srv.quota ∧ (poolPlace s 0 (reqBytes d)).isSome = true ∧ prompt0.length = d.promptLen ∧
      (getReq s 1).st = .free ∧ (∀ k, k < 1 → (getReq s k).st ≠ .free) ∧ hitEntry s 0 d prompt0 = none) := by
  unfold TakenCmd; decide +kernel

/-- The state in which a request stands in entry 5 at tick 10, and in a step of its loom where in is true. -/
def atReq (b : HostBody) (r : Req) (step : Bool) : State :=
  { serving b { server .running with srv := { sv0 with formed := if step then some { rows := [⟨5, 3, 5, [], 2, 20, 1, 0⟩], pick := 0, beam := none, table := 0 } else none } } with reqs := [(5, r)], tlm := { timebase := 10 } }

/-- A cancel of an open request, of another generation and of one that has ended; a drop of all beginnings; a deadline that has come and
one that has not, in a step and beside it; and the consumer count of each state of a request. -/
theorem witness_RequestEnds : (∀ p ∈ [(HostBody.srvCancel 5 3, req0), (.srvCancel 5 4, req0), (.srvCancel 5 3, { req0 with st := .ended }), (.srvPfxDrop [0], req0)], let s := atReq p.1 p.2 false; TakenCmd s 1 0 (tk p.1) ∧ (getLoom s 0).st ≠ .free ∧ (getLoom s 0).session = 1 ∧ (getReq s 5).loom = 0) ∧
    (∀ step ∈ [true, false], ∀ dl ∈ [(10 : Nat), 11], let s := atReq .loomStart { req0 with d := some { sub0 with deadline := BitVec.ofNat 64 dl } } step; s.svc.dark = false ∧ (getReq s 5).st ≠ .free ∧ (getReq s 5).st ≠ .ended ∧ (getReq s 5).expired = false ∧ (getReq s 5).desc.deadline ≠ 0 ∧
      (dl = 10 → (getReq s 5).desc.deadline.toNat ≤ s.tlm.timebase.toNat) ∧ (dl = 11 → s.tlm.timebase.toNat < (getReq s 5).desc.deadline.toNat) ∧ inStep s 5 = step) ∧
    (let s := atReq .loomStart req0 false; ownsLoom s ⟨0, 2⟩ 0 = false ∧ ownsLoom s ⟨0, 1⟩ 0 = true ∧ (0x00030005 : W64).toNat / 2 ^ 16 % 2 ^ 16 = req0.gen.toNat ∧ (0x00040005 : W64).toNat / 2 ^ 16 % 2 ^ 16 ≠ req0.gen.toNat) ∧
    ((req0.produced + 65536 - 5) % 65536 = 0 ∧ sv0.specDepth + 2 ≤ 64) := by
  unfold TakenCmd; decide +kernel

/-- A loom with one QUEUED request whose pages are free, one whose pool is too small, and one whose engine is not bound. -/
theorem witness_QueueAdmitted : ∀ n ∈ [0, 1, 2], let r := { req0 with st := .queued, pages := [] }; let s : State := { serving .loomStart { server .running with srv := { sv0 with bound := n ≠ 2, kvPosBytes := if n = 1 then 4096 else 64 } } with reqs := [(1, r)] }
    ((reqsOf s 0).filter fun kv => kv.2.st = .queued) = [(1, r)] ∧ getReq s 1 = r ∧ (getLoom s 0).srv.pfx = [] ∧ r.kvWait = false ∧
    (let v := (getLoom s 0).srv; let need := (reqPositions v r.desc + 15) / 16 - r.pages.length; let work := v.bound = true ∧ Sys2Proof.Machine.serving (getLoom s 0) = true ∧ inLearnShed s 0 = false
      (n = 0 → work ∧ need ≤ (freePages s 0).length) ∧ (n = 1 → work ∧ (freePages s 0).length < need) ∧ (n = 2 → ¬ work)) := by
  decide +kernel

/-- A loom that may form a step with its one request, in PREFILL and in DECODE; and one that may not. -/
theorem witness_StepsFormed : mayForm (server .running) = false ∧ ∀ r ∈ [{ req0 with st := .prefill, pos := 5 }, { req0 with cons := 5 }], let s : State := { serving .loomStart { server .running with srv := { sv0 with owned := true } } with reqs := [(1, r)] }; let v := (getLoom s 0).srv
    s.svc.dark = false ∧ mayForm (getLoom s 0) = true ∧ genWeave s 0 = none ∧ reqsOf s 0 = [(1, r)] ∧ getReq s 1 = r ∧ r.expired = false ∧ r.desc.deadline = 0 ∧ r.pfxPick = none ∧ 1 ≤ v.maxRows ∧ 1 + v.specDepth ≤ v.stepTokens ∧ v.stepList ≠ [] ∧
    (objAddr (getLoom s 0) v.batch (if v.half then batchBytes v else 0)).isSome = true ∧
    ((objRec (getLoom s 0) v.batch).any fun b => b.kind = mkStk && 2 * batchBytes v + 4 * r.pages.length + 4 * (1 + v.specDepth) ≤ b.bytes) = true ∧ (objAddr (getLoom s 0) v.batch (2 * batchBytes v)).isSome = true ∧ (r.st = .prefill ∨ (r.st = .decode ∧ v.specDepth + 2 ≤ r.freeSlots)) := by
  decide +kernel

/-- A step of which a row's commits are left: a token that is not the last, one that ends the request by its count or by a stop, none,
one of a request that has ended, and one of a request that is expired. -/
def rc0 (toks : List (W32 × Nat)) : RowCommit := { row := ⟨5, 3, 7, [77], 2, 20, 3, 2⟩, toks := toks, nout := 3, done := 0 }
def commits (r : Req) (toks : List (W32 × Nat)) : State :=
  { serving .loomStart { server .running with srv := { sv0 with formed := some { rows := [(rc0 []).row], pick := 0, beam := none, table := 0, committing := true, commits := [rc0 toks, rc0 []], cycles := 9 } } } with reqs := [(5, r)] }
theorem witness_StepCommits : ∀ r ∈ [req0, { req0 with d := some { sub0 with maxNew := 2 } }, { req0 with st := .ended }, { req0 with gen := 4 }, { req0 with expired := true }], ∀ toks ∈ [[], [((9 : W32), 0)], [(9, 0), (8, 0)]], let s := commits r toks
    (getLoom s 0).srv.formed.any (fun f => f.committing && f.commits = [rc0 toks, rc0 []] && f.commits.all fun q => q.toks.length ≤ 8) = true ∧ s.svc.dark = false ∧ getReq s 5 = r ∧
    ((r.gen ≠ 3 ∨ r.st = .ended ∨ r.st = .free) ↔ (r.gen = 4 ∨ r.st = .ended)) ∧ ((r.tokens.length + 1 = r.desc.maxNew) ↔ r.desc.maxNew = 2) ∧ r.st ≠ .free := by
  decide +kernel

/-- A learner with a source list, and two generators. -/
def shedLearner : Loom := { inState .stopped with intent := [ir 1 0 1 20000, ir 2 0 1 64, ir 3 0 1 65536], map := [mr 1 0x100000 80000, mr 2 0x300000 256, mr 3 0x500000 262144] }
def shedGen (b : Nat) (st : LoomState) : Loom := { inState st with bays := [b], srv := sv0, intent := [ir 7 1 1 65536, ir 8 1 1 65536], map := [mr 7 (0x1000000 * b) 131072, mr 8 (0x1000000 * b + 0x100000) 131072] }
def weaveF0 (src creel : Nat) : WeaveF := ⟨some 3, some false, some 0, some [⟨1, 7, 8⟩, ⟨2, 8, 7⟩], some false, some true, some 2, some 5, some src, some 1, some creel, some [⟨1, 0, 64⟩, ⟨2, 8192, 64⟩], some 7, some 1, some 0, some 1, some 1⟩
def weaving (b : HostBody) (g : Loom) (held : Nat) : State :=
  { hst (some (tk b)) 0 [(0, shedLearner), (1, g), (2, shedGen 2 .stopped)] with mem := [(0x100000, 1), (0x300000, 1), (0x300004, 3), (0x300012, 1)], bobbins := (List.range held).map fun i => (i + 10, { weave := 5 }) }

/-- A weave in order, with room for its bobbins to the last; one more bobbin; a source list that is no object; a generator at work
and one of another session. -/
theorem witness_WeavesSet : (∀ src ∈ [2, 9], ∀ g ∈ [shedGen 1 .stopped, shedGen 1 .running, { shedGen 1 .stopped with session := 2 }], let f := weaveF0 src 3; let s := weaving (.shedWeave f) g 254
      TakenCmd s 1 0 (tk (.shedWeave f)) ∧ (weavePlan s f).weave = 3 ∧ tfind s.weaves 3 = none ∧ (weavePlan s f).learnerGiven = true ∧ loomOwned s 1 1 = decide (g.session = 1) ∧ loomOwned s 1 0 = true ∧ loomOwned s 1 2 = true) ∧
    (let s := weaving (.shedWeave (weaveF0 2 3)) (shedGen 1 .stopped) 254; let p := weavePlan s (weaveF0 2 3); (∀ l ∈ p.w.learner :: (p.w.gens.map (·.loom) ++ p.bobbins.map (·.loom)), loomOwned s 1 l = true ∧ (getLoom s l).st = .stopped) ∧ (weaveCheck s p).isSome = true ∧
      (s.bobbins.filter fun kv => kv.2.weave ≠ p.weave).length + p.bobbins.length = 256) ∧
    (∀ n ∈ [0, 65], let f := { weaveF0 2 3 with nlearn := some n }; (weavePlan (weaving (.shedWeave f) (shedGen 1 .stopped) 0) f).w.nlearn = n ∧ (weavePlan (weaving (.shedWeave f) (shedGen 1 .stopped) 0) f).learnerGiven = true) ∧
    (weaveCheck (weaving .loomStart (shedGen 1 .stopped) 0) (weavePlan (weaving .loomStart (shedGen 1 .stopped) 0) (weaveF0 9 3))).isNone = true := by
  unfold TakenCmd; decide +kernel

/-- Weave 3 in force, with a front beam that steps pin or none. -/
def weave0 (pub : PubState) (copied : List Nat) : Weave := { learner := 0, gens := [⟨1, 7, 8⟩, ⟨2, 8, 7⟩], publishEvery := 2, initPick := 5, creel := 3, pick := 6, pub := pub, taking := [1, 2], copied := copied, genSteps := 1, learnUnits := 1, src := [⟨1, true, 1, false, 0, 80000, 0⟩] }
def woven (b pins : Nat) (st : LoomState) : Loom := { shedGen b st with shed := { woven := true, weave := 3, front := b = 1, beam0 := ⟨7, .filling, 6, pins⟩, beam1 := ⟨8, .full, 5, 0⟩ } }
def published (pub : PubState) (copied : List Nat) (pins : Nat) (st : LoomState) : State :=
  { weaving (.shedUnweave 3) (woven 1 pins st) 0 with weaves := [(3, weave0 pub copied)], looms := [(0, shedLearner), (1, woven 1 pins st), (2, woven 2 pins st)], bobbins := [(0, { weave := 3, loom := 1, addr := 0x500000, nrec := 64 })] }

theorem witness_WeavesSet_undone : ∀ st ∈ [LoomState.stopped, .running], let s := published .idle [] 0 st; TakenCmd s 1 0 (tk (.shedUnweave 3)) ∧ tfind s.weaves 3 = some (weave0 .idle []) ∧ (∀ l ∈ weaveLooms (weave0 .idle []), loomOwned s 1 l = true) ∧
    ((∀ l ∈ weaveLooms (weave0 .idle []), (getLoom s l).st = .stopped) ↔ st = .stopped) := by
  unfold TakenCmd; decide +kernel

/-- A publication that waits, with the back beam pinned and not; the next block whole and poisoned; some blocks left and none. -/
theorem witness_PicksCopied : (∀ pins ∈ [0, 1], let s := published .waiting [] pins .running; s.svc.dark = false ∧ (getWeave s 3).pub = .waiting ∧ (backPinned s (getWeave s 3) = true ↔ pins = 1)) ∧
    (∀ bad ∈ [[], [0x110040 / 64]], let s : State := { published .copying [0] 0 .running with faults := { poisoned := bad } }; let w := getWeave s 3; w.pub = .copying ∧ 1 ∉ w.copied ∧ blockTurn s 3 1 = true ∧ s.heldWrites = [] ∧ readyConversions s 1 = [] ∧ agentsIdle s w.learner ∧ doneGroups (getLoom s w.learner) = [] ∧ (loomTiles (getLoom s w.learner)).getD (1 % max 1 (loomTiles (getLoom s w.learner)).length) 0 = 1 ∧
      (blockAt w.src 1).any (fun p => objPoison s (getLoom s w.learner) p.1.obj (p.1.srcOff + p.2) (min 65536 (p.1.len - p.2)) == !bad.isEmpty) = true ∧ w.copied.length < blockCount w ∧ (getLoom s 1).st ∉ [LoomState.free, .stopped, .faulted]) ∧
    (let w := getWeave (published .copying [0, 1] 0 .running) 3; w.pub = .copying ∧ blockCount w ≤ w.copied.length ∧ w.rearm = false) ∧ (getWeave (published .idle [] 0 .running) 3).pub ≠ .waiting ∧
    (let s := modTile (published .copying [0] 0 .running) 1 fun v => { v with ops := [{ strand := 0, tag := 9, kind := .wcopy, num := 3, src := tb + 2 ^ 23 + 0x2000, dst := tb + 2 ^ 23 + 0x8000, rows := 1, cols := 1 }] }; readyConversions s 1 ≠ []) := by
  decide +kernel

/-! ## Witnesses: power -/

/-- A module that works on two supply inputs, with dies 0, 1 and 39 on and die 2 off; loom 0 in a box of two modules. -/
def die0 (on : Bool) (limits : Table Nat) (vset : Nat) : DiePower := { on := on, limits := limits, treadle := 40, wanted := 60, vset := vset, rail := 700, raw := 100000, estimate := 120000, share := 200000, budget := 220000, tempC := 80 }
def inGood (carrying : Bool) : Input := { st := .good, v10mv := 5400, carrying := carrying }
def inBad (st : InputState) (v : Nat) : Input := { st := st, v10mv := v, pathOpen := decide (st ≠ .good ∧ st ≠ .lost) }
def power0 : Power :=
  { a := inGood true, b := inGood false, dies := [(0, die0 true [(1, 50), (3, 20)] 800), (1, die0 true [(4, 60)] 800), (2, die0 false [] 800), (39, die0 true [] 650)], issuing := [0, 2], refPresent := true, locked := true, openEpisodes := [(1, 5), (2, 7)], log0 := [(5, 77), (7, 3)], log1 := [(5, 0x00A0B000)], episodes := 37, hostTreadle := [(0, 30)], inForce := 14500 }
def powered (p : Power) : State := { hst none 0 [(0, { inState .running with box := 0x1280 })] with power := p, regs := [(0x00708000, 0x1241)], tlm := { timebase := 1000 } }

/-- Both inputs and each state of one: good and carrying, lost, and the three faults; the hand-over and its end; conduction, return to A,
and the loss of both. The voltages are those where the clauses meet. -/
theorem witness_SupplyInputs : (∀ b ∈ [true, false], ((getInput (powered power0) b).st = .good ∧ (getInput (powered power0) (!b)).st = .good ∧ (getInput (powered power0) b).carrying = !b ∧ (getInput (powered power0) b).senseLocal = false)) ∧
    (∀ st ∈ [InputState.lost, .overvolt, .short, .reversed], (getInput (powered { power0 with a := inBad st 3999 }) false).st = st) ∧
    ((4749 < 4750 ∨ 6100 < 4749) ∧ (4750 ≤ 6100 ∧ 6100 ≤ 6100) ∧ 4599 < 4600 ∧ 6200 ≤ 6200 ∧ 6200 < 6201) ∧
    ((powered power0).power.share = false ∧ 5300 + 50 < 5351 ∧ (powered power0).power.b.pathOpen = false ∧ (powered power0).power.b.st = .good) ∧
    ((powered { power0 with supplySwitch := true }).power.supplySwitch = true ∧ (getDie (powered { power0 with supplySwitch := true }) 0).on = true) ∧
    (let p : Power := { power0 with a := inGood false, b := inGood true }; p.share = false ∧ p.autoReturn = true ∧ p.a.st = .good ∧ p.a.carrying = false ∧ p.b.carrying = true) ∧
    (let p : Power := { power0 with a := { inBad .lost 3999 with carrying := true }, b := inBad .short 5400 }; p.a.st ≠ .good ∧ p.b.st ≠ .good ∧ p.a.v10mv < 4000 ∧ p.b.carrying = false) := by
  decide +kernel

/-- A die that is on and one that is off; A alone carries at 49.99 V, and B does, with 300.1 A. -/
theorem witness_PowerLoops : (powered power0).svc.dark = false ∧ (getDie (powered power0) 39).on = true ∧ (getDie (powered power0) 2).on = false ∧ (((onDies (powered power0)).map fun d => (getDie (powered power0) d).raw).sum + 1000 * 200) / 873 ≠ 0 ∧
    ((powered power0).power.a.carrying = true ∧ (powered power0).power.b.carrying = false ∧ 4999 < 5000 ∧ 3000 < 3001 ∧ onDies (powered power0) ≠ [] ∧ issuingDies (powered power0) ≠ []) ∧
    (let s := powered { power0 with a := inGood false, b := inGood true }; s.power.b.carrying = true ∧ s.power.a.carrying = false) ∧ (powered power0).power.diverged = false ∧
    (getLoom (powered power0) 0).st ≠ .free := by
  decide +kernel

def report (i last cap : Nat) : ModuleReport := ⟨i, last, 1000, cap, 15000, 1000⟩

/-- Budget lent, borrowed and neither; reports by which this module receives, and by which it lends. -/
theorem witness_Borrowing : (∀ b ∈ [(-500 : Int), 0, 500], (powered { power0 with borrowed := b }).power.borrowed = b) ∧
    (∀ last ∈ [(900, 10), (10, 900)], let s := powered power0; let rs := [report 0 last.1 14500, report 1 last.2 14500]; (getLoom s 0).st ≠ .free ∧ 2 ≤ boxModules (getLoom s 0) ∧ rs.length = boxModules (getLoom s 0) ∧
      (∃ r ∈ rs, r.boxIndex = boxIndexOf s (getLoom s 0) ∧ r.capInForce = s.power.inForce ∧ r.configured = s.power.cap ∧ r.borrowMax = s.power.borrowMax) ∧ (budgetMove rs).any (fun m => m.1 ≠ m.2.1) = true) := by
  decide +kernel

/-- The last die, its setpoint reached for what it waits and not; junctions at both sides of each threshold; a session of a loom on die
0 and a limit at both ends of its range. -/
theorem witness_DieLimits : (powered power0).svc.dark = false ∧ (getDie (powered power0) 39).on = true ∧ (getDie (powered power0) 0).on = true ∧
    (98 < 100 ∧ 100 < 101 ∧ 104 < 105 ∧ 105 ≤ 109 ∧ 109 < 110) ∧ ownsLoom (powered power0) ⟨0, 1⟩ 0 = true ∧ ownsLoom (powered power0) ⟨0, 2⟩ 0 = false ∧ (4 : W64).toNat % 2 ^ 7 = 4 ∧ (64 : W64).toNat % 2 ^ 7 = 64 ∧ 64 < (65 : W64).toNat % 2 ^ 7 ∧ 0 ∈ loomsOfDie (powered power0) 0 := by
  decide +kernel

/-- An episode, the last still in the log; a reference that is there, is lost, and comes back. -/
theorem witness_EpisodesAndClocks : (powered power0).svc.dark = false ∧ tfind power0.openEpisodes 1 = some 5 ∧ boundOn [(1, die0 true [(4, 60)] 800)] 1 = [] ∧ power0.episodes.toNat - 5 ≤ 32 ∧
    (∀ on ∈ [true, false], (powered { power0 with refPresent := on, holdover := !on }).power.refPresent = on) := by
  decide +kernel

/-! ## Witnesses: telemetry and the timebase -/

/-- A counter's setting. -/
def cntCfg (e mode chain smp thr per : Nat) : W64 := BitVec.ofNat 64 (e + mode * 256 + chain * 1024 + smp * 2048 + thr * 65536 + per * 2 ^ 32)
/-- A loom with a counter of each mode and two that sample, each one count below its end, a dump ring and a sample ring. -/
def tlm0 : TlmLoom := { cfg := [(0, cntCfg 1 0 0 0 0 0), (1, cntCfg 1 0 0 1 0 1000), (3, cntCfg 4 1 0 0 3 0), (5, cntCfg 12 3 0 0 4 0), (6, cntCfg 6 2 0 1 2 500)], dump := 1, dumpNrec := 2, dumpPeriod := 100, sample := 2, sampleNrec := 4, totals := [(0, 2 ^ 48 - 1), (1, 2 ^ 48 - 1), (3, 2 ^ 48 - 1), (5, 5), (6, 2 ^ 48 - 1)] }
def counted (st : LoomState) : Loom := { inState st with cmd := some cmd0, tlm := tlm0, intent := [ir 1 0 1 65536, ir 2 0 1 65536], map := [mr 1 0x10000 262144, mr 2 0x200000 262144] }
def counting (b : HostBody) (x : Loom) (p : Option PendingSample) (tl : Telemetry) : State :=
  { hst (some (tk b)) 0 [(0, x)] with tiles := [(0, { strands := [(0, { active := true, pc := 1 }), (1, { active := true })], sample := p })], tlm := tl }
/-- Session 1 owns the die blocks, at a tick where a dump is due. -/
def tlmRun0 (run : Bool) : Telemetry :=
  { timebase := 100, pps := true, blocks := [(3, { cfg := [(1, 0x402), (5, 2), (30, 2)], cnt := [(5, 2 ^ 48 - 2)] })], ownerValid := true, owner := 1, run := run, period := 100, nrec := 2, dumpAddr := 0x9000 }
def cfgT (cfg0 : W64) : TlmConfigF := ⟨[(0, cntCfg 1 0 0 0 0 0), (1, cfg0)], some 0xF, some 1, some 4, some 100, some 2, some 64, some 8⟩

/-- A counter that samples every 1,000 cycles, and one with every bit set. -/
theorem witness_CountersConfigured : (∀ f ∈ [cfgT (cntCfg 1 0 0 1 0 1000), cfgT (cntCfg 0xFF 3 1 1 0xFFFF 0)], let s := counting (.tlmConfig f) (counted .stopped) none (tlmRun0 true); TakenCmd s 1 0 (tk (.tlmConfig f)) ∧ (getLoom s 0).st = .stopped ∧ (getLoom s 0).session = 1) ∧
    (let f := cfgT (cntCfg 1 0 0 1 0 1000); tlmOk (counted .stopped) (tlmFields tlm0 f) f = true) ∧ (let f := cfgT (cntCfg 0xFF 3 1 1 0xFFFF 0); tlmOk (counted .stopped) (tlmFields tlm0 f) f = false) := by
  unfold TakenCmd; decide +kernel

/-- Counters that count and that sample, in each mode, with a sample pending and without; and the last counter of a die block. -/
theorem witness_Counting : (∀ p ∈ [none, some ⟨0, some 0⟩], ∀ n ∈ [0, 1, 3, 5, 6], let s := counting .loomStart (counted .running) p (tlmRun0 true); let cfg := tget 0 (getLoom s 0).tlm.cfg n
      s.svc.dark = false ∧ loomOfTile s 0 = some 0 ∧ n < 8 ∧ cfg.getLsbD 10 = false ∧ tileValueOk (getLoom s 0).tlm.strandMask cfg 1 0 = true ∧ (tget 0 (getLoom s 0).tlm.cfg (n + 1)).getLsbD 10 = false ∧ cfg.getLsbD 11 = decide (n = 1 ∨ n = 6) ∧ cfg.toNat % 2 ^ 8 ∉ [2, 3, 8, 11]) ∧
    (let s := counting .loomStart (counted .running) none (tlmRun0 true); s.tlm.run = true ∧ ∀ n ∈ [5, 30], n < 31 ∧ tget 0 (getBlock s 3).cfg n = 2 ∧ cfgChain (tget 0 (getBlock s 3).cfg (n + 1)) = false) := by
  decide +kernel

/-- A pending sample of any strand and of this one; a dump due of a loom and of the die blocks, to the last byte of the ring. -/
theorem witness_Recording : (∀ p ∈ [(⟨3, none⟩ : PendingSample), ⟨3, some 0⟩], let s := counting .loomStart (counted .running) (some p) (tlmRun0 true); canIssue s { tile := 0, strand := 0 } = some 0 ∧ (getTile s 0).sample = some p ∧ (p.strand = none ∨ p.strand = some 0) ∧
      (getLoom s 0).program[(getStrand s { tile := 0, strand := 0 }).pc.toNat]? = some 6 ∧ (getLoom s 0).tlm.sample ≠ 0) ∧
    (let s := counting .loomStart { counted .running with map := [mr 1 0x10000 (2 * dumpBytes (counted .running))] } none (tlmRun0 true); let x := getLoom s 0; s.svc.dark = false ∧ x.st ≠ .free ∧ x.tlm.dump ≠ 0 ∧ s.tlm.timebase.toNat % x.tlm.dumpPeriod = 0 ∧
      (objRec x x.tlm.dump).any (fun r => r.kind = mkStk && (x.tlm.dumpSeq + 1) % x.tlm.dumpNrec * dumpBytes x + dumpBytes x = r.bytes) = true ∧
      s.tlm.run = true ∧ s.tlm.period ≠ 0 ∧ s.tlm.nrec ≠ 0 ∧ s.tlm.ownerValid = true ∧ (getSession s s.tlm.owner).opened = true ∧ s.tlm.timebase.toNat % s.tlm.period = 0) := by
  decide +kernel

/-- The owner, another session and no session, while the blocks run and while they do not. -/
theorem witness_OwnerWrites : ∀ run ∈ [true, false], let s := counting .loomStart (counted .running) none (tlmRun0 run); let u : State := { s with fns := [(1, { session := some 2 })] }
    s.svc.dark = false ∧ s.tlm.run = run ∧ tlmOwner s ⟨0, 1⟩ = true ∧ sessOf s ⟨0, 1⟩ ≠ none ∧ sessOf s ⟨0, 2⟩ = none ∧ sessOf u ⟨0, 1⟩ ≠ none ∧ tlmOwner u ⟨0, 1⟩ = false ∧ (0x402 : W64).getLsbD 10 = true ∧ (2 : W64).getLsbD 10 = false := by
  decide +kernel

/-- An input off and on, before its first edge and after, in holdover and not, with a fault seen and without; the times of an edge that
is accepted and those just beside. -/
theorem witness_PpsInput : (∀ on ∈ [true, false], ∀ edge ∈ [true, false], let s := counting .loomStart (counted .running) none { timebase := 100, pps := on, haveEdge := edge, holdover := !edge, seconds := if edge then some 5 else none }
      s.svc.dark = false ∧ s.tlm.pps = on ∧ s.tlm.haveEdge = edge ∧ s.tlm.holdover = !edge ∧ s.tlm.shortSeen = false ∧ s.tlm.openSeen = false) ∧
    (999000000 ≤ 999000000 ∧ 1001000000 ≤ 1001000000) ∧ 998999999 < 999000000 ∧ 1001000000 < 1001000001 := by
  decide +kernel

/-! ## Witnesses: the care of the module and checkpoints -/

/-- The coordinates c in a box of e modules along x. -/
def bx (e c : Nat) : BitVec 15 := BitVec.ofNat 15 (c + e * 64 + 512 + 4096)
/-- Sixteen elements of object 1 from its fifth. -/
def ke : CkptEntry := ⟨1, 4, 16, 77, 0⟩
/-- Loom 0 of a box of e modules with a checkpoint set and a run of it. -/
def ckl (e : Nat) (r : Option CkptRun) : Loom :=
  { inState .stopped with configured := true, jobId := 9, box := bx e 0, intent := [ir 1 0 1 64, ir 2 1 1 64], map := [mr 1 0x10000 256, mr 2 0x200000 128], ckpt := { entries := [ke], runId := 99, run := r }, lrn := { step := 5 } }
/-- That loom on the module at coordinate c along x; bays 8, 9 and 16 under test, die 2 lost. -/
def svk (b : HostBody) (x : Loom) (c : Nat) : State :=
  { hst (some (tk b)) 0 [(0, x), (2, { ckl 1 none with bays := [2] })] with svc := { st := .ready, testing := [8, 9, 16], lostDies := [2], lastPass := [(8, 3)], buckets := [(3, List.range 60)], coord := bx 2 c }, regs := [(0x30, 0), (0x00708000, (bx 2 c).setWidth 64)], tlm := { timebase := 1000 }, links := [(0, { st := 1 }), (3, { st := 2 })] }
def kr (rq : Option (Nat × Nat)) (len : Nat) (started copying : Bool) : CkptRun := ⟨5, List.replicate 32 3, [1, 2], rq, 0x70000, len, started, true, copying, []⟩
def twoOne : State := svk .loomStart (ckl 1 none) 0

/-- A loom that holds bays 0 and 1 with a command in progress, beside none; the test may ask for its pre-emption or may not, and has
asked for it 3.6 s ago or never. -/
def tested (may : Bool) (asked : Option Nat) : State :=
  { svk .loomStart { inState .running with bays := [0, 1], cmd := some cmd0, softWait := 100 } 0 with
    looms := [(0, { inState .running with bays := [0, 1], cmd := some cmd0, softWait := 100 })], tlm := { timebase := 360001000 }
    svc := { st := .ready, selftestPreempt := may, selftestHours := 24, testAsked := (asked.map fun a => (1, BitVec.ofNat 64 a)).toList } }
theorem witness_CareOfTheModule_held : ∀ may ∈ [true, false], ∀ asked ∈ [none, some 1000], let s := tested may asked; let bays := (getLoom s 0).bays
    (s.svc.dark = false ∧ bays = [0, 1] ∧ bays.Nodup ∧ (getLoom s 0).holder = true ∧ (getLoom s 0).st = .running ∧ (∀ l ∈ liveLooms s, l ≠ 0 → ∀ b ∈ bays, b ∉ (getLoom s l).bays)) ∧ s.svc.selftestPreempt = may ∧
    (asked = none → ∀ b ∈ bays, s.svc.testAsked.lookup b = none) ∧ (asked = some 1000 → s.svc.testAsked.lookup 1 = some 1000 ∧ (s.tlm.timebase - 1000).toNat < s.svc.selftestHours * 360000000000) ∧
    ((getLoom s 0).ckpt.run = none ∧ (getLoom s 0).cmd ≠ none ∧ (getLoom s 0).softWait ≠ 0) := by
  decide +kernel

/-- Two management dies and one; bays to be tested and under test, of a lost die too, with failures and without. -/
theorem witness_CareOfTheModule : twoOne.svc.dark = false ∧ (twoOne.svc.mg0 = true ∧ twoOne.svc.mg1 = true) ∧ (let s : State := { twoOne with svc := { twoOne.svc with mg1 := false } }; s.svc.mg1 = false ∧ s.svc.dark = false ∧ ((getLink s 0).st = 1 ∧ (getLink s 3).st = 2)) ∧
    (∀ q ∈ [([3], []), ([319, 20], [20, 319]), ([3, 4], [4])], (q.1 : List Nat) ≠ [] ∧ q.1.Nodup ∧ (∀ b, b ∈ (q.2 : List Nat) → b ∈ q.1) ∧ ∀ b ∈ q.1, b < 320 ∧ b ∉ twoOne.svc.retired ∧ b ∉ twoOne.svc.testing ∧ ∀ l ∈ liveLooms twoOne, b ∉ (getLoom twoOne l).bays) ∧
    (∀ q ∈ [([8], []), ([8, 9], [9]), ([16, 8], [])], (q.1 : List Nat) ≠ [] ∧ (∀ b ∈ q.1, b ∈ twoOne.svc.testing) ∧ ∀ b ∈ (q.2 : List Nat), b ∈ q.1) ∧ dieOfBay 16 ∈ twoOne.svc.lostDies := by
  decide +kernel

/-- Checkpoint sets that are sound and not; triggers of each case. -/
theorem witness_Checkpoints_begin : (∀ es ∈ [[], [ke], [{ ke with localOff := 60 }], [ke, ke]], let s := svk (.ckptSet 7 (some true) es) (ckl 1 none) 0; TakenCmd s 1 0 (tk (.ckptSet 7 (some true) es)) ∧ (getLoom s 0).st = .stopped ∧ (getLoom s 0).session = 1) ∧
    (ckptRange (ckl 1 none) 1 4 16 = true ∧ ckptRange (ckl 1 none) 1 60 16 = false ∧ ckptDisjoint [ke] = true ∧ ckptDisjoint [ke, ke] = false) ∧
    (∀ q ∈ [(ckl 1 none, 0), (ckl 2 none, 1), ({ ckl 1 none with fencedJob := true }, 0), ({ ckl 1 none with st := .fenced }, 0), (ckl 1 (some (kr none 100 true true)), 0), ({ ckl 1 none with session := 2 }, 0)], let s := svk (.ckptTrigger 0 0x70000 4096) q.1 q.2
      TakenCmd s 1 0 (tk (.ckptTrigger 0 0x70000 4096)) ∧ (getLoom s 0).ckpt.run = q.1.ckpt.run ∧ isAnchor s (getLoom s 0) = decide (q.2 = 0)) ∧
    ((4 : Nat) < (ckl 1 none).lrn.step.toNat ∧ (ckl 1 none).lrn.step.toNat ≤ 5 ∧ (ckl 1 none).lrn.step.toNat ≤ 5 + 2) := by
  unfold TakenCmd; decide +kernel

/-- A module beside its anchor, with a run asked for and without; copies that do not fit and that just fit, on the anchor of a box of one and
on another module, and one of a loom at work that meets poison; a status that is listed and one that is not. -/
theorem witness_Checkpoints_end : (∀ r ∈ [none, some (kr (some (1, 0)) 100 false false)], let s := svk .loomStart (ckl 2 r) 1; let x := getLoom s 0; s.svc.dark = false ∧ x.st ≠ .free ∧ x.waitPreempt = none ∧ x.configured = true ∧ isAnchor s x = false ∧ x.fencedJob = false ∧ x.ckpt.run = r) ∧
    (∀ len ∈ [100, 8191], let s := svk .loomStart (ckl 1 (some (kr (some (1, 0)) len true true))) 0; len < ckptSize s (getLoom s 0) ∧ takenOf s 1 0 ≠ none) ∧
    (∀ q ∈ [(1, 0, some (1, 0), 8192), (2, 1, none, 4096)], let s := svk .loomStart (ckl q.1 (some (kr q.2.2.1 q.2.2.2 true true))) q.2.1; let x := getLoom s 0; x.ckpt.run = some (kr q.2.2.1 q.2.2.2 true true) ∧ ckptSize s x = q.2.2.2 ∧ x.st ≠ .free ∧ x.waitPreempt = none ∧ (∀ r ∈ ckptReads x, poisonHit s r.1 r.2 = false) ∧ isAnchor s x = decide (q.2.1 = 0) ∧ boxModules x = q.1 ∧ x.ckpt.entries = [ke] ∧ (getReg s 0x00000030).getLsbD 5 = false) ∧
    (let s : State := { svk .loomStart { ckl 1 (some (kr none 8192 true true)) with st := .running } 0 with faults := { poisoned := [0x400] } }; let x := getLoom s 0; (ckptReads x).any (fun q => poisonHit s q.1 q.2) = true ∧ x.st ∉ [LoomState.stopped, .faulted]) ∧
    (stListed 0x13 = false ∧ stListed stUncorr = true) ∧
    (let s := svk .loomStart (ckl 2 (some (kr (some (1, 0)) 100 true true))) 0; let x := getLoom s 0; isAnchor s x = true ∧ 1 < boxModules x ∧ 1 ≠ boxIndexOf s x ∧ x.ckpt.run = some (kr (some (1, 0)) 100 true true)) := by
  decide +kernel

/-- A manifest of one entry of a box of two modules, and the shard it describes. -/
def man : List Byte := toLe 8 99 ++ toLe 8 5 ++ toLe 4 1 ++ toLe 4 (bx 2 0).toNat ++ toLe 8 0x1234 ++ toLe 8 6 ++ toLe 4 3 ++ toLe 4 1 ++ List.replicate 16 0 ++ toLe 4 0 ++ toLe 4 1 ++ toLe 4 77 ++ toLe 4 4 ++ toLe 8 0 ++ toLe 8 16
def shHead : List Byte := toLe 8 99 ++ toLe 8 5 ++ sha256 man ++ toLe 4 77 ++ toLe 2 0 ++ toLe 2 0 ++ toLe 8 0 ++ toLe 8 16 ++ toLe 8 64 ++ toLe 4 0 ++ toLe 4 (crc32c (List.replicate 64 9)).toNat
def rdata : RestoreData := ⟨[man], [⟨shHead ++ toLe 4 (crc32c shHead).toNat ++ List.replicate 36 0, List.replicate 64 9⟩]⟩
def rr (ws : List (Nat × Nat × ShardData)) (reps : List BoxReport) (rel : Bool) : RestoreRun := ⟨(1, 0), 99, 5, List.replicate 32 3, 3, 0x777, 8, 5, ws, reps, rel⟩
def restoring (r : RestoreRun) : State := svk .loomStart { ckl 2 none with ckpt := { (ckl 2 none).ckpt with restore := some r } } 0
def passes (e : Except Byte (List Byte)) : Bool := match e with | .ok _ => true | _ => false
def isBad (e : Except Byte (List Byte)) : Bool := match e with | .error b => b == stBad | _ => false

/-- A restore that passes its checks on one module of two, and one that does not, on a box of one; a loom that runs. -/
theorem witness_Restores : restoreShape rdata [(0x5000, 96)] [(0x6000, 192)] = true ∧
    (∀ x ∈ [ckl 1 none, ckl 2 none, { ckl 2 none with st := .running }, { ckl 2 none with session := 2 }], let b := HostBody.ckptRestore [(0x5000, 96)] [(0x6000, 192)]; let s := svk b x 0; TakenCmd s 1 0 (tk b) ∧ (getLoom s 0).st = x.st ∧ (getLoom s 0).session = x.session) := by
  unfold TakenCmd; decide +kernel

set_option maxRecDepth 100000 in
theorem witness_Restores_checked : passes (restoreChecks (svk .loomStart (ckl 2 none) 0) (ckl 2 none) rdata) = true ∧ 2 ≤ boxModules (ckl 2 none) := by
  decide +kernel

set_option maxRecDepth 100000 in
theorem witness_Restores_failed : isBad (restoreChecks (svk .loomStart (ckl 1 none) 0) (ckl 1 none) rdata) = true := by
  decide +kernel

/-- The last report of a box of two, which agrees; and a restore released, with a sound shard. -/
theorem witness_Restores_released : (let r := rr [] [⟨1, 0, 0, 99, 5, List.replicate 32 3⟩] false; let s := restoring r; s.svc.dark = false ∧ (getLoom s 0).ckpt.restore = some r ∧ boxModules (getLoom s 0) = 2 ∧ (r.reports.any fun q => q.box = 0) = false ∧ (r.reports.any fun q => q.box = 1) = true ∧ ∀ q ∈ r.reports, q.step = r.step ∧ q.runId = r.runId ∧ q.digest = r.digest) ∧
    (let r := rr [(1, 4, ⟨shHead, List.replicate 64 9⟩)] [] true; (getLoom (restoring r) 0).ckpt.restore = some r ∧ r.released = true ∧ ∀ w ∈ r.writes, (crc32c w.2.2.payload).toNat = (shardHead w.2.2.header).payloadCrc) := by
  decide +kernel

/-! ## Witnesses: ports, sessions and rings -/

/-- Function 2 of port 0. -/
def w2 : Accessor := ⟨0, 2⟩
/-- What the response of function 2 for slot 2 must be, the slot's key being 32 bytes of 7 and the nonce 55H. -/
def mac2 : List Byte := hmac256 (List.replicate 32 7) (toLe 32 0x55 ++ toLe 8 Config.serialLo.toNat ++ toLe 8 Config.serialHi.toNat ++ [0, 2, 2])
def slot2 : KeySlot := { key := List.replicate 32 7, enabled := true, admin := true, loomQuota := 3, bayQuota := 9 }
def fn2 (sn : Option Nat) : FnRegs := { challenge := some ⟨2, 0x55⟩, nonce := 0x55, mac := BitVec.ofNat 256 (leNat mac2), ctl := 0x123456789008, cpl := 0x7777000010, session := sn }
/-- Port 0 up, port 5 down; session 0 open on another port, session 1 of function 1; functions 1 and 2 with their sessions. -/
def ported (k : KeySlot) (f : FnRegs) (looms : Table Loom) : State :=
  { hst none 1 looms with slots := [(2, k)], fns := [(1, { session := some 1 }), (2, f)], ports := [(0, { up := true, vfs := 4, width := 16, rate := 6 }), (5, { up := false, vfs := 2 })], sessions := [(0, { opened := true, io := 1, fn := 3, sgen := 7 }), (1, { ses none 1 with fn := 1, evt := some { base := 0x9000, log2 := 6, written := 5 } })] }

/-- The number a digest spells gives its bytes back. -/
theorem mac_spells (h : List Byte) (hl : h.length = 32) : toLe 32 (BitVec.ofNat 256 (leNat h)).toNat = h := by
  have hb := leNat_lt h
  rw [hl] at hb
  rw [BitVec.toNat_ofNat, Nat.mod_eq_of_lt (by simpa using hb), ← hl]
  exact toLe_leNat h

/-- A response that is authentic, on a function without a session and on one with; and one that is for another slot. -/
theorem witness_Sessions_authentic (sn : Option Nat) : authentic (ported slot2 (fn2 sn) []) w2 2 ⟨2, 0x55⟩ ∧ ¬ authentic (ported slot2 (fn2 sn) []) w2 2 ⟨3, 0x55⟩ := by
  have hm : (getFn (ported slot2 (fn2 sn) []) w2).mac = BitVec.ofNat 256 (leNat mac2) := rfl
  refine ⟨⟨rfl, rfl, rfl, fun _ => rfl, ?_⟩, fun h => absurd h.1 (by decide)⟩
  rw [hm, mac_spells mac2 (hmac256_length _ _)]
  rfl

/-- The rest of what those responses need: the port ready, the lowest free session, ring registers; a slot that is locked and one that has failed four times. -/
theorem witness_Sessions : (∀ q ∈ [(none, 2), (some 1, 2)], let s := ported slot2 { fn2 q.1 with mac := 0 } []; s.svc.dark = false ∧ fnReady s w2 = true ∧ (getFn s w2).challenge = some ⟨2, 0x55⟩ ∧ (getFn s w2).session = q.1 ∧ ringRegOk (getFn s w2).ctl = true ∧ ringRegOk (getFn s w2).cpl = true ∧ (getSession s q.2).opened = false ∧ (∀ m < q.2, (getSession s m).opened = true)) ∧
    (∀ k ∈ [{ slot2 with locked := true, fails := 5 }, { slot2 with fails := 4 }, { slot2 with fails := 3 }], let s := ported k (fn2 none) []; (getSlot s 2).locked = k.locked ∧ (getSlot s 2).fails = k.fails) ∧
    fnReady (ported slot2 {} []) ⟨0, 5⟩ = false ∧ fnReady (ported slot2 {} []) ⟨0, 4⟩ = true ∧ (getSession (ported slot2 {} []) 1).opened = true ∧ (getFn (ported slot2 {} []) ⟨0, 1⟩).session = some 1 := by
  decide +kernel

/-- A port that is up and one that is down, each with its functions, and looms of one session and of two. -/
theorem witness_Ports : let s := ported slot2 {} [(0, ld)]; (∀ io ∈ [0, 5], io < Config.ioDies s.variant) ∧ (getPortOf s 0).up = true ∧ (getPortOf s 5).up = false ∧ s.svc.st ≠ .boot ∧ s.svc.st ≠ .recovery ∧ (16 ∈ [1, 2, 4, 8, 16] ∧ 1 ≤ 6) ∧
    ((getSession s 1).opened = true ∧ (getSession s 1).io = 0 ∧ (getSession s 1).fn = 1) ∧ ((liveLooms s).filter fun k => (getLoom s k).session = 1) = [0] := by
  decide +kernel

def fetched (e : CmdEntry) (room : Nat) : State := { ported slot2 {} [(0, ld)] with sessions := [(1, { ses none 1 with cmd := [(0, { ring0 none with tail := 5, head := 3 })], cpl := [(0, { base := 0x100000, log2 := 6, countMod := 1, reserved := room, written := 17, head := 15, since := 2, vector := 9 })] })], reply := [BitVec.ofNat 64 e.opcode] }
def entry (op sn g : Nat) (b : List Byte) : CmdEntry := ⟨op, sn, g, 5, false, 0, 0xAB, b.length, b, false⟩

/-- Counts that just fit a ring and that do not; entries that are the session's and not, in order and not, with room and without. -/
theorem witness_RingTraffic : (let s := ported slot2 {} [(0, ld)]; s.svc.dark = false ∧ sessOf s ⟨0, 1⟩ = some 1 ∧ tfind (getSession s 1).cmd 0 = some (ring0 none) ∧ engineOwned s 1 0 = false ∧ tfind (getSession s 1).cpl 0 = some cpl0 ∧ (getSession s 1).evt ≠ none ∧ (((0x100 : W64).setWidth 16 : BitVec 16) - 0).toNat ≤ 2 ^ 8 ∧ 2 ^ 8 < (((0x101 : W64).setWidth 16 : BitVec 16) - 0).toNat) ∧
    (∀ e ∈ [entry 0x33 1 3 [], entry 0x33 2 3 [], entry 0x33 1 4 [], { entry 0x33 1 3 [] with rsv := 1 }, { entry 0x33 1 3 [] with fetchError := true }], let s := fetched e 0; let r : CmdRing := { ring0 none with tail := 5, head := 3 }
      s.svc.dark = false ∧ (getSession s 1).opened = true ∧ tfind (getSession s 1).cmd 0 = some r ∧ r.kind = .control ∧ r.stopped = false ∧ r.taken = none ∧ r.tail ≠ r.head ∧ engineOwned s 1 0 = false ∧ cplRoom (getSession s 1) 0 = true) ∧
    ((getSession (fetched (entry 0x33 1 3 []) 0) 1).sgen.toNat = 3 ∧ entryShape (entry 2 1 3 []) = true ∧ (parseBody 2 []).isSome = true ∧ entryShape { entry 0x33 1 3 [] with rsv := 1 } = false ∧ parseBody 0xFFF [] = none) ∧
    (let s := fetched (entry 0x33 1 3 []) 0; (tfind (getSession s 1).cpl 0).any (fun r => 0 < r.unread && 0 < r.since && decide (r.countMod ≤ r.since)) = true) := by
  decide +kernel

def ringOf (kind : RingKind) (base : Nat) : RingCreateF := ⟨kind, BitVec.ofNat 64 base, 6, some 0, some 2047, some 256, some 1000⟩
def withRings (b : HostBody) (nc np : Nat) (evt : Bool) : State := { hst none 0 [(0, ld)] with sessions := [(1, { ses none 0 with cmd := (List.range nc).map fun i => (i, ring0 (if i = 0 then some (tk b) else none)), cpl := (List.range np).map fun i => (i, cpl0), evt := if evt then some cpl0 else none })] }

/-- Rings of each kind, sound and not, with a number free and all taken; one that a loom names, one that is free to go, and a session. -/
theorem witness_RingCommands : (∀ kind ∈ [RingKind.control, .dobby, .completion, .event], ∀ base ∈ [4096, 4097], let b := HostBody.ringCreate (ringOf kind base); TakenCmd (withRings b 1 1 false) 1 0 (tk b) ∧ TakenCmd (withRings b 64 16 true) 1 0 (tk b) ∧
      freeKey (getSession (withRings b 1 1 false) 1).cmd 64 = some 1 ∧ freeKey (getSession (withRings b 1 1 false) 1).cpl 16 = some 1 ∧ freeKey (getSession (withRings b 64 16 true) 1).cmd 64 = none ∧ freeKey (getSession (withRings b 64 16 true) 1).cpl 16 = none ∧ allCmdRings (withRings b 1 1 false) < 1024 ∧ allCplRings (withRings b 1 1 false) < 256) ∧
    (4096 % 4096 = 0 ∧ 4097 % 4096 ≠ 0) ∧ (let b := HostBody.ringDelete .control 2; let s := withRings b 3 1 true; TakenCmd s 1 0 (tk b) ∧ ringDeletable s 1 .control 2 = none ∧ ringDeletable s 1 .control 1 = some stBusy ∧ ringDeletable s 1 .dobby 2 = some stBad) ∧
    (let s := withRings .sessionClose 2 1 true; TakenCmd s 1 0 (tk .sessionClose) ∧ (getSession s 1).opened = true ∧ ((liveLooms s).filter fun k => (getLoom s k).session = 1) = [0]) := by
  unfold TakenCmd; decide +kernel

/-- Transfers of a length that is no multiple of 4, of one past 1 GiB and of 8, to an object and past it, and to a tile store the loom has left; units poisoned and not. -/
theorem witness_HostTransfers : (∀ len ∈ [5, 2 ^ 30 + 4, 8], ∀ dev ∈ [0x10000, 0x20000], ∀ b ∈ [HostBody.xferToDev 0x9000 (BitVec.ofNat 64 dev) len, .xferFromDev 0x9000 (BitVec.ofNat 64 dev) len], let s := hst (some (tk b)) 0 [(0, { ld with map := [mr 1 0x10000 4096] })]; TakenCmd s 1 0 (tk b) ∧ (getLoom s 0).st ≠ .free ∧ (getLoom s 0).session = 1 ∧ (getLoom s 0).hot = []) ∧
    (let x : Loom := { ld with map := [mr 1 0x10000 4096] }; let s := hst none 0 [(0, x)]; mapGives s.variant x 0x10000 8 = true ∧ mapGives s.variant x 0x20000 8 = false ∧ mapGives s.variant x 0x1000000000000010 8 = true ∧ uncopied s 0x10000 8 = none ∧ writeBlocked s 0x10000 8 = false ∧ poisonHit s 0x10000 8 = false ∧ poisonHit { s with faults := { poisoned := [0x10000 / 64] } } 0x10000 8 = true) ∧
    (let x := { inState .ready with holder := false }; x.holder = false ∧ (x.st ≠ .stopped ∨ x.lastHolder = false) ∧ 0x1000000000000000 ≤ 0x1000000000000010) := by
  unfold TakenCmd; decide +kernel

/-! ## Witnesses: the console, images and start-up -/

/-- A module in a state of the service controller, with its console; both inputs GOOD, the reference locked. -/
def consoled (st : SvcState) (c : Console) (looms : Table Loom) : State :=
  { hst none 0 looms with svc := { st := st, coord := 0x1281, svnMin := 3, flashA := some ⟨[1], []⟩, retired := [4] }, power := { a := inGood true, b := inGood false, locked := true, refPresent := true, dies := [(3, die0 true [] 800)] }, console := c, tlm := { timebase := 1000000000 } }
def pw0 : List Byte := List.replicate 12 0x61
def salt0 : List Byte := List.replicate 16 2
def shut : Console := { hasPassword := true, salt := salt0, hash := pbkdf2 pw0 salt0 100000 }
def openCon : Console := { loggedIn := true, hasPassword := true, salt := salt0, hash := [1] }

/-- The first password, the right one and a wrong one, open and locked, and logins. -/
theorem witness_Logins : ((12 ≤ pw0.length ∧ pw0.length ≤ 64) ∧ salt0.length = 16) ∧ (∀ st ∈ [SvcState.starting, .ready], let s := consoled st {} []; s.svc.dark = false ∧ s.svc.st = st ∧ s.console.hasPassword = false ∧ s.tlm.timebase.toNat < 10 * 60 * 100000000) ∧
    (let s := consoled .ready openCon []; s.console.loggedIn = true ∧ s.svc.dark = false ∧ s.svc.st ≠ .recovery) ∧ (consoled .ready { openCon with locked := true, fails := 5 } []).console.locked = true := by
  decide +kernel

theorem witness_Logins_matched : (consoled .ready shut []).console.hasPassword = true ∧ (consoled .ready shut []).console.locked = false ∧ pbkdf2 pw0 (consoled .ready shut []).console.salt 100000 = (consoled .ready shut []).console.hash := by
  refine ⟨rfl, rfl, ?_⟩
  simp only [consoled, shut]

theorem witness_Logins_wrong : (consoled .ready openCon []).console.locked = false ∧ pbkdf2 pw0 (consoled .ready openCon []).console.salt 100000 ≠ (consoled .ready openCon []).console.hash := by
  refine ⟨rfl, fun h => ?_⟩
  have hl := congrArg List.length h
  rw [pbkdf2_length] at hl
  exact absurd hl (by decide)

/-- A console without a login and one with; budgets lent, borrowed and neither; inputs shared and not; values at the ends of their ranges; looms and none. -/
theorem witness_ConsoleSettings : (consoled .ready {} []).console.loggedIn = false ∧ (∀ looms ∈ [[], [(0, ld)]], let s := consoled .ready openCon looms; s.console.loggedIn = true ∧ s.svc.dark = false ∧ s.svc.st ≠ .recovery ∧ (liveLooms s).length = looms.length ∧ s.tlm.pps = false ∧ s.tlm.offsetNs = 0) ∧
    (3000 % 50 = 0 ∧ 15000 % 50 = 0 ∧ 15050 > 15000) ∧ (∀ b ∈ [0, 100], ∀ share ∈ [true, false], let p : Power := { (consoled .ready openCon []).power with borrowed := b, share := share }; p.share = share ∧ p.borrowed = b ∧ p.a.st = .good ∧ p.b.st = .good) ∧
    (((1000000000 : W64).toNat ≤ 10 * 100000000) ∧ 9 * 100000000 < (1000000000 : W64).toNat) ∧ coordOk 0x1281 = true ∧ coordOk 0 = false := by
  decide +kernel

/-- Each state in which an image is started, updated or committed. -/
theorem witness_Images : (let s := consoled .starting {} []; s.svc.dark = false ∧ s.svc.st = .starting ∧ s.svc.imageB = false) ∧ (consoled .recovery {} []).svc.st = .recovery ∧ (List.replicate 512 (1 : Byte)).length = 512 ∧
    ((consoled .ready {} []).svc.imageB = false ∧ (consoled .ready {} []).svc.flashA ≠ none) ∧ runningImage (consoled .ready openCon []) = some ⟨[1], []⟩ := by
  decide +kernel

/-- A module that boots and one that starts, with a reference and without, and what start-up finds. -/
def finding : StartFinding := ⟨true, true, [3, 39], [5, 319], [0, 2, 11], [(0, 0xFF), (1, 0x0F), (2, 0x07), (66, 0xFE)], [], [], [(0, 16, 6)], true⟩
theorem witness_StartAndReset : ∀ st ∈ [SvcState.boot, .starting], let s := consoled st {} []; s.svc.st = st ∧ s.power.a.st = .good ∧ s.power.locked = true ∧ s.power.refPresent = true ∧ ({ s.power with refPresent := false } : Power).refPresent = false ∧ finding.mg0Pass = true ∧ finding.lanes = [] ∧ finding.partners = [] ∧ 39 ∈ finding.badDies ∧ 2 ∉ finding.badDies := by
  decide +kernel

/-- A port that is not overloaded, and a module that answers its sensors and one that does not. -/
theorem witness_PortsAndSensors : ∀ st ∈ [SvcState.starting, .ready, .recovery], let s := consoled st {} []; 0 < Config.ioDies s.variant ∧ (0, 5) ∉ s.svc.aux ∧ s.svc.dark = false ∧ s.svc.st = st := by
  decide +kernel

/-! ## Witnesses: registers, reset and the queue -/

/-- Function 1 with a session on a port that is up, as ADMIN or not, owning loom 0. -/
def reader (admin : Bool) : State := { hst none 0 [(0, ld)] with sessions := [(1, { ses none 0 with admin := admin })] }

/-- A register access by an ADMIN session, by another session and by a function of a port that is down; accesses of each shape; the session's loom. -/
theorem witness_RegisterAccess : (∀ ad ∈ [true, false], barReady (reader ad) ⟨0, 1⟩ = true ∧ adminOf (reader ad) ⟨0, 1⟩ = ad) ∧ barReady (reader true) ⟨5, 1⟩ = false ∧ accessOk 0x30 3 = false ∧ accessOk 0x34 8 = false ∧ (0x9FFFF8 % 8 = 0 ∧ 0x9FFFF8 < 0x00A00000) ∧
    ((getLoom (reader true) 0).st ≠ .free ∧ sessOf (reader true) ⟨0, 1⟩ = some (getLoom (reader true) 0).session) ∧ Src.hif ∈ allSrc := by
  decide +kernel

/-- An offset past the last register of a block, for each kind of session. -/
theorem witness_EmptyOffsets : ∀ ad ∈ [true, false], barReady (reader ad) ⟨0, 1⟩ = true ∧ (regAt (reader ad) ⟨0, 1⟩ (0x01FFFFF8 / 8 * 8)).isNone = true := by
  decide +kernel

/-- RDSR of the first and the last reserved number. -/
theorem witness_ReservedSpecialRegisters : ∀ n ∈ [0x0A, 0xFF], let f : FmtI := ⟨0, false, 5, 0, 0, BitVec.ofNat 32 n⟩; Issues (before (wordI 0xD 0 f) y0) a0 0 (wordI 0xD 0 f) ∧ 0x0A ≤ f.imm.toNat % 256 := by
  unfold Issues; decide +kernel

/-- What an idle module has. -/
def rests (s : State) (ls : List Nat) : Bool :=
  (s.tiles.all fun q => q.2.running.isEmpty && q.2.ops.isEmpty) &&
    ((List.range 32).all fun l => (loomTiles (getLoom s l)).all fun i => (tileOf s l i).sentFrames.all fun q => !q.waiting) &&
    (List.range 32).all fun l => ls.contains l || (getLoom s l).srv.formed.all fun f => !f.committing

theorem rests_of (s : State) (ls : List Nat) (h : rests s ls = true) : tilesRest s ∧ commitsOnly s ls := by
  simp only [rests, Bool.and_eq_true, List.all_eq_true, List.isEmpty_iff, List.mem_range, Bool.or_eq_true, List.contains_iff_mem, Bool.not_eq_true'] at h
  obtain ⟨⟨h1, h2⟩, h3⟩ := h
  refine ⟨⟨h1, fun l i q hl hi hq => h2 l hl i hi q hq⟩, fun l f hl hn hf => ?_⟩
  obtain h | h := h3 l hl
  · exact absurd h hn
  · rw [hf] at h
    simpa using h

/-- An idle module that is READY, with a rate correction and without, and one that is not; one with a batch step that commits; and one
with a matrix command in flight. -/
theorem witness_IdleTick : (∀ st ∈ [SvcState.ready, .boot], ∀ r ∈ [0, 500], let s : State := { consoled st {} [] with tlm := { ratePpb := r } }; s.pending = [] ∧ s.svc.st = st ∧ s.svc.dark = false ∧ s.tlm.ratePpb = r ∧ rests s [] = true) ∧
    (let s := commits req0 [(9, 0)]; s.pending = [] ∧ s.svc.st = .ready ∧ s.svc.dark = false ∧ rests s [0] = true ∧ (getLoom s 0).st ≠ .free) ∧
    (let s := started 0; s.pending = [] ∧ s.svc.st = .ready ∧ s.svc.dark = false ∧ (match s.tiles with | [(tile, x)] => !x.running.isEmpty && x.ops.isEmpty && loomOfTile s tile = some 0 | _ => false) = true ∧
      rests { s with tiles := s.tiles.map fun kv => (kv.1, { kv.2 with running := [] }) } [] = true) := by
  decide +kernel

/-- A state whose memories are in their form, and a step from it. -/
theorem witness_MemoryKept : State.reset.MemOk ∧ ∃ t, step State.reset = .next t := ⟨⟨rfl, rfl⟩, _, rfl⟩

/-- A command at the front, and one behind it. -/
theorem witness_StepRunsFront : ({ reader true with pending := [.refclkLost, .droop 3] } : State).pending = Instr.refclkLost :: [.droop 3] := by
  decide +kernel

/-! ## Well-formed commands -/

def nopI : FmtI := ⟨0, false, 0, 0, 0, 0⟩
def emptyFrame (n : Nat) : Frame := { jobId := 9, comm := 0, seq := 0, kind := 0, stage := 0, len := 0, round := 0, chunk := 0, sender := 0, orderTag := 0, side := 0, crc := 0, payload := List.replicate n 0 }

/-- For every kind of number, the last that names a part, and the first that names none. -/
theorem test_wf_refuses : ([Instr.nop ⟨5120, 0⟩ nopI, .nop ⟨0, 16⟩ nopI, .matrixCommandIssue 5120, .holderSelect 32, .loomStart 16 0, .loomStart 0 64, .droop 40, .adderSelftest 39 4 true,
      .stackFailed 14, .detour (.hop 6 []), .portDown 8, .laneDrop 0 24, .sessClose ⟨0, 17⟩, .pickWait 8, .deadline 16384, .authLockExpiry 16, .ackFrame 0 (emptyFrame 4097)].all fun i => !i.wf) = true ∧
    ([Instr.nop ⟨5119, 15⟩ nopI, .matrixCommandIssue 5119, .holderSelect 31, .loomStart 15 63, .droop 39, .adderSelftest 39 3 true, .stackFailed 13, .detour (.hop 5 []), .portDown 7, .laneDrop 7 23,
      .sessClose ⟨7, 16⟩, .pickWait 7, .deadline 16383, .authLockExpiry 15, .ackFrame 0 (emptyFrame 4096)].all Instr.wf) = true := by decide +kernel

/-! ## Values the manual prints -/

theorem test_reset_memory : State.reset.MemOk := ⟨rfl, rfl⟩

/-- The word of `@p2 vffma v5, v1, v2, v3` (04, Worked encoding). -/
theorem test_worked_encoding : wordR 3 3 ⟨2, false, 5, 1, 2, 3, 0, 0, false, 0, 0⟩ = 0x30D050420C000000 := by decide +kernel

/-- The canonical NaNs, and the largest finite values of E4M3 and E5M2: 448 and 57,344 (Table 2-2); 480 saturates (Table 2-4). -/
theorem test_formats : [shF32, shBf16, shF16, shE4m3, shE5m2].map FShape.canonNan = [0x7FC00000, 0x7FC0, 0x7E00, 0x7F, 0x7E] ∧
    shE4m3.narrow .rne true (f32Val 0x43E00000) = (0x7E, 0) ∧ shE4m3.narrow .rne true (f32Val 0x43F00000) = (0x7E, fOvf) ∧ shE5m2.narrow .rne true (f32Val 0x47600000) = (0x7B, 0) := by decide +kernel

/-- 14.4 kW at 48 V on one input, and the configured cap at 50 V (R35). -/
theorem test_single_input : (∀ q ∈ [(4800, 14400, true), (5000, 15000, false)], capNow { a := { st := .good, v10mv := q.1, carrying := true } } = q.2) := by decide +kernel

/-- The uniform ceiling of a 12.0 kW cap is 56/64 (Table 12-4, in fortieths of a step). -/
theorem test_nominal : (nominal { power := { inForce := 12000 } }).1 = 56 * 40 ∧ (nominal { power := { inForce := 14050 } }).1 = 64 * 40 ∧ (nominal { power := { inForce := 3000 } }).1 = 9 * 40 := by decide +kernel

/-- The check value of CRC-32C (the Castagnoli polynomial's published one, over the digits 1 to 9). -/
theorem test_crc32c : crc32c [0x31, 0x32, 0x33, 0x34, 0x35, 0x36, 0x37, 0x38, 0x39] = 0xE3069283 := by decide +kernel

set_option maxRecDepth 100000 in
/-- SHA-256 of "abc" (FIPS 180-4's example). -/
theorem test_sha256 : beNat (sha256 [0x61, 0x62, 0x63]) = 0xba7816bf8f01cfea414140de5dae2223b00361a396177a9cb410ff61f20015ad := by decide +kernel

end Sys2Proof.Tests
end

section
/-! SUPPORT. Accesses of BAR0 (R12, R13, R17, R457): which register an offset holds, what a read answers and clears, what a write of the
module's registers does, and what the counter clears leave. With it the two obligations about register accesses are settled. -/
namespace Sys2Proof.Machine
open Sys2Proof

/-! ## Arrays of registers -/

/-- The member i of an array of registers. -/
theorem arr_member {base stride n i : Nat} (hs : 0 < stride) (hi : i < n) : arr (base + i * stride) base stride n = some i := by
  simp [arr, Nat.mul_div_cancel _ hs, hi]

theorem arr_below {off base : Nat} (stride n : Nat) (h : off < base) : arr off base stride n = none := by
  have : ¬ base ≤ off := by omega
  simp [arr, this]

theorem arr_beyond {off base stride n : Nat} (hs : 0 < stride) (h : base + n * stride ≤ off) : arr off base stride n = none := by
  have : ¬ (off - base) / stride < n := by
    rw [Nat.div_lt_iff_lt_mul hs]
    omega
  simp [arr, this]

theorem arr_between {off base stride : Nat} (n : Nat) (h : (off - base) % stride ≠ 0) : arr off base stride n = none := by
  simp [arr, h]

/-- The array that an offset does not lie in is passed over. -/
theorem firstArr_cons_none {off base stride n : Nat} (f : Nat → Scope × Nat) (r : List (Nat × Nat × Nat × (Nat → Scope × Nat)))
    (h : arr off base stride n = none) : firstArr off ((base, stride, n, f) :: r) = firstArr off r := by
  simp [firstArr, h]

theorem firstArr_cons_some {off base stride n i : Nat} (f : Nat → Scope × Nat) (r : List (Nat × Nat × Nat × (Nat → Scope × Nat)))
    (h : arr off base stride n = some i) : firstArr off ((base, stride, n, f) :: r) = some (f i) := by
  simp [firstArr, h]

/-- An offset at which a list of arrays holds no register lies in none of them. -/
theorem arr_eq_none_of_firstArr {off : Nat} {L : List (Nat × Nat × Nat × (Nat → Scope × Nat))} (h : firstArr off L = none) :
    ∀ a ∈ L, arr off a.1 a.2.1 a.2.2.1 = none := by
  induction L with
  | nil => simp
  | cons a r ih =>
    obtain ⟨base, stride, n, f⟩ := a
    cases ha : arr off base stride n with
    | some i => simp [firstArr_cons_some f r ha] at h
    | none =>
      rw [firstArr_cons_none f r ha] at h
      exact List.forall_mem_cons.mpr ⟨ha, ih h⟩

/-! ## Which register an offset holds (Table 5-2) -/

theorem regAt_plc {off : Nat} (s : State) (w : Accessor) (h : off / 0x100000 = 3) : regAt s w off = firstArr off (plcRegs s) := by
  have : ¬ 0x10000000 ≤ off := by omega
  simp [regAt, this, h]

theorem regAt_srv {off : Nat} (s : State) (w : Accessor) (h : off / 0x100000 = 5) : regAt s w off = firstArr off (srvRegs s) := by
  have : ¬ 0x10000000 ≤ off := by omega
  simp [regAt, this, h]

theorem regAt_mem {off : Nat} (s : State) (w : Accessor) (h : off / 0x100000 = 10) : regAt s w off = firstArr off (memRegs s) := by
  have : ¬ 0x10000000 ≤ off := by omega
  simp [regAt, this, h]

/-- PLC_LOOM_HOT_HITS of a loom. -/
theorem regAt_hotHits {l : Nat} (s : State) (w : Accessor) (hl : l < 32) :
    regAt s w (0x00300108 + l * 0x20) = some (.loom l, (getLoom s l).hotHits % 2 ^ 48) := by
  rw [regAt_plc s w (by omega), plcRegs, List.singleton_append, one, one, firstArr_cons_none _ _ (arr_beyond (by omega) (by omega)),
    firstArr_cons_none _ _ (arr_beyond (by omega) (by omega)), firstArr_cons_none _ _ (arr_between _ (by omega)),
    firstArr_cons_some _ _ (arr_member (by omega) hl)]

/-- The first of the serving counts of a loom. -/
theorem regAt_srvCount {l : Nat} (s : State) (w : Accessor) (hl : l < 32) :
    regAt s w (0x00500110 + l * 0x40) = some (.loom l, filed s (srvReg l 0x10)) := by
  rw [regAt_srv s w (by omega)]
  simp only [srvRegs, filedAt, one, List.map_cons, List.map_nil, List.cons_append, List.nil_append]
  iterate 5 rw [firstArr_cons_none _ _ (arr_beyond (by omega) (by omega))]
  iterate 2 rw [firstArr_cons_none _ _ (arr_between _ (by omega))]
  rw [firstArr_cons_some _ _ (arr_member (by omega) hl)]

/-- The status of a stack is a register, so an empty offset is none of them. -/
theorem arr_stack_of_regAt_none {s : State} {w : Accessor} {off : Nat} (h : regAt s w off = none) :
    arr off 0xA00100 0x20 (Config.stackNum s.variant) = none := by
  have hn : Config.stackNum s.variant ≤ 14 := by cases s.variant <;> decide
  by_cases hb : off / 0x100000 = 10
  · rw [regAt_mem s w hb] at h
    exact arr_eq_none_of_firstArr h (0xA00100, 0x20, Config.stackNum s.variant, fun k => (Scope.module, stackStatus s k)) (by simp [memRegs])
  · by_cases hlow : off < 0xA00100
    · exact arr_below _ _ hlow
    · exact arr_beyond (by omega) (by omega)

/-- The event status register of each block, and the enable register that follows it, are the module's and stand in the register file. -/
theorem regAt_status (s : State) (w : Accessor) (x : Src) : regAt s w x.status = some (.module, filed s x.status) := by
  cases x <;> rfl

theorem regAt_enable (s : State) (w : Accessor) (x : Src) : regAt s w (x.status + 8) = some (.module, filed s (x.status + 8)) := by
  cases x <;> rfl

theorem tlmOwned_status (x : Src) : tlmOwned x.status = false := by cases x <;> rfl

theorem tlmOwned_enable (x : Src) : tlmOwned (x.status + 8) = false := by cases x <;> rfl

theorem accessOk_status (x : Src) : accessOk x.status 8 = true := by cases x <;> rfl

theorem accessOk_enable (x : Src) : accessOk (x.status + 8) 8 = true := by cases x <;> rfl

/-! ## Reads -/

theorem exec_rcRegisterRead (s : State) (w : Accessor) (off width : Nat) : exec (.rcRegisterRead w off width) s = .next (regRead s w off width) := rfl

/-- A function without a BAR0 that answers reads nothing. -/
theorem regRead_of_not_barReady {s : State} {w : Accessor} (off width : Nat) (h : barReady s w = false) : regRead s w off width = s := by
  simp [regRead, h]

/-- An access that the module does not accept reads 0 (R12). -/
theorem regRead_of_not_accessOk {s : State} {w : Accessor} {off width : Nat} (hr : barReady s w = true) (h : accessOk off width = false) :
    regRead s w off width = { s with reply := [0] } := by
  simp [regRead, hr, h]

theorem stackTemp_of_arr_none {s : State} {off : Nat} (h : arr off 0xA00100 0x20 (Config.stackNum s.variant) = none) : stackTemp s off = (0, s) := by
  simp [stackTemp, h]

/-- What an accepted access of width bytes at offset off shows of the register (R12). -/
def shownOf (v off width : Nat) : Nat := if width = 8 then v else bits v (8 * (off % 8) + 31) (8 * (off % 8))

/-- An accepted read of a register other than a stack's status: it answers the bits addressed, and clears a read-to-clear count for the
session that owns it. -/
theorem regRead_eq {s : State} {w : Accessor} {off width : Nat} (hr : barReady s w = true) (hok : accessOk off width = true)
    (hst : arr (off / 8 * 8) 0xA00100 0x20 (Config.stackNum s.variant) = none) :
    regRead s w off width = { (if ownsReg s w (off / 8 * 8) then clearRc s (off / 8 * 8) else s) with
      reply := [BitVec.ofNat 64 (shownOf (readReg s w (off / 8 * 8)) off width)] } := by
  simp [regRead, hr, hok, stackTemp_of_arr_none hst, shownOf]

theorem ownsReg_of_regAt_none {s : State} {w : Accessor} {off : Nat} (h : regAt s w off = none) : ownsReg s w off = false := by
  simp [ownsReg, h]

/-- A session owns the registers of its looms (R457). -/
theorem ownsReg_loom {s : State} {w : Accessor} {off l v : Nat} (hreg : regAt s w off = some (.loom l, v)) (hst : (getLoom s l).st ≠ .free)
    (hs : sessOf s w = some (getLoom s l).session) : ownsReg s w off = true := by
  simp [ownsReg, hreg, hs, scopeOwner, hst]

theorem readReg_of_regAt_none {s : State} {w : Accessor} {off : Nat} (h : regAt s w off = none) : readReg s w off = 0 := by
  simp [readReg, h]

theorem shownOf_zero (off width : Nat) : shownOf 0 off width = 0 := by simp [shownOf, bits]

/-- An access of 64 bits shows the whole register. -/
theorem shownOf_whole (v off : Nat) : shownOf v off 8 = v := rfl

/-- An access of 32 bits shows the half addressed. -/
theorem shownOf_half (v : Nat) {off n : Nat} (h : off % 8 = 0) (hn : n < 2) : shownOf v (off + 4 * n) 4 = v / 2 ^ (32 * n) % 2 ^ 32 := by
  have hm : 8 * ((off + 4 * n) % 8) = 32 * n := by omega
  simp [shownOf, bits, hm, Nat.shiftRight_eq_div_pow]

/-- An offset that holds no register reads 0 at every width (R13). -/
theorem regRead_of_regAt_none {s : State} {w : Accessor} {off width : Nat} (hr : barReady s w = true) (h : regAt s w (off / 8 * 8) = none) :
    regRead s w off width = { s with reply := [0] } := by
  cases hok : accessOk off width with
  | false => exact regRead_of_not_accessOk hr hok
  | true =>
    rw [regRead_eq hr hok (arr_stack_of_regAt_none h), ownsReg_of_regAt_none h, readReg_of_regAt_none h, shownOf_zero]
    rfl

/-! ## Read-to-clear counts (Table 0-4) -/

theorem clearRc_hotHits {l : Nat} (s : State) (hl : l < 32) :
    clearRc s (0x00300108 + l * 0x20) = modLoom s l fun x => { x with hotHits := 0 } := by
  simp [clearRc, arr_member (base := 0x300108) (stride := 0x20) (by omega) hl]

theorem clearRc_srvCount {l : Nat} (s : State) (hl : l < 32) : clearRc s (0x00500110 + l * 0x40) = setReg s (0x00500110 + l * 0x40) 0 := by
  have hh : arr (0x00500110 + l * 0x40) 0x300108 0x20 32 = none := arr_beyond (by omega) (by omega)
  have hm : arr (0x00500110 + l * 0x40) 0x300110 0x20 32 = none := arr_beyond (by omega) (by omega)
  have hf : arr (0x00500110 + l * 0x40) 0x300118 0x20 32 = none := arr_beyond (by omega) (by omega)
  have hd : arr (0x00500110 + l * 0x40) 0x700418 0x20 32 = none := arr_below _ _ (by omega)
  simp [clearRc, hh, hm, hf, hd, arr_member (base := 0x500110) (stride := 0x40) (by omega) hl]

/-! ## Writes of the module's registers -/

theorem exec_registerWrite (s : State) (w : Accessor) (off width : Nat) (v : W64) :
    exec (.registerWrite w off width v) s = .next (regWrite s w off width v) := rfl

theorem regWrite_of_not_barReady {s : State} {w : Accessor} (off width : Nat) (v : W64) (h : barReady s w = false) : regWrite s w off width v = s := by
  simp [regWrite, h]

/-- A write to an offset that holds no register has no effect (R13). -/
theorem regWrite_of_regAt_none {s : State} {w : Accessor} {off : Nat} (width : Nat) (v : W64) (h : regAt s w (off / 8 * 8) = none) :
    regWrite s w off width v = s := by
  simp [regWrite, h]

theorem sessOf_ne_none_of_adminOf {s : State} {w : Accessor} (h : adminOf s w = true) : sessOf s w ≠ none := fun hn => by
  simp [adminOf, hn] at h

/-- The PF carries no session (R450). -/
theorem fn_ne_zero_of_adminOf {s : State} {w : Accessor} (h : adminOf s w = true) : w.fn ≠ 0 := fun h0 => by
  simp [adminOf, sessOf, h0] at h

/-- A register of the module that is not the telemetry owner's is written by an ADMIN session alone (R457). -/
theorem regWrite_module {s : State} {w : Accessor} {off v : Nat} (value : W64) (hr : barReady s w = true) (hok : accessOk off 8 = true)
    (hreg : regAt s w off = some (.module, v)) (ht : tlmOwned off = false) :
    regWrite s w off 8 value = if adminOf s w then moduleWrite s off (regWriteOf off 8 value) else s := by
  have h8 : off / 8 * 8 = off := by
    have : off % 8 = 0 := by simp [accessOk] at hok; exact hok.1
    omega
  cases ha : adminOf s w with
  | false => simp [regWrite, h8, hreg, ht, ha]
  | true => simp [regWrite, hr, hok, h8, hreg, ht, ha, fn_ne_zero_of_adminOf ha, sessOf_ne_none_of_adminOf ha]

theorem moduleWrite_status (s : State) (x : Src) (w : RegWrite) :
    moduleWrite s x.status w = setReg s x.status (w1cApply (getReg s x.status) (evtMask x) w) := by
  cases x <;> rfl

theorem moduleWrite_enable (s : State) (x : Src) (w : RegWrite) :
    moduleWrite s (x.status + 8) w = setReg s (x.status + 8) (rwApply (getReg s (x.status + 8)) (evtMask x) w) := by
  cases x <;> rfl

/-- A write of all 64 bits clears what it names, or replaces the fields (Table 0-4). -/
theorem w1cApply_whole (old f v : W64) (off : Nat) : w1cApply old f (regWriteOf off 8 v) = old &&& ~~~(v &&& f) := by
  rw [w1cApply, regWriteOf, if_pos rfl, BitVec.and_allOnes]

theorem rwApply_whole (old f v : W64) (off : Nat) : rwApply old f (regWriteOf off 8 v) = (old &&& ~~~f) ||| (v &&& f) := by
  rw [rwApply, regWriteOf, if_pos rfl, BitVec.and_allOnes, BitVec.allOnes_and]

/-! ## The counter clears -/

theorem getReg_foldl_setReg_zero (offs : List Nat) (s : State) (k : Nat) :
    getReg (offs.foldl (fun s o => setReg s o 0) s) k = if k ∈ offs then 0 else getReg s k := by
  induction offs generalizing s with
  | nil => simp
  | cons o r ih =>
    rw [List.foldl_cons, ih, getReg_setReg]
    by_cases ho : o = k <;> by_cases hr : k ∈ r <;> simp [ho, hr, eq_comm (a := k)]

/-- Every register named reads 0 once an ADMIN session has cleared them. -/
theorem getReg_clearCounters {s : State} {w : Accessor} {offs : List Nat} {k : Nat} (hr : barReady s w = true) (ha : adminOf s w = true)
    (hk : k ∈ offs) : getReg (clearCounters s w offs) k = 0 := by
  rw [clearCounters, hr, ha, Bool.and_self, if_pos rfl, getReg_foldl_setReg_zero, if_pos hk]

/-- For any other function nothing is cleared. -/
theorem clearCounters_of_not_adminOf {s : State} {w : Accessor} (offs : List Nat) (ha : adminOf s w = false) : clearCounters s w offs = s := by
  simp [clearCounters, ha]

/-- What COLL_CNT_CLEAR does to the drops of the looms named. -/
def clearDrops (s : State) (ls : List Nat) : State := ls.foldl (fun s l => modLoom s l fun x => { x with drops := 0 }) s

theorem clearDrops_regs (ls : List Nat) (s : State) : (clearDrops s ls).regs = s.regs := by
  induction ls generalizing s with
  | nil => rfl
  | cons l r ih => exact (ih _).trans (modLoom_regs _ _ _)

theorem getReg_clearDrops (ls : List Nat) (s : State) (k : Nat) : getReg (clearDrops s ls) k = getReg s k := by
  simp [getReg, clearDrops_regs]

theorem drops_clearDrops (ls : List Nat) (s : State) (k : Nat) :
    (getLoom (clearDrops s ls) k).drops = if k ∈ ls then 0 else (getLoom s k).drops := by
  induction ls generalizing s with
  | nil => rfl
  | cons l r ih =>
    rw [clearDrops, List.foldl_cons, ← clearDrops, ih, getLoom_modLoom]
    by_cases hl : l = k <;> by_cases hr : k ∈ r <;> simp [hl, hr, eq_comm (a := k)]

theorem mem_liveLooms {s : State} {l : Nat} (hl : l < 32) (h : (getLoom s l).st ≠ .free) : l ∈ liveLooms s := by
  simp [liveLooms, hl, h]

/-- CLEAR_STK: the counts of every stack (Table 5-15). -/
theorem clearStk_zero {s : State} {w : Accessor} (hr : barReady s w = true) (ha : adminOf s w = true) :
    ∃ t, exec (.clearStk w) s = .next t ∧
      ∀ n o, n < Config.stackNum s.variant → o ∈ [8, 0x10, 0x18] → getReg t (0x00A00100 + n * 0x20 + o) = 0 := by
  refine ⟨_, rfl, fun n o hn ho => getReg_clearCounters hr ha (List.mem_flatMap.mpr ⟨n, List.mem_range.mpr hn, ?_⟩)⟩
  simpa [stkReg] using ho

/-- CLEAR_TS: the counts of every bay, and the module's two totals (Table 5-15). -/
theorem clearTs_zero {s : State} {w : Accessor} (hr : barReady s w = true) (ha : adminOf s w = true) :
    ∃ t, exec (.clearTs w) s = .next t ∧ ∀ b o, b < 320 → o ∈ [0, 8] →
      getReg t (0x10000000 + b / 8 * 0x01000000 + 0x008A0000 + b % 8 * 0x10 + o) = 0 ∧ getReg t (0x00A00040 + o) = 0 := by
  refine ⟨_, rfl, fun b o hb ho => ⟨getReg_clearCounters hr ha ?_, getReg_clearCounters hr ha ?_⟩⟩
  · refine List.mem_cons_of_mem _ (List.mem_cons_of_mem _ (List.mem_flatMap.mpr ⟨b, List.mem_range.mpr hb, ?_⟩))
    simpa [bayMemReg, dieOfBay] using ho
  · obtain rfl | rfl : o = 0 ∨ o = 8 := by simpa using ho
    · exact List.mem_cons_self
    · exact List.mem_cons_of_mem _ List.mem_cons_self

/-- FAB_CNT_CLEAR: the replays of every edge and of every router. -/
theorem fabCntClear_zero {s : State} {w : Accessor} (hr : barReady s w = true) (ha : adminOf s w = true) :
    ∃ t, exec (.fabCntClear w) s = .next t ∧ (∀ e, e < 67 → getReg t (0x00B00100 + e * 0x10 + 8) = 0) ∧
      ∀ d r, d < 40 → r < 16 → getReg t (0x10000000 + d * 0x01000000 + 0x008B0000 + r * 8) = 0 := by
  refine ⟨_, rfl, fun e he => getReg_clearCounters hr ha ?_, fun d r hd hr16 => getReg_clearCounters hr ha ?_⟩
  · exact List.mem_append_left _ (List.mem_map.mpr ⟨e, List.mem_range.mpr he, rfl⟩)
  · refine List.mem_append_right _ (List.mem_map.mpr ⟨d * 16 + r, List.mem_range.mpr (by omega), ?_⟩)
    omega

/-- COLL_CNT_CLEAR: the module's replays, and the drops of every loom. -/
theorem collCntClear_zero {s : State} {w : Accessor} (hr : barReady s w = true) (ha : adminOf s w = true) :
    ∃ t, exec (.collCntClear w) s = .next t ∧ getReg t 0x00700038 = 0 ∧
      ∀ l, l < 32 → (getLoom s l).st ≠ .free → (getLoom t l).drops = 0 := by
  refine ⟨clearDrops (setReg s 0x00700038 0) (liveLooms s), ?_, ?_, fun l hl hst => ?_⟩
  · change execCollCntClear w s = _
    rw [execCollCntClear, hr, ha, Bool.and_self, if_pos rfl, clearDrops]
  · rw [getReg_clearDrops, getReg_setReg, if_pos rfl]
  · rw [drops_clearDrops, if_pos (mem_liveLooms hl hst)]

/-- LINK_CNT_CLEAR: the replays of every direction, and the uncorrected words of every port. -/
theorem linkCntClear_zero {s : State} {w : Accessor} (hr : barReady s w = true) (ha : adminOf s w = true) :
    ∃ t, exec (.linkCntClear w) s = .next t ∧ (∀ d, d < 6 → getReg t (0x00708108 + d * 0x10) = 0) ∧
      ∀ io, io < Config.ioDies s.variant → getReg t (0x00708208 + io * 0x10) = 0 := by
  refine ⟨_, rfl, fun d hd => getReg_clearCounters hr ha ?_, fun io hio => getReg_clearCounters hr ha ?_⟩
  · exact List.mem_append_left _ (List.mem_map.mpr ⟨d, List.mem_range.mpr hd, rfl⟩)
  · refine List.mem_append_right _ (List.mem_map.mpr ⟨io, List.mem_range.mpr hio, ?_⟩)
    rw [laneReg]
    omega

/-- For a function without an ADMIN session no clear does anything (R457). -/
theorem counterClear_of_not_adminOf {s : State} {w : Accessor} (ha : adminOf s w = false) :
    ∀ i ∈ [Instr.clearStk w, .clearTs w, .fabCntClear w, .collCntClear w, .linkCntClear w], exec i s = .next s := by
  have hc (offs : List Nat) : Host.Outcome.next (clearCounters s w offs) = (.next s : Host.Outcome State Fault Refusal) :=
    congrArg _ (clearCounters_of_not_adminOf offs ha)
  have hd : execCollCntClear w s = .next s := by simp [execCollCntClear, ha]
  intro i hi
  obtain rfl | rfl | rfl | rfl | rfl : i = .clearStk w ∨ i = .clearTs w ∨ i = .fabCntClear w ∨ i = .collCntClear w ∨ i = .linkCntClear w := by
    simpa using hi
  · exact hc _
  · exact hc _
  · exact hc _
  · exact hd
  · exact hc _

/-! ## What an access of BAR0 answers and changes -/

/-- A read below the memory block shows the register, or the half addressed, and leaves memory as it was (R12). -/
theorem registerRead_shows {s : State} {w : Accessor} (hr : barReady s w = true) {n off : Nat} (h8 : off % 8 = 0) (hoff : off < 0x00A00000) :
    ∃ t, exec (.rcRegisterRead w off 8) s = .next t ∧ t.reply = [BitVec.ofNat 64 (readReg s w off)] ∧ t.mem = s.mem ∧
      (n < 2 → ∃ u, exec (.rcRegisterRead w (off + 4 * n) 4) s = .next u ∧
        u.reply = [BitVec.ofNat 64 (readReg s w off / 2 ^ (32 * n) % 2 ^ 32)]) := by
  have hst : arr off 0xA00100 0x20 (Config.stackNum s.variant) = none := arr_below _ _ (by omega)
  have hat : off / 8 * 8 = off := by omega
  refine ⟨_, rfl, ?_⟩
  have hok : accessOk off 8 = true := by simp [accessOk, h8]; omega
  rw [regRead_eq hr hok (by rwa [hat]), hat, shownOf_whole]
  refine ⟨rfl, ?_, fun hn => ⟨_, rfl, ?_⟩⟩
  · by_cases ho : ownsReg s w off <;> simp [ho]
  · have hat4 : (off + 4 * n) / 8 * 8 = off := by omega
    have hok4 : accessOk (off + 4 * n) 4 = true := by simp [accessOk]; omega
    rw [regRead_eq hr hok4 (by rwa [hat4]), hat4, shownOf_half _ h8 hn]

/-- Either half of a loom's hot-row hits clears the count for its session, and not the count of misses (R17, R457). -/
theorem registerRead_clears_hotHits {s : State} {w : Accessor} {l n : Nat} (hr : barReady s w = true) (hl : l < 32) (hn : n < 2)
    (hst : (getLoom s l).st ≠ .free) (hs : sessOf s w = some (getLoom s l).session) :
    ∃ t, exec (.rcRegisterRead w (0x00300108 + l * 0x20 + 4 * n) 4) s = .next t ∧ (getLoom t l).hotHits = 0 ∧
      (getLoom t l).hotMisses = (getLoom s l).hotMisses := by
  have hat : (0x00300108 + l * 0x20 + 4 * n) / 8 * 8 = 0x00300108 + l * 0x20 := by omega
  have hok : accessOk (0x00300108 + l * 0x20 + 4 * n) 4 = true := by simp [accessOk]; omega
  have hstk : arr (0x00300108 + l * 0x20) 0xA00100 0x20 (Config.stackNum s.variant) = none := arr_below _ _ (by omega)
  refine ⟨_, rfl, ?_⟩
  rw [regRead_eq hr hok (by rwa [hat]), hat, if_pos (ownsReg_loom (regAt_hotHits s w hl) hst hs), clearRc_hotHits s hl]
  have hg (u : State) (r : List W64) : getLoom { u with reply := r } l = getLoom u l := rfl
  rw [hg, getLoom_modLoom, if_pos rfl]
  exact ⟨rfl, rfl⟩

/-- A read of a loom's serving count clears it for its session (R17, R457). -/
theorem registerRead_clears_srvCount {s : State} {w : Accessor} {l : Nat} (hr : barReady s w = true) (hl : l < 32)
    (hst : (getLoom s l).st ≠ .free) (hs : sessOf s w = some (getLoom s l).session) :
    ∃ t, exec (.rcRegisterRead w (0x00500110 + l * 0x40) 8) s = .next t ∧ getReg t (0x00500110 + l * 0x40) = 0 := by
  have hat : (0x00500110 + l * 0x40) / 8 * 8 = 0x00500110 + l * 0x40 := by omega
  have hok : accessOk (0x00500110 + l * 0x40) 8 = true := by simp [accessOk]; omega
  have hstk : arr (0x00500110 + l * 0x40) 0xA00100 0x20 (Config.stackNum s.variant) = none := arr_below _ _ (by omega)
  refine ⟨_, rfl, ?_⟩
  rw [regRead_eq hr hok (by rwa [hat]), hat, if_pos (ownsReg_loom (regAt_srvCount s w hl) hst hs), clearRc_srvCount s hl]
  exact (getReg_setReg s _ _ 0).trans (if_pos rfl)

theorem regWrite_status {s : State} {w : Accessor} (x : Src) (v : W64) (hr : barReady s w = true) :
    regWrite s w x.status 8 v = if adminOf s w then setReg s x.status (getReg s x.status &&& ~~~(v &&& evtMask x)) else s := by
  rw [regWrite_module v hr (accessOk_status x) (regAt_status s w x) (tlmOwned_status x), moduleWrite_status, w1cApply_whole]

theorem regWrite_enable {s : State} {w : Accessor} (x : Src) (v : W64) (hr : barReady s w = true) :
    regWrite s w (x.status + 8) 8 v =
      if adminOf s w then setReg s (x.status + 8) ((getReg s (x.status + 8) &&& ~~~(evtMask x)) ||| (v &&& evtMask x)) else s := by
  rw [regWrite_module v hr (accessOk_enable x) (regAt_enable s w x) (tlmOwned_enable x), moduleWrite_enable, rwApply_whole]

/-! ## The obligations -/

/-- Settles O56: an offset without a register is no stack's status and no session's own, so the read draws no temperature, shows 0 and clears
nothing; the write finds no register to change. -/
theorem emptyOffsets : Obligations.EmptyOffsets := by
  intro s w off width v hr h
  rw [exec_rcRegisterRead, exec_registerWrite, regRead_of_regAt_none hr h, regWrite_of_regAt_none width v h]
  exact ⟨rfl, rfl⟩

theorem registerAccess : RegisterAccess := by
  refine fun s w => ⟨fun hr off n v => ?_, fun hr => ⟨fun off n hok => ?_, fun n off h8 hoff => registerRead_shows hr h8 hoff,
    fun l n hl hn hst hs => ⟨registerRead_clears_hotHits hr hl hn hst hs, registerRead_clears_srvCount hr hl hst hs⟩,
    fun x v _ => ⟨fun _ ha => ⟨⟨_, rfl, ?_⟩, _, rfl, ?_⟩, fun ha => ?_⟩⟩⟩
  · rw [exec_rcRegisterRead, exec_registerWrite, regRead_of_not_barReady off n hr, regWrite_of_not_barReady off n v hr]
    exact ⟨rfl, rfl⟩
  · rw [exec_rcRegisterRead, regRead_of_not_accessOk hr hok]
  · rw [regWrite_status x v hr, ha, if_pos rfl, getReg_setReg, if_pos rfl]
  · rw [regWrite_enable x v hr, ha, if_pos rfl, getReg_setReg, if_pos rfl]
  · rw [exec_registerWrite, exec_registerWrite, regWrite_status x v hr, regWrite_enable x v hr, ha]
    exact ⟨rfl, rfl⟩

theorem counterClears : CounterClears := by
  refine fun s w hr => ⟨counterClear_of_not_adminOf, fun ha => ?_⟩
  obtain ⟨t1, h1, hstk⟩ := clearStk_zero hr ha
  obtain ⟨t2, h2, hts⟩ := clearTs_zero hr ha
  obtain ⟨t3, h3, hedge, hrouter⟩ := fabCntClear_zero hr ha
  obtain ⟨t4, h4, hreplay, hdrops⟩ := collCntClear_zero hr ha
  obtain ⟨t5, h5, hdir, hfec⟩ := linkCntClear_zero hr ha
  exact ⟨t1, t2, t3, t4, t5, h1, h2, h3, h4, h5, hstk, hts, hedge, hrouter, hreplay, hdrops, hdir, hfec⟩

/-- Settles O55: what an access answers and changes follows from the register at its offset and the owner of that register; each counter clear
is a list of registers set to 0. -/
theorem registers : Obligations.Registers := ⟨registerAccess, counterClears⟩

end Sys2Proof.Machine
end

section
/-! SUPPORT. The product of an MMA and of a FOLD (R61 to R63, R65, R85, R88): the model's sums in the words of the statements, the accumulators
that a command writes, and an MMA's K-blocks cut at its segments. With it the obligation about the last rounding is settled. -/
namespace Sys2Proof.Machine
open Sys2Proof

/-! ## One K-block and one partial -/

/-- The saturation of R65 as a clamp. -/
theorem satI32_fst (x : Int) : (satI32 x).1 = max (-2 ^ 31) (min (2 ^ 31 - 1) x) := by
  unfold satI32
  split
  · omega
  · split <;> omega

theorem addPart_fst (isInt : Bool) (a p : W32) : (addPart isInt a p).1 = runningPlus isInt a p := by
  cases isInt with
  | false => rfl
  | true => simp [addPart, runningPlus, i32Add, satI32_fst]

/-- A value's integer at unit 1 is its significand shifted up, under its sign. -/
theorem toIntAt_zero_max (neg : Bool) (m : Nat) (e : Int) : toIntAt 0 neg m (max e 0) = (if neg then -1 else 1) * (m * 2 ^ e.toNat : Nat) := by
  have he : (max e 0 - 0).toNat = e.toNat := by omega
  rw [toIntAt, he]
  cases neg <;> simp

theorem addBlock_fst (isInt : Bool) (p : W32) (v : FVal) (nanIn : Bool) : (addBlock isInt p v nanIn).1 = partialPlus isInt p v := by
  cases isInt with
  | false => rfl
  | true => cases v <;> simp [addBlock, partialPlus, satI32_fst, toIntAt_zero_max]

theorem segEnds_iff (c : MtxCmd) (b : Nat) : segEnds c b = true ↔ b + 1 ∈ c.segTab ∨ b + 1 = kBlocks c.k := by
  simp [segEnds]

/-- The running value and the partial of an output element in progress, without its flags. -/
def elemSums (q : ElemSt) : W32 × W32 := (q.1, q.2.1)

theorem elemSums_addKBlock (c : MtxCmd) (x w : Nat → FVal) (q : ElemSt) (b : Nat) :
    elemSums (addKBlock c x w q b) = joinBlock c x w (elemSums q) b := by
  by_cases h : segEnds c b = true
  · simp [addKBlock, joinBlock, elemSums, h, (segEnds_iff c b).mp h, addPart_fst, addBlock_fst]
  · simp [addKBlock, joinBlock, elemSums, h, mt (segEnds_iff c b).mpr h, addBlock_fst]

theorem drop_range_eq_range' (lo hi : Nat) : (List.range hi).drop lo = List.range' lo (hi - lo) := by
  simp [List.range_eq_range', List.drop_range']

theorem rangeFrom_eq_drop (lo hi : Nat) : rangeFrom lo (hi - lo) = (List.range hi).drop lo := by
  rw [drop_range_eq_range', rangeFrom, List.range'_eq_map_range]

/-- The K-blocks lo up to hi of an output element join as the statements say. -/
theorem elemSums_elemBlocks (s : State) (tile : Nat) (r : MtxRun) (m n lo hi : Nat) :
    elemSums (elemBlocks s tile (getTile s tile).acc r m n lo hi) = joined s tile r m n ((List.range hi).drop lo) := by
  rw [elemBlocks, rangeFrom_eq_drop]
  exact (List.foldl_hom elemSums fun q b => (elemSums_addKBlock r.cmd _ _ q b).symm).symm

/-! ## The accumulators that output elements go to -/

/-- An output block's accumulators are distinct: its columns are below 128. -/
theorem accKey_inj {id m n m' n' : Nat} {b : Bool} (hn : n < 128) (hn' : n' < 128) (h : accKey id b m n = accKey id b m' n') : m = m' ∧ n = n' := by
  unfold accKey at h
  omega

section
variable {c : MtxCmd} {t : Tile} {r : MtxRun} {es : List (Nat × Nat × ElemSt)}

theorem putElems_acc_cons (x : Nat × Nat × ElemSt) :
    (putElems c t r (x :: es)).1.acc = (putElems c { t with acc := tset 0 t.acc (accKey c.outId c.tgtB x.1 x.2.1) x.2.2.1 } r es).1.acc := rfl

/-- An accumulator that no element goes to keeps its value. -/
theorem putElems_acc_of_forall_ne {k : Nat} (h : ∀ x ∈ es, k ≠ accKey c.outId c.tgtB x.1 x.2.1) :
    tget 0 (putElems c t r es).1.acc k = tget 0 t.acc k := by
  induction es generalizing t with
  | nil => rfl
  | cons x es ih =>
    rw [putElems_acc_cons, ih fun y hy => h y (List.mem_cons_of_mem _ hy), tget_tset, if_neg (h x List.mem_cons_self).symm]

/-- An accumulator holds the running value that every element for it brings. -/
theorem putElems_acc_of_mem {k : Nat} {v : W32} (hk : ∃ x ∈ es, k = accKey c.outId c.tgtB x.1 x.2.1)
    (hv : ∀ x ∈ es, k = accKey c.outId c.tgtB x.1 x.2.1 → x.2.2.1 = v) : tget 0 (putElems c t r es).1.acc k = v := by
  induction es generalizing t with
  | nil => simp at hk
  | cons x es ih =>
    rw [putElems_acc_cons]
    by_cases hes : ∃ y ∈ es, k = accKey c.outId c.tgtB y.1 y.2.1
    · exact ih hes fun y hy => hv y (List.mem_cons_of_mem _ hy)
    · have hx : k = accKey c.outId c.tgtB x.1 x.2.1 := by
        obtain ⟨y, hy, hky⟩ := hk
        obtain rfl | hy := List.mem_cons.mp hy
        · exact hky
        · exact absurd ⟨y, hy, hky⟩ hes
      rw [putElems_acc_of_forall_ne fun y hy hky => hes ⟨y, hy, hky⟩, tget_tset, if_pos hx.symm, hv x List.mem_cons_self hx]

/-! ## What a command leaves at its last rounding -/

/-- The rows that a command writes: a FOLD the valid ones, an MMA all of its output block's (R88). -/
def lastRows (c : MtxCmd) : Nat := if c.op = 1 then c.m else (outDims c.thin c.gang).1

/-- Output element (m, n) of a command at its last rounding. -/
def lastElem (s : State) (tile : Nat) (t : Tile) (r : MtxRun) (m n : Nat) : ElemSt :=
  if r.cmd.op = 1 then ((foldElem s tile t r.cmd m n).1, 0, (foldElem s tile t r.cmd m n).2)
  else elemBlocks s tile t.acc r m n (blocksIn r n) (kBlocks r.cmd.k)

theorem lastElems_eq_flatMap (s : State) (tile : Nat) (t : Tile) (r : MtxRun) :
    lastElems s tile t r =
      (List.range (lastRows r.cmd)).flatMap fun m => (List.range r.cmd.n).map fun n => (m, n, lastElem s tile t r m n) := by
  by_cases h : r.cmd.op = 1 <;> simp only [lastElems, lastRows, lastElem, elemsOf, h, if_true, if_false]

theorem mem_lastElems {s : State} {tile : Nat} {x : Nat × Nat × ElemSt} :
    x ∈ lastElems s tile t r ↔ ∃ m n, m < lastRows r.cmd ∧ n < r.cmd.n ∧ x = (m, n, lastElem s tile t r m n) := by
  simp only [lastElems_eq_flatMap, List.mem_flatMap, List.mem_map, List.mem_range]
  constructor
  · rintro ⟨m, hm, n, hn, rfl⟩
    exact ⟨m, n, hm, hn, rfl⟩
  · rintro ⟨m, n, hm, hn, rfl⟩
    exact ⟨m, hm, n, hn, rfl⟩

/-- Each target accumulator of a command holds its output element's value after the last rounding. -/
theorem putElems_lastElems_acc {s : State} {tile m n : Nat} (hN : r.cmd.n ≤ 128) (hm : m < lastRows r.cmd) (hn : n < r.cmd.n) :
    tget 0 (putElems r.cmd t r (lastElems s tile t r)).1.acc (accKey r.cmd.outId r.cmd.tgtB m n) = (lastElem s tile t r m n).1 := by
  refine putElems_acc_of_mem ⟨_, mem_lastElems.mpr ⟨m, n, hm, hn, rfl⟩, rfl⟩ fun x hx hk => ?_
  obtain ⟨m', n', hm', hn', rfl⟩ := mem_lastElems.mp hx
  obtain ⟨rfl, rfl⟩ := accKey_inj (hn.trans_le hN) (hn'.trans_le hN) hk
  rfl

/-- No other accumulator changes. -/
theorem putElems_lastElems_acc_other {s : State} {tile k : Nat}
    (hk : ∀ m n, m < lastRows r.cmd → n < r.cmd.n → k ≠ accKey r.cmd.outId r.cmd.tgtB m n) :
    tget 0 (putElems r.cmd t r (lastElems s tile t r)).1.acc k = tget 0 t.acc k := by
  refine putElems_acc_of_forall_ne fun x hx => ?_
  obtain ⟨m, n, hm, hn, rfl⟩ := mem_lastElems.mp hx
  exact hk m n hm hn

/-- A FOLD's element: the running value joined with the partial (R63). -/
theorem lastElem_fold (s : State) (tile m n : Nat) (h : r.cmd.op = 1) :
    (lastElem s tile t r m n).1 = runningPlus (decide (r.cmd.dstFmt = 9))
      (if r.cmd.segIdx ≠ 0 then tget 0 t.acc (accKey r.cmd.outId r.cmd.tgtB m n)
        else if r.cmd.carry then tget 0 t.acc (accKey r.cmd.outId true m n) else 0)
      (BitVec.ofNat 32 (operandBits s (tileAddr tile r.cmd.blkOff) r.cmd.dstFmt r.cmd.n m n)) := by
  simp only [lastElem, h, if_true, foldElem, addPart_fst]

/-- An MMA's element: every K-block of a column that had not entered has joined. -/
theorem lastElem_mma (s : State) (tile m n : Nat) (h : r.cmd.op ≠ 1) :
    (lastElem s tile (getTile s tile) r m n).1 = (joined s tile r m n ((List.range (kBlocks r.cmd.k)).drop (blocksIn r n))).1 := by
  rw [lastElem, if_neg h, ← elemSums_elemBlocks]
  rfl

theorem blocksIn_of_pos_zero (n : Nat) (h : r.pos = 0) : blocksIn r n = 0 := by
  simp [blocksIn, h]

/-! ## An MMA's K-blocks, segment by segment (R62) -/

variable {x w : Nat → FVal}

/-- A K-block joins a segment's partial. -/
def segJoin (c : MtxCmd) (x w : Nat → FVal) (p : W32) (b : Nat) : W32 := partialPlus (decide (c.warpFmt = 8)) p (blockSum c.k x w b).1

/-- The partial of the segment from K-block e.1 up to e.2. -/
def segPartial (c : MtxCmd) (x w : Nat → FVal) (e : Nat × Nat) : W32 := ((List.range e.2).drop e.1).foldl (segJoin c x w) 0

/-- A segment's partial joins the running value. -/
def segPlus (c : MtxCmd) (x w : Nat → FVal) (v : W32) (e : Nat × Nat) : W32 := runningPlus (decide (c.warpFmt = 8)) v (segPartial c x w e)

theorem mmaValue_eq (s : State) (tile : Nat) (r : MtxRun) (m n : Nat) :
    mmaValue s tile r m n = (r.cmd.segTab.zip (r.cmd.segTab.drop 1 ++ [kBlocks r.cmd.k])).foldl
      (segPlus r.cmd (warpAt s tile r m) fun k => weftAt s r k n) (tget 0 (getTile s tile).acc (accKey r.cmd.outId r.cmd.tgtB m n)) := rfl

theorem joinBlock_of_end {b : Nat} (q : W32 × W32) (h : b + 1 ∈ c.segTab ∨ b + 1 = kBlocks c.k) :
    joinBlock c x w q b = (runningPlus (decide (c.warpFmt = 8)) q.1 (segJoin c x w q.2 b), 0) := if_pos h

theorem joinBlock_of_not_end {b : Nat} (q : W32 × W32) (h : ¬ (b + 1 ∈ c.segTab ∨ b + 1 = kBlocks c.k)) :
    joinBlock c x w q b = (q.1, segJoin c x w q.2 b) := if_neg h

/-- Within a segment the running value stays. -/
theorem foldl_joinBlock_within {bs : List Nat} (h : ∀ b ∈ bs, ¬ (b + 1 ∈ c.segTab ∨ b + 1 = kBlocks c.k)) (v p : W32) :
    bs.foldl (joinBlock c x w) (v, p) = (v, bs.foldl (segJoin c x w) p) := by
  induction bs generalizing p with
  | nil => rfl
  | cons b bs ih =>
    rw [List.foldl_cons, joinBlock_of_not_end _ (h b List.mem_cons_self), ih fun d hd => h d (List.mem_cons_of_mem _ hd)]
    rfl

/-- A whole segment: its partial joins the running value, and the next one starts from 0. -/
theorem foldl_joinBlock_segment {a e : Nat} (hae : a < e) (he : e ∈ c.segTab ∨ e = kBlocks c.k)
    (hin : ∀ d, a < d → d < e → ¬ (d ∈ c.segTab ∨ d = kBlocks c.k)) (v : W32) :
    ((List.range e).drop a).foldl (joinBlock c x w) (v, 0) = (segPlus c x w v (a, e), 0) := by
  obtain ⟨n, rfl⟩ : ∃ n, e = a + n + 1 := ⟨e - a - 1, by omega⟩
  have hsplit : (List.range (a + n + 1)).drop a = List.range' a n ++ [a + n] := by
    rw [drop_range_eq_range', show a + n + 1 - a = n + 1 by omega, List.range'_1_concat]
  have hwithin : ∀ b ∈ List.range' a n, ¬ (b + 1 ∈ c.segTab ∨ b + 1 = kBlocks c.k) := fun b hb => by
    have := List.mem_range'_1.mp hb
    exact hin (b + 1) (by omega) (by omega)
  rw [segPlus, segPartial, hsplit, List.foldl_append, foldl_joinBlock_within hwithin, List.foldl_append]
  exact joinBlock_of_end _ he

/-- The K-blocks from the start of a segment on, with the starts of the segments after it: each segment's partial joins in turn. -/
theorem foldl_joinBlock_segments {a : Nat} {rest : List Nat} (hrise : (a :: rest).Pairwise (· < ·)) (hlt : ∀ d ∈ a :: rest, d < kBlocks c.k)
    (htab : ∀ d, a < d → (d ∈ c.segTab ↔ d ∈ rest)) (v : W32) :
    ((List.range (kBlocks c.k)).drop a).foldl (joinBlock c x w) (v, 0)
      = (((a :: rest).zip (rest ++ [kBlocks c.k])).foldl (segPlus c x w) v, 0) := by
  induction rest generalizing a v with
  | nil =>
    refine foldl_joinBlock_segment (hlt a List.mem_cons_self) (.inr rfl) (fun d had hd => ?_) v
    rintro (hmem | heq)
    · exact List.not_mem_nil ((htab d had).mp hmem)
    · omega
  | cons e rest ih =>
    obtain ⟨ha, hrest⟩ := List.pairwise_cons.mp hrise
    have hae : a < e := ha e List.mem_cons_self
    have hek : e < kBlocks c.k := hlt e (by simp)
    have hafter : ∀ d ∈ rest, e < d := (List.pairwise_cons.mp hrest).1
    have hsplit : (List.range (kBlocks c.k)).drop a = (List.range e).drop a ++ (List.range (kBlocks c.k)).drop e := by
      have hcut := @List.range'_append_1 a (e - a) (kBlocks c.k - e)
      rw [show a + (e - a) = e by omega, show e - a + (kBlocks c.k - e) = kBlocks c.k - a by omega] at hcut
      rw [drop_range_eq_range', drop_range_eq_range', drop_range_eq_range', hcut]
    have hfirst : ∀ d, a < d → d < e → ¬ (d ∈ c.segTab ∨ d = kBlocks c.k) := by
      rintro d had hde (hmem | heq)
      · obtain rfl | hd := List.mem_cons.mp ((htab d had).mp hmem)
        · omega
        · have := hafter d hd
          omega
      · omega
    have htab' : ∀ d, e < d → (d ∈ c.segTab ↔ d ∈ rest) := fun d hed => by
      rw [htab d (by omega), List.mem_cons, or_iff_right (by omega)]
    rw [hsplit, List.foldl_append, foldl_joinBlock_segment hae (.inl ((htab e hae).mpr List.mem_cons_self)) hfirst,
      ih hrest (fun d hd => hlt d (List.mem_cons_of_mem _ hd)) htab']
    rfl

theorem pairwise_lt_of_zip_drop {l : List Nat} (h : ∀ p ∈ l.zip (l.drop 1), p.1 < p.2) : l.Pairwise (· < ·) := by
  refine List.isChain_iff_pairwise.mp (List.isChain_iff_getElem.mpr fun i hi => ?_)
  refine h (l[i], l[i + 1]) (List.mem_iff_getElem.mpr ⟨i, by simp; omega, ?_⟩)
  simp

/-- A segment table in order starts at 0, rises, and stays below the number of K-blocks (Table 3-5). -/
theorem segOk_cases {l : List Nat} {kb : Nat} (h : segOk l kb = true) :
    ∃ rest, l = 0 :: rest ∧ l.Pairwise (· < ·) ∧ ∀ d ∈ l, d < kb := by
  simp only [segOk, Bool.and_eq_true, List.all_eq_true, decide_eq_true_eq] at h
  obtain ⟨⟨hhead, hrise⟩, hlt⟩ := h
  obtain ⟨rest, rfl⟩ := List.head?_eq_some_iff.mp hhead
  exact ⟨rest, rfl, pairwise_lt_of_zip_drop hrise, hlt⟩

/-- All K-blocks of an element, from a partial of 0: the value of R62's pseudocode. -/
theorem joined_all_eq_mmaValue (s : State) (tile m n : Nat) (hparts : r.parts = []) (hseg : segOk r.cmd.segTab (kBlocks r.cmd.k) = true) :
    (joined s tile r m n (List.range (kBlocks r.cmd.k))).1 = mmaValue s tile r m n := by
  obtain ⟨rest, htab, hrise, hlt⟩ := segOk_cases hseg
  rw [htab] at hrise hlt
  have hmem : ∀ d, 0 < d → (d ∈ r.cmd.segTab ↔ d ∈ rest) := fun d hd => by
    rw [htab, List.mem_cons, or_iff_right (by omega)]
  rw [joined, hparts, tget_nil, mmaValue_eq, ← List.drop_zero (l := List.range (kBlocks r.cmd.k)), foldl_joinBlock_segments hrise hlt hmem, htab]
  rfl

/-- An MMA of which no column had entered leaves R62's value, and with a K of 0 the initial one. -/
theorem joined_from_start (s : State) (tile m n : Nat) (hpos : r.pos = 0) (hparts : r.parts = [])
    (hk : r.cmd.k = 0 ∨ segOk r.cmd.segTab (kBlocks r.cmd.k) = true) :
    (joined s tile r m n ((List.range (kBlocks r.cmd.k)).drop (blocksIn r n))).1 =
      if r.cmd.k = 0 then tget 0 (getTile s tile).acc (accKey r.cmd.outId r.cmd.tgtB m n) else mmaValue s tile r m n := by
  rw [blocksIn_of_pos_zero n hpos, List.drop_zero]
  by_cases h0 : r.cmd.k = 0
  · rw [if_pos h0, h0]
    rfl
  · rw [if_neg h0, joined_all_eq_mmaValue s tile m n hparts (hk.resolve_left h0)]

/-! ## The step -/

theorem getTile_modStrand (s : State) (a : Issuer) (f : Strand → Strand) (k : Nat) :
    ∃ ss, getTile (modStrand s a f) k = { getTile s k with strands := ss } := by
  by_cases h : a.tile = k
  · exact ⟨_, by rw [modStrand, setStrand, getTile_modTile, if_pos h, h]⟩
  · exact ⟨_, by rw [modStrand, setStrand, getTile_modTile, if_neg h]⟩

theorem getStrand_modStrand_of_ne (s : State) {a b : Issuer} (f : Strand → Strand) (h : a ≠ b) : getStrand (modStrand s a f) b = getStrand s b := by
  rw [modStrand, getStrand_setStrand, if_neg h]

theorem getStrand_setTile (s : State) (tile : Nat) {t : Tile} (b : Issuer) (h : t.strands = (getTile s tile).strands) :
    getStrand (setTile s tile t) b = getStrand s b := by
  by_cases hb : tile = b.tile
  · rw [getStrand, getTile_setTile, if_pos hb, h, hb]
    rfl
  · rw [getStrand, getTile_setTile, if_neg hb]
    rfl

/-- The elements of a command's last rounding put into its tile's accumulators, and the command with its flags then. -/
def putLast (s : State) (tile : Nat) (r : MtxRun) : Tile × MtxRun := putElems r.cmd (getTile s tile) r (lastElems s tile (getTile s tile) r)

/-- A tile once a command has had its last rounding: the accumulators hold its elements, its readers are done, and it is no longer in flight. -/
def roundedTile (s : State) (tile num : Nat) (r : MtxRun) : Tile :=
  let t := (putLast s tile r).1
  settleHeld { t with
    board := (mtxSources tile r.cmd).foldl (fun b k => boardMod b k.1 k.2 (readerDone num)) t.board
    running := t.running.filter fun q => q.cmd.num != num }

@[simp] theorem roundedTile_acc (s : State) (tile num : Nat) (r : MtxRun) : (roundedTile s tile num r).acc = (putLast s tile r).1.acc := rfl
@[simp] theorem roundedTile_queue (s : State) (tile num : Nat) (r : MtxRun) : (roundedTile s tile num r).queue = (getTile s tile).queue := rfl
@[simp] theorem roundedTile_strands (s : State) (tile num : Nat) (r : MtxRun) : (roundedTile s tile num r).strands = (getTile s tile).strands := rfl
@[simp] theorem roundedTile_running (s : State) (tile num : Nat) (r : MtxRun) :
    (roundedTile s tile num r).running = (getTile s tile).running.filter fun q => q.cmd.num ≠ num := by
  simp only [ne_eq, decide_not]
  rfl

/-- A last rounding of unpoisoned operands: the tile is rounded, and the command's flags reach its strand. -/
theorem exec_matrixLastRounding {s : State} {tile num : Nat} (hd : s.svc.dark = false)
    (hf : ((getTile s tile).running.find? fun q => q.cmd.num = num) = some r) (hw : weftUnits s.variant r.cmd ≤ r.staged.length)
    (hp : mtxPoison s tile r.cmd = false) :
    exec (.matrixLastRounding tile num) s =
      .next (modStrand (setTile s tile (roundedTile s tile num r)) ⟨tile, r.cmd.strand⟩ (·.flag (putLast s tile r).2.flags)) := by
  change execMatrixLastRounding tile num s = _
  rw [execMatrixLastRounding, alive_light _ hd]
  simp only [hf, hp, if_neg (Nat.not_lt.mpr hw)]
  rfl

end

/-! ## The obligation -/

/-- Settles O20: the accumulators after the step are those into which the command's elements were put. A FOLD's element is one addition; an
MMA's is the fold of its remaining K-blocks, which the segments cut into R62's partials. -/
theorem lastRounding : Obligations.LastRounding := by
  rintro s tile r _ hd rfl hw - hN hf hp
  obtain ⟨ss, htile⟩ := getTile_modStrand (setTile s tile (roundedTile s tile r.cmd.num r)) ⟨tile, r.cmd.strand⟩ (·.flag (putLast s tile r).2.flags) tile
  rw [getTile_setTile, if_pos rfl] at htile
  have hmma : ∀ m n, r.cmd.op = 0 → m < lastRows r.cmd → n < r.cmd.n →
      tget 0 (putLast s tile r).1.acc (accKey r.cmd.outId r.cmd.tgtB m n) =
        (joined s tile r m n ((List.range (kBlocks r.cmd.k)).drop (blocksIn r n))).1 := fun m n hop hm hn => by
    rw [putLast, putElems_lastElems_acc hN hm hn, lastElem_mma s tile m n (by omega)]
  refine ⟨_, exec_matrixLastRounding hd hf hw hp, rfl, rfl, ?_⟩
  simp only [htile, roundedTile_acc, roundedTile_running, roundedTile_queue]
  refine ⟨trivial, trivial, fun k hk => putElems_lastElems_acc_other hk, fun hop m n hm hn => hmma m n hop hm hn,
    fun hop hpos hparts hseg m n hm hn => ?_, fun hop m n hm hn => ?_, fun b hb => ?_⟩
  · rw [hmma m n hop hm hn, joined_from_start s tile m n hpos hparts hseg]
  · rw [putLast, putElems_lastElems_acc hN (by simpa [lastRows, hop] using hm) hn, lastElem_fold s tile m n hop]
  · have hne : (⟨tile, r.cmd.strand⟩ : Issuer) ≠ b := by
      rintro rfl
      simp at hb
    rw [getStrand_modStrand_of_ne _ _ hne, getStrand_setTile s tile b (roundedTile_strands s tile r.cmd.num r)]

end Sys2Proof.Machine
end

section
/-! SUPPORT. What a drain writes (R86, R101, R103, R128): the bytes of its elements, the bytes that its landing puts into memory, and the
scoreboard entries of its blocks after it. With it the obligation about drains is settled. -/
namespace Sys2Proof.Machine
open Sys2Proof

/-! ## Bytes that go into memory one by one -/

/-- Memory after the stores of bytes, in order. -/
def storeBytes (m : List Host.Cell) (ws : List (Nat × Byte)) : List Host.Cell := ws.foldl (fun m w => memSet m w.1 w.2) m

theorem storesTo_storeBytes (m : List Host.Cell) (ws : List (Nat × Byte)) : storesTo m (storeBytes m ws) ws := by
  induction ws using List.reverseRecOn with
  | nil => exact fun _ => rfl
  | append_singleton ws w ih =>
    intro b
    have hlast : storeBytes m (ws ++ [w]) = memSet (storeBytes m ws) w.1 w.2 := List.foldl_append
    rw [hlast, List.reverse_append]
    by_cases h : w.1 = b
    · simp [h]
    · simpa [h] using ih b

theorem foldl_wrN_byte (s : State) (ws : List (Nat × Byte)) :
    ws.foldl (fun s w => wrN s w.1 [w.2]) s = { s with mem := storeBytes s.mem ws } := by
  induction ws generalizing s with
  | nil => rfl
  | cons w ws ih => exact ih (wrN s w.1 [w.2])

theorem Landing.stores_setTile (w : Landing) (s : State) (k tile : Nat) (x : Tile) : w.stores (setTile s k x) tile = w.stores s tile := rfl

/-- Whether a write is blocked rests on the module's variant and its memory errors alone. -/
theorem writeBlocked_congr {s u : State} (hv : u.variant = s.variant) (hf : u.faults = s.faults) (a n : Nat) :
    writeBlocked u a n = writeBlocked s a n := by
  rw [writeBlocked, writeBlocked, hv, hf]
  cases place s.variant a <;> simp only [tsPoison, hf]

theorem writeBlocked_setTile (s : State) (k : Nat) (x : Tile) (a n : Nat) : writeBlocked (setTile s k x) a n = writeBlocked s a n :=
  writeBlocked_congr (setTile_variant s k x) (setTile_faults s k x) a n

/-- A drain's write that meets no POISONED group changes memory alone. -/
theorem landWrite_unblocked {s : State} {tile : Nat} {w : Landing} (h : ∀ ob ∈ w.stores s tile, writeBlocked s ob.1 1 = false) :
    landWrite s tile w = { s with mem := storeBytes s.mem (w.stores s tile) } := by
  have hany : ((w.stores s tile).any fun ob => writeBlocked s ob.1 1) = false := by simpa using h
  rw [landWrite, hany, ← foldl_wrN_byte]
  exact if_neg Bool.false_ne_true

/-! ## Entries of the scoreboard (Table 3-7) -/

section
variable {b : List SbEntry} {off len : Nat} {e : SbEntry}

/-- A change of entries that keeps the blocks they name changes the entry found. -/
theorem boardFind_map {f : SbEntry → SbEntry} (hf : ∀ x, (f x).off = x.off ∧ (f x).len = x.len) :
    boardFind (b.map f) off len = (boardFind b off len).map f := by
  have hp : ((fun x : SbEntry => decide (x.off = off) && decide (x.len = len)) ∘ f) = fun x => decide (x.off = off) && decide (x.len = len) := by
    funext x
    simp [hf x]
  rw [boardFind, List.find?_map, hp, boardFind]

theorem boardFind_names (h : boardFind b off len = some e) : e.off = off ∧ e.len = len := by
  simpa using List.find?_some h

section
variable {f : SbEntry → SbEntry} (hf : ∀ x, (f x).off = x.off ∧ (f x).len = x.len)
include hf

theorem boardFind_boardMod (o l : Nat) :
    boardFind (boardMod b o l f) off len = (boardFind b off len).map fun x => if x.off = o && x.len = l then f x else x := by
  refine boardFind_map fun x => ?_
  split
  · exact hf x
  · exact ⟨rfl, rfl⟩

theorem boardFind_boardMod_same (h : boardFind b off len = some e) : boardFind (boardMod b off len f) off len = some (f e) := by
  simp [boardFind_boardMod hf, h, boardFind_names h]

theorem boardFind_boardMod_other {o l : Nat} (h : boardFind b off len = some e) (hne : (o, l) ≠ (off, len)) :
    boardFind (boardMod b o l f) off len = some e := by
  have : ¬ (off = o ∧ len = l) := fun ⟨ho, hl⟩ => hne (by rw [ho, hl])
  simp [boardFind_boardMod hf, h, boardFind_names h, this]

/-- The entries of blocks other than those changed stay. -/
theorem boardFind_foldl_boardMod_other {ks : List (Nat × Nat)} (hk : (off, len) ∉ ks) (h : boardFind b off len = some e) :
    boardFind (ks.foldl (fun b k => boardMod b k.1 k.2 f) b) off len = some e := by
  induction ks generalizing b with
  | nil => exact h
  | cons k ks ih =>
    obtain ⟨hne, hks⟩ := not_or.mp (mt List.mem_cons.mpr hk)
    exact ih hks (boardFind_boardMod_other hf h (Ne.symm hne))

/-- Each of several distinct blocks has its entry changed once. -/
theorem boardFind_foldl_boardMod {ks : List (Nat × Nat)} (hnd : ks.Nodup) (hk : (off, len) ∈ ks) (h : boardFind b off len = some e) :
    boardFind (ks.foldl (fun b k => boardMod b k.1 k.2 f) b) off len = some (f e) := by
  induction ks generalizing b with
  | nil => exact absurd hk List.not_mem_nil
  | cons k ks ih =>
    obtain ⟨hkn, hnd⟩ := List.nodup_cons.mp hnd
    rw [List.foldl_cons]
    obtain rfl | hk := List.mem_cons.mp hk
    · exact boardFind_foldl_boardMod_other hf hkn (boardFind_boardMod_same hf h)
    · exact ih hnd hk (boardFind_boardMod_other hf h fun heq => hkn (by rwa [← heq] at hk))

end

/-- An entry as settleHeld leaves it: READY and HELD may change places, and nothing else changes. -/
theorem boardFind_settleHeld {t : Tile} (h : boardFind t.board off len = some e) :
    ∃ e', boardFind (settleHeld t).board off len = some e' ∧ e'.writers = e.writers ∧ e'.readers = e.readers ∧
      (e.st = .pending → e'.st = .pending) ∧ (e.st = .ready → e'.st = .ready ∨ e'.st = .held) := by
  rw [settleHeld, boardFind_map, h]
  · refine ⟨_, rfl, ?_⟩
    dsimp only
    split
    · next hwaits => exact ⟨rfl, rfl, fun hp => by simp [hp] at hwaits, fun _ => .inr rfl⟩
    · split
      · next hfreed => exact ⟨rfl, rfl, fun hp => by simp [hp] at hfreed, fun _ => .inl rfl⟩
      · exact ⟨rfl, rfl, id, .inl⟩
  · intro x
    dsimp only
    split_ifs <;> exact ⟨rfl, rfl⟩

theorem writeLands_names (num : Nat) (x : SbEntry) : (writeLands num x).off = x.off ∧ (writeLands num x).len = x.len := ⟨rfl, rfl⟩

theorem writeLands_st (num : Nat) (x : SbEntry) : (writeLands num x).st = if x.writers ≤ 1 then .ready else .pending := by
  simp [writeLands, Nat.sub_eq_zero_iff_le]

end

/-! ## The landing of a drain's write -/

section
variable {s : State} {tile num : Nat} {w : Landing}

/-- A tile from which the write of a drain has gone: it is no longer to land, and its blocks have a write less to come. -/
def landedTile (t : Tile) (num : Nat) (w : Landing) : Tile :=
  { t with
    landing := t.landing.filter fun q => q.num != num
    board := w.blocks.foldl (fun b k => boardMod b k.1 k.2 (writeLands num)) t.board }

theorem landedTile_landing (t : Tile) : (landedTile t num w).landing = t.landing.filter fun q => q.num ≠ num := by
  simp only [ne_eq, decide_not]
  rfl

/-- A block that the drain wrote has one write less to come, and is READY or HELD with the last of them. -/
theorem boardFind_settled_landedTile {t : Tile} {off len : Nat} {e : SbEntry} (hnd : w.blocks.Nodup) (hk : (off, len) ∈ w.blocks)
    (h : boardFind t.board off len = some e) :
    ∃ e', boardFind (settleHeld (landedTile t num w)).board off len = some e' ∧ e'.writers = e.writers - 1 ∧ e'.readers = e.readers ∧
      (if e.writers ≤ 1 then e'.st = .ready ∨ e'.st = .held else e'.st = .pending) := by
  have hboard : boardFind (landedTile t num w).board off len = some (writeLands num e) :=
    boardFind_foldl_boardMod (writeLands_names num) hnd hk h
  obtain ⟨e', hfind, hwriters, hreaders, hpending, hready⟩ := boardFind_settleHeld hboard
  refine ⟨e', hfind, hwriters, hreaders, ?_⟩
  rw [writeLands_st] at hpending hready
  split
  · next hle => exact hready (if_pos hle)
  · next hle => exact hpending (if_neg hle)

/-- A tile and its strand once the write of a drain has landed. -/
def landedUnits (s : State) (tile num : Nat) (w : Landing) : State :=
  modStrand (setTile s tile (settleHeld (landedTile (getTile s tile) num w))) ⟨tile, w.strand⟩ (·.flag w.flags)

/-- A write whose turn has come, that no publication holds and that meets no POISONED group. -/
theorem exec_scoreboardWriteLands (hd : s.svc.dark = false) (hf : ((getTile s tile).landing.find? fun q => q.num = num) = some w)
    (hr : landingReady (getTile s tile) w = true) (hc : ∀ b ∈ w.blocks, uncopied s (tileAddr tile b.1) b.2 = none)
    (hb : ∀ ob ∈ w.stores s tile, writeBlocked s ob.1 1 = false) :
    exec (.scoreboardWriteLands tile num) s =
      .next { landedUnits s tile num w with mem := storeBytes s.mem (w.stores s tile) } := by
  have hcopy : (w.blocks.findSome? fun b => uncopied s (tileAddr tile b.1) b.2) = none := List.findSome?_eq_none_iff.mpr hc
  have hany : ((w.stores s tile).any fun ob => writeBlocked s ob.1 1) = false := by simpa using hb
  have hland (x : Tile) : landWrite (setTile s tile x) tile w = { setTile s tile x with mem := storeBytes s.mem (w.stores s tile) } := by
    rw [landWrite_unblocked (by simpa only [Landing.stores_setTile, writeBlocked_setTile] using hb), Landing.stores_setTile, setTile_mem]
  change execScoreboardWriteLands tile num s = _
  rw [execScoreboardWriteLands, alive_light _ hd]
  simp only [hf, hr, hcopy, hany, hland, Bool.not_true, Bool.false_eq_true, if_false]
  rfl

theorem getTile_landedUnits : ∃ ss, getTile (landedUnits s tile num w) tile = { settleHeld (landedTile (getTile s tile) num w) with strands := ss } := by
  obtain ⟨ss, h⟩ := getTile_modStrand (setTile s tile (settleHeld (landedTile (getTile s tile) num w))) ⟨tile, w.strand⟩ (·.flag w.flags) tile
  rw [getTile_setTile, if_pos rfl] at h
  exact ⟨ss, h⟩

theorem getStrand_landedUnits (b : Issuer) :
    getStrand (landedUnits s tile num w) b = if ⟨tile, w.strand⟩ = b then (getStrand s b).flag w.flags else getStrand s b := by
  have hset (b : Issuer) := getStrand_setTile s tile (t := settleHeld (landedTile (getTile s tile) num w)) b rfl
  rw [landedUnits, modStrand, getStrand_setStrand, hset, hset]
  split
  · next h => rw [h]
  · rfl

end

theorem drainLands : DrainLands := by
  intro s tile num w hd hf _ hr hc hb
  obtain ⟨ss, htile⟩ := getTile_landedUnits (s := s) (tile := tile) (num := num) (w := w)
  refine ⟨_, exec_scoreboardWriteLands hd hf hr hc hb, storesTo_storeBytes _ _, ?_, ?_, fun b hne => ?_, rfl, fun hnd b e hk he => ?_⟩
  · exact (congrArg Tile.landing htile).trans (landedTile_landing (w := w) _)
  · exact (getStrand_landedUnits _).trans (if_pos rfl)
  · exact (getStrand_landedUnits b).trans (if_neg hne.symm)
  · obtain ⟨e', hfind, hafter⟩ := boardFind_settled_landedTile (num := num) hnd hk he
    exact ⟨e', (congrArg (boardFind ·.board b.1 b.2) htile).trans hfind, hafter⟩

/-! ## The bytes of a drain -/

theorem toLe_eq_map (n v : Nat) : toLe n v = (List.range n).map fun i => BitVec.ofNat 8 (v / 256 ^ i) := by
  induction n generalizing v with
  | zero => rfl
  | succ n ih =>
    rw [toLe, ih, List.range_succ_eq_map, List.map_cons, List.map_map]
    simp [Function.comp_def, Nat.pow_succ', Nat.div_div_eq_div_mul]

theorem zip_toLe (n v : Nat) : (toLe n v).zip (List.range n) = (List.range n).map fun i => (BitVec.ofNat 8 (v / 256 ^ i), i) := by
  rw [toLe_eq_map, ← List.zip_map', List.map_id']

/-- The place of an element of a format of whole bytes: tile blocks of 32 × 32, row by row (R101). -/
theorem tiledAt_fst_of_ne {fmt : Nat} (h : fmt ≠ 7) (cols i j : Nat) :
    (tiledAt fmt cols i j).1 = ((i / 32 * ((cols + 31) / 32) + j / 32) * 1024 + i % 32 * 32 + j % 32) * fmtBytes fmt := by
  have hcols : cols + 32 - 1 = cols + 31 := rfl
  simp only [tiledAt, blockCols, blockBytes, if_neg h, hcols]
  ring

/-- Accumulated lists beside accumulated flags are the lists joined. -/
theorem foldl_append_or_fst {α β : Type} (f : α → List β) (g : α → AFlags) (l : List α) :
    (l.foldl (fun acc x => (acc.1 ++ f x, acc.2 ||| g x)) (([] : List β), (0 : AFlags))).1 = l.flatMap f := by
  rw [List.flatMap_eq_foldl]
  exact (List.foldl_hom Prod.fst fun _ _ => rfl).symm

section
variable (seed : W64) (t : Tile) (c : MtxCmd)

/-- The bits of element (m, n) of a drain. -/
def drainBits (m n : Nat) : Nat :=
  (drainElem c.accInt c (modeOf c.rnd (mtxDraw seed c m n)) (tget 0 t.acc (accKey c.outId c.tgtB m n))).1

/-- A byte of a drained element: its place in the tile's store and its value. -/
def drainByte (m n i : Nat) : Nat × Byte :=
  (c.blkOff + (tiledAt c.dstFmt c.n m n).1 + i, BitVec.ofNat 8 (drainBits seed t c m n / 256 ^ i))

variable {c}

/-- A row drained to a format without a shared scale: the bytes of its elements, in order. -/
theorem drainRow_fst (h : isMx c.dstFmt = false) (m : Nat) :
    (drainRow seed t c m).1 = (List.range c.n).flatMap fun n => (List.range (fmtBytes c.dstFmt)).map (drainByte seed t c m n) := by
  rw [drainRow, h]
  refine (foldl_append_or_fst _ _ _).trans (List.flatMap_congr fun n _ => ?_)
  dsimp only
  rw [toLe_length, zip_toLe, List.map_map]
  rfl

theorem drainByte_mem_drainLanding (h : isMx c.dstFmt = false) {m n i : Nat} (hm : m < c.m) (hn : n < c.n) (hi : i < fmtBytes c.dstFmt) :
    drainByte seed t c m n i ∈ (drainLanding seed t c).bytes := by
  refine List.mem_flatMap.mpr ⟨drainRow seed t c m, List.mem_map_of_mem (List.mem_range.mpr hm), ?_⟩
  rw [drainRow_fst seed t h]
  exact List.mem_flatMap.mpr ⟨n, List.mem_range.mpr hn, List.mem_map_of_mem (List.mem_range.mpr hi)⟩

end

theorem drainElem_fst (isInt : Bool) (c : MtxCmd) (md : RMode) (v : W32) :
    (drainElem isInt c md v).1 =
      if isInt = true then if c.dstFmt = 9 then v.toNat else (encode c.dstFmt md c.sat (ofInt v.toInt 0 false)).1
      else if c.dstFmt = 0 then (canonNan v).toNat else (encode c.dstFmt md c.sat (f32Val v)).1 := by
  rw [drainElem]
  split_ifs <;> rfl

theorem drainedValues : DrainedValues := by
  intro seed t c m n i _ hfmt hm hn hi
  have hcode : c.dstFmt ∈ [0, 1, 2, 3, 4, 9] := by
    split at hfmt
    · exact hfmt
    · exact List.mem_append_left [9] hfmt
  have hmx : isMx c.dstFmt = false := (by decide : ∀ fmt ∈ [0, 1, 2, 3, 4, 9], isMx fmt = false) _ hcode
  have h7 : c.dstFmt ≠ 7 := (by decide : ∀ fmt ∈ [0, 1, 2, 3, 4, 9], fmt ≠ 7) _ hcode
  have hmem := drainByte_mem_drainLanding seed t hmx hm hn hi
  rw [drainByte, drainBits, drainElem_fst, tiledAt_fst_of_ne h7, mtxDraw] at hmem
  exact hmem

/-! ## The obligation -/

/-- Settles O19: the step puts the landing's stores into memory one by one and takes one write from each block's entry; the bytes of the
landing are those of the drained elements, row by row. -/
theorem drains : Obligations.Drains := ⟨drainLands, drainedValues⟩

end Sys2Proof.Machine
end

section
/-! SUPPORT. Instructions over the registers of their own strand (Table 4-11): scalar integers, scalar FP32, immediates and branches. With it
the obligations about the scalar classes and about branches are settled. -/
namespace Sys2Proof.Machine
open Sys2Proof

/-! ## An instruction over its own strand -/

/-- An instruction whose meaning is issueReg of its word, with a check that holds of fields in order. -/
theorem regOp_of_issueReg {F : Type} {c : Issuer → F → Instr} {word : F → W64} {ok chk : F → Bool} {z : Loom → Strand → F → Strand}
    {k : State → F → Nat → Strand → Except Byte Strand}
    (hexec : ∀ a f s, exec (c a f) s = .next (issueReg s a (word f) (chk f) (k s f))) (hlist : ∀ f, listed (word f) = true)
    (hok : ∀ f, ok f = true → chk f = true) (hk : ∀ s f l y, k s f l y = .ok (z (getLoom s l) y f)) : RegOp c word ok z := by
  intro s a l f hi hf
  rw [hexec, issueReg_at _ hi (hlist f) (hok f hf) (hk s f l _)]

section
variable {c : Issuer → FmtR → Instr} {op : Nat}

theorem scalarFields_two {f : FmtR} (h : scalarFields 2 f = true) : (plainR f && isS f.rd && isS f.ra && isS f.rb) = true := by
  simp only [scalarFields, plainR, isS, Bool.and_eq_true] at h ⊢
  simpa using h

theorem scalarFields_three {f : FmtR} (h : scalarFields 3 f = true) : (plainR f && isS f.rd && isS f.ra && isS f.rb && isS f.rc) = true := by
  simp only [scalarFields, plainR, isS, Bool.and_eq_true] at h ⊢
  simpa using h

/-- A listed scalar operation of two sources whose function is v. -/
theorem regOp_salu2 (g : W64 → W64 → W64) {v : W64 → W64 → W64} (hx : ∀ a f s, exec (c a f) s = salu2 op g a f s) (hop : (listedOps 0).contains op = true)
    (ho : op < 64) (hv : ∀ x y, g x y = v x y) : RegOp c (wordR 0 op) (scalarFields 2) (scalar2 v) :=
  regOp_of_issueReg hx (fun f => (listed_wordR 0 op f (by decide) ho).trans hop) (fun _ => scalarFields_two)
    fun _ _ _ _ => by rw [scalar2, hv]

/-- A listed scalar FP32 operation whose value and flags are those of v over ins. -/
theorem regOp_saluF {ok : FmtR → Bool} {chk : FmtR → Bool} {g : FmtR → Strand → W32 × AFlags} {ins : Strand → FmtR → List W32}
    {v : Strand → FmtR → W32} (hx : ∀ a f s, exec (c a f) s = saluF op (chk f) (g f) a f s) (hop : (listedOps 0).contains op = true)
    (ho : op < 64) (hok : ∀ f, ok f = true → (plainR f && isS f.rd && isS f.ra && isS f.rb && chk f && f.rnd = 0) = true)
    (hg : ∀ f y, g f y = (v y f, invFlag (ins y f) (v y f))) : RegOp c (wordR 0 op) ok (scalarF ins v) :=
  regOp_of_issueReg hx (fun f => (listed_wordR 0 op f (by decide) ho).trans hop) hok fun _ _ _ _ => by rw [hg]; rfl

end

/-! ## The scalar integer operations -/

theorem ofInt_toInt_add (x y : W64) : x + y = BitVec.ofInt 64 (x.toInt + y.toInt) := by
  rw [BitVec.ofInt_add, BitVec.ofInt_toInt, BitVec.ofInt_toInt]

theorem ofInt_toInt_sub {w : Nat} (x y : BitVec w) : x - y = BitVec.ofInt w (x.toInt - y.toInt) := by
  apply BitVec.eq_of_toInt_eq
  rw [BitVec.toInt_sub, BitVec.toInt_ofInt]

theorem shamt_eq (b : W64) : shamt b = b.toNat % 64 := by
  rw [shamt, BitVec.toNat_and]
  exact Nat.and_two_pow_sub_one_eq_mod b.toNat 6

theorem boolWord_eq (b : Bool) : boolWord b = if b = true then 1 else 0 := rfl

theorem slt_iff {w : Nat} (x y : BitVec w) : x.slt y = true ↔ x.toInt < y.toInt := by simp [BitVec.slt]

theorem scalarMin_eq (x y : W64) : (if x.slt y then x else y) = if x.toInt ≤ y.toInt then x else y := by
  simp only [slt_iff]
  split_ifs with h1 h2 h3
  · rfl
  · omega
  · exact (BitVec.eq_of_toInt_eq (by omega)).symm
  · rfl

theorem scalarMax_eq (x y : W64) : (if x.slt y then y else x) = if x.toInt ≤ y.toInt then y else x := by
  simp only [slt_iff]
  split_ifs with h1 h2 h3
  · rfl
  · omega
  · exact BitVec.eq_of_toInt_eq (by omega)
  · rfl

theorem regOp_sel : RegOp .sel (wordR 0 0x13) (scalarFields 3) (fun _ y f =>
    (y.sput f.rd.toNat (if y.sget f.rc.toNat = 0 then y.sget f.rb.toNat else y.sget f.ra.toNat)).next) :=
  regOp_of_issueReg (fun _ _ _ => rfl) (fun f => listed_wordR 0 0x13 f (by decide) (by decide)) (fun _ => scalarFields_three)
    fun _ f _ y => by simp only [ne_eq, ite_not]

theorem saluInteger : SaluInteger := by
  refine ⟨regOp_salu2 (· + ·) (fun _ _ _ => rfl) rfl (by decide) ?add, regOp_salu2 (· - ·) (fun _ _ _ => rfl) rfl (by decide) ?sub,
    regOp_salu2 (· * ·) (fun _ _ _ => rfl) rfl (by decide) ?mul, regOp_salu2 mulhWord (fun _ _ _ => rfl) rfl (by decide) ?mulh,
    regOp_salu2 (· &&& ·) (fun _ _ _ => rfl) rfl (by decide) ?and, regOp_salu2 (· ||| ·) (fun _ _ _ => rfl) rfl (by decide) ?or,
    regOp_salu2 (· ^^^ ·) (fun _ _ _ => rfl) rfl (by decide) ?xor,
    regOp_salu2 (fun x y => x <<< shamt y) (fun _ _ _ => rfl) rfl (by decide) ?shl,
    regOp_salu2 (fun x y => x >>> shamt y) (fun _ _ _ => rfl) rfl (by decide) ?shr,
    regOp_salu2 (fun x y => x.sshiftRight (shamt y)) (fun _ _ _ => rfl) rfl (by decide) ?sra,
    regOp_salu2 (fun x y => if x.slt y then x else y) (fun _ _ _ => rfl) rfl (by decide) ?min,
    regOp_salu2 (fun x y => if x.slt y then y else x) (fun _ _ _ => rfl) rfl (by decide) ?max,
    regOp_salu2 (fun x y => boolWord (x == y)) (fun _ _ _ => rfl) rfl (by decide) ?eq,
    regOp_salu2 (fun x y => boolWord (x.slt y)) (fun _ _ _ => rfl) rfl (by decide) ?lt,
    regOp_salu2 (fun x y => boolWord (x.ult y)) (fun _ _ _ => rfl) rfl (by decide) ?ltu, regOp_sel⟩
  case add => exact BitVec.add_def
  case sub => exact ofInt_toInt_sub
  case mul => exact fun _ _ => BitVec.mul_def
  case mulh | and | or | xor => exact fun _ _ => rfl
  case shl | shr | sra => exact fun x y => by rw [shamt_eq]
  case min => exact scalarMin_eq
  case max => exact scalarMax_eq
  case eq => exact fun x y => by simp [boolWord_eq]
  case lt => exact fun x y => by simp [boolWord_eq, slt_iff]
  case ltu => exact fun x y => by simp [boolWord_eq, BitVec.ult]
/-! ## The scalar FP32 operations -/

theorem saluFloat : SaluFloat := by
  refine ⟨regOp_saluF (fun _ _ _ => rfl) rfl (by decide) (fun f h => ?_) fun _ _ => rfl,
    regOp_saluF (fun _ _ _ => rfl) rfl (by decide) (fun f h => ?_) fun _ _ => rfl,
    regOp_saluF (fun _ _ _ => rfl) rfl (by decide) (fun f h => ?_) fun _ _ => rfl⟩
  all_goals obtain ⟨hf, hr⟩ := (Bool.and_eq_true _ _).mp h
  · simpa [scalarFields_two hf] using hr
  · simpa [scalarFields_two hf] using hr
  · simpa [scalarFields_three hf] using hr

/-! ## The immediates -/

section
variable {c : Issuer → FmtI → Instr} {op : Nat}

theorem immFields_check {f : FmtI} (h : immFields f = true) : (plainI f && isS f.rd && isS f.ra) = true := h

/-- A listed immediate operation whose function is v. -/
theorem regOp_simm (g : W64 → W32 → W64) {v : W64 → W32 → W64} (hx : ∀ a f s, exec (c a f) s = simm op g a f s) (hop : (listedOps 1).contains op = true)
    (ho : op < 64) (hv : ∀ x i, g x i = v x i) : RegOp c (wordI 1 op) immFields (imm2 v) :=
  regOp_of_issueReg hx (fun f => (listed_wordI 1 op f (by decide) ho).trans hop) (fun _ => immFields_check)
    fun _ _ _ _ => by rw [imm2, hv]

end

theorem immFields_rd {f : FmtI} (h : immFields f = true) : (plainI f && isS f.rd) = true :=
  ((Bool.and_eq_true _ _).mp (immFields_check h)).1

theorem shamt_setWidth (i : W32) : shamt (i.setWidth 64) = i.toNat % 64 := by
  rw [shamt_eq, BitVec.toNat_setWidth]
  omega

/-- LUI: IMM over the low word. -/
theorem append_lowWord (i : W32) (x : W64) : i ++ x.setWidth 32 = BitVec.ofNat 64 (i.toNat * 2 ^ 32 + x.toNat % 2 ^ 32) := by
  apply BitVec.eq_of_toNat_eq
  have hi := i.isLt
  rw [BitVec.toNat_append, BitVec.toNat_setWidth, BitVec.toNat_ofNat, ← Nat.shiftLeft_add_eq_or_of_lt (Nat.mod_lt _ (by decide)), Nat.shiftLeft_eq]
  omega

theorem scalarImmediate : ScalarImmediate := by
  refine ⟨regOp_simm (fun x i => x + i.signExtend 64) (fun _ _ _ => rfl) rfl (by decide) ?addi,
    regOp_simm (fun x i => x &&& i.setWidth 64) (fun _ _ _ => rfl) rfl (by decide) ?andi,
    regOp_simm (fun x i => x ||| i.setWidth 64) (fun _ _ _ => rfl) rfl (by decide) ?ori,
    regOp_simm (fun x i => x ^^^ i.setWidth 64) (fun _ _ _ => rfl) rfl (by decide) ?xori,
    regOp_simm (fun x i => x <<< shamt (i.setWidth 64)) (fun _ _ _ => rfl) rfl (by decide) ?shli,
    regOp_simm (fun x i => x >>> shamt (i.setWidth 64)) (fun _ _ _ => rfl) rfl (by decide) ?shri, ?lui, ?li⟩
  case addi => exact fun x i => by rw [ofInt_toInt_add, BitVec.toInt_signExtend_of_le (by decide)]
  case andi | ori | xori => exact fun _ _ => rfl
  case shli | shri => exact fun x i => by rw [shamt_setWidth]
  case lui =>
    exact regOp_of_issueReg (fun _ _ _ => rfl) (fun f => listed_wordI 1 6 f (by decide) (by decide)) (fun _ => immFields_rd)
      fun _ f _ y => by rw [append_lowWord]
  case li =>
    exact regOp_of_issueReg (fun _ _ _ => rfl) (fun f => listed_wordI 1 7 f (by decide) (by decide)) (fun _ => immFields_rd)
      fun _ _ _ _ => by rw [imm2, BitVec.signExtend]

/-- Settles O2: each instruction's meaning is issueReg with the function of Table 4-11, which is the statement's. -/
theorem scalarInstructions : Obligations.ScalarInstructions := ⟨saluInteger, saluFloat, scalarImmediate⟩

/-! ## Branches -/

section
variable {c : Issuer → FmtB → Instr} {op : Nat} {cond : Strand → FmtB → Prop} {z : Strand → FmtB → Strand}

theorem target_inside {x : Loom} {y : Strand} {f : FmtB} (h : 0 ≤ (y.pc.toNat : Int) + f.off.toInt ∧ (y.pc.toNat : Int) + f.off.toInt < x.program.length) :
    target x y f = some (BitVec.ofInt 15 ((y.pc.toNat : Int) + f.off.toInt)) := by
  simp [target, h]

theorem target_outside {x : Loom} {y : Strand} {f : FmtB} (h : ¬ (0 ≤ (y.pc.toNat : Int) + f.off.toInt ∧ (y.pc.toNat : Int) + f.off.toInt < x.program.length)) :
    target x y f = none := by
  simpa [target] using h

/-- An instruction over its own strand that faults with a status. -/
theorem issueReg_fault {s : State} {a : Issuer} {l : Nat} {w : W64} {ok : Bool} (k : Nat → Strand → Except Byte Strand) {st : Byte}
    (h : Issues s a l w) (hw : listed w = true) (hok : ok = true) (hk : k l (getStrand s a) = .error st) :
    issueReg s a w ok k = insnFault s l a st w := by
  simp [issueReg, issue_at _ h hw, hok, hk]

/-- A listed branch: what takes it and what it writes. -/
theorem branchOp_branch {taken : FmtB → Strand → Bool} {g : FmtB → Strand → Strand}
    (hx : ∀ a f s, exec (c a f) s = branch op (taken f) (g f) a f s) (hop : (listedOps 2).contains op = true) (ho : op < 64)
    (htaken : ∀ f y, taken f y = true ↔ cond y f) (hz : ∀ f y, g f y = z y f) : BranchOp c op cond z := by
  intro s a l f hi hf y dest
  have hw : listed (wordB 2 op f) = true := (listed_wordB 2 op f (by decide) ho).trans hop
  have hp : plainB f = true := hf
  refine ⟨fun hc => ?_, fun hc hd => ?_, fun hc hd => ?_⟩
  · have hnot : taken f y = false := Bool.eq_false_iff.mpr (mt (htaken f y).mp hc)
    rw [hx, branch, issueReg_at _ hi hw hp (z := (z y f).next)]
    simp [y, hnot, ← hz]
  · have hyes := (htaken f y).mpr hc
    rw [hx, branch, issueReg_at _ hi hw hp (z := { z y f with pc := BitVec.ofInt 15 dest })]
    simp [y, hyes, ← hz, target_inside hd, dest]
  · have hyes := (htaken f y).mpr hc
    rw [hx, branch, issueReg_fault _ hi hw hp (st := stBad)]
    simp [y, hyes, target_outside hd]

end

theorem pc_succ_setWidth (pc : BitVec 15) : pc.setWidth 64 + 1 = BitVec.ofNat 64 (pc.toNat + 1) := by
  apply BitVec.eq_of_toNat_eq
  have := pc.isLt
  simp [BitVec.toNat_add]

/-- LOOP is taken when its count has not come to 0; s0 reads 0 after its write. -/
theorem loop_taken_iff (f : FmtB) (y : Strand) :
    ((y.sput f.rs.toNat (y.sget f.rs.toNat - 1)).sget f.rs.toNat != 0) = true ↔ f.rs ≠ 0 ∧ y.sget f.rs.toNat ≠ 1 := by
  have h0 : f.rs.toNat = 0 ↔ f.rs = 0 := ⟨fun h => BitVec.eq_of_toNat_eq h, fun h => by rw [h]; rfl⟩
  rw [Strand.sget_sput]
  by_cases hr : f.rs = 0
  · simp [hr]
  · have hsub : y.sget f.rs.toNat - 1 = 0 ↔ y.sget f.rs.toNat = 1 := sub_eq_zero
    rw [if_pos ⟨rfl, mt h0.mp hr⟩, bne_iff_ne, ne_eq, hsub]
    exact (and_iff_right hr).symm

/-- Settles O3: a branch is issueReg whose strand goes on, or to its target, or faults for a target outside the image. -/
theorem branches : Obligations.Branches := by
  refine ⟨branchOp_branch (fun _ _ _ => rfl) rfl (by decide) (by simp) fun _ _ => rfl,
    branchOp_branch (fun _ _ _ => rfl) rfl (by decide) (by simp) fun _ _ => rfl,
    branchOp_branch (fun _ _ _ => rfl) rfl (by decide) (by simp) fun _ _ => rfl,
    branchOp_branch (fun _ _ _ => rfl) rfl (by decide) (fun f y => slt_iff _ _) fun _ _ => rfl,
    branchOp_branch (fun _ _ _ => rfl) rfl (by decide) (by simp) fun _ _ => by rw [pc_succ_setWidth],
    branchOp_branch (fun _ _ _ => rfl) rfl (by decide) loop_taken_iff fun _ _ => rfl, fun s a l f hi hf => ?_⟩
  have hp : plainB f = true := hf
  intro t
  have hw : listed (wordB 2 5 f) = true := listed_wordB 2 5 f (by decide) (by decide)
  have ht : ((getStrand s a).sget 31).setWidth 15 = BitVec.ofNat 15 t := by
    apply BitVec.eq_of_toNat_eq
    simp [t]
  have htn : (((getStrand s a).sget 31).setWidth 15).toNat = t := by simp [t]
  change Host.Outcome.next (issueReg s a (wordB 2 5 f) (plainB f) _) = _
  by_cases hin : t < (getLoom s l).program.length
  · rw [if_pos hin, issueReg_at _ hi hw hp (z := { getStrand s a with pc := BitVec.ofNat 15 t })]
    dsimp only
    rw [htn, if_pos hin, ht]
  · rw [if_neg hin, issueReg_fault _ hi hw hp (st := stBad)]
    dsimp only
    rw [htn, if_neg hin]

end Sys2Proof.Machine
end

section
/-! SUPPORT. States at which a remote operation shows what two statements leave out. With them the obligations about reserved
words, about asynchronous issues and about remote requests are refuted. -/
namespace Sys2Proof.Machine
open Sys2Proof

/-! ## A loom that has never held its bays

The tile of such a loom stands among the module's tiles, but what the loom changes of it goes to what the loom keeps (modTileOf): the
tile's own list of operations stays as it was. -/

/-- Tile 0 has one unsent RD and lies in the bays of a loom that has never held them. -/
def neverHeld (o : AsyncOp) : State := { looms := [(0, { st := .stopped, bays := [0] })], tiles := [(0, { ops := [o] })] }

/-- An RD of no bytes by strand 0, to the module at (x, 0, 0). -/
def emptyRead (x : Nat) : AsyncOp := { kind := .rmtRd, x := x }

theorem neverHeld_sends_and_stays_unsent : (getTile (rmtDrive (neverHeld (emptyRead 1)) 0) 0).ops = [emptyRead 1] := by decide

/-- Refutes O8: a loom that has never held its bays sends the RD of its tile, whose own list of operations still has it unsent. -/
theorem not_asyncIssues : ¬ Obligations.AsyncIssues := by
  rintro ⟨-, -, ⟨-, hsent⟩, -⟩
  obtain ⟨-, hops, -⟩ := hsent (neverHeld (emptyRead 1)) 0 0 [] (emptyRead 1) (by decide) rfl (fun _ h => absurd h List.not_mem_nil)
    rfl rfl (by decide) (by decide) rfl (fun h => absurd h (by decide)) (by decide) (by decide)
  rw [neverHeld_sends_and_stays_unsent] at hops
  exact absurd hops (by decide)

/-- The strand of tile 0 that an operation names by default. -/
def strandZero : Issuer := { tile := 0, strand := 0 }

/-- The request of an RD of no bytes from this module itself. -/
def readOfSelf : RmtRequest := requestOf (neverHeld (emptyRead 0)) strandZero (emptyRead 0) 0

theorem neverHeld_serves_and_stays_unsent :
    opOf (getTile (alive (neverHeld (emptyRead 0)) fun s => rmtArrive s readOfSelf) 0) 0 0 = some (emptyRead 0) := by decide

/-- Refutes O22: a loom that has never held its bays serves the RD of its own tile, whose list of operations shows no answer. -/
theorem not_remoteAccess : ¬ Obligations.RemoteAccess := by
  rintro ⟨⟨-, hself⟩, -⟩
  obtain ⟨t, ht, -, -, hop⟩ := hself (neverHeld (emptyRead 0)) strandZero (emptyRead 0) 0 0 rfl (by decide) rfl (by decide) rfl rfl
    (by decide) (by decide) rfl rfl (by decide)
    ⟨by decide, fun h => absurd rfl h, by decide, by decide, fun h => absurd rfl h⟩ (by decide)
  rw [← Host.Outcome.next.inj ht] at hop
  exact absurd (neverHeld_serves_and_stays_unsent.symm.trans hop) (by decide)

/-! ## An unlisted word issued as an RD -/

/-- Strand 0 of a running loom at an unlisted word, in a tile whose earlier RD to the module at (1, 0, 0) has not been sent. -/
def reservedWord : State :=
  { looms := [(0, { st := .running, bays := [0], holder := true, program := [0xF000000000000000],
                    cmd := some ⟨⟨0, false, 0, 0, 0, 0, 0, 0, 0, 0⟩, false, [0], 0, 0, 0, none⟩ })]
    tiles := [(0, { ops := [emptyRead 1], strands := [(0, { active := true })] })] }

/-- Refutes O17: an unlisted word issued as an RD faults, and the tile's earlier RD goes out at the same moment, which a fault alone does not do. -/
theorem not_instructionFaults : ¬ Obligations.InstructionFaults := by
  rintro ⟨⟨hlisted, -⟩, -⟩
  have h := hlisted reservedWord strandZero 0 0xF000000000000000 ⟨0, false, 0, 0, 0, 0, 0, 0, false, 0, 0⟩ ⟨0, false, 0, 0, 0, 0⟩
    ⟨0, false, 0, 0, 0⟩ ⟨0, false, 0, 0, 0, 0, 0, false, 0, 0⟩ ⟨0, false, 0, 0, 0, 0⟩ (.rmtRd strandZero ⟨0, false, 0, 0, 0, 0⟩)
    (by simp) ⟨by decide, rfl⟩ (by decide)
  have hout := congrArg State.out (Host.Outcome.next.inj h)
  exact absurd hout (by decide)

end Sys2Proof.Machine
end

section
/-! SUPPORT. The system class (R117, R121, R128, R153) and what a barrier's release does to a strand (R158). With it the obligations about the
system class, its reserved numbers and about waits and barriers are settled. -/
namespace Sys2Proof.Machine
open Sys2Proof

/-! ## A strand that issues -/

section
variable {s : State} {a : Issuer} {l : Nat} {w : W64}

/-- A strand that issues is not ended and waits for nothing. -/
theorem Issues.free (h : Issues s a l w) : (getStrand s a).ended = false ∧ (getStrand s a).blocked = .free := by
  have hc := h.1
  simp only [canIssue] at hc
  split at hc
  · simp at hc
  · split_ifs at hc with hif
    simp only [Bool.and_eq_true, decide_eq_true_eq, Bool.not_eq_true'] at hif
    exact ⟨hif.1.2, hif.2⟩

/-- The tile of a strand that issues for a loom is in the group of its command. -/
theorem Issues.running (h : Issues s a l w) : (getStrand s a).active = true ∧ ∃ c, (getLoom s l).cmd = some c ∧ a.tile ∈ c.tiles := by
  have hc := h.1
  simp only [canIssue] at hc
  split at hc
  · simp at hc
  · next k hk =>
    split_ifs at hc with hif
    obtain rfl := Option.some.inj hc
    simp only [Bool.and_eq_true] at hif
    obtain ⟨⟨⟨⟨⟨⟨-, hmine⟩, -⟩, -⟩, hact⟩, -⟩, -⟩ := hif
    refine ⟨hact, ?_⟩
    split at hmine
    · next c hcmd => exact ⟨c, hcmd, by simpa using hmine⟩
    · simp at hmine

end

/-! ## The release of a barrier -/

/-- What the release of a barrier makes of a strand of its scope. -/
def Strand.released (y : Strand) (g : Bool) (id : Nat) : Strand :=
  if y.blocked = .bar g id then ({ y with blocked := .free } : Strand).next else y

theorem Strand.released_of_ne {y : Strand} {g : Bool} {id : Nat} (h : y.blocked ≠ .bar g id) : y.released g id = y := if_neg h

theorem Strand.released_blocked_ne (y : Strand) (g : Bool) (id : Nat) : (y.released g id).blocked ≠ .bar g id := by
  unfold Strand.released
  split_ifs with h
  · exact nofun
  · exact h

/-- The strands of some tiles. -/
def strandsOf (tiles : List Nat) : List Issuer := tiles.flatMap fun t => (List.range 16).map fun k => { tile := t, strand := k }

theorem mem_strandsOf {tiles : List Nat} {b : Issuer} : b ∈ strandsOf tiles ↔ b.tile ∈ tiles ∧ b.strand < 16 := by
  simp only [strandsOf, List.mem_flatMap, List.mem_map, List.mem_range]
  constructor
  · rintro ⟨t, ht, k, hk, rfl⟩
    exact ⟨ht, hk⟩
  · rintro ⟨ht, hk⟩
    exact ⟨b.tile, ht, b.strand, hk, rfl⟩

/-- One strand of a barrier's scope goes on if it waits there. -/
def releaseOne (g : Bool) (id : Nat) (s : State) (a : Issuer) : State :=
  if (getStrand s a).blocked = .bar g id then modStrand s a fun x => ({ x with blocked := .free } : Strand).next else s

theorem getStrand_releaseOne (g : Bool) (id : Nat) (s : State) (a b : Issuer) :
    getStrand (releaseOne g id s a) b = if a = b then (getStrand s b).released g id else getStrand s b := by
  unfold releaseOne
  by_cases hab : a = b
  · subst hab
    rw [if_pos rfl]
    split_ifs with h
    · rw [getStrand_modStrand_same, Strand.released, if_pos h]
    · rw [Strand.released_of_ne h]
  · rw [if_neg hab]
    split_ifs with h
    · exact getStrand_modStrand_of_ne s _ hab
    · rfl

theorem getStrand_foldl_releaseOne (g : Bool) (id : Nat) (b : Issuer) (as : List Issuer) (s : State) :
    getStrand (as.foldl (releaseOne g id) s) b = if b ∈ as then (getStrand s b).released g id else getStrand s b := by
  induction as generalizing s with
  | nil => simp
  | cons a as ih =>
    rw [List.foldl_cons, ih, getStrand_releaseOne]
    by_cases hab : a = b
    · subst hab
      simp [Strand.released_of_ne (Strand.released_blocked_ne _ g id)]
    · simp [hab, Ne.symm hab]

/-- Every strand of a scope has arrived at a barrier. -/
def AllArrived (s : State) (tiles : List Nat) (g : Bool) (id : Nat) : Prop := ∀ b ∈ strandsOf tiles, (getStrand s b).arrived g id = true

theorem barRelease_of_all {s : State} {tiles : List Nat} {g : Bool} {id : Nat} (h : AllArrived s tiles g id) :
    barRelease s tiles g id = (strandsOf tiles).foldl (releaseOne g id) s := if_pos (List.all_eq_true.mpr h)

theorem barRelease_of_not_all {s : State} {tiles : List Nat} {g : Bool} {id : Nat} (h : ¬ AllArrived s tiles g id) :
    barRelease s tiles g id = s := if_neg (mt List.all_eq_true.mp h)

/-- A barrier's release leaves a strand that does not wait there as it is. -/
theorem getStrand_barRelease_of_ne {s : State} (tiles : List Nat) {g : Bool} {id : Nat} {b : Issuer} (h : (getStrand s b).blocked ≠ .bar g id) :
    getStrand (barRelease s tiles g id) b = getStrand s b := by
  by_cases hall : AllArrived s tiles g id
  · rw [barRelease_of_all hall, getStrand_foldl_releaseOne, Strand.released_of_ne h, ite_self]
  · rw [barRelease_of_not_all hall]

theorem getStrand_barRelease_of_all {s : State} {tiles : List Nat} {g : Bool} {id : Nat} {b : Issuer} (hall : AllArrived s tiles g id)
    (hb : b ∈ strandsOf tiles) : getStrand (barRelease s tiles g id) b = (getStrand s b).released g id := by
  rw [barRelease_of_all hall, getStrand_foldl_releaseOne, if_pos hb]

/-- Whether a strand has arrived at a barrier does not depend on another barrier's release. -/
theorem arrived_barRelease_of_ne (s : State) (tiles : List Nat) {g g' : Bool} {id id' : Nat} (b : Issuer) (h : (g', id') ≠ (g, id)) :
    (getStrand (barRelease s tiles g' id') b).arrived g id = (getStrand s b).arrived g id := by
  by_cases hb : (getStrand s b).blocked = .bar g' id'
  · by_cases hall : AllArrived s tiles g' id'
    · rw [barRelease_of_all hall, getStrand_foldl_releaseOne]
      split_ifs
      · have hboth : g' = g → id' ≠ id := fun h1 h2 => h (by rw [h1, h2])
        simpa [Strand.released, hb, Strand.arrived] using fun h1 h2 => absurd h2 (hboth h1)
      · rfl
    · rw [barRelease_of_not_all hall]
  · rw [getStrand_barRelease_of_ne tiles hb]

/-- The barriers of a scope with the given numbers, released one after the other. -/
def releases (tiles : List Nat) (g : Bool) (ids : List Nat) (s : State) : State := ids.foldl (fun s id => barRelease s tiles g id) s

theorem getStrand_releases_of_ne (tiles : List Nat) (g : Bool) (ids : List Nat) {b : Issuer} {s : State}
    (h : ∀ id ∈ ids, (getStrand s b).blocked ≠ .bar g id) : getStrand (releases tiles g ids s) b = getStrand s b := by
  induction ids generalizing s with
  | nil => rfl
  | cons i ids ih =>
    have hi := getStrand_barRelease_of_ne (s := s) tiles (h i List.mem_cons_self)
    exact (ih fun id hid => by rw [hi]; exact h id (List.mem_cons_of_mem _ hid)).trans hi

theorem arrived_releases_of_ne (tiles : List Nat) (g' : Bool) (ids : List Nat) {g : Bool} {id : Nat} (b : Issuer) (s : State)
    (h : ∀ i ∈ ids, (g', i) ≠ (g, id)) : (getStrand (releases tiles g' ids s) b).arrived g id = (getStrand s b).arrived g id := by
  induction ids generalizing s with
  | nil => rfl
  | cons i ids ih =>
    exact (ih _ fun j hj => h j (List.mem_cons_of_mem _ hj)).trans (arrived_barRelease_of_ne s tiles b (h i List.mem_cons_self))

/-- A strand that waits at a barrier not all of whose strands have arrived stays there. -/
theorem getStrand_releases_of_not_all {tiles : List Nat} {g : Bool} (ids : List Nat) {id : Nat} {b : Issuer} {s : State}
    (hb : (getStrand s b).blocked = .bar g id) (hall : ¬ AllArrived s tiles g id) : getStrand (releases tiles g ids s) b = getStrand s b := by
  induction ids generalizing s with
  | nil => rfl
  | cons i ids ih =>
    change getStrand (releases tiles g ids (barRelease s tiles g i)) b = _
    by_cases hi : i = id
    · subst hi
      rw [barRelease_of_not_all hall, ih hb hall]
    · have hkeep : getStrand (barRelease s tiles g i) b = getStrand s b :=
        getStrand_barRelease_of_ne tiles fun q => hi (by injection q.symm.trans hb)
      rw [ih (hkeep ▸ hb) fun q => hall fun c hc => ?_, hkeep]
      rw [← arrived_barRelease_of_ne s tiles c fun q => hi (Prod.mk.inj q).2]
      exact q c hc

/-- A strand that waits at a barrier all of whose strands have arrived goes on when its number is among those released. -/
theorem getStrand_releases_of_all {tiles : List Nat} {g : Bool} {ids : List Nat} {id : Nat} {b : Issuer} {s : State} (hid : id ∈ ids)
    (hin : b ∈ strandsOf tiles) (hb : (getStrand s b).blocked = .bar g id) (hall : AllArrived s tiles g id) :
    getStrand (releases tiles g ids s) b = (getStrand s b).released g id := by
  induction ids generalizing s with
  | nil => simp at hid
  | cons i ids ih =>
    change getStrand (releases tiles g ids (barRelease s tiles g i)) b = _
    by_cases hi : i = id
    · subst hi
      have hnow := getStrand_barRelease_of_all hall hin
      rw [getStrand_releases_of_ne, hnow]
      intro j _
      rw [hnow, Strand.released, if_pos hb]
      exact nofun
    · have hkeep : getStrand (barRelease s tiles g i) b = getStrand s b :=
        getStrand_barRelease_of_ne tiles fun q => hi (by injection q.symm.trans hb)
      rw [ih ((List.mem_cons.mp hid).resolve_left (Ne.symm hi)) (hkeep ▸ hb) fun c hc => ?_, hkeep]
      rw [arrived_barRelease_of_ne s tiles c fun q => hi (Prod.mk.inj q).2]
      exact hall c hc

/-! ## The barriers that an arrival may complete -/

/-- The numbers of the barriers of a scope at which some strand of the tiles waits. -/
def barsWaited (s : State) (g : Bool) (tiles : List Nat) : List Nat :=
  (tiles.flatMap fun t => (getTile s t).strands.filterMap fun kv => match kv.2.blocked with
    | .bar g' id => if g' = g then some id else none
    | _ => none).eraseDups

/-- The tiles of a loom's command. -/
def cmdGroup (s : State) (l : Nat) : List Nat := ((getLoom s l).cmd.map (·.tiles)).getD []

theorem settleBars_eq (s : State) (l tile : Nat) : settleBars s l tile =
    releases (cmdGroup s l) true (barsWaited s true (cmdGroup s l)) (releases [tile] false (barsWaited s false [tile]) s) := by
  have hgroup : (match (getLoom s l).cmd with
      | some c => c.tiles
      | none => []) = cmdGroup s l := by
    rw [cmdGroup]
    cases (getLoom s l).cmd <;> rfl
  rw [← hgroup]
  rfl

theorem mem_barsWaited {s : State} {g : Bool} {tiles : List Nat} {id t k : Nat} {y : Strand} (ht : t ∈ tiles)
    (hk : (k, y) ∈ (getTile s t).strands) (hy : y.blocked = .bar g id) : id ∈ barsWaited s g tiles := by
  rw [barsWaited, List.mem_eraseDups]
  refine List.mem_flatMap.mpr ⟨t, ht, List.mem_filterMap.mpr ⟨(k, y), hk, ?_⟩⟩
  simp [hy]

/-- A strand that waits at no barrier is as it was. -/
theorem getStrand_settleBars_of_ne {s : State} (l tile : Nat) {b : Issuer} (h : ∀ g id, (getStrand s b).blocked ≠ .bar g id) :
    getStrand (settleBars s l tile) b = getStrand s b := by
  have hfirst := getStrand_releases_of_ne [tile] false (barsWaited s false [tile]) fun id _ => h false id
  rw [settleBars_eq, getStrand_releases_of_ne, hfirst]
  intro id _
  rw [hfirst]
  exact h true id

theorem releaseOne_looms (g : Bool) (id : Nat) (s : State) (a : Issuer) : (releaseOne g id s a).looms = s.looms := by
  unfold releaseOne
  split_ifs
  · exact modStrand_looms s a _
  · rfl

theorem barRelease_looms (s : State) (tiles : List Nat) (g : Bool) (id : Nat) : (barRelease s tiles g id).looms = s.looms := by
  by_cases h : AllArrived s tiles g id
  · rw [barRelease_of_all h]
    exact State_foldl_looms _ (releaseOne_looms g id) _ s
  · rw [barRelease_of_not_all h]

@[simp] theorem settleBars_looms (s : State) (l tile : Nat) : (settleBars s l tile).looms = s.looms := by
  rw [settleBars_eq]
  exact (State_foldl_looms _ (fun s id => barRelease_looms s _ _ id) _ _).trans (State_foldl_looms _ (fun s id => barRelease_looms s _ _ id) _ _)

/-! ## The system class -/

section
variable {s : State} {a : Issuer} {l : Nat} {f : FmtI}

theorem listed_sys (op : Nat) (f : FmtI) (h : (listedOps 0xD).contains op = true) (ho : op < 64) : listed (wordI 0xD op f) = true :=
  (listed_wordI 0xD op f (by decide) ho).trans h

theorem execRdsr_eq (a : Issuer) (f : FmtI) (s : State) : exec (.rdsr a f) s = .next (issue s a (wordI 0xD 0 f) fun l y =>
    if !(plainI f && isS f.rd && decide (f.imm.toNat % 256 < 0x0A)) then .fault stBad
    else .done (setStrand (drawFree s 2).2 a (Strand.sput
      (if f.imm.toNat % 256 = 1 then { y with cycles := specialReg s l a y s.free (f.imm.toNat % 256) } else y) f.rd.toNat
      (specialReg s l a y s.free (f.imm.toNat % 256))).next)) := rfl

/-- Settles O57: the check of RDSR's number fails. -/
theorem reservedSpecialRegisters : Obligations.ReservedSpecialRegisters := by
  intro s a l f hi hn
  have hchk : (plainI f && isS f.rd && decide (f.imm.toNat % 256 < 0x0A)) = false := by simp [Nat.not_lt.mpr hn]
  rw [execRdsr_eq, issue_at _ hi (listed_sys 0 f rfl (by decide))]
  simp only [hchk, Bool.not_false, if_true]

theorem exec_rdsr_of_lt (hi : Issues s a l (wordI 0xD 0 f)) (hp : plainI f = true) (hrd : f.rd.toNat < 32) (hn : f.imm.toNat % 256 < 10) :
    exec (.rdsr a f) s = .next (setStrand { s with free := s.free + 2 } a (Strand.sput
      (if f.imm.toNat % 256 = 1 then { getStrand s a with cycles := specialReg s l a (getStrand s a) s.free (f.imm.toNat % 256) } else getStrand s a)
      f.rd.toNat (specialReg s l a (getStrand s a) s.free (f.imm.toNat % 256))).next) := by
  have hchk : (plainI f && isS f.rd && decide (f.imm.toNat % 256 < 0x0A)) = true := by simp [hp, isS, hrd, hn]
  rw [execRdsr_eq, issue_at _ hi (listed_sys 0 f rfl (by decide))]
  simp only [hchk, Bool.not_true, Bool.false_eq_true, if_false]
  rfl

/-- A number that srValue gives is below 10, is not that of the cycle counter, and reads the value srValue gives. -/
theorem specialReg_of_srValue {y : Strand} {k n : Nat} {v : W64} (h : srValue s l a y n = some v) : specialReg s l a y k n = v ∧ n < 10 ∧ n ≠ 1 := by
  match n with
  | 0 | 2 | 3 | 4 | 5 | 6 | 7 | 9 => exact ⟨Option.some.inj h, by decide, by decide⟩
  | 1 => simp [srValue] at h
  | 8 =>
    refine ⟨?_, by decide, by decide⟩
    simp only [srValue] at h
    change srPick s l _ = v
    unfold srPick
    cases hg : genWeave s l with
    | none =>
      rw [hg] at h
      exact Option.some.inj h
    | some g =>
      rw [hg] at h
      cases hf : (getLoom s l).srv.formed with
      | none => simp [hf] at h
      | some p => simpa [hf] using h
  | _ + 10 => simp [srValue] at h

theorem sput_setCycles_s (y : Strand) (c : W64) (r : Nat) (v : W64) : ({ y with cycles := c }.sput r v).s = (y.sput r v).s := by
  unfold Strand.sput
  split_ifs <;> rfl

theorem exec_endStrand (hi : Issues s a l (wordI 0xD 3 f)) (hp : plainI f = true) :
    exec (.endStrand a f) s = .next (settleBars (setStrand s a { getStrand s a with ended := true }) l a.tile) := by
  change Host.Outcome.next (issue s a (wordI 0xD 3 f) fun l y =>
    if !plainI f then .fault stBad else .done (settleBars (setStrand s a { y with ended := true }) l a.tile)) = _
  rw [issue_at _ hi (listed_sys 3 f rfl (by decide))]
  simp only [hp, Bool.not_true, Bool.false_eq_true, if_false]

end

/-- Settles O16: RDSR, CLRASW and NOP are an issue over their own strand; END marks its strand ended, and the barriers it may complete leave a
strand that waits at none of them. -/
theorem systemClass : Obligations.SystemClass := by
  intro s a l f hpg hpn hrsv y n
  have hp : plainI f = true := by simp [plainI, hpg, hpn, hrsv]
  refine ⟨fun hi hrd => ⟨fun hn => reservedSpecialRegisters s a l f hi hn, fun v hv => ?_, fun hn => ?_⟩, fun hi => ?_, fun hi => ?_, fun hi => ?_⟩
  case refine_1 =>
    obtain ⟨hval, hlt, hne⟩ := specialReg_of_srValue (k := s.free) hv
    rw [exec_rdsr_of_lt hi hp hrd hlt, if_neg hne, hval]
  case refine_2 =>
    refine ⟨_, specialReg s l a y s.free n, exec_rdsr_of_lt hi hp hrd hn, rfl, ?_, ?_⟩
    · rw [getStrand_setStrand_same]
      split_ifs
      · exact sput_setCycles_s y _ _ _
      · rfl
    · rw [getStrand_setStrand_same]
      split_ifs <;> simp [y]
  case refine_3 =>
    change Host.Outcome.next (issueReg s a (wordI 0xD 1 f) (plainI f) _) = _
    rw [issueReg_at _ hi (listed_sys 1 f rfl (by decide)) hp rfl]
    rfl
  case refine_4 =>
    change Host.Outcome.next (issueReg s a (wordI 0xD 2 f) (plainI f) _) = _
    rw [issueReg_at _ hi (listed_sys 2 f rfl (by decide)) hp rfl]
  case refine_5 =>
    refine ⟨_, exec_endStrand hi hp, settleBars_mem _ _ _, settleBars_looms _ _ _, ?_⟩
    rw [getStrand_settleBars_of_ne, getStrand_setStrand_same]
    intro g id
    rw [getStrand_setStrand_same]
    exact hi.free.2 ▸ nofun

end Sys2Proof.Machine
end

section
/-! SUPPORT. Tags and waits (R142, R145, R159) and barriers (R121, R158). With it the obligations about a tag's completion and about waits
and barriers are settled. -/
namespace Sys2Proof.Machine
open Sys2Proof

/-! ## Tags -/

theorem waitWord_eq (st : Byte) (high : W32) : waitWord st high = BitVec.ofNat 64 (st.toNat + high.toNat * 2 ^ 32) := by
  apply BitVec.eq_of_toNat_eq
  have hst := st.isLt
  have hh := high.isLt
  have hlow : (st.setWidth 32).toNat = st.toNat := by
    rw [BitVec.toNat_setWidth]
    omega
  rw [waitWord, BitVec.toNat_append, ← Nat.shiftLeft_add_eq_or_of_lt (BitVec.isLt _), Nat.shiftLeft_eq, hlow, BitVec.toNat_ofNat]
  omega

/-- A record of a tag once the tag has completed. -/
def TagRec.done (tag : BitVec 16) (st : Byte) (high : W32) (r : TagRec) : TagRec := if r.tag = tag then { r with status := some st, high } else r

@[simp] theorem TagRec.done_tag (tag : BitVec 16) (st : Byte) (high : W32) (r : TagRec) : (r.done tag st high).tag = r.tag := by
  unfold TagRec.done
  split_ifs <;> rfl

/-- The strand whose tag has completed, before it goes on. -/
def Strand.withDone (x : Strand) (tag : BitVec 16) (st : Byte) (high : W32) (fl : W64) : Strand :=
  ({ x with tags := x.tags.map (TagRec.done tag st high) } : Strand).flag fl

theorem Strand.complete_eq (x : Strand) (tag : BitVec 16) (st : Byte) (high : W32) (fl : W64) :
    x.complete tag st high fl = (x.withDone tag st high fl).wake := rfl

theorem Strand.tagRec_withDone (x : Strand) (tag : BitVec 16) (st : Byte) (high : W32) (fl : W64) (g : BitVec 16) :
    (x.withDone tag st high fl).tagRec g = (x.tagRec g).map (TagRec.done tag st high) := by
  have hcomp : ((fun r : TagRec => decide (r.tag = g)) ∘ TagRec.done tag st high) = fun r => decide (r.tag = g) := by
    funext r
    simp
  change (x.tags.map (TagRec.done tag st high)).find? (fun r => decide (r.tag = g)) = _
  rw [List.find?_map, hcomp]
  rfl

/-- What a strand's going on leaves as it was: its tags and its status word. -/
theorem Strand.wake_tags_asw (x : Strand) : x.wake.tags = x.tags ∧ x.wake.asw = x.asw := by
  unfold Strand.wake Strand.unblock
  repeat' split
  all_goals simp

theorem Strand.tagRec_wake (x : Strand) (g : BitVec 16) : x.wake.tagRec g = x.tagRec g := by
  rw [Strand.tagRec, (Strand.wake_tags_asw x).1]
  rfl

theorem Strand.wake_of_free {x : Strand} (h : x.blocked = .free) : x.wake = x := by simp [Strand.wake, h]

theorem Strand.wake_of_wait {x : Strand} {tag : BitVec 16} {sd : Nat} {r : TagRec} {st : Byte} (hb : x.blocked = .wait tag sd)
    (hr : x.tagRec tag = some r) (hst : r.status = some st) : x.wake = x.unblock sd (waitWord st r.high) := by
  obtain ⟨g, k, _, h⟩ := r
  obtain rfl : _ = some st := hst
  simp [Strand.wake, hb, hr]

theorem Strand.wake_of_wait_none {x : Strand} {tag : BitVec 16} {sd : Nat} {r : TagRec} (hb : x.blocked = .wait tag sd)
    (hr : x.tagRec tag = some r) (hst : r.status = none) : x.wake = x := by
  obtain ⟨g, k, _, h⟩ := r
  obtain rfl : _ = none := hst
  simp [Strand.wake, hb, hr]

theorem Strand.sget_unblock (x : Strand) {sd : Nat} (v : W64) (h : sd ≠ 0) : (x.unblock sd v).sget sd = v := by
  have hget := Strand.sget_sput { x with blocked := .free } sd sd v
  rw [if_pos ⟨rfl, h⟩] at hget
  exact hget

/-- Settles O10: the completed record is found under its tag, the other records and the strand's wait are those of before. -/
theorem tagCompletes : Obligations.TagCompletes := by
  intro y tag k h st high fl hrec z
  have hz : z = (y.withDone tag st high fl).wake := Strand.complete_eq y tag st high fl
  have hdone : (y.withDone tag st high fl).tagRec tag = some { tag, kind := k, status := some st, high } := by
    rw [Strand.tagRec_withDone, hrec]
    simp [TagRec.done]
  refine ⟨?record, ?asw, fun g hg => ?others, fun sd hsd => ?waiting, fun hfree => ?running⟩
  case record => rw [hz, Strand.tagRec_wake, hdone]
  case asw => exact hz ▸ (Strand.wake_tags_asw _).2
  case others =>
    rw [hz, Strand.tagRec_wake, Strand.tagRec_withDone]
    cases hr : y.tagRec g with
    | none => rfl
    | some r =>
      have hrg : r.tag = g := by simpa using List.find?_some hr
      rw [Option.map_some, TagRec.done, if_neg (hrg ▸ hg)]
  case waiting =>
    have hwake := Strand.wake_of_wait (x := y.withDone tag st high fl) hsd hdone rfl
    rw [hz, hwake]
    refine ⟨?_, ?_, fun h0 => ?_⟩
    · simp [Strand.unblock]
    · simp [Strand.unblock, Strand.withDone]
    · rw [Strand.sget_unblock _ _ h0, waitWord_eq]
  case running =>
    rw [hz, Strand.wake_of_free (x := y.withDone tag st high fl) hfree]
    exact ⟨hfree, rfl, rfl⟩

/-! ## Waits -/

section
variable {s : State} {a : Issuer} {l : Nat} {f : FmtD}

theorem listed_sync (op : Nat) (f : FmtD) (h : (listedOps 0xB).contains op = true) (ho : op < 64) : listed (wordD 0xB op f) = true :=
  (listed_wordD 0xB op f (by decide) ho).trans h

theorem syncOk_of (sd sa : Bool) (hpg : f.pg = 0) (hpn : f.pn = false) (hsb : f.sb = 0) (hsd : sd = true ∨ f.sd = 0) (hsa : sa = true ∨ f.sa = 0) :
    syncOk f sd sa = true := by
  simpa [syncOk, plainD, hpg, hpn, hsb] using And.intro hsd hsa

theorem syncScope_eq (f : FmtD) : syncScope f = f.inl.toNat / 2 ^ 32 := by
  have := f.inl.isLt
  simp only [syncScope, bits, Nat.shiftRight_eq_div_pow]
  omega

theorem syncBar_eq (f : FmtD) : syncBar f = f.inl.toNat / 2 ^ 28 % 16 := by simp [syncBar, bits, Nat.shiftRight_eq_div_pow]

theorem blockedIn_free {y : Strand} (h : y.blocked = .free) : blockedIn y .free = y := by
  cases y
  simp_all [blockedIn]

theorem unblock_blockedIn {y : Strand} (h : y.blocked = .free) (b : Block) (sd : Nat) (v : W64) : (blockedIn y b).unblock sd v = (y.sput sd v).next :=
  congrArg (fun x : Strand => (x.sput sd v).next) (blockedIn_free h)

theorem exec_wait (hi : Issues s a l (wordD 0xB 0 f)) (hok : syncOk f true true = true) {tag : BitVec 16}
    (htag : (getStrand s a).sget f.sa.toNat = tag.setWidth 64) : exec (.wait_ a f) s =
      .next (if ((getStrand s a).tagRec tag).isNone then insnFault s l a stBad (wordD 0xB 0 f)
        else setStrand s a (blockedIn (getStrand s a) (.wait tag f.sd.toNat)).wake) := by
  have hlt := tag.isLt
  have hnot : decide (0xFFFF < (tag.setWidth 64).toNat) = false := by
    rw [BitVec.toNat_setWidth, decide_eq_false_iff_not]
    omega
  have hback : (tag.setWidth 64).setWidth 16 = tag := by
    apply BitVec.eq_of_toNat_eq
    rw [BitVec.toNat_setWidth, BitVec.toNat_setWidth]
    omega
  change Host.Outcome.next (issueReg s a (wordD 0xB 0 f) (syncOk f true true) fun _ y =>
    if 0xFFFF < (y.sget f.sa.toNat).toNat || (y.tagRec ((y.sget f.sa.toNat).setWidth 16)).isNone then .error stBad
    else .ok (y.block (.wait ((y.sget f.sa.toNat).setWidth 16) f.sd.toNat))) = _
  split_ifs with hnone
  · rw [issueReg_fault _ hi (listed_sync 0 f rfl (by decide)) hok (st := stBad)]
    rw [htag, hback, if_pos (by simp [hnone])]
  · rw [issueReg_at _ hi (listed_sync 0 f rfl (by decide)) hok]
    rw [htag, hback, hnot, Bool.false_or, if_neg hnone]
    rfl

theorem exec_waitall (hi : Issues s a l (wordD 0xB 1 f)) (hok : syncOk f true false = true) : exec (.waitall a f) s =
    .next (setStrand s a (blockedIn (getStrand s a) (.waitAll ((getStrand s a).incomplete.map (·.tag)) f.sd.toNat)).wake) := by
  change Host.Outcome.next (issueReg s a (wordD 0xB 1 f) (syncOk f true false) fun _ y =>
    .ok (y.block (.waitAll (y.incomplete.map (·.tag)) f.sd.toNat))) = _
  rw [issueReg_at _ hi (listed_sync 1 f rfl (by decide)) hok rfl]
  rfl

theorem exec_fence (hi : Issues s a l (wordD 0xB 2 f)) (hok : syncOk f false false = true) (hscope : f.inl.toNat / 2 ^ 32 < 4) : exec (.fence a f) s =
    .next (setStrand s a (if f.inl.toNat / 2 ^ 32 = 3 then (blockedIn (getStrand s a) .fence).wake else (getStrand s a).next)) := by
  change Host.Outcome.next (issueReg s a (wordD 0xB 2 f) (syncOk f false false && decide (syncScope f < 4)) fun _ y =>
    .ok (if syncScope f = 3 then y.block .fence else y.next)) = _
  rw [issueReg_at _ hi (listed_sync 2 f rfl (by decide)) (by simpa [hok, syncScope_eq] using hscope) rfl, syncScope_eq]
  rfl

end

theorem wake_of_waitAll_nil {y : Strand} (sd : Nat) (hy : y.blocked = .free) (h : y.incomplete = []) :
    (blockedIn y (.waitAll (y.incomplete.map (·.tag)) sd)).wake = gives y sd 0 := by
  have hbad : ∀ x : Strand, waitAllWord [] x = BitVec.ofNat 64 0 := fun x => by simp [waitAllWord, stWord, stOk]
  rw [h, List.map_nil]
  change (if (y.incomplete.any fun r => ([] : List (BitVec 16)).contains r.tag) = true then _ else (blockedIn y _).unblock sd _) = _
  rw [h, List.any_nil, if_neg Bool.false_ne_true, hbad, unblock_blockedIn hy]
  rfl

theorem wake_of_waitAll_cons {y : Strand} (sd : Nat) (h : y.incomplete ≠ []) :
    (blockedIn y (.waitAll (y.incomplete.map (·.tag)) sd)).wake = blockedIn y (.waitAll (y.incomplete.map (·.tag)) sd) := by
  obtain ⟨r, hr⟩ := List.exists_mem_of_ne_nil _ h
  have hany : (y.incomplete.any fun r => (y.incomplete.map (·.tag)).contains r.tag) = true :=
    List.any_eq_true.mpr ⟨r, hr, by simpa using ⟨r, hr, rfl⟩⟩
  exact if_pos hany

theorem wake_of_fence_over {y : Strand} (hy : y.blocked = .free) (h : ∀ r ∈ y.incomplete, r.kind ≠ .rmtWr ∧ r.kind ≠ .rmtAdd) :
    (blockedIn y .fence).wake = y.next := by
  have hany : (y.incomplete.any fun r => decide (r.kind = .rmtWr) || decide (r.kind = .rmtAdd)) = false :=
    List.any_eq_false.mpr fun r hr => by simp [h r hr]
  have hwake : (blockedIn y .fence).wake = (blockedIn y .free).next := if_neg (ne_of_eq_of_ne hany Bool.false_ne_true)
  rw [hwake, blockedIn_free hy]

theorem wake_of_fence_waits {y : Strand} (h : ∃ r, r ∈ y.incomplete ∧ (r.kind = .rmtWr ∨ r.kind = .rmtAdd)) :
    (blockedIn y .fence).wake = blockedIn y .fence := by
  obtain ⟨r, hr, hk⟩ := h
  have hany : (y.incomplete.any fun r => decide (r.kind = .rmtWr) || decide (r.kind = .rmtAdd)) = true :=
    List.any_eq_true.mpr ⟨r, hr, by simpa using hk⟩
  exact if_pos hany

theorem waits : Waits := by
  intro s a l f hpg hpn hsb y
  refine ⟨fun hi tag htag => ?wait, fun hi hsa => ?waitall, fun hi hsa hsd => ?fence⟩
  case wait =>
    have hexec := exec_wait hi (syncOk_of true true hpg hpn hsb (.inl rfl) (.inl rfl)) htag
    refine ⟨fun hnone => ?_, fun r hr hst => ?_, fun r st hr hst => ?_⟩
    · rw [hexec, if_pos (by simp [y, hnone])]
    · rw [hexec, if_neg (by simp [y, hr]), Strand.wake_of_wait_none (x := blockedIn (getStrand s a) (.wait tag f.sd.toNat)) rfl hr hst]
    · rw [hexec, if_neg (by simp [y, hr]), Strand.wake_of_wait (x := blockedIn (getStrand s a) (.wait tag f.sd.toNat)) rfl hr hst,
        unblock_blockedIn hi.free.2, waitWord_eq]
      rfl
  case waitall =>
    have hexec := exec_waitall hi (syncOk_of true false hpg hpn hsb (.inl rfl) (.inr hsa))
    exact ⟨fun h => by rw [hexec, wake_of_waitAll_nil _ hi.free.2 h], fun h => by rw [hexec, wake_of_waitAll_cons _ h]⟩
  case fence =>
    have hok := syncOk_of false false hpg hpn hsb (.inr hsd) (.inr hsa)
    intro scope
    refine ⟨fun h => ?_, fun h hover => ?_, fun h hwait => ?_⟩
    · rw [exec_fence hi hok (by omega), if_neg (by omega)]
    · rw [exec_fence hi hok (by omega), if_pos h, wake_of_fence_over hi.free.2 hover]
    · rw [exec_fence hi hok (by omega), if_pos h, wake_of_fence_waits hwait]

/-! ## Barriers -/

section
variable {s : State} {a : Issuer} {l : Nat} {f : FmtD}

theorem exec_bar (hi : Issues s a l (wordD 0xB 3 f)) (hok : syncOk f false false = true) (hscope : f.inl.toNat / 2 ^ 32 < 3) : exec (.bar a f) s =
    .next (if f.inl.toNat / 2 ^ 32 = 0 then setStrand s a (getStrand s a).next
      else settleBars (setStrand s a (blockedIn (getStrand s a) (.bar (decide (f.inl.toNat / 2 ^ 32 = 2)) (f.inl.toNat / 2 ^ 28 % 16)))) l a.tile) := by
  change Host.Outcome.next (issue s a (wordD 0xB 3 f) fun l y =>
    if !(syncOk f false false && decide (syncScope f < 3)) then .fault stBad
    else if syncScope f = 0 then .done (setStrand s a y.next)
    else .done (settleBars (setStrand s a (blockedIn y (.bar (decide (syncScope f = 2)) (syncBar f)))) l a.tile)) = _
  rw [issue_at _ hi (listed_sync 3 f rfl (by decide))]
  simp only [hok, syncScope_eq, syncBar_eq, hscope, decide_true, Bool.and_self, Bool.not_true, Bool.false_eq_true, if_false]
  split_ifs <;> rfl

/-- What a tile's table of strands holds once a strand has been put into it. -/
theorem mem_strands_setStrand (s : State) (a : Issuer) (y : Strand) : (a.strand, y) ∈ (getTile (setStrand s a y) a.tile).strands := by
  have hput : ∀ t : Table Strand, (a.strand, y) ∈ tput t a.strand y := by
    intro t
    induction t with
    | nil => simp [tput]
    | cons p r ih =>
      simp only [tput]
      split_ifs <;> simp [ih]
  rw [setStrand, getTile_modTile, if_pos rfl]
  exact hput _

/-- Strands of the scope at a barrier, once all have arrived or not: a strand of the issuing tile that waits there. -/
theorem getStrand_settleBars (hin : a.tile ∈ cmdGroup s l) {y : Strand} {g : Bool} {id : Nat} {b : Issuer}
    (hy : y.blocked = .bar g id) (hb : (getStrand (setStrand s a y) b).blocked = .bar g id) :
    let tiles := if g = true then cmdGroup s l else [a.tile]
    (¬ AllArrived (setStrand s a y) tiles g id → getStrand (settleBars (setStrand s a y) l a.tile) b = getStrand (setStrand s a y) b) ∧
    (AllArrived (setStrand s a y) tiles g id → b ∈ strandsOf tiles →
      getStrand (settleBars (setStrand s a y) l a.tile) b = (blockedIn (getStrand (setStrand s a y) b) .free).next) := by
  intro tiles
  have hgroup : cmdGroup (setStrand s a y) l = cmdGroup s l := rfl
  have hmem : id ∈ barsWaited (setStrand s a y) g tiles := by
    refine mem_barsWaited (t := a.tile) ?_ (mem_strands_setStrand s a y) hy
    by_cases hg : g = true <;> simp [tiles, hg, hin]
  have hfree : (getStrand (setStrand s a y) b).released g id = (blockedIn (getStrand (setStrand s a y) b) .free).next := if_pos hb
  rw [settleBars_eq, hgroup]
  cases g with
  | false =>
    have hother : ∀ u : State, (getStrand u b).blocked = .bar false id ∨ (getStrand u b).blocked = .free →
        getStrand (releases (cmdGroup s l) true (barsWaited (setStrand s a y) true (cmdGroup s l)) u) b = getStrand u b := by
      rintro u (h | h) <;> exact getStrand_releases_of_ne _ _ _ fun _ _ => h ▸ nofun
    refine ⟨fun hall => ?_, fun hall hbt => ?_⟩
    · have hstay := getStrand_releases_of_not_all (barsWaited (setStrand s a y) false [a.tile]) hb hall
      exact (hother _ (.inl (hstay ▸ hb))).trans hstay
    · have hgo := (getStrand_releases_of_all hmem hbt hb hall).trans hfree
      exact (hother _ (.inr (hgo ▸ rfl))).trans hgo
  | true =>
    have hne : ∀ i ∈ barsWaited (setStrand s a y) false [a.tile], (false, i) ≠ (true, id) := fun _ _ q => nomatch q
    have hfirst : getStrand (releases [a.tile] false (barsWaited (setStrand s a y) false [a.tile]) (setStrand s a y)) b = getStrand (setStrand s a y) b :=
      getStrand_releases_of_ne _ _ _ fun _ _ => hb ▸ nofun
    have hsame : AllArrived (releases [a.tile] false (barsWaited (setStrand s a y) false [a.tile]) (setStrand s a y)) tiles true id ↔
        AllArrived (setStrand s a y) tiles true id :=
      forall₂_congr fun c _ => by rw [arrived_releases_of_ne _ _ _ c _ hne]
    refine ⟨fun hall => ?_, fun hall hbt => ?_⟩
    · exact (getStrand_releases_of_not_all _ (hfirst ▸ hb) (mt hsame.mp hall)).trans hfirst
    · exact (getStrand_releases_of_all hmem hbt (hfirst ▸ hb) (hsame.mpr hall)).trans (hfirst ▸ hfree)

end

theorem barriers : Barriers := by
  intro s a l f hi hpg hpn hsb hsa hsd y scope id group within at_ other
  have hok := syncOk_of false false hpg hpn hsb (.inr hsd) (.inr hsa)
  refine ⟨fun h => by rw [exec_bar hi hok (by omega), if_pos h], fun h hstrand hin => ?_⟩
  have hscope : scope < 3 ∧ scope ≠ 0 := by omega
  have hblk : (blockedIn y at_).blocked = .bar (decide (scope = 2)) id := rfl
  refine ⟨settleBars (setStrand s a (blockedIn y at_)) l a.tile, by rw [exec_bar hi hok hscope.1, if_neg hscope.2], settleBars_mem _ _ _,
    settleBars_looms _ _ _, ?_⟩
  have hwithin : ∀ b, b ∈ strandsOf (if decide (scope = 2) = true then cmdGroup s l else [a.tile]) ↔ within b := by
    intro b
    rw [mem_strandsOf, and_comm]
    rcases h with h1 | h2
    · simp [within, h1]
    · simp [within, h2, group, cmdGroup]
  have hall : AllArrived (setStrand s a (blockedIn y at_)) (if decide (scope = 2) = true then cmdGroup s l else [a.tile]) (decide (scope = 2)) id ↔
      ∀ b, ¬ other b := by
    refine forall_congr' fun b => ?_
    rw [hwithin, getStrand_setStrand]
    by_cases hab : a = b
    · subst hab
      simp [other, Strand.arrived, blockedIn, at_]
    · simp only [if_neg hab, other, Strand.arrived, ne_eq, Ne.symm hab, not_false_eq_true, true_and, Bool.or_eq_true, decide_eq_true_eq, at_]
      cases (getStrand s b).ended <;> simp
  have hself : (getStrand (setStrand s a (blockedIn y at_)) a) = blockedIn y at_ := getStrand_setStrand_same _ _ _
  have hown := getStrand_settleBars (s := s) (b := a) hin hblk ((congrArg Strand.blocked hself).trans hblk)
  refine ⟨fun ⟨b, hb⟩ => ?_, fun hnone => ⟨?_, fun b hab hbin hbat => ?_⟩⟩
  · rw [hown.1 fun q => hall.mp q b hb, hself]
  · have hain : within a := (hwithin a).mp (mem_strandsOf.mpr ⟨by split_ifs <;> simp_all [group, cmdGroup], hstrand⟩)
    rw [hown.2 (hall.mpr hnone) ((hwithin a).mpr hain), hself]
    exact congrArg Strand.next (blockedIn_free hi.free.2)
  · have hbs : getStrand (setStrand s a (blockedIn y at_)) b = getStrand s b := by rw [getStrand_setStrand, if_neg (Ne.symm hab)]
    have hb := getStrand_settleBars (s := s) (b := b) hin hblk ((congrArg Strand.blocked hbs).trans hbat)
    rw [hb.2 (hall.mpr hnone) ((hwithin b).mpr hbin), hbs]

/-- Settles O14: WAIT, WAITALL and FENCE block their strand, which goes on at once when its wait is over; BAR does so with its strand, and the
release of the barrier frees the strands of its scope. -/
theorem waitsAndBarriers : Obligations.WaitsAndBarriers := ⟨waits, barriers⟩

end Sys2Proof.Machine
end

section
/-! SUPPORT. Semaphores (R146 to R148, R248): what a semaphore instruction comes to, and what serving the waiters leaves of a strand that waits
for none. With it the obligation about semaphores is settled. -/
namespace Sys2Proof.Machine
open Sys2Proof

/-! ## Serving the waiters -/

/-- A strand that waits for no semaphore. -/
def NoSemWait (y : Strand) : Prop := ∀ sem n sd, y.blocked ≠ .sem sem n sd

theorem getStrand_semDone {s : State} {a : Issuer} (b : Issuer) (st : Byte) (h : NoSemWait (getStrand s a)) :
    getStrand (semDone s b st) a = getStrand s a := by
  by_cases hab : b = a
  · subst hab
    rw [semDone, getStrand_modStrand_same]
    split
    · next sem n sd hb => exact absurd hb (h sem n sd)
    · rfl
  · exact getStrand_modStrand_of_ne s _ hab

theorem getStrand_serveShared {a : Issuer} (sem fuel : Nat) (s : State) (h : NoSemWait (getStrand s a)) :
    getStrand (serveShared s sem fuel) a = getStrand s a := by
  induction fuel generalizing s with
  | zero => rfl
  | succ fuel ih =>
    simp only [serveShared]
    repeat' split
    case h_2.isTrue x _ _ l tile strand n r _ _ =>
      have hone := getStrand_semDone (s := { s with ssems := tput s.ssems sem { x with
        count := x.count - BitVec.ofNat 32 n, waiters := r, units := tmod 0 x.units l (· + n) } }) { tile, strand } stOk h
      exact (ih _ (hone ▸ h)).trans hone
    all_goals rfl

theorem getStrand_serveSem {s : State} {a : Issuer} (sem : Nat) (h : NoSemWait (getStrand s a)) : getStrand (serveSem s sem) a = getStrand s a := by
  unfold serveSem
  split
  · rfl
  · exact getStrand_serveShared sem _ s h

theorem serveSem_of_no_waiters {s : State} {sem : Nat} {q : SharedSem} (h : tfind s.ssems sem = some q) (hq : q.waiters = []) : serveSem s sem = s := by
  rw [serveSem, h]
  simp [hq, serveShared]

theorem serveLoomGo_of_not_queued {s : State} {l sem : Nat} (fuel : Nat) (h : ((getLoom s l).semWaiters.any fun w => w.1 = sem) = false) :
    serveLoomGo s l sem fuel = s := by
  cases fuel with
  | zero => rfl
  | succ fuel =>
    have hnone : (getLoom s l).semWaiters.find? (fun w => w.1 = sem) = none := by simpa using h
    simp [serveLoomGo, hnone]

/-- The count of a loom's semaphore. -/
def semCount (s : State) (l sem : Nat) : Nat := (tget 0 (getLoom s l).sems sem).toNat

/-- A loom whose waiter w has received n units of a semaphore. -/
def semServed (x : Loom) (sem n : Nat) (w : Nat × Nat × Nat) : Loom :=
  { x with sems := tset 0 x.sems sem (tget 0 x.sems sem - BitVec.ofNat 32 n), semWaiters := x.semWaiters.erase w }

/-- Serving a loom's waiters leaves a strand that waits for none, and takes units only. -/
theorem serveLoomGo_spec {a : Issuer} (l sem fuel : Nat) (s : State) (h : NoSemWait (getStrand s a)) :
    getStrand (serveLoomGo s l sem fuel) a = getStrand s a ∧ semCount (serveLoomGo s l sem fuel) l sem ≤ semCount s l sem := by
  induction fuel generalizing s with
  | zero => exact ⟨rfl, le_rfl⟩
  | succ fuel ih =>
    simp only [serveLoomGo]
    repeat' split
    case h_1.isTrue w _ _ _ n _ _ hn =>
      have hone := getStrand_semDone (s := setLoom s l (semServed (getLoom s l) sem n w)) { tile := w.2.1, strand := w.2.2 } stOk h
      obtain ⟨hstrand, hcount⟩ := ih _ (hone ▸ h)
      refine ⟨hstrand.trans hone, hcount.trans ?_⟩
      have hlt := (tget 0 (getLoom s l).sems sem).isLt
      rw [semCount, getLoom, semDone_looms]
      change (tget 0 (getLoom (setLoom s l (semServed (getLoom s l) sem n w)) l).sems sem).toNat ≤ _
      rw [getLoom_setLoom, if_pos rfl, semServed, tget_tset, if_pos rfl, BitVec.toNat_sub_of_le (BitVec.le_def.mpr ?_)]
      · exact Nat.sub_le _ _
      · rw [BitVec.toNat_ofNat]
        omega
    all_goals exact ⟨rfl, le_rfl⟩

/-! ## What a semaphore instruction comes to -/

section
variable {op : Nat} {s : State} {a : Issuer} {l : Nat} {f : FmtD}

theorem syncN_eq (f : FmtD) : syncN f = semUnits f := by simp [syncN, semUnits, bits, Nat.shiftRight_eq_div_pow]

theorem syncSem_eq (f : FmtD) : syncSem f = semField f := by simp [syncSem, semField, bits, Nat.shiftRight_eq_div_pow]

/-- SEM names a semaphore of the loom or a shared one. -/
def SemNamed (f : FmtD) : Prop := semField f < 256 ∨ (0x800 ≤ semField f ∧ semField f < 0xC00)

theorem semIssue_at (own : Nat → Strand → State) (shared : Nat → SharedSem → State) (hi : Issues s a l (wordD 0xB op f))
    (hop : (listedOps 0xB).contains op = true) (ho : op < 64) (hok : syncOk f true false = true) (hn : semUnits f ≠ 0) (hname : SemNamed f) :
    semIssue op a f s own shared =
      if (getLoom s l).revoked = true then semStatus (setLoom s l { getLoom s l with revoked := false }) a f.sd.toNat stSemRevoked
      else if semField f < 256 then own l (getStrand s a)
      else match tfind s.ssems (semField f) with
        | some q => if q.mask.getLsbD (getLoom s l).session = true then shared l q else semStatus s a f.sd.toNat stPerm
        | none => semStatus s a f.sd.toNat stPerm := by
  have hchk : (syncOk f true false && decide (syncN f ≠ 0) &&
      (decide (syncSem f < 0x100) || decide (0x800 ≤ syncSem f) && decide (syncSem f < 0xC00))) = true := by
    simpa [hok, syncSem_eq, syncN_eq, hn, SemNamed] using hname
  rw [semIssue, issue_at _ hi (listed_sync op f hop ho)]
  simp only [hchk, Bool.not_true, Bool.false_eq_true, if_false]
  rw [syncSem_eq]
  by_cases hrev : (getLoom s l).revoked = true
  · rw [if_pos hrev, if_pos hrev]
  · rw [if_neg hrev, if_neg hrev]
    by_cases hown : semField f < 256
    · rw [if_pos hown, if_pos hown]
    · rw [if_neg hown, if_neg hown]
      cases tfind s.ssems (semField f) with
      | none => rfl
      | some q => by_cases hmask : q.mask.getLsbD (getLoom s l).session = true <;> simp [hmask]

theorem semStatus_eq (u : State) (a : Issuer) (sd : Nat) (st : Byte) {y : Strand} (h : getStrand u a = y) :
    semStatus u a sd st = setStrand u a (gives y sd st.toNat) := by
  have hword : stWord st = BitVec.ofNat 64 st.toNat := by
    apply BitVec.eq_of_toNat_eq
    simp [stWord]
  subst h
  rw [semStatus, hword]
  rfl

/-- The fields of a semaphore instruction in order. -/
theorem semFields_ok (hpg : f.pg = 0) (hpn : f.pn = false) (hsb : f.sb = 0) (hsa : f.sa = 0) : syncOk f true false = true :=
  syncOk_of true false hpg hpn hsb (.inl rfl) (.inr hsa)

/-- A semaphore instruction in order on a semaphore of its own loom. -/
theorem semIssue_own (own : Nat → Strand → State) (shared : Nat → SharedSem → State) (h : SemOk op s a l f)
    (hop : (listedOps 0xB).contains op = true) (ho : op < 64) (hsem : semField f < 256) : semIssue op a f s own shared = own l (getStrand s a) := by
  obtain ⟨hi, hpg, hpn, hsb, hsa, hn, hrev⟩ := h
  rw [semIssue_at own shared hi hop ho (semFields_ok hpg hpn hsb hsa) hn (.inl hsem), if_neg (by simp [hrev]), if_pos hsem]

/-- A semaphore instruction in order on a shared semaphore. -/
theorem semIssue_shared (own : Nat → Strand → State) (shared : Nat → SharedSem → State) (h : SemOk op s a l f)
    (hop : (listedOps 0xB).contains op = true) (ho : op < 64) (hlo : 0x800 ≤ semField f) (hhi : semField f < 0xC00) {q : SharedSem}
    (hq : tfind s.ssems (semField f) = some q) : semIssue op a f s own shared =
      if q.mask.getLsbD (getLoom s l).session = true then shared l q else setStrand s a (gives (getStrand s a) f.sd.toNat 0x12) := by
  obtain ⟨hi, hpg, hpn, hsb, hsa, hn, hrev⟩ := h
  rw [semIssue_at own shared hi hop ho (semFields_ok hpg hpn hsb hsa) hn (.inr ⟨hlo, hhi⟩), if_neg (by simp [hrev]), if_neg (by omega), hq]
  rw [semStatus_eq s a f.sd.toNat stPerm rfl]
  rfl

end

/-! ## Semaphores of a loom -/

theorem ofNat_sub_toNat (v : W32) (n : Nat) (h : n ≤ v.toNat) : v - BitVec.ofNat 32 n = BitVec.ofNat 32 (v.toNat - n) := by
  apply BitVec.eq_of_toNat_eq
  have := v.isLt
  rw [BitVec.toNat_sub_of_le (BitVec.le_def.mpr (by rw [BitVec.toNat_ofNat]; omega)), BitVec.toNat_ofNat, BitVec.toNat_ofNat]
  omega

theorem ofNat_add_toNat (v : W32) (n : Nat) : v + BitVec.ofNat 32 n = BitVec.ofNat 32 (v.toNat + n) := by
  apply BitVec.eq_of_toNat_eq
  simp [BitVec.toNat_add]

/-- Units are taken at once when they are there and no older waiter is. -/
theorem taken_iff {n c : Nat} {q : Bool} : (decide (n ≤ c) && !q) = true ↔ n ≤ c ∧ q = false := by simp

theorem not_taken_iff {n c : Nat} {q : Bool} : ¬ (decide (n ≤ c) && !q) = true ↔ c < n ∨ q = true := by
  rw [taken_iff, not_and_or, Nat.not_le, Bool.not_eq_false]

section
variable {s : State} {a : Issuer} {l : Nat} {f : FmtD}

/-- SEMACQ (4) or SEMTRY (5) on a semaphore of the own loom. -/
theorem semAcquire_own {op : Nat} (wait : Bool) (h : SemOk op s a l f) (hop : (listedOps 0xB).contains op = true) (ho : op < 64)
    (hsem : semField f < 256) :
    let x := getLoom s l
    let count := (tget 0 x.sems (semField f)).toNat
    let queued := x.semWaiters.any fun w => w.1 = semField f
    (semUnits f ≤ count → (wait && queued) = false → semAcquire op wait a f s = setStrand
      (setLoom s l { x with sems := tset 0 x.sems (semField f) (BitVec.ofNat 32 (count - semUnits f)) }) a (gives (getStrand s a) f.sd.toNat 0)) ∧
    ((count < semUnits f ∨ (wait && queued) = true) → semAcquire op wait a f s =
      if wait = true then setStrand (setLoom s l { x with semWaiters := x.semWaiters ++ [(semField f, a.tile, a.strand)] }) a
        (blockedIn (getStrand s a) (.sem (semField f) (semUnits f) f.sd.toNat))
      else setStrand s a (gives (getStrand s a) f.sd.toNat 6)) := by
  intro x count queued
  have hrun : semAcquire op wait a f s = _ := semIssue_own _ _ h hop ho hsem
  refine ⟨fun hn hq => ?_, fun hn => ?_⟩
  · rw [hrun, syncN_eq, syncSem_eq, if_pos (taken_iff.mpr ⟨hn, hq⟩), semStatus_eq _ a _ _ rfl, ofNat_sub_toNat _ _ hn]
    rfl
  · rw [hrun, syncN_eq, syncSem_eq, if_neg (not_taken_iff.mpr hn)]
    split_ifs
    · rfl
    · rw [semStatus_eq s a _ _ rfl]
      rfl

/-- SEMREL on a semaphore of the own loom. -/
theorem semRelease_own (h : SemOk 6 s a l f) (hsem : semField f < 256) :
    let x := getLoom s l
    let count := (tget 0 x.sems (semField f)).toNat
    semRelease a f s = if 2 ^ 32 ≤ count + semUnits f then setStrand s a (gives (getStrand s a) f.sd.toNat 0x11)
      else serveLoomSem (setStrand (setLoom s l { x with sems := tset 0 x.sems (semField f) (BitVec.ofNat 32 (count + semUnits f)) }) a
        (gives (getStrand s a) f.sd.toNat 0)) l (semField f) := by
  intro x count
  have hrun : semRelease a f s = _ := semIssue_own _ _ h rfl (by decide) hsem
  rw [hrun, syncN_eq, syncSem_eq]
  by_cases hbig : 2 ^ 32 ≤ count + semUnits f
  · rw [if_pos hbig, if_pos (show 0xFFFFFFFF < count + semUnits f by omega), semStatus_eq s a _ _ rfl]
    rfl
  · rw [if_neg hbig, if_neg (show ¬ 0xFFFFFFFF < count + semUnits f by omega), semStatus_eq _ a _ _ rfl]
    rfl

/-- A strand that has just received its status waits for no semaphore when it waited for none before. -/
theorem noSemWait_gives {y : Strand} (hy : y.blocked = .free) (sd v : Nat) : NoSemWait (gives y sd v) := by
  intro sem n d
  rw [gives, Strand.next_blocked, Strand.sput_blocked, hy]
  exact nofun

end

theorem loomSemaphores : LoomSemaphores := by
  intro s a l f hsem y x n sem count queued with_
  refine ⟨fun h => ?acquire, fun h => ?try_, fun h => ?release⟩
  case acquire =>
    obtain ⟨htake, hwait⟩ := semAcquire_own true h rfl (by decide) hsem
    change (_ → _ → Host.Outcome.next (semAcquire 4 true a f s) = _) ∧ (_ → Host.Outcome.next (semAcquire 4 true a f s) = _)
    exact ⟨fun hn hq => congrArg _ (htake hn hq), fun hn => congrArg _ ((hwait hn).trans (if_pos rfl))⟩
  case try_ =>
    obtain ⟨htake, hwait⟩ := semAcquire_own false h rfl (by decide) hsem
    change (_ → Host.Outcome.next (semAcquire 5 false a f s) = _) ∧ (_ → Host.Outcome.next (semAcquire 5 false a f s) = _)
    exact ⟨fun hn => congrArg _ (htake hn rfl), fun hn => congrArg _ ((hwait (.inl hn)).trans (if_neg Bool.false_ne_true))⟩
  case release =>
    have hrun := semRelease_own h hsem
    change (_ → Host.Outcome.next (semRelease a f s) = _) ∧ (_ → _ → Host.Outcome.next (semRelease a f s) = _) ∧
      (_ → _ → ∃ t, Host.Outcome.next (semRelease a f s) = .next t ∧ _)
    rw [hrun]
    have hkeep : (getLoom (setStrand (with_ (count + n)) a (gives y f.sd.toNat 0)) l).semWaiters = x.semWaiters := by
      change (getLoom (setLoom s l _) l).semWaiters = _
      rw [getLoom_setLoom, if_pos rfl]
    have hy : NoSemWait (getStrand (setStrand (with_ (count + n)) a (gives y f.sd.toNat 0)) a) := by
      rw [getStrand_setStrand_same]
      exact noSemWait_gives h.1.free.2 _ _
    refine ⟨fun hbig => by rw [if_pos hbig], fun hfit hq => ?_, fun hfit hq => ?_⟩
    · rw [if_neg (Nat.not_le.mpr hfit)]
      exact congrArg _ (serveLoomGo_of_not_queued _ ((congrArg (fun ws => ws.any fun w => decide (w.1 = sem)) hkeep).trans hq))
    · rw [if_neg (Nat.not_le.mpr hfit)]
      obtain ⟨hstrand, hcount⟩ := serveLoomGo_spec l sem (getLoom (setStrand (with_ (count + n)) a (gives y f.sd.toNat 0)) l).semWaiters.length _ hy
      refine ⟨_, rfl, by rw [serveLoomSem_mem]; rfl, hcount.trans ?_, hstrand.trans (getStrand_setStrand_same _ _ _)⟩
      change (tget 0 (getLoom (setLoom s l _) l).sems sem).toNat ≤ _
      rw [getLoom_setLoom, if_pos rfl, tget_tset, if_pos rfl, BitVec.toNat_ofNat]
      exact Nat.mod_le _ _

/-! ## Shared semaphores -/

theorem preemptEval_of_none {s : State} {l : Nat} (h : (getLoom s l).preempt = none) : preemptEval s l = s := by rw [preemptEval, h]

section
variable {s : State} {a : Issuer} {l : Nat} {f : FmtD} {q : SharedSem}

/-- SEMACQ (4) or SEMTRY (5) on a shared semaphore that the loom's session may use. -/
theorem semAcquire_shared {op : Nat} (wait : Bool) (h : SemOk op s a l f) (hop : (listedOps 0xB).contains op = true) (ho : op < 64)
    (hlo : 0x800 ≤ semField f) (hhi : semField f < 0xC00) (hq : tfind s.ssems (semField f) = some q)
    (hmask : q.mask.getLsbD (getLoom s l).session = true) (hpre : (getLoom s l).preempt = none) :
    let n := semUnits f
    let put := fun q' : SharedSem => { s with ssems := tput s.ssems (semField f) q' }
    (n ≤ q.count.toNat → (wait && !q.waiters.isEmpty) = false → semAcquire op wait a f s = setStrand
      (put { q with count := BitVec.ofNat 32 (q.count.toNat - n), units := tput q.units l (tget 0 q.units l + n) }) a
      (gives (getStrand s a) f.sd.toNat 0)) ∧
    ((q.count.toNat < n ∨ (wait && !q.waiters.isEmpty) = true) → semAcquire op wait a f s =
      if wait = true then setStrand (put { q with waiters := q.waiters ++ [(l, a.tile, a.strand, n)] }) a
        (blockedIn (getStrand s a) (.sem (semField f) n f.sd.toNat))
      else setStrand s a (gives (getStrand s a) f.sd.toNat 6)) := by
  intro n put
  have hrun : semAcquire op wait a f s = _ := semIssue_shared _ _ h hop ho hlo hhi hq
  refine ⟨fun hn hw => ?_, fun hn => ?_⟩
  · rw [hrun, if_pos hmask, syncN_eq, syncSem_eq, if_pos (taken_iff.mpr ⟨hn, hw⟩), ofNat_sub_toNat _ _ hn]
    dsimp only
    rw [semStatus_eq _ a _ _ rfl]
    exact preemptEval_of_none hpre
  · rw [hrun, if_pos hmask, syncN_eq, syncSem_eq, if_neg (not_taken_iff.mpr hn)]
    split_ifs
    · rfl
    · rw [semStatus_eq s a _ _ rfl]
      rfl

/-- SEMREL on a shared semaphore that the loom's session may use. -/
theorem semRelease_shared (h : SemOk 6 s a l f) (hlo : 0x800 ≤ semField f) (hhi : semField f < 0xC00) (hq : tfind s.ssems (semField f) = some q)
    (hmask : q.mask.getLsbD (getLoom s l).session = true) :
    let n := semUnits f
    let held := tget 0 q.units l
    let given : SharedSem := { q with count := BitVec.ofNat 32 (q.count.toNat + n), units := tset 0 q.units l (held - n) }
    semRelease a f s = if held < n ∨ 2 ^ 32 ≤ q.count.toNat + n then setStrand s a (gives (getStrand s a) f.sd.toNat 0x11)
      else preemptEval (serveSem (setStrand { s with ssems := tput s.ssems (semField f) given } a
        (gives (getStrand s a) f.sd.toNat 0)) (semField f)) l := by
  intro n held given
  have hrun : semRelease a f s = _ := semIssue_shared _ _ h rfl (by decide) hlo hhi hq
  have hiff : (decide (held < n) || decide (0xFFFFFFFF < q.count.toNat + n)) = true ↔ held < n ∨ 2 ^ 32 ≤ q.count.toNat + n := by
    rw [Bool.or_eq_true, decide_eq_true_eq, decide_eq_true_eq]
    omega
  rw [hrun, if_pos hmask, syncN_eq, syncSem_eq]
  by_cases hbad : held < n ∨ 2 ^ 32 ≤ q.count.toNat + n
  · rw [if_pos hbad, if_pos (hiff.mpr hbad), semStatus_eq s a _ _ rfl]
    rfl
  · rw [if_neg hbad, if_neg (mt hiff.mp hbad), ofNat_add_toNat]
    dsimp only
    rw [semStatus_eq _ a _ _ rfl]
    rfl

end

theorem sharedSemaphores : SharedSemaphores := by
  intro s a l f q hlo hhi hq y n sem held with_
  refine ⟨fun hmask => ?denied, fun hmask hpre => ?allowed⟩
  case denied =>
    refine ⟨fun h => ?_, fun h => ?_, fun h => ?_⟩
    all_goals exact congrArg _ ((semIssue_shared _ _ h rfl (by decide) hlo hhi hq).trans (if_neg (ne_of_eq_of_ne hmask Bool.false_ne_true)))
  intro taken given
  refine ⟨fun h => ?acquire, fun h => ?try_, fun h => ?release⟩
  case acquire =>
    obtain ⟨htake, hwait⟩ := semAcquire_shared true h rfl (by decide) hlo hhi hq hmask hpre
    change (_ → _ → Host.Outcome.next (semAcquire 4 true a f s) = _) ∧ (_ → Host.Outcome.next (semAcquire 4 true a f s) = _)
    refine ⟨fun hn hw => congrArg _ (htake hn (by simp [hw])), fun hn => congrArg _ ((hwait ?_).trans (if_pos rfl))⟩
    exact hn.imp_right fun hw => by simpa using hw
  case try_ =>
    obtain ⟨htake, hwait⟩ := semAcquire_shared false h rfl (by decide) hlo hhi hq hmask hpre
    change (_ → Host.Outcome.next (semAcquire 5 false a f s) = _) ∧ (_ → Host.Outcome.next (semAcquire 5 false a f s) = _)
    exact ⟨fun hn => congrArg _ (htake hn rfl), fun hn => congrArg _ ((hwait (.inl hn)).trans (if_neg Bool.false_ne_true))⟩
  case release =>
    have hrun := semRelease_shared h hlo hhi hq hmask
    change (_ → Host.Outcome.next (semRelease a f s) = _) ∧ (_ → _ → _ → Host.Outcome.next (semRelease a f s) = _) ∧
      (_ → _ → _ → ∃ t, Host.Outcome.next (semRelease a f s) = .next t ∧ _)
    rw [hrun]
    have hlook : tfind (setStrand (with_ given) a (gives y f.sd.toNat 0)).ssems sem = some given := by
      change tfind (tput s.ssems sem given) sem = _
      rw [tfind_tput, if_pos rfl]
    have hy : NoSemWait (getStrand (setStrand (with_ given) a (gives y f.sd.toNat 0)) a) := by
      rw [getStrand_setStrand_same]
      exact noSemWait_gives h.1.free.2 _ _
    refine ⟨fun hbad => by rw [if_pos hbad], fun hheld hfit hw => ?_, fun hheld hfit hw => ?_⟩
    · rw [if_neg (not_or.mpr ⟨Nat.not_lt.mpr hheld, Nat.not_le.mpr hfit⟩)]
      refine congrArg _ ?_
      rw [serveSem_of_no_waiters hlook hw]
      exact preemptEval_of_none hpre
    · rw [if_neg (not_or.mpr ⟨Nat.not_lt.mpr hheld, Nat.not_le.mpr hfit⟩)]
      refine ⟨_, rfl, ?_⟩
      rw [preemptEval_of_none (by rw [getLoom, serveSem_looms]; exact hpre), serveSem_mem, getStrand_serveSem sem hy, getStrand_setStrand_same]
      exact ⟨rfl, rfl⟩

theorem revokedOnce : RevokedOnce := by
  intro s a l f op c hc hi hpg hpn hsb hsa hn hname hrev
  have hrun : ∀ own shared, (listedOps 0xB).contains op = true → op < 64 → semIssue op a f s own shared =
      setStrand (setLoom s l { getLoom s l with revoked := false }) a (gives (getStrand s a) f.sd.toNat 8) := by
    intro own shared hop ho
    rw [semIssue_at own shared hi hop ho (semFields_ok hpg hpn hsb hsa) hn hname, if_pos hrev, semStatus_eq _ a _ _ rfl]
    rfl
  simp only [List.mem_cons, List.not_mem_nil, or_false, Prod.mk.injEq] at hc
  rcases hc with ⟨rfl, rfl⟩ | ⟨rfl, rfl⟩ | ⟨rfl, rfl⟩
  all_goals exact congrArg _ (hrun _ _ rfl (by decide))

/-- Settles O15: each semaphore instruction is one rule for the loom's own and one for shared semaphores; serving the waiters leaves the
releasing strand, which waits for none. -/
theorem semaphores : Obligations.Semaphores := ⟨loomSemaphores, sharedSemaphores, revokedOnce⟩

end Sys2Proof.Machine
end

section
/-! SUPPORT. Vector instructions (Table 4-12, R66, R67, R116, R124): FP32 words by their magnitude, and results thread by thread. With it the
obligations about vector arithmetic and about shifts and reductions are settled. -/
namespace Sys2Proof.Machine
open Sys2Proof

/-! ## FP32 words by their magnitude -/

/-- The bits of an FP32 word below its sign. -/
def magnitude (w : W32) : Nat := w.toNat % 2 ^ 31

theorem toNat_and_magnitude (w : W32) : (w &&& 0x7fffffff).toNat = magnitude w := by
  rw [BitVec.toNat_and]
  exact Nat.and_two_pow_sub_one_eq_mod w.toNat 31

theorem f32IsNan_iff (w : W32) : f32IsNan w = true ↔ 0x7F800000 < magnitude w := by
  rw [f32IsNan, toNat_and_magnitude, decide_eq_true_eq]

theorem f32Val_eq (w : W32) : f32Val w =
    if (w.toNat >>> 23) % 2 ^ 8 = 255 then (if w.toNat % 2 ^ 23 = 0 then .inf (decide ((w.toNat >>> 31) % 2 = 1)) else .nan)
    else if (w.toNat >>> 23) % 2 ^ 8 = 0 then .fin (decide ((w.toNat >>> 31) % 2 = 1)) (w.toNat % 2 ^ 23) shF32.ulpMin
    else .fin (decide ((w.toNat >>> 31) % 2 = 1)) (w.toNat % 2 ^ 23 + 2 ^ 23) (((w.toNat >>> 23) % 2 ^ 8 : Nat) - shF32.bias - shF32.fb) := by
  by_cases h : (w.toNat >>> 23) % 2 ^ 8 = 255
  · rw [if_pos h]
    exact if_pos (decide_eq_true h)
  · rw [if_neg h]
    exact (if_neg (mt of_decide_eq_true h)).trans (if_neg Bool.false_ne_true)

/-- An FP32 word's magnitude by its exponent and fraction fields. -/
theorem magnitude_eq_fields (w : W32) : magnitude w = (w.toNat >>> 23) % 2 ^ 8 * 2 ^ 23 + w.toNat % 2 ^ 23 := by
  simp only [magnitude, Nat.shiftRight_eq_div_pow]
  omega

theorem f32Val_of_nan {w : W32} (h : f32IsNan w = true) : f32Val w = .nan := by
  have hm := (f32IsNan_iff w).mp h
  rw [magnitude_eq_fields] at hm
  rw [f32Val_eq, if_pos (by omega), if_neg (by omega)]

theorem f32Val_of_finite {w : W32} (h : magnitude w < 0x7F800000) : ∃ neg m e, f32Val w = .fin neg m e ∧ (m = 0 ↔ magnitude w = 0) := by
  rw [magnitude_eq_fields] at h
  rw [f32Val_eq, if_neg (by omega), magnitude_eq_fields]
  split_ifs with hz
  · exact ⟨_, _, _, rfl, by omega⟩
  · exact ⟨_, _, _, rfl, by omega⟩

theorem f32Val_of_not_finite {w : W32} (h : ¬ magnitude w < 0x7F800000) : f32Val w = .nan ∨ ∃ neg, f32Val w = .inf neg := by
  rw [magnitude_eq_fields] at h
  rw [f32Val_eq, if_pos (by omega)]
  split_ifs
  · exact .inr ⟨_, rfl⟩
  · exact .inl rfl

theorem f32Key_eq (w : W32) : f32Key w = fpOrder w := by
  have hlt := w.isLt
  have hsign : w.getLsbD 31 = decide (2 ^ 31 ≤ w.toNat) := BitVec.msb_eq_decide w
  rw [f32Key, fpOrder, toNat_and_magnitude, magnitude, hsign]
  split_ifs with h1 h2
  · simp only [decide_eq_true_eq] at h1
    omega
  · simp only [decide_eq_true_eq] at h1
    omega
  · omega
  · simp only [decide_eq_true_eq] at h1
    omega

theorem nan_magnitudes_iff (a b : W32) : (f32IsNan a || f32IsNan b) = true ↔ 0x7F800000 < a.toNat % 2 ^ 31 ∨ 0x7F800000 < b.toNat % 2 ^ 31 := by
  rw [Bool.or_eq_true, f32IsNan_iff, f32IsNan_iff]
  rfl

theorem f32Min_eq (a b : W32) : f32Min a b = minMax true a b := by
  rw [f32Min, minMax]
  simp only [nan_magnitudes_iff, f32Key_eq, f32Nan, eq_iff_iff, iff_true]

theorem f32Max_eq (a b : W32) : f32Max a b = minMax false a b := by
  rw [f32Max, minMax]
  simp only [nan_magnitudes_iff, f32Key_eq, f32Nan, eq_iff_iff, Bool.false_eq_true, iff_false]
  rw [ite_not]

/-- DZ: a zero divisor under a finite, non-zero dividend, by the magnitudes. -/
theorem dzFlag_eq (a b : W32) : dzFlag a b = if b.toNat % 2 ^ 31 = 0 ∧ a.toNat % 2 ^ 31 < 0x7F800000 ∧ a.toNat % 2 ^ 31 ≠ 0 then 16 else 0 := by
  change dzFlag a b = if magnitude b = 0 ∧ magnitude a < 0x7F800000 ∧ magnitude a ≠ 0 then 16 else 0
  by_cases ha : magnitude a < 0x7F800000
  · obtain ⟨_, m, _, hav, hm⟩ := f32Val_of_finite ha
    by_cases hb : magnitude b < 0x7F800000
    · obtain ⟨_, n, _, hbv, hn⟩ := f32Val_of_finite hb
      simp [dzFlag, hav, hbv, ← hm, ← hn, ha, fDz, and_comm]
    · rw [if_neg (by omega)]
      rcases f32Val_of_not_finite hb with h | ⟨_, h⟩ <;> simp [dzFlag, hav, h]
  · rw [if_neg (by omega)]
    rcases f32Val_of_not_finite ha with h | ⟨_, h⟩ <;> simp [dzFlag, h]

/-- A comparison that is false where a source is a NaN. -/
theorem compare_nan {g : W32 → W32 → Bool} (hg : ∀ a b, f32Val a = .nan ∨ f32Val b = .nan → g a b = false) (a b : W32) :
    g a b = (!f32IsNan a && !f32IsNan b && g a b) := by
  by_cases ha : f32IsNan a = true
  · rw [hg a b (.inl (f32Val_of_nan ha)), Bool.and_false]
  · by_cases hb : f32IsNan b = true
    · rw [hg a b (.inr (f32Val_of_nan hb)), Bool.and_false]
    · rw [Bool.eq_false_iff.mpr ha, Bool.eq_false_iff.mpr hb]
      rfl

theorem f32Lt_nan (a b : W32) (h : f32Val a = .nan ∨ f32Val b = .nan) : f32Lt a b = false := by
  rcases h with h | h
  · simp [f32Lt, h]
  · cases hb : f32Val a <;> simp [f32Lt, h, hb]

theorem f32Eq_nan (a b : W32) (h : f32Val a = .nan ∨ f32Val b = .nan) : f32Eq a b = false := by
  rcases h with h | h
  · simp [f32Eq, h]
  · cases hb : f32Val a <;> simp [f32Eq, h, hb]

/-! ## Results thread by thread -/

theorem vecResult_vecWrite (y : Strand) (pg : BitVec 3) (pn : Bool) (rd : Nat) (g : Nat → W32 × AFlags) :
    VecResult y (vecWrite y pg pn rd g).next pg pn rd (fun t => (g t).1) fun t => (g t).2 := by
  obtain ⟨hv, hasw, v, w, hz⟩ := vecWrite_spec y pg pn rd g
  refine ⟨?_, fun t ht ha => ?_, fun t ht ha => ?_, fun r t hr ht => ?_, hasw, ?_⟩
  · rw [hz]
    rfl
  · exact (hv rd t ht).trans (if_pos ⟨rfl, ha⟩)
  · exact (hv rd t ht).trans (if_neg fun h => Bool.false_ne_true (ha.symm.trans h.2))
  · exact (hv r t ht).trans (if_neg fun h => hr h.1)
  · rw [hz]
    rfl

theorem predResult_predWrite (y : Strand) (pg : BitVec 3) (pn : Bool) (rd : Nat) (g : Nat → Bool) :
    PredResult y (predWrite y pg pn rd g).next pg pn rd g := by
  obtain ⟨hv, p, hz⟩ := predWrite_spec y pg pn rd g
  refine ⟨?_, fun t ht ha h0 => ?_, fun t ht ha => ?_, fun r t hr ht => ?_, ?_⟩
  · rw [hz]
    rfl
  · exact (hv rd t ht).trans (if_pos ⟨rfl, h0, ha⟩)
  · exact (hv rd t ht).trans (if_neg fun h => Bool.false_ne_true (ha.symm.trans h.2.2))
  · exact (hv r t ht).trans (if_neg fun h => hr.elim (· h.1) h.2.1)
  · rw [hz]
    rfl

section
variable {c : Issuer → FmtR → Instr} {op : Nat} {ok : FmtR → Bool}

theorem listed_valu (op : Nat) (f : FmtR) (h : (listedOps 3).contains op = true) (ho : op < 64) : listed (wordR 3 op f) = true :=
  (listed_wordR 3 op f (by decide) ho).trans h

/-- A listed vector instruction that writes g of its strand. -/
theorem vecOp_of_write {chk : FmtR → Bool} {v : Strand → FmtR → Nat → W32} {fl : Strand → FmtR → Nat → W64} (g : Strand → FmtR → Nat → W32 × AFlags)
    (hx : ∀ a f s, exec (c a f) s = .next (issueReg s a (wordR 3 op f) (chk f) fun _ y => .ok (vecWrite y f.pg f.pn f.rd.toNat (g y f)).next))
    (hop : (listedOps 3).contains op = true) (ho : op < 64) (hok : ∀ f, fieldsR f = true → ok f = true → chk f = true)
    (hv : ∀ y f t, g y f t = (v y f t, fl y f t)) : VecOp c op ok v fl := by
  intro s a l f hi hf hk
  refine ⟨_, by rw [hx, issueReg_at _ hi (listed_valu op f hop ho) (hok f hf hk) rfl], ?_⟩
  have hres := vecResult_vecWrite (getStrand s a) f.pg f.pn f.rd.toNat (g (getStrand s a) f)
  simp only [hv] at hres ⊢
  exact hres

/-- A listed vector instruction of class VALU, by its function. -/
theorem vecOp_valu {rounds : Bool} {v : Strand → FmtR → Nat → W32} {fl : Strand → FmtR → Nat → W64} (g : Strand → FmtR → Nat → W32 × AFlags)
    (hx : ∀ a f s, exec (c a f) s = valu op rounds g a f s) (hop : (listedOps 3).contains op = true) (ho : op < 64)
    (hok : ∀ f, ok f = true → rounds = true → f.rnd = 0) (hv : ∀ y f t, g y f t = (v y f t, fl y f t)) : VecOp c op ok v fl :=
  vecOp_of_write g hx hop ho (fun f hf hk => by
    cases rounds with
    | false => simpa using hf
    | true => simpa [hf] using hok f hk rfl) hv

/-- An FP32 instruction whose function gives v and INV. -/
theorem vecF_valu {n : Nat} {v : W32 → W32 → W32 → W32} (g : Strand → FmtR → Nat → W32 × AFlags)
    (hx : ∀ a f s, exec (c a f) s = valu op true g a f s) (hop : (listedOps 3).contains op = true) (ho : op < 64)
    (hv : ∀ y f t, g y f t = (v (y.vget f.ra.toNat t) (y.vget f.rb.toNat t) (y.vget f.rc.toNat t),
      invOf ([y.vget f.ra.toNat t, y.vget f.rb.toNat t, y.vget f.rc.toNat t].take n)
        (v (y.vget f.ra.toNat t) (y.vget f.rb.toNat t) (y.vget f.rc.toNat t)))) : VecF c op n v :=
  vecOp_valu g hx hop ho (fun _ h _ => of_decide_eq_true h) hv

/-- An integer instruction whose function gives v and no flag. -/
theorem vecI_valu {v : W32 → W32 → W32} (h : W32 → W32 → W32) (hx : ∀ a f s, exec (c a f) s = valu op false (vi2 h) a f s)
    (hop : (listedOps 3).contains op = true) (ho : op < 64) (hv : ∀ x y, h x y = v x y) : VecI c op v :=
  vecOp_valu (vi2 h) hx hop ho (fun _ _ => nofun) fun _ _ _ => by rw [vi2, hv]

/-- A listed vector instruction that writes a predicate. -/
theorem predOp_of_write {chk : FmtR → Bool} {v : Strand → FmtR → Nat → Bool} (g : Strand → FmtR → Nat → Bool)
    (hx : ∀ a f s, exec (c a f) s = .next (issueReg s a (wordR 3 op f) (chk f) fun _ y => .ok (predWrite y f.pg f.pn f.rd.toNat (g y f)).next))
    (hop : (listedOps 3).contains op = true) (ho : op < 64) (hok : ∀ f, fieldsR f = true → f.rd.toNat < 8 → ok f = true → chk f = true)
    (hv : ∀ y f t, g y f t = v y f t) : PredOp c op ok v := by
  intro s a l f hi hf hrd hk
  refine ⟨_, by rw [hx, issueReg_at _ hi (listed_valu op f hop ho) (hok f hf hrd hk) rfl], ?_⟩
  have hres := predResult_predWrite (getStrand s a) f.pg f.pn f.rd.toNat (g (getStrand s a) f)
  rw [show g (getStrand s a) f = v (getStrand s a) f from funext (hv _ f)] at hres ⊢
  exact hres

/-- A listed vector comparison. -/
theorem predOp_vcmp {v : Strand → FmtR → Nat → Bool} (g : W32 → W32 → Bool) (hx : ∀ a f s, exec (c a f) s = vcmp op g a f s)
    (hop : (listedOps 3).contains op = true) (ho : op < 64) (hv : ∀ y (f : FmtR) t, g (y.vget f.ra.toNat t) (y.vget f.rb.toNat t) = v y f t) :
    PredOp c op (fun _ => true) v :=
  predOp_of_write _ hx hop ho (fun f hf hrd _ => by simp [hf, isP, hrd]) hv

end

theorem vectorFloat : VectorFloat := by
  refine ⟨vecF_valu (vf2 f32Add) (fun _ _ _ => rfl) rfl (by decide) fun _ _ _ => rfl, vecF_valu (vf2 f32Sub) (fun _ _ _ => rfl) rfl (by decide) fun _ _ _ => rfl,
    vecF_valu (vf2 f32Mul) (fun _ _ _ => rfl) rfl (by decide) fun _ _ _ => rfl, vecF_valu (vf3 f32Fma) (fun _ _ _ => rfl) rfl (by decide) fun _ _ _ => rfl,
    vecOp_valu (fun y f t => fpDiv (y.vget f.ra.toNat t) (y.vget f.rb.toNat t)) (fun _ _ _ => rfl) rfl (by decide)
      (fun _ h _ => of_decide_eq_true h) fun _ _ _ => ?div,
    vecF_valu (vf1 f32Sqrt) (fun _ _ _ => rfl) rfl (by decide) fun _ _ _ => rfl, vecF_valu (vf1 f32Rsqrt) (fun _ _ _ => rfl) rfl (by decide) fun _ _ _ => rfl,
    vecF_valu (vf1 f32Exp2) (fun _ _ _ => rfl) rfl (by decide) fun _ _ _ => rfl, vecF_valu (vf1 f32Log2) (fun _ _ _ => rfl) rfl (by decide) fun _ _ _ => rfl⟩
  case div =>
    rw [fpDiv, dzFlag_eq]
    rfl

theorem and_thirtyOne (w : W32) : (w &&& 31).toNat = w.toNat % 32 := by
  rw [BitVec.toNat_and]
  exact Nat.and_two_pow_sub_one_eq_mod w.toNat 5

theorem Strand.flag_none (y : Strand) : y.flag 0 = y := by
  cases y
  simp [Strand.flag]

theorem vectorInteger : VectorInteger := by
  refine ⟨vecI_valu (· + ·) (fun _ _ _ => rfl) rfl (by decide) ?add, vecI_valu (· - ·) (fun _ _ _ => rfl) rfl (by decide) ?sub,
    vecI_valu (· * ·) (fun _ _ _ => rfl) rfl (by decide) ?mul, vecI_valu (· &&& ·) (fun _ _ _ => rfl) rfl (by decide) ?and,
    vecI_valu (· ||| ·) (fun _ _ _ => rfl) rfl (by decide) ?or, vecI_valu (· ^^^ ·) (fun _ _ _ => rfl) rfl (by decide) ?xor,
    vecOp_valu (fun y f t => (y.vget f.ra.toNat t, 0)) (fun _ _ _ => rfl) rfl (by decide) (fun _ _ => nofun) fun _ _ _ => rfl,
    vecOp_of_write (fun y f _ => ((y.sget f.ra.toNat).setWidth 32, 0)) (fun _ _ _ => rfl) rfl (by decide) (fun f hf hk => ?bcast) fun _ _ _ => rfl,
    vecOp_of_write (fun y f t => (y.vget f.ra.toNat (y.vget f.rb.toNat t &&& 31).toNat, 0)) (fun _ _ _ => rfl) rfl (by decide) (fun _ hf _ => hf) ?shfl,
    fun s a l f hi hrsv => ?vli⟩
  case add => exact BitVec.add_def
  case sub => exact ofInt_toInt_sub
  case mul => exact fun _ _ => BitVec.mul_def
  case and | or | xor => exact fun _ _ => rfl
  case bcast => exact Bool.and_eq_true_iff.mpr ⟨hf, hk⟩
  case shfl => exact fun y f t => by rw [and_thirtyOne]
  case vli =>
    have hlist : listed (wordI 1 0x10 f) = true := listed_wordI 1 0x10 f (by decide) (by decide)
    refine ⟨_, ?_, vecResult_vecWrite (getStrand s a) f.pg f.pn f.rd.toNat fun _ => (f.imm, 0)⟩
    change Host.Outcome.next (issueReg s a (wordI 1 0x10 f) (decide (f.rsv = 0)) _) = _
    rw [issueReg_at _ hi hlist (decide_eq_true hrsv) rfl]
    simp only [vecWrite, Strand.flag_none]

theorem vectorCompare : VectorCompare := by
  refine ⟨⟨vecOp_valu (vf2 f32Min) (fun _ _ _ => rfl) rfl (by decide) (fun _ _ => nofun) fun y f t => ?min,
      vecOp_valu (vf2 f32Max) (fun _ _ _ => rfl) rfl (by decide) (fun _ _ => nofun) fun y f t => ?max⟩,
    predOp_vcmp f32Lt (fun _ _ _ => rfl) rfl (by decide) fun _ _ _ => compare_nan f32Lt_nan _ _,
    predOp_vcmp f32Eq (fun _ _ _ => rfl) rfl (by decide) fun _ _ _ => compare_nan f32Eq_nan _ _,
    predOp_vcmp (fun x y => x.slt y) (fun _ _ _ => rfl) rfl (by decide) fun _ _ _ => rfl,
    predOp_of_write (fun y f t => y.pget f.ra.toNat t && y.pget f.rb.toNat t) (fun _ _ _ => rfl) rfl (by decide) (fun f hf hrd hk => ?_) fun _ _ _ => rfl,
    predOp_of_write (fun y f t => y.pget f.ra.toNat t || y.pget f.rb.toNat t) (fun _ _ _ => rfl) rfl (by decide) (fun f hf hrd hk => ?_) fun _ _ _ => rfl,
    predOp_of_write (fun y f t => !y.pget f.ra.toNat t) (fun _ _ _ => rfl) rfl (by decide) (fun f hf hrd hk => ?_) fun _ _ _ => rfl⟩
  case min =>
    rw [vf2, fp2, f32Min_eq]
    rfl
  case max =>
    rw [vf2, fp2, f32Max_eq]
    rfl
  all_goals simpa [hf, isP, hrd] using hk

/-- Settles O4: each instruction writes its function of every thread; the functions are those of the tables, the comparisons by the
magnitudes of their words. -/
theorem vectorArithmetic : Obligations.VectorArithmetic := ⟨vectorFloat, vectorInteger, vectorCompare⟩

/-! ## Shifts and reductions -/

/-- The result of a shift in one thread: a free value, drawn for it, at a count of 32 or more. -/
def shiftResult (v : W32 → Nat → W32) (k : Nat) (y : Strand) (f : FmtR) (t : Nat) : W32 :=
  if (y.vget f.rb.toNat t).toNat < 32 then v (y.vget f.ra.toNat t) (y.vget f.rb.toNat t).toNat else (Config.freeWord (k + t)).setWidth 32

/-- A listed shift of class VALU. -/
theorem shiftOp_vshift {c : Issuer → FmtR → Instr} {op : Nat} {v : W32 → Nat → W32} (hx : ∀ a f s, exec (c a f) s = vshift op v a f s)
    (hop : (listedOps 3).contains op = true) (ho : op < 64) : ShiftOp c op v := by
  intro s a l f hi hf
  refine ⟨(vecWrite (getStrand s a) f.pg f.pn f.rd.toNat fun t => (shiftResult v s.free (getStrand s a) f t, 0)).next,
    shiftResult v s.free (getStrand s a) f, ?_, fun t ht => if_pos ht, vecResult_vecWrite _ _ _ _ _⟩
  rw [hx, vshift, issue_at _ hi (listed_valu op f hop ho)]
  simp only [hf, Bool.not_true, Bool.false_eq_true, if_false]
  rfl

theorem f32Canon_eq (w : W32) : f32Canon w = canonNan w := rfl

theorem leaves_eq_reduceLeaves (y : Strand) (f : FmtR) : leaves y f = reduceLeaves y f := rfl

theorem low_append (hi lo : W32) : (hi ++ lo).setWidth 32 = lo := BitVec.setWidth_append_eq_right

/-- A listed reduction of class VALU. -/
theorem reduceOp_reduce {c : Issuer → FmtR → Instr} {op : Nat} {rounds : Bool} {h : W32 → W32 → W32} {none_ : W32}
    (hx : ∀ a f s, exec (c a f) s = reduce op rounds (fp2 h) none_ a f s) (hop : (listedOps 3).contains op = true) (ho : op < 64) :
    ReduceOp c op h none_ := by
  intro s a l f hi hf hrd hrnd
  have hchk : (fieldsR f && isS f.rd && (!rounds || f.rnd = 0)) = true := by simp [hf, isS, hrd, hrnd]
  refine ⟨(Config.freeWord s.free).setWidth 32 ++ f32Canon ((treeFold (fp2 h) 5 (leaves (getStrand s a) f)).1.getD none_), Strand.next
    (((getStrand s a).sput f.rd.toNat ((Config.freeWord s.free).setWidth 32 ++ f32Canon ((treeFold (fp2 h) 5 (leaves (getStrand s a) f)).1.getD none_))).flag
      (treeFold (fp2 h) 5 (leaves (getStrand s a) f)).2), ?_, ?_, by simp⟩
  · rw [hx, reduce, issue_at _ hi (listed_valu op f hop ho)]
    simp only [hchk, Bool.not_true, Bool.false_eq_true, if_false]
    rfl
  · rw [low_append, f32Canon_eq, leaves_eq_reduceLeaves]
    rfl

/-- Settles O5: a shift writes its function of every thread, a reduction the tree over the threads that execute. -/
theorem shiftsAndReductions : Obligations.ShiftsAndReductions :=
  ⟨shiftOp_vshift (fun _ _ _ => rfl) rfl (by decide), shiftOp_vshift (fun _ _ _ => rfl) rfl (by decide),
    reduceOp_reduce (rounds := true) (fun _ _ _ => rfl) rfl (by decide), reduceOp_reduce (rounds := false) (fun _ _ _ => rfl) rfl (by decide)⟩

end Sys2Proof.Machine
end

section
/-! SUPPORT. Memory as a loom reads and writes it (R215, R217): the bytes at their homes, what the row agents count, and what is served behind an
access when the agents hold none of their own. -/
namespace Sys2Proof.Machine
open Sys2Proof

/-! ## Bytes one by one -/

theorem memGetN_eq_map (m : List Host.Cell) (a n : Nat) : memGetN m a n = (List.range n).map fun i => memGet m (a + i) := by
  induction n generalizing a with
  | zero => rfl
  | succ n ih =>
    rw [memGetN, ih, List.range_succ_eq_map, List.map_cons, List.map_map]
    refine congrArg _ (List.map_congr_left fun i _ => ?_)
    change memGet m (a + 1 + i) = memGet m (a + (i + 1))
    rw [Nat.add_right_comm, Nat.add_assoc]

/-- The stores of bytes to the places that home gives, in order. -/
def storesAt (home : Nat → Nat) (bs : List Byte) : List (Nat × Byte) := (List.range bs.length).map fun i => (home i, bs.getD i 0)

theorem storesAt_cons (home : Nat → Nat) (b : Byte) (bs : List Byte) :
    storesAt home (b :: bs) = (home 0, b) :: storesAt (fun i => home (i + 1)) bs := by
  rw [storesAt, List.length_cons, List.range_succ_eq_map, List.map_cons, List.map_map]
  rfl

theorem memSetN_eq_storeBytes (m : List Host.Cell) (a : Nat) (bs : List Byte) : memSetN m a bs = storeBytes m (storesAt (a + ·) bs) := by
  induction bs generalizing m a with
  | nil => rfl
  | cons b bs ih =>
    have hshift : (fun i => a + 1 + i) = fun i => a + (i + 1) := funext fun i => by omega
    rw [memSetN, ih, storesAt_cons, hshift]
    rfl

theorem storeBytes_append (m : List Host.Cell) (ws vs : List (Nat × Byte)) : storeBytes m (ws ++ vs) = storeBytes (storeBytes m ws) vs := List.foldl_append

theorem toLe_getD (n v i : Nat) (h : i < n) : (toLe n v).getD i 0 = BitVec.ofNat 8 (v / 256 ^ i) := by
  rw [toLe_eq_map, List.getD_eq_getElem?_getD, List.getElem?_map, List.getElem?_range h]
  rfl

theorem storesAt_toLe (home : Nat → Nat) (n v : Nat) : storesAt home (toLe n v) = (List.range n).map fun i => (home i, BitVec.ofNat 8 (v / 256 ^ i)) := by
  rw [storesAt, toLe_length]
  exact List.map_congr_left fun i hi => by rw [toLe_getD n v i (List.mem_range.mp hi)]

/-! ## As a loom -/

theorem byteHome_of_no_hot {x : Loom} (h : x.hot = []) (a : Nat) : byteHome x a = a := by simp [byteHome, rowHome, rowAt, h]

/-- A loom without hot regions has no index. (The definition is unfolded unapplied, so that the kernel need not decode the address.) -/
theorem indexByte_of_no_hot (v : Variant) {x : Loom} (a : Nat) (h : x.hot = []) : indexByte v x a = none := by
  suffices hdef : ∀ f, f = indexByte → f v x a = none from hdef indexByte rfl
  intro f hf
  delta indexByte at hf
  subst hf
  beta_reduce
  generalize place v a = p
  rw [h]
  cases p <;> rfl

theorem byteVia_of_no_hot {s : State} {l : Nat} (h : (getLoom s l).hot = []) (a : Nat) : byteVia s l a = memGet s.mem a := by
  rw [byteVia, indexByte_of_no_hot _ _ h, Option.getD_none, byteHome_of_no_hot h]

theorem readVia_eq (s : State) (l a n : Nat) : readVia s l a n = bytesVia s l a n := by
  rw [readVia]
  split_ifs with h
  · rw [rdN, memGetN_eq_map]
    exact List.map_congr_left fun i _ => (byteVia_of_no_hot (by simpa using h) _).symm
  · rfl

theorem bytesVia_length (s : State) (l a n : Nat) : (bytesVia s l a n).length = n := by simp [bytesVia]

theorem foldl_zip_range {β : Type} (g : β → Byte → Nat → β) (bs : List Byte) (x : β) :
    (bs.zip (List.range bs.length)).foldl (fun x p => g x p.1 p.2) x = (List.range bs.length).foldl (fun x i => g x (bs.getD i 0) i) x := by
  have hzip : bs.zip (List.range bs.length) = (List.range bs.length).map fun i => (bs.getD i 0, i) := by
    apply List.ext_getElem <;> simp +contextual
  rw [hzip, List.foldl_map]

/-- A write as a loom: each byte goes to its home, and only memory and the record of memory errors change. -/
theorem writeVia_eq (s : State) (l a : Nat) (bs : List Byte) : ∃ fl, writeVia s l a bs =
    { s with mem := storeBytes s.mem (storesAt (fun i => byteHome (getLoom s l) (a + i)) bs), faults := fl } := by
  rw [writeVia]
  generalize getLoom s l = x
  dsimp only
  split_ifs with h
  · have hhome : (fun i => byteHome x (a + i)) = (a + ·) := funext fun i => byteHome_of_no_hot (by simpa using h) _
    rw [hhome, ← memSetN_eq_storeBytes, wrData]
    dsimp only
    split_ifs
    · exact ⟨_, rfl⟩
    · exact ⟨_, rfl⟩
  · have hbytes : (bs.zip (List.range bs.length)).foldl (fun s (p : Byte × Nat) => wrN s (ownerAt x (a + p.2)) [p.1]) s =
        { s with mem := storeBytes s.mem (storesAt (fun i => byteHome x (a + i)) bs) } := by
      rw [← foldl_wrN_byte, storesAt, List.foldl_map]
      exact foldl_zip_range (fun u b i => wrN u (ownerAt x (a + i)) [b]) bs s
    change ∃ fl, clearVia ((bs.zip (List.range bs.length)).foldl (fun s (p : Byte × Nat) => wrN s (ownerAt x (a + p.2)) [p.1]) s) x a bs.length = _
    rw [hbytes, clearVia]
    split_ifs
    · exact ⟨_, rfl⟩
    · exact ⟨_, rfl⟩

/-! ## What the row agents count -/

/-- The row agents have counted accesses: looms alone have changed, and no held access of a loom. -/
def AgentsCounted (s t : State) : Prop := ∃ ls, t = { s with looms := ls } ∧ ∀ k, (getLoom t k).rowWaits = (getLoom s k).rowWaits

theorem AgentsCounted.refl (s : State) : AgentsCounted s s := ⟨s.looms, rfl, fun _ => rfl⟩

theorem AgentsCounted.trans {s t u : State} (h : AgentsCounted s t) (h' : AgentsCounted t u) : AgentsCounted s u := by
  obtain ⟨ls, rfl, hw⟩ := h
  obtain ⟨ls', rfl, hw'⟩ := h'
  exact ⟨ls', rfl, fun k => (hw' k).trans (hw k)⟩

theorem AgentsCounted.foldl {α : Type} (g : State → α → State) (hg : ∀ s x, AgentsCounted s (g s x)) (xs : List α) (s : State) :
    AgentsCounted s (xs.foldl g s) := by
  induction xs generalizing s with
  | nil => exact .refl s
  | cons x xs ih => exact (hg s x).trans (ih (g s x))

theorem rowTouch_rowWaits (x : Loom) (h : HotRegion) (row : Nat) (write : Bool) : (rowTouch x h row write).rowWaits = x.rowWaits := by
  rw [rowTouch]
  dsimp only
  split <;> rfl

theorem agentsCounted_touchRange (s : State) (l a n : Nat) (write : Bool) : AgentsCounted s (touchRange s l a n write) := by
  refine AgentsCounted.foldl _ (fun s r => ?_) _ s
  split
  · next h _ =>
    refine ⟨_, rfl, fun k => ?_⟩
    rw [getLoom_modLoom]
    split_ifs with hk
    · rw [rowTouch_rowWaits, hk]
    · rfl
  · exact .refl s

theorem AgentsCounted.agentsIdle {s t : State} (h : AgentsCounted s t) {l : Nat} (hi : agentsIdle s l) : agentsIdle t l := by
  obtain ⟨ls, -, hw⟩ := h
  intro w hm
  exact hi w (hw l ▸ hm)

/-- No access of its own command may be served where the agents hold none. -/
theorem heldReady_of_idle (s : State) (x : Loom) (before ws : List RowWait) (h : ∀ w ∈ ws, byAgent w.who = false) : heldReady s x before ws = none := by
  induction ws generalizing before with
  | nil => rfl
  | cons w ws ih =>
    have hw := h w List.mem_cons_self
    rw [heldReady]
    cases hwho : w.who with
    | agent a => simp [hwho, byAgent] at hw
    | _ => exact ih _ fun v hv => h v (List.mem_cons_of_mem _ hv)

theorem serveAll_of_idle {s : State} {l : Nat} (h : agentsIdle s l) : serveAll s l = s := by
  rw [serveAll]
  cases (getLoom s l).rowWaits.length with
  | zero => rfl
  | succ n => rw [serveHeld, heldReady_of_idle s _ _ _ h]

/-- Where the agents hold no access of their own command, an access served changes only what its loom's agents hold. -/
theorem rowsServed_of_idle {s : State} {l : Nat} (who : RowUser) (h : agentsIdle s l) : ∃ ls, rowsServed s l who = { s with looms := ls } := by
  rw [rowsServed]
  split_ifs
  · exact ⟨s.looms, rfl⟩
  · rw [serveAll_of_idle]
    · exact ⟨_, rfl⟩
    · intro w hw
      rw [getLoom_modLoom, if_pos rfl] at hw
      exact h w (List.mem_of_mem_filter hw)

end Sys2Proof.Machine
end

section
/-! SUPPORT. Loads and stores (Table 4-14, R129, R130, R166): what an access that faults, and one that is in order, comes to. With it the
obligation about access faults is settled. -/
namespace Sys2Proof.Machine
open Sys2Proof

/-! ## The status of an access -/

theorem worst_of_bad {ss : List Byte} (h : stBad ∈ ss) : worst ss = stBad := if_pos (by simpa using h)

theorem worst_of_perm {ss : List Byte} (hbad : stBad ∉ ss) (h : stPerm ∈ ss) : worst ss = stPerm := by
  rw [worst, if_neg (by simpa using hbad), if_pos (by simpa using h)]

theorem worst_of_ok {ss : List Byte} (h : ∀ st ∈ ss, st = stOk) : worst ss = stOk := by
  have hnot : ∀ st, st ≠ stOk → ss.contains st = false := fun st hst => by
    rw [Bool.eq_false_iff, ne_eq, List.contains_iff_mem]
    exact fun hm => hst (h st hm)
  rw [worst, hnot stBad (by decide), hnot stPerm (by decide), hnot stUncorr (by decide)]
  rfl

theorem memEnd_lt_tsBase (v : Variant) : Config.memEnd v < tsBase := by cases v <;> decide

theorem place_of_stack {v : Variant} {a : Nat} (h : a < Config.memEnd v) : place v a = .stack a := if_pos h

theorem place_of_tile {v : Variant} {a : Nat} (h : tsBase ≤ a) (h' : a < tsBase + 5120 * 2 ^ 23) :
    place v a = .tile ((a - tsBase) / 2 ^ 23) ((a - tsBase) % 2 ^ 23) := by
  have := memEnd_lt_tsBase v
  rw [place, if_neg (by omega), if_pos (by simpa [h] using h')]

theorem place_of_reg {v : Variant} {a : Nat} (h : regBase ≤ a) (h' : a < regBase + 2 ^ 30) : place v a = .reg (a - regBase) := by
  have := memEnd_lt_tsBase v
  have htile : tsBase + 5120 * 2 ^ 23 ≤ regBase := by decide
  rw [place, if_neg (by omega), if_neg (by simp; omega), if_pos (by simpa [h] using h')]

section
variable {v : Variant} {x : Loom} {a n al : Nat}

theorem accStatus_of_misaligned (h : a % al ≠ 0) : accStatus v x a n al = stBad := if_pos h

theorem accStatus_of_tile {k o : Nat} (hal : a % al = 0) (h : place v a = .tile k o) :
    accStatus v x a n al = if tsBytes < o + n then stBad else if mapGives v x a n then stOk else stPerm := by
  rw [accStatus, if_neg (not_not.mpr hal), h]

theorem accStatus_of_stack {o : Nat} (hal : a % al = 0) (h : place v a = .stack o) :
    accStatus v x a n al = if Config.memEnd v < a + n then stBad else if mapGives v x a n then stOk else stPerm := by
  rw [accStatus, if_neg (not_not.mpr hal), h]

/-- An access of a tile's store that passes its 7 MiB. -/
theorem accStatus_of_past (h : tsBase ≤ a) (h' : a < tsBase + 5120 * 2 ^ 23) (ho : tsBytes < (a - tsBase) % 2 ^ 23 + n) : accStatus v x a n al = stBad := by
  by_cases hal : a % al = 0
  · rw [accStatus_of_tile hal (place_of_tile h h'), if_pos ho]
  · exact accStatus_of_misaligned hal

/-- An access that is no bad command, of a range that the loom's map does not give. -/
theorem accStatus_of_outside (hbad : accStatus v x a n al ≠ stBad) (h : (tsBase ≤ a ∧ a < tsBase + 5120 * 2 ^ 23) ∨ a < Config.memEnd v)
    (hmap : mapGives v x a n = false) : accStatus v x a n al = stPerm := by
  have hal : a % al = 0 := by_contra fun h => hbad (accStatus_of_misaligned h)
  have hlast : (if mapGives v x a n = true then stOk else stPerm) = stPerm := if_neg (ne_of_eq_of_ne hmap Bool.false_ne_true)
  rcases h with ⟨h, h'⟩ | h
  · rw [accStatus_of_tile hal (place_of_tile h h')] at hbad ⊢
    rw [if_neg fun hp => hbad (if_pos hp), hlast]
  · rw [accStatus_of_stack hal (place_of_stack h)] at hbad ⊢
    rw [if_neg fun hp => hbad (if_pos hp), hlast]

/-- An access of a register that is no bad command. -/
theorem accStatus_of_reg (hbad : accStatus v x a n al ≠ stBad) (h : regBase ≤ a) (h' : a < regBase + 2 ^ 30) : accStatus v x a n al = stPerm := by
  have hal : a % al = 0 := by_contra fun h => hbad (accStatus_of_misaligned h)
  rw [accStatus, if_neg (not_not.mpr hal), place_of_reg h h']

end

/-! ## What a load or store comes to -/

/-- The accesses of a load or store: of its threads, or of its one address. -/
def accesses (vector : Bool) (y : Strand) (f : FmtM) (sz : Nat) : List (Nat × Nat) := if vector then ldstAddrs y f sz else [(0, scalarAddr y f)]

section
variable {s : State} {a : Issuer} {l op sz : Nat} {f : FmtM} {store vector : Bool} {k : State → Nat → Strand → List (Nat × Nat) → State}

theorem listed_ldst (op : Nat) (f : FmtM) (h : (listedOps 5).contains op = true) (ho : op < 64) : listed (wordM 5 op f) = true :=
  (listed_wordM 5 op f (by decide) ho).trans h

theorem ldst_fault (hi : Issues s a l (wordM 5 op f)) (hop : (listedOps 5).contains op = true) (ho : op < 64) {st : Byte} (hst : st ≠ stOk)
    (hw : worst ((accesses vector (getStrand s a) f sz).map fun p => accStatus s.variant (getLoom s l) p.2 sz sz) = st) :
    ldst op true sz store vector a f s k = insnFault s l a st (wordM 5 op f) := by
  rw [ldst, issue_at _ hi (listed_ldst op f hop ho)]
  dsimp only
  generalize hacc : (if vector = true then ldstAddrs (getStrand s a) f sz else [(0, ((getStrand s a).sget f.base.toNat + f.off.signExtend 64).toNat)]) = accs
  obtain rfl : accesses vector (getStrand s a) f sz = accs := hacc
  rw [if_neg (by decide : ¬ (!true) = true), hw, if_pos hst]

theorem ldst_served (hi : Issues s a l (wordM 5 op f)) (hop : (listedOps 5).contains op = true) (ho : op < 64)
    (h : AccessOk s a l sz (accesses vector (getStrand s a) f sz) store) :
    ldst op true sz store vector a f s k =
      rowsServed (k s l (getStrand s a) (accesses vector (getStrand s a) f sz)) l (.strand a.tile a.strand) := by
  obtain ⟨hst, hwaits, hrows, -, hpoison, hcopy⟩ := h
  have hw : worst ((accesses vector (getStrand s a) f sz).map fun p => accStatus s.variant (getLoom s l) p.2 sz sz) = stOk :=
    worst_of_ok fun st hm => by
      obtain ⟨p, hp, rfl⟩ := List.mem_map.mp hm
      exact hst p hp
  have hnone : (if store = true then (accesses vector (getStrand s a) f sz).findSome? fun p => uncopied s p.2 sz else none) = none := by
    split_ifs with hs
    · exact List.findSome?_eq_none_iff.mpr (hcopy hs)
    · rfl
  rw [ldst, issue_at _ hi (listed_ldst op f hop ho)]
  dsimp only
  generalize hacc : (if vector = true then ldstAddrs (getStrand s a) f sz else [(0, ((getStrand s a).sget f.base.toNat + f.off.signExtend 64).toNat)]) = accs
  obtain rfl : accesses vector (getStrand s a) f sz = accs := hacc
  rw [if_neg (by decide : ¬ (!true) = true), hw, if_neg (fun h => h rfl), if_neg (ne_of_eq_of_ne hwaits Bool.false_ne_true),
    if_neg (ne_of_eq_of_ne hrows Bool.false_ne_true), if_neg (ne_of_eq_of_ne hpoison Bool.false_ne_true), hnone]

end

/-! ## Access faults -/

theorem exec_ldst_of_ok {c : Instr} {s : State} {op : Nat} {ok : Bool} {sz : Nat} {store vector : Bool} {a : Issuer} {f : FmtM}
    {k : State → Nat → Strand → List (Nat × Nat) → State} (hok : ok = true) (h : exec c s = .next (ldst op ok sz store vector a f s k)) :
    exec c s = .next (ldst op true sz store vector a f s k) := hok ▸ h

/-- A load or store whose fields are in order is ldst with its accesses, of a size that is not 0. -/
theorem exec_ldst {s : State} {a : Issuer} {f : FmtM} {op sz : Nat} {c : Instr} {accs : List (Nat × Nat)}
    (h : (op = 0 ∧ c = .ldS a f ∧ scalarM f = true ∧ sz = 8 ∧ accs = [(0, scalarAddr (getStrand s a) f)]) ∨
     (op = 1 ∧ c = .stS a f ∧ scalarM f = true ∧ sz = 8 ∧ accs = [(0, scalarAddr (getStrand s a) f)]) ∨
     (op = 2 ∧ c = .ldV a f ∧ (plainM f && modeM f) = true ∧ sz = 4 ∧ accs = ldstAddrs (getStrand s a) f 4) ∨
     (op = 3 ∧ c = .stV a f ∧ (plainM f && modeM f) = true ∧ sz = 4 ∧ accs = ldstAddrs (getStrand s a) f 4) ∨
     (op = 4 ∧ c = .ldVc a f ∧ (convM f && f.rnd = 0 && !f.sat && modeM f) = true ∧ sz = fmtBytes f.fmt.toNat ∧
        accs = ldstAddrs (getStrand s a) f sz) ∨
     (op = 5 ∧ c = .stVc a f ∧ (convM f && rndOk f.rnd.toNat 0 f.fmt.toNat && modeM f) = true ∧ sz = fmtBytes f.fmt.toNat ∧
        accs = ldstAddrs (getStrand s a) f sz)) :
    op < 6 ∧ sz ≠ 0 ∧ ∃ store vector k, exec c s = .next (ldst op true sz store vector a f s k) ∧ accs = accesses vector (getStrand s a) f sz := by
  have hconv : convM f = true → fmtBytes f.fmt.toNat ≠ 0 := by
    intro hc
    simp only [convM, Bool.and_eq_true, decide_eq_true_eq] at hc
    obtain ⟨h1, h4⟩ := hc
    generalize f.fmt.toNat = m at h1 h4
    interval_cases m <;> decide
  rcases h with ⟨rfl, rfl, hok, rfl, rfl⟩ | ⟨rfl, rfl, hok, rfl, rfl⟩ | ⟨rfl, rfl, hok, rfl, rfl⟩ | ⟨rfl, rfl, hok, rfl, rfl⟩ |
    ⟨rfl, rfl, hok, rfl, rfl⟩ | ⟨rfl, rfl, hok, rfl, rfl⟩
  · exact ⟨by decide, by decide, false, false, _, exec_ldst_of_ok hok rfl, rfl⟩
  · exact ⟨by decide, by decide, true, false, _, exec_ldst_of_ok hok rfl, rfl⟩
  · exact ⟨by decide, by decide, false, true, _, exec_ldst_of_ok hok rfl, rfl⟩
  · exact ⟨by decide, by decide, true, true, _, exec_ldst_of_ok hok rfl, rfl⟩
  · exact ⟨by decide, hconv (by simp_all), false, true, _, exec_ldst_of_ok hok rfl, rfl⟩
  · exact ⟨by decide, hconv (by simp_all), true, true, _, exec_ldst_of_ok hok rfl, rfl⟩

/-- Settles O7: the worst status of the accesses decides; a bad alignment or a tile-store offset past 7 MiB is BAD_COMMAND, and else a range outside
the map or a register is PERMISSION. -/
theorem accessFaults : Obligations.AccessFaults := by
  intro s a l f op sz c accs hc hi offset tileRange
  obtain ⟨hop, hsz, store, vector, k, hexec, rfl⟩ := exec_ldst hc
  have hlist : (listedOps 5).contains op = true := by interval_cases op <;> rfl
  have hbad : ∀ p ∈ accesses vector (getStrand s a) f sz, accStatus s.variant (getLoom s l) p.2 sz sz = stBad →
      exec c s = .next (insnFault s l a stBad (wordM 5 op f)) := fun p hp hst => by
    rw [hexec, ldst_fault hi hlist (by omega) (by decide) (worst_of_bad (List.mem_map.mpr ⟨p, hp, hst⟩))]
  refine ⟨fun ⟨p, hp, hal⟩ => hbad p hp (accStatus_of_misaligned hal), fun ⟨p, hp, ⟨hlo, hhi⟩, hoff⟩ => hbad p hp (accStatus_of_past hlo hhi ?_),
    fun hnot ⟨p, hp, hout⟩ => ?_⟩
  · exact Nat.lt_of_le_of_lt hoff (Nat.lt_add_of_pos_right (Nat.pos_of_ne_zero hsz))
  · have hperm : accStatus s.variant (getLoom s l) p.2 sz sz = stPerm := by
      rcases hout with ⟨hr, hmap⟩ | ⟨hlo, hhi⟩
      · exact accStatus_of_outside (hnot p hp) hr hmap
      · exact accStatus_of_reg (hnot p hp) hlo hhi
    rw [hexec, ldst_fault hi hlist (by omega) (by decide) (worst_of_perm ?_ (List.mem_map.mpr ⟨p, hp, hperm⟩))]
    rintro hm
    obtain ⟨q, hq, hst⟩ := List.mem_map.mp hm
    exact hnot q hq hst

end Sys2Proof.Machine
end

section
/-! SUPPORT. What loads and stores move (Table 4-14, R216, R217, R317, R370): registers thread by thread, bytes in ascending thread, and the events
that a store raises. With it the obligation about loads and stores is settled. -/
namespace Sys2Proof.Machine
open Sys2Proof

/-! ## Events (R194, R464) -/

theorem evtToSession_eq (s : State) (n : Nat) (e : EvtRec) : ∃ hm ss, evtToSession s n e = { s with hostMem := hm, sessions := ss } := by
  unfold evtToSession
  dsimp only
  split
  · exact ⟨_, _, rfl⟩
  · split_ifs
    · exact ⟨s.hostMem, _, rfl⟩
    · exact ⟨_, _, rfl⟩

theorem sendEvt_eq (s : State) (e : EvtRec) : ∃ hm ss, sendEvt s e = { s with hostMem := hm, sessions := ss } := by
  have hfold : ∀ (ns : List Nat) (s : State), ∃ hm ss,
      ns.foldl (fun s n => if (getSession s n).opened then evtToSession s n e else s) s = { s with hostMem := hm, sessions := ss } := by
    intro ns
    induction ns with
    | nil => exact fun s => ⟨s.hostMem, s.sessions, rfl⟩
    | cons n ns ih =>
      intro s
      rw [List.foldl_cons]
      split_ifs
      · obtain ⟨hm, ss, h⟩ := evtToSession_eq s n e
        obtain ⟨hm', ss', h'⟩ := ih (evtToSession s n e)
        exact ⟨hm', ss', by rw [h', h]⟩
      · exact ih s
  unfold sendEvt
  split
  · split_ifs
    · exact evtToSession_eq s _ e
    · exact ⟨s.hostMem, s.sessions, rfl⟩
  · exact hfold _ s

/-- An event sets its status bit; its record goes to host memory and the sessions. -/
theorem raiseEvt_eq (s : State) (src : Src) (bit : Nat) (loom : Option Nat) (unit detail : Nat) : ∃ hm ss,
    raiseEvt s src bit loom unit detail = { orReg s src.status (BitVec.ofNat 64 (2 ^ bit)) with hostMem := hm, sessions := ss } := by
  unfold raiseEvt
  dsimp only
  split_ifs
  · exact sendEvt_eq _ _
  · exact ⟨s.hostMem, s.sessions, rfl⟩

/-! ## The accesses of a vector load or store -/

/-- The address of thread t. -/
def threadAddr (y : Strand) (f : FmtM) (sz t : Nat) : Nat :=
  (y.sget f.base.toNat + f.off.signExtend 64 + (if f.mode = 1 then (y.vget f.vidx.toNat t).signExtend 64 else BitVec.ofNat 64 (sz * t))).toNat

theorem ldstAddrs_eq (y : Strand) (f : FmtM) (sz : Nat) :
    ldstAddrs y f sz = threads.filterMap fun t => if y.runs f.pg f.pn t then some (t, threadAddr y f sz t) else none := rfl

theorem foldl_ldstAddrs {β : Type} (y : Strand) (f : FmtM) (sz : Nat) (g : β → Nat → Nat → β) (x : β) :
    (ldstAddrs y f sz).foldl (fun z p => g z p.1 p.2) x = threads.foldl (fun z t => if y.runs f.pg f.pn t then g z t (threadAddr y f sz t) else z) x := by
  rw [ldstAddrs_eq, List.foldl_filterMap]
  refine congrArg (fun h => threads.foldl h x) (funext fun z => funext fun t => ?_)
  split_ifs <;> rfl

theorem find_ldstAddrs {y : Strand} {f : FmtM} (sz : Nat) {i : Nat} (hi : i < 32) (hrun : y.runs f.pg f.pn i = true) :
    (ldstAddrs y f sz).find? (fun p => p.1 = i) = some (i, threadAddr y f sz i) := by
  have hfind : threads.find? (fun t => ((if y.runs f.pg f.pn t then some (t, threadAddr y f sz t) else none).any fun p => decide (p.1 = i))) = some i := by
    rw [threads, List.find?_range_eq_some]
    refine ⟨by simp [hrun], List.mem_range.mpr hi, fun j hj => ?_⟩
    split_ifs <;> simp; omega
  rw [ldstAddrs_eq, List.find?_filterMap, hfind, Option.bind_some, if_pos hrun]

theorem agentsCounted_touchAll (s : State) (l sz : Nat) (write : Bool) (accs : List (Nat × Nat)) :
    AgentsCounted s (accs.foldl (fun s p => touchRange s l p.2 sz write) s) :=
  AgentsCounted.foldl (fun s (p : Nat × Nat) => touchRange s l p.2 sz write) (fun s p => agentsCounted_touchRange s l p.2 sz write) accs s

/-! ## Loads -/

/-- A write of vector registers without flags changes them alone. -/
theorem vecWrite_no_flags (y : Strand) (pg : BitVec 3) (pn : Bool) (rd : Nat) (v : Nat → W32) :
    ∃ vs, vecWrite y pg pn rd (fun t => (v t, 0)) = { y with v := vs } := by
  obtain ⟨-, hasw, vs, w, hz⟩ := vecWrite_spec y pg pn rd fun t => (v t, 0)
  have hw : w = y.asw := BitVec.eq_of_getLsbD_eq fun i _ => by
    have hany : ((List.range 32).any fun t => (y.pget pg.toNat t != pn) && (0 : AFlags).getLsbD i) = false := List.any_eq_false.mpr fun t _ => by simp
    have h := hasw i
    rw [hany, Bool.or_false, hz] at h
    exact h
  exact ⟨vs, by rw [hz, hw]⟩

theorem foldl_vput_ldstAddrs (y : Strand) (f : FmtM) (sz : Nat) (g : Nat → W32) :
    (ldstAddrs y f sz).foldl (fun z p => z.vput f.rd.toNat p.1 (g p.2)) y =
      vecWrite y f.pg f.pn f.rd.toNat fun t => (g (threadAddr y f sz t), 0) := by
  refine (foldl_ldstAddrs y f sz (fun z t a => z.vput f.rd.toNat t (g a)) y).trans ?_
  simp only [vecWrite, Strand.flag_none]

theorem tapLoad_eq (v : Variant) (x : Loom) (base rd : Nat) (y : Strand) : ∃ tap, tapLoad v x base rd y = { y with tap := tap } := by
  unfold tapLoad
  split
  · exact ⟨_, rfl⟩
  · exact ⟨y.tap, rfl⟩

section
variable {s : State} {a : Issuer} {l : Nat} {f : FmtM}

/-- What an access served leaves: its strand is z, memory is m, and registers, bobbins and every other strand are as before. -/
theorem access_served (hidle : agentsIdle s l) {m : List Host.Cell} {fl : MemFaults} {u : State} (hu : AgentsCounted { s with mem := m, faults := fl } u)
    (z : Strand) (who : RowUser) :
    let t := rowsServed (setStrand u a z) l who
    t.mem = m ∧ t.regs = s.regs ∧ t.bobbins = s.bobbins ∧ (∀ b, b ≠ a → getStrand t b = getStrand s b) ∧ getStrand t a = z := by
  have hi : agentsIdle (setStrand u a z) l := hu.agentsIdle hidle
  obtain ⟨ls, ht⟩ := rowsServed_of_idle who hi
  obtain ⟨ls', rfl, -⟩ := hu
  rw [ht]
  refine ⟨rfl, rfl, rfl, fun b hb => ?_, ?_⟩
  · change getStrand (setStrand { s with mem := m, faults := fl, looms := ls' } a z) b = _
    rw [getStrand_setStrand, if_neg (Ne.symm hb)]
    rfl
  · exact getStrand_setStrand_same _ a z

/-- A vector load writes vector registers and the tap of its strand. -/
theorem loadVec_eq (s : State) (a : Issuer) (l : Nat) (f : FmtM) (sz : Nat) (g : Nat → W32) (tap : Bool) (y : Strand) :
    ∃ vs tp, loadVec sz g a f tap s l y (ldstAddrs y f sz) =
        setStrand ((ldstAddrs y f sz).foldl (fun s p => touchRange s l p.2 sz false) s) a ({ y with v := vs, tap := tp } : Strand).next ∧
      ∀ r i, i < 32 → ({ y with v := vs } : Strand).vget r i = if r = f.rd.toNat ∧ y.runs f.pg f.pn i = true then
        g (leNat (readVia s l (threadAddr y f sz i) sz)) else y.vget r i := by
  obtain ⟨vs, hvs⟩ := vecWrite_no_flags y f.pg f.pn f.rd.toNat fun t => g (leNat (readVia s l (threadAddr y f sz t) sz))
  obtain ⟨hget, -, -⟩ := vecWrite_spec y f.pg f.pn f.rd.toNat fun t => (g (leNat (readVia s l (threadAddr y f sz t) sz)), 0)
  have hfold := foldl_vput_ldstAddrs y f sz fun ad => g (leNat (readVia s l ad sz))
  rw [hvs] at hget hfold
  obtain ⟨tp, htap⟩ : ∃ tp, (if (tap && decide (f.mode = 0)) = true then
      tapLoad s.variant (getLoom s l) (y.sget f.base.toNat + f.off.signExtend 64).toNat f.rd.toNat { y with v := vs } else { y with v := vs }) =
        { y with v := vs, tap := tp } := by
    split_ifs
    · exact tapLoad_eq _ _ _ _ _
    · exact ⟨y.tap, rfl⟩
  refine ⟨vs, tp, ?_, fun r i hi => hget r i hi⟩
  unfold loadVec
  dsimp only
  rw [hfold, htap]

/-- A vector load, by the value that the bytes of an address give. -/
theorem vecLoad_served (hidle : agentsIdle s l) (sz : Nat) (g : Nat → W32) (tap : Bool) (who : RowUser) :
    VecLoad s (rowsServed (loadVec sz g a f tap s l (getStrand s a) (ldstAddrs (getStrand s a) f sz)) l who) a f fun i =>
      g (leNat (bytesVia s l (((ldstAddrs (getStrand s a) f sz).find? fun p => p.1 = i).getD (0, 0)).2 sz)) := by
  obtain ⟨vs, tp, hload, hget⟩ := loadVec_eq s a l f sz g tap (getStrand s a)
  have hcount := agentsCounted_touchAll s l sz false (ldstAddrs (getStrand s a) f sz)
  obtain ⟨hmem, hregs, -, hothers, hself⟩ := access_served (a := a) hidle (m := s.mem) (fl := s.faults) hcount ({ getStrand s a with v := vs, tap := tp } : Strand).next who
  rw [hload]
  refine ⟨?_, fun i hi hrun => ?_, fun i hi hrun => ?_, fun r i hr hi => ?_, hothers, hmem, hregs⟩
  · rw [hself]
    rfl
  · beta_reduce
    rw [hself, find_ldstAddrs sz hi hrun, ← readVia_eq]
    exact (hget _ i hi).trans (if_pos ⟨rfl, hrun⟩)
  · rw [hself]
    exact (hget _ i hi).trans (if_neg fun h => Bool.false_ne_true (hrun.symm.trans h.2))
  · rw [hself]
    exact (hget r i hi).trans (if_neg fun h => hr h.1)

end

theorem agentsIdle_of_accessOk {s : State} {a : Issuer} {l sz : Nat} {accs : List (Nat × Nat)} {store : Bool} (h : AccessOk s a l sz accs store) :
    agentsIdle s l := by
  obtain ⟨-, -, -, hidle, -, -⟩ := h
  exact hidle

theorem loads : Loads := by
  refine ⟨fun s a l f hi hok hacc => ?scalar, fun s a l f hi hp hm hacc => ?vector, fun s a l f hi hc hr hs hm hacc => ?convert⟩
  case scalar =>
    have hserved := ldst_served (vector := false) (k := fun s l y accs => match accs with
      | p :: _ => setStrand (touchRange s l p.2 8 false) a (y.sput f.rd.toNat (BitVec.ofNat 64 (leNat (readVia s l p.2 8)))).next
      | [] => s) hi rfl (by decide) hacc
    obtain ⟨hmem, hregs, -, hothers, hself⟩ := access_served (a := a) (agentsIdle_of_accessOk hacc) (m := s.mem) (fl := s.faults) (agentsCounted_touchRange s l (scalarAddr (getStrand s a) f) 8 false)
      ((getStrand s a).sput f.rd.toNat (BitVec.ofNat 64 (leNat (bytesVia s l (scalarAddr (getStrand s a) f) 8)))).next (.strand a.tile a.strand)
    refine ⟨_, exec_ldst_of_ok (c := .ldS a f) hok rfl |>.trans (congrArg _ (hserved.trans ?_)), hmem, hregs, hothers, hself⟩
    rw [← readVia_eq]
    rfl
  case vector =>
    have hok : (plainM f && modeM f) = true := by rw [hp, hm]; rfl
    have hexec := exec_ldst_of_ok (c := .ldV a f) (s := s) (op := 2) (sz := 4) (store := false) (vector := true)
      (k := loadVec 4 (BitVec.ofNat 32 ·) a f true) hok rfl
    exact ⟨_, hexec.trans (congrArg _ (ldst_served hi rfl (by decide) hacc)), vecLoad_served (agentsIdle_of_accessOk hacc) 4 _ true _⟩
  case convert =>
    have hok : (convM f && decide (f.rnd = 0) && !f.sat && modeM f) = true := by rw [hc, hr, hs, hm]; rfl
    have hexec := exec_ldst_of_ok (c := .ldVc a f) (s := s) (op := 4) (sz := fmtBytes f.fmt.toNat) (store := false) (vector := true)
      (k := loadVec (fmtBytes f.fmt.toNat) (fun b => f32Of (elemVal f.fmt.toNat b)) a f false) hok rfl
    exact ⟨_, hexec.trans (congrArg _ (ldst_served hi rfl (by decide) hacc)), vecLoad_served (agentsIdle_of_accessOk hacc) _ _ false _⟩

/-! ## Stores -/

/-- Writes as a loom, one after the other: their bytes go to their homes in order. -/
theorem foldl_writeVia {α : Type} (l : Nat) (at_ : α → Nat) (bs : α → List Byte) (xs : List α) (s : State) :
    ∃ fl, xs.foldl (fun s x => writeVia s l (at_ x) (bs x)) s =
      { s with mem := storeBytes s.mem (xs.flatMap fun x => storesAt (fun i => byteHome (getLoom s l) (at_ x + i)) (bs x)), faults := fl } := by
  induction xs generalizing s with
  | nil => exact ⟨s.faults, rfl⟩
  | cons x xs ih =>
    obtain ⟨fl, hone⟩ := writeVia_eq s l (at_ x) (bs x)
    obtain ⟨fl', hrest⟩ := ih (writeVia s l (at_ x) (bs x))
    refine ⟨fl', ?_⟩
    rw [List.foldl_cons, hrest, hone, List.flatMap_cons, storeBytes_append]
    rfl

theorem byteStores_eq (x : Loom) (n : Nat) (accs : List (Nat × Nat)) (v : Nat → Nat) :
    byteStores x n accs v = accs.flatMap fun p => storesAt (fun i => byteHome x (p.2 + i)) (toLe n (v p.1)) := by
  rw [byteStores]
  exact List.flatMap_congr fun p _ => (storesAt_toLe _ _ _).symm

/-- The bytes of a vector store go to their homes in ascending thread. -/
theorem storeVec_eq (s : State) (l sz : Nat) (g : Nat → Nat) (accs : List (Nat × Nat)) :
    ∃ fl, AgentsCounted { s with mem := storeBytes s.mem (byteStores (getLoom s l) sz accs g), faults := fl } (storeVec sz g s l accs) := by
  obtain ⟨fl, h⟩ := foldl_writeVia l (fun p : Nat × Nat => p.2) (fun p => toLe sz (g p.1)) accs (clearCovered s (ownerBytes (getLoom s l) sz accs))
  refine ⟨fl, ?_⟩
  unfold storeVec
  dsimp only
  rw [h, byteStores_eq]
  exact agentsCounted_touchAll _ l sz true accs

theorem addTap_eq (g : Nat) (w : W32) (u : Option W32) (y : Strand) : ∃ ts, addTap g w u y = { y with tapSums := ts } := ⟨_, rfl⟩

theorem foldl_addTap_eq (w : Nat → W32) (gs : List Nat) (y : Strand) : ∃ ts, gs.foldl (fun z g => addTap g (w g) none z) y = { y with tapSums := ts } := by
  induction gs generalizing y with
  | nil => exact ⟨y.tapSums, rfl⟩
  | cons g gs ih =>
    obtain ⟨ts, h⟩ := ih (addTap g (w g) none y)
    exact ⟨ts, h⟩

theorem tapStore_eq (v : Variant) (x : Loom) (unit : Bool) (base : Nat) (accs : List (Nat × Nat)) (rd : Nat) (y : Strand) :
    ∃ tap ts, (tapStore v x unit base accs rd y).1 = { y with tap := tap, tapSums := ts } := by
  unfold tapStore
  dsimp only
  split
  · exact ⟨_, _, rfl⟩
  · obtain ⟨ts, h⟩ := foldl_addTap_eq _ _ y
    exact ⟨y.tap, ts, h⟩

theorem getStrand_of_tiles {s t : State} (h : t.tiles = s.tiles) (b : Issuer) : getStrand t b = getStrand s b := by rw [getStrand, getTile, h, getStrand, getTile]

theorem foldl_or_getLsbD {α : Type} (g : α → W64) (xs : List α) (w : W64) (i : Nat) :
    (xs.foldl (fun w x => w ||| g x) w).getLsbD i = (w.getLsbD i || xs.any fun x => (g x).getLsbD i) := by
  induction xs generalizing w with
  | nil => simp
  | cons x xs ih => rw [List.foldl_cons, ih, List.any_cons, BitVec.getLsbD_or, Bool.or_assoc]

section
variable {s : State} {a : Issuer} {l : Nat} {f : FmtM}

/-- ST.S at the READ word of a bobbin (R370). -/
theorem putBobbinRead_eq (s : State) (k : Nat) (b : Bobbin) (v : Nat) :
    (b.read ≤ v ∧ v ≤ b.write → putBobbinRead s k b v =
      { s with bobbins := tput s.bobbins k { b with read := v }, mem := storeBytes s.mem (storesAt (b.addr + 8 + ·) (toLe 8 v)) }) ∧
    (¬ (b.read ≤ v ∧ v ≤ b.write) → putBobbinRead s k b v = raiseEvt s .shed 10 (some b.loom)) := by
  have hiff : (decide (b.read ≤ v) && decide (v ≤ b.write)) = true ↔ b.read ≤ v ∧ v ≤ b.write := by simp
  refine ⟨fun h => ?_, fun h => ?_⟩
  · rw [putBobbinRead, if_pos (hiff.mpr h), wr, wrN, memSetN_eq_storeBytes]
  · rw [putBobbinRead, if_neg (mt hiff.mp h)]

theorem exec_stS (hi : Issues s a l (wordM 5 1 f)) (hok : scalarM f = true) (hacc : AccessOk s a l 8 [(0, scalarAddr (getStrand s a) f)] true) :
    exec (.stS a f) s = .next (rowsServed (match bobbinRead s l (scalarAddr (getStrand s a) f) with
      | some (k, b) => putBobbinRead (setStrand s a (getStrand s a).next) k b ((getStrand s a).sget f.rd.toNat).toNat
      | none => touchRange (writeVia (setStrand s a (getStrand s a).next) l (scalarAddr (getStrand s a) f) (toLe 8 ((getStrand s a).sget f.rd.toNat).toNat))
          l (scalarAddr (getStrand s a) f) 8 true) l (.strand a.tile a.strand)) :=
  exec_ldst_of_ok (c := .stS a f) hok rfl |>.trans (congrArg _ ((ldst_served (vector := false) hi rfl (by decide) hacc).trans rfl))

end

/-- What is served behind an access leaves memory, registers, bobbins and strands as they are. -/
theorem rowsServed_frame {s : State} {l : Nat} (who : RowUser) (h : agentsIdle s l) :
    let t := rowsServed s l who
    t.mem = s.mem ∧ t.regs = s.regs ∧ t.bobbins = s.bobbins ∧ ∀ b, getStrand t b = getStrand s b := by
  obtain ⟨ls, ht⟩ := rowsServed_of_idle who h
  rw [ht]
  exact ⟨rfl, rfl, rfl, fun _ => rfl⟩

/-- What ST.S leaves, but for the strand's own going on, at an address that is no bobbin's READ word. -/
theorem storeScalar_served {s : State} {l : Nat} (hidle : agentsIdle s l) (ad v : Nat) (who : RowUser) :
    let t := rowsServed (touchRange (writeVia s l ad (toLe 8 v)) l ad 8 true) l who
    t.mem = storeBytes s.mem (byteStores (getLoom s l) 8 [(0, ad)] fun _ => v) ∧ t.regs = s.regs ∧ t.bobbins = s.bobbins ∧
      ∀ b, getStrand t b = getStrand s b := by
  obtain ⟨fl, hw⟩ := writeVia_eq s l ad (toLe 8 v)
  have hcount := agentsCounted_touchRange (writeVia s l ad (toLe 8 v)) l ad 8 true
  have hi : agentsIdle (writeVia s l ad (toLe 8 v)) l := by
    rw [hw]
    exact hidle
  obtain ⟨hmem, hregs, hbob, hstrand⟩ := rowsServed_frame who (hcount.agentsIdle hi)
  obtain ⟨ls, htouch, -⟩ := hcount
  rw [byteStores_eq, List.flatMap_singleton]
  simp only [hmem, hregs, hbob, hstrand]
  rw [htouch, hw]
  exact ⟨rfl, rfl, rfl, fun _ => rfl⟩

/-- What ST.V leaves: a store to a watched master outside its tap also raises an event (R317). -/
theorem storeV_served {s : State} {a : Issuer} {l : Nat} (hidle : agentsIdle s l) {m : List Host.Cell} {fl : MemFaults} {u : State}
    (hu : AgentsCounted { s with mem := m, faults := fl } u) (z : Strand) (miss : Bool) (who : RowUser) :
    let t := rowsServed (if miss then raiseEvt (setStrand u a z) .lrn 5 (some l) else setStrand u a z) l who
    t.mem = m ∧ (∀ b, b ≠ a → getStrand t b = getStrand s b) ∧ getStrand t a = z := by
  obtain ⟨hm, ss, hraise⟩ := raiseEvt_eq (setStrand u a z) .lrn 5 (some l) 0 0
  have hi : agentsIdle (setStrand u a z) l := hu.agentsIdle hidle
  obtain ⟨hmem, -, -, hothers, hself⟩ := access_served (a := a) hidle hu z who
  cases miss with
  | false => exact ⟨hmem, hothers, hself⟩
  | true =>
    obtain ⟨hmem', -, -, hstrand'⟩ := rowsServed_frame (s := { orReg (setStrand u a z) Src.lrn.status (BitVec.ofNat 64 (2 ^ 5)) with hostMem := hm, sessions := ss }) who hi
    obtain ⟨hmem0, -, -, hstrand0⟩ := rowsServed_frame who hi
    rw [if_pos rfl, hraise]
    exact ⟨(hmem'.trans hmem0.symm).trans hmem, fun b hb => ((hstrand' b).trans (hstrand0 b).symm).trans (hothers b hb),
      ((hstrand' a).trans (hstrand0 a).symm).trans hself⟩

theorem stores : Stores := by
  refine ⟨fun s a l f hi hok hacc => ?scalar, fun s a l f hi hp hm hacc => ?vector, fun s a l f hi hc hr hm hacc => ?convert⟩
  case scalar =>
    have hexec := exec_stS hi hok hacc
    have hbefore : agentsIdle s l := agentsIdle_of_accessOk hacc
    have hidle : agentsIdle (setStrand s a (getStrand s a).next) l := hbefore
    have hself : getStrand (setStrand s a (getStrand s a).next) a = (getStrand s a).next := getStrand_setStrand_same s a _
    have hothers : ∀ b, b ≠ a → getStrand (setStrand s a (getStrand s a).next) b = getStrand s b := fun b hb => by
      rw [getStrand_setStrand, if_neg (Ne.symm hb)]
    cases hread : bobbinRead s l (scalarAddr (getStrand s a) f) with
    | none =>
      rw [hread] at hexec
      obtain ⟨hmem, hregs, hbob, hstrand⟩ := storeScalar_served hidle (scalarAddr (getStrand s a) f) ((getStrand s a).sget f.rd.toNat).toNat
        (.strand a.tile a.strand)
      exact ⟨_, hexec, (hstrand a).trans hself, fun b hb => (hstrand b).trans (hothers b hb), hregs, hbob, hmem ▸ storesTo_storeBytes _ _⟩
    | some kb =>
      obtain ⟨k, b⟩ := kb
      rw [hread] at hexec
      obtain ⟨hin, hout⟩ := putBobbinRead_eq (setStrand s a (getStrand s a).next) k b ((getStrand s a).sget f.rd.toNat).toNat
      by_cases hrange : b.read ≤ ((getStrand s a).sget f.rd.toNat).toNat ∧ ((getStrand s a).sget f.rd.toNat).toNat ≤ b.write
      · dsimp only at hexec
        rw [hin hrange, storesAt_toLe] at hexec
        obtain ⟨hmem, hregs, hbob, hstrand⟩ := rowsServed_frame (s := { setStrand s a (getStrand s a).next with
          bobbins := tput s.bobbins k { b with read := ((getStrand s a).sget f.rd.toNat).toNat },
          mem := storeBytes s.mem ((List.range 8).map fun i => (b.addr + 8 + i, BitVec.ofNat 8 (((getStrand s a).sget f.rd.toNat).toNat / 256 ^ i))) })
          (.strand a.tile a.strand) hidle
        refine ⟨_, hexec, (hstrand a).trans hself, fun c hc => (hstrand c).trans (hothers c hc), ?_⟩
        dsimp only
        rw [if_pos hrange]
        refine ⟨hregs, ?_, ?_⟩
        · exact (congrArg (fun bs => tget {} bs k) hbob).trans (by rw [tget_tput, if_pos rfl])
        · exact hmem ▸ storesTo_storeBytes _ _
      · dsimp only at hexec
        obtain ⟨hm, ss, hraise⟩ := raiseEvt_eq (setStrand s a (getStrand s a).next) .shed 10 (some b.loom) 0 0
        rw [hout hrange, hraise] at hexec
        obtain ⟨hmem, hregs, hbob, hstrand⟩ := rowsServed_frame (s := { orReg (setStrand s a (getStrand s a).next) Src.shed.status (BitVec.ofNat 64 (2 ^ 10)) with
          hostMem := hm, sessions := ss }) (.strand a.tile a.strand) hidle
        refine ⟨_, hexec, (hstrand a).trans hself, fun c hc => (hstrand c).trans (hothers c hc), ?_⟩
        dsimp only
        rw [if_neg hrange]
        refine ⟨hmem, hbob, ?_⟩
        rw [getReg, hregs]
        change getReg (orReg s 0x00400008 (BitVec.ofNat 64 (2 ^ 10))) 0x00400008 = _
        rw [getReg_orReg, if_pos rfl]
        rfl
  case vector =>
    have hok : (plainM f && modeM f) = true := by rw [hp, hm]; rfl
    have hexec := exec_ldst_of_ok (c := .stV a f) (s := s) hok rfl
    obtain ⟨tp, ts, htap⟩ := tapStore_eq s.variant (getLoom s l) (f.mode = 0) (scalarAddr (getStrand s a) f) (ldstAddrs (getStrand s a) f 4) f.rd.toNat (getStrand s a)
    obtain ⟨fl, hcount⟩ := storeVec_eq s l 4 (fun t => ((getStrand s a).vget f.rd.toNat t).toNat) (ldstAddrs (getStrand s a) f 4)
    obtain ⟨hmem, hothers, hself⟩ := storeV_served (agentsIdle_of_accessOk hacc) hcount (tapStore s.variant (getLoom s l) (f.mode = 0)
      (scalarAddr (getStrand s a) f) (ldstAddrs (getStrand s a) f 4) f.rd.toNat (getStrand s a)).1.next
      (tapStore s.variant (getLoom s l) (f.mode = 0) (scalarAddr (getStrand s a) f) (ldstAddrs (getStrand s a) f 4) f.rd.toNat (getStrand s a)).2
      (.strand a.tile a.strand)
    refine ⟨_, hexec.trans (congrArg _ (ldst_served (vector := true) hi rfl (by decide) hacc)), hothers, ?_, hmem ▸ storesTo_storeBytes _ _⟩
    intro y z
    have hz : z = _ := hself
    rw [hz, htap]
    rfl
  case convert =>
    have hok : (convM f && rndOk f.rnd.toNat 0 f.fmt.toNat && modeM f) = true := by rw [hc, hr, hm]; rfl
    have hexec := exec_ldst_of_ok (c := .stVc a f) (s := s) hok rfl
    obtain ⟨fl, hcount⟩ := storeVec_eq s l (fmtBytes f.fmt.toNat) (fun t => (encode f.fmt.toNat (modeOf f.rnd.toNat ((getStrand s a).drawBits (getLoom s l).seed t)) f.sat
      (f32Val ((getStrand s a).vget f.rd.toNat t))).1) (ldstAddrs (getStrand s a) f (fmtBytes f.fmt.toNat))
    obtain ⟨hmem, hregs, -, hothers, hself⟩ := access_served (a := a) (agentsIdle_of_accessOk hacc) hcount
      (((getStrand s a).flag ((ldstAddrs (getStrand s a) f (fmtBytes f.fmt.toNat)).foldl (fun g p => g ||| (encode f.fmt.toNat
        (modeOf f.rnd.toNat ((getStrand s a).drawBits (getLoom s l).seed p.1)) f.sat (f32Val ((getStrand s a).vget f.rd.toNat p.1))).2) 0)).next)
      (.strand a.tile a.strand)
    refine ⟨_, hexec.trans (congrArg _ (ldst_served (vector := true) hi rfl (by decide) hacc)), hothers, hregs, ?_⟩
    intro y z enc
    have hz : z = _ := hself
    refine ⟨?_, fun i => ?_, ?_⟩
    · rw [hz]
      rfl
    · rw [hz, Strand.next_asw, Strand.flag_asw, BitVec.getLsbD_or, foldl_or_getLsbD]
      simp [y, enc]
    · exact hmem ▸ storesTo_storeBytes _ _

/-- Settles O6: an access in order is served at once; a load reads the bytes at their homes and a store puts them there one by one. -/
theorem loadsAndStores : Obligations.LoadsAndStores := ⟨loads, stores⟩

end Sys2Proof.Machine
end

section
/-! SUPPORT. Descriptors that fault (R118, R177): every instruction that takes one reads it in the same way, before it checks anything else of
it. With it the obligation about descriptor faults is settled. -/
namespace Sys2Proof.Machine
open Sys2Proof

variable {s : State} {a : Issuer} {l : Nat} {f : FmtD} {cls op : Nat} {usesB : Bool} {kind : AsyncKind} {k : Nat → Strand → List Byte → Except Byte AsyncOp}
  {waits : AsyncOp → Bool} {reads writes : AsyncOp → List (Nat × Nat)} {lists : State → Nat → List Byte → List (Nat × Nat)}

/-- An asynchronous instruction whose fields are in order faults as its descriptor does. -/
theorem asyncIssue_of_descriptor_error (hi : Issues s a l (wordD cls op f)) (hw : listed (wordD cls op f) = true) (hpg : f.pg = 0)
    (hpn : f.pn = false) (hinl : f.inl = 0) (hsb : f.sb = 0) {st : Byte}
    (hd : descriptor s a.tile ((getStrand s a).sget f.sa.toNat) 64 = .error st) :
    asyncIssue cls op usesB kind a f s k waits reads writes lists = insnFault s l a st (wordD cls op f) := by
  unfold asyncIssue
  rw [issue_at _ hi hw]
  simp [plainD, hpg, hpn, hinl, hsb, hd]

theorem descriptor_bad {off : W64} (h : off.toNat % 64 ≠ 0 ∨ 7 * 2 ^ 20 < off.toNat + 64) (tile : Nat) : descriptor s tile off 64 = .error stBad := by
  unfold descriptor
  exact if_pos ((Bool.or_eq_true _ _).mpr (h.imp decide_eq_true decide_eq_true))

theorem descriptor_uncorr {off : W64} {tile : Nat} (h : off.toNat % 64 = 0) (hlt : off.toNat + 64 ≤ 7 * 2 ^ 20)
    (hp : tsPoison s tile off.toNat 64 = true) : descriptor s tile off 64 = .error stUncorr := by
  unfold descriptor
  dsimp only
  have hbad : ¬ ((decide (off.toNat % 64 ≠ 0) || decide (tsBytes < off.toNat + 64)) = true) := by
    rw [Bool.or_eq_true, decide_eq_true_eq, decide_eq_true_eq, not_or, not_not, Nat.not_lt]
    exact ⟨h, hlt⟩
  rw [if_neg hbad, if_pos hp]

/-- Settles O9: each instruction is an issue of an asynchronous operation, which reads the descriptor first; those of class RMT then send. -/
theorem descriptorFaults : Obligations.DescriptorFaults := by
  intro s a l f cls op c hi hc hpg hpn hinl hsb at_ after
  have key : ∀ st, descriptor s a.tile ((getStrand s a).sget f.sa.toNat) 64 = .error st →
      exec c s = .next (after (insnFault s l a st (wordD cls op f))) := by
    intro st hd
    have hissue : ∀ {usesB kind k waits reads writes lists}, listed (wordD cls op f) = true →
        asyncIssue cls op usesB kind a f s k waits reads writes lists = insnFault s l a st (wordD cls op f) :=
      fun hw => asyncIssue_of_descriptor_error hi hw hpg hpn hinl hsb hd
    have hlisted : ∀ {n o : Nat}, n < 16 → o < 64 → (listedOps n).contains o = true → listed (wordD n o f) = true :=
      fun hn ho h => (listed_wordD _ _ f hn ho).trans h
    simp only [List.mem_cons, Prod.mk.injEq, List.not_mem_nil, or_false] at hc
    rcases hc with ⟨rfl, rfl, rfl⟩ | ⟨rfl, rfl, rfl⟩ | ⟨rfl, rfl, rfl⟩ | ⟨rfl, rfl, rfl⟩ | ⟨rfl, rfl, rfl⟩ | ⟨rfl, rfl, rfl⟩ | ⟨rfl, rfl, rfl⟩ |
      ⟨rfl, rfl, rfl⟩ | ⟨rfl, rfl, rfl⟩ | ⟨rfl, rfl, rfl⟩ | ⟨rfl, rfl, rfl⟩ | ⟨rfl, rfl, rfl⟩ | ⟨rfl, rfl, rfl⟩
    case inr.inr.inr.inr.inr.inr.inl | inr.inr.inr.inr.inr.inr.inr.inl | inr.inr.inr.inr.inr.inr.inr.inr.inl =>
      exact congrArg (fun t => Host.Outcome.next (rmtDrive t a.tile)) (hissue (hlisted (by decide) (by decide) (by decide)))
    all_goals exact congrArg Host.Outcome.next (hissue (hlisted (by decide) (by decide) (by decide)))
  exact ⟨fun h => key _ (descriptor_bad h _), fun h hlt hp => key _ (descriptor_uncorr h hlt hp)⟩

end Sys2Proof.Machine
end

section
/-! SUPPORT. How an asynchronous operation completes (R142, R177, R217, R499): what its end leaves of the tiles, and the one case of a completion in
which it moves its data. The obligations about transfers, working copies and the special unit build on it. -/
namespace Sys2Proof.Machine
open Sys2Proof

/-! ## The end of an operation -/

/-- No tile's operations or strands have changed. -/
def SameWork (s t : State) : Prop := ∀ k, (getTile t k).ops = (getTile s k).ops ∧ (getTile t k).strands = (getTile s k).strands

theorem SameWork.refl (s : State) : SameWork s s := fun _ => ⟨rfl, rfl⟩

theorem SameWork.trans {s t u : State} (h : SameWork s t) (h' : SameWork t u) : SameWork s u := fun k =>
  ⟨(h' k).1.trans (h k).1, (h' k).2.trans (h k).2⟩

theorem SameWork.of_tiles {s t : State} (h : t.tiles = s.tiles) : SameWork s t := fun k => by simp [getTile, h]

theorem SameWork.getStrand {s t : State} (h : SameWork s t) (b : Issuer) : getStrand t b = getStrand s b := by
  simp [Machine.getStrand, (h b.tile).2]

theorem SameWork.foldl {α : Type} (g : State → α → State) (hg : ∀ s x, SameWork s (g s x)) (xs : List α) (s : State) : SameWork s (xs.foldl g s) := by
  induction xs generalizing s with
  | nil => exact .refl s
  | cons x xs ih => exact (hg s x).trans (ih (g s x))

theorem sameWork_modTile (s : State) (k : Nat) (f : Tile → Tile) (h : (f (getTile s k)).ops = (getTile s k).ops ∧ (f (getTile s k)).strands = (getTile s k).strands) :
    SameWork s (modTile s k f) := by
  intro j
  rw [getTile_modTile]
  split_ifs with hj
  · exact hj ▸ h
  · exact ⟨rfl, rfl⟩

theorem sameWork_endBlocks (s : State) (o : AsyncOp) : SameWork s (endBlocks s o) := by
  have hput : ∀ (f : SbEntry → SbEntry) (s : State) (k : Nat × Nat × Nat),
      SameWork s (modTile s k.1 fun t => settleHeld { t with board := boardMod t.board k.2.1 k.2.2 f }) :=
    fun f s k => sameWork_modTile s k.1 _ ⟨rfl, rfl⟩
  exact (SameWork.foldl _ (hput _) _ s).trans (SameWork.foldl _ (hput _) _ _)

theorem ops_modStrand (s : State) (a : Issuer) (f : Strand → Strand) (k : Nat) : (getTile (modStrand s a f) k).ops = (getTile s k).ops := by
  obtain ⟨ss, h⟩ := getTile_modStrand s a f k
  rw [h]

/-- A tile from whose list a strand's operation of a tag is gone. -/
def Tile.endOp (t : Tile) (strand : Nat) (tag : BitVec 16) : Tile := { t with ops := t.ops.filter fun q => !(q.strand = strand && q.tag = tag) }

theorem opEnd_eq (s : State) (tile : Nat) (o : AsyncOp) (st : Byte) (high : W32) (fl : W64) : opEnd s tile o st high fl =
    modStrand (modTile (endBlocks s o) tile (Tile.endOp · o.strand o.tag)) { tile, strand := o.strand } (·.complete o.tag st high fl) := rfl

/-- An operation's end completes its tag and takes it from the tile's list. -/
theorem completes_opEnd (s : State) (a : Issuer) (o : AsyncOp) (st : Byte) (high : W32) (fl : W64) (hs : o.strand = a.strand) :
    Completes s (opEnd s a.tile o st high fl) a o.tag st high fl := by
  have hwork := sameWork_endBlocks s o
  have ha : ({ tile := a.tile, strand := o.strand } : Issuer) = a := by rw [hs]
  have hstrands : ∀ b, getStrand (modTile (endBlocks s o) a.tile (Tile.endOp · o.strand o.tag)) b = getStrand s b :=
    fun b => (getStrand_setTile _ a.tile (t := (getTile (endBlocks s o) a.tile).endOp o.strand o.tag) b rfl).trans (hwork.getStrand b)
  rw [opEnd_eq, ha]
  refine ⟨?_, ?_, fun b hb => ?_⟩
  · rw [ops_modStrand, getTile_modTile, if_pos rfl, Tile.endOp, (hwork a.tile).1, hs]
  · rw [getStrand_modStrand_same, hstrands]
  · rw [getStrand_modStrand_of_ne _ _ (Ne.symm hb), hstrands]

theorem Completes.of_tiles {s s' t t' : State} {a : Issuer} {tag : BitVec 16} {st : Byte} {high : W32} {fl : W64}
    (h : Completes s' t' a tag st high fl) (hs : s'.tiles = s.tiles) (ht : t.tiles = t'.tiles) : Completes s t a tag st high fl := by
  obtain ⟨hops, hstrand, hother⟩ := h
  have hs' : ∀ k, getTile s' k = getTile s k := fun k => by rw [getTile, getTile, hs]
  have ht' : ∀ k, getTile t k = getTile t' k := fun k => by rw [getTile, getTile, ht]
  refine ⟨?_, ?_, fun b hb => ?_⟩
  · rw [ht', hops, hs']
  · rw [getStrand, ht', ← getStrand, hstrand, getStrand, hs', ← getStrand]
  · rw [getStrand, ht', ← getStrand, hother b hb, getStrand, hs', ← getStrand]

/-! ## A completion that moves its data -/

/-- The writes of an operation clear what they cover of the record of memory errors, which is among the faults. -/
theorem foldl_clearVia_eq (x : Loom) (rs : List (Nat × Nat)) (s : State) :
    ∃ fs, rs.foldl (fun s r => clearVia s x r.1 r.2) s = { s with faults := fs } := by
  induction rs generalizing s with
  | nil => exact ⟨s.faults, rfl⟩
  | cons r rs ih =>
    have hone : ∃ fs, clearVia s x r.1 r.2 = { s with faults := fs } := by
      rw [clearVia]
      split_ifs
      · exact ⟨_, rfl⟩
      · exact ⟨_, rfl⟩
    obtain ⟨fs, hone⟩ := hone
    obtain ⟨fs', hrest⟩ := ih (clearVia s x r.1 r.2)
    exact ⟨fs', by rw [List.foldl_cons, hrest, hone]⟩

/-- The case of a completion in which nothing is waited for, nothing is copied first, and no poison is met. -/
theorem opComplete_eq {s : State} {a : Issuer} {tag : BitVec 16} {l : Nat} {o : AsyncOp} {kinds : List AsyncKind}
    {srcs dsts : AsyncOp → List (Nat × Nat)} (go : State → Nat → AsyncOp → State × W32 × W64)
    (hk : kinds.contains o.kind = true) (h : MayComplete s a tag l o (srcs o) (dsts o)) :
    opComplete s a tag kinds srcs dsts go = rowsServed (opEnd ((dsts o).foldl (fun t r => clearVia t (getLoom s l) r.1 r.2) (go s l o).1) a.tile o stOk
      (go s l o).2.1 (go s l o).2.2) l (.op a.tile a.strand tag.toNat) := by
  obtain ⟨-, hop, hown, hready, hrows, -, hcopied, hpoison⟩ := h
  have hfind : ((dsts o).findSome? fun r => uncopied s r.1 r.2) = none := List.findSome?_eq_none_iff.mpr hcopied
  unfold opComplete
  rw [hop, hown]
  simp only [hk, hready, hrows, hfind, hpoison, Bool.not_true, Bool.false_eq_true, if_false]

/-- An operation that may complete moves its data as go says, and is over. -/
theorem opComplete_of_may {s : State} {a : Issuer} {tag : BitVec 16} {l : Nat} {o : AsyncOp} {kinds : List AsyncKind}
    {srcs dsts : AsyncOp → List (Nat × Nat)} {go : State → Nat → AsyncOp → State × W32 × W64} (hs : o.strand = a.strand) (htag : o.tag = tag)
    (hk : kinds.contains o.kind = true) (h : MayComplete s a tag l o (srcs o) (dsts o))
    (htiles : (go s l o).1.tiles = s.tiles) (hidle : agentsIdle (go s l o).1 l) :
    (opComplete s a tag kinds srcs dsts go).mem = (go s l o).1.mem ∧
    Completes s (opComplete s a tag kinds srcs dsts go) a tag stOk (go s l o).2.1 (go s l o).2.2 := by
  rw [opComplete_eq go hk h]
  generalize (go s l o).2.1 = high, (go s l o).2.2 = fl
  generalize (go s l o).1 = g at htiles hidle
  obtain ⟨fs, hclear⟩ := foldl_clearVia_eq (getLoom s l) (dsts o) g
  rw [hclear]
  generalize hu : ({ g with faults := fs } : State) = u
  have hmem : u.mem = g.mem := by rw [← hu]
  have hutiles : u.tiles = s.tiles := by rw [← hu, ← htiles]
  have hidle' : agentsIdle (opEnd u a.tile o stOk high fl) l := by
    intro w hw
    rw [getLoom, opEnd_looms _ _ _ _ high fl, ← hu] at hw
    exact hidle w hw
  obtain ⟨ls, hserved⟩ := rowsServed_of_idle (.op a.tile a.strand tag.toNat) hidle'
  rw [hserved]
  exact ⟨(opEnd_mem u a.tile o stOk high fl).trans hmem, htag ▸ Completes.of_tiles (completes_opEnd u a o stOk high fl hs) hutiles rfl⟩

end Sys2Proof.Machine
end

section
/-! SUPPORT. What transfers move (Table 4-18, R68, R136, R137): every byte to its home, and the sums of embedding bags. With it the obligation about
movement is settled. -/
namespace Sys2Proof.Machine
open Sys2Proof

/-! ## Bytes after stores -/

theorem memGet_storeBytes_of_not_mem {m : List Host.Cell} {ws : List (Nat × Byte)} {b : Nat} (h : ∀ w ∈ ws, w.1 ≠ b) :
    memGet (storeBytes m ws) b = memGet m b := by
  have hnone : ws.reverse.find? (fun w => w.1 = b) = none := by
    rw [List.find?_eq_none]
    intro w hw
    simpa using h w (List.mem_reverse.mp hw)
  have hb := storesTo_storeBytes m ws b
  rwa [hnone] at hb

theorem memGet_storeBytes_of_unique {m : List Host.Cell} {ws : List (Nat × Byte)} {w : Nat × Byte} (h : w ∈ ws) (hu : ∀ v ∈ ws, v.1 = w.1 → v.2 = w.2) :
    memGet (storeBytes m ws) w.1 = w.2 := by
  have hb := storesTo_storeBytes m ws w.1
  cases hf : ws.reverse.find? (fun v => v.1 = w.1) with
  | none => exact absurd (List.find?_eq_none.mp hf w (List.mem_reverse.mpr h)) (by simp)
  | some v =>
    rw [hf] at hb
    exact hb.trans (hu v (List.mem_reverse.mp (List.mem_of_find?_eq_some hf)) (by simpa using List.find?_some hf))

theorem mem_storesAt {home : Nat → Nat} {bs : List Byte} {w : Nat × Byte} : w ∈ storesAt home bs ↔ ∃ i, i < bs.length ∧ w = (home i, bs.getD i 0) := by
  simp [storesAt, eq_comm]

/-- Bytes have gone to memory, and beside it the record of memory errors alone has changed. -/
def Wrote (s t : State) (ws : List (Nat × Byte)) : Prop := ∃ fl, t = { s with mem := storeBytes s.mem ws, faults := fl }

section
variable {s t u : State} {ws vs : List (Nat × Byte)}

theorem Wrote.nil (s : State) : Wrote s s [] := ⟨s.faults, rfl⟩

theorem Wrote.trans (h : Wrote s t ws) (h' : Wrote t u vs) : Wrote s u (ws ++ vs) := by
  obtain ⟨fl, rfl⟩ := h
  obtain ⟨fl', rfl⟩ := h'
  exact ⟨fl', by rw [storeBytes_append]⟩

theorem Wrote.mem (h : Wrote s t ws) : t.mem = storeBytes s.mem ws := by
  obtain ⟨fl, rfl⟩ := h
  rfl

theorem Wrote.tiles (h : Wrote s t ws) : t.tiles = s.tiles := by
  obtain ⟨fl, rfl⟩ := h
  rfl

theorem Wrote.variant (h : Wrote s t ws) : t.variant = s.variant := by
  obtain ⟨fl, rfl⟩ := h
  rfl

theorem Wrote.getLoom (h : Wrote s t ws) (l : Nat) : getLoom t l = getLoom s l := by
  obtain ⟨fl, rfl⟩ := h
  rfl

theorem Wrote.agentsIdle {l : Nat} (h : Wrote s t ws) (hi : agentsIdle s l) : agentsIdle t l := fun w hw => hi w (h.getLoom l ▸ hw)

/-- A byte that is not written reads as before. -/
theorem byteVia_of_wrote {l a : Nat} (h : Wrote s t ws) (ha : ∀ w ∈ ws, w.1 ≠ byteHome (getLoom s l) a) : byteVia t l a = byteVia s l a := by
  rw [byteVia, byteVia, h.getLoom, h.variant, h.mem, memGet_storeBytes_of_not_mem ha]

end

/-! ## Moves -/

theorem moveStores_cons (s : State) (l : Nat) (m : Nat × Nat × Nat) (ms : List (Nat × Nat × Nat)) :
    moveStores s l (m :: ms) = moveStores s l [m] ++ moveStores s l ms := by
  simp [moveStores]

theorem moveStores_single (s : State) (l : Nat) (m : Nat × Nat × Nat) :
    moveStores s l [m] = storesAt (fun i => byteHome (getLoom s l) (m.2.1 + i)) (bytesVia s l m.1 m.2.2) := by
  rw [moveStores, List.flatMap_singleton, storesAt, bytesVia_length]
  refine List.map_congr_left fun i hi => ?_
  rw [bytesVia, List.getD_eq_getElem?_getD, List.getElem?_map, List.getElem?_range (List.mem_range.mp hi), Option.map_some, Option.getD_some]

/-- One move: all its bytes are read before one is written. -/
theorem wrote_moveBytes (s : State) (l : Nat) (m : Nat × Nat × Nat) : Wrote s (moveBytes s l m.1 m.2.1 m.2.2) (moveStores s l [m]) := by
  rw [moveStores_single, moveBytes]
  split_ifs with h
  · rw [h]
    exact .nil s
  · rw [readVia_eq]
    exact writeVia_eq s l m.2.1 _

/-- No move writes a byte that one of them reads. -/
def MovesApart (s : State) (l : Nat) (ms : List (Nat × Nat × Nat)) : Prop :=
  ∀ m ∈ ms, ∀ i < m.2.2, ∀ k ∈ ms, ∀ j < k.2.2, byteHome (getLoom s l) (m.1 + i) ≠ byteHome (getLoom s l) (k.2.1 + j)

/-- Moves read the same after one from which they are apart. -/
theorem moveStores_of_wrote {s t : State} {l : Nat} {m : Nat × Nat × Nat} {ms : List (Nat × Nat × Nat)} (h : Wrote s t (moveStores s l [m]))
    (hapart : MovesApart s l (m :: ms)) : moveStores t l ms = moveStores s l ms := by
  refine List.flatMap_congr fun k hk => List.map_congr_left fun i hi => ?_
  rw [h.getLoom, byteVia_of_wrote h fun w hw => ?_]
  simp only [moveStores, List.flatMap_singleton, List.mem_map, List.mem_range] at hw
  obtain ⟨j, hj, rfl⟩ := hw
  exact (hapart k (.tail _ hk) i (List.mem_range.mp hi) m (.head _) j hj).symm

/-- Moves that are apart each read what stood before the first. -/
theorem wrote_foldl_moveBytes {l : Nat} (ms : List (Nat × Nat × Nat)) (s : State) (hapart : MovesApart s l ms) :
    Wrote s (ms.foldl (fun s m => moveBytes s l m.1 m.2.1 m.2.2) s) (moveStores s l ms) := by
  induction ms generalizing s with
  | nil => exact .nil s
  | cons m ms ih =>
    have hone := wrote_moveBytes s l m
    have hrest := ih (moveBytes s l m.1 m.2.1 m.2.2) fun k hk i hi k' hk' j hj => by
      rw [hone.getLoom]
      exact hapart k (.tail _ hk) i hi k' (.tail _ hk') j hj
    rw [moveStores_cons, ← moveStores_of_wrote hone hapart]
    exact hone.trans hrest

theorem agentsCounted_touchMoves (s : State) (l : Nat) (ms : List (Nat × Nat × Nat)) :
    AgentsCounted s (ms.foldl (fun s m => touchMove s l m.1 m.2.1 m.2.2) s) := by
  refine AgentsCounted.foldl (fun s (m : Nat × Nat × Nat) => touchMove s l m.1 m.2.1 m.2.2) (fun s m => ?_) ms s
  rw [touchMove]
  split_ifs
  · exact .refl s
  · exact (agentsCounted_touchRange s l m.1 m.2.2 false).trans (agentsCounted_touchRange _ l m.2.1 m.2.2 true)

/-! ## A transfer completes -/

section
variable {s : State} {a : Issuer} {tag : BitVec 16} {l : Nat} {o : AsyncOp}

theorem agentsIdle_of_may {srcs dsts : List (Nat × Nat)} (h : MayComplete s a tag l o srcs dsts) : agentsIdle s l := h.2.2.2.2.2.1

theorem alive_of_may {srcs dsts : List (Nat × Nat)} (h : MayComplete s a tag l o srcs dsts) (f : State → State) : alive s f = f s := alive_light f h.1

/-- What XFER_COMPLETE moves has gone to memory, and beside it the agents have counted: the operation is over. -/
theorem exec_xferComplete {u : State} {ws : List (Nat × Byte)} {af : AFlags} (hs : o.strand = a.strand) (htag : o.tag = tag)
    (hk : o.kind ∈ [AsyncKind.copy, .gather, .scatter, .ebag]) (h : MayComplete s a tag l o (xferSrc o) (xferDst o))
    (hu : Wrote s u ws) (hgo : AgentsCounted u (xferGo s l o).1) (haf : (xferGo s l o).2 = (0, af)) :
    ∃ t, exec (.xferComplete a tag) s = .next t ∧ Completes s t a tag stOk 0 af ∧ t.mem = storeBytes s.mem ws := by
  have hgo' : (xferGo s l o).1.tiles = u.tiles ∧ (xferGo s l o).1.mem = u.mem := by
    obtain ⟨ls, hls, -⟩ := hgo
    rw [hls]
    exact ⟨rfl, rfl⟩
  obtain ⟨hmem, hdone⟩ := opComplete_of_may (kinds := [.copy, .gather, .scatter, .ebag]) (go := xferGo) hs htag (by simpa using hk) h
    (hgo'.1.trans hu.tiles) (hgo.agentsIdle (hu.agentsIdle (agentsIdle_of_may h)))
  rw [haf] at hdone
  exact ⟨_, congrArg Host.Outcome.next (alive_of_may h _), hdone, hmem.trans (hgo'.2.trans hu.mem)⟩

/-- A transfer whose moves are one, or apart, moves them all. -/
theorem exec_xferMoves (hs : o.strand = a.strand) (htag : o.tag = tag) (hk : o.kind ∈ [AsyncKind.copy, .gather, .scatter])
    (h : MayComplete s a tag l o (xferSrc o) (xferDst o))
    (hmoves : Wrote s ((xferMoves o).foldl (fun s m => moveBytes s l m.1 m.2.1 m.2.2) s) (moveStores s l (xferMoves o))) :
    ∃ t, exec (.xferComplete a tag) s = .next t ∧ Completes s t a tag stOk 0 0 ∧ storesTo s.mem t.mem (moveStores s l (xferMoves o)) := by
  have hne : o.kind ≠ .ebag := fun he => by simp [he] at hk
  have hgo : xferGo s l o = ((xferMoves o).foldl (fun s m => touchMove s l m.1 m.2.1 m.2.2)
      ((xferMoves o).foldl (fun s m => moveBytes s l m.1 m.2.1 m.2.2) s), 0, 0) := if_neg hne
  obtain ⟨t, ht, hdone, hmem⟩ := exec_xferComplete (af := 0) hs htag (by simp only [List.mem_cons] at hk ⊢; tauto) h hmoves
    (by rw [hgo]; exact agentsCounted_touchMoves _ l _) (by rw [hgo])
  exact ⟨t, ht, hdone, hmem ▸ storesTo_storeBytes s.mem _⟩

/-- An offset in row p of rows of n bytes lies among the bytes of all rows. -/
theorem row_offset_lt {p rows n i : Nat} (hp : p < rows) (hi : i < n) : p * n + i < rows * n := by
  calc p * n + i < p * n + n := by omega
    _ = (p + 1) * n := by ring
    _ ≤ rows * n := Nat.mul_le_mul_right n hp

theorem mem_rangeOf_row {base p rows n i : Nat} (hp : p < rows) (hi : i < n) : base + p * n + i ∈ rangeOf base (rows * n) :=
  List.mem_map.mpr ⟨p * n + i, List.mem_range.mpr (row_offset_lt hp hi), by omega⟩

theorem mem_rows_indexed {base j n i : Nat} {list : List Nat} (hj : j ∈ list) (hi : i < n) : base + j * n + i ∈ list.flatMap fun j => rangeOf (base + j * n) n :=
  List.mem_flatMap.mpr ⟨j, hj, List.mem_map.mpr ⟨i, List.mem_range.mpr hi, rfl⟩⟩

theorem mem_zip_range {list : List Nat} {p : Nat × Nat} (h : p ∈ list.zip (List.range list.length)) : p.1 ∈ list ∧ p.2 < list.length :=
  ⟨(List.of_mem_zip h).1, List.mem_range.mp (List.of_mem_zip h).2⟩

theorem movesApart_gather (hk : o.kind = .gather)
    (h : apart s l (o.list.flatMap fun j => rangeOf (o.src + j * o.row) o.row) (rangeOf o.dst (o.list.length * o.row))) : MovesApart s l (xferMoves o) := by
  intro m hm i hi k hk' j hj
  simp only [xferMoves, hk, List.mem_map] at hm hk'
  obtain ⟨p, hp, rfl⟩ := hm
  obtain ⟨q, hq, rfl⟩ := hk'
  exact h _ _ (mem_rows_indexed (mem_zip_range hp).1 hi) (mem_rangeOf_row (mem_zip_range hq).2 hj)

theorem movesApart_scatter (hk : o.kind = .scatter)
    (h : apart s l (rangeOf o.src (o.list.length * o.row)) (o.list.flatMap fun j => rangeOf (o.dst + j * o.row) o.row)) : MovesApart s l (xferMoves o) := by
  intro m hm i hi k hk' j hj
  simp only [xferMoves, hk, List.mem_map] at hm hk'
  obtain ⟨p, hp, rfl⟩ := hm
  obtain ⟨q, hq, rfl⟩ := hk'
  exact h _ _ (mem_rangeOf_row (mem_zip_range hp).2 hi) (mem_rows_indexed (mem_zip_range hq).1 hj)

theorem transfers : Transfers := by
  intro s a tag l o hs htag h rows
  refine ⟨fun hk => ?_, fun hk hapart => ?_, fun hk hapart => ?_⟩
  · have hmoves : xferMoves o = [(o.src, o.dst, o.len)] := by simp [xferMoves, hk]
    exact hmoves ▸ exec_xferMoves hs htag (by simp [hk]) h (hmoves ▸ wrote_moveBytes s l _)
  · have hmoves : xferMoves o = rows.map fun p => (o.src + p.1 * o.row, o.dst + p.2 * o.row, o.row) := by simp [xferMoves, hk, rows]
    exact hmoves ▸ exec_xferMoves hs htag (by simp [hk]) h (wrote_foldl_moveBytes _ s (movesApart_gather hk hapart))
  · have hmoves : xferMoves o = rows.map fun p => (o.src + p.2 * o.row, o.dst + p.1 * o.row, o.row) := by simp [xferMoves, hk, rows]
    exact hmoves ▸ exec_xferMoves hs htag (by simp [hk]) h (wrote_foldl_moveBytes _ s (movesApart_scatter hk hapart))

/-! ## Embedding bags -/

/-- The bags begin in ascending order. -/
theorem bag_le (hmono : ∀ b, b < o.rows → o.list.getD b 0 ≤ o.list.getD (b + 1) 0) {b c : Nat} (hbc : b ≤ c) (hc : c ≤ o.rows) :
    o.list.getD b 0 ≤ o.list.getD c 0 := by
  induction c, hbc using Nat.le_induction with
  | base => exact le_rfl
  | succ c _ ih => exact (ih (by omega)).trans (hmono c (by omega))

/-- The indices of a bag, each with its place in it. -/
theorem bag_indices {b : Nat} (hlen : o.list.length = o.rows + 1 + (o.list.getD o.rows 0 - o.list.headD 0))
    (hmono : ∀ b, b < o.rows → o.list.getD b 0 ≤ o.list.getD (b + 1) 0) (hb : b < o.rows) :
    let n := o.list.getD (b + 1) 0 - o.list.getD b 0
    (((o.list.drop (o.rows + 1)).drop (o.list.getD b 0 - o.list.headD 0)).take n).zip (List.range n) =
      (List.range n).map fun k => (o.list.getD (o.rows + 1 + (o.list.getD b 0 - o.list.headD 0) + k) 0, k) := by
  intro n
  have hhead : o.list.headD 0 = o.list.getD 0 0 := by cases o.list <;> rfl
  have h0 : o.list.getD 0 0 ≤ o.list.getD b 0 := bag_le hmono (Nat.zero_le b) hb.le
  have h1 : o.list.getD b 0 ≤ o.list.getD (b + 1) 0 := hmono b hb
  have h2 : o.list.getD (b + 1) 0 ≤ o.list.getD o.rows 0 := bag_le hmono hb le_rfl
  rw [hhead] at hlen ⊢
  have hn : n = o.list.getD (b + 1) 0 - o.list.getD b 0 := rfl
  clear_value n
  generalize o.list.getD 0 0 = lo, o.list.getD b 0 = first, o.list.getD (b + 1) 0 = next, o.list.getD o.rows 0 = last at *
  have hroom : o.rows + 1 + (first - lo) + n ≤ o.list.length := by omega
  apply List.ext_getElem
  · simp only [List.length_zip, List.length_take, List.length_drop, List.length_range, List.length_map]
    omega
  · intro k hk hk'
    have hkn : k < n := by simpa using hk'
    have hin : o.rows + 1 + (first - lo) + k < o.list.length := by omega
    simp [List.getElem_drop, hin]

theorem bagElem_sum {b : Nat} (j : Nat) (hlen : o.list.length = o.rows + 1 + (o.list.getD o.rows 0 - o.list.headD 0))
    (hmono : ∀ b, b < o.rows → o.list.getD b 0 ≤ o.list.getD (b + 1) 0) (hb : b < o.rows) : (bagElem s l o b j).1 = bagSum s l o b j := by
  have hhead : o.list.headD 0 = o.list.getD 0 0 := by cases o.list <;> rfl
  have h0 : o.list.getD 0 0 ≤ o.list.getD b 0 := bag_le hmono (Nat.zero_le b) hb.le
  have hplace : o.list.headD 0 + (o.list.getD b 0 - o.list.headD 0) = o.list.getD b 0 := by omega
  unfold bagElem bagSum
  dsimp only
  rw [bag_indices hlen hmono hb, List.foldl_map]
  refine (List.foldl_hom Prod.fst fun acc k => ?_).symm
  simp only [readVia_eq, hplace]
  split_ifs <;> rfl

/-- The encoding of element k of an embedding bag. -/
def bagBits (s : State) (l : Nat) (o : AsyncOp) (e k : Nat) : Nat :=
  (encode o.dstFmt (modeOf o.rnd (srBits (getLoom s l).seed o.stream o.tensorId (BitVec.ofNat 64 k))) o.sat (f32Val (bagElem s l o (k / e) (k % e)).1)).1

/-- The bytes an EBAG writes. -/
def bagStores (s : State) (l : Nat) (o : AsyncOp) : List (Nat × Byte) :=
  let e := o.row / fmtBytes o.srcFmt
  let ds := fmtBytes o.dstFmt
  (List.range (o.rows * e)).flatMap fun k => storesAt (fun i => byteHome (getLoom s l) (o.dst + k * ds + i)) (toLe ds (bagBits s l o e k))

theorem ebagGo_counted (s : State) (l : Nat) (o : AsyncOp) : ∃ u, Wrote s u (bagStores s l o) ∧ AgentsCounted u (ebagGo s l o).1 := by
  let e := o.row / fmtBytes o.srcFmt
  let ds := fmtBytes o.dstFmt
  let write := fun (u : State) k => writeVia u l (o.dst + k * ds) (toLe ds (bagBits s l o e k))
  let touch := fun (u : State) => (o.list.drop (o.rows + 1)).foldl (fun acc i => touchRange acc l (o.src + i * o.row) o.row false) u
  have hfold : (ebagGo s l o).1 = touch ((List.range (o.rows * e)).foldl write s) := by
    unfold ebagGo
    dsimp only
    refine congrArg touch ?_
    symm
    refine List.foldl_hom Prod.fst (g₂ := write) (init := (s, (0 : AFlags))) ?_
    exact fun acc k => rfl
  refine ⟨_, foldl_writeVia l (fun k => o.dst + k * ds) (fun k => toLe ds (bagBits s l o e k)) (List.range (o.rows * e)) s, ?_⟩
  rw [hfold]
  exact AgentsCounted.foldl (fun s i => touchRange s l (o.src + i * o.row) o.row false) (fun s i => agentsCounted_touchRange s l _ _ _) _ _

theorem mem_bagStores {w : Nat × Byte} (h : w ∈ bagStores s l o) : ∃ k i, k < o.rows * (o.row / fmtBytes o.srcFmt) ∧ i < fmtBytes o.dstFmt ∧
    w = (byteHome (getLoom s l) (o.dst + (k * fmtBytes o.dstFmt + i)),
      BitVec.ofNat 8 (bagBits s l o (o.row / fmtBytes o.srcFmt) k / 256 ^ i)) := by
  obtain ⟨k, hk, hw⟩ := List.mem_flatMap.mp h
  obtain ⟨i, hi, rfl⟩ := mem_storesAt.mp hw
  rw [toLe_length] at hi
  exact ⟨k, i, List.mem_range.mp hk, hi, by rw [toLe_getD _ _ _ hi, Nat.add_assoc]⟩

theorem bagStores_mem {k i : Nat} (hk : k < o.rows * (o.row / fmtBytes o.srcFmt)) (hi : i < fmtBytes o.dstFmt) :
    (byteHome (getLoom s l) (o.dst + k * fmtBytes o.dstFmt + i), BitVec.ofNat 8 (bagBits s l o (o.row / fmtBytes o.srcFmt) k / 256 ^ i)) ∈ bagStores s l o :=
  List.mem_flatMap.mpr ⟨k, List.mem_range.mpr hk, mem_storesAt.mpr ⟨i, by rwa [toLe_length], by rw [toLe_getD _ _ _ hi]⟩⟩

theorem row_offset_div {k n i : Nat} (hi : i < n) : (k * n + i) / n = k := by
  rw [Nat.add_comm, Nat.add_mul_div_right _ _ (by omega), Nat.div_eq_of_lt hi, Nat.zero_add]

theorem row_offset_mod {k n i : Nat} (hi : i < n) : (k * n + i) % n = i := by
  rw [Nat.add_comm, Nat.add_mul_mod_self_right, Nat.mod_eq_of_lt hi]

/-- Offsets of two elements' bytes are equal only for the same byte of the same element. -/
theorem row_offset_inj {k k' i i' n : Nat} (hi : i < n) (hi' : i' < n) (h : k * n + i = k' * n + i') : k = k' ∧ i = i' :=
  ⟨(row_offset_div hi).symm.trans ((congrArg (· / n) h).trans (row_offset_div hi')), (row_offset_mod hi).symm.trans ((congrArg (· % n) h).trans (row_offset_mod hi'))⟩

theorem embeddingBags : EmbeddingBags := by
  intro s a tag l o hk hs htag h hlen hmono e ds homes hnodup
  obtain ⟨u, hu, hgo⟩ := ebagGo_counted s l o
  have hgoal : xferGo s l o = ((ebagGo s l o).1, 0, (ebagGo s l o).2) := if_pos hk
  obtain ⟨t, ht, hdone, hmem⟩ := exec_xferComplete (af := (ebagGo s l o).2) hs htag (by simp [hk]) h hu (by rw [hgoal]; exact hgo) (by rw [hgoal])
  refine ⟨t, ht, ⟨_, hdone⟩, fun p hp => ?_, fun b j i hb hj hi => ?_⟩
  · rw [hmem]
    refine memGet_storeBytes_of_not_mem fun w hw hwp => hp ?_
    obtain ⟨k, i, hk, hi, rfl⟩ := mem_bagStores hw
    exact hwp ▸ List.mem_map_of_mem (List.mem_map_of_mem (List.mem_range.mpr (row_offset_lt hk hi)))
  · have hpos : b * e + j < o.rows * e := row_offset_lt hb hj
    have hbits : bagBits s l o e (b * e + j) = (encode o.dstFmt (modeOf o.rnd (srBits (getLoom s l).seed o.stream o.tensorId (BitVec.ofNat 64 (b * e + j)))) o.sat
        (f32Val (bagSum s l o b j))).1 := by
      rw [bagBits, row_offset_div hj, row_offset_mod hj, bagElem_sum j hlen hmono hb]
    intro draw
    rw [hmem, ← hbits]
    refine memGet_storeBytes_of_unique (bagStores_mem hpos hi) fun v hv hve => ?_
    obtain ⟨k, i', hk', hi', rfl⟩ := mem_bagStores hv
    have hsame : k * ds + i' = (b * e + j) * ds + i := by
      have hin : ∀ {n}, n < o.rows * e * ds → o.dst + n ∈ rangeOf o.dst (o.rows * e * ds) := fun hn => List.mem_map_of_mem (List.mem_range.mpr hn)
      have := List.inj_on_of_nodup_map hnodup (hin (row_offset_lt hk' hi')) (hin (row_offset_lt hpos hi)) (hve.trans (by rw [Nat.add_assoc]))
      omega
    obtain ⟨rfl, rfl⟩ := row_offset_inj hi' hi hsame
    rfl

end

/-- Settles O12. -/
theorem movement : Obligations.Movement := ⟨transfers, embeddingBags⟩

end Sys2Proof.Machine
end

section
/-! SUPPORT. Staging and working copies (R95, R96, R134, R301, R302): the units that a STAGE and a weft stream land, and where the elements and the scales
of a working copy go. With it the obligation about staging and working copies is settled. -/
namespace Sys2Proof.Machine
open Sys2Proof

/-! ## Units (R95, R134) -/

theorem storesAt_rdN (s : State) (home : Nat → Nat) (a n : Nat) : storesAt home (rdN s a n) = (List.range n).map fun i => (home i, memGet s.mem (a + i)) := by
  have hlen : (memGetN s.mem a n).length = n := by simp [memGetN_eq_map]
  rw [storesAt, rdN, hlen]
  refine List.map_congr_left fun i hi => ?_
  rw [memGetN_eq_map, List.getD_eq_getElem?_getD, List.getElem?_map, List.getElem?_range (List.mem_range.mp hi), Option.map_some, Option.getD_some]

theorem wrote_wrN (s : State) (a : Nat) (bs : List Byte) : Wrote s (wrN s a bs) (storesAt (a + ·) bs) :=
  ⟨s.faults, congrArg (fun m => ({ s with mem := m } : State)) (memSetN_eq_storeBytes s.mem a bs)⟩

/-- Tile t with one more unit landed of a strand's STAGE of a tag. -/
def Tile.landUnit (t : Tile) (strand : Nat) (tag : BitVec 16) : Tile :=
  { t with ops := t.ops.map fun (q : AsyncOp) => if q.strand = strand && q.tag = tag then { q with landed := q.landed + 1 } else q }

theorem opOf_landUnit {t : Tile} {strand : Nat} {tag : BitVec 16} {o : AsyncOp} (h : opOf t strand tag = some o) :
    opOf (t.landUnit strand tag) strand tag = some { o with landed := o.landed + 1 } := by
  have ho : (decide (o.strand = strand) && decide (o.tag = tag)) = true :=
    List.find?_some (p := fun q : AsyncOp => decide (q.strand = strand) && decide (q.tag = tag)) h
  have hkeep : ((fun q : AsyncOp => decide (q.strand = strand) && decide (q.tag = tag)) ∘
      fun (q : AsyncOp) => if q.strand = strand && q.tag = tag then { q with landed := q.landed + 1 } else q) =
      fun q => decide (q.strand = strand) && decide (q.tag = tag) := by
    funext q
    simp only [Function.comp]
    split_ifs <;> rfl
  rw [opOf, Tile.landUnit, List.find?_map, hkeep]
  unfold opOf at h
  rw [h, Option.map_some, if_pos ho]

theorem stageUnit_eq {s : State} {a : Issuer} {l : Nat} {o : AsyncOp} (hk : o.kind = .stage) (hop : opOf (getTile s a.tile) a.strand o.tag = some o)
    (hown : ownerOfTile s a.tile = some l) (hready : opReady s o = true)
    (hcopied : uncopied s (tileAddr a.tile (o.dst + o.landed * 65536)) (min 65536 (o.len - o.landed * 65536)) = none)
    (hpoison : opPoison s (getLoom s l) [(o.src + o.landed * 65536, min 65536 (o.len - o.landed * 65536))]
      [(tileAddr a.tile (o.dst + o.landed * 65536), min 65536 (o.len - o.landed * 65536))] = false) :
    stageUnit s a o.tag =
      let u := wrN s (tileAddr a.tile (o.dst + o.landed * 65536)) (rdN s (o.src + o.landed * 65536) (min 65536 (o.len - o.landed * 65536)))
      if o.len ≤ o.landed * 65536 + min 65536 (o.len - o.landed * 65536) then opEnd u a.tile o stOk
      else modTile u a.tile (Tile.landUnit · o.strand o.tag) := by
  unfold stageUnit
  rw [hop, hown]
  simp only [hk, hready, hcopied, hpoison, ne_eq, not_true_eq_false, Bool.not_true, Bool.false_eq_true, if_false]
  rfl

/-- The unit that is next in a tile's weft stream. -/
theorem find_running {before rest : List MtxRun} {r : MtxRun} {num : Nat} (hr : r.cmd.num = num) (hb : ∀ q ∈ before ++ rest, q.cmd.num ≠ num) :
    (before ++ r :: rest).find? (fun q => q.cmd.num = num) = some r := by
  rw [List.find?_append, List.find?_eq_none.mpr fun q hq => by simpa using hb q (List.mem_append_left _ hq)]
  simp [hr]

theorem map_running {before rest : List MtxRun} {r : MtxRun} {num : Nat} (f : MtxRun → MtxRun) (hr : r.cmd.num = num)
    (hb : ∀ q ∈ before ++ rest, q.cmd.num ≠ num) :
    (before ++ r :: rest).map (fun q => if q.cmd.num = num then f q else q) = before ++ f r :: rest := by
  have hid : ∀ qs : List MtxRun, (∀ q ∈ qs, q.cmd.num ≠ num) → qs.map (fun q => if q.cmd.num = num then f q else q) = qs := fun qs hqs =>
    (List.map_congr_left fun q hq => if_neg (hqs q hq)).trans (List.map_id' qs)
  rw [List.map_append, List.map_cons, if_pos hr, hid before fun q hq => hb q (List.mem_append_left _ hq), hid rest fun q hq => hb q (List.mem_append_right _ hq)]

/-- The columns that enter the queue change nothing else of a command in flight. -/
theorem fillQueue_eq (s : State) (r : MtxRun) : ∃ qs, fillQueue s r = { r with queue := qs } := by
  unfold fillQueue
  dsimp only
  split_ifs
  · exact ⟨r.queue, rfl⟩
  · exact ⟨_, rfl⟩

theorem stagedUnits : StagedUnits := by
  constructor
  · intro s tile strand l tag o a at_ n hk hs htag hd hop hown hready hcopied hpoison
    subst htag
    have heq := stageUnit_eq (a := a) hk hop hown hready hcopied hpoison
    have hwrote := wrote_wrN s (tileAddr tile (o.dst + at_)) (rdN s (o.src + at_) n)
    generalize hw : wrN s (tileAddr tile (o.dst + at_)) (rdN s (o.src + at_) n) = w at hwrote
    rw [storesAt_rdN] at hwrote
    refine ⟨_, congrArg Host.Outcome.next (alive_light _ hd), ?_⟩
    change storesTo s.mem (stageUnit s a o.tag).mem _ ∧ (_ → Completes s (stageUnit s a o.tag) a o.tag stOk 0 0) ∧
      (_ → opOf (getTile (stageUnit s a o.tag) tile) strand o.tag = _ ∧ ∀ b, getStrand (stageUnit s a o.tag) b = getStrand s b)
    rw [heq]
    dsimp only
    rw [hw]
    by_cases hlast : o.len ≤ at_ + n
    · rw [if_pos hlast]
      refine ⟨?_, fun _ => Completes.of_tiles (completes_opEnd w a o stOk 0 0 hs) hwrote.tiles rfl, fun h => absurd hlast (Nat.not_le.mpr h)⟩
      rw [opEnd_mem w a.tile o stOk 0 0, hwrote.mem]
      exact storesTo_storeBytes s.mem _
    · rw [if_neg hlast]
      have htile : ∀ k, getTile w k = getTile s k := fun k => by rw [getTile, getTile, hwrote.tiles]
      refine ⟨?_, fun h => absurd h hlast, fun _ => ⟨?_, fun b => ?_⟩⟩
      · rw [modTile_mem, hwrote.mem]
        exact storesTo_storeBytes s.mem _
      · rw [getTile_modTile, if_pos rfl, htile]
        conv_lhs => rw [hs]
        exact opOf_landUnit hop
      · exact (getStrand_setTile w tile (t := (getTile w tile).landUnit o.strand o.tag) b rfl).trans ((SameWork.of_tiles hwrote.tiles).getStrand b)
  · intro s tile num r before rest hd hrun hr hb at_ n hu hpoison
    obtain ⟨qs, hq⟩ := fillQueue_eq s { r with staged := r.staged ++ [rdN s at_ n] }
    refine ⟨_, fillQueue s { r with staged := r.staged ++ [rdN s at_ n] }, congrArg Host.Outcome.next (alive_light _ hd), ?_⟩
    have heq : weftUnitLands s tile num = setTile s tile { getTile s tile with
        running := before ++ fillQueue s { r with staged := r.staged ++ [rdN s at_ n] } :: rest } := by
      rw [weftUnitLands]
      dsimp only
      rw [hrun, find_running hr hb]
      dsimp only
      rw [if_neg (Nat.not_le.mpr hu), hpoison, map_running _ hr hb]
      rfl
    change (weftUnitLands s tile num).mem = _ ∧ (weftUnitLands s tile num).looms = _ ∧ (getTile (weftUnitLands s tile num) tile).running = _ ∧
      (getTile (weftUnitLands s tile num) tile).acc = _ ∧ _
    rw [heq, getTile_setTile, if_pos rfl, hq]
    refine ⟨rfl, rfl, rfl, rfl, rfl, rfl, rfl, ?_⟩
    rw [rdN, memGetN_eq_map]

/-! ## Where a working copy writes (R301, R302) -/

/-- Bytes have been written, and all at places of P. -/
def WroteIn (P : Nat → Prop) (s t : State) : Prop := ∃ ws, Wrote s t ws ∧ ∀ w ∈ ws, P w.1

section
variable {P : Nat → Prop} {s t u : State} {o : AsyncOp}

theorem WroteIn.refl (s : State) : WroteIn P s s := ⟨[], .nil s, fun _ h => absurd h List.not_mem_nil⟩

theorem WroteIn.trans (h : WroteIn P s t) (h' : WroteIn P t u) : WroteIn P s u := by
  obtain ⟨ws, hw, hP⟩ := h
  obtain ⟨vs, hv, hP'⟩ := h'
  exact ⟨ws ++ vs, hw.trans hv, fun w hm => (List.mem_append.mp hm).elim (hP w) (hP' w)⟩

theorem WroteIn.foldl {α : Type} {g : State → α → State} {xs : List α} (hg : ∀ x ∈ xs, ∀ s, WroteIn P s (g s x)) (s : State) : WroteIn P s (xs.foldl g s) := by
  induction xs generalizing s with
  | nil => exact .refl s
  | cons x xs ih => exact (hg x (.head _) s).trans (ih (fun y hy => hg y (.tail _ hy)) _)

theorem WroteIn.memGet (h : WroteIn P s t) {b : Nat} (hb : ¬ P b) : memGet t.mem b = memGet s.mem b := by
  obtain ⟨ws, hw, hP⟩ := h
  rw [hw.mem]
  exact memGet_storeBytes_of_not_mem fun w hm he => hb (he ▸ hP w hm)

theorem wroteIn_wrN (s : State) (a : Nat) {bs : List Byte} (h : ∀ i < bs.length, P (a + i)) : WroteIn P s (wrN s a bs) :=
  ⟨_, wrote_wrN s a bs, fun w hw => by
    obtain ⟨i, hi, rfl⟩ := mem_storesAt.mp hw
    exact h i hi⟩

theorem Wrote.foldl {α : Type} {g : State → α → State} {f : α → List (Nat × Byte)} (hg : ∀ s x, Wrote s (g s x) (f x)) (xs : List α) (s : State) :
    Wrote s (xs.foldl g s) (xs.flatMap f) := by
  induction xs generalizing s with
  | nil => exact .nil s
  | cons x xs ih =>
    rw [List.flatMap_cons]
    exact (hg s x).trans (ih _)

/-- An element's bytes lie in the plane of n elements. -/
theorem wroteIn_putElem (s : State) (fmt v : Nat) {base pos n : Nat} (hpos : pos < n) (hP : ∀ b, base ≤ b → b < base + planeBytes fmt n → P b) :
    WroteIn P s (putElem s base fmt pos v) := by
  unfold putElem
  unfold planeBytes at hP
  by_cases h : fmt = 7
  · rw [if_pos h] at hP ⊢
    refine wroteIn_wrN s _ fun i hi => hP _ (by omega) ?_
    have hi : i = 0 := by simpa using hi
    omega
  · rw [if_neg h] at hP ⊢
    refine wroteIn_wrN s _ fun i hi => hP _ (by omega) ?_
    rw [toLe_length] at hi
    have := row_offset_lt hpos hi
    omega

theorem blockCols_pos (fmt : Nat) : 0 < blockCols fmt := by
  unfold blockCols
  split_ifs <;> omega

theorem planePos_eq (o : AsyncOp) (r c : Nat) : planePos o r c = if o.tiled = true
    then (r / 32 * (o.cols / blockCols o.dstFmt) + c / blockCols o.dstFmt) * (32 * blockCols o.dstFmt) + (r % 32 * blockCols o.dstFmt + c % blockCols o.dstFmt)
    else r * o.cols + c := by
  cases h : o.tiled <;> simp [planePos, h, Nat.add_assoc]

/-- Every element of a working copy has its place in the plane. -/
theorem planePos_lt (ht : o.tiled = true → o.rows % 32 = 0 ∧ o.cols % blockCols o.dstFmt = 0) {r c : Nat} (hr : r < o.rows) (hc : c < o.cols) :
    planePos o r c < o.rows * o.cols := by
  rw [planePos_eq]
  split_ifs with h
  · have hbw := blockCols_pos o.dstFmt
    have hR : r / 32 < o.rows / 32 := Nat.div_lt_div_of_lt_of_dvd (Nat.dvd_of_mod_eq_zero (ht h).1) hr
    have hC : c / blockCols o.dstFmt < o.cols / blockCols o.dstFmt := Nat.div_lt_div_of_lt_of_dvd (Nat.dvd_of_mod_eq_zero (ht h).2) hc
    have hin : r % 32 * blockCols o.dstFmt + c % blockCols o.dstFmt < 32 * blockCols o.dstFmt := row_offset_lt (Nat.mod_lt r (by decide)) (Nat.mod_lt c hbw)
    calc _ < o.rows / 32 * (o.cols / blockCols o.dstFmt) * (32 * blockCols o.dstFmt) := row_offset_lt (row_offset_lt hR hC) hin
      _ = (o.rows / 32 * 32) * (o.cols / blockCols o.dstFmt * blockCols o.dstFmt) := by ring
      _ = o.rows * o.cols := by rw [Nat.div_mul_cancel (Nat.dvd_of_mod_eq_zero (ht h).1), Nat.div_mul_cancel (Nat.dvd_of_mod_eq_zero (ht h).2)]
  · exact row_offset_lt hr hc

theorem eq_of_div_mod {a b n : Nat} (hd : a / n = b / n) (hm : a % n = b % n) : a = b := by
  rw [← Nat.div_add_mod a n, hd, hm, Nat.div_add_mod]

theorem planePos_inj (ht : o.tiled = true → o.rows % 32 = 0 ∧ o.cols % blockCols o.dstFmt = 0) {r r' c c' : Nat} (hc : c < o.cols) (hc' : c' < o.cols)
    (h : planePos o r c = planePos o r' c') : r = r' ∧ c = c' := by
  rw [planePos_eq, planePos_eq] at h
  split_ifs at h with htiled
  · have hbw := blockCols_pos o.dstFmt
    have hcols := Nat.dvd_of_mod_eq_zero (ht htiled).2
    obtain ⟨hblock, hin⟩ := row_offset_inj (row_offset_lt (Nat.mod_lt r (by decide)) (Nat.mod_lt c hbw)) (row_offset_lt (Nat.mod_lt r' (by decide)) (Nat.mod_lt c' hbw)) h
    obtain ⟨hR, hC⟩ := row_offset_inj (Nat.div_lt_div_of_lt_of_dvd hcols hc) (Nat.div_lt_div_of_lt_of_dvd hcols hc') hblock
    obtain ⟨hr, hcm⟩ := row_offset_inj (Nat.mod_lt c hbw) (Nat.mod_lt c' hbw) hin
    exact ⟨eq_of_div_mod hR hr, eq_of_div_mod hC hcm⟩
  · exact row_offset_inj hc hc' h

/-- The blocks of a working copy in a format with shared scales: each with its number and its 32 elements, along a row or along a column. -/
def scaledBlocks (o : AsyncOp) : List (Nat × List (Nat × Nat)) :=
  if o.flag then (List.range (o.rows * (o.cols / 32))).map fun b => (b, (List.range 32).map fun i => (b / (o.cols / 32), b % (o.cols / 32) * 32 + i))
  else (List.range (o.rows / 32 * o.cols)).map fun b => (b, (List.range 32).map fun i => (b / o.cols * 32 + i, b % o.cols))

/-- A block has a scale, and its elements are of the copy. -/
theorem scaledBlocks_mem {b : Nat × List (Nat × Nat)} (h : b ∈ scaledBlocks o) :
    b.1 < o.rows * o.cols / 32 ∧ ∀ c ∈ b.2, c.1 < o.rows ∧ c.2 < o.cols := by
  unfold scaledBlocks at h
  split_ifs at h
  · obtain ⟨k, hk, rfl⟩ := List.mem_map.mp h
    rw [List.mem_range] at hk
    have hpos : 0 < o.cols / 32 := Nat.pos_of_ne_zero fun h0 => by simp [h0] at hk
    refine ⟨hk.trans_le (Nat.mul_div_le_mul_div_assoc _ _ _), fun c hc => ?_⟩
    obtain ⟨i, hi, rfl⟩ := List.mem_map.mp hc
    have hcol := row_offset_lt (Nat.mod_lt k hpos) (List.mem_range.mp hi)
    exact ⟨Nat.div_lt_of_lt_mul (by rwa [Nat.mul_comm]), hcol.trans_le (Nat.div_mul_le_self _ _)⟩
  · obtain ⟨k, hk, rfl⟩ := List.mem_map.mp h
    rw [List.mem_range] at hk
    have hpos : 0 < o.cols := Nat.pos_of_ne_zero fun h0 => by simp [h0] at hk
    have hscale : o.rows / 32 * o.cols ≤ o.rows * o.cols / 32 := by
      rw [Nat.mul_comm, Nat.mul_comm o.rows]
      exact Nat.mul_div_le_mul_div_assoc _ _ _
    refine ⟨hk.trans_le hscale, fun c hc => ?_⟩
    obtain ⟨i, hi, rfl⟩ := List.mem_map.mp hc
    have hrow := row_offset_lt (Nat.div_lt_of_lt_mul (by rwa [Nat.mul_comm] : k < o.cols * (o.rows / 32))) (List.mem_range.mp hi)
    exact ⟨hrow.trans_le (Nat.div_mul_le_self _ _), Nat.mod_lt k hpos⟩

/-- The encoding of an element of a working copy in a format without a shared scale. -/
def copyBits (s : State) (l : Nat) (o : AsyncOp) (r c : Nat) : Nat :=
  (encode o.dstFmt (wcopyMode (getLoom s l).seed o r c) o.sat (f32Val (BitVec.ofNat 32 (leNat (readVia s l (o.src + (r * o.cols + c) * 4) 4))))).1

theorem wcopyGo_plain {l : Nat} (h : isMx o.dstFmt = false) : wcopyGo s l o =
    (List.range o.rows).foldl (fun acc r => (List.range o.cols).foldl (fun acc c => putElem acc o.dst o.dstFmt (planePos o r c) (copyBits s l o r c)) acc) s := by
  unfold wcopyGo
  dsimp only
  rw [h]
  rfl

/-- A working copy writes in its plane, and its scales where they are. -/
theorem wroteIn_wcopyGo (s : State) (l : Nat) (ht : o.tiled = true → o.rows % 32 = 0 ∧ o.cols % blockCols o.dstFmt = 0) :
    WroteIn (fun b => ∃ r ∈ wcopyDst o, r.1 ≤ b ∧ b < r.1 + r.2) s (wcopyGo s l o) := by
  have hplane : ∀ b, o.dst ≤ b → b < o.dst + planeBytes o.dstFmt (o.rows * o.cols) → ∃ r ∈ wcopyDst o, r.1 ≤ b ∧ b < r.1 + r.2 :=
    fun b h h' => ⟨_, List.mem_append_left _ (List.mem_singleton.mpr rfl), h, h'⟩
  cases hmx : isMx o.dstFmt with
  | false =>
    rw [wcopyGo_plain hmx]
    exact .foldl (fun r hr => .foldl fun c hc s => wroteIn_putElem s _ _ (planePos_lt ht (List.mem_range.mp hr) (List.mem_range.mp hc)) hplane) s
  | true =>
    unfold wcopyGo
    dsimp only
    rw [if_pos hmx]
    refine WroteIn.foldl (xs := scaledBlocks o) (fun b hb s => ?_) s
    obtain ⟨hscale, hcells⟩ := scaledBlocks_mem hb
    refine WroteIn.trans (wroteIn_wrN s _ fun i hi => ?_) (WroteIn.foldl (fun ce hce s => ?_) _)
    · rw [toLe_length] at hi
      refine ⟨(o.aux, scaleCount o.dstFmt (o.rows * o.cols)), List.mem_append_right _ (by rw [if_pos hmx]; exact List.mem_singleton.mpr rfl), by dsimp only; omega, ?_⟩
      rw [scaleCount, if_pos hmx]
      omega
    · obtain ⟨hr, hc⟩ := hcells ce.1 (List.of_mem_zip hce).1
      exact wroteIn_putElem s _ _ (planePos_lt ht hr hc) hplane

/-- The bytes a working copy writes in a format of whole bytes without a shared scale. -/
theorem wrote_wcopyGo (s : State) (l : Nat) (hmx : isMx o.dstFmt = false) (h7 : o.dstFmt ≠ 7) :
    Wrote s (wcopyGo s l o) ((List.range o.rows).flatMap fun r => (List.range o.cols).flatMap fun c =>
      storesAt (o.dst + planePos o r c * fmtBytes o.dstFmt + ·) (toLe (fmtBytes o.dstFmt) (copyBits s l o r c))) := by
  rw [wcopyGo_plain hmx]
  refine Wrote.foldl (fun u r => Wrote.foldl (fun u c => ?_) _ u) _ s
  rw [putElem, if_neg h7]
  exact wrote_wrN u _ _

theorem leNat_toLe (n v : Nat) : leNat (toLe n v) = v % 256 ^ n := by
  induction n generalizing v with
  | zero => simp [toLe, leNat, Nat.mod_one]
  | succ n ih =>
    rw [toLe, leNat, ih, BitVec.toNat_ofNat, pow_succ' 256 n]
    exact Nat.mod_mul.symm

/-- Element (r, c) reads back as its encoding. -/
theorem rd_wcopyGo (s : State) (l : Nat) (hmx : isMx o.dstFmt = false) (h7 : o.dstFmt ≠ 7)
    (ht : o.tiled = true → o.rows % 32 = 0 ∧ o.cols % blockCols o.dstFmt = 0) {r c : Nat} (hr : r < o.rows) (hc : c < o.cols) :
    leNat (memGetN (wcopyGo s l o).mem (o.dst + planePos o r c * fmtBytes o.dstFmt) (fmtBytes o.dstFmt)) =
      copyBits s l o r c % 256 ^ fmtBytes o.dstFmt := by
  have hbytes : memGetN (wcopyGo s l o).mem (o.dst + planePos o r c * fmtBytes o.dstFmt) (fmtBytes o.dstFmt) = toLe (fmtBytes o.dstFmt) (copyBits s l o r c) := by
    rw [(wrote_wcopyGo s l hmx h7).mem, memGetN_eq_map, toLe_eq_map]
    refine List.map_congr_left fun i hi => ?_
    rw [List.mem_range] at hi
    refine memGet_storeBytes_of_unique (w := (o.dst + planePos o r c * fmtBytes o.dstFmt + i, BitVec.ofNat 8 (copyBits s l o r c / 256 ^ i)))
      (List.mem_flatMap.mpr ⟨r, List.mem_range.mpr hr, List.mem_flatMap.mpr ⟨c, List.mem_range.mpr hc,
        mem_storesAt.mpr ⟨i, by rwa [toLe_length], by rw [toLe_getD _ _ _ hi]⟩⟩⟩) fun v hv hve => ?_
    obtain ⟨r', -, hv⟩ := List.mem_flatMap.mp hv
    obtain ⟨c', hc', hv⟩ := List.mem_flatMap.mp hv
    obtain ⟨i', hi', rfl⟩ := mem_storesAt.mp hv
    rw [toLe_length] at hi'
    rw [toLe_getD _ _ _ hi']
    dsimp only at hve
    obtain ⟨hpos, rfl⟩ := row_offset_inj hi' hi (by omega : planePos o r' c' * fmtBytes o.dstFmt + i' = planePos o r c * fmtBytes o.dstFmt + i)
    obtain ⟨rfl, rfl⟩ := planePos_inj ht (List.mem_range.mp hc') hc hpos
    rfl
  rw [hbytes, leNat_toLe]

theorem workingCopies : WorkingCopies := by
  intro s a tag l o hk hs htag ht h hold
  obtain ⟨-, hop, -⟩ := id h
  obtain ⟨ws, hw, hin⟩ := wroteIn_wcopyGo s l ht
  obtain ⟨hmem, hdone⟩ := opComplete_of_may (kinds := [.wcopy]) (go := fun s l o => (wcopyGo s l o, 0, 0)) hs htag (by simp [hk]) h hw.tiles
    (hw.agentsIdle (agentsIdle_of_may h))
  have hfirst : (readyConversions s a.tile).any (fun q => q.num < o.num) = false := by
    simpa using hold
  refine ⟨_, ?_, hdone, fun b hb => ?_, fun hfmt r c hr hc => ?_⟩
  · refine congrArg Host.Outcome.next ((alive_of_may h _).trans ?_)
    rw [hop]
    dsimp only
    rw [hfirst, if_neg Bool.false_ne_true]
  · rw [hmem]
    exact (wroteIn_wcopyGo s l ht).memGet fun ⟨r, hr, hrb⟩ => hb r hr hrb
  · intro pos v draw sz
    have hplain : isMx o.dstFmt = false ∧ o.dstFmt ≠ 7 ∧ blockCols o.dstFmt = 32 := by
      simp only [List.mem_cons, List.not_mem_nil, or_false] at hfmt
      rcases hfmt with h | h | h | h <;> rw [h] <;> decide
    have hpos : pos = planePos o r c := by
      rw [planePos_eq, hplain.2.2, ← Nat.add_assoc]
    rw [rd, hmem, hpos, rd_wcopyGo s l hplain.1 hplain.2.1 ht hr hc, copyBits, readVia_eq]
    rfl

end

/-- Settles O11. -/
theorem stagesAndCopies : Obligations.StagesAndCopies := ⟨stagedUnits, workingCopies⟩

end Sys2Proof.Machine
end

section
/-! SUPPORT. The special unit (Table 4-22, R149 to R152): the equations of a factor, the sum of squares by runs of 32, and the words that each result
writes. With it the obligation about the special unit is settled. -/
namespace Sys2Proof.Machine
open Sys2Proof

/-! ## Lists that grow at their end -/

/-- n values in order, each from those before it. -/
def grow {α : Type} (f : List α → Nat → α) (n : Nat) : List α := (List.range n).foldl (fun row j => row ++ [f row j]) []

section
variable {α : Type} (f : List α → Nat → α)

theorem grow_succ (n : Nat) : grow f (n + 1) = grow f n ++ [f (grow f n) n] := by simp [grow, List.range_succ]

@[simp] theorem length_grow (n : Nat) : (grow f n).length = n := by
  induction n with
  | zero => rfl
  | succ n ih => simp [grow_succ, ih]

theorem take_grow {j n : Nat} (h : j ≤ n) : (grow f n).take j = grow f j := by
  induction n, h using Nat.le_induction with
  | base => exact List.take_of_length_le (length_grow f j).le
  | succ n hn ih => rw [grow_succ, List.take_append_of_le_length (by rwa [length_grow]), ih]

theorem getD_grow {j n : Nat} (h : j < n) (d : α) : (grow f n).getD j d = f (grow f j) j := by
  have hj : (grow f n).getD j d = ((grow f n).take (j + 1)).getD j d := by simp [List.getD_eq_getElem?_getD]
  rw [hj, take_grow f h, grow_succ]
  simp [List.getD_eq_getElem?_getD]

end

/-! ## The factor (R149) -/

/-- Entry j of a row of the factor, from those before it and the rows before it. -/
def cholEntry (rows : List (List W32)) (a row : List W32) (j : Nat) : W32 :=
  f32Div (subDot (a.getD j 0) (row.zip (rows.getD j []))) ((rows.getD j []).getD j 0)

theorem cholRow_eq (rows : List (List W32)) (a : List W32) (i : Nat) : cholRow rows a i =
    if badPivot (subDot (a.getD i 0) ((grow (cholEntry rows a) i).zip (grow (cholEntry rows a) i))) then none
    else some (grow (cholEntry rows a) i ++ [f32Sqrt (subDot (a.getD i 0) ((grow (cholEntry rows a) i).zip (grow (cholEntry rows a) i)))]) := rfl

/-- The equations of row i of the factor of a, from its rows g. -/
def RowEquations (a : List W32) (g : List (List W32)) (i : Nat) : Prop :=
  let row := g.getD i []
  row.length = i + 1 ∧
  let rest := subDot (a.getD i 0) ((row.take i).zip (row.take i))
  f32Lt 0 rest = true ∧ row.getD i 0 = f32Sqrt rest ∧
  ∀ j, j < i → row.getD j 0 = f32Div (subDot (a.getD j 0) ((row.take j).zip ((g.getD j []).take j))) ((g.getD j []).getD j 0)

theorem getD_append_left {α : Type} (xs ys : List α) {i : Nat} (h : i < xs.length) (d : α) : (xs ++ ys).getD i d = xs.getD i d := by
  simp [List.getD_eq_getElem?_getD, List.getElem?_append_left h]

theorem getD_append_length {α : Type} (xs : List α) (x d : α) {i : Nat} (h : i = xs.length) : (xs ++ [x]).getD i d = x := by
  simp [h, List.getD_eq_getElem?_getD]

/-- A pairing with a row of known length takes no more of it than there is to pair with. -/
theorem zip_take_length {α β : Type} (xs : List α) (ys : List β) {n : Nat} (h : xs.length = n) : xs.zip (ys.take n) = xs.zip ys := by
  subst h
  induction xs generalizing ys with
  | nil => simp
  | cons x xs ih => cases ys <;> simp [ih]

theorem rowEquations_cholRow {rows : List (List W32)} {a row : List W32} {i : Nat} (hi : i = rows.length) (h : cholRow rows a i = some row) :
    RowEquations a (rows ++ [row]) i := by
  rw [cholRow_eq] at h
  split_ifs at h with hp
  have hrow := (Option.some.inj h).symm
  have hlen := length_grow (cholEntry rows a) i
  have htake : ∀ j, j ≤ i → row.take j = grow (cholEntry rows a) j := fun j hj => by
    rw [hrow, List.take_append_of_le_length (by omega), take_grow _ hj]
  unfold RowEquations
  rw [getD_append_length rows row [] hi]
  dsimp only
  rw [htake i le_rfl]
  refine ⟨by rw [hrow]; simp, by simpa [badPivot] using hp, by rw [hrow, getD_append_length _ _ _ hlen.symm], fun j hj => ?_⟩
  rw [getD_append_left rows [row] (by omega), htake j hj.le, zip_take_length _ _ (length_grow _ j), hrow, getD_append_left _ _ (by omega), getD_grow _ hj]
  rfl

theorem RowEquations.append {a : List W32} {g : List (List W32)} {i : Nat} (h : RowEquations a g i) (hi : i < g.length) (row : List W32) :
    RowEquations a (g ++ [row]) i := by
  obtain ⟨hlen, hpos, hpivot, hbelow⟩ := h
  unfold RowEquations
  rw [getD_append_left g [row] hi]
  refine ⟨hlen, hpos, hpivot, fun j hj => ?_⟩
  rw [getD_append_left g [row] (hj.trans hi)]
  exact hbelow j hj

/-- The factor of a matrix with one more row. -/
theorem chol_append (a : List (List W32)) (row : List W32) : chol (a ++ [row]) = match chol a with
    | .error k => .error k
    | .ok rows => match cholRow rows row a.length with
      | none => .error a.length
      | some r => .ok (rows ++ [r]) := by
  unfold chol
  rw [List.length_append, List.length_singleton, List.range_succ, List.zip_append (by simp), List.foldl_append]
  rfl

theorem factorEquations : FactorEquations := by
  suffices h : ∀ (a g : List (List W32)), chol a = .ok g → g.length = a.length ∧ ∀ i, i < a.length → RowEquations (a.getD i []) g i from h
  intro a
  induction a using List.reverseRecOn with
  | nil =>
    intro g hg
    obtain rfl : [] = g := Except.ok.inj hg
    exact ⟨rfl, fun i hi => absurd hi (Nat.not_lt_zero i)⟩
  | append_singleton a arow ih =>
    intro g hg
    rw [chol_append] at hg
    cases hc : chol a with
    | error k => simp [hc] at hg
    | ok rows =>
      rw [hc] at hg
      obtain ⟨hlen, hrows⟩ := ih rows hc
      cases hr : cholRow rows arow a.length with
      | none => simp [hr] at hg
      | some row =>
        dsimp only at hg
        rw [hr] at hg
        obtain rfl : rows ++ [row] = g := Except.ok.inj hg
        refine ⟨by simp [hlen], fun i hi => ?_⟩
        rcases Nat.lt_succ_iff_lt_or_eq.mp (by simpa using hi) with hi | hi
        · rw [getD_append_left a [arow] hi]
          exact (hrows i hi).append (hlen ▸ hi) row
        · rw [getD_append_length a arow [] hi]
          exact hi ▸ rowEquations_cholRow hlen.symm hr

/-! ## The sum of squares (R152) -/

theorem treeLevel_fst {op op' : W32 → W32 → W32 × AFlags} (h : ∀ a b, (op a b).1 = (op' a b).1) : ∀ xs, (treeLevel op xs).1 = (treeLevel op' xs).1
  | [] | [_] => rfl
  | a :: b :: xs => by
    have ih := treeLevel_fst h xs
    cases a <;> cases b <;> simp [treeLevel, ih, h]

/-- The value of a tree does not depend on the flags of its operation. -/
theorem treeFold_fst {op op' : W32 → W32 → W32 × AFlags} (h : ∀ a b, (op a b).1 = (op' a b).1) (n : Nat) (xs : List (Option W32)) :
    (treeFold op n xs).1 = (treeFold op' n xs).1 := by
  induction n generalizing xs with
  | zero => rfl
  | succ n ih =>
    simp only [treeFold]
    rw [treeLevel_fst h, ih]

theorem normSum_nil (acc : W32) : normSum acc [] = acc := rfl

/-- One run of up to 32 squares. -/
theorem normSum_run (acc : W32) {vals : List W32} (h : vals ≠ []) : normSum acc vals =
    normSum (f32Add acc (((treeFold (fun a b => (f32Add a b, (0 : AFlags))) 5
      ((vals.take 32).map (fun w => some (f32Mul w w)) ++ List.replicate (32 - (vals.take 32).length) none)).1).getD 0)) (vals.drop 32) := by
  have hpos := List.length_pos_iff.mpr h
  have hcount : (vals.length + 31) / 32 = ((vals.drop 32).length + 31) / 32 + 1 := by
    rw [List.length_drop]
    omega
  have hdrop : ∀ r, vals.drop (32 * (r + 1)) = (vals.drop 32).drop (32 * r) := fun r => by
    rw [List.drop_drop, Nat.mul_succ, Nat.add_comm]
  unfold normSum
  rw [hcount, List.range_succ_eq_map, List.foldl_cons, List.foldl_map]
  simp only [Nat.succ_eq_add_one, hdrop, Nat.mul_zero, List.drop_zero]

theorem normRun_fst (fuel : Nat) (acc : W32) (vals : List W32) (h : vals.length ≤ 32 * fuel) : (normRun acc vals fuel).1 = normSum acc vals := by
  induction fuel generalizing acc vals with
  | zero =>
    obtain rfl : vals = [] := List.eq_nil_of_length_eq_zero (by omega)
    rfl
  | succ fuel ih =>
    rw [normRun]
    by_cases hv : vals = []
    · rw [hv]
      rfl
    · rw [normSum_run acc hv, if_neg (by simpa using hv)]
      dsimp only
      rw [ih _ _ (by rw [List.length_drop]; omega), treeFold_fst (op := fp2 f32Add) (op' := fun a b => (f32Add a b, (0 : AFlags))) fun _ _ => rfl]
      simp only [List.length_map, List.map_map]
      rfl

/-! ## Words in memory -/

theorem storesAt_append (home : Nat → Nat) (bs cs : List Byte) :
    storesAt home (bs ++ cs) = storesAt home bs ++ storesAt (fun i => home (bs.length + i)) cs := by
  induction bs generalizing home with
  | nil => simp [storesAt]
  | cons b bs ih =>
    have hshift : (fun i => home (bs.length + i + 1)) = fun i => home ((b :: bs).length + i) := funext fun i => congrArg home (by rw [List.length_cons]; omega)
    rw [List.cons_append, storesAt_cons, storesAt_cons, ih, List.cons_append, hshift]

theorem length_words (n : Nat) (w : Nat → Nat) : ((List.range n).flatMap fun p => toLe 4 (w p)).length = 4 * n := by
  simp [List.length_flatMap, Nat.mul_comm]

/-- The stores of n words upward from a base. -/
theorem storesAt_words (base n : Nat) (w : Nat → Nat) : storesAt (base + ·) ((List.range n).flatMap fun p => toLe 4 (w p)) =
    (List.range n).flatMap fun p => (List.range 4).map fun i => (base + 4 * p + i, BitVec.ofNat 8 (w p / 256 ^ i)) := by
  induction n with
  | zero => rfl
  | succ n ih =>
    rw [List.range_succ, List.flatMap_append, List.flatMap_append, storesAt_append, ih, length_words, List.flatMap_singleton, List.flatMap_singleton, storesAt_toLe]
    simp only [Nat.add_assoc]

/-- Rows of columns, as one list. -/
theorem flatMap_rows {α : Type} (n m : Nat) (f : Nat → Nat → List α) :
    ((List.range n).flatMap fun i => (List.range m).flatMap fun j => f i j) = (List.range (n * m)).flatMap fun p => f (p / m) (p % m) := by
  induction n with
  | zero => simp
  | succ n ih =>
    rw [List.range_succ, List.flatMap_append, ih, List.flatMap_singleton, Nat.succ_mul, List.range_add, List.flatMap_append, List.flatMap_map]
    refine congrArg _ (List.flatMap_congr fun j hj => ?_)
    rw [row_offset_div (List.mem_range.mp hj), row_offset_mod (List.mem_range.mp hj)]

theorem flatMap_eq_range {α β : Type} (xs : List α) (d : α) (f : α → List β) : xs.flatMap f = (List.range xs.length).flatMap fun j => f (xs.getD j d) := by
  have hxs : xs = (List.range xs.length).map fun j => xs.getD j d := by
    apply List.ext_getElem <;> simp +contextual
  conv_lhs => rw [hxs]
  rw [List.flatMap_map]

/-- A row of words, filled with zeros to n words. -/
theorem slice_row {r : List W32} {n : Nat} (h : r.length ≤ n) :
    slice (r.flatMap fun w => toLe 4 w.toNat) 0 (4 * n) = (List.range n).flatMap fun j => toLe 4 (r.getD j 0).toNat := by
  obtain ⟨k, rfl⟩ := Nat.exists_eq_add_of_le h
  have hbytes := flatMap_eq_range r 0 fun w => toLe 4 w.toNat
  have hlen : (r.flatMap fun w => toLe 4 w.toNat).length = 4 * r.length := by rw [hbytes]; exact length_words _ _
  have hzeros : ((List.range k).flatMap fun j => toLe 4 (r.getD (r.length + j) 0).toNat) = List.replicate (4 * k) 0 := by
    rw [List.eq_replicate_iff]
    refine ⟨length_words _ _, fun b hb => ?_⟩
    obtain ⟨j, -, hb⟩ := List.mem_flatMap.mp hb
    simpa [List.getD_eq_getElem?_getD, toLe] using hb
  rw [List.range_add, List.flatMap_append, List.flatMap_map, hzeros, ← hbytes, slice]
  rw [List.drop_zero, List.take_of_length_le (by omega), hlen, Nat.mul_add, Nat.add_sub_cancel_left]

/-- The factor, with zeros above its diagonal. -/
theorem factBytes_eq {g : List (List W32)} (h : ∀ i, i < g.length → (g.getD i []).length = i + 1) :
    factBytes g = (List.range (g.length * g.length)).flatMap fun p =>
      toLe 4 (if p % g.length ≤ p / g.length then ((g.getD (p / g.length) []).getD (p % g.length) 0).toNat else 0) := by
  rw [← flatMap_rows g.length g.length fun i j => toLe 4 (if j ≤ i then ((g.getD i []).getD j 0).toNat else 0), factBytes, flatMap_eq_range g []]
  refine List.flatMap_congr fun i hi => ?_
  have hrow := h i (List.mem_range.mp hi)
  rw [slice_row (by have := List.mem_range.mp hi; omega)]
  refine List.flatMap_congr fun j _ => congrArg (toLe 4) ?_
  split_ifs with hj
  · rfl
  · rw [List.getD_eq_default _ _ (by omega)]
    rfl

theorem solBytes_eq (n m : Nat) (col : Nat → List W32) :
    solBytes ((List.range m).map col) n = (List.range (n * m)).flatMap fun p => toLe 4 ((col (p % m)).getD (p / m) 0).toNat := by
  rw [← flatMap_rows n m fun i j => toLe 4 ((col j).getD i 0).toNat, solBytes]
  simp only [List.flatMap_map]

theorem length_topkSel {mag : Bool} {k : Nat} {vals : List W32} (h : k ≤ vals.length) : (topkSel mag k vals).length = k := by
  simpa [topkSel] using h

/-! ## The operation -/

section
variable {s : State} {a : Issuer} {tag : BitVec 16} {l : Nat} {o : AsyncOp}

/-- Notice of a pivot changes neither a tile, nor a loom, nor memory. -/
theorem notePivot_tiles (s : State) (l tile strand : Nat) (pw : W32) : (notePivot s l tile strand pw).tiles = s.tiles := by
  unfold notePivot
  split_ifs <;> simp [countHalf]

theorem notePivot_looms (s : State) (l tile strand : Nat) (pw : W32) : (notePivot s l tile strand pw).looms = s.looms := by
  unfold notePivot
  split_ifs <;> simp [countHalf]

/-- Where an operation of the special unit has changed memory alone, beside the notice of a pivot, it completes with its results. -/
theorem exec_specComplete {u : State} {ws : List (Nat × Byte)} {high : W32} {fl : W64} (hs : o.strand = a.strand) (htag : o.tag = tag)
    (hk : o.kind ∈ [AsyncKind.fact, .solv, .topk, .normacc]) (h : MayComplete s a tag l o (specSrcs o) (specDsts o))
    (hu : Wrote s u ws) (pw : W32) (hrun : specRun a.tile s l o = (u, high, fl) ∨ specRun a.tile s l o = (notePivot u l a.tile o.strand pw, high, fl)) :
    ∃ t, exec (.specComplete a tag) s = .next t ∧ Completes s t a tag stOk high fl ∧ t.mem = storeBytes s.mem ws := by
  obtain ⟨v, hrun, htiles, hlooms, hmem⟩ : ∃ v, specRun a.tile s l o = (v, high, fl) ∧ v.tiles = u.tiles ∧ v.looms = u.looms ∧ v.mem = u.mem := by
    rcases hrun with hrun | hrun
    · exact ⟨_, hrun, rfl, rfl, rfl⟩
    · exact ⟨_, hrun, notePivot_tiles _ _ _ _ _, notePivot_looms _ _ _ _ _, notePivot_mem _ _ _ _ _⟩
  have hidle : agentsIdle v l := by
    intro w hw
    rw [getLoom, hlooms] at hw
    exact hu.agentsIdle (agentsIdle_of_may h) w hw
  obtain ⟨hm, hdone⟩ := opComplete_of_may (kinds := [.fact, .solv, .topk, .normacc]) (go := specRun a.tile) hs htag (by simpa using hk) h
    (by rw [hrun]; exact htiles.trans hu.tiles) (by rw [hrun]; exact hidle)
  rw [hrun] at hm hdone
  exact ⟨_, congrArg Host.Outcome.next (alive_of_may h _), hdone, hm.trans (hmem.trans hu.mem)⟩

theorem specRun_fact (tile : Nat) (hk : o.kind = .fact) : let r := factRun (matAt s o.src o.len o.len) o.lam
    specRun tile s l o = (notePivot (r.1.elim s fun g => wrN s o.dst (factBytes g)) l tile o.strand r.2, r.2, 0) := by
  unfold specRun
  rw [hk]
  dsimp only
  cases (factRun (matAt s o.src o.len o.len) o.lam).1 <;> rfl

/-- Column c of the right-hand side of a SOLV. -/
def solvCol (s : State) (o : AsyncOp) (g : List (List W32)) (c : Nat) : List W32 :=
  triCol g o.flag ((matAt s o.dst o.len o.cols).map fun row => row.getD c 0)

theorem specRun_solv (tile : Nat) (hk : o.kind = .solv) : let r := solvRun (matAt s o.src o.len o.len) o.lam
    specRun tile s l o = (notePivot (r.1.elim s fun g => wrN s o.dst (solBytes ((List.range o.cols).map (solvCol s o g)) o.len)) l tile o.strand r.2, r.2, 0) := by
  unfold specRun
  rw [hk]
  dsimp only
  cases (solvRun (matAt s o.src o.len o.len) o.lam).1 <;> rfl

/-- A factor has a row for each of the matrix, each up to its pivot. -/
theorem factRun_rows {m g : List (List W32)} {lam pw : W32} (h : factRun m lam = (some g, pw)) :
    g.length = m.length ∧ ∀ i, i < g.length → (g.getD i []).length = i + 1 := by
  obtain ⟨m', hm', hg⟩ : ∃ m', m'.length = m.length ∧ chol m' = .ok g := by
    unfold factRun at h
    split at h
    · next hc => exact ⟨m, rfl, hc.trans (by simp_all)⟩
    · split_ifs at h
      split at h
      · next hc => exact ⟨addDiag m lam, by simp [addDiag], hc.trans (by simp_all)⟩
      · simp at h
      · simp at h
  obtain ⟨hlen, hrows⟩ := factorEquations m' g hg
  exact ⟨hlen.trans hm', fun i hi => (hrows i (hlen ▸ hi)).1⟩

theorem length_matAt (s : State) (at_ n m : Nat) : (matAt s at_ n m).length = n := by simp [matAt]

theorem specialResults : SpecialResults := by
  intro s a tag l o hs htag h
  refine ⟨fun hk => ?_, fun hk => ?_, fun hk hcols => ?_, fun hk => ?_⟩
  · cases hrun : factRun (matAt s o.src o.len o.len) o.lam with
    | mk g pw =>
      have hspec := specRun_fact (s := s) (l := l) a.tile hk
      rw [hrun] at hspec
      cases g with
      | none =>
        obtain ⟨t, ht, hdone, hmem⟩ := exec_specComplete hs htag (by simp [hk]) h (.nil s) pw (.inr hspec)
        exact ⟨t, ht, hdone, hmem⟩
      | some g =>
        obtain ⟨t, ht, hdone, hmem⟩ := exec_specComplete hs htag (by simp [hk]) h (wrote_wrN s o.dst (factBytes g)) pw (.inr hspec)
        obtain ⟨hlen, hrows⟩ := factRun_rows hrun
        rw [length_matAt] at hlen
        refine ⟨t, ht, hdone, ?_⟩
        rw [hmem, factBytes_eq hrows, storesAt_words, hlen]
        exact storesTo_storeBytes s.mem _
  · cases hrun : solvRun (matAt s o.src o.len o.len) o.lam with
    | mk g pw =>
      have hspec := specRun_solv (s := s) (l := l) a.tile hk
      rw [hrun] at hspec
      cases g with
      | none =>
        obtain ⟨t, ht, hdone, hmem⟩ := exec_specComplete hs htag (by simp [hk]) h (.nil s) pw (.inr hspec)
        exact ⟨t, ht, hdone, hmem⟩
      | some g =>
        obtain ⟨t, ht, hdone, hmem⟩ := exec_specComplete hs htag (by simp [hk]) h (wrote_wrN s o.dst _) pw (.inr hspec)
        refine ⟨t, ht, hdone, ?_⟩
        rw [hmem, solBytes_eq, storesAt_words]
        exact storesTo_storeBytes s.mem _
  · let sel := topkSel o.flag o.cols (wordsAt s o.src o.len)
    have hlen : sel.length = o.cols := length_topkSel (by simpa [wordsAt] using hcols)
    have hspec : specRun a.tile s l o =
        (wrN (wrN s o.dst (sel.flatMap fun p => toLe 4 (f32Canon p.2).toNat)) o.aux (sel.flatMap fun p => toLe 4 p.1), 0, 0) := by
      unfold specRun
      rw [hk]
    obtain ⟨t, ht, hdone, hmem⟩ := exec_specComplete hs htag (by simp [hk]) h ((wrote_wrN s o.dst _).trans (wrote_wrN _ o.aux _)) 0 (.inl hspec)
    refine ⟨t, ht, hdone, ?_⟩
    rw [hmem, flatMap_eq_range sel (0, 0), flatMap_eq_range sel (0, 0), hlen, storesAt_words, storesAt_words]
    exact storesTo_storeBytes s.mem _
  · let vals := if o.srcFmt = 0 then wordsAt s o.src o.len else (List.range o.len).map fun i => f32Of (elemVal o.srcFmt (rd s (o.src + 2 * i) 2))
    have hlen : vals.length = o.len := by
      simp only [vals]
      split_ifs <;> simp [wordsAt]
    have hspec : specRun a.tile s l o = (wr s o.aux 4 (normRun (BitVec.ofNat 32 (rd s o.aux 4)) vals (o.len / 32 + 1)).1.toNat, 0,
        (normRun (BitVec.ofNat 32 (rd s o.aux 4)) vals (o.len / 32 + 1)).2) := by
      unfold specRun
      rw [hk]
    obtain ⟨t, ht, hdone, hmem⟩ := exec_specComplete hs htag (by simp [hk]) h (wrote_wrN s o.aux _) 0 (.inl hspec)
    refine ⟨t, ht, ⟨_, hdone⟩, ?_⟩
    rw [hmem, storesAt_toLe, normRun_fst _ _ _ (by rw [hlen]; omega)]
    exact storesTo_storeBytes s.mem _

end

/-- Settles O21. -/
theorem specialUnit : Obligations.SpecialUnit := ⟨factorEquations, specialResults⟩

end Sys2Proof.Machine
end

section
/-! SUPPORT. Class VCVT (R49, R52, R125 to R127): the encodings of an MX element fit its width and a shared scale its byte. With it the obligation
about conversions is settled. -/
namespace Sys2Proof.Machine
open Sys2Proof

/-! ## The width of an encoding -/

theorem roundShift_le (md : RMode) (m sh : Nat) : roundShift md m sh ≤ m / 2 ^ sh + 1 := by
  unfold roundShift
  rw [Nat.shiftRight_eq_div_pow]
  dsimp only
  by_cases h : m % 2 ^ sh = 0
  · rw [if_pos h]
    exact Nat.le_succ _
  · rw [if_neg h]
    cases md with
    | rtz => exact Nat.le_succ _
    | rne =>
      dsimp only
      split_ifs <;> omega
    | sr r =>
      dsimp only
      split_ifs <;> omega

/-- A rounded magnitude has at most fb + 1 bits, or is the next power of two. -/
theorem roundMag_le (f : FShape) (md : RMode) (m : Nat) (e : Int) : (f.roundMag md m e).1 ≤ 2 ^ (f.fb + 1) := by
  have hm : m < 2 ^ (Nat.log2 m + 1) := Nat.lt_log2_self
  have hq : (Nat.log2 m : Int) + e - f.fb ≤ f.unit m e := le_max_left _ _
  unfold FShape.roundMag
  generalize f.unit m e = q at hq
  dsimp only
  split_ifs with h
  · calc m * 2 ^ (e - q).toNat ≤ 2 ^ (Nat.log2 m + 1) * 2 ^ (e - q).toNat := Nat.mul_le_mul_right _ hm.le
      _ = 2 ^ (Nat.log2 m + 1 + (e - q).toNat) := (Nat.pow_add ..).symm
      _ ≤ 2 ^ (f.fb + 1) := Nat.pow_le_pow_right (by decide) (by omega)
  · have hlt : m / 2 ^ (q - e).toNat < 2 ^ (f.fb + 1) := by
      rw [Nat.div_lt_iff_lt_mul (Nat.two_pow_pos _), ← Nat.pow_add]
      exact hm.trans_le (Nat.pow_le_pow_right (by decide) (by omega))
    exact (roundShift_le md m _).trans hlt

/-- The magnitude of an encoding has eb + fb bits, where the largest finite value has: it is not beyond it. -/
theorem packMag_lt {f : FShape} {k : Nat} {q : Int} (hxk : f.maxFin.1 < 2 ^ (f.fb + 1)) (hxq : f.maxFin.2 + f.fb + f.bias ≤ f.eAll)
    (hk : k ≤ 2 ^ (f.fb + 1)) (hb : f.beyond k q = false) : f.packMag k q < 2 ^ (f.eb + f.fb) := by
  have hall : f.eAll + 1 = 2 ^ f.eb := Nat.sub_add_cancel (Nat.two_pow_pos _)
  have htop : (f.eAll + 1) * 2 ^ f.fb = 2 ^ (f.eb + f.fb) := by rw [hall, Nat.pow_add]
  have hdouble : 2 ^ (f.fb + 1) = 2 * 2 ^ f.fb := by rw [Nat.pow_succ, Nat.mul_comm]
  unfold FShape.packMag
  by_cases hsmall : k < 2 ^ f.fb
  · rw [if_pos hsmall]
    exact hsmall.trans_le (Nat.pow_le_pow_right (by decide) (by omega))
  · rw [if_neg hsmall]
    have hq : q + (if k = 2 ^ (f.fb + 1) then 1 else 0) ≤ f.maxFin.2 := by
      unfold FShape.beyond at hb
      generalize f.maxFin = x at hxk hxq hb ⊢
      dsimp only at hb
      split_ifs at hb with hle
      · by_cases heq : q = x.2
        · subst heq
          rw [sub_self, Int.toNat_zero, Nat.pow_zero, Nat.mul_one, decide_eq_false_iff_not] at hb
          rw [if_neg (by omega)]
          omega
        · split_ifs <;> omega
      · rw [decide_eq_false_iff_not] at hb
        have hmul : k * 2 ≤ k * 2 ^ (q - x.2).toNat := Nat.mul_le_mul_left k (Nat.le_self_pow (by omega) 2)
        omega
    have hexp : ∀ z : Int, z ≤ f.maxFin.2 → (z + f.fb + f.bias).toNat ≤ f.eAll := fun z hz => by omega
    by_cases hpow : k = 2 ^ (f.fb + 1)
    · have hmant : k / 2 - 2 ^ f.fb = 0 := by omega
      rw [if_pos hpow] at hq ⊢
      dsimp only
      rw [hmant, ← htop]
      exact (Nat.mul_le_mul_right _ (hexp _ hq)).trans_lt (Nat.mul_lt_mul_of_pos_right (Nat.lt_succ_self _) (Nat.two_pow_pos _))
    · rw [if_neg hpow] at hq ⊢
      have hle := Nat.mul_le_mul_right (2 ^ f.fb) (hexp q (by omega))
      have hmant : k - 2 ^ f.fb < 2 ^ f.fb := by omega
      dsimp only
      rw [← htop, Nat.add_mul, Nat.one_mul]
      omega

theorem sign_add_lt (f : FShape) (neg : Bool) {n : Nat} (h : n < 2 ^ (f.eb + f.fb)) : f.sign neg + n < 2 ^ f.width := by
  have hw : 2 ^ f.width = 2 * 2 ^ (f.eb + f.fb) := by rw [FShape.width, Nat.add_assoc, Nat.pow_add, Nat.pow_one]
  have hs : f.sign neg ≤ 2 ^ (f.eb + f.fb) := by
    unfold FShape.sign
    split_ifs <;> omega
  omega

/-- A saturating conversion fits the width of its format. -/
theorem narrow_lt {f : FShape} (hxk : f.maxFin.1 < 2 ^ (f.fb + 1)) (hxq : f.maxFin.2 + f.fb + f.bias ≤ f.eAll) (hmax : f.maxBits < 2 ^ (f.eb + f.fb))
    (hnan : f.canonNan < 2 ^ (f.eb + f.fb)) (hinf : f.eAll * 2 ^ f.fb < 2 ^ (f.eb + f.fb)) (md : RMode) (v : FVal) : (f.narrow md true v).1 < 2 ^ f.width := by
  have hw : 2 ^ (f.eb + f.fb) ≤ 2 ^ f.width := Nat.pow_le_pow_right (by decide) (by unfold FShape.width; omega)
  cases v with
  | nan =>
    unfold FShape.narrow
    dsimp only
    split_ifs
    · exact Nat.two_pow_pos _
    · exact hnan.trans_le hw
  | inf neg =>
    unfold FShape.narrow
    simp only [Bool.true_or, if_true]
    split_ifs
    · exact sign_add_lt f neg hmax
    · exact sign_add_lt f neg hinf
  | fin neg m e =>
    unfold FShape.narrow
    simp only [Bool.true_or, if_true]
    split_ifs with h0 hb
    · exact sign_add_lt f neg (n := 0) (Nat.two_pow_pos _)
    · exact sign_add_lt f neg hmax
    · exact sign_add_lt f neg (packMag_lt hxk hxq (roundMag_le f md m e) (Bool.eq_false_iff.mpr hb))

/-- An element of an MX format fits its 8 or 4 bits. -/
theorem encode_mx_lt {code : Nat} (h : isMx code = true) (md : RMode) (v : FVal) : (encode code md true v).1 < if code = 7 then 16 else 256 := by
  have hcode : code = 5 ∨ code = 6 ∨ code = 7 := by simpa [isMx, or_assoc] using h
  rcases hcode with rfl | rfl | rfl
  · exact narrow_lt (f := shE4m3) (by decide) (by decide) (by decide) (by decide) (by decide) md v
  · exact narrow_lt (f := shE5m2) (by decide) (by decide) (by decide) (by decide) (by decide) md v
  · exact narrow_lt (f := shE2m1) (by decide) (by decide) (by decide) (by decide) (by decide) md v

theorem mxScale_lt (code : Nat) (vs : List FVal) : mxScale code vs < 256 := by
  unfold mxScale
  dsimp only
  split_ifs
  · decide
  · decide
  · omega

/-! ## MXQ -/

theorem append_mod {n m : Nat} (hi : BitVec n) (lo : BitVec m) : (hi ++ lo).toNat % 2 ^ m = lo.toNat := by
  have h := congrArg BitVec.toNat (BitVec.setWidth_append_eq_right (a := hi) (b := lo))
  rwa [BitVec.toNat_setWidth] at h

theorem mxqWord_mod (fmt : Nat) (u : W64) (e : Nat) (h : e < if fmt = 7 then 16 else 256) : (mxqWord fmt u e).toNat % (if fmt = 7 then 16 else 256) = e := by
  unfold mxqWord
  split_ifs at h ⊢
  · exact (append_mod (m := 4) _ _).trans ((BitVec.toNat_ofNat ..).trans (Nat.mod_eq_of_lt h))
  · exact (append_mod (m := 8) _ _).trans ((BitVec.toNat_ofNat ..).trans (Nat.mod_eq_of_lt h))

theorem mxBlock_scale (code : Nat) (md : Nat → RMode) (vs : List FVal) : (mxBlock code md vs).1 = mxScale code vs := by
  unfold mxBlock
  dsimp only
  by_cases h : mxScale code vs = 255
  · rw [if_pos h, h]
  · rw [if_neg h]

theorem mxBlock_elem (code : Nat) (md : Nat → RMode) (g : Nat → FVal) {n t : Nat} (ht : t < n) : (mxBlock code md ((List.range n).map g)).2.1.getD t 0 =
    if mxScale code ((List.range n).map g) = 255 then 0 else (encode code (md t) true (scaleDown (g t) ((mxScale code ((List.range n).map g) : Int) - 127))).1 := by
  unfold mxBlock
  dsimp only
  by_cases h : mxScale code ((List.range n).map g) = 255
  · simp [h, List.getD_eq_getElem?_getD, ht]
  · simp [h, List.getD_eq_getElem?_getD, ht]

/-- What MXQ leaves of its strand. -/
def mxqResult (y : Strand) (f : FmtR) (k sc : Nat) (es : List Nat) (fl : AFlags) : Strand :=
  (((vecWrite y f.pg f.pn f.rd.toNat fun t => (mxqWord f.fmt.toNat (Config.freeWord (k + 1 + t)) (es.getD t 0), 0)).sput f.rc.toNat
    ((Config.freeWord k).setWidth 56 ++ BitVec.ofNat 8 sc)).flag fl).next

theorem exec_mxq {s : State} {a : Issuer} {l : Nat} {f : FmtR} (hi : Issues s a l (wordR 4 1 f)) (hf : fieldsR f = true) (hrc : f.rc.toNat < 32)
    (hmx : isMx f.fmt.toNat = true) (hrnd : rndOk f.rnd.toNat 0 f.fmt.toNat = true) (hall : ∀ i, i < 32 → (getStrand s a).runs f.pg f.pn i = true) :
    let b := mxBlock f.fmt.toNat (fun t => modeOf f.rnd.toNat ((getStrand s a).drawBits (getLoom s l).seed t))
      ((List.range 32).map fun t => f32Val ((getStrand s a).vget f.ra.toNat t))
    exec (.mxq a f) s = .next (setStrand { s with free := s.free + 33 } a (mxqResult (getStrand s a) f s.free b.1 b.2.1 b.2.2)) := by
  have hchk : (fieldsR f && isS f.rc && isMx f.fmt.toNat && rndOk f.rnd.toNat 0 f.fmt.toNat && threads.all ((getStrand s a).runs f.pg f.pn)) = true := by
    have hruns : threads.all ((getStrand s a).runs f.pg f.pn) = true := List.all_eq_true.mpr fun i hi => hall i (List.mem_range.mp hi)
    simp [hf, isS, hrc, hmx, hrnd, hruns]
  refine congrArg Host.Outcome.next ((issue_at _ hi ((listed_wordR 4 1 f (by decide) (by decide)).trans rfl)).trans ?_)
  simp only [hchk, Bool.not_true, Bool.false_eq_true, if_false]
  rfl

theorem mxqResult_spec (y : Strand) (f : FmtR) (k sc : Nat) (es : List Nat) (fl : AFlags) (hsc : sc < 256)
    (hes : ∀ t, t < 32 → es.getD t 0 < if f.fmt.toNat = 7 then 16 else 256) (hall : ∀ i, i < 32 → y.runs f.pg f.pn i = true) :
    let z := mxqResult y f k sc es fl
    z.pc = y.pc + 1 ∧ z.p = y.p ∧ (∀ r, r ≠ f.rc.toNat → z.sget r = y.sget r) ∧ (f.rc ≠ 0 → (z.sget f.rc.toNat).toNat % 256 = sc) ∧
    (∀ i, i < 32 → (z.vget f.rd.toNat i).toNat % (if f.fmt.toNat = 7 then 16 else 256) = es.getD i 0) ∧
    ∀ r i, r ≠ f.rd.toNat → i < 32 → z.vget r i = y.vget r i := by
  intro z
  let w : W64 := (Config.freeWord k).setWidth 56 ++ BitVec.ofNat 8 sc
  let g : Nat → W32 × AFlags := fun t => (mxqWord f.fmt.toNat (Config.freeWord (k + 1 + t)) (es.getD t 0), 0)
  obtain ⟨hv, -, vs, asw, hz⟩ := vecWrite_spec y f.pg f.pn f.rd.toNat g
  have hvget : ∀ r t, z.vget r t = (vecWrite y f.pg f.pn f.rd.toNat g).vget r t := fun r t =>
    congrArg (fun vt => tget 0 vt (r * 32 + t)) (Strand.sput_v (vecWrite y f.pg f.pn f.rd.toNat g) f.rc.toNat w)
  have hsget : ∀ r, z.sget r = if f.rc.toNat = r ∧ f.rc.toNat ≠ 0 then w else y.sget r := fun r => by
    have h := Strand.sget_sput (vecWrite y f.pg f.pn f.rd.toNat g) f.rc.toNat r w
    rw [hz] at h
    exact (congrArg (fun y : Strand => (y.sput f.rc.toNat w).sget r) hz).trans h
  refine ⟨?_, ?_, fun r hr => ?_, fun hrc => ?_, fun i hi => ?_, fun r i hr hi => ?_⟩
  · change ((vecWrite y f.pg f.pn f.rd.toNat g).sput f.rc.toNat w).pc + 1 = _
    rw [Strand.sput_pc, hz]
  · change ((vecWrite y f.pg f.pn f.rd.toNat g).sput f.rc.toNat w).p = _
    rw [Strand.sput_p, hz]
  · rw [hsget, if_neg fun h => hr h.1.symm]
  · have hne : f.rc.toNat ≠ 0 := fun h => hrc (BitVec.eq_of_toNat_eq h)
    rw [hsget, if_pos ⟨rfl, hne⟩]
    exact (append_mod (m := 8) _ _).trans ((BitVec.toNat_ofNat ..).trans (Nat.mod_eq_of_lt hsc))
  · rw [hvget, hv _ i hi, if_pos ⟨rfl, hall i hi⟩]
    exact mxqWord_mod _ _ _ (hes i hi)
  · rw [hvget, hv r i hi, if_neg fun h => hr h.1]

/-- Settles O13: CVT and MXDQ write a vector register thread by thread; MXQ writes its block's elements and scale, which fit their bits. -/
theorem conversions : Obligations.Conversions := by
  refine ⟨fun s a l f hi hf hfmt hfmt2 hrnd => ?cvt, fun s a l f hi hf hrc hmx hrnd hall => ?mxq, fun s a l f hi hf hrb hmx hrnd => ?mxdq⟩
  case cvt =>
    intro y r
    refine ⟨_, ?_, vecResult_vecWrite y f.pg f.pn f.rd.toNat fun t => (BitVec.ofNat 32 (r t).1, (r t).2)⟩
    exact congrArg Host.Outcome.next (issueReg_at _ hi ((listed_wordR 4 0 f (by decide) (by decide)).trans rfl) (by simp [hf, hfmt, hfmt2, hrnd]) rfl)
  case mxq =>
    intro y vals sc elem
    have hlt : ∀ t, t < 32 → (if sc = 255 then 0 else elem t) < if f.fmt.toNat = 7 then 16 else 256 := fun t _ => by
      by_cases h : sc = 255
      · rw [if_pos h]
        split_ifs <;> decide
      · rw [if_neg h]
        exact encode_mx_lt hmx _ _
    have helem := fun t (ht : t < 32) => mxBlock_elem f.fmt.toNat (fun t => modeOf f.rnd.toNat (y.drawBits (getLoom s l).seed t)) (fun t => f32Val (y.vget f.ra.toNat t)) ht
    refine ⟨_, exec_mxq hi hf hrc hmx hrnd hall, ?_⟩
    generalize hb : mxBlock f.fmt.toNat (fun t => modeOf f.rnd.toNat (y.drawBits (getLoom s l).seed t)) vals = b at helem ⊢
    have hsc : b.1 = sc := hb ▸ mxBlock_scale _ _ _
    obtain ⟨hpc, hp, hs, hscale, hv, hothers⟩ := mxqResult_spec y f s.free b.1 b.2.1 b.2.2 (hsc ▸ mxScale_lt _ _)
      (fun t ht => (helem t ht).trans_lt (hlt t ht)) hall
    exact ⟨hpc, hp, hs, fun h => (hscale h).trans hsc, fun i hi => (hv i hi).trans (helem i hi), hothers⟩
  case mxdq =>
    intro y sc v
    have hsc : ((y.sget f.rb.toNat) &&& 0xff).toNat = sc := by
      rw [BitVec.toNat_and]
      exact Nat.and_two_pow_sub_one_eq_mod _ 8
    refine ⟨_, ?_, vecResult_vecWrite y f.pg f.pn f.rd.toNat fun t => (f32Of (v t), (shF32.narrow .rne false (v t)).2)⟩
    refine congrArg Host.Outcome.next (issueReg_at _ hi ((listed_wordR 4 2 f (by decide) (by decide)).trans rfl) (by simp [hf, isS, hrb, hmx, hrnd]) ?_)
    rw [hsc]
    rfl

end Sys2Proof.Machine
end

section
/-! SUPPORT. The end of a collective (R142, R283): its tile loses it, its tag completes, and with no frame waiting nothing follows. With it the
obligation about completed collectives is settled. -/
namespace Sys2Proof.Machine
open Sys2Proof

/-- With no frame waiting none is used. -/
theorem settleColls_empty {s : State} {tile : Nat} (l fuel : Nat) (hin : (getTile s tile).inbox = []) (hself : (getTile s tile).selfbox = []) :
    settleColls l tile fuel s = s := by
  cases fuel with
  | zero => rfl
  | succ fuel =>
    have hnone : nextFrame s l tile = none := by
      unfold nextFrame
      dsimp only
      rw [hself, hin]
      rfl
    rw [settleColls, hnone]

/-- One byte of a destination that met poison. -/
def spoilByte (k at_ : Nat) (s : State) (i : Nat) : State := if writeBlocked s (at_ + i) 1 then s else wrN s (at_ + i) [Config.freeByte k i]

theorem spoilByte_tiles (k at_ : Nat) (s : State) (i : Nat) : (spoilByte k at_ s i).tiles = s.tiles := by
  unfold spoilByte
  split_ifs <;> rfl

theorem spoil_tiles (s : State) (dsts : List (Nat × Nat)) : (spoil s dsts).tiles = s.tiles :=
  State_foldl_tiles (fun s (r : Nat × Nat) => (List.range r.2).foldl (spoilByte s.free r.1) { s with free := s.free + 1 })
    (fun s r => State_foldl_tiles (spoilByte s.free r.1) (spoilByte_tiles s.free r.1) (List.range r.2) { s with free := s.free + 1 }) dsts s

theorem collSpoil_tiles (s : State) (l tile : Nat) (o : CollOp) : (collSpoil s l tile o).tiles = s.tiles := by
  unfold collSpoil
  dsimp only
  split_ifs
  · exact spoil_tiles s _
  · exact (spoil_tiles _ _).trans (spoil_tiles s _)

/-- A tile that has lost a strand's collective of a tag. -/
def Tile.endColl (t : Tile) (strand : Nat) (tag : BitVec 16) : Tile := { t with colls := t.colls.filter fun q => !(q.strand = strand && q.tag = tag) }

section
variable {s u : State} {a : Issuer} {tag : BitVec 16} {o : CollOp}

theorem collEnd_eq (s : State) (a : Issuer) (o : CollOp) (st : Byte) : ∃ ls, collEnd s a o st =
    modStrand (modTile { s with looms := ls } a.tile (Tile.endColl · o.strand o.tag)) a (·.complete o.tag st o.orderTag o.flags) := by
  unfold collEnd
  cases ownerOfTile s a.tile with
  | none => exact ⟨s.looms, rfl⟩
  | some l => exact ⟨_, rfl⟩

/-- A collective ends in a state whose tiles are those of s: it leaves its tile, and its tag completes. -/
theorem collEnd_spec (hu : u.tiles = s.tiles) (hs : o.strand = a.strand) (htag : o.tag = tag) (st : Byte) :
    (getTile (collEnd u a o st) a.tile).colls = (getTile s a.tile).colls.filter (fun q => !(q.strand = a.strand && q.tag = tag)) ∧
    (getTile (collEnd u a o st) a.tile).inbox = (getTile s a.tile).inbox ∧ (getTile (collEnd u a o st) a.tile).selfbox = (getTile s a.tile).selfbox ∧
    getStrand (collEnd u a o st) a = (getStrand s a).complete tag st o.orderTag o.flags := by
  obtain ⟨ls, heq⟩ := collEnd_eq u a o st
  have hsame : ∀ b, getTile { u with looms := ls } b = getTile s b := fun b => congrArg (fun ts => tget ({} : Tile) ts b) hu
  obtain ⟨ss, htile⟩ := getTile_modStrand (modTile { u with looms := ls } a.tile (Tile.endColl · o.strand o.tag)) a (·.complete o.tag st o.orderTag o.flags) a.tile
  rw [getTile_modTile, if_pos rfl, hsame, hs, htag] at htile
  rw [heq, hs, htag, htile]
  refine ⟨rfl, rfl, rfl, ?_⟩
  rw [getStrand_modStrand_same, getStrand, getTile_modTile, if_pos rfl, hsame]
  rfl

end

section
variable {s : State} {a : Issuer} {tag : BitVec 16} {l : Nat} {o : CollOp}

/-- The end of a collective with a status of its own. -/
theorem collFinish_status {st : Byte} (hfind : (getTile s a.tile).colls.find? (fun q => q.strand = a.strand && q.tag = tag) = some o)
    (hown : ownerOfTile s a.tile = some l) (hparks : (getLoom s l).parks = false) (hst : o.status = some st) :
    collFinish s a tag = settleColls l a.tile settleFuel (collEnd (collSpoil s l a.tile o) a o st) := by
  unfold collFinish
  dsimp only
  rw [hfind, hown]
  dsimp only
  rw [hparks, hst]
  rfl

/-- The ranges a collective writes. -/
def collRanges (s : State) (l tile : Nat) (o : CollOp) : List (Nat × Nat) := (collWrites (getLoom s l) tile o).map fun r => (r.1, r.2.1)

/-- The end of a collective that has received and used everything. -/
theorem collFinish_ok (hfind : (getTile s a.tile).colls.find? (fun q => q.strand = a.strand && q.tag = tag) = some o)
    (hown : ownerOfTile s a.tile = some l) (hparks : (getLoom s l).parks = false) (hst : o.status = none) (hw : o.waiting = false) (hr : o.received = 1)
    (hsq : o.sqDone = true) (hn : o.norm = false) (hstep : stepWaits s (getLoom s l) o = false)
    (hcopied : ∀ r ∈ collWrites (getLoom s l) a.tile o, uncopied s r.1 r.2.1 = none)
    (hpoison : opPoison s (getLoom s l) ((collReads (getLoom s l) a.tile o).map fun r => (r.1, r.2.1)) (collRanges s l a.tile o) = false) :
    collFinish s a tag = settleColls l a.tile settleFuel (collEnd ((collRanges s l a.tile o).foldl (fun u r => clearVia u (getLoom s l) r.1 r.2)
      (o.bytes.foldl (fun u p => wrN u (ownerAt (getLoom s l) p.1) [p.2]) s)) a o stOk) := by
  have hfree : (collRanges s l a.tile o).findSome? (fun r => uncopied s r.1 r.2) = none := by
    rw [List.findSome?_eq_none_iff]
    intro r hr
    obtain ⟨q, hq, rfl⟩ := List.mem_map.mp hr
    exact hcopied q hq
  have hnorm : ∀ u, collNorm u l a.tile o = u := fun u => by simp [collNorm, hn]
  have hwait : (o.waiting || decide (o.received ≠ 1) || !o.sqDone || stepWaits s (getLoom s l) o) = false := by simp [hw, hr, hsq, hstep]
  unfold collRanges at hfree hpoison ⊢
  unfold collFinish
  dsimp only
  rw [hfind, hown]
  dsimp only
  rw [hparks, hst]
  simp only [hn, hwait, hfree, hpoison, hnorm, Bool.false_eq_true, if_false]

/-- Settles O24: with no frame waiting, a collective's end is the end alone. -/
theorem collectiveCompletes : Obligations.CollectiveCompletes := by
  intro s a tag l o hd hfind hown hparks hin hself gone
  obtain ⟨hs, htag⟩ : o.strand = a.strand ∧ o.tag = tag := by
    simpa using List.find?_some hfind
  refine ⟨fun st hst => ?_, fun hst hw hr hsq hn hstep hcopied hpoison => ?_⟩
  · obtain ⟨hgone, hin', hself', hstrand⟩ := collEnd_spec (collSpoil_tiles s l a.tile o) hs htag st
    refine ⟨_, congrArg Host.Outcome.next ((alive_light _ hd).trans (collFinish_status hfind hown hparks hst)), ?_⟩
    rw [settleColls_empty l settleFuel (hin'.trans hin) (hself'.trans hself)]
    exact ⟨hgone, hstrand⟩
  · have hbytes : o.bytes.foldl (fun u p => wrN u (ownerAt (getLoom s l) p.1) [p.2]) s =
        { s with mem := storeBytes s.mem (o.bytes.map fun p => (byteHome (getLoom s l) p.1, p.2)) } := by
      rw [← foldl_wrN_byte, List.foldl_map]
      rfl
    obtain ⟨fs, hclear⟩ := foldl_clearVia_eq (getLoom s l) (collRanges s l a.tile o) (o.bytes.foldl (fun u p => wrN u (ownerAt (getLoom s l) p.1) [p.2]) s)
    have hfinish := collFinish_ok hfind hown hparks hst hw hr hsq hn hstep hcopied hpoison
    rw [hclear] at hfinish
    generalize hu : ({ o.bytes.foldl (fun u p => wrN u (ownerAt (getLoom s l) p.1) [p.2]) s with faults := fs } : State) = u at hfinish
    have hmem : u.mem = storeBytes s.mem (o.bytes.map fun p => (byteHome (getLoom s l) p.1, p.2)) := by
      rw [← hu]
      exact congrArg State.mem hbytes
    have htiles : u.tiles = s.tiles := by
      rw [← hu]
      exact (congrArg State.tiles hbytes :)
    obtain ⟨hgone, hin', hself', hstrand⟩ := collEnd_spec htiles hs htag stOk
    refine ⟨_, congrArg Host.Outcome.next ((alive_light _ hd).trans hfinish), ?_⟩
    rw [settleColls_empty l settleFuel (hin'.trans hin) (hself'.trans hself)]
    refine ⟨hgone, ?_, hstrand⟩
    rw [collEnd_mem, hmem]
    exact storesTo_storeBytes s.mem _

end

end Sys2Proof.Machine
end

section
/-! SUPPORT. The dobby sequencer (R120, R121, R237): how a command is taken from its ring, how its strands stand at its entry, and what its end leaves of
its tiles. With it the obligation about dobby commands is settled. -/
namespace Sys2Proof.Machine
open Sys2Proof

/-! ## The start of a command -/

/-- The state in which a loom's next command has been taken from its ring. -/
def runTaken (s : State) (l : Nat) : State :=
  let ring := hostReady s (getLoom s l)
  let u := takeEntry s (getLoom s l).session (getLoom s l).dobbyRing (if ring then 1 else 0)
  if ring then u else modLoom u l fun y => { y with engineRing := y.engineRing.drop 1 }

/-- What is left of what the engine or the shed controller wrote. -/
def engineLeft (s : State) (l : Nat) : List RunEntry :=
  if hostReady s (getLoom s l) = true then (getLoom s l).engineRing else (getLoom s l).engineRing.drop 1

/-- Every strand of a tile, which has a rank, stands at an entry. -/
def startTile (e : RunEntry) (n : Nat) (s : State) (p : Nat × Nat) : State :=
  modTile s p.2 fun u => { u with strands := (List.range 16).map fun k => (k, entryStrand e p.1 n k) }

/-- Some tiles start, each of a rank. -/
def startTiles (e : RunEntry) (n : Nat) (ps : List (Nat × Nat)) (s : State) : State := ps.foldl (startTile e n) s

/-- The command that an entry begins. -/
def runCmd (s : State) (l : Nat) (e : RunEntry) : DobbyCmd :=
  { e, fromRing := hostReady s (getLoom s l), tiles := groupOfEntry (getLoom s l) e, tStart := s.tlm.timebase, soft := (getLoom s l).softNext, hard := 0
    endStatus := none }

section
variable {s : State} {l : Nat} {e : RunEntry}

theorem runTaken_eq (s : State) (l : Nat) : ∃ ss ls, runTaken s l = { s with sessions := ss, looms := ls } := by
  unfold runTaken
  cases hostReady s (getLoom s l) with
  | true => exact ⟨_, s.looms, rfl⟩
  | false => exact ⟨_, _, rfl⟩

theorem getLoom_runTaken (s : State) (l : Nat) : getLoom (runTaken s l) l = { getLoom s l with engineRing := engineLeft s l } := by
  unfold runTaken engineLeft
  cases hostReady s (getLoom s l) with
  | true => rfl
  | false =>
    dsimp only
    rw [if_neg Bool.false_ne_true, if_neg Bool.false_ne_true, getLoom_modLoom, if_pos rfl]
    rfl

theorem runEntry_of_may (h : MayRun s l e) : runEntry l e s =
    if entryOk (getLoom s l) e then
      startTiles e (runCmd s l e).tiles.length ((List.range (runCmd s l e).tiles.length).zip (runCmd s l e).tiles)
        (modLoom (runTaken s l) l fun y => { noteIssue (runTaken s l) y with cmd := some (runCmd s l e), softNext := 0, stepEnded := false })
    else
      raiseEvt (modLoom (dobbyCpl (runTaken s l) (getLoom s l) (runCmd s l e) stBad) l fun y =>
        recordFault (noteDone { y with st := .stopping, softNext := 0, stepEnded := false } e stBad) (entryHead e) stBad 0 0 0) .lmgr 0 (some l) := by
  obtain ⟨-, hst, hholder, hcmd, hstop, hheld, hdis, hnext⟩ := h
  have hmay : (decide ((getLoom s l).st = .running) && (getLoom s l).holder && (getLoom s l).cmd.isNone && !(getLoom s l).stopIssue && !learnerHeld s l &&
      (displaces s l).isNone && nextEntry s (getLoom s l) e) = true := by
    simp [hst, hholder, hcmd, hstop, hheld, hdis, hnext]
  have htime : (runTaken s l).tlm.timebase = s.tlm.timebase := by
    obtain ⟨ss, ls, h⟩ := runTaken_eq s l
    rw [h]
  unfold runEntry
  dsimp only
  rw [if_neg (by rw [hmay]; exact Bool.false_ne_true)]
  unfold runCmd
  rw [← htime]
  cases entryOk (getLoom s l) e <;> rfl

/-- An entry is sound by R237. -/
theorem entryOk_iff (x : Loom) (e : RunEntry) : entryOk x e = true ↔ e.kind = 1 ∧ e.rsv0 = 0 ∧ e.rsv1 = 0 ∧ e.rsv2 = 0 ∧
    e.entry.toNat < x.program.length ∧ e.first.toNat + e.count.toNat ≤ (loomTiles x).length := by
  simp [entryOk, and_assoc]

theorem startTiles_of_not_mem {n : Nat} (ps : List (Nat × Nat)) {k : Nat} (h : k ∉ ps.map (·.2)) (s : State) : getTile (startTiles e n ps s) k = getTile s k := by
  induction ps generalizing s with
  | nil => rfl
  | cons p ps ih =>
    rw [List.map_cons, List.mem_cons, not_or] at h
    refine (ih h.2 _).trans ?_
    rw [startTile, getTile_modTile, if_neg (Ne.symm h.1)]

theorem startTiles_of_mem {n : Nat} {ps : List (Nat × Nat)} {p : Nat × Nat} (hnodup : (ps.map (·.2)).Nodup) (h : p ∈ ps) (s : State) :
    (getTile (startTiles e n ps s) p.2).strands = (List.range 16).map fun k => (k, entryStrand e p.1 n k) := by
  induction ps generalizing s with
  | nil => exact absurd h List.not_mem_nil
  | cons q ps ih =>
    rw [List.map_cons, List.nodup_cons] at hnodup
    rcases List.mem_cons.mp h with rfl | h
    · refine (congrArg Tile.strands (startTiles_of_not_mem ps hnodup.1 _)).trans ?_
      rw [startTile, getTile_modTile, if_pos rfl]
    · exact ih hnodup.2 h _

theorem startTiles_mem {n : Nat} (ps : List (Nat × Nat)) (s : State) : (startTiles e n ps s).mem = s.mem :=
  State_foldl_mem (startTile e n) (fun _ _ => rfl) ps s

theorem startTiles_looms {n : Nat} (ps : List (Nat × Nat)) (s : State) : (startTiles e n ps s).looms = s.looms :=
  State_foldl_looms (startTile e n) (fun _ _ => rfl) ps s

theorem tget_range_map {α : Type} (d : α) (g : Nat → α) (n k : Nat) (h : k < n) : tget d ((List.range n).map fun i => (i, g i)) k = g k := by
  suffices hfrom : ∀ m, tget d ((List.range' m n).map fun i => (i, g i)) (m + k) = g (m + k) by
    simpa [List.range_eq_range'] using hfrom 0
  induction n generalizing k with
  | zero => omega
  | succ n ih =>
    intro m
    rw [List.range'_succ, List.map_cons, tget]
    split_ifs with hk
    · rw [← hk]
    · have hshift : m + 1 + (k - 1) = m + k := by omega
      have := ih (k - 1) (by omega) (m + 1)
      rwa [hshift] at this

/-- The registers at entry (Table 4-10). -/
theorem atEntry_entryStrand (e : RunEntry) (rank n k : Nat) : AtEntry (entryStrand e rank n k) e rank n k := by
  have hbase : ∀ r, ({ active := true, pc := e.entry } : Strand).sget r = 0 := fun r => by simp [Strand.sget]
  have hs : ∀ r, (entryStrand e rank n k).sget r = if 4 = r ∧ 4 ≠ 0 then BitVec.ofNat 64 k else if 3 = r ∧ 3 ≠ 0 then BitVec.ofNat 64 n
      else if 2 = r ∧ 2 ≠ 0 then BitVec.ofNat 64 rank else if 1 = r ∧ 1 ≠ 0 then e.args else 0 := fun r => by
    unfold entryStrand
    rw [Strand.sget_sput, Strand.sget_sput, Strand.sget_sput, Strand.sget_sput, hbase]
  exact ⟨rfl, rfl, rfl, rfl, hs 1, hs 2, hs 3, hs 4,
    fun r hr => by rw [hs, if_neg (by omega), if_neg (by omega), if_neg (by omega), if_neg (by omega)],
    fun r t => rfl, fun r t hr => if_neg hr, rfl, rfl, rfl⟩

theorem noteIssue_eq (s : State) (x : Loom) : ∃ u v, noteIssue s x = { x with restoreUs := u, selAt := v } := by
  unfold noteIssue
  split
  · exact ⟨_, _, rfl⟩
  · exact ⟨_, _, rfl⟩

end

/-- A loom's fault record is valid after a fault, and the loom is otherwise as before. -/
theorem recordFault_eq (x : Loom) (insn : W64) (st : Byte) (tile strand pc : Nat) :
    ∃ fr, recordFault x insn st tile strand pc = { x with fault := fr } ∧ fr.valid = true := by
  unfold recordFault
  split_ifs with h
  · exact ⟨_, rfl, h⟩
  · exact ⟨_, rfl, rfl⟩

/-- An event sets its status bit. -/
theorem getLsbD_getReg_raiseEvt (s : State) (src : Src) (loom : Option Nat) : (getReg (raiseEvt s src 0 loom) src.status).getLsbD 0 = true := by
  rw [getReg, raiseEvt_regs]
  change (getReg (orReg s src.status 1) src.status).getLsbD 0 = true
  rw [getReg_orReg, if_pos rfl, BitVec.getLsbD_or]
  simp

theorem runStarts : RunStarts := by
  intro s l e h x tiles group sound left
  obtain ⟨hd, -, -, hcmd, -⟩ := id h
  obtain ⟨ss, ls, htaken⟩ := runTaken_eq s l
  have hrun : exec (.run l e) s = .next (runEntry l e s) := congrArg Host.Outcome.next (alive_light _ hd)
  rw [hrun, runEntry_of_may h]
  have hgetl : getLoom (runTaken s l) l = { x with engineRing := left } := getLoom_runTaken s l
  refine ⟨fun hsound hnodup => ?_, fun hsound => ?_⟩
  · rw [if_pos ((entryOk_iff x e).mpr hsound)]
    refine ⟨_, rfl, ?_⟩
    have hzip : ((List.range group.length).zip group).map (·.2) = group := List.map_snd_zip (by simp)
    generalize hu : modLoom (runTaken s l) l (fun y => { noteIssue (runTaken s l) y with cmd := some (runCmd s l e), softNext := 0, stepEnded := false }) = u
    have hul : ∃ r v, getLoom u l = { x with engineRing := left, restoreUs := r, selAt := v, cmd := some (runCmd s l e), softNext := 0, stepEnded := false } := by
      obtain ⟨r, v, hnote⟩ := noteIssue_eq (runTaken s l) { x with engineRing := left }
      refine ⟨r, v, ?_⟩
      rw [← hu, getLoom_modLoom, if_pos rfl, hgetl, hnote]
    obtain ⟨r, v, hul⟩ := hul
    have hlast : getLoom (startTiles e group.length ((List.range group.length).zip group) u) l = getLoom u l := by
      rw [getLoom, startTiles_looms]
      rfl
    change (startTiles e group.length ((List.range group.length).zip group) u).mem = _ ∧
      (getLoom (startTiles e group.length ((List.range group.length).zip group) u) l).engineRing = _ ∧
      (∃ c, (getLoom (startTiles e group.length ((List.range group.length).zip group) u) l).cmd = _ ∧ _) ∧
      (∀ r k, _ → _ → AtEntry (getStrand (startTiles e group.length ((List.range group.length).zip group) u) _) _ _ _ _) ∧
      ∀ b : Issuer, _ → getStrand (startTiles e group.length ((List.range group.length).zip group) u) b = _
    rw [startTiles_mem, hlast, hul]
    have hutiles : u.tiles = s.tiles := by rw [← hu, htaken]; rfl
    refine ⟨by rw [← hu, htaken]; rfl, rfl, ⟨runCmd s l e, rfl, rfl, rfl, rfl, rfl⟩, fun r k hr hk => ?_, fun b hb => ?_⟩
    · have hmem : (r, group.getD r 0) ∈ (List.range group.length).zip group := by
        rw [List.mem_iff_getElem]
        exact ⟨r, by simpa using hr, by simp [hr]⟩
      rw [getStrand, startTiles_of_mem (by rw [hzip]; exact hnodup) hmem, tget_range_map _ (entryStrand e r group.length) 16 k hk]
      exact atEntry_entryStrand e r group.length k
    · rw [getStrand, startTiles_of_not_mem _ (by rw [hzip]; exact hb), getTile, hutiles]
      rfl
  · rw [if_neg (fun hok => hsound ((entryOk_iff x e).mp hok))]
    refine ⟨_, rfl, ?_⟩
    generalize hu : modLoom (dobbyCpl (runTaken s l) (getLoom s l) (runCmd s l e) stBad) l (fun y =>
        recordFault (noteDone { y with st := .stopping, softNext := 0, stepEnded := false } e stBad) (entryHead e) stBad 0 0 0) = u
    have hul : getLoom u l = recordFault (noteDone { x with engineRing := left, st := .stopping, softNext := 0, stepEnded := false } e stBad) (entryHead e) stBad 0 0 0 := by
      have hcpl : getLoom (dobbyCpl (runTaken s l) (getLoom s l) (runCmd s l e) stBad) l = { x with engineRing := left } := by
        rw [← hgetl, getLoom, dobbyCpl, postCpl_looms]
        rfl
      rw [← hu, getLoom_modLoom, if_pos rfl, hcpl]
    obtain ⟨fr, hfault, hvalid⟩ := recordFault_eq (noteDone { x with engineRing := left, st := .stopping, softNext := 0, stepEnded := false } e stBad) (entryHead e) stBad 0 0 0
    have hevt : getLoom (raiseEvt u .lmgr 0 (some l)) l = getLoom u l := by rw [getLoom, raiseEvt_looms u .lmgr 0 (some l) 0 0, getLoom]
    rw [raiseEvt_mem u .lmgr 0 (some l) 0 0, raiseEvt_tiles u .lmgr 0 (some l) 0 0, hevt, hul, hfault]
    refine ⟨?_, ?_, rfl, hcmd, rfl, rfl, hvalid, getLsbD_getReg_raiseEvt u .lmgr (some l)⟩
    · rw [← hu]
      exact (postCpl_mem _ _ _ _ _ _ _).trans (by rw [htaken])
    · rw [← hu]
      exact (postCpl_tiles _ _ _ _ _ _ _).trans (by rw [htaken])

/-! ## The end of a command -/

section
variable {s : State} {l : Nat} {c : DobbyCmd}

/-- The tiles of a command that ends. -/
def quietTiles (s : State) (tiles : List Nat) : State := tiles.foldl (fun s t => modTile s t quietTile) s

theorem quietTile_idem (t : Tile) : quietTile (quietTile t) = quietTile t := rfl

theorem getTile_quietTiles (s : State) (tiles : List Nat) (k : Nat) : getTile (quietTiles s tiles) k = if k ∈ tiles then quietTile (getTile s k) else getTile s k := by
  induction tiles generalizing s with
  | nil => rfl
  | cons t ts ih =>
    refine (ih (modTile s t quietTile)).trans ?_
    rw [getTile_modTile]
    by_cases hk : t = k
    · rw [if_pos hk, if_pos (List.mem_cons.mpr (.inl hk.symm)), hk, quietTile_idem, ite_self]
    · simp only [if_neg hk, List.mem_cons, Ne.symm hk, false_or]

theorem quietTiles_eq (s : State) (tiles : List Nat) : ∃ ts, quietTiles s tiles = { s with tiles := ts } := by
  induction tiles generalizing s with
  | nil => exact ⟨s.tiles, rfl⟩
  | cons t ts ih => exact ih (modTile s t quietTile)

/-- The state in which a command's tiles and rows are left, before its completion is written. -/
def commandLeft (s : State) (l : Nat) (c : DobbyCmd) : State := dropStrandRows (quietTiles (addTaps s l (foldTaps s c.tiles)) c.tiles) l

/-- A loom whose agents hold no access of their own command loses only the held accesses of its strands. -/
theorem dropStrandRows_of_idle (h : agentsIdle s l) :
    (∃ ls, dropStrandRows s l = { s with looms := ls }) ∧ ∃ rw, getLoom (dropStrandRows s l) l = { getLoom s l with rowWaits := rw } := by
  unfold dropStrandRows
  split_ifs
  · exact ⟨⟨s.looms, rfl⟩, (getLoom s l).rowWaits, rfl⟩
  · rw [serveAll_of_idle]
    · refine ⟨⟨_, rfl⟩, ?_⟩
      rw [getLoom_modLoom, if_pos rfl]
      exact ⟨_, rfl⟩
    · intro w hw
      rw [getLoom_modLoom, if_pos rfl] at hw
      exact h w (List.mem_of_mem_filter hw)

theorem getLoom_commandLeft (c : DobbyCmd) (h : agentsIdle s l) : ∃ lrn rw, getLoom (commandLeft s l c) l = { getLoom s l with lrn := lrn, rowWaits := rw } := by
  obtain ⟨ts, hquiet⟩ := quietTiles_eq (addTaps s l (foldTaps s c.tiles)) c.tiles
  have hloom : ∃ lrn, getLoom (quietTiles (addTaps s l (foldTaps s c.tiles)) c.tiles) l = { getLoom s l with lrn := lrn } := by
    rw [hquiet]
    change ∃ lrn, getLoom (addTaps s l (foldTaps s c.tiles)) l = _
    rw [addTaps, getLoom_modLoom, if_pos rfl]
    exact ⟨_, rfl⟩
  obtain ⟨lrn, hloom⟩ := hloom
  have hidle : agentsIdle (quietTiles (addTaps s l (foldTaps s c.tiles)) c.tiles) l := by
    intro w hw
    rw [hloom] at hw
    exact h w hw
  obtain ⟨-, rw, hrows⟩ := dropStrandRows_of_idle hidle
  exact ⟨lrn, rw, by rw [commandLeft, hrows, hloom]⟩

theorem commandLeft_eq (c : DobbyCmd) (h : agentsIdle s l) : ∃ ts ls, commandLeft s l c = { s with tiles := ts, looms := ls } ∧
    ∀ k, tget {} ts k = if k ∈ c.tiles then quietTile (getTile s k) else getTile s k := by
  obtain ⟨ts, hquiet⟩ := quietTiles_eq (addTaps s l (foldTaps s c.tiles)) c.tiles
  have hidle : agentsIdle (quietTiles (addTaps s l (foldTaps s c.tiles)) c.tiles) l := by
    intro w hw
    rw [hquiet] at hw
    change w ∈ (getLoom (addTaps s l (foldTaps s c.tiles)) l).rowWaits at hw
    rw [addTaps, getLoom_modLoom, if_pos rfl] at hw
    exact h w hw
  obtain ⟨⟨ls, hrows⟩, -⟩ := dropStrandRows_of_idle hidle
  refine ⟨ts, ls, ?_, fun k => ?_⟩
  · rw [commandLeft, hrows, hquiet]
    rfl
  · have htile := getTile_quietTiles (addTaps s l (foldTaps s c.tiles)) c.tiles k
    rw [hquiet] at htile
    exact htile

/-- A loom's registers when a command of it has ended with a status. -/
def loomDone (c : DobbyCmd) (st : Byte) (y : Loom) : Loom :=
  let z : Loom := { y with
    cmd := none
    stepEnded := c.e.stepEnd && st = stOk
    st := if st ≠ stOk && (y.st = .running || y.st = .preempting) then .stopping else y.st
    preempt := if st ≠ stOk then none else y.preempt }
  noteDone z c.e st

theorem endCommand_eq (hcmd : (getLoom s l).cmd = some c) (hst : (getLoom s l).st = .running) (hpre : (getLoom s l).preempt = none)
    (hover : cmdOver s l c = true) (hhere : (c.tiles.all fun k => ownerOfTile s k = some l) = true) (hstep : c.e.stepEnd = false ∨ c.endStatus ≠ none)
    (hok : c.endStatus ≠ some stOk) (hidle : agentsIdle s l) : endCommand l s =
      modLoom (dobbyCpl (commandLeft s l c) (getLoom s l) c (c.endStatus.getD stOk)) l (loomDone c (c.endStatus.getD stOk)) := by
  have hgo : (decide ((getLoom s l).st = .saving) || decide ((getLoom s l).st = .saved) || decide ((getLoom s l).st = .restoring) || !cmdOver s l c) = false := by
    simp [hst, hover]
  have hend : (c.e.stepEnd && decide (c.endStatus.getD stOk = stOk)) = false := by
    cases hs : c.endStatus with
    | none => simp [hstep.resolve_right (by simp [hs])]
    | some st => simpa using fun _ h => hok (hs.trans (congrArg some h))
  have hpre' : (getLoom (modLoom (dobbyCpl (commandLeft s l c) (getLoom s l) c (c.endStatus.getD stOk)) l (loomDone c (c.endStatus.getD stOk))) l).preempt = none := by
    obtain ⟨lrn, rw, hleft⟩ := getLoom_commandLeft c hidle
    have hcpl : getLoom (dobbyCpl (commandLeft s l c) (getLoom s l) c (c.endStatus.getD stOk)) l = getLoom (commandLeft s l c) l := by
      rw [getLoom, dobbyCpl, postCpl_looms, getLoom]
    rw [getLoom_modLoom, if_pos rfl, hcpl, hleft]
    exact (ite_congr rfl (fun _ => rfl) fun _ => hpre).trans (ite_self _)
  rw [← preemptEval_of_none hpre']
  unfold endCommand
  dsimp only
  rw [hcmd]
  dsimp only
  rw [hgo, hhere, if_neg Bool.false_ne_true, if_pos rfl, hend, if_neg Bool.false_ne_true]
  unfold loomDone
  rw [hend]
  rfl

/-- A completion is written after those that its ring holds. -/
theorem tfind_cpl_postCpl {sess ring : Nat} {r : OutRing} (st : Byte) (op : Nat) (tag : W32) (result : List Byte)
    (h : tfind (getSession s sess).cpl (cplOf (getSession s sess) ring) = some r) :
    tfind (getSession (postCpl s sess ring st op tag result) sess).cpl (cplOf (getSession s sess) ring) =
      some { r with written := r.written + 1, since := r.since + 1, reserved := r.reserved - 1 } := by
  rw [postCpl]
  dsimp only
  rw [h]
  dsimp only
  rw [getSession_setSession, if_pos rfl, tfind_tput, if_pos rfl]
  rfl

end

theorem commandEnds : CommandEnds := by
  intro s l c hd hcmd hst hpre hover hhere hstep hok hidle st
  obtain ⟨ts, ls, hleft, htiles⟩ := commandLeft_eq c hidle
  obtain ⟨lrn, rw, hloom⟩ := getLoom_commandLeft c hidle
  have hrun : exec (.dobbyCommandEnd l) s = .next (endCommand l s) := congrArg Host.Outcome.next (alive_light _ hd)
  rw [hrun, endCommand_eq hcmd hst hpre hover hhere hstep hok hidle]
  refine ⟨_, rfl, ?_⟩
  have hcpl : getLoom (dobbyCpl (commandLeft s l c) (getLoom s l) c (c.endStatus.getD stOk)) l = { getLoom s l with lrn := lrn, rowWaits := rw } := by
    rw [← hloom, getLoom, dobbyCpl, postCpl_looms, getLoom]
  have hgetl : getLoom (modLoom (dobbyCpl (commandLeft s l c) (getLoom s l) c (c.endStatus.getD stOk)) l (loomDone c (c.endStatus.getD stOk))) l =
      loomDone c st { getLoom s l with lrn := lrn, rowWaits := rw } := by
    rw [getLoom_modLoom, if_pos rfl, hcpl]
  have hgett : ∀ k, getTile (modLoom (dobbyCpl (commandLeft s l c) (getLoom s l) c (c.endStatus.getD stOk)) l (loomDone c (c.endStatus.getD stOk))) k =
      if k ∈ c.tiles then quietTile (getTile s k) else getTile s k := fun k => by
    rw [← htiles]
    change tget {} (dobbyCpl (commandLeft s l c) (getLoom s l) c (c.endStatus.getD stOk)).tiles k = _
    rw [dobbyCpl, postCpl_tiles, hleft]
  rw [hgetl]
  refine ⟨?_, rfl, rfl, rfl, rfl, ?_, fun k hk => ?_, fun k hk => ?_, ?_⟩
  · change (dobbyCpl (commandLeft s l c) (getLoom s l) c (c.endStatus.getD stOk)).mem = _
    rw [dobbyCpl, postCpl_mem, hleft]
  · change (if (decide (st ≠ stOk) && (decide ((getLoom s l).st = .running) || decide ((getLoom s l).st = .preempting))) = true then LoomState.stopping else (getLoom s l).st) = _
    rw [hst]
    cases hs : c.endStatus with
    | none => simp [st, hs]
    | some q =>
      have hq : q ≠ stOk := fun h => hok (hs.trans (congrArg some h))
      simp [st, hs, hq]
  · rw [hgett, if_pos hk]
    exact ⟨rfl, rfl, rfl, rfl⟩
  · rw [hgett, if_neg hk]
  · intro sess ring r hr
    have hsess : ∀ n, getSession (commandLeft s l c) n = getSession s n := fun n => by rw [hleft]; rfl
    have h := tfind_cpl_postCpl (s := commandLeft s l c) (c.endStatus.getD stOk) 0 c.e.cmdId
      (dobbyBody c.e.cmdId (c.endStatus.getD stOk) c.soft c.hard c.tStart (commandLeft s l c).tlm.timebase) (by rw [hsess]; exact hr)
    rw [hsess] at h
    exact h

/-- Settles O27. -/
theorem dobbyCommands : Obligations.DobbyCommands := ⟨runStarts, commandEnds⟩

end Sys2Proof.Machine
end

section
/-! SUPPORT. Matrix commands from their issue to the entry of their columns (Tables 3-7, 4-15 and 4-16, R84, R102 to R106, R500): what an instruction queues
and registers, what the oldest command that may issue takes, and what a tick lets enter. With it the obligation about matrix commands is settled. -/
namespace Sys2Proof.Machine
open Sys2Proof

/-! ## Entries that a FOLD holds -/

/-- An entry of a tile as settleHeld leaves it. -/
def settledEntry (t : Tile) (e : SbEntry) : SbEntry :=
  if e.st = .ready && t.queue.any (fun c => c.op = 1 && c.blkOff = e.off && readReady e c.num && tget 0 t.segNext c.outId < c.segIdx) then { e with st := .held }
  else if e.st = .held && !t.queue.any (fun c => c.op = 1 && c.blkOff = e.off) then { e with st := .ready } else e

theorem settleHeld_board (t : Tile) : (settleHeld t).board = t.board.map (settledEntry t) := rfl

/-- Only the state of an entry changes, and only between READY and HELD. -/
theorem settledEntry_cases (t : Tile) (e : SbEntry) : ∃ st, settledEntry t e = { e with st } ∧ (e.st ≠ .ready → e.st ≠ .held → st = e.st) := by
  unfold settledEntry
  split_ifs with hr hh
  · exact ⟨_, rfl, fun h => absurd (of_decide_eq_true (Bool.and_eq_true_iff.mp hr).1) h⟩
  · exact ⟨_, rfl, fun _ h => absurd (of_decide_eq_true (Bool.and_eq_true_iff.mp hh).1) h⟩
  · exact ⟨e.st, rfl, fun _ _ => rfl⟩

theorem settledEntry_names (t : Tile) (e : SbEntry) : (settledEntry t e).off = e.off ∧ (settledEntry t e).len = e.len := by
  obtain ⟨st, h, -⟩ := settledEntry_cases t e
  rw [h]
  exact ⟨rfl, rfl⟩

theorem boardFind_settled (t : Tile) (off len : Nat) : boardFind (settleHeld t).board off len = (boardFind t.board off len).map (settledEntry t) :=
  boardFind_map (settledEntry_names t)

/-- A block whose FOLD in the queue has not come to its turn is not READY. -/
theorem settledEntry_of_fold_waits {t : Tile} {e : SbEntry} {c : MtxCmd} (hc : c ∈ t.queue) (hop : c.op = 1) (hseg : tget 0 t.segNext c.outId < c.segIdx)
    (hoff : (settledEntry t e).off = c.blkOff) (hready : readReady (settledEntry t e) c.num = true) : (settledEntry t e).st ≠ .ready := by
  have hoff' : c.blkOff = e.off := hoff.symm.trans (settledEntry_names t e).1
  have hready' : readReady e c.num = true := by
    obtain ⟨st, h, -⟩ := settledEntry_cases t e
    rwa [h] at hready
  have hwaits : t.queue.any (fun c => c.op = 1 && c.blkOff = e.off && readReady e c.num && tget 0 t.segNext c.outId < c.segIdx) = true :=
    List.any_eq_true.mpr ⟨c, hc, by simp [hop, hoff', hready', hseg]⟩
  have hnamed : t.queue.any (fun c => c.op = 1 && c.blkOff = e.off) = true := List.any_eq_true.mpr ⟨c, hc, by simp [hop, hoff']⟩
  unfold settledEntry
  rw [hwaits, hnamed]
  by_cases hst : e.st = .ready <;> simp [hst]

/-! ## Bindings (R500) -/

theorem bindOf_map {t : Tile} {id : Nat} {g : Binding → Binding} (hg : ∀ b, (g b).outId = b.outId) {b : Binding} (h : bindOf t id = some b) :
    bindOf { t with binds := t.binds.map g } id = some (g b) := by
  have hp : ((fun q : Binding => decide (q.outId = id)) ∘ g) = fun q => decide (q.outId = id) := funext fun q => by rw [Function.comp, hg]
  unfold bindOf at h ⊢
  rw [List.find?_map, hp, h]
  rfl

theorem bindOf_outId {t : Tile} {id : Nat} {b : Binding} (h : bindOf t id = some b) : b.outId = id :=
  of_decide_eq_true (List.find?_some (p := fun q : Binding => decide (q.outId = id)) h)

theorem bindOf_append {t : Tile} {id : Nat} {b : Binding} (h : bindOf t id = none) (hb : b.outId = id) : bindOf { t with binds := t.binds ++ [b] } id = some b := by
  unfold bindOf at h ⊢
  simp [h, hb]

/-- A command that names an OUT_ID has it bound; a new binding has the command's engine and gang mode, and no claim. -/
theorem bindCmd_spec (t : Tile) (c : MtxCmd) : ∃ bs, bindCmd t c = { t with binds := bs } ∧ ∃ b, bindOf (bindCmd t c) c.outId = some b ∧
    (bindOf t c.outId = none → b.thin = c.thin ∧ b.gang = c.gang ∧ b.claim = none) := by
  unfold bindCmd
  cases h : bindOf t c.outId with
  | none =>
    refine ⟨_, rfl, ?_⟩
    rw [bindOf_append h rfl]
    exact ⟨_, rfl, fun _ => ⟨rfl, rfl, rfl⟩⟩
  | some b =>
    refine ⟨_, rfl, ?_⟩
    rw [bindOf_map (fun q => by split_ifs <;> rfl) h]
    exact ⟨_, rfl, nofun⟩

/-! ## The issue of a matrix instruction -/

section
variable {s : State} {a : Issuer} {l op : Nat} {f : FmtD} {d : List Byte}

/-- A tile with one more command queued and its blocks registered. -/
def usedTile (t : Tile) (tile : Nat) (c : MtxCmd) : Tile :=
  { t with board := usesAfter t.board (mtxSources tile c) (mtxDest c) c.num, queue := t.queue ++ [c] }

/-- Such a tile with the command's OUT_ID bound. -/
def queuedTile (t : Tile) (tile op : Nat) (c : MtxCmd) : Tile :=
  settleHeld (if op = 3 then usedTile t tile c else bindCmd (usedTile t tile c) c)

theorem listed_mtx (f : FmtD) (h : op < 4) : listed (wordD 6 op f) = true := by
  rw [listed_wordD 6 op f (by decide) (by omega)]
  interval_cases op <;> rfl

theorem bits_low (n hi : Nat) : bits n hi 0 = n % 2 ^ (hi + 1) := by simp [bits]

/-- A state in which a strand's command is queued, and the strand goes on. -/
def queuedState (s : State) (a : Issuer) (op : Nat) (c : MtxCmd) : State :=
  modStrand (setTile { s with nextNum := s.nextNum + 1 } a.tile (queuedTile (getTile s a.tile) a.tile op c)) a Strand.next

/-- What the issue of a command in order comes to: its entry in the queue, where queue and scoreboard have room (R105, R131). -/
def queueCmd (s : State) (a : Issuer) (op : Nat) (c : MtxCmd) : IRes :=
  let t := getTile s a.tile
  if 32 ≤ t.queue.length then .stall
  else if boardSize < t.board.length + boardNeeds t.board (mtxSources a.tile c ++ mtxDest c) then
    if boardStuck s a.tile then .fault stFull else .stall
  else .done (queuedState s a op c)

/-- The command as the issue forms it is the one that the statement names. -/
theorem mtxOf_eq (s : State) (a : Issuer) (op : Nat) (f : FmtD) (d : List Byte) :
    let c := mtxCmd s.nextNum a.strand op f.inl.toNat d
    ({ c with
      segTab := if (decide (op = 0) && decide (1 < c.nseg) && decide (c.nseg ≤ 64)) = true then
          (List.range c.nseg).map fun i => rd s (tileAddr a.tile (bits (fieldAt d 0x28 4) 22 0 + 2 * i)) 2 else [0]
      accInt := if op = 2 then (bindInt (getTile s a.tile) c.outId c.tgtB).getD false else false } : MtxCmd) = mtxOf s a op f d := by
  intro c
  have hint : (if op = 2 then (bindInt (getTile s a.tile) c.outId c.tgtB).getD false else false) =
      (op == 2 && (bindInt (getTile s a.tile) c.outId c.tgtB).getD false) := by
    by_cases h : op = 2 <;> simp [h]
  rw [hint, bits_low]
  simp only [Bool.and_eq_true, decide_eq_true_eq, and_assoc]
  rfl

/-- An instruction in order comes to its command's entry in the queue. -/
theorem mtxIssue_of_ok (h : MtxOk s a l op f d) (hop : op < 4) :
    mtxIssue op a f s = .next (match queueCmd s a op (mtxOf s a op f d) with
      | .done s' => s'
      | .fault st => insnFault s l a st (wordD 6 op f)
      | .poisoned rs => insnFault (meetUnits s (some l) rs) l a stUncorr (wordD 6 op f)
      | .stall => s) := by
  obtain ⟨hi, hpg, hpn, hsd, hsb, hlow, hhigh, ⟨d0, hd0, hw⟩, hd, htab, hrsv, hcheck⟩ := h
  let c := mtxOf s a op f d
  let mx := isMx (bits (fieldAt d 0x0C 4) 3 0) || isMx (bits (fieldAt d 0x0C 4) 7 4) || isMx (bits (fieldAt d 0x0C 4) 11 8)
  let many := decide (op = 0) && decide (1 < c.nseg) && decide (c.nseg ≤ 64)
  have hbits : bits f.inl.toNat 34 33 < 2 := by
    unfold bits
    rw [Nat.shiftRight_eq_div_pow]
    exact (Nat.mod_le _ _).trans_lt hhigh
  have hfields : (plainD f && decide (f.sd = 0) && decide (f.sb = 0) && decide (f.inl.toNat % 2 ^ 29 = 0) && decide (bits f.inl.toNat 34 33 < 2)) = true := by
    simp only [plainD, hpg, hpn, hsd, hsb, hlow, hbits, decide_true, Bool.not_false, Bool.and_self]
  have hdesc : (if mx = true then descriptor s a.tile ((getStrand s a).sget f.sa.toNat) 128 else .ok d0) = .ok d := by
    change descriptor s a.tile ((getStrand s a).sget f.sa.toNat) (if mx = true then 128 else 64) = .ok d at hd
    split_ifs at hd ⊢
    · exact hd
    · exact hd0.symm.trans hd
  have hstore : (many && !inStore (bits (fieldAt d 0x28 4) 22 0) (2 * c.nseg)) = false ∧ (many && tsPoison s a.tile (bits (fieldAt d 0x28 4) 22 0) (2 * c.nseg)) = false := by
    rw [bits_low]
    cases hm : many with
    | false => exact ⟨rfl, rfl⟩
    | true =>
      simp only [many, Bool.and_eq_true, decide_eq_true_eq] at hm
      obtain ⟨hin, hpoison⟩ := htab hm.1.1 hm.1.2 hm.2
      have hin' : inStore (fieldAt d 0x28 4 % 2 ^ 23) (2 * c.nseg) = true := decide_eq_true hin
      exact ⟨by rw [hin']; rfl, by rw [hpoison]; rfl⟩
  have hst : (if mtxRsv d mx = true then mtxCheck s (getLoom s l) a.tile (getTile s a.tile) c d else stBad) = stOk := (if_pos hrsv).trans hcheck
  rw [mtxIssue, issue_at _ hi (listed_mtx f hop)]
  refine congrArg Host.Outcome.next (congrArg (fun r : IRes => match r with
    | .done s' => s'
    | .fault st => insnFault s l a st (wordD 6 op f)
    | .poisoned rs => insnFault (meetUnits s (some l) rs) l a stUncorr (wordD 6 op f)
    | .stall => s) ?_)
  dsimp only
  rw [hfields, Bool.not_true, if_neg Bool.false_ne_true, hd0]
  dsimp only
  rw [hw, hdesc]
  dsimp only
  refine (if_neg (ne_true_of_eq_false hstore.1)).trans ((if_neg (ne_true_of_eq_false hstore.2)).trans ?_)
  rw [mtxOf_eq]
  exact if_neg (not_not.mpr hst)

theorem queueCmd_full {c : MtxCmd} (h : 32 ≤ (getTile s a.tile).queue.length) : queueCmd s a op c = .stall := if_pos h

theorem queueCmd_room {c : MtxCmd} (h : (getTile s a.tile).queue.length < 32)
    (hb : (getTile s a.tile).board.length + boardNeeds (getTile s a.tile).board (mtxSources a.tile c ++ mtxDest c) ≤ 512) :
    queueCmd s a op c = .done (queuedState s a op c) :=
  (if_neg (Nat.not_le.mpr h)).trans (if_neg (Nat.not_lt.mpr hb))

theorem queuedTile_eq (t : Tile) (tile op : Nat) (c : MtxCmd) : ∃ bs, queuedTile t tile op c = settleHeld { usedTile t tile c with binds := bs } ∧
    (op = 3 → bs = t.binds) ∧ (op ≠ 3 → ∃ b, bindOf { t with binds := bs } c.outId = some b ∧
      (bindOf t c.outId = none → b.thin = c.thin ∧ b.gang = c.gang ∧ b.claim = none)) := by
  unfold queuedTile
  by_cases hop : op = 3
  · exact ⟨t.binds, by rw [if_pos hop]; rfl, fun _ => rfl, fun h => absurd hop h⟩
  · obtain ⟨bs, hbs, b, hfind, hnew⟩ := bindCmd_spec (usedTile t tile c) c
    rw [hbs] at hfind
    exact ⟨bs, by rw [if_neg hop, hbs], fun h => absurd h hop, fun _ => ⟨b, hfind, hnew⟩⟩

/-- The tile of an instruction whose command is queued, but for its strands. -/
theorem getTile_queuedState (c : MtxCmd) : ∃ ss, getTile (queuedState s a op c) a.tile = { queuedTile (getTile s a.tile) a.tile op c with strands := ss } := by
  obtain ⟨ss, h⟩ := getTile_modStrand (setTile { s with nextNum := s.nextNum + 1 } a.tile (queuedTile (getTile s a.tile) a.tile op c)) a Strand.next a.tile
  rw [getTile_setTile, if_pos rfl] at h
  exact ⟨ss, h⟩

theorem getStrand_queuedState (c : MtxCmd) : getStrand (queuedState s a op c) a = (getStrand s a).next := by
  have hstrands : (queuedTile (getTile s a.tile) a.tile op c).strands = (getTile s a.tile).strands := by
    obtain ⟨bs, h, -, -⟩ := queuedTile_eq (getTile s a.tile) a.tile op c
    rw [h]
    rfl
  rw [queuedState, getStrand_modStrand_same]
  exact congrArg Strand.next (getStrand_setTile { s with nextNum := s.nextNum + 1 } a.tile a hstrands)

end

theorem matrixIssue : MatrixIssue := by
  intro s a l f d t op i hmem hok c
  have hexec : exec i s = mtxIssue op a f s ∧ op < 4 := by
    simp only [List.mem_cons, Prod.mk.injEq, List.not_mem_nil, or_false] at hmem
    obtain ⟨rfl, rfl⟩ | ⟨rfl, rfl⟩ | ⟨rfl, rfl⟩ | ⟨rfl, rfl⟩ := hmem <;> exact ⟨rfl, by decide⟩
  rw [hexec.1, mtxIssue_of_ok hok hexec.2]
  have hnum : c.num = s.nextNum := rfl
  have hcop : c.op = op := rfl
  refine ⟨fun hfull => by rw [queueCmd_full hfull], fun hroom hboard => ?_⟩
  rw [queueCmd_room hroom hboard]
  obtain ⟨ss, htile⟩ := getTile_queuedState (s := s) (a := a) (op := op) c
  obtain ⟨bs, hq, hretire, hbind⟩ := queuedTile_eq t a.tile op c
  rw [hq] at htile
  refine ⟨queuedState s a op c, rfl, getStrand_queuedState c, rfl, rfl, rfl, ?_⟩
  rw [htile]
  refine ⟨rfl, rfl, rfl, rfl, ?_, hretire, hbind⟩
  intro hfold hseg e he hoff hready
  obtain ⟨e0, -, rfl⟩ := List.mem_map.mp he
  exact settledEntry_of_fold_waits (t := { usedTile t a.tile c with binds := bs }) (List.mem_append_right _ List.mem_cons_self) (hcop.trans hfold) hseg hoff hready

/-! ## The oldest command that may issue (R106) -/

section
variable {s : State} {tile l : Nat} {t : Tile} {c : MtxCmd} {k : Nat}

/-- The pick passes over the commands that may not issue. -/
theorem pickCmd_append (passed before after : List MtxCmd) (hc : mayIssue tile t (passed ++ before) c = true)
    (hb : ∀ pre e post, before = pre ++ e :: post → mayIssue tile t (passed ++ pre) e = false) :
    pickCmd tile t passed (before ++ c :: after) = some c := by
  induction before generalizing passed with
  | nil => exact if_pos (by simpa using hc)
  | cons e before ih =>
    have he : ¬ mayIssue tile t passed e = true := by simpa using hb [] e before rfl
    refine (if_neg he).trans (ih (passed ++ [e]) (by simpa using hc) fun pre q post h => ?_)
    simpa using hb (e :: pre) q post (by rw [h]; rfl)

/-- A command's number names it alone in its queue. -/
theorem filter_num_queue {before after : List MtxCmd} (h : ∀ e, e ∈ before ++ after → e.num ≠ c.num) :
    ((before ++ c :: after).filter fun q => q.num != c.num) = before ++ after := by
  have hkeep : ∀ e ∈ before ++ after, (e.num != c.num) = true := fun e he => bne_iff_ne.mpr (h e he)
  rw [← List.filter_eq_self.mpr hkeep, List.filter_append, List.filter_append, List.filter_cons, if_neg (by simp)]

/-- A tile as a command issues on its claim: its sources are being read, it has left the queue, and its OUT_ID has the claim. -/
def claimTile (t : Tile) (tile : Nat) (c : MtxCmd) (k : Nat) : Tile :=
  { t with
    board := (mtxSources tile c).foldl (fun b e => boardMod b e.1 e.2 (readerIssues c.num)) t.board
    queue := t.queue.filter fun q => q.num != c.num
    binds := t.binds.map fun q => if q.outId = c.outId then { q with claim := some k } else q }

/-- A tile whose MMA or FOLD has gone on its claim. -/
def runTile (s : State) (tile : Nat) (t : Tile) (c : MtxCmd) (k : Nat) : Tile :=
  { t with
    segNext := if c.op = 1 then tset 0 t.segNext c.outId ((c.segIdx + 1) % c.nseg) else t.segNext
    acc := initAcc t.acc c
    running := t.running ++ [startRun s tile c k] }

/-- A tile whose DRAIN has formed its write. -/
def drainTile (s : State) (l : Nat) (t : Tile) (c : MtxCmd) : Tile :=
  { t with landing := t.landing ++ [drainLanding (getLoom s l).seed t c] }

/-- A tile whose command has issued on its claim. -/
def issuedTile (s : State) (tile l : Nat) (c : MtxCmd) (k : Nat) : Tile :=
  let t := claimTile (getTile s tile) tile c k
  if c.op = 2 then unbind (drainTile s l t c) c.outId else runTile s tile t c k

theorem exec_matrixCommandIssue_retire (hd : s.svc.dark = false) (hl : loomOfTile s tile = some l)
    (hp : pickCmd tile (getTile s tile) [] (getTile s tile).queue = some c) (hop : c.op = 3) :
    exec (.matrixCommandIssue tile) s = .next (setTile s tile { getTile s tile with
      board := boardRetire (getTile s tile).board c.blkOff 0
      queue := (getTile s tile).queue.filter fun q => q.num != c.num }) := by
  change execMatrixCommandIssue tile s = _
  rw [execMatrixCommandIssue, alive_light _ hd, hl]
  dsimp only
  rw [hp]
  exact congrArg Host.Outcome.next (if_pos hop)

theorem exec_matrixCommandIssue_claim (hd : s.svc.dark = false) (hl : loomOfTile s tile = some l)
    (hp : pickCmd tile (getTile s tile) [] (getTile s tile).queue = some c) (hop : c.op ≠ 3) (hk : claimNow (getTile s tile) c = some k) :
    exec (.matrixCommandIssue tile) s = .next (setTile s tile (settleHeld (issuedTile s tile l c k))) := by
  change execMatrixCommandIssue tile s = _
  rw [execMatrixCommandIssue, alive_light _ hd, hl]
  dsimp only
  rw [hp]
  dsimp only
  rw [if_neg hop, hk]
  rfl

/-- A command other than a RETIRE issues only where it has a claim. -/
theorem claimNow_of_mayIssue {before : List MtxCmd} (h : mayIssue tile t before c = true) (hop : c.op ≠ 3) : ∃ k, claimNow t c = some k := by
  rw [mayIssue, if_neg hop] at h
  simp only [Bool.and_eq_true] at h
  obtain ⟨⟨⟨⟨-, hclaim⟩, -⟩, -⟩, -⟩ := h
  exact Option.isSome_iff_exists.mp hclaim

/-! ## The end of a binding -/

theorem unbind_eq (t : Tile) (id : Nat) : ∃ bs acc, unbind t id = { t with binds := bs, acc := acc } := by
  unfold unbind
  split_ifs
  · exact ⟨_, _, rfl⟩
  · exact ⟨_, _, rfl⟩

/-- With the last command of an OUT_ID its binding ends. -/
theorem bindOf_unbind {id : Nat} (hq : ∀ e ∈ t.queue, e.op ≠ 3 → e.outId ≠ id) (hr : ∀ r ∈ t.running, r.cmd.outId ≠ id) :
    bindOf (unbind t id) id = none := by
  have hqueue : (t.queue.any fun c => c.op ≠ 3 && c.outId = id) = false := by simpa using hq
  have hrunning : (t.running.any fun r => r.cmd.outId = id) = false := by simpa using hr
  rw [unbind, hqueue, hrunning]
  simp [bindOf]

/-! ## The sources of an issuing command -/

theorem nodup_eraseDups {α : Type} [BEq α] [LawfulBEq α] (xs : List α) : xs.eraseDups.Nodup := by
  induction hn : xs.length using Nat.strong_induction_on generalizing xs with
  | _ n ih =>
    cases xs with
    | nil => exact List.nodup_nil
    | cons x xs =>
      rw [List.eraseDups_cons, List.nodup_cons]
      refine ⟨fun h => by simp at h, ih _ ?_ _ rfl⟩
      rw [← hn]
      exact Nat.lt_succ_of_le (List.length_filter_le _ _)

theorem nodup_mtxSources (tile : Nat) (c : MtxCmd) : (mtxSources tile c).Nodup := by
  unfold mtxSources
  by_cases h0 : c.op = 0
  · rw [if_pos h0]
    by_cases hk : c.k = 0
    · rw [if_pos hk]
      exact List.nodup_nil
    · rw [if_neg hk]
      exact nodup_eraseDups _
  · rw [if_neg h0]
    split_ifs
    · exact List.nodup_singleton _
    · exact List.nodup_nil

theorem readerIssues_names (num : Nat) (e : SbEntry) : (readerIssues num e).off = e.off ∧ (readerIssues num e).len = e.len := ⟨rfl, rfl⟩

/-- A reader that issues leaves its block READING, or PENDING where a write is. -/
theorem readerIssues_st (num : Nat) (e : SbEntry) : (readerIssues num e).st ≠ .ready ∧ (readerIssues num e).st ≠ .held := by
  by_cases h : e.st = .pending <;> simp [readerIssues, h]

/-- Each source of a command that issues has one reader more. -/
theorem readFrom_settled {b : Nat × Nat} {e : SbEntry} (hb : b ∈ mtxSources tile c) (he : boardFind t.board b.1 b.2 = some e)
    (u : Tile) (hu : u.board = (claimTile t tile c k).board) : ∃ e', boardFind (settleHeld u).board b.1 b.2 = some e' ∧ readFrom e e' := by
  have hfind : boardFind u.board b.1 b.2 = some (readerIssues c.num e) := by
    rw [hu]
    exact boardFind_foldl_boardMod (readerIssues_names c.num) (nodup_mtxSources tile c) hb he
  obtain ⟨st, hset, hst⟩ := settledEntry_cases u (readerIssues c.num e)
  obtain ⟨hready, hheld⟩ := readerIssues_st c.num e
  rw [boardFind_settled, hfind]
  refine ⟨_, rfl, ?_⟩
  rw [hset, hst hready hheld]
  exact ⟨rfl, rfl, rfl⟩

/-- What of a tile an issue leaves as its claim has it: its strands, its queue and its scoreboard. -/
theorem issuedTile_eq (s : State) (tile l : Nat) (c : MtxCmd) (k : Nat) : ∃ rs ws bs acc segs,
    issuedTile s tile l c k = { claimTile (getTile s tile) tile c k with running := rs, landing := ws, binds := bs, acc := acc, segNext := segs } := by
  unfold issuedTile
  by_cases h : c.op = 2
  · obtain ⟨bs, acc, hu⟩ := unbind_eq (drainTile s l (claimTile (getTile s tile) tile c k) c) c.outId
    rw [if_pos h, hu]
    exact ⟨_, _, _, _, _, rfl⟩
  · rw [if_neg h]
    exact ⟨_, _, _, _, _, rfl⟩

theorem issuedTile_run (h : c.op ≠ 2) : issuedTile s tile l c k = runTile s tile (claimTile (getTile s tile) tile c k) c k := if_neg h

theorem issuedTile_drain (h : c.op = 2) : issuedTile s tile l c k = unbind (drainTile s l (claimTile (getTile s tile) tile c k) c) c.outId := if_pos h

/-- The OUT_ID of a command that goes on a claim is bound to it. -/
theorem bindOf_claimTile {b : Binding} (h : bindOf t c.outId = some b) : bindOf (claimTile t tile c k) c.outId = some { b with claim := some k } := by
  have hclaim := bindOf_map (g := fun q => if q.outId = c.outId then { q with claim := some k } else q) (fun q => by split_ifs <;> rfl) h
  rw [if_pos (bindOf_outId h)] at hclaim
  exact hclaim

/-- A command that starts has entered nothing, and holds its first warp block. -/
theorem startRun_spec (s : State) (tile : Nat) (c : MtxCmd) (k : Nat) : let r := startRun s tile c k
    r.cmd = c ∧ r.claim = k ∧ r.pos = 0 ∧ r.parts = [] ∧ r.staged = [] ∧ (c.op = 0 → c.k ≠ 0 → r.warp = some (loadWarp s tile c 0)) := by
  intro r
  obtain ⟨qs, hqs⟩ := fillQueue_eq s { cmd := c, claim := k, warp := if c.op = 0 && c.k ≠ 0 then some (loadWarp s tile c 0) else none }
  rw [show r = _ from hqs]
  exact ⟨rfl, rfl, rfl, rfl, rfl, fun hop hk => if_pos (by simp [hop, hk])⟩

end

/-! ## The initial values of an MMA's target (R84) -/

section
variable {c : MtxCmd} {acc : Table W32}

/-- An output block has at most 128 rows. -/
theorem outDims_rows_le (thin : Bool) (gang : Nat) : (outDims thin gang).1 ≤ 128 := by
  unfold outDims
  split
  · decide
  · split <;> decide

/-- An output block's accumulators are distinct, and so are A and B: its rows and columns are below 128. -/
theorem accKey_inj_both {id m n m' n' : Nat} {b b' : Bool} (hm : m < 128) (hn : n < 128) (hm' : m' < 128) (hn' : n' < 128)
    (h : accKey id b m n = accKey id b' m' n') : b = b' ∧ m = m' ∧ n = n' := by
  unfold accKey at h
  cases b <;> cases b' <;> simp <;> simp at h <;> omega

/-- The elements of an MMA's output block, every row of it and the command's columns. -/
def outElems (c : MtxCmd) : List (Nat × Nat) := (List.range (outDims c.thin c.gang).1).flatMap fun m => (List.range c.n).map (m, ·)

theorem mem_outElems {p : Nat × Nat} : p ∈ outElems c ↔ p.1 < (outDims c.thin c.gang).1 ∧ p.2 < c.n := by
  simp only [outElems, List.mem_flatMap, List.mem_map, List.mem_range]
  exact ⟨by rintro ⟨m, hm, n, hn, rfl⟩; exact ⟨hm, hn⟩, fun ⟨hm, hn⟩ => ⟨p.1, hm, p.2, hn, rfl⟩⟩

/-- The initial value of an output element: what accumulator B holds under CARRY, and else 0. -/
def initVal (c : MtxCmd) (acc : Table W32) (p : Nat × Nat) : W32 := if c.carry then tget 0 acc (accKey c.outId true p.1 p.2) else 0

/-- One element of the target at its initial value. -/
def initStep (c : MtxCmd) (acc : Table W32) (p : Nat × Nat) : Table W32 := tset 0 acc (accKey c.outId c.tgtB p.1 p.2) (initVal c acc p)

theorem initAcc_eq (h : c.op = 0) : initAcc acc c = (outElems c).foldl (initStep c) acc := by
  unfold initAcc outElems
  rw [if_neg (not_not.mpr h), List.foldl_flatMap]
  simp only [List.foldl_map]
  rfl

/-- An element at its initial value changes no other element's: B's own elements keep what they hold. -/
theorem initVal_initStep {p q : Nat × Nat} (hp : p.1 < 128 ∧ p.2 < 128) (hq : q.1 < 128 ∧ q.2 < 128) : initVal c (initStep c acc p) q = initVal c acc q := by
  unfold initVal initStep
  by_cases hcarry : c.carry = true
  · rw [if_pos hcarry, if_pos hcarry, tget_tset]
    by_cases hkey : accKey c.outId c.tgtB p.1 p.2 = accKey c.outId true q.1 q.2
    · obtain ⟨-, hm, hn⟩ := accKey_inj_both hp.1 hp.2 hq.1 hq.2 hkey
      rw [if_pos hkey, initVal, if_pos hcarry, hm, hn]
    · rw [if_neg hkey]
  · rw [if_neg hcarry, if_neg hcarry]

theorem tget_foldl_initStep_other {ps : List (Nat × Nat)} {key : Nat} (h : ∀ p ∈ ps, key ≠ accKey c.outId c.tgtB p.1 p.2) :
    tget 0 (ps.foldl (initStep c) acc) key = tget 0 acc key := by
  induction ps generalizing acc with
  | nil => rfl
  | cons p ps ih =>
    rw [List.foldl_cons, ih fun q hq => h q (List.mem_cons_of_mem _ hq), initStep, tget_tset, if_neg (h p List.mem_cons_self).symm]

theorem tget_foldl_initStep {ps : List (Nat × Nat)} (hps : ∀ p ∈ ps, p.1 < 128 ∧ p.2 < 128) {q : Nat × Nat} (hq : q ∈ ps) :
    tget 0 (ps.foldl (initStep c) acc) (accKey c.outId c.tgtB q.1 q.2) = initVal c acc q := by
  induction ps generalizing acc with
  | nil => exact absurd hq List.not_mem_nil
  | cons p ps ih =>
    have hps' : ∀ p ∈ ps, p.1 < 128 ∧ p.2 < 128 := fun p hp => hps p (List.mem_cons_of_mem _ hp)
    rw [List.foldl_cons]
    by_cases hmem : q ∈ ps
    · rw [ih hps' hmem, initVal_initStep (hps p List.mem_cons_self) (hps q hq)]
    · obtain rfl : q = p := (List.mem_cons.mp hq).resolve_right hmem
      rw [tget_foldl_initStep_other, initStep, tget_tset, if_pos rfl]
      intro p hp hkey
      obtain ⟨hq1, hq2⟩ := hps q hq
      obtain ⟨hp1, hp2⟩ := hps' p hp
      obtain ⟨-, hm, hn⟩ := accKey_inj_both hq1 hq2 hp1 hp2 hkey
      exact hmem (by rwa [show q = p from Prod.ext hm hn])

/-- Each element of an MMA's target stands at its initial value, and no other accumulator has changed (R84). -/
theorem tget_initAcc (hop : c.op = 0) (hn : c.n ≤ 128) {m n : Nat} (hm : m < (outDims c.thin c.gang).1) (hnn : n < c.n) :
    tget 0 (initAcc acc c) (accKey c.outId c.tgtB m n) = if c.carry then tget 0 acc (accKey c.outId true m n) else 0 := by
  rw [initAcc_eq hop]
  refine tget_foldl_initStep (ps := outElems c) (q := (m, n)) (fun p hp => ?_) (mem_outElems.mpr ⟨hm, hnn⟩)
  obtain ⟨hp1, hp2⟩ := mem_outElems.mp hp
  exact ⟨hp1.trans_le (outDims_rows_le _ _), hp2.trans_le hn⟩

theorem tget_initAcc_other (hop : c.op = 0) {q : Nat} (hq : ∀ m n, m < (outDims c.thin c.gang).1 → n < c.n → q ≠ accKey c.outId c.tgtB m n) :
    tget 0 (initAcc acc c) q = tget 0 acc q := by
  rw [initAcc_eq hop]
  exact tget_foldl_initStep_other fun p hp => hq p.1 p.2 (mem_outElems.mp hp).1 (mem_outElems.mp hp).2

end

theorem oldestIssues : OldestIssues := by
  intro s tile l before after c hd hl t hq hc hbefore hnums
  have hpick : pickCmd tile t [] t.queue = some c := by
    rw [hq]
    exact pickCmd_append [] before after hc hbefore
  have hqueue : (t.queue.filter fun q => q.num != c.num) = before ++ after := by
    rw [hq]
    exact filter_num_queue hnums
  by_cases hop : c.op = 3
  · refine ⟨_, exec_matrixCommandIssue_retire hd hl hpick hop, rfl, fun b => getStrand_setTile s tile b rfl, ?_⟩
    rw [getTile_setTile, if_pos rfl]
    refine ⟨hqueue, fun _ => ⟨rfl, rfl, rfl, rfl, ?_⟩, fun k _ h => absurd hop h⟩
    exact List.filter_congr fun e _ => by simp
  · obtain ⟨k, hk⟩ := claimNow_of_mayIssue hc hop
    obtain ⟨rs, ws, bs, acc, segs, heq⟩ := issuedTile_eq s tile l c k
    have hstrands : (issuedTile s tile l c k).strands = t.strands := by rw [heq]; rfl
    refine ⟨_, exec_matrixCommandIssue_claim hd hl hpick hop hk, rfl, fun b => getStrand_setTile s tile b hstrands, ?_⟩
    rw [getTile_setTile, if_pos rfl]
    refine ⟨?_, fun h => absurd h hop, fun k' hk' _ => ?_⟩
    · change (issuedTile s tile l c k).queue = _
      rw [heq]
      exact hqueue
    obtain rfl : k = k' := Option.some.inj (hk.symm.trans hk')
    refine ⟨fun b e hb he => readFrom_settled hb he _ (by rw [heq]), fun h2 => ?_, fun h0 hm hn => ?_, fun h1 => ?_, fun h2 => ?_⟩
    · rw [issuedTile_run h2]
      exact ⟨rfl, ⟨_, rfl, startRun_spec s tile c k⟩, fun b hb => bindOf_claimTile (tile := tile) hb⟩
    · rw [issuedTile_run (by omega)]
      exact ⟨if_neg (by omega), fun m n hm' hn' => tget_initAcc h0 hn hm' hn', fun q hq => tget_initAcc_other h0 hq⟩
    · rw [issuedTile_run (by omega)]
      refine ⟨if_pos (by omega), ?_⟩
      change tget 0 (if c.op = 1 then _ else _) _ = _
      rw [if_pos h1, tget_tset, if_pos rfl]
    · rw [issuedTile_drain h2]
      obtain ⟨bs, acc, hu⟩ := unbind_eq (drainTile s l (claimTile (getTile s tile) tile c k) c) c.outId
      refine ⟨by rw [hu]; rfl, ⟨_, by rw [hu]; rfl, rfl, rfl, rfl⟩, fun hothers hrunning => bindOf_unbind ?_ hrunning⟩
      change ∀ e ∈ t.queue.filter fun q => q.num != c.num, _
      rwa [hqueue]

/-! ## A column, or patch, enters (R80, R82, R98) -/

section
variable {c : MtxCmd} {r : MtxRun}

/-- A column of an entry is one of the command's. -/
theorem lt_of_mem_colsOf {pos n : Nat} (hp : pos < entries c) (hn : n ∈ colsOf c pos) : n < c.n := by
  unfold colsOf at hn
  by_cases hthin : c.thin = true
  · simp only [hthin, if_true, List.mem_map, List.mem_range] at hn
    obtain ⟨i, hi, rfl⟩ := hn
    omega
  · simp only [hthin, Bool.false_eq_true, if_false, List.mem_singleton] at hn
    have hper : perBlk c = c.n := if_neg hthin
    have hpos : 0 < perBlk c := by
      refine Nat.pos_of_ne_zero fun h => ?_
      simp [entries, h] at hp
    rw [hn, hper]
    exact Nat.mod_lt _ (hper ▸ hpos)

theorem mem_elemsOf {cols : List Nat} {f : Nat → Nat → ElemSt} {x : Nat × Nat × ElemSt} :
    x ∈ elemsOf c cols f ↔ ∃ m n, m < (outDims c.thin c.gang).1 ∧ n ∈ cols ∧ x = (m, n, f m n) := by
  simp only [elemsOf, List.mem_flatMap, List.mem_map, List.mem_range]
  constructor
  · rintro ⟨m, hm, n, hn, rfl⟩
    exact ⟨m, n, hm, hn, rfl⟩
  · rintro ⟨m, n, hm, hn, rfl⟩
    exact ⟨m, hm, n, hn, rfl⟩

/-- Where the partial of an output element stands. -/
theorem putElems_parts (t : Tile) (es : List (Nat × Nat × ElemSt)) :
    (putElems c t r es).2.parts = es.foldl (fun p x => tset 0 p (x.1 * 128 + x.2.1) x.2.2.2.1) r.parts := rfl

/-- A partial that no element goes to keeps its value. -/
theorem putElems_parts_of_forall_ne {t : Tile} {es : List (Nat × Nat × ElemSt)} {k : Nat} (h : ∀ x ∈ es, k ≠ x.1 * 128 + x.2.1) :
    tget 0 (putElems c t r es).2.parts k = tget 0 r.parts k := by
  rw [putElems_parts]
  induction es generalizing r with
  | nil => rfl
  | cons x es ih =>
    have := ih (r := { r with parts := tset 0 r.parts (x.1 * 128 + x.2.1) x.2.2.2.1 }) fun y hy => h y (List.mem_cons_of_mem _ hy)
    exact this.trans (by rw [tget_tset, if_neg (h x List.mem_cons_self).symm])

/-- A partial holds what every element for it brings. -/
theorem putElems_parts_of_mem {t : Tile} {es : List (Nat × Nat × ElemSt)} {k : Nat} {v : W32} (hk : ∃ x ∈ es, k = x.1 * 128 + x.2.1)
    (hv : ∀ x ∈ es, k = x.1 * 128 + x.2.1 → x.2.2.2.1 = v) : tget 0 (putElems c t r es).2.parts k = v := by
  rw [putElems_parts]
  induction es generalizing r with
  | nil => simp at hk
  | cons x es ih =>
    let r' : MtxRun := { r with parts := tset 0 r.parts (x.1 * 128 + x.2.1) x.2.2.2.1 }
    by_cases hes : ∃ y ∈ es, k = y.1 * 128 + y.2.1
    · exact ih (r := r') hes fun y hy => hv y (List.mem_cons_of_mem _ hy)
    · have hx : k = x.1 * 128 + x.2.1 := by
        obtain ⟨y, hy, hky⟩ := hk
        obtain rfl | hy := List.mem_cons.mp hy
        · exact hky
        · exact absurd ⟨y, hy, hky⟩ hes
      have hrest := putElems_parts_of_forall_ne (c := c) (r := r') (t := t) (es := es) fun y hy hky => hes ⟨y, hy, hky⟩
      exact hrest.trans (by rw [tget_tset, if_pos hx.symm, hv x List.mem_cons_self hx])

/-- The output elements that an entry puts. -/
def entryElems (s : State) (tile : Nat) (t : Tile) (r : MtxRun) : List (Nat × Nat × ElemSt) :=
  elemsOf r.cmd (colsOf r.cmd r.pos) fun m n =>
    elemBlocks s tile t.acc r m n (r.pos / perBlk r.cmd * kPer r.cmd) (min ((r.pos / perBlk r.cmd + 1) * kPer r.cmd) (kBlocks r.cmd.k))

/-- An entry puts its elements, and moves the command's position, cells and stream queue on. -/
theorem enterNext_eq (s : State) (tile : Nat) (t : Tile) (r : MtxRun) : ∃ sh w qs,
    enterNext s tile t r = ((putElems r.cmd t r (entryElems s tile t r)).1,
      { (putElems r.cmd t r (entryElems s tile t r)).2 with pos := r.pos + 1, shadow := sh, warp := w, queue := qs }) := by
  unfold enterNext
  dsimp only
  split_ifs <;> exact ⟨_, _, _, congrArg (Prod.mk _) (fillQueue_eq s _).choose_spec⟩

/-- A tick of a tile with one command in flight whose next entry has landed. -/
theorem mtxTick_landed {s : State} {tile : Nat} (hrun : (getTile s tile).running = [r]) (hp : r.pos < entries r.cmd)
    (hl : entryLanded s.variant r r.pos = true) :
    mtxTick s tile = setTile s tile { (enterNext s tile (getTile s tile) r).1 with running := [(enterNext s tile (getTile s tile) r).2] } := by
  simp [mtxTick, hrun, hp, hl]

theorem mtxTick_not_landed {s : State} {tile : Nat} (hrun : (getTile s tile).running = [r]) (hl : entryLanded s.variant r r.pos = false) :
    mtxTick s tile = setTile s tile (getTile s tile) := by
  have htick : mtxTick s tile = setTile s tile { getTile s tile with running := [r] } := by simp [mtxTick, hrun, hl]
  rw [htick, ← hrun]

end

theorem columnEnters : ColumnEnters := by
  intro s tile r c hrun hop hm hn hp t u b here entered
  refine ⟨rfl, rfl, fun hl => ?_, fun hl => ?_⟩
  · change getTile (mtxTick s tile) tile = _
    rw [mtxTick_not_landed hrun hl, getTile_setTile, if_pos rfl]
  · obtain ⟨sh, w, qs, heq⟩ := enterNext_eq s tile t r
    have hu : u = { (putElems c t r (entryElems s tile t r)).1 with
        running := [{ (putElems c t r (entryElems s tile t r)).2 with pos := r.pos + 1, shadow := sh, warp := w, queue := qs }] } := by
      change getTile (mtxTick s tile) tile = _
      rw [mtxTick_landed hrun hp hl, getTile_setTile, if_pos rfl, heq]
    rw [hu]
    have hcols : ∀ n ∈ colsOf c r.pos, n < 128 := fun n h => (lt_of_mem_colsOf hp h).trans_le hn
    refine ⟨_, rfl, rfl, rfl, rfl, fun m n hmn => ?_, fun k hk => ?_, fun k hk => ?_⟩
    · have hmem : (m, n, _) ∈ entryElems s tile t r := mem_elemsOf.mpr ⟨m, n, hmn.1, hmn.2, rfl⟩
      rw [show joined s tile r m n here = _ from (elemSums_elemBlocks s tile r m n _ _).symm]
      refine Prod.ext (putElems_acc_of_mem (c := c) (t := t) (r := r) ⟨_, hmem, rfl⟩ fun x hx hk => ?_) (putElems_parts_of_mem (c := c) (t := t) (r := r) ⟨_, hmem, rfl⟩ fun x hx hk => ?_)
      · obtain ⟨m', n', hm', hn', rfl⟩ := mem_elemsOf.mp hx
        obtain ⟨rfl, rfl⟩ := accKey_inj (hcols n hmn.2) (hcols n' hn') hk
        rfl
      · obtain ⟨m', n', hm', hn', rfl⟩ := mem_elemsOf.mp hx
        have h1 := hcols n hmn.2
        have h2 := hcols n' hn'
        obtain ⟨rfl, rfl⟩ : m = m' ∧ n = n' := by dsimp only at hk; omega
        rfl
    · refine putElems_acc_of_forall_ne (c := c) (t := t) (r := r) fun x hx => ?_
      obtain ⟨m, n, hm, hn, rfl⟩ := mem_elemsOf.mp hx
      exact hk m n ⟨hm, hn⟩
    · refine putElems_parts_of_forall_ne (c := c) (t := t) (r := r) fun x hx => ?_
      obtain ⟨m, n, hm, hn, rfl⟩ := mem_elemsOf.mp hx
      exact hk m n ⟨hm, hn⟩

/-- Settles O18. A RETIRE's wait for every queued use of its block (log 105) and the one column that a tick lets enter (log 2) are the model's choices. -/
theorem matrixCommands : Obligations.MatrixCommands := ⟨matrixIssue, oldestIssues, columnEnters⟩

end Sys2Proof.Machine
end

section
/-! SUPPORT. Canonical form of both memories through a step (O60): what keeps it in the answers that instructions and commands give, the
instructions and commands with a body of their own, and the dispatch. With it the obligation that every step keeps both memories in
their form. -/
namespace Sys2Proof.Machine
open Sys2Proof

/-! ## Answers that keep the form -/

/-- Where an outcome goes on, both memories are in canonical form. -/
def Kept (o : Host.Outcome State Fault Refusal) : Prop := ∀ t, o = .next t → t.MemOk

/-- Where a ring command is carried out, both memories are in canonical form. -/
def GivesKept (r : Except Byte (State × List Byte)) : Prop := ∀ t x, r = .ok (t, x) → t.MemOk

/-- Where an instruction issues, both memories are in canonical form. -/
def IssuesKept (r : IRes) : Prop := ∀ t, r = .done t → t.MemOk

theorem kept_next {t : State} (h : t.MemOk) : Kept (.next t) := fun _ e => Host.Outcome.next.inj e ▸ h

theorem givesKept_error (b : Byte) : GivesKept (.error b) := fun _ _ e => nomatch e

theorem givesKept_ok {t : State} {x : List Byte} (h : t.MemOk) : GivesKept (.ok (t, x)) := fun _ _ e => by
  cases e
  exact h

theorem issuesKept_fault (b : Byte) : IssuesKept (.fault b) := fun _ e => nomatch e

theorem issuesKept_stall : IssuesKept .stall := fun _ e => nomatch e

theorem issuesKept_done {t : State} (h : t.MemOk) : IssuesKept (.done t) := fun _ e => IRes.done.inj e ▸ h

theorem memOk_ite {c : Prop} [Decidable c] {t u : State} (ht : t.MemOk) (hu : u.MemOk) : (if c then t else u).MemOk := by
  split
  · exact ht
  · exact hu

theorem givesKept_ite {c : Prop} [Decidable c] {r q : Except Byte (State × List Byte)} (hr : GivesKept r) (hq : GivesKept q) :
    GivesKept (if c then r else q) := by
  split
  · exact hr
  · exact hq

theorem issuesKept_ite {c : Prop} [Decidable c] {r q : IRes} (hr : IssuesKept r) (hq : IssuesKept q) : IssuesKept (if c then r else q) := by
  split
  · exact hr
  · exact hq

section
variable {s : State}

/-- What a module with a management die does (R425). -/
theorem kept_alive {f : State → State} (hf : ∀ u : State, u.MemOk → (f u).MemOk) (h : s.MemOk) : Kept (.next (alive s f)) :=
  kept_next (alive_memOk s f hf h)

theorem kept_consoleRun {f : State → State} (hf : ∀ u : State, u.MemOk → (f u).MemOk) (h : s.MemOk) :
    Kept (.next (consoleRun s f)) := kept_next (consoleRun_memOk s f hf h)

theorem kept_console {f : State → State} (hf : ∀ u : State, u.MemOk → (f u).MemOk) (h : s.MemOk) :
    Kept (.next (alive s fun u => consoleRun u f)) := kept_alive (fun u hu => consoleRun_memOk u f hf hu) h

theorem kept_cmdRun {sess ring : Nat} {f : State → Taken → Except Byte (State × List Byte)}
    (hf : ∀ (u : State) c, u.MemOk → GivesKept (f u c)) (h : s.MemOk) : Kept (.next (alive s fun u => cmdRun u sess ring (f u))) :=
  kept_alive (fun u hu => cmdRun_memOk u sess ring (f u) (fun c t x hu => hf u c hu t x) hu) h

theorem kept_cfgRun {sess ring : Nat} {f : State → Taken → Except Byte (State × List Byte)}
    (hf : ∀ (u : State) c, u.MemOk → GivesKept (f u c)) (h : s.MemOk) : Kept (.next (alive s fun u => cfgRun u sess ring (f u))) :=
  kept_alive (fun u hu => cfgRun_memOk u sess ring (f u) (fun c t x hu => hf u c hu t x) hu) h

theorem loomRun_memOk_of_givesKept {sess ring : Nat} {sts : List LoomState} {f : Nat → Taken → Except Byte (State × List Byte)}
    (hf : ∀ l c, GivesKept (f l c)) (h : s.MemOk) : (loomRun s sess ring sts f).MemOk :=
  loomRun_memOk s sess ring sts f (fun l c t x _ => hf l c t x) h

theorem kept_issue {a : Issuer} {w : W64} {k : Nat → Strand → IRes} (hk : ∀ l y, IssuesKept (k l y)) (h : s.MemOk) :
    Kept (.next (issue s a w k)) := kept_next (issue_memOk s a w k (fun l y t _ => hk l y t) h)

/-- An instruction over the registers of its own strand. -/
theorem kept_issueReg {a : Issuer} {w : W64} {ok : Bool} {k : Nat → Strand → Except Byte Strand} (h : s.MemOk) :
    Kept (.next (issueReg s a w ok k)) := kept_next (issueReg_memOk s a w ok k h)

/-! ## Instructions of a tile -/

theorem vshift_kept (op : Nat) (g : W32 → Nat → W32) (a : Issuer) (f : FmtR) (h : s.MemOk) : Kept (vshift op g a f s) :=
  kept_issue (fun _ _ => issuesKept_ite (issuesKept_fault _) (issuesKept_done (setStrand_memOk _ _ _ (drawFree_memOk _ _ h)))) h

theorem reduce_kept (op : Nat) (rounds : Bool) (g : W32 → W32 → W32 × AFlags) (none_ : W32) (a : Issuer) (f : FmtR) (h : s.MemOk) :
    Kept (reduce op rounds g none_ a f s) :=
  kept_issue (fun _ _ => issuesKept_ite (issuesKept_fault _) (issuesKept_done (setStrand_memOk _ _ _ (drawFree_memOk _ _ h)))) h

theorem execMxq_kept (a : Issuer) (f : FmtR) (h : s.MemOk) : Kept (execMxq a f s) :=
  kept_issue (fun _ _ => issuesKept_ite (issuesKept_fault _) (issuesKept_done (setStrand_memOk _ _ _ (drawFree_memOk _ _ h)))) h

theorem execRdsr_kept (a : Issuer) (f : FmtI) (h : s.MemOk) : Kept (execRdsr a f s) :=
  kept_issue (fun _ _ => issuesKept_ite (issuesKept_fault _) (issuesKept_done (setStrand_memOk _ _ _ (drawFree_memOk _ _ h)))) h

theorem execEndStrand_kept (a : Issuer) (f : FmtI) (h : s.MemOk) : Kept (execEndStrand a f s) :=
  kept_issue (fun _ _ => issuesKept_ite (issuesKept_fault _)
    (issuesKept_done (settleBars_memOk _ _ _ (setStrand_memOk _ _ _ h)))) h

theorem execBar_kept (a : Issuer) (f : FmtD) (h : s.MemOk) : Kept (execBar a f s) :=
  kept_issue (fun _ _ => issuesKept_ite (issuesKept_fault _)
    (issuesKept_ite (issuesKept_done (setStrand_memOk _ _ _ h))
      (issuesKept_done (settleBars_memOk _ _ _ (setStrand_memOk _ _ _ h))))) h

theorem mtxIssue_kept (op : Nat) (a : Issuer) (f : FmtD) (h : s.MemOk) : Kept (mtxIssue op a f s) := by
  refine kept_issue (fun l y => issuesKept_ite (issuesKept_fault _) ?_) h
  dsimp only
  split
  · exact issuesKept_fault _
  · split
    · exact issuesKept_fault _
    · refine issuesKept_ite (issuesKept_fault _) (issuesKept_ite (issuesKept_fault _) (issuesKept_ite (issuesKept_fault _)
        (issuesKept_ite issuesKept_stall (issuesKept_ite (issuesKept_ite (issuesKept_fault _) issuesKept_stall) (issuesKept_done ?_)))))
      exact modStrand_memOk _ _ _ (setTile_memOk _ _ _ (memOk_with h))

theorem execMatrixCommandIssue_kept (tile : Nat) (h : s.MemOk) : Kept (execMatrixCommandIssue tile s) := by
  refine kept_alive (fun u hu => ?_) h
  dsimp only
  split
  · exact hu
  · split
    · exact hu
    · refine memOk_ite (setTile_memOk _ _ _ hu) ?_
      split
      · exact hu
      · exact setTile_memOk _ _ _ hu

theorem execMatrixLastRounding_kept (tile num : Nat) (h : s.MemOk) : Kept (execMatrixLastRounding tile num s) := by
  refine kept_alive (fun u hu => ?_) h
  dsimp only
  split
  · exact hu
  · have rounded : ∀ x (y : Issuer) g, (modStrand (setTile u tile x) y g).MemOk :=
      fun x y g => modStrand_memOk _ _ _ (setTile_memOk _ _ _ hu)
    refine memOk_ite hu (memOk_ite ?_ (rounded _ _ _))
    split
    · exact loomUncorr_memOk _ _ _ _ _ _ (meetUnits_memOk _ _ _ (rounded _ _ _))
    · exact rounded _ _ _

theorem execScoreboardWriteLands_kept (tile num : Nat) (h : s.MemOk) : Kept (execScoreboardWriteLands tile num s) := by
  refine kept_alive (fun u hu => ?_) h
  dsimp only
  split
  · exact hu
  · refine memOk_ite hu ?_
    split
    · exact holdCopy_memOk _ _ _ hu
    · have landed : ∀ x w (y : Issuer) g, (modStrand (landWrite (setTile u tile x) tile w) y g).MemOk :=
        fun x w y g => modStrand_memOk _ _ _ (landWrite_memOk _ _ _ (setTile_memOk _ _ _ hu))
      refine memOk_ite ?_ (landed _ _ _ _)
      split
      · exact loomUncorr_memOk _ _ _ _ _ _ (landed _ _ _ _)
      · exact landed _ _ _ _

theorem execLdS_kept (a : Issuer) (f : FmtM) (h : s.MemOk) : Kept (execLdS a f s) := by
  refine kept_next (ldst_memOk _ _ _ _ _ _ _ _ _ (fun u l y accs hu => ?_) h)
  split
  · exact setStrand_memOk _ _ _ (touchRange_memOk _ _ _ _ _ hu)
  · exact hu

theorem execStS_kept (a : Issuer) (f : FmtM) (h : s.MemOk) : Kept (execStS a f s) := by
  refine kept_next (ldst_memOk _ _ _ _ _ _ _ _ _ (fun u l y accs hu => ?_) h)
  split
  · dsimp only
    split
    · exact putBobbinRead_memOk _ _ _ _ (setStrand_memOk _ _ _ hu)
    · exact touchRange_memOk _ _ _ _ _ (writeVia_memOk _ _ _ _ (setStrand_memOk _ _ _ hu))
  · exact hu

theorem execLdV_kept (a : Issuer) (f : FmtM) (h : s.MemOk) : Kept (execLdV a f s) :=
  kept_next (ldst_memOk _ _ _ _ _ _ _ _ _ (fun _ _ _ _ => loadVec_memOk _ _ _ _ _ _ _ _ _) h)

theorem execLdVc_kept (a : Issuer) (f : FmtM) (h : s.MemOk) : Kept (execLdVc a f s) :=
  kept_next (ldst_memOk _ _ _ _ _ _ _ _ _ (fun _ _ _ _ => loadVec_memOk _ _ _ _ _ _ _ _ _) h)

theorem execStV_kept (a : Issuer) (f : FmtM) (h : s.MemOk) : Kept (execStV a f s) :=
  kept_next (ldst_memOk _ _ _ _ _ _ _ _ _ (fun _ _ _ _ hu =>
    have stored := setStrand_memOk _ _ _ (storeVec_memOk _ _ _ _ _ hu)
    memOk_ite (raiseEvt_memOk _ _ _ _ _ _ stored) stored) h)

theorem execStVc_kept (a : Issuer) (f : FmtM) (h : s.MemOk) : Kept (execStVc a f s) :=
  kept_next (ldst_memOk _ _ _ _ _ _ _ _ _ (fun _ _ _ _ hu => setStrand_memOk _ _ _ (storeVec_memOk _ _ _ _ _ hu)) h)

theorem execStageUnitLanded_kept (tile : Nat) (v : StagedUnit) (h : s.MemOk) : Kept (execStageUnitLanded tile v s) := by
  refine kept_alive (fun u hu => ?_) h
  cases v with
  | stage strand tag => exact stageUnit_memOk _ _ _ hu
  | weft num => exact weftUnitLands_memOk _ _ _ hu

theorem execWcopyComplete_kept (a : Issuer) (tag : BitVec 16) (h : s.MemOk) : Kept (execWcopyComplete a tag s) := by
  refine kept_alive (fun u hu => ?_) h
  split
  · exact memOk_ite hu (opComplete_memOk _ _ _ _ _ _ _ (fun _ _ _ => wcopyGo_memOk _ _ _) hu)
  · exact hu

/-! ## Memory stacks, the torus and placement -/

theorem execStkReplay_kept (addrs : List Nat) (recovered : Bool) (h : s.MemOk) : Kept (execStkReplay addrs recovered s) :=
  kept_alive (fun _ => State_foldl_memOk _ (replayOne_memOk recovered) addrs _) h

theorem execLinkRetrain_kept (who : Accessor) (value : W64) (found : List LaneFinding) (h : s.MemOk) :
    Kept (execLinkRetrain who value found s) :=
  kept_alive (fun _ hu => memOk_ite (State_foldl_memOk _ (retrainDir_memOk found) _ _ hu) hu) h

theorem execDetour_kept (part : DetourPart) (h : s.MemOk) : Kept (execDetour part s) := by
  refine kept_alive (fun u hu => ?_) h
  cases part with
  | hop dir lines => exact takeDetour_memOk _ _ _ hu
  | relay dir job stage out => exact relayDetour_memOk _ _ _ _ _ hu

theorem execCollConfig_kept (session ring : Nat) (h : s.MemOk) : Kept (execCollConfig session ring s) := by
  refine kept_cfgRun (fun u c hu => ?_) h
  split
  · exact fun _ _ => collConfig_memOk _ _ _ _ _ _ _ hu
  · exact givesKept_error _

theorem execPlcIntent_kept (session ring : Nat) (h : s.MemOk) : Kept (execPlcIntent session ring s) := by
  refine kept_cfgRun (fun u c hu => ?_) h
  split
  · split
    · exact fun _ _ => applyIntent_memOk _ _ _ _ _ _ hu
    · exact givesKept_error _
  · exact givesKept_error _

theorem execPlcMapRead_kept (session ring : Nat) (h : s.MemOk) : Kept (execPlcMapRead session ring s) := by
  refine kept_cmdRun (fun u c hu => ?_) h
  split
  · exact givesKept_ite (givesKept_error _) (givesKept_ite (givesKept_error _) (givesKept_ok (hostWr_memOk _ _ _ hu)))
  · exact givesKept_error _

theorem execPlcMigCtrlWrite_kept (who : Accessor) (value : W64) (h : s.MemOk) : Kept (execPlcMigCtrlWrite who value s) :=
  kept_alive (fun _ hu => memOk_ite (migWrite_memOk _ _ hu) hu) h

/-! ## Looms and shared semaphores -/

theorem execLoomCreate_kept (session ring : Nat) (h : s.MemOk) : Kept (execLoomCreate session ring s) := by
  refine kept_cmdRun (fun u c hu => ?_) h
  split
  · exact fun _ _ => createLoom_memOk _ _ _ _ _ _ _ _ _ hu
  · exact givesKept_error _

theorem execLoomConfig_kept (session ring : Nat) (h : s.MemOk) : Kept (execLoomConfig session ring s) := by
  refine kept_cfgRun (fun u c hu => ?_) h
  split
  · exact fun _ _ => configLoom_memOk _ _ _ _ _ hu
  · exact givesKept_error _

theorem execProgLoad_kept (session ring : Nat) (image : List W64) (h : s.MemOk) : Kept (execProgLoad session ring image s) := by
  refine kept_alive (fun u hu => ?_) h
  split
  · refine memOk_ite hu (cfgRun_memOk _ _ _ _ (fun c t x hu => ?_) hu)
    exact givesKept_ite (givesKept_error _) (givesKept_ok (modLoom_memOk _ _ _ hu)) t x
  · exact hu

theorem execLoomStart_kept (session ring : Nat) (h : s.MemOk) : Kept (execLoomStart session ring s) :=
  kept_alive (fun _ hu => loomRun_memOk_of_givesKept
    (fun _ _ => givesKept_ite (givesKept_error _) (givesKept_ok (startLoom_memOk _ _ hu))) hu) h

theorem execLoomDelete_kept (session ring : Nat) (h : s.MemOk) : Kept (execLoomDelete session ring s) :=
  kept_alive (fun _ hu => loomRun_memOk_of_givesKept (fun _ _ => givesKept_ok (deleteLoom_memOk _ _ hu)) hu) h

theorem execLoomStopBoundary_kept (session ring : Nat) (h : s.MemOk) : Kept (execLoomStopBoundary session ring s) := by
  refine kept_alive (fun u hu => ?_) h
  split
  · exact loomRun_memOk_of_givesKept (fun _ _ => givesKept_ok (stopBoundary_memOk _ _ hu)) hu
  · exact hu

theorem execLoomStopCut_kept (session ring : Nat) (h : s.MemOk) : Kept (execLoomStopCut session ring s) := by
  refine kept_alive (fun u hu => ?_) h
  split
  · exact loomRun_memOk_of_givesKept (fun _ _ => givesKept_ok (stopCut_memOk _ _ hu)) hu
  · exact hu

theorem execLoomPreempt_kept (session ring : Nat) (h : s.MemOk) : Kept (execLoomPreempt session ring s) := by
  refine kept_alive (fun u hu => loomRun_memOk_of_givesKept (fun l c => ?_) hu) h
  split
  · exact givesKept_ok (preemptLoom_memOk _ _ _ hu)
  · exact givesKept_error _

theorem execLoomResume_kept (session ring : Nat) (h : s.MemOk) : Kept (execLoomResume session ring s) :=
  kept_alive (fun _ hu => loomRun_memOk_of_givesKept (fun _ _ =>
    have freed := modLoom_memOk _ _ _ hu
    givesKept_ok (memOk_ite (holderSelect_memOk _ _ freed) freed)) hu) h

theorem execHolderSelect_kept (l : Nat) (h : s.MemOk) : Kept (execHolderSelect l s) :=
  kept_alive (fun _ hu => memOk_ite hu (holderSelect_memOk _ _ hu)) h

theorem execSemCreate_kept (session ring : Nat) (h : s.MemOk) : Kept (execSemCreate session ring s) := by
  refine kept_cmdRun (fun u c hu => ?_) h
  split
  · exact fun _ _ => createSem_memOk _ _ _ _ _ _ _ hu
  · exact givesKept_error _

theorem execSemDelete_kept (session ring : Nat) (h : s.MemOk) : Kept (execSemDelete session ring s) := by
  refine kept_cmdRun (fun u c hu => ?_) h
  split
  · refine givesKept_ite (givesKept_error _) ?_
    split
    · exact givesKept_error _
    · exact givesKept_ite (givesKept_error _) (givesKept_ite (givesKept_error _) (givesKept_ok (deleteSem_memOk _ _ hu)))
  · exact givesKept_error _

/-! ## Learning, serving and sheds -/

theorem execLrnConfig_kept (session ring : Nat) (h : s.MemOk) : Kept (execLrnConfig session ring s) := by
  refine kept_cfgRun (fun u c hu => ?_) h
  split
  · exact fun _ _ => lrnConfig_memOk _ _ _ _ _ hu
  · exact givesKept_error _

theorem execLrnBind_kept (session ring : Nat) (h : s.MemOk) : Kept (execLrnBind session ring s) := by
  refine kept_cfgRun (fun u c hu => ?_) h
  split
  · exact fun _ _ => lrnBind_memOk _ _ _ _ _ hu
  · exact givesKept_error _

theorem execLrnUnbind_kept (session ring : Nat) (h : s.MemOk) : Kept (execLrnUnbind session ring s) := by
  refine kept_cfgRun (fun u c hu => ?_) h
  split
  · exact fun _ _ => lrnUnbind_memOk _ _ _ _ _ hu
  · exact givesKept_error _

theorem execSrvConfig_kept (session ring : Nat) (h : s.MemOk) : Kept (execSrvConfig session ring s) := by
  refine kept_cfgRun (fun u c hu => ?_) h
  split
  · exact fun _ _ => srvConfig_memOk _ _ _ _ _ hu
  · exact givesKept_error _

theorem execSrvSubmit_kept (session ring : Nat) (prompt : List W32) (h : s.MemOk) : Kept (execSrvSubmit session ring prompt s) := by
  refine kept_alive (fun u hu => ?_) h
  split
  · exact submit_memOk _ _ _ _ _ hu
  · exact hu

theorem execSrvCancel_kept (session ring : Nat) (h : s.MemOk) : Kept (execSrvCancel session ring s) := by
  refine kept_alive (fun u hu => ?_) h
  split
  · exact finish_memOk _ _ _ _ _ (cancelReq_memOk _ _ _ _ _ hu)
  · exact hu

theorem execSrvPfxDrop_kept (session ring : Nat) (h : s.MemOk) : Kept (execSrvPfxDrop session ring s) := by
  refine kept_cmdRun (fun u c hu => ?_) h
  split
  · exact givesKept_ite (givesKept_error _) (givesKept_ok (admitNow_memOk _ _ (evictIf_memOk _ _ _ hu)))
  · exact givesKept_error _

theorem execSrvReqConsWrite_kept (who : Accessor) (e : Nat) (value : W64) (h : s.MemOk) : Kept (execSrvReqConsWrite who e value s) :=
  kept_alive (fun _ hu => memOk_ite hu (consWrite_memOk _ _ _ hu)) h

theorem execShedWeave_kept (session ring : Nat) (h : s.MemOk) : Kept (execShedWeave session ring s) := by
  refine kept_cmdRun (fun u c hu => ?_) h
  split
  · exact fun _ _ => shedWeave_memOk _ _ _ _ _ hu
  · exact givesKept_error _

theorem execShedUnweave_kept (session ring : Nat) (h : s.MemOk) : Kept (execShedUnweave session ring s) := by
  refine kept_cmdRun (fun u c hu => ?_) h
  split
  · split
    · exact givesKept_error _
    · exact givesKept_ite (givesKept_error _) (givesKept_ite (givesKept_error _) (givesKept_ok (dissolve_memOk _ _ hu)))
  · exact givesKept_error _

theorem execPickWait_kept (k : Nat) (h : s.MemOk) : Kept (execPickWait k s) :=
  kept_alive (fun _ hu => memOk_ite (startPick_memOk _ _ hu) hu) h

/-! ## Power and clocks -/

theorem execModulePowerLoss_kept (h : s.MemOk) : Kept (execModulePowerLoss s) :=
  kept_next (memOk_ite h (modPower_memOk _ _ (coldReset_memOk _ h)))

theorem execBorrowRevert_kept (cause : BorrowCause) (h : s.MemOk) : Kept (execBorrowRevert cause s) := by
  refine kept_alive (fun u hu => ?_) h
  cases cause with
  | anchorSilent | jobStopped | lenderTimeout => exact memOk_ite (revertBorrow_memOk _ _ hu) hu

theorem execThrottleEpisodeEnd_kept (r : Nat) (h : s.MemOk) : Kept (execThrottleEpisodeEnd r s) := by
  refine kept_alive (fun u hu => ?_) h
  split
  · exact memOk_ite (modPower_memOk _ _ (modPower_memOk _ _ hu)) (modPower_memOk _ _ hu)
  · exact hu

theorem execPwrLoomHostWrite_kept (who : Accessor) (l : Nat) (value : W64) (h : s.MemOk) : Kept (execPwrLoomHostWrite who l value s) :=
  kept_alive (fun _ hu => memOk_ite hu (rebind_memOk _ (State_foldl_memOk _
    (fun _ _ hv => memOk_ite (modDie_memOk _ _ _ hv) hv) _ _ (modPower_memOk _ _ hu)))) h

theorem execCapSet_kept (watts : Nat) (h : s.MemOk) : Kept (execCapSet watts s) :=
  kept_console (fun _ hu => memOk_ite hu
    (memOk_ite (revertBorrow_memOk _ _ (modPower_memOk _ _ hu)) (modPower_memOk _ _ hu))) h

/-! ## Telemetry and the care of the module -/

theorem execTlmConfig_kept (session ring : Nat) (h : s.MemOk) : Kept (execTlmConfig session ring s) := by
  refine kept_cfgRun (fun u c hu => ?_) h
  split
  · exact fun _ _ => tlmConfig_memOk _ _ _ _ _ hu
  · exact givesKept_error _

theorem execDumpSnapshot_kept (loom : Option Nat) (busy : Bool) (h : s.MemOk) : Kept (execDumpSnapshot loom busy s) := by
  refine kept_alive (fun u hu => ?_) h
  cases loom with
  | some l => exact loomSnapshot_memOk _ _ _ hu
  | none => exact moduleSnapshot_memOk _ _ hu

theorem execTelemetryOwnerSet_kept (session : Option Nat) (h : s.MemOk) : Kept (execTelemetryOwnerSet session s) := by
  refine kept_console (fun u hu => ?_) h
  cases session with
  | none => exact modTlm_memOk _ _ hu
  | some n => exact memOk_ite (modTlm_memOk _ _ hu) hu

theorem execManagementLoss_kept (h : s.MemOk) : Kept (execManagementLoss s) :=
  kept_alive (fun _ hu => memOk_ite hu (State_foldl_memOk _
    (fun _ _ hv => memOk_ite (setLink_memOk _ _ _ hv) hv) _ _ (modSvc_memOk _ _ hu))) h

theorem execCollCntClear_kept (who : Accessor) (h : s.MemOk) : Kept (execCollCntClear who s) :=
  kept_next (memOk_ite (State_foldl_memOk _ (fun _ _ => modLoom_memOk _ _ _) _ _ (setReg_memOk _ _ _ h)) h)

theorem execCommitSvn_kept (h : s.MemOk) : Kept (execCommitSvn s) := by
  refine kept_console (fun u hu => ?_) h
  split
  · exact memOk_ite (modSvc_memOk _ _ hu) hu
  · exact hu

theorem execPldmMonitorRead_kept (sensor : Sensor) (h : s.MemOk) : Kept (execPldmMonitorRead sensor s) := by
  refine kept_next (memOk_ite h ?_)
  split
  · exact memOk_with (memOk_snd (by assumption) (sensorValue_memOk _ _ h))
  · exact memOk_snd (by assumption) (sensorValue_memOk _ _ h)

/-! ## Checkpoints -/

theorem execCkptSet_kept (session ring : Nat) (h : s.MemOk) : Kept (execCkptSet session ring s) := by
  refine kept_cfgRun (fun u c hu => ?_) h
  split
  · exact fun _ _ => ckptSet_memOk _ _ _ _ _ _ _ hu
  · exact givesKept_error _

theorem execCkptTrigger_kept (session ring : Nat) (h : s.MemOk) : Kept (execCkptTrigger session ring s) := by
  refine kept_alive (fun u hu => cmdBegin_memOk _ _ _ _ (fun c t hu e => ?_) hu) h
  split at e
  · split_ifs at e
    exact ckptTrigger_memOk _ _ _ _ _ _ _ hu e
  · cases e

theorem execCkptRestore_kept (session ring : Nat) (d : RestoreData) (h : s.MemOk) : Kept (execCkptRestore session ring d s) := by
  refine kept_alive (fun u hu => ?_) h
  split
  · refine memOk_ite hu ?_
    split
    · exact finish_memOk _ _ _ _ _ hu
    · split
      · refine cmdBegin_memOk _ _ _ _ (fun c t hu e => ?_) hu
        cases e
        exact restoreBegin_memOk _ _ _ _ _ hu
      · exact memOk_ite (finishWith_memOk _ _ _ _ _ hu) (finish_memOk _ _ _ _ _ hu)
  · exact hu

/-! ## Ports, sessions and rings -/

theorem execFunctionLevelReset_kept (io fn : Nat) (vfs : Option Nat) (h : s.MemOk) : Kept (execFunctionLevelReset io fn vfs s) :=
  kept_next (memOk_ite h (memOk_ite (setPortOf_memOk _ _ _ (closePort_memOk _ _ h)) (memOk_with (closeWhere_memOk _ _ h))))

theorem execSessClose_kept (who : Accessor) (h : s.MemOk) : Kept (execSessClose who s) := by
  refine kept_next (memOk_ite h ?_)
  split
  · exact setFn_memOk _ _ _ (closeSession_memOk _ _ h)
  · exact setFn_memOk _ _ _ h

theorem execCplHeadWrite_kept (who : Accessor) (ring : Nat) (value : W64) (h : s.MemOk) : Kept (execCplHeadWrite who ring value s) := by
  refine kept_alive (fun u hu => ?_) h
  split
  · exact hu
  · split
    · exact hu
    · exact modSession_memOk _ _ _ hu

theorem execEvtRingHeadWrite_kept (who : Accessor) (value : W64) (h : s.MemOk) : Kept (execEvtRingHeadWrite who value s) := by
  refine kept_alive (fun u hu => ?_) h
  split
  · exact hu
  · exact modSession_memOk _ _ _ hu

theorem execRingCreate_kept (session ring : Nat) (h : s.MemOk) : Kept (execRingCreate session ring s) := by
  refine kept_cmdRun (fun u c hu => ?_) h
  split
  · exact fun _ _ => createRing_memOk _ _ _ _ _ hu
  · exact givesKept_error _

theorem execRingDelete_kept (session ring : Nat) (h : s.MemOk) : Kept (execRingDelete session ring s) := by
  refine kept_alive (fun u hu => ?_) h
  split
  · split
    · exact finish_memOk _ _ _ _ _ hu
    · exact dropRing_memOk _ _ _ _ (finish_memOk _ _ _ _ _ hu)
  · exact hu

theorem execSessionClose_kept (session ring : Nat) (h : s.MemOk) : Kept (execSessionClose session ring s) := by
  refine kept_alive (fun u hu => ?_) h
  split
  · exact closeSession_memOk _ _ (finish_memOk _ _ _ _ _ hu)
  · exact hu

theorem execXferToDev_kept (session ring : Nat) (bytes : List Byte) (h : s.MemOk) : Kept (execXferToDev session ring bytes s) := by
  refine kept_alive (fun u hu => ?_) h
  split
  · exact memOk_ite hu (xferTo_memOk _ _ _ _ _ _ hu)
  · exact hu

theorem execXferFromDev_kept (session ring : Nat) (h : s.MemOk) : Kept (execXferFromDev session ring s) := by
  refine kept_alive (fun u hu => ?_) h
  split
  · exact xferFrom_memOk _ _ _ _ _ _ _ hu
  · exact hu

/-! ## The dispatch -/

/-- Every instruction and command keeps both memories in canonical form. -/
theorem exec_kept (i : Instr) (h : s.MemOk) : Kept (exec i s) := by
  cases i with
  | add _ _ | sub _ _ | mul _ _ | mulh _ _ | and_ _ _ | or_ _ _ | xor_ _ _ | shl _ _ | shr _ _ | sra _ _ | min_ _ _ | max_ _ _
  | cmpeq _ _ | cmplt _ _ | cmpltu _ _ | sel _ _ | saluFadd _ _ | saluFmul _ _ | saluFfma _ _ | addi _ _ | andi _ _ | ori _ _ | xori _ _
  | shli _ _ | shri _ _ | lui _ _ | li _ _ | vli _ _ | bra _ _ | bz _ _ | bnz _ _ | bltz _ _ | call _ _ | ret _ _ | loop_ _ _ | fadd _ _
  | fsub _ _ | fmul _ _ | ffma _ _ | fdiv _ _ | fsqrt _ _ | frsq _ _ | fexp2 _ _ | flog2 _ _ | fmin _ _ | fmax _ _ | fcmplt _ _
  | fcmpeq _ _ | iadd _ _ | isub _ _ | imul _ _ | iand _ _ | ior _ _ | ixor _ _ | icmplt _ _ | mov _ _ | bcast _ _ | pand _ _ | por _ _
  | pnot _ _ | shfl _ _ | cvt _ _ | mxdq _ _ | wait_ _ _ | waitall _ _ | fence _ _ | clrasw _ _ | nop _ _ => exact kept_issueReg h
  | ishl _ _ | ishr _ _ => exact vshift_kept _ _ _ _ h
  | redadd _ _ | redmax _ _ => exact reduce_kept _ _ _ _ _ _ h
  | mxq _ _ => exact execMxq_kept _ _ h
  | ldS _ _ => exact execLdS_kept _ _ h
  | stS _ _ => exact execStS_kept _ _ h
  | ldV _ _ => exact execLdV_kept _ _ h
  | stV _ _ => exact execStV_kept _ _ h
  | ldVc _ _ => exact execLdVc_kept _ _ h
  | stVc _ _ => exact execStVc_kept _ _ h
  | mma _ _ | fold _ _ | drain _ _ | retire_ _ _ => exact mtxIssue_kept _ _ _ h
  | matrixCommandIssue _ => exact execMatrixCommandIssue_kept _ h
  | matrixLastRounding _ _ => exact execMatrixLastRounding_kept _ _ h
  | scoreboardWriteLands _ _ => exact execScoreboardWriteLands_kept _ _ h
  | stage _ _ | wcopy _ _ => exact kept_next (asyncIssue_memOk _ _ _ _ _ _ _ _ _ _ _ _ h)
  | stageUnitLanded _ _ => exact execStageUnitLanded_kept _ _ h
  | wcopyComplete _ _ => exact execWcopyComplete_kept _ _ h
  | copy_ _ _ | gather _ _ | scatter _ _ | ebag _ _ => exact kept_next (xferIssue_memOk _ _ _ _ _ _ h)
  | xferComplete _ _ => exact kept_alive (fun _ => opComplete_memOk _ _ _ _ _ _ _ xferGo_memOk) h
  | rmtRd _ _ | rmtWr _ _ | rmtAdd _ _ => exact kept_next (rmtIssue_memOk _ _ _ _ _ h)
  | rmtRequests _ => exact kept_alive (fun _ => rmtArrive_memOk _ _) h
  | rmtResponses _ _ _ _ => exact kept_alive (fun _ => rmtBack_memOk _ _ _ _ _) h
  | rs _ _ | ag _ _ | ar _ _ | shift_ _ _ | perm _ _ | x2x _ _ => exact kept_next (collIssue_memOk _ _ _ _ _ h)
  | collComplete _ _ => exact kept_alive (fun _ => collFinish_memOk _ _ _) h
  | bar _ _ => exact execBar_kept _ _ h
  | semacq _ _ | semtry _ _ => exact kept_next (semAcquire_memOk _ _ _ _ _ h)
  | semrel _ _ => exact kept_next (semRelease_memOk _ _ _ h)
  | fact _ _ | solv _ _ | topk _ _ | normacc _ _ => exact kept_next (specIssue_memOk _ _ _ _ _ _ h)
  | specComplete _ _ => exact kept_alive (fun _ => opComplete_memOk _ _ _ _ _ _ _ (specRun_memOk _)) h
  | rdsr _ _ => exact execRdsr_kept _ _ h
  | endStrand _ _ => exact execEndStrand_kept _ _ h
  | run _ _ => exact kept_alive (fun _ => runEntry_memOk _ _ _) h
  | dobbyCommandEnd _ => exact kept_alive (fun _ => endCommand_memOk _ _) h
  | tileStoreRebuild _ _ _ => exact kept_alive (fun _ => wordFails_memOk _ _ _ _) h
  | tsThrumRebuild _ _ => exact kept_alive (fun _ => thrumFails_memOk _ _ _) h
  | scrub _ _ _ => exact kept_alive (fun _ => scrubGroup_memOk _ _ _ _) h
  | stackAccessReturn _ _ _ => exact kept_alive (fun _ => stackReturn_memOk _ _ _ _) h
  | stkReplay _ _ => exact execStkReplay_kept _ _ h
  | stackFailed _ => exact kept_alive (fun _ => stackFails_memOk _ _) h
  | flitReceive _ _ _ => exact kept_alive (fun _ => flitIn_memOk _ _ _) h
  | fabricReplayRequest _ _ => exact kept_alive (fun _ => replayFrom_memOk _ _ _) h
  | flitAcknowledge _ _ => exact kept_alive (fun _ => flitAck_memOk _ _ _) h
  | plcIntent _ _ => exact execPlcIntent_kept _ _ h
  | plcMapRead _ _ => exact execPlcMapRead_kept _ _ h
  | plcForce _ _ => exact kept_alive (fun _ => forceMap_memOk _ _ _) h
  | rowAgentAccess _ => exact kept_alive (fun _ => agentAccess_memOk _ _) h
  | migrationEpochEnd => exact kept_alive (fun _ => epochEnd_memOk _) h
  | homeDataLands _ _ _ _ => exact kept_alive (fun _ => homeLands_memOk _ _ _ _ _) h
  | homeWriteAccepted _ _ _ => exact kept_alive (fun _ => homeAccepts_memOk _ _ _ _) h
  | plcMigCtrlWrite _ _ => exact execPlcMigCtrlWrite_kept _ _ h
  | loomCreate _ _ => exact execLoomCreate_kept _ _ h
  | loomConfig _ _ => exact execLoomConfig_kept _ _ h
  | progLoad _ _ _ => exact execProgLoad_kept _ _ _ h
  | loomStart _ _ => exact execLoomStart_kept _ _ h
  | loomStopBoundary _ _ => exact execLoomStopBoundary_kept _ _ h
  | loomStopCut _ _ => exact execLoomStopCut_kept _ _ h
  | loomPreempt _ _ => exact execLoomPreempt_kept _ _ h
  | loomResume _ _ => exact execLoomResume_kept _ _ h
  | loomDelete _ _ => exact execLoomDelete_kept _ _ h
  | semCreate _ _ => exact execSemCreate_kept _ _ h
  | semDelete _ _ => exact execSemDelete_kept _ _ h
  | holderSelect _ => exact execHolderSelect_kept _ h
  | softWaitExpiry _ => exact kept_alive (fun _ => softExpiry_memOk _ _) h
  | preemptGraceExpiry _ => exact kept_alive (fun _ => graceExpiry_memOk _ _) h
  | saveImageWritten _ _ => exact kept_alive (fun _ => saveImage_memOk _ _ _) h
  | restoreComplete _ _ => exact kept_alive (fun _ => restoreDone_memOk _ _ _) h
  | loomStopped _ => exact kept_alive (fun _ => loomStopped_memOk _ _) h
  | linkCoordCheck _ _ => exact kept_alive (fun _ => coordCheck_memOk _ _ _) h
  | linkFlit _ _ _ => exact kept_alive (fun _ => linkFlitIn_memOk _ _ _ _) h
  | linkReplay _ _ => exact kept_alive (fun _ => linkReplayFrom_memOk _ _ _) h
  | laneDrop _ _ => exact kept_alive (fun _ => dropLane_memOk _ _ _) h
  | linkRetrain _ _ _ => exact execLinkRetrain_kept _ _ _ h
  | detour _ => exact execDetour_kept _ h
  | orderChange _ _ _ => exact kept_alive (fun _ => orderChange_memOk _ _ _ _ _) h
  | splitTorus _ _ => exact kept_alive (fun _ => splitJob_memOk _ _ _) h
  | collConfig _ _ => exact execCollConfig_kept _ _ h
  | partialFrame _ _ _ | finalFrame _ _ | contribFrame _ _ | moveFrame _ _ | countsFrame _ _ | scalarFrame _ _ =>
    exact kept_alive (fun _ => frameIn_memOk _ _ _ _ _) h
  | replayReqFrame _ _ => exact kept_alive (fun _ => replayReq_memOk _ _ _) h
  | ackFrame _ _ => exact kept_alive (fun _ => ackIn_memOk _ _ _) h
  | abortFrame _ _ => exact kept_alive (fun _ => abortIn_memOk _ _ _) h
  | adderSelftest _ _ _ => exact kept_alive (fun _ => adderTest_memOk _ _ _ _) h
  | lrnConfig _ _ => exact execLrnConfig_kept _ _ h
  | lrnBind _ _ => exact execLrnBind_kept _ _ h
  | lrnUnbind _ _ => exact execLrnUnbind_kept _ _ h
  | srvConfig _ _ => exact execSrvConfig_kept _ _ h
  | srvSubmit _ _ _ => exact execSrvSubmit_kept _ _ _ h
  | srvCancel _ _ => exact execSrvCancel_kept _ _ h
  | srvPfxDrop _ _ => exact execSrvPfxDrop_kept _ _ h
  | batchStepForm _ => exact kept_alive (fun _ hu => formStep_memOk _ _ (commitAll_memOk _ _ hu)) h
  | deadline _ => exact kept_alive (fun _ => expire_memOk _ _) h
  | srvReqConsWrite _ _ _ => exact execSrvReqConsWrite_kept _ _ _ h
  | shedWeave _ _ => exact execShedWeave_kept _ _ h
  | shedUnweave _ _ => exact execShedUnweave_kept _ _ h
  | pickWait _ => exact execPickWait_kept _ h
  | sourceBlockCopy _ _ => exact kept_alive (fun _ => copyBlock_memOk _ _ _) h
  | pickCopied _ => exact kept_alive (fun _ => pickCopied_memOk _ _) h
  | inputGood _ _ => exact kept_next (goodInput_memOk _ _ _ h)
  | inputLost _ _ => exact kept_next (lostInput_memOk _ _ _ h)
  | inputOvervolt _ _ => exact kept_next (memOk_ite h (outInput_memOk _ _ _ _ _ h))
  | inputShort _ | inputReversed _ => exact kept_next (outInput_memOk _ _ _ _ _ h)
  | senseOpen _ => exact kept_next (memOk_ite h (raiseEvt_memOk _ _ _ _ _ _ (setInput_memOk _ _ _ h)))
  | senseRestore _ => exact kept_next (setInput_memOk _ _ _ h)
  | backupConduction _ _ | pllLock => exact kept_next (memOk_ite h (modPower_memOk _ _ h))
  | supplySwitchEnd => exact kept_next (memOk_ite (limitDies_memOk _ _ _ _ (modPower_memOk _ _ h)) h)
  | autoReturn => exact kept_next (memOk_ite h (supplyLimit_memOk _ (modPower_memOk _ _ h)))
  | modulePowerLoss => exact execModulePowerLoss_kept h
  | powerControlTick _ => exact kept_alive (fun _ => powerTick_memOk _ _) h
  | diePowerLoop _ _ => exact kept_alive (fun _ => diePower_memOk _ _ _) h
  | budgetReport _ _ => exact kept_alive (fun _ => budgetReport_memOk _ _ _) h
  | borrowRelease _ => exact kept_alive (fun _ hu => memOk_ite (revertBorrow_memOk _ _ hu) hu) h
  | borrowRevert _ => exact execBorrowRevert_kept _ h
  | railSetpointReached _ => exact kept_alive (fun _ hu => memOk_ite (rebind_memOk _ (modDie_memOk _ _ _ hu)) hu) h
  | railFallDelay _ => exact kept_alive (fun _ hu => memOk_ite (modDie_memOk _ _ _ hu) hu) h
  | droop _ => exact kept_alive (fun _ => limitDies_memOk _ _ _ _) h
  | droopRecovery _ _ => exact kept_alive (fun _ hu => memOk_ite hu (limitDies_memOk _ _ _ _ hu)) h
  | thermalLimitTick _ _ => exact kept_alive (fun _ => junction_memOk _ _ _ _) h
  | thermalTrip _ _ => exact kept_next (memOk_ite h (junction_memOk _ _ _ _ h))
  | throttleEpisodeEnd _ => exact execThrottleEpisodeEnd_kept _ h
  | pwrLoomHostWrite _ _ _ => exact execPwrLoomHostWrite_kept _ _ _ h
  | refclkLost | refclkRestored => exact kept_next (memOk_ite h (raiseEvt_memOk _ _ _ _ _ _ (modPower_memOk _ _ h)))
  | tlmConfig _ _ => exact execTlmConfig_kept _ _ h
  | tlmRun _ _ => exact kept_alive (fun _ hu => memOk_ite (modCtrlWrite_memOk _ _ hu) (memOk_ite (cfgReject_memOk _ hu) hu)) h
  | tlmDieCfgWrite _ _ _ => exact kept_alive (fun _ => dieCfgWrite_memOk _ _ _ _) h
  | cntOvf _ _ _ => exact kept_alive (fun _ => cntOvf_memOk _ _ _ _) h
  | sampleOverflow _ _ _ _ _ => exact kept_alive (fun _ => sampleOverflow_memOk _ _ _ _ _ _) h
  | sampleRecord _ _ _ => exact kept_alive (fun _ => sampleRecord_memOk _ _ _ _) h
  | dumpSnapshot _ _ => exact execDumpSnapshot_kept _ _ h
  | ppsEdge _ _ => exact kept_alive (fun _ => ppsEdge_memOk _ _ _) h
  | ppsLost => exact kept_alive (fun _ => losePps_memOk _) h
  | ppsShort | ppsOpen => exact kept_alive (fun _ hu => memOk_ite hu (losePps_memOk _ (raiseEvt_memOk _ _ _ _ _ _ (modTlm_memOk _ _ hu)))) h
  | ppsFaultClear _ | ppsInvert => exact kept_alive (fun _ => modTlm_memOk _ _) h
  | svcFailover =>
    exact kept_alive (fun _ hu => memOk_ite hu (noteCause_memOk _ _ _ _ _ (raiseEvt_memOk _ _ _ _ _ _ (modSvc_memOk _ _ hu)))) h
  | managementLoss => exact execManagementLoss_kept h
  | baySelftest _ _ => exact kept_alive (fun _ => baySelftest_memOk _ _ _) h
  | bayTestComplete _ _ => exact kept_alive (fun _ => bayTestComplete_memOk _ _ _) h
  | advisoryMinuteTick => exact kept_alive (fun _ => modSvc_memOk _ _) h
  | ckptSet _ _ => exact execCkptSet_kept _ _ h
  | ckptTrigger _ _ => exact execCkptTrigger_kept _ _ h
  | ckptStarted _ _ _ => exact kept_alive (fun _ => ckptStarted_memOk _ _ _ _) h
  | ckptDone _ => exact kept_alive (fun _ => ckptDone_memOk _ _) h
  | ckptReport _ _ _ _ => exact kept_alive (fun _ => ckptReport_memOk _ _ _ _ _) h
  | ckptRestore _ _ _ => exact execCkptRestore_kept _ _ _ h
  | restoreReport _ _ _ _ _ => exact kept_alive (fun _ => restoreReport_memOk _ _ _ _ _ _) h
  | restoreRelease _ => exact kept_alive (fun _ => restoreRelease_memOk _ _) h
  | perst _ => exact kept_next (memOk_ite h (setPortOf_memOk _ _ _ (closePort_memOk _ _ h)))
  | functionLevelReset _ _ _ => exact execFunctionLevelReset_kept _ _ _ h
  | portDown _ => exact kept_next (memOk_ite (raiseEvt_memOk _ _ _ _ _ _ (closePort_memOk _ _ (setPortOf_memOk _ _ _ h))) h)
  | challenge _ _ => exact kept_next (memOk_ite h (setFn_memOk _ _ _ (drawFree_memOk _ _ h)))
  | respond _ _ => exact kept_next (respond_memOk _ _ _ h)
  | sessClose _ => exact execSessClose_kept _ h
  | challengeExpiry _ => exact kept_alive (fun _ hu => memOk_ite hu (setFn_memOk _ _ _ hu)) h
  | authLockExpiry _ => exact kept_alive (fun _ hu => memOk_ite (setSlot_memOk _ _ _ hu) hu) h
  | cmdDoorbell _ _ _ => exact kept_alive (fun _ => doorbell_memOk _ _ _ _) h
  | commandFetch _ _ _ => exact kept_alive (fun _ => fetch_memOk _ _ _ _) h
  | cplHeadWrite _ _ _ => exact execCplHeadWrite_kept _ _ _ h
  | evtRingHeadWrite _ _ => exact execEvtRingHeadWrite_kept _ _ h
  | msixModeration _ _ _ => exact kept_alive (fun _ => moderate_memOk _ _ _ _) h
  | ringCreate _ _ => exact execRingCreate_kept _ _ h
  | ringDelete _ _ => exact execRingDelete_kept _ _ h
  | sessionClose _ _ => exact execSessionClose_kept _ _ h
  | xferToDev _ _ _ => exact execXferToDev_kept _ _ _ h
  | xferFromDev _ _ => exact execXferFromDev_kept _ _ h
  | consoleSetup _ _ => exact kept_next (memOk_ite (putPassword_memOk _ _ _ h) h)
  | consoleLogin _ => exact kept_next (login_memOk _ _ h)
  | consoleLogout => exact kept_console (fun _ => modConsole_memOk _ _) h
  | consoleLoginTimeout => exact kept_alive (fun _ => modConsole_memOk _ _) h
  | consoleLockExpiry => exact kept_alive (fun _ hu => memOk_ite (modConsole_memOk _ _ hu) hu) h
  | keySlotWrite _ _ => exact kept_consoleRun (fun _ => keySlotWrite_memOk _ _ _) h
  | passwordChange _ _ => exact kept_consoleRun (fun _ hu => memOk_ite (putPassword_memOk _ _ _ hu) hu) h
  | capSet _ => exact execCapSet_kept _ h
  | pwrCtrlSet _ _ _ _ => exact kept_console (fun _ hu => memOk_ite hu (modPower_memOk _ _ hu)) h
  | telemetryOwnerSet _ => exact execTelemetryOwnerSet_kept _ h
  | timebaseSet _ _ _ => exact kept_console (fun _ => timebaseSet_memOk _ _ _ _) h
  | advisoryThresholdSet _ _ | selftestPeriodSet _ _ => exact kept_console (fun _ hu => memOk_ite hu (modSvc_memOk _ _ hu)) h
  | coordinateSet _ => exact kept_consoleRun (fun _ hu => memOk_ite (modSvc_memOk _ _ hu) hu) h
  | testMode _ => exact kept_consoleRun (fun _ hu => memOk_ite hu (modSvc_memOk _ _ hu)) h
  | commitSvn => exact execCommitSvn_kept h
  | firmwareUpdate _ => exact kept_next (firmwareUpdate_memOk _ _ h)
  | pldmMonitorRead _ => exact execPldmMonitorRead_kept _ h
  | pldmFruRead => exact kept_next (memOk_ite h (memOk_with h))
  | bootFallback => exact kept_alive (fun _ => bootFallback_memOk _) h
  | startUp _ => exact kept_next (startUp_memOk _ _ h)
  | moduleReset => exact kept_next (coldReset_memOk _ h)
  | auxOverload _ _ => exact kept_next (memOk_ite h (dropPort_memOk _ _ _ (modSvc_memOk _ _ h)))
  | auxRetry _ _ _ => exact kept_next (memOk_ite (modSvc_memOk _ _ h) h)
  | linkPortPresence _ _ _ => exact kept_next (memOk_ite h (memOk_ite (modSvc_memOk _ _ h) (dropPort_memOk _ _ _ (modSvc_memOk _ _ h))))
  | clearStk _ | clearTs _ | fabCntClear _ | linkCntClear _ => exact kept_next (clearCounters_memOk _ _ _ h)
  | collCntClear _ => exact execCollCntClear_kept _ h
  | rcRegisterRead _ _ _ => exact kept_next (regRead_memOk _ _ _ _ h)
  | registerWrite _ _ _ _ => exact kept_next (regWrite_memOk _ _ _ _ _ h)
  | junctionLimit _ _ => exact kept_alive (fun _ hu => memOk_ite hu (junction_memOk _ _ _ _ hu)) h
  | hostLinkUp _ _ _ _ => exact kept_next (memOk_ite h (setPortOf_memOk _ _ _ h))
  | sdaStuckLow => exact kept_next (modSvc_memOk _ _ h)

/-- A step runs the front command on the queue's rest, or the module works on by itself. -/
theorem step_kept (h : s.MemOk) : Kept (step s) := by
  unfold step
  split
  · exact kept_next (idle_memOk s h)
  · exact exec_kept _ (memOk_with h)

end

/-- Settles O60: every arm of the dispatch answers through operations that each keep the form. -/
theorem memoryKept : Obligations.MemoryKept := fun _ t h => step_kept h t

end Sys2Proof.Machine
end

section
/-! SUPPORT. Stored words of the tile stores (R171 to R173): a data word after a write, the parity of 33 bits, the XOR of a group's words, and what
a snapshot finds wrong. With it the first claim about memory errors. -/
namespace Sys2Proof.Machine
open Sys2Proof

/-! ## Data words -/

theorem memGetN_memSetN (m : List Host.Cell) (a : Nat) (bs : List Byte) : memGetN (memSetN m a bs) a bs.length = bs := by
  rw [memGetN_eq_map]
  refine List.ext_getElem (by simp) fun i hi _ => ?_
  have hlt : i < bs.length := by simpa using hi
  simp [memGet_memSetN, hlt]

/-- Bytes that are written as they stand change no byte. -/
theorem memGet_memSetN_memGetN (m : List Host.Cell) (a n k : Nat) : memGet (memSetN m a (memGetN m a n)) k = memGet m k := by
  have hlen : (memGetN m a n).length = n := by simp [memGetN_eq_map]
  rw [memGet_memSetN, hlen]
  split
  · rename_i hk
    rw [memGetN_eq_map, List.getD_eq_getElem _ _ (by simp; omega)]
    simp [show a + (k - a) = k by omega]
  · rfl

theorem memGetN_memSetN_of_disjoint (m : List Host.Cell) (a b n : Nat) (bs : List Byte) (h : a + n ≤ b ∨ b + bs.length ≤ a) :
    memGetN (memSetN m b bs) a n = memGetN m a n := by
  rw [memGetN_eq_map, memGetN_eq_map]
  refine List.map_congr_left fun i hi => memGet_outside _ _ _ _ ?_
  have := List.mem_range.mp hi
  omega

theorem dataWord_wr_same (s : State) (tile w : Nat) (v : W32) : dataWord (wr s (tileAddr tile (4 * w)) 4 v.toNat) tile w = v := by
  have hread : memGetN (memSetN s.mem (tileAddr tile (4 * w)) (toLe 4 v.toNat)) (tileAddr tile (4 * w)) 4 = toLe 4 v.toNat := by
    simpa using memGetN_memSetN s.mem (tileAddr tile (4 * w)) (toLe 4 v.toNat)
  rw [dataWord, rd, wr_mem, hread, leNat_toLe]
  exact BitVec.eq_of_toNat_eq (by simpa using v.isLt)

theorem dataWord_wr_of_ne (s : State) (tile : Nat) {w k : Nat} (v : W32) (h : k ≠ w) :
    dataWord (wr s (tileAddr tile (4 * w)) 4 v.toNat) tile k = dataWord s tile k := by
  have hread : memGetN (memSetN s.mem (tileAddr tile (4 * w)) (toLe 4 v.toNat)) (tileAddr tile (4 * k)) 4 = memGetN s.mem (tileAddr tile (4 * k)) 4 :=
    memGetN_memSetN_of_disjoint _ _ _ _ _ (by simp only [toLe_length, tileAddr]; omega)
  simp [dataWord, rd, hread]

/-- A data word written as it stands changes no byte. -/
theorem memGet_wr_dataWord (s : State) (tile w a : Nat) :
    memGet (wr s (tileAddr tile (4 * w)) 4 (dataWord s tile w).toNat).mem a = memGet s.mem a := by
  have hlen : (memGetN s.mem (tileAddr tile (4 * w)) 4).length = 4 := by simp [memGetN_eq_map]
  have hword : (dataWord s tile w).toNat = leNat (memGetN s.mem (tileAddr tile (4 * w)) 4) := by
    have hlt := leNat_lt (memGetN s.mem (tileAddr tile (4 * w)) 4)
    rw [hlen] at hlt
    exact (BitVec.toNat_ofNat _ _).trans (Nat.mod_eq_of_lt hlt)
  have hbytes := toLe_leNat (memGetN s.mem (tileAddr tile (4 * w)) 4)
  rw [hlen] at hbytes
  rw [wr_mem, hword, hbytes, memGet_memSetN_memGetN]

/-! ## Groups (R172) -/

theorem mem_groupWords {g w : Nat} : w ∈ groupWords g ↔ w / 63 = g ∧ w < tsWords := by
  simp only [groupWords, List.mem_filter, List.mem_map, List.mem_range, decide_eq_true_eq]
  refine and_congr_left fun _ => ⟨?_, fun h => ⟨w % 63, Nat.mod_lt _ (by decide), by omega⟩⟩
  rintro ⟨i, hi, rfl⟩
  omega

theorem groupWords_nodup (g : Nat) : (groupWords g).Nodup :=
  (List.nodup_range.map fun _ _ h => Nat.add_left_cancel h).filter _

theorem length_groupWords (g : Nat) : (groupWords g).length = if g < 29127 then 63 else if g = 29127 then 7 else 0 := by
  split
  · rw [groupWords, List.filter_eq_self.mpr, List.length_map, List.length_range]
    intro w hw
    obtain ⟨i, hi, rfl⟩ := List.mem_map.mp hw
    have := List.mem_range.mp hi
    exact decide_eq_true (show 63 * g + i < 1835008 by omega)
  · split
    · subst g
      decide
    · refine List.length_eq_zero_iff.mpr (List.eq_nil_iff_forall_not_mem.mpr fun w hw => ?_)
      have := mem_groupWords.mp hw
      simp only [tsWords] at this
      omega

/-! ## The XOR of some words -/

/-- The XOR of a value for each of some words. -/
def xorOf (f : Nat → W32) (ws : List Nat) : W32 := ws.foldl (fun x w => x ^^^ f w) 0

theorem thrumWord_eq (s : State) (tile g : Nat) : thrumWord s tile g = xorOf (dataWord s tile) (groupWords g) := rfl

theorem xorOf_cons (f : Nat → W32) (w : Nat) (ws : List Nat) : xorOf f (w :: ws) = f w ^^^ xorOf f ws := by
  have shift : ∀ (ws : List Nat) (x : W32), ws.foldl (fun x w => x ^^^ f w) x = x ^^^ xorOf f ws := by
    intro ws
    induction ws with
    | nil => intro x; simp [xorOf]
    | cons k ks ih =>
      intro x
      rw [xorOf, List.foldl_cons, List.foldl_cons, ih, ih (0 ^^^ f k), BitVec.xor_assoc]
      simp
  rw [xorOf, List.foldl_cons, shift]
  simp

theorem xorOf_congr {f g : Nat → W32} {ws : List Nat} (h : ∀ w ∈ ws, f w = g w) : xorOf f ws = xorOf g ws := by
  induction ws with
  | nil => rfl
  | cons w ws ih => rw [xorOf_cons, xorOf_cons, h w List.mem_cons_self, ih fun k hk => h k (List.mem_cons_of_mem _ hk)]

theorem xorOf_filter_ne (f : Nat → W32) {w : Nat} {ws : List Nat} (hd : ws.Nodup) (hw : w ∈ ws) :
    xorOf f ws = f w ^^^ xorOf f (ws.filter (· ≠ w)) := by
  induction ws with
  | nil => cases hw
  | cons k ks ih =>
    obtain ⟨hk, hks⟩ := List.nodup_cons.mp hd
    by_cases hkw : k = w
    · subst hkw
      rw [xorOf_cons, List.filter_cons_of_neg (by simp), List.filter_eq_self.mpr]
      intro j hj
      have : j ≠ k := fun e => hk (e ▸ hj)
      simpa using this
    · have hmem := (List.mem_cons.mp hw).resolve_left (Ne.symm hkw)
      rw [List.filter_cons_of_pos (by simpa using hkw), xorOf_cons, xorOf_cons, ih hks hmem, ← BitVec.xor_assoc, ← BitVec.xor_assoc,
        BitVec.xor_comm (f k)]

/-- One value that changes changes the XOR by the old and the new (R173). -/
theorem xorOf_change {f g : Nat → W32} {w : Nat} {ws : List Nat} (hd : ws.Nodup) (hw : w ∈ ws) (h : ∀ k ∈ ws, k ≠ w → g k = f k) :
    xorOf g ws = xorOf f ws ^^^ f w ^^^ g w := by
  have hrest : xorOf g (ws.filter (· ≠ w)) = xorOf f (ws.filter (· ≠ w)) := xorOf_congr fun k hk => by
    obtain ⟨hk, hne⟩ := List.mem_filter.mp hk
    exact h k hk (by simpa using hne)
  rw [xorOf_filter_ne f hd hw, xorOf_filter_ne g hd hw, hrest, BitVec.xor_comm (f w), BitVec.xor_assoc (xorOf f _), BitVec.xor_self,
    BitVec.xor_zero, BitVec.xor_comm]

theorem thrumWords : ThrumWords := by
  intro s tile w v _ hw
  refine ⟨length_groupWords, ?_, fun g hg => xorOf_congr fun k hk => dataWord_wr_of_ne s tile v ?_⟩
  · rw [thrumWord_eq, thrumWord_eq, xorOf_change (groupWords_nodup _) (mem_groupWords.mpr ⟨rfl, hw⟩)
      fun k _ hk => dataWord_wr_of_ne s tile v hk, dataWord_wr_same]
  · rintro rfl
    exact hg (mem_groupWords.mp hk).1.symm

/-! ## Parity (R171) -/

theorem odd_length_filter_xor (p q : Nat → Bool) (l : List Nat) :
    decide ((l.filter fun i => p i ^^ q i).length % 2 = 1) = (decide ((l.filter p).length % 2 = 1) ^^ decide ((l.filter q).length % 2 = 1)) := by
  induction l with
  | nil => rfl
  | cons i l ih =>
    have flip : ∀ n : Nat, decide ((n + 1) % 2 = 1) = !decide (n % 2 = 1) := fun n => by
      rw [← decide_not, decide_eq_decide]
      omega
    cases hp : p i <;> cases hq : q i <;> simp [hp, hq, flip, ih]

theorem failsParity_xor (a b : BitVec 33) : failsParity (a ^^^ b) = (failsParity a ^^ failsParity b) := by
  simp only [failsParity, BitVec.getLsbD_xor]
  exact odd_length_filter_xor _ _ _

theorem failsParity_one : failsParity 1 = true := by decide

/-- The parity bit alone. -/
theorem failsParity_parityBit : failsParity 0x100000000 = true := by decide

theorem withParity_eq (w : W32) : withParity w = w.setWidth 33 ^^^ (if failsParity (w.setWidth 33) then 0x100000000 else 0) := by
  unfold withParity
  split
  · refine BitVec.eq_of_getLsbD_eq fun i hi => ?_
    have hbit : (0x100000000 : BitVec 33).getLsbD i = decide (i = 32) := by
      interval_cases i <;> rfl
    simp only [BitVec.getLsbD_or, BitVec.getLsbD_xor, hbit, BitVec.getLsbD_setWidth]
    by_cases h : i = 32 <;> simp [h]
  · simp

theorem failsParity_withParity (w : W32) : failsParity (withParity w) = false := by
  rw [withParity_eq, failsParity_xor]
  cases h : failsParity (w.setWidth 33)
  · decide
  · rw [if_pos rfl, failsParity_parityBit]
    rfl

theorem setWidth_withParity (w : W32) : (withParity w).setWidth 32 = w := by
  rw [withParity_eq, BitVec.setWidth_xor, BitVec.setWidth_setWidth_of_le _ (by decide), BitVec.setWidth_eq]
  split <;> simp

/-! ## Stored words -/

/-- The bits that are wrong in a data word, and in a thrum word. -/
def wordFlips (s : State) (tile w : Nat) : BitVec 33 := tget 0 s.faults.tsFlips (tile * 2 ^ 21 + w)
def thrumFlips (s : State) (tile g : Nat) : BitVec 33 := tget 0 s.faults.thrumFlips (tile * 2 ^ 15 + g)

theorem failsParity_storedWord (s : State) (tile w : Nat) : failsParity (storedWord s tile w) = failsParity (wordFlips s tile w) := by
  rw [storedWord, failsParity_xor, failsParity_withParity, Bool.false_xor, wordFlips]

theorem failsParity_storedThrum (s : State) (tile g : Nat) : failsParity (storedThrum s tile g) = failsParity (thrumFlips s tile g) := by
  rw [storedThrum, failsParity_xor, failsParity_withParity, Bool.false_xor, thrumFlips]

theorem setWidth_storedWord (s : State) (tile w : Nat) :
    (storedWord s tile w).setWidth 32 = dataWord s tile w ^^^ (wordFlips s tile w).setWidth 32 := by
  rw [storedWord, BitVec.setWidth_xor, setWidth_withParity, wordFlips]

theorem setWidth_storedThrum (s : State) (tile g : Nat) :
    (storedThrum s tile g).setWidth 32 = thrumWord s tile g ^^^ (thrumFlips s tile g).setWidth 32 := by
  rw [storedThrum, BitVec.setWidth_xor, setWidth_withParity, thrumFlips]

theorem mem_failingWords {s : State} {tile g w : Nat} : w ∈ failingWords s tile g ↔ w ∈ groupWords g ∧ failsParity (wordFlips s tile w) = true := by
  rw [failingWords, List.mem_filter, failsParity_storedWord]

theorem wordFlips_flipWord (s : State) (tile w k : Nat) (e : BitVec 33) :
    wordFlips (flipWord s tile w e) tile k = if w = k then e else wordFlips s tile k := by
  simp [wordFlips, flipWord]

theorem thrumFlips_flipThrum (s : State) (tile g : Nat) (e : BitVec 33) : thrumFlips (flipThrum s tile g e) tile g = e := by
  simp [thrumFlips, flipThrum]

/-- When one word of a group fails, a snapshot's XOR of the others with the sound thrum word is the word as written (R174). -/
theorem corrected_eq {s : State} {tile w : Nat} (hw : w < tsWords) (hf : ∀ k ∈ groupWords (w / 63), k ≠ w → wordFlips s tile k = 0)
    (ht : thrumFlips s tile (w / 63) = 0) : corrected s tile w = dataWord s tile w := by
  have hothers : xorOf (fun v => (storedWord s tile v).setWidth 32) ((groupWords (w / 63)).filter (· ≠ w)) =
      xorOf (dataWord s tile) ((groupWords (w / 63)).filter (· ≠ w)) := xorOf_congr fun k hk => by
    obtain ⟨hk, hne⟩ := List.mem_filter.mp hk
    rw [setWidth_storedWord, hf k hk (by simpa using hne)]
    simp
  change (storedThrum s tile (w / 63)).setWidth 32 ^^^ xorOf (fun v => (storedWord s tile v).setWidth 32) _ = _
  rw [hothers, setWidth_storedThrum, ht, thrumWord_eq, xorOf_filter_ne _ (groupWords_nodup _) (mem_groupWords.mpr ⟨rfl, hw⟩)]
  simp

/-- Bits of one word that are wrong below its parity bit, and no other: the thrum word tells (R177). -/
theorem thrumDiffers_of_one {s : State} {tile g w : Nat} (hw : w ∈ groupWords g) (hf : ∀ k ∈ groupWords g, k ≠ w → wordFlips s tile k = 0)
    (ht : thrumFlips s tile g = 0) (he : (wordFlips s tile w).setWidth 32 ≠ 0) : thrumDiffers s tile g = true := by
  have hxor : xorOf (fun v => (storedWord s tile v).setWidth 32) (groupWords g) = thrumWord s tile g ^^^ (wordFlips s tile w).setWidth 32 := by
    rw [xorOf_change (f := dataWord s tile) (groupWords_nodup g) hw, setWidth_storedWord, thrumWord_eq, BitVec.xor_assoc,
      ← BitVec.xor_assoc (dataWord s tile w), BitVec.xor_self, BitVec.zero_xor]
    intro k hk hne
    rw [setWidth_storedWord, hf k hk hne]
    simp
  change decide (xorOf (fun v => (storedWord s tile v).setWidth 32) (groupWords g) ≠ (storedThrum s tile g).setWidth 32) = true
  rw [hxor, setWidth_storedThrum, ht, decide_eq_true_eq]
  intro h
  refine he (BitVec.xor_right_inj (thrumWord s tile g) |>.mp ?_)
  simpa using h

/-! ## Which bits turn -/

theorem failsParity_oddBits (k : Nat) : failsParity (oddBits k) = true := by
  unfold oddBits
  dsimp only
  split
  · assumption
  · rename_i h
    rw [failsParity_xor, failsParity_one, Bool.eq_false_iff.mpr h]
    rfl

theorem failsParity_evenBits (k : Nat) : failsParity (evenBits k) = false := by
  unfold evenBits
  dsimp only
  split
  · decide
  · rw [failsParity_xor, failsParity_oddBits, failsParity_one]
    rfl

theorem evenBits_ne_zero (k : Nat) : evenBits k ≠ 0 := by
  unfold evenBits
  dsimp only
  split
  · decide
  · assumption

/-- An even number of turned bits is not the parity bit alone. -/
theorem setWidth_evenBits_ne_zero (k : Nat) : (evenBits k).setWidth 32 ≠ 0 := by
  intro h
  have hlow : (evenBits k).toNat % 2 ^ 32 = 0 := by simpa using congrArg BitVec.toNat h
  have hlt := (evenBits k).isLt
  have hne : (evenBits k).toNat ≠ 0 := fun e => evenBits_ne_zero k (BitVec.eq_of_toNat_eq e)
  have hbit : evenBits k = 0x100000000 := BitVec.eq_of_toNat_eq (show _ = 2 ^ 32 by omega)
  have := failsParity_evenBits k
  rw [hbit, failsParity_parityBit] at this
  cases this

end Sys2Proof.Machine
end


section
/-! SUPPORT. What the end of a loom that is FAULTED leaves (Table 7-3, R174, R177): the poison of the tile stores and of the stacks, the state of every
other loom, and the registers of the memory. One lemma for each operation, in the order in which they call one another. -/
namespace Sys2Proof.Machine
open Sys2Proof

/-- From s to t the wrong bits, the poison and the replays of the memories stay, every loom keeps its state, and the registers of the
memories are as they were. -/
structure KeepsErrors (s t : State) : Prop where
  faults : ∃ c, t.faults = { s.faults with corrected := c }
  st : ∀ l, (getLoom t l).st = (getLoom s l).st
  regs : ∀ o, 0x00A00000 ≤ o → o < 0x00B00000 → o % 0x40 ≠ 0x28 → getReg t o = getReg s o

namespace KeepsErrors
variable {s t u : State} {α : Type}

theorem refl (s : State) : KeepsErrors s s := ⟨⟨_, rfl⟩, fun _ => rfl, fun _ _ _ _ => rfl⟩

theorem trans (h : KeepsErrors s t) (k : KeepsErrors t u) : KeepsErrors s u := by
  obtain ⟨c, hc⟩ := h.faults
  obtain ⟨d, hd⟩ := k.faults
  exact ⟨⟨d, by rw [hd, hc]⟩, fun l => (k.st l).trans (h.st l), fun o h1 h2 h3 => (k.regs o h1 h2 h3).trans (h.regs o h1 h2 h3)⟩

/-- What touches none of the three. -/
theorem same (h : KeepsErrors s t) (hf : u.faults = t.faults) (hl : u.looms = t.looms) (hr : u.regs = t.regs) : KeepsErrors s u :=
  h.trans ⟨⟨_, hf⟩, fun l => by rw [getLoom, hl]; rfl, fun o _ _ _ => by rw [getReg, hr]; rfl⟩

theorem foldl {g : State → α → State} (hg : ∀ u x, KeepsErrors s u → KeepsErrors s (g u x)) (l : List α) (h : KeepsErrors s t) :
    KeepsErrors s (l.foldl g t) := List.foldlRecOn l g h fun u hu x _ => hg u x hu

theorem ite {c : Prop} [Decidable c] (ht : KeepsErrors s t) (hu : KeepsErrors s u) : KeepsErrors s (if c then t else u) := by
  split
  · exact ht
  · exact hu

theorem poisoned (h : KeepsErrors s t) : t.faults.poisoned = s.faults.poisoned := by
  obtain ⟨c, hc⟩ := h.faults
  rw [hc]

theorem poisonedGroups (h : KeepsErrors s t) : t.faults.poisonedGroups = s.faults.poisonedGroups := by
  obtain ⟨c, hc⟩ := h.faults
  rw [hc]

end KeepsErrors

/-! ## Events -/

theorem raiseEvt_faults (s : State) (src : Src) (bit : Nat) (loom : Option Nat) (unit detail : Nat) :
    (raiseEvt s src bit loom unit detail).faults = s.faults := by
  obtain ⟨hm, ss, h⟩ := raiseEvt_eq s src bit loom unit detail
  rw [h]
  rfl

theorem getReg_raiseEvt (s : State) (src : Src) (bit : Nat) (loom : Option Nat) (unit detail o : Nat) :
    getReg (raiseEvt s src bit loom unit detail) o = if src.status = o then getReg s o ||| BitVec.ofNat 64 (2 ^ bit) else getReg s o := by
  rw [getReg, raiseEvt_regs]
  change getReg (orReg s src.status (BitVec.ofNat 64 (2 ^ bit))) o = _
  rw [getReg_orReg]
  split
  · next h => rw [h]
  · rfl

section
variable {s u : State}

theorem raiseEvt_keepsErrors {src : Src} (hs : src ≠ .mem) {bit : Nat} {loom : Option Nat} {unit detail : Nat} (h : KeepsErrors s u) :
    KeepsErrors s (raiseEvt u src bit loom unit detail) := by
  refine h.trans ⟨⟨_, raiseEvt_faults ..⟩, fun l => ?_, fun o h1 h2 h3 => ?_⟩
  · simp only [getLoom, raiseEvt_looms]
  · rw [getReg_raiseEvt, if_neg]
    cases src with
    | mem => exact absurd rfl hs
    | fab | lmgr | coll | link | lrn | srv | shed | pwr | tlm | svc | hif => simp only [Src.status]; omega

/-! ## Parts of the state -/

theorem modLoom_keepsErrors {l : Nat} {f : Loom → Loom} (h : KeepsErrors s u) (hf : ∀ x, (f x).st = x.st) : KeepsErrors s (modLoom u l f) := by
  refine h.trans ⟨⟨_, rfl⟩, fun k => ?_, fun _ _ _ _ => rfl⟩
  rw [getLoom_modLoom]
  split
  · next h => rw [hf, h]
  · rfl

theorem modReq_keepsErrors {e : Nat} {f : Req → Req} (h : KeepsErrors s u) : KeepsErrors s (modReq u e f) := h.same rfl rfl rfl

theorem modGen_keepsErrors {l : Nat} {f : GenLoom → GenLoom} (h : KeepsErrors s u) : KeepsErrors s (modGen u l f) :=
  modLoom_keepsErrors h fun _ => rfl

theorem modWeave_keepsErrors {k : Nat} {f : Weave → Weave} (h : KeepsErrors s u) : KeepsErrors s (modWeave u k f) := h.same rfl rfl rfl

theorem setReg_keepsErrors {o : Nat} {v : W64} (ho : o < 0x00A00000 ∨ 0x00B00000 ≤ o ∨ o % 0x40 = 0x28) (h : KeepsErrors s u) :
    KeepsErrors s (setReg u o v) :=
  h.trans ⟨⟨_, rfl⟩, fun _ => rfl, fun k _ _ _ => by rw [getReg_setReg, if_neg (by omega)]⟩

theorem postCpl_keepsErrors (sess ring : Nat) (status : Byte) (opcode : Nat) (tag : W32) (result : List Byte) (h : KeepsErrors s u) :
    KeepsErrors s (postCpl u sess ring status opcode tag result) := by
  unfold postCpl
  dsimp only
  split
  · exact h
  · exact h.same rfl rfl rfl

theorem finish_keepsErrors (sess ring : Nat) (status : Byte) (result : List Byte) (h : KeepsErrors s u) :
    KeepsErrors s (finish u sess ring status result) := by
  unfold finish
  split
  · exact h
  · exact (postCpl_keepsErrors _ _ _ _ _ _ h).same rfl rfl rfl

/-! ## Semaphores -/

theorem serveShared_keepsErrors (sem n : Nat) (h : KeepsErrors s u) : KeepsErrors s (serveShared u sem n) := by
  induction n generalizing u with
  | zero => exact h
  | succ n ih =>
    unfold serveShared
    split
    · exact h
    · split
      · exact h
      · exact .ite (ih (h.same rfl rfl rfl)) h

theorem serveSem_keepsErrors (sem : Nat) (h : KeepsErrors s u) : KeepsErrors s (serveSem u sem) := by
  unfold serveSem
  split
  · exact h
  · exact serveShared_keepsErrors _ _ h

theorem leaveQueues_keepsErrors (l : Nat) (h : KeepsErrors s u) : KeepsErrors s (leaveQueues u l) := by
  unfold leaveQueues
  refine .foldl (fun _ => serveSem_keepsErrors) _ ?_
  exact .same (t := modLoom u l fun x => { x with semWaiters := [] }) (modLoom_keepsErrors h fun _ => rfl) rfl rfl rfl

theorem returnUnits_keepsErrors (l : Nat) (h : KeepsErrors s u) : KeepsErrors s (returnUnits u l) := by
  unfold returnUnits
  refine .ite (.foldl (fun _ => serveSem_keepsErrors) _ (raiseEvt_keepsErrors (by decide) (modLoom_keepsErrors ?_ fun _ => rfl))) h
  exact h.same rfl rfl rfl

/-! ## Collectives -/

theorem modTileOf_keepsErrors (l t : Nat) (f : Tile → Tile) (h : KeepsErrors s u) : KeepsErrors s (modTileOf u l t f) := by
  unfold modTileOf
  dsimp only
  split
  · exact modLoom_keepsErrors h fun _ => rfl
  · have tiles : KeepsErrors s (if (getLoom u l).holder || (getLoom u l).lastHolder then modTile u t f else u) := .ite (h.same rfl rfl rfl) h
    exact .ite tiles (modLoom_keepsErrors tiles fun _ => rfl)

theorem putFlit_keepsErrors (d : Nat) (f : WeftFlit) (h : KeepsErrors s u) : KeepsErrors s (putFlit u d f) :=
  .ite (h.same rfl rfl rfl) (h.same rfl rfl rfl)

theorem linkSend_keepsErrors (d : Nat) (vc : BitVec 2) (bs : List Byte) (h : KeepsErrors s u) : KeepsErrors s (linkSend u d vc bs) := by
  unfold linkSend
  refine .foldl (fun v i h => ?_) _ h
  exact putFlit_keepsErrors _ _ (h.same rfl rfl rfl)

theorem sendFrame_keepsErrors (dir : Option Nat) (toward : Nat) (f : Frame) (h : KeepsErrors s u) : KeepsErrors s (sendFrame u dir toward f) := by
  cases dir with
  | none => exact h.same rfl rfl rfl
  | some d => exact linkSend_keepsErrors _ _ _ (h.same rfl rfl rfl)

theorem sendAborts_keepsErrors (l tile : Nat) (o : CollOp) (st : Byte) (h : KeepsErrors s u) : KeepsErrors s (sendAborts u l tile o st) :=
  .foldl (fun _ _ => sendFrame_keepsErrors _ _ _) _ (modTileOf_keepsErrors _ _ _ h)

theorem abortColl_keepsErrors (l tile : Nat) (o : CollOp) (st : Byte) (h : KeepsErrors s u) : KeepsErrors s (abortColl u l tile o st) := by
  unfold abortColl
  refine raiseEvt_keepsErrors (by decide) (sendAborts_keepsErrors _ _ _ _ (.foldl (fun _ _ h => ?_) _ h))
  exact .ite h (modTileOf_keepsErrors _ _ _ h)

theorem abortColls_keepsErrors (l : Nat) (st : Byte) (h : KeepsErrors s u) : KeepsErrors s (abortColls u l st) :=
  .foldl (fun _ _ => .foldl (fun _ _ => abortColl_keepsErrors _ _ _ _) _) _ h

/-! ## Requests -/

/-- The count of discarded drafts is no register of the memories, whatever the loom's number. -/
theorem rejectDrafts_keepsErrors (l n : Nat) (h : KeepsErrors s u) : KeepsErrors s (rejectDrafts u l n) :=
  setReg_keepsErrors (.inr (.inr (by simp only [srvReg]; omega))) h

theorem dropStep_keepsErrors (l : Nat) (h : KeepsErrors s u) : KeepsErrors s (dropStep u l) := by
  unfold dropStep
  dsimp only
  split
  · exact h
  · refine modLoom_keepsErrors (modLoom_keepsErrors ?_ fun _ => rfl) fun _ => rfl
    split
    · exact modLoom_keepsErrors (rejectDrafts_keepsErrors _ _ h) fun _ => rfl
    · exact rejectDrafts_keepsErrors _ _ h

theorem putOut_keepsErrors (e kind token pos pick st logprob : Nat) (h : KeepsErrors s u) :
    KeepsErrors s (putOut u e kind token pos pick st logprob) :=
  h.same (by simp [putOut]) (by simp [putOut]) (by simp [putOut])

theorem putRecord_keepsErrors (k : Nat) (bs : List Byte) (h : KeepsErrors s u) : KeepsErrors s (putRecord u k bs) := h.same rfl rfl rfl

theorem endReq_keepsErrors (e : Nat) (st : Byte) (h : KeepsErrors s u) : KeepsErrors s (endReq u e st) := by
  unfold endReq
  refine .ite h ?_
  dsimp only [takeEv]
  refine modReq_keepsErrors ?_
  split
  case' h_1 => refine modLoom_keepsErrors ?_ fun _ => rfl
  all_goals
    split
    · exact .ite (putOut_keepsErrors _ _ _ _ _ _ _ (h.same rfl rfl rfl)) (putRecord_keepsErrors _ _ (putOut_keepsErrors _ _ _ _ _ _ _ (h.same rfl rfl rfl)))
    · exact putOut_keepsErrors _ _ _ _ _ _ _ (h.same rfl rfl rfl)

theorem endAllReqs_keepsErrors (l : Nat) (st : Byte) (h : KeepsErrors s u) : KeepsErrors s (endAllReqs u l st) :=
  .foldl (fun _ _ => endReq_keepsErrors _ _) _ (dropStep_keepsErrors l h)

/-! ## Weaves -/

/-- A write of less than a unit of the stacks takes no poison away (R186). -/
theorem wrData_keepsErrors (a : Nat) {bs : List Byte} (hb : bs.length < 64) (h : KeepsErrors s u) : KeepsErrors s (wrData u a bs) := by
  unfold wrData
  dsimp only
  refine .ite (h.trans ⟨⟨u.faults.corrected.filter fun n => !(decide (a / 64 ≤ n) && decide (n ≤ (a + bs.length - 1) / 64)), ?_⟩,
    fun _ => rfl, fun _ _ _ _ => rfl⟩) (h.same rfl rfl rfl)
  have whole : ∀ n : Nat, (!(decide (a ≤ n * 64) && decide (n * 64 + 64 ≤ a + bs.length))) = true := fun n => by
    simp only [Bool.not_eq_true', Bool.and_eq_false_iff, decide_eq_false_iff_not]
    omega
  rw [List.filter_eq_self.mpr fun n _ => whole n]
  rfl

theorem objWrite_keepsErrors (x : Loom) (obj off : Nat) {bs : List Byte} (hb : bs.length < 64) (h : KeepsErrors s u) :
    KeepsErrors s (objWrite u x obj off bs) := by
  unfold objWrite
  split
  · exact h
  · refine .ite (wrData_keepsErrors _ hb h) (.foldl (fun _ _ h => ?_) _ h)
    dsimp only
    split
    · exact h.same rfl rfl rfl
    · exact h

theorem putCurPick_keepsErrors (k pick : Nat) (h : KeepsErrors s u) : KeepsErrors s (putCurPick u k pick) := by
  unfold putCurPick
  refine .foldl (fun v p h => ?_) _ h
  exact .ite (h.same rfl rfl rfl) h

theorem startPick_keepsErrors (k : Nat) (h : KeepsErrors s u) : KeepsErrors s (startPick u k) := by
  unfold startPick
  refine raiseEvt_keepsErrors (by decide) (putCurPick_keepsErrors _ _ (.foldl (fun _ _ h => ?_) _ (modWeave_keepsErrors h)))
  exact modGen_keepsErrors (objWrite_keepsErrors _ _ _ (by simp) h)

theorem publishIdle_keepsErrors (k : Nat) (h : KeepsErrors s u) : KeepsErrors s (publishIdle u k) := by
  unfold publishIdle
  exact .ite (raiseEvt_keepsErrors (by decide) (modWeave_keepsErrors h)) (.ite (startPick_keepsErrors k h)
    (.ite (raiseEvt_keepsErrors (by decide) (modWeave_keepsErrors h)) (raiseEvt_keepsErrors (by decide) (modWeave_keepsErrors h))))

theorem pubIdle_keepsErrors (k : Nat) (h : KeepsErrors s u) : KeepsErrors s (pubIdle u k) := by
  unfold pubIdle
  exact .ite (publishIdle_keepsErrors _ (h.same rfl rfl rfl)) (h.same rfl rfl rfl)

theorem abandonTaking_keepsErrors (k l : Nat) (h : KeepsErrors s u) : KeepsErrors s (abandonTaking u k l) := by
  unfold abandonTaking
  exact .ite (raiseEvt_keepsErrors (by decide) (modGen_keepsErrors (modWeave_keepsErrors h))) h

theorem dropSource_keepsErrors (k : Nat) (h : KeepsErrors s u) : KeepsErrors s (dropSource u k) :=
  pubIdle_keepsErrors k (modWeave_keepsErrors (.foldl (fun _ _ => abandonTaking_keepsErrors _ _) _ h))

theorem abandonSource_keepsErrors (k : Nat) (h : KeepsErrors s u) : KeepsErrors s (abandonSource u k) :=
  .ite (dropSource_keepsErrors k (dropSource_keepsErrors k h)) (dropSource_keepsErrors k h)

theorem shedEnter_keepsErrors (l : Nat) (h : KeepsErrors s u) : KeepsErrors s (shedEnter u l) := by
  unfold shedEnter
  have left : KeepsErrors s (match genWeave u l with
      | some (k, w) => if w.shared || (getLoom u l).st.takesPick then u else abandonTaking u k l
      | none => u) := by
    split
    · exact .ite h (abandonTaking_keepsErrors _ _ h)
    · exact h
  dsimp only
  split
  · exact .ite (abandonSource_keepsErrors _ left) left
  · exact left

/-! ## Checkpoints and restores -/

theorem endRestore_keepsErrors (l : Nat) (st : Byte) (result : List Byte) (h : KeepsErrors s u) : KeepsErrors s (endRestore u l st result) := by
  unfold endRestore
  split
  · exact h
  · exact finish_keepsErrors _ _ _ _ (modLoom_keepsErrors h fun _ => rfl)

theorem endCkpt_keepsErrors (l : Nat) (st : Byte) (result : List Byte) (h : KeepsErrors s u) : KeepsErrors s (endCkpt u l st result) := by
  unfold endCkpt
  split
  · exact h
  · dsimp only
    split
    · exact finish_keepsErrors _ _ _ _ (modLoom_keepsErrors h fun _ => rfl)
    · exact modLoom_keepsErrors h fun _ => rfl

/-! ## A loom that stops with UNCORRECTED -/

theorem endWith_keepsErrors (l : Nat) (st collSt : Byte) (h : KeepsErrors s u) : KeepsErrors s (endWith u l st collSt) :=
  endRestore_keepsErrors _ _ _ (endCkpt_keepsErrors _ _ _ (shedEnter_keepsErrors _ (endAllReqs_keepsErrors _ _ (abortColls_keepsErrors _ _ h))))

end

theorem recordFault_st (x : Loom) (insn : W64) (status : Byte) (tile strand pc : Nat) : (recordFault x insn status tile strand pc).st = x.st := by
  unfold recordFault
  split <;> rfl

/-- The state that a loom has after it stops with UNCORRECTED (Table 7-3). -/
def stoppedSt (st : LoomState) : LoomState := if st = .free ∨ st = .stopped then st else .faulted

section
variable (s : State) (l tile strand pc : Nat) (insn : W64)

/-- What stopping a loom with UNCORRECTED leaves: that loom alone changes its state. -/
theorem loomUncorr_leaves : ∃ x : Loom, x.st = stoppedSt (getLoom s l).st ∧ KeepsErrors (setLoom s l x) (loomUncorr s l tile strand pc insn) := by
  unfold loomUncorr
  simp only [Bool.or_eq_true, decide_eq_true_eq]
  split
  · next h =>
    refine ⟨getLoom s l, (if_pos h).symm, ⟨_, rfl⟩, fun k => ?_, fun _ _ _ _ => rfl⟩
    rw [getLoom_setLoom]
    split
    · next e => rw [e]
    · rfl
  · next h =>
    have faulted : stoppedSt (getLoom s l).st = .faulted := if_neg h
    rw [faulted]
    split
    · next hf => exact ⟨_, (recordFault_st ..).trans hf, .refl _⟩
    · exact ⟨_, rfl, endWith_keepsErrors _ _ _ (returnUnits_keepsErrors _ (leaveQueues_keepsErrors _ (raiseEvt_keepsErrors (by decide) (.refl _))))⟩

theorem loomUncorr_st (k : Nat) : (getLoom (loomUncorr s l tile strand pc insn) k).st =
    if l = k then stoppedSt (getLoom s k).st else (getLoom s k).st := by
  obtain ⟨x, hx, hk⟩ := loomUncorr_leaves s l tile strand pc insn
  rw [hk.st, getLoom_setLoom]
  split
  · next h => rw [hx, h]
  · rfl

theorem loomUncorr_poisoned : (loomUncorr s l tile strand pc insn).faults.poisoned = s.faults.poisoned := by
  obtain ⟨x, _, hk⟩ := loomUncorr_leaves s l tile strand pc insn
  exact hk.poisoned

theorem loomUncorr_poisonedGroups : (loomUncorr s l tile strand pc insn).faults.poisonedGroups = s.faults.poisonedGroups := by
  obtain ⟨x, _, hk⟩ := loomUncorr_leaves s l tile strand pc insn
  exact hk.poisonedGroups

theorem getReg_loomUncorr {o : Nat} (h1 : 0x00A00000 ≤ o) (h2 : o < 0x00B00000) (h3 : o % 0x40 ≠ 0x28) :
    getReg (loomUncorr s l tile strand pc insn) o = getReg s o := by
  obtain ⟨x, _, hk⟩ := loomUncorr_leaves s l tile strand pc insn
  exact hk.regs o h1 h2 h3

end
end Sys2Proof.Machine
end


section
/-! SUPPORT. Errors of the tile stores (R171, R174, R176 to R178, R180): what a report, a count and an advisory change, and what a rebuild and a group
that becomes POISONED come to. With it the second claim about memory errors. -/
namespace Sys2Proof.Machine
open Sys2Proof

/-! ## Reports (R194, R195) -/

theorem getReg_capture (s : State) (v : W64) {r o : Nat} {others : List (Nat × W64)} (hr : r ≠ o) (h : ∀ p ∈ others, p.1 ≠ o) :
    getReg (capture s r v others) o = getReg s o := by
  have logged : getReg (others.foldl (fun s kv => setReg s kv.1 kv.2) s) o = getReg s o :=
    List.foldlRecOn (motive := fun u => getReg u o = getReg s o) others _ rfl fun u hu p hp => by rw [getReg_setReg, if_neg (h p hp), hu]
  unfold capture
  split
  · rw [getReg_orReg, if_neg hr]
  · dsimp only
    rw [getReg_setReg, if_neg hr, logged]

theorem capture_faults (s : State) (r : Nat) (v : W64) (others : List (Nat × W64)) : (capture s r v others).faults = s.faults := by
  have logged : (others.foldl (fun s kv => setReg s kv.1 kv.2) s).faults = s.faults :=
    List.foldlRecOn (motive := fun u : State => u.faults = s.faults) others _ rfl fun _ hu _ _ => hu
  unfold capture
  split
  · rfl
  · exact logged

section
variable (s : State) (evts : List Nat) (stopped owner : Option Nat) (addr stack tile unit : Nat) (thrum : Bool)

theorem memError_faults : (memError s evts stopped owner addr stack tile unit thrum).faults = s.faults :=
  List.foldlRecOn (motive := fun u : State => u.faults = s.faults) evts _ (capture_faults ..) fun _ hu _ _ => (raiseEvt_faults ..).trans hu

/-- Past its status and its log, the registers of the memory block are as before. -/
theorem getReg_memError {o : Nat} (h : 0x00A00028 < o) :
    getReg (memError s evts stopped owner addr stack tile unit thrum) o = getReg s o := by
  refine List.foldlRecOn (motive := fun u => getReg u o = getReg s o) evts _ ?_ fun u hu b _ => ?_
  · refine getReg_capture s _ (by omega) fun p hp => ?_
    simp only [List.mem_cons, List.not_mem_nil, or_false] at hp
    rcases hp with rfl | rfl <;> dsimp only <;> omega
  · rw [getReg_raiseEvt, if_neg (by simp only [Src.status]; omega), hu]

/-- The status bit of every event of a detection is set. -/
theorem memError_status {b : Nat} (hb : b ∈ evts) (h64 : b < 64) :
    (getReg (memError s evts stopped owner addr stack tile unit thrum) 0x00A00008).getLsbD b = true := by
  have raised : ∀ (es : List Nat) (u : State), (getReg u 0x00A00008).getLsbD b = true ∨ b ∈ es →
      (getReg (es.foldl (fun s b => raiseEvt s .mem b owner unit addr) u) 0x00A00008).getLsbD b = true := by
    intro es
    induction es with
    | nil => exact fun u h => h.resolve_right List.not_mem_nil
    | cons e es ih =>
      refine fun u h => ih _ ?_
      rw [getReg_raiseEvt, if_pos (by rfl), BitVec.getLsbD_or]
      rcases h with h | h
      · exact .inl (by simp [h])
      · rcases List.mem_cons.mp h with rfl | h
        · exact .inl (by rw [BitVec.getLsbD_ofNat, Nat.testBit_two_pow_self, decide_eq_true h64, Bool.and_self, Bool.or_true])
        · exact .inr h
  exact raised _ _ (.inr hb)

end

/-! ## Advisories (R430, R431) -/

/-- From s to t the faults of the memories stay, and every register past the ones of the advisory log. -/
structure KeepsFaults (s t : State) : Prop where
  faults : t.faults = s.faults
  regs : ∀ o, 0x40 < o → getReg t o = getReg s o

theorem ckptTrigger_keeps {s t : State} {l step len : Nat} {buffer : W64} {who : Option (Nat × Nat)} (h : ckptTrigger s l step buffer len who = .ok t) :
    t.faults = s.faults ∧ t.regs = s.regs := by
  unfold ckptTrigger at h
  dsimp only at h
  split_ifs at h <;> cases h <;> exact ⟨rfl, rfl⟩

theorem evtToSession_faults (s : State) (n : Nat) (e : EvtRec) : (evtToSession s n e).faults = s.faults := by
  obtain ⟨hm, ss, h⟩ := evtToSession_eq s n e
  rw [h]

theorem advise_keepsFaults (s : State) (cause unit : Nat) : KeepsFaults s (advise s cause unit) := by
  unfold advise
  dsimp only
  refine List.foldlRecOn _ _ ?_ fun u hu l _ => ?_
  · have logged : ∀ v w : W64, KeepsFaults s (capture (orReg (modSvc s fun v => { v with
        raised := (v.raised.filter fun r => !(r.1 = cause && r.2.1 = unit)) ++ [(cause, unit, v.minute)] }) Src.svc.status 1) 0x40 v [(0x38, w)]) := by
      refine fun v w => ⟨(capture_faults ..).trans rfl, fun o ho => ?_⟩
      rw [getReg_capture _ _ (by omega) (by simp only [List.mem_singleton]; rintro p rfl; dsimp only; omega), getReg_orReg,
        if_neg (by simp only [Src.status]; omega)]
      rfl
    split
    · refine List.foldlRecOn _ _ (logged _ _) fun u hu q _ => ?_
      split
      · exact ⟨(evtToSession_faults ..).trans hu.faults, fun o ho => by rw [getReg, evtToSession_regs]; exact hu.regs o ho⟩
      · exact hu
    · exact logged _ _
  · split
    · split
      · next h =>
        obtain ⟨hf, hr⟩ := ckptTrigger_keeps h
        exact ⟨hf.trans hu.faults, fun o ho => by rw [getReg, hr]; exact hu.regs o ho⟩
      · exact hu
    · exact hu

theorem noteCause_keepsFaults (s : State) (cause unit n : Nat) (always : Bool) : KeepsFaults s (noteCause s cause unit n always) := by
  unfold noteCause
  dsimp only
  split
  · unfold adviseOnce
    split
    · exact ⟨rfl, fun _ _ => rfl⟩
    · obtain ⟨hf, hr⟩ := advise_keepsFaults (modSvc s fun v => { v with buckets := tmod [] v.buckets (causeKey cause unit) fun b =>
        match b with
        | [] => [n]
        | c :: r => (c + n) :: r }) cause unit
      exact ⟨hf, hr⟩
  · exact ⟨rfl, fun _ _ => rfl⟩

/-! ## Counts (R17, R180) -/

/-- A register of 32 bits that counts once and stops at its largest value. -/
theorem toNat_satAdd (v : W64) : (BitVec.ofNat 64 (satAdd 0xFFFFFFFF v.toNat 1)).toNat = upTo32 (v.toNat + 1) := by
  simp only [BitVec.toNat_ofNat, satAdd, upTo32]
  omega

theorem countBay_faults (s : State) (tile off : Nat) : (countBay s tile off).faults = s.faults := by simp [countBay]

theorem countBay_looms (s : State) (tile off : Nat) : (countBay s tile off).looms = s.looms := by simp [countBay]

theorem countBay_module (s : State) (tile off : Nat) (_ : off < 0x40) : (getReg (countBay s tile off) (0x00A00040 + off)).toNat =
    upTo32 ((getReg s (0x00A00040 + off)).toNat + 1) := by
  rw [countBay, getReg_countReg, if_pos rfl, toNat_satAdd, getReg_countReg, if_neg (by simp only [bayMemReg]; omega)]

theorem countBay_bay (s : State) (tile off : Nat) (_ : off < 0x40) : (getReg (countBay s tile off) (bayMemReg (bayOf tile) off)).toNat =
    upTo32 ((getReg s (bayMemReg (bayOf tile) off)).toNat + 1) := by
  rw [countBay, getReg_countReg, if_neg (by simp only [bayMemReg]; omega), getReg_countReg, if_pos rfl, toNat_satAdd]

/-! ## A rebuild (R174, R176, R180) -/

section
variable (u : State) (tile evt addr : Nat) (thrum : Bool)

theorem rebuilt_faults : (rebuilt u tile evt addr thrum).faults = u.faults := by
  rw [rebuilt, (noteCause_keepsFaults ..).faults, memError_faults, countBay_faults]

theorem getReg_rebuilt {o : Nat} (h : 0x00A00028 < o) : getReg (rebuilt u tile evt addr thrum) o = getReg (countBay u tile 0) o := by
  rw [rebuilt, (noteCause_keepsFaults ..).regs o (by omega), getReg_memError _ _ _ _ _ _ _ _ _ h]

theorem rebuilt_status (h : evt < 64) : (getReg (rebuilt u tile evt addr thrum) 0x00A00008).getLsbD evt = true := by
  rw [rebuilt, (noteCause_keepsFaults ..).regs _ (by decide)]
  exact memError_status _ _ _ _ _ _ _ _ _ List.mem_cons_self h

end

/-- What a rebuild of a group comes to from s to t: every byte reads as before, no bit is wrong, no other group is poisoned, and it is
counted in the bay and in the module and reported by one event. -/
def Rebuilt (s t : State) (tile group bit : Nat) : Prop :=
  (∀ a, memGet t.mem a = memGet s.mem a) ∧ soundGroup t tile group ∧ t.faults.poisonedGroups = s.faults.poisonedGroups ∧
  ((getReg t (bayMemReg (bayOf tile) 0)).toNat = upTo32 ((getReg s (bayMemReg (bayOf tile) 0)).toNat + 1) ∧
    (getReg t 0x00A00040).toNat = upTo32 ((getReg s 0x00A00040).toNat + 1)) ∧ (getReg t 0x00A00008).getLsbD bit = true

theorem rebuilt_of {s u : State} {tile group : Nat} (evt addr : Nat) (thrum : Bool) (hevt : evt < 64) (hmem : ∀ a, memGet u.mem a = memGet s.mem a)
    (hsound : soundGroup u tile group) (hpoison : u.faults.poisonedGroups = s.faults.poisonedGroups) (hregs : u.regs = s.regs) :
    Rebuilt s (rebuilt u tile evt addr thrum) tile group evt := by
  have same : ∀ o, getReg u o = getReg s o := fun o => by rw [getReg, hregs]; rfl
  have hfaults := rebuilt_faults u tile evt addr thrum
  refine ⟨fun a => by rw [rebuilt_mem, hmem], ⟨fun w hw => ?_, ?_⟩, by rw [hfaults, hpoison], ⟨?_, ?_⟩, rebuilt_status _ _ _ _ _ hevt⟩
  · rw [hfaults]
    exact hsound.1 w hw
  · rw [hfaults]
    exact hsound.2
  · rw [getReg_rebuilt _ _ _ _ _ (by simp only [bayMemReg]; omega), countBay_bay _ _ _ (by decide), same]
  · rw [getReg_rebuilt _ _ _ _ _ (by decide), ← same]
    exact countBay_module u tile 0 (by decide)

/-! ## A group that becomes POISONED (R177) -/

/-- What a group that becomes POISONED comes to from s to t: it is listed and reported, and the loom that owns the tile is FAULTED. -/
def GroupPoisoned (s t : State) (tile group : Nat) : Prop :=
  (tile, group) ∈ t.faults.poisonedGroups ∧ (getReg t 0x00A00008).getLsbD 2 = true ∧
  ∀ l, ownerOfTile s tile = some l → (getLoom s l).st ∉ [LoomState.free, .stopped, .faulted] → (getLoom t l).st = .faulted

theorem stoppedSt_of_notMem {st : LoomState} (h : st ∉ [LoomState.free, .stopped, .faulted]) : stoppedSt st = .faulted :=
  if_neg fun e => h (by rcases e with rfl | rfl <;> decide)

theorem groupPoisoned_of {s u : State} (tile group addr : Nat) {evts : List Nat} (hlooms : u.looms = s.looms) (h2 : 2 ∈ evts) :
    GroupPoisoned s (poisonGroup u tile group addr evts) tile group := by
  have howner : ownerOfTile u tile = ownerOfTile s tile := by simp only [ownerOfTile, getLoom, hlooms]
  unfold poisonGroup
  dsimp only
  generalize he : memError _ evts _ _ addr 0xFF tile tile = e
  have hlisted : (tile, group) ∈ e.faults.poisonedGroups := by
    rw [← he, memError_faults, countBay_faults]
    exact List.mem_append_right _ List.mem_cons_self
  have hstatus : (getReg e 0x00A00008).getLsbD 2 = true := by
    rw [← he]
    exact memError_status _ _ _ _ _ _ _ _ _ h2 (by decide)
  have hst : ∀ l, getLoom e l = getLoom s l := fun l => by
    rw [← he, getLoom, memError_looms, countBay_looms]
    exact congrArg (fun t => tget {} t l) hlooms
  rw [howner]
  cases hl : ownerOfTile s tile with
  | none => exact ⟨hlisted, hstatus, fun l hl' => by cases hl.symm.trans hl'⟩
  | some l =>
    refine ⟨by rw [loomUncorr_poisonedGroups]; exact hlisted, ?_, fun k hk hs => ?_⟩
    · rw [getReg_loomUncorr _ _ _ _ _ _ (by decide) (by decide) (by decide)]
      exact hstatus
    · obtain rfl : l = k := Option.some.inj (hl.symm.trans hk)
      rw [loomUncorr_st, if_pos rfl, hst]
      exact stoppedSt_of_notMem hs

/-! ## Snapshots (R174, R176) -/

section
variable {s : State} {tile w : Nat}

theorem rebuildWord_of_sole (hf : failingWords s tile (w / 63) = [w]) (ht : failsParity (storedThrum s tile (w / 63)) = false) :
    rebuildWord s tile w = rebuilt (wr (flipWord s tile w 0) (tileAddr tile (4 * w)) 4 (corrected s tile w).toNat) tile 0 (tileAddr tile (4 * w)) false := by
  simp [rebuildWord, hf, ht]

theorem rebuildWord_of_another (h : failingWords s tile (w / 63) ≠ [w] ∨ failsParity (storedThrum s tile (w / 63)) = true) :
    rebuildWord s tile w = poisonGroup s tile (w / 63) (tileAddr tile (4 * w)) [2] := by
  rcases h with h | h <;> simp [rebuildWord, h]

theorem failingWords_of_sole (hw : w < tsWords) (hfail : failsParity (wordFlips s tile w) = true)
    (hf : ∀ k ∈ groupWords (w / 63), k ≠ w → wordFlips s tile k = 0) : failingWords s tile (w / 63) = [w] := by
  have hsole : failingWords s tile (w / 63) = (groupWords (w / 63)).filter (· == w) := List.filter_congr fun k hk => by
    rw [failsParity_storedWord]
    by_cases h : k = w
    · simp [h, hfail]
    · rw [hf k hk h, beq_false_of_ne h]
      decide
  rw [hsole, List.filter_beq, List.count_eq_one_of_mem (groupWords_nodup _) (mem_groupWords.mpr ⟨rfl, hw⟩)]
  rfl

end

theorem exists_ne_mem_groupWords {w : Nat} (hw : w < tsWords) : ∃ v ∈ groupWords (w / 63), v ≠ w := by
  simp only [tsWords] at hw
  by_cases h : w % 63 = 0
  · exact ⟨w + 1, mem_groupWords.mpr ⟨by omega, by simp only [tsWords]; omega⟩, by omega⟩
  · exact ⟨w / 63 * 63, mem_groupWords.mpr ⟨by omega, by simp only [tsWords]; omega⟩, by omega⟩

section
variable {s : State} {tile word : Nat} (htile : tile < 5120) (hword : word < 1835008) (hnot : (tile, word / 63) ∉ s.faults.poisonedGroups)
include htile hword hnot

/-- A failing word is met: an odd number of its bits turn, and what else the snapshot finds. -/
theorem wordFails_eq (found : SnapFinding) : wordFails s tile word found =
    rebuildWord (match found with
      | .clean => flipWord (drawFree s 2).2 tile word (oddBits s.free)
      | .secondWord => match (groupWords (word / 63)).find? fun v => v ≠ word with
        | some v => flipWord (flipWord (drawFree s 2).2 tile word (oddBits s.free)) tile v (oddBits (s.free + 1))
        | none => flipWord (drawFree s 2).2 tile word (oddBits s.free)
      | .thrumWord => flipThrum (flipWord (drawFree s 2).2 tile word (oddBits s.free)) tile (word / 63) (oddBits (s.free + 1))) tile word := by
  have guard : ¬ (decide (5120 ≤ tile) || decide (tsWords ≤ word) || isPoisoned s tile (word / 63)) = true := by
    simp [isPoisoned, tsWords, htile, Nat.not_le.mpr hword, hnot]
  unfold wordFails
  rw [if_neg guard]
  rfl

theorem thrumFails_eq : thrumFails s tile (word / 63) =
    if (failingWords s tile (word / 63)).isEmpty
    then rebuilt (flipThrum (flipThrum (drawFree s 1).2 tile (word / 63) (oddBits s.free)) tile (word / 63) 0) tile 1 (tileAddr tile (word / 63 * 63 * 4)) true
    else poisonGroup (flipThrum (drawFree s 1).2 tile (word / 63) (oddBits s.free)) tile (word / 63) (tileAddr tile (word / 63 * 63 * 4)) [2] := by
  have guard : ¬ (decide (5120 ≤ tile) || decide (tsGroups ≤ word / 63) || isPoisoned s tile (word / 63)) = true := by
    have hgroup : word / 63 < tsGroups := by simp only [tsGroups]; omega
    simp [isPoisoned, htile, hgroup, hnot]
  unfold thrumFails
  rw [if_neg guard]
  rfl

theorem wordFails_clean_rebuilt (hs : soundGroup s tile (word / 63)) : Rebuilt s (wordFails s tile word .clean) tile (word / 63) 0 := by
  rw [wordFails_eq htile hword hnot]
  dsimp only
  generalize hu : flipWord (drawFree s 2).2 tile word (oddBits s.free) = u
  have hflip : ∀ k, wordFlips u tile k = if word = k then oddBits s.free else wordFlips s tile k := fun k => by
    rw [← hu, wordFlips_flipWord]
    rfl
  have hothers : ∀ k ∈ groupWords (word / 63), k ≠ word → wordFlips u tile k = 0 := fun k hk hne => by
    rw [hflip, if_neg hne.symm]
    exact hs.1 k hk
  have hthrum : thrumFlips u tile (word / 63) = 0 := by
    rw [← hu]
    exact hs.2
  have hcorrected : corrected u tile word = dataWord s tile word := by
    rw [corrected_eq hword hothers hthrum, ← hu]
    rfl
  rw [rebuildWord_of_sole (failingWords_of_sole hword (by rw [hflip, if_pos rfl, failsParity_oddBits]) hothers)
    (by rw [failsParity_storedThrum, hthrum]; decide), hcorrected, ← hu]
  refine rebuilt_of _ _ _ (by decide) (fun a => memGet_wr_dataWord s tile word a) ⟨fun k hk => ?_, hs.2⟩ rfl rfl
  change wordFlips (flipWord (flipWord (drawFree s 2).2 tile word (oddBits s.free)) tile word 0) tile k = 0
  rw [wordFlips_flipWord, wordFlips_flipWord]
  split
  · rfl
  · exact hs.1 k hk

theorem wordFails_thrumWord_poisoned : GroupPoisoned s (wordFails s tile word .thrumWord) tile (word / 63) := by
  rw [wordFails_eq htile hword hnot]
  dsimp only
  rw [rebuildWord_of_another (.inr (by rw [failsParity_storedThrum, thrumFlips_flipThrum, failsParity_oddBits]))]
  exact groupPoisoned_of _ _ _ rfl List.mem_cons_self

theorem wordFails_secondWord_poisoned : GroupPoisoned s (wordFails s tile word .secondWord) tile (word / 63) := by
  rw [wordFails_eq htile hword hnot]
  dsimp only
  cases hv : (groupWords (word / 63)).find? fun v => v ≠ word with
  | none =>
    obtain ⟨v, hmem, hne⟩ := exists_ne_mem_groupWords hword
    exact absurd hne (by simpa using List.find?_eq_none.mp hv v hmem)
  | some v =>
    have hmem := List.mem_of_find?_eq_some hv
    have hne : v ≠ word := by simpa using List.find?_some hv
    dsimp only
    generalize hu : flipWord (flipWord (drawFree s 2).2 tile word (oddBits s.free)) tile v (oddBits (s.free + 1)) = u
    have hfails : v ∈ failingWords u tile (word / 63) :=
      mem_failingWords.mpr ⟨hmem, by rw [← hu, wordFlips_flipWord, if_pos rfl, failsParity_oddBits]⟩
    rw [rebuildWord_of_another (.inl fun h => hne (List.mem_singleton.mp (h ▸ hfails))), ← hu]
    exact groupPoisoned_of _ _ _ rfl List.mem_cons_self

theorem thrumFails_rebuilt (hs : soundGroup s tile (word / 63)) : Rebuilt s (thrumFails s tile (word / 63)) tile (word / 63) 1 := by
  have hpass : failingWords s tile (word / 63) = [] := List.eq_nil_iff_forall_not_mem.mpr fun k hk => by
    obtain ⟨hk, hfail⟩ := mem_failingWords.mp hk
    rw [wordFlips, hs.1 k hk] at hfail
    exact absurd hfail (by decide)
  rw [thrumFails_eq htile hword hnot, hpass, if_pos (by rfl)]
  exact rebuilt_of _ _ _ (by decide) (fun _ => rfl) ⟨hs.1, thrumFlips_flipThrum ..⟩ rfl rfl

theorem thrumFails_poisoned (hf : failingWords s tile (word / 63) ≠ []) : GroupPoisoned s (thrumFails s tile (word / 63)) tile (word / 63) := by
  rw [thrumFails_eq htile hword hnot, if_neg (by simpa using hf)]
  exact groupPoisoned_of _ _ _ rfl List.mem_cons_self

/-! ## The scrub (R178) -/

theorem scrubGroup_eq (hon : (getReg s 0x00A00030).getLsbD 31 = true) (found : ScrubFinding) : scrubGroup s tile (word / 63) found =
    match found with
    | .clean => s
    | .badWord w f => if 63 ≤ w then s else wordFails s tile (word / 63 * 63 + w) f
    | .badThrum => thrumFails s tile (word / 63)
    | .mismatch =>
      if thrumDiffers (flipWord (drawFree s 1).2 tile (word / 63 * 63) (evenBits s.free)) tile (word / 63)
      then poisonGroup (flipWord (drawFree s 1).2 tile (word / 63 * 63) (evenBits s.free)) tile (word / 63) (tileAddr tile (word / 63 * 63 * 4)) [3, 2]
      else flipWord (drawFree s 1).2 tile (word / 63 * 63) (evenBits s.free) := by
  have guard : ¬ (!(getReg s 0x00A00030).getLsbD 31 || decide (5120 ≤ tile) || decide (tsGroups ≤ word / 63) || isPoisoned s tile (word / 63)) = true := by
    have hgroup : word / 63 < tsGroups := by simp only [tsGroups]; omega
    simp [isPoisoned, hon, htile, hgroup, hnot]
  unfold scrubGroup
  rw [if_neg guard]
  rfl

theorem scrubGroup_mismatch_poisoned (hon : (getReg s 0x00A00030).getLsbD 31 = true) (hs : soundGroup s tile (word / 63)) :
    GroupPoisoned s (scrubGroup s tile (word / 63) .mismatch) tile (word / 63) := by
  rw [scrubGroup_eq htile hword hnot hon]
  dsimp only
  have hfirst : word / 63 * 63 ∈ groupWords (word / 63) := mem_groupWords.mpr ⟨by omega, by simp only [tsWords]; omega⟩
  have hdiffers : thrumDiffers (flipWord (drawFree s 1).2 tile (word / 63 * 63) (evenBits s.free)) tile (word / 63) = true := by
    refine thrumDiffers_of_one hfirst (fun k hk hne => ?_) hs.2 ?_
    · rw [wordFlips_flipWord, if_neg hne.symm]
      exact hs.1 k hk
    · rw [wordFlips_flipWord, if_pos rfl]
      exact setWidth_evenBits_ne_zero _
  rw [hdiffers, if_pos rfl]
  exact groupPoisoned_of _ _ _ rfl (by decide)

end

theorem scrubGroup_off {s : State} (hoff : (getReg s 0x00A00030).getLsbD 31 = false) (tile group : Nat) (found : ScrubFinding) :
    scrubGroup s tile group found = s := by
  simp only [scrubGroup, hoff, Bool.not_false, Bool.true_or, if_true]

/-! ## The claim -/

theorem tileStoreErrors : TileStoreErrors := by
  intro s tile word hd htile hword hnot
  have run : ∀ i f, exec i s = .next (alive s f) → exec i s = .next (f s) := fun i f h => by rw [h, alive_light f hd]
  have hword' : word / 63 * 63 + word % 63 = word := by omega
  have hclean : scrubGroup s tile (word / 63) .clean = s := by
    cases hon : (getReg s 0x00A00030).getLsbD 31 with
    | false => exact scrubGroup_off hon ..
    | true => exact scrubGroup_eq htile hword hnot hon .clean
  refine ⟨fun hs => ⟨?_, ?_, ?_, ?_⟩, fun hf => ?_, ?_, fun hon => ⟨fun hs => ?_, ?_, fun f => ?_⟩, fun hoff f => ?_⟩
  · exact ⟨_, run (.tileStoreRebuild tile word .clean) _ rfl, wordFails_clean_rebuilt htile hword hnot hs⟩
  · exact ⟨_, run (.tsThrumRebuild tile (word / 63)) _ rfl, thrumFails_rebuilt htile hword hnot hs⟩
  · exact ⟨_, run (.tileStoreRebuild tile word .secondWord) _ rfl, wordFails_secondWord_poisoned htile hword hnot⟩
  · exact ⟨_, run (.tileStoreRebuild tile word .thrumWord) _ rfl, wordFails_thrumWord_poisoned htile hword hnot⟩
  · exact ⟨_, run (.tsThrumRebuild tile (word / 63)) _ rfl, thrumFails_poisoned htile hword hnot hf⟩
  · exact (run (.scrub tile (word / 63) .clean) _ rfl).trans (congrArg _ hclean)
  · exact ⟨_, run (.scrub tile (word / 63) .mismatch) _ rfl, scrubGroup_mismatch_poisoned htile hword hnot hon hs⟩
  · rw [run (.scrub tile (word / 63) .badThrum) _ rfl, run (.tsThrumRebuild tile (word / 63)) _ rfl, scrubGroup_eq htile hword hnot hon]
  · rw [run (.scrub tile (word / 63) (.badWord (word % 63) f)) _ rfl, run (.tileStoreRebuild tile word f) _ rfl, scrubGroup_eq htile hword hnot hon]
    dsimp only
    rw [if_neg (by omega), hword']
  · exact (run (.scrub tile (word / 63) f) _ rfl).trans (congrArg _ (scrubGroup_off hoff ..))

end Sys2Proof.Machine
end


section
/-! SUPPORT. Errors of the memory stacks (R185, R187, R189): corrected and uncorrected units, replays and failed stacks. With it the third claim about
memory errors, and the obligation about them. -/
namespace Sys2Proof.Machine
open Sys2Proof

/-! ## Reports of a stack -/

/-- A stack is named by any address of a unit in it (R183). -/
theorem stackOf_unit (v : Variant) (addr : Nat) : stackOf v (addr / 64 * 64) = stackOf v addr := by
  rw [stackOf, stackOf, show addr / 64 * 64 / 4096 = addr / 4096 by omega]

theorem stackOf_lt (v : Variant) (addr : Nat) : stackOf v addr < Config.stackNum v := Nat.mod_lt _ (by cases v <;> decide)

theorem stackNum_le (v : Variant) : Config.stackNum v ≤ 14 := by cases v <;> decide

theorem countReg_stack (v : State) (n off : Nat) : (getReg (countReg v (stkReg n off)) (stkReg n off)).toNat = upTo32 ((getReg v (stkReg n off)).toNat + 1) := by
  rw [getReg_countReg, if_pos rfl, toNat_satAdd]

/-- What an error of a stack that stops no loom comes to from v to t: no byte and no fault of the memories changes, the stack counts it,
and an event reports it. -/
structure StackReport (v t : State) (n off : Nat) (evts : List Nat) : Prop where
  mem : t.mem = v.mem
  faults : t.faults = v.faults
  count : (getReg t (stkReg n off)).toNat = upTo32 ((getReg v (stkReg n off)).toNat + 1)
  status : ∀ b ∈ evts, b < 64 → (getReg t 0x00A00008).getLsbD b = true

theorem memError_report (v : State) (n off : Nat) (evts : List Nat) (stopped owner : Option Nat) (a unit : Nat) :
    StackReport v (memError (countReg v (stkReg n off)) evts stopped owner a n 0 unit) n off evts where
  mem := by rw [memError_mem, countReg_mem]
  faults := by rw [memError_faults, countReg_faults]
  count := by rw [getReg_memError _ _ _ _ _ _ _ _ _ (by simp only [stkReg]; omega), countReg_stack]
  status _ hb h64 := memError_status _ _ _ _ _ _ _ _ _ hb h64

theorem StackReport.noteCause {v t : State} {n off : Nat} {evts : List Nat} (h : StackReport v t n off evts) (cause : Nat) :
    StackReport v (noteCause t cause n 1) n off evts := by
  obtain ⟨hf, hr⟩ := noteCause_keepsFaults t cause n 1 false
  exact ⟨(noteCause_mem ..).trans h.mem, hf.trans h.faults, by rw [hr _ (by simp only [stkReg]; omega), h.count],
    fun b hb h64 => by rw [hr _ (by decide), h.status b hb h64]⟩

/-! ## Returns of a stack (R185) -/

theorem stackReturn_of_poisoned {s : State} {addr : Nat} (h : addr / 64 ∈ s.faults.poisoned) (r : EccReport) (c : Option Nat) :
    stackReturn s addr r c = stackReturn s addr .uncorrected c := by
  simp [stackReturn, h]

section
variable {s : State} {addr : Nat} (hend : addr < Config.memEnd s.variant)
include hend

theorem stackReturn_corrected (c : Option Nat) (h : addr / 64 ∉ s.faults.poisoned) :
    StackReport { s with faults := { s.faults with corrected := (s.faults.corrected ++ [addr / 64]).eraseDups } } (stackReturn s addr .corrected c)
      (stackOf s.variant addr) 8 [4] := by
  have report : (if s.faults.poisoned.contains (addr / 64) then EccReport.uncorrected else .corrected) = .corrected := if_neg (by simpa using h)
  unfold stackReturn
  dsimp only
  rw [if_neg (Nat.not_le.mpr hend), report]
  exact (memError_report ..).noteCause 2

/-- An uncorrected unit is poisoned and reported, and then the loom that consumed it stops. -/
theorem stackReturn_uncorrected (c : Option Nat) : ∃ t,
    StackReport { s with faults := { s.faults with poisoned := (s.faults.poisoned ++ [addr / 64]).eraseDups, corrected := s.faults.corrected.filter fun k => k ≠ addr / 64 } }
      t (stackOf s.variant addr) 0x10 [5] ∧
    t.looms = s.looms ∧ stackReturn s addr .uncorrected c = c.elim t (loomUncorr t) := by
  refine ⟨reportUncorr { s with faults := { s.faults with poisoned := (s.faults.poisoned ++ [addr / 64]).eraseDups, corrected := s.faults.corrected.filter fun k => k ≠ addr / 64 } }
    c (addr / 64), ?_, ?_, ?_⟩
  · unfold reportUncorr
    dsimp only
    rw [stackOf_unit]
    exact memError_report ..
  · rw [reportUncorr, memError_looms, countReg_looms]
  · unfold stackReturn
    dsimp only
    rw [if_neg (Nat.not_le.mpr hend), ite_self]
    cases c <;> rfl

/-! ## Replays (R187) -/

theorem replayOne_recovered : StackReport { s with faults := { s.faults with replayAttempts := tdel s.faults.replayAttempts (addr / 64) } }
    (replayOne true s addr) (stackOf s.variant addr) 0x18 [6] := by
  unfold replayOne
  dsimp only
  rw [if_neg (Nat.not_le.mpr hend), if_pos rfl]
  exact (memError_report { s with faults := { s.faults with replayAttempts := tdel s.faults.replayAttempts (addr / 64) } } ..).noteCause 3

theorem replayOne_last (h : tget 0 s.faults.replayAttempts (addr / 64) = 15) :
    StackReport { s with faults := { s.faults with
        replayAttempts := tdel s.faults.replayAttempts (addr / 64), poisoned := (s.faults.poisoned ++ [addr / 64]).eraseDups } }
      (replayOne false s addr) (stackOf s.variant addr) 0x18 [6, 7] := by
  unfold replayOne
  dsimp only
  rw [if_neg (Nat.not_le.mpr hend), if_neg Bool.false_ne_true, h, if_neg (by decide)]
  exact (memError_report { s with faults := { s.faults with
    replayAttempts := tdel s.faults.replayAttempts (addr / 64), poisoned := (s.faults.poisoned ++ [addr / 64]).eraseDups } } ..).noteCause 3

end

/-! ## Failed stacks (R189) -/

theorem stoppedSt_idem (st : LoomState) : stoppedSt (stoppedSt st) = stoppedSt st := by cases st <;> rfl

theorem foldl_loomUncorr_st (ls : List Nat) (s : State) (l : Nat) : (getLoom (ls.foldl (fun s l => loomUncorr s l) s) l).st =
    if l ∈ ls then stoppedSt (getLoom s l).st else (getLoom s l).st := by
  induction ls generalizing s with
  | nil => rfl
  | cons k ks ih =>
    rw [List.foldl_cons, ih, loomUncorr_st]
    by_cases hk : k = l
    · subst hk
      simp [stoppedSt_idem]
    · simp [hk, Ne.symm hk]

/-- The state of a stack after STACK_FAILED (Table 5-17). -/
theorem toNat_stackStatus (v : W64) : ((v &&& ~~~(0xF8 : W64)) ||| 0x30).toNat / 8 % 32 = 6 := by
  have field : ((v &&& ~~~(0xF8 : W64)) ||| 0x30).extractLsb' 3 5 = 6#5 := BitVec.eq_of_getLsbD_eq fun i hi => by
    interval_cases i <;> simp
  have := congrArg BitVec.toNat field
  rw [BitVec.extractLsb'_toNat, Nat.shiftRight_eq_div_pow] at this
  exact this

section
variable {s : State} {n : Nat} (hn : n < Config.stackNum s.variant)
include hn

theorem stackFails_eq : stackFails s n = ((liveLooms s).filter fun l => holdsStack s l n).foldl (fun s l => loomUncorr s l)
    (setReg s (stkReg n 0) ((getReg s (stkReg n 0) &&& ~~~(0xF8 : W64)) ||| 0x30)) := by
  unfold stackFails
  rw [if_neg (Nat.not_le.mpr hn)]
  rfl

theorem stackFails_status : (getReg (stackFails s n) (stkReg n 0)).toNat / 8 % 32 = 6 := by
  have hlast := stackNum_le s.variant
  rw [stackFails_eq hn]
  refine List.foldlRecOn (motive := fun u => (getReg u (stkReg n 0)).toNat / 8 % 32 = 6) _ _ ?_ fun u hu l _ => ?_
  · rw [getReg_setReg, if_pos rfl, toNat_stackStatus]
  · rw [getReg_loomUncorr _ _ _ _ _ _ (by simp only [stkReg]; omega) (by simp only [stkReg]; omega) (by simp only [stkReg]; omega), hu]

theorem stackFails_faulted {l : Nat} (hl : l < 32) (hh : holdsStack s l n = true) (hst : (getLoom s l).st ∉ [LoomState.free, .stopped, .faulted]) :
    (getLoom (stackFails s n) l).st = .faulted := by
  have hlive : l ∈ (liveLooms s).filter fun l => holdsStack s l n := by
    have hfree : (getLoom s l).st ≠ .free := fun e => hst (by simp [e])
    simp [liveLooms, hl, hh, hfree]
  rw [stackFails_eq hn, foldl_loomUncorr_st, if_pos hlive]
  exact stoppedSt_of_notMem hst

end

/-! ## The claims -/

theorem stackErrors : StackErrors := by
  intro s addr hd hend u n reg counts
  have run : ∀ i f, exec i s = .next (alive s f) → exec i s = .next (f s) := fun i f h => by rw [h, alive_light f hd]
  have listed : ∀ l : List Nat, u ∈ (l ++ [u]).eraseDups := fun l => List.mem_eraseDups.mpr (List.mem_append_right _ List.mem_cons_self)
  have returned : ∀ r c, exec (.stackAccessReturn addr r c) s = .next (stackReturn s addr r c) := fun r c =>
    run (.stackAccessReturn addr r c) _ rfl
  have replayed : ∀ r, exec (.stkReplay [addr] r) s = .next (replayOne r s addr) := fun r =>
    (run (.stkReplay [addr] r) (fun s => [addr].foldl (replayOne r) s) rfl).trans (by rw [List.foldl_cons, List.foldl_nil])
  refine ⟨fun c hu => ?_, ?_, fun l hst => ?_, ?_, fun h15 => ?_, fun hu r c => ?_, ?_⟩
  · have h := stackReturn_corrected hend c hu
    exact ⟨_, returned .corrected c, h.mem, by rw [h.faults]; exact listed _, h.count, h.status 4 (by decide) (by decide)⟩
  · obtain ⟨t, h, -, heq⟩ := stackReturn_uncorrected hend none
    exact ⟨t, (returned .uncorrected none).trans (congrArg _ heq), h.mem, by rw [h.faults]; exact listed _, by rw [h.faults]; simp [u], h.count,
      h.status 5 (by decide) (by decide)⟩
  · obtain ⟨t, h, hlooms, heq⟩ := stackReturn_uncorrected hend (some l)
    rw [Option.elim_some] at heq
    refine ⟨_, (returned .uncorrected (some l)).trans (congrArg _ heq), ?_, ?_⟩
    · rw [loomUncorr_poisoned, h.faults]
      exact listed _
    · rw [loomUncorr_st, if_pos rfl, getLoom, hlooms]
      exact stoppedSt_of_notMem hst
  · have h := replayOne_recovered hend
    exact ⟨_, replayed true, h.mem, by rw [h.faults], h.count, h.status 6 (by decide) (by decide)⟩
  · have h := replayOne_last hend h15
    exact ⟨_, replayed false, h.mem, by rw [h.faults]; exact listed _, h.count,
      h.status 7 (by decide) (by decide)⟩
  · rw [returned, returned, stackReturn_of_poisoned hu]
  · have hn := stackOf_lt s.variant addr
    exact ⟨_, run (.stackFailed n) _ rfl, stackFails_status hn, fun l hl hh hst => stackFails_faulted hn hl hh hst⟩

/-- Settles O34: the thrum words, the errors of the tile stores and those of the stacks. Which bits are wrong in a failing word is free. -/
theorem memoryErrors : Obligations.MemoryErrors := ⟨thrumWords, tileStoreErrors, stackErrors⟩

end Sys2Proof.Machine
end

section
/-! SUPPORT. A state at which a forced record does not come to stand in the map that PLC_FORCE publishes. With it the obligation about placement
commands is refuted. -/
namespace Sys2Proof.Machine
open Sys2Proof

/-- A group of one expert on one tile. -/
def oneExpert : IntentRec :=
  { kind := 2, pattern := 0, fmt := 0, obj := 5, bytes := 4096, a := 1, b := 1, c := 1, d := 0, reserved := false }

/-- A record for the group, of a kind that Table 6-3 does not list: an expert's place under kind 8. -/
def unlistedKind : MapRec :=
  { kind := 8, loom := 0, affIgnored := false, forced := false, obj := 5, addr := 0, bytes := 4096, count := 0, first := 0, extra := 0 }

/-- A module in test mode, whose stopped loom of one bay has the record in its map. -/
def unlistedMap : State :=
  { looms := [(0, { st := .stopped, bays := [0], intent := [oneExpert], map := [unlistedKind] })], svc := { testMode := true } }

/-- The record passes every check of PLC_FORCE: the answer is OK, yet the map published is empty. -/
theorem plcForce_drops_unlistedKind :
    (forceMap 0 [unlistedKind] unlistedMap).reply = [0] ∧ (getLoom (forceMap 0 [unlistedKind] unlistedMap) 0).map = [] := by decide

/-- Refutes O36: a forced record of an unlisted kind that stands for one of the map is taken with status OK, and the map published, made of the
listed kinds, does not have it. -/
theorem not_placementCommands : ¬ Obligations.PlacementCommands := by
  rintro ⟨-, hforced⟩
  obtain ⟨-, -, -, htaken⟩ := hforced unlistedMap 0 [unlistedKind] rfl
  obtain ⟨t, ht, -, -, -, -, hstands⟩ := htaken [] rfl rfl (by decide) (by decide) (by decide) (by decide)
  obtain ⟨m, hm, -⟩ := hstands unlistedKind List.mem_cons_self
  rw [← Host.Outcome.next.inj ht] at hm
  exact List.not_mem_nil (plcForce_drops_unlistedKind.2 ▸ hm)

end Sys2Proof.Machine
end

section
/-! SUPPORT. Hot rows (R217 to R220, R225): where a row is served, what a region holds after a change of a slot, and what the end of a handoff
and of an epoch leaves. With it the obligation about hot rows is settled. -/
namespace Sys2Proof.Machine
open Sys2Proof

/-! ## Regions of a loom -/

section
variable {s : State} {l obj : Nat} {h g : HotRegion}

theorem obj_of_hotOf (hh : hotOf s l obj = some h) : h.obj = obj := by
  simpa using List.find?_some hh

theorem mem_of_hotOf (hh : hotOf s l obj = some h) : h ∈ (getLoom s l).hot := List.mem_of_find?_eq_some hh

theorem hotOf_congr {t : State} (ht : getLoom t l = getLoom s l) (obj : Nat) : hotOf t l obj = hotOf s l obj := by rw [hotOf, ht, hotOf]

@[simp] theorem getLoom_putHot (s : State) (l k : Nat) (h : HotRegion) :
    getLoom (putHot s l h) k = if l = k then setHot (getLoom s l) h else getLoom s k := getLoom_modLoom ..

/-- Every region of a table is replaced by the one that is put in its place. -/
theorem mem_setHot {x : Loom} (hg : g ∈ (setHot x h).hot) : g = h ∨ g ∈ x.hot := by
  obtain ⟨f, hf, rfl⟩ := List.mem_map.mp hg
  split
  · exact .inl rfl
  · exact .inr hf

/-- A region put in the place of a table's own is found there. -/
theorem find_setHot {x : Loom} (hobj : g.obj = obj) (hh : (x.hot.find? fun f => f.obj = obj) = some h) :
    ((setHot x g).hot.find? fun f => f.obj = obj) = some g := by
  have hsame : (fun f : HotRegion => decide (f.obj = obj)) ∘ (fun f => if f.obj = g.obj then g else f) = fun f => decide (f.obj = obj) := by
    funext f
    simp only [Function.comp_apply]
    split
    · next hf => rw [hf]
    · rfl
  have hf : h.obj = obj := by simpa using List.find?_some hh
  rw [setHot, List.find?_map, hsame, hh, Option.map_some, if_pos (hf.trans hobj.symm)]

theorem hotOf_putHot (hobj : g.obj = obj) (hh : hotOf s l obj = some h) : hotOf (putHot s l g) l obj = some g := by
  rw [hotOf, getLoom_putHot, if_pos rfl]
  exact find_setHot hobj hh

@[simp] theorem slotOf_putSlot (h : HotRegion) (k j : Nat) (e : SlotEntry) : slotOf (putSlot h k e) j = if k = j then e else slotOf h j := tget_tput ..

end

/-! ## Row agents (R217, R220) -/

section
variable {s : State} {a : RowAccess} {h : HotRegion} {r : MapRec}

theorem homeOf_eq (hr : objRec (getLoom s a.loom) a.obj = some r) : homeOf s a h.rowBytes = r.addr + a.row * h.rowBytes + a.off := by
  rw [homeOf, hr]

theorem exec_rowAgentAccess (hd : s.svc.dark = false) : exec (.rowAgentAccess a) s = .next (agentAccess s a) := congrArg _ (alive_light _ hd)

variable (hh : hotOf s a.loom a.obj = some h) (hr : objRec (getLoom s a.loom) a.obj = some r) (hrow : (a.row + 1) * h.rowBytes ≤ r.bytes)
  (hoff : a.off + a.data.length ≤ h.rowBytes)
include hh hr hrow hoff

/-- An access inside its row, of a table whose slots the loom may use, is held or served. -/
theorem agentAccess_eq (hslot : (rowSlot h a.row).isSome = false ∨ (getLoom s a.loom).holder = true)
    (hcopy : a.write = true → uncopied s (r.addr + a.row * h.rowBytes + a.off) a.data.length = none) :
    agentAccess s a = if rowsHeldUp s (getLoom s a.loom) (getLoom s a.loom).rowWaits [(a.obj, a.row)] = true
      then modLoom s a.loom fun x => { x with rowWaits := x.rowWaits ++ [{ who := .agent a, rows := [(a.obj, a.row)] }] }
      else serveRow s a := by
  have hinside : (decide (r.bytes < (a.row + 1) * h.rowBytes) || decide (h.rowBytes < a.off + a.data.length)
      || ((rowSlot h a.row).isSome && !(getLoom s a.loom).holder)) = false := by
    simp only [Bool.or_eq_false_iff, decide_eq_false_iff_not, Bool.and_eq_false_iff, Bool.not_eq_false']
    exact ⟨⟨by omega, by omega⟩, hslot⟩
  have hgoes : (if a.write = true then uncopied s (homeOf s a h.rowBytes) a.data.length else none) = none := by
    rw [homeOf_eq hr]
    split
    · next hw => exact hcopy hw
    · rfl
  simp only [agentAccess, hh, hr, hinside, Bool.false_eq_true, if_false, hgoes]

end

/-- An access is served at the owner of its home's first byte. -/
theorem serveRow_eq {s : State} {a : RowAccess} {h : HotRegion} {r : MapRec} (hh : hotOf s a.loom a.obj = some h)
    (hr : objRec (getLoom s a.loom) a.obj = some r) :
    serveRow s a = serveAt (modLoom s a.loom fun x => rowTouch x h a.row a.write) a
      (ownerAt (getLoom s a.loom) (r.addr + a.row * h.rowBytes + a.off)) := by
  simp only [serveRow, hh, homeOf_eq hr]

/-- A row in no slot is owned by its home. -/
theorem ownerAt_home {x : Loom} {q : RowRef} {home : Nat} (hrow : rowAt x home = some q) (hs : rowSlot q.hot q.row = none) : ownerAt x home = home := by
  simp only [ownerAt, rowHome, hrow, hs, Option.getD_some]

/-- A row in a VALID slot is owned by the slot. -/
theorem ownerAt_slot {x : Loom} {q : RowRef} {home k : Nat} (hrow : rowAt x home = some q) (hs : rowSlot q.hot q.row = some k)
    (hv : (slotOf q.hot k).st = .valid) : ownerAt x home = slotAddr q.hot k + q.off := by
  have hst : (tget noSlot q.hot.slots k).st = .valid := hv
  simp only [ownerAt, rowHome, hrow, hs, hst, Option.getD_some]

theorem serveAt_read {s : State} {a : RowAccess} (at_ : Nat) (hw : a.write = false) : serveAt s a at_ = { s with
    reply := (List.range ((a.data.length + 7) / 8)).map fun i => BitVec.ofNat 64 (fieldAt (rdN s at_ a.data.length) (8 * i) 8) } := by
  have hlen : (rdN s at_ a.data.length).length = a.data.length := by simp [rdN, memGetN_eq_map]
  simp only [serveAt, hw, Bool.false_eq_true, if_false, hlen]

theorem serveAt_write {s : State} {a : RowAccess} (at_ : Nat) (hw : a.write = true) : serveAt s a at_ = wrData s at_ a.data := by
  simp only [serveAt, hw, if_true]

@[simp] theorem wrData_mem (s : State) (a : Nat) (bs : List Byte) : (wrData s a bs).mem = memSetN s.mem a bs := by
  rw [wrData]
  dsimp only
  split <;> rfl

/-- A write of bytes stores each at its place. -/
theorem storesTo_memSetN (m : List Host.Cell) (a : Nat) (bs : List Byte) :
    storesTo m (memSetN m a bs) ((List.range bs.length).map fun i => (a + i, bs.getD i 0)) := by
  rw [memSetN_eq_storeBytes]
  exact storesTo_storeBytes m _

theorem storesTo_memSetN_rdN (s : State) (a b n : Nat) :
    storesTo s.mem (memSetN s.mem a (rdN s b n)) ((List.range n).map fun i => (a + i, memGet s.mem (b + i))) := by
  rw [memSetN_eq_storeBytes, storesAt_rdN]
  exact storesTo_storeBytes s.mem _

/-- A row in handoff holds up an access to it. -/
theorem rowsHeldUp_of_moving {s : State} {l obj row k : Nat} {h : HotRegion} (before : List RowWait) (hh : hotOf s l obj = some h)
    (hs : rowSlot h row = some k) (hm : (slotOf h k).st ≠ .valid) : rowsHeldUp s (getLoom s l) before [(obj, row)] = true := by
  have hmoving : rowMoving (getLoom s l) (obj, row) = true := by
    refine List.any_eq_true.mpr ⟨h, mem_of_hotOf hh, ?_⟩
    have hst : (tget noSlot h.slots k).st ≠ .valid := hm
    simp [obj_of_hotOf hh, hs, hst]
  simp [rowsHeldUp, hmoving]

/-- An access held earlier to the row holds up an access to it. -/
theorem rowsHeldUp_of_waiting {s : State} {x : Loom} {before : List RowWait} {row : Nat × Nat} {w : RowWait} (hw : w ∈ before)
    (hu : userWaits s x w.who = true) (hrow : row ∈ w.rows) : rowsHeldUp s x before [row] = true := by
  have hbehind : (before.any fun w => userWaits s x w.who && w.rows.any [row].contains) = true :=
    List.any_eq_true.mpr ⟨w, hw, by simpa [hu] using hrow⟩
  rw [rowsHeldUp, hbehind, Bool.or_true]

theorem rowAgents : RowAgents := by
  intro s a h r hd hh hr hrow hoff x home free held hat
  have run := fun hslot hcopy => (exec_rowAgentAccess (a := a) hd).trans (congrArg _ (agentAccess_eq hh hr hrow hoff hslot hcopy))
  have reads : ∀ {p : Prop}, a.write = false → a.write = true → p := fun hf ht => absurd (hf.symm.trans ht) Bool.false_ne_true
  have holds : (rowSlot h a.row).isSome = false ∨ x.holder = true → a.write = false → rowsHeldUp s x x.rowWaits [(a.obj, a.row)] = true → held := by
    intro hslot hw hup
    refine ⟨_, (run hslot (reads hw)).trans (congrArg _ (if_pos hup)), rfl, ?_⟩
    rw [getLoom_modLoom, if_pos rfl]
  have serves : (rowSlot h a.row).isSome = false ∨ x.holder = true → free → (a.write = true → uncopied s home a.data.length = none) →
      exec (.rowAgentAccess a) s = .next (serveAt (modLoom s a.loom fun x => rowTouch x h a.row a.write) a (ownerAt x home)) := by
    intro hslot hfree hcopy
    rw [run hslot hcopy, if_neg (Bool.eq_false_iff.mp hfree), serveRow_eq hh hr]
  refine ⟨fun hs hfree hw => ?_, fun hs hfree hw hcopy => ?_, fun k hs hfree hhold hv => ⟨fun hw => ?_, fun hw hcopy => ?_⟩,
    fun k hs hhold hm hw => ?_, fun hslot hw ⟨w, hwait, hu, hrows⟩ => ?_⟩
  · refine ⟨_, serves (.inl (by rw [hs]; rfl)) hfree (reads hw), ?_⟩
    rw [serveAt_read _ hw, ownerAt_home hat hs]
    exact ⟨rfl, rfl⟩
  · refine ⟨_, serves (.inl (by rw [hs]; rfl)) hfree fun _ => hcopy, ?_⟩
    rw [serveAt_write _ hw, ownerAt_home hat hs, wrData_mem]
    exact storesTo_memSetN s.mem _ _
  · refine ⟨_, serves (.inr hhold) hfree (reads hw), ?_⟩
    rw [serveAt_read _ hw, ownerAt_slot hat hs hv]
    exact ⟨rfl, rfl⟩
  · refine ⟨_, serves (.inr hhold) hfree fun _ => hcopy, ?_⟩
    rw [serveAt_write _ hw, ownerAt_slot hat hs hv, wrData_mem]
    exact storesTo_memSetN s.mem _ _
  · refine holds (.inr hhold) hw (rowsHeldUp_of_moving _ hh hs ?_)
    rcases hm with hm | hm <;> rw [hm] <;> decide
  · refine holds (hslot.imp_left fun hs => by rw [hs]; rfl) hw (rowsHeldUp_of_waiting hwait hu hrows)

/-! ## Handoffs (R219, R220) -/

/-- With no promotion that waits, none begins. -/
theorem beginAll_of_nothingTodo {s : State} (h : nothingTodo s) : beginAll s = s := by
  have hone : ∀ l < 32, (getLoom s l).hot.foldl (fun s h => beginTodo l h.obj h.todo.length s) s = s := fun l hl =>
    List.foldlRecOn (motive := fun u => u = s) _ _ rfl fun u hu g hg => by rw [h l g hl hg, hu]; rfl
  exact List.foldlRecOn (motive := fun u => u = s) _ _ rfl fun u hu l hl => by
    rw [hu]
    exact hone l (List.mem_range.mp (List.mem_of_mem_filter hl))

/-- A handoff that ends where nothing else waits: its region stands, and it is counted. -/
theorem handoffEnd_eq {s : State} {l : Nat} (hidle : agentsIdle s l) (htodo : nothingTodo s) : handoffEnd s l = countHandoffs s l 1 := by
  have hrest : ∀ k, (getLoom (countHandoffs s l 1) k).rowWaits = (getLoom s k).rowWaits ∧ (getLoom (countHandoffs s l 1) k).hot = (getLoom s k).hot := by
    intro k
    rw [countHandoffs, getLoom_modLoom]
    split
    · next e => rw [e]; exact ⟨rfl, rfl⟩
    · exact ⟨rfl, rfl⟩
  rw [handoffEnd, serveAll_of_idle fun w hw => hidle w ((hrest l).1 ▸ hw), beginAll_of_nothingTodo fun j g hj hg => htodo j g hj ((hrest j).2 ▸ hg)]

/-- What a handoff that ends leaves of a loom: the new region of its table, and the count. -/
theorem handoffEnd_putHot {s u : State} {l obj : Nat} {h g : HotRegion} (hu : u.looms = s.looms) (hh : hotOf s l obj = some h) (hobj : g.obj = h.obj)
    (htodo : g.todo = h.todo) (hidle : agentsIdle s l) (hnone : nothingTodo s) :
    (handoffEnd (putHot u l g) l).mem = u.mem ∧ hotOf (handoffEnd (putHot u l g) l) l obj = some g ∧
      (getLoom (handoffEnd (putHot u l g) l) l).handoffs = ((getLoom s l).handoffs + 1) % 2 ^ 48 := by
  have hloom : ∀ k, getLoom u k = getLoom s k := fun k => by rw [getLoom, hu]; rfl
  have hend : handoffEnd (putHot u l g) l = countHandoffs (putHot u l g) l 1 := by
    refine handoffEnd_eq (fun w hw => hidle w ?_) fun j f hj hf => ?_
    · rw [getLoom_putHot, if_pos rfl, hloom] at hw
      exact hw
    · rw [getLoom_putHot] at hf
      split at hf
      · next e =>
        rcases mem_setHot hf with rfl | hf
        · exact htodo.trans (hnone j h hj (e ▸ mem_of_hotOf hh))
        · exact hnone j f hj (e ▸ hloom l ▸ hf)
      · exact hnone j f hj (hloom j ▸ hf)
  rw [hend]
  refine ⟨rfl, ?_, ?_⟩
  · rw [← hotOf_putHot (hobj.trans (obj_of_hotOf hh)) ((hotOf_congr (hloom l) obj).trans hh), hotOf, countHandoffs, getLoom_modLoom, if_pos rfl]
    rfl
  · rw [countHandoffs, getLoom_modLoom, if_pos rfl, getLoom_putHot, if_pos rfl, hloom]
    rfl

theorem handoffs : Handoffs := by
  intro s l obj k h r hd hh hr hhold hnone hidle e home one
  have lands : e.st = .movingIn → ∀ p, exec (.homeDataLands l obj k p) s = .next (if p || poisonHit s home h.rowBytes
      then handoffEnd (putHot (meetUnits s none [(home, h.rowBytes)]) l (putSlot h k noSlot)) l
      else handoffEnd (putHot (wrN s (slotAddr h k) (rdN s home h.rowBytes)) l (putSlot h k { e with st := .valid, dirty := false })) l) := by
    intro hst p
    refine congrArg _ ((alive_light _ hd).trans ?_)
    have hst' : (slotOf h k).st = .movingIn := hst
    simp only [homeLands, hh, hr, hst', hhold, ne_eq, not_true_eq_false, decide_false, Bool.not_true, Bool.or_self, Bool.false_eq_true, if_false]
    rfl
  have accepts : e.st = .movingOut → e.next = none → exec (.homeWriteAccepted l obj k) s = .next
      (handoffEnd (putHot (wrData s home (rdN s (slotAddr h k) h.rowBytes)) l (putSlot h k noSlot)) l) := by
    intro hst hnext
    refine congrArg _ ((alive_light _ hd).trans ?_)
    have hst' : (slotOf h k).st = .movingOut := hst
    have hnext' : (slotOf h k).next = none := hnext
    simp only [homeAccepts, hh, hr, hst', hnext', hhold, ne_eq, not_true_eq_false, decide_false, Bool.not_true, Bool.or_self, Bool.false_eq_true,
      if_false]
    rfl
  refine ⟨fun hst hclean => ?_, fun p hst hp => ?_, fun hst hnext => ?_⟩
  · obtain ⟨hmem, hhot, hcount⟩ := handoffEnd_putHot (u := wrN s (slotAddr h k) (rdN s home h.rowBytes))
      (g := putSlot h k { e with st := .valid, dirty := false }) rfl hh rfl rfl hidle hnone
    refine ⟨_, _, (lands hst false).trans (congrArg _ (if_neg (by simp [hclean]))), ?_, hhot, ?_, ?_, ?_, hcount⟩
    · rw [hmem, wrN_mem]
      exact storesTo_memSetN_rdN s _ _ _
    all_goals rw [slotOf_putSlot, if_pos rfl]
  · obtain ⟨hmem, hhot, hcount⟩ := handoffEnd_putHot (u := meetUnits s none [(home, h.rowBytes)]) (g := putSlot h k noSlot)
      (meetUnits_looms ..) hh rfl rfl hidle hnone
    have hpois : (p || poisonHit s home h.rowBytes) = true := by simpa using hp
    refine ⟨_, _, (lands hst p).trans (congrArg _ (if_pos hpois)), hmem.trans (meetUnits_mem ..), hhot, ?_, hcount⟩
    rw [slotOf_putSlot, if_pos rfl]
    rfl
  · obtain ⟨hmem, hhot, hcount⟩ := handoffEnd_putHot (u := wrData s home (rdN s (slotAddr h k) h.rowBytes)) (g := putSlot h k noSlot)
      (wrData_looms ..) hh rfl rfl hidle hnone
    refine ⟨_, _, accepts hst hnext, ?_, hhot, ?_, hcount⟩
    · rw [hmem, wrData_mem]
      exact storesTo_memSetN_rdN s _ _ _
    · rw [slotOf_putSlot, if_pos rfl]
      rfl

/-! ## Epochs (R218, R225) -/

/-- A written PLC_MIG_CTRL, field by field (Table 6-12). -/
theorem migValue_fields (old new : W64) : let w := (migValue old new).toNat
    w / 2 ^ 31 = new.toNat / 2 ^ 31 % 2 ∧
    w / 2 ^ 16 % 2 ^ 15 = (if new.toNat / 2 ^ 16 % 2 ^ 8 = 0 then old.toNat / 2 ^ 16 % 2 ^ 8 else new.toNat / 2 ^ 16 % 2 ^ 8) ∧
    w % 2 ^ 16 = if 10 ≤ new.toNat % 2 ^ 16 ∧ new.toNat % 2 ^ 16 ≤ 10000 then new.toNat % 2 ^ 16 else old.toNat % 2 ^ 16 := by
  simp only [migValue, bits, Nat.shiftRight_eq_div_pow, BitVec.toNat_ofNat, Bool.and_eq_true, decide_eq_true_eq]
  generalize new.toNat = n
  generalize old.toNat = o
  split_ifs <;> omega

/-- A table after an epoch with promotion off: its counts halved, its candidates and the epoch's handoffs cleared. -/
def quietEpoch (h : HotRegion) : HotRegion :=
  { h with slots := h.slots.map fun kv => (kv.1, { kv.2 with count := kv.2.count / 2 }), cands := [], handoffs := [], todo := [] }

theorem epochHot_off (s : State) (l promoteMin : Nat) (h : HotRegion) : epochHot s l false promoteMin h = putHot s l (quietEpoch h) := by
  simp only [epochHot, Bool.false_and, Bool.false_eq_true, if_false]
  rfl

theorem tget_map {α β : Type} (f : α → β) (d : α) (t : Table α) (k : Nat) : tget (f d) (t.map fun kv => (kv.1, f kv.2)) k = f (tget d t k) := by
  induction t with
  | nil => rfl
  | cons p t ih =>
    simp only [List.map_cons, tget, ih]
    split <;> rfl

theorem slotOf_quietEpoch (h : HotRegion) (k : Nat) : slotOf (quietEpoch h) k = { slotOf h k with count := (slotOf h k).count / 2 } :=
  tget_map (fun e : SlotEntry => ({ e with count := e.count / 2 } : SlotEntry)) noSlot h.slots k

/-- The epoch of a loom's tables ends, under the value v of PLC_MIG_CTRL. -/
def epochLoom (v : Nat) (s : State) (l : Nat) : State :=
  (getLoom s l).hot.foldl (fun s h => match hotOf s l h.obj with
    | some h => epochHot s l (bits v 31 31 = 1) (bits v 23 16) h
    | none => s) s

/-- The epoch of every loom's tables ends. -/
def epochLooms (s : State) : State := (liveLooms s).foldl (epochLoom (getReg s 0x00300008).toNat) s

/-- After the tables' epochs, what was written to PLC_MIG_CTRL takes effect. -/
theorem epochEnd_ctrl (s : State) : (epochEnd s).looms = (epochLooms s).looms ∧ (epochEnd s).migNext = none ∧
    ∀ w, (epochLooms s).migNext = some w → getReg (epochEnd s) 0x00300008 = w := by
  unfold epochEnd
  dsimp only
  split
  · next w hw =>
    refine ⟨rfl, rfl, fun v hv => ?_⟩
    rw [← Option.some.inj (hw.symm.trans hv)]
    exact (getReg_setReg ..).trans (if_pos rfl)
  · next hnone => exact ⟨rfl, hnone, fun v hv => absurd (hnone.symm.trans hv) nofun⟩

section
variable {v : Nat} (hoff : bits v 31 31 ≠ 1)
include hoff

/-- With promotion off, what holds before a loom's epoch ends and is kept by a new region of one of its tables holds after it. -/
theorem epochLoom_off {P : State → Prop} {s : State} {l : Nat} (hput : ∀ u h, P u → P (putHot u l h)) (hs : P s) : P (epochLoom v s l) := by
  refine List.foldlRecOn _ _ hs fun u hu g _ => ?_
  split
  · rw [decide_eq_false hoff, epochHot_off]
    exact hput u _ hu
  · exact hu

theorem foldl_epochLoom_migNext (ls : List Nat) (s : State) : (ls.foldl (epochLoom v) s).migNext = s.migNext :=
  List.foldlRecOn (motive := fun u : State => u.migNext = s.migNext) ls _ rfl fun _ hu _ _ =>
    epochLoom_off (P := fun u => u.migNext = s.migNext) hoff (fun _ _ hw => hw) hu

/-- The epochs of other looms leave a loom as it is. -/
theorem getLoom_foldl_epochLoom {ls : List Nat} {l : Nat} (hl : l ∉ ls) (s : State) : getLoom (ls.foldl (epochLoom v) s) l = getLoom s l :=
  List.foldlRecOn (motive := fun u : State => getLoom u l = getLoom s l) ls _ rfl fun _ hu k hk =>
    epochLoom_off (P := fun u => getLoom u l = getLoom s l) hoff (fun u h hw => by rw [getLoom_putHot, if_neg (ne_of_mem_of_not_mem hk hl), hw]) hu

theorem hotOf_epochLoom {s : State} {l : Nat} {h : HotRegion} (hh : (getLoom s l).hot = [h]) : hotOf (epochLoom v s l) l h.obj = some (quietEpoch h) := by
  have hfind : hotOf s l h.obj = some h := by simp [hotOf, hh]
  have hone : epochLoom v s l = putHot s l (quietEpoch h) := by
    simp only [epochLoom, hh, List.foldl_cons, List.foldl_nil, hfind, decide_eq_false hoff, epochHot_off]
  rw [hone]
  exact hotOf_putHot rfl hfind

/-- After the epochs of looms that are named once each, a table alone in its loom has had its own. -/
theorem hotOf_foldl_epochLoom {ls : List Nat} {s : State} {l : Nat} {h : HotRegion} (hnodup : ls.Nodup) (hl : l ∈ ls) (hh : (getLoom s l).hot = [h]) :
    hotOf (ls.foldl (epochLoom v) s) l h.obj = some (quietEpoch h) := by
  obtain ⟨before, after, rfl⟩ := List.append_of_mem hl
  obtain ⟨hb, ha⟩ : l ∉ before ∧ l ∉ after := by
    rw [List.nodup_middle, List.nodup_cons, List.mem_append, not_or] at hnodup
    exact hnodup.1
  rw [List.foldl_append, List.foldl_cons, hotOf_congr (getLoom_foldl_epochLoom hoff ha _)]
  exact hotOf_epochLoom hoff (by rw [getLoom_foldl_epochLoom hoff hb, hh])

end

theorem migrationEpochs : MigrationEpochs := by
  intro s hd
  refine ⟨fun who v hadm => congrArg _ ((alive_light _ hd).trans ?_), fun who v hadm => ⟨migValue (s.migNext.getD (getReg s 0x00300008)) v,
    congrArg _ ((alive_light _ hd).trans ?_), migValue_fields ..⟩, fun l h hl hst hbit hh => ?_⟩
  · rw [hadm]; rfl
  · rw [hadm]; rfl
  · have hoff : bits (getReg s 0x00300008).toNat 31 31 ≠ 1 := by
      rw [BitVec.getLsbD, Nat.testBit_eq_decide_div_mod_eq, decide_eq_false_iff_not] at hbit
      simpa only [bits, Nat.shiftRight_eq_div_pow, Nat.sub_self, Nat.zero_add, Nat.pow_one] using hbit
    have hhot := hotOf_foldl_epochLoom hoff (List.nodup_range.filter _) (mem_liveLooms hl hst) hh
    obtain ⟨hlooms, hnone, hctrl⟩ := epochEnd_ctrl s
    refine ⟨epochEnd s, quietEpoch h, congrArg _ (alive_light _ hd), epochEnd_mem s, hnone,
      fun w hw => hctrl w ((foldl_epochLoom_migNext hoff ..).trans hw), ?_, rfl, fun k => ?_⟩
    · rw [hotOf, getLoom, hlooms]
      exact hhot
    · rw [slotOf_quietEpoch]
      exact ⟨rfl, rfl, rfl⟩

/-- Settles O37: where the row agents serve and hold, what the two ends of a handoff move, and what an epoch with promotion off leaves. -/
theorem hotRows : Obligations.HotRows := ⟨rowAgents, handoffs, migrationEpochs⟩

end Sys2Proof.Machine
end

section
/-! SUPPORT. The routes of the package fabric (R196, R198, R199, R202): the ports between neighbours, and the neighbour that a router sends a flit on to.
With it the claim about routes. -/
namespace Sys2Proof.Machine
open Sys2Proof

/-! ## The grid of routers (R196, R198) -/

section
variable {n x y : Nat}

theorem nodeRouter_of_lt (hn : n < 640) : nodeRouter n = n := if_pos hn

theorem nodeAt_lt (hx : x < 32) (hy : y < 20) : nodeAt x y < 640 := by unfold nodeAt; omega

theorem nodeX_nodeAt (hx : x < 32) (hy : y < 20) : nodeX (nodeAt x y) = x := by
  rw [nodeX, nodeRouter_of_lt (nodeAt_lt hx hy), nodeAt]
  omega

theorem nodeY_nodeAt (hx : x < 32) (hy : y < 20) : nodeY (nodeAt x y) = y := by
  rw [nodeY, nodeRouter_of_lt (nodeAt_lt hx hy), nodeAt]
  omega

theorem nodeX_lt (hn : n < 640) : nodeX n < 32 := by rw [nodeX, nodeRouter_of_lt hn]; omega

theorem nodeY_lt (hn : n < 640) : nodeY n < 20 := by rw [nodeY, nodeRouter_of_lt hn]; omega

theorem nodeAt_node (hn : n < 640) : nodeAt (nodeX n) (nodeY n) = n := by
  rw [nodeX, nodeY, nodeRouter_of_lt hn, nodeAt]
  omega

theorem exists_nodeAt (hn : n < 640) : ∃ x y, x < 32 ∧ y < 20 ∧ n = nodeAt x y := ⟨_, _, nodeX_lt hn, nodeY_lt hn, (nodeAt_node hn).symm⟩

/-- A link within a die ends at the neighbour. -/
theorem portEnds_inDie {k : Nat} (line : Nat) (hn : n < 640) (hk : k < 4)
    (hin : k = 0 ∧ n % 4 ≠ 0 ∨ k = 1 ∧ n % 4 ≠ 3 ∨ k = 2 ∧ n % 16 / 4 ≠ 0 ∨ k = 3 ∧ n % 16 / 4 ≠ 3) :
    portEnds (edgePorts + 4 * n + k) line = some (n, nodeStep n k) := by
  have hp : ¬ edgePorts + 4 * n + k < edgePorts := by omega
  have hs : edgePorts + 4 * n + k < siteBase := by simp only [edgePorts, siteBase]; omega
  have hnode : (edgePorts + 4 * n + k - edgePorts) / 4 = n := by omega
  have hdir : (edgePorts + 4 * n + k - edgePorts) % 4 = k := by omega
  rw [portEnds, if_neg hp, if_pos hs, hnode, hdir]
  rcases hin with ⟨rfl, h⟩ | ⟨rfl, h⟩ | ⟨rfl, h⟩ | ⟨rfl, h⟩ <;> simp [h]

/-- The bridges of a die edge along x, and of one along y: where they lead on a line. -/
theorem portEnds_horEdge {a c i : Nat} (line : Nat) (ha : a < 7) (hc : c < 5) (hi : i < 2) : portEnds (2 * horEdge a c + i) line =
    some (if i = 0 then (nodeAt (a * 4 + 3) (c * 4 + line % 4), nodeAt (a * 4 + 4) (c * 4 + line % 4))
      else (nodeAt (a * 4 + 4) (c * 4 + line % 4), nodeAt (a * 4 + 3) (c * 4 + line % 4))) := by
  have he : (2 * horEdge a c + i) / 2 = horEdge a c := by omega
  have hp : 2 * horEdge a c + i < edgePorts := by simp only [horEdge, edgePorts]; omega
  have hi' : (2 * horEdge a c + i) % 2 = i := by omega
  have hx : horEdge a c % 7 = a := by rw [horEdge]; omega
  have hy : horEdge a c / 7 = c := by rw [horEdge]; omega
  have hh : horEdge a c < 35 := by rw [horEdge]; omega
  simp only [portEnds, if_pos hp, he, hi', if_pos hh, hx, hy]

theorem portEnds_verEdge {a c i : Nat} (line : Nat) (ha : a < 8) (hc : c < 4) (hi : i < 2) : portEnds (2 * verEdge a c + i) line =
    some (if i = 0 then (nodeAt (a * 4 + line % 4) (c * 4 + 3), nodeAt (a * 4 + line % 4) (c * 4 + 4))
      else (nodeAt (a * 4 + line % 4) (c * 4 + 4), nodeAt (a * 4 + line % 4) (c * 4 + 3))) := by
  have he : (2 * verEdge a c + i) / 2 = verEdge a c := by omega
  have hp : 2 * verEdge a c + i < edgePorts := by simp only [verEdge, edgePorts]; omega
  have hi' : (2 * verEdge a c + i) % 2 = i := by omega
  have hx : (verEdge a c - 35) % 8 = a := by rw [verEdge]; omega
  have hy : (verEdge a c - 35) / 8 = c := by rw [verEdge]; omega
  have hh : ¬ verEdge a c < 35 := by rw [verEdge]; omega
  simp only [portEnds, if_pos hp, he, hi', if_neg hh, hx, hy]

end

theorem sendLine_horEdge {a c i n : Nat} (ha : a < 7) (hc : c < 5) (hi : i < 2) : sendLine (2 * horEdge a c + i) n = nodeY n % 4 := by
  have he : (2 * horEdge a c + i) / 2 < 35 := by rw [horEdge]; omega
  rw [sendLine, if_pos (by rw [horEdge]; omega), if_pos he]
  rfl

theorem sendLine_verEdge {a c i n : Nat} (ha : a < 8) (hc : c < 4) (hi : i < 2) : sendLine (2 * verEdge a c + i) n = nodeX n % 4 := by
  have he : ¬ (2 * verEdge a c + i) / 2 < 35 := by rw [verEdge]; omega
  rw [sendLine, if_pos (by rw [verEdge]; omega), if_neg he]
  rfl

/-! ## Neighbours (R198, R199) -/

/-- The port toward the neighbour in a direction leads to it, on the line that the router sends on. -/
def Leads (n k m : Nat) : Prop := portEnds (portToward n k) (sendLine (portToward n k) n) = some (n, m)

section
variable {n m k j : Nat} (hnm : nodeStep n k = m)
include hnm

/-- Neighbours in one die are joined by a link within it. -/
theorem leads_inDie (hn : n < 640) (hd : n / 16 = m / 16) (hk : k < 4)
    (hin : k = 0 ∧ n % 4 ≠ 0 ∨ k = 1 ∧ n % 4 ≠ 3 ∨ k = 2 ∧ n % 16 / 4 ≠ 0 ∨ k = 3 ∧ n % 16 / 4 ≠ 3) : Leads n k m := by
  have hport : portToward n k = edgePorts + 4 * n + k := if_pos (hnm ▸ hd)
  rw [Leads, hport, portEnds_inDie _ hn hk hin, hnm]

/-- Neighbours in two dies are joined by the bridges of the edge between the dies, one each way. -/
theorem leads_bridge {e : Nat} (hmn : nodeStep m j = n) (hd : n / 16 < m / 16)
    (hk : (if k < 2 then horEdge (n / 16 % 8) (n / 16 / 8) else verEdge (n / 16 % 8) (n / 16 / 8)) = e)
    (hj : (if j < 2 then horEdge (n / 16 % 8) (n / 16 / 8) else verEdge (n / 16 % 8) (n / 16 / 8)) = e)
    (hup : portEnds (2 * e + 0) (sendLine (2 * e + 0) n) = some (n, m))
    (hdown : portEnds (2 * e + 1) (sendLine (2 * e + 1) m) = some (m, n)) : Leads n k m ∧ Leads m j n := by
  have hhigher : portToward n k = 2 * e + 0 := by
    simp only [portToward, hnm, if_neg hd.ne, min_eq_left hd.le, hk, if_pos hd]
  have hlower : portToward m j = 2 * e + 1 := by
    simp only [portToward, hmn, if_neg hd.ne', min_eq_right hd.le, hj, if_neg hd.le.not_gt]
  exact ⟨by rw [Leads, hhigher, hup], by rw [Leads, hlower, hdown]⟩

end

section
variable {x y : Nat}

theorem leads_x (hx : x + 1 < 32) (hy : y < 20) : Leads (nodeAt x y) 1 (nodeAt (x + 1) y) ∧ Leads (nodeAt (x + 1) y) 0 (nodeAt x y) := by
  have hx' : x < 32 := by omega
  have hup : nodeStep (nodeAt x y) 1 = nodeAt (x + 1) y := by rw [nodeStep, nodeX_nodeAt hx' hy, nodeY_nodeAt hx' hy]
  have hdown : nodeStep (nodeAt (x + 1) y) 0 = nodeAt x y := by rw [nodeStep, nodeX_nodeAt hx hy, nodeY_nodeAt hx hy, Nat.add_sub_cancel]
  by_cases hd : x % 4 = 3
  · have hedge : horEdge (nodeAt x y / 16 % 8) (nodeAt x y / 16 / 8) = horEdge (x / 4) (y / 4) := by rw [nodeAt]; congr 1 <;> omega
    have hends : x / 4 * 4 + 3 = x ∧ x / 4 * 4 + 4 = x + 1 ∧ y / 4 * 4 + y % 4 % 4 = y := by omega
    obtain ⟨hlow, hhigh, hline⟩ := hends
    have ha : x / 4 < 7 := by omega
    have hc : y / 4 < 5 := by omega
    refine leads_bridge hup hdown (by simp only [nodeAt]; omega) hedge hedge ?_ ?_
    · rw [sendLine_horEdge ha hc (by decide), nodeY_nodeAt hx' hy, portEnds_horEdge _ ha hc (by decide), hlow, hhigh, hline]
      rfl
    · rw [sendLine_horEdge ha hc (by decide), nodeY_nodeAt hx hy, portEnds_horEdge _ ha hc (by decide), hlow, hhigh, hline]
      rfl
  · have hdie : nodeAt x y / 16 = nodeAt (x + 1) y / 16 := by simp only [nodeAt]; omega
    exact ⟨leads_inDie hup (nodeAt_lt hx' hy) hdie (by decide) (.inr (.inl ⟨rfl, by rw [nodeAt]; omega⟩)),
      leads_inDie hdown (nodeAt_lt hx hy) hdie.symm (by decide) (.inl ⟨rfl, by rw [nodeAt]; omega⟩)⟩

theorem leads_y (hx : x < 32) (hy : y + 1 < 20) : Leads (nodeAt x y) 3 (nodeAt x (y + 1)) ∧ Leads (nodeAt x (y + 1)) 2 (nodeAt x y) := by
  have hy' : y < 20 := by omega
  have hup : nodeStep (nodeAt x y) 3 = nodeAt x (y + 1) := by rw [nodeStep, nodeX_nodeAt hx hy', nodeY_nodeAt hx hy'] <;> decide
  have hdown : nodeStep (nodeAt x (y + 1)) 2 = nodeAt x y := by rw [nodeStep, nodeX_nodeAt hx hy, nodeY_nodeAt hx hy, Nat.add_sub_cancel]
  by_cases hd : y % 4 = 3
  · have hedge : verEdge (nodeAt x y / 16 % 8) (nodeAt x y / 16 / 8) = verEdge (x / 4) (y / 4) := by rw [nodeAt]; congr 1 <;> omega
    have hends : y / 4 * 4 + 3 = y ∧ y / 4 * 4 + 4 = y + 1 ∧ x / 4 * 4 + x % 4 % 4 = x := by omega
    obtain ⟨hlow, hhigh, hline⟩ := hends
    have ha : x / 4 < 8 := by omega
    have hc : y / 4 < 4 := by omega
    refine leads_bridge hup hdown (by simp only [nodeAt]; omega) hedge hedge ?_ ?_
    · rw [sendLine_verEdge ha hc (by decide), nodeX_nodeAt hx hy', portEnds_verEdge _ ha hc (by decide), hlow, hhigh, hline]
      rfl
    · rw [sendLine_verEdge ha hc (by decide), nodeX_nodeAt hx hy, portEnds_verEdge _ ha hc (by decide), hlow, hhigh, hline]
      rfl
  · have hdie : nodeAt x y / 16 = nodeAt x (y + 1) / 16 := by simp only [nodeAt]; omega
    exact ⟨leads_inDie hup (nodeAt_lt hx hy') hdie (by decide) (.inr (.inr (.inr ⟨rfl, by rw [nodeAt]; omega⟩))),
      leads_inDie hdown (nodeAt_lt hx hy) hdie.symm (by decide) (.inr (.inr (.inl ⟨rfl, by rw [nodeAt]; omega⟩)))⟩

/-- A router has a neighbour nearer to another column, over the port toward it. -/
theorem leads_toward_x {x' : Nat} (hx : x < 32) (hx' : x' < 32) (hy : y < 20) (hne : x ≠ x') :
    ∃ z, z < 32 ∧ Leads (nodeAt x y) (if x' < x then 0 else 1) (nodeAt z y) ∧ max z x' - min z x' + 1 = max x x' - min x x' := by
  split
  · obtain ⟨z, rfl⟩ : ∃ z, x = z + 1 := ⟨x - 1, by omega⟩
    exact ⟨z, by omega, (leads_x hx hy).2, by omega⟩
  · exact ⟨x + 1, by omega, (leads_x (by omega) hy).1, by omega⟩

theorem leads_toward_y {y' : Nat} (hx : x < 32) (hy : y < 20) (hy' : y' < 20) (hne : y ≠ y') :
    ∃ z, z < 20 ∧ Leads (nodeAt x y) (if y' < y then 2 else 3) (nodeAt x z) ∧ max z y' - min z y' + 1 = max y y' - min y y' := by
  split
  · obtain ⟨z, rfl⟩ : ∃ z, y = z + 1 := ⟨y - 1, by omega⟩
    exact ⟨z, by omega, (leads_y hx hy).2, by omega⟩
  · exact ⟨y + 1, by omega, (leads_y hx (by omega)).1, by omega⟩

end

/-- Which way a router sends a flit for another router: along x unless x agrees or the traffic is detoured and y does not. -/
theorem nextPort_eq (s : State) {n : Nat} {f : FabFlit} (hn : n < 640) (hd : f.dest < 640) (hne : n ≠ f.dest) :
    nextPort s n f = some (portToward n (if nodeX n ≠ nodeX f.dest ∧ (detoured s f.src f.dest = false ∨ nodeY n = nodeY f.dest)
      then if nodeX f.dest < nodeX n then 0 else 1 else if nodeY f.dest < nodeY n then 2 else 3)) := by
  rw [nextPort, if_neg hne, if_neg (by omega), if_neg (by rwa [nodeRouter_of_lt hd])]
  dsimp only
  congr 3
  by_cases hx : nodeX n = nodeX f.dest <;> simp [hx]

theorem fabricRoutes : FabricRoutes := by
  intro s n f hn hd hne
  obtain ⟨x, y, hx, hy, rfl⟩ := exists_nodeAt hn
  obtain ⟨x', y', hx', hy', hdest⟩ := exists_nodeAt hd
  have hapart : x ≠ x' ∨ y ≠ y' := not_and_or.mp fun h => hne (by rw [hdest, h.1, h.2])
  have hnext := nextPort_eq s hn hd hne
  simp only [hopsApart, hdest, nodeX_nodeAt, nodeY_nodeAt, hx, hy, hx', hy'] at hnext ⊢
  split at hnext
  · next hway =>
    obtain ⟨z, hz, hleads, hnear⟩ := leads_toward_x hx hx' hy hway.1
    refine ⟨_, nodeAt z y, hnext, hleads, nodeAt_lt hz hy, ?_, ?_, ?_⟩
    all_goals simp only [nodeX_nodeAt, nodeY_nodeAt, hz, hy]
    · omega
    · exact fun _ _ => trivial
    · exact fun hdet hyne => absurd hway.2 (by simp [hdet, hyne])
  · next hway =>
    have hyne : y ≠ y' := fun h => hway ⟨hapart.resolve_right (fun hy => hy h), .inr h⟩
    obtain ⟨z, hz, hleads, hnear⟩ := leads_toward_y hx hy hy' hyne
    refine ⟨_, nodeAt x z, hnext, hleads, nodeAt_lt hx hz, ?_, ?_, ?_⟩
    all_goals simp only [nodeX_nodeAt, nodeY_nodeAt, hz, hx]
    · omega
    · exact fun hdet hxne => absurd ⟨hxne, .inl hdet⟩ hway
    · exact fun _ _ => trivial

end Sys2Proof.Machine
end

section
/-! SUPPORT. What a fenced loom (R252, Table 7-3) leaves of the die edges: no operation of its end writes an edge's status register. -/
namespace Sys2Proof.Machine
open Sys2Proof

/-! ## Operations that write no register -/

theorem foldl_regs {α : Type} {g : State → α → State} (hg : ∀ s x, (g s x).regs = s.regs) (l : List α) (s : State) :
    (l.foldl g s).regs = s.regs :=
  List.foldlRecOn (motive := fun u : State => u.regs = s.regs) l g rfl fun u hu x _ => (hg u x).trans hu

@[simp] theorem serveShared_regs (s : State) (sem n : Nat) : (serveShared s sem n).regs = s.regs := by
  induction n generalizing s with
  | zero => rfl
  | succ n ih =>
    unfold serveShared
    split
    · rfl
    · split
      · rfl
      · dsimp only
        split
        · exact ih _
        · rfl

@[simp] theorem serveSem_regs (s : State) (sem : Nat) : (serveSem s sem).regs = s.regs := by
  unfold serveSem
  split
  · rfl
  · exact serveShared_regs ..

@[simp] theorem leaveQueues_regs (s : State) (l : Nat) : (leaveQueues s l).regs = s.regs := foldl_regs serveSem_regs ..

@[simp] theorem modTileOf_regs (s : State) (l t : Nat) (f : Tile → Tile) : (modTileOf s l t f).regs = s.regs := by
  unfold modTileOf
  dsimp only
  split
  · rfl
  · split_ifs <;> rfl

@[simp] theorem putFlit_regs (s : State) (d : Nat) (f : WeftFlit) : (putFlit s d f).regs = s.regs := by
  unfold putFlit
  dsimp only
  split <;> rfl

@[simp] theorem linkSend_regs (s : State) (d : Nat) (vc : BitVec 2) (bs : List Byte) : (linkSend s d vc bs).regs = s.regs := by
  refine foldl_regs (fun s i => ?_) _ s
  exact putFlit_regs ..

@[simp] theorem sendFrame_regs (s : State) (dir : Option Nat) (toward : Nat) (f : Frame) : (sendFrame s dir toward f).regs = s.regs := by
  cases dir with
  | none => rfl
  | some d => exact linkSend_regs ..

@[simp] theorem sendAborts_regs (s : State) (l tile : Nat) (o : CollOp) (st : Byte) : (sendAborts s l tile o st).regs = s.regs :=
  (foldl_regs (fun _ _ => sendFrame_regs ..) ..).trans (modTileOf_regs ..)

@[simp] theorem postCpl_regs (s : State) (sess ring : Nat) (status : Byte) (opcode : Nat) (tag : W32) (result : List Byte) :
    (postCpl s sess ring status opcode tag result).regs = s.regs := by
  unfold postCpl
  dsimp only
  split <;> rfl

@[simp] theorem finish_regs (s : State) (sess ring : Nat) (status : Byte) (result : List Byte) :
    (finish s sess ring status result).regs = s.regs := by
  unfold finish
  split
  · rfl
  · exact postCpl_regs ..

@[simp] theorem putOut_regs (s : State) (e kind token pos pick st logprob : Nat) : (putOut s e kind token pos pick st logprob).regs = s.regs := by
  simp [putOut]

@[simp] theorem putRecord_regs (s : State) (k : Nat) (bs : List Byte) : (putRecord s k bs).regs = s.regs := (rfl)

@[simp] theorem pinPick_regs (s : State) (l p : Nat) (up : Bool) : (pinPick s l p up).regs = s.regs := (rfl)

@[simp] theorem endReq_regs (s : State) (e : Nat) (st : Byte) : (endReq s e st).regs = s.regs := by
  unfold endReq
  dsimp only [takeEv]
  split
  · rfl
  · rw [modReq_regs]
    split
    · rw [pinPick_regs]
      split
      · simp only [apply_ite State.regs, putRecord_regs, putOut_regs, ite_self]
      · rw [putOut_regs]
    · split
      · simp only [apply_ite State.regs, putRecord_regs, putOut_regs, ite_self]
      · rw [putOut_regs]

@[simp] theorem wrData_regs (s : State) (a : Nat) (bs : List Byte) : (wrData s a bs).regs = s.regs := by
  unfold wrData
  dsimp only
  split <;> rfl

@[simp] theorem objWrite_regs (s : State) (x : Loom) (obj off : Nat) (bs : List Byte) : (objWrite s x obj off bs).regs = s.regs := by
  unfold objWrite
  split
  · rfl
  · split
    · exact wrData_regs ..
    · refine foldl_regs (fun s p => ?_) _ s
      dsimp only
      split <;> rfl

@[simp] theorem modWeave_regs (s : State) (k : Nat) (f : Weave → Weave) : (modWeave s k f).regs = s.regs := (rfl)

@[simp] theorem putCurPick_regs (s : State) (k pick : Nat) : (putCurPick s k pick).regs = s.regs := by
  refine foldl_regs (fun s p => ?_) _ s
  split <;> rfl

@[simp] theorem endCkpt_regs (s : State) (l : Nat) (st : Byte) (result : List Byte) : (endCkpt s l st result).regs = s.regs := by
  unfold endCkpt
  split
  · rfl
  · dsimp only
    split
    · exact finish_regs ..
    · rfl

@[simp] theorem endRestore_regs (s : State) (l : Nat) (st : Byte) (result : List Byte) : (endRestore s l st result).regs = s.regs := by
  unfold endRestore
  split
  · rfl
  · exact finish_regs ..

@[simp] theorem reroute_regs (s : State) : (reroute s).regs = s.regs := by
  refine foldl_regs (fun s p => ?_) _ s
  dsimp only
  split
  · rfl
  · refine foldl_regs (fun s f => ?_) _ _
    split <;> rfl

@[simp] theorem clearBays_regs (s : State) (bays : List Nat) : (clearBays s bays).regs = s.regs := (rfl)

/-! ## Status registers of the die edges -/

/-- From s to t every die edge keeps its status. -/
structure KeepsEdges (s t : State) : Prop where
  status : ∀ e, getReg t (edgeStatusReg e) = getReg s (edgeStatusReg e)

namespace KeepsEdges
variable {s t u : State} {α : Type}

theorem refl (s : State) : KeepsEdges s s := ⟨fun _ => rfl⟩

theorem trans (h : KeepsEdges s t) (h' : KeepsEdges t u) : KeepsEdges s u := ⟨fun e => (h'.status e).trans (h.status e)⟩

theorem of_regs (h : t.regs = s.regs) : KeepsEdges s t := ⟨fun e => by rw [getReg, h, getReg]⟩

/-- What follows a change that writes no register. -/
theorem after (h : KeepsEdges t u) (ht : t.regs = s.regs) : KeepsEdges s u := (of_regs ht).trans h

theorem ite {c : Prop} [Decidable c] (ht : KeepsEdges s t) (hu : KeepsEdges s u) : KeepsEdges s (if c then t else u) := by
  split
  · exact ht
  · exact hu

theorem foldl {g : State → α → State} (hg : ∀ s x, KeepsEdges s (g s x)) (l : List α) (s : State) : KeepsEdges s (l.foldl g s) :=
  List.foldlRecOn (motive := KeepsEdges s) l g (.refl s) fun u hu x _ => hu.trans (hg u x)

end KeepsEdges

/-- An event's status register lies below those of the die edges. -/
theorem raiseEvt_keepsEdges (s : State) (src : Src) (bit : Nat) (loom : Option Nat) (unit detail : Nat) :
    KeepsEdges s (raiseEvt s src bit loom unit detail) where
  status e := by
    rw [getReg_raiseEvt, if_neg]
    cases src <;> simp only [Src.status, edgeStatusReg] <;> omega

theorem returnUnits_keepsEdges (s : State) (l : Nat) : KeepsEdges s (returnUnits s l) := by
  unfold returnUnits
  refine .ite (.trans ?_ (.of_regs (foldl_regs serveSem_regs ..))) (.refl s)
  exact .after (raiseEvt_keepsEdges ..) rfl

theorem abortColl_keepsEdges (s : State) (l tile : Nat) (o : CollOp) (st : Byte) : KeepsEdges s (abortColl s l tile o st) := by
  refine KeepsEdges.trans ?_ (raiseEvt_keepsEdges ..)
  refine .of_regs ((sendAborts_regs ..).trans (foldl_regs (fun s p => ?_) _ s))
  dsimp only
  split
  · rfl
  · exact modTileOf_regs ..

theorem abortColls_keepsEdges (s : State) (l : Nat) (st : Byte) : KeepsEdges s (abortColls s l st) :=
  .foldl (fun _ _ => .foldl (fun _ _ => abortColl_keepsEdges ..) ..) ..

/-- The count of discarded drafts is no edge's register, whatever the loom's number. -/
theorem rejectDrafts_keepsEdges (s : State) (l n : Nat) : KeepsEdges s (rejectDrafts s l n) where
  status e := by
    rw [rejectDrafts, count48, getReg_setReg, if_neg]
    simp only [srvReg, edgeStatusReg]
    omega

theorem dropStep_keepsEdges (s : State) (l : Nat) : KeepsEdges s (dropStep s l) := by
  unfold dropStep
  dsimp only
  split
  · exact .refl s
  · split
    · exact (rejectDrafts_keepsEdges ..).trans (.of_regs rfl)
    · exact (rejectDrafts_keepsEdges ..).trans (.of_regs rfl)

theorem endAllReqs_keepsEdges (s : State) (l : Nat) (st : Byte) : KeepsEdges s (endAllReqs s l st) :=
  (dropStep_keepsEdges s l).trans (.of_regs (foldl_regs (fun _ _ => endReq_regs ..) ..))

theorem startPick_keepsEdges (s : State) (k : Nat) : KeepsEdges s (startPick s k) := by
  refine KeepsEdges.trans (.of_regs ?_) (raiseEvt_keepsEdges ..)
  rw [putCurPick_regs]
  refine foldl_regs (fun s l => ?_) ..
  exact objWrite_regs ..

theorem publishIdle_keepsEdges (s : State) (k : Nat) : KeepsEdges s (publishIdle s k) := by
  unfold publishIdle refusePick
  exact .ite (.after (raiseEvt_keepsEdges ..) rfl) (.ite (startPick_keepsEdges s k)
    (.ite (.after (raiseEvt_keepsEdges ..) rfl) (.after (raiseEvt_keepsEdges ..) rfl)))

theorem pubIdle_keepsEdges (s : State) (k : Nat) : KeepsEdges s (pubIdle s k) := by
  unfold pubIdle
  exact .ite (.after (publishIdle_keepsEdges ..) rfl) (.of_regs rfl)

theorem abandonTaking_keepsEdges (s : State) (k l : Nat) : KeepsEdges s (abandonTaking s k l) := by
  unfold abandonTaking
  exact .ite (.after (raiseEvt_keepsEdges ..) rfl) (.refl s)

theorem dropSource_keepsEdges (s : State) (k : Nat) : KeepsEdges s (dropSource s k) :=
  (KeepsEdges.foldl (fun _ _ => abandonTaking_keepsEdges ..) ..).trans ((KeepsEdges.of_regs (modWeave_regs ..)).trans (pubIdle_keepsEdges ..))

theorem abandonSource_keepsEdges (s : State) (k : Nat) : KeepsEdges s (abandonSource s k) := by
  unfold abandonSource
  exact .ite ((dropSource_keepsEdges ..).trans (dropSource_keepsEdges ..)) (dropSource_keepsEdges ..)

theorem shedEnter_keepsEdges (s : State) (l : Nat) : KeepsEdges s (shedEnter s l) := by
  unfold shedEnter
  have left : KeepsEdges s (match genWeave s l with
      | some (k, w) => if w.shared || (getLoom s l).st.takesPick then s else abandonTaking s k l
      | none => s) := by
    split
    · exact .ite (.refl s) (abandonTaking_keepsEdges ..)
    · exact .refl s
  have right (t : State) : KeepsEdges t (match learnWeave t l with
      | some (k, w) => if !w.shared && w.pub = .copying && abandons t w then abandonSource t k else t
      | none => t) := by
    split
    · exact .ite (abandonSource_keepsEdges ..) (.refl t)
    · exact .refl t
  exact left.trans (right _)

theorem endWith_keepsEdges (s : State) (l : Nat) (st collSt : Byte) : KeepsEdges s (endWith s l st collSt) :=
  (abortColls_keepsEdges ..).trans ((endAllReqs_keepsEdges ..).trans ((shedEnter_keepsEdges ..).trans
    (.of_regs ((endRestore_regs ..).trans (endCkpt_regs ..)))))

/-! ## Fencing (R252) -/

theorem fenceIn_keepsEdges (s : State) (l : Nat) : KeepsEdges s (fenceIn s l) := by
  unfold fenceIn
  dsimp only
  refine KeepsEdges.trans ?_ (endWith_keepsEdges ..)
  refine KeepsEdges.trans ?_ (returnUnits_keepsEdges ..)
  refine KeepsEdges.trans (.of_regs ?_) (raiseEvt_keepsEdges ..)
  rw [modLoom_regs, leaveQueues_regs]
  split
  · exact clearBays_regs ..
  · rfl

theorem fenceCut_keepsEdges (s : State) (l : Nat) : KeepsEdges s (fenceCut s l) := by
  unfold fenceCut
  dsimp only
  split
  · exact .refl s
  · exact (fenceIn_keepsEdges ..).trans (.of_regs (foldl_regs (fun _ _ => modTileOf_regs ..) ..))

end Sys2Proof.Machine
end

section
/-! SUPPORT. The ports of the package fabric (R171, R200, R201): what the receiving end of a port does with a flit, what an acknowledgement and a
replay request do at its sending end. With it the claim about hops, and the obligation about the fabric. -/
namespace Sys2Proof.Machine
open Sys2Proof

/-! ## Ports -/

@[simp] theorem getPort_setPort (s : State) (p q : Nat) (x : FabPort) : getPort (setPort s p x) q = if p = q then x else getPort s q :=
  tget_tput ..

theorem getPort_setPort_same (s : State) (p : Nat) (x : FabPort) : getPort (setPort s p x) p = x := by rw [getPort_setPort, if_pos rfl]

theorem getPort_setPort_ne (s : State) {p q : Nat} (x : FabPort) (h : q ≠ p) : getPort (setPort s p x) q = getPort s q := by
  rw [getPort_setPort, if_neg h.symm]

theorem getPort_congr {s t : State} (h : t.fab = s.fab) (p : Nat) : getPort t p = getPort s p := by rw [getPort, h, getPort]

/-- A flit that a port sends takes the next number and, over a die edge, the line of its router. -/
theorem sendFlit_eq (s : State) (q node : Nat) (f : FabFlit) : sendFlit s q node f = setPort s q { getPort s q with
    replay := (getPort s q).replay ++ [{ f with seq := (getPort s q).sendSeq, line := sendLine q node }]
    sendSeq := (getPort s q).sendSeq + 1 } := rfl

/-! ## Flits received (R171, R199, R200) -/

/-- A flit was sent over a port and is the one that its receiver expects. -/
def Arrives (x : FabPort) (f : FabFlit) : Prop := f.seq ≠ x.sendSeq ∧ f.seq = x.expect ∧ ∃ g, g ∈ x.replay ∧ g.seq = f.seq

/-- The port's receiving end once it has accepted the expected flit. -/
def FabPort.accepted (x : FabPort) : FabPort := { x with expect := x.expect + 1, discarding := false }

/-- A new flit is sent over the port that it enters by, while the port has room. -/
def FabPort.entered (x : FabPort) (f : FabFlit) : FabPort := { x with replay := x.replay ++ [f], sendSeq := x.sendSeq + 1 }

theorem enterFlit_old {s : State} {p : Nat} {f : FabFlit} (h : f.seq ≠ (getPort s p).sendSeq) : enterFlit s p f = s := by
  simp [enterFlit, h]

theorem enterFlit_new {s : State} {p : Nat} {f : FabFlit} (h : f.seq = (getPort s p).sendSeq) (hroom : (getPort s p).replay.length < 256) :
    enterFlit s p f = setPort s p ((getPort s p).entered f) := by
  simp [enterFlit, portRoom, h, hroom, FabPort.entered]

section
variable {s : State} {p from_ node : Nat} {f : FabFlit} (hends : portEnds p f.line = some (from_, node))
include hends

/-- A flit new to the port counts as sent by it from then on. -/
theorem flitIn_new (h : f.seq = (getPort s p).sendSeq) (hroom : (getPort s p).replay.length < 256) :
    flitIn s p f = flitIn (setPort s p ((getPort s p).entered f)) p f := by
  have hsent : f.seq ≠ (getPort (setPort s p ((getPort s p).entered f)) p).sendSeq := by
    rw [getPort_setPort_same, FabPort.entered, h]
    bv_omega
  simp only [flitIn, hends, enterFlit_new h hroom, enterFlit_old hsent]

theorem flitIn_ignored (hold : f.seq ≠ (getPort s p).sendSeq) (h : ¬ Arrives (getPort s p) f) : flitIn s p f = s := by
  have hnone : f.seq = (getPort s p).expect → ∀ g ∈ (getPort s p).replay, g.seq ≠ f.seq := fun he g hg hseq => h ⟨hold, he, g, hg, hseq⟩
  simp only [flitIn, hends, enterFlit_old hold]
  exact if_pos (by simpa [← imp_iff_not_or] using hnone)

section
variable (harr : Arrives (getPort s p) f)
include harr

theorem flitIn_arrives : flitIn s p f =
    if flitOk f = false then { setPort s p { getPort s p with discarding := true } with reply := [f.seq.setWidth 64] }
    else (nextPort s node f).elim (setPort s p { (getPort s p).accepted with delivered := (getPort s p).delivered ++ [f] })
      fun q => if portRoom s q then sendFlit (setPort s p (getPort s p).accepted) q node f else s := by
  obtain ⟨hold, hexpect, hsent⟩ := harr
  have hguard : ¬ (decide (f.seq ≠ (getPort s p).expect) || !(getPort s p).replay.any fun g => decide (g.seq = f.seq)) = true := by
    simpa [hexpect] using hexpect ▸ hsent
  simp only [flitIn, hends, enterFlit_old hold, if_neg hguard]
  cases flitOk f with
  | false => rfl
  | true => cases nextPort s node f <;> rfl

theorem flitIn_discarded (hok : flitOk f = false) :
    flitIn s p f = { setPort s p { getPort s p with discarding := true } with reply := [f.seq.setWidth 64] } := by
  rw [flitIn_arrives hends harr, if_pos hok]

theorem flitIn_delivered (hok : flitOk f = true) (hdest : node = f.dest) :
    flitIn s p f = setPort s p { (getPort s p).accepted with delivered := (getPort s p).delivered ++ [f] } := by
  have hnext : nextPort s node f = none := if_pos hdest
  rw [flitIn_arrives hends harr, if_neg (by simp [hok]), hnext]
  rfl

section
variable (hok : flitOk f = true) {q : Nat} (hnext : nextPort s node f = some q)
include hok hnext

theorem flitIn_sentOn (hroom : (getPort s q).replay.length < 256) : flitIn s p f = sendFlit (setPort s p (getPort s p).accepted) q node f := by
  rw [flitIn_arrives hends harr, if_neg (by simp [hok]), hnext]
  exact if_pos (decide_eq_true hroom)

theorem flitIn_blocked (hfull : 256 ≤ (getPort s q).replay.length) : flitIn s p f = s := by
  rw [flitIn_arrives hends harr, if_neg (by simp [hok]), hnext]
  exact if_neg (by simpa [portRoom] using hfull)

end

end

end

/-! ## Acknowledgements and replay requests (R200) -/

section
variable {s : State} {p : Nat} {seq : BitVec 12} {before after : List FabFlit} {g : FabFlit}
  (hreplay : (getPort s p).replay = before ++ g :: after) (hg : g.seq = seq) (hbefore : ∀ h, h ∈ before → h.seq ≠ seq)
include hreplay hg hbefore

theorem findIdx?_replay : (getPort s p).replay.findIdx? (fun f => f.seq = seq) = some before.length := by
  have hnone : before.findIdx? (fun f => decide (f.seq = seq)) = none := List.findIdx?_eq_none_iff.mpr fun h hh => by simp [hbefore h hh]
  rw [hreplay, List.findIdx?_append, hnone, List.findIdx?_cons, if_pos (by simpa using hg)]
  simp

/-- An acknowledgement releases the flits up to its number. -/
theorem flitAck_eq : flitAck s p seq = setPort s p { getPort s p with replay := after, failing := none, attempts := 0 } := by
  have hrest : (getPort s p).replay.drop (before.length + 1) = after := by rw [hreplay]; simp
  simp only [flitAck, findIdx?_replay hreplay hg hbefore, hrest]

end

/-- A port resends: the flits of again, of which the first has failed n times. -/
def resend (s : State) (p : Nat) (seq : BitVec 12) (again : List FabFlit) (n : Nat) : State :=
  { setPort s p { getPort s p with failing := some seq, attempts := if n < 32 then n else 0 } with reply := again.map fun f => f.seq.setWidth 64 }

/-- The register that counts the replays of a port: its edge's, or its router's. -/
def portReplayReg (p : Nat) : Nat :=
  if p < 134 then 0x00B00100 + p / 2 * 0x10 + 8 else 0x10000000 + (p - 134) / 64 * 0x01000000 + 0x008B0000 + (p - 134) / 4 % 16 * 8

section
variable {s : State} {p : Nat} {seq : BitVec 12} {before after : List FabFlit} {g : FabFlit}
  (hreplay : (getPort s p).replay = before ++ g :: after) (hg : g.seq = seq) (hbefore : ∀ h, h ∈ before → h.seq ≠ seq)
include hreplay hg hbefore

/-- A first request for a flit counts at the port's edge or router and is reported; a port of a site only resends. -/
theorem replayFrom_first (hfail : (getPort s p).failing ≠ some seq) : replayFrom s p seq =
    if p < 134 then noteCause (fabError (countReg (resend s p seq (g :: after) 1) (portReplayReg p)) [0] (p / 2) 0xFF 0 (p / 2)) 4 (p / 2) 1
    else if 2694 ≤ p then resend s p seq (g :: after) 1
    else fabError (countReg (resend s p seq (g :: after) 1) (portReplayReg p)) [1] 0xFF ((p - 134) / 64) ((p - 134) / 4 % 16) ((p - 134) / 64) := by
  have hrest : (getPort s p).replay.drop before.length = g :: after := by rw [hreplay]; simp
  simp only [replayFrom, findIdx?_replay hreplay hg hbefore, hrest, if_neg hfail]
  by_cases hp : p < 134
  · rw [portReplayReg, if_pos hp, if_pos hp]
    exact if_pos hp
  · rw [portReplayReg, if_neg hp, if_neg hp]
    exact if_neg hp

/-- The thirty-second request for a flit of a die edge costs the edge a module. -/
theorem replayFrom_last (hfail : (getPort s p).failing = some seq) (hlast : (getPort s p).attempts = 31) (hp : p < 134) :
    replayFrom s p seq = dropModule (countReg (resend s p seq (g :: after) 32) (edgeStatusReg (p / 2) + 8)) (p / 2) := by
  have hrest : (getPort s p).replay.drop before.length = g :: after := by rw [hreplay]; simp
  have hedge : p < edgePorts := hp
  simp only [replayFrom, findIdx?_replay hreplay hg hbefore, hrest, if_pos hfail, hlast, if_pos hedge]
  rfl

end

/-! ## Reports of the fabric (R195, R430, Table 6-8) -/

/-- From s to t the memory, the ports and the reply stay, and every register past the ones that report a detection. -/
structure KeepsFabric (s t : State) : Prop where
  mem : t.mem = s.mem
  fab : t.fab = s.fab
  reply : t.reply = s.reply
  regs : ∀ o, 0x00B00018 < o → getReg t o = getReg s o

namespace KeepsFabric
variable {s t u : State} {α : Type}

theorem refl (s : State) : KeepsFabric s s := ⟨rfl, rfl, rfl, fun _ _ => rfl⟩

theorem trans (h : KeepsFabric s t) (k : KeepsFabric t u) : KeepsFabric s u :=
  ⟨k.mem.trans h.mem, k.fab.trans h.fab, k.reply.trans h.reply, fun o ho => (k.regs o ho).trans (h.regs o ho)⟩

theorem foldl {g : State → α → State} (hg : ∀ s x, KeepsFabric s (g s x)) (l : List α) (s : State) : KeepsFabric s (l.foldl g s) :=
  List.foldlRecOn (motive := KeepsFabric s) l g (.refl s) fun u hu x _ => hu.trans (hg u x)

theorem ite {c : Prop} [Decidable c] (ht : KeepsFabric s t) (hu : KeepsFabric s u) : KeepsFabric s (if c then t else u) := by
  split
  · exact ht
  · exact hu

/-- Every die edge keeps its status. -/
theorem keepsEdges (h : KeepsFabric s t) : KeepsEdges s t := ⟨fun e => h.regs _ (by simp only [edgeStatusReg]; omega)⟩

end KeepsFabric

theorem setReg_keepsFabric (s : State) {o : Nat} (v : W64) (ho : o ≤ 0x00B00018) : KeepsFabric s (setReg s o v) :=
  ⟨rfl, rfl, rfl, fun k hk => by rw [getReg_setReg, if_neg (by omega)]⟩

theorem orReg_keepsFabric (s : State) {o : Nat} (v : W64) (ho : o ≤ 0x00B00018) : KeepsFabric s (orReg s o v) := setReg_keepsFabric s _ ho

theorem capture_keepsFabric (s : State) {r o : Nat} (v w : W64) (hr : r ≤ 0x00B00018) (ho : o ≤ 0x00B00018) :
    KeepsFabric s (capture s r v [(o, w)]) :=
  .ite (orReg_keepsFabric _ _ hr) ((setReg_keepsFabric s w ho).trans (setReg_keepsFabric _ _ hr))

theorem evtToSession_keepsFabric (s : State) (n : Nat) (e : EvtRec) : KeepsFabric s (evtToSession s n e) := by
  obtain ⟨hm, ss, h⟩ := evtToSession_eq s n e
  rw [h]
  exact ⟨rfl, rfl, rfl, fun _ _ => rfl⟩

theorem raiseEvt_fab_keepsFabric (s : State) (bit : Nat) (loom : Option Nat) (unit detail : Nat) :
    KeepsFabric s (raiseEvt s .fab bit loom unit detail) := by
  obtain ⟨hm, ss, h⟩ := raiseEvt_eq s .fab bit loom unit detail
  rw [h]
  exact (orReg_keepsFabric s _ (by decide)).trans ⟨rfl, rfl, rfl, fun _ _ => rfl⟩

theorem fabError_keepsFabric (s : State) (evts : List Nat) (edge die router unit : Nat) : KeepsFabric s (fabError s evts edge die router unit) :=
  (capture_keepsFabric s _ _ (by decide) (by decide)).trans (.foldl (fun _ _ => raiseEvt_fab_keepsFabric ..) ..)

theorem ckptTrigger_keepsFabric {s t : State} {l step len : Nat} {buffer : W64} {who : Option (Nat × Nat)}
    (h : ckptTrigger s l step buffer len who = .ok t) : KeepsFabric s t := by
  unfold ckptTrigger at h
  dsimp only at h
  split_ifs at h <;> cases h <;> exact ⟨rfl, rfl, rfl, fun _ _ => rfl⟩

theorem advise_keepsFabric (s : State) (cause unit : Nat) : KeepsFabric s (advise s cause unit) := by
  unfold advise
  dsimp only
  refine KeepsFabric.trans ?_ (.foldl (fun u l => ?_) ..)
  · have raised : KeepsFabric s (modSvc s fun v => { v with
        raised := (v.raised.filter fun r => !(r.1 = cause && r.2.1 = unit)) ++ [(cause, unit, v.minute)] }) := ⟨rfl, rfl, rfl, fun _ _ => rfl⟩
    have logged := fun v w => (raised.trans (orReg_keepsFabric _ 1 (by decide : Src.svc.status ≤ _))).trans
      (capture_keepsFabric (r := 0x40) (o := 0x38) _ v w (by decide) (by decide))
    exact .ite ((logged ..).trans (.foldl (fun _ _ => .ite (evtToSession_keepsFabric ..) (.refl _)) ..)) (logged ..)
  · split
    · split
      · next h => exact ckptTrigger_keepsFabric h
      · exact .refl u
    · exact .refl u

theorem noteCause_keepsFabric (s : State) (cause unit n : Nat) (always : Bool) : KeepsFabric s (noteCause s cause unit n always) := by
  have counted : ∀ f, KeepsFabric s (modSvc s f) := fun _ => ⟨rfl, rfl, rfl, fun _ _ => rfl⟩
  exact .ite ((counted _).trans (.ite (.refl _) (advise_keepsFabric ..))) (counted _)

/-! ## A module of a die edge lost (R201) -/

/-- After a lost module has been taken out of its edge's status, its report, the new routes and the looms cut off change no edge's status. -/
theorem moduleLost_keepsEdges (s : State) (evts : List Nat) (e : Nat) (down : Prop) [Decidable down] (cut : List Nat) :
    KeepsEdges s (if down then cut.foldl fenceCut (reroute (noteCause (fabError s evts e 0xFF 0 e) 4 e 1 true))
      else noteCause (fabError s evts e 0xFF 0 e) 4 e 1 true) := by
  have reported : KeepsEdges s (noteCause (fabError s evts e 0xFF 0 e) 4 e 1 true) :=
    ((fabError_keepsFabric ..).trans (noteCause_keepsFabric ..)).keepsEdges
  exact .ite (reported.trans (.after (.foldl fenceCut_keepsEdges ..) (reroute_regs _))) reported

/-- The status of an edge that has lost module m of n (Table 6-8): the others stay, and with fewer than four of them the edge is down. -/
theorem toNat_edgeStatus (v m n : Nat) : (BitVec.ofNat 64 ((bits v 15 8 - 2 ^ m) * 2 ^ 8 + if n - 1 < 4 then 3 else 2)).toNat =
    (v / 256 % 256 - 2 ^ m) * 256 + if n ≤ 4 then 3 else 2 := by
  have hmodules : bits v 15 8 = v / 256 % 256 := by simp [bits, Nat.shiftRight_eq_div_pow]
  have hdown : n - 1 < 4 ↔ n ≤ 4 := by omega
  have hfew : v / 256 % 256 - 2 ^ m < 256 := (Nat.sub_le ..).trans_lt (Nat.mod_lt _ (by decide))
  simp only [hmodules, hdown, BitVec.toNat_ofNat]
  generalize v / 256 % 256 - 2 ^ m = left at hfew ⊢
  split <;> omega

theorem dropModule_status (s : State) (e : Nat) {up : List Nat}
    (hup : up = (List.range 8).filter fun m => (getReg s (edgeStatusReg e)).toNat / 2 ^ (8 + m) % 2 = 1) (hne : up ≠ []) :
    ∃ m ∈ up, (getReg (dropModule s e) (edgeStatusReg e)).toNat =
      ((getReg s (edgeStatusReg e)).toNat / 256 % 256 - 2 ^ m) * 256 + if up.length ≤ 4 then 3 else 2 := by
  have hmodules : ((List.range 8).filter fun m => (getReg s (edgeStatusReg e)).toNat >>> (8 + m) % 2 = 1) = up := by
    simp only [hup, Nat.shiftRight_eq_div_pow]
  have hpick : up.getD (Config.freeNat s.free % up.length) 0 ∈ up := by
    have hlt := Nat.mod_lt (Config.freeNat s.free) (List.length_pos_iff.mpr hne)
    rw [List.getD_eq_getElem _ _ hlt]
    exact List.getElem_mem hlt
  unfold dropModule
  dsimp only
  rw [hmodules]
  clear hup hmodules
  split
  · exact absurd rfl hne
  · next up hne' =>
    refine ⟨_, hpick, ?_⟩
    rw [(moduleLost_keepsEdges ..).status, getReg_setReg, if_pos rfl]
    exact toNat_edgeStatus ..

section
variable {s : State} {p : Nat} {seq : BitVec 12} {before after : List FabFlit} {g : FabFlit}
  (hreplay : (getPort s p).replay = before ++ g :: after) (hg : g.seq = seq) (hbefore : ∀ h, h ∈ before → h.seq ≠ seq)
include hreplay hg hbefore

theorem replayFrom_first_counted (hfail : (getPort s p).failing ≠ some seq) (hp : p < 2694) :
    KeepsFabric (countReg (resend s p seq (g :: after) 1) (portReplayReg p)) (replayFrom s p seq) := by
  rw [replayFrom_first hreplay hg hbefore hfail, if_neg (Nat.not_le.mpr hp)]
  exact .ite ((fabError_keepsFabric ..).trans (noteCause_keepsFabric ..)) (fabError_keepsFabric ..)

theorem replayFrom_first_resends (hfail : (getPort s p).failing ≠ some seq) :
    let u := resend s p seq (g :: after) 1
    (replayFrom s p seq).mem = u.mem ∧ (replayFrom s p seq).fab = u.fab ∧ (replayFrom s p seq).reply = u.reply := by
  rcases Nat.lt_or_ge p 2694 with hp | hp
  · obtain ⟨hmem, hfab, hreply, -⟩ := replayFrom_first_counted hreplay hg hbefore hfail hp
    exact ⟨hmem, hfab, hreply⟩
  · rw [replayFrom_first hreplay hg hbefore hfail, if_neg (by omega), if_pos hp]
    exact ⟨rfl, rfl, rfl⟩

/-- A first request counts once at the port's edge or router. -/
theorem replayFrom_first_count (hfail : (getPort s p).failing ≠ some seq) (hp : p < 2694) :
    (getReg (replayFrom s p seq) (portReplayReg p)).toNat = upTo32 ((getReg s (portReplayReg p)).toNat + 1) := by
  have hpast : 0x00B00018 < portReplayReg p := by
    unfold portReplayReg
    split <;> omega
  rw [(replayFrom_first_counted hreplay hg hbefore hfail hp).regs _ hpast, getReg_countReg, if_pos rfl, toNat_satAdd]
  rfl

/-- The thirty-second request leaves the edge without one of the modules that worked. -/
theorem replayFrom_last_status (hfail : (getPort s p).failing = some seq) (hlast : (getPort s p).attempts = 31) (hp : p < 134) {up : List Nat}
    (hup : up = (List.range 8).filter fun m => (getReg s (edgeStatusReg (p / 2))).toNat / 2 ^ (8 + m) % 2 = 1) (hne : up ≠ []) :
    ∃ m ∈ up, (getReg (replayFrom s p seq) (edgeStatusReg (p / 2))).toNat =
      ((getReg s (edgeStatusReg (p / 2))).toNat / 256 % 256 - 2 ^ m) * 256 + if up.length ≤ 4 then 3 else 2 := by
  have hstatus : getReg (countReg (resend s p seq (g :: after) 32) (edgeStatusReg (p / 2) + 8)) (edgeStatusReg (p / 2)) =
      getReg s (edgeStatusReg (p / 2)) := by
    rw [getReg_countReg, if_neg (by omega)]
    rfl
  rw [replayFrom_last hreplay hg hbefore hfail hlast hp, ← hstatus]
  exact dropModule_status _ _ (by rw [hstatus, hup]) hne

end

/-! ## The claim -/

theorem fabricHops : FabricHops := by
  intro s port node from_ f₀ line seq hd hends f
  have receive : ∀ t : State, t.svc.dark = false → exec (.flitReceive port f₀ line) t = .next (flitIn t port f) :=
    fun t ht => congrArg _ (alive_light (flitIn · port f) ht)
  have acknowledge : exec (.flitAcknowledge port seq) s = .next (flitAck s port seq) := congrArg _ (alive_light (flitAck · port seq) hd)
  have request : exec (.fabricReplayRequest port seq) s = .next (replayFrom s port seq) := congrArg _ (alive_light (replayFrom · port seq) hd)
  replace hends : portEnds port f.line = some (from_, node) := hends
  clear_value f
  dsimp only
  refine ⟨fun hold hnot => ?_, fun hnew hroom => ?_, fun harr hok => ?_, fun harr hok hdest => ?_, fun q hq harr hok hnext hroom => ?_,
    fun q hq harr hok hnext hfull => ?_, fun before g after hreplay hg hbefore => ⟨?_, fun hfail => ?_, fun hfail hlast hp hne => ?_⟩⟩
  · rw [receive s hd, flitIn_ignored hends hold hnot]
  · rw [receive s hd, flitIn_new hends hnew hroom]
    exact (receive (setPort ..) hd).symm
  · exact ⟨_, receive s hd, by rw [flitIn_discarded hends harr hok], by rw [flitIn_discarded hends harr hok]; exact getPort_setPort_same ..,
      by rw [flitIn_discarded hends harr hok]; rfl⟩
  · refine ⟨_, receive s hd, ?_, fun q hq => ?_⟩
    · rw [flitIn_delivered hends harr hok hdest, getPort_setPort_same]
      rfl
    · rw [flitIn_delivered hends harr hok hdest, getPort_setPort_ne _ _ hq]
  · refine ⟨_, receive s hd, ?_, ?_⟩
    · rw [flitIn_sentOn hends harr hok hnext hroom, sendFlit_eq, getPort_setPort_ne _ _ hq.symm, getPort_setPort_same]
      rfl
    · rw [flitIn_sentOn hends harr hok hnext hroom, sendFlit_eq, getPort_setPort_same, getPort_setPort_ne _ _ hq]
  · rw [receive s hd, flitIn_blocked hends harr hok hnext hfull]
  · exact ⟨_, acknowledge, by rw [flitAck_eq hreplay hg hbefore, getPort_setPort_same]⟩
  · obtain ⟨hmem, hfab, hreply⟩ := replayFrom_first_resends hreplay hg hbefore hfail
    have hport : getPort (replayFrom s port seq) port = { getPort s port with failing := some seq, attempts := 1 } :=
      (getPort_congr hfab port).trans (getPort_setPort_same ..)
    exact ⟨_, request, hreply, by rw [hport], by rw [hport], by rw [hport], hmem, replayFrom_first_count hreplay hg hbefore hfail⟩
  · obtain ⟨m, hm, hstatus⟩ := replayFrom_last_status hreplay hg hbefore hfail hlast hp rfl hne
    exact ⟨_, m, request, hm, hstatus⟩

/-- Settles O35: each hop through the equation for what its port does, each route through the neighbour that it leads to. -/
theorem fabricPorts : Obligations.FabricPorts := ⟨fabricHops, fabricRoutes⟩

end Sys2Proof.Machine
end

section
/-! SUPPORT. The loom manager's commands (R232 to R234): how a command that has been taken ends, as what its run comes to. With it the obligations
about commands on another session's loom and about commands that a loom's state does not admit are settled. -/
namespace Sys2Proof.Machine
open Sys2Proof

/-! ## Whose loom it is (R232) -/

theorem loomOwned_eq_true {s : State} {sess l : Nat} (hst : (getLoom s l).st ≠ .free) (hsess : (getLoom s l).session = sess) :
    loomOwned s sess l = true := by simp [loomOwned, hst, hsess]

theorem loomOwned_eq_false {s : State} {sess l : Nat} (h : (getLoom s l).st = .free ∨ (getLoom s l).session ≠ sess) : loomOwned s sess l = false := by
  simpa [loomOwned, or_iff_not_imp_left] using h

theorem cfgRefusal_foreign {s : State} {sess l : Nat} (h : loomOwned s sess l = false) : cfgRefusal s sess l = some stPerm := by
  simp [cfgRefusal, h]

theorem cfgRefusal_state {s : State} {sess l : Nat} (h : loomOwned s sess l = true) (hst : (getLoom s l).st ≠ .stopped) :
    cfgRefusal s sess l = some stNotStopped := by simp [cfgRefusal, h, hst]

theorem cfgRefusal_stopped {s : State} {sess l : Nat} (hst : (getLoom s l).st = .stopped) (hsess : (getLoom s l).session = sess) :
    cfgRefusal s sess l = none := by simp [cfgRefusal, loomOwned, hst, hsess]

/-! ## How a command ends -/

section
variable {s u : State} {sess ring : Nat} {t : Taken} {i : Instr} {f : State → State} {sts : List LoomState}

theorem refuses_of_run {st : Byte} (hd : s.svc.dark = false) (hi : exec i s = .next (alive s f)) (hf : f s = finish s sess ring st) :
    Refuses i s sess ring st := by rw [Refuses, hi, alive_light f hd, hf]

section
variable (h : TakenCmd s sess ring t)
include h

/-- A command that its meaning refuses ends with the status. -/
theorem cmd_refuses {st : Byte} {g : State → Taken → Except Byte (State × List Byte)}
    (hi : exec i s = .next (alive s fun s => cmdRun s sess ring (g s))) (hg : g s t = .error st) : Refuses i s sess ring st := by
  obtain ⟨hd, htaken, hstarted⟩ := h
  exact refuses_of_run hd hi (cmdRun_error _ htaken hstarted hg)

/-- A command that its meaning gives an effect has it and ends OK. -/
theorem cmd_does {result : List Byte} {g : State → Taken → Except Byte (State × List Byte)}
    (hi : exec i s = .next (alive s fun s => cmdRun s sess ring (g s))) (hg : g s t = .ok (u, result)) : Does i s u sess ring result := by
  obtain ⟨hd, htaken, hstarted⟩ := h
  rw [Does, hi, alive_light _ hd, cmdRun_ok _ htaken hstarted hg]

/-- As cmd_refuses, for a configuration command on a STOPPED loom of the session. -/
theorem cfg_refuses {st : Byte} {g : State → Taken → Except Byte (State × List Byte)} (hcfg : cfgRefusal s sess t.loom = none)
    (hi : exec i s = .next (alive s fun s => cfgRun s sess ring (g s))) (hg : g s t = .error st) : Refuses i s sess ring st := by
  obtain ⟨hd, htaken, hstarted⟩ := h
  exact refuses_of_run hd hi ((cfgRun_ok _ htaken hstarted hcfg).trans (cmdRun_error _ htaken hstarted hg))

/-- As cmd_does, for a configuration command on a STOPPED loom of the session. -/
theorem cfg_does {result : List Byte} {g : State → Taken → Except Byte (State × List Byte)} (hcfg : cfgRefusal s sess t.loom = none)
    (hi : exec i s = .next (alive s fun s => cfgRun s sess ring (g s))) (hg : g s t = .ok (u, result)) : Does i s u sess ring result := by
  obtain ⟨hd, htaken, hstarted⟩ := h
  rw [Does, hi, alive_light _ hd, cfgRun_ok _ htaken hstarted hcfg, cmdRun_ok _ htaken hstarted hg]

section
variable (hsess : (getLoom s t.loom).session = sess) (hfree : (getLoom s t.loom).st ≠ .free) (hst : sts.contains (getLoom s t.loom).st = true)
include hsess hfree hst

theorem loomRun_does {result : List Byte} {g : Nat → Taken → Except Byte (State × List Byte)} (hg : g t.loom t = .ok (u, result)) :
    loomRun s sess ring sts g = finish u sess ring stOk result := by
  obtain ⟨-, htaken, hstarted⟩ := h
  rw [loomRun_ok g htaken hstarted (loomOwned_eq_true hfree hsess) hst, cmdRun_ok _ htaken hstarted hg]

/-- As cmd_refuses, for a command on a loom of the session in a state that admits it. -/
theorem loom_refuses {st : Byte} {g : State → Nat → Taken → Except Byte (State × List Byte)}
    (hi : exec i s = .next (alive s fun s => loomRun s sess ring sts (g s))) (hg : g s t.loom t = .error st) : Refuses i s sess ring st := by
  obtain ⟨hd, htaken, hstarted⟩ := h
  exact refuses_of_run hd hi ((loomRun_ok _ htaken hstarted (loomOwned_eq_true hfree hsess) hst).trans (cmdRun_error _ htaken hstarted hg))

/-- As cmd_does, for a command on a loom of the session in a state that admits it. -/
theorem loom_does {result : List Byte} {g : State → Nat → Taken → Except Byte (State × List Byte)}
    (hi : exec i s = .next (alive s fun s => loomRun s sess ring sts (g s))) (hg : g s t.loom t = .ok (u, result)) : Does i s u sess ring result := by
  rw [Does, hi, alive_light _ h.1, loomRun_does h hsess hfree hst hg]

end
end

/-- LOOM_STOP BOUNDARY, once taken, runs as a command of its loom. -/
theorem exec_loomStopBoundary (h : TakenCmd s sess ring t) (hb : t.body = .loomStop false) : exec (.loomStopBoundary sess ring) s =
    .next (loomRun s sess ring (stopFrom s sess ring) fun l _ => .ok (stopBoundary s l, [])) := by
  obtain ⟨hd, htaken, -⟩ := h
  obtain ⟨opcode, loom, tag, body, started⟩ := t
  subst hb
  change Host.Outcome.next (alive s _) = _
  rw [alive_light _ hd, htaken]

/-- LOOM_STOP CUT, once taken, runs as a command of its loom. -/
theorem exec_loomStopCut (h : TakenCmd s sess ring t) (hb : t.body = .loomStop true) : exec (.loomStopCut sess ring) s =
    .next (loomRun s sess ring (stopFrom s sess ring) fun l _ => .ok (stopCut s l, [])) := by
  obtain ⟨hd, htaken, -⟩ := h
  obtain ⟨opcode, loom, tag, body, started⟩ := t
  subst hb
  change Host.Outcome.next (alive s _) = _
  rw [alive_light _ hd, htaken]

/-- PROG_LOAD, once taken, runs as a configuration command, unless the image that was read is not the one that the command names. -/
theorem exec_progLoad {addr : W64} {n : Nat} {image : List W64} (h : TakenCmd s sess ring t) (hb : t.body = .progLoad addr n)
    (hrun : ((cfgRefusal s sess t.loom).isNone && 1 ≤ n && n ≤ 32768 && image.length ≠ n) = false) : exec (.progLoad sess ring image) s =
    .next (cfgRun s sess ring fun t => if n = 0 || 32768 < n then .error stBad
      else .ok (modLoom s t.loom fun x => { x with program := image, loaded := true }, [])) := by
  obtain ⟨hd, htaken, -⟩ := h
  obtain ⟨opcode, loom, tag, body, started⟩ := t
  subst hb
  change Host.Outcome.next (alive s _) = _
  rw [alive_light _ hd, htaken]
  exact congrArg _ (if_neg (by rw [hrun]; exact Bool.false_ne_true))

/-! ## Commands on another session's loom (R232) -/

theorem createLoom_foreign {bays : Option Nat} {k prio dobby : Nat} {cls : Bool} (h : loomOwned s sess k = false) :
    createLoom s sess bays (some k) cls prio dobby = .error stPerm := by simp [createLoom, h]

end

/-- Settles O29: each command first asks whose loom it is, LOOM_CREATE whose loom it is to share with. -/
theorem foreignLooms : Obligations.ForeignLooms := by
  intro s sess ring t h foreign
  obtain ⟨hd, htaken, hstarted⟩ := id h
  refine ⟨fun hforeign => ?_, fun bays k cls prio dobby hb hforeign => ?_⟩
  · have howned : loomOwned s sess t.loom = false := loomOwned_eq_false hforeign
    have hcfg : cfgRefusal s sess t.loom = some stPerm := cfgRefusal_foreign howned
    refine ⟨refuses_of_run hd rfl (loomRun_foreign _ htaken hstarted howned), refuses_of_run hd rfl (loomRun_foreign _ htaken hstarted howned),
      refuses_of_run hd rfl (loomRun_foreign _ htaken hstarted howned), refuses_of_run hd rfl (loomRun_foreign _ htaken hstarted howned),
      refuses_of_run hd rfl (cfgRun_refused _ htaken hstarted hcfg), fun image addr n hb => ?_, fun hb => ?_, fun hb => ?_⟩
    · exact (exec_progLoad h hb (by simp [hcfg])).trans (congrArg _ (cfgRun_refused _ htaken hstarted hcfg))
    · exact (exec_loomStopBoundary h hb).trans (congrArg _ (loomRun_foreign _ htaken hstarted howned))
    · exact (exec_loomStopCut h hb).trans (congrArg _ (loomRun_foreign _ htaken hstarted howned))
  · refine cmd_refuses h rfl ?_
    rw [hb]
    exact createLoom_foreign (loomOwned_eq_false hforeign)

/-! ## Commands that a state does not admit (R233, R234) -/

/-- Settles O30: a configuration command asks for STOPPED, the others for the states that Table 7-3 lists. -/
theorem loomCommandsRefused : Obligations.LoomCommandsRefused := by
  rintro s sess ring t ⟨hd, htaken, hstarted⟩ x mine
  refine ⟨fun hforeign => ?_, fun ⟨hfree, hsess⟩ => ?_⟩
  · have hcfg : cfgRefusal s sess t.loom = some stPerm :=
      cfgRefusal_foreign (loomOwned_eq_false (or_iff_not_imp_left.mpr (not_and.mp hforeign)))
    exact ⟨refuses_of_run hd rfl (cfgRun_refused _ htaken hstarted hcfg), refuses_of_run hd rfl (cfgRun_refused _ htaken hstarted hcfg),
      refuses_of_run hd rfl (cfgRun_refused _ htaken hstarted hcfg), refuses_of_run hd rfl (cfgRun_refused _ htaken hstarted hcfg)⟩
  · have howned : loomOwned s sess t.loom = true := loomOwned_eq_true hfree hsess
    have hcfg : x.st ≠ .stopped → cfgRefusal s sess t.loom = some stNotStopped := cfgRefusal_state howned
    refine ⟨fun hst => ⟨?_, ?_, ?_⟩, fun hstopped hfaulted => ?_, fun hst => ?_, fun hst => ?_⟩
    · exact refuses_of_run hd rfl (loomRun_state _ htaken hstarted howned (by simpa using hst))
    · exact refuses_of_run hd rfl (cfgRun_refused _ htaken hstarted (hcfg hst))
    · exact refuses_of_run hd rfl (cfgRun_refused _ htaken hstarted (hcfg hst))
    · exact refuses_of_run hd rfl (loomRun_state _ htaken hstarted howned (by simpa using ⟨hstopped, hfaulted⟩))
    · exact refuses_of_run hd rfl (loomRun_state _ htaken hstarted howned (by simpa using hst))
    · exact refuses_of_run hd rfl (loomRun_state _ htaken hstarted howned (by simpa using hst))

end Sys2Proof.Machine
end

section
/-! SUPPORT. Looms made and configured, and shared semaphores made and deleted (R119, R227, R247, R248, R253, R473): what LOOM_CREATE puts in place, and
what each command's ranges admit. With it the obligation about them is settled. -/
namespace Sys2Proof.Machine
open Sys2Proof

/-! ## The rank table (R214) -/

theorem memSetN_append (bs cs : List Byte) (m : List Host.Cell) (a : Nat) : memSetN m a (bs ++ cs) = memSetN (memSetN m a bs) (a + bs.length) cs := by
  induction bs generalizing m a with
  | nil => rfl
  | cons b bs ih =>
    rw [List.cons_append, memSetN, ih, List.length_cons, Nat.add_comm bs.length 1, ← Nat.add_assoc]
    rfl

/-- Each half word of a table of half words is read back. -/
theorem memGetN_halfWords (ts : List Nat) (m : List Host.Cell) (a : Nat) {i : Nat} (hi : i < ts.length) :
    memGetN (memSetN m a (ts.flatMap (toLe 2))) (a + 2 * i) 2 = toLe 2 (ts.getD i 0) := by
  induction ts generalizing m a i with
  | nil => exact absurd hi (Nat.not_lt_zero i)
  | cons t ts ih =>
    rw [List.flatMap_cons, memSetN_append, toLe_length]
    cases i with
    | zero =>
      rw [memGetN_memSetN_of_disjoint _ _ _ _ _ (.inl (by omega))]
      exact memGetN_memSetN m a (toLe 2 t)
    | succ i =>
      have haddr : a + 2 * (i + 1) = a + 2 + 2 * i := by omega
      rw [haddr, ih _ _ (Nat.lt_of_succ_lt_succ hi), List.getD_cons_succ]

theorem length_bayTiles (b : Nat) : (bayTiles b).length = 16 := by simp [bayTiles]

theorem length_flatMap_bayTiles (bs : List Nat) : (bs.flatMap bayTiles).length = 16 * bs.length := by
  simp [List.length_flatMap, length_bayTiles, Nat.mul_comm]

/-! ## LOOM_CREATE (R227) -/

/-- What LOOM_CREATE has made of a loom. -/
structure Created (s u : State) (l sess : Nat) (bays : List Nat) (stepClass : Bool) (priority ring ranks : Nat) : Prop where
  loom : ∃ recs save gen, getLoom u l = {
    st := .stopped, session := sess, bays, stepClass, priority, credits := 1024, softWait := 100, grace := 2000
    dobbyRing := ring, map := recs, saveAt := save, gen }
  others : ∀ k, k ≠ l → getLoom u k = getLoom s k
  ranks : ∀ i, i < 16 * bays.length → rd u (ranks + 2 * i) 2 = ((bays.flatMap bayTiles).getD i 0) % 2 ^ 16

theorem putLoom_created {s s' : State} (hlooms : s'.looms = s.looms) (l sess : Nat) (bays : List Nat) (cls : Bool) (prio ring a b c : Nat) :
    Created s (putLoom s' l sess bays cls prio ring a b c) l sess bays cls prio ring a where
  loom := ⟨_, _, _, (getLoom_setLoom s' l l _).trans (if_pos rfl)⟩
  others k hk := ((getLoom_setLoom s' l k _).trans (if_neg hk.symm)).trans (by rw [getLoom, hlooms, getLoom])
  ranks i hi := by
    have htable := memGetN_halfWords (bays.flatMap bayTiles) s'.mem a (by rwa [length_flatMap_bayTiles])
    exact (congrArg leNat htable).trans (leNat_toLe 2 _)

/-- Finding places for a loom's areas draws free values only. -/
theorem createAreas_looms {s s' : State} {bs : List Nat} {a b c : Nat} (h : createAreas s bs = some (a, b, c, s')) : s'.looms = s.looms := by
  have hplace {s s' : State} {u : List (Nat × Nat)} {n : Nat} {p : Option Nat} (h : stackPlace s u n = (p, s')) : s'.looms = s.looms :=
    (snd_looms h).trans rfl
  revert h
  unfold createAreas
  dsimp only
  repeat' split
  case h_1 hranks _ _ _ hpark _ _ _ hsave =>
    intro h
    cases h
    exact ((hplace hsave).trans (hplace hpark)).trans (hplace hranks)
  all_goals exact fun h => nomatch h

section
variable {s s' : State} {sess l prio dobby a b c : Nat} {bays share : Option Nat} {cls : Bool} {r : CmdRing} {bs : List Nat}

/-- A session has all the looms that it may have, or the credits would not suffice. -/
def noRoom (s : State) (sess : Nat) : Prop :=
  (getSession s sess).loomQuota ≤ ((liveLooms s).filter fun k => (getLoom s k).session = sess).length ∨ 32768 < creditsInUse s + 1024

section
variable (hr : tfind (getSession s sess).cmd dobby = some r) (hk : r.kind = .dobby)
include hr hk

theorem createLoom_priority (hprio : 7 < prio) (hshare : (share.map (loomOwned s sess)).getD true = true) :
    createLoom s sess bays share cls prio dobby = .error stBad := by
  simp [createLoom, hr, hk, hprio, hshare]

variable (hprio : prio ≤ 7) (hfree : freeLoom s = some l)
include hprio hfree

theorem createLoom_full {n : Nat} (hn : 1 ≤ n ∧ n ≤ 320) (hfull : noRoom s sess) :
    createLoom s sess (some n) none cls prio dobby = .error stFull := by
  unfold noRoom at hfull
  cases hassign : assignBays s n with
  | none => simp [createLoom, hr, hk, hn, hfree, hassign, Nat.not_lt.mpr hprio]
  | some bs =>
    simp [createLoom, hr, hk, hn, hfree, hassign, Nat.not_lt.mpr hprio, creditTotal]
    omega

variable (hareas : createAreas s bs = some (a, b, c, s')) (hroom : ¬ noRoom s sess)
include hareas hroom

theorem createLoom_bays {n : Nat} (hn : 1 ≤ n ∧ n ≤ 320) (hassign : assignBays s n = some bs)
    (hquota : sessionBays s sess + n ≤ (getSession s sess).bayQuota) : createLoom s sess (some n) none cls prio dobby =
      .ok (putLoom (clearPhases (clearBays s' bs) bs) l sess bs cls prio dobby a b c, toLe 4 l) := by
  unfold noRoom at hroom
  simp [createLoom, hr, hk, hn, hfree, hassign, Nat.not_lt.mpr hprio, creditTotal, hareas]
  omega

theorem createLoom_shared {k : Nat} (howned : loomOwned s sess k = true) (hbays : (getLoom s k).bays = bs) (hfew : (coResident s k).length < 8) :
    createLoom s sess bays (some k) cls prio dobby = .ok (putLoom s' l sess bs cls prio dobby a b c, toLe 4 l) := by
  unfold noRoom at hroom
  simp [createLoom, hr, hk, hfree, Nat.not_lt.mpr hprio, creditTotal, hareas, howned, hbays]
  omega

end
end

theorem loomCreated : LoomCreated := by
  intro s sess ring l t bays share cls prio dobby r bs a b c s' h hb hr hk hfree hareas q full
  refine ⟨fun hprio hshare => ?_, fun hprio hshare hfull => ?_, fun hprio hroom hcase => ?_⟩
  · refine cmd_refuses h rfl ?_
    rw [hb]
    refine createLoom_priority hr hk hprio ?_
    rcases hshare with ⟨k, rfl, howned⟩ | rfl
    · exact howned
    · rfl
  · rintro ⟨n, rfl, hn⟩
    subst hshare
    refine cmd_refuses h rfl ?_
    rw [hb]
    exact createLoom_full hr hk hprio hfree hn hfull
  · have made {v : State} (hv : v.looms = s.looms)
        (hrun : createLoom s sess bays share cls prio dobby = .ok (putLoom v l sess bs cls prio dobby a b c, toLe 4 l)) :
        ∃ u, Does (.loomCreate sess ring) s u sess ring (toLe 4 l) ∧ Created s u l sess bs cls prio dobby a := by
      refine ⟨putLoom v l sess bs cls prio dobby a b c, cmd_does h rfl ?_, putLoom_created hv ..⟩
      rw [hb]
      exact hrun
    have hlooms : s'.looms = s.looms := createAreas_looms hareas
    obtain ⟨u, hdoes, ⟨recs, save, gen, hloom⟩, hothers, hranks⟩ :
        ∃ u, Does (.loomCreate sess ring) s u sess ring (toLe 4 l) ∧ Created s u l sess bs cls prio dobby a := by
      rcases hcase with ⟨n, rfl, rfl, h1, h320, hassign, hquota⟩ | ⟨k, rfl, howned, hbays, hfew⟩
      · exact made (by exact hlooms) (createLoom_bays hr hk hprio hfree hareas hroom ⟨h1, h320⟩ hassign hquota)
      · exact made hlooms (createLoom_shared hr hk hprio hfree hareas hroom howned hbays hfew)
    refine ⟨u, hdoes, ?_, hothers, hranks⟩
    rw [hloom]
    exact ⟨rfl, rfl, rfl, rfl, rfl, rfl, rfl, rfl, rfl, rfl, rfl⟩

/-! ## LOOM_CONFIG (Table 7-2, R473) -/

section
variable {s : State} {l : Nat} {f : LoomConfigF}

theorem setCredits_same {c : Option Nat} (h : c = none ∨ c = some (getLoom s l).credits) : setCredits s l (c.getD (getLoom s l).credits) = some s := by
  have hc : c.getD (getLoom s l).credits = (getLoom s l).credits := by
    rcases h with rfl | rfl <;> rfl
  rw [hc]
  exact if_pos rfl

theorem setCredits_full {c : Nat} (hc : c ≠ (getLoom s l).credits) (hfull : 32768 < creditsInUse s - (getLoom s l).credits + c) : setCredits s l c = none :=
  (if_neg hc).trans (if_pos hfull)

/-- What a loom becomes by LOOM_CONFIG, but for its credits: the fields carried take their values. -/
def configured (f : LoomConfigF) (x : Loom) : Loom := { x with
  stepClass := f.stepClass.getD x.stepClass, priority := f.priority.getD x.priority, seed := f.seed.getD x.seed
  softWait := f.softWait.getD x.softWait, grace := f.grace.getD x.grace
  sems := (f.semInit.map fun ps => ps.foldl (fun t p => tset 0 t p.1 p.2) []).getD x.sems }

theorem configLoom_bad (h : loomCfgOk f = false) : configLoom s l f = .error stBad := by simp [configLoom, h]

theorem configLoom_full (h : loomCfgOk f = true) (hc : setCredits s l (f.credits.getD (getLoom s l).credits) = none) :
    configLoom s l f = .error stFull := by simp [configLoom, h, hc]

theorem configLoom_same (h : loomCfgOk f = true) (hc : f.credits = none ∨ f.credits = some (getLoom s l).credits) :
    configLoom s l f = .ok (setLoom s l (configured f (getLoom s l)), []) := by
  simp only [configLoom, h, setCredits_same hc, Bool.not_true, Bool.false_eq_true, if_false, configured]
  cases f.semInit <;> rfl

end

theorem loomConfigured : LoomConfigured := by
  intro s sess ring t h hst hsess x
  obtain ⟨hd, htaken, hstarted⟩ := id h
  have hcfg : cfgRefusal s sess t.loom = none := cfgRefusal_stopped hst hsess
  have load {addr : W64} {n : Nat} {image : List W64} (hb : t.body = .progLoad addr n) (hn : n = 0 ∨ 32768 < n ∨ image.length = n) :
      exec (.progLoad sess ring image) s = .next (cmdRun s sess ring fun t => if n = 0 || 32768 < n then .error stBad
        else .ok (modLoom s t.loom fun x => { x with program := image, loaded := true }, [])) := by
    rw [exec_progLoad h hb (by simp; omega), cfgRun_ok _ htaken hstarted hcfg]
  refine ⟨fun f hb hf => ?_, fun f hb hf hc => ?_, fun f c hb hf hc hne hfull => ?_, fun addr n image hb h1 h2 hlen => ?_, fun addr n image hb hn => ?_⟩
  · refine cfg_refuses h hcfg rfl ?_
    rw [hb]
    exact configLoom_bad hf
  · refine cfg_does h hcfg rfl ?_
    rw [hb]
    exact configLoom_same hf hc
  · refine cfg_refuses h hcfg rfl ?_
    rw [hb]
    exact configLoom_full hf (by rw [hc]; exact setCredits_full hne hfull)
  · refine (load hb (.inr (.inr hlen))).trans (congrArg _ (cmdRun_ok _ htaken hstarted (if_neg ?_)))
    simp
    omega
  · refine (load hb (by omega)).trans (congrArg _ (cmdRun_error _ htaken hstarted (if_pos ?_)))
    simpa using hn

/-! ## Shared semaphores (R248) -/

section
variable {s : State} {sess sem : Nat} {count : W32} {mask : Option (BitVec 16)} {q : SharedSem}

theorem createSem_range (h : sem < 0x800 ∨ 0xBFF < sem) : createSem s sess sem count mask = .error stBad := by simp [createSem, h]

/-- A new shared semaphore: its session's bit is set in the mask. -/
def newSem (sess : Nat) (count : W32) (mask : Option (BitVec 16)) : SharedSem :=
  { owner := sess, mask := mask.getD 0 ||| BitVec.ofNat 16 (2 ^ sess), count }

theorem createSem_there (hlo : 0x800 ≤ sem) (hhi : sem ≤ 0xBFF) (h : tfind s.ssems sem ≠ none) : createSem s sess sem count mask = .error stBusy := by
  simp [createSem, Nat.not_lt.mpr hlo, Nat.not_lt.mpr hhi, Option.isSome_iff_ne_none, h]

theorem createSem_new (hlo : 0x800 ≤ sem) (hhi : sem ≤ 0xBFF) (h : tfind s.ssems sem = none) :
    createSem s sess sem count mask = .ok ({ s with ssems := tput s.ssems sem (newSem sess count mask) }, []) := by
  simp [createSem, Nat.not_lt.mpr hlo, Nat.not_lt.mpr hhi, h, newSem]

theorem newSem_mask (k : Nat) : (newSem sess count mask).mask.getLsbD k = ((mask.getD 0).getLsbD k || (decide (k < 16) && decide (sess = k))) := by
  rw [newSem, BitVec.getLsbD_or, BitVec.getLsbD_ofNat, Nat.testBit_two_pow]

/-- A deleted semaphore is gone; only the strands that waited for it change. -/
theorem deleteSem_spec (h : tfind s.ssems sem = some q) :
    (deleteSem s sem).ssems = tdel s.ssems sem ∧ (deleteSem s sem).mem = s.mem ∧ (deleteSem s sem).looms = s.looms := by
  rw [deleteSem, h]
  exact List.foldlRecOn (motive := fun u : State => u.ssems = tdel s.ssems sem ∧ u.mem = s.mem ∧ u.looms = s.looms) q.waiters _ ⟨rfl, rfl, rfl⟩
    fun u hu w _ => by rw [semDone_mem, semDone_looms]; exact hu

end

theorem semaphoresMade : SemaphoresMade := by
  intro s sess ring t h
  refine ⟨fun sem count mask hb => ?create, fun sem hb hlo hhi => ?delete⟩
  case create =>
    refine ⟨fun hrange => cmd_refuses h rfl ?_, fun hlo hhi hthere => cmd_refuses h rfl ?_, fun hlo hhi hnew =>
      ⟨{ s with ssems := tput s.ssems sem (newSem sess count mask) }, newSem sess count mask, cmd_does h rfl ?_, ?_, rfl, rfl, fun hs => ?_, rfl,
        fun k hk => ?_, rfl, rfl⟩⟩
    · rw [hb]
      exact createSem_range hrange
    · rw [hb]
      exact createSem_there hlo hhi hthere
    · rw [hb]
      exact createSem_new hlo hhi hnew
    · exact (tfind_tput ..).trans (if_pos rfl)
    · simp [newSem_mask, hs]
    · simp [newSem_mask, hk.symm]
  case delete =>
    refine ⟨fun hnone => cmd_refuses h rfl ?_, fun q hq howner => cmd_refuses h rfl ?_, fun q hq howner hheld => cmd_refuses h rfl ?_,
      fun q hq howner hfree => ⟨_, cmd_does h rfl ?_, deleteSem_spec hq⟩⟩
    all_goals
      rw [hb]
      simp only [Nat.not_lt.mpr hlo, Nat.not_lt.mpr hhi, decide_false, Bool.or_false, Bool.false_eq_true, if_false]
    · rw [hnone]
    · rw [hq]
      exact if_pos howner
    · rw [hq]
      exact (if_neg (not_not.mpr howner)).trans (if_pos (by simpa using hheld))
    · rw [hq]
      exact (if_neg (not_not.mpr howner)).trans (if_neg (by simpa using hfree))

/-- Settles O31. A SEM_INIT that is carried replaces all of the loom's counts by the model's choice (log 60). -/
theorem loomsMade : Obligations.LoomsMade := ⟨loomCreated, loomConfigured, semaphoresMade⟩

end Sys2Proof.Machine
end

section
/-! SUPPORT. What decides how a loom runs (Table 7-3): its state, its command in progress, its pre-emption and its hold. The ends of collectives,
requests, checkpoints, restores, weaves and hot rows leave them to every loom: one lemma for each operation, in the order in which they call one
another. -/
namespace Sys2Proof.Machine
open Sys2Proof

/-- The loom y runs as x does. -/
structure RunsAs (x y : Loom) : Prop where
  st : y.st = x.st
  cmd : y.cmd = x.cmd
  preempt : y.preempt = x.preempt
  heldByHost : y.heldByHost = x.heldByHost

theorem RunsAs.refl (x : Loom) : RunsAs x x := ⟨rfl, rfl, rfl, rfl⟩

theorem RunsAs.trans {x y z : Loom} (h : RunsAs x y) (k : RunsAs y z) : RunsAs x z :=
  ⟨k.st.trans h.st, k.cmd.trans h.cmd, k.preempt.trans h.preempt, k.heldByHost.trans h.heldByHost⟩

/-- From s to t every loom runs as before. -/
structure KeepsRun (s t : State) : Prop where
  loom : ∀ l, RunsAs (getLoom s l) (getLoom t l)

namespace KeepsRun
variable {s t u : State} {α : Type}

theorem refl (s : State) : KeepsRun s s := ⟨fun _ => .refl _⟩

theorem trans (h : KeepsRun s t) (k : KeepsRun t u) : KeepsRun s u := ⟨fun l => (h.loom l).trans (k.loom l)⟩

theorem same (h : KeepsRun s t) (hl : u.looms = t.looms) : KeepsRun s u :=
  h.trans ⟨fun l => by
    rw [getLoom, getLoom, hl]
    exact .refl _⟩

theorem foldl {g : State → α → State} (hg : ∀ u x, KeepsRun s u → KeepsRun s (g u x)) (l : List α) (h : KeepsRun s t) : KeepsRun s (l.foldl g t) :=
  List.foldlRecOn l g h fun u hu x _ => hg u x hu

theorem ite {c : Prop} [Decidable c] (ht : KeepsRun s t) (hu : KeepsRun s u) : KeepsRun s (if c then t else u) := by
  split
  · exact ht
  · exact hu

end KeepsRun

section
variable {s u : State}

theorem modLoom_keepsRun {l : Nat} {f : Loom → Loom} (h : KeepsRun s u) (hf : ∀ x, RunsAs x (f x)) : KeepsRun s (modLoom u l f) := by
  refine h.trans ⟨fun k => ?_⟩
  rw [getLoom_modLoom]
  split
  · next e =>
    subst e
    exact hf _
  · exact .refl _

theorem raiseEvt_keepsRun (src : Src) (bit : Nat) (loom : Option Nat) (unit detail : Nat) (h : KeepsRun s u) :
    KeepsRun s (raiseEvt u src bit loom unit detail) := h.same (raiseEvt_looms u src bit loom unit detail)

theorem finish_keepsRun (sess ring : Nat) (st : Byte) (result : List Byte) (h : KeepsRun s u) : KeepsRun s (finish u sess ring st result) :=
  h.same (finish_looms u sess ring st result)

/-! ## Collectives -/

theorem modTileOf_keepsRun (l t : Nat) (f : Tile → Tile) (h : KeepsRun s u) : KeepsRun s (modTileOf u l t f) := by
  unfold modTileOf
  dsimp only
  split
  · exact modLoom_keepsRun h fun _ => ⟨rfl, rfl, rfl, rfl⟩
  · have tiles : KeepsRun s (if (getLoom u l).holder || (getLoom u l).lastHolder then modTile u t f else u) := .ite (h.same (modTile_looms ..)) h
    exact .ite tiles (modLoom_keepsRun tiles fun _ => ⟨rfl, rfl, rfl, rfl⟩)

theorem sendAborts_keepsRun (l tile : Nat) (o : CollOp) (st : Byte) (h : KeepsRun s u) : KeepsRun s (sendAborts u l tile o st) :=
  (modTileOf_keepsRun _ _ _ h).same (State_foldl_looms _ (fun _ _ => sendFrame_looms ..) ..)

theorem abortColl_keepsRun (l tile : Nat) (o : CollOp) (st : Byte) (h : KeepsRun s u) : KeepsRun s (abortColl u l tile o st) := by
  unfold abortColl
  refine raiseEvt_keepsRun _ _ _ _ _ (sendAborts_keepsRun _ _ _ _ (.foldl (fun _ _ h => ?_) _ h))
  exact .ite h (modTileOf_keepsRun _ _ _ h)

theorem abortColls_keepsRun (l : Nat) (st : Byte) (h : KeepsRun s u) : KeepsRun s (abortColls u l st) :=
  .foldl (fun _ _ => .foldl (fun _ _ => abortColl_keepsRun _ _ _ _) _) _ h

/-! ## Requests -/

theorem dropStep_keepsRun (l : Nat) (h : KeepsRun s u) : KeepsRun s (dropStep u l) := by
  unfold dropStep
  dsimp only
  split
  · exact h
  · refine modLoom_keepsRun (modLoom_keepsRun ?_ fun _ => ⟨rfl, rfl, rfl, rfl⟩) fun _ => ⟨rfl, rfl, rfl, rfl⟩
    have rejected (n : Nat) : KeepsRun s (rejectDrafts u l n) := h.same (rejectDrafts_looms ..)
    split
    · exact modLoom_keepsRun (rejected _) fun _ => ⟨rfl, rfl, rfl, rfl⟩
    · exact rejected _

theorem putOut_looms (s : State) (e kind token pos pick st logprob : Nat) : (putOut s e kind token pos pick st logprob).looms = s.looms := by simp [putOut]

theorem putRecord_looms (s : State) (k : Nat) (bs : List Byte) : (putRecord s k bs).looms = s.looms := rfl

theorem endReq_keepsRun (e : Nat) (st : Byte) (h : KeepsRun s u) : KeepsRun s (endReq u e st) := by
  unfold endReq
  refine .ite h ?_
  have taken : KeepsRun s (takeEv u).2 := h.same (takeEv_looms u)
  generalize takeEv u = p at taken ⊢
  dsimp only
  refine KeepsRun.same ?_ (modReq_looms ..)
  split
  case' h_1 =>
    unfold pinPick
    refine modLoom_keepsRun ?_ fun _ => ⟨rfl, rfl, rfl, rfl⟩
  all_goals
    split
    · exact .ite (taken.same (putOut_looms ..)) ((taken.same (putOut_looms ..)).same (putRecord_looms ..))
    · exact taken.same (putOut_looms ..)

theorem endAllReqs_keepsRun (l : Nat) (st : Byte) (h : KeepsRun s u) : KeepsRun s (endAllReqs u l st) :=
  .foldl (fun _ _ => endReq_keepsRun _ _) _ (dropStep_keepsRun l h)

/-! ## Checkpoints and restores -/

theorem endCkpt_keepsRun (l : Nat) (st : Byte) (result : List Byte) (h : KeepsRun s u) : KeepsRun s (endCkpt u l st result) := by
  unfold endCkpt
  split
  · exact h
  · dsimp only
    split
    · exact finish_keepsRun _ _ _ _ (modLoom_keepsRun h fun _ => ⟨rfl, rfl, rfl, rfl⟩)
    · exact modLoom_keepsRun h fun _ => ⟨rfl, rfl, rfl, rfl⟩

theorem endRestore_keepsRun (l : Nat) (st : Byte) (result : List Byte) (h : KeepsRun s u) : KeepsRun s (endRestore u l st result) := by
  unfold endRestore
  split
  · exact h
  · exact finish_keepsRun _ _ _ _ (modLoom_keepsRun h fun _ => ⟨rfl, rfl, rfl, rfl⟩)

/-! ## Hot rows -/

theorem rowTouch_runsAs (x : Loom) (h : HotRegion) (row : Nat) (write : Bool) : RunsAs x (rowTouch x h row write) := by
  unfold rowTouch
  dsimp only
  split
  · exact ⟨rfl, rfl, rfl, rfl⟩
  · exact ⟨rfl, rfl, rfl, rfl⟩

theorem serveAt_looms (s : State) (a : RowAccess) (at_ : Nat) : (serveAt s a at_).looms = s.looms := by
  unfold serveAt
  split
  · exact wrData_looms ..
  · rfl

theorem serveRow_keepsRun (a : RowAccess) (h : KeepsRun s u) : KeepsRun s (serveRow u a) := by
  unfold serveRow
  split
  · exact KeepsRun.same (modLoom_keepsRun h fun x => rowTouch_runsAs ..) (serveAt_looms ..)
  · exact h

theorem serveHeld_keepsRun (l n : Nat) (h : KeepsRun s u) : KeepsRun s (serveHeld l n u) := by
  induction n generalizing u with
  | zero => exact h
  | succ n ih =>
    unfold serveHeld
    split
    · exact h
    · exact ih (serveRow_keepsRun _ (modLoom_keepsRun h fun _ => ⟨rfl, rfl, rfl, rfl⟩))

theorem hotStop_keepsRun (l : Nat) (h : KeepsRun s u) : KeepsRun s (hotStop u l) := by
  unfold hotStop
  refine .foldl (fun v r h => ?_) _ h
  dsimp only
  split
  · refine serveHeld_keepsRun _ _ (modLoom_keepsRun (modLoom_keepsRun ?_ fun _ => ⟨rfl, rfl, rfl, rfl⟩) fun _ => ⟨rfl, rfl, rfl, rfl⟩)
    refine .foldl (fun _ _ h => ?_) _ h
    exact .ite (h.same (wrData_looms ..)) h
  · exact h

/-! ## Weaves -/

theorem modGen_keepsRun (l : Nat) (f : GenLoom → GenLoom) (h : KeepsRun s u) : KeepsRun s (modGen u l f) := modLoom_keepsRun h fun _ => ⟨rfl, rfl, rfl, rfl⟩

theorem putCurPick_looms (s : State) (k pick : Nat) : (putCurPick s k pick).looms = s.looms := by
  refine State_foldl_looms _ (fun s p => ?_) _ s
  split <;> rfl

theorem startPick_keepsRun (k : Nat) (h : KeepsRun s u) : KeepsRun s (startPick u k) := by
  unfold startPick
  refine raiseEvt_keepsRun _ _ _ _ _ (KeepsRun.same ?_ (putCurPick_looms ..))
  refine .foldl (fun _ _ h => ?_) _ (h.same (modWeave_looms ..))
  exact modGen_keepsRun _ _ (h.same (objWrite_looms ..))

theorem publishIdle_keepsRun (k : Nat) (h : KeepsRun s u) : KeepsRun s (publishIdle u k) := by
  have noted (f : Weave → Weave) (bit l : Nat) : KeepsRun s (raiseEvt (modWeave u k f) .shed bit (some l)) :=
    raiseEvt_keepsRun _ _ _ _ _ (h.same (modWeave_looms u k f))
  unfold publishIdle
  exact .ite (noted ..) (.ite (startPick_keepsRun k h) (.ite (noted ..) (noted ..)))

theorem pubIdle_keepsRun (k : Nat) (h : KeepsRun s u) : KeepsRun s (pubIdle u k) := by
  unfold pubIdle
  have idle (f : Weave → Weave) (ws : List HeldWrite) : KeepsRun s { modWeave u k f with heldWrites := ws } := h.same (modWeave_looms u k f)
  exact .ite (publishIdle_keepsRun _ (idle ..)) (idle ..)

theorem abandonTaking_keepsRun (k l : Nat) (h : KeepsRun s u) : KeepsRun s (abandonTaking u k l) := by
  unfold abandonTaking
  exact .ite (raiseEvt_keepsRun _ _ _ _ _ (modGen_keepsRun _ _ (h.same (modWeave_looms ..)))) h

theorem dropSource_keepsRun (k : Nat) (h : KeepsRun s u) : KeepsRun s (dropSource u k) := by
  refine pubIdle_keepsRun k (KeepsRun.same ?_ (modWeave_looms ..))
  exact .foldl (fun _ _ => abandonTaking_keepsRun _ _) _ h

theorem abandonSource_keepsRun (k : Nat) (h : KeepsRun s u) : KeepsRun s (abandonSource u k) :=
  .ite (dropSource_keepsRun k (dropSource_keepsRun k h)) (dropSource_keepsRun k h)

theorem shedEnter_keepsRun (l : Nat) (h : KeepsRun s u) : KeepsRun s (shedEnter u l) := by
  unfold shedEnter
  have left : KeepsRun s (match genWeave u l with
      | some (k, w) => if w.shared || (getLoom u l).st.takesPick then u else abandonTaking u k l
      | none => u) := by
    split
    · exact .ite h (abandonTaking_keepsRun _ _ h)
    · exact h
  dsimp only
  split
  · exact .ite (abandonSource_keepsRun _ left) left
  · exact left

end

/-! ## Shared semaphores stay when a weave's copies are abandoned -/

section
variable {s : State}

@[simp] theorem raiseEvt_ssems (s : State) (src : Src) (bit : Nat) (loom : Option Nat) (unit detail : Nat) :
    (raiseEvt s src bit loom unit detail).ssems = s.ssems := by
  obtain ⟨hm, ss, h⟩ := raiseEvt_eq s src bit loom unit detail
  rw [h]
  rfl

theorem foldl_ssems {α : Type} {g : State → α → State} (hg : ∀ s x, (g s x).ssems = s.ssems) (l : List α) (s : State) :
    (l.foldl g s).ssems = s.ssems :=
  List.foldlRecOn (motive := fun u : State => u.ssems = s.ssems) l g rfl fun u hu x _ => (hg u x).trans hu

@[simp] theorem objWrite_ssems (s : State) (x : Loom) (obj off : Nat) (bs : List Byte) : (objWrite s x obj off bs).ssems = s.ssems := by
  unfold objWrite
  split
  · rfl
  · split
    · unfold wrData
      dsimp only
      split <;> rfl
    · refine foldl_ssems (fun s p => ?_) _ s
      dsimp only
      split <;> rfl

@[simp] theorem startPick_ssems (s : State) (k : Nat) : (startPick s k).ssems = s.ssems := by
  unfold startPick putCurPick
  rw [raiseEvt_ssems, foldl_ssems (fun s p => by split <;> rfl)]
  refine foldl_ssems (fun s l => ?_) ..
  exact objWrite_ssems ..

@[simp] theorem publishIdle_ssems (s : State) (k : Nat) : (publishIdle s k).ssems = s.ssems := by
  unfold publishIdle refusePick
  dsimp only
  split
  · exact raiseEvt_ssems ..
  · split
    · exact startPick_ssems ..
    · split
      · exact raiseEvt_ssems ..
      · exact raiseEvt_ssems ..

@[simp] theorem pubIdle_ssems (s : State) (k : Nat) : (pubIdle s k).ssems = s.ssems := by
  unfold pubIdle
  dsimp only
  split
  · exact publishIdle_ssems ..
  · rfl

@[simp] theorem abandonTaking_ssems (s : State) (k l : Nat) : (abandonTaking s k l).ssems = s.ssems := by
  unfold abandonTaking
  split
  · exact raiseEvt_ssems ..
  · rfl

@[simp] theorem dropSource_ssems (s : State) (k : Nat) : (dropSource s k).ssems = s.ssems :=
  (pubIdle_ssems ..).trans (foldl_ssems (fun _ _ => abandonTaking_ssems ..) ..)

@[simp] theorem abandonSource_ssems (s : State) (k : Nat) : (abandonSource s k).ssems = s.ssems := by
  unfold abandonSource
  dsimp only
  split <;> simp only [dropSource_ssems]

@[simp] theorem shedEnter_ssems (s : State) (l : Nat) : (shedEnter s l).ssems = s.ssems := by
  unfold shedEnter
  have left : (match genWeave s l with
      | some (k, w) => if w.shared || (getLoom s l).st.takesPick then s else abandonTaking s k l
      | none => s).ssems = s.ssems := by
    split
    · split
      · rfl
      · exact abandonTaking_ssems ..
    · rfl
  have right (t : State) : (match learnWeave t l with
      | some (k, w) => if !w.shared && w.pub = PubState.copying && abandons t w then abandonSource t k else t
      | none => t).ssems = t.ssems := by
    split
    · split
      · exact abandonSource_ssems ..
      · rfl
    · rfl
  exact (right _).trans left

end

/-! ## Shared units -/

theorem getLoom_foldl_serveSem (sems : List Nat) (s : State) (k : Nat) : getLoom (sems.foldl serveSem s) k = getLoom s k := by
  rw [getLoom, State_foldl_looms _ serveSem_looms, getLoom]

theorem getLoom_leaveQueues (s : State) (l k : Nat) : getLoom (leaveQueues s l) k = if l = k then { getLoom s l with semWaiters := [] } else getLoom s k := by
  rw [leaveQueues, getLoom_foldl_serveSem, ← getLoom_modLoom s l k fun x => { x with semWaiters := [] }]
  rfl

end Sys2Proof.Machine
end

section
/-! SUPPORT. How a loom comes to hold its bays (R164, R193, R230, R238): what selecting one that is alone on its bays leaves, and that a loom for which
nothing came while it was away takes nothing up. -/
namespace Sys2Proof.Machine
open Sys2Proof

/-! ## Tables of which some entries change or go -/

theorem tget_map_if {α : Type} (d : α) (p : Nat → Bool) (f : α → α) (hf : f d = d) (t : Table α) (k : Nat) :
    tget d (t.map fun (i, x) => if p i then (i, f x) else (i, x)) k = if p k then f (tget d t k) else tget d t k := by
  induction t with
  | nil => simp [tget, hf]
  | cons kv t ih =>
    obtain ⟨i, x⟩ := kv
    by_cases hi : i = k
    · subst hi
      cases hp : p i <;> simp [tget, hp]
    · cases hp : p i <;> simpa [tget, hp, hi] using ih

theorem tget_filter_key {α : Type} (d : α) (p : Nat → Bool) (t : Table α) (k : Nat) :
    tget d (t.filter fun c => p c.1) k = if p k then tget d t k else d := by
  induction t with
  | nil => simp [tget]
  | cons kv t ih =>
    obtain ⟨i, x⟩ := kv
    by_cases hi : i = k
    · subst hi
      cases hp : p i
      · simpa [tget, hp] using ih
      · simp [tget, hp]
    · cases hp : p i <;> simpa [tget, hp, hi] using ih

/-- What holds of every entry and of the default holds at every key. -/
theorem tget_of_forall {α : Type} {P : α → Prop} {d : α} {t : Table α} (hd : P d) (ht : ∀ kv ∈ t, P kv.2) (k : Nat) : P (tget d t k) := by
  induction t with
  | nil => exact hd
  | cons kv t ih =>
    rw [tget]
    split
    · exact ht kv List.mem_cons_self
    · exact ih fun q hq => ht q (List.mem_cons_of_mem _ hq)

/-! ## Collectives of a tile that have begun (R276) -/

/-- No collective of a tile waits for an install. -/
def CollsBegun (u : Tile) : Prop := ∀ o, o ∈ u.colls → o.waiting = false

theorem collsBegun_of_nil {u : Tile} (h : u.colls = []) : CollsBegun u := fun _ ho => absurd (h ▸ ho) List.not_mem_nil

theorem CollsBegun.congr {u v : Tile} (h : CollsBegun u) (hc : v.colls = u.colls) : CollsBegun v := fun o ho => h o (hc ▸ ho)

/-- No collective of any tile waits for an install. -/
def AllBegun (s : State) : Prop := ∀ t, CollsBegun (getTile s t)

theorem AllBegun.congr {s u : State} (h : AllBegun s) (ht : u.tiles = s.tiles) : AllBegun u := fun t => by
  rw [getTile, ht]
  exact h t

theorem AllBegun.setTile {s : State} (h : AllBegun s) {t : Nat} {x : Tile} (hx : CollsBegun x) : AllBegun (setTile s t x) := fun k => by
  rw [getTile_setTile]
  split
  · exact hx
  · exact h k

theorem getTile_clearBays (s : State) (bays : List Nat) (t : Nat) : getTile (clearBays s bays) t =
    if bays.contains (bayOf t) then { cnt := (getTile s t).cnt, ovf := (getTile s t).ovf, ovfCnt := (getTile s t).ovfCnt } else getTile s t :=
  tget_map_if ({} : Tile) (fun t => bays.contains (bayOf t)) (fun x : Tile => { cnt := x.cnt, ovf := x.ovf, ovfCnt := x.ovfCnt }) rfl s.tiles t

theorem AllBegun.clearBays {s : State} (h : AllBegun s) (bays : List Nat) : AllBegun (clearBays s bays) := fun t => by
  rw [getTile_clearBays]
  split
  · exact collsBegun_of_nil rfl
  · exact h t

theorem AllBegun.foldl {α : Type} {g : State → α → State} {l : List α} {s : State} (h : AllBegun s) (hg : ∀ u, AllBegun u → ∀ x ∈ l, AllBegun (g u x)) :
    AllBegun (l.foldl g s) := List.foldlRecOn l g h hg

/-! ## What came for a loom while it was away -/

/-- Nothing came for a loom while it was away: there is nothing for it to take up. -/
structure NothingCame (s : State) (l : Nat) : Prop where
  parked : (getLoom s l).parked = []
  frames : (getLoom s l).parkedFrames = []
  adds : (getLoom s l).holdsAdd = []
  rows : agentsIdle s l
  tiles : AllBegun s

theorem applyReady_of_none {s : State} {l : Nat} (h : (getLoom s l).holdsAdd = []) : applyReady s l = s := by
  have hdone : doneGroups (getLoom s l) = [] := by rw [doneGroups, h]; rfl
  rw [applyReady, hdone]
  exact ite_self s

theorem beginHeld_of_begun {s : State} (l : Nat) (h : AllBegun s) : beginHeld s l = s := by
  unfold beginHeld
  dsimp only
  split
  · rfl
  · refine List.foldlRecOn (motive := fun u => u = s) _ _ rfl fun u hu t _ => ?_
    subst hu
    have hnone : ((getTile u t).colls.filter fun o => o.waiting && o.status.isNone) = [] := by
      rw [List.filter_eq_nil_iff]
      intro o ho
      simp [h t o ho]
    rw [hnone]
    rfl

theorem takeUp_of_nothing {s : State} {l : Nat} (h : NothingCame s l) :
    takeUp s l = setLoom s l { getLoom s l with parked := [], parkedFrames := [] } := by
  unfold takeUp
  dsimp only
  rw [h.parked, h.frames, List.map_nil, List.map_nil, List.append_nil, List.mergeSort_nil, List.foldl_nil]
  generalize hu : modLoom s l (fun x => { x with parked := [], parkedFrames := [] }) = u
  have hloom : getLoom u l = { getLoom s l with parked := [], parkedFrames := [] } := by rw [← hu, getLoom_modLoom, if_pos rfl]
  have hadds : (getLoom u l).holdsAdd = [] := by
    rw [hloom]
    exact h.adds
  have hrows : agentsIdle u l := fun w hw => h.rows w (by rw [hloom] at hw; exact hw)
  have htiles : AllBegun u := h.tiles.congr (by rw [← hu, modLoom_tiles])
  rw [applyReady_of_none hadds, serveAll_of_idle hrows, beginHeld_of_begun l htiles, ← hu]
  rfl

/-- The same, with what the loom's tiles hold for it while it is away. -/
structure NothingKept (s : State) (l : Nat) : Prop extends NothingCame s l where
  keep : ∀ kv ∈ (getLoom s l).keep, CollsBegun kv.2
  image : ∀ i, (getLoom s l).image = some i → ∀ kv ∈ i.tiles, CollsBegun kv.2

theorem NothingKept.of_nothingParked {s : State} {l : Nat} (h : nothingParked s l) : NothingKept s l := by
  obtain ⟨hparked, hframes, hadds, hrows, hcolls⟩ := h
  exact { parked := hparked, frames := hframes, adds := hadds, rows := hrows
          tiles := tget_of_forall (collsBegun_of_nil rfl) fun kv hkv => hcolls kv (.inl hkv)
          keep := fun kv hkv => hcolls kv (.inr (.inl hkv))
          image := fun i hi kv hkv => hcolls kv (.inr (.inr ⟨i, hi, hkv⟩)) }

/-! ## The bays are entered (R230) -/

/-- Between two states only the tiles, the looms, the memory and its errors differ. -/
def DiffersInBays (s t : State) : Prop := ∃ ts ls m fl, t = { s with tiles := ts, looms := ls, mem := m, faults := fl }

theorem DiffersInBays.refl (s : State) : DiffersInBays s s := ⟨_, _, _, _, rfl⟩

theorem DiffersInBays.trans {s t u : State} (h : DiffersInBays s t) (k : DiffersInBays t u) : DiffersInBays s u := by
  obtain ⟨ts, ls, m, fl, rfl⟩ := h
  obtain ⟨ts', ls', m', fl', rfl⟩ := k
  exact ⟨ts', ls', m', fl', rfl⟩

theorem setLoom_differsInBays (s : State) (l : Nat) (x : Loom) : DiffersInBays s (setLoom s l x) := ⟨_, _, _, _, rfl⟩

/-- The state in which a loom's bays are made ready for it: as they are, or cleared with what is kept of the loom put back. -/
def baysReady (s : State) (l : Nat) : State :=
  if (getLoom s l).image.isSome || (getLoom s l).lastHolder then s
  else (getLoom s l).keep.foldl (fun s kv => setTile s kv.1 kv.2) (clearBays s (getLoom s l).bays)

theorem baysReady_looms (s : State) (l : Nat) : (baysReady s l).looms = s.looms := by
  unfold baysReady
  split
  · rfl
  · exact State_foldl_looms (fun s (kv : Nat × Tile) => setTile s kv.1 kv.2) (fun _ _ => rfl) ..

theorem baysReady_differsInBays (s : State) (l : Nat) : DiffersInBays s (baysReady s l) := by
  unfold baysReady
  split
  · exact .refl s
  · exact List.foldlRecOn (motive := DiffersInBays s) _ _ ⟨_, _, _, _, rfl⟩ fun u hu kv _ => hu.trans ⟨_, _, _, _, rfl⟩

theorem AllBegun.baysReady {s : State} {l : Nat} (h : AllBegun s) (hk : ∀ kv ∈ (getLoom s l).keep, CollsBegun kv.2) : AllBegun (baysReady s l) := by
  unfold Machine.baysReady
  split
  · exact h
  · exact (h.clearBays _).foldl fun u hu kv hkv => hu.setTile (hk kv hkv)

/-- Who held the bays last is forgotten of some looms. -/
def forgetLast (s : State) (ls : List Nat) : State := ls.foldl (fun s k => modLoom s k fun y => { y with lastHolder := false }) s

theorem forgetLast_spec (s : State) (ls : List Nat) : (∃ lm, forgetLast s ls = { s with looms := lm }) ∧
    ∀ k, ∃ b, getLoom (forgetLast s ls) k = { getLoom s k with lastHolder := b } := by
  refine List.foldlRecOn (motive := fun u : State => (∃ lm, u = { s with looms := lm }) ∧ ∀ k, ∃ b, getLoom u k = { getLoom s k with lastHolder := b })
    ls _ ⟨⟨s.looms, rfl⟩, fun k => ⟨_, rfl⟩⟩ fun u hu j _ => ?_
  obtain ⟨⟨lm, rfl⟩, hget⟩ := hu
  refine ⟨⟨_, rfl⟩, fun k => ?_⟩
  rw [getLoom_modLoom]
  split
  · next h =>
    subst h
    obtain ⟨b, hb⟩ := hget j
    rw [hb]
    exact ⟨false, rfl⟩
  · exact hget k

theorem enterBays_eq (s : State) (l : Nat) : enterBays s l =
    modLoom (forgetLast (baysReady s l) (coResident (baysReady s l) l)) l fun y => { y with holder := true, keep := [] } := rfl

/-- What a loom becomes when it takes its bays, but for who held them last. -/
def selected (s : State) (x : Loom) : Loom := { x with
  holder := true, keep := [], st := if x.image.isSome then .restoring else .running, stopIssue := false, stepEnded := false
  selAt := some s.tlm.timebase }

theorem selectLoom_spec (s : State) (l : Nat) : DiffersInBays s (selectLoom s l) ∧ (selectLoom s l).tiles = (baysReady s l).tiles ∧
    ∃ b, getLoom (selectLoom s l) l = selected s { getLoom s l with lastHolder := b } := by
  obtain ⟨⟨lm, hforget⟩, hget⟩ := forgetLast_spec (baysReady s l) (coResident (baysReady s l) l)
  obtain ⟨b, hb⟩ := hget l
  have hloom : getLoom (baysReady s l) l = getLoom s l := by rw [getLoom, baysReady_looms, getLoom]
  rw [selectLoom, enterBays_eq]
  refine ⟨?_, by rw [modLoom_tiles, modLoom_tiles, hforget], b, ?_⟩
  · refine (baysReady_differsInBays s l).trans (DiffersInBays.trans ?_ (setLoom_differsInBays ..))
    rw [hforget]
    exact ⟨_, _, _, _, rfl⟩
  · rw [getLoom_modLoom, if_pos rfl, getLoom_modLoom, if_pos rfl, hb, hloom]
    rfl

/-! ## Selection (R238) -/

/-- A loom alone on its bays, which nobody holds and no test keeps, is to be selected. -/
structure Selectable (s : State) (l : Nat) : Prop where
  number : l < 32
  away : (getLoom s l).holder = false
  eligible : eligible s l = true
  alone : coResident s l = [l]
  bays : (getLoom s l).bays.any s.svc.testing.contains = false

theorem st_of_eligible {s : State} {l : Nat} (h : eligible s l = true) :
    (getLoom s l).st = .running ∨ (getLoom s l).st = .ready ∨ (getLoom s l).st = .saved := by
  simp only [eligible, Bool.and_eq_true, Bool.or_eq_true, decide_eq_true_eq] at h
  obtain ⟨⟨hst, -⟩, -⟩ := h
  exact or_assoc.mp hst

/-- Among one loom, that loom is picked, whichever went before. -/
theorem pickNext_singleton {s : State} {l : Nat} (out : Nat) (hl : l < 32) (h : eligible s l = true) : pickNext s out [l] = some l := by
  have hfind (i : Nat) : ([l].find? fun k => k = (out + 1 + i) % 32) = if l = (out + 1 + i) % 32 then some l else none := by
    by_cases e : l = (out + 1 + i) % 32 <;> simp [e]
  have hbest : pickNext s out [l] = (List.range 32).findSome? fun i => if l = (out + 1 + i) % 32 then some l else none := by
    simp [pickNext, h, hfind]
  rw [hbest]
  have hsome : ((List.range 32).findSome? fun i => if l = (out + 1 + i) % 32 then some l else none).isSome := by
    rw [List.findSome?_isSome_iff]
    refine ⟨(l + 32 * 32 - (out + 1) % 32) % 32, List.mem_range.mpr (Nat.mod_lt _ (by decide)), ?_⟩
    rw [if_pos (by omega)]
    rfl
  obtain ⟨k, hk⟩ := Option.isSome_iff_exists.mp hsome
  obtain ⟨i, -, hi⟩ := List.exists_of_findSome?_eq_some hk
  rw [hk]
  exact ((ite_eq_iff.mp hi).resolve_right (by simp)).2 ▸ rfl

theorem trySelect_of_selectable {s : State} {l : Nat} (h : Selectable s l) : trySelect s l = selectLoom s l := by
  obtain ⟨hl, haway, hel, halone, hbays⟩ := h
  have hst : (getLoom s l).st ≠ .faulted := by
    rcases st_of_eligible hel with h | h | h <;> simp [h]
  have hholder : holderOf s l = none := by simp [holderOf, halone, haway]
  unfold trySelect
  rw [halone, hholder, hbays, if_neg (by simp [hst])]
  exact if_pos (pickNext_singleton _ hl hel)

/-- A loom alone on its bays, for which nothing came, takes them: RESTORING when it has an image, else RUNNING. -/
theorem holderSelect_of_selectable {s : State} {l : Nat} (h : Selectable s l) (hk : NothingKept s l) :
    DiffersInBays s (holderSelect s l) ∧ ∃ b, getLoom (holderSelect s l) l = selected s { getLoom s l with lastHolder := b } := by
  obtain ⟨hdiff, htiles, b, hloom⟩ := selectLoom_spec s l
  unfold holderSelect
  rw [trySelect_of_selectable h]
  dsimp only
  split
  · have hcame : NothingCame (selectLoom s l) l :=
      { parked := by rw [hloom]; exact hk.parked
        frames := by rw [hloom]; exact hk.frames
        adds := by rw [hloom]; exact hk.adds
        rows := fun w hw => hk.rows w (by rw [hloom] at hw; exact hw)
        tiles := (hk.tiles.baysReady hk.keep).congr htiles }
    rw [takeUp_of_nothing hcame]
    refine ⟨hdiff.trans (setLoom_differsInBays ..), b, ?_⟩
    rw [getLoom_setLoom, if_pos rfl, hloom]
    unfold selected
    rw [← hk.parked, ← hk.frames]
  · exact ⟨hdiff, b, hloom⟩

/-- The looms of a bay set depend on no more than which looms live and on which bays. -/
theorem coResident_congr {s u : State} (l : Nat) (h : ∀ k, ((getLoom u k).st = .free ↔ (getLoom s k).st = .free) ∧ (getLoom u k).bays = (getLoom s k).bays) :
    coResident u l = coResident s l := by
  have hlive : liveLooms u = liveLooms s := List.filter_congr fun k _ => by
    rw [Bool.eq_iff_iff]
    simpa using not_congr (h k).1
  unfold coResident
  rw [hlive]
  exact List.filter_congr fun k _ => by rw [(h k).2, (h l).2]

end Sys2Proof.Machine
end

section
/-! SUPPORT. Starting a loom (R189, R201, R238, R445, Table 7-3). -/
namespace Sys2Proof.Machine
open Sys2Proof

/-! ## LOOM_START -/

/-- A loom as LOOM_START makes it READY. -/
def startedLoom (x : Loom) : Loom := { x with
  st := .ready, cut := false, fencedJob := false, lrn := { x.lrn with normBlocks := [] }, collTimes := [], lastDies := []
  keep := x.keep.map fun kv => (kv.1, { kv.2 with sentFrames := [] }), srv := { x.srv with owned := x.srv.bound } }

/-- The frames that the loom's tiles sent are forgotten. -/
def forgetSent (s : State) (tiles : List Nat) : State :=
  tiles.foldl (fun s t => if (tfind s.tiles t).isSome then modTile s t fun u => { u with sentFrames := [] } else s) s

/-- The state in which LOOM_START has made a loom READY, before it is selected. -/
def started (s : State) (l : Nat) : State :=
  let u := modLoom (modPower s fun p => { p with issuing := [] }) l startedLoom
  if (getLoom u l).lastHolder then forgetSent u (loomTiles (getLoom u l)) else u

theorem startLoom_of_no_weave {s : State} {l : Nat} (h : learnWeave (started s l) l = none) :
    startLoom s l = startChecks (if eligible (started s l) l then holderSelect (started s l) l else started s l) l := by
  unfold startLoom
  extract_lets s1 s2 s3
  have h2 : s2 = started s l := rfl
  have h3 : s3 = s2 := by
    simp only [s3]
    rw [h2, h]
  rw [h3, h2]

section
variable {s u : State} {l : Nat}

theorem forgetSent_spec (s : State) (tiles : List Nat) : (∃ ts, forgetSent s tiles = { s with tiles := ts }) ∧ (AllBegun s → AllBegun (forgetSent s tiles)) := by
  refine List.foldlRecOn (motive := fun u : State => (∃ ts, u = { s with tiles := ts }) ∧ (AllBegun s → AllBegun u)) tiles _ ⟨⟨s.tiles, rfl⟩, id⟩
    fun u hu t _ => ?_
  obtain ⟨⟨ts, rfl⟩, hbegun⟩ := hu
  dsimp only
  split
  · exact ⟨⟨_, rfl⟩, fun h => (hbegun h).setTile ((hbegun h t).congr rfl)⟩
  · exact ⟨⟨ts, rfl⟩, hbegun⟩

theorem started_eq (s : State) (l : Nat) :
    ∃ ts p, started s l = { s with tiles := ts, power := p, looms := tput s.looms l (startedLoom (getLoom s l)) } := by
  unfold started
  dsimp only
  split
  · obtain ⟨⟨ts, h⟩, -⟩ := forgetSent_spec (modLoom (modPower s fun p => { p with issuing := [] }) l startedLoom)
      (loomTiles (getLoom (modLoom (modPower s fun p => { p with issuing := [] }) l startedLoom) l))
    exact ⟨ts, _, h⟩
  · exact ⟨s.tiles, _, rfl⟩

theorem AllBegun.started (h : AllBegun s) (l : Nat) : AllBegun (started s l) := by
  unfold Machine.started
  dsimp only
  split
  · exact (forgetSent_spec ..).2 h
  · exact h

theorem getLoom_started (s : State) (l k : Nat) : getLoom (started s l) k = if l = k then startedLoom (getLoom s l) else getLoom s k := by
  obtain ⟨ts, p, h⟩ := started_eq s l
  rw [h, ← getLoom_setLoom]
  rfl

theorem getLoom_started_self (s : State) (l : Nat) : getLoom (started s l) l = startedLoom (getLoom s l) := by rw [getLoom_started, if_pos rfl]

theorem learnWeave_started (h : learnWeave s l = none) : learnWeave (started s l) l = none := by
  obtain ⟨ts, p, hs⟩ := started_eq s l
  rw [hs]
  exact h

theorem ringReady_started (s : State) (l : Nat) : ringReady (started s l) (startedLoom (getLoom s l)) = ringReady s (getLoom s l) := by
  obtain ⟨ts, p, h⟩ := started_eq s l
  rw [h]
  rfl

/-- A loom that has been started is eligible for its bays by its command or its ring, unless the host holds it. -/
theorem eligible_started (s : State) (l : Nat) : eligible (started s l) l =
    (!(getLoom s l).heldByHost && ((getLoom s l).cmd.isSome || ringReady s (getLoom s l))) := by
  rw [← ringReady_started s l, eligible, getLoom_started_self]
  change (true && !(getLoom s l).heldByHost &&
    ((getLoom s l).cmd.isSome || ringReady (started s l) (startedLoom (getLoom s l)) || (false && (getLoom s l).stopAtEnd))) = _
  rw [Bool.true_and, Bool.false_and, Bool.or_false]

theorem nothingKept_started (h : NothingKept s l) : NothingKept (started s l) l where
  parked := by rw [getLoom_started_self]; exact h.parked
  frames := by rw [getLoom_started_self]; exact h.frames
  adds := by rw [getLoom_started_self]; exact h.adds
  rows := fun w hw => h.rows w (by rw [getLoom_started_self] at hw; exact hw)
  tiles := h.tiles.started l
  keep := by
    rw [getLoom_started_self]
    intro kv hkv
    obtain ⟨q, hq, rfl⟩ := List.mem_map.mp hkv
    exact (h.keep q hq).congr rfl
  image := by
    rw [getLoom_started_self]
    exact h.image

/-! ## What befell a loom while it was STOPPED (R189, R201, R445) -/

/-- A loom has lost a tile, or a memory stack that holds a region of it. -/
def Befallen (s : State) (l : Nat) : Prop := (∃ b, b ∈ (getLoom s l).bays ∧ b ∈ s.svc.lostBays) ∨
  ∃ n, n < Config.stackNum s.variant ∧ stackBad s n = true ∧ holdsStack s l n = true

/-- The parts of the module that a loom is on, and what befell them, are the same in both states. -/
structure SameParts (s u : State) (l : Nat) : Prop where
  svc : u.svc = s.svc
  variant : u.variant = s.variant
  regs : u.regs = s.regs
  bays : (getLoom u l).bays = (getLoom s l).bays
  map : (getLoom u l).map = (getLoom s l).map
  saveAt : (getLoom u l).saveAt = (getLoom s l).saveAt

namespace SameParts

theorem getReg (h : SameParts s u l) (o : Nat) : Machine.getReg u o = Machine.getReg s o := by rw [Machine.getReg, h.regs, Machine.getReg]

theorem stackBad (h : SameParts s u l) (n : Nat) : stackBad u n = stackBad s n := by rw [Machine.stackBad, h.getReg, Machine.stackBad]

theorem holdsStack (h : SameParts s u l) (n : Nat) : holdsStack u l n = holdsStack s l n := by
  rw [Machine.holdsStack, loomRanges, h.map, h.saveAt, h.bays, h.variant]
  rfl

theorem cutOff (h : SameParts s u l) : cutOff u l = cutOff s l := by
  have hdown (e : Nat) : edgeDown u e = edgeDown s e := by rw [edgeDown, h.getReg, edgeDown]
  simp only [Machine.cutOff, loomDies, reach, h.bays, hdown]

theorem startable (h : SameParts s u l) (hs : startable s l) : startable u l := by
  obtain ⟨hlost, hstack, hcut⟩ := hs
  refine ⟨?_, fun n hn hbad => ?_, h.cutOff.trans hcut⟩
  · rw [h.bays, h.svc]
    exact hlost
  · rw [h.holdsStack]
    exact hstack n (h.variant ▸ hn) (h.stackBad n ▸ hbad)

theorem befallen (h : SameParts s u l) (hs : Befallen s l) : Befallen u l := by
  rcases hs with ⟨b, hb, hlost⟩ | ⟨n, hn, hbad, hholds⟩
  · exact .inl ⟨b, h.bays ▸ hb, h.svc ▸ hlost⟩
  · exact .inr ⟨n, h.variant ▸ hn, (h.stackBad n).trans hbad, (h.holdsStack n).trans hholds⟩

end SameParts

theorem sameParts_started (s : State) (l : Nat) : SameParts s (started s l) l := by
  obtain ⟨ts, p, h⟩ := started_eq s l
  have hloom := getLoom_started_self s l
  exact ⟨by rw [h], by rw [h], by rw [h], by rw [hloom]; rfl, by rw [hloom]; rfl, by rw [hloom]; rfl⟩

theorem startChecks_of_startable (h : startable s l) : startChecks s l = s := by
  obtain ⟨hlost, hstack, hcut⟩ := h
  have hl : (getLoom s l).bays.any s.svc.lostBays.contains = false := by simpa using hlost
  have hf : ((List.range (Config.stackNum s.variant)).any fun n => stackBad s n && holdsStack s l n) = false := by
    simpa using hstack
  unfold startChecks
  rw [hl, hf, hcut]
  rfl

theorem startChecks_of_befallen (h : Befallen s l) : startChecks s l = loomUncorr s l := by
  refine if_pos ?_
  rw [Bool.or_eq_true, List.any_eq_true, List.any_eq_true]
  rcases h with ⟨b, hb, hlost⟩ | ⟨n, hn, hbad, hholds⟩
  · exact .inl ⟨b, hb, by simpa using hlost⟩
  · exact .inr ⟨n, List.mem_range.mpr hn, by rw [hbad, hholds]; rfl⟩

/-- A loom that has been started is on its bays with the looms that it was on them with. -/
theorem coResident_started (h : (getLoom s l).st ≠ .free) : coResident (started s l) l = coResident s l := by
  refine coResident_congr l fun k => ?_
  rw [getLoom_started]
  split
  · next e =>
    subst e
    exact ⟨⟨fun e => LoomState.noConfusion e, fun e => absurd e h⟩, rfl⟩
  · exact ⟨Iff.rfl, rfl⟩

end

theorem loomStarts : LoomStarts := by
  intro s sess ring t h hst hsess hl l x
  have hfree : x.st ≠ .free := by simp [x, l, hst]
  have hin : [LoomState.stopped].contains x.st = true := by simp [x, l, hst]
  have does (hloaded : x.loaded = true) : Does (.loomStart sess ring) s (startLoom s l) sess ring [] :=
    loom_does h hsess hfree hin rfl (if_neg (by simp [x, l] at hloaded; simp [hloaded]))
  refine ⟨fun hloaded => ?_, fun hloaded hcmd hring hweave hbefell => ?_, fun hloaded hcmd hring hstart hweave => ?_,
    fun hloaded hheld hring hweave halone haway himage hpark hstart htest => ?_⟩
  · exact loom_refuses h hsess hfree hin rfl (if_pos (by simpa [x, l] using hloaded))
  · have hel : eligible (started s l) l = false := by rw [eligible_started, hcmd, hring]; simp
    refine ⟨_, does hloaded, ?_⟩
    rw [startLoom_of_no_weave (learnWeave_started hweave), hel, if_neg Bool.false_ne_true,
      startChecks_of_befallen ((sameParts_started s l).befallen hbefell), loomUncorr_st, if_pos rfl, getLoom_started_self]
    rfl
  · have hel : eligible (started s l) l = false := by rw [eligible_started, hcmd, hring]; simp
    refine ⟨_, does hloaded, ?_⟩
    rw [startLoom_of_no_weave (learnWeave_started hweave), hel, if_neg Bool.false_ne_true,
      startChecks_of_startable ((sameParts_started s l).startable hstart), getLoom_started_self]
    obtain ⟨ts, p, hstarted⟩ := started_eq s l
    exact ⟨rfl, by rw [hstarted]⟩
  · have hel : eligible (started s l) l = true := by
      rw [eligible_started]
      simp only [x] at hheld hring
      simp [hheld, hring]
    have hselect : Selectable (started s l) l :=
      { number := hl
        away := by rw [getLoom_started_self]; exact haway
        eligible := hel
        alone := (coResident_started hfree).trans halone
        bays := by rw [(sameParts_started s l).svc, (sameParts_started s l).bays]; exact htest }
    obtain ⟨⟨ts, ls, m, fl, hdiff⟩, b, hloom⟩ := holderSelect_of_selectable hselect (nothingKept_started (.of_nothingParked hpark))
    have hparts : SameParts (started s l) (holderSelect (started s l) l) l :=
      ⟨by rw [hdiff], by rw [hdiff], by rw [hdiff], by rw [hloom]; rfl, by rw [hloom]; rfl, by rw [hloom]; rfl⟩
    refine ⟨_, does hloaded, ?_⟩
    rw [startLoom_of_no_weave (learnWeave_started hweave), hel, if_pos rfl,
      startChecks_of_startable (hparts.startable ((sameParts_started s l).startable hstart)), hloom, getLoom_started_self]
    refine ⟨?_, rfl⟩
    change (if x.image.isSome = true then LoomState.restoring else .running) = _
    rw [himage]
    rfl

end Sys2Proof.Machine
end

section
/-! SUPPORT. Stopping, holding and deleting a loom (R233, R240, R241, R251, Table 7-3). With starting one, the obligation about how looms run is
settled. -/
namespace Sys2Proof.Machine
open Sys2Proof

section
variable {s : State} {l : Nat}

/-! ## LOOM_STOP -/

theorem stopFrom_contains (s : State) (sess ring : Nat) {st : LoomState} (h : stopStates.contains st = true) : (stopFrom s sess ring).contains st = true := by
  unfold stopFrom
  split
  · split
    · rw [List.contains_cons, h, Bool.or_true]
    · exact h
  · exact h

/-- A loom that has come to STOPPED. -/
structure AtStop (x : Loom) : Prop where
  st : x.st = .stopped
  image : x.image = none
  parked : x.parked = []

theorem toStopped_atStop (s : State) (l : Nat) : AtStop (getLoom (toStopped s l) l) := by
  unfold toStopped
  dsimp only
  rw [getLoom_modLoom, if_pos rfl]
  exact ⟨rfl, rfl, rfl⟩

theorem stopNow_atStop (s : State) (l : Nat) : AtStop (getLoom (stopNow s l) l) := toStopped_atStop _ l

theorem stopIdle_st (s : State) (l : Nat) : (getLoom (stopIdle s l) l).st = .stopped := (stopNow_atStop _ l).st

/-- What LOOM_STOP BOUNDARY ends before it stops the loom. -/
def boundaryEnded (s : State) (l : Nat) : State := endRestore (endCkpt (endAllReqs s l stCancelled) l stCancelled) l stCancelled

theorem boundaryEnded_keepsRun (s : State) (l : Nat) : KeepsRun s (boundaryEnded s l) :=
  endRestore_keepsRun _ _ _ (endCkpt_keepsRun _ _ _ (endAllReqs_keepsRun _ _ (.refl s)))

theorem stopBoundary_running (h : (getLoom s l).st = .running) :
    stopBoundary s l = modLoom (boundaryEnded s l) l fun x => { x with st := .stopping } := by
  unfold stopBoundary
  rw [← boundaryEnded]
  dsimp only
  rw [((boundaryEnded_keepsRun s l).loom l).st, h]

theorem stopBoundary_leaving (h : (getLoom s l).st = .preempting ∨ (getLoom s l).st = .saving ∨ (getLoom s l).st = .restoring) :
    stopBoundary s l = modLoom (boundaryEnded s l) l fun x => { x with pendingStop := true } := by
  unfold stopBoundary
  rw [← boundaryEnded]
  dsimp only
  have hst := ((boundaryEnded_keepsRun s l).loom l).st
  rcases h with h | h | h <;> rw [hst, h]

theorem stopBoundary_saved (h : (getLoom s l).st = .saved) :
    stopBoundary s l = modLoom (boundaryEnded s l) l fun x => { x with stopAtEnd := true } := by
  unfold stopBoundary
  rw [← boundaryEnded]
  dsimp only
  rw [((boundaryEnded_keepsRun s l).loom l).st, h]

theorem stopBoundary_idle (h : (getLoom s l).st = .ready ∨ (getLoom s l).st = .fenced) : stopBoundary s l = stopIdle (boundaryEnded s l) l := by
  unfold stopBoundary
  rw [← boundaryEnded]
  dsimp only
  have hst := ((boundaryEnded_keepsRun s l).loom l).st
  rcases h with h | h <;> rw [hst, h]

/-- What LOOM_STOP CUT ends of a loom that is not idle. -/
def cutEnded (s : State) (l : Nat) : State :=
  let s := if (getLoom s l).image.isSome then hotStop s l else s
  let s := abortColls s l stCancelled
  let s := if (getLoom s l).st = .restoring then clearBays s (getLoom s l).bays else s
  endRestore (endCkpt (endAllReqs s l stCancelled) l stCancelled) l stCancelled

/-- A loom that is cut. -/
def cutLoom (x : Loom) : Loom := { x with
  st := .stopping, stopIssue := true, cut := true, preempt := none, waitPreempt := none, pendingStop := false
  stopAtEnd := false, image := none, parked := [], parkedFrames := []
  cmd := x.cmd.map fun c => { c with endStatus := some (c.endStatus.getD stCancelled) } }

theorem cutEnded_keepsRun (s : State) (l : Nat) : KeepsRun s (cutEnded s l) := by
  refine endRestore_keepsRun _ _ _ (endCkpt_keepsRun _ _ _ (endAllReqs_keepsRun _ _ ?_))
  have aborted : KeepsRun s (abortColls (if (getLoom s l).image.isSome then hotStop s l else s) l stCancelled) :=
    abortColls_keepsRun _ _ (.ite (hotStop_keepsRun l (.refl s)) (.refl s))
  exact .ite (aborted.same (clearBays_looms ..)) aborted

theorem stopCut_going (h : (getLoom s l).st ∈ [LoomState.running, .preempting, .saving, .saved, .restoring]) :
    stopCut s l = modLoom (leaveQueues (cutEnded s l) l) l cutLoom := by
  simp only [List.mem_cons, List.not_mem_nil, or_false] at h
  unfold stopCut
  rcases h with h | h | h | h | h <;> (rw [h]; rfl)

theorem getLoom_stopCut_going (h : (getLoom s l).st ∈ [LoomState.running, .preempting, .saving, .saved, .restoring]) :
    getLoom (stopCut s l) l = cutLoom { getLoom (cutEnded s l) l with semWaiters := [] } := by
  rw [stopCut_going h, getLoom_modLoom, if_pos rfl, getLoom_leaveQueues, if_pos rfl]

/-- The command of a loom that is cut ends CANCELLED unless it ends already. -/
theorem cutLoom_cmd {x : Loom} {c : DobbyCmd} (hc : x.cmd = some c) (hnone : c.endStatus = none) :
    (cutLoom x).cmd = some { c with endStatus := some stCancelled } := by
  unfold cutLoom
  rw [hc, Option.map_some, hnone]
  rfl

theorem stopCut_idle (h : (getLoom s l).st = .ready ∨ (getLoom s l).st = .fenced) : stopCut s l = stopIdle (endCkpt s l stCancelled) l := by
  unfold stopCut
  rcases h with h | h <;> rw [h]

end

theorem ne_free_of_stopStates {st : LoomState} (h : stopStates.contains st = true) : st ≠ .free := fun e => by
  rw [e] at h
  exact absurd h (by decide)

section
variable {s : State} {sess ring : Nat} {t : Taken} (h : TakenCmd s sess ring t) (hsess : (getLoom s t.loom).session = sess)
  (hst : stopStates.contains (getLoom s t.loom).st = true)
include h hsess hst

theorem stopBoundary_does (hb : t.body = .loomStop false) : Does (.loomStopBoundary sess ring) s (stopBoundary s t.loom) sess ring [] :=
  (exec_loomStopBoundary h hb).trans (congrArg _ (loomRun_does h hsess (ne_free_of_stopStates hst) (stopFrom_contains s sess ring hst) rfl))

theorem stopCut_does (hb : t.body = .loomStop true) : Does (.loomStopCut sess ring) s (stopCut s t.loom) sess ring [] :=
  (exec_loomStopCut h hb).trans (congrArg _ (loomRun_does h hsess (ne_free_of_stopStates hst) (stopFrom_contains s sess ring hst) rfl))

end

theorem loomStops : LoomStops := by
  intro s sess ring t h hsess l x
  have ended := (boundaryEnded_keepsRun s l).loom l
  refine ⟨fun hb => ?boundary, fun hb => ?cut⟩
  case boundary =>
    refine ⟨fun hst => ?_, fun hst => ?_, fun hst => ?_, fun hst => ?_⟩
    · refine ⟨_, stopBoundary_does h hsess (by rw [hst]; decide) hb, ?_⟩
      rw [stopBoundary_running hst, getLoom_modLoom, if_pos rfl]
    · refine ⟨_, stopBoundary_does h hsess (by rcases hst with hst | hst | hst <;> (rw [hst]; decide)) hb, ?_⟩
      rw [stopBoundary_leaving hst, getLoom_modLoom, if_pos rfl]
      exact ⟨ended.st, rfl⟩
    · refine ⟨_, stopBoundary_does h hsess (by rw [hst]; decide) hb, ?_⟩
      rw [stopBoundary_saved hst, getLoom_modLoom, if_pos rfl]
    · refine ⟨_, stopBoundary_does h hsess (by rcases hst with hst | hst <;> (rw [hst]; decide)) hb, ?_⟩
      rw [stopBoundary_idle hst]
      exact stopIdle_st ..
  case cut =>
    refine ⟨fun hst => ?_, fun hst => ?_⟩
    · have hin : ∀ st ∈ [LoomState.running, .preempting, .saving, .saved, .restoring], stopStates.contains st = true := by decide
      refine ⟨_, stopCut_does h hsess (hin _ hst) hb, ?_⟩
      rw [getLoom_stopCut_going hst]
      have hcmd := ((cutEnded_keepsRun s l).loom l).cmd
      generalize getLoom (cutEnded s l) l = y at hcmd ⊢
      exact ⟨rfl, rfl, rfl, rfl, fun c hc hnone => ⟨{ c with endStatus := some stCancelled }, cutLoom_cmd (hcmd.trans hc) hnone, rfl⟩⟩
    · refine ⟨_, stopCut_does h hsess (by rcases hst with hst | hst <;> (rw [hst]; decide)) hb, ?_⟩
      rw [stopCut_idle hst]
      exact stopIdle_st ..

/-! ## Pre-emption (R240, R241) -/

/-- The rule of R241 once units are revoked, if they are. -/
def preemptAt (s : State) (l : Nat) (p : Preempt) : State :=
  let x := getLoom s l
  let holds := holdsUnits s l
  if x.cmd.isNone && !holds then if tileResident x then hardPoint s l p else softPoint s l p
  else if p.softOver && !holds then hardPoint s l p
  else if holds && (p.softOver || (x.cmd.isNone && tileResident x)) && !p.deferred then
    raiseEvt (setLoom s l { x with preempt := some { p with deferred := true } }) .lmgr 4 (some l)
  else s

section
variable {s : State} {l : Nat} {p : Preempt}

theorem preemptEval_eq (hp : (getLoom s l).preempt = some p) (hst : (getLoom s l).st = .preempting) :
    preemptEval s l = preemptAt (if p.graceOver then revokeAll s l (unitWaiters s l + 1) else s) l p := by
  unfold preemptEval
  rw [hp]
  exact if_neg (not_not.mpr hst)

/-- A loom that holds units waits with them, deferred when its soft wait is over. -/
theorem preemptAt_holding (h : holdsUnits s l = true) : preemptAt s l p =
    if (p.softOver || ((getLoom s l).cmd.isNone && tileResident (getLoom s l))) && !p.deferred then
      raiseEvt (setLoom s l { getLoom s l with preempt := some { p with deferred := true } }) .lmgr 4 (some l)
    else s := by
  unfold preemptAt
  simp only [h, Bool.not_true, Bool.and_false, Bool.false_eq_true, if_false, Bool.true_and]

/-- One that holds none passes to SAVING when its soft wait is over, if its command runs. -/
theorem preemptAt_free (h : holdsUnits s l = false) (hcmd : (getLoom s l).cmd ≠ none) :
    preemptAt s l p = if p.softOver then hardPoint s l p else s := by
  have hnone : (getLoom s l).cmd.isNone = false := by simpa using Option.isSome_iff_ne_none.mpr hcmd
  unfold preemptAt
  simp only [h, hnone, Bool.not_false, Bool.and_true, Bool.false_and, Bool.false_eq_true, if_false]

theorem requestPreempt_away (hard : Bool) (hst : (getLoom s l).st = .ready ∨ (getLoom s l).st = .saved) : requestPreempt s l hard = s := by
  unfold requestPreempt
  dsimp only
  rcases hst with hst | hst <;> rw [hst]

/-- The request with which a loom enters PREEMPTING. -/
def preemptRequest (s : State) (l : Nat) (hard : Bool) : Preempt :=
  { softOver := hard || (getLoom s l).softWait = 0, deferred := false, since := s.tlm.timebase }

/-- A loom that enters PREEMPTING. -/
def entersPreempting (s : State) (l : Nat) (hard : Bool) : State :=
  setLoom s l { getLoom s l with st := .preempting, preempt := some (preemptRequest s l hard), waitPreempt := none }

theorem requestPreempt_running (hard : Bool) (hst : (getLoom s l).st = .running) (hcopy : copying (getLoom s l) = false) :
    requestPreempt s l hard = preemptAt (shedEnter (entersPreempting s l hard) l) l (preemptRequest s l hard) := by
  have enters := (shedEnter_keepsRun l (.refl (entersPreempting s l hard))).loom l
  have hloom : getLoom (entersPreempting s l hard) l = { getLoom s l with st := .preempting, preempt := some (preemptRequest s l hard), waitPreempt := none } := by
    rw [entersPreempting, getLoom_setLoom, if_pos rfl]
  have hrequest : requestPreempt s l hard = preemptEval (shedEnter (entersPreempting s l hard) l) l := by
    unfold requestPreempt
    dsimp only
    rw [hst]
    exact if_neg (by rw [hcopy]; exact Bool.false_ne_true)
  rw [hrequest, preemptEval_eq (p := preemptRequest s l hard) (by rw [enters.preempt, hloom]) (by rw [enters.st, hloom])]
  rfl

theorem holdsUnits_congr {u : State} (h : u.ssems = s.ssems) (l : Nat) : holdsUnits u l = holdsUnits s l := by rw [holdsUnits, h, holdsUnits]

theorem preemptAt_keepsSt (h : holdsUnits s l = true) : (getLoom (preemptAt s l p) l).st = (getLoom s l).st ∧
    (getLoom (preemptAt s l p) l).heldByHost = (getLoom s l).heldByHost := by
  rw [preemptAt_holding h]
  split
  · have hloom := ((raiseEvt_keepsRun .lmgr 4 (some l) 0 0 (.refl (setLoom s l { getLoom s l with preempt := some { p with deferred := true } }))).loom l)
    rw [hloom.st, hloom.heldByHost, getLoom_setLoom, if_pos rfl]
    exact ⟨rfl, rfl⟩
  · exact ⟨rfl, rfl⟩

/-- A RUNNING loom that holds units is PREEMPTING once its pre-emption is asked for. -/
theorem requestPreempt_holding (hard : Bool) (hst : (getLoom s l).st = .running) (hcopy : copying (getLoom s l) = false) (h : holdsUnits s l = true) :
    (getLoom (requestPreempt s l hard) l).st = .preempting ∧ (getLoom (requestPreempt s l hard) l).heldByHost = (getLoom s l).heldByHost := by
  have enters := (shedEnter_keepsRun l (.refl (entersPreempting s l hard))).loom l
  have holds : holdsUnits (shedEnter (entersPreempting s l hard) l) l = true := (holdsUnits_congr (shedEnter_ssems ..) l).trans h
  obtain ⟨hpre, hheld⟩ := preemptAt_keepsSt (p := preemptRequest s l hard) holds
  rw [requestPreempt_running hard hst hcopy, hpre, hheld, enters.st, enters.heldByHost, entersPreempting, getLoom_setLoom, if_pos rfl]
  exact ⟨rfl, rfl⟩

/-! ## LOOM_RESUME and LOOM_DELETE -/

theorem nothingKept_hold (b : Bool) (h : NothingKept s l) : NothingKept (setLoom s l { getLoom s l with heldByHost := b }) l := by
  have hloom : getLoom (setLoom s l { getLoom s l with heldByHost := b }) l = { getLoom s l with heldByHost := b } := by
    rw [getLoom_setLoom, if_pos rfl]
  exact
    { parked := by rw [hloom]; exact h.parked
      frames := by rw [hloom]; exact h.frames
      adds := by rw [hloom]; exact h.adds
      rows := fun w hw => h.rows w (by rw [hloom] at hw; exact hw)
      tiles := h.tiles.congr rfl
      keep := by rw [hloom]; exact h.keep
      image := by rw [hloom]; exact h.image }

theorem coResident_hold (b : Bool) : coResident (setLoom s l { getLoom s l with heldByHost := b }) l = coResident s l := by
  refine coResident_congr l fun k => ?_
  rw [getLoom_setLoom]
  split
  · next e =>
    subst e
    exact ⟨Iff.rfl, rfl⟩
  · exact ⟨Iff.rfl, rfl⟩

theorem getLoom_deleteLoom (s : State) (l : Nat) : getLoom (deleteLoom s l) l = { gen := ((getLoom s l).gen + 1) % 2 ^ 32 } := by
  unfold deleteLoom
  dsimp only
  rw [getLoom_setLoom, if_pos rfl]

theorem deleteLoom_testing (h : (getLoom s l).st = .faulted) {b : Nat} (hb : b ∈ (getLoom s l).bays) : b ∈ (deleteLoom s l).svc.testing := by
  unfold deleteLoom
  dsimp only
  rw [setLoom_svc, modPower_svc, apply_ite State.svc, ite_self, if_pos h]
  exact List.mem_eraseDups.mpr (List.mem_append_right _ hb)

end

theorem ne_free_of_waiting {st : LoomState} (h : st = .ready ∨ st = .saved) : st ≠ .free := by
  rcases h with h | h <;> (rw [h]; decide)

theorem waiting_contains {st : LoomState} (h : st = .ready ∨ st = .saved) : [LoomState.ready, .saved].contains st = true := by
  rcases h with h | h <;> (rw [h]; decide)

theorem loomHeldAndDeleted : LoomHeldAndDeleted := by
  intro s sess ring t h hsess l x
  refine ⟨fun hard hb => ⟨fun hst => ?_, fun hst hcmd hcopy hunits => ?_⟩, fun hst => ⟨fun hel => ?_,
    fun hel haway halone hpark htest hl => ?_⟩, fun hst => ?_⟩
  · refine loom_does (sts := [.running, .ready, .saved]) h hsess (by rcases hst with e | e <;> simp [x, l] at e <;> simp [e])
      (by rcases hst with e | e <;> simp [x, l] at e <;> simp [e]) rfl ?_
    rw [hb]
    refine congrArg (fun u => Except.ok (u, _)) (requestPreempt_away hard ?_)
    rw [getLoom_modLoom, if_pos rfl]
    exact hst
  · have hin : x.st ≠ .free ∧ [LoomState.running, .ready, .saved].contains x.st = true := by rw [hst]; decide
    refine ⟨preemptLoom s l hard, loom_does h hsess hin.1 hin.2 rfl (by rw [hb]), ?_⟩
    obtain ⟨hpre, hheld⟩ := requestPreempt_holding (s := modLoom s l fun x => { x with heldByHost := true }) hard
      (by rw [getLoom_modLoom, if_pos rfl]; exact hst) (by rw [getLoom_modLoom, if_pos rfl]; exact hcopy) hunits
    exact ⟨hpre, hheld.trans (by rw [getLoom_modLoom, if_pos rfl])⟩
  · exact loom_does h hsess (ne_free_of_waiting hst) (waiting_contains hst) rfl
      (congrArg (fun u => Except.ok (u, _)) (if_neg (Bool.eq_false_iff.mp hel)))
  · have hloom : getLoom (setLoom s l { x with heldByHost := false }) l = { x with heldByHost := false } := by rw [getLoom_setLoom, if_pos rfl]
    have hselect : Selectable (setLoom s l { x with heldByHost := false }) l :=
      { number := hl
        away := by rw [hloom]; exact haway
        eligible := hel
        alone := (coResident_hold false).trans halone
        bays := by rw [hloom]; exact htest }
    obtain ⟨-, b, hsel⟩ := holderSelect_of_selectable hselect (nothingKept_hold false (.of_nothingParked hpark))
    refine ⟨holderSelect (setLoom s l { x with heldByHost := false }) l, loom_does h hsess (ne_free_of_waiting hst) (waiting_contains hst) rfl
      (congrArg (fun u => Except.ok (u, _)) (if_pos hel)), ?_⟩
    rw [hsel, hloom]
    exact ⟨rfl, rfl, rfl⟩
  · have hin : x.st ≠ .free ∧ [LoomState.stopped, .faulted].contains x.st = true := by rcases hst with e | e <;> (rw [e]; decide)
    refine ⟨deleteLoom s l, loom_does h hsess hin.1 hin.2 rfl rfl, ?_⟩
    rw [getLoom_deleteLoom]
    exact ⟨rfl, rfl, rfl, fun hf b hb => deleteLoom_testing hf hb⟩

/-- Settles O32. LOOM_STOP completes OK when it is accepted, in every state: the model's choice (log 58). -/
theorem loomsRun : Obligations.LoomsRun := ⟨loomStarts, loomStops, loomHeldAndDeleted⟩

end Sys2Proof.Machine
end

section
/-! SUPPORT. Changes of holder (R238, R240, R241): one loom yields to another, the soft wait and the grace end, and shared units return. -/
namespace Sys2Proof.Machine
open Sys2Proof

section
variable {s u : State} {l : Nat} {p : Preempt}

/-! ## A holder yields (R238) -/

/-- A loom of no weave sheds nothing. -/
theorem shedEnter_of_no_weave (h : weaveOf s l = none) : shedEnter s l = s := by
  have hnone : ∀ kv ∈ s.weaves, ¬ (kv.2.learner = l ∨ (kv.2.gens.any fun g => g.loom = l) = true) := by
    simpa [weaveOf, List.find?_eq_none] using h
  have hgen : genWeave s l = none := List.find?_eq_none.mpr fun kv hkv e => hnone kv hkv (.inr e)
  have hlearn : learnWeave s l = none := List.find?_eq_none.mpr fun kv hkv e => hnone kv hkv (.inl (of_decide_eq_true e))
  unfold shedEnter
  rw [hgen]
  dsimp only
  rw [hlearn]

/-- While its soft wait lasts, a loom that runs a command stays as it is. -/
theorem preemptAt_waiting (hsoft : p.softOver = false) (hcmd : (getLoom s l).cmd ≠ none) : preemptAt s l p = s := by
  cases hunits : holdsUnits s l
  · rw [preemptAt_free hunits hcmd, hsoft, if_neg Bool.false_ne_true]
  · have hnone : (getLoom s l).cmd.isNone = false := by simpa using Option.isSome_iff_ne_none.mpr hcmd
    rw [preemptAt_holding hunits, hsoft, hnone]
    rfl

/-- A RUNNING loom that is to leave its bays waits for the end of its command. -/
theorem requestPreempt_waiting (hst : (getLoom s l).st = .running) (hcmd : (getLoom s l).cmd ≠ none) (hwait : (getLoom s l).softWait ≠ 0)
    (hcopy : copying (getLoom s l) = false) (hweave : weaveOf s l = none) : requestPreempt s l false = entersPreempting s l false := by
  rw [requestPreempt_running false hst hcopy, shedEnter_of_no_weave (s := entersPreempting s l false) hweave]
  refine preemptAt_waiting (by simpa [preemptRequest] using hwait) ?_
  rw [entersPreempting, getLoom_setLoom, if_pos rfl]
  exact hcmd

theorem getLoom_entersPreempting (s : State) (h k : Nat) (hard : Bool) : getLoom (entersPreempting s h hard) k =
    if h = k then { getLoom s h with st := .preempting, preempt := some (preemptRequest s h hard), waitPreempt := none } else getLoom s k := by
  rw [entersPreempting, getLoom_setLoom]

/-- Who holds the bays is not changed by the holder's entering PREEMPTING. -/
theorem holderOf_entersPreempting (hard : Bool) {h : Nat} (hst : (getLoom s h).st = .running) : holderOf (entersPreempting s h hard) l = holderOf s l := by
  have hlive : (getLoom s h).st ≠ .free := by rw [hst]; decide
  have halone : coResident (entersPreempting s h hard) l = coResident s l := coResident_congr l fun k => by
    rw [getLoom_entersPreempting]
    split
    · next e =>
      subst e
      exact ⟨⟨fun e => LoomState.noConfusion e, fun e => absurd e hlive⟩, rfl⟩
    · exact ⟨Iff.rfl, rfl⟩
  have hholder : (fun k => (getLoom (entersPreempting s h hard) k).holder) = fun k => (getLoom s k).holder := funext fun k => by
    rw [getLoom_entersPreempting]
    split
    · next e =>
      subst e
      rfl
    · rfl
  rw [holderOf, halone, hholder, holderOf]

/-- A holder that must yield and waits for the end of its command keeps its bays till then. -/
theorem trySelect_of_displaced {h : Nat} (hheld : holderOf s l = some h) (hst : (getLoom s h).st = .running) (hcmd : (getLoom s h).cmd ≠ none)
    (hwait : (getLoom s h).softWait ≠ 0) (hcopy : copying (getLoom s h) = false) (hweave : weaveOf s h = none) (hdis : displaces s h = some l)
    (hsound : ∀ k, k ∈ coResident s l → (getLoom s k).st ≠ .faulted) (htest : (getLoom s l).bays.any s.svc.testing.contains = false) :
    trySelect s l = entersPreempting s h false := by
  have hfaulted : ((coResident s l).any fun k => (getLoom s k).st = .faulted) = false := by simpa using hsound
  unfold trySelect
  rw [hfaulted, htest, hheld, if_neg (by simp)]
  dsimp only
  rw [hst, hdis, requestPreempt_waiting hst hcmd hwait hcopy hweave, holderOf_entersPreempting false hst, hheld, if_pos (by simp),
    if_neg (by simp)]

theorem holderSelect_of_still_away (h : (getLoom (trySelect s l) l).holder = false) : holderSelect s l = trySelect s l := by
  unfold holderSelect
  dsimp only
  rw [h, Bool.and_false, Bool.false_and, if_neg Bool.false_ne_true]

/-! ## Shared units return (R148, R241) -/

theorem revokeAll_of_free (h : holdsUnits s l = false) (n : Nat) : revokeAll s l n = s := by
  cases n with
  | zero => rfl
  | succ n => rw [revokeAll, h, if_neg Bool.false_ne_true]

/-- The state in which a loom's units are back in their semaphores and their return is shown, before the waiters are served. -/
def unitsBack (s : State) (l : Nat) : State :=
  raiseEvt (modLoom { s with ssems := s.ssems.map fun (k, x) =>
    (k, { x with count := x.count + BitVec.ofNat 32 (tget 0 x.units l), units := tdel x.units l }) } l fun x => { x with revoked := true })
    .lmgr 5 (some l)

/-- The semaphores of which a loom holds units. -/
def unitSems (s : State) (l : Nat) : List Nat := s.ssems.filterMap fun (k, x) => if tget 0 x.units l = 0 then none else some k

theorem returnUnits_of_holding (h : holdsUnits s l = true) : returnUnits s l = (unitSems s l).foldl serveSem (unitsBack s l) := by
  unfold returnUnits
  rw [if_pos h]
  rfl

/-- A loom is marked as one whose units were revoked, and the manager shows that. -/
structure ShownRevoked (s : State) (l : Nat) : Prop where
  loom : (getLoom s l).revoked = true
  shown : (getReg s 0x00200010).getLsbD 5 = true

theorem getLoom_unitsBack (s : State) (l k : Nat) : getLoom (unitsBack s l) k = if l = k then { getLoom s l with revoked := true } else getLoom s k := by
  rw [unitsBack, getLoom, raiseEvt_looms _ .lmgr 5 (some l) 0 0]
  exact getLoom_modLoom ..

theorem getReg_foldl_serveSem (sems : List Nat) (s : State) (o : Nat) : getReg (sems.foldl serveSem s) o = getReg s o := by
  rw [getReg, foldl_regs serveSem_regs, getReg]

/-- An event that has been raised is shown. -/
theorem getLsbD_raiseEvt (s : State) (src : Src) {bit : Nat} (hbit : bit < 64) (loom : Option Nat) (unit detail : Nat) :
    (getReg (raiseEvt s src bit loom unit detail) src.status).getLsbD bit = true := by
  rw [getReg_raiseEvt, if_pos rfl, BitVec.getLsbD_or, BitVec.getLsbD_ofNat]
  simp [hbit]

/-- An event that is shown is still shown when another is raised. -/
theorem getLsbD_raiseEvt_of_shown {o bit : Nat} (h : (getReg s o).getLsbD bit = true) (src : Src) (b : Nat) (loom : Option Nat) (unit detail : Nat) :
    (getReg (raiseEvt s src b loom unit detail) o).getLsbD bit = true := by
  rw [getReg_raiseEvt]
  split
  · rw [BitVec.getLsbD_or, h, Bool.true_or]
  · exact h

theorem returnUnits_shown (h : holdsUnits s l = true) : ShownRevoked (returnUnits s l) l := by
  rw [returnUnits_of_holding h]
  refine ⟨?_, ?_⟩
  · rw [getLoom_foldl_serveSem, getLoom_unitsBack, if_pos rfl]
  · rw [getReg_foldl_serveSem]
    exact getLsbD_raiseEvt _ .lmgr (by decide) _ _ _

theorem returnUnits_keepsRun (h : holdsUnits u l = true) (hs : KeepsRun s u) : KeepsRun s (returnUnits u l) := by
  rw [returnUnits_of_holding h]
  refine hs.trans ⟨fun k => ?_⟩
  rw [getLoom_foldl_serveSem, getLoom_unitsBack]
  split
  · next e =>
    subst e
    exact ⟨rfl, rfl, rfl, rfl⟩
  · exact .refl _

theorem revokeAll_spec (n : Nat) (h : ShownRevoked s l) : KeepsRun s (revokeAll s l n) ∧ ShownRevoked (revokeAll s l n) l := by
  induction n generalizing s with
  | zero => exact ⟨.refl s, h⟩
  | succ n ih =>
    rw [revokeAll]
    split
    · next holds =>
      obtain ⟨hrun, hshown⟩ := ih (returnUnits_shown holds)
      exact ⟨(returnUnits_keepsRun holds (.refl s)).trans hrun, hshown⟩
    · exact ⟨.refl s, h⟩

theorem revokeAll_of_holding (n : Nat) (h : holdsUnits s l = true) :
    KeepsRun s (revokeAll s l (n + 1)) ∧ ShownRevoked (revokeAll s l (n + 1)) l := by
  rw [revokeAll, if_pos h]
  obtain ⟨hrun, hshown⟩ := revokeAll_spec n (returnUnits_shown h)
  exact ⟨(returnUnits_keepsRun h (.refl s)).trans hrun, hshown⟩

theorem hardPoint_loom (s : State) (l : Nat) (p : Preempt) : getLoom (hardPoint s l p) l =
    { getLoom s l with semWaiters := [], st := .saving, preempt := none, graceUs := sinceUs s p } := by
  rw [hardPoint, getLoom_modLoom, if_pos rfl, getLoom_leaveQueues, if_pos rfl]

theorem ShownRevoked.hardPoint (h : ShownRevoked s l) (p : Preempt) : ShownRevoked (hardPoint s l p) l := by
  refine ⟨?_, ?_⟩
  · rw [hardPoint_loom]
    exact h.loom
  · rw [Machine.hardPoint, getReg, modLoom_regs, leaveQueues_regs]
    exact h.shown

theorem ShownRevoked.preemptAt (h : ShownRevoked s l) (hcmd : (getLoom s l).cmd ≠ none) : ShownRevoked (preemptAt s l p) l := by
  cases hunits : holdsUnits s l
  · rw [preemptAt_free hunits hcmd]
    split
    · exact h.hardPoint p
    · exact h
  · rw [preemptAt_holding hunits]
    split
    · refine ⟨?_, getLsbD_raiseEvt_of_shown (s := setLoom s l _) h.shown _ _ _ _ _⟩
      rw [getLoom, raiseEvt_looms _ .lmgr 4 (some l) 0 0, ← getLoom, getLoom_setLoom, if_pos rfl]
      exact h.loom
    · exact h

/-! ## A loom that neither holds units nor waits for any -/

/-- A loom holds no unit of a semaphore and waits for none. -/
def Untouched (l : Nat) (x : SharedSem) : Prop := tget 0 x.units l = 0 ∧ ∀ w ∈ x.waiters, w.1 ≠ l

/-- A loom holds no shared unit and waits for none. -/
def UnitFree (s : State) (l : Nat) : Prop := ∀ kv ∈ s.ssems, Untouched l kv.2

theorem UnitFree.holdsUnits (h : UnitFree s l) : holdsUnits s l = false := by
  rw [Machine.holdsUnits, List.any_eq_false]
  intro kv hkv
  simpa using (h kv hkv).1

theorem UnitFree.congr (h : UnitFree s l) (hs : u.ssems = s.ssems) : UnitFree u l := fun kv hkv => h kv (hs ▸ hkv)

theorem UnitFree.map (h : UnitFree s l) {f : Nat → SharedSem → SharedSem} (hs : u.ssems = s.ssems.map fun kv => (kv.1, f kv.1 kv.2))
    (hf : ∀ k x, Untouched l x → Untouched l (f k x)) : UnitFree u l := fun kv hkv => by
  rw [hs] at hkv
  obtain ⟨q, hq, rfl⟩ := List.mem_map.mp hkv
  exact hf _ _ (h q hq)

theorem mem_of_tfind {α : Type} {t : Table α} {k : Nat} {x : α} (h : tfind t k = some x) : ∃ kv ∈ t, kv.2 = x := by
  induction t with
  | nil => cases h
  | cons kv t ih =>
    rw [tfind] at h
    split at h
    · exact ⟨kv, List.mem_cons_self, Option.some.inj h⟩
    · obtain ⟨q, hq, e⟩ := ih h
      exact ⟨q, List.mem_cons_of_mem _ hq, e⟩

theorem mem_tput {α : Type} {t : Table α} {i : Nat} {x : α} {kv : Nat × α} (h : kv ∈ tput t i x) : kv.2 = x ∨ kv ∈ t := by
  induction t with
  | nil =>
    rw [tput, List.mem_singleton] at h
    exact .inl (h ▸ rfl)
  | cons q t ih =>
    rw [tput] at h
    split at h
    · rcases List.mem_cons.mp h with h | h
      · exact .inl (h ▸ rfl)
      · exact .inr (List.mem_cons_of_mem _ h)
    · split at h
      · rcases List.mem_cons.mp h with h | h
        · exact .inl (h ▸ rfl)
        · exact .inr h
      · rcases List.mem_cons.mp h with h | h
        · exact .inr (h ▸ List.mem_cons_self)
        · exact (ih h).imp id (List.mem_cons_of_mem _)

theorem UnitFree.serveShared (h : UnitFree s l) (sem n : Nat) : UnitFree (serveShared s sem n) l := by
  induction n generalizing s with
  | zero => exact h
  | succ n ih =>
    unfold Machine.serveShared
    split
    · exact h
    · next x hx =>
      split
      · exact h
      · next k tile strand n r hw =>
        obtain ⟨q, hq, rfl⟩ := mem_of_tfind hx
        obtain ⟨hnone, hout⟩ := h q hq
        rw [hw] at hout
        split
        · refine ih (UnitFree.congr (s := { s with ssems := _ }) (fun kv hkv => ?_) rfl)
          rcases mem_tput hkv with e | hkv
          · rw [e]
            refine ⟨?_, fun w hw => hout w (List.mem_cons_of_mem _ hw)⟩
            rw [tget_tmod, if_neg (hout _ List.mem_cons_self)]
            exact hnone
          · exact h kv hkv
        · exact h

theorem UnitFree.foldl_serveSem (h : UnitFree s l) (sems : List Nat) : UnitFree (sems.foldl serveSem s) l :=
  List.foldlRecOn (motive := fun u => UnitFree u l) sems _ h fun u hu sem _ => by
    unfold serveSem
    split
    · exact hu
    · exact hu.serveShared _ _

theorem UnitFree.leaveQueues (h : UnitFree s l) (k : Nat) : UnitFree (leaveQueues s k) l := by
  unfold Machine.leaveQueues
  refine UnitFree.foldl_serveSem (h.map (f := fun _ x => { x with waiters := x.waiters.filter fun w => w.1 ≠ k }) rfl fun _ x hx => ?_) _
  exact ⟨hx.1, fun w hw => hx.2 w (List.mem_of_mem_filter hw)⟩

theorem UnitFree.preemptAt (h : UnitFree s l) (hcmd : (getLoom s l).cmd ≠ none) : UnitFree (preemptAt s l p) l := by
  rw [preemptAt_free h.holdsUnits hcmd]
  split
  · exact (h.leaveQueues l).congr rfl
  · exact h

/-- Once its units are back, a loom that waits for none holds none, whoever is served. -/
theorem returnUnits_unitFree (h : holdsUnits s l = true) (hwait : unitWaiters s l = 0) : UnitFree (returnUnits s l) l := by
  rw [returnUnits_of_holding h]
  refine UnitFree.foldl_serveSem (fun kv hkv => ?_) _
  rw [unitsBack, raiseEvt_ssems _ .lmgr 5 (some l) 0 0] at hkv
  obtain ⟨q, hq, rfl⟩ := List.mem_map.mp hkv
  refine ⟨by rw [tget_tdel, if_pos rfl], fun w hw e => ?_⟩
  have hzero : (q.2.waiters.filter fun w => w.1 = l).length = 0 := List.sum_eq_zero_iff.mp hwait _ (List.mem_map_of_mem hq)
  exact List.filter_eq_nil_iff.mp (List.length_eq_zero_iff.mp hzero) w hw (decide_eq_true e)

end

/-! ## The waits of a pre-emption end (R241) -/

section
variable {s : State} {l : Nat} {p : Preempt} (hst : (getLoom s l).st = .preempting) (hp : (getLoom s l).preempt = some p)
include hst hp

theorem softExpiry_eq : softExpiry s l =
    let u := modLoom s l fun x => { x with preempt := x.preempt.map fun p => { p with softOver := true } }
    preemptAt (if p.graceOver then revokeAll u l (unitWaiters u l + 1) else u) l { p with softOver := true } := by
  unfold softExpiry
  rw [if_neg (not_not.mpr hst)]
  refine preemptEval_eq (p := { p with softOver := true }) ?_ ?_
  · rw [getLoom_modLoom, if_pos rfl]
    exact congrArg (Option.map _) hp
  · rw [getLoom_modLoom, if_pos rfl]
    exact hst

theorem graceExpiry_eq : graceExpiry s l =
    let u := modLoom s l fun x => { x with preempt := x.preempt.map fun p => { p with graceOver := true } }
    preemptAt (revokeAll u l (unitWaiters u l + 1)) l { p with graceOver := true } := by
  unfold graceExpiry
  rw [if_neg (not_not.mpr hst)]
  refine preemptEval_eq (p := { p with graceOver := true }) ?_ ?_
  · rw [getLoom_modLoom, if_pos rfl]
    exact congrArg (Option.map _) hp
  · rw [getLoom_modLoom, if_pos rfl]
    exact hst

/-- A loom that holds no unit passes to SAVING when its soft wait is over. -/
theorem softExpiry_free (hcmd : (getLoom s l).cmd ≠ none) (hunits : holdsUnits s l = false) :
    (getLoom (softExpiry s l) l).st = .saving ∧ (softExpiry s l).mem = s.mem := by
  rw [softExpiry_eq hst hp]
  dsimp only
  generalize hu : modLoom s l (fun x => { x with preempt := x.preempt.map fun p => { p with softOver := true } }) = u
  have hfree : holdsUnits u l = false := by rw [← hu]; exact hunits
  have hrun : (getLoom u l).cmd ≠ none := by
    rw [← hu, getLoom_modLoom, if_pos rfl]
    exact hcmd
  rw [revokeAll_of_free hfree, ite_self, preemptAt_free hfree hrun, if_pos rfl, hardPoint_loom, hardPoint_mem, ← hu]
  exact ⟨rfl, modLoom_mem ..⟩

/-- One that holds units is deferred. -/
theorem softExpiry_holding (hdef : p.deferred = false) (hgrace : p.graceOver = false) (hunits : holdsUnits s l = true) :
    (getLoom (softExpiry s l) l).st = .preempting ∧ (getReg (softExpiry s l) 0x00200010).getLsbD 4 = true ∧
      (getLoom (softExpiry s l) l).preempt = some { p with softOver := true, deferred := true } := by
  rw [softExpiry_eq hst hp, hgrace]
  dsimp only
  generalize hu : modLoom s l (fun x => { x with preempt := x.preempt.map fun p => { p with softOver := true } }) = u
  have hholds : holdsUnits u l = true := by rw [← hu]; exact hunits
  have hpre : (getLoom u l).st = .preempting := by
    rw [← hu, getLoom_modLoom, if_pos rfl]
    exact hst
  rw [if_neg Bool.false_ne_true, preemptAt_holding hholds, if_pos (by simp [hdef])]
  refine ⟨?_, getLsbD_raiseEvt _ .lmgr (by decide) _ _ _, ?_⟩ <;>
    rw [getLoom, raiseEvt_looms _ .lmgr 4 (some l) 0 0, ← getLoom, getLoom_setLoom, if_pos rfl]
  exact hpre

/-- After the grace a loom's units are revoked; one that waits for none has none, and passes to SAVING when its soft wait is over. -/
theorem graceExpiry_holding (hcmd : (getLoom s l).cmd ≠ none) (hunits : holdsUnits s l = true) : ShownRevoked (graceExpiry s l) l ∧
    (unitWaiters s l = 0 → holdsUnits (graceExpiry s l) l = false ∧ (p.softOver = true → (getLoom (graceExpiry s l) l).st = .saving)) := by
  rw [graceExpiry_eq hst hp]
  dsimp only
  generalize hu : modLoom s l (fun x => { x with preempt := x.preempt.map fun p => { p with graceOver := true } }) = u
  have hholds : holdsUnits u l = true := by rw [← hu]; exact hunits
  have hwaiters : unitWaiters u l = unitWaiters s l := by rw [← hu]; rfl
  obtain ⟨hruns, hshown⟩ := revokeAll_of_holding (unitWaiters u l) hholds
  have hrun : (getLoom (revokeAll u l (unitWaiters u l + 1)) l).cmd ≠ none := by
    rw [(hruns.loom l).cmd, ← hu, getLoom_modLoom, if_pos rfl]
    exact hcmd
  refine ⟨hshown.preemptAt hrun, fun hwait => ?_⟩
  have hfree : UnitFree (revokeAll u l (unitWaiters u l + 1)) l := by
    rw [hwaiters, hwait, revokeAll, if_pos hholds]
    exact returnUnits_unitFree hholds (hwaiters.trans hwait)
  refine ⟨(hfree.preemptAt hrun).holdsUnits, fun hsoft => ?_⟩
  rw [preemptAt_free hfree.holdsUnits hrun, if_pos hsoft, hardPoint_loom]

end

theorem exec_holderSelect {s : State} {l : Nat} (hd : s.svc.dark = false) (haway : (getLoom s l).holder = false) (hel : eligible s l = true) :
    exec (.holderSelect l) s = .next (holderSelect s l) := by
  change Host.Outcome.next (alive s _) = _
  rw [alive_light _ hd, haway, hel]
  rfl

theorem exec_softWaitExpiry {s : State} (l : Nat) (hd : s.svc.dark = false) : exec (.softWaitExpiry l) s = .next (softExpiry s l) :=
  congrArg Host.Outcome.next (alive_light (fun s => softExpiry s l) hd)

theorem exec_preemptGraceExpiry {s : State} (l : Nat) (hd : s.svc.dark = false) : exec (.preemptGraceExpiry l) s = .next (graceExpiry s l) :=
  congrArg Host.Outcome.next (alive_light (fun s => graceExpiry s l) hd)

theorem holdersChange : HoldersChange := by
  intro s l hd hl x
  refine ⟨fun haway hel halone himage hpark htest => ?selected, fun h haway hel hheld hne hst hcmd hwait hcopy hdis hsound htest hweave => ?yields,
    fun p hst hp hcmd hunits => ?saving, fun p hst hp hdef hgrace hcmd hunits => ?deferred, fun p hst hunits hp hcmd => ?revoked⟩
  case selected =>
    obtain ⟨-, b, hloom⟩ := holderSelect_of_selectable ⟨hl, haway, hel, halone, htest⟩ (.of_nothingParked hpark)
    refine ⟨_, exec_holderSelect hd haway hel, ?_⟩
    rw [hloom]
    refine ⟨?_, rfl⟩
    change (if x.image.isSome = true then LoomState.restoring else .running) = _
    rw [himage]
    rfl
  case yields =>
    have hholder : (getLoom s h).holder = true := List.find?_some (p := fun k => (getLoom s k).holder) hheld
    have htry := trySelect_of_displaced hheld hst hcmd hwait hcopy hweave hdis hsound htest
    have hstill : (getLoom (trySelect s l) l).holder = false := by
      rw [htry, getLoom_entersPreempting, if_neg hne]
      exact haway
    refine ⟨_, exec_holderSelect hd haway hel, ?_⟩
    rw [holderSelect_of_still_away hstill, htry, getLoom_entersPreempting, if_pos rfl]
    exact ⟨rfl, hholder⟩
  case saving => exact ⟨_, exec_softWaitExpiry l hd, softExpiry_free hst hp hcmd hunits⟩
  case deferred =>
    obtain ⟨hpre, hreg, hq⟩ := softExpiry_holding hst hp hdef hgrace hunits
    exact ⟨_, exec_softWaitExpiry l hd, hpre, hreg, _, hq, rfl⟩
  case revoked =>
    obtain ⟨⟨hloom, hreg⟩, hfree⟩ := graceExpiry_holding hst hp hcmd hunits
    exact ⟨_, exec_preemptGraceExpiry l hd, hloom, hreg, hfree⟩

end Sys2Proof.Machine
end

section
/-! SUPPORT. The image of a loom is saved and restored (R164, R230, R243), and a loom that stops is STOPPED (R235). -/
namespace Sys2Proof.Machine
open Sys2Proof

section
variable {s : State} {l us : Nat}

/-! ## The tile stores of a set of bays -/

/-- The place is in the tile store of one of the bays. -/
def placeIn (bays : List Nat) : Place → Bool
  | .tile t _ => bays.contains (bayOf t)
  | _ => false

theorem placeIn_iff {bays : List Nat} {p : Place} : placeIn bays p = true ↔ ∃ k o, p = .tile k o ∧ bayOf k ∈ bays := by
  cases p <;> simp [placeIn]

/-- The byte lies in the tile store of one of the bays. -/
def inBays (s : State) (bays : List Nat) (a : Nat) : Bool := placeIn bays (place s.variant a)

/-- The cells that lie in the tile stores of the bays. -/
def cellsIn (s : State) (bays : List Nat) : List Host.Cell := s.mem.filter fun c => inBays s bays c.1

theorem memGet_cellsIn (bays : List Nat) (a : Nat) : memGet (cellsIn s bays) a = if inBays s bays a then memGet s.mem a else 0 :=
  tget_filter_key 0 (inBays s bays) s.mem a

theorem clearBays_mem (s : State) (bays : List Nat) : (clearBays s bays).mem = s.mem.filter fun c => !inBays s bays c.1 := by
  unfold clearBays
  refine List.filter_congr fun c _ => ?_
  dsimp only
  unfold inBays
  generalize place s.variant c.1 = p
  cases p <;> rfl

theorem memGet_clearBays (bays : List Nat) (a : Nat) : memGet (clearBays s bays).mem a = if inBays s bays a then 0 else memGet s.mem a := by
  rw [clearBays_mem, memGet, tget_filter_key 0 fun a => !inBays s bays a]
  cases inBays s bays a <;> rfl

/-- Cells in canonical form that are put into a memory overwrite the bytes that they give. -/
theorem memGet_putCells (a : Nat) {cells : List Host.Cell} {lo : Nat} (h : cellsFrom lo cells = true) (m : List Host.Cell) :
    memGet (cells.foldl (fun m c => memSet m c.1 c.2) m) a = if memGet cells a = 0 then memGet m a else memGet cells a := by
  induction cells generalizing lo m with
  | nil => rfl
  | cons c cells ih =>
    obtain ⟨k, b⟩ := c
    obtain ⟨-, hb, hrest⟩ := cellsFrom_cons.mp h
    have hcons : memGet ((k, b) :: cells) a = if k = a then b else memGet cells a := rfl
    rw [List.foldl_cons, ih hrest, memGet_memSet, hcons]
    by_cases e : k = a
    · subst e
      have hbelow : memGet cells k = 0 := cellsFrom_get_below hrest (Nat.lt_succ_self k)
      rw [if_pos hbelow, if_pos rfl, if_pos rfl, if_neg hb]
    · rw [if_neg e, if_neg e]

/-- Where no cell stands the memory reads 0. -/
theorem memGet_of_no_cell {cells : List Host.Cell} {a : Nat} (h : ∀ c ∈ cells, c.1 ≠ a) : memGet cells a = 0 := by
  induction cells with
  | nil => rfl
  | cons c cells ih =>
    have hcons : memGet (c :: cells) a = if c.1 = a then c.2 else memGet cells a := rfl
    rw [hcons, if_neg (h c List.mem_cons_self)]
    exact ih fun d hd => h d (List.mem_cons_of_mem _ hd)

/-! ## SAVE_IMAGE_WRITTEN (R230, R243) -/

theorem leaveBays_spec (s : State) (l : Nat) : (getLoom (leaveBays s l) l).holder = false ∧ (getLoom (leaveBays s l) l).image = (getLoom s l).image := by
  unfold leaveBays
  dsimp only
  split
  · next h => exact ⟨by simpa using h, rfl⟩
  · rw [getLoom_setLoom, if_pos rfl]
    exact ⟨rfl, rfl⟩

/-- The image of a loom, with the cells of its tile stores. -/
def loomImage (s : State) (x : Loom) (cells : List Host.Cell) : SaveImage where
  cells := cells
  boundary := x.cmd.isNone
  tiles := (s.tiles.filter fun kv => x.bays.contains (bayOf kv.1)).map fun kv => (kv.1, { kv.2 with cnt := [] })

/-- A loom whose image is written. -/
def savedLoom (us : Nat) (x : Loom) : Loom := { x with
  st := .saved, saveUs := min 0xFFFF us, hardCnt := satAdd 0xFFFFFFFF x.hardCnt 1
  cmd := x.cmd.map fun c => { c with hard := satAdd 255 c.hard 1 }
  stopAtEnd := x.stopAtEnd || x.pendingStop, pendingStop := false }

/-- The tiles of the bays are idle but for what they count. -/
def idleIn (s : State) (bays : List Nat) : State :=
  { s with tiles := s.tiles.map fun (t, u) =>
      if bays.contains (bayOf t) then (t, ({ cnt := u.cnt, ovf := u.ovf, ovfCnt := u.ovfCnt } : Tile)) else (t, u) }

/-- What SAVE_IMAGE_WRITTEN leaves, before it is shown. -/
def imageSaved (s : State) (l us : Nat) (cells : List Host.Cell) : State :=
  modLoom (idleIn (leaveBays (modLoom s l fun y => { y with image := some (loomImage s (getLoom s l) cells) }) l) (getLoom s l).bays) l (savedLoom us)

theorem saveImage_of_saving (hst : (getLoom s l).st = .saving) (hdone : ∀ k, k ∈ loomTiles (getLoom s l) → localDone (getTile s k) = true) :
    ∃ cells, cells = cellsIn s (getLoom s l).bays ∧ saveImage s l us = raiseEvt (imageSaved s l us cells) .lmgr 3 (some l) := by
  have hall : ((loomTiles (getLoom s l)).all fun t => localDone (getTile s t)) = true := List.all_eq_true.mpr hdone
  unfold saveImage
  dsimp only
  rw [hst, hall, if_neg (by simp)]
  refine ⟨_, ?_, rfl⟩
  refine List.filter_congr fun c _ => ?_
  unfold inBays
  generalize place s.variant c.1 = p
  cases p <;> rfl

theorem imageSaved_loom (s : State) (l us : Nat) (cells : List Host.Cell) :
    ∃ y, getLoom (imageSaved s l us cells) l = savedLoom us y ∧ y.holder = false ∧ y.image = some (loomImage s (getLoom s l) cells) := by
  obtain ⟨hholder, himage⟩ := leaveBays_spec (modLoom s l fun y => { y with image := some (loomImage s (getLoom s l) cells) }) l
  refine ⟨_, (getLoom_modLoom ..).trans (if_pos rfl), hholder, himage.trans ?_⟩
  rw [getLoom_modLoom, if_pos rfl]

/-! ## RESTORE_COMPLETE (R164, R230) -/

/-- The looms y and x differ at most in a loom's own semaphores and those that wait for them. -/
def DiffersInSems (x y : Loom) : Prop := ∃ sems ws, y = { x with sems := sems, semWaiters := ws }

theorem DiffersInSems.refl (x : Loom) : DiffersInSems x x := ⟨_, _, rfl⟩

theorem DiffersInSems.trans {x y z : Loom} (h : DiffersInSems x y) (k : DiffersInSems y z) : DiffersInSems x z := by
  obtain ⟨_, _, rfl⟩ := h
  obtain ⟨_, _, rfl⟩ := k
  exact ⟨_, _, rfl⟩

theorem getLoom_semDone (s : State) (a : Issuer) (st : Byte) (k : Nat) : getLoom (semDone s a st) k = getLoom s k := by
  rw [getLoom, semDone_looms, getLoom]

theorem getLoom_serveSem (s : State) (sem k : Nat) : getLoom (serveSem s sem) k = getLoom s k := getLoom_foldl_serveSem [sem] s k

theorem serveLoomGo_differs (s : State) (l sem n : Nat) : DiffersInSems (getLoom s l) (getLoom (serveLoomGo s l sem n) l) := by
  induction n generalizing s with
  | zero => exact .refl _
  | succ n ih =>
    unfold serveLoomGo
    dsimp only
    split
    · exact .refl _
    · split
      · split
        · refine DiffersInSems.trans ?_ (ih _)
          rw [getLoom_semDone, getLoom_setLoom, if_pos rfl]
          exact ⟨_, _, rfl⟩
        · exact .refl _
      · exact .refl _

/-- A strand that waited when its loom was saved waits again, in its semaphore's queue. -/
theorem rejoin_differs (s : State) (l : Nat) : DiffersInSems (getLoom s l) (getLoom (rejoin s l) l) := by
  unfold rejoin
  refine List.foldlRecOn (motive := fun u => DiffersInSems (getLoom s l) (getLoom u l)) _ _ (.refl _) fun u hu t _ => ?_
  refine List.foldlRecOn (motive := fun u => DiffersInSems (getLoom s l) (getLoom u l)) _ _ hu fun v hv kv _ => ?_
  split
  · split
    · refine hv.trans (DiffersInSems.trans ?_ (serveLoomGo_differs ..))
      rw [getLoom_modLoom, if_pos rfl]
      exact ⟨_, _, rfl⟩
    · split
      · split
        · rw [getLoom_serveSem]
          exact hv
        · rw [getLoom_semDone]
          exact hv
      · rw [getLoom_semDone]
        exact hv
  · exact hv

/-- The bytes of an image stand in the tile stores of the bays. -/
def bytesBack (s : State) (bays : List Nat) (img : SaveImage) : State :=
  let u := clearBays s bays
  { u with mem := img.cells.foldl (fun m c => memSet m c.1 c.2) u.mem }

/-- The tiles of an image stand again, but for what they count. -/
def tilesBack (s : State) (img : SaveImage) : State :=
  img.tiles.foldl (fun s kv => modTile s kv.1 fun u => { kv.2 with cnt := u.cnt, ovf := u.ovf, ovfCnt := u.ovfCnt }) s

/-- A loom that is restored, with no stop to serve, runs. -/
def restoredLoom (us : Nat) (x : Loom) : Loom := { x with
  st := .running, image := none, pendingStop := false, stopAtEnd := false, restoreUs := min 0xFFFF us
  selAt := if x.cmd.isSome then none else x.selAt
  stopIssue := match x.cmd with
    | some c => c.endStatus.isSome
    | none => false }

/-- The state in which a loom's image is back, before the loom goes on. -/
def imageBack (s : State) (l us : Nat) (img : SaveImage) : State :=
  modLoom (tilesBack (bytesBack s (getLoom s l).bays img) img) l (restoredLoom us)

theorem restoreDone_of_restoring {img : SaveImage} (hst : (getLoom s l).st = .restoring) (himage : (getLoom s l).image = some img)
    (hpending : (getLoom s l).pendingStop = false) (hend : (getLoom s l).stopAtEnd = false)
    (hcmd : ∀ c, (getLoom s l).cmd = some c → c.endStatus = none) : restoreDone s l us = rejoin (takeUp (imageBack s l us img) l) l := by
  unfold restoreDone
  dsimp only
  rw [hst, himage]
  dsimp only
  cases hc : (getLoom s l).cmd with
  | none =>
    simp only [hpending, hend]
    rfl
  | some c =>
    simp only [hpending, hend, hcmd c hc]
    rfl

theorem tilesBack_looms (s : State) (img : SaveImage) : (tilesBack s img).looms = s.looms := State_foldl_looms _ (fun _ _ => modTile_looms ..) ..

theorem tilesBack_mem (s : State) (img : SaveImage) : (tilesBack s img).mem = s.mem := State_foldl_mem _ (fun _ _ => modTile_mem ..) ..

theorem imageBack_loom (s : State) (l us : Nat) (img : SaveImage) : getLoom (imageBack s l us img) l = restoredLoom us (getLoom s l) := by
  have hloom : getLoom (tilesBack (bytesBack s (getLoom s l).bays img) img) l = getLoom s l := by rw [getLoom, tilesBack_looms]; rfl
  rw [imageBack, getLoom_modLoom, if_pos rfl, hloom]

theorem AllBegun.imageBack (h : AllBegun s) {img : SaveImage} (hi : ∀ kv ∈ img.tiles, CollsBegun kv.2) : AllBegun (imageBack s l us img) := by
  have hbytes : AllBegun (bytesBack s (getLoom s l).bays img) := (h.clearBays _).congr rfl
  have htiles : AllBegun (tilesBack (bytesBack s (getLoom s l).bays img) img) :=
    AllBegun.foldl hbytes fun u hu kv hkv => AllBegun.setTile hu ((hi kv hkv).congr rfl)
  exact htiles.congr (modLoom_tiles ..)

theorem imageBack_nothingCame {img : SaveImage} (h : NothingKept s l) (himage : (getLoom s l).image = some img) : NothingCame (imageBack s l us img) l where
  parked := by rw [imageBack_loom]; exact h.parked
  frames := by rw [imageBack_loom]; exact h.frames
  adds := by rw [imageBack_loom]; exact h.adds
  rows := fun w hw => h.rows w (by rw [imageBack_loom] at hw; exact hw)
  tiles := h.tiles.imageBack (h.image img himage)

/-- The tile stores are those of the image, and no other byte has changed. -/
theorem memGet_imageBack {img : SaveImage} (hwf : Memory.wf img.cells = true) (hmine : ∀ c, c ∈ img.cells → inBays s (getLoom s l).bays c.1 = true) (a : Nat) :
    memGet (imageBack s l us img).mem a = if inBays s (getLoom s l).bays a then memGet img.cells a else memGet s.mem a := by
  have hmem : (imageBack s l us img).mem = img.cells.foldl (fun m c => memSet m c.1 c.2) (clearBays s (getLoom s l).bays).mem := by
    rw [imageBack, modLoom_mem, tilesBack_mem]
    rfl
  rw [hmem, memGet_putCells a hwf, memGet_clearBays]
  cases hin : inBays s (getLoom s l).bays a with
  | false =>
    have hnone : memGet img.cells a = 0 := memGet_of_no_cell fun c hc e => by
      rw [← e, hmine c hc] at hin
      cases hin
    rw [if_pos hnone]
    rfl
  | true =>
    split
    · next h => exact h.symm
    · rfl

end

theorem exec_saveImageWritten {s : State} (l us : Nat) (hd : s.svc.dark = false) : exec (.saveImageWritten l us) s = .next (saveImage s l us) :=
  congrArg Host.Outcome.next (alive_light (fun s => saveImage s l us) hd)

theorem exec_restoreComplete {s : State} (l us : Nat) (hd : s.svc.dark = false) : exec (.restoreComplete l us) s = .next (restoreDone s l us) :=
  congrArg Host.Outcome.next (alive_light (fun s => restoreDone s l us) hd)

theorem exec_loomStopped {s : State} (l : Nat) (hd : s.svc.dark = false) : exec (.loomStopped l) s = .next (loomStopped s l) :=
  congrArg Host.Outcome.next (alive_light (fun s => loomStopped s l) hd)

theorem savedAndRestored : SavedAndRestored := by
  intro s l us hd x mine
  have hmine (a : Nat) : mine a ↔ inBays s x.bays a = true := placeIn_iff.symm
  refine ⟨fun hst hdone => ?saved, fun img hst himage hwf hcells hpark hpending hend hcmd hl => ?restored, fun hst hcmd hquiet => ?stopped⟩
  case saved =>
    obtain ⟨cells, hcells, hsave⟩ := saveImage_of_saving (us := us) hst hdone
    obtain ⟨y, hloom, hholder, himage⟩ := imageSaved_loom s l us cells
    have hget : getLoom (saveImage s l us) l = savedLoom us y := by
      rw [hsave, getLoom, raiseEvt_looms _ .lmgr 3 (some l) 0 0]
      exact hloom
    refine ⟨_, loomImage s x cells, exec_saveImageWritten l us hd, saveImage_mem .., ?_⟩
    rw [hget]
    refine ⟨rfl, himage, fun a ha => ?_, hholder, rfl, ?_⟩
    · rw [loomImage, hcells, memGet_cellsIn, if_pos ((hmine a).mp ha)]
    · rw [hsave]
      exact getLsbD_raiseEvt _ .lmgr (by decide) _ _ _
  case restored =>
    have hin : ∀ c, c ∈ img.cells → inBays s x.bays c.1 = true := fun c hc => (hmine _).mp (hcells c hc)
    have hback := takeUp_of_nothing (imageBack_nothingCame (us := us) (.of_nothingParked hpark) himage)
    have hdone := restoreDone_of_restoring (us := us) hst himage hpending hend hcmd
    have hmem : (restoreDone s l us).mem = (imageBack s l us img).mem := by
      rw [hdone, rejoin_mem, hback, setLoom_mem]
    obtain ⟨sems, ws, hloom⟩ := rejoin_differs (takeUp (imageBack s l us img) l) l
    rw [← hdone, hback, getLoom_setLoom, if_pos rfl, imageBack_loom] at hloom
    refine ⟨_, exec_restoreComplete l us hd, ?_⟩
    rw [hloom, hmem]
    refine ⟨rfl, rfl, rfl, fun a ha => ?_, fun a ha => ?_⟩
    · rw [memGet_imageBack hwf hin, if_pos ((hmine a).mp ha)]
    · rw [memGet_imageBack hwf hin, if_neg fun e => ha ((hmine a).mpr e)]
  case stopped =>
    have hstop : loomStopped s l = stopNow s l := by
      have hall : (!x.holder || (loomTiles x).all fun t => tileQuiet (getTile s t)) = true := by
        rcases hquiet with h | h
        · rw [h]
          rfl
        · rw [List.all_eq_true.mpr h, Bool.or_true]
      unfold loomStopped
      dsimp only
      rw [hall, hst, hcmd]
      rfl
    obtain ⟨hend, himage, hparked⟩ := stopNow_atStop s l
    exact ⟨_, exec_loomStopped l hd, hstop ▸ hend, hstop ▸ himage, hstop ▸ hparked⟩

/-- Settles O33: selection and the waits of a pre-emption as they end, then the image as it is written and put back. -/
theorem holdersAndImages : Obligations.HoldersAndImages := ⟨holdersChange, savedAndRestored⟩

end Sys2Proof.Machine
end

section
/-! SUPPORT. The bytes of numbers and of words: what a field of a byte string holds (R9). -/
namespace Sys2Proof.Machine
open Sys2Proof

/-- What stands between two byte strings is read from its place. -/
theorem slice_append (a b c : List Byte) : slice (a ++ (b ++ c)) a.length b.length = b := by
  rw [slice, List.drop_left, List.take_left, Nat.sub_self, List.replicate_zero, List.append_nil]

theorem fieldAt_append (a b c : List Byte) {o n : Nat} (ho : o = a.length) (hn : n = b.length) : fieldAt (a ++ (b ++ c)) o n = leNat b := by
  subst ho hn
  rw [fieldAt, slice_append]

/-- A number's bytes read as the number. -/
theorem fieldAt_toLe (a c : List Byte) {o n v : Nat} (ho : o = a.length) (hv : v < 256 ^ n) : fieldAt (a ++ (toLe n v ++ c)) o n = v := by
  rw [fieldAt_append a _ c ho (toLe_length ..).symm, leNat_toLe, Nat.mod_eq_of_lt hv]

theorem wordsBytes_length (l : List W32) : (wordsBytes l).length = 4 * l.length := by
  simp [wordsBytes, List.length_flatMap, toLe_length, Nat.mul_comm]

/-- A word stands at four times its index. -/
theorem fieldAt_wordsBytes (l : List W32) (c : List Byte) {i : Nat} (hi : i < l.length) : fieldAt (wordsBytes l ++ c) (4 * i) 4 = (l.getD i 0).toNat := by
  have hsplit : wordsBytes l ++ c = wordsBytes (l.take i) ++ (toLe 4 l[i].toNat ++ (wordsBytes (l.drop (i + 1)) ++ c)) := by
    have hl : l = l.take i ++ l[i] :: l.drop (i + 1) := by rw [← List.drop_eq_getElem_cons hi, List.take_append_drop]
    conv_lhs => rw [hl]
    simp only [wordsBytes, List.flatMap_append, List.flatMap_cons, List.append_assoc]
  have hlen : 4 * i = (wordsBytes (l.take i)).length := by rw [wordsBytes_length, List.length_take, Nat.min_eq_left hi.le]
  rw [hsplit, fieldAt_toLe _ _ hlen (l[i].isLt), List.getD_eq_getElem _ _ hi]

theorem ofNat_fieldAt_wordsBytes (l : List W32) {i : Nat} (hi : i < l.length) : BitVec.ofNat 32 (fieldAt (wordsBytes l) (4 * i) 4) = l.getD i 0 := by
  have h := fieldAt_wordsBytes l [] hi
  rw [List.append_nil] at h
  rw [h, BitVec.ofNat_toNat, BitVec.setWidth_eq]

theorem bytesWords_getD (bs : List Byte) {n i : Nat} (hi : i < n) : (bytesWords bs n).getD i 0 = BitVec.ofNat 32 (fieldAt bs (4 * i) 4) := by
  rw [bytesWords, List.getD_eq_getElem?_getD, List.getElem?_map, List.getElem?_range hi]
  rfl

theorem slice_eq_map (bs : List Byte) (o n : Nat) : slice bs o n = (List.range n).map fun i => bs.getD (o + i) 0 := by
  have hlen : ((bs.drop o).take n).length ≤ n := List.length_take_le ..
  refine List.ext_getElem (by simp [slice]) fun i hi hi' => ?_
  rw [List.getElem_map, List.getElem_range]
  by_cases h : i < ((bs.drop o).take n).length
  · have hin : o + i < bs.length := by
      rw [List.length_take, List.length_drop] at h
      omega
    simp only [slice]
    rw [List.getElem_append_left h, List.getElem_take, List.getElem_drop, List.getD_eq_getElem _ _ hin]
  · have hout : bs.length ≤ o + i := by
      rw [List.length_map, List.length_range] at hi'
      rw [List.length_take, List.length_drop] at h
      omega
    simp only [slice]
    rw [List.getElem_append_right (by omega), List.getElem_replicate, List.getD_eq_default _ _ hout]

theorem slice_length (bs : List Byte) (o n : Nat) : (slice bs o n).length = n := by rw [slice_eq_map, List.length_map, List.length_range]

theorem fieldAt_lt (bs : List Byte) (o n : Nat) : fieldAt bs o n < 256 ^ n := (leNat_lt _).trans_eq (by rw [slice_length])

theorem leNat_append (a b : List Byte) : leNat (a ++ b) = leNat a + 256 ^ a.length * leNat b := by
  induction a with
  | nil => simp [leNat]
  | cons x a ih =>
    rw [List.cons_append, leNat, ih, leNat, List.length_cons, pow_succ]
    ring

/-- A field is its low part below its high part. -/
theorem fieldAt_add (bs : List Byte) (o m n : Nat) : fieldAt bs o (m + n) = fieldAt bs o m + 256 ^ m * fieldAt bs (o + m) n := by
  have hsplit : slice bs o (m + n) = slice bs o m ++ slice bs (o + m) n := by
    simp only [slice_eq_map, List.range_add, List.map_append, List.map_map, Function.comp_def, Nat.add_assoc]
  rw [fieldAt, hsplit, leNat_append, slice_length, fieldAt, fieldAt]

/-- The halves of a word. -/
theorem fieldAt_halves {bs : List Byte} {o lo hi : Nat} (h : fieldAt bs o 4 = lo + hi * 2 ^ 16) (hlo : lo < 2 ^ 16) :
    fieldAt bs o 2 = lo ∧ fieldAt bs (o + 2) 2 = hi := by
  have hsum := fieldAt_add bs o 2 2
  have hlt := fieldAt_lt bs o 2
  norm_num at h hsum hlt hlo ⊢
  omega

theorem bytesWords_length (bs : List Byte) (n : Nat) : (bytesWords bs n).length = n := by simp [bytesWords]

end Sys2Proof.Machine
end

section
/-! SUPPORT. Reduction on a ring and on a line (R69, R271, R273): the sums of a member element by element, and what the stages that follow leave of them.
With it the obligation about reductions is settled. -/
namespace Sys2Proof.Machine
open Sys2Proof

/-! ## Sums element by element (R69) -/

theorem contribVec_length (s : State) (o : CollOp) (chunk : Nat) : (contribVec s o chunk).length = 1024 := by simp [contribVec]

theorem contribVec_getD (s : State) (o : CollOp) (chunk : Nat) {e : Nat} (he : e < 1024) : (contribVec s o chunk).getD e 0 = contribElem s o chunk e := by
  rw [contribVec, List.getD_eq_getElem?_getD, List.getElem?_map, List.getElem?_range he]
  rfl

theorem collAddVec_length (o : CollOp) (a b : List W32) : (collAddVec o a b).1.length = min a.length b.length := by simp [collAddVec]

theorem collAddVec_getD (o : CollOp) {a b : List W32} {e : Nat} (ha : e < a.length) (hb : e < b.length) :
    (collAddVec o a b).1.getD e 0 = (collAdd o (a.getD e 0) (b.getD e 0)).1 := by
  have he : e < (a.zip b).length := by
    rw [List.length_zip]
    omega
  simp [collAddVec, List.getD_eq_getElem?_getD, List.getElem?_eq_getElem he, List.getElem?_eq_getElem ha, List.getElem?_eq_getElem hb]

/-! ## What a step of a member adds to -/

/-- d comes of c with more frames sent; the sums that c holds stand. -/
structure Extends (c d : CollOut) : Prop where
  sent : ∀ q ∈ c.sent, q ∈ d.sent
  partials : d.op.partials = c.op.partials

namespace Extends
variable {c d e : CollOut} {α : Type}

theorem refl (c : CollOut) : Extends c c := ⟨fun _ h => h, rfl⟩

theorem trans (h : Extends c d) (k : Extends d e) : Extends c e := ⟨fun q hq => k.sent q (h.sent q hq), k.partials.trans h.partials⟩

/-- More frames are sent by a member whose sums are those of c. -/
theorem send (hp : d.op.partials = c.op.partials) {new : List (Nat × Frame)} (hs : d.sent = c.sent ++ new) : Extends c d :=
  ⟨fun _ hq => hs ▸ List.mem_append_left _ hq, hp⟩

theorem foldl {g : CollOut → α → CollOut} (hg : ∀ c x, Extends c (g c x)) (l : List α) (c : CollOut) : Extends c (l.foldl g c) :=
  List.foldlRecOn (motive := Extends c) l g (.refl c) fun d hd x _ => hd.trans (hg d x)

end Extends

theorem extends_startScalar (x : Loom) (c : CollOut) : Extends c (startScalar x c) := by
  unfold startScalar
  dsimp only
  split
  · exact ⟨fun _ h => h, rfl⟩
  · exact .send rfl rfl

theorem extends_startGather (x : Loom) (c : CollOut) : Extends c (startGather x c) := by
  unfold startGather
  dsimp only
  split
  · exact .refl c
  · exact ⟨fun _ h => h, rfl⟩
  · split
    · exact .refl c
    · exact .send rfl rfl

theorem extends_finishReduce (x : Loom) (c : CollOut) : Extends c (finishReduce x c) := by
  have gathered (d : CollOut) (h : Extends c d) (b : Bool) : Extends c (if b then startScalar x d else d) := by
    split
    · exact h.trans (extends_startScalar x d)
    · exact h
  unfold finishReduce
  dsimp only
  refine gathered _ ?_ _
  split
  · refine Extends.trans ?_ (extends_startGather x _)
    exact ⟨fun _ h => h, rfl⟩
  · exact ⟨fun _ h => h, rfl⟩

theorem extends_compressChunk (x : Loom) (c : CollOut) (chunk : Nat) : Extends c (compressChunk x c chunk).1 := by
  unfold compressChunk
  dsimp only
  split <;> exact ⟨fun _ h => h, rfl⟩

theorem extends_startStage (x : Loom) (c : CollOut) : Extends c (startStage x c) := by
  unfold startStage
  dsimp only
  split
  · exact extends_finishReduce x c
  · next n p _ =>
    split
    · refine .foldl (fun d r => .foldl (fun d k => ?_) _ d) _ c
      have h := extends_compressChunk x d (c.op.region.getD (r * n + k) 0)
      generalize compressChunk x d (c.op.region.getD (r * n + k) 0) = q at h ⊢
      refine h.trans ?_
      split
      · exact ⟨fun _ h => h, rfl⟩
      · exact .send rfl rfl
    · exact .send rfl rfl

theorem extends_advanceStage (x : Loom) (c : CollOut) : Extends c (advanceStage x c) := by
  unfold advanceStage
  dsimp only
  split
  · exact .refl c
  · split
    · exact .refl c
    · refine Extends.trans ?_ (extends_startStage x _)
      exact ⟨fun _ h => h, rfl⟩

/-! ## A partial that goes on (R271) -/

section
variable (x : Loom) (o : CollOp) (kind axis round chunk sender : Nat) (side : W32) (payload : List Byte)

theorem mkFrame_crc : (mkFrame x o kind axis round chunk sender side payload).crc = frameCrc (mkFrame x o kind axis round chunk sender side payload) := rfl
theorem mkFrame_kind : (mkFrame x o kind axis round chunk sender side payload).kind = BitVec.ofNat 4 kind := rfl
theorem mkFrame_round : (mkFrame x o kind axis round chunk sender side payload).round = BitVec.ofNat 32 round := rfl
theorem mkFrame_chunk : (mkFrame x o kind axis round chunk sender side payload).chunk = BitVec.ofNat 16 chunk := rfl
theorem mkFrame_payload : (mkFrame x o kind axis round chunk sender side payload).payload = payload := rfl

end

/-- On a ring a partial of another owner's chunk goes on to the next member with this member's contribution in it, once. -/
theorem usePartial_relays {x : Loom} {c : CollOut} {f : Frame} {ax n p : Nat} (hst : c.op.stages[c.op.stage]? = some (ax, n, p))
    (hax : f.stage.toNat = ax) (hmode : modeOfAxis c.op.orderTag ax = 0) (hp : f.chunk.toNat ≠ p) :
    let r := collAddVec c.op (bytesWords f.payload 1024) (contribVec c.s c.op (c.op.region.getD (f.round.toNat * n + f.chunk.toNat) 0))
    usePartial x c f = some (relayOnce x c (f.round.toNat, f.chunk.toNat, 0) fun c' => { c' with
      op := { c'.op with flags := c'.op.flags ||| r.2 }
      sent := c'.sent ++ [((p + 1) % n, mkFrame x c.op fkPartial ax f.round.toNat f.chunk.toNat p 0 (wordsBytes r.1))] }) := by
  unfold usePartial
  dsimp only
  rw [hst]
  simp [hax, hmode, hp]

theorem ringPartial : RingPartial := by
  intro x c d f ax n p hst hax hmode hp hnew huse chunk
  rw [usePartial_relays hst hax hmode hp, relayOnce, if_neg (by simpa using hnew), Option.some.injEq] at huse
  set sum := (collAddVec c.op (bytesWords f.payload 1024) (contribVec c.s c.op chunk)).1 with hsum
  have hlen : sum.length = 1024 := by rw [hsum, collAddVec_length, bytesWords_length, contribVec_length, Nat.min_self]
  refine ⟨mkFrame x c.op fkPartial ax f.round.toNat f.chunk.toNat p 0 (wordsBytes sum), ?_, ?_, ?_, ?_, mkFrame_crc .., ?_, fun e he => ?_⟩
  · rw [← huse]
    exact (extends_advanceStage x _).sent _ (List.mem_append_right _ List.mem_cons_self)
  · rw [mkFrame_kind]
    rfl
  · rw [mkFrame_round, BitVec.ofNat_toNat, BitVec.setWidth_eq]
  · rw [mkFrame_chunk, BitVec.ofNat_toNat, BitVec.setWidth_eq]
  · rw [mkFrame_payload, wordsBytes_length, hlen]
  · rw [mkFrame_payload, ofNat_fieldAt_wordsBytes sum (hlen ▸ he), hsum, collAddVec_getD _ (by rwa [bytesWords_length]) (by rwa [contribVec_length]), bytesWords_getD _ he,
      contribVec_getD _ _ _ he]

/-! ## The owner on a line (R273) -/

/-- What stands in a table after the words of a list are put from a key on. -/
theorem tget_foldl_put (sum : List W32) (base n : Nat) (t : Table W32) {e : Nat} (he : e < n) (hn : sum.length = n) :
    tget 0 (((List.range n).zip sum).foldl (fun t q => tput t (base + q.1) q.2) t) (base + e) = sum.getD e 0 := by
  induction sum using List.reverseRecOn generalizing n with
  | nil => exact absurd hn (by simp; omega)
  | append_singleton sum w ih =>
    obtain ⟨m, rfl⟩ : ∃ m, n = m + 1 := ⟨n - 1, by omega⟩
    have hm : sum.length = m := by simpa using hn
    rw [List.range_succ, List.zip_append (by simp [hm]), List.foldl_append]
    simp only [List.zip_cons_cons, List.zip_nil_right, List.foldl_cons, List.foldl_nil, tget_tput]
    by_cases h : e = m
    · subst h
      rw [if_pos rfl, ← hm, List.getD_eq_getElem?_getD, List.getElem?_concat_length]
      rfl
    · rw [if_neg (by omega), ih m (by omega) hm, List.getD_append _ _ _ _ (by omega)]

theorem endRound_partials (x : Loom) (c : CollOut) (r n p : Nat) {sum : List W32} (hsum : sum.length = 1024) {e : Nat} (he : e < 1024) :
    tget 0 (endRound x c r n p sum).op.partials (c.op.region.getD (r * n + p) 0 * 1024 + e) = sum.getD e 0 := by
  unfold endRound
  dsimp only
  rw [(extends_advanceStage x _).partials, tget_foldl_put sum _ _ _ he hsum]

/-- An owner on a line with the sum that came from one side: 0 from below, 1 from above. -/
def CollOp.arrived (o : CollOp) (r p dir : Nat) (sum : List W32) : CollOp :=
  if o.contribs.any (fun t => t.1 = r && t.2.1 = p && t.2.2.1 = dir) then o else { o with contribs := o.contribs ++ [(r, p, dir, sum)] }

/-- The sum that has come to an owner from one side. -/
def sumFrom (cs : List (Nat × Nat × Nat × List W32)) (r p dir : Nat) : Option (List W32) :=
  (cs.find? fun t => t.1 = r && t.2.1 = p && t.2.2.1 = dir).map (·.2.2.2)

section
variable {x : Loom} {c : CollOut} {f : Frame} {ax n p : Nat} (hst : c.op.stages[c.op.stage]? = some (ax, n, p))
  (hax : f.stage.toNat = ax) (hp : f.chunk.toNat = p) (hround : c.op.rounds.contains f.round.toNat = false)
  (hmode : modeOfAxis c.op.orderTag ax ≠ 0)
include hst hax hp hround hmode

/-- A partial reaches its owner on a line: with the sums of both sides its round ends. -/
theorem usePartial_owner :
    let r := f.round.toNat
    let k := posOf (modeOfAxis c.op.orderTag ax) n p
    let o := c.op.arrived r p (if posOf (modeOfAxis c.op.orderTag ax) n f.sender.toNat < k then 0 else 1) (bytesWords f.payload 1024)
    let sum := lineSum o (sumFrom o.contribs r p 0) (sumFrom o.contribs r p 1) (contribVec c.s o (c.op.region.getD (r * n + p) 0))
    usePartial x c f = if ((sumFrom o.contribs r p 0).isSome || k = 0) && ((sumFrom o.contribs r p 1).isSome || k = n - 1) then
        some (endRound x { c with op := { o with flags := o.flags ||| sum.2 } } r n p sum.1)
      else some { c with op := o } := by
  unfold usePartial
  dsimp only
  rw [hst]
  dsimp only
  rw [if_neg (not_not_intro hax), if_neg (by rw [hround]; simp), if_neg hmode, if_pos hp, hp]
  rfl

/-- With both sums there, the sum from below and the sum from above are added, then the owner's own. -/
theorem usePartial_meets {o : CollOp} {below above : List W32}
    (ho : c.op.arrived f.round.toNat p (if posOf (modeOfAxis c.op.orderTag ax) n f.sender.toNat < posOf (modeOfAxis c.op.orderTag ax) n p then 0 else 1)
      (bytesWords f.payload 1024) = o)
    (hbelow : sumFrom o.contribs f.round.toNat p 0 = some below) (habove : sumFrom o.contribs f.round.toNat p 1 = some above) :
    ∃ fl, usePartial x c f = some (endRound x { c with op := { o with flags := fl } } f.round.toNat n p
      (collAddVec o (collAddVec o below above).1 (contribVec c.s o (c.op.region.getD (f.round.toNat * n + p) 0))).1) := by
  rw [usePartial_owner hst hax hp hround hmode, ho, hbelow, habove]
  exact ⟨_, rfl⟩

end

theorem lineOwner : LineOwner := by
  intro x c d f ax n p other hst hax hp hround hother mode up hmode _ _ hc huse chunk e he here there below above
  have hup : (if posOf mode n f.sender.toNat < posOf mode n p then 0 else 1) = if up then 0 else 1 := by simp [up]
  have harrived : c.op.arrived f.round.toNat p (if up then 0 else 1) (bytesWords f.payload 1024) =
      { c.op with contribs := c.op.contribs ++ [(f.round.toNat, p, if up then 0 else 1, bytesWords f.payload 1024)] } :=
    if_neg (by rw [hc]; cases up <;> simp)
  obtain ⟨fl, heq⟩ := usePartial_meets (x := x) (below := if up then bytesWords f.payload 1024 else other)
    (above := if up then other else bytesWords f.payload 1024) hst hax hp hround hmode (by rw [hup, harrived])
    (by rw [hc]; cases up <;> simp [sumFrom]) (by rw [hc]; cases up <;> simp [sumFrom])
  rw [heq, Option.some.injEq] at huse
  have hlen : (bytesWords f.payload 1024).length = 1024 := bytesWords_length ..
  have hb : (if up then bytesWords f.payload 1024 else other).length = 1024 := by rw [apply_ite List.length, hlen, hother, ite_self]
  have ha : (if up then other else bytesWords f.payload 1024).length = 1024 := by rw [apply_ite List.length, hlen, hother, ite_self]
  have htwo (o : CollOp) : (collAddVec o (if up then bytesWords f.payload 1024 else other) (if up then other else bytesWords f.payload 1024)).1.length = 1024 := by
    rw [collAddVec_length, hb, ha, Nat.min_self]
  have hsum (o : CollOp) : (collAddVec o (collAddVec o (if up then bytesWords f.payload 1024 else other)
      (if up then other else bytesWords f.payload 1024)).1 (contribVec c.s o chunk)).1.length = 1024 := by
    rw [collAddVec_length, htwo, contribVec_length, Nat.min_self]
  rw [← huse, endRound_partials _ _ _ _ _ (hsum _) he, collAddVec_getD _ (by rwa [htwo]) (by rwa [contribVec_length]), collAddVec_getD _ (by rwa [hb]) (by rwa [ha]), contribVec_getD _ _ _ he,
    apply_ite (List.getD · e 0), apply_ite (List.getD · e 0), bytesWords_getD _ he]
  rfl

/-- Settles O26: a partial goes on before its stage can end, and the sums that meet at an owner stand when the next stage begins. -/
theorem ringReduction : Obligations.RingReduction := ⟨ringPartial, lineOwner⟩

end Sys2Proof.Machine
end

section
/-! SUPPORT. Compressed contributions (R289, R290): what is read back from a packed list of numbers, and what the receiver makes of a TOPK and of a SIGN
payload. -/
namespace Sys2Proof.Machine
open Sys2Proof

/-! ## Numbers packed bit by bit -/

theorem packBits_lt {w : Nat} {xs : List Nat} (h : ∀ x ∈ xs, x < 2 ^ w) : packBits w xs < 2 ^ (w * xs.length) := by
  induction xs with
  | nil => exact Nat.two_pow_pos _
  | cons x xs ih =>
    obtain ⟨hx, hxs⟩ := List.forall_mem_cons.mp h
    have hrest := ih hxs
    rw [packBits, List.length_cons, Nat.mul_succ, Nat.add_comm (w * _), Nat.pow_add]
    calc x + 2 ^ w * packBits w xs < 2 ^ w + 2 ^ w * packBits w xs := Nat.add_lt_add_right hx _
      _ = 2 ^ w * (packBits w xs + 1) := by ring
      _ ≤ 2 ^ w * 2 ^ (w * xs.length) := Nat.mul_le_mul_left _ hrest

/-- The i-th number stands i times the width up. -/
theorem packBits_shift {w : Nat} {xs : List Nat} (h : ∀ x ∈ xs, x < 2 ^ w) (i : Nat) : (packBits w xs >>> (w * i)) % 2 ^ w = xs.getD i 0 := by
  induction xs generalizing i with
  | nil => simp [packBits]
  | cons x xs ih =>
    obtain ⟨hx, hxs⟩ := List.forall_mem_cons.mp h
    rw [packBits]
    cases i with
    | zero => simp [Nat.mod_eq_of_lt hx]
    | succ i =>
      have hstep : (x + 2 ^ w * packBits w xs) / 2 ^ w = packBits w xs := by
        rw [Nat.add_mul_div_left _ _ (Nat.two_pow_pos w), Nat.div_eq_of_lt hx, Nat.zero_add]
      rw [Nat.mul_succ, Nat.add_comm (w * i), Nat.shiftRight_add, Nat.shiftRight_eq_div_pow (m := x + _), hstep, ih hxs]
      rfl

/-! ## TOPK payloads (R289, Table 8-6) -/

/-- The BF16 code of a value. -/
def bf16Code (w : W32) : Nat := (encode 1 .rne false (f32Val w)).1

theorem bf16Code_lt (w : W32) : bf16Code w < 2 ^ 16 := by
  have h (v : FVal) : (shBf16.narrow .rne false v).1 < 2 ^ shBf16.width := by
    cases v with
    | nan => decide
    | inf neg => cases neg <;> decide
    | fin neg m e =>
      unfold FShape.narrow
      dsimp only
      split_ifs with h0 hb
      · cases neg <;> decide
      · exact absurd ‹_› (by decide)
      · exact absurd ‹_› (by decide)
      · exact sign_add_lt shBf16 neg (n := shBf16.eAll * 2 ^ shBf16.fb) (by decide)
      · exact sign_add_lt shBf16 neg (packMag_lt (by decide) (by decide) (roundMag_le shBf16 .rne m e) (Bool.eq_false_iff.mpr hb))
  exact h _

/-- What a TOPK payload says of each selected value, in ascending index: the index below its BF16 code. -/
def topkCodes (k : Nat) (vals : List W32) : List Nat :=
  ((topkSel true k vals).mergeSort fun a b => a.1 ≤ b.1).map fun p => p.1 + 2 ^ 10 * bf16Code p.2

theorem topkPack_fst (k : Nat) (vals : List W32) :
    (topkPack k vals).1 = toLe 8 k ++ toLe ((26 * k + 63) / 64 * 8) (packBits 26 (topkCodes k vals)) := by
  simp [topkPack, topkCodes, bf16Code, List.map_map, Function.comp_def]

/-- A selected value stands at its index. -/
theorem mem_topkSel {k : Nat} {vals : List W32} {p : Nat × W32} (h : p ∈ topkSel true k vals) : p.1 < vals.length ∧ vals.getD p.1 0 = p.2 := by
  have hzip : p ∈ (List.range vals.length).zip vals := List.mem_mergeSort.mp (List.mem_of_mem_take h)
  obtain ⟨i, hi, hp⟩ := List.getElem_of_mem hzip
  rw [List.length_zip, List.length_range, Nat.min_self] at hi
  rw [List.getElem_zip, List.getElem_range] at hp
  subst hp
  exact ⟨hi, List.getD_eq_getElem _ _ hi⟩

theorem topkSel_length {k : Nat} {vals : List W32} (h : k ≤ vals.length) : (topkSel true k vals).length = k := by
  simp [topkSel, List.length_mergeSort, h]

section
variable {k : Nat} {vals : List W32}

theorem topkCodes_length (h : k ≤ vals.length) : (topkCodes k vals).length = k := by rw [topkCodes, List.length_map, List.length_mergeSort, topkSel_length h]

theorem mem_topkCodes {e : Nat} : e ∈ topkCodes k vals ↔ ∃ p ∈ topkSel true k vals, p.1 + 2 ^ 10 * bf16Code p.2 = e := by
  simp only [topkCodes, List.mem_map, List.mem_mergeSort]

/-- The index and the code of a selected value of 1,024 are read from its 26 bits. -/
theorem topkCode_parts (h : vals.length = 1024) {p : Nat × W32} (hp : p ∈ topkSel true k vals) :
    (p.1 + 2 ^ 10 * bf16Code p.2) % 1024 = p.1 ∧ (p.1 + 2 ^ 10 * bf16Code p.2) / 1024 = bf16Code p.2 ∧ p.1 + 2 ^ 10 * bf16Code p.2 < 2 ^ 26 := by
  have hi : p.1 < 1024 := h ▸ (mem_topkSel hp).1
  have hc := bf16Code_lt p.2
  norm_num at hc ⊢
  omega

end

theorem topkUnpack_topkPack {k : Nat} {vals : List W32} (h : vals.length = 1024) (hk : k ≤ 1024) :
    topkUnpack (topkPack k vals).1 = (List.range 1024).map fun i => match ((topkCodes k vals).map fun e => (e % 1024, e / 1024)).find? fun e => e.1 = i with
      | some e => f32Of (elemVal 1 e.2)
      | none => 0 := by
  have hlt : ∀ e ∈ topkCodes k vals, e < 2 ^ 26 := fun e he => by
    obtain ⟨p, hp, rfl⟩ := mem_topkCodes.mp he
    exact (topkCode_parts h hp).2.2
  have hlen : (topkCodes k vals).length = k := topkCodes_length (h ▸ hk)
  have hnum : leNat ((topkPack k vals).1.drop 8) = packBits 26 (topkCodes k vals) := by
    rw [topkPack_fst, List.drop_left' (toLe_length ..), leNat_toLe, Nat.mod_eq_of_lt]
    refine (packBits_lt hlt).trans_le ?_
    rw [hlen, show 256 = 2 ^ 8 from rfl, ← Nat.pow_mul]
    exact Nat.pow_le_pow_right (by decide) (by omega)
  have hcount : fieldAt (topkPack k vals).1 0 8 % 2048 = k := by
    have hfield := fieldAt_toLe [] (toLe ((26 * k + 63) / 64 * 8) (packBits 26 (topkCodes k vals))) (o := 0) (n := 8) (v := k) rfl (by omega)
    rw [topkPack_fst, ← List.nil_append (toLe 8 k ++ _), hfield, Nat.mod_eq_of_lt (by omega)]
  have hcodes : ((List.range k).map fun i => (packBits 26 (topkCodes k vals) >>> (26 * i)) % 2 ^ 26) = topkCodes k vals := by
    refine List.ext_getElem (by simp [hlen]) fun i hi hi' => ?_
    rw [List.getElem_map, List.getElem_range, packBits_shift hlt, List.getD_eq_getElem _ _ hi']
  unfold topkUnpack
  dsimp only
  rw [hnum, hcount]
  conv_rhs => rw [← hcodes, List.map_map]
  rfl

/-- Of 1,024 values the selected ones come back rounded to BF16, and 0 elsewhere. -/
theorem topkUnpack_getD {k : Nat} {vals : List W32} {i : Nat} (h : vals.length = 1024) (hk : k ≤ 1024) (hi : i < 1024) :
    (topkUnpack (topkPack k vals).1).getD i 0 =
      if (topkSel true k vals).any (fun p => p.1 = i) then f32Of (elemVal 1 (bf16Code (vals.getD i 0))) else 0 := by
  rw [topkUnpack_topkPack h hk, List.getD_eq_getElem?_getD, List.getElem?_map, List.getElem?_range hi, Option.map_some, Option.getD_some]
  split
  · next e he =>
    obtain ⟨c, hc, rfl⟩ := List.mem_map.mp (List.mem_of_find?_eq_some he)
    obtain ⟨p, hp, rfl⟩ := mem_topkCodes.mp hc
    obtain ⟨hidx, hcode, -⟩ := topkCode_parts h hp
    have hpi : p.1 = i := hidx.symm.trans (of_decide_eq_true (List.find?_some he :))
    rw [if_pos (List.any_eq_true.mpr ⟨p, hp, by simpa using hpi⟩), hcode, ← hpi, (mem_topkSel hp).2]
  · next hnone =>
    rw [if_neg]
    rw [List.any_eq_true]
    rintro ⟨p, hp, hpi⟩
    have hno := List.find?_eq_none.mp hnone _ (List.mem_map.mpr ⟨_, mem_topkCodes.mpr ⟨p, hp, rfl⟩, rfl⟩)
    exact hno (decide_eq_true ((topkCode_parts h hp).1.trans (of_decide_eq_true hpi)))

/-! ## SIGN payloads (R290) -/

/-- The signs of eight values, the first lowest. -/
def signByte (vals : List W32) (j : Nat) : Byte :=
  BitVec.ofNat 8 (packBits 1 ((List.range 8).map fun i => if (vals.getD (8 * j + i) 0).getLsbD 31 then 1 else 0))

theorem signByte_getLsbD (vals : List W32) (j : Nat) {i : Nat} (hi : i < 8) : (signByte vals j).getLsbD i = (vals.getD (8 * j + i) 0).getLsbD 31 := by
  have hone : ∀ x ∈ (List.range 8).map fun i => if (vals.getD (8 * j + i) 0).getLsbD 31 then 1 else 0, x < 2 ^ 1 := by
    intro x hx
    obtain ⟨i, -, rfl⟩ := List.mem_map.mp hx
    split <;> decide
  have hbit := packBits_shift hone i
  rw [List.getD_eq_getElem?_getD, List.getElem?_map, List.getElem?_range hi, Option.map_some, Option.getD_some, Nat.one_mul, pow_one] at hbit
  rw [signByte, BitVec.getLsbD_ofNat, Nat.testBit_eq_decide_div_mod_eq, ← Nat.shiftRight_eq_div_pow, hbit]
  cases (vals.getD (8 * j + i) 0).getLsbD 31 <;> simp [hi]

theorem signPack_fst (vals : List W32) :
    (signPack vals).1 = wordsBytes ((List.range 32).map fun b => (signScale vals b).1) ++ (List.range 128).map (signByte vals) := by
  rw [signPack, List.map_map]
  rfl

theorem signPack_length (vals : List W32) : (signPack vals).1.length = 256 := by
  rw [signPack_fst, List.length_append, wordsBytes_length, List.length_map, List.length_map, List.length_range, List.length_range]

/-- A receiver takes each value as its run's scale with the value's sign. -/
theorem signUnpack_getD (vals : List W32) {i : Nat} (hi : i < 1024) : (signUnpack (signPack vals).1).getD i 0 =
    if (vals.getD i 0).getLsbD 31 then (signScale vals (i / 32)).1 ^^^ 0x80000000 else (signScale vals (i / 32)).1 := by
  have hrun : i / 32 < 32 := by omega
  have hscale : BitVec.ofNat 32 (fieldAt (signPack vals).1 (4 * (i / 32)) 4) = (signScale vals (i / 32)).1 := by
    rw [signPack_fst, fieldAt_wordsBytes _ _ (by simpa using hrun), BitVec.ofNat_toNat, BitVec.setWidth_eq, List.getD_eq_getElem?_getD,
      List.getElem?_map, List.getElem?_range hrun]
    rfl
  have hbyte : (signPack vals).1.getD (128 + i / 8) 0 = signByte vals (i / 8) := by
    have hlen : (wordsBytes ((List.range 32).map fun b => (signScale vals b).1)).length = 128 := by simp [wordsBytes_length]
    rw [signPack_fst, List.getD_eq_getElem?_getD, List.getElem?_append_right (by omega), hlen, Nat.add_sub_cancel_left, List.getElem?_map,
      List.getElem?_range (by omega)]
    rfl
  have hidx : 8 * (i / 8) + i % 8 = i := Nat.div_add_mod i 8
  rw [signUnpack, List.getD_eq_getElem?_getD, List.getElem?_map, List.getElem?_range hi, Option.map_some, Option.getD_some]
  dsimp only
  rw [hscale, hbyte, signByte_getLsbD vals _ (Nat.mod_lt _ (by decide)), hidx]

theorem compressedPayloads : CompressedPayloads := by
  refine ⟨fun k vals i hlen _ hk hi => ⟨?_, topkUnpack_getD hlen hk hi⟩, fun vals i _ hi => ⟨signPack_length vals, signUnpack_getD vals hi⟩⟩
  rw [topkPack_fst, List.length_append, toLe_length, toLe_length]

end Sys2Proof.Machine
end

section
/-! SUPPORT. The bytes of a frame (Table 8-4) and the frames at the front of a channel's bytes (R260). -/
namespace Sys2Proof.Machine
open Sys2Proof

/-- The eight words of a frame's header. -/
def frameWords (q : Frame) : List W32 :=
  [q.jobId, BitVec.ofNat 32 (q.comm.toNat + q.seq.toNat * 2 ^ 16), BitVec.ofNat 32 (q.kind.toNat + q.stage.toNat * 2 ^ 4 + q.len.toNat * 2 ^ 19), q.round,
    BitVec.ofNat 32 (q.chunk.toNat + q.sender.toNat * 2 ^ 16), q.orderTag, q.side, q.crc]

theorem toLe_ofNat {v : Nat} (h : v < 2 ^ 32) : toLe 4 (BitVec.ofNat 32 v).toNat = toLe 4 v := by rw [BitVec.toNat_ofNat, Nat.mod_eq_of_lt h]

theorem halves_lt (a b : BitVec 16) : a.toNat + b.toNat * 2 ^ 16 < 2 ^ 32 := by
  have ha := a.isLt
  have hb := b.isLt
  omega

theorem kindWord_lt (q : Frame) : q.kind.toNat + q.stage.toNat * 2 ^ 4 + q.len.toNat * 2 ^ 19 < 2 ^ 32 := by
  have hk := q.kind.isLt
  have hs := q.stage.isLt
  have hl := q.len.isLt
  omega

theorem frameBytes_eq (q : Frame) : frameBytes q = wordsBytes (frameWords q) ++ q.payload := by
  simp only [frameBytes, frameHead, frameWords, wordsBytes, List.flatMap_cons, List.flatMap_nil, List.append_nil, List.append_assoc,
    toLe_ofNat (halves_lt _ _), toLe_ofNat (kindWord_lt q)]

theorem frameBytes_length (q : Frame) : (frameBytes q).length = 32 + q.payload.length := by
  rw [frameBytes_eq, List.length_append, wordsBytes_length]
  rfl

section
variable (q : Frame) (rest : List Byte)

/-- The words of a header stand one after the other. -/
theorem fieldAt_frameBytes {i : Nat} (hi : i < 8) : fieldAt (frameBytes q ++ rest) (4 * i) 4 = ((frameWords q).getD i 0).toNat := by
  rw [frameBytes_eq, List.append_assoc, fieldAt_wordsBytes _ _ hi]

theorem fieldAt_frameBytes_kind : fieldAt (frameBytes q ++ rest) 8 4 = q.kind.toNat + q.stage.toNat * 2 ^ 4 + q.len.toNat * 2 ^ 19 := by
  rw [fieldAt_frameBytes q rest (i := 2) (by decide)]
  exact (BitVec.toNat_ofNat ..).trans (Nat.mod_eq_of_lt (kindWord_lt q))

theorem bits_kindWord : bits (fieldAt (frameBytes q ++ rest) 8 4) 3 0 = q.kind.toNat ∧ bits (fieldAt (frameBytes q ++ rest) 8 4) 6 4 = q.stage.toNat ∧
    bits (fieldAt (frameBytes q ++ rest) 8 4) 31 19 = q.len.toNat := by
  have hk := q.kind.isLt
  have hs := q.stage.isLt
  have hl := q.len.isLt
  simp only [fieldAt_frameBytes_kind, bits, Nat.shiftRight_eq_div_pow]
  omega

theorem slice_frameBytes_payload {n : Nat} (h : n = q.payload.length) : slice (frameBytes q ++ rest) 32 n = q.payload := by
  have hlen : 32 = (wordsBytes (frameWords q)).length := by rw [wordsBytes_length]; rfl
  subst h
  rw [frameBytes_eq, List.append_assoc, hlen, slice_append]

/-- A frame is read back from its bytes. -/
theorem frameOf_frameBytes (h : q.len.toNat = q.payload.length) : frameOf (frameBytes q ++ rest) = q := by
  have word {i : Nat} (hi : i < 8) {w : W32} (hw : (frameWords q).getD i 0 = w) : BitVec.ofNat 32 (fieldAt (frameBytes q ++ rest) (4 * i) 4) = w := by
    rw [fieldAt_frameBytes q rest hi, hw, BitVec.ofNat_toNat, BitVec.setWidth_eq]
  have halves {i : Nat} (hi : i < 8) {a b : BitVec 16} (hw : (frameWords q).getD i 0 = BitVec.ofNat 32 (a.toNat + b.toNat * 2 ^ 16)) :
      BitVec.ofNat 16 (fieldAt (frameBytes q ++ rest) (4 * i) 2) = a ∧ BitVec.ofNat 16 (fieldAt (frameBytes q ++ rest) (4 * i + 2) 2) = b := by
    have hfield : fieldAt (frameBytes q ++ rest) (4 * i) 4 = a.toNat + b.toNat * 2 ^ 16 := by
      rw [fieldAt_frameBytes q rest hi, hw, BitVec.toNat_ofNat, Nat.mod_eq_of_lt (halves_lt a b)]
    obtain ⟨hlo, hhi⟩ := fieldAt_halves hfield a.isLt
    rw [hlo, hhi, BitVec.ofNat_toNat, BitVec.ofNat_toNat, BitVec.setWidth_eq, BitVec.setWidth_eq]
    exact ⟨rfl, rfl⟩
  obtain ⟨hkind, hstage, hlen⟩ := bits_kindWord q rest
  obtain ⟨hcomm, hseq⟩ := halves (i := 1) (by decide) rfl
  obtain ⟨hchunk, hsender⟩ := halves (i := 4) (by decide) rfl
  unfold frameOf
  dsimp only
  rw [hkind, hstage, hlen, slice_frameBytes_payload q rest h, word (i := 0) (by decide) rfl, word (i := 3) (by decide) rfl,
    word (i := 5) (by decide) rfl, word (i := 6) (by decide) rfl, word (i := 7) (by decide) rfl, hcomm, hseq, hchunk, hsender]
  simp only [BitVec.ofNat_toNat, BitVec.setWidth_eq]
  rfl

end

/-! ## The frames at the front of a channel's bytes (R260) -/

theorem fieldAt_zeros (m o n : Nat) : fieldAt (List.replicate m 0) o n = 0 := by
  have hzero : slice (List.replicate m 0) o n = List.replicate n 0 := by
    refine List.eq_replicate_iff.mpr ⟨slice_length .., fun b hb => ?_⟩
    rw [slice_eq_map] at hb
    obtain ⟨i, -, rfl⟩ := List.mem_map.mp hb
    rw [List.getD_eq_getElem?_getD, List.getElem?_replicate]
    split <;> rfl
  have hle (n : Nat) : leNat (List.replicate n 0) = 0 := by
    induction n with
    | zero => rfl
    | succ n ih => rw [List.replicate_succ, leNat, ih]; rfl
  rw [fieldAt, hzero, hle]

/-- Units of zeros hold no frame. -/
theorem takeFrames_zeros {m fuel : Nat} (h : m ≤ fuel) : takeFrames fuel (List.replicate (16 * m) 0) = ([], []) := by
  induction m generalizing fuel with
  | zero => cases fuel <;> rfl
  | succ m ih =>
    obtain ⟨fuel, rfl⟩ : ∃ k, fuel = k + 1 := ⟨fuel - 1, by omega⟩
    have hdrop : (List.replicate (16 * (m + 1)) (0 : Byte)).drop 16 = List.replicate (16 * m) 0 := by
      rw [List.drop_replicate, Nat.mul_succ, Nat.add_sub_cancel]
    rw [takeFrames, if_neg (by rw [List.length_replicate]; omega)]
    simp only [fieldAt_zeros, hdrop]
    rw [if_pos (by rfl), ih (by omega)]

/-- A frame alone in a flit is taken whole, and nothing is left. -/
theorem takeFrames_frameBytes {q : Frame} (hk : 1 ≤ q.kind.toNat) (hk9 : q.kind.toNat ≤ 9) (hlen : q.len.toNat = q.payload.length)
    (h : q.payload.length ≤ 224) {fuel : Nat} (hf : 15 ≤ fuel) :
    takeFrames fuel (frameBytes q ++ List.replicate (224 - q.payload.length) 0) = ([q], []) := by
  obtain ⟨fuel, rfl⟩ : ∃ k, fuel = k + 1 := ⟨fuel - 1, by omega⟩
  obtain ⟨hkind, -, hbits⟩ := bits_kindWord q (List.replicate (224 - q.payload.length) 0)
  have hall : (frameBytes q ++ List.replicate (224 - q.payload.length) 0).length = 256 := by
    rw [List.length_append, frameBytes_length, List.length_replicate]
    omega
  have hdrop : (frameBytes q ++ List.replicate (224 - q.payload.length) (0 : Byte)).drop ((32 + q.payload.length + 15) / 16 * 16) =
      List.replicate (16 * (16 - (32 + q.payload.length + 15) / 16)) 0 := by
    have hpast := frameBytes_length q
    rw [List.drop_append, List.drop_eq_nil_of_le (by omega), List.nil_append, List.drop_replicate,
      show 224 - q.payload.length - ((32 + q.payload.length + 15) / 16 * 16 - (frameBytes q).length) = 16 * (16 - (32 + q.payload.length + 15) / 16) by omega]
  rw [takeFrames, if_neg (by omega)]
  simp only [hkind, hbits, hlen]
  have hnamed : ¬ (decide (q.kind.toNat = 0) || decide (fkAbort < q.kind.toNat)) = true := by
    rw [Bool.or_eq_true, decide_eq_true_eq, decide_eq_true_eq, fkAbort]
    omega
  rw [if_neg hnamed, if_neg (by omega), frameOf_frameBytes q _ hlen, hdrop, takeFrames_zeros (by omega)]

end Sys2Proof.Machine
end

section
/-! SUPPORT. What sending over a link changes (R260, R261, R281): the links and the output alone, no link's state and no detour; which flits
go out and which are kept. -/
namespace Sys2Proof.Machine
open Sys2Proof

/-! ## Links of a state -/

@[simp] theorem getLink_setLink (s : State) (d e : Nat) (x : LinkDir) : getLink (setLink s d x) e = if d = e then x else getLink s e := tget_tput ..

@[simp] theorem getLink_send (s : State) (m : OutMsg) (d : Nat) : getLink (send s m) d = getLink s d := rfl

theorem getLink_congr {s t : State} (h : t.links = s.links) (d : Nat) : getLink t d = getLink s d := by rw [getLink, h, getLink]

theorem linkWorks_congr {s t : State} {d : Nat} (h : (getLink t d).st = (getLink s d).st) : linkWorks t d = linkWorks s d := by
  rw [linkWorks, h, linkWorks]

theorem workingLanes_congr {s t : State} (hr : t.regs = s.regs) (hv : t.variant = s.variant) (d : Nat) : workingLanes t d = workingLanes s d := by
  simp only [workingLanes, laneUp, getReg, hr, hv]

theorem lanesUp_congr {s t : State} (hr : t.regs = s.regs) (hv : t.variant = s.variant) (d : Nat) : lanesUp t d = lanesUp s d := by
  rw [lanesUp, workingLanes_congr hr hv, lanesUp]

theorem linkWorks_iff (s : State) (d : Nat) : linkWorks s d = true ↔ (getLink s d).st = 1 ∨ (getLink s d).st = 2 := by
  simp [linkWorks]

theorem linkWorks_setLink {s : State} {d : Nat} {x : LinkDir} (h : x.st = (getLink s d).st) : linkWorks (setLink s d x) d = linkWorks s d :=
  linkWorks_congr (by rw [getLink_setLink, if_pos rfl, h])

/-! ## What sending leaves unchanged -/

/-- From s to t something went out: only the links and the output differ, and every link has its state and its detour. -/
structure Sent (s t : State) : Prop where
  eq : t = { s with links := t.links, out := t.out }
  st : ∀ e, (getLink t e).st = (getLink s e).st
  detour : ∀ e, (getLink t e).detour = (getLink s e).detour

namespace Sent
variable {s t u : State} {α : Type}

theorem refl (s : State) : Sent s s := ⟨rfl, fun _ => rfl, fun _ => rfl⟩

theorem trans (h : Sent s t) (k : Sent t u) : Sent s u :=
  ⟨by rw [k.eq, h.eq], fun e => (k.st e).trans (h.st e), fun e => (k.detour e).trans (h.detour e)⟩

theorem foldl {g : State → α → State} (hg : ∀ u x, Sent u (g u x)) (l : List α) (s : State) : Sent s (l.foldl g s) :=
  List.foldlRecOn (motive := fun u => Sent s u) l g (.refl s) fun u hu x _ => hu.trans (hg u x)

theorem works (h : Sent s t) (d : Nat) : linkWorks t d = linkWorks s d := linkWorks_congr (h.st d)

theorem way (h : Sent s t) (d : Nat) : wayOf t d = wayOf s d := by rw [wayOf, h.st, h.detour, wayOf]

theorem tiles (h : Sent s t) : t.tiles = s.tiles := by rw [h.eq]
theorem looms (h : Sent s t) : t.looms = s.looms := by rw [h.eq]
theorem mem (h : Sent s t) : t.mem = s.mem := by rw [h.eq]
theorem regs (h : Sent s t) : t.regs = s.regs := by rw [h.eq]

end Sent

theorem send_sent (s : State) (m : OutMsg) : Sent s (send s m) := ⟨rfl, fun _ => rfl, fun _ => rfl⟩

theorem setLink_sent {s : State} {d : Nat} {x : LinkDir} (hst : x.st = (getLink s d).st) (hdet : x.detour = (getLink s d).detour) :
    Sent s (setLink s d x) := by
  refine ⟨rfl, fun e => ?_, fun e => ?_⟩ <;> rw [getLink_setLink] <;> split <;> simp_all

theorem putFlit_sent (s : State) (d : Nat) (f : WeftFlit) : Sent s (putFlit s d f) := by
  refine (setLink_sent (x := { getLink s d with
    kept := (getLink s d).kept ++ [(f, (workingLanes s d).getD (getLink s d).lane 0)]
    lane := ((getLink s d).lane + 1) % max 1 (workingLanes s d).length }) rfl rfl).trans ?_
  unfold putFlit
  dsimp only
  split
  · exact send_sent _ _
  · exact .refl _

theorem linkSend_sent (s : State) (d : Nat) (vc : BitVec 2) (bs : List Byte) : Sent s (linkSend s d vc bs) := by
  refine Sent.foldl (fun u i => ?_) _ s
  exact .trans (setLink_sent (by rfl) (by rfl)) (putFlit_sent _ _ _)

theorem sendFrame_sent (s : State) (dir : Option Nat) (toward : Nat) (f : Frame) : Sent s (sendFrame s dir toward f) := by
  cases dir with
  | none => exact send_sent _ _
  | some d => exact (send_sent _ _).trans (linkSend_sent _ _ _ _)

theorem putFlit_out (s : State) (d : Nat) (f : WeftFlit) : (putFlit s d f).out = s.out ++ if linkWorks s d then [.flit d f] else [] := by
  simp only [putFlit]
  rw [linkWorks_setLink (by rfl)]
  split
  · rfl
  · simp [setLink]

theorem getLink_putFlit (s : State) (d : Nat) (f : WeftFlit) : ∃ k, getLink (putFlit s d f) d =
    { getLink s d with
      kept := (getLink s d).kept ++ [(f, (workingLanes s d).getD (getLink s d).lane 0)]
      lane := k } := by
  refine ⟨((getLink s d).lane + 1) % max 1 (workingLanes s d).length, ?_⟩
  simp only [putFlit]
  split
  · rw [getLink_send, getLink_setLink, if_pos rfl]
  · rw [getLink_setLink, if_pos rfl]

theorem putFlit_other (s : State) {d e : Nat} (f : WeftFlit) (he : e ≠ d) : getLink (putFlit s d f) e = getLink s e := by
  simp only [putFlit]
  split <;> simp [he.symm]

theorem linkSend_other (s : State) {d e : Nat} (vc : BitVec 2) (bs : List Byte) (he : e ≠ d) : getLink (linkSend s d vc bs) e = getLink s e :=
  List.foldlRecOn (motive := fun u => getLink u e = getLink s e) _ _ rfl fun u hu i _ => by
    rw [putFlit_other _ _ he, getLink_setLink, if_neg he.symm, hu]

theorem linkSend_out (s : State) (d : Nat) (vc : BitVec 2) (bs : List Byte) : ∃ flits, (linkSend s d vc bs).out = s.out ++ flits := by
  refine List.foldlRecOn (motive := fun u : State => ∃ flits, u.out = s.out ++ flits) _ _ ⟨[], by simp⟩ fun u ⟨flits, hu⟩ i _ => ?_
  rw [putFlit_out]
  exact ⟨flits ++ _, by rw [← List.append_assoc, ← hu]; rfl⟩

/-- A frame that is sent goes out first, its flits after it. -/
theorem sendFrame_out (s : State) (dir : Option Nat) (toward : Nat) (f : Frame) :
    ∃ flits, (sendFrame s dir toward f).out = s.out ++ .frame dir toward f :: flits := by
  cases dir with
  | none => exact ⟨[], rfl⟩
  | some d =>
    obtain ⟨flits, h⟩ := linkSend_out (send s (.frame (some d) toward f)) (wayOf (send s (.frame (some d) toward f)) d) 0 (frameBytes f)
    exact ⟨flits, h.trans (by simp [send])⟩

theorem sendFrame_other (s : State) {d e : Nat} (toward : Nat) (f : Frame) (he : e ≠ wayOf s d) :
    getLink (sendFrame s (some d) toward f) e = getLink s e := linkSend_other _ _ _ he

/-! ## One flit -/

/-- The flit that a link sends next, on a channel, of at most 256 bytes. -/
def nextFlit (x : LinkDir) (vc : BitVec 2) (bs : List Byte) : WeftFlit :=
  let f : WeftFlit := { seq := x.next, vc, ack := x.expect - 1, fstart := 0, hcrc := 0, payload := slice bs 0 256 }
  { f with hcrc := crc16 (flitCrcBytes f) }

theorem linkSend_of_short (s : State) (d : Nat) (vc : BitVec 2) {bs : List Byte} (h0 : 0 < bs.length) (h1 : bs.length ≤ 256) :
    linkSend s d vc bs = putFlit (setLink s d { getLink s d with next := (getLink s d).next + 1 }) d (nextFlit (getLink s d) vc bs) := by
  have hn : (bs.length + 255) / 256 = 1 := by omega
  rw [linkSend, hn]
  simp only [List.range_one, List.foldl_cons, List.foldl_nil, if_true, Nat.mul_zero, nextFlit]

theorem nextFlit_hcrc (x : LinkDir) (vc : BitVec 2) (bs : List Byte) : (nextFlit x vc bs).hcrc = crc16 (flitCrcBytes (nextFlit x vc bs)) := by
  simp only [nextFlit, flitCrcBytes]

/-! ## Flits that go out again (R261, R262) -/

/-- Flits with the lanes they go out on, the lane of the next one, when kept flits are sent again. -/
def relaid (lanes : List Nat) (p : WeftFlit × Nat → Bool) (kept : List (WeftFlit × Nat)) (lane : Nat) : List (WeftFlit × Nat) × Nat :=
  kept.foldl (fun acc q => if p q then (acc.1 ++ [(q.1, lanes.getD acc.2 0)], (acc.2 + 1) % max 1 lanes.length) else (acc.1 ++ [q], acc.2)) ([], lane)

theorem relaid_flits (lanes : List Nat) (p : WeftFlit × Nat → Bool) (kept : List (WeftFlit × Nat)) (lane : Nat) :
    (relaid lanes p kept lane).1.map (·.1) = kept.map (·.1) := by
  have hgo : ∀ (kept : List (WeftFlit × Nat)) (acc : List (WeftFlit × Nat) × Nat),
      (kept.foldl (fun acc q => if p q then (acc.1 ++ [(q.1, lanes.getD acc.2 0)], (acc.2 + 1) % max 1 lanes.length)
        else (acc.1 ++ [q], acc.2)) acc).1.map (·.1) = acc.1.map (·.1) ++ kept.map (·.1) := by
    intro kept
    induction kept with
    | nil => simp
    | cons q kept ih =>
      intro acc
      rw [List.foldl_cons, ih]
      split <;> simp
  rw [relaid, hgo, List.map_nil, List.nil_append]

theorem foldl_send_flit (d : Nat) (qs : List (WeftFlit × Nat)) (s : State) :
    qs.foldl (fun s q => send s (.flit d q.1)) s = { s with out := s.out ++ flitsOut d qs } := by
  induction qs generalizing s with
  | nil => simp [flitsOut]
  | cons q qs ih => rw [List.foldl_cons, ih]; simp [send, flitsOut]

/-- The flits chosen go out in their order when the link works; each of them has a lane anew. -/
theorem resendFlits_eq (s : State) (d : Nat) (p : WeftFlit × Nat → Bool) :
    resendFlits s d p = { setLink s d { getLink s d with
        kept := (relaid (workingLanes s d) p (getLink s d).kept (getLink s d).lane).1
        lane := (relaid (workingLanes s d) p (getLink s d).kept (getLink s d).lane).2 } with
      out := s.out ++ if linkWorks s d then flitsOut d ((getLink s d).kept.filter p) else [] } := by
  simp only [resendFlits]
  rw [linkWorks_setLink (by rfl)]
  split
  · exact foldl_send_flit ..
  · simp [setLink, relaid]

theorem resendFlits_sent (s : State) (d : Nat) (p : WeftFlit × Nat → Bool) : Sent s (resendFlits s d p) := by
  rw [resendFlits_eq]
  refine (setLink_sent (x := { getLink s d with
    kept := (relaid (workingLanes s d) p (getLink s d).kept (getLink s d).lane).1
    lane := (relaid (workingLanes s d) p (getLink s d).kept (getLink s d).lane).2 }) rfl rfl).trans ?_
  exact ⟨rfl, fun _ => rfl, fun _ => rfl⟩

theorem resendFlits_out (s : State) (d : Nat) (p : WeftFlit × Nat → Bool) :
    (resendFlits s d p).out = s.out ++ if linkWorks s d then flitsOut d ((getLink s d).kept.filter p) else [] := by
  rw [resendFlits_eq]

theorem getLink_resendFlits (s : State) (d : Nat) (p : WeftFlit × Nat → Bool) (e : Nat) :
    getLink (resendFlits s d p) e = if d = e then { getLink s d with
        kept := (relaid (workingLanes s d) p (getLink s d).kept (getLink s d).lane).1
        lane := (relaid (workingLanes s d) p (getLink s d).kept (getLink s d).lane).2 } else getLink s e := by
  rw [resendFlits_eq, ← getLink_setLink]
  rfl

/-! ## Reports (R194, R263, R430) -/

/-- From s to t something was reported: the links, the output and the tiles are as before. -/
structure Reported (s t : State) : Prop where
  links : t.links = s.links
  out : t.out = s.out
  tiles : t.tiles = s.tiles
  mem : t.mem = s.mem
  variant : t.variant = s.variant

namespace Reported
variable {s t u : State} {α : Type}

theorem refl (s : State) : Reported s s := ⟨rfl, rfl, rfl, rfl, rfl⟩

theorem trans (h : Reported s t) (k : Reported t u) : Reported s u :=
  ⟨k.links.trans h.links, k.out.trans h.out, k.tiles.trans h.tiles, k.mem.trans h.mem, k.variant.trans h.variant⟩

theorem foldl {g : State → α → State} (hg : ∀ u x, Reported u (g u x)) (l : List α) (s : State) : Reported s (l.foldl g s) :=
  List.foldlRecOn (motive := fun u => Reported s u) l g (.refl s) fun u hu x _ => hu.trans (hg u x)

theorem link (h : Reported s t) (d : Nat) : getLink t d = getLink s d := getLink_congr h.links d

theorem works (h : Reported s t) (d : Nat) : linkWorks t d = linkWorks s d := linkWorks_congr (by rw [h.link])

end Reported

theorem raiseEvt_reported (s : State) (src : Src) (bit : Nat) (loom : Option Nat) (unit detail : Nat) :
    Reported s (raiseEvt s src bit loom unit detail) := by
  obtain ⟨hm, ss, h⟩ := raiseEvt_eq s src bit loom unit detail
  rw [h]
  exact ⟨rfl, rfl, rfl, rfl, rfl⟩

theorem evtToSession_reported (s : State) (n : Nat) (e : EvtRec) : Reported s (evtToSession s n e) := by
  obtain ⟨hm, ss, h⟩ := evtToSession_eq s n e
  rw [h]
  exact ⟨rfl, rfl, rfl, rfl, rfl⟩

theorem setReg_reported (s : State) (o : Nat) (v : W64) : Reported s (setReg s o v) := ⟨rfl, rfl, rfl, rfl, rfl⟩

theorem modSvc_reported (s : State) (f : Svc → Svc) : Reported s (modSvc s f) := ⟨rfl, rfl, rfl, rfl, rfl⟩

theorem capture_reported (s : State) (r : Nat) (v : W64) (others : List (Nat × W64)) : Reported s (capture s r v others) := by
  unfold capture
  split
  · exact ⟨rfl, rfl, rfl, rfl, rfl⟩
  · exact .trans (.foldl (fun u kv => setReg_reported u kv.1 kv.2) others s) (setReg_reported ..)

theorem linkLog_reported (s : State) (type dir io lane : Nat) : Reported s (linkLog s type dir io lane) := capture_reported ..

theorem countReg_reported (s : State) (o n : Nat) : Reported s (countReg s o n) := ⟨rfl, rfl, rfl, rfl, rfl⟩

theorem ckptTrigger_reported {s t : State} {l step len : Nat} {buffer : W64} {who : Option (Nat × Nat)}
    (h : ckptTrigger s l step buffer len who = .ok t) : Reported s t := by
  unfold ckptTrigger at h
  dsimp only at h
  split_ifs at h <;> cases h <;> exact ⟨rfl, rfl, rfl, rfl, rfl⟩

theorem advise_reported (s : State) (cause unit : Nat) : Reported s (advise s cause unit) := by
  unfold advise
  dsimp only
  refine Reported.trans ?_ (Reported.foldl (fun u l => ?_) _ _)
  · have logged : ∀ v w : W64, Reported s (capture (orReg (modSvc s fun v => { v with
        raised := (v.raised.filter fun r => !(r.1 = cause && r.2.1 = unit)) ++ [(cause, unit, v.minute)] }) Src.svc.status 1) 0x40 v [(0x38, w)]) :=
      fun v w => (modSvc_reported s _).trans ((setReg_reported _ _ _).trans (capture_reported ..))
    split
    · refine (logged _ _).trans (Reported.foldl (fun u q => ?_) _ _)
      split
      · exact evtToSession_reported ..
      · exact .refl _
    · exact logged _ _
  · split
    · split
      · next h => exact ckptTrigger_reported h
      · exact .refl _
    · exact .refl _

theorem noteCause_reported (s : State) (cause unit n : Nat) (always : Bool) : Reported s (noteCause s cause unit n always) := by
  unfold noteCause
  dsimp only
  split
  · unfold adviseOnce
    split
    · exact modSvc_reported s _
    · exact (modSvc_reported s _).trans (advise_reported _ _ _)
  · exact modSvc_reported s _

end Sys2Proof.Machine
end

section
/-! SUPPORT. Links of the torus (R259 to R263): the check of a partner, the flits sent, received and replayed, and lanes that drop. With it the
claim about links. -/
namespace Sys2Proof.Machine
open Sys2Proof

/-! ## Registers of links and lanes -/

theorem linkStatus : Src.link.status = 0x00708008 := rfl

theorem getReg_linkLog (s : State) (type dir io lane : Nat) {o : Nat} (h1 : o ≠ 0x00708020) (h2 : o ≠ 0x00708018) :
    getReg (linkLog s type dir io lane) o = getReg s o :=
  getReg_capture _ _ h1.symm fun p hp => by
    simp only [List.mem_singleton] at hp
    rw [hp]
    exact h2.symm

theorem getReg_raiseEvt_link (s : State) (bit : Nat) (loom : Option Nat) (unit detail : Nat) {o : Nat} (h : o ≠ 0x00708008) :
    getReg (raiseEvt s .link bit loom unit detail) o = getReg s o := by
  rw [getReg_raiseEvt, if_neg (by rw [linkStatus]; exact h.symm)]

/-- The lanes that work depend on the status registers of the I/O dies alone. -/
theorem lanesUp_of_regs {s t : State} (hr : ∀ io, getReg t (laneReg io) = getReg s (laneReg io)) (hv : t.variant = s.variant) (d : Nat) :
    lanesUp t d = lanesUp s d := by
  simp only [lanesUp, workingLanes, laneUp, hr, hv]

/-- A link event that is logged, noted and counted for an advisory leaves every register past those of the link block's log. -/
theorem getReg_linkReport (s : State) (type io lane bit d cause unit n : Nat) (always : Bool) {o : Nat} (h : 0x00708020 < o) :
    getReg (noteCause (raiseEvt (linkLog s type d io lane) .link bit none d) cause unit n always) o = getReg s o := by
  rw [(noteCause_keepsFaults ..).regs o (by omega), getReg_raiseEvt_link _ _ _ _ _ (by omega), getReg_linkLog _ _ _ _ _ (by omega) (by omega)]

theorem linkReport_reported (s : State) (type io lane bit d cause unit n : Nat) (always : Bool) :
    Reported s (noteCause (raiseEvt (linkLog s type d io lane) .link bit none d) cause unit n always) :=
  (linkLog_reported ..).trans ((raiseEvt_reported ..).trans (noteCause_reported ..))

/-- The event that a link report raises is shown. -/
theorem linkReport_shows (s : State) (type io lane d cause unit n : Nat) (always : Bool) {bit : Nat} (h : bit < 64) :
    (getReg (noteCause (raiseEvt (linkLog s type d io lane) .link bit none d) cause unit n always) 0x00708008).getLsbD bit = true := by
  rw [(noteCause_keepsFaults ..).regs _ (by decide)]
  exact getLsbD_raiseEvt _ .link h ..

/-! ## A link that goes DOWN, and one whose lanes are counted anew (R262, R263) -/

theorem linkDown_reported (s : State) (d : Nat) (h : (getLink s d).st ≠ 3) :
    Reported (setLink s d { getLink s d with st := 3 }) (linkDown s d) := by
  rw [linkDown, if_neg h]
  exact (linkLog_reported ..).trans (raiseEvt_reported ..)

theorem linkDown_shows (s : State) (d : Nat) (h : (getLink s d).st ≠ 3) : (getReg (linkDown s d) 0x00708008).getLsbD 3 = true := by
  rw [linkDown, if_neg h]
  exact getLsbD_raiseEvt _ .link (by decide) ..

theorem getLink_linkDown (s : State) (d e : Nat) (h : (getLink s d).st ≠ 3) :
    getLink (linkDown s d) e = if d = e then { getLink s d with st := 3 } else getLink s e := by
  rw [(linkDown_reported s d h).link, getLink_setLink]

theorem linkStateOf_of_few {n total : Nat} (h : n < total / 4) : linkStateOf n total = 3 := if_pos h

theorem linkStateOf_of_enough {n total : Nat} (h : total / 4 ≤ n) : linkStateOf n total = if n = total then 1 else 2 :=
  if_neg (Nat.not_lt.mpr h)

/-- A link with lanes enough that works has its state by its lanes. -/
theorem relane_of_working {s : State} {d : Nat} (hn : Config.lanesPerDir s.variant / 4 ≤ lanesUp s d) (hw : linkWorks s d = true) :
    relane s d = setLink s d { getLink s d with st := linkStateOf (lanesUp s d) (Config.lanesPerDir s.variant) } := by
  rw [relane, if_neg (Nat.not_lt.mpr hn), linkStateOf_of_enough hn]
  exact if_pos hw

/-- A link with lanes enough that did not work sends anew what no ACK covers. -/
theorem relane_of_idle {s : State} {d : Nat} (hn : Config.lanesPerDir s.variant / 4 ≤ lanesUp s d) (hw : linkWorks s d = false) :
    relane s d = resendFlits (setLink s d { getLink s d with st := linkStateOf (lanesUp s d) (Config.lanesPerDir s.variant) }) d fun _ => true := by
  rw [relane, if_neg (Nat.not_lt.mpr hn), linkStateOf_of_enough hn]
  exact if_neg (by rw [hw]; decide)

theorem relane_of_few {s : State} {d : Nat} (hn : lanesUp s d < Config.lanesPerDir s.variant / 4) : relane s d = linkDown s d := by
  rw [relane, if_pos hn]

theorem linkWorks_of_lanes {s : State} {d n total : Nat} (h : (getLink s d).st = linkStateOf n total) (hn : total / 4 ≤ n) : linkWorks s d = true := by
  rw [linkWorks_iff, h, linkStateOf_of_enough hn]
  split
  · exact .inl rfl
  · exact .inr rfl

/-! ## The check of a partner (R259) -/

section
variable {s : State} {d : Nat}

theorem exec_linkCoordCheck (hd : s.svc.dark = false) (p : BitVec 15) : exec (.linkCoordCheck d p) s = .next (coordCheck s d p) :=
  congrArg Host.Outcome.next (alive_light _ hd)

theorem coordCheck_wrong {p : BitVec 15} (hp : linkPresent s d = true) (h0 : (getLink s d).st = 0) (hne : p ≠ neighbour s d) :
    getLink (coordCheck s d p) d = { getLink s d with st := 4 } ∧ (getReg (coordCheck s d p) 0x00708008).getLsbD 4 = true := by
  rw [coordCheck, if_neg (by simp [hp, h0]), if_pos hne]
  refine ⟨?_, getLsbD_raiseEvt _ .link (by decide) ..⟩
  rw [(raiseEvt_reported ..).link, (linkLog_reported ..).link, getLink_setLink, if_pos rfl]

theorem coordCheck_right (hp : linkPresent s d = true) (h0 : (getLink s d).st = 0) :
    let t := coordCheck s d (neighbour s d)
    (getLink t d).st = linkStateOf (lanesUp s d) (Config.lanesPerDir s.variant) ∧ (getLink t d).kept.map (·.1) = (getLink s d).kept.map (·.1) ∧
      (Config.lanesPerDir s.variant / 4 ≤ lanesUp s d → t.out = s.out ++ flitsOut d (getLink s d).kept) ∧
      ∀ e, e ≠ d → getLink t e = getLink s e := by
  have hcheck : coordCheck s d (neighbour s d) = relane s d := by
    rw [coordCheck, if_neg (by simp [hp, h0]), if_neg (by simp)]
  have hidle : linkWorks s d = false := by rw [linkWorks, h0]; rfl
  rw [hcheck]
  dsimp only
  by_cases hn : lanesUp s d < Config.lanesPerDir s.variant / 4
  · have hdown : (getLink s d).st ≠ 3 := by rw [h0]; decide
    rw [relane_of_few hn, linkStateOf_of_few hn, getLink_linkDown s d d hdown, if_pos rfl]
    refine ⟨rfl, rfl, fun h => absurd hn (by omega), fun e he => ?_⟩
    rw [getLink_linkDown s d e hdown, if_neg he.symm]
  · rw [relane_of_idle (by omega) hidle, getLink_resendFlits, if_pos rfl, getLink_setLink, if_pos rfl, relaid_flits]
    refine ⟨rfl, rfl, fun hle => ?_, fun e he => ?_⟩
    · rw [resendFlits_out, if_pos (linkWorks_of_lanes (by rw [getLink_setLink, if_pos rfl]) hle), getLink_setLink, if_pos rfl,
        List.filter_true]
      rfl
    · rw [getLink_resendFlits, if_neg he.symm, getLink_setLink, if_neg he.symm]

/-! ## Flits that arrive (R260, R261) -/

theorem exec_linkFlit (hd : s.svc.dark = false) (f : WeftFlit) (ok : Bool) : exec (.linkFlit d f ok) s = .next (linkFlitIn s d f ok) :=
  congrArg Host.Outcome.next (alive_light _ hd)

theorem linkFlitIn_other {f : WeftFlit} (hseq : f.seq ≠ (getLink s d).expect) (ok : Bool) : linkFlitIn s d f ok = s := by
  rw [linkFlitIn, if_pos (by simp [hseq])]

/-- A flit of the number expected, over a link that works, is not ignored. -/
theorem flit_taken {f : WeftFlit} (hw : linkWorks s d = true) (hlen : f.payload.length = 256) (hseq : f.seq = (getLink s d).expect) :
    ¬ (!linkWorks s d || decide (f.payload.length ≠ 256) || decide (f.seq ≠ (getLink s d).expect)) = true := by
  simp [hw, hlen, hseq]

theorem linkFlitIn_uncorrectable {f : WeftFlit} (hw : linkWorks s d = true) (hlen : f.payload.length = 256) (hseq : f.seq = (getLink s d).expect) :
    let t := linkFlitIn s d f false
    getLink t d = { getLink s d with discarding := true } ∧ t.reply = [f.seq.setWidth 64] ∧ (getReg t 0x00708008).getLsbD 0 = true ∧ t.mem = s.mem := by
  rw [linkFlitIn, if_neg (flit_taken hw hlen hseq)]
  dsimp only
  refine ⟨?_, rfl, getLsbD_raiseEvt _ .link (by decide) .., ?_⟩
  · change getLink (raiseEvt _ _ _ _ _ _) d = _
    rw [(raiseEvt_reported ..).link, (linkLog_reported ..).link, (countReg_reported ..).link, getLink_setLink, if_pos rfl]
  · change (raiseEvt _ _ _ _ _ _).mem = _
    rw [(raiseEvt_reported ..).mem, (linkLog_reported ..).mem, (countReg_reported ..).mem]
    rfl

theorem linkFlitIn_corrupt {f : WeftFlit} (hw : linkWorks s d = true) (hlen : f.payload.length = 256) (hseq : f.seq = (getLink s d).expect)
    (hcrc : f.hcrc ≠ crc16 (flitCrcBytes f)) :
    linkFlitIn s d f true = { setLink s d { getLink s d with discarding := true } with reply := [f.seq.setWidth 64] } := by
  rw [linkFlitIn, if_neg (flit_taken hw hlen hseq)]
  dsimp only
  rw [if_neg (by decide), if_pos hcrc]

theorem linkFlitIn_good {f : WeftFlit} (hw : linkWorks s d = true) (hlen : f.payload.length = 256) (hseq : f.seq = (getLink s d).expect)
    (hcrc : f.hcrc = crc16 (flitCrcBytes f)) :
    linkFlitIn s d f true =
      deliverFlit (setLink s d ({ getLink s d with expect := (getLink s d).expect + 1, discarding := false }.ack f.ack)) d f := by
  rw [linkFlitIn, if_neg (flit_taken hw hlen hseq)]
  dsimp only
  rw [if_neg (by decide), if_neg (by simp [hcrc])]

end

/-- A link sends at most 256 bytes as one flit, of its next number. -/
theorem linkSend_one (s : State) (d : Nat) (vc : BitVec 2) {bs : List Byte} (h0 : 0 < bs.length) (h1 : bs.length ≤ 256) :
    ∃ lane, (getLink (linkSend s d vc bs) d).kept = (getLink s d).kept ++ [(nextFlit (getLink s d) vc bs, lane)] ∧
      (getLink (linkSend s d vc bs) d).next = (getLink s d).next + 1 ∧
      (linkSend s d vc bs).out = s.out ++ if linkWorks s d then [.flit d (nextFlit (getLink s d) vc bs)] else [] := by
  rw [linkSend_of_short _ _ _ h0 h1, putFlit_out, linkWorks_setLink (by rfl)]
  obtain ⟨lane, hlane⟩ := getLink_putFlit (setLink s d { getLink s d with next := (getLink s d).next + 1 }) d (nextFlit (getLink s d) vc bs)
  rw [hlane, getLink_setLink, if_pos rfl]
  exact ⟨_, rfl, rfl, rfl⟩

theorem nextFlit_payload (x : LinkDir) (vc : BitVec 2) {bs : List Byte} {n : Nat} (hn : n = bs.length) (h : bs.length ≤ 256) :
    (nextFlit x vc bs).payload.take n = bs := by
  subst hn
  simp only [nextFlit, slice, List.drop_zero]
  rw [List.take_of_length_le h, List.take_left]

/-- What an acknowledgement releases. -/
theorem ack_eq (x : LinkDir) (n : BitVec 16) : x.ack n = { x with
    acked := (x.ack n).acked, failing := (x.ack n).failing, attempts := (x.ack n).attempts
    kept := if seqAfter n x.acked then x.kept.filter fun q => seqAfter q.1.seq n else x.kept } := by
  unfold LinkDir.ack
  split <;> rfl

theorem ack_acked (x : LinkDir) (n : BitVec 16) : (x.ack n).acked = if seqAfter n x.acked then n else x.acked := by
  unfold LinkDir.ack
  split <;> rfl

/-- Two records of a link that differ in what has been delivered alone. -/
def SameFlow (x y : LinkDir) : Prop :=
  y.st = x.st ∧ y.expect = x.expect ∧ y.discarding = x.discarding ∧ y.acked = x.acked ∧ y.kept = x.kept

/-- Delivery changes neither the flow of its link nor memory, when no frame goes on over the link itself. -/
theorem deliverFlit_flow (s : State) (d : Nat) (f : WeftFlit) (hr : ∀ r, r ∈ (getLink s d).relays → r.2.2 ≠ d) :
    SameFlow (getLink s d) (getLink (deliverFlit s d f) d) ∧ (deliverFlit s d f).mem = s.mem := by
  unfold deliverFlit
  dsimp only
  split
  · rw [getLink_setLink, if_pos rfl]
    exact ⟨⟨rfl, rfl, rfl, rfl, rfl⟩, rfl⟩
  · refine List.foldlRecOn (motive := fun u : State => SameFlow (getLink s d) (getLink u d) ∧ u.mem = s.mem) _ _ ?_ fun u hu q _ => ?_
    · rw [getLink_setLink, if_pos rfl]
      exact ⟨⟨rfl, rfl, rfl, rfl, rfl⟩, rfl⟩
    · split
      · next r hfind =>
        rw [linkSend_other _ _ _ (hr r (List.mem_of_find?_eq_some hfind)).symm, (linkSend_sent ..).mem]
        exact hu
      · rw [getLink_setLink, if_pos rfl]
        exact hu

section
variable {s : State} {d : Nat} {f : WeftFlit} {q : Frame}

/-- A flit of another channel than the collective's. -/
theorem deliverFlit_packet (hvc : f.vc ≠ 0) :
    deliverFlit s d f = setLink s d { getLink s d with delivered := (getLink s d).delivered ++ [f] } := by
  rw [deliverFlit, if_pos hvc]

/-- No frame of the collective channel is among the packets delivered. -/
theorem deliverFlit_delivered (hvc : f.vc = 0) (hr : ∀ r, r ∈ (getLink s d).relays → r.2.2 ≠ d) :
    (getLink (deliverFlit s d f) d).delivered = (getLink s d).delivered := by
  rw [deliverFlit, if_neg (by simp [hvc])]
  dsimp only
  refine List.foldlRecOn (motive := fun u : State => (getLink u d).delivered = (getLink s d).delivered) _ _ ?_ fun u hu q _ => ?_
  · rw [getLink_setLink, if_pos rfl]
  · split
    · next r hfind =>
      rw [linkSend_other _ _ _ (hr r (List.mem_of_find?_eq_some hfind)).symm]
      exact hu
    · rw [getLink_setLink, if_pos rfl]
      exact hu

/-- A flit that holds one whole frame delivers it, or sends it on. -/
theorem deliverFlit_frame (hvc : f.vc = 0) (hpart : (getLink s d).part = []) (hk : 1 ≤ q.kind.toNat) (hk9 : q.kind.toNat ≤ 9)
    (hlen : q.len.toNat = q.payload.length) (h : q.payload.length ≤ 224)
    (hf : f.payload = frameBytes q ++ List.replicate (224 - q.payload.length) 0) :
    let u := setLink s d { getLink s d with part := [] }
    deliverFlit s d f = match (getLink s d).relays.find? fun r => r.1 = q.jobId && r.2.1 = q.stage.toNat with
      | some r => linkSend u r.2.2 0 (frameBytes q)
      | none => setLink u d { getLink u d with frames := (getLink u d).frames ++ [q] } := by
  rw [deliverFlit, if_neg (by simp [hvc])]
  dsimp only
  rw [hpart, List.nil_append, hf, takeFrames_frameBytes hk hk9 hlen h (by decide)]
  rfl

end

/-- What a good flit brings, when its number and its acknowledgement leave y of its link. -/
theorem flitBrings_of_good {s : State} {d : Nat} {y : LinkDir} {f : WeftFlit} (hpart : y.part = (getLink s d).part)
    (hframes : y.frames = (getLink s d).frames) (hdel : y.delivered = (getLink s d).delivered) (hrel : y.relays = (getLink s d).relays)
    (hr : ∀ r, r ∈ (getLink s d).relays → r.2.2 ≠ d) : FlitBrings s (deliverFlit (setLink s d y) d f) d f := by
  have hy : getLink (setLink s d y) d = y := by rw [getLink_setLink, if_pos rfl]
  refine ⟨fun hvc => ?_, fun hvc => ⟨?_, fun q hp hk hk9 hlen h224 hf => ⟨fun hnone => ?_, fun k hk' hone => ?_⟩⟩⟩
  · rw [deliverFlit_packet hvc, getLink_setLink, if_pos rfl, hy]
    exact ⟨by rw [hdel], hframes, hpart⟩
  · rw [deliverFlit_delivered hvc (by rw [hy, hrel]; exact hr), hy, hdel]
  · have hfind : y.relays.find? (fun r => r.1 = q.jobId && r.2.1 = q.stage.toNat) = none := by
      rw [hrel, List.find?_eq_none]
      intro r hr'
      simp only [Bool.and_eq_true, decide_eq_true_eq, not_and]
      exact hnone r hr'
    rw [deliverFlit_frame hvc (by rw [hy, hpart, hp]) hk hk9 hlen h224 hf, hy, hfind]
    dsimp only
    rw [getLink_setLink, if_pos rfl, getLink_setLink, if_pos rfl]
    refine ⟨by rw [hframes], rfl, rfl, fun e he => ?_⟩
    rw [getLink_setLink, if_neg he.symm, getLink_setLink, if_neg he.symm, getLink_setLink, if_neg he.symm]
  · have hfind : y.relays.find? (fun r => r.1 = q.jobId && r.2.1 = q.stage.toNat) = some (q.jobId, q.stage.toNat, k) := by
      rw [hrel, hone, List.find?_cons_of_pos (by simp)]
    have hbytes := frameBytes_length q
    rw [deliverFlit_frame hvc (by rw [hy, hpart, hp]) hk hk9 hlen h224 hf, hy, hfind]
    dsimp only
    rw [linkSend_other _ _ _ hk'.symm, getLink_setLink, if_pos rfl]
    refine ⟨hframes, rfl, ?_⟩
    obtain ⟨lane, hkept, hnext, hout⟩ := linkSend_one (setLink (setLink s d y) d { y with part := [] }) k 0
      (bs := frameBytes q) (by omega) (by omega)
    have hk0 : getLink (setLink (setLink s d y) d { y with part := [] }) k = getLink s k := by
      rw [getLink_setLink, if_neg hk'.symm, getLink_setLink, if_neg hk'.symm]
    rw [hk0] at hkept hnext hout
    rw [linkWorks_congr (congrArg LinkDir.st hk0)] at hout
    exact ⟨_, lane, hkept, rfl, rfl, nextFlit_payload _ _ hbytes.symm (by omega), nextFlit_hcrc .., hnext, hout⟩

end Sys2Proof.Machine
end

section
/-! SUPPORT. Replays and lanes that drop (R261 to R263), and with them the claim about links. -/
namespace Sys2Proof.Machine
open Sys2Proof

/-! ## Replays -/

section
variable {s : State} {d : Nat}

theorem exec_linkReplay (hd : s.svc.dark = false) (seq : BitVec 16) : exec (.linkReplay d seq) s = .next (linkReplayFrom s d seq) :=
  congrArg Host.Outcome.next (alive_light _ hd)

theorem dirReplayReg_ne (d : Nat) : 0x00708020 < dirReplayReg d := by
  rw [dirReplayReg]
  omega

/-- The link after an acknowledgement, with what it notes of the flit asked for. -/
def asked (x : LinkDir) (seq : BitVec 16) : LinkDir :=
  let y := x.ack (seq - 1)
  { y with failing := some seq, attempts := if y.failing = some seq then y.attempts + 1 else 1 }

theorem asked_st (x : LinkDir) (seq : BitVec 16) : (asked x seq).st = x.st := by
  unfold asked LinkDir.ack
  split <;> rfl

theorem linkReplayFrom_again {seq : BitVec 16} (hw : linkWorks s d = true) (hseq : seqAfter seq (getLink s d).acked = true)
    (hn : (asked (getLink s d) seq).attempts ≤ 32) : linkReplayFrom s d seq =
      resendFlits (noteCause (raiseEvt (linkLog (countReg (setLink s d (asked (getLink s d) seq)) (dirReplayReg d)) 1 d 0xFF 0xFF)
        .link 1 none d) 5 d 1) d fun q => !seqAfter seq q.1.seq := by
  rw [linkReplayFrom, if_neg (by simp [hw, hseq])]
  exact if_neg (by exact Nat.not_lt.mpr hn)

theorem linkReplayFrom_failed {seq : BitVec 16} (hw : linkWorks s d = true) (hseq : seqAfter seq (getLink s d).acked = true)
    (hn : 32 < (asked (getLink s d) seq).attempts) : linkReplayFrom s d seq =
      linkDown (setLink s d { (getLink s d).ack (seq - 1) with failing := none, attempts := 0 }) d := by
  rw [linkReplayFrom, if_neg (by simp [hw, hseq])]
  exact if_pos hn

/-- A replay is counted, shown, and resent from the number asked for. -/
theorem replay_again {seq : BitVec 16} (hw : linkWorks s d = true) (hseq : seqAfter seq (getLink s d).acked = true)
    (hn : (asked (getLink s d) seq).attempts ≤ 32) :
    let t := linkReplayFrom s d seq
    let y := asked (getLink s d) seq
    t.mem = s.mem ∧ (getReg t (dirReplayReg d)).toNat = upTo32 ((getReg s (dirReplayReg d)).toNat + 1) ∧
      (getReg t 0x00708008).getLsbD 1 = true ∧ (getLink t d).st = (getLink s d).st ∧ (getLink t d).failing = some seq ∧
      (getLink t d).attempts = y.attempts ∧ (getLink t d).kept.map (·.1) = y.kept.map (·.1) ∧
      t.out = s.out ++ flitsOut d (y.kept.filter fun q => !seqAfter seq q.1.seq) := by
  rw [linkReplayFrom_again hw hseq hn]
  dsimp only
  have hrep := (countReg_reported (setLink s d (asked (getLink s d) seq)) (dirReplayReg d) 1).trans
    (linkReport_reported (countReg (setLink s d (asked (getLink s d) seq)) (dirReplayReg d)) 1 0xFF 0xFF 1 d 5 d 1 false)
  have hreg := getReg_linkReport (countReg (setLink s d (asked (getLink s d) seq)) (dirReplayReg d)) 1 0xFF 0xFF 1 d 5 d 1 false (dirReplayReg_ne d)
  have hshow := linkReport_shows (countReg (setLink s d (asked (getLink s d) seq)) (dirReplayReg d)) 1 0xFF 0xFF d 5 d 1 false (bit := 1) (by decide)
  generalize noteCause (raiseEvt (linkLog (countReg (setLink s d (asked (getLink s d) seq)) (dirReplayReg d)) 1 d 0xFF 0xFF) .link 1 none d) 5 d 1 = v at *
  have hlink : getLink v d = asked (getLink s d) seq := by rw [hrep.link, getLink_setLink, if_pos rfl]
  have hworks : linkWorks v d = true := by rw [linkWorks_congr (s := s) (by rw [hlink, asked_st]), hw]
  have hsent := resendFlits_sent v d fun q => !seqAfter seq q.1.seq
  have hregs : ∀ o, getReg (resendFlits v d fun q => !seqAfter seq q.1.seq) o = getReg v o := fun o => by rw [getReg, hsent.regs, getReg]
  rw [hsent.mem, hrep.mem, hregs, hregs, hsent.st, resendFlits_out, if_pos hworks, getLink_resendFlits, if_pos rfl, relaid_flits, hlink, hrep.out]
  refine ⟨rfl, ?_, hshow, asked_st .., rfl, rfl, rfl, rfl⟩
  rw [hreg, getReg_countReg, if_pos rfl, toNat_satAdd]
  rfl

/-- When 32 replays of one flit have failed the link is DOWN. -/
theorem replay_failed {seq : BitVec 16} (hw : linkWorks s d = true) (hseq : seqAfter seq (getLink s d).acked = true)
    (hn : 32 < (asked (getLink s d) seq).attempts) :
    let t := linkReplayFrom s d seq
    t.mem = s.mem ∧ (getLink t d).st = 3 ∧ (getReg t 0x00708008).getLsbD 3 = true ∧ t.out = s.out ∧
      (getLink t d).kept = ((getLink s d).ack (seq - 1)).kept := by
  rw [linkReplayFrom_failed hw hseq hn]
  dsimp only
  have hst : (getLink (setLink s d { (getLink s d).ack (seq - 1) with failing := none, attempts := 0 }) d).st ≠ 3 := by
    rw [getLink_setLink, if_pos rfl]
    change (asked (getLink s d) seq).st ≠ 3
    rw [asked_st]
    rcases (linkWorks_iff s d).mp hw with h | h <;> rw [h] <;> decide
  have hdown := linkDown_reported _ _ hst
  rw [hdown.mem, hdown.out, hdown.link, getLink_setLink, if_pos rfl, getLink_setLink, if_pos rfl]
  exact ⟨rfl, rfl, linkDown_shows _ _ hst, rfl, rfl⟩

end

/-! ## Lanes (R262) -/

theorem getLsbD_bit (i j : Nat) : (BitVec.ofNat 64 (2 ^ i)).getLsbD j = (decide (j < 64) && decide (i = j)) := by
  rw [BitVec.getLsbD_ofNat, Nat.testBit_two_pow]

/-- Other bits stay when one is cleared, and that one is 0. -/
theorem getLsbD_clear (v : W64) (i j : Nat) : (v &&& ~~~ BitVec.ofNat 64 (2 ^ i)).getLsbD j = (v.getLsbD j && !decide (i = j)) := by
  rw [BitVec.getLsbD_and, BitVec.getLsbD_not, getLsbD_bit]
  by_cases h : j < 64
  · simp [h]
  · simp [BitVec.getLsbD_of_ge v j (by omega)]

/-- A lane is taken out of the status of its I/O die. -/
def laneOut (s : State) (io lane : Nat) : State :=
  setReg s (laneReg io) (getReg s (laneReg io) &&& ~~~ (BitVec.ofNat 64 (2 ^ lane)))

theorem laneUp_laneOut (s : State) (io lane jo j : Nat) :
    laneUp (laneOut s io lane) jo j = (laneUp s jo j && !decide ((jo, j) = (io, lane))) := by
  rw [laneUp, laneOut, getReg_setReg]
  by_cases h : laneReg io = laneReg jo
  · have hio : io = jo := by simp only [laneReg] at h; omega
    subst hio
    rw [if_pos rfl, getLsbD_clear, laneUp]
    simp [eq_comm]
  · rw [if_neg h, laneUp]
    have hne : jo ≠ io := fun e => h (by rw [e])
    simp [hne]

theorem laneUp_of_regs {s t : State} (hr : ∀ io, getReg t (laneReg io) = getReg s (laneReg io)) (io j : Nat) : laneUp t io j = laneUp s io j := by
  rw [laneUp, hr, laneUp]

theorem laneReg_ne_status (io : Nat) : laneReg io ≠ 0x00708008 := by
  rw [laneReg]
  omega

theorem laneReg_ne (io : Nat) : 0x00708020 < laneReg io := by
  rw [laneReg]
  omega

section
variable {s : State} {d io i : Nat}

theorem exec_laneDrop (hd : s.svc.dark = false) (io lane : Nat) : exec (.laneDrop io lane) s = .next (dropLane s io lane) :=
  congrArg Host.Outcome.next (alive_light _ hd)

/-- The drop of a lane, logged, shown and counted. -/
def laneLost (s : State) (d io lane : Nat) : State :=
  let u := laneOut s io lane
  noteCause (raiseEvt (linkLog u (if linkWorks u d && lanesUp u d < Config.lanesPerDir u.variant / 4 then 3 else 2) d io lane) .link 2 none d) 5 d 1 true

theorem laneLost_reported (s : State) (d io lane : Nat) : Reported (laneOut s io lane) (laneLost s d io lane) := by
  unfold laneLost
  exact linkReport_reported ..

theorem laneLost_lanes (s : State) (d io lane jo : Nat) : getReg (laneLost s d io lane) (laneReg jo) = getReg (laneOut s io lane) (laneReg jo) :=
  getReg_linkReport _ _ _ _ _ _ _ _ _ _ (laneReg_ne jo)

theorem laneLost_shows (s : State) (d io lane : Nat) : (getReg (laneLost s d io lane) 0x00708008).getLsbD 2 = true :=
  linkReport_shows _ _ _ _ _ _ _ _ _ (by decide)

theorem dropLane_eq (hio : io < Config.ioDies s.variant) (hi : i < 4) (hd6 : d < 6) (hup : laneUp s io (4 * d + i) = true) :
    dropLane s io (4 * d + i) =
      let u := laneOut s io (4 * d + i)
      let v := laneLost s d io (4 * d + i)
      if linkWorks u d && lanesUp u d < Config.lanesPerDir u.variant / 4 then raiseEvt (setLink v d { getLink v d with st := 3 }) .link 3 none d
      else if linkWorks v d then resendFlits (relane v d) d fun q => q.2 = io * 24 + (4 * d + i) else v := by
  have hd : (4 * d + i) / 4 = d := by omega
  rw [dropLane, hd, if_neg (by simp [hup]; omega)]
  rfl

/-- What a dropped lane leaves of its link: t is the state after it, u the one without the lane. -/
structure LaneDropped (s u t : State) (d io lane : Nat) : Prop where
  lanes : ∀ jo, getReg t (laneReg jo) = getReg u (laneReg jo)
  variant : t.variant = u.variant
  shown : (getReg t 0x00708008).getLsbD 2 = true
  st : (getLink t d).st = if linkWorks s d then linkStateOf (lanesUp u d) (Config.lanesPerDir s.variant) else (getLink s d).st
  kept : (getLink t d).kept.map (·.1) = (getLink s d).kept.map (·.1)
  out : linkWorks s d = true → Config.lanesPerDir s.variant / 4 ≤ lanesUp u d →
    t.out = s.out ++ flitsOut d ((getLink s d).kept.filter fun q => q.2 = io * 24 + lane)

theorem dropLane_dropped (hio : io < Config.ioDies s.variant) (hi : i < 4) (hd6 : d < 6) (hup : laneUp s io (4 * d + i) = true) :
    LaneDropped s (laneOut s io (4 * d + i)) (dropLane s io (4 * d + i)) d io (4 * d + i) := by
  rw [dropLane_eq hio hi hd6 hup]
  generalize hlane : 4 * d + i = lane
  have hu : ∀ e, getLink (laneOut s io lane) e = getLink s e := fun _ => rfl
  have hu0 : (laneOut s io lane).out = s.out := rfl
  have hrep := laneLost_reported s d io lane
  have hlanes := laneLost_lanes s d io lane
  have hshow := laneLost_shows s d io lane
  have huw : linkWorks (laneOut s io lane) d = linkWorks s d := rfl
  have huv : (laneOut s io lane).variant = s.variant := rfl
  dsimp only
  generalize laneOut s io lane = u at *
  generalize laneLost s d io lane = v at *
  have hvw : linkWorks v d = linkWorks s d := (hrep.works d).trans huw
  have hvn : lanesUp v d = lanesUp u d := lanesUp_of_regs hlanes hrep.variant d
  have hlink : getLink v d = getLink s d := (hrep.link d).trans (hu d)
  have hout : v.out = s.out := hrep.out.trans hu0
  rw [huw, huv]
  by_cases hw : linkWorks s d = true
  · by_cases hn : lanesUp u d < Config.lanesPerDir s.variant / 4
    · rw [if_pos (by simp [hw, hn])]
      have hlast := raiseEvt_reported (setLink v d { getLink v d with st := 3 }) .link 3 none d 0
      have hshown : (getReg (setLink v d { getLink v d with st := 3 }) 0x00708008).getLsbD 2 = true := hshow
      refine ⟨fun jo => ?_, ?_, getLsbD_raiseEvt_of_shown hshown .link 3 none d 0, ?_, ?_, fun _ h => absurd hn (Nat.not_lt.mpr h)⟩
      · rw [getReg_raiseEvt_link _ _ _ _ _ (laneReg_ne_status jo)]
        exact hlanes jo
      · rw [hlast.variant]
        exact hrep.variant
      · rw [hlast.link, getLink_setLink, if_pos rfl, if_pos hw, linkStateOf_of_few hn]
      · rw [hlast.link, getLink_setLink, if_pos rfl, hlink]
    · have hn' : Config.lanesPerDir v.variant / 4 ≤ lanesUp v d := by
        rw [hvn, hrep.variant, huv]
        exact Nat.not_lt.mp hn
      rw [if_neg (by simp [hn]), hvw, if_pos hw, relane_of_working hn' (hvw.trans hw), hvn, hrep.variant, huv, hlink]
      have hst : ∀ x : LinkDir, (getLink (setLink v d x) d) = x := fun x => by rw [getLink_setLink, if_pos rfl]
      have hsent := resendFlits_sent (setLink v d { getLink s d with st := linkStateOf (lanesUp u d) (Config.lanesPerDir s.variant) }) d
        fun q => q.2 = io * 24 + lane
      have hregs : ∀ o, getReg (resendFlits (setLink v d { getLink s d with st := linkStateOf (lanesUp u d) (Config.lanesPerDir s.variant) }) d
        fun q => q.2 = io * 24 + lane) o = getReg v o := fun o => by rw [getReg, hsent.regs]; rfl
      refine ⟨fun jo => (hregs _).trans (hlanes jo), ?_, by rw [hregs]; exact hshow, ?_, ?_, fun _ h => ?_⟩
      · rw [hsent.eq]
        exact hrep.variant
      · rw [hsent.st, hst, if_pos hw]
      · rw [getLink_resendFlits, if_pos rfl, relaid_flits, hst]
      · rw [resendFlits_out, hst, if_pos (linkWorks_of_lanes (by rw [hst]) h)]
        exact congrArg (· ++ _) hout
  · rw [if_neg (by simp [hw]), hvw, if_neg hw]
    exact ⟨hlanes, hrep.variant, hshow, by rw [if_neg hw, hlink], by rw [hlink], fun h => absurd h hw⟩

end

/-! ## A good flit (R260, R261) -/

theorem goodFlit {s : State} {d : Nat} (f : WeftFlit) (hr : ∀ r, r ∈ (getLink s d).relays → r.2.2 ≠ d) :
    let x := getLink s d
    let t := deliverFlit (setLink s d ({ x with expect := x.expect + 1, discarding := false }.ack f.ack)) d f
    (getLink t d).expect = x.expect + 1 ∧ (getLink t d).discarding = false ∧ (getLink t d).st = x.st ∧ t.mem = s.mem ∧
      (getLink t d).acked = (if seqAfter f.ack x.acked then f.ack else x.acked) ∧
      (getLink t d).kept = (if seqAfter f.ack x.acked then x.kept.filter fun q => seqAfter q.1.seq f.ack else x.kept) ∧ FlitBrings s t d f := by
  dsimp only
  have hack := ack_eq { getLink s d with expect := (getLink s d).expect + 1, discarding := false } f.ack
  have hacked := ack_acked { getLink s d with expect := (getLink s d).expect + 1, discarding := false } f.ack
  generalize { getLink s d with expect := (getLink s d).expect + 1, discarding := false }.ack f.ack = y at *
  have hy : getLink (setLink s d y) d = y := by rw [getLink_setLink, if_pos rfl]
  have hrel : y.relays = (getLink s d).relays := by rw [hack]
  obtain ⟨⟨hst, hexpect, hdisc, hackd, hkept⟩, hmem⟩ := deliverFlit_flow (setLink s d y) d f (by rw [hy, hrel]; exact hr)
  rw [hy] at hst hexpect hdisc hackd hkept
  refine ⟨by rw [hexpect, hack], by rw [hdisc, hack], by rw [hst, hack], hmem, by rw [hackd, hacked], by rw [hkept, hack], ?_⟩
  exact flitBrings_of_good (by rw [hack]) (by rw [hack]) (by rw [hack]) hrel hr

/-! ## The claim about links -/

theorem links : Links := by
  intro s d hdark hd6
  dsimp only
  refine ⟨fun hp h0 => ⟨fun p hne => ?_, ?_⟩, fun hw f hlen => ⟨fun hseq ok => ?_, fun hseq => ⟨?_, fun hcrc => ?_, fun hcrc hr => ?_⟩⟩, fun hw seq hseq => ?_,
    fun io i hio hi hup => ?_⟩
  · exact ⟨_, exec_linkCoordCheck hdark p, coordCheck_wrong hp h0 hne⟩
  · exact ⟨_, exec_linkCoordCheck hdark _, coordCheck_right hp h0⟩
  · rw [exec_linkFlit hdark, linkFlitIn_other hseq]
  · exact ⟨_, exec_linkFlit hdark f false, linkFlitIn_uncorrectable hw hlen hseq⟩
  · rw [exec_linkFlit hdark, linkFlitIn_corrupt hw hlen hseq hcrc]
    refine ⟨_, rfl, ?_, rfl, rfl⟩
    change getLink (setLink s d _) d = _
    rw [getLink_setLink, if_pos rfl]
  · rw [exec_linkFlit hdark, linkFlitIn_good hw hlen hseq hcrc]
    exact ⟨_, rfl, goodFlit f hr⟩
  · by_cases hn : (asked (getLink s d) seq).attempts ≤ 32
    · obtain ⟨hmem, hrest⟩ := replay_again hw hseq hn
      exact ⟨_, exec_linkReplay hdark seq, hmem, fun _ => hrest, fun h => absurd h (Nat.not_lt.mpr hn)⟩
    · obtain ⟨hmem, hrest⟩ := replay_failed hw hseq (Nat.not_le.mp hn)
      exact ⟨_, exec_linkReplay hdark seq, hmem, fun h => absurd h hn, fun _ => hrest⟩
  · obtain ⟨hlanes, hvar, hshow, hst, hkept, hout⟩ := dropLane_dropped hio hi hd6 hup
    have hn := lanesUp_of_regs hlanes hvar d
    refine ⟨_, exec_laneDrop hdark io _, ?_, hshow, fun jo j hne _ _ => ?_, ?_, hkept, fun hw hle => ?_⟩
    · rw [laneUp_of_regs hlanes, laneUp_laneOut]
      simp
    · rw [laneUp_of_regs hlanes, laneUp_laneOut]
      simp [hne]
    · rw [hst, hn]
    · exact hout hw (hn ▸ hle)

end Sys2Proof.Machine
end

section
/-! SUPPORT. Retraining and detours (R259, R263, R275): what training writes of a lane, and the frames that go by a detour. With it the claim
about them. -/
namespace Sys2Proof.Machine
open Sys2Proof

/-! ## Findings of a training -/

/-- A bit set to a value. -/
def putBit (n : Nat) (on : Bool) (v : W64) : W64 :=
  if on then v ||| BitVec.ofNat 64 (2 ^ n) else v &&& ~~~ (BitVec.ofNat 64 (2 ^ n))

theorem getLsbD_putBit {n m : Nat} (h : n ≠ m) (on : Bool) (v : W64) : (putBit n on v).getLsbD m = v.getLsbD m := by
  unfold putBit
  split
  · rw [BitVec.getLsbD_or, getLsbD_bit]
    simp [h]
  · rw [getLsbD_clear]
    simp [h]

/-- A finding changes the status register of its I/O die alone, if anything. -/
theorem putLane_eq (s : State) (f : LaneFinding) : putLane s f = s ∨ putLane s f = setReg s (laneReg f.io)
    (putBit (58 + f.lane / 4) f.reversed (putBit (34 + f.lane) f.inverted (putBit f.lane f.up (getReg s (laneReg f.io))))) := by
  unfold putLane
  split
  · exact .inl rfl
  · exact .inr rfl

theorem putLane_reported (s : State) (f : LaneFinding) : Reported s (putLane s f) := by
  rcases putLane_eq s f with h | h <;> rw [h]
  · exact .refl s
  · exact setReg_reported ..

theorem getReg_putLane (s : State) (f : LaneFinding) {o : Nat} (h : o < 0x00708200) : getReg (putLane s f) o = getReg s o := by
  rcases putLane_eq s f with hf | hf <;> rw [hf]
  rw [getReg_setReg, if_neg (by simp only [laneReg]; omega)]

/-- A finding about another lane leaves a lane as it is. -/
theorem laneUp_putLane (s : State) (f : LaneFinding) {io j : Nat} (hj : j < 24) (h : (f.io, f.lane) ≠ (io, j)) : laneUp (putLane s f) io j = laneUp s io j := by
  rcases putLane_eq s f with hf | hf <;> rw [hf]
  rw [laneUp, getReg_setReg, laneUp]
  split
  · next hreg =>
    have hio : f.io = io := by simp only [laneReg] at hreg; omega
    have hlane : f.lane ≠ j := fun e => h (by rw [hio, e])
    rw [getLsbD_putBit (by omega), getLsbD_putBit (by omega), getLsbD_putBit hlane, hio]
  · rfl

/-! ## Retraining (R259, R263) -/

section
variable {s : State} {d : Nat}

theorem exec_linkRetrain (hd : s.svc.dark = false) (who : Accessor) (v : W64) (found : List LaneFinding) : exec (.linkRetrain who v found) s =
    .next (if adminOf s who then ((List.range 6).filter fun d => v.getLsbD d).foldl (retrainDir found) s else s) :=
  congrArg Host.Outcome.next (alive_light _ hd)

/-- A write of one bit names one direction. -/
theorem directions_bit (hd : d < 6) : (List.range 6).filter (fun e => (BitVec.ofNat 64 (2 ^ d)).getLsbD e) = [d] := by
  have hbit : ∀ e ∈ List.range 6, (BitVec.ofNat 64 (2 ^ d)).getLsbD e = decide (d = e) := fun e he => by
    rw [getLsbD_bit, decide_eq_true (by have := List.mem_range.mp he; omega), Bool.true_and]
  rw [List.filter_congr hbit]
  interval_cases d <;> rfl

/-- A link that does not carry traffic and can train again. -/
def deadLink (x : LinkDir) : Bool := x.st = 3 || x.st = 4

/-- The state after the findings of a training of a direction: those of its dropped lanes, or of every lane of a dead link. -/
def trained (s : State) (found : List LaneFinding) (d : Nat) : State :=
  (found.filter fun f => f.lane / 4 = d && (deadLink (getLink s d) || !laneUp s f.io f.lane)).foldl putLane s

theorem trained_reported (s : State) (found : List LaneFinding) (d : Nat) : Reported s (trained s found d) := .foldl putLane_reported _ s

theorem getReg_trained (s : State) (found : List LaneFinding) (d : Nat) {o : Nat} (h : o < 0x00708200) : getReg (trained s found d) o = getReg s o :=
  List.foldlRecOn (motive := fun u => getReg u o = getReg s o) _ _ rfl fun u hu f _ => (getReg_putLane u f h).trans hu

/-- Training disturbs no working lane of a link that is not dead. -/
theorem laneUp_trained (found : List LaneFinding) {io j : Nat} (hdead : deadLink (getLink s d) = false) (hj : j < 24) (hup : laneUp s io j = true) :
    laneUp (trained s found d) io j = true := by
  refine List.foldlRecOn (motive := fun u => laneUp u io j = true) _ _ hup fun u hu f hf => ?_
  rw [laneUp_putLane u f hj, hu]
  rintro ⟨⟩
  simp [hdead, hup] at hf

theorem retrainDir_eq (found : List LaneFinding) (hp : linkPresent s d = true) : retrainDir found s d =
    let u := trained s found d
    if deadLink (getLink s d) then
      if lanesUp u d < Config.lanesPerDir u.variant / 4 then u
      else sendCoord (setLink u d { getLink u d with st := 0, failing := none, attempts := 0, detour := none }) d
    else if linkWorks u d then relane u d else u := by
  rw [retrainDir, if_neg (by simp [hp])]
  rfl

/-- A dead link trains anew when it has lanes enough. -/
theorem retrainDir_dead (found : List LaneFinding) (hp : linkPresent s d = true) (hdead : deadLink (getLink s d) = true) :
    let t := retrainDir found s d
    (∀ e, e ≠ d → getLink t e = getLink s e) ∧ if lanesUp t d < Config.lanesPerDir s.variant / 4 then getLink t d = getLink s d ∧ t.out = s.out else
      getLink t d = { getLink s d with st := 0, failing := none, attempts := 0, detour := none } ∧ t.out = s.out ++ [.coord d (getReg s 0x00708000)] := by
  have hrep := trained_reported s found d
  have hreg := getReg_trained s found d (o := 0x00708000) (by decide)
  rw [retrainDir_eq found hp]
  dsimp only
  rw [if_pos hdead]
  generalize trained s found d = u at *
  rw [hrep.variant, hrep.link]
  by_cases hn : lanesUp u d < Config.lanesPerDir s.variant / 4
  · rw [if_pos hn, if_pos hn]
    exact ⟨fun e _ => hrep.link e, hrep.link d, hrep.out⟩
  · have hlanes : ∀ x m, lanesUp (send (setLink u d x) m) d = lanesUp u d := fun _ _ => lanesUp_congr rfl rfl d
    rw [if_neg hn, sendCoord, hlanes, if_neg hn]
    refine ⟨fun e he => ?_, ?_, ?_⟩
    · rw [getLink_send, getLink_setLink, if_neg he.symm, hrep.link]
    · rw [getLink_send, getLink_setLink, if_pos rfl]
    · rw [← hreg, ← hrep.out]
      rfl

/-- A link that works counts its lanes anew, and its working lanes are not disturbed. -/
theorem retrainDir_working (found : List LaneFinding) (hp : linkPresent s d = true) (hdead : deadLink (getLink s d) = false) :
    let t := retrainDir found s d
    (∀ e, e ≠ d → getLink t e = getLink s e) ∧ (linkWorks s d = true →
      (getLink t d).st = linkStateOf (lanesUp t d) (Config.lanesPerDir s.variant) ∧
      ∀ io j, io < Config.ioDies s.variant → j < 24 → laneUp s io j = true → laneUp t io j = true) := by
  have hrep := trained_reported s found d
  have hup := fun io j => laneUp_trained (s := s) (d := d) found (io := io) (j := j) hdead
  rw [retrainDir_eq found hp]
  dsimp only
  rw [if_neg (by simp [hdead])]
  generalize trained s found d = u at *
  rw [hrep.works]
  by_cases hw : linkWorks s d = true
  · rw [if_pos hw]
    by_cases hn : lanesUp u d < Config.lanesPerDir u.variant / 4
    · have hst : (getLink u d).st ≠ 3 := by
        rcases (linkWorks_iff s d).mp hw with h | h <;> rw [hrep.link, h] <;> decide
      have hregs : ∀ io, getReg (linkDown u d) (laneReg io) = getReg u (laneReg io) := fun io => by
        rw [linkDown, if_neg hst, getReg_raiseEvt_link _ _ _ _ _ (laneReg_ne_status io),
          getReg_linkLog _ _ _ _ _ (laneReg_ne io).ne' ((Nat.lt_trans (by decide) (laneReg_ne io)).ne')]
        rfl
      have hdown := linkDown_reported u d hst
      rw [relane_of_few hn]
      refine ⟨fun e he => ?_, fun _ => ⟨?_, fun io j _ hj h => ?_⟩⟩
      · rw [getLink_linkDown u d e hst, if_neg he.symm, hrep.link]
      · rw [getLink_linkDown u d d hst, if_pos rfl, lanesUp_of_regs hregs hdown.variant, linkStateOf_of_few (hrep.variant ▸ hn)]
      · rw [laneUp_of_regs hregs]
        exact hup io j hj h
    · rw [relane_of_working (Nat.not_lt.mp hn) ((hrep.works d).trans hw)]
      refine ⟨fun e he => ?_, fun _ => ⟨?_, fun io j _ hj h => hup io j hj h⟩⟩
      · rw [getLink_setLink, if_neg he.symm, hrep.link]
      · rw [getLink_setLink, if_pos rfl, hrep.variant]
        rfl
  · rw [if_neg hw]
    exact ⟨fun e _ => hrep.link e, fun h => absurd h hw⟩

/-! ## Detours (R275) -/

theorem exec_detourHop (hd : s.svc.dark = false) (lines : List Nat) : exec (.detour (.hop d lines)) s = .next (takeDetour s d lines) :=
  congrArg Host.Outcome.next (alive_light _ hd)

theorem exec_detourRelay (hd : s.svc.dark = false) (job : W32) (stage : Nat) (out : Option Nat) :
    exec (.detour (.relay d job stage out)) s = .next (relayDetour s d job stage out) :=
  congrArg Host.Outcome.next (alive_light _ hd)

/-- The detour is the first direction of another axis that works and whose neighbouring line does. -/
theorem detourOf_first {lines : List Nat} {k : Nat} (hk : k < 6) (hax : k / 2 ≠ d / 2) (hw : linkWorks s k = true) (hin : k ∈ lines)
    (hfirst : ∀ j, j < k → j / 2 ≠ d / 2 → linkWorks s j = false ∨ j ∉ lines) : detourOf s d lines = some k := by
  refine List.find?_range_eq_some.mpr ⟨by simp [hax, hw, hin], List.mem_range.mpr hk, fun j hj => ?_⟩
  by_cases hjax : j / 2 = d / 2
  · simp [hjax]
  · rcases hfirst j hj hjax with h | h <;> simp [h]

theorem mem_unacked {l tile : Nat} {q : SentFrame} (hl : l < 32) (hst : (getLoom s l).st ≠ .free) (ht : tile ∈ loomTiles (getLoom s l))
    (hq : q ∈ (tileOf s l tile).sentFrames) (hdir : q.dir = some d) (hwait : q.waiting = false) : q ∈ unacked s d := by
  refine List.mem_flatMap.mpr ⟨l, List.mem_filter.mpr ⟨List.mem_range.mpr hl, by simp [hst]⟩, List.mem_flatMap.mpr ⟨tile, ht, ?_⟩⟩
  exact List.mem_filter.mpr ⟨hq, by simp [hdir, hwait]⟩

theorem unacked_dir {q : SentFrame} (hq : q ∈ unacked s d) : q.dir = some d := by
  simp only [unacked, List.mem_flatMap, List.mem_filter, Bool.and_eq_true, decide_eq_true_eq] at hq
  obtain ⟨_, _, _, _, _, hdir, _⟩ := hq
  exact hdir

/-- Frames of a direction that are sent by its way: each goes out, and no other link changes. -/
theorem foldl_sendFrame {k : Nat} (hway : wayOf s d = k) {qs : List SentFrame} (hqs : ∀ q ∈ qs, q.dir = some d) :
    let t := qs.foldl (fun s q => sendFrame s q.dir q.toward q.fr) s
    Sent s t ∧ (∀ e, e ≠ k → getLink t e = getLink s e) ∧ (∃ new, t.out = s.out ++ new) ∧ ∀ q ∈ qs, OutMsg.frame q.dir q.toward q.fr ∈ t.out := by
  induction qs generalizing s with
  | nil => exact ⟨.refl s, fun _ _ => rfl, ⟨[], by simp⟩, fun _ h => absurd h List.not_mem_nil⟩
  | cons q qs ih =>
    have hdir : q.dir = some d := hqs q List.mem_cons_self
    have hone := sendFrame_sent s q.dir q.toward q.fr
    obtain ⟨flits, hflits⟩ := sendFrame_out s q.dir q.toward q.fr
    obtain ⟨hsent, hother, ⟨new, hnew⟩, hall⟩ := ih ((hone.way d).trans hway) fun p hp => hqs p (List.mem_cons_of_mem _ hp)
    refine ⟨hone.trans hsent, fun e he => ?_, ⟨.frame q.dir q.toward q.fr :: flits ++ new, ?_⟩, fun p hp => ?_⟩
    · refine (hother e he).trans ?_
      rw [hdir]
      exact sendFrame_other s _ _ (by rw [hway]; exact he)
    · rw [List.foldl_cons, hnew, hflits, List.append_assoc]
    · rcases List.mem_cons.mp hp with rfl | hp
      · rw [List.foldl_cons, hnew, hflits]
        simp
      · exact hall p hp

/-- A hop whose link is DOWN goes by its detour. -/
theorem takeDetour_first {lines : List Nat} {k : Nat} (hst : (getLink s d).st = 3) (hdet : (getLink s d).detour = none) (hkd : k ≠ d)
    (hk : detourOf s d lines = some k) :
    let t := takeDetour s d lines
    getLink t d = { getLink s d with detour := some k } ∧ (getReg t 0x00700008).getLsbD 4 = true ∧ t.mem = s.mem ∧
      (∀ e, e ≠ d → e ≠ k → getLink t e = getLink s e) ∧ ∀ q ∈ unacked s d, OutMsg.frame q.dir q.toward q.fr ∈ t.out := by
  have htake : takeDetour s d lines = (unacked s d).foldl (fun s q => sendFrame s q.dir q.toward q.fr)
      (raiseEvt (setLink s d { getLink s d with detour := some k }) .coll 4 none d) := by
    rw [takeDetour, if_neg (by simp [hst, hdet]), hk]
  have hrep := raiseEvt_reported (setLink s d { getLink s d with detour := some k }) .coll 4 none d 0
  have hlink : ∀ e, getLink (raiseEvt (setLink s d { getLink s d with detour := some k }) .coll 4 none d) e =
      if d = e then { getLink s d with detour := some k } else getLink s e := fun e => by rw [hrep.link, getLink_setLink]
  have hway : wayOf (raiseEvt (setLink s d { getLink s d with detour := some k }) .coll 4 none d) d = k := by
    rw [wayOf, hlink, if_pos rfl, if_pos hst]
    rfl
  obtain ⟨hsent, hother, -, hall⟩ := foldl_sendFrame hway (qs := unacked s d) fun _ hq => unacked_dir hq
  dsimp only
  rw [htake]
  refine ⟨?_, ?_, ?_, fun e hed hek => ?_, hall⟩
  · rw [hother d hkd.symm, hlink, if_pos rfl]
  · rw [getReg, hsent.regs]
    exact getLsbD_raiseEvt _ .coll (by decide) ..
  · rw [hsent.mem, hrep.mem]
    rfl
  · rw [hother e hek, hlink, if_neg hed.symm]

theorem takeDetour_other {lines : List Nat} (hst : (getLink s d).st ≠ 3) : takeDetour s d lines = s := by
  rw [takeDetour, if_pos (by simp [hst])]

/-- A module notes for a job and stage the way in which their frames go on, and that alone. -/
theorem mem_relays (rels : List (W32 × Nat × Nat)) (job : W32) (stage : Nat) (out : Option Nat) (r : W32 × Nat × Nat) :
    r ∈ rels.filter (fun r => r.1 ≠ job || r.2.1 ≠ stage) ++ (out.map fun k => (job, stage, k)).toList ↔
      if r.1 ≠ job ∨ r.2.1 ≠ stage then r ∈ rels else out = some r.2.2 := by
  obtain ⟨j, g, k⟩ := r
  cases out with
  | none => by_cases hj : j = job <;> by_cases hg : g = stage <;> simp [hj, hg]
  | some m => by_cases hj : j = job <;> by_cases hg : g = stage <;> simp [hj, hg, eq_comm (a := k)]

end

/-! ## The claim about retraining and detours -/

theorem retraining : Retraining := by
  intro s who d v found hdark hd6
  dsimp only
  refine ⟨fun hadm => ?_, fun hadm hv hp => ?_, fun lines hst hdet k hk hax hw hin hfirst => ?_, fun lines hst => ?_, fun job stage out => ?_⟩
  · rw [exec_linkRetrain hdark, hadm]
    rfl
  · rw [exec_linkRetrain hdark, if_pos hadm, hv, directions_bit hd6]
    refine ⟨_, rfl, ?_⟩
    cases hdead : deadLink (getLink s d) with
    | true =>
      obtain ⟨hother, hlink⟩ := retrainDir_dead found hp hdead
      refine ⟨hother, fun _ => hlink, fun hw => ?_⟩
      rcases (linkWorks_iff s d).mp hw with h | h <;> simp [deadLink, h] at hdead
    | false =>
      obtain ⟨hother, hlink⟩ := retrainDir_working found hp hdead
      refine ⟨hother, fun h => ?_, hlink⟩
      simp only [deadLink, Bool.or_eq_false_iff, decide_eq_false_iff_not] at hdead
      exact absurd h (not_or.mpr hdead)
  · have hkd : k ≠ d := fun e => hax (by rw [e])
    obtain ⟨hlink, hshow, hmem, hother, hall⟩ := takeDetour_first hst hdet hkd (detourOf_first hk hax hw hin hfirst)
    exact ⟨_, exec_detourHop hdark lines, hlink, hshow, hmem, hother, fun l tile q hl hfree ht hq hdir hwait =>
      hall q (mem_unacked hl hfree ht hq hdir hwait)⟩
  · rw [exec_detourHop hdark, takeDetour_other hst]
  · refine ⟨_, exec_detourRelay hdark job stage out, fun e he => ?_, rfl, rfl, ?_, fun r hr => ?_, fun k => ?_⟩
    · rw [relayDetour, getLink_setLink, if_neg he.symm]
    · rw [relayDetour, getLink_setLink, if_pos rfl]
    · rw [relayDetour, getLink_setLink, if_pos rfl]
      exact (mem_relays ..).trans (by rw [if_pos hr])
    · rw [relayDetour, getLink_setLink, if_pos rfl]
      exact (mem_relays ..).trans (by rw [if_neg (by simp)])

end Sys2Proof.Machine
end

section
/-! SUPPORT. What the end of collectives and of looms leaves of an order that is on its way (R276): the events shown, the order of every loom, and which
collectives its tiles hold. One lemma for each operation, in the order in which they call one another. -/
namespace Sys2Proof.Machine
open Sys2Proof

/-! ## Held collectives -/

/-- The collectives of a tile that are held and have not ended, by strand and tag. -/
def heldOps (t : Tile) : List (Nat × BitVec 16) := (t.colls.filter fun o => o.waiting && o.status.isNone).map fun o => (o.strand, o.tag)

theorem mem_heldOps {t : Tile} {p : Nat × BitVec 16} : p ∈ heldOps t ↔ ∃ o ∈ t.colls, o.waiting = true ∧ o.status = none ∧ (o.strand, o.tag) = p := by
  simp [heldOps, and_assoc]

/-- A change of collectives that makes none of them one that is held. -/
theorem heldOps_map {t u : Tile} {g : CollOp → CollOp} (hu : u.colls = t.colls.map g)
    (hg : ∀ o, (g o).waiting = true → (g o).status = none → g o = o) : ∀ p ∈ heldOps u, p ∈ heldOps t := by
  intro p hp
  obtain ⟨q, hq, hw, hst, rfl⟩ := mem_heldOps.mp hp
  rw [hu] at hq
  obtain ⟨o, ho, rfl⟩ := List.mem_map.mp hq
  have hsame := hg o hw hst
  rw [hsame] at hw hst ⊢
  exact mem_heldOps.mpr ⟨o, ho, hw, hst, rfl⟩

theorem endColl_status (st : Byte) (o : CollOp) : (endColl st o).status ≠ none := by
  unfold endColl
  split
  · next h =>
    intro hn
    rw [hn] at h
    exact absurd h (by decide)
  · exact Option.some_ne_none st

/-! ## The relation -/

/-- The loom y has the order of x: the modes in force, those on their way, and from where on. -/
structure OrderAs (x y : Loom) : Prop where
  installHold : y.installHold = x.installHold
  modes : y.modes = x.modes
  newModes : y.newModes = x.newModes
  install : y.install = x.install

theorem OrderAs.refl (x : Loom) : OrderAs x x := ⟨rfl, rfl, rfl, rfl⟩

theorem OrderAs.trans {x y z : Loom} (h : OrderAs x y) (k : OrderAs y z) : OrderAs x z :=
  ⟨k.installHold.trans h.installHold, k.modes.trans h.modes, k.newModes.trans h.newModes, k.install.trans h.install⟩

/-- From s to t the collective events that are shown stay shown, every loom keeps its order, and no tile comes to hold a collective. -/
structure KeepsOrder (s t : State) : Prop where
  shown : ∀ b, (getReg s 0x00700008).getLsbD b = true → (getReg t 0x00700008).getLsbD b = true
  order : ∀ l, OrderAs (getLoom s l) (getLoom t l)
  held : ∀ k, ∀ p ∈ heldOps (getTile t k), p ∈ heldOps (getTile s k)

namespace KeepsOrder
variable {s t u : State} {α : Type}

theorem refl (s : State) : KeepsOrder s s := ⟨fun _ h => h, fun _ => .refl _, fun _ _ h => h⟩

theorem trans (h : KeepsOrder s t) (k : KeepsOrder t u) : KeepsOrder s u :=
  ⟨fun b hb => k.shown b (h.shown b hb), fun l => (h.order l).trans (k.order l), fun n p hp => h.held n p (k.held n p hp)⟩

/-- What changes neither registers nor looms nor tiles. -/
theorem same (h : KeepsOrder s t) (hr : u.regs = t.regs) (hl : u.looms = t.looms) (ht : u.tiles = t.tiles) : KeepsOrder s u :=
  h.trans ⟨fun b hb => by rwa [getReg, hr], fun l => by rw [getLoom, getLoom, hl]; exact .refl _, fun k p hp => by rwa [getTile, ht] at hp⟩

theorem foldl {g : State → α → State} (hg : ∀ u x, KeepsOrder s u → KeepsOrder s (g u x)) (l : List α) (h : KeepsOrder s t) :
    KeepsOrder s (l.foldl g t) := List.foldlRecOn l g h fun u hu x _ => hg u x hu

theorem ite {c : Prop} [Decidable c] (ht : KeepsOrder s t) (hu : KeepsOrder s u) : KeepsOrder s (if c then t else u) := by
  split
  · exact ht
  · exact hu

end KeepsOrder

section
variable {s u : State}

/-! ## Parts of the state -/

theorem modLoom_keepsOrder {l : Nat} {f : Loom → Loom} (hf : ∀ x, OrderAs x (f x)) (h : KeepsOrder s u) : KeepsOrder s (modLoom u l f) := by
  refine h.trans ⟨fun _ hb => hb, fun k => ?_, fun _ _ hp => hp⟩
  rw [getLoom_modLoom]
  split
  · next e =>
    subst e
    exact hf _
  · exact .refl _

theorem setLoom_keepsOrder {l : Nat} {x : Loom} (hx : OrderAs (getLoom u l) x) (h : KeepsOrder s u) : KeepsOrder s (setLoom u l x) := by
  refine h.trans ⟨fun _ hb => hb, fun k => ?_, fun _ _ hp => hp⟩
  rw [getLoom_setLoom]
  split
  · next e => exact e ▸ hx
  · exact .refl _

theorem modTile_keepsOrder {k : Nat} {f : Tile → Tile} (hf : ∀ t, ∀ p ∈ heldOps (f t), p ∈ heldOps t) (h : KeepsOrder s u) :
    KeepsOrder s (modTile u k f) := by
  refine h.trans ⟨fun _ hb => hb, fun _ => .refl _, fun j p hp => ?_⟩
  rw [getTile_modTile] at hp
  split at hp
  · next e => exact e ▸ hf _ p hp
  · exact hp

theorem modStrand_keepsOrder (a : Issuer) (f : Strand → Strand) (h : KeepsOrder s u) : KeepsOrder s (modStrand u a f) :=
  modTile_keepsOrder (f := fun t => { t with strands := tput t.strands a.strand (f (getStrand u a)) }) (fun _ _ hp => hp) h

theorem setReg_keepsOrder {o : Nat} {v : W64} (ho : o ≠ 0x00700008) (h : KeepsOrder s u) : KeepsOrder s (setReg u o v) :=
  h.trans ⟨fun b hb => by rwa [getReg_setReg, if_neg ho], fun _ => .refl _, fun _ _ hp => hp⟩

theorem raiseEvt_keepsOrder (src : Src) (bit : Nat) (loom : Option Nat) (unit detail : Nat) (h : KeepsOrder s u) :
    KeepsOrder s (raiseEvt u src bit loom unit detail) := by
  refine h.trans ⟨fun b hb => getLsbD_raiseEvt_of_shown hb .., fun l => ?_, fun k p hp => ?_⟩
  · rw [getLoom, getLoom, raiseEvt_looms u src bit loom unit detail]
    exact .refl _
  · rwa [getTile, raiseEvt_tiles u src bit loom unit detail] at hp

theorem modReq_keepsOrder (e : Nat) (f : Req → Req) (h : KeepsOrder s u) : KeepsOrder s (modReq u e f) := h.same rfl rfl rfl

theorem modWeave_keepsOrder (k : Nat) (f : Weave → Weave) (h : KeepsOrder s u) : KeepsOrder s (modWeave u k f) := h.same rfl rfl rfl

theorem modGen_keepsOrder (l : Nat) (f : GenLoom → GenLoom) (h : KeepsOrder s u) : KeepsOrder s (modGen u l f) :=
  modLoom_keepsOrder (fun _ => ⟨rfl, rfl, rfl, rfl⟩) h

theorem finish_keepsOrder (sess ring : Nat) (st : Byte) (result : List Byte) (h : KeepsOrder s u) : KeepsOrder s (finish u sess ring st result) :=
  h.same (finish_regs u sess ring st result) (finish_looms u sess ring st result) (finish_tiles u sess ring st result)

theorem capture_keepsOrder {r : Nat} (hr : r ≠ 0x00700008) (v : W64) {others : List (Nat × W64)} (ho : ∀ p ∈ others, p.1 ≠ 0x00700008)
    (h : KeepsOrder s u) : KeepsOrder s (capture u r v others) := by
  refine h.trans ⟨fun b hb => ?_, fun l => ?_, fun k p hp => ?_⟩
  · rwa [getReg_capture _ _ hr ho]
  · rw [getLoom, getLoom, capture_looms]
    exact .refl _
  · rwa [getTile, capture_tiles] at hp

/-! ## Semaphores -/

theorem serveShared_keepsOrder (sem n : Nat) (h : KeepsOrder s u) : KeepsOrder s (serveShared u sem n) := by
  induction n generalizing u with
  | zero => exact h
  | succ n ih =>
    unfold serveShared
    split
    · exact h
    · split
      · exact h
      · exact .ite (ih (modStrand_keepsOrder _ _ (h.same rfl rfl rfl))) h

theorem serveSem_keepsOrder (sem : Nat) (h : KeepsOrder s u) : KeepsOrder s (serveSem u sem) := by
  unfold serveSem
  split
  · exact h
  · exact serveShared_keepsOrder _ _ h

theorem leaveQueues_keepsOrder (l : Nat) (h : KeepsOrder s u) : KeepsOrder s (leaveQueues u l) := by
  unfold leaveQueues
  refine .foldl (fun _ => serveSem_keepsOrder) _ ?_
  exact .same (t := modLoom u l fun x => { x with semWaiters := [] }) (modLoom_keepsOrder (fun _ => ⟨rfl, rfl, rfl, rfl⟩) h) rfl rfl rfl

theorem returnUnits_keepsOrder (l : Nat) (h : KeepsOrder s u) : KeepsOrder s (returnUnits u l) := by
  unfold returnUnits
  refine .ite (.foldl (fun _ => serveSem_keepsOrder) _ (raiseEvt_keepsOrder _ _ _ _ _ (modLoom_keepsOrder (fun _ => ⟨rfl, rfl, rfl, rfl⟩) ?_))) h
  exact h.same rfl rfl rfl

/-! ## Collectives -/

theorem modTileOf_keepsOrder (l k : Nat) {f : Tile → Tile} (hf : ∀ t, ∀ p ∈ heldOps (f t), p ∈ heldOps t) (h : KeepsOrder s u) :
    KeepsOrder s (modTileOf u l k f) := by
  unfold modTileOf
  dsimp only
  split
  · exact modLoom_keepsOrder (fun _ => ⟨rfl, rfl, rfl, rfl⟩) h
  · have tiles : KeepsOrder s (if (getLoom u l).holder || (getLoom u l).lastHolder then modTile u k f else u) := .ite (modTile_keepsOrder hf h) h
    exact .ite tiles (modLoom_keepsOrder (fun _ => ⟨rfl, rfl, rfl, rfl⟩) tiles)

theorem Sent.keepsOrder {v : State} (hv : Sent u v) (h : KeepsOrder s u) : KeepsOrder s v := h.same hv.regs hv.looms hv.tiles

theorem sendAborts_keepsOrder (l tile : Nat) (o : CollOp) (st : Byte) (h : KeepsOrder s u) : KeepsOrder s (sendAborts u l tile o st) := by
  unfold sendAborts
  refine .foldl (fun v q h => (sendFrame_sent v q.dir q.toward q.fr).keepsOrder h) _ (modTileOf_keepsOrder _ _ ?_ h)
  exact fun _ _ hp => hp

/-- An abort ends the members' collectives; it holds none. -/
theorem abortColl_keepsOrder (l tile : Nat) (o : CollOp) (st : Byte) (h : KeepsOrder s u) : KeepsOrder s (abortColl u l tile o st) := by
  unfold abortColl
  refine raiseEvt_keepsOrder _ _ _ _ _ (sendAborts_keepsOrder _ _ _ _ (.foldl (fun _ _ h => ?_) _ h))
  refine .ite h (modTileOf_keepsOrder _ _ (fun t => ?_) h)
  split
  · refine heldOps_map rfl fun q _ hst => ?_
    split at hst
    · exact (endColl_status st q hst).elim
    · next hne => exact if_neg hne
  · split
    · exact fun _ hp => hp
    · exact fun _ hp => hp

theorem abortColls_keepsOrder (l : Nat) (st : Byte) (h : KeepsOrder s u) : KeepsOrder s (abortColls u l st) :=
  .foldl (fun _ _ => .foldl (fun _ _ => abortColl_keepsOrder _ _ _ _) _) _ h

/-! ## Requests -/

theorem count48_keepsOrder {o n : Nat} (ho : o ≠ 0x00700008) (h : KeepsOrder s u) : KeepsOrder s (count48 u o n) := setReg_keepsOrder ho h

/-- The count of discarded drafts is not the collective unit's status, whatever the loom's number. -/
theorem rejectDrafts_keepsOrder (l n : Nat) (h : KeepsOrder s u) : KeepsOrder s (rejectDrafts u l n) :=
  count48_keepsOrder (by simp only [srvReg]; omega) h

theorem dropStep_keepsOrder (l : Nat) (h : KeepsOrder s u) : KeepsOrder s (dropStep u l) := by
  unfold dropStep
  dsimp only
  split
  · exact h
  · refine modLoom_keepsOrder (fun _ => ⟨rfl, rfl, rfl, rfl⟩) (modLoom_keepsOrder (fun _ => ⟨rfl, rfl, rfl, rfl⟩) ?_)
    split
    · exact modLoom_keepsOrder (fun _ => ⟨rfl, rfl, rfl, rfl⟩) (rejectDrafts_keepsOrder _ _ h)
    · exact rejectDrafts_keepsOrder _ _ h

theorem putOut_keepsOrder (e kind token pos pick st logprob : Nat) (h : KeepsOrder s u) : KeepsOrder s (putOut u e kind token pos pick st logprob) :=
  h.same (putOut_regs ..) (putOut_looms ..) (putOut_tiles ..)

theorem putRecord_keepsOrder (k : Nat) (bs : List Byte) (h : KeepsOrder s u) : KeepsOrder s (putRecord u k bs) := h.same rfl rfl rfl

theorem endReq_keepsOrder (e : Nat) (st : Byte) (h : KeepsOrder s u) : KeepsOrder s (endReq u e st) := by
  unfold endReq
  refine .ite h ?_
  have taken : KeepsOrder s (takeEv u).2 := h.same rfl rfl rfl
  generalize takeEv u = p at taken ⊢
  dsimp only
  refine modReq_keepsOrder _ _ ?_
  split
  case' h_1 => refine modLoom_keepsOrder (fun _ => ⟨rfl, rfl, rfl, rfl⟩) ?_
  all_goals
    split
    · exact .ite (putOut_keepsOrder _ _ _ _ _ _ _ taken) (putRecord_keepsOrder _ _ (putOut_keepsOrder _ _ _ _ _ _ _ taken))
    · exact putOut_keepsOrder _ _ _ _ _ _ _ taken

theorem endAllReqs_keepsOrder (l : Nat) (st : Byte) (h : KeepsOrder s u) : KeepsOrder s (endAllReqs u l st) :=
  .foldl (fun _ _ => endReq_keepsOrder _ _) _ (dropStep_keepsOrder l h)

/-! ## Weaves -/

theorem wrN_keepsOrder (a : Nat) (bs : List Byte) (h : KeepsOrder s u) : KeepsOrder s (wrN u a bs) := h.same rfl rfl rfl

theorem wrData_keepsOrder (a : Nat) (bs : List Byte) (h : KeepsOrder s u) : KeepsOrder s (wrData u a bs) :=
  h.same (wrData_regs ..) (wrData_looms ..) (wrData_tiles ..)

theorem objWrite_keepsOrder (x : Loom) (obj off : Nat) (bs : List Byte) (h : KeepsOrder s u) : KeepsOrder s (objWrite u x obj off bs) :=
  h.same (objWrite_regs ..) (objWrite_looms ..) (objWrite_tiles ..)

theorem putCurPick_keepsOrder (k pick : Nat) (h : KeepsOrder s u) : KeepsOrder s (putCurPick u k pick) :=
  .foldl (fun _ _ h => .ite (wrN_keepsOrder _ _ h) h) _ h

theorem startPick_keepsOrder (k : Nat) (h : KeepsOrder s u) : KeepsOrder s (startPick u k) := by
  unfold startPick
  refine raiseEvt_keepsOrder _ _ _ _ _ (putCurPick_keepsOrder _ _ (.foldl (fun _ _ h => ?_) _ (modWeave_keepsOrder _ _ h)))
  exact modGen_keepsOrder _ _ (objWrite_keepsOrder _ _ _ _ h)

theorem publishIdle_keepsOrder (k : Nat) (h : KeepsOrder s u) : KeepsOrder s (publishIdle u k) := by
  have noted (f : Weave → Weave) (bit l : Nat) : KeepsOrder s (raiseEvt (modWeave u k f) .shed bit (some l)) :=
    raiseEvt_keepsOrder _ _ _ _ _ (modWeave_keepsOrder _ _ h)
  unfold publishIdle
  exact .ite (noted ..) (.ite (startPick_keepsOrder k h) (.ite (noted ..) (noted ..)))

theorem pubIdle_keepsOrder (k : Nat) (h : KeepsOrder s u) : KeepsOrder s (pubIdle u k) := by
  unfold pubIdle
  exact .ite (publishIdle_keepsOrder _ (h.same rfl rfl rfl)) (h.same rfl rfl rfl)

theorem abandonTaking_keepsOrder (k l : Nat) (h : KeepsOrder s u) : KeepsOrder s (abandonTaking u k l) := by
  unfold abandonTaking
  exact .ite (raiseEvt_keepsOrder _ _ _ _ _ (modGen_keepsOrder _ _ (modWeave_keepsOrder _ _ h))) h

theorem dropSource_keepsOrder (k : Nat) (h : KeepsOrder s u) : KeepsOrder s (dropSource u k) :=
  pubIdle_keepsOrder k (modWeave_keepsOrder _ _ (.foldl (fun _ _ => abandonTaking_keepsOrder _ _) _ h))

theorem abandonSource_keepsOrder (k : Nat) (h : KeepsOrder s u) : KeepsOrder s (abandonSource u k) :=
  .ite (dropSource_keepsOrder k (dropSource_keepsOrder k h)) (dropSource_keepsOrder k h)

theorem shedEnter_keepsOrder (l : Nat) (h : KeepsOrder s u) : KeepsOrder s (shedEnter u l) := by
  unfold shedEnter
  have left : KeepsOrder s (match genWeave u l with
      | some (k, w) => if w.shared || (getLoom u l).st.takesPick then u else abandonTaking u k l
      | none => u) := by
    split
    · exact .ite h (abandonTaking_keepsOrder _ _ h)
    · exact h
  dsimp only
  split
  · exact .ite (abandonSource_keepsOrder _ left) left
  · exact left

/-! ## Checkpoints and restores -/

theorem endCkpt_keepsOrder (l : Nat) (st : Byte) (result : List Byte) (h : KeepsOrder s u) : KeepsOrder s (endCkpt u l st result) := by
  unfold endCkpt
  split
  · exact h
  · dsimp only
    split
    · exact finish_keepsOrder _ _ _ _ (modLoom_keepsOrder (fun _ => ⟨rfl, rfl, rfl, rfl⟩) h)
    · exact modLoom_keepsOrder (fun _ => ⟨rfl, rfl, rfl, rfl⟩) h

theorem endRestore_keepsOrder (l : Nat) (st : Byte) (result : List Byte) (h : KeepsOrder s u) : KeepsOrder s (endRestore u l st result) := by
  unfold endRestore
  split
  · exact h
  · exact finish_keepsOrder _ _ _ _ (modLoom_keepsOrder (fun _ => ⟨rfl, rfl, rfl, rfl⟩) h)

theorem endWith_keepsOrder (l : Nat) (st collSt : Byte) (h : KeepsOrder s u) : KeepsOrder s (endWith u l st collSt) :=
  endRestore_keepsOrder _ _ _ (endCkpt_keepsOrder _ _ _ (shedEnter_keepsOrder _ (endAllReqs_keepsOrder _ _ (abortColls_keepsOrder _ _ h))))

/-! ## A loom that stops, adders that fail -/

theorem recordFault_orderAs (x : Loom) (insn : W64) (status : Byte) (tile strand pc : Nat) : OrderAs x (recordFault x insn status tile strand pc) := by
  unfold recordFault
  split <;> exact ⟨rfl, rfl, rfl, rfl⟩

theorem loomUncorr_keepsOrder (l tile strand pc : Nat) (insn : W64) (h : KeepsOrder s u) : KeepsOrder s (loomUncorr u l tile strand pc insn) := by
  have hfault := recordFault_orderAs (getLoom u l) insn stUncorr tile strand pc
  unfold loomUncorr
  dsimp only
  refine .ite h (.ite (setLoom_keepsOrder hfault h) ?_)
  refine endWith_keepsOrder _ _ _ (returnUnits_keepsOrder _ (leaveQueues_keepsOrder _ (raiseEvt_keepsOrder _ _ _ _ _ (setLoom_keepsOrder ?_ h))))
  exact hfault.trans ⟨rfl, rfl, rfl, rfl⟩

theorem ckptTrigger_keepsOrder {v : State} {l step len : Nat} {buffer : W64} {who : Option (Nat × Nat)} (h : KeepsOrder s u)
    (hv : ckptTrigger u l step buffer len who = .ok v) : KeepsOrder s v := by
  unfold ckptTrigger at hv
  dsimp only at hv
  split_ifs at hv <;> cases hv <;> exact modLoom_keepsOrder (fun _ => ⟨rfl, rfl, rfl, rfl⟩) (h.same rfl rfl rfl)

theorem advise_keepsOrder (cause unit : Nat) (h : KeepsOrder s u) : KeepsOrder s (advise u cause unit) := by
  unfold advise
  dsimp only
  refine .foldl (fun v l h => ?_) _ ?_
  · split
    · split
      · next hv => exact ckptTrigger_keepsOrder h hv
      · exact h
    · exact h
  · have logged (f : Svc → Svc) (v w : W64) : KeepsOrder s (capture (orReg (modSvc u f) Src.svc.status 1) 0x40 v [(0x38, w)]) := by
      refine capture_keepsOrder (by decide) v (fun p hp => ?_) (setReg_keepsOrder (by decide) (h.same rfl rfl rfl))
      rw [List.mem_singleton.mp hp]
      dsimp only
      omega
    refine .ite (.foldl (fun v q h => .ite ?_ h) _ (logged _ _ _)) (logged _ _ _)
    exact h.same (evtToSession_regs ..) (evtToSession_looms ..) (evtToSession_tiles ..)

theorem noteCause_keepsOrder (cause unit n : Nat) (always : Bool) (h : KeepsOrder s u) : KeepsOrder s (noteCause u cause unit n always) := by
  unfold noteCause adviseOnce
  exact .ite (.ite (h.same rfl rfl rfl) (advise_keepsOrder _ _ (h.same rfl rfl rfl))) (h.same rfl rfl rfl)

theorem adderFail_keepsOrder {die : Nat} (adder : Nat) (h : KeepsOrder s u) : KeepsOrder s (adderFail u die adder) := by
  unfold adderFail
  dsimp only
  refine .ite h ?_
  have noted : ∀ v : W64, KeepsOrder s (noteCause (raiseEvt (raiseEvt (capture (setReg u (adderReg die) v) 0x00700030 (BitVec.ofNat 64 (die * 2 ^ 8 + adder))
      [(0x00700020, tget 0 (setReg u (adderReg die) v).adders.lastPass (die * 4 + adder)), (0x00700028, (setReg u (adderReg die) v).tlm.timebase)])
      .coll 0 none die) .coll 1 none die) 0x06 die 1) := fun v => by
    refine noteCause_keepsOrder _ _ _ _ (raiseEvt_keepsOrder _ _ _ _ _ (raiseEvt_keepsOrder _ _ _ _ _ (capture_keepsOrder (by decide) _ (fun p hp => ?_)
      (setReg_keepsOrder (by simp only [adderReg]; omega) h))))
    simp only [List.mem_cons, List.not_mem_nil, or_false] at hp
    rcases hp with rfl | rfl <;> dsimp only <;> omega
  exact .ite (.foldl (fun _ l => loomUncorr_keepsOrder l 0 0 0 0) _ (noted _)) (noted _)

end
end Sys2Proof.Machine
end

section
/-! SUPPORT. What collectives at work leave of an order on its way (R276): the operations of a member, from a write that takes an uncopied block first to
the start of a collective and the frames it uses. -/
namespace Sys2Proof.Machine
open Sys2Proof

section
variable {s u : State}

/-! ## Reads and writes of a member -/

theorem drawFree_keepsOrder (n : Nat) (h : KeepsOrder s u) : KeepsOrder s (drawFree u n).2 := h.same rfl rfl rfl

theorem memError_keepsOrder (evts : List Nat) (stopped owner : Option Nat) (addr stack tile unit : Nat) (thrum : Bool) (h : KeepsOrder s u) :
    KeepsOrder s (memError u evts stopped owner addr stack tile unit thrum) := by
  unfold memError
  refine .foldl (fun v b h => raiseEvt_keepsOrder _ _ _ _ _ h) _ (capture_keepsOrder (by decide) _ (fun p hp => ?_) h)
  simp only [List.mem_cons, List.not_mem_nil, or_false] at hp
  rcases hp with rfl | rfl <;> dsimp only <;> omega

theorem meetUnits_keepsOrder (consumer : Option Nat) (rs : List (Nat × Nat)) (h : KeepsOrder s u) : KeepsOrder s (meetUnits u consumer rs) := by
  unfold meetUnits
  refine .foldl (fun v k h => ?_) _ h
  unfold reportUncorr
  exact memError_keepsOrder _ _ _ _ _ _ _ _ (setReg_keepsOrder (by simp only [stkReg]; omega) h)

/-- A write that waits counts in the registers of its weave, none of which is the collective unit's status. -/
theorem holdCopy_keepsOrder (who : List Nat) (kb : Nat × Nat) (h : KeepsOrder s u) : KeepsOrder s (holdCopy u who kb) := by
  unfold holdCopy
  dsimp only
  refine .ite h (raiseEvt_keepsOrder _ _ _ _ _ (count48_keepsOrder (by simp only [shedReg]; omega) (count48_keepsOrder (by simp only [shedReg]; omega) ?_)))
  exact h.same rfl rfl rfl

theorem takeBlock_keepsOrder (k b : Nat) (h : KeepsOrder s u) : KeepsOrder s (takeBlock u k b) := by
  unfold takeBlock
  dsimp only
  split
  · exact h
  · refine .ite h (.ite ?_ ?_)
    · exact .foldl (fun v g h => abandonTaking_keepsOrder _ _ (loomUncorr_keepsOrder _ _ _ _ _ h)) _ (meetUnits_keepsOrder _ _ (modWeave_keepsOrder _ _ h))
    · exact .foldl (fun v g h => objWrite_keepsOrder _ _ _ _ h) _ (modWeave_keepsOrder _ _ h)

theorem copyFirst_keepsOrder (who : List Nat) (a n : Nat) (h : KeepsOrder s u) : KeepsOrder s (copyFirst u who a n) := by
  unfold copyFirst
  generalize 8 * (n / 65536 + 2) + 256 = fuel
  induction fuel generalizing u with
  | zero => exact h
  | succ fuel ih =>
    unfold copyFirstGo
    split
    · exact h
    · exact ih (takeBlock_keepsOrder _ _ (holdCopy_keepsOrder _ _ h))

end

/-! ## A member's step -/

/-- What a member's step comes to from s: an order on its way stays, and the collective is not held. -/
structure RunsOn (s : State) (c : CollOut) : Prop where
  state : KeepsOrder s c.s
  begun : c.op.waiting = false

section
variable {s : State} {x : Loom} {c : CollOut}

theorem RunsOn.foldl {α : Type} {g : CollOut → α → CollOut} (hg : ∀ c a, RunsOn s c → RunsOn s (g c a)) (l : List α) (h : RunsOn s c) :
    RunsOn s (l.foldl g c) := List.foldlRecOn l g h fun c hc a _ => hg c a hc

theorem RunsOn.ite {p : Prop} [Decidable p] {d : CollOut} (hc : RunsOn s c) (hd : RunsOn s d) : RunsOn s (if p then c else d) := by
  split
  · exact hc
  · exact hd

/-- A step that changes neither the state nor whether the collective is held. -/
theorem RunsOn.same {d : CollOut} (h : RunsOn s c) (hs : d.s = c.s) (hw : d.op.waiting = c.op.waiting) : RunsOn s d :=
  ⟨hs ▸ h.state, hw.trans h.begun⟩

theorem startScalar_runsOn (h : RunsOn s c) : RunsOn s (startScalar x c) := by
  unfold startScalar
  dsimp only
  split <;> exact h.same rfl rfl

theorem startGather_runsOn (h : RunsOn s c) : RunsOn s (startGather x c) := by
  unfold startGather
  dsimp only
  split
  · exact h
  · exact h.same rfl rfl
  · split
    · exact h
    · exact h.same rfl rfl

theorem finishReduce_runsOn (h : RunsOn s c) : RunsOn s (finishReduce x c) := by
  unfold finishReduce
  dsimp only
  have summed : ∀ d : CollOut, RunsOn s d → ∀ b : Bool, RunsOn s (if b then startScalar x d else d) := fun d hd b =>
    .ite (startScalar_runsOn hd) hd
  refine summed _ (.ite (startGather_runsOn ?_) ?_) _
  · exact h.same rfl rfl
  · exact h.same rfl rfl

theorem compressChunk_runsOn (chunk : Nat) (h : RunsOn s c) : RunsOn s (compressChunk x c chunk).1 := by
  unfold compressChunk
  dsimp only
  split
  · exact h.same rfl rfl
  · refine .mk ?_ h.begun
    dsimp only
    generalize List.zip (residualWords c.s.variant x c.op chunk) _ = ps
    refine .foldl (fun v p hv => ?_) _ h.state
    split
    · exact wrN_keepsOrder _ _ (copyFirst_keepsOrder _ _ _ hv)
    · exact hv

theorem startStage_runsOn (h : RunsOn s c) : RunsOn s (startStage x c) := by
  unfold startStage
  dsimp only
  split
  · exact finishReduce_runsOn h
  · next n p _ =>
    split
    · refine .foldl (fun d r hd => .foldl (fun d k hd => ?_) _ hd) _ h
      have hchunk := compressChunk_runsOn (x := x) (c.op.region.getD (r * n + k) 0) hd
      generalize compressChunk x d (c.op.region.getD (r * n + k) 0) = q at hchunk ⊢
      exact .ite (hchunk.same rfl rfl) (hchunk.same rfl rfl)
    · exact h.same rfl rfl

theorem advanceStage_runsOn (h : RunsOn s c) : RunsOn s (advanceStage x c) := by
  unfold advanceStage
  dsimp only
  split
  · exact h
  · exact .ite h (startStage_runsOn (h.same rfl rfl))

theorem endRound_runsOn (r n p : Nat) (sum : List W32) (h : RunsOn s c) : RunsOn s (endRound x c r n p sum) :=
  advanceStage_runsOn (h.same rfl rfl)

theorem relayOnce_runsOn (key : Nat × Nat × Nat) {send : CollOut → CollOut} (hs : RunsOn s (send c)) (h : RunsOn s c) :
    RunsOn s (relayOnce x c key send) := by
  unfold relayOnce
  exact .ite h (advanceStage_runsOn (hs.same rfl rfl))

/-! ## Frames that are used -/

/-- Whatever comes of a frame that can be used. -/
def Gives (s : State) (r : Option CollOut) : Prop := ∀ d, r = some d → RunsOn s d

theorem Gives.none : Gives s none := fun _ hd => nomatch hd

theorem Gives.some (h : RunsOn s c) : Gives s (some c) := fun _ hd => Option.some.inj hd ▸ h

theorem Gives.ite {p : Prop} [Decidable p] {a b : Option CollOut} (ha : Gives s a) (hb : Gives s b) : Gives s (if p then a else b) := by
  split
  · exact ha
  · exact hb

variable {f : Frame}

theorem usePartial_runsOn (h : RunsOn s c) : Gives s (usePartial x c f) := by
  unfold usePartial
  dsimp only
  split
  · exact .none
  · refine .ite .none (.ite (.some h) (.ite (.ite (.some (endRound_runsOn _ _ _ _ (h.same rfl rfl))) (.some (relayOnce_runsOn _ (h.same rfl rfl) h)))
      (.ite ?_ (.some (relayOnce_runsOn _ (h.same rfl rfl) h)))))
    have joined : ∀ (b : Bool) (cs : List (Nat × Nat × Nat × List W32)), (if b then c.op else { c.op with contribs := cs }).waiting = c.op.waiting :=
      fun b _ => by cases b <;> rfl
    exact .ite (.some (endRound_runsOn _ _ _ _ (h.same rfl (joined _ _)))) (.some (h.same rfl (joined _ _)))

theorem useContrib_runsOn (h : RunsOn s c) : Gives s (useContrib x c f) := by
  unfold useContrib
  dsimp only
  split
  · exact .none
  · refine .ite .none (.ite (.some (relayOnce_runsOn _ (h.same rfl rfl) h)) (.ite (.some h) (.ite (.some (h.same rfl rfl)) (.some ?_))))
    exact endRound_runsOn _ _ _ _ (h.same rfl rfl)

theorem useFinal_runsOn (h : RunsOn s c) : Gives s (useFinal x c f) := by
  unfold useFinal
  dsimp only
  split
  · split
    · exact .none
    · refine .ite .none (.ite (.some h) (.ite (.some (h.same rfl rfl)) (.some (startGather_runsOn ?_))))
      exact h.same rfl rfl
  · exact .none

theorem useScalar_runsOn (h : RunsOn s c) : Gives s (useScalar x c f) := by
  unfold useScalar
  dsimp only
  split
  · exact .none
  · refine .ite .none (.ite (.some h) (.ite (.some (h.same rfl rfl)) (.some (startScalar_runsOn ?_))))
    exact h.same rfl rfl

theorem x2xDone_runsOn (l tile : Nat) (h : RunsOn s c) : RunsOn s (x2xDone s l tile c) := by
  unfold x2xDone
  dsimp only
  refine .ite h (.ite (.ite h (h.same rfl rfl)) ?_)
  split
  · exact h.same rfl rfl
  · split
    · exact h
    · exact .ite h (h.same rfl rfl)

theorem returnRows_runsOn (l tile member base tokens : Nat) (h : RunsOn s c) : RunsOn s (returnRows s l tile c member base tokens) := by
  unfold returnRows
  dsimp only
  split
  · exact h.same rfl rfl
  · exact h

theorem x2xSendRows_runsOn (l e n start : Nat) (h : RunsOn s c) : RunsOn s (x2xSendRows s l c e n start) := h.same rfl rfl

/-- Dropped rows are counted and shown. -/
theorem x2xAdmit_runsOn (l e : Nat) (h : RunsOn s c) : RunsOn s (x2xAdmit s l c e).1 := by
  unfold x2xAdmit
  dsimp only
  refine .mk (.ite h.state (raiseEvt_keepsOrder _ _ _ _ _ (modLoom_keepsOrder (fun _ => ⟨rfl, rfl, rfl, rfl⟩) h.state))) h.begun

theorem useCounts_runsOn (l tile : Nat) (h : RunsOn s c) : RunsOn s (useCounts s l tile c f).1 := by
  unfold useCounts
  dsimp only
  split
  · split
    · exact h
    · split
      · exact x2xDone_runsOn _ _ (x2xAdmit_runsOn _ _ (h.same rfl rfl))
      · exact h.same rfl rfl
  · split
    · exact h
    · refine x2xDone_runsOn _ _ (.ite (h.same rfl rfl) (x2xSendRows_runsOn _ _ _ _ (h.same rfl rfl)))
  · split
    · split
      · exact h
      · exact x2xDone_runsOn _ _ (returnRows_runsOn _ _ _ _ _ (h.same rfl rfl))
    · split
      · exact h
      · exact x2xDone_runsOn _ _ (h.same rfl rfl)

theorem useRow_runsOn (l tile : Nat) (h : RunsOn s c) : Gives s (useRow s l tile c f) := by
  unfold useRow
  dsimp only
  refine .ite (.some h) (.ite (.ite .none (.some (x2xDone_runsOn _ _ (h.same rfl rfl)))) ?_)
  split
  · exact .some h
  · exact .some (x2xDone_runsOn _ _ (h.same rfl rfl))

theorem useMove_runsOn (l : Nat) (h : RunsOn s c) : RunsOn s (useMove s l c f) := by
  unfold useMove
  dsimp only
  exact .ite (.ite h (h.same rfl rfl)) (.ite h (h.same rfl rfl))

theorem Gives.map {r : Option CollOut} (h : Gives s r) {c : CollOut} {bad b : Bool} (hc : r.map (·, b) = Option.some (c, bad)) : RunsOn s c := by
  obtain ⟨d, hd, hpair⟩ := Option.map_eq_some_iff.mp hc
  obtain ⟨rfl, -⟩ := Prod.mk.injEq .. ▸ hpair
  exact h d hd

/-- The use of a frame. -/
theorem frameUse_runsOn {l tile : Nat} {o : CollOp} {bad : Bool} (ho : o.waiting = false) (hc : frameUse s l tile o f = some (c, bad)) : RunsOn s c := by
  have h : RunsOn s { s, op := o } := ⟨.refl s, ho⟩
  unfold frameUse at hc
  dsimp only at hc
  split at hc
  · exact (usePartial_runsOn h).map hc
  · exact (useFinal_runsOn h).map hc
  · exact (useContrib_runsOn h).map hc
  · split at hc
    · exact (useRow_runsOn _ _ h).map hc
    · cases hc
      exact useMove_runsOn _ h
  · simp only [Option.some.injEq] at hc
    rw [show c = (useCounts s l tile { s, op := o } f).1 by rw [hc]]
    exact useCounts_runsOn _ _ h
  · exact (useScalar_runsOn h).map hc
  · cases hc

/-- The start of a collective. -/
theorem collStart_runsOn {l : Nat} {o : CollOp} (ho : o.waiting = false) : RunsOn s (collStart s l o).1 := by
  have h : RunsOn s { s, op := { o with region := List.range (fullChunks o) } } := ⟨.refl s, ho⟩
  unfold collStart
  dsimp only
  split
  case h_1 | h_2 =>
    split
    · exact .ite (startScalar_runsOn (h.same rfl rfl)) (h.same rfl rfl)
    · exact startStage_runsOn h
  case h_3 =>
    split
    · exact h.same rfl rfl
    · exact startGather_runsOn (h.same rfl rfl)
  case h_4 => split <;> exact h.same rfl rfl
  case h_5 =>
    split
    · exact h.same rfl rfl
    · split
      · exact h.same rfl rfl
      · split <;> exact h.same rfl rfl

end

/-! ## The frames of a tile and the start of what it holds -/

section
variable {s u : State}

theorem driveTile_keepsOrder (l tile : Nat) (h : KeepsOrder s u) : KeepsOrder s (driveTile l u tile) := by
  unfold driveTile
  refine .foldl (fun v q h => .ite ((sendFrame_sent _ q.dir q.toward q.fr).keepsOrder (modTileOf_keepsOrder _ _ ?_ h)) h) _ h
  exact fun _ _ hp => hp

theorem collPut_keepsOrder {l tile : Nat} {c : CollOut} (hc : c.op.waiting = false) (h : KeepsOrder s c.s) : KeepsOrder s (collPut l tile c) := by
  have put : KeepsOrder s (driveTile l (modTile c.s tile fun t => { t with
      colls := t.colls.map fun q => if q.strand = c.op.strand && q.tag = c.op.tag then c.op else q
      selfbox := t.selfbox ++ (c.sent.filter (toSelf c.op)).map (·.2)
      sentFrames := t.sentFrames ++ (c.sent.filter fun q => !toSelf c.op q).map fun q => outFrame c.s (getLoom c.s l) c.op q.1 q.2 }) tile) := by
    refine driveTile_keepsOrder _ _ (modTile_keepsOrder (fun t => heldOps_map rfl fun q hw _ => ?_) h)
    split at hw
    · rw [hc] at hw
      cases hw
    · next hne => exact if_neg hne
  unfold collPut
  refine .ite put (loomUncorr_keepsOrder _ _ _ _ _ (abortColl_keepsOrder _ _ _ _ (modTile_keepsOrder (fun t => heldOps_map rfl fun q _ hst => ?_) put)))
  split at hst
  · exact (endColl_status _ q hst).elim
  · next hne => exact if_neg hne

theorem residueFail_keepsOrder (l tile : Nat) (o : CollOp) (h : KeepsOrder s u) : KeepsOrder s (residueFail u l tile o) := by
  have aborted : KeepsOrder s (abortColl (raiseEvt (drawFree u 1).2 .coll 2 (some l) (dieOfBay (bayOf tile))) l tile o stUncorr) :=
    abortColl_keepsOrder _ _ _ _ (raiseEvt_keepsOrder _ _ _ _ _ (drawFree_keepsOrder _ h))
  unfold residueFail
  dsimp only
  split
  · exact aborted
  · exact adderFail_keepsOrder _ aborted

theorem tryFrame_keepsOrder {l tile : Nat} {m : InFrame} {v : State} (h : KeepsOrder s u) (hv : tryFrame u l tile m = some v) : KeepsOrder s v := by
  unfold tryFrame at hv
  dsimp only at hv
  split at hv
  · next o _ =>
    split_ifs at hv with _ hwait
    · exact Option.some.inj hv ▸ h
    · exact Option.some.inj hv ▸ abortColl_keepsOrder _ _ _ _ h
    · exact Option.some.inj hv ▸ h
    · split at hv
      · cases hv
      · next c bad huse =>
        have hrun := frameUse_runsOn (by simpa using hwait) huse
        have hput : KeepsOrder s (collPut l tile c) := collPut_keepsOrder hrun.begun (h.trans hrun.state)
        split_ifs at hv
        · exact Option.some.inj hv ▸ residueFail_keepsOrder _ _ _ h
        · exact Option.some.inj hv ▸ abortColl_keepsOrder _ _ _ _ hput
        · exact Option.some.inj hv ▸ hput
  · split_ifs at hv
    exact Option.some.inj hv ▸ h

theorem nextFrame_keepsOrder {l tile : Nat} {own : Bool} {m : InFrame} {v : State} (h : KeepsOrder s u) (hv : nextFrame u l tile = some (own, m, v)) :
    KeepsOrder s v := by
  have used : ∀ (b : Bool) (m' : InFrame), (tryFrame u l tile m').map (fun s' => (b, m', s')) = some (own, m, v) → KeepsOrder s v := by
    intro b m' he
    obtain ⟨w, hw, hpair⟩ := Option.map_eq_some_iff.mp he
    cases hpair
    exact tryFrame_keepsOrder h hw
  unfold nextFrame at hv
  dsimp only at hv
  split at hv
  · next hself =>
    obtain ⟨f, -, he⟩ := List.exists_of_findSome?_eq_some hself
    cases hv
    exact used _ _ he
  · obtain ⟨m', -, he⟩ := List.exists_of_findSome?_eq_some hv
    exact used _ _ he

/-- An answer to a frame: the fields that name what it answers, a sender of its own, no payload and a fresh CRC. -/
theorem answerFrame_eq (u : State) (l tile : Nat) (f : Frame) (kind : Nat) : ∃ n dir sender job, answerFrame u l tile f kind =
    sendFrame { u with free := n } dir f.sender.toNat
      (sealFrame { f with jobId := job, kind := BitVec.ofNat 4 kind, len := 0, side := 0, sender, payload := [] }) := by
  unfold answerFrame
  dsimp only
  split
  · exact ⟨u.free, _, _, _, rfl⟩
  · split
    · exact ⟨u.free, _, _, _, rfl⟩
    · split
      · exact ⟨u.free, _, _, _, rfl⟩
      · exact ⟨u.free + 1, _, _, _, rfl⟩

theorem answerFrame_keepsOrder (l tile : Nat) (f : Frame) (kind : Nat) (h : KeepsOrder s u) : KeepsOrder s (answerFrame u l tile f kind) := by
  obtain ⟨n, dir, sender, job, heq⟩ := answerFrame_eq u l tile f kind
  rw [heq]
  exact (sendFrame_sent _ _ _ _).keepsOrder (h.same rfl rfl rfl)

theorem settleColls_keepsOrder (l tile fuel : Nat) (h : KeepsOrder s u) : KeepsOrder s (settleColls l tile fuel u) := by
  induction fuel generalizing u with
  | zero => exact h
  | succ fuel ih =>
    unfold settleColls
    split
    · exact h
    · next hnext =>
      refine ih (modTile_keepsOrder ?_ (nextFrame_keepsOrder h hnext))
      exact fun _ _ hp => hp
    · next hnext =>
      refine ih (answerFrame_keepsOrder _ _ _ _ (modLoom_keepsOrder (fun _ => ⟨rfl, rfl, rfl, rfl⟩) (modTile_keepsOrder ?_ (nextFrame_keepsOrder h hnext))))
      exact fun _ _ hp => hp

theorem beginColl_keepsOrder (l tile : Nat) {o : CollOp} (ho : o.waiting = false) (h : KeepsOrder s u) : KeepsOrder s (beginColl u l tile o) := by
  have hrun := collStart_runsOn (s := u) (l := l) ho
  have hput : KeepsOrder s (collPut l tile (collStart u l o).1) := collPut_keepsOrder hrun.begun (h.trans hrun.state)
  unfold beginColl
  exact settleColls_keepsOrder _ _ _ (.ite (abortColl_keepsOrder _ _ _ _ hput) hput)

end
end Sys2Proof.Machine
end

section
/-! SUPPORT. ORDER_CHANGE (R276): the choice of new modes, and their install, at which every collective that a tile holds begins. -/
namespace Sys2Proof.Machine
open Sys2Proof

/-! ## Held collectives begin -/

/-- A held collective of a tile begins, in the order now in force. -/
def startHeld (x : Loom) (l t : Nat) (s : State) (o : CollOp) : State :=
  let o' := { o with waiting := false, orderTag := opTag x o }
  beginColl (modTile s t fun u => { u with
    colls := u.colls.map fun q => if q.strand = o.strand && q.tag = o.tag then o' else q }) l t o'

/-- Every collective that a tile holds begins. -/
def beginTile (x : Loom) (l : Nat) (s : State) (t : Nat) : State :=
  ((getTile s t).colls.filter fun o => o.waiting && o.status.isNone).foldl (startHeld x l t) s

theorem beginHeld_eq (s : State) (l : Nat) : beginHeld s l =
    if (getLoom s l).installHold || !(getLoom s l).holder || (getLoom s l).parks then s
    else (loomTiles (getLoom s l)).foldl (beginTile (getLoom s l) l) s := rfl

section
variable {s u : State} (x : Loom) (l t : Nat)

/-- The tile after a held collective has begun holds it no longer, and no other that it did not hold. -/
theorem startHeld_keepsOrder (o : CollOp) : KeepsOrder u (startHeld x l t u o) := by
  unfold startHeld
  refine beginColl_keepsOrder _ _ rfl (modTile_keepsOrder (fun v => heldOps_map rfl fun q hw _ => ?_) (.refl u))
  split at hw
  · cases hw
  · next hne => exact if_neg hne

theorem startHeld_begun (o : CollOp) : (o.strand, o.tag) ∉ heldOps (getTile (startHeld x l t u o) t) := by
  unfold startHeld
  dsimp only
  intro hmem
  have hput := (beginColl_keepsOrder l t (o := { o with waiting := false, orderTag := opTag x o }) rfl (.refl _)).held t _ hmem
  rw [getTile_modTile, if_pos rfl] at hput
  obtain ⟨q, hq, hw, -, hkey⟩ := mem_heldOps.mp hput
  obtain ⟨p, -, rfl⟩ := List.mem_map.mp hq
  split at hw
  · cases hw
  · next hne =>
    rw [if_neg hne] at hkey
    obtain ⟨hstrand, htag⟩ := Prod.mk.inj hkey
    exact hne (by rw [hstrand, htag, decide_eq_true rfl, decide_eq_true rfl]; rfl)

theorem foldl_startHeld (os : List CollOp) (u : State) : KeepsOrder u (os.foldl (startHeld x l t) u) ∧
    ∀ o ∈ os, (o.strand, o.tag) ∉ heldOps (getTile (os.foldl (startHeld x l t) u) t) := by
  induction os generalizing u with
  | nil => exact ⟨.refl u, fun _ h => absurd h List.not_mem_nil⟩
  | cons o os ih =>
    obtain ⟨hkeep, hgone⟩ := ih (startHeld x l t u o)
    refine ⟨(startHeld_keepsOrder x l t o).trans hkeep, fun p hp => ?_⟩
    rcases List.mem_cons.mp hp with rfl | hp
    · exact fun hmem => startHeld_begun x l t p (hkeep.held t _ hmem)
    · exact hgone p hp

theorem beginTile_keepsOrder (u : State) : KeepsOrder u (beginTile x l u t) := (foldl_startHeld x l t _ u).1

/-- A tile whose held collectives have begun holds none. -/
theorem beginTile_begun (u : State) : heldOps (getTile (beginTile x l u t) t) = [] := by
  obtain ⟨hkeep, hgone⟩ := foldl_startHeld x l t ((getTile u t).colls.filter fun o => o.waiting && o.status.isNone) u
  refine List.eq_nil_iff_forall_not_mem.mpr fun p hp => ?_
  obtain ⟨o, ho, rfl⟩ := List.mem_map.mp (hkeep.held t p hp)
  exact hgone o ho hp

theorem foldl_beginTile (ts : List Nat) (u : State) : KeepsOrder u (ts.foldl (beginTile x l) u) ∧
    ∀ t ∈ ts, heldOps (getTile (ts.foldl (beginTile x l) u) t) = [] := by
  induction ts generalizing u with
  | nil => exact ⟨.refl u, fun _ h => absurd h List.not_mem_nil⟩
  | cons t ts ih =>
    obtain ⟨hkeep, hnone⟩ := ih (beginTile x l u t)
    refine ⟨(beginTile_keepsOrder x l t u).trans hkeep, fun k hk => ?_⟩
    rcases List.mem_cons.mp hk with rfl | hk
    · refine List.eq_nil_iff_forall_not_mem.mpr fun p hp => ?_
      have hthen := hkeep.held k p hp
      rw [beginTile_begun] at hthen
      exact List.not_mem_nil hthen
    · exact hnone k hk

end

theorem beginHeld_keepsOrder (s : State) (l : Nat) : KeepsOrder s (beginHeld s l) := by
  rw [beginHeld_eq]
  exact .ite (.refl s) (foldl_beginTile _ _ _ s).1

/-- Once the modes are installed the tiles of a loom on its bays hold no collective. -/
theorem beginHeld_none {s : State} {l : Nat} (hi : (getLoom s l).installHold = false) (hh : (getLoom s l).holder = true)
    (hp : (getLoom s l).parks = false) : ∀ t ∈ loomTiles (getLoom s l), heldOps (getTile (beginHeld s l) t) = [] := by
  rw [beginHeld_eq, hi, hh, hp]
  exact (foldl_beginTile _ _ _ s).2

theorem waiting_of_heldOps {t : Tile} (h : heldOps t = []) {o : CollOp} (ho : o ∈ t.colls) (hst : o.status = none) : o.waiting = false := by
  cases hw : o.waiting with
  | false => rfl
  | true => exact absurd (h ▸ mem_heldOps.mpr ⟨o, ho, hw, hst, rfl⟩) List.not_mem_nil

/-! ## The install (R276) -/

section
variable {s : State} {l : Nat}

/-- What an install comes to: the event is shown, the loom's members wait no longer, and its modes are as they were chosen. -/
theorem installModes_installed (s : State) (l : Nat) :
    let x := getLoom s l
    let t := installModes s l
    (getReg t 0x00700008).getLsbD 5 = true ∧ (getLoom t l).installHold = false ∧ (getLoom t l).modes = x.modes ∧
      (getLoom t l).newModes = x.newModes ∧ (getLoom t l).install = x.install ∧
      (x.holder = true → x.parks = false → ∀ k o, k ∈ loomTiles x → o ∈ (getTile t k).colls → o.status = none → o.waiting = false) := by
  have hreg := getLsbD_raiseEvt (modLoom s l fun x => { x with installHold := false }) .coll (bit := 5) (by decide) (some l) 0 0
  have hloom : getLoom (raiseEvt (modLoom s l fun x => { x with installHold := false }) .coll 5 (some l)) l = { getLoom s l with installHold := false } := by
    rw [getLoom, raiseEvt_looms _ .coll 5 (some l) 0 0]
    change getLoom (modLoom s l _) l = _
    rw [getLoom_modLoom, if_pos rfl]
  dsimp only
  unfold installModes
  generalize raiseEvt (modLoom s l fun x => { x with installHold := false }) .coll 5 (some l) = v at *
  have hkeep := beginHeld_keepsOrder v l
  obtain ⟨hhold, hmodes, hnew, hinst⟩ := hkeep.order l
  rw [hhold, hmodes, hnew, hinst, hloom]
  refine ⟨hkeep.shown 5 hreg, rfl, rfl, rfl, rfl, fun hh hp k o hk ho hst => ?_⟩
  exact waiting_of_heldOps (beginHeld_none (by rw [hloom]) (by rw [hloom]; exact hh) (by rw [hloom]; exact hp) k (by rw [hloom]; exact hk)) ho hst

/-! ## The choice of modes (R276) -/

theorem exec_orderChange (hd : s.svc.dark = false) (down : BoxLinks) (started : List (Nat × Nat)) (ins : Bool) :
    exec (.orderChange l down ⟨started, ins⟩) s = .next (orderChange s l down started ins) := congrArg Host.Outcome.next (alive_light _ hd)

/-- A table filled from a list of keys has each of them. -/
theorem tget_foldl_tput (f : Nat → Nat) (cs : List Nat) (t : Table Nat) (c : Nat) :
    tget 0 (cs.foldl (fun t c => tput t c (f c)) t) c = if c ∈ cs then f c else tget 0 t c := by
  induction cs generalizing t with
  | nil => rfl
  | cons k cs ih =>
    rw [List.foldl_cons, ih, tget_tput]
    by_cases hk : k = c
    · subst hk
      simp
    · have hk' : c ≠ k := fun e => hk e.symm
      simp [hk, hk']

/-- The install points: of each COMM, the lowest number that no member has started. -/
def installPoints (s : State) (l : Nat) (started : List (Nat × Nat)) : Table Nat :=
  (commsOf s l ++ started.map (·.1)).eraseDups.foldl (fun t c => tput t c
    ((started.filter fun p => p.1 = c).foldl (fun m p => max m p.2) (nextNumber s l c))) []

theorem tget_installPoints (started : List (Nat × Nat)) {c : Nat} (hc : c ∈ commsOf s l ∨ ∃ p, p ∈ started ∧ p.1 = c) :
    tget 0 (installPoints s l started) c = (started.filter fun p => p.1 = c).foldl (fun m p => max m p.2) (nextNumber s l c) := by
  rw [installPoints, tget_foldl_tput, if_pos]
  refine List.mem_eraseDups.mpr (List.mem_append.mpr (hc.imp_right ?_))
  rintro ⟨p, hp, rfl⟩
  exact List.mem_map.mpr ⟨p, hp, rfl⟩

theorem chooseModes_same {down : BoxLinks} (started : List (Nat × Nat)) (hn : (getLoom s l).newModes = none)
    (hm : boxModes s (getLoom s l) down = (getLoom s l).modes) : chooseModes s l down started = none := by
  simp [chooseModes, hn, hm]

theorem chooseModes_new {down : BoxLinks} (started : List (Nat × Nat)) (hf : (getLoom s l).st ≠ .free) (hn : (getLoom s l).newModes = none)
    (hm : boxModes s (getLoom s l) down ≠ (getLoom s l).modes) : chooseModes s l down started = some (setLoom s l { getLoom s l with
      newModes := some (boxModes s (getLoom s l) down), installHold := true, install := installPoints s l started }) := by
  unfold chooseModes
  dsimp only
  rw [hn]
  simp [hf, hm]
  rfl

/-- The claim about ORDER_CHANGE. -/
theorem orderChanges (s : State) (l : Nat) (down : BoxLinks) (started : List (Nat × Nat)) (hdark : s.svc.dark = false) :
    let x := getLoom s l
    (x.installHold = false → x.newModes = none → boxModes s x down = x.modes → ∀ ins, exec (.orderChange l down ⟨started, ins⟩) s = .next s) ∧
    (x.installHold = false → x.st ≠ .free → x.newModes = none → boxModes s x down ≠ x.modes → ∀ ins, ∃ t,
      exec (.orderChange l down ⟨started, ins⟩) s = .next t ∧ (getLoom t l).installHold = !ins ∧
      (getLoom t l).modes = x.modes ∧ (getLoom t l).newModes = some (boxModes s x down) ∧
      (ins = true → (getReg t 0x00700008).getLsbD 5 = true) ∧ (ins = false → t.mem = s.mem ∧ t.tiles = s.tiles ∧ t.regs = s.regs) ∧
      ∀ c, c ∈ commsOf s l ∨ (∃ p, p ∈ started ∧ p.1 = c) →
        tget 0 (getLoom t l).install c = (started.filter fun p => p.1 = c).foldl (fun m p => max m p.2) (nextNumber s l c)) ∧
    (x.installHold = true → exec (.orderChange l down ⟨started, false⟩) s = .next s ∧
      ∃ t, exec (.orderChange l down ⟨started, true⟩) s = .next t ∧ (getLoom t l).installHold = false ∧ (getLoom t l).modes = x.modes ∧
        (getLoom t l).newModes = x.newModes ∧ (getReg t 0x00700008).getLsbD 5 = true ∧
        (x.holder = true → x.parks = false → ∀ tile o, tile ∈ loomTiles x → o ∈ (getTile t tile).colls → o.status = none →
          o.waiting = false)) := by
  dsimp only
  refine ⟨fun hi hn hm ins => ?_, fun hi hf hn hm ins => ?_, fun hi => ⟨?_, ?_⟩⟩
  · rw [exec_orderChange hdark, orderChange, hi, chooseModes_same started hn hm]
    rfl
  · rw [exec_orderChange hdark, orderChange, hi, chooseModes_new started hf hn hm]
    dsimp only
    have hloom : ∀ x, getLoom (setLoom s l x) l = x := fun x => by rw [getLoom_setLoom, if_pos rfl]
    cases ins with
    | false =>
      refine ⟨_, rfl, ?_⟩
      rw [if_neg (by decide), if_neg (by decide), hloom]
      exact ⟨rfl, rfl, rfl, fun h => absurd h (by decide), fun _ => ⟨rfl, rfl, rfl⟩, fun c hc => tget_installPoints started hc⟩
    | true =>
      refine ⟨_, rfl, ?_⟩
      rw [if_neg (by decide), if_pos rfl]
      obtain ⟨hreg, hhold, hmodes, hnew, hinst, -⟩ := installModes_installed (setLoom s l { getLoom s l with
        newModes := some (boxModes s (getLoom s l) down), installHold := true, install := installPoints s l started }) l
      rw [hloom] at hmodes hnew hinst
      refine ⟨hhold, hmodes, hnew, fun _ => hreg, fun h => absurd h (by decide), fun c hc => ?_⟩
      rw [hinst]
      exact tget_installPoints started hc
  · rw [exec_orderChange hdark, orderChange, hi]
    rfl
  · rw [exec_orderChange hdark, orderChange, hi]
    obtain ⟨hreg, hhold, hmodes, hnew, -, hall⟩ := installModes_installed s l
    exact ⟨_, rfl, hhold, hmodes, hnew, hreg, hall⟩

end
end Sys2Proof.Machine
end

section
/-! SUPPORT. Splits of the torus and the adders' self-tests (R277, R285, R286, R444): what a fenced loom and one that stops leave of the collective unit's
status and of the adders in service. -/
namespace Sys2Proof.Machine
open Sys2Proof

/-! ## A loom that is fenced (R277, R444) -/

section
variable {s u : State}

theorem serveRow_keepsOrder (a : RowAccess) (h : KeepsOrder s u) : KeepsOrder s (serveRow u a) := by
  have touched (x : Loom) (r : HotRegion) : OrderAs x (rowTouch x r a.row a.write) := by
    unfold rowTouch
    dsimp only
    split <;> exact ⟨rfl, rfl, rfl, rfl⟩
  unfold serveRow serveAt
  split
  · dsimp only
    split
    · exact wrData_keepsOrder _ _ (modLoom_keepsOrder (fun x => touched x _) h)
    · exact (modLoom_keepsOrder (fun x => touched x _) h).same rfl rfl rfl
  · exact h

theorem serveHeld_keepsOrder (l n : Nat) (h : KeepsOrder s u) : KeepsOrder s (serveHeld l n u) := by
  induction n generalizing u with
  | zero => exact h
  | succ n ih =>
    unfold serveHeld
    split
    · exact h
    · exact ih (serveRow_keepsOrder _ (modLoom_keepsOrder (fun _ => ⟨rfl, rfl, rfl, rfl⟩) h))

theorem hotStop_keepsOrder (l : Nat) (h : KeepsOrder s u) : KeepsOrder s (hotStop u l) := by
  unfold hotStop
  refine .foldl (fun v r h => ?_) _ h
  dsimp only
  split
  · refine serveHeld_keepsOrder _ _ (modLoom_keepsOrder (fun _ => ⟨rfl, rfl, rfl, rfl⟩) (modLoom_keepsOrder (fun _ => ⟨rfl, rfl, rfl, rfl⟩) ?_))
    exact .foldl (fun _ _ h => .ite (wrData_keepsOrder _ _ h) h) _ h
  · exact h

theorem clearBays_keepsOrder (bays : List Nat) (h : KeepsOrder s u) : KeepsOrder s (clearBays u bays) := by
  refine h.trans ⟨fun b hb => by rwa [getReg, clearBays_regs], fun _ => .refl _, fun k p hp => ?_⟩
  rw [getTile_clearBays] at hp
  split at hp
  · exact absurd hp List.not_mem_nil
  · exact hp

theorem leaveBays_keepsOrder (l : Nat) (h : KeepsOrder s u) : KeepsOrder s (leaveBays u l) := by
  unfold leaveBays
  dsimp only
  refine .ite h ?_
  have left : KeepsOrder u ((coResident u l).foldl (fun s k => modLoom s k fun y => { y with lastHolder := false }) u) := by
    refine .foldl (fun v k h => modLoom_keepsOrder (fun _ => ?_) h) _ (.refl u)
    exact ⟨rfl, rfl, rfl, rfl⟩
  have counted : KeepsOrder u ((loomTiles (getLoom u l)).foldl (fun s t => if (getTile s t).cnt.isEmpty then s else modTile s t fun u => { u with cnt := [] })
      ((coResident u l).foldl (fun s k => modLoom s k fun y => { y with lastHolder := false }) u)) := by
    refine .foldl (fun v t h => .ite h (modTile_keepsOrder ?_ h)) _ left
    exact fun _ _ hp => hp
  obtain ⟨hhold, hmodes, hnew, hinst⟩ := counted.order l
  exact setLoom_keepsOrder ⟨hhold.symm, hmodes.symm, hnew.symm, hinst.symm⟩ (h.trans counted)

theorem fenceIn_keepsOrder (l : Nat) (h : KeepsOrder s u) : KeepsOrder s (fenceIn u l) := by
  unfold fenceIn
  dsimp only
  refine endWith_keepsOrder _ _ _ (returnUnits_keepsOrder _ (raiseEvt_keepsOrder _ _ _ _ _ (modLoom_keepsOrder (fun _ => ⟨rfl, rfl, rfl, rfl⟩)
    (leaveQueues_keepsOrder _ (.ite (clearBays_keepsOrder _ h) h)))))

theorem fenceLoom_keepsOrder (l : Nat) (h : KeepsOrder s u) : KeepsOrder s (fenceLoom u l) :=
  .ite h (fenceIn_keepsOrder _ (leaveBays_keepsOrder _ (hotStop_keepsOrder _ (.ite (clearBays_keepsOrder _ h) h))))

/-- A loom that enters FENCED stays so through the end of what depends on it. -/
theorem fenceIn_st (s : State) (l : Nat) : (getLoom (fenceIn s l) l).st = .fenced := by
  unfold fenceIn
  dsimp only
  refine ((endWith_keepsErrors l _ _ (returnUnits_keepsErrors l (raiseEvt_keepsErrors (by decide) (.refl _)))).st l).trans ?_
  rw [getLoom_modLoom, if_pos rfl]

theorem fenceLoom_st {l : Nat} (h : (getLoom s l).st ∈ fenceStates) : (getLoom (fenceLoom s l) l).st = .fenced := by
  have hin : fenceStates.contains (getLoom s l).st = true := List.contains_iff_mem.mpr h
  rw [fenceLoom, if_neg (by rw [hin]; decide)]
  exact fenceIn_st ..

end

/-! ## Splits (R277, R444) -/

theorem exec_splitTorus {s : State} (hd : s.svc.dark = false) (l : Nat) (half : Bool) : exec (.splitTorus l half) s = .next (splitJob s l half) :=
  congrArg Host.Outcome.next (alive_light _ hd)

theorem splits (s : State) (l : Nat) (half : Bool) (hdark : s.svc.dark = false) (hf : (getLoom s l).st ≠ .free) :
    ∃ t, exec (.splitTorus l half) s = .next t ∧ (getReg t 0x00700008).getLsbD 6 = true ∧ (half = true → (getLoom t l).st = (getLoom s l).st) ∧
      (half = false → (getLoom t l).fencedJob = true ∧ ((getLoom s l).st ∈ fenceStates → (getLoom t l).st = .fenced)) := by
  refine ⟨_, exec_splitTorus hdark l half, ?_⟩
  have hst : (getLoom (raiseEvt (endCkpt (abortColls s l stFenced) l stFenced) .coll 6 (some l)) l).st = (getLoom s l).st :=
    (raiseEvt_keepsErrors (by decide) (endCkpt_keepsErrors l _ _ (abortColls_keepsErrors l _ (.refl s)))).st l
  have hshow := getLsbD_raiseEvt (endCkpt (abortColls s l stFenced) l stFenced) .coll (bit := 6) (by decide) (some l) 0 0
  rw [splitJob, if_neg hf]
  dsimp only
  generalize raiseEvt (endCkpt (abortColls s l stFenced) l stFenced) .coll 6 (some l) = v at *
  cases half with
  | true => exact ⟨hshow, fun _ => hst, fun h => absurd h (by decide)⟩
  | false =>
    rw [if_neg (by decide), getLoom_modLoom, if_pos rfl]
    exact ⟨(fenceLoom_keepsOrder l (.refl v)).shown 6 hshow, fun h => absurd h (by decide), fun _ => ⟨rfl, fun h => fenceLoom_st (hst ▸ h)⟩⟩

/-! ## Adders in service -/

/-- From s to t the register of every die's adders stays. -/
structure KeepsAdders (s t : State) : Prop where
  regs : ∀ die, die < 40 → getReg t (adderReg die) = getReg s (adderReg die)

namespace KeepsAdders
variable {s t u : State} {α : Type}

theorem refl (s : State) : KeepsAdders s s := ⟨fun _ _ => rfl⟩

theorem trans (h : KeepsAdders s t) (k : KeepsAdders t u) : KeepsAdders s u := ⟨fun die hd => (k.regs die hd).trans (h.regs die hd)⟩

theorem of_regs (h : t.regs = s.regs) : KeepsAdders s t := ⟨fun die _ => by rw [getReg, h, getReg]⟩

/-- What follows a change that writes no register. -/
theorem after (h : KeepsAdders t u) (ht : t.regs = s.regs) : KeepsAdders s u := (of_regs ht).trans h

theorem ite {c : Prop} [Decidable c] (ht : KeepsAdders s t) (hu : KeepsAdders s u) : KeepsAdders s (if c then t else u) := by
  split
  · exact ht
  · exact hu

theorem foldl {g : State → α → State} {l : List α} (hg : ∀ s, ∀ x ∈ l, KeepsAdders s (g s x)) (s : State) : KeepsAdders s (l.foldl g s) :=
  List.foldlRecOn (motive := KeepsAdders s) l g (.refl s) fun u hu x hx => hu.trans (hg u x hx)

end KeepsAdders

section
variable (s : State)

/-- No event's status register is one of the adders'. -/
theorem raiseEvt_keepsAdders (src : Src) (bit : Nat) (loom : Option Nat) (unit detail : Nat) : KeepsAdders s (raiseEvt s src bit loom unit detail) where
  regs die hd := by
    rw [getReg_raiseEvt, if_neg]
    cases src <;> simp only [Src.status, adderReg] <;> omega

theorem returnUnits_keepsAdders (l : Nat) : KeepsAdders s (returnUnits s l) := by
  unfold returnUnits
  refine .ite (.trans ?_ (.of_regs (foldl_regs serveSem_regs ..))) (.refl s)
  exact .after (raiseEvt_keepsAdders ..) rfl

theorem abortColls_keepsAdders (l : Nat) (st : Byte) : KeepsAdders s (abortColls s l st) := by
  refine .foldl (fun u t _ => .foldl (fun u o _ => KeepsAdders.trans ?_ (raiseEvt_keepsAdders ..)) u) s
  refine .of_regs ((sendAborts_regs ..).trans (foldl_regs (fun s p => ?_) _ u))
  dsimp only
  split
  · rfl
  · exact modTileOf_regs ..

/-- The count of discarded drafts of a loom is not one of the adders' registers. -/
theorem rejectDrafts_keepsAdders {l : Nat} (hl : l < 32) (n : Nat) : KeepsAdders s (rejectDrafts s l n) where
  regs die hd := by
    rw [rejectDrafts, count48, getReg_setReg, if_neg]
    simp only [srvReg, adderReg]
    omega

theorem endAllReqs_keepsAdders {l : Nat} (hl : l < 32) (st : Byte) : KeepsAdders s (endAllReqs s l st) := by
  refine KeepsAdders.trans (t := dropStep s l) ?_ (.of_regs (foldl_regs (fun _ _ => endReq_regs ..) ..))
  unfold dropStep
  dsimp only
  split
  · exact .refl s
  · next f _ => split <;> exact (rejectDrafts_keepsAdders s hl f.rejected).trans (.of_regs rfl)

theorem startPick_keepsAdders (k : Nat) : KeepsAdders s (startPick s k) := by
  refine KeepsAdders.trans (.of_regs ?_) (raiseEvt_keepsAdders ..)
  rw [putCurPick_regs]
  refine foldl_regs (fun s l => ?_) ..
  exact objWrite_regs ..

theorem publishIdle_keepsAdders (k : Nat) : KeepsAdders s (publishIdle s k) := by
  unfold publishIdle refusePick
  exact .ite (.after (raiseEvt_keepsAdders ..) rfl) (.ite (startPick_keepsAdders s k)
    (.ite (.after (raiseEvt_keepsAdders ..) rfl) (.after (raiseEvt_keepsAdders ..) rfl)))

theorem pubIdle_keepsAdders (k : Nat) : KeepsAdders s (pubIdle s k) := by
  unfold pubIdle
  exact .ite (.after (publishIdle_keepsAdders ..) rfl) (.of_regs rfl)

theorem abandonTaking_keepsAdders (k l : Nat) : KeepsAdders s (abandonTaking s k l) := by
  unfold abandonTaking
  exact .ite (.after (raiseEvt_keepsAdders ..) rfl) (.refl s)

theorem dropSource_keepsAdders (k : Nat) : KeepsAdders s (dropSource s k) :=
  (KeepsAdders.foldl (fun _ _ _ => abandonTaking_keepsAdders ..) _).trans (.trans (.of_regs (modWeave_regs ..)) (pubIdle_keepsAdders ..))

theorem shedEnter_keepsAdders (l : Nat) : KeepsAdders s (shedEnter s l) := by
  unfold shedEnter abandonSource
  have left : KeepsAdders s (match genWeave s l with
      | some (k, w) => if w.shared || (getLoom s l).st.takesPick then s else abandonTaking s k l
      | none => s) := by
    split
    · exact .ite (.refl s) (abandonTaking_keepsAdders ..)
    · exact .refl s
  dsimp only
  split
  · exact .ite (left.trans (.ite ((dropSource_keepsAdders ..).trans (dropSource_keepsAdders ..)) (dropSource_keepsAdders ..))) left
  · exact left

theorem endWith_keepsAdders {l : Nat} (hl : l < 32) (st collSt : Byte) : KeepsAdders s (endWith s l st collSt) :=
  (abortColls_keepsAdders ..).trans ((endAllReqs_keepsAdders _ hl _).trans ((shedEnter_keepsAdders ..).trans
    (.of_regs ((endRestore_regs ..).trans (endCkpt_regs ..)))))

theorem loomUncorr_keepsAdders {l : Nat} (hl : l < 32) (tile strand pc : Nat) (insn : W64) : KeepsAdders s (loomUncorr s l tile strand pc insn) := by
  unfold loomUncorr
  dsimp only
  refine .ite (.refl s) (.ite (.of_regs rfl) ?_)
  refine KeepsAdders.trans ?_ ((returnUnits_keepsAdders ..).trans (endWith_keepsAdders _ hl _ _))
  refine KeepsAdders.trans ?_ (.of_regs (leaveQueues_regs ..))
  refine KeepsAdders.after (raiseEvt_keepsAdders ..) ?_
  exact setLoom_regs ..

end

/-! ## The self-test of an adder (R285, R286) -/

section
variable {s : State} {die adder : Nat}

theorem exec_adderSelftest (hd : s.svc.dark = false) (pass : Bool) : exec (.adderSelftest die adder pass) s = .next (adderTest s die adder pass) :=
  congrArg Host.Outcome.next (alive_light _ hd)

/-- The register of a die's adders when one leaves service. -/
def adderOut (r : W64) (adder : Nat) : W64 := (r &&& ~~~ BitVec.ofNat 64 (2 ^ adder)) ||| (BitVec.ofNat 64 (2 ^ adder) <<< 4)

/-- The report of an adder that leaves service. -/
def adderReport (s : State) (die adder : Nat) : State :=
  let u := setReg s (adderReg die) (adderOut (getReg s (adderReg die)) adder)
  noteCause (raiseEvt (raiseEvt (capture u 0x00700030 (BitVec.ofNat 64 (die * 2 ^ 8 + adder))
    [(0x00700020, tget 0 u.adders.lastPass (die * 4 + adder)), (0x00700028, u.tlm.timebase)]) .coll 0 none die) .coll 1 none die) 0x06 die 1

theorem adderFail_eq (h : (getReg s (adderReg die)).getLsbD adder = true) : adderFail s die adder =
    if adderOut (getReg s (adderReg die)) adder &&& 0xF = 0 then (loomsOfDie (adderReport s die adder) die).foldl (fun s l => loomUncorr s l) (adderReport s die adder)
    else adderReport s die adder := by
  rw [adderFail, if_neg (by simp [h])]
  rfl

theorem adderReport_reg (hd : die < 40) : getReg (adderReport s die adder) (adderReg die) = adderOut (getReg s (adderReg die)) adder := by
  have hlow : 0x00700030 < adderReg die := by rw [adderReg]; omega
  unfold adderReport
  dsimp only
  rw [(noteCause_keepsFaults ..).regs _ (by omega), (raiseEvt_keepsAdders ..).regs die hd, (raiseEvt_keepsAdders ..).regs die hd,
    getReg_capture _ _ (by omega) fun p hp => ?_, getReg_setReg, if_pos rfl]
  simp only [List.mem_cons, List.not_mem_nil, or_false] at hp
  rcases hp with rfl | rfl <;> dsimp only <;> omega

theorem adderReport_shows (s : State) (die adder : Nat) : (getReg (adderReport s die adder) 0x00700008).getLsbD 0 = true ∧
    (getReg (adderReport s die adder) 0x00700008).getLsbD 1 = true := by
  unfold adderReport
  dsimp only
  rw [(noteCause_keepsFaults ..).regs _ (by decide)]
  exact ⟨getLsbD_raiseEvt_of_shown (getLsbD_raiseEvt _ .coll (by decide) ..) .., getLsbD_raiseEvt _ .coll (by decide) ..⟩

/-- Whatever looms stop, the adder is out of service and the two events are shown. -/
theorem adderFail_leaves (hd : die < 40) (h : (getReg s (adderReg die)).getLsbD adder = true) :
    getReg (adderFail s die adder) (adderReg die) = adderOut (getReg s (adderReg die)) adder ∧
      (getReg (adderFail s die adder) 0x00700008).getLsbD 0 = true ∧ (getReg (adderFail s die adder) 0x00700008).getLsbD 1 = true := by
  obtain ⟨h0, h1⟩ := adderReport_shows s die adder
  rw [adderFail_eq h, ← adderReport_reg hd]
  split
  · have hkeep : KeepsAdders (adderReport s die adder) ((loomsOfDie (adderReport s die adder) die).foldl (fun s l => loomUncorr s l) (adderReport s die adder)) :=
      .foldl (fun u l hl => loomUncorr_keepsAdders u (List.mem_range.mp (List.mem_of_mem_filter (List.mem_of_mem_filter hl))) 0 0 0 0) _
    have horder : KeepsOrder (adderReport s die adder) ((loomsOfDie (adderReport s die adder) die).foldl (fun s l => loomUncorr s l) (adderReport s die adder)) :=
      .foldl (fun u l h => loomUncorr_keepsOrder l 0 0 0 0 h) _ (.refl _)
    exact ⟨hkeep.regs die hd, horder.shown 0 h0, horder.shown 1 h1⟩
  · exact ⟨rfl, h0, h1⟩

theorem adderOut_bits (r : W64) (ha : adder < 4) : (adderOut r adder).getLsbD adder = false ∧ (adderOut r adder).getLsbD (adder + 4) = true := by
  unfold adderOut
  constructor
  · rw [BitVec.getLsbD_or, getLsbD_clear, BitVec.getLsbD_shiftLeft]
    simp [ha]
  · rw [BitVec.getLsbD_or, BitVec.getLsbD_shiftLeft, getLsbD_bit]
    have h4 : ¬ adder + 4 < 4 := by omega
    simp [h4]
    omega

theorem selfTests (s : State) (die adder : Nat) (hdark : s.svc.dark = false) (hd : die < 40) (ha : adder < 4)
    (hup : (getReg s (adderReg die)).getLsbD adder = true) :
    (exec (.adderSelftest die adder true) s =
      .next { s with adders := { s.adders with lastPass := tput s.adders.lastPass (die * 4 + adder) s.tlm.timebase } }) ∧
    ∃ t, exec (.adderSelftest die adder false) s = .next t ∧ (getReg t (adderReg die)).getLsbD adder = false ∧
      (getReg t (adderReg die)).getLsbD (adder + 4) = true ∧ (getReg t 0x00700008).getLsbD 0 = true ∧ (getReg t 0x00700008).getLsbD 1 = true := by
  have htest : ∀ pass, adderTest s die adder pass = if pass then
      { s with adders := { s.adders with lastPass := tput s.adders.lastPass (die * 4 + adder) s.tlm.timebase } } else adderFail s die adder := fun pass => by
    rw [adderTest, if_neg (by simp [hup]; omega)]
  obtain ⟨hreg, h0, h1⟩ := adderFail_leaves hd hup
  obtain ⟨hout, hfailed⟩ := adderOut_bits (getReg s (adderReg die)) ha
  refine ⟨by rw [exec_adderSelftest hdark, htest, if_pos rfl], _, exec_adderSelftest hdark false, ?_⟩
  rw [htest, if_neg (by decide), hreg]
  exact ⟨hout, hfailed, h0, h1⟩

end
end Sys2Proof.Machine
end

section
/-! SUPPORT. COLL_CONFIG (R264, R272): the box that a job is set in, with the modes of its axes. With it the obligation about the torus is settled. -/
namespace Sys2Proof.Machine
open Sys2Proof

/-! ## The box of a job (R264) -/

/-- The word of a box, from its origin and extents. -/
def boxWord (x0 y0 z0 ex ey ez : Nat) : BitVec 15 := BitVec.ofNat 15 (x0 + y0 * 4 + z0 * 16 + ex * 64 + ey * 512 + ez * 4096)

section
variable {x0 y0 z0 ex ey ez : Nat} {y : Loom} (h0 : x0 ≤ 3) (h1 : y0 ≤ 3) (h2 : z0 ≤ 3) (h3 : ex ≤ 4) (h4 : ey ≤ 4) (h5 : ez ≤ 4)
  (hb : y.box = boxWord x0 y0 z0 ex ey ez)
include h0 h1 h2 h3 h4 h5 hb

theorem boxOrigin_boxWord : boxOrigin y = (x0, y0, z0) := by
  have hw : y.box.toNat = x0 + y0 * 4 + z0 * 16 + ex * 64 + ey * 512 + ez * 4096 := by
    rw [hb, boxWord, BitVec.toNat_ofNat]
    omega
  simp only [boxOrigin, bits, hw, Prod.mk.injEq]
  omega

theorem boxExtent_boxWord : boxExtent y = (ex, ey, ez) := by
  have hw : y.box.toNat = x0 + y0 * 4 + z0 * 16 + ex * 64 + ey * 512 + ez * 4096 := by
    rw [hb, boxWord, BitVec.toNat_ofNat]
    omega
  simp only [boxExtent, bits, hw, Prod.mk.injEq]
  omega

end

/-- The modes of a box depend on the loom by its box alone. -/
theorem boxModes_of_box {x y : Loom} (h : y.box = x.box) (s : State) (down : BoxLinks) : boxModes s y down = boxModes s x down := by
  have hext : boxExtent y = boxExtent x := by rw [boxExtent, h, boxExtent]
  have horg : boxOrigin y = boxOrigin x := by rw [boxOrigin, h, boxOrigin]
  have hcoord : boxCoord s y = boxCoord s x := by simp only [boxCoord, horg, hext]
  have hplace : ∀ b, boxPlace y b = boxPlace x b := fun b => by simp only [boxPlace, hext]
  have hidx : boxIndexOf s y = boxIndexOf s x := by simp only [boxIndexOf, hcoord, hext]
  simp only [boxModes, ownDown, hext, hplace, hidx]

/-- With no hop DOWN an axis runs as a ring, or as a line when the box is shorter than the torus. -/
theorem ownDown_none {s : State} (hup : ∀ d, d < 6 → (getLink s d).st ≠ 3) (x : Loom) {axis : Nat} (h : axis < 3) : ownDown s x axis = none := by
  unfold ownDown
  dsimp only
  rw [if_neg (hup _ (by omega)), if_neg (hup _ (by omega))]
  rfl

theorem boxModes_up {s : State} (hup : ∀ d, d < 6 → (getLink s d).st ≠ 3) (x : Loom) : boxModes s x { x := none, y := none, z := none } =
    BitVec.ofNat 32 (axisMode (boxExtent x).1 (extentOf s).1 none + axisMode (boxExtent x).2.1 (extentOf s).2.1 none * 8 +
      axisMode (boxExtent x).2.2 (extentOf s).2.2 none * 64) := by
  unfold boxModes
  dsimp only
  rw [ownDown_none hup x (by decide), ownDown_none hup x (by decide), ownDown_none hup x (by decide)]
  rfl

/-! ## COLL_CONFIG -/

/-- What the other modules hold of a manifest stands with the loom's checkpoints, and nothing else changes of the looms. -/
theorem getLoom_drawOthers (s : State) (l k : Nat) : ∃ c, getLoom (drawOthers s l) k = { getLoom s k with ckpt := c } := by
  unfold drawOthers
  dsimp only
  split
  · rw [getLoom_modLoom]
    split
    · next h => exact ⟨_, by rw [h]⟩
    · exact ⟨_, rfl⟩
  · rw [getLoom_modLoom]
    split
    · next h => exact ⟨_, by rw [← h]; rfl⟩
    · exact ⟨_, rfl⟩

theorem getLoom_drawOthers_ne (s : State) {l k : Nat} (h : k ≠ l) : getLoom (drawOthers s l) k = getLoom s k := by
  unfold drawOthers
  dsimp only
  split
  · rw [getLoom_modLoom, if_neg h.symm]
  · rw [getLoom_modLoom, if_neg h.symm]
    rfl

/-- The loom that COLL_CONFIG sets. -/
def configuredLoom (s : State) (l : Nat) (job : W32) (box : BitVec 15) : Loom :=
  let y : Loom := { getLoom s l with configured := true, jobId := job, box, newModes := none, install := [], installHold := false }
  { y with modes := boxModes s y { x := none, y := none, z := none } }

/-- A box fits the torus on an axis. -/
def Fits (o n k : Nat) : Prop := 1 ≤ n ∧ n ≤ 4 ∧ o ≤ 3 ∧ o + n ≤ k

theorem collConfig_unfit {s : State} {l : Nat} {job : W32} {x0 y0 z0 ex ey ez : Nat}
    (h : ¬ (Fits x0 ex (extentOf s).1 ∧ Fits y0 ey (extentOf s).2.1 ∧ Fits z0 ez (extentOf s).2.2)) :
    collConfig s l job (some (x0, y0, z0)) (some (ex, ey, ez)) = .error stBad := by
  unfold collConfig
  dsimp only [Option.getD_some]
  rw [if_pos]
  rw [Bool.not_eq_true', ← Bool.not_eq_true]
  simpa only [Fits, Bool.and_eq_true, decide_eq_true_eq, and_assoc] using h

theorem collConfig_fit {s : State} {l : Nat} {job : W32} {x0 y0 z0 ex ey ez : Nat}
    (h : Fits x0 ex (extentOf s).1 ∧ Fits y0 ey (extentOf s).2.1 ∧ Fits z0 ez (extentOf s).2.2) :
    collConfig s l job (some (x0, y0, z0)) (some (ex, ey, ez)) =
      .ok (drawOthers (setLoom s l (configuredLoom s l job (boxWord x0 y0 z0 ex ey ez))) l, []) := by
  unfold collConfig
  dsimp only [Option.getD_some]
  rw [if_neg]
  · rfl
  · rw [Bool.not_eq_true', Bool.not_eq_false]
    simpa only [Fits, Bool.and_eq_true, decide_eq_true_eq, and_assoc] using h

theorem collConfigs (s : State) (sess ring : Nat) (t : Taken) (job : W32) (x0 y0 z0 ex ey ez : Nat) (h : TakenCmd s sess ring t)
    (hb : t.body = .collConfig job (some (x0, y0, z0)) (some (ex, ey, ez))) (hst : (getLoom s t.loom).st = .stopped)
    (hsess : (getLoom s t.loom).session = sess) :
    let e := extentOf s
    let ok := Fits x0 ex e.1 ∧ Fits y0 ey e.2.1 ∧ Fits z0 ez e.2.2
    (¬ ok → Refuses (.collConfig sess ring) s sess ring stBad) ∧
    (ok → ∃ u, Does (.collConfig sess ring) s u sess ring [] ∧ u.mem = s.mem ∧ (∀ k, k ≠ t.loom → getLoom u k = getLoom s k) ∧
      let y := getLoom u t.loom
      y.configured = true ∧ y.jobId = job ∧ boxOrigin y = (x0, y0, z0) ∧ boxExtent y = (ex, ey, ez) ∧
        y.installHold = false ∧ y.newModes = none ∧ y.modes = boxModes s y { x := none, y := none, z := none } ∧
          ((∀ d, d < 6 → (getLink s d).st ≠ 3) → y.modes = BitVec.ofNat 32 (axisMode ex e.1 none + axisMode ey e.2.1 none * 8 + axisMode ez e.2.2 none * 64))) := by
  have hcfg := cfgRefusal_stopped hst hsess
  dsimp only
  refine ⟨fun hno => cfg_refuses h hcfg rfl ?_, fun hok => ?_⟩
  · rw [hb]
    exact collConfig_unfit hno
  · refine ⟨_, cfg_does h hcfg rfl (by rw [hb]; exact collConfig_fit hok), (drawOthers_mem _ _).trans (setLoom_mem _ _ _), fun k hk => ?_, ?_⟩
    · rw [getLoom_drawOthers_ne _ hk, getLoom_setLoom, if_neg hk.symm]
    · obtain ⟨c, hc⟩ := getLoom_drawOthers (setLoom s t.loom (configuredLoom s t.loom job (boxWord x0 y0 z0 ex ey ez))) t.loom t.loom
      rw [getLoom_setLoom, if_pos rfl] at hc
      obtain ⟨⟨-, hx, h0, -⟩, ⟨-, hy, h1, -⟩, -, hz, h2, -⟩ := hok
      generalize getLoom (drawOthers (setLoom s t.loom (configuredLoom s t.loom job (boxWord x0 y0 z0 ex ey ez))) t.loom) t.loom = y at hc ⊢
      have hbox : y.box = boxWord x0 y0 z0 ex ey ez := by rw [hc]; rfl
      have hext := boxExtent_boxWord h0 h1 h2 hx hy hz hbox
      have hmodes : y.modes = boxModes s y { x := none, y := none, z := none } := by
        rw [show y.modes = (configuredLoom s t.loom job (boxWord x0 y0 z0 ex ey ez)).modes by rw [hc], configuredLoom]
        exact (boxModes_of_box (by rw [hbox]) s _).symm
      refine ⟨by rw [hc]; rfl, by rw [hc]; rfl, boxOrigin_boxWord h0 h1 h2 hx hy hz hbox, hext, by rw [hc]; rfl, by rw [hc]; rfl, hmodes, fun hup => ?_⟩
      rw [hmodes, boxModes_up hup, hext]

/-! ## The obligation about the torus -/

theorem torusJobs : TorusJobs := by
  refine ⟨fun s sess ring t job x0 y0 z0 ex ey ez h hb hst hsess => ?_, fun s l down started hdark => ?_, fun s l half hdark hf => ?_,
    fun s die adder hdark hd ha hup => ?_⟩
  · exact collConfigs s sess ring t job x0 y0 z0 ex ey ez h hb hst hsess
  · exact orderChanges s l down started hdark
  · exact splits s l half hdark hf
  · exact selfTests s die adder hdark hd ha hup

/-- Settles O38: the links through the equation for what each of their operations does; the install of an order through what the start of a held
collective leaves to every other tile and loom, proved for each operation of a member in turn. -/
theorem torus : Obligations.Torus := ⟨links, retraining, torusJobs⟩

end Sys2Proof.Machine
end

section
/-! SUPPORT. The frames of collectives as they arrive (R163, R266, R279, R281, R282): a tile of a loom where the loom has it, frames that go out and come in, the
parking of a chunk. -/
namespace Sys2Proof.Machine
open Sys2Proof

/-! ## A tile of a loom -/

theorem tileOf_congr {s t : State} (hl : t.looms = s.looms) (ht : t.tiles = s.tiles) (l k : Nat) : tileOf t l k = tileOf s l k := by
  have hloom : getLoom t l = getLoom s l := by rw [getLoom, hl, getLoom]
  have htile : getTile t k = getTile s k := by rw [getTile, ht, getTile]
  rw [tileOf, hloom, htile, tileOf]

/-- A tile of a loom that holds its bays stands in them. -/
theorem tileOf_holder {s : State} {l : Nat} (hi : (getLoom s l).image = none) (hh : (getLoom s l).holder = true) (k : Nat) : tileOf s l k = getTile s k := by
  simp [tileOf, hi, hh]

theorem modTileOf_holder {s : State} {l : Nat} (hi : (getLoom s l).image = none) (hh : (getLoom s l).holder = true) (k : Nat) (f : Tile → Tile) :
    modTileOf s l k f = modTile s k f := by
  simp [modTileOf, hi, hh]

@[simp] theorem modTileOf_out (s : State) (l t : Nat) (f : Tile → Tile) : (modTileOf s l t f).out = s.out := by
  unfold modTileOf
  dsimp only
  split
  · rfl
  · split_ifs <;> rfl

/-- A loom's tile is changed where the loom has it. -/
theorem tileOf_modTileOf (s : State) (l t k : Nat) (f : Tile → Tile) :
    tileOf (modTileOf s l t f) l k = if t = k then f (tileOf s l k) else tileOf s l k := by
  cases hi : (getLoom s l).image with
  | some i =>
    have hmod : modTileOf s l t f = modLoom s l fun x => { x with image := some { i with tiles := tmod {} i.tiles t f } } := by
      simp [modTileOf, hi]
    rw [hmod]
    simp only [tileOf, getLoom_modLoom, if_true, hi, tget_tmod]
    split
    · next h => rw [h]
    · rfl
  | none =>
    cases hh : (getLoom s l).holder with
    | true =>
      rw [modTileOf_holder hi hh, tileOf_holder (s := modTile s t f) hi hh, tileOf_holder hi hh, getTile_modTile]
      split
      · next h => rw [h]
      · rfl
    | false =>
      have hmod : modTileOf s l t f =
          modLoom (if (getLoom s l).lastHolder then modTile s t f else s) l fun x => { x with keep := tmod {} x.keep t f } := by
        simp [modTileOf, hi, hh]
      rw [hmod]
      cases hlast : (getLoom s l).lastHolder with
      | true =>
        have hloom : getLoom (modTile s t f) l = getLoom s l := rfl
        have htile : ∀ g, getTile (modLoom (modTile s t f) l g) k = if t = k then f (getTile s t) else getTile s k := fun _ => getTile_modTile ..
        simp only [tileOf, if_true, getLoom_modLoom, hloom, hi, hh, hlast, Bool.or_true, htile]
        split
        · next h => rw [h]
        · rfl
      | false =>
        simp only [tileOf, getLoom_modLoom, if_true, hi, hh, hlast, Bool.or_false, Bool.false_eq_true, if_false, tget_tmod]
        split
        · next h => rw [h]
        · rfl

/-- A loom that holds its bays has no other copy of its tiles. -/
theorem getLoom_modTileOf_holder {s : State} {l : Nat} (hi : (getLoom s l).image = none) (hh : (getLoom s l).holder = true) (k : Nat) (f : Tile → Tile) :
    getLoom (modTileOf s l k f) l = getLoom s l := by rw [modTileOf_holder hi hh]; rfl

/-! ## Frames that go out (R281, R282) -/

/-- The frames that a tile has sent or that wait, with the members they go to. -/
def goods (t : Tile) : List (Nat × Frame) := t.sentFrames.map fun q => (q.toward, q.fr)

/-- From s to t frames of a loom went out: its tiles keep all but how far their frames have gone, and a loom that holds its bays is as it was. -/
structure Driven (l : Nat) (s t : State) : Prop where
  mem : t.mem = s.mem
  regs : t.regs = s.regs
  out : ∃ new, t.out = s.out ++ new
  tile : ∀ k, ∃ sent, tileOf t l k = { tileOf s l k with sentFrames := sent } ∧ goods (tileOf t l k) = goods (tileOf s l k)
  loom : (getLoom s l).image = none → (getLoom s l).holder = true → getLoom t l = getLoom s l

namespace Driven
variable {l : Nat} {s t u : State} {α : Type}

theorem refl (s : State) : Driven l s s := ⟨rfl, rfl, ⟨[], by simp⟩, fun k => ⟨(tileOf s l k).sentFrames, rfl, rfl⟩, fun _ _ => rfl⟩

theorem trans (h : Driven l s t) (k : Driven l t u) : Driven l s u := by
  obtain ⟨new, hnew⟩ := h.out
  obtain ⟨more, hmore⟩ := k.out
  refine ⟨k.mem.trans h.mem, k.regs.trans h.regs, ⟨new ++ more, by rw [hmore, hnew, List.append_assoc]⟩, fun j => ?_, fun hi hh => ?_⟩
  · obtain ⟨_, h1, h2⟩ := h.tile j
    obtain ⟨sent, k1, k2⟩ := k.tile j
    exact ⟨sent, by rw [k1, h1], k2.trans h2⟩
  · have hs := h.loom hi hh
    exact (k.loom (by rw [hs, hi]) (by rw [hs, hh])).trans hs

theorem foldl {g : State → α → State} (hg : ∀ s x, Driven l s (g s x)) (xs : List α) (s : State) : Driven l s (xs.foldl g s) :=
  List.foldlRecOn (motive := fun u => Driven l s u) xs g (.refl s) fun u hu x _ => hu.trans (hg u x)

end Driven

theorem sendFrame_driven (l : Nat) (s : State) (dir : Option Nat) (toward : Nat) (f : Frame) : Driven l s (sendFrame s dir toward f) := by
  have hsent := sendFrame_sent s dir toward f
  obtain ⟨flits, hout⟩ := sendFrame_out s dir toward f
  have htile : ∀ k, tileOf (sendFrame s dir toward f) l k = tileOf s l k := tileOf_congr hsent.looms hsent.tiles l
  refine ⟨hsent.mem, hsent.regs, ⟨_, hout⟩, fun k => ⟨(tileOf s l k).sentFrames, by rw [htile], by rw [htile]⟩, fun _ _ => ?_⟩
  rw [getLoom, hsent.looms, getLoom]

/-- What stands of a sent frame changes, but neither the frame nor where it goes. -/
theorem modTileOf_driven (s : State) (l k : Nat) {f : Tile → Tile} {g : SentFrame → SentFrame}
    (hf : ∀ t, f t = { t with sentFrames := t.sentFrames.map g }) (hg : ∀ q, (g q).toward = q.toward ∧ (g q).fr = q.fr) :
    Driven l s (modTileOf s l k f) := by
  refine ⟨modTileOf_mem .., modTileOf_regs .., ⟨[], by rw [modTileOf_out, List.append_nil]⟩, fun j => ?_, fun hi hh => getLoom_modTileOf_holder hi hh k f⟩
  · rw [tileOf_modTileOf]
    split
    · refine ⟨_, hf _, ?_⟩
      rw [hf, goods, goods, List.map_map]
      refine List.map_congr_left fun q _ => ?_
      obtain ⟨h1, h2⟩ := hg q
      exact Prod.ext h1 h2
    · exact ⟨_, rfl, rfl⟩

theorem driveTile_driven (l : Nat) (s : State) (tile : Nat) : Driven l s (driveTile l s tile) := by
  refine Driven.foldl (fun u q => ?_) _ s
  split
  · refine Driven.trans (modTileOf_driven u l tile (fun _ => rfl) fun p => ?_) (sendFrame_driven l _ q.dir q.toward q.fr)
    split <;> exact ⟨rfl, rfl⟩
  · exact .refl u

theorem driveFrames_driven (s : State) (l : Nat) : Driven l s (driveFrames s l) := .foldl (driveTile_driven l) _ s

/-! ## Answers (R281, R282) -/

/-- An answer goes to the member that the frame came from, and names what it answers. -/
theorem answerFrame_replied (s : State) (l tile : Nat) (f : Frame) {kind : Nat} (hk : kind < 16) : Replied s.out (answerFrame s l tile f kind) f kind := by
  obtain ⟨n, dir, sender, job, heq⟩ := answerFrame_eq s l tile f kind
  obtain ⟨flits, hout⟩ := sendFrame_out { s with free := n } dir f.sender.toNat
    (sealFrame { f with jobId := job, kind := BitVec.ofNat 4 kind, len := 0, side := 0, sender, payload := [] })
  rw [heq]
  refine ⟨_, dir, _, hout, List.mem_cons_self, ?_, rfl, rfl, rfl, rfl, rfl, rfl, rfl⟩
  change (BitVec.ofNat 4 kind).toNat = kind
  rw [BitVec.toNat_ofNat, Nat.mod_eq_of_lt hk]

/-- What is sent before an answer leaves it an answer. -/
theorem Replied.after {out new : List OutMsg} {u t : State} {f : Frame} {kind : Nat} (h : Replied u.out t f kind) (hu : u.out = out ++ new) :
    Replied out t f kind := by
  obtain ⟨more, d, g, hout, hmem, hrest⟩ := h
  exact ⟨new ++ more, d, g, by rw [hout, hu, List.append_assoc], List.mem_append_right _ hmem, hrest⟩

theorem answerFrame_regs (s : State) (l tile : Nat) (f : Frame) (kind : Nat) : (answerFrame s l tile f kind).regs = s.regs := by
  obtain ⟨n, dir, sender, job, heq⟩ := answerFrame_eq s l tile f kind
  rw [heq, sendFrame_regs]

/-! ## Frames that come in -/

/-- A frame that is taken up leaves its link, and nothing else changes. -/
theorem takeDelivered_eq (s : State) (f : Frame) : ∃ ls, takeDelivered s f = { s with links := ls } := by
  unfold takeDelivered
  split
  · exact ⟨_, rfl⟩
  · exact ⟨s.links, rfl⟩

theorem frameOp_congr {s t : State} (hl : t.looms = s.looms) (ht : t.tiles = s.tiles) (l k : Nat) (f : Frame) : frameOp t l k f = frameOp s l k f := by
  rw [frameOp, tileOf_congr hl ht, frameOp]

/-- The state when a frame has taken a credit of its loom. -/
def creditTaken (s : State) (l : Nat) (f : Frame) : State := modLoom (takeDelivered s f) l fun y => { y with creditsUsed := y.creditsUsed + 1 }

section
variable {s : State} {tile l kind : Nat} {f : Frame} {sound : Bool}

/-- A frame in order, as its loom takes it. -/
theorem frameIn_eq (h : FrameOk s tile l kind f) : frameIn kind tile f sound s =
    if f.crc ≠ frameCrc f then answerFrame (takeDelivered s f) l tile f fkReplayReq
    else if (getLoom s l).holder && !(getLoom s l).parks then unparkFrame l (creditTaken s l f) tile ⟨f, sound⟩
    else framePark (creditTaken s l f) l tile ⟨f, sound⟩ := by
  obtain ⟨-, hloom, hkind, hlen, hcred, hdisc⟩ := h
  unfold frameIn
  rw [hloom]
  dsimp only
  rw [if_neg (by simp [hkind, hcred, hdisc])]
  simp [hlen, creditTaken]

theorem getLoom_creditTaken (s : State) (l k : Nat) (f : Frame) : getLoom (creditTaken s l f) k =
    if l = k then { getLoom s k with creditsUsed := (getLoom s k).creditsUsed + 1 } else getLoom s k := by
  obtain ⟨ls, h⟩ := takeDelivered_eq s f
  rw [creditTaken, h, getLoom_modLoom]
  split
  · next e => subst e; rfl
  · rfl

theorem creditTaken_tiles (s : State) (l : Nat) (f : Frame) : (creditTaken s l f).tiles = s.tiles := by
  rw [creditTaken, modLoom_tiles, takeDelivered_tiles]

theorem creditTaken_mem (s : State) (l : Nat) (f : Frame) : (creditTaken s l f).mem = s.mem := by
  obtain ⟨ls, h⟩ := takeDelivered_eq s f
  rw [creditTaken, h]
  rfl

/-! ## Chunks that are parked (R163, R193) -/

/-- What a record and its data write. -/
theorem parkWrite_stores (s : State) (x : Loom) (r : ParkRec) (coll : Bool) :
    (∀ m, x.map.find? (fun m => m.kind = mkPark) = some m → storesTo s.mem (parkWrite s x r coll).mem (parkStores x m.addr r coll)) ∧
    (x.map.find? (fun m => m.kind = mkPark) = none → (parkWrite s x r coll).mem = s.mem) := by
  refine ⟨fun m hm => ?_, fun hm => ?_⟩
  · have hmem : (parkWrite s x r coll).mem = storeBytes s.mem (parkStores x m.addr r coll) := by
      rw [parkWrite, hm]
      simp only [wrN, memSetN_eq_storeBytes]
      rw [← storeBytes_append]
      rfl
    rw [hmem]
    exact storesTo_storeBytes _ _
  · rw [parkWrite, hm]

theorem parkWrite_eq (s : State) (x : Loom) (r : ParkRec) (coll : Bool) : ∃ m, parkWrite s x r coll = { s with mem := m } := by
  have written (a b : Nat) (xs ys : List Byte) : ∃ m, wrN (wrN s a xs) b ys = { s with mem := m } := ⟨memSetN (memSetN s.mem a xs) b ys, rfl⟩
  unfold parkWrite
  split
  · exact written ..
  · exact ⟨s.mem, rfl⟩

/-- The record that a chunk is parked with. -/
theorem framePark_eq (s : State) (l tile : Nat) (m : InFrame) : ∃ r : ParkRec, r.tile = tile ∧ r.status = stOk ∧ r.data = m.fr.payload ∧
    (∀ o, frameOp s l tile m.fr = some o → r.strand = o.strand ∧ r.tag = o.tag ∧ r.off = o.dst) ∧
    framePark s l tile m = modLoom (parkWrite (drawFree s 3).2 (getLoom s l) r true) l fun y => { y with parkedFrames := y.parkedFrames ++ [(tile, m)] } := by
  have hop : frameOp (drawFree s 3).2 l tile m.fr = frameOp s l tile m.fr := rfl
  unfold framePark
  dsimp only
  rw [hop]
  cases hf : frameOp s l tile m.fr with
  | none => exact ⟨_, rfl, rfl, rfl, fun _ h => (Option.some_ne_none _ h.symm).elim, rfl⟩
  | some o => exact ⟨_, rfl, rfl, rfl, fun p hp => by cases hp; exact ⟨rfl, rfl, rfl⟩, rfl⟩

end
end Sys2Proof.Machine
end

section
/-! SUPPORT. Data frames of collectives (R163, R266, R279, R281, R282): one that is asked for again, one that is parked, one that waits and one that is used.
With it the claim about frames that arrive. -/
namespace Sys2Proof.Machine
open Sys2Proof

/-! ## Frames that wait and that are used -/

/-- A member's step settles one frame of the inbox and goes on. -/
theorem settleColls_step {s v : State} {l tile fuel : Nat} {m : InFrame} (hf : 0 < fuel) (hn : nextFrame s l tile = some (false, m, v)) :
    settleColls l tile fuel s = settleColls l tile (fuel - 1) (answerFrame (modLoom (modTile v tile fun t => { t with inbox := t.inbox.erase m }) l
      fun x => { x with creditsUsed := x.creditsUsed - 1 }) l tile m.fr fkAck) := by
  obtain ⟨n, rfl⟩ : ∃ n, fuel = n + 1 := ⟨fuel - 1, by omega⟩
  rw [settleColls, hn]
  rfl

theorem settleColls_none {s : State} {l tile : Nat} (fuel : Nat) (hn : nextFrame s l tile = none) : settleColls l tile fuel s = s := by
  cases fuel with
  | zero => rfl
  | succ fuel => rw [settleColls, hn]

theorem nextFrame_one {s : State} {l tile : Nat} {m : InFrame} (hself : (getTile s tile).selfbox = []) (hin : (getTile s tile).inbox = [m]) :
    nextFrame s l tile = (tryFrame s l tile m).map fun v => (false, m, v) := by
  unfold nextFrame
  dsimp only
  rw [hself, hin]
  simp only [List.findSome?_nil, List.findSome?_cons]
  cases tryFrame s l tile m <;> rfl

section
variable {s : State} {tile l kind : Nat} {f : Frame} {sound : Bool}

/-- The state in which a frame that came in order stands at its tile. -/
def boxed (s : State) (l tile : Nat) (m : InFrame) : State := modTile (creditTaken s l m.fr) tile fun v => { v with inbox := v.inbox ++ [m] }

theorem getTile_boxed (s : State) (l tile : Nat) (m : InFrame) : getTile (boxed s l tile m) tile =
    { getTile s tile with inbox := (getTile s tile).inbox ++ [m] } := by
  rw [boxed, getTile_modTile, if_pos rfl, getTile, creditTaken_tiles, getTile]

theorem getLoom_boxed (s : State) (l tile : Nat) (m : InFrame) : getLoom (boxed s l tile m) l =
    { getLoom s l with creditsUsed := (getLoom s l).creditsUsed + 1 } := by
  have h := getLoom_creditTaken s l l m.fr
  rw [if_pos rfl] at h
  exact h

theorem boxed_mem (s : State) (l tile : Nat) (m : InFrame) : (boxed s l tile m).mem = s.mem := creditTaken_mem s l m.fr

/-- The collective of a frame at a loom on its bays. -/
theorem frameOp_boxed (hi : (getLoom s l).image = none) (hh : (getLoom s l).holder = true) (m : InFrame) (g : Frame) :
    frameOp (boxed s l tile m) l tile g = (getTile s tile).colls.find? fun o => o.comm = g.comm.toNat && o.num % 65536 = g.seq.toNat := by
  rw [frameOp, tileOf_holder (by rw [getLoom_boxed]; exact hi) (by rw [getLoom_boxed]; exact hh), getTile_boxed]

/-- A frame that comes in order to a loom on its bays. -/
theorem frameIn_boxed (h : FrameOk s tile l kind f) (hc : f.crc = frameCrc f) (hh : (getLoom s l).holder = true) (hp : (getLoom s l).parks = false) :
    frameIn kind tile f sound s = settleColls l tile settleFuel (boxed s l tile ⟨f, sound⟩) := by
  rw [frameIn_eq h, if_neg (by simp [hc]), if_pos (by simp [hh, hp])]
  rfl

/-- A frame of a collective that is not issued yet waits. -/
theorem tryFrame_later {u : State} {m : InFrame} (hop : frameOp u l tile m.fr = none)
    (hahead : (m.fr.seq.toNat + 65536 - tget 0 (getTile u tile).collNum m.fr.comm.toNat % 65536) % 65536 < 32768) : tryFrame u l tile m = none := by
  unfold tryFrame
  dsimp only
  rw [hop]
  exact if_pos hahead

/-- A frame that its collective can use, in order, is used; one whose addition was found wrong ends the collective. -/
theorem tryFrame_use {u : State} {m : InFrame} {o : CollOp} {c : CollOut} {bad : Bool} (hop : frameOp u l tile m.fr = some o) (hst : o.status = none)
    (hw : o.waiting = false) (hfit : frameFits u l o m.fr = true) (hstale : frameStale o m.fr = false) (huse : frameUse u l tile o m.fr = some (c, bad)) :
    tryFrame u l tile m = if o.checked && !m.sound && useAdds o m.fr c.op then some (residueFail u l tile o)
      else some (if bad then abortColl (collPut l tile c) l tile o stBad else collPut l tile c) := by
  unfold tryFrame
  dsimp only
  rw [hop]
  dsimp only
  rw [if_neg (by simp [hst]), if_neg (by simp [hw]), if_neg (by simp [hfit]), if_neg (by simp [hstale]), huse]

end

/-! ## What the use of a frame leaves -/

section
variable {u : State} {tile l : Nat} {c : CollOut}

/-- The tile of a member when its operation is put back with what it sends. -/
def putTile (l tile : Nat) (c : CollOut) : State := modTile c.s tile fun t => { t with
  colls := t.colls.map fun q => if q.strand = c.op.strand && q.tag = c.op.tag then c.op else q
  selfbox := t.selfbox ++ (c.sent.filter (toSelf c.op)).map (·.2)
  sentFrames := t.sentFrames ++ (c.sent.filter fun q => !toSelf c.op q).map fun q => outFrame c.s (getLoom c.s l) c.op q.1 q.2 }

theorem collPut_sound (hp : c.poison = false) : collPut l tile c = driveTile l (putTile l tile c) tile := by
  unfold collPut
  dsimp only
  rw [hp]
  rfl

theorem outFrame_goods (s : State) (x : Loom) (o : CollOp) (toward : Nat) (f : Frame) :
    (outFrame s x o toward f).toward = toward ∧ (outFrame s x o toward f).fr = f := by
  unfold outFrame
  dsimp only
  split
  · exact ⟨rfl, rfl⟩
  · split <;> exact ⟨rfl, rfl⟩

/-- A member of a loom on its bays that sends nothing to itself and met no poison: its tile after a step. -/
theorem collPut_put (ht : c.s.tiles = u.tiles) (hl : c.s.looms = u.looms) (hp : c.poison = false) (hself : ∀ p, p ∈ c.sent → toSelf c.op p = false)
    (hi : (getLoom u l).image = none) (hh : (getLoom u l).holder = true) :
    let t := collPut l tile c
    t.mem = c.s.mem ∧ getLoom t l = getLoom u l ∧ (∃ new, t.out = c.s.out ++ new) ∧
      (∃ sent, getTile t tile = { getTile u tile with
        colls := (getTile u tile).colls.map fun q => if q.strand = c.op.strand && q.tag = c.op.tag then c.op else q, sentFrames := sent }) ∧
      goods (getTile t tile) = goods (getTile u tile) ++ c.sent := by
  have hloom : getLoom (putTile l tile c) l = getLoom u l := by
    change getLoom c.s l = _
    rw [getLoom, hl, getLoom]
  have htile : getTile c.s tile = getTile u tile := by rw [getTile, ht, getTile]
  have hnone : c.sent.filter (toSelf c.op) = [] := List.filter_eq_nil_iff.mpr fun p hm => by rw [hself p hm]; decide
  have hall : (c.sent.filter fun q => !toSelf c.op q) = c.sent := List.filter_eq_self.mpr fun p hm => by rw [hself p hm]; rfl
  have hput : getTile (putTile l tile c) tile = { getTile u tile with
      colls := (getTile u tile).colls.map fun q => if q.strand = c.op.strand && q.tag = c.op.tag then c.op else q
      sentFrames := (getTile u tile).sentFrames ++ c.sent.map fun q => outFrame c.s (getLoom c.s l) c.op q.1 q.2 } := by
    rw [putTile, getTile_modTile, if_pos rfl, htile, hnone, hall, List.map_nil, List.append_nil]
  obtain ⟨hmem, -, hout, hdrive, hsame⟩ := driveTile_driven l (putTile l tile c) tile
  have hlast := hsame (by rw [hloom, hi]) (by rw [hloom, hh])
  obtain ⟨sent, hsent, hgoods⟩ := hdrive tile
  rw [tileOf_holder (by rw [hlast, hloom, hi]) (by rw [hlast, hloom, hh]), tileOf_holder (by rw [hloom, hi]) (by rw [hloom, hh])] at hsent hgoods
  dsimp only
  rw [collPut_sound hp]
  refine ⟨hmem, hlast.trans hloom, hout, ⟨sent, by rw [hsent, hput]⟩, ?_⟩
  rw [hgoods, hput]
  simp only [goods, List.map_append, List.map_map]
  congr 1
  refine (List.map_congr_left fun q _ => ?_).trans (List.map_id _)
  obtain ⟨h1, h2⟩ := outFrame_goods c.s (getLoom c.s l) c.op q.1 q.2
  exact Prod.ext h1 h2

end

/-! ## The claim about frames that arrive -/

section
variable {s : State} {tile l kind : Nat} {f : Frame}

/-- The data frames, each as it comes in. -/
theorem exec_dataFrame (hd : s.svc.dark = false) {i : Instr} (h : (kind, i) ∈ [(1, Instr.partialFrame tile f true), (2, .finalFrame tile f),
      (3, .contribFrame tile ⟨f, true⟩), (4, .moveFrame tile f), (5, .countsFrame tile f), (6, .scalarFrame tile ⟨f, true⟩)]) :
    exec i s = .next (frameIn kind tile f true s) := by
  simp only [List.mem_cons, List.not_mem_nil, or_false, Prod.mk.injEq] at h
  rcases h with ⟨rfl, rfl⟩ | ⟨rfl, rfl⟩ | ⟨rfl, rfl⟩ | ⟨rfl, rfl⟩ | ⟨rfl, rfl⟩ | ⟨rfl, rfl⟩ <;>
    exact congrArg Host.Outcome.next (alive_light _ hd)

/-- A frame that fails its CRC is asked for again. -/
theorem frameIn_corrupt (h : FrameOk s tile l kind f) (hc : f.crc ≠ frameCrc f) :
    let t := frameIn kind tile f true s
    t.mem = s.mem ∧ t.tiles = s.tiles ∧ t.looms = s.looms ∧ Replied s.out t f 7 := by
  obtain ⟨ls, hlink⟩ := takeDelivered_eq s f
  rw [frameIn_eq h, if_pos hc, hlink]
  refine ⟨(answerFrame_mem ..).trans rfl, (answerFrame_tiles ..).trans rfl, (answerFrame_looms ..).trans rfl, ?_⟩
  exact answerFrame_replied { s with links := ls } l tile f (kind := fkReplayReq) (by decide)

/-- A frame for a loom that is away is parked. -/
theorem frameIn_parked (h : FrameOk s tile l kind f) (hc : f.crc = frameCrc f) (haway : (getLoom s l).holder = false ∨ (getLoom s l).parks = true) :
    let x := getLoom s l
    let t := frameIn kind tile f true s
    t.tiles = s.tiles ∧ (getLoom t l).parkedFrames = x.parkedFrames ++ [(tile, ⟨f, true⟩)] ∧ (getLoom t l).creditsUsed = x.creditsUsed + 1 ∧
      ∃ r : ParkRec, r.tile = tile ∧ r.status = stOk ∧ r.data = f.payload ∧ ParkedIn s t l r true ∧
        ∀ o, ((tileOf s l tile).colls.find? fun o => o.comm = f.comm.toNat && o.num % 65536 = f.seq.toNat) = some o →
          r.strand = o.strand ∧ r.tag = o.tag ∧ r.off = o.dst := by
  rw [frameIn_eq h, if_neg (by simp [hc]), if_neg (by rcases haway with h | h <;> simp [h])]
  obtain ⟨r, htile, hst, hdata, hop, heq⟩ := framePark_eq (creditTaken s l f) l tile ⟨f, true⟩
  have hloom := getLoom_creditTaken s l l f
  rw [if_pos rfl] at hloom
  rw [hloom] at heq
  obtain ⟨m, hm⟩ := parkWrite_eq (drawFree (creditTaken s l f) 3).2 { getLoom s l with creditsUsed := (getLoom s l).creditsUsed + 1 } r true
  obtain ⟨hparked, hnopark⟩ := parkWrite_stores (drawFree (creditTaken s l f) 3).2 { getLoom s l with creditsUsed := (getLoom s l).creditsUsed + 1 } r true
  have hmem : (drawFree (creditTaken s l f) 3).2.mem = s.mem := creditTaken_mem s l f
  rw [hmem] at hparked hnopark
  rw [hm] at heq hparked hnopark
  have hthen : ∀ g, getLoom (modLoom { (drawFree (creditTaken s l f) 3).2 with mem := m } l g) l = g (getLoom (creditTaken s l f) l) := fun g => by
    rw [getLoom_modLoom, if_pos rfl]
    rfl
  dsimp only
  rw [heq, hthen, hloom]
  refine ⟨creditTaken_tiles s l f, rfl, rfl, r, htile, hst, hdata, ⟨hparked, hnopark⟩, fun o ho => hop o ?_⟩
  rw [frameOp, ← ho]
  have hof : tileOf (creditTaken s l f) l tile = tileOf s l tile := by
    have htiles : getTile (creditTaken s l f) tile = getTile s tile := by rw [getTile, creditTaken_tiles, getTile]
    simp only [tileOf, hloom, htiles]
  rw [hof]

/-- A frame of a collective that is not issued yet waits, and holds its credit. -/
theorem frameIn_waits (h : FrameOk s tile l kind f) (hc : f.crc = frameCrc f) (hh : (getLoom s l).holder = true) (hp : (getLoom s l).parks = false)
    (hi : (getLoom s l).image = none) (hin : (getTile s tile).inbox = []) (hself : (getTile s tile).selfbox = [])
    (hop : ((getTile s tile).colls.find? fun o => o.comm = f.comm.toNat && o.num % 65536 = f.seq.toNat) = none)
    (hahead : (f.seq.toNat + 65536 - tget 0 (getTile s tile).collNum f.comm.toNat % 65536) % 65536 < 32768) :
    let t := frameIn kind tile f true s
    t.mem = s.mem ∧ (getTile t tile).inbox = [⟨f, true⟩] ∧ (getTile t tile).colls = (getTile s tile).colls ∧
      (getLoom t l).creditsUsed = (getLoom s l).creditsUsed + 1 := by
  have htile := getTile_boxed s l tile ⟨f, true⟩
  rw [hin] at htile
  have hwait : nextFrame (boxed s l tile ⟨f, true⟩) l tile = none := by
    rw [nextFrame_one (m := ⟨f, true⟩) (by rw [htile, hself]) (by rw [htile]; rfl),
      tryFrame_later ((frameOp_boxed hi hh _ _).trans hop) (by rw [htile]; exact hahead)]
    rfl
  rw [frameIn_boxed h hc hh hp, settleColls_none _ hwait]
  dsimp only
  rw [boxed_mem, getLoom_boxed, htile]
  exact ⟨rfl, rfl, rfl, rfl⟩

/-- A frame that its collective can use is used, and its credit goes back in an ACK. -/
theorem frameIn_used {o : CollOp} {c : CollOut} (h : FrameOk s tile l kind f) (hc : f.crc = frameCrc f) (hh : (getLoom s l).holder = true)
    (hp : (getLoom s l).parks = false) (hi : (getLoom s l).image = none) (hin : (getTile s tile).inbox = []) (hself : (getTile s tile).selfbox = [])
    (hop : ((getTile s tile).colls.find? fun o => o.comm = f.comm.toNat && o.num % 65536 = f.seq.toNat) = some o) (hst : o.status = none)
    (hw : o.waiting = false) (hfit : frameFits (boxed s l tile ⟨f, true⟩) l o f = true) (hstale : frameStale o f = false)
    (huse : frameUse (boxed s l tile ⟨f, true⟩) l tile o f = some (c, false)) (hpoison : c.poison = false)
    (htiles : c.s.tiles = (boxed s l tile ⟨f, true⟩).tiles) (hlooms : c.s.looms = (boxed s l tile ⟨f, true⟩).looms)
    (hsent : ∀ p, p ∈ c.sent → toSelf c.op p = false) :
    let t := frameIn kind tile f true s
    t.mem = c.s.mem ∧ (getTile t tile).inbox = [] ∧ getLoom t l = getLoom s l ∧ Replied c.s.out t f 8 ∧
      (getTile t tile).colls = (getTile s tile).colls.map (fun q => if q.strand = c.op.strand && q.tag = c.op.tag then c.op else q) ∧
      (getTile t tile).sentFrames.map (fun q => (q.toward, q.fr)) = (getTile s tile).sentFrames.map (fun q => (q.toward, q.fr)) ++ c.sent := by
  have htile := getTile_boxed s l tile ⟨f, true⟩
  have hloom := getLoom_boxed s l tile ⟨f, true⟩
  have hfind := (frameOp_boxed hi hh ⟨f, true⟩ f).trans hop
  rw [hin] at htile
  rw [frameIn_boxed h hc hh hp]
  generalize boxed s l tile ⟨f, true⟩ = v at *
  obtain ⟨hmem, hsame, hout, ⟨sent, hput⟩, hgoods⟩ := collPut_put htiles hlooms hpoison hsent (by rw [hloom]; exact hi) (by rw [hloom]; exact hh) (tile := tile)
  have hnext : nextFrame v l tile = some (false, ⟨f, true⟩, collPut l tile c) := by
    rw [nextFrame_one (m := ⟨f, true⟩) (by rw [htile, hself]) (by rw [htile]; rfl), tryFrame_use hfind hst hw hfit hstale huse]
    simp
  rw [settleColls_step (by decide) hnext]
  generalize collPut l tile c = p at *
  have hlast := answerFrame_replied (modLoom (modTile p tile fun t => { t with inbox := t.inbox.erase ⟨f, true⟩ }) l
    fun x => { x with creditsUsed := x.creditsUsed - 1 }) l tile f (kind := fkAck) (by decide)
  have hamem := answerFrame_mem (modLoom (modTile p tile fun t => { t with inbox := t.inbox.erase ⟨f, true⟩ }) l
    fun x => { x with creditsUsed := x.creditsUsed - 1 }) l tile f fkAck
  have hatile : getTile (answerFrame (modLoom (modTile p tile fun t => { t with inbox := t.inbox.erase ⟨f, true⟩ }) l
      fun x => { x with creditsUsed := x.creditsUsed - 1 }) l tile f fkAck) tile = { getTile p tile with inbox := [] } := by
    rw [getTile, answerFrame_tiles, modLoom_tiles, ← getTile, getTile_modTile, if_pos rfl, hput, htile]
    simp
  have haloom : getLoom (answerFrame (modLoom (modTile p tile fun t => { t with inbox := t.inbox.erase ⟨f, true⟩ }) l
      fun x => { x with creditsUsed := x.creditsUsed - 1 }) l tile f fkAck) l = getLoom s l := by
    rw [getLoom, answerFrame_looms, ← getLoom, getLoom_modLoom, if_pos rfl]
    change { getLoom p l with creditsUsed := (getLoom p l).creditsUsed - 1 } = _
    rw [hsame, hloom, Nat.add_sub_cancel]
  generalize answerFrame (modLoom (modTile p tile fun t => { t with inbox := t.inbox.erase ⟨f, true⟩ }) l
    fun x => { x with creditsUsed := x.creditsUsed - 1 }) l tile f fkAck = a at *
  have hbox : (getTile p tile).selfbox = [] := by rw [hput, htile, hself]
  obtain ⟨new, hnew⟩ := hout
  rw [settleColls_empty l _ (by rw [hatile]) (by rw [hatile]; exact hbox)]
  refine ⟨hamem.trans hmem, by rw [hatile], haloom, Replied.after (t := a) (u := p) hlast hnew, ?_, ?_⟩
  · rw [hatile, hput, htile]
  · rw [hatile]
    refine hgoods.trans ?_
    rw [htile]
    rfl

theorem framesArrive : FramesArrive := by
  intro s tile l kind f i h hi x u op
  obtain ⟨hd, -⟩ := id h
  refine ⟨fun hc => ⟨_, exec_dataFrame hd hi, frameIn_corrupt h hc⟩, fun hc haway => ⟨_, exec_dataFrame hd hi, frameIn_parked h hc haway⟩,
    fun hc hh hp himg hin hself hop hahead => ⟨_, exec_dataFrame hd hi, frameIn_waits h hc hh hp himg hin hself hop hahead⟩,
    ?_⟩
  intro o c hc hh hp himg hin hself hop hst hw s1 hfit hstale huse hpoison htiles hlooms hsent
  refine ⟨_, exec_dataFrame hd hi, ?_⟩
  exact frameIn_used h hc hh hp himg hin hself hop hst hw hfit hstale huse hpoison htiles hlooms hsent

end
end Sys2Proof.Machine
end

section
/-! SUPPORT. The control frames of collectives (R281 to R283): an ACK, a request for a copy, an ABORT. With them the claim about them. -/
namespace Sys2Proof.Machine
open Sys2Proof

section
variable {s : State} {tile l : Nat} {f : Frame}

theorem tileOf_takeDelivered (s : State) (f : Frame) (l k : Nat) : tileOf (takeDelivered s f) l k = tileOf s l k :=
  tileOf_congr (takeDelivered_looms s f) (takeDelivered_tiles s f) l k

theorem takeDelivered_mem_regs_out (s : State) (f : Frame) :
    (takeDelivered s f).mem = s.mem ∧ (takeDelivered s f).regs = s.regs ∧ (takeDelivered s f).out = s.out := by
  obtain ⟨ls, h⟩ := takeDelivered_eq s f
  rw [h]
  exact ⟨rfl, rfl, rfl⟩

theorem exec_ackFrame (hd : s.svc.dark = false) : exec (.ackFrame tile f) s = .next (ackIn tile f s) := congrArg Host.Outcome.next (alive_light _ hd)

theorem exec_replayReqFrame (hd : s.svc.dark = false) : exec (.replayReqFrame tile f) s = .next (replayReq tile f s) :=
  congrArg Host.Outcome.next (alive_light _ hd)

theorem exec_abortFrame (hd : s.svc.dark = false) : exec (.abortFrame tile f) s = .next (abortIn tile f s) :=
  congrArg Host.Outcome.next (alive_light _ hd)

/-- A control frame in order for a loom: what it is, the loom, and its check values. -/
structure ControlFrame (s : State) (tile l : Nat) (f : Frame) (kind : Nat) : Prop where
  loom : frameLoom s tile f = some l
  kind : f.kind.toNat = kind
  crc : f.crc = frameCrc f
  len : f.len.toNat = f.payload.length

theorem ControlFrame.taken {kind : Nat} (h : ControlFrame s tile l f kind) : ¬ (!controlOk f kind) = true := by
  rw [controlOk, h.kind, ← h.crc, h.len]
  simp

/-! ## ACK and REPLAY_REQ -/

section
variable {q : SentFrame} (hq : (tileOf s l tile).sentFrames.find? (answers f) = some q)
include hq

/-- An ACK releases the copy that it answers. -/
theorem ackIn_released (h : ControlFrame s tile l f fkAck) :
    let t := ackIn tile f s
    t.mem = s.mem ∧ t.regs = s.regs ∧ goods (tileOf t l tile) = ((tileOf s l tile).sentFrames.erase q).map fun p => (p.toward, p.fr) := by
  have heq : ackIn tile f s =
      driveFrames (modTileOf (takeDelivered s f) l tile fun t => { t with sentFrames := t.sentFrames.erase q }) l := by
    unfold ackIn
    rw [h.loom]
    dsimp only
    rw [if_neg h.taken, tileOf_takeDelivered, hq]
  obtain ⟨hm, hr, -⟩ := takeDelivered_mem_regs_out s f
  have hdrive := driveFrames_driven (modTileOf (takeDelivered s f) l tile fun t => { t with sentFrames := t.sentFrames.erase q }) l
  obtain ⟨_, _, hgoods⟩ := hdrive.tile tile
  dsimp only
  rw [heq]
  refine ⟨hdrive.mem.trans ((modTileOf_mem ..).trans hm), hdrive.regs.trans ((modTileOf_regs ..).trans hr), hgoods.trans ?_⟩
  rw [tileOf_modTileOf, if_pos rfl, tileOf_takeDelivered]
  rfl

/-- The state in which a copy stands with a number of attempts. -/
def attempted (s : State) (tile l : Nat) (f : Frame) (q : SentFrame) (n : Nat) : State :=
  modTileOf (takeDelivered s f) l tile fun t => { t with
    sentFrames := t.sentFrames.map fun (p : SentFrame) => if p = q then { p with attempts := n } else p }

theorem replayReq_eq (h : ControlFrame s tile l f fkReplayReq) : replayReq tile f s =
    if q.attempts < 8 then
      sendFrame (countReg (raiseEvt (attempted s tile l f q (q.attempts + 1)) .coll 3 (some l)) 0x00700038) q.dir q.toward q.fr
    else match q.dir with
      | some d => linkDown (attempted s tile l f q 0) d
      | none => loomUncorr (attempted s tile l f q 0) l tile := by
  unfold replayReq
  rw [h.loom]
  dsimp only
  rw [if_neg h.taken, tileOf_takeDelivered, hq]
  rfl

/-- A copy goes out again, and its attempts and the resends count. -/
theorem replayReq_again (h : ControlFrame s tile l f fkReplayReq) (h8 : q.attempts < 8) :
    let t := replayReq tile f s
    t.mem = s.mem ∧ (∃ flits, t.out = s.out ++ .frame q.dir q.toward q.fr :: flits) ∧
      (tileOf t l tile).sentFrames = (tileOf s l tile).sentFrames.map (fun p => if p = q then { p with attempts := p.attempts + 1 } else p) ∧
      (getReg t 0x00700038).toNat = min 0xFFFFFFFF ((getReg s 0x00700038).toNat + 1) ∧ (getReg t 0x00700008).getLsbD 3 = true := by
  have htile : tileOf (attempted s tile l f q (q.attempts + 1)) l tile = { tileOf s l tile with
      sentFrames := (tileOf s l tile).sentFrames.map fun (p : SentFrame) => if p = q then { p with attempts := q.attempts + 1 } else p } := by
    rw [attempted, tileOf_modTileOf, if_pos rfl, tileOf_takeDelivered]
  have hkept : (attempted s tile l f q (q.attempts + 1)).mem = s.mem ∧ (attempted s tile l f q (q.attempts + 1)).regs = s.regs ∧
      (attempted s tile l f q (q.attempts + 1)).out = s.out := by
    obtain ⟨hm, hr, ho⟩ := takeDelivered_mem_regs_out s f
    exact ⟨(modTileOf_mem ..).trans hm, (modTileOf_regs ..).trans hr, (modTileOf_out ..).trans ho⟩
  rw [replayReq_eq hq h, if_pos h8]
  generalize attempted s tile l f q (q.attempts + 1) = p at htile hkept
  obtain ⟨hm, hr, ho⟩ := hkept
  have hrep := raiseEvt_reported p .coll 3 (some l) 0 0
  have hsent := sendFrame_sent (countReg (raiseEvt p .coll 3 (some l)) 0x00700038) q.dir q.toward q.fr
  obtain ⟨flits, hout⟩ := sendFrame_out (countReg (raiseEvt p .coll 3 (some l)) 0x00700038) q.dir q.toward q.fr
  refine ⟨hsent.mem.trans (hrep.mem.trans hm), ⟨flits, hout.trans ?_⟩, ?_, ?_, ?_⟩
  · rw [countReg_out, hrep.out, ho]
  · rw [tileOf_congr hsent.looms hsent.tiles, tileOf_congr (countReg_looms ..) (countReg_tiles ..),
      tileOf_congr (raiseEvt_looms p .coll 3 (some l) 0 0) hrep.tiles, htile]
    refine List.map_congr_left fun r _ => ?_
    split
    · next e => rw [e]
    · rfl
  · rw [getReg, hsent.regs, ← getReg, getReg_countReg, if_pos rfl, toNat_satAdd, getReg_raiseEvt, if_neg (by decide), getReg, hr]
    rfl
  · rw [getReg, hsent.regs, ← getReg, getReg_countReg, if_neg (by decide)]
    exact getLsbD_raiseEvt p .coll (by decide) ..

/-- After eight attempts the link goes DOWN, or the loom stops. -/
theorem replayReq_failed (h : ControlFrame s tile l f fkReplayReq) (h8 : 8 ≤ q.attempts) :
    let t := replayReq tile f s
    (∀ d, q.dir = some d → (getLink t d).st = 3 ∧ t.mem = s.mem) ∧ (q.dir = none → (getLoom s l).st = .running → (getLoom t l).st = .faulted) := by
  have hmem : (attempted s tile l f q 0).mem = s.mem := (modTileOf_mem ..).trans (takeDelivered_mem_regs_out s f).1
  have hst : (getLoom (attempted s tile l f q 0) l).st = (getLoom s l).st := by
    rw [attempted, (modTileOf_keepsErrors l tile _ (.refl _)).st, getLoom, takeDelivered_looms, getLoom]
  dsimp only
  rw [replayReq_eq hq h, if_neg (by omega)]
  generalize attempted s tile l f q 0 = p at hmem hst
  refine ⟨fun d hd => ?_, fun hd hrun => ?_⟩
  · rw [hd]
    dsimp only
    by_cases hdown : (getLink p d).st = 3
    · have hsame : linkDown p d = p := if_pos hdown
      rw [hsame]
      exact ⟨hdown, hmem⟩
    · rw [getLink_linkDown p d d hdown, if_pos rfl, (linkDown_reported p d hdown).mem]
      exact ⟨rfl, hmem⟩
  · rw [hd]
    dsimp only
    rw [loomUncorr_st, if_pos rfl, hst, hrun]
    rfl

end

/-! ## ABORT -/

theorem stListed_iff (st : Byte) : stListed st = true ↔ st.toNat ≤ 0x12 := by
  simp [stListed, BitVec.le_def]

theorem abortIn_eq (h : ControlFrame s tile l f fkAbort) : abortIn tile f s =
    if stListed (f.payload.headD stCancelled) then
      answerFrame (abortTake (takeDelivered s f) l tile f (f.payload.headD stCancelled)) l tile f fkAck
    else takeDelivered s f := by
  unfold abortIn
  rw [h.loom]
  dsimp only
  rw [if_neg (not_not.mpr h.kind), if_neg h.taken]
  cases stListed (f.payload.headD stCancelled) <;> rfl

/-- A status that no table lists ends nothing. -/
theorem abortIn_unlisted (h : ControlFrame s tile l f fkAbort) (hst : 0x12 < (f.payload.headD stCancelled).toNat) :
    let t := abortIn tile f s
    t.mem = s.mem ∧ t.tiles = s.tiles ∧ t.looms = s.looms ∧ t.regs = s.regs ∧ t.out = s.out := by
  obtain ⟨hm, hr, ho⟩ := takeDelivered_mem_regs_out s f
  dsimp only
  rw [abortIn_eq h, if_neg (by rw [stListed_iff]; omega)]
  exact ⟨hm, takeDelivered_tiles s f, takeDelivered_looms s f, hr, ho⟩

/-- An ABORT ends the collective that it names, shows the event and is acknowledged. -/
theorem abortIn_ends {o : CollOp} (h : ControlFrame s tile l f fkAbort) (ho : o.status = none)
    (hop : ((tileOf s l tile).colls.find? fun o => o.comm = f.comm.toNat && o.num % 65536 = f.seq.toNat) = some o)
    (hst : (f.payload.headD stCancelled).toNat ≤ 0x12) :
    let t := abortIn tile f s
    t.mem = s.mem ∧ (getReg t 0x00700008).getLsbD 8 = true ∧ Replied s.out t f 8 ∧ (tileOf t l tile).colls = (tileOf s l tile).colls.map fun q =>
      if q.comm = o.comm ∧ q.num = o.num ∧ q.status = none then { q with status := some (f.payload.headD stCancelled) } else q := by
  have hfind : frameOp (takeDelivered s f) l tile f = some o := (frameOp_congr (takeDelivered_looms s f) (takeDelivered_tiles s f) l tile f).trans hop
  have htake : abortTake (takeDelivered s f) l tile f (f.payload.headD stCancelled) = raiseEvt (modTileOf (takeDelivered s f) l tile fun t => { t with
      colls := t.colls.map fun q => if q.comm = o.comm && q.num = o.num then endColl (f.payload.headD stCancelled) q else q }) .coll 8 (some l) := by
    unfold abortTake
    rw [hfind]
    exact if_neg (by rw [ho]; decide)
  rw [abortIn_eq h, if_pos ((stListed_iff _).mpr hst), htake]
  generalize hp : (modTileOf (takeDelivered s f) l tile fun t => { t with
      colls := t.colls.map fun q => if q.comm = o.comm && q.num = o.num then endColl (f.payload.headD stCancelled) q else q }) = p
  obtain ⟨hm, -, hout⟩ := takeDelivered_mem_regs_out s f
  have hpm : p.mem = s.mem := by rw [← hp, modTileOf_mem, hm]
  have hpo : p.out = s.out := by rw [← hp, modTileOf_out, hout]
  have hrep := raiseEvt_reported p .coll 8 (some l) 0 0
  refine ⟨(answerFrame_mem ..).trans (hrep.mem.trans hpm), ?_, ?_, ?_⟩
  · rw [getReg, answerFrame_regs, ← getReg]
    exact getLsbD_raiseEvt p .coll (by decide) ..
  · rw [← hpo, ← hrep.out]
    exact answerFrame_replied _ l tile f (by decide)
  · rw [tileOf_congr (answerFrame_looms ..) (answerFrame_tiles ..), tileOf_congr (raiseEvt_looms p .coll 8 (some l) 0 0) hrep.tiles, ← hp,
      tileOf_modTileOf, if_pos rfl, tileOf_takeDelivered]
    refine List.map_congr_left fun q _ => ?_
    cases hq : q.status <;> simp [endColl, hq]

end

theorem controlFrames : ControlFrames := by
  intro s tile l f hd hloom hcrc hlen
  refine ⟨fun q hk hq => ⟨_, exec_ackFrame hd, ackIn_released hq ⟨hloom, hk, hcrc, hlen⟩⟩,
    fun q hk hq => ⟨fun h8 => ⟨_, exec_replayReqFrame hd, replayReq_again hq ⟨hloom, hk, hcrc, hlen⟩ h8⟩,
      fun h8 => ⟨_, exec_replayReqFrame hd, replayReq_failed hq ⟨hloom, hk, hcrc, hlen⟩ h8⟩⟩,
    fun o hk ho hop => ⟨fun hst => ⟨_, exec_abortFrame hd, abortIn_ends ⟨hloom, hk, hcrc, hlen⟩ ho hop hst⟩,
      fun hst => ⟨_, exec_abortFrame hd, abortIn_unlisted ⟨hloom, hk, hcrc, hlen⟩ hst⟩⟩⟩

end Sys2Proof.Machine
end

section
/-! SUPPORT. A wrong addition of a checked collective (R287): the abort at the members of a loom on its bays, the adder that leaves service. With
it the claim about the residue check, and the claim about frames. -/
namespace Sys2Proof.Machine
open Sys2Proof

/-! ## An abort at the members on the bays (R283) -/

/-- Every operation of a tile that is a collective's has ended. -/
def Ended (o : CollOp) (t : Tile) : Prop := ∀ q, q ∈ t.colls → q.comm = o.comm → q.num = o.num → q.status.isSome = true

/-- What an abort makes of a member's tile. -/
def abortMember (o : CollOp) (st : Byte) (u : Tile) : Tile :=
  if u.colls.any fun q => q.comm = o.comm && q.num = o.num then
    { u with colls := u.colls.map fun q => if q.comm = o.comm && q.num = o.num then endColl st q else q }
  else if o.num < tget 0 u.collNum o.comm then u
  else { u with aborted := u.aborted ++ [(o.comm, o.num, st)] }

/-- A member's collective ends, whether the member has issued it or will. -/
theorem abortMember_ended (o : CollOp) (st : Byte) (u : Tile) : Ended o (abortMember o st u) := by
  unfold abortMember
  split
  · intro q hq hc hn
    obtain ⟨p, _, rfl⟩ := List.mem_map.mp hq
    by_cases hp : (decide (p.comm = o.comm) && decide (p.num = o.num)) = true
    · rw [if_pos hp]
      exact Option.isSome_iff_ne_none.mpr (endColl_status st p)
    · rw [if_neg hp] at hc hn
      exact absurd (by simp [hc, hn]) hp
  · next hnone =>
    have absent : ∀ q, q ∈ u.colls → q.comm = o.comm → q.num = o.num → q.status.isSome = true := fun q hq hc hn =>
      absurd (List.any_eq_true.mpr ⟨q, hq, by simp [hc, hn]⟩) hnone
    split <;> exact absent

/-- From s to t a loom's members are aborted: the loom is as it was, and its tile keeps its frames and what has ended. -/
structure Aborting (o : CollOp) (l tile : Nat) (s t : State) : Prop where
  loom : getLoom t l = getLoom s l
  inbox : (getTile t tile).inbox = (getTile s tile).inbox
  selfbox : (getTile t tile).selfbox = (getTile s tile).selfbox
  ended : Ended o (getTile s tile) → Ended o (getTile t tile)

namespace Aborting
variable {o : CollOp} {l tile : Nat} {s t u : State} {α : Type}

theorem refl (o : CollOp) (l tile : Nat) (s : State) : Aborting o l tile s s := ⟨rfl, rfl, rfl, id⟩

theorem trans (h : Aborting o l tile s t) (k : Aborting o l tile t u) : Aborting o l tile s u :=
  ⟨k.loom.trans h.loom, k.inbox.trans h.inbox, k.selfbox.trans h.selfbox, fun he => k.ended (h.ended he)⟩

theorem of_same (hl : t.looms = s.looms) (ht : t.tiles = s.tiles) : Aborting o l tile s t := by
  have htile : getTile t tile = getTile s tile := by rw [getTile, ht, getTile]
  refine ⟨by rw [getLoom, hl, getLoom], ?_, ?_, ?_⟩ <;> rw [htile]
  exact id

theorem foldl {g : State → α → State} (hg : ∀ u x, Aborting o l tile s u → Aborting o l tile s (g u x)) (xs : List α) (h : Aborting o l tile s t) :
    Aborting o l tile s (xs.foldl g t) := List.foldlRecOn xs g h fun u hu x _ => hg u x hu

end Aborting

/-- The abort of one member of the loom, by its rank and tile. -/
def abortRank (l : Nat) (o : CollOp) (st : Byte) (s : State) (p : Nat × Nat) : State :=
  if p.1 / o.perBox ≠ o.g then s else modTileOf s l p.2 (abortMember o st)

section
variable {s u : State} {l tile : Nat} {o : CollOp} {st : Byte}

theorem abortColl_eq (s : State) (l tile : Nat) (o : CollOp) (st : Byte) :
    let tiles := ((getLoom s l).cmd.map (·.tiles)).getD [tile]
    abortColl s l tile o st = raiseEvt (sendAborts (((List.range tiles.length).zip tiles).foldl (abortRank l o st) s) l tile o st) .coll 8 (some l) := by
  have htiles : (match (getLoom s l).cmd with
      | some c => c.tiles
      | none => [tile]) = ((getLoom s l).cmd.map (·.tiles)).getD [tile] := by cases (getLoom s l).cmd <;> rfl
  dsimp only
  rw [← htiles]
  rfl

section
variable (hi : (getLoom s l).image = none) (hh : (getLoom s l).holder = true)
include hi hh

theorem abortRank_aborting (p : Nat × Nat) (h : Aborting o l tile s u) : Aborting o l tile s (abortRank l o st u p) := by
  unfold abortRank
  split
  · exact h
  · rw [modTileOf_holder (by rw [h.loom, hi]) (by rw [h.loom, hh])]
    refine h.trans ⟨rfl, ?_, ?_, fun he => ?_⟩
    all_goals rw [getTile_modTile]; split
    · next e => rw [e, abortMember]; split_ifs <;> rfl
    · rfl
    · next e => rw [e, abortMember]; split_ifs <;> rfl
    · rfl
    · exact abortMember_ended _ _ _
    · exact he

theorem foldl_abortRank_aborting (ps : List (Nat × Nat)) (h : Aborting o l tile s u) : Aborting o l tile s (ps.foldl (abortRank l o st) u) :=
  .foldl (fun _ p hv => abortRank_aborting hi hh p hv) ps h

/-- The member's own collective has ended once its rank was reached. -/
theorem foldl_abortRank_ended {r : Nat} {ps : List (Nat × Nat)} (hmem : (r, tile) ∈ ps) (hr : r / o.perBox = o.g) :
    Ended o (getTile (ps.foldl (abortRank l o st) s) tile) := by
  obtain ⟨before, rest, rfl⟩ := List.append_of_mem hmem
  rw [List.foldl_append, List.foldl_cons]
  have hbefore : Aborting o l tile s (before.foldl (abortRank l o st) s) := foldl_abortRank_aborting hi hh before (.refl o l tile s)
  generalize before.foldl (abortRank l o st) s = v at hbefore
  have hiv : (getLoom v l).image = none := by rw [hbefore.loom, hi]
  have hhv : (getLoom v l).holder = true := by rw [hbefore.loom, hh]
  have hhere : Ended o (getTile (abortRank l o st v (r, tile)) tile) := by
    rw [abortRank, if_neg (not_not.mpr hr), modTileOf_holder hiv hhv, getTile_modTile, if_pos rfl]
    exact abortMember_ended _ _ _
  have hone : Aborting o l tile v (abortRank l o st v (r, tile)) := abortRank_aborting hiv hhv _ (.refl o l tile v)
  generalize abortRank l o st v (r, tile) = w at hone hhere
  exact (foldl_abortRank_aborting (by rw [hone.loom, hiv]) (by rw [hone.loom, hhv]) rest (.refl o l tile w)).ended hhere

theorem sendAborts_aborting (h : Aborting o l tile s u) : Aborting o l tile s (sendAborts u l tile o st) := by
  unfold sendAborts
  refine .foldl (fun v q hv => ?_) _ ?_
  · exact hv.trans (.of_same (sendFrame_looms ..) (sendFrame_tiles ..))
  · rw [modTileOf_holder (by rw [h.loom, hi]) (by rw [h.loom, hh])]
    refine h.trans ⟨rfl, ?_, ?_, fun he => ?_⟩ <;> rw [getTile_modTile, if_pos rfl]
    exact he

theorem abortColl_aborting : Aborting o l tile s (abortColl s l tile o st) := by
  rw [abortColl_eq]
  have hfold := foldl_abortRank_aborting (st := st) hi hh ((List.range (((getLoom s l).cmd.map (·.tiles)).getD [tile]).length).zip
    (((getLoom s l).cmd.map (·.tiles)).getD [tile])) (.refl o l tile s)
  exact (sendAborts_aborting (st := st) hi hh hfold).trans (.of_same (raiseEvt_looms _ .coll 8 (some l) 0 0) (raiseEvt_tiles _ .coll 8 (some l) 0 0))

/-- An abort ends the collective at each member of its group. -/
theorem abortColl_ended {r : Nat} (hrank : (((getLoom s l).cmd.map (·.tiles)).getD [tile])[r]? = some tile) (hr : r / o.perBox = o.g) :
    Ended o (getTile (abortColl s l tile o st) tile) := by
  rw [abortColl_eq]
  generalize ((getLoom s l).cmd.map (·.tiles)).getD [tile] = tiles at hrank
  obtain ⟨hlt, hget⟩ := List.getElem?_eq_some_iff.mp hrank
  have hmem : (r, tile) ∈ (List.range tiles.length).zip tiles := by
    refine List.mem_iff_getElem.mpr ⟨r, by simpa using hlt, ?_⟩
    rw [List.getElem_zip, List.getElem_range, hget]
  have hended := foldl_abortRank_ended hi hh (st := st) hmem hr
  have hfold : Aborting o l tile s (((List.range tiles.length).zip tiles).foldl (abortRank l o st) s) :=
    foldl_abortRank_aborting hi hh _ (.refl o l tile s)
  generalize ((List.range tiles.length).zip tiles).foldl (abortRank l o st) s = v at hended hfold
  have hsend : Aborting o l tile v (sendAborts v l tile o st) :=
    sendAborts_aborting (by rw [hfold.loom, hi]) (by rw [hfold.loom, hh]) (.refl o l tile v)
  rw [getTile, raiseEvt_tiles _ .coll 8 (some l) 0 0, ← getTile]
  exact hsend.ended hended

end

/-! ## An adder that leaves service (R286, R287) -/

theorem adderReport_reported (s : State) (die adder : Nat) : Reported s (adderReport s die adder) :=
  ((((setReg_reported s _ _).trans (capture_reported ..)).trans (raiseEvt_reported ..)).trans (raiseEvt_reported ..)).trans (noteCause_reported ..)

/-- A die with an adder left stops no loom. -/
theorem adderOut_left {r : W64} {a b : Nat} (hab : a ≠ b) (hb : b < 4) (hr : r.getLsbD b = true) : adderOut r a &&& 0xF ≠ 0 := by
  intro h
  have hbit : (adderOut r a &&& 0xF).getLsbD b = (0 : W64).getLsbD b := congrArg (fun v : W64 => v.getLsbD b) h
  have hmask : (0xF : W64).getLsbD b = true := by
    have : b = 0 ∨ b = 1 ∨ b = 2 ∨ b = 3 := by omega
    rcases this with rfl | rfl | rfl | rfl <;> rfl
  rw [BitVec.getLsbD_and, adderOut, BitVec.getLsbD_or, getLsbD_clear, hr, hmask] at hbit
  simp [hab] at hbit

theorem abortColl_adders (s : State) (l tile : Nat) (o : CollOp) (st : Byte) (die : Nat) :
    getReg (abortColl s l tile o st) (adderReg die) = getReg s (adderReg die) := by
  have hfold : ∀ ps : List (Nat × Nat), (ps.foldl (abortRank l o st) s).regs = s.regs := fun ps => foldl_regs (fun v p => by
    unfold abortRank
    split
    · rfl
    · exact modTileOf_regs ..) ps s
  have hcoll : Src.coll.status ≠ adderReg die := by
    change 0x00700008 ≠ _
    rw [adderReg]
    omega
  rw [abortColl_eq, getReg_raiseEvt, if_neg hcoll, getReg, sendAborts_regs, hfold, getReg]

/-- The state when the residue event is raised and the collective is aborted. -/
def residueAborted (s : State) (l tile : Nat) (o : CollOp) : State :=
  abortColl (raiseEvt (drawFree s 1).2 .coll 2 (some l) (dieOfBay (bayOf tile))) l tile o stUncorr

theorem residueAborted_adders (s : State) (l tile : Nat) (o : CollOp) (die : Nat) :
    getReg (residueAborted s l tile o) (adderReg die) = getReg s (adderReg die) := by
  have hcoll : Src.coll.status ≠ adderReg die := by
    change 0x00700008 ≠ _
    rw [adderReg]
    omega
  rw [residueAborted, abortColl_adders, getReg_raiseEvt, if_neg hcoll]
  rfl

/-- With two adders in service, the one that leaves stops no loom. -/
theorem residueFail_eq {i j : Nat} (hij : i < j) (hj : j < 4) (hbi : (getReg s (adderReg (dieOfBay (bayOf tile)))).getLsbD i = true)
    (hbj : (getReg s (adderReg (dieOfBay (bayOf tile)))).getLsbD j = true) : ∃ a,
    residueFail s l tile o = adderFail (residueAborted s l tile o) (dieOfBay (bayOf tile)) a ∧
    residueFail s l tile o = adderReport (residueAborted s l tile o) (dieOfBay (bayOf tile)) a := by
  have hreg := residueAborted_adders s l tile o (dieOfBay (bayOf tile))
  have hup : ∃ a, (getReg s (adderReg (dieOfBay (bayOf tile)))).getLsbD a = true ∧
      residueFail s l tile o = adderFail (residueAborted s l tile o) (dieOfBay (bayOf tile)) a := by
    unfold residueFail
    dsimp only
    generalize hup : (List.range 4).filter (fun a => (getReg s (adderReg (dieOfBay (bayOf tile)))).getLsbD a) = up
    have hmem : i ∈ up := by
      rw [← hup, List.mem_filter, List.mem_range]
      exact ⟨by omega, hbi⟩
    have hpos : 0 < up.length := List.length_pos_of_mem hmem
    have hchosen : up.getD (Config.freeNat s.free % up.length) 0 ∈ up := by
      rw [List.getD_eq_getElem _ _ (Nat.mod_lt _ hpos)]
      exact List.getElem_mem _
    refine ⟨up.getD (Config.freeNat s.free % up.length) 0, ?_, ?_⟩
    · rw [← hup, List.mem_filter, hup] at hchosen
      exact hchosen.2
    · cases up with
      | nil => cases hmem
      | cons => rfl
  obtain ⟨a, hbit, heq⟩ := hup
  refine ⟨a, heq, heq.trans ?_⟩
  have hleft : adderOut (getReg s (adderReg (dieOfBay (bayOf tile)))) a &&& 0xF ≠ 0 := by
    by_cases hai : a = i
    · exact adderOut_left (b := j) (by omega) hj hbj
    · exact adderOut_left (b := i) hai (by omega) hbi
  rw [adderFail_eq (by rw [hreg, hbit]), hreg, if_neg hleft]

end

/-! ## The claim about the residue check -/

section
variable {s : State} {tile l kind : Nat} {f : Frame}

/-- The frames whose use adds, each as it comes in with a wrong addition. -/
theorem exec_wrongFrame (hd : s.svc.dark = false) {i : Instr}
    (h : (kind, i) ∈ [(1, Instr.partialFrame tile f false), (3, .contribFrame tile ⟨f, false⟩), (6, .scalarFrame tile ⟨f, false⟩)]) :
    exec i s = .next (frameIn kind tile f false s) := by
  simp only [List.mem_cons, List.not_mem_nil, or_false, Prod.mk.injEq] at h
  rcases h with ⟨rfl, rfl⟩ | ⟨rfl, rfl⟩ | ⟨rfl, rfl⟩ <;> exact congrArg Host.Outcome.next (alive_light _ hd)

/-- What a wrong addition leaves at a member of a loom on its bays, from the state u in which its frame waits. -/
structure WrongAddition (l tile : Nat) (o : CollOp) (u t : State) : Prop where
  shown : (getReg t 0x00700008).getLsbD 2 = true
  mem : t.mem = u.mem
  inbox : (getTile t tile).inbox = (getTile u tile).inbox
  selfbox : (getTile t tile).selfbox = (getTile u tile).selfbox
  ended : Ended o (getTile t tile)

theorem residueFail_wrong {u : State} {o : CollOp} {i j r : Nat} (hi : (getLoom u l).image = none) (hh : (getLoom u l).holder = true)
    (hrank : (((getLoom u l).cmd.map (·.tiles)).getD [tile])[r]? = some tile) (hr : r / o.perBox = o.g) (hij : i < j) (hj : j < 4)
    (hbi : (getReg u (adderReg (dieOfBay (bayOf tile)))).getLsbD i = true) (hbj : (getReg u (adderReg (dieOfBay (bayOf tile)))).getLsbD j = true) :
    WrongAddition l tile o u (residueFail u l tile o) := by
  obtain ⟨a, hfail, hreport⟩ := residueFail_eq (l := l) (o := o) hij hj hbi hbj
  have hrep := adderReport_reported (residueAborted u l tile o) (dieOfBay (bayOf tile)) a
  have hraise := raiseEvt_reported (drawFree u 1).2 .coll 2 (some l) (dieOfBay (bayOf tile)) 0
  have hlooms := raiseEvt_looms (drawFree u 1).2 .coll 2 (some l) (dieOfBay (bayOf tile)) 0
  have hshow : (getReg (raiseEvt (drawFree u 1).2 .coll 2 (some l) (dieOfBay (bayOf tile)) 0) 0x00700008).getLsbD 2 = true :=
    getLsbD_raiseEvt _ .coll (by decide) ..
  have hshown : (getReg (residueFail u l tile o) 0x00700008).getLsbD 2 = true := by
    rw [hfail]
    exact (adderFail_keepsOrder a (abortColl_keepsOrder l tile o stUncorr (.refl _))).shown 2 hshow
  have htile : getTile (residueFail u l tile o) tile = getTile (residueAborted u l tile o) tile := by rw [hreport, getTile, hrep.tiles, getTile]
  have hmem : (residueFail u l tile o).mem = (residueAborted u l tile o).mem := by rw [hreport, hrep.mem]
  clear hfail hreport hrep hshow
  rw [residueAborted] at htile hmem
  generalize raiseEvt (drawFree u 1).2 .coll 2 (some l) (dieOfBay (bayOf tile)) 0 = w at hraise hlooms htile hmem
  have hloom : getLoom w l = getLoom u l := by
    rw [getLoom, hlooms]
    rfl
  have hsame : getTile w tile = getTile u tile := by
    rw [getTile, hraise.tiles]
    rfl
  have habort : Aborting o l tile w (abortColl w l tile o stUncorr) := abortColl_aborting (by rw [hloom, hi]) (by rw [hloom, hh])
  refine ⟨hshown, hmem.trans ((abortColl_mem ..).trans hraise.mem), ?_, ?_, ?_⟩ <;> rw [htile]
  · rw [habort.inbox, hsame]
  · rw [habort.selfbox, hsame]
  · exact abortColl_ended (by rw [hloom, hi]) (by rw [hloom, hh]) (by rw [hloom]; exact hrank) hr

/-- The frame's credit goes back, and nothing else waits. -/
theorem settleColls_wrong {u v : State} {o : CollOp} (hin : (getTile u tile).inbox = [⟨f, false⟩]) (hself : (getTile u tile).selfbox = [])
    (hnext : nextFrame u l tile = some (false, ⟨f, false⟩, v)) (h : WrongAddition l tile o u v) :
    let t := settleColls l tile settleFuel u
    (getReg t 0x00700008).getLsbD 2 = true ∧ t.mem = u.mem ∧ Ended o (getTile t tile) := by
  rw [settleColls_step (by decide) hnext]
  have hkeep : KeepsOrder v (answerFrame (modLoom (modTile v tile fun t => { t with inbox := t.inbox.erase ⟨f, false⟩ }) l
      fun x => { x with creditsUsed := x.creditsUsed - 1 }) l tile f fkAck) :=
    answerFrame_keepsOrder _ _ _ _ (modLoom_keepsOrder (fun _ => ⟨rfl, rfl, rfl, rfl⟩) (modTile_keepsOrder (fun _ _ hp => hp) (.refl v)))
  have hmem := answerFrame_mem (modLoom (modTile v tile fun t => { t with inbox := t.inbox.erase ⟨f, false⟩ }) l
    fun x => { x with creditsUsed := x.creditsUsed - 1 }) l tile f fkAck
  have htile : getTile (answerFrame (modLoom (modTile v tile fun t => { t with inbox := t.inbox.erase ⟨f, false⟩ }) l
      fun x => { x with creditsUsed := x.creditsUsed - 1 }) l tile f fkAck) tile = { getTile v tile with inbox := [] } := by
    rw [getTile, answerFrame_tiles, modLoom_tiles, ← getTile, getTile_modTile, if_pos rfl, h.inbox, hin]
    simp
  dsimp only
  generalize answerFrame (modLoom (modTile v tile fun t => { t with inbox := t.inbox.erase ⟨f, false⟩ }) l
    fun x => { x with creditsUsed := x.creditsUsed - 1 }) l tile f fkAck = a at hkeep hmem htile
  rw [settleColls_empty l _ (by rw [htile]) (by rw [htile]; exact h.selfbox.trans hself), htile]
  exact ⟨hkeep.shown 2 h.shown, hmem.trans h.mem, h.ended⟩

theorem residueCheck : ResidueCheck := by
  intro s tile l kind f o c bad i h hi hc hop hin hself himg hcheck hst hw s1 hfit hstale huse hadds hh hp hrank hadders
  obtain ⟨hd, -⟩ := id h
  obtain ⟨r, hrank, hr⟩ := hrank
  obtain ⟨a, b, hab, hb, hba, hbb⟩ := hadders
  refine ⟨_, exec_wrongFrame hd hi, ?_⟩
  have hs1 : s1 = boxed s l tile ⟨f, false⟩ := rfl
  clear_value s1
  have htile := getTile_boxed s l tile ⟨f, false⟩
  have hloom := getLoom_boxed s l tile ⟨f, false⟩
  have hmem := boxed_mem s l tile ⟨f, false⟩
  have hregs : (boxed s l tile ⟨f, false⟩).regs = s.regs := (takeDelivered_mem_regs_out s f).2.1
  have hfind := (frameOp_boxed himg hh ⟨f, false⟩ f).trans hop
  rw [frameIn_boxed h hc hh hp]
  rw [← hs1] at htile hloom hmem hregs hfind ⊢
  rw [hin] at htile
  have hnext : nextFrame s1 l tile = some (false, ⟨f, false⟩, residueFail s1 l tile o) := by
    rw [nextFrame_one (m := ⟨f, false⟩) (by rw [htile, hself]) (by rw [htile]; rfl), tryFrame_use hfind hst hw hfit hstale huse,
      if_pos (by simp [hcheck, hadds])]
    rfl
  have hreg : ∀ o, getReg s1 o = getReg s o := fun o => by rw [getReg, hregs, getReg]
  have hwrong : WrongAddition l tile o s1 (residueFail s1 l tile o) :=
    residueFail_wrong (by rw [hloom]; exact himg) (by rw [hloom]; exact hh) (by rw [hloom]; exact hrank) hr hab hb (by rw [hreg, hba]) (by rw [hreg, hbb])
  obtain ⟨hshown, hm, hended⟩ := settleColls_wrong (by rw [htile]; rfl) (by rw [htile, hself]) hnext hwrong
  exact ⟨hshown, hm.trans hmem, hended⟩

end

/-- Settles O25: the data frames and the control frames as they arrive, compressed payloads, and the residue check. -/
theorem frames : Obligations.Frames := ⟨framesArrive, controlFrames, compressedPayloads, residueCheck⟩

end Sys2Proof.Machine
end
